-- ==== Sys2Proof/Word.lean ====
section
/-! DEFINITION. The word types of the Pyruz block and their plainest arithmetic. -/

namespace Sys2Proof

/-- A byte of a packet, a payload or an NVM page. -/
abbrev Byte := BitVec 8

/-- A string of bytes, lowest offset first (R5). -/
abbrev Bytes := List Byte

/-- A command in flight: bits [5:0] its TAG; above them 0 for the host port, or 1 plus the source chip for a command
relayed over the Rope, which has a tag space of its own for each source chip (R367). -/
abbrev Tag := BitVec 13

/-- A 32-bit field or counter. -/
abbrev Word32 := BitVec 32

/-- A 64-bit field: a timestamp, a device identity, a mask of chips. -/
abbrev Word64 := BitVec 64

/-- The tick counter's width (R64). -/
abbrev Ticks := BitVec 48

/-- One more, stopping at all ones: the spec's counters that saturate (LINK_COUNTERS and others). -/
def satInc {w : Nat} (x : BitVec w) : BitVec w :=
  if x = BitVec.allOnes w then x else x + 1

/-- `n` more, stopping at all ones. -/
def satAdd {w : Nat} (x : BitVec w) (n : Nat) : BitVec w :=
  if x.toNat + n ≥ 2 ^ w then BitVec.allOnes w else x + BitVec.ofNat w n

/-- round(x) = floor(x + 1/2) for the quotient of an integer by a positive one (R460). -/
def roundDiv (a : Int) (b : Nat) : Int := (2 * a + b) / (2 * b)

end Sys2Proof
end

