-- ==== Sys2Proof/Syntax.lean ====
section
/-! DEFINITION. The commands of the block: one constructor per row of spec/opcode_table.json. -/

namespace Sys2Proof

/-- The host port's transports (R22). -/
inductive Transport where
  | spi | i2c
  deriving DecidableEq, Repr, Inhabited

/-- The header of a command packet whose bytes have passed checks 1 to 4 of Table 2-8: the transport it came by,
its tag (`Tag`), SECURE and OWNER, its SEQ, and whether its GCM tag verifies under the session's key and full counter
(true for a packet that is not secure) (in part DESIGN CHOICE, log entry 5). -/
structure Hdr where
  via : Transport := .spi
  tag : Tag := 0
  secure : Bool := false
  owner : BitVec 2 := 0
  seq : Byte := 0
  authentic : Bool := true
  deriving DecidableEq, Repr, Inhabited

/-- How a Rope frame reaches the chip (Table 15-3): its port (0 U, 1 D), whether its CRC is good, and its LSEQ, DST and
SRC. -/
structure RopeRx where
  port : BitVec 1
  good : Bool := true
  lseq : BitVec 12 := 0
  dst : Byte := 0xFF
  src : Byte := 0
  deriving DecidableEq, Repr, Inhabited

/-- Topology kinds, coded as Table 15-2. -/
inductive Machine.Topo where
  | none | chain | ring | ringBroken | split
  deriving DecidableEq, Repr, Inhabited

/-- A command of the block (R1): one constructor for each row of the opcode table, in its order. A row that is an ACP command
takes its packet's header and payload; a row that is something that happens takes what the block observes of it (log
entries 4 and 5) (in part DESIGN CHOICE, log entry 4). -/
inductive Instr where
  /-- The host pushes one whole packet over SPI (PUSH) or I²C; it is received when CS rises or at STOP and then
      checked (R25). -/
  | push (via : Transport) (held : Nat) (b : Bytes)
  /-- The host pushes one whole packet over the quad SPI lanes (R25). -/
  | qpush (held : Nat) (b : Bytes)
  /-- The host pulls the oldest pending outbound packet, which leaves the device only once its last CRC byte has been
      clocked out (R27). -/
  | pull (via : Transport) (clocked : Nat)
  /-- The host pulls the oldest pending outbound packet over the quad SPI lanes (R27). -/
  | qpull (clocked : Nat)
  /-- A transport write of a mask byte clears the W1C bits of IRQ_CAUSE and updates IRQ_N (R29). -/
  | clearStatus (via : Transport) (mask : Byte)
  /-- An SPI transaction with an unlisted transport opcode is ignored until CS rises, and DISCARD is set (R24); LINK_STATUS,
      which the table gives no row of its own, drives the status word (R22, log entry 152). -/
  | invalidTransportOpcode (via : Transport) (op : Byte)
  /-- No fragment arrives for 1000 ms, so the fragmented command ends with LENGTH_ERROR (R48). -/
  | fragmentTimeout (tag : Tag)
  /-- A session idle timer expires, the session ends, and SESSION_ENDED is raised (R44). -/
  | sessionIdleTimeout (slot : BitVec 2)
  /-- 10 ms after the DONE of a RESET or of a FW_UPDATE_COMMIT with RESET_NOW became pending without being pulled, the
      reset begins (R61). -/
  | resetReplyTimeout
  /-- NOP echoes its payload in DONE (R34). -/
  | nop (h : Hdr) (p : Bytes)
  /-- DEV_INFO returns identity, revision, firmware version, role and boot data (R1). -/
  | devInfo (h : Hdr) (p : Bytes)
  /-- DEV_STATUS returns power, Belay, thermal, session and model status (R78). -/
  | devStatus (h : Hdr) (p : Bytes)
  /-- LINK_CONFIG without a payload returns the link configuration in force (R29). -/
  | linkConfigRead (h : Hdr) (p : Bytes)
  /-- LINK_CONFIG with a payload sets IRQ_MASK and LOW_EVENTS (R29). -/
  | linkConfigWrite (h : Hdr) (p : Bytes)
  /-- LINK_COUNTERS returns the ten host-port counters (R31). -/
  | linkCounters (h : Hdr) (p : Bytes)
  /-- LINK_COUNTERS with CLEAR returns the host-port counters and clears them when the reply becomes pending (R31). -/
  | linkCountersClear (h : Hdr) (p : Bytes)
  /-- SESSION_OPEN performs the ECDH exchange, derives the session key and replaces any idle session of the slot
      (R378). -/
  | sessionOpen (h : Hdr) (p : Bytes)
  /-- SESSION_CLOSE ends the session once its secure DONE has been pulled (R44). -/
  | sessionClose (h : Hdr) (p : Bytes)
  /-- SESSION_STATUS returns the session state of each owner slot (R44). -/
  | sessionStatus (h : Hdr) (p : Bytes)
  /-- DEV_LABEL_SET writes the label to a spare NVM copy and then writes its commit record (R457). -/
  | devLabelSet (h : Hdr) (p : Bytes)
  /-- DEV_LABEL_GET returns the 32-byte label (R215). -/
  | devLabelGet (h : Hdr) (p : Bytes)
  /-- RESET with KIND 0x01 schedules a CMD_WARM reset (R61). -/
  | resetWarm (h : Hdr) (p : Bytes)
  /-- RESET with KIND 0x02 schedules a CMD_FULL reset (R61). -/
  | resetFull (h : Hdr) (p : Bytes)
  /-- ABORT races the target's commit mark: it stops the target with ABORTED, or receives TOO_LATE (R52). -/
  | abort (h : Hdr) (p : Bytes)
  /-- POWER_STATE_GET returns the power state, domains and wake history (R78). -/
  | powerStateGet (h : Hdr) (p : Bytes)
  /-- POWER_STATE_SET with TARGET BIVOUAC commits a sleep request if the entry conditions hold (R80). -/
  | powerStateSetBivouac (h : Hdr) (p : Bytes)
  /-- POWER_STATE_SET with TARGET WATCH commits a sleep request if the entry conditions hold (R80). -/
  | powerStateSetWatch (h : Hdr) (p : Bytes)
  /-- WAKE_CONFIG sets the watch channels, thresholds, WATCH_RATE and ROPE_WAKE for the next WATCH (R87). -/
  | wakeConfig (h : Hdr) (p : Bytes)
  /-- TICK_ALARM_SET with MODE 0x00 disables the tick alarm (R97). -/
  | tickAlarmDisable (h : Hdr) (p : Bytes)
  /-- TICK_ALARM_SET with MODE 0x01 arms the alarm at an absolute tick value (R97). -/
  | tickAlarmAbsolute (h : Hdr) (p : Bytes)
  /-- TICK_ALARM_SET with MODE 0x02 arms the alarm at an offset from the present tick count (R97). -/
  | tickAlarmRelative (h : Hdr) (p : Bytes)
  /-- TIME_GET returns a timestamp, the boot count and the tick clock source (R66). -/
  | timeGet (h : Hdr) (p : Bytes)
  /-- CLOCK_STATUS returns the clock status word, the fallback count and the XO24 start times (R70). -/
  | clockStatus (h : Hdr) (p : Bytes)
  /-- THERMAL_CONFIG sets the thresholds and throttle settings and restarts every threshold count (R92). -/
  | thermalConfig (h : Hdr) (p : Bytes)
  /-- THERMAL_STATUS returns the governor state, Tj and the entry counts (R91). -/
  | thermalStatus (h : Hdr) (p : Bytes)
  /-- POWER_POLICY without a payload returns the policy in force (R84). -/
  | powerPolicyRead (h : Hdr) (p : Bytes)
  /-- POWER_POLICY with a payload sets IDLE_DWELL, CIM_IDLE_OFF and AUTO_STATE (R84). -/
  | powerPolicyWrite (h : Hdr) (p : Bytes)
  /-- AFE_PIN_ROLE_SET assigns pin roles and units, all or nothing (R124). -/
  | afePinRoleSet (h : Hdr) (p : Bytes)
  /-- AFE_PIN_ROLE_GET returns the roles of a bank's 24 pins (R123). -/
  | afePinRoleGet (h : Hdr) (p : Bytes)
  /-- AFE_CHANNEL_CONFIG sets a channel's stage, rate, reference, leads and limits and reports its readiness (R125).
      -/
  | afeChannelConfig (h : Hdr) (p : Bytes)
  /-- AFE_CHANNEL_GET returns a channel's configuration, readiness and calibration record (R125). -/
  | afeChannelGet (h : Hdr) (p : Bytes)
  /-- AFE_EXCITATION_SET configures an excitation driver (R126). -/
  | afeExcitationSet (h : Hdr) (p : Bytes)
  /-- AFE_LEAD_MEASURE in LOOP mode measures a lead pair and stores half the value for each pin (R137). -/
  | afeLeadMeasureLoop (h : Hdr) (p : Bytes)
  /-- AFE_LEAD_MEASURE in KELVIN mode measures one lead against a sense pin (R137). -/
  | afeLeadMeasureKelvin (h : Hdr) (p : Bytes)
  /-- AFE_LEAD_MEASURE in SET mode stores a given lead value for a pin (R137). -/
  | afeLeadMeasureSet (h : Hdr) (p : Bytes)
  /-- AFE_LEAD_GET returns the stored lead values of a bank (R137). -/
  | afeLeadGet (h : Hdr) (p : Bytes)
  /-- AFE_PAIR_CONFIG with MODE 0x01 declares a redundant pair, which enters UNKNOWN (R144). -/
  | afePairConfigSet (h : Hdr) (p : Bytes)
  /-- AFE_PAIR_CONFIG with MODE 0x00 removes a pair and clears its members' marks (R144). -/
  | afePairConfigRemove (h : Hdr) (p : Bytes)
  /-- AFE_PAIR_STATUS returns the pair state and comparison figures (R144). -/
  | afePairStatus (h : Hdr) (p : Bytes)
  /-- AFE_DIAG returns a bank's channel and driver diagnostics (R140). -/
  | afeDiag (h : Hdr) (p : Bytes)
  /-- AFE_CAL_RUN runs a calibration burst on the named channels and writes their records (R136). -/
  | afeCalRun (h : Hdr) (p : Bytes)
  /-- STREAM_CONFIG with OP set creates or changes a stream entry and allocates its sample buffer (R169). -/
  | streamConfigSet (h : Hdr) (p : Bytes)
  /-- STREAM_CONFIG with OP remove deletes a stream entry and frees its allocation (R169). -/
  | streamConfigRemove (h : Hdr) (p : Bytes)
  /-- STREAM_GET returns a stream's entry, state and sequence (R148). -/
  | streamGet (h : Hdr) (p : Bytes)
  /-- STREAM_START checks the named streams and schedules their common start instant (R152). -/
  | streamStart (h : Hdr) (p : Bytes)
  /-- At the start instant every named stream begins acquiring together (R152). -/
  | streamStartInstant
  /-- STREAM_STOP with WHEN 0x00 stops the streams at once and discards their open frames (R167). -/
  | streamStopNow (h : Hdr) (p : Bytes)
  /-- STREAM_STOP with WHEN 0x01 stops each named stream when its open frame closes (R153). -/
  | streamStopAfterFrame (h : Hdr) (p : Bytes)
  /-- SPORT_CONFIG sets a sensor port to DISABLED, TDM or SPI mode (R155). -/
  | sportConfig (h : Hdr) (p : Bytes)
  /-- SPORT_GET returns a port's configuration and state, or the tach and encoder states (R156). -/
  | sportGet (h : Hdr) (p : Bytes)
  /-- TACH_CONFIG configures a tach input (R158). -/
  | tachConfig (h : Hdr) (p : Bytes)
  /-- ENC_CONFIG configures the quadrature encoder (R159). -/
  | encConfig (h : Hdr) (p : Bytes)
  /-- STREAM_COUNTERS returns the fabric and per-stream loss counters (R163). -/
  | streamCounters (h : Hdr) (p : Bytes)
  /-- STREAM_COUNTERS with CLEAR returns the counters and clears them when the reply becomes pending (R163). -/
  | streamCountersClear (h : Hdr) (p : Bytes)
  /-- STREAM_SNAPSHOT copies the next frame of a stream to close and returns its samples (R168). -/
  | streamSnapshot (h : Hdr) (p : Bytes)
  /-- FEAT_CONFIG with OP set sets a stream's feature blocks (R192). -/
  | featConfigSet (h : Hdr) (p : Bytes)
  /-- FEAT_CONFIG with OP remove removes a stream's feature configuration (R192). -/
  | featConfigRemove (h : Hdr) (p : Bytes)
  /-- FEAT_GET returns a stream's feature, order, state and band configurations (R192). -/
  | featGet (h : Hdr) (p : Bytes)
  /-- FEAT_ORDER_CONFIG sets the order-tracking reference of a stream (R178). -/
  | featOrderConfig (h : Hdr) (p : Bytes)
  /-- FEAT_BANDS_SET sets or removes a stream's band set (R176). -/
  | featBandsSet (h : Hdr) (p : Bytes)
  /-- FEAT_STATE_CONFIG sets or removes a stream's machine-state rules (R186). -/
  | featStateConfig (h : Hdr) (p : Bytes)
  /-- FEAT_FRAME_READ returns a stream's latest feature frame (R188). -/
  | featFrameRead (h : Hdr) (p : Bytes)
  /-- BELT_POSITION_GET returns the belt position quantities and splice counters (R180). -/
  | beltPositionGet (h : Hdr) (p : Bytes)
  /-- BELT_CONFIG with OP 0x00 makes the position state UNCONFIGURED (R180). -/
  | beltConfigDisable (h : Hdr) (p : Bytes)
  /-- BELT_CONFIG with OP 0x01 sets the splice table and zeroes the position, making it UNSYNCED (R180). -/
  | beltConfigSet (h : Hdr) (p : Bytes)
  /-- BELT_CONFIG with OP 0x02 declares the splice index and makes the position SYNCED (R182). -/
  | setIndex (h : Hdr) (p : Bytes)
  /-- BELT_CONFIG with OP 0x03 sets ENC_COUNT to 0 (R180). -/
  | beltClearCount (h : Hdr) (p : Bytes)
  /-- MODEL_LOAD BEGIN reserves a model slot and NVM pages and sets the provisional owner (R227). -/
  | modelLoadBegin (h : Hdr) (p : Bytes)
  /-- MODEL_LOAD DATA programs image bytes at the expected offset; the last byte makes the slot RECEIVED (R228). -/
  | modelLoadData (h : Hdr) (p : Bytes)
  /-- MODEL_LOAD ABANDON frees the pages and empties the slot (R228). -/
  | modelLoadAbandon (h : Hdr) (p : Bytes)
  /-- MODEL_VERIFY checks the image in order and makes it VERIFIED, or empties the slot (R238). -/
  | modelVerify (h : Hdr) (p : Bytes)
  /-- MODEL_PLACE places the model by the four-step rule and writes its arrays (R244). -/
  | modelPlace (h : Hdr) (p : Bytes)
  /-- MODEL_PLACE with a Ridge request places the model's pitches or shards across the Rope (R243). -/
  | modelPlaceRidge (h : Hdr) (p : Bytes) (others : Option (Byte × Byte × Bytes))
  /-- MODEL_UNLOAD stops the model if it is running and releases its resources (R251). -/
  | modelUnload (h : Hdr) (p : Bytes)
  /-- MODEL_PLACEMENT_GET returns the placement header and layer entries (R239). -/
  | modelPlacementGet (h : Hdr) (p : Bytes)
  /-- MODEL_LIST returns the eight model slots (R227). -/
  | modelList (h : Hdr) (p : Bytes)
  /-- MODEL_START checks the bound streams and makes the model RUNNING (R252). -/
  | modelStart (h : Hdr) (p : Bytes)
  /-- MODEL_STOP stops frame intake, completes the jobs in flight and makes the model PLACED (R264). -/
  | modelStop (h : Hdr) (p : Bytes)
  /-- MODEL_REPLACE places a new model and switches the bindings to it at a frame boundary (R250). -/
  | modelReplace (h : Hdr) (p : Bytes)
  /-- MODEL_BIND_STREAMS replaces a model's stream binding (R252). -/
  | modelBindStreams (h : Hdr) (p : Bytes)
  /-- JOB_SUBMIT runs a host frame through a model and returns the result (R274). -/
  | jobSubmit (h : Hdr) (p : Bytes)
  /-- RESULT_READ returns results from a sequence number and marks them delivered (R270). -/
  | resultRead (h : Hdr) (p : Bytes)
  /-- RESULT_PIN pins a result against overwrite (R270). -/
  | resultPin (h : Hdr) (p : Bytes)
  /-- RESULT_UNPIN unpins a result (R270). -/
  | resultUnpin (h : Hdr) (p : Bytes)
  /-- RM_STATUS returns the Resource Manager's resource status (R255). -/
  | rmStatus (h : Hdr) (p : Bytes)
  /-- RM_COUNTERS returns a model's counters (R265). -/
  | rmCounters (h : Hdr) (p : Bytes)
  /-- RM_COUNTERS with CLEAR returns a model's counters and clears them when the reply becomes pending (R265). -/
  | rmCountersClear (h : Hdr) (p : Bytes)
  /-- RM_SHARE_SET reads or sets the owners' scheduling shares (R261). -/
  | rmShareSet (h : Hdr) (p : Bytes)
  /-- QUEUE_STATUS returns the depth, level and high mark of each queue (R265). -/
  | queueStatus (h : Hdr) (p : Bytes)
  /-- QUEUE_STATUS with CLEAR_HIGH returns the queue levels and clears the high marks (R265). -/
  | queueStatusClearHigh (h : Hdr) (p : Bytes)
  /-- RESULT_SUBSCRIBE selects which results of a model raise RESULT events (R271). -/
  | resultSubscribe (h : Hdr) (p : Bytes)
  /-- HEAD_CONFIG sets a head record, which takes effect before the head's next operation (R305). -/
  | headConfig (h : Hdr) (p : Bytes)
  /-- HEAD_GET returns a head's status block and records (R293). -/
  | headGet (h : Hdr) (p : Bytes)
  /-- REWARD with MODE 0x00 cancels the held reward (R286). -/
  | rewardCancel (h : Hdr) (p : Bytes)
  /-- REWARD with MODE 0x01 schedules one immediate weight update after the steps already queued (R291). -/
  | rewardImmediate (h : Hdr) (p : Bytes)
  /-- REWARD with MODE 0x02 holds a reward value for the next DURATION learning steps (R286). -/
  | rewardHeld (h : Hdr) (p : Bytes)
  /-- MODULATOR_CONFIG sets a head's modulator record (R305). -/
  | modulatorConfig (h : Hdr) (p : Bytes)
  /-- HEAD_FREEZE sets the COMMAND freeze bit and cancels the head's queued steps (R293). -/
  | headFreeze (h : Hdr) (p : Bytes)
  /-- HEAD_RESUME clears the COMMAND freeze bit, and restarts the settle period if RESTART_SETTLE is set (R294). -/
  | headResume (h : Hdr) (p : Bytes)
  /-- HEAD_SAVE snapshots a head and programs its saved image (R299). -/
  | headSave (h : Hdr) (p : Bytes)
  /-- HEAD_RESTORE loads a head from its current copy, its previous copy or its initial state (R301). -/
  | headRestore (h : Hdr) (p : Bytes)
  /-- HEAD_EXPORT returns the head's current copy as an encrypted blob, saving first if asked (R302). -/
  | headExport (h : Hdr) (p : Bytes)
  /-- HEAD_IMPORT checks a blob, writes it as the head's next copy and loads it (R302). -/
  | headImport (h : Hdr) (p : Bytes)
  /-- HEAD_CONSOLIDATE requests a consolidated copy of a head in arrays (R295). -/
  | headConsolidate (h : Hdr) (p : Bytes)
  /-- HEAD_STATS returns a head's counters (R282). -/
  | headStats (h : Hdr) (p : Bytes)
  /-- HEAD_STATS with CLEAR returns a head's counters and clears them, except EPOCHS (R282). -/
  | headStatsClear (h : Hdr) (p : Bytes)
  /-- HEAD_RESET with OP 0x00 reloads the initial state and erases the head's slot pair (R304). -/
  | headReset (h : Hdr) (p : Bytes)
  /-- HEAD_RESET with OP 0x01 erases an orphan's slot pair (R304). -/
  | headEraseOrphan (h : Hdr) (p : Bytes)
  /-- HOUT_MAP reads or replaces the output and asset map (R331). -/
  | houtMap (h : Hdr) (p : Bytes)
  /-- HOUT_GET returns each output's level and code and each asset's state (R330). -/
  | houtGet (h : Hdr) (p : Bytes)
  /-- BELAY_CONFIG reads or sets the Belay configuration (R344). -/
  | belayConfig (h : Hdr) (p : Bytes)
  /-- BELAY_ARM moves Belay from DISARMED to ARMED, raising BELAY_OK (R342). -/
  | belayArm (h : Hdr) (p : Bytes)
  /-- BELAY_DISARM moves Belay to DISARMED from ARMED, STOPPED or REARM (R335). -/
  | belayDisarm (h : Hdr) (p : Bytes)
  /-- BELAY_TRIP makes a trip request with cause COMMAND, optionally immediate (R336). -/
  | belayTrip (h : Hdr) (p : Bytes)
  /-- BELAY_ABORT_HOLD returns Belay from HOLD to ARMED before the window ends (R337). -/
  | belayAbortHold (h : Hdr) (p : Bytes)
  /-- BELAY_REARM with OP 0x01 enters REARM from STOPPED (R342). -/
  | belayRearm (h : Hdr) (p : Bytes)
  /-- BELAY_REARM with OP 0x02 declares a stop after BELAY_NO_DECEL, moving Belay to STOPPED (R343). -/
  | belayDeclareStop (h : Hdr) (p : Bytes)
  /-- BELAY_STATUS returns the Belay state, causes, speeds and counters (R334). -/
  | belayStatus (h : Hdr) (p : Bytes)
  /-- ALARM_SET with OP 0x00 sets ALARM_MASK (R333). -/
  | alarmSetMask (h : Hdr) (p : Bytes)
  /-- ALARM_SET with OP 0x01 sets the HOST alarm cause (R333). -/
  | alarmSetHost (h : Hdr) (p : Bytes)
  /-- ALARM_SET with OP 0x02 clears the HOST alarm cause (R333). -/
  | alarmClearHost (h : Hdr) (p : Bytes)
  /-- ALARM_SET with OP 0x03 clears the selected latched alarm causes (R333). -/
  | alarmAcknowledge (h : Hdr) (p : Bytes)
  /-- ROPE_STATUS returns the role, index, topology and port states (R348). -/
  | ropeStatus (h : Hdr) (p : Bytes)
  /-- ROPE_ENUMERATE makes the head enumerate the Rope again (R352). -/
  | ropeEnumerate (h : Hdr) (p : Bytes)
  /-- ROPE_DETACH sends DETACH, turns PD11 off and runs the chip alone (R15). -/
  | ropeDetach (h : Hdr) (p : Bytes)
  /-- ROPE_ATTACH powers PD11 and trains both ports (R348). -/
  | ropeAttach (h : Hdr) (p : Bytes)
  /-- ROPE_RELAY carries one ACP command to a remote chip and returns its terminal reply (R367). -/
  | ropeRelay (h : Hdr) (p : Bytes)
  /-- ROPE_TOPOLOGY_GET returns the topology and the chip entries (R369). -/
  | ropeTopologyGet (h : Hdr) (p : Bytes)
  /-- ROPE_RETRAIN retrains a port with the allowed lanes (R349). -/
  | ropeRetrain (h : Hdr) (p : Bytes)
  /-- ROPE_COUNTERS returns the per-port link counters (R358). -/
  | ropeCounters (h : Hdr) (p : Bytes)
  /-- ROPE_COUNTERS with CLEAR returns the link counters and clears them (R358). -/
  | ropeCountersClear (h : Hdr) (p : Bytes)
  /-- OWNER_PROVISION opens a sealed key package, draws keys and installs an owner (R377). -/
  | ownerProvision (h : Hdr) (p : Bytes)
  /-- OWNER_REMOVE commits the key store without the slot and releases everything of that owner (R388). -/
  | ownerRemove (h : Hdr) (p : Bytes)
  /-- OWNER_LIST returns the state, fingerprint and Rope check value of each slot (R373). -/
  | ownerList (h : Hdr) (p : Bytes)
  /-- ATTEST returns a DIK-signed attestation report, with the certificate if asked (R389). -/
  | attest (h : Hdr) (p : Bytes)
  /-- EPOCH_ROLL saves the owner's heads, rolls the owner's epoch and reloads the heads (R382). -/
  | epochRoll (h : Hdr) (p : Bytes)
  /-- DEBUG_CHALLENGE issues a new live debug-open challenge (R392). -/
  | debugChallenge (h : Hdr) (p : Bytes)
  /-- DEBUG_OPEN checks the signatures, runs the debug-open erase and grants debug (R393). -/
  | debugOpen (h : Hdr) (p : Bytes)
  /-- KEY_ROTATE replaces the selected keys of the session's owner (R375). -/
  | keyRotate (h : Hdr) (p : Bytes)
  /-- TRNG_READ returns bytes from the DRBG (R389). -/
  | trngRead (h : Hdr) (p : Bytes)
  /-- CAIRN_INFO returns the record's sequence state, signed if a nonce is given (R396). -/
  | cairnInfo (h : Hdr) (p : Bytes)
  /-- CAIRN_READ returns circular entries with their statuses, signed if asked (R411). -/
  | cairnRead (h : Hdr) (p : Bytes)
  /-- CAIRN_READ_PINNED returns pinned entries with their statuses (R411). -/
  | cairnReadPinned (h : Hdr) (p : Bytes)
  /-- CAIRN_MARK queues a HOST_MARK entry, subject to the hourly limit (R412). -/
  | cairnMark (h : Hdr) (p : Bytes)
  /-- CAIRN_REMOTE_READ reads another chip's Cairn over the Rope (R413). -/
  | cairnRemoteRead (h : Hdr) (p : Bytes)
  /-- CAL_RUN runs a whole-core recalibration on each named core (R314). -/
  | calRun (h : Hdr) (p : Bytes)
  /-- CAL_STATUS returns each core's bands and calibration state (R315). -/
  | calStatus (h : Hdr) (p : Bytes)
  /-- SELFTEST_RUN with KIND 0x01 runs the quick self-test on the named cores (R317). -/
  | selftestRunQuick (h : Hdr) (p : Bytes)
  /-- SELFTEST_RUN with KIND 0x02 runs the full self-test on the named cores (R318). -/
  | selftestRunFull (h : Hdr) (p : Bytes)
  /-- SELFTEST_RESULT returns the last self-test results of each core (R318). -/
  | selftestResult (h : Hdr) (p : Bytes)
  /-- WEAR_STATUS returns the wear plan and every array's account (R308). -/
  | wearStatus (h : Hdr) (p : Bytes)
  /-- WEAR_CONFIG reads or sets LIFE_DAYS and BANK_DAYS, adds days and recomputes the allowances (R308). -/
  | wearConfig (h : Hdr) (p : Bytes)
  /-- CORE_STATUS returns each core's health and fence cause (R320). -/
  | coreStatus (h : Hdr) (p : Bytes)
  /-- CORE_FENCE with OP 0x01 fences a core with cause 0x07 (R322). -/
  | coreFence (h : Hdr) (p : Bytes)
  /-- CORE_FENCE with OP 0x02 tests a fenced core and returns it to service if it passes (R323). -/
  | coreUnfence (h : Hdr) (p : Bytes)
  /-- CLIP_COUNTERS returns the per-array clip and conversion counts (R321). -/
  | clipCounters (h : Hdr) (p : Bytes)
  /-- CLIP_COUNTERS with CLEAR returns the clip counts and clears them (R321). -/
  | clipCountersClear (h : Hdr) (p : Bytes)
  /-- FW_UPDATE_BEGIN marks the other firmware slot WRITING and erases it (R101). -/
  | fwUpdateBegin (h : Hdr) (p : Bytes)
  /-- FW_UPDATE_DATA programs image bytes at the expected offset (R117). -/
  | fwUpdateData (h : Hdr) (p : Bytes)
  /-- FW_UPDATE_COMMIT verifies the image, marks the slot TRIAL and selects it, resetting if asked (R102). -/
  | fwUpdateCommit (h : Hdr) (p : Bytes)
  /-- FW_SLOT_STATUS returns both slots, the SVN floor and the slot capacity (R101). -/
  | fwSlotStatus (h : Hdr) (p : Bytes)
  /-- NVM_STATUS returns the NVM buffer state and counters (R217). -/
  | nvmStatus (h : Hdr) (p : Bytes)
  /-- NVM_REGION_INFO returns the NVM region entries (R216). -/
  | nvmRegionInfo (h : Hdr) (p : Bytes)
  /-- VIN rises through V_POR: PD0 powers up, the tick counter starts at 0 and the device boots (R64). -/
  | powerOnReset (slow : Bool)
  /-- VIN falls below V_BOR: the NVM path moves to VHOLD, PD1 to PD23 are reset and the POWER_LOSS entry is written
      (R119). -/
  | brownoutDetect (programs : List (Nat × Nat))
  /-- VIN has stayed above V_BOR plus 100 mV for 10 ms, and the brownout reset is released (R109). -/
  | brownoutRelease
  /-- VIN falls below V_POR with VHOLD exhausted; the device goes OFF and its outputs fall (R12). -/
  | powerOff
  /-- RESET_N held low for 1 µs or longer starts a RESET_PIN reset (R109). -/
  | resetPinAssert
  /-- RESET_N rises, and the reset it held is released (R109). -/
  | resetPinRelease
  /-- Once every posted NVM write has been programmed, the reset takes effect on PD1 to PD23 (R116). -/
  | resetTakeEffect
  /-- The Anchor sensor reads 115 °C or less, and the thermal reset is released (R109). -/
  | thermalResetRelease
  /-- The watchdog expires and causes a WATCHDOG reset with a Cairn entry (R114). -/
  | watchdogExpiry
  /-- A control-core exception stops the firmware and restarts it, or at the fourth within 60 s causes an
      EXCEPTION_LIMIT reset (R118). -/
  | controlCoreException (code : Word32)
  /-- The restarted firmware becomes ready, ends the in-flight commands with INTERNAL and queues FW_RESTARTED and
      DEVICE_READY (R39). -/
  | firmwareRestartDone
  /-- At reset release the boot ROM runs, replays the Cairn journal and checks the erase-pending flag (R98). -/
  | bootRomStart (straps : BitVec 4) (programs : Vector (Nat × Nat) 4)
  /-- An interrupted debug-open erase is completed before firmware is authenticated (R104). -/
  | erasePendingComplete
  /-- Firmware authentication ends, selecting a slot for INIT or entering FAILED (R101). -/
  | authComplete
  /-- The firmware reaches READY: BOOT_COUNT is incremented, the boot entry is written and Belay resumes from its
      record (R100). -/
  | deviceReady
  /-- The 1000 ms boot guard expires before READY with the record ARMED, so Belay trips with cause BOOT_GUARD (R113).
      -/
  | bootGuardExpiry
  /-- VHOLD crosses a HOLDUP_OK threshold, and HOLDUP_OK changes (R105). -/
  | vholdThreshold (mv : BitVec 16)
  /-- 1000 ms after READY the NVM program hold ends, whatever the state of VHOLD (R105). -/
  | holdupHoldEnd
  /-- An interval of 32 768 LPRC periods ends and the XO32 edge count is tested for qualification (R452). -/
  | xo32QualifyInterval (edges : Nat)
  /-- No XO32 edge arrives within 8 LPRC periods, and the tick counter moves to LPRC (R68). -/
  | xo32EdgeLoss
  /-- Every 60 s on LPRC, XO32 is tried again (R68). -/
  | xo32Retry
  /-- XO32 has not qualified 3 s after PD0 powered up, and is declared absent (R69). -/
  | xo32Absent
  /-- XO24 qualifies, the PLLs start and the domains that were waiting are powered (R70). -/
  | xo24Qualified (us : Nat)
  /-- XO24 has not qualified 2.5 ms after its enable; it is retried once, then XO24_FAIL is set (R70). -/
  | xo24QualifyTimeout
  /-- After XO24_FAIL, XO24 is tried again at the next request, at most once every 10 s (R70). -/
  | xo24Retry
  /-- A running XO24 stops: every PLL block halts and jobs are abandoned (R458). -/
  | xo24Stopped
  /-- A PLL achieves lock and its clocked blocks may start (R71). -/
  | pllLocked (pll : BitVec 2)
  /-- A PLL loses lock: its blocks stop, jobs are abandoned and the PLL relocks, or is failed after three losses
      (R72). -/
  | pllLockLoss (pll : BitVec 2)
  /-- The tick counter equals the alarm value: TICK_ALARM is raised, a periodic alarm re-arms, and a sleeping device
      wakes (R97). -/
  | tickAlarmFire
  /-- WAKE_N is seen low at a tick edge during sleep, and a wake starts (R86). -/
  | wakeNLow
  /-- An RMS block completes a run of COUNT blocks at or above THRESH, and a wake starts at the next tick edge (R87).
      -/
  | watchThresholdFire (channel : BitVec 5) (samples : List Int)
  /-- Activity of 10 µs or more on a Rope receive lane starts a wake (R88). -/
  | ropeSquelchWake
  /-- Every domain that can be powered is on after a wake: heads are restored, streams resume and WOKE is raised
      (R89). -/
  | wakeComplete
  /-- The device has been idle for IDLE_DWELL, so automatic sleep entry begins (R84). -/
  | autoSleepDwellExpiry
  /-- After the POWER_STATE_SET DONE has been pulled or 10 ms have passed, sleep entry begins (R80). -/
  | sleepEntryStart
  /-- After queues drain, heads are saved and posted writes complete, the domains go off and the device sleeps (R81).
      -/
  | sleepEntryComplete (us : Nat)
  /-- Every 1 ms the governor samples the sensors and updates the thresholds, the state and each core's selected band
      (R92). -/
  | governorSample (cores : Vector Int 8) (engine anchor : Int)
  /-- In sleep, the Anchor reads its sensor on the 1 s tick grid for the shutdown check (R95). -/
  | anchorTempSample (anchor : Int)
  /-- A power-domain switch completes and the sequencer grants the domain or takes it off (R74). -/
  | domainSwitchDone (us va30 : Nat) (milli : Int)
  /-- A domain's idle timer expires (PD3, PD9, or CIM_IDLE_OFF for a core) and it is switched off (R90). -/
  | domainIdleRelease (domain : BitVec 5)
  /-- A sample arrives at a stream FIFO, or is lost and counted if the FIFO is full (R163). -/
  | sampleArrival (stream : BitVec 7) (picovolts : Int) (drive sense : Nat) (overload : Bool)
  /-- The fabric moves a 16-sample line, or a burst's remainder, from a FIFO to the sample buffer (R160). -/
  | fabricTransaction (stream : BitVec 7) (rest : Bool)
  /-- A driver's current limit has stayed engaged for 1 ms, so EXC_LIMIT is set and AFE_EXC_LIMIT is raised (R127). -/
  | excLimitEngaged (d : BitVec 3)
  /-- A driver's current limit has been released for 1 ms, so EXC_LIMIT clears (R127). -/
  | excLimitReleased (d : BitVec 3)
  /-- A BURST_ONLY driver's SETTLE time ends, and the calibration burst begins (R149). -/
  | driverSettleDone (d : BitVec 3)
  /-- A frame starts in a free slot at its scheduled time, or is skipped and counted (R151). -/
  | frameStart (stream : BitVec 7)
  /-- A calibration burst completes, its results become the calibration record and the measurement burst begins
      (R136). -/
  | calBurstComplete (channel : BitVec 5) (raws : List Int) (step lead drive sense : Nat)
  /-- A frame closes at FRAME_LEN or REVS: its descriptor and flags are completed and the channel status is updated
      (R150). -/
  | frameClose (stream : BitVec 7)
  /-- A TDM frame sync arrives and the port receives its slots; 16 good periods restore a LOST port (R154). -/
  | tdmFrameSync (port : BitVec 2) (rising : Bool) (onRise onFall : List Bool) (hz : Nat)
  /-- No frame sync arrives within four periods: the port is LOST, open frames close PARTIAL and the streams wait
      (R156). -/
  | sportLost (port : BitVec 2)
  /-- A polled SPI sensor's timer falls due and the sensor is polled (R157). -/
  | spiPoll (port : BitVec 2) (sensor : Nat) (reply : Bytes)
  /-- A filtered tach edge is counted and timestamped; Belay coast deceleration is tested against it (R158). -/
  | tachEdge (tach : BitVec 2) (rising : Bool) (held ns : Nat)
  /-- A tach input has had no counted edge for LOSS_TIMEOUT and becomes IDLE (R158). -/
  | tachIdle (tach : BitVec 2)
  /-- A quadrature encoder edge is decoded and updates the belt count (R159). -/
  | encEdge (a b : Bool) (held ns : Nat)
  /-- An ENC_Z pulse is judged against the splice gap table and updates the splice index and sync state (R181). -/
  | spliceMark (high : Bool) (held : Nat)
  /-- The encoder has had no edge for LOSS_TIMEOUT and becomes IDLE, or LOST if the check tach is active (R159). -/
  | encIdle
  /-- The encoder's speed disagrees with the check tach beyond SLIP_MAX over 1 s, so the encoder is LOST (R183). -/
  | encoderSlip
  /-- The encoder has been active and agreeing for 1 s and is restored (R183). -/
  | encoderRestored
  /-- No partner frame closes within half a frame period, so the frame pair is skipped (R142). -/
  | pairPartnerTimeout (pair : BitVec 4)
  /-- A commanded lead measurement completes and its value is stored (R137). -/
  | leadMeasureDone (picovolts : Nat)
  /-- The feature engine takes the oldest closed frame once the feature queue has room and computes its feature frame
      (R171). -/
  | featureFrameTake
  /-- The Resource Manager takes the head feature frame into the inference queue once room exists, writes an unscored
      result, or discards it (R256). -/
  | featureQueueRoute
  /-- A job starts when a slot, a selected model and job space are available (R258). -/
  | jobStart
  /-- A job's next layer is dispatched when its unit, array or core becomes available (R259). -/
  | layerDispatch
  /-- A CIM layer pass completes on a core (R204). -/
  | cimPassDone (core : BitVec 3) (parityOk : Bool)
  /-- A stream-engine layer completes for a batch (R226). -/
  | streamLayerDone
  /-- A vector-unit layer completes (R235). -/
  | vectorLayerDone
  /-- A head forward pass completes on the plasticity engine (R279). -/
  | protoForwardDone
  /-- The Belay controller applies a result to its assets, updating values, alarms and trip runs (R326). -/
  | assetUpdate
  /-- The HOLD window ends: Belay commits to TRIPPED, or is released by recheck (R337). -/
  | confirmWindowEnd
  /-- The coast timer ends before STOPPED: BELAY_NO_DECEL is raised, or STOPPED is entered without a coast tach
      (R340). -/
  | coastTimerEnd
  /-- The speed has stayed at or below STOP_SPEED for STOP_DWELL, and Belay becomes STOPPED (R339). -/
  | stopDwellEnd
  /-- The belt has moved above STOP_SPEED for STOP_DWELL in STOPPED, so BELAY_MOTION is raised (R341). -/
  | motionDwellEnd
  /-- REARM_MS elapses with the conditions held, so Belay becomes ARMED and the start guard and holdoff begin (R342).
      -/
  | rearmTimerEnd
  /-- The start guard ends and asset trips are tested again (R342). -/
  | startGuardEnd
  /-- The plasticity engine processes a learning step: traces, candidates, modulator and update (R284). -/
  | learningStep (head : BitVec 2)
  /-- An immediate reward's weight update runs after the steps queued before it (R291). -/
  | rewardUpdate (head : BitVec 2)
  /-- A head's settle period ends and its SETTLE freeze bit clears (R294). -/
  | settlePeriodEnd (head : BitVec 2)
  /-- A head's holdoff period ends and its HOLDOFF bit clears (R294). -/
  | holdoffPeriodEnd (head : BitVec 2)
  /-- A head save's commit record is programmed and HEAD_SAVED is raised (R299). -/
  | headSaveCommit (head : BitVec 2)
  /-- After its arrays are written and recalibrated, a consolidated copy comes into force at a frame boundary (R296).
      -/
  | consolidationInForce (head : BitVec 2)
  /-- An array write completes and its recalibration and signature follow (R205). -/
  | arrayWriteDone (array : BitVec 6) (stuck : List (BitVec 8)) (residual : Nat) (outside : Bool) (bad : Nat)
  /-- A triggered recalibration of an array or core runs and applies its corrections (R314). -/
  | recalibration (core : BitVec 3) (residual : Nat) (outside : Bool) (bad : List (BitVec 3))
  /-- The quick self-test runs before a core's first pass after wake or reset (R317). -/
  | quickSelftest (core : BitVec 3) (ok : Bool)
  /-- A due full self-test runs at a core's job boundary and marks FAILING columns (R318). -/
  | fullSelftest (core : BitVec 3) (quickOk otherOk : Bool) (failing : List (BitVec 3 × Nat))
  /-- A window of 2^24 conversions ends and is tested for anomalous clipping (R321). -/
  | clipWindowEnd (array : BitVec 6)
  /-- Each hour of powered time, balances accrue and rotation sets whose rate exceeds their allowance are withdrawn
      (R312). -/
  | wearHourlyAccrual
  /-- Each 86 400 s of powered time, DAYS_USED rises and the accounts are written (R308). -/
  | wearDayBoundary
  /-- The NVM starts its next operation in priority order when the previous one ends (R456). -/
  | nvmOperationStart
  /-- A page program completes, or is retried, remapped or failed (R218). -/
  | nvmProgramDone (bad us : Nat)
  /-- A sector erase completes (R219). -/
  | nvmEraseDone (ok : Bool) (us : Nat)
  /-- The commit engine commits the next queued entry in two phases (R405). -/
  | cairnCommit (programs : Vector (Nat × Nat) 6)
  /-- A TRNG health test fails and random-dependent commands are refused (R389). -/
  | trngHealthFail (repetition : Bool)
  /-- Each second, the TRNG start-up test is retried and service is restored if it passes (R389). -/
  | trngRetry (passed : Bool)
  /-- The live debug challenge expires 60 s after issue (R392). -/
  | debugChallengeExpiry
  /-- TRST_N or TMS returns the TAP to test-logic reset with IDCODE selected (R390). -/
  | tapReset
  /-- The BYPASS instruction selects the 1-bit register (R390). -/
  | bypass (opcode : BitVec 5) (tdi : List Bool)
  /-- The IDCODE instruction shifts out 0x2649_655D (R390). -/
  | idcode (tdi : List Bool)
  /-- SAMPLE/PRELOAD samples and preloads the boundary register (R390). -/
  | samplePreload (pins tdi : List Bool)
  /-- EXTEST drives the pins from the boundary register while RESET_N is low (R391). -/
  | extest (pins tdi : List Bool)
  /-- HIGHZ floats the pins while RESET_N is low (R391). -/
  | highz (pins tdi : List Bool)
  /-- CLAMP holds the pins at the preloaded values while RESET_N is low (R391). -/
  | clamp (pins tdi : List Bool)
  /-- DBG_CHAL shifts out a new debug challenge (R392). -/
  | dbgChal (tdi : List Bool)
  /-- DBG_OPEN shifts in an opening payload, which runs the debug-open erase and grants debug (R393). -/
  | dbgOpen (tdi : List Bool)
  /-- DBG_ACCESS performs a debug access while debug is open (R394). -/
  | dbgAccess (tdi : List Bool)
  /-- A TRAIN frame arrives on a port and is answered with TRAIN_ACK, or starts a retrain (R348). -/
    | train (r : RopeRx) (deviceId : Word64) (bootCount : Word32) (index : Byte) (lanes : BitVec 2) (credits : Vector
      (BitVec 16) 4)
  /-- A TRAIN_ACK arrives and the link becomes UP or UP_1LANE (R348). -/
  | trainAck (r : RopeRx) (lanes : BitVec 2)
  /-- A training attempt is not complete within 10 ms and fails, falling back to one lane or to IDLE or LOST (R348).
      -/
  | trainingAttemptTimeout (port : BitVec 1)
  /-- An active lane loses code-group synchronisation and the port retrains or drops the lane (R349). -/
  | laneSyncLoss (port : BitVec 1) (lane : BitVec 1)
  /-- No activity for 1 ms after a loss of synchronisation makes the port LOST (R349). -/
  | squelchSilence (port : BitVec 1)
  /-- The head sends ENUM with index 1, 10 ms after READY or when ROPE_D becomes UP (R352). -/
  | enumStart
  /-- An ENUM arrives: a member takes the index and forwards it, or the head detects a ring, or another head sends
      HEAD_CONFLICT (R352). -/
  | enum (r : RopeRx) (index : Nat) (headId : Word64) (ids : List Word64)
  /-- ENUM_END reaches the head with the chain count (R352). -/
  | enumEnd (r : RopeRx) (count : Nat) (ids : List Word64)
  /-- A TOPOLOGY broadcast arrives and the chip becomes enumerated with the new topology (R352). -/
  | topology (r : RopeRx) (gen : Byte) (kind : Machine.Topo) (count : Nat) (lost : Word64) (ids : List Word64)
  /-- A head receives HEAD_CONFLICT and withdraws every index it gave (R353). -/
  | headConflict (r : RopeRx)
  /-- A member's ROPE_U has been UP for 2 s without ENUM, so ROPE_FAULT 0x01 is raised (R354). -/
  | noEnumTimeout
  /-- Every 10 ms the head broadcasts HEARTBEAT (R356). -/
  | heartbeatSend
  /-- A member receives HEARTBEAT (R356). -/
  | heartbeat (r : RopeRx) (gen : Byte)
  /-- A member has had no HEARTBEAT for 1 s, so it loses its index and releases its pitches (R356). -/
  | heartbeatLoss
  /-- The head receives LINK_LOST and decides a new topology (R369). -/
  | linkLost (r : RopeRx) (port : BitVec 1) (chip : Byte)
  /-- The head receives JOIN and enumerates again (R355). -/
  | join (r : RopeRx) (port : BitVec 1)
  /-- A neighbour's SLEEP frame marks the port ASLEEP (R368). -/
  | sleep (r : RopeRx)
  /-- A neighbour's DETACH marks the port LOST (R369). -/
  | detach (r : RopeRx)
  /-- An ASLEEP port is not UP within 10 ms of a wake burst, so the held frame is discarded (R368). -/
  | wakeBurstTimeout (port : BitVec 1)
  /-- The head broadcasts ROUND once every chip is done and frames are waiting (R364). -/
  | circulationRoundStart (slot : BitVec 3)
  /-- A chip receives ROUND, takes its batch as one job and injects its shard (R364). -/
  | round (r : RopeRx) (slot : BitVec 3) (round : Word32)
  /-- The head receives a chip's ROUND_DONE (R364). -/
  | roundDone (r : RopeRx) (slot : BitVec 3) (round : Word32) (waiting : BitVec 16)
  /-- A chip receives ROUND_ABORT and abandons its round job (R371). -/
  | roundAbort (r : RopeRx) (slot : BitVec 3)
  /-- A shard's origin receives RETIRE and frees its outstanding window (R365). -/
  | retire (r : RopeRx) (slot : BitVec 3) (bytes : Word32)
  /-- A sending pitch receives LAND_GRANT and sends its ACT frames (R362). -/
  | landGrant (r : RopeRx) (slot : BitVec 3) (layer : Byte) (frames : BitVec 16)
  /-- An ACT frame lands activations or scores in reserved space (R362). -/
  | act (r : RopeRx) (slot : BitVec 3) (layer : Byte) (ref : BitVec 16) (offset : Nat) (data gcmTag : Bytes)
  /-- A WSTREAM frame enters the circulation buffer, is applied and is forwarded or retired (R364). -/
  | wstream (r : RopeRx) (slot : BitVec 3) (layer shard roundLow : Byte) (offset : Nat) (data gcmTag : Bytes)
  /-- A CMD frame delivers a relayed command or its reply (R367). -/
  | cmd (r : RopeRx) (relay : BitVec 16) (reply more : Bool) (payload : Bytes)
  /-- A CAIRN frame delivers a remote Cairn read request or reply (R413). -/
  | cairn (r : RopeRx) (relay : BitVec 16) (reply more : Bool) (payload : Bytes)
  /-- A CREDIT frame returns credits and acknowledges or NAKs frames, which may cause replay (R359). -/
  | credit (port : BitVec 1) (good : Bool) (ack : BitVec 12) (nak : Bool) (credits : Vector (BitVec 16) 4)
  /-- Every 20 µs with frames unacknowledged, the receiver returns ACK_SEQ (R358). -/
  | ackTimer (port : BitVec 1)
  /-- No complete remote Cairn reply arrives within 100 ms, so the read ends with LINK_DOWN (R413). -/
  | remoteReadTimeout (relay : BitVec 16)
  /-- AFE_BANK_ENABLE (0x2B) enables or disables banks A and B, which makes their channels ready or not and lets the
      Resource Manager power PD4 and PD5 (R125). -/
  | afeBankEnable (h : Hdr) (p : Bytes)
  /-- VA30 leaves regulation, for example when VIN falls below 3.25 V with the internal LDO, while PD4 or PD5 is on;
      RAIL_LOW is raised and VA30_OK drops until it returns (R76). -/
  | va30OutOfRegulation (out : Bool)
  /-- VIO_H or VIO_S enters or leaves its range; the signal pins of that rail go high-impedance and ignore their
      inputs, or return to their function (R77). -/
  | ioRailRangeChange (sensor inRange : Bool)
  /-- On wake the VCORE buck reaches regulation; PD1 is handed over from the always-on regulator and XO24 is enabled
      (R75). -/
  | vcoreBuckInRegulation
  /-- A Rope receiver acquires code-group synchronisation on a lane and deskews the lanes, so the port can send TRAIN
      (R348). -/
  | codeGroupSyncAcquired (port : BitVec 1) (lane : BitVec 1)
  /-- The plasticity engine finishes loading a head's state from its NVM copy or the image into plasticity SRAM, which
      is the commit point of HEAD_RESTORE and raises HEAD_RESTORED (R301). -/
  | headLoadDone (head : BitVec 2)
  /-- Image verification of a RECEIVED model finishes, which takes 95 ms per MiB on average; the slot becomes VERIFIED
      with its owner final, or returns to EMPTY with IMAGE_INVALID (R238). -/
  | modelVerifyDone (slot : BitVec 3)
  /-- Verification of a received firmware image under FW_UPDATE_COMMIT ends (170 ms on average); the slot is marked
      TRIAL and the slot-selection record is written, or the slot is marked INVALID (R102). -/
  | fwImageVerified
  deriving DecidableEq, Repr

end Sys2Proof
end

