-- ==== Sys2Proof/Decode.lean ====
section
/-! DEFINITION. Commands spelt by the bits of the opcode table. -/

namespace Sys2Proof

/-- The opcode table gives none of its rows any bits, so no word spells a command (log entry 6). -/
def decodeTableWord (nbits w : Nat) : Option Instr :=
  match nbits, w with
  | _, _ => none

end Sys2Proof
end

