-- ==== Sys2Proof/Config.lean ====
section
/-! DEFINITION. What one part fixes, and the free values the spec leaves open: constants without a body. -/

namespace Sys2Proof.Config

/-- A value the spec calls undefined or does not state: a fresh one for each count of `State.free`
(DESIGN CHOICE, log entry 2: nothing constrains it). -/
opaque freeValue : Nat → BitVec 64

/-- XO24 cycles in one tick period, by tick: the two crystals' ratio is the part's own (R65). -/
opaque cyclesInTick : BitVec 48 → Nat

/-- The part's public identity, fixed at manufacture (Table 2-14) (DESIGN CHOICE, log entry 82). -/
opaque deviceId : BitVec 64

/-- The device key DK (Table 16-2), fixed at manufacture (DESIGN CHOICE, log entry 82). -/
opaque deviceKey : BitVec 256

/-- The private scalars of the device identity key DIK and the device exchange key DEK (Table 16-2). -/
opaque identityKey : Nat
opaque exchangeKey : Nat

/-- Wilvin's signature over DEVICE_ID, DIK_pub and DEK_pub in the certificate (ATTEST). -/
opaque certificateSignature : Bytes

/-- Wilvin's debug-signing and firmware-signing public keys, held in the boot ROM (X then Y). -/
opaque debugPublic : Bytes
opaque firmwarePublic : Bytes

/-- Bytes of the DRBG seeded from the TRNG, by draw (R389). -/
opaque random : Nat → Nat → Bytes

/-- The signed text and the signature of a firmware image: the spec gives the image no format (R101). -/
opaque fwParts : Bytes → Bytes × Bytes

/-- The version, SVN and size that the header of a firmware image gives: major, minor, patch, SVN, build. -/
opaque fwHeader : Bytes → Byte × Byte × BitVec 16 × Word32 × Word32

/-- What the head chip has a member do with a model slot: place its pitch of a model, or its shard and the replicated layers,
or release them. -/
structure PitchOrder where
  slot : BitVec 3
  release : Bool
  owner : BitVec 2
  baseChip : BitVec 6
  /-- the binding the head gives its streams -/
  bound : BitVec 96
  /-- the Rope salt of the placement (R386) -/
  salt : Bytes
  image : Bytes
  deriving DecidableEq, Repr, Inhabited

/-- The orders that reach a member, by draw: the spec gives no frame that carries them (R243, R251, R370)
(DESIGN CHOICE, log entry 63). -/
opaque pitchOrder : Nat → Option PitchOrder

/-- The refusal of a Ridge placement by another chip, by draw: its index, status and payload (R243)
(DESIGN CHOICE, log entry 136). -/
opaque ridgeAnswer : Nat → Option (Byte × Byte × Bytes)

/-- Pages of FACTORY that factory data leaves unused (Table 9-9). -/
opaque factoryErased : BitVec 16

/-- What a page holds after a program cut short: VALID, CORRECTED or UNCORRECTABLE at its next read (R455)
(DESIGN CHOICE, log entry 85). -/
opaque tornState : Nat → Fin 3

/-- Whether a byte of a page whose program was cut short reads as its new byte, by page and place (R455). -/
opaque tornNew : Nat → Nat → Bool

/-- Bit errors of a page at its reads, by page and program count (R217) (DESIGN CHOICE, log entry 154). -/
opaque bitErrors : Nat → Nat → Nat

/-- Coefficients of a half-band stage at the odd distances from its centre, in 2^-30, by stage: they are not published (R174)
(DESIGN CHOICE, log entry 83). -/
opaque halfBand : Nat → List Int

/-- Taps of the stage that decimates by an odd factor, in 2^-30 (R177). -/
opaque oddTaps : Nat → List Int

/-- The linear-phase band-pass of the envelope path, from its centre outwards, by its edges in 10 Hz units and the rate, and the
taps of the Hilbert FIR from its centre outwards, in 2^-30 (R177). -/
opaque bandTaps : Nat → Nat → Nat → List Int
opaque hilbertTaps : List Int

/-- Weight of the interpolator's window at a distance in 1/65536 sample, in 2^-30 (R178). -/
opaque sincWindow : Int → Int

/-- Power of an order bin of a frame whose reference gives no angle-time map. -/
opaque orderPower : List Int → Nat → Nat

/-- A pair test whose quantity has no value (a quotient of zeros): it fails or not, by test and frame (R143)
(DESIGN CHOICE, log entry 84). -/
opaque pairTest : Nat → List Int → Bool

/-- What a pair test shows where its quantity has no value, by test and frame (Table 5-8) (DESIGN CHOICE, log entry 84). -/
opaque pairShown : Nat → List Int → Nat

/-- `LEAD_CORR` where its 32 bits do not hold the correction or the factor (Table 5-16) (DESIGN CHOICE, log entry 165). -/
opaque leadCorrOver : Int → Word32

/-- What a POOL MAX element becomes that its OUT_TYPE cannot hold: the spec states no value. -/
opaque outsideType : Nat → Int → Int

/-- By how much what reaches a converter differs from the ideal product sum, in 1/256 of a product unit, by draw and conversion
(R200). -/
opaque converterInput : Nat → Nat → Int

end Sys2Proof.Config
end

