-- ==== Sys2Proof/Machine/Bytes.lean ====
section
/-! DEFINITION. Byte order, bit fields and CRC-32C. -/

namespace Sys2Proof.Machine

/-! ### Bytes (R5) -/

/-- `n` bytes of a number, least significant first (in part DESIGN CHOICE, log entry 146). -/
def le : Nat → Nat → Bytes
  | 0, _ => []
  | n + 1, x => BitVec.ofNat 8 x :: le n (x / 256)

/-- `n` bytes of a signed number in two's complement. -/
def leInt (n : Nat) (x : Int) : Bytes := le n (x % (2 ^ (8 * n) : Nat)).toNat

/-- The number that bytes spell, least significant first. -/
def leNat : Bytes → Nat
  | [] => 0
  | b :: bs => b.toNat + 256 * leNat bs

/-- The field of `n` bytes at an offset of a payload. -/
def fld (p : Bytes) (off n : Nat) : Nat := leNat ((p.drop off).take n)

/-- A number read as two's complement of `w` bits. -/
def signed (w x : Nat) : Int := if 2 ^ w ≤ 2 * x then (x : Int) - (2 ^ w : Nat) else x

/-- Bits [lo+n-1:lo] of a word. -/
def bits (x lo n : Nat) : Nat := x / 2 ^ lo % 2 ^ n

/-- One bit of a word. -/
def bit (x i : Nat) : Bool := x / 2 ^ i % 2 == 1

/-- The bytes of an ASCII label. -/
def ascii (t : String) : Bytes := t.toList.map fun c => BitVec.ofNat 8 c.toNat

/-- The bytes at `n` places from an offset of a payload. -/
def slice (p : Bytes) (off n : Nat) : Bytes := (p.drop off).take n

/-- A payload filled with zero bytes to a multiple of `m`. -/
def padTo (m : Nat) (p : Bytes) : Bytes := p ++ List.replicate ((m - p.length % m) % m) 0

/-- Exactly `n` bytes: cut, or filled with zeros. -/
def fixed (n : Nat) (p : Bytes) : Bytes := p.take n ++ List.replicate (n - p.length) 0

/-- 1 for true, 0 for false. -/
def b2n (b : Bool) : Nat := if b then 1 else 0

/-- The number whose bit i is the i-th flag. -/
def flags : List Bool → Nat
  | [] => 0
  | b :: bs => b2n b + 2 * flags bs

/-- A value held within bounds. -/
def clamp (lo hi x : Int) : Int := if x < lo then lo else if hi < x then hi else x

/-! ### CRC-32C (R30) -/

/-- One bit of the reflected Castagnoli division. -/
def crcBit (c : Word32) : Word32 := if c.getLsbD 0 then (c >>> 1) ^^^ 0x82F63B78 else c >>> 1

/-- One byte of it. -/
def crcByte (c : Word32) (b : Byte) : Word32 := Nat.repeat crcBit 8 (c ^^^ b.setWidth 32)

/-- The largest number below 2^n at or above `acc` for which a test holds that, once false, stays false. -/
def searchBits : Nat → (Nat → Bool) → Nat → Nat
  | 0, _, acc => acc
  | n + 1, holds, acc => searchBits n holds (if holds (acc + 2 ^ n) then acc + 2 ^ n else acc)

/-- CRC-32C over bytes: initial value and final XOR 0xFFFFFFFF. -/
def crc32c (p : Bytes) : Word32 := p.foldl crcByte 0xFFFFFFFF ^^^ 0xFFFFFFFF

end Sys2Proof.Machine
end

