-- ==== Sys2Proof/Machine/Crypto.lean ====
section
/-! DEFINITION. The cryptography the spec names: SHA-256, HMAC, HKDF (RFC 5869), AES, AES-256-GCM, P-256 with ECDH and ECDSA
(RFC 6979), and the shuffle of R383 (chapters 02, 10, 12, 16 and 17). -/

namespace Sys2Proof.Machine

/-! ### Big-endian words (R451) -/

/-- The number that bytes spell, most significant first. -/
def beNat (b : Bytes) : Nat := b.foldl (fun n x => 256 * n + x.toNat) 0

/-- `n` bytes of a number, most significant first. -/
def be (n x : Nat) : Bytes := (le n x).reverse

/-- Cut into blocks of `n` bytes, the last one shorter where the length is no multiple. -/
def cutBytes (n : Nat) (b : Bytes) : List Bytes := (List.range ((b.length + n - 1) / n)).map fun k => slice b (n * k) n

/-- Bytes combined place by place, as long as the shorter of the two. -/
def xorBytes (a b : Bytes) : Bytes := List.zipWith (· ^^^ ·) a b

/-! ### SHA-256 -/

/-- The round constants. -/
def shaConstants : List Word32 :=
  [0x428a2f98, 0x71374491, 0xb5c0fbcf, 0xe9b5dba5, 0x3956c25b, 0x59f111f1, 0x923f82a4, 0xab1c5ed5,
   0xd807aa98, 0x12835b01, 0x243185be, 0x550c7dc3, 0x72be5d74, 0x80deb1fe, 0x9bdc06a7, 0xc19bf174] ++
  [0xe49b69c1, 0xefbe4786, 0x0fc19dc6, 0x240ca1cc, 0x2de92c6f, 0x4a7484aa, 0x5cb0a9dc, 0x76f988da,
   0x983e5152, 0xa831c66d, 0xb00327c8, 0xbf597fc7, 0xc6e00bf3, 0xd5a79147, 0x06ca6351, 0x14292967] ++
  [0x27b70a85, 0x2e1b2138, 0x4d2c6dfc, 0x53380d13, 0x650a7354, 0x766a0abb, 0x81c2c92e, 0x92722c85,
   0xa2bfe8a1, 0xa81a664b, 0xc24b8b70, 0xc76c51a3, 0xd192e819, 0xd6990624, 0xf40e3585, 0x106aa070] ++
  [0x19a4c116, 0x1e376c08, 0x2748774c, 0x34b0bcb5, 0x391c0cb3, 0x4ed8aa4a, 0x5b9cca4f, 0x682e6ff3,
   0x748f82ee, 0x78a5636f, 0x84c87814, 0x8cc70208, 0x90befffa, 0xa4506ceb, 0xbef9a3f7, 0xc67178f2]

/-- The initial hash value. -/
def shaInitial : List Word32 :=
  [0x6a09e667, 0xbb67ae85, 0x3c6ef372, 0xa54ff53a, 0x510e527f, 0x9b05688c, 0x1f83d9ab, 0x5be0cd19]

/-- Extend the schedule, held newest first, by one word. -/
def shaWord (w : List Word32) : List Word32 :=
  let a := w.getD 14 0
  let b := w.getD 1 0
  let s0 := a.rotateRight 7 ^^^ a.rotateRight 18 ^^^ (a >>> 3)
  let s1 := b.rotateRight 17 ^^^ b.rotateRight 19 ^^^ (b >>> 10)
  (w.getD 15 0 + s0 + w.getD 6 0 + s1) :: w

/-- The 64 words of a block's schedule. -/
def shaSchedule (block : Bytes) : List Word32 :=
  (Nat.repeat shaWord 48 ((cutBytes 4 block).map fun b => BitVec.ofNat 32 (beNat b)).reverse).reverse

/-- One round, on the eight working words. -/
def shaRound (v : List Word32) (kw : Word32) : List Word32 :=
  match v with
  | [a, b, c, d, e, f, g, h] =>
    let t1 := h + (e.rotateRight 6 ^^^ e.rotateRight 11 ^^^ e.rotateRight 25) + ((e &&& f) ^^^ (~~~e &&& g)) + kw
    let t2 := (a.rotateRight 2 ^^^ a.rotateRight 13 ^^^ a.rotateRight 22) + ((a &&& b) ^^^ (a &&& c) ^^^ (b &&& c))
    [t1 + t2, a, b, c, d + t1, e, f, g]
  | _ => v

/-- The compression of one 64-byte block. -/
def shaBlock (h : List Word32) (block : Bytes) : List Word32 :=
  List.zipWith (· + ·) h ((List.zipWith (· + ·) shaConstants (shaSchedule block)).foldl shaRound h)

/-- SHA-256 of a text. -/
def sha256 (text : Bytes) : Bytes :=
  let zeros := (119 - text.length % 64) % 64
  let padded := text ++ [0x80] ++ List.replicate zeros 0 ++ be 8 (8 * text.length)
  ((cutBytes 64 padded).foldl shaBlock shaInitial).flatMap fun w => be 4 w.toNat

/-! ### HMAC and HKDF -/

/-- HMAC-SHA-256 of a text under a key. -/
def hmac (key text : Bytes) : Bytes :=
  let k := fixed 64 (if 64 < key.length then sha256 key else key)
  sha256 (k.map (· ^^^ 0x5C) ++ sha256 (k.map (· ^^^ 0x36) ++ text))

/-- HKDF-SHA-256 of a key with salt and info: 32 bytes, the first block of the expansion. -/
def hkdf (key salt info : Bytes) : Bytes := hmac (hmac salt key) (info ++ [0x01])

/-! ### AES -/

/-- Multiplication by x in the field of 256 elements, modulo x^8 + x^4 + x^3 + x + 1. -/
def xtime (b : Byte) : Byte := if b.getLsbD 7 then (b <<< 1) ^^^ 0x1B else b <<< 1

/-- The product of two field elements. -/
def gmul (a b : Byte) : Byte :=
  ((List.range 8).foldl (fun (r : Byte × Byte) i => (if b.getLsbD i then r.1 ^^^ r.2 else r.1, xtime r.2)) (0, a)).1

/-- The inverse of a field element, as its 254th power; 0 for 0. -/
def inverse (b : Byte) : Byte :=
  let sq (x : Byte) : Byte := gmul x x
  let x2 := sq b; let x4 := sq x2; let x8 := sq x4; let x16 := sq x8; let x32 := sq x16; let x64 := sq x32; let x128 := sq x64
  gmul (gmul (gmul x2 x4) (gmul x8 x16)) (gmul (gmul x32 x64) x128)

/-- The S-box: the inverse and the affine map. -/
def subByte (b : Byte) : Byte :=
  let inv := inverse b
  inv ^^^ inv.rotateLeft 1 ^^^ inv.rotateLeft 2 ^^^ inv.rotateLeft 3 ^^^ inv.rotateLeft 4 ^^^ 0x63

/-- The S-box as a table, by value. -/
def sbox : Array Byte := ((List.range 256).map fun n => subByte (BitVec.ofNat 8 n)).toArray

/-- The S-box applied to a byte. -/
def sub (b : Byte) : Byte := sbox.getD b.toNat 0

/-- The next word of the schedule of a key of `n` words, its words held newest first. -/
def nextWord (n : Nat) (f : Bytes → Bytes) (w : List Bytes) : List Bytes := xorBytes (w.getD (n - 1) []) (f (w.getD 0 [])) :: w

/-- Four words of the schedule, the first of them with a round constant. -/
def fourWords (n : Nat) (rcon : Byte) (w : List Bytes) : List Bytes :=
  let first (b : Bytes) : Bytes := xorBytes ((b.drop 1 ++ b.take 1).map sub) [rcon, 0, 0, 0]
  nextWord n id (nextWord n id (nextWord n id (nextWord n first w)))

/-- Extend the key schedule of AES-256 by the eight words that follow. -/
def expandKey (rcon : Byte) (w : List Bytes) : List Bytes :=
  let w := nextWord 8 (·.map sub) (fourWords 8 rcon w)
  nextWord 8 id (nextWord 8 id (nextWord 8 id w))

/-- The first `n` round keys of a schedule, four words each. -/
def keysOf (n : Nat) (w : List Bytes) : List Bytes := (List.range n).map fun k => ((w.reverse.drop (4 * k)).take 4).flatten

/-- The 15 round keys of AES-256. -/
def roundKeys (key : Bytes) : List Bytes :=
  keysOf 15 ([0x01, 0x02, 0x04, 0x08, 0x10, 0x20, 0x40].foldl (fun w r => expandKey r w) (cutBytes 4 (fixed 32 key)).reverse)

/-- The 11 round keys of AES-128. -/
def roundKeys128 (key : Bytes) : List Bytes :=
  keysOf 11 ([0x01, 0x02, 0x04, 0x08, 0x10, 0x20, 0x40, 0x80, 0x1B, 0x36].foldl (fun w r => fourWords 4 r w)
    (cutBytes 4 (fixed 16 key)).reverse)

/-- The rows of the state shift. -/
def shiftRows (b : Bytes) : Bytes := (List.range 16).map fun i => b.getD ((i + 4 * (i % 4)) % 16) 0

/-- The columns of the state mix. -/
def mixColumns (b : Bytes) : Bytes :=
  (cutBytes 4 b).flatMap fun c =>
    (List.range 4).map fun i =>
      xtime (c.getD i 0) ^^^ (xtime (c.getD ((i + 1) % 4) 0) ^^^ c.getD ((i + 1) % 4) 0) ^^^ c.getD ((i + 2) % 4) 0
        ^^^ c.getD ((i + 3) % 4) 0

/-- One block enciphered by AES under the round keys: 15 for AES-256, 11 for AES-128. -/
def aesRounds (keys : List Bytes) (block : Bytes) : Bytes :=
  let start := xorBytes (fixed 16 block) (keys.getD 0 [])
  let middle := (keys.drop 1).dropLast.foldl (fun b k => xorBytes (mixColumns (shiftRows (b.map sub))) k) start
  xorBytes (shiftRows (middle.map sub)) (keys.getLastD [])

/-- The first `n` bytes of the key stream of counter mode, from a 16-byte block whose last four bytes count. -/
def keyStream (keys : List Bytes) (first : Bytes) (n : Nat) : Bytes :=
  ((List.range ((n + 15) / 16)).flatMap fun k =>
    aesRounds keys (first.take 12 ++ be 4 ((beNat (first.drop 12) + k) % 2 ^ 32))).take n

/-! ### AES-256-GCM -/

/-- The product of two elements of the field of GHASH, the first bit of a block being bit 127. -/
def ghashMul (x y : BitVec 128) : BitVec 128 :=
  ((List.range 128).foldl (fun (r : BitVec 128 × BitVec 128) i =>
    (if x.getLsbD (127 - i) then r.1 ^^^ r.2 else r.1,
     if r.2.getLsbD 0 then (r.2 >>> 1) ^^^ 0xE1000000000000000000000000000000#128 else r.2 >>> 1)) (0, y)).1

/-- GHASH of additional data and ciphertext. -/
def ghash (h : BitVec 128) (aad text : Bytes) : BitVec 128 :=
  (cutBytes 16 (padTo 16 aad ++ padTo 16 text ++ be 8 (8 * aad.length) ++ be 8 (8 * text.length))).foldl
    (fun y b => ghashMul (y ^^^ BitVec.ofNat 128 (beNat b)) h) 0

/-- The 16-byte tag of a ciphertext under round keys and a 12-byte nonce. -/
def gcmTag (keys : List Bytes) (nonce aad text : Bytes) : Bytes :=
  let h := BitVec.ofNat 128 (beNat (aesRounds keys (List.replicate 16 0)))
  xorBytes (be 16 (ghash h aad text).toNat) (aesRounds keys (nonce ++ [0, 0, 0, 1]))

/-- A text enciphered, or a ciphertext deciphered, under round keys and a nonce. -/
def gcmCrypt (keys : List Bytes) (nonce text : Bytes) : Bytes := xorBytes text (keyStream keys (nonce ++ [0, 0, 0, 2]) text.length)

/-- A key as its 32 bytes, and bytes as a key (R451: byte strings are kept in the order produced). -/
def keyBytes (k : BitVec 256) : Bytes := le 32 k.toNat
def keyOf (b : Bytes) : BitVec 256 := BitVec.ofNat 256 (leNat (b.take 32))

/-- AES-256-GCM encryption: the ciphertext and the 16-byte tag. -/
def gcmSeal (key : BitVec 256) (nonce aad text : Bytes) : Bytes × Bytes :=
  let keys := roundKeys (keyBytes key)
  let c := gcmCrypt keys nonce text
  (c, gcmTag keys nonce aad c)

/-- AES-256-GCM decryption: the plaintext where the tag, which may be cut to its first bytes (R40), verifies. -/
def gcmOpen (key : BitVec 256) (nonce aad text tag : Bytes) : Option Bytes :=
  let keys := roundKeys (keyBytes key)
  if (gcmTag keys nonce aad text).take tag.length == tag then some (gcmCrypt keys nonce text) else none

/-! ### P-256 (R451) -/

/-- The field's prime, the curve's constant, the order of the base point, and the base point. -/
def primeP : Nat := 0xffffffff00000001000000000000000000000000ffffffffffffffffffffffff
def curveB : Nat := 0x5ac635d8aa3a93e7b3ebbd55769886bc651d06b0cc53b0f63bce3c3e27d2604b
def orderN : Nat := 0xffffffff00000000ffffffffffffffffbce6faada7179e84f3b9cac2fc632551
def baseX : Nat := 0x6b17d1f2e12c4247f8bce6e563a440f277037d812deb33a0f4a13945d898c296
def baseY : Nat := 0x4fe342e2fe1a7f9b8ee7eb4a7c0f9e162bce33576b315ececbb6406837bf51f5

/-- A power modulo m, by the exponent's 256 bits from the highest. -/
def powMod (m b e : Nat) : Nat :=
  (List.range 256).foldl (fun r i => let r := r * r % m; if bit e (255 - i) then r * b % m else r) 1

/-- The inverse modulo a prime. -/
def invMod (m a : Nat) : Nat := powMod m a (m - 2)

/-- A point in Jacobian coordinates; Z = 0 is the point at infinity. -/
structure Point where
  x : Nat
  y : Nat
  z : Nat

/-- The difference modulo the field's prime. -/
def subP (a b : Nat) : Nat := (a + (primeP - b % primeP)) % primeP

/-- Twice a point. -/
def Point.double (a : Point) : Point :=
  let d := a.z * a.z % primeP
  let g := a.y * a.y % primeP
  let b := a.x * g % primeP
  let al := 3 * (subP a.x d * ((a.x + d) % primeP)) % primeP
  let x := subP (al * al) (8 * b)
  { x := x, y := subP (al * subP (4 * b) x) (8 * (g * g % primeP)), z := subP (subP ((a.y + a.z) * (a.y + a.z)) g) d }

/-- The sum of two points. -/
def Point.add (a b : Point) : Point :=
  if a.z == 0 then b
  else if b.z == 0 then a
  else
    let za := a.z * a.z % primeP
    let zb := b.z * b.z % primeP
    let u1 := a.x * zb % primeP
    let u2 := b.x * za % primeP
    let s1 := a.y * b.z * zb % primeP
    let s2 := b.y * a.z * za % primeP
    if u1 == u2 then (if s1 == s2 then a.double else { x := 1, y := 1, z := 0 })
    else
      let h := subP u2 u1
      let r := subP s2 s1
      let h2 := h * h % primeP
      let h3 := h2 * h % primeP
      let v := u1 * h2 % primeP
      let x := subP (subP (r * r) h3) (2 * v)
      { x := x, y := subP (r * subP v x) (s1 * h3), z := h * a.z * b.z % primeP }

/-- A multiple of a point. -/
def Point.mul (k : Nat) (a : Point) : Point :=
  (List.range 256).foldl (fun r i => let r := r.double; if bit k (255 - i) then r.add a else r) { x := 1, y := 1, z := 0 }

/-- The base point. -/
def basePoint : Point := { x := baseX, y := baseY, z := 1 }

/-- The coordinates of a point that is not at infinity. -/
def Point.affine (a : Point) : Nat × Nat :=
  let i := invMod primeP a.z
  (a.x * i * i % primeP, a.y * i * i * i % primeP)

/-- A public key "X then Y" as a point. -/
def pointOf (b : Bytes) : Point := { x := beNat (b.take 32), y := beNat (slice b 32 32), z := 1 }

/-- A 64-byte string is a point of P-256. -/
def onCurve (b : Bytes) : Bool :=
  let a := pointOf b
  decide (a.x < primeP) && decide (a.y < primeP)
    && (a.y * a.y) % primeP == (a.x * a.x * a.x + 3 * (primeP - a.x) + curveB) % primeP

/-- A private scalar from 32 random bytes: 1 to n - 1. -/
def scalarOf (b : Bytes) : Nat := beNat b % (orderN - 1) + 1

/-- The public key of a scalar, X then Y. -/
def publicKey (d : Nat) : Bytes :=
  let a := (basePoint.mul d).affine
  be 32 a.1 ++ be 32 a.2

/-- The ECDH shared value: the x-coordinate of the scalar times the other side's point. -/
def ecdh (d : Nat) (pub : Bytes) : Bytes := be 32 ((pointOf pub).mul d).affine.1

/-- An ECDSA signature (r, then s) of a digest verifies under a public key. -/
def ecdsaOk (pub digest sig : Bytes) : Bool :=
  let r := beNat (sig.take 32)
  let s := beNat (slice sig 32 32)
  let w := invMod orderN s
  let p := (basePoint.mul (beNat digest * w % orderN)).add ((pointOf pub).mul (r * w % orderN))
  decide (1 ≤ r) && decide (r < orderN) && decide (1 ≤ s) && decide (s < orderN) && p.z != 0 && p.affine.1 % orderN == r

/-- The deterministic nonces of RFC 6979: the first candidate in range within `fuel` tries, from the generator's key and
value. -/
def nonceFrom : Nat → Bytes → Bytes → Nat
  | 0, _, _ => 1
  | n + 1, k, v =>
    let v := hmac k v
    let c := beNat v
    if 1 ≤ c ∧ c < orderN then c
    else
      let k := hmac k (v ++ [0x00])
      nonceFrom n k (hmac k v)

/-- The ECDSA signature, r then s, of a digest under a private scalar, with the nonce of RFC 6979. -/
def ecdsaSign (d : Nat) (digest : Bytes) : Bytes :=
  let x := be 32 d
  let h := be 32 (beNat digest % orderN)
  let v := List.replicate 32 (0x01 : Byte)
  let k := hmac (List.replicate 32 0x00) (v ++ [0x00] ++ x ++ h)
  let v := hmac k v
  let k := hmac k (v ++ [0x01] ++ x ++ h)
  let v := hmac k v
  let nonce := nonceFrom 16 k v
  let r := (basePoint.mul nonce).affine.1 % orderN
  be 32 r ++ be 32 (invMod orderN nonce * (beNat digest + r * d) % orderN)

/-! ### The device's own keys (Table 16-2) -/

/-- HKDF with a key and a result of 32 bytes. -/
def hkdfKey (k : BitVec 256) (salt info : Bytes) : BitVec 256 := keyOf (hkdf (keyBytes k) salt info)

/-- The DIK signature over a digest (R375). -/
def dikSign (digest : Bytes) : Bytes := ecdsaSign Config.identityKey digest

/-- The certificate: DIK_pub, DEK_pub and Wilvin's signature (ATTEST). -/
def certificate : Bytes :=
  publicKey Config.identityKey ++ publicKey Config.exchangeKey ++ fixed 64 Config.certificateSignature

/-- The private scalar of the ephemeral key drawn at a draw number, and its public key (R378). -/
def ephemeralScalar (draw : Nat) : Nat := scalarOf (Config.random draw 32)
def ephemeralKey (draw : Nat) : Bytes := publicKey (ephemeralScalar draw)

/-- The ECDH shared value of that ephemeral key with a public key (R378). -/
def ephemeralShared (draw : Nat) (pub : Bytes) : BitVec 256 := keyOf (ecdh (ephemeralScalar draw) pub)

/-- The ECDH shared value of the device exchange key with a public key (R377). -/
def exchangeShared (pub : Bytes) : BitVec 256 := keyOf (ecdh Config.exchangeKey pub)

/-- The Cairn MAC key CMK; a salt of 0 is the empty one of RFC 5869 (R397). -/
def cairnKey : Bytes := hkdf (keyBytes Config.deviceKey) [] (ascii "AETHUO-CAIRN")

/-- First 8 bytes of HMAC-SHA-256 under CMK (R397). -/
def cairnMac (text : Bytes) : Bytes := (hmac cairnKey text).take 8

/-- The Wilvin signature of a firmware image verifies (R101). -/
def fwSignatureOk (image : Bytes) : Bool :=
  let x := Config.fwParts image
  ecdsaOk Config.firmwarePublic (sha256 x.1) x.2

/-! ### The shuffle of R383 -/

/-- A Fisher–Yates shuffle of a list, its last place first, by the words of a stream
(in part DESIGN CHOICE, log entry 153). -/
def shuffle (xs : List Nat) (stream : List Nat) : List Nat :=
  ((List.range (xs.length - 1)).foldl (fun (v : Array Nat) k =>
    let i := xs.length - 1 - k
    let j := stream.getD k 0 % (i + 1)
    (v.setIfInBounds i (v.getD j 0)).setIfInBounds j (v.getD i 0)) xs.toArray).toList

end Sys2Proof.Machine
end

