-- ==== Sys2Proof/Machine/State/Boot.lean ====
section
/-! DEFINITION. Boot, firmware slots, resets and the holdup supply (chapter 04). -/

namespace Sys2Proof.Machine

/-- Boot phases, coded as Table 2-4. -/
inductive BootPhase where
  | rom | erasePending | auth | init | ready | restarting | failed
  deriving DecidableEq, Repr, Inhabited

/-- Firmware slot states, coded as Table 4-2. -/
inductive FwSlotState where
  | empty | writing | valid | trial | invalid
  deriving DecidableEq, Repr, Inhabited

/-- A firmware slot's header and image (R101). -/
structure FwSlot where
  state : FwSlotState := .empty
  major : Byte := 0
  minor : Byte := 0
  patch : BitVec 16 := 0
  build : Word32 := 0
  svn : Word32 := 0
  /-- size given at FW_UPDATE_BEGIN -/
  size : Nat := 0
  /-- image bytes received and programmed -/
  image : Bytes := []
  /-- the signature over header and image verifies -/
  signed : Bool := false
  deriving DecidableEq, Repr, Inhabited

/-- How far a reset has come (R109, R115, R116). -/
inductive ResetStage where
  | none
  /-- quiesced; posted NVM writes are being programmed -/
  | quiesced
  /-- in effect on PD1 to PD23; held until its conditions end -/
  | held
  deriving DecidableEq, Repr, Inhabited

/-- FW_UPDATE_COMMIT under way (R102). -/
structure FwCommit where
  tag : Tag
  slot : Nat
  resetNow : Bool
  deriving DecidableEq, Repr, Inhabited

/-- FW_UPDATE_BEGIN under way: its slot and payload. -/
structure FwBegin where
  tag : Tag
  slot : Nat
  payload : Bytes
  deriving DecidableEq, Repr, Inhabited

/-- Boot and resets (chapter 04) (in part DESIGN CHOICE, log entry 138). -/
structure BootState where
  phase : BootPhase := .rom
  /-- the last reset's cause (Table 4-4) -/
  cause : Byte := 0x01
  stage : ResetStage := .none
  /-- conditions that hold a reset (R109): the pin, the brownout, the temperature -/
  pinHold : Bool := false
  brownoutHold : Bool := false
  thermalHold : Bool := false
  /-- the reset waits for its reply to be pulled or for 10 ms: cause and tag (R61) -/
  scheduled : Option (Byte × Tag) := none
  bootCount : Word32 := 0
  /-- BOOT_COUNT has been counted for this boot (R399, R100) -/
  counted : Bool := false
  erasePending : Bool := false
  /-- slot A boots a factory image of major version 1 (R2) -/
  slots : Vector FwSlot 2 := #v[{ state := .valid, major := 1, signed := true }, {}]
  preferred : BitVec 1 := 0
  /-- the running slot, or in FAILED the slot tried last -/
  running : BitVec 1 := 0
  svnFloor : Word32 := 0
  /-- an update has begun and not been committed: its slot -/
  updating : Option Nat := none
  begin' : Option FwBegin := none
  commit : Option FwCommit := none
  /-- a WATCHDOG or EXCEPTION_LIMIT reset stopped a TRIAL image before READY: its slot and the reset's cause (R102) -/
  trialFailed : Option (BitVec 1 × Byte) := none
  /-- a rollback of this boot, reported at READY: from, to, cause (R102) -/
  rollback : Option (BitVec 1 × BitVec 1 × Byte) := none
  /-- the boot guard of R113 runs -/
  guard : Bool := false
  /-- ticks of the control-core exceptions within the last 60 s (R118) -/
  exceptions : List Ticks := []
  exceptionCode : Word32 := 0
  restarts : Word32 := 0
  holdupOk : Bool := false
  vholdMv : BitVec 16 := 0
  /-- the program hold of R105 -/
  hold : Bool := true
  deriving DecidableEq, Repr

end Sys2Proof.Machine
end

