-- ==== Sys2Proof/Machine/State/Nvm.lean ====
section
/-! DEFINITION. The memories' state: line tags, owner epochs, the NVM's pages, its posted write buffer and its
counters (chapter 09), and the Cairn record (chapter 17). -/

namespace Sys2Proof.Machine

/-- The tag of the lines that hold one block of data (Table 9-2) (in part DESIGN CHOICE, log entry 7). -/
structure LineTag where
  valid : Bool := false
  owner : BitVec 3 := 0
  epoch : BitVec 16 := 0
  deriving DecidableEq, Repr, Inhabited

/-- The five SRAMs, in the order of `UNWRITTEN_READ` in `NVM_STATUS`. -/
inductive Memory where
  | activation | staging | sample | plasticity | control
  deriving DecidableEq, Repr, Inhabited

/-- Page states, coded as Table 9-5. -/
inductive PageState where
  | erased | valid | corrected | uncorrectable
  deriving DecidableEq, Repr, Inhabited

/-- The side area of a sealed page: its owner, its `SEAL_CTR` and the tag (R379). -/
structure PageSide where
  owner : Nat
  ctr : Word64
  tag : Bytes
  deriving DecidableEq, Repr, Inhabited

/-- A page of the NVM: whether it is programmed, its program count and the bytes it holds, sealed ones as they are stored;
bytes beyond those listed are zero. `torn` after a program cut short, which leaves a mixture with the bytes of `was`
(R455). -/
structure PageInfo where
  page : Nat
  state : PageState := .valid
  programs : Nat := 0
  data : Bytes := []
  side : Option PageSide := none
  torn : Bool := false
  was : Bytes := []
  deriving DecidableEq, Repr, Inhabited

/-- The records that the NVM keeps by two copies and a commit record, but for those of heads, which stand with them
(R222). -/
inductive RecordKind where
  | label | select | svn | bootCount | erase | storeGen | sealCtr | keys | slotA | slotB | wear
  deriving DecidableEq, Repr, Inhabited

/-- A commit record: its sequence number, the copy it names, that copy's length and CRC-32C (R222). -/
structure CommitRecord where
  seq : Word32 := 0
  copy : Nat := 0
  length : Nat := 0
  crc : Word32 := 0
  deriving DecidableEq, Repr, Inhabited

/-- A record kept by copies: the bytes in its two copy areas, and the commit records that check, newest first. -/
structure CopyRecord where
  copies : Vector Bytes 2 := #v[[], []]
  commits : List CommitRecord := []
  deriving DecidableEq, Repr, Inhabited

/-- What an update of WEAR commits: the accounts and columns, a grant, a fence record, its removal, or the configuration
(R310, R322, R323). -/
inductive WearWhy where
  | accounts | grant | fence (core : Nat) | unfence (core : Nat) | config
  deriving DecidableEq, Repr, Inhabited

/-- What a page program or a sector erase is for; it decides what its completion does. -/
inductive NvmJob where
  /-- a page of a record's copy, the first one or a later one, and the record's commit record (R222) -/
  | recordCopy (kind : RecordKind) (copy : Nat) (first : Bool)
  | recordCommit (kind : RecordKind) (record : CommitRecord)
  /-- a page of a model image (R228); the last page of a MODEL_LOAD DATA carries its bytes -/
  | modelPage (slot : Nat)
  | modelLast (slot : Nat) (data : Bytes)
  /-- a page of a head copy, then its commit record (R298, R299) -/
  | headPage (head : Nat)
  | headCommit (head : Nat)
  /-- erase of the commit page of a head's slot pair (R304) -/
  | headErase (head : Nat)
  /-- the erase of a firmware slot, and its image pages, the last of a FW_UPDATE_DATA with its bytes -/
  | fwErase (slot : Nat)
  | fwPage (slot : Nat)
  | fwLast (slot : Nat) (data : Bytes)
  /-- the commit record of an update of WEAR (R310) -/
  | wearCommit (record : CommitRecord) (why : WearWhy)
  /-- a background erase of a freed sector (R219) -/
  | freed
  deriving DecidableEq, Repr, Inhabited

/-- One program or erase on its way to the NVM (R220, R456). -/
structure NvmOp where
  /-- page programmed, or the first page of the sector erased -/
  page : Nat
  erase : Bool := false
  /-- the 256 bytes of a program; those beyond the ones listed are zero -/
  data : Bytes := []
  /-- the owner whose data it holds, in LEARN and MODEL (R379) -/
  owner : Option Nat := none
  job : NvmJob
  /-- the command that waits for it -/
  tag : Option Tag := none
  /-- its program is a commit record (R222, R223) -/
  commit : Bool := false
  /-- its start is the commit point of its command (R457) -/
  point : Bool := false
  /-- it belongs to the boot path, which the hold of R105 does not stop -/
  bootPath : Bool := false
  deriving DecidableEq, Repr, Inhabited

/-- The operation the NVM carries out now (R218). -/
inductive NvmBusy where
  | idle
  /-- the front of `posted` -/
  | posted
  /-- a commit of the Cairn (R405) -/
  | cairn
  /-- the background erase of the sector with this first page -/
  | background (page : Nat)
  deriving DecidableEq, Repr, Inhabited

/-- The NVM and the memories' counters (chapter 09) (in part DESIGN CHOICE, log entry 10). -/
structure NvmState where
  /-- pages programmed or erased since manufacture, by page number; an unlisted page is ERASED with count 0 -/
  pages : List PageInfo := []
  /-- unused spare pages of each region (Table 9-4) -/
  spares : Vector Nat 9 := #v[0, 2, 32, 32, 2, 16, 2, 48, 118]
  /-- programs and commanded erases in posting order; at most 8 programs (R220) -/
  posted : List NvmOp := []
  /-- operations of writers that wait for a place in the buffer -/
  waiting : List NvmOp := []
  busy : NvmBusy := .idle
  /-- first pages of the sectors awaiting a background erase (R461) -/
  background : List Nat := []
  programs : Word32 := 0
  erases : Word32 := 0
  programFails : Word32 := 0
  eccCorrected : Word32 := 0
  eccUncorrectable : Word32 := 0
  /-- durations of the last 256 programs and 16 erases, newest first, in microseconds -/
  programTimes : List Nat := []
  eraseTimes : List Nat := []
  /-- UNWRITTEN_READ of the five SRAMs (R212) -/
  unwritten : Vector Word32 5 := Vector.replicate 5 0
  /-- the current epochs of owners 0 to 3 and of the device, owner 7 (R214) -/
  epochs : Vector (BitVec 16) 4 := Vector.replicate 4 1
  deviceEpoch : BitVec 16 := 1
  /-- the records kept by copies, in the order of their kinds -/
  records : Vector CopyRecord 11 := Vector.replicate 11 {}
  /-- commands that wait to read a page of a busy bank (R218): opcode, header and payload -/
  waitingReads : List (Byte × Hdr × Bytes) := []
  deriving DecidableEq, Repr

/-- An entry of the Cairn before its commit (R397): `SEQ`, `MAC` and `CRC` are made at the commit. -/
structure CairnEntry where
  type : BitVec 16
  source : BitVec 16
  time : Word64
  bootCount : Word32
  payload : Bytes
  /-- the CAIRN_MARK that waits for its commit -/
  tag : Option Tag := none
  deriving DecidableEq, Repr, Inhabited

/-- A remote Cairn read this chip has asked for (R413). -/
structure RemoteRead where
  tag : Tag
  chip : BitVec 8
  relay : BitVec 16
  /-- reply bytes received so far -/
  got : Bytes := []
  deriving DecidableEq, Repr, Inhabited

/-- The Cairn (chapter 17). -/
structure CairnState where
  /-- the next sequence number, and the journal records written since manufacture (R398, R405) -/
  nextSeq : Word32 := 2
  journal : Nat := 2
  /-- entries waiting for commit, oldest first (R404) -/
  queue : List CairnEntry := []
  /-- entries the Anchor holds while PD1 is in retention (R404) -/
  anchor : List CairnEntry := []
  /-- entries dropped since the previous CAIRN_OVERFLOW, and since reset -/
  dropped : Word32 := 0
  droppedCritical : Word32 := 0
  droppedReset : Word32 := 0
  replayed : Bool := false
  /-- a replay has happened whose CAIRN_FAULT is due at READY (R408) -/
  replayDue : Option Word32 := none
  faultSeen : Bool := false
  /-- entries whose failed check has been reported this boot: pinned or not, and the position or SEQ (R411) -/
  reported : List (Bool × Nat) := []
  /-- durations of the last 64 commits, newest first -/
  commitTimes : List Nat := []
  /-- marks accepted in the last 3600 s of powered time: SOURCE and tick (R412) -/
  marks : List (BitVec 16 × Ticks) := []
  /-- reads of other chips' records under way (R413) -/
  remote : List RemoteRead := []
  deriving DecidableEq, Repr

end Sys2Proof.Machine
end

