-- ==== Sys2Proof/Machine/Entry.lean ====
section
/-! DEFINITION. The 64 bytes of a Cairn entry (chapter 17), and those of a commit record (chapter 09). -/

namespace Sys2Proof.Machine

/-- Bytes 0 to 51 of an entry (Table 17-1). -/
def CairnEntry.head (e : CairnEntry) (seq : Nat) : Bytes :=
  le 4 seq ++ le 8 e.time.toNat ++ le 2 e.type.toNat ++ le 2 e.source.toNat ++ le 4 e.bootCount.toNat ++ fixed 32 e.payload

/-- The 64 bytes of an entry: `MAC` over bytes 0 to 51, `CRC` over bytes 0 to 59 (R397). -/
def CairnEntry.bytes (e : CairnEntry) (seq : Nat) : Bytes :=
  let body := e.head seq ++ fixed 8 (cairnMac (e.head seq))
  body ++ le 4 (crc32c body).toNat

/-- The 17 bytes of a commit record: its fields and its own CRC-32C (R222). -/
def CommitRecord.bytes (c : CommitRecord) : Bytes :=
  let b := le 4 c.seq.toNat ++ [BitVec.ofNat 8 c.copy] ++ le 4 c.length ++ le 4 c.crc.toNat
  b ++ le 4 (crc32c b).toNat

/-- Position of the circular entry with a sequence number (R396). -/
def cairnPosition (seq : Nat) : Nat := 256 + (seq - 1) % 3840

/-- `OLDEST_SEQ` for a `NEXT_SEQ` (R396). -/
def oldestEntry (next : Nat) : Nat := if 3841 < next then next - 3840 else 1

/-- The manufacture entry, `SEQ` 1, position 0 and its circular original (Table 17-3)
(in part DESIGN CHOICE, log entry 78). -/
def manufactureEntry : Bytes :=
  CairnEntry.bytes { type := 0x0001, source := 0, time := 0, bootCount := 0, payload := [0x21] } 1

end Sys2Proof.Machine
end

