-- ==== Sys2Proof/Machine/State/Afe.lean ====
section
/-! DEFINITION. The crosspoint analogue front end's state (chapter 05). -/

namespace Sys2Proof.Machine

/-- A crosspoint pin's role code and UNIT mask (Table 5-1). -/
structure PinCfg where
  role : BitVec 4 := 0
  unit : BitVec 16 := 0
  deriving DecidableEq, Repr, Inhabited

/-- A channel's calibration record (Table 5-16); OFFSET and EMF in signed codes. -/
structure CalRecord where
  time : Word64 := 0
  offset : Int := 0
  emf : Int := 0
  openMeas : BitVec 16 := 0
  /-- the status word at the last frame close -/
  status : BitVec 16 := 0
  leadCorr : Word32 := 0
  deriving DecidableEq, Repr, Inhabited

/-- What a channel gathers over the burst that runs (R134, R138, R140). -/
structure BurstSums where
  /-- sum, sum of squares and number of the stored values of c -/
  sum : Int := 0
  squares : Int := 0
  stored : Nat := 0
  saturated : Nat := 0
  overload : Bool := false
  refLow : Bool := false
  /-- the signed sum of the listed leads at the start of the measurement burst, in milliohms (R138) -/
  leads : Int := 0
  /-- the frame's OPEN segment has given a result (R140) -/
  openDone : Bool := false
  deriving DecidableEq, Repr, Inhabited

/-- One of the 32 channels (Table 5-10, R134, R140). -/
structure Channel where
  configured : Bool := false
  cfg0 : Word32 := 0
  leads : Word32 := 0
  rNom : Word32 := 0
  leadSetup : Word32 := 0
  limits : Word32 := 0
  record : CalRecord := {}
  /-- M_prev: sum and number of the stored c of the last measurement burst that stored one (R134) -/
  mPrev : Option (Int × Nat) := none
  /-- no frame has closed since the stream started (R134) -/
  first : Bool := true
  status : BitVec 16 := 0
  faultFrames : Word32 := 0
  satSamples : Word32 := 0
  /-- saturated samples of the last frame that stored a measurement sample (R140) -/
  satCount : Nat := 0
  burst : BurstSums := {}
  deriving DecidableEq, Repr, Inhabited

/-- One of the 8 excitation drivers (Table 5-15, R126, R127). -/
structure Driver where
  word : Word32 := 0
  limit : Bool := false
  deriving DecidableEq, Repr, Inhabited

/-- A pin's stored lead value (R137): state 0 NONE, 1 KELVIN, 2 SPLIT, 3 SET; value in milliohms. -/
structure Lead where
  state : BitVec 2 := 0
  value : BitVec 30 := 0
  deriving DecidableEq, Repr, Inhabited

/-- Pair states, coded as Table 5-9. -/
inductive PairPhase where
  | inactive | unknown | agree | faultA | faultB | faultBoth
  deriving DecidableEq, Repr, Inhabited

/-- A redundant pair (R142 to R145). -/
structure Pair where
  configured : Bool := false
  streamA : Nat := 0
  streamB : Nat := 0
  ratioMax : BitVec 16 := 0
  corrMin : Byte := 0
  bandDb : Byte := 0
  maxLag : Byte := 0
  persist : Byte := 0
  digSatLimit : Byte := 0
  phase : PairPhase := .inactive
  fails : Byte := 0
  implausible : Byte := 0
  ratio : BitVec 16 := 0
  corr : Byte := 0
  bandWorst : Byte := 0
  compared : Word32 := 0
  skipped : Word32 := 0
  failRun : Nat := 0
  passRun : Nat := 0
  /-- PAIR_FAULT of each member -/
  markA : Bool := false
  markB : Bool := false
  deriving DecidableEq, Repr, Inhabited

/-- An AFE_LEAD_MEASURE under way (R137). -/
structure LeadRun where
  tag : Tag
  kelvin : Bool
  p : Nat
  q : Nat
  s : Nat
  channel : Nat
  deriving DecidableEq, Repr, Inhabited

/-- An AFE_CAL_RUN under way: the channels still to complete. -/
structure CalRunAfe where
  tag : Tag
  mask : Word32
  left : Word32
  length : Nat
  deriving DecidableEq, Repr, Inhabited

/-- The front end (chapter 05). -/
structure AfeState where
  pins : Vector PinCfg 48 := Vector.replicate 48 {}
  channels : Vector Channel 32 := Vector.replicate 32 {}
  drivers : Vector Driver 8 := Vector.replicate 8 {}
  /-- bit 0 bank A, bit 1 bank B -/
  banks : BitVec 2 := 0
  leads : Vector Lead 48 := Vector.replicate 48 {}
  /-- pins whose last lead measurement read above 500 ohms (R137) -/
  high : BitVec 48 := 0
  leadSkips : Vector (BitVec 16) 2 := Vector.replicate 2 0
  pairs : Vector Pair 16 := Vector.replicate 16 {}
  leadRuns : List LeadRun := []
  calRuns : List CalRunAfe := []
  deriving DecidableEq, Repr

end Sys2Proof.Machine
end

