-- ==== Sys2Proof/Machine/State/Belay.lean ====
section
/-! DEFINITION. Belay and the health outputs' state (chapter 14). -/

namespace Sys2Proof.Machine

/-- Belay states, coded as Table 14-3. -/
inductive BelayPhase where
  | disarmed | armed | hold | tripped | coasting | stopped | rearm
  deriving DecidableEq, Repr, Inhabited

/-- Source of an output (Table 14-5). -/
inductive OutSource where
  | off | asset | fixed
  deriving DecidableEq, Repr, Inhabited

/-- An output entry of HOUT_MAP (Table 14-5). -/
structure OutEntry where
  src : OutSource := .off
  asset : Byte := 0
  code : BitVec 16 := 0
  deriving DecidableEq, Repr, Inhabited

/-- Levels of a health output (Table 14-1). -/
inductive Level where
  | off | deviceFault | notReady | index | sensorFault | fixed
  deriving DecidableEq, Repr, Inhabited

/-- What the PD0 latch of one output holds (R12, R331). -/
structure OutLatch where
  level : Level := .off
  code : BitVec 16 := 0
  deriving DecidableEq, Repr, Inhabited

/-- An asset's entry (Table 14-6). -/
structure AssetCfg where
  model : Byte := 0xFF
  score : Byte := 0
  flags : Byte := 0
  tripCount : Byte := 0
  streams : BitVec 96 := 0
  alpha : BitVec 16 := 0
  tripThresh : BitVec 16 := 0
  alarmOn : BitVec 16 := 0
  alarmOff : BitVec 16 := 0
  deriving DecidableEq, Repr, Inhabited

/-- An asset (R326 to R329). -/
structure Asset where
  cfg : AssetCfg := {}
  value : Option Nat := none
  restart : Bool := false
  /-- the fault bits, by stream -/
  faults : BitVec 96 := 0
  inAlarm : Bool := false
  run : Byte := 0
  lastScore : BitVec 16 := 0
  resultSeq : Word32 := 0
  trips : Word32 := 0
  /-- the asset's model was HALTED when its state was last looked at -/
  halted : Bool := false
  deriving DecidableEq, Repr, Inhabited

/-- A result on its way to the controller (R271, R326). -/
structure AssetResult where
  model : Nat
  stream : Nat
  scored : Bool
  sensorFault : Bool
  scores : List Nat
  seq : Word32
  deriving DecidableEq, Repr, Inhabited

/-- BELAY_CONFIG (Table 14-7). -/
structure BelayConfig where
  confirmMs : BitVec 16 := 500
  coastS : BitVec 16 := 60
  coastTach : Byte := 0xFF
  decelPct : Byte := 5
  stopDwell : Byte := 20
  flags : Byte := 0x02
  stopSpeed : Word32 := 50
  rearmMs : BitVec 16 := 1000
  startGuard : BitVec 16 := 0
  deriving DecidableEq, Repr, Inhabited

/-- The Belay controller and the outputs (chapter 14). `phase`, `cause` and `asset` are the Belay record of PD0. -/
structure BelayBlock where
  phase : BelayPhase := .disarmed
  prev : BelayPhase := .disarmed
  cause : Byte := 0
  asset : Byte := 0xFF
  cfg : BelayConfig := {}
  assets : Vector Asset 8 := Vector.replicate 8 {}
  map : Vector OutEntry 4 := Vector.replicate 4 {}
  /-- HOUT_MAP has been written since control SRAM was lost: the controller writes the outputs (R331) -/
  mapped : Bool := false
  latches : Vector OutLatch 4 := Vector.replicate 4 {}
  /-- results passed by the Resource Manager and not yet taken -/
  queue : List AssetResult := []
  tState : Word64 := 0
  tCommit : Word64 := 0
  /-- shaft speed at the commit point, in 0.001 rev/s, and its tach period in nanoseconds (0 at speed 0) -/
  v0 : Word32 := 0
  v0Ns : Nat := 0
  /-- cause and asset of the last trip before the hold that runs, and the HALTED model of a DEVICE hold -/
  lastTrip : Byte × Byte := (0, 0xFF)
  heldModel : Option Nat := none
  /-- the coast timer runs since this tick -/
  coasting : Option Ticks := none
  /-- BELAY_NO_DECEL has been raised for this trip -/
  noDecel : Bool := false
  /-- the speed has been at or below STOP_SPEED (COASTING), or above it (STOPPED), since the dwell's start -/
  dwell : Bool := false
  /-- in STOPPED: the speed has been at or below STOP_SPEED since the entry or the last BELAY_MOTION (R341) -/
  slow : Bool := false
  startGuard : Bool := false
  trips : BitVec 16 := 0
  ignored : BitVec 16 := 0
  aborts : BitVec 16 := 0
  rechecks : BitVec 16 := 0
  /-- the BELAY_REARM in flight -/
  rearming : Option Tag := none
  /-- ALARM_MASK, and the latched causes of Table 14-2 -/
  alarmMask : BitVec 16 := 0x01FF
  latched : BitVec 16 := 0
  /-- ALARM_N is asserted -/
  alarm : Bool := false
  /-- the device-fault condition held when it was last looked at (R332) -/
  deviceFault : Bool := false
  deriving DecidableEq, Repr

end Sys2Proof.Machine
end

