-- ==== Sys2Proof/Machine/State/Feature.lean ====
section
/-! DEFINITION. The feature engine's and belt position's state (chapter 07). -/

namespace Sys2Proof.Machine

/-- Position states, coded as Table 7-3. -/
inductive PosState where
  | unconfigured | unsynced | synced | estimated
  deriving DecidableEq, Repr, Inhabited

/-- Tracking sources, coded as `TRACK_SRC` (Table 7-8). -/
inductive TrackSource where
  | none | encoder | tach | time
  deriving DecidableEq, Repr, Inhabited

/-- The machine state of a stream (Table 7-7, R186, R187) and the dwell counts of its rules. -/
structure MachineState where
  running : Bool := false
  coasting : Bool := false
  stopped : Bool := false
  loaded : Bool := false
  dwell2 : Nat := 0
  dwell3 : Nat := 0
  dwell4 : Nat := 0
  dwellOn : Nat := 0
  dwellOff : Nat := 0
  deriving DecidableEq, Repr, Inhabited

/-- A feature frame: the header of Table 7-6 (64 bytes) and the encoded features (R188). -/
structure FeatureFrame where
  header : Bytes := []
  features : List Int := []
  wide : Bool := false
  deriving DecidableEq, Repr, Inhabited

/-- What the feature engine holds for one stream (R185 to R191). -/
structure FeatureStream where
  /-- payloads in force of FEAT_CONFIG, FEAT_ORDER_CONFIG, FEAT_STATE_CONFIG and FEAT_BANDS_SET; empty when never set -/
  config : Bytes := []
  order : Bytes := []
  machineCfg : Bytes := []
  bands : Bytes := []
  latest : Option FeatureFrame := none
  track : Option TrackSource := none
  /-- tick of the last TRACK_SOURCE event -/
  trackEvent : Option Ticks := none
  mstate : MachineState := {}
  /-- sum and number of samples of the most recent closed frame that stored one (R187) -/
  lastSum : Option (Int × Nat) := none
  deriving DecidableEq, Repr, Inhabited

/-- The belt (R180 to R184). -/
structure Belt where
  configured : Bool := false
  splices : Nat := 0
  zTol : Nat := 0
  /-- 0xFF for none -/
  checkTach : Byte := 0xFF
  encPerTachRev : Word32 := 0
  slipMax : Byte := 0
  gaps : List Nat := []
  encCount : Word32 := 0
  spliceIndex : Nat := 0
  spliceOffset : Word32 := 0
  state : PosState := .unconfigured
  encLost : Bool := false
  /-- a mark has been met since the configuration: the next one has a gap (R182) -/
  marked : Bool := false
  /-- the last counted edge counted down -/
  down : Bool := false
  zMissed : BitVec 16 := 0
  zSpurious : BitVec 16 := 0
  syncLosses : BitVec 16 := 0
  /-- changes of the count over the last 100 ms, newest first: instant and count after it -/
  log : List (Word64 × Int) := []
  /-- fraction of a count left over while the check tach advances the count, in 1/(256 x PPR) -/
  residue : Nat := 0
  deriving DecidableEq, Repr, Inhabited

/-- The feature engine (chapter 07). -/
structure FeatureBlock where
  streams : Vector FeatureStream 96 := Vector.replicate 96 {}
  belt : Belt := {}
  deriving DecidableEq, Repr

end Sys2Proof.Machine
end

