-- ==== Sys2Proof/Machine/State/Learn.lean ====
section
/-! DEFINITION. The plasticity engine and its heads (chapter 12), and the cores' calibration, tests, fences and the
wear governor (chapter 13). -/

namespace Sys2Proof.Machine

/-- A synapse (R278, R284, R292): pre, post, weight, trace, PRUNE_RUN. -/
structure Synapse where
  pre : Nat
  post : Nat
  w : Int
  e : Int := 0
  run : Nat := 0
  deriving DecidableEq, Repr, Inhabited

/-- A candidate pair (R285). -/
structure Candidate where
  pre : Nat
  post : Nat
  trace : Int
  deriving DecidableEq, Repr, Inhabited

/-- A learning step's event (R282). -/
structure StepEvent where
  pre : List Nat
  winner : Nat
  novelty : Int
  running : Bool
  loaded : Bool
  speed : Nat
  deriving DecidableEq, Repr, Inhabited

/-- A consolidated copy: its arrays and whether it is in force (R295 to R297). -/
structure HeadCopy where
  arrays : List Nat
  inForce : Bool := false
  /-- a write of it is in progress -/
  writing : Bool := false
  /-- every array is written and recalibrated: in force at the next frame boundary -/
  ready : Bool := false
  changeAt : Nat := 0
  tag : Option Tag := none
  deriving DecidableEq, Repr, Inhabited

/-- Why a head's state is being saved: at an epoch end, by a command, at sleep entry, at MODEL_STOP, or before an
export (R300, R302). -/
inductive SaveCause where
  | epoch | command | sleep | stop | exported
  deriving DecidableEq, Repr, Inhabited

/-- Where a head's state is loaded from (R301). -/
inductive LoadSource where
  | current | previous | initial | imported | adoption | wake
  /-- an abandoned sleep entry (R82) -/
  | resumed
  deriving DecidableEq, Repr, Inhabited

/-- An operation that waits for a head, in the order in which it became due (R281): a posted step, an immediate reward (R291),
a save or a load. -/
inductive HeadOp where
  | step (e : StepEvent)
  | reward (tag : Tag) (value : Int)
  | save (cause : SaveCause) (tag : Option Tag)
  | load (source : LoadSource) (tag : Option Tag)
  deriving DecidableEq, Repr, Inhabited

/-- What keeps a head's NVM pair busy (R299, R306). -/
inductive HeadBusy where
  | saving (cause : SaveCause) (tag : Option Tag)
  /-- its commit record is programmed: HEAD_SAVED and the reply follow -/
  | saved (cause : SaveCause) (tag : Option Tag)
  /-- the commit record that names the other area, the imported copy or the erase stands before the load -/
  | restoring (tag : Tag)
  | importing (tag : Tag)
  | resetting (tag : Tag)
  /-- the commit page's sector is being erased for a release (R304), of a model's head or of an orphan -/
  | releasing (model : Option Nat) (tag : Option Tag)
  deriving DecidableEq, Repr, Inhabited

/-- The twelve counters of HEAD_STATS; EPOCHS stands in the head. -/
structure HeadStats where
  steps : Word32 := 0
  cancelled : Word32 := 0
  excluded : Word32 := 0
  updates : Word32 := 0
  rewards : Word32 := 0
  created : Word32 := 0
  pruned : Word32 := 0
  createBlocked : Word32 := 0
  candDropped : Word32 := 0
  saves : Word32 := 0
  consDeferred : Word32 := 0
  deriving DecidableEq, Repr, Inhabited

/-- A head H0 to H3 (R275). -/
structure Head where
  /-- the model and layer that hold it -/
  user : Option (Nat × Nat) := none
  /-- head record and modulator record in force (Tables 12-4 and 12-5) -/
  hrec : Bytes := []
  mrec : Bytes := []
  nPre : Nat := 0
  nPost : Nat := 0
  syn : List Synapse := []
  /-- entries of the candidate table, free ones as none; at most 1024 -/
  cands : List (Option Candidate) := []
  wins : List Nat := []
  epochCount : Nat := 0
  sM : Int := 0
  epochs : Nat := 0
  change : Nat := 0
  saveSeq : Nat := 0
  /-- the region holds the head's state (R301) -/
  loaded : Bool := false
  changed : Bool := false
  /-- it has been saved for the sleep entry in progress (R82) -/
  slept : Bool := false
  /-- FREEZE bits COMMAND, SETTLE and HOLDOFF, with the ticks at which the periods end -/
  command : Bool := false
  settle : Option Ticks := none
  holdoff : Option Ticks := none
  /-- FREEZE without HOLDOFF as HEAD_FROZEN last reported it -/
  frozen : Byte := 0
  /-- held reward: its value and the steps left -/
  reward : Int := 0
  rewardLeft : Nat := 0
  ops : List HeadOp := []
  copy : Option HeadCopy := none
  busy : Option HeadBusy := none
  /-- the image being written to the pair, and its area (0 A, 1 B) -/
  image : Bytes := []
  area : Nat := 0
  /-- the pair's two areas: image and whether it checks; the area of the current copy -/
  areas : Vector (Option Bytes) 2 := Vector.replicate 2 none
  current : Option Nat := none
  stats : HeadStats := {}
  deriving DecidableEq, Repr, Inhabited

/-- A core (R207, R208, R315 to R323). -/
structure Core where
  /-- the core's last sensor reading in units of 0.25 degrees -/
  reading : Option Int := none
  bandSel : Nat := 0
  bandForce : Nat := 0
  /-- band of the live correction -/
  bandCal : Option Nat := none
  tjCal : Int := 0
  maxResidual : Nat := 0
  tCal : Word64 := 0
  /-- a whole-core recalibration is due at a job boundary, or before the next pass (Table 13-3); a quick and a full self-test
  are due -/
  recalDue : Bool := false
  recalFirst : Bool := true
  quickDue : Bool := true
  fullDue : Bool := false
  quick : Byte := 0
  full : Byte := 0
  tFull : Word64 := 0
  failing : Nat := 0
  /-- ticks of the anomalous windows of the last 24 h -/
  anomalies : List Ticks := []
  /-- the full test now due was started by an anomalous window -/
  anomalyTest : Bool := false
  fenced : Bool := false
  cause : Byte := 0
  tFence : Word64 := 0
  /-- the fence record waits for the domain to go off and for WEAR (R322) -/
  fencing : Option (Option Tag) := none
  deriving DecidableEq, Repr, Inhabited

/-- CAL_RUN or SELFTEST_RUN under way: cores left, and the result of each that has ended. -/
structure CoreRun where
  tag : Tag
  /-- 0 recalibration, 1 quick, 2 full -/
  kind : Nat
  mask : Byte
  left : Byte
  results : List (Nat × Bytes) := []
  deriving DecidableEq, Repr, Inhabited

/-- An unfence under way (R323). -/
structure Unfence where
  tag : Tag
  core : Nat
  /-- the quick self-test has passed -/
  quickPassed : Bool := false
  deriving DecidableEq, Repr, Inhabited

/-- Heads and cores. -/
structure LearnBlock where
  heads : Vector Head 4 := Vector.replicate 4 {}
  cores : Vector Core 8 := Vector.replicate 8 {}
  runs : List CoreRun := []
  unfence : Option Unfence := none
  /-- WEAR_CONFIG and DAYS_USED (R308) -/
  lifeDays : BitVec 16 := 1826
  bankDays : Byte := 30
  daysUsed : BitVec 16 := 0
  refused : Word32 := 0
  withdrawals : Word32 := 0
  /-- WEAR_CONFIG waiting for its commit record -/
  wearSet : Option (Tag × Bytes) := none
  deriving DecidableEq, Repr

end Sys2Proof.Machine
end

