-- ==== Sys2Proof/Machine/State/Link.lean ====
section
/-! DEFINITION. The host port's state: transports, packets, tags, replies, events and sessions (chapter 02). -/

namespace Sys2Proof.Machine

/-- What a command in flight keeps in its reply slot (R33, R39, R52). -/
structure Slot where
  tag : Tag
  opcode : Byte
  secure : Bool := false
  owner : BitVec 2 := 0
  seq : Byte := 0
  /-- the session the command was accepted in (0 when it was not secure) -/
  session : Word32 := 0
  /-- the session that its owner's slot held when its packet came, which an ABORT of it must share (R53) -/
  named : Word32 := 0
  /-- a packet of it was refused by checks 6 to 8: its reply is not secure (R43) -/
  plain : Bool := false
  /-- payload of the fragments received while the message is incomplete (R47) -/
  parts : Bytes := []
  /-- fragments received while the message is incomplete; 0 once it is whole -/
  fragments : Nat := 0
  /-- the commit mark (R39, R52) -/
  committed : Bool := false
  /-- its terminal reply is pending or being sent in fragments -/
  replied : Bool := false
  /-- the whole message has passed checks 5 to 9 and goes to check 10 -/
  ready : Bool := false
  deriving DecidableEq, Repr, Inhabited

/-- A reply waiting to be pulled; `STARTED` is the one that is not terminal (R35). -/
structure Reply where
  opcode : Byte
  tag : Tag
  status : Byte
  secure : Bool := false
  owner : BitVec 2 := 0
  session : Word32 := 0
  seq : Byte := 0
  payload : Bytes := []
  deriving DecidableEq, Repr, Inhabited

/-- A reject notice (R32). -/
structure Notice where
  opcode : Byte
  tag : Tag
  status : Byte
  seq : Byte
  deriving DecidableEq, Repr, Inhabited

/-- A queued event (R54, R55): its code, priority, owner concerned, timestamp of the occurrence and body. -/
structure Event where
  code : Byte
  high : Bool
  owner : Option (BitVec 2) := none
  time : Word64 := 0
  body : Bytes := []
  deriving DecidableEq, Repr, Inhabited

/-- An outbound packet, kept in the order in which it became pending (R37). -/
inductive Outbound where
  | reply (r : Reply)
  | notice (n : Notice)
  | event (e : Event)
  deriving DecidableEq, Repr, Inhabited

/-- State of a session slot, coded as Table 2-18 (R44). -/
inductive SessionPhase where
  | none | live | ending
  deriving DecidableEq, Repr, Inhabited

/-- The session of one owner slot (R40, R41, R44). -/
structure Session where
  phase : SessionPhase := .none
  id : Word32 := 0
  key : BitVec 256 := 0
  /-- idle timeout in seconds -/
  timeout : Nat := 0
  /-- packet counter expected from the host -/
  rx : Nat := 0
  /-- packet counter of the next packet to the host -/
  tx : Nat := 0
  /-- tick at which the idle timer last started -/
  since : Ticks := 0
  deriving DecidableEq, Repr, Inhabited

/-- The ten host-port counters of `LINK_COUNTERS`, saturating. -/
structure LinkCounters where
  crcRejects : Word32 := 0
  lengthRejects : Word32 := 0
  syncDiscards : Word32 := 0
  overruns : Word32 := 0
  tagBusyRejects : Word32 := 0
  authRejects : Word32 := 0
  eventsOverwritten : Word32 := 0
  eventsDropped : Word32 := 0
  rejectsLost : Word32 := 0
  fragmentTimeouts : Word32 := 0
  deriving DecidableEq, Repr, Inhabited

/-- The host port (chapter 02). -/
structure LinkState where
  /-- the transport the port is bound to since the last reset (R22) -/
  bound : Option Transport := none
  /-- IRQ_CAUSE bits 7 to 3 (Table 2-5): the W1C bits -/
  resetSeen : Bool := true
  eventLost : Bool := false
  discard : Bool := false
  bootChange : Bool := true
  sessionEnd : Bool := false
  /-- LINK_CONFIG (Table 2-16) -/
  irqMask : Byte := 0xFB
  lowEvents : Bool := true
  /-- receive buffer bytes held by packets whose checks are not complete (R26, R58) -/
  rxHeld : Nat := 0
  counters : LinkCounters := {}
  /-- commands in flight, in order of acceptance (R33) -/
  slots : List Slot := []
  /-- outbound packets in pending order (R37) -/
  out : List Outbound := []
  /-- terminal replies and reject notices of relayed commands, waiting to go out over the Rope (R367) -/
  relayed : List Outbound := []
  /-- low byte of the device-wide counter of non-secure events delivered (R42) -/
  eventSeq : Byte := 0
  /-- losses since the previous EVENTS_LOST (R56) -/
  lostOver : Word32 := 0
  lostDrop : Word32 := 0
  /-- a loss has happened that EVENTS_LOST has not yet reported -/
  lossPending : Bool := false
  sessions : Vector Session 4 := Vector.replicate 4 {}
  /-- bytes the device drove in the last host transaction -/
  driven : Bytes := []
  /-- no packet is accepted: a sleep request has committed and not ended (R80) -/
  closed : Bool := false
  deriving DecidableEq, Repr

end Sys2Proof.Machine
end

