-- ==== Sys2Proof/Machine/State/Model.lean ====
section
/-! DEFINITION. Model slots, arrays, the Resource Manager's queues and the result ring (chapters 08, 10 and 11). -/

namespace Sys2Proof.Machine

/-- Model states, coded as Table 10-1. -/
inductive ModelPhase where
  | empty | loading | received | verified | placed | running | halted | pitch
  deriving DecidableEq, Repr, Inhabited

/-- Where a layer runs, coded as `PLACE` of Table 10-12. -/
inductive Place where
  | none | resident | rotated | staged | fromNvm | vector | plasticity | away (chip : Nat) | circulated
  deriving DecidableEq, Repr, Inhabited

/-- A layer's placement: its arrays (8n + m), output block by output block (Rotated: the rotation set). -/
structure LayerPlace where
  place : Place := .none
  arrays : List Nat := []
  deriving DecidableEq, Repr, Inhabited

/-- A placement in force or being decided (R239, R244). -/
structure Placement where
  layers : List LayerPlace := []
  mode : Byte := 0
  step : Byte := 0
  rotSet : List Nat := []
  /-- stream cycles of one batch (R245) -/
  batchCycles : Nat := 0
  deriving DecidableEq, Repr, Inhabited

/-- The twelve counters of RM_COUNTERS for a model; the latencies' sum and window stand for LAT_AVG_US. -/
structure ModelCounters where
  framesIn : Word32 := 0
  jobs : Word32 := 0
  results : Word32 := 0
  unscored : Word32 := 0
  reruns : Word32 := 0
  abandoned : Word32 := 0
  dropped : Word32 := 0
  learnDropped : Word32 := 0
  /-- latencies of the last 1024 results, newest first -/
  latencies : List Nat := []
  latMax : Word32 := 0
  clips : Word32 := 0
  deriving DecidableEq, Repr, Inhabited

/-- A model slot (R227, R228, R247, R252). -/
structure Model where
  phase : ModelPhase := .empty
  owner : BitVec 2 := 0
  size : Nat := 0
  flags : Word32 := 0
  /-- image bytes received and programmed -/
  image : Bytes := []
  /-- first pages of the image's place in the MODEL region, in order -/
  pages : List Nat := []
  /-- layers whose weight blocks NO_BACKUP has freed (R248) -/
  freed : List Nat := []
  placement : Placement := {}
  /-- the bank group that holds the model's activation reserve (R255) -/
  actGroup : Option Nat := none
  bound : BitVec 96 := 0
  /-- RESULT_SUBSCRIBE -/
  subMode : Byte := 0
  subThresh : BitVec 16 := 0
  counters : ModelCounters := {}
  /-- MODEL_VERIFY under way -/
  verifying : Option Tag := none
  /-- MODEL_LOAD DATA whose bytes are being programmed, and those behind it: tag, OFFSET and bytes -/
  loads : List (Tag × Nat × Bytes) := []
  /-- a stop waits for the jobs in flight: MODEL_STOP or the stop within MODEL_UNLOAD, with its tag -/
  stopping : Option Tag := none
  unloading : Option (Option Tag) := none
  /-- it is being replaced in place and takes no frame (R256) -/
  yielding : Bool := false
  /-- placed to succeed an old model at that model's frame boundary: the command, the old slot, and whether the new one
  starts -/
  succeeds : Option (Tag × Nat × Bool) := none
  /-- the owner is being removed: stop at the end of the current layer, write no result (R264) -/
  removing : Bool := false
  /-- the head chip of a pitch, and its first chip (PITCH state) -/
  baseChip : Nat := 0
  deriving DecidableEq, Repr, Inhabited

/-- What an array is written with, and for whom: a block of a layer of a model, or part of a head's copy. -/
structure ArrayUse where
  model : Nat
  layer : Nat
  block : Nat
  /-- a head's consolidated copy -/
  head : Option Nat := none
  deriving DecidableEq, Repr, Inhabited

/-- A clip window of a layer on an array: its clipped conversions and its conversions (text before R321). -/
structure ClipWindow where
  use : ArrayUse
  clips : Nat := 0
  conv : Nat := 0
  deriving DecidableEq, Repr, Inhabited

/-- One of the 64 arrays (R193, R205, R308, R318, R319, R383). -/
structure CimArray where
  /-- the layer block the array holds for a placed model -/
  use : Option ArrayUse := none
  /-- code of each weight cell by physical row and column, two to a byte as an array image has them; empty while unknown
  (R215). A spare column holds the cells of the column it replaces. -/
  cells : Bytes := []
  /-- the code in every cell of REF0 to REF7, and of the two reference rows of each slice (R194) -/
  refCols : List Nat := []
  refRows : List Nat := []
  /-- owner and `COUNT` of the write under whose permutation the cells stand (R383) -/
  drawn : Option (Nat × Nat) := none
  /-- an array write is under way: what it writes, and whether its erase has been done -/
  writing : Option ArrayUse := none
  begun : Bool := false
  /-- program cycles charged, and the balance in units of 2^-16 (R308) -/
  count : Nat := 0
  balance : Nat := 0
  /-- the columns that spare columns have replaced, spare by spare (R319), and the columns found FAILING -/
  spareFor : List Nat := []
  failing : Nat := 0
  spareBad : Nat := 0
  signed : Bool := false
  clips : Word32 := 0
  /-- conversions since the counters were cleared -/
  conv : Nat := 0
  /-- the windows of the layers that the array has run -/
  windows : List ClipWindow := []
  deriving DecidableEq, Repr, Inhabited

/-- An array write the Resource Manager has ordered, with the array's `COUNT` after its grant (R205, R250, R383). -/
structure ArrayWrite where
  array : Nat
  use : ArrayUse
  /-- the array image in weight-staging SRAM -/
  cells : Bytes
  count : Nat := 0
  /-- program cycles charged at the grant -/
  charged : Nat := 0
  deriving DecidableEq, Repr, Inhabited

/-- Why a set of array writes was ordered. -/
inductive WriteCause where
  /-- MODEL_PLACE, with its tag -/
  | place (tag : Tag)
  /-- MODEL_REPLACE of an old model -/
  | replace (tag : Tag) (old : Nat) (inPlace : Bool)
  /-- a re-placement by cause 1 fenced, 2 wear, 3 Rope (Table 10-13), with the old mode -/
  | again (cause : Byte) (oldMode : Byte)
  /-- a rotation write for a job -/
  | rotation (job : Nat)
  /-- a consolidation of a head, with the command's tag and CHANGE at the snapshot -/
  | consolidate (head : Nat) (tag : Option Tag) (changeAt : Nat)
  /-- a refresh write -/
  | refresh
  /-- a pitch that the head chip has this chip place -/
  | pitch
  deriving DecidableEq, Repr, Inhabited

/-- A decided set of array writes; it begins once its grant is committed to WEAR (R310). -/
structure WriteRun where
  model : Nat
  cause : WriteCause
  writes : List ArrayWrite
  granted : Bool := false
  /-- the fence whose record commits the grant (R322) -/
  fence : Option Nat := none
  deriving DecidableEq, Repr, Inhabited

/-- A frame in the inference queue (R256, R257). -/
structure Frame where
  id : Nat
  model : Nat
  frame : FeatureFrame
  /-- the bank group that holds its lines, and their tag's owner and epoch -/
  bank : Nat
  epoch : BitVec 16 := 0
  /-- the input lines are still held (R263) -/
  held : Bool := true
  host : Option Tag := none
  rerun : Bool := false
  /-- heads that have taken a step from the frame -/
  learned : BitVec 4 := 0
  inJob : Bool := false
  /-- outputs of the layers that have run on this chip or arrived over the Rope, by layer -/
  outs : List (Nat × List Int) := []
  /-- by PROTO layer: lanes of the copy that wait for the plasticity engine (R280); after its pass the p vector -/
  lanes : List (Nat × List Int) := []
  /-- a frame of a pitch job, which holds no inference queue entry, and its FRAME_REF (R362) -/
  pitch : Bool := false
  ref : BitVec 16 := 0
  /-- the layer the activations landed for, and the chip that sent them -/
  land : Nat := 0
  source : Nat := 0
  deriving DecidableEq, Repr, Inhabited

/-- The unit a job's layer runs on (R259). -/
inductive Unit' where
  | core (n : Nat)
  | stream
  | vector
  | plasticity
  deriving DecidableEq, Repr, Inhabited

/-- A job (R258 to R260). -/
structure Job where
  id : Nat
  model : Nat
  frames : List Nat
  bank : Nat
  layer : Nat := 0
  /-- the units that run the present layer, and the cores whose passes of it have ended -/
  running : List Unit' := []
  done : List Nat := []
  /-- arrays of the present layer under the placement in force when it was dispatched (R312) -/
  arrays : List Nat := []
  /-- elements of the output blocks that have run: block and, per frame, position by position -/
  parts : List (Nat × List (List Int)) := []
  clips : Nat := 0
  unwritten : Nat := 0
  cores : Byte := 0
  /-- bytes of job space in `bank`; 0 on the model's reserve (R258) -/
  space : Nat := 0
  /-- it runs in a pitch slot (R262), for activations from this chip -/
  pitch : Bool := false
  source : Nat := 0
  /-- it waits for activations or scores from another chip (R362) -/
  awaiting : Bool := false
  /-- its circulation round, and the shards that have reached it, by layer (R364) -/
  round : Option Word32 := none
  shards : List (Nat × Nat) := []
  deriving DecidableEq, Repr, Inhabited

/-- A result of the ring (R268 to R270). -/
structure Result where
  seq : Word32
  owner : BitVec 2
  epoch : BitVec 16
  model : Nat
  /-- the entry of Table 11-3 with PINNED at 0 -/
  entry : Bytes
  pinned : Bool := false
  delivered : Bool := false
  deriving DecidableEq, Repr, Inhabited

/-- An owner's share and credit (R261). -/
structure Share where
  weight : Byte := 64
  minSlots : Byte := 0
  maxSlots : Byte := 64
  credit : Int := 0
  /-- RESULTS_LOST, losses since the previous RESULTS_LOST event, and its tick (R270, Table 11-10) -/
  lost : Word32 := 0
  lostNote : Word32 := 0
  lostAt : Option Ticks := none
  deriving DecidableEq, Repr, Inhabited

/-- A feature frame in the feature queue with its bank group and the tag of its lines (R211, R256). -/
structure Queued where
  frame : FeatureFrame
  bank : Nat
  tag : LineTag := {}
  deriving DecidableEq, Repr, Inhabited

/-- A Streamed layer's weights in weight-staging SRAM, with the tag of their lines (R211, R242). -/
structure Staged where
  model : Nat
  layer : Nat
  tag : LineTag
  data : Bytes
  deriving DecidableEq, Repr, Inhabited

/-- Models and the Resource Manager (chapters 10 and 11). -/
structure ModelBlock where
  slots : Vector Model 8 := Vector.replicate 8 {}
  arrays : Vector CimArray 64 := Vector.replicate 64 { balance := 32301423 }
  writes : List WriteRun := []
  /-- weights of Streamed layers in staging -/
  staging : List Staged := []
  /-- feature queue, oldest first -/
  features : List Queued := []
  /-- inference queue, oldest first -/
  frames : List Frame := []
  jobs : List Job := []
  nextId : Nat := 0
  shares : Vector Share 4 := Vector.replicate 4 {}
  /-- result ring, oldest first, at most 1024 -/
  results : List Result := []
  resultSeq : Word32 := 0
  framesUnbound : Word32 := 0
  overwritten : Word32 := 0
  /-- HIGH of the nine queues of QUEUE_STATUS -/
  high : Vector Nat 9 := Vector.replicate 9 0
  /-- the feature and the inference queue have been full and not yet below half (QUEUE_PRESSURE) -/
  pressed : Vector Bool 2 := Vector.replicate 2 false
  deriving DecidableEq, Repr

end Sys2Proof.Machine
end

