-- ==== Sys2Proof/Machine/State/Owner.lean ====
section
/-! DEFINITION. Owners, keys, debug and the test port (chapter 16). -/

namespace Sys2Proof.Machine

/-- An owner slot of the key store (R373, R374, R376, Table 16-2). -/
structure OwnerSlot where
  provisioned : Bool := false
  signPub : Bytes := []
  /-- SIGN_FPR, 8 bytes -/
  fpr : Bytes := List.replicate 8 0
  ork : BitVec 256 := 0
  ndk : BitVec 256 := 0
  pk : BitVec 256 := 0
  xk : BitVec 256 := 0
  rk : BitVec 256 := 0
  deriving DecidableEq, Repr, Inhabited

/-- A change of the key store that waits for its commit record (R376): its kind as in `OWNER_CHANGED`, the slot's new
entry, and the reply of OWNER_PROVISION. -/
structure KeyChange where
  tag : Tag
  slot : Nat
  kind : Byte
  select : Byte := 0
  entry : OwnerSlot
  reply : Bytes := []
  deriving DecidableEq, Repr, Inhabited

/-- An owner's removal past its commit point (R388): its models and heads are being released. -/
structure Removal where
  slot : Nat
  /-- its command; none once a reset has ended it (R38) -/
  tag : Option Tag
  models : Nat
  heads : Nat
  /-- SIGN_FPR of the owner that was removed -/
  fpr : Bytes := List.replicate 8 0
  deriving DecidableEq, Repr, Inhabited

/-- An EPOCH_ROLL under way: its heads are being saved, or reloaded once the epoch has rolled. -/
structure EpochRoll where
  tag : Tag
  owner : Nat
  rolled : Bool := false
  deriving DecidableEq, Repr, Inhabited

/-- The debug-open erase (R393, Table 16-8). -/
structure DebugErase where
  /-- 0x01 by DEBUG_OPEN, 0x02 by DBG_OPEN, 0x03 completed at boot -/
  kind : Byte
  tag : Option Tag := none
  /-- the step whose program or Cairn entry it waits for: 1, 3, 6 or 7 -/
  step : Nat
  /-- the target STORE_GEN -/
  target : Word32
  /-- tick at which it began -/
  begun : Ticks
  deriving DecidableEq, Repr, Inhabited

/-- The TAP (R390, R391): the instruction register, the boundary register's latches, and the bits last shifted out. -/
structure TapState where
  instr : BitVec 5 := 0x01
  latches : List Bool := []
  out : List Bool := []
  deriving DecidableEq, Repr, Inhabited

/-- Owners and keys (chapter 16). -/
structure OwnerState where
  slots : Vector OwnerSlot 4 := Vector.replicate 4 {}
  change : Option KeyChange := none
  removal : Option Removal := none
  roll : Option EpochRoll := none
  storeGen : Word32 := 0
  /-- SEAL_CTR, and the value committed ahead in SYSTEM (R379) -/
  sealCtr : Word64 := 0
  sealAhead : Word64 := 65536
  /-- SRAM_ROOT (R375) -/
  sramRoot : Bytes := []
  trngFault : Bool := false
  debugOpen : Bool := false
  /-- an erase was completed at this boot (`SSTATE` bit 2) -/
  eraseDone : Bool := false
  /-- the live challenge and the tick of its issue (R392) -/
  challenge : Option (Bytes × Ticks) := none
  erase : Option DebugErase := none
  /-- commands accepted during the erase, which wait until it ends: opcode, header and payload -/
  heldCommands : List (Byte × Hdr × Bytes) := []
  tap : TapState := {}
  deriving DecidableEq, Repr

end Sys2Proof.Machine
end

