-- ==== Sys2Proof/Machine/State/Power.lean ====
section
/-! DEFINITION. The Anchor's state: time, clocks, rails, power domains, power states, wake and the thermal governor
(chapter 03), with the straps and pins of chapter 18 that they read. -/

namespace Sys2Proof.Machine

/-- Power states, coded as Table 3-5 (R78). -/
inductive PowerState where
  | off | bivouac | watch | active | summit
  deriving DecidableEq, Repr, Inhabited

/-- Wake sources, coded as `SOURCE` in `WOKE` (Table 3-20). -/
inductive WakeSource where
  | wakeN | tickAlarm | threshold | rope
  deriving DecidableEq, Repr, Inhabited

/-- Time and the clock sources (R64 to R72, R452, R458). -/
structure ClockState where
  tick : Ticks := 0
  /-- XO24 cycles since the last tick edge, while `counting` (R65) -/
  cycles : Nat := 0
  /-- a tick edge has come since XO24 qualified (R65) -/
  counting : Bool := false
  onLprc : Bool := true
  xo32Ok : Bool := false
  /-- XO32 edges are arriving -/
  xo32Running : Bool := true
  /-- XO32 has been declared absent, or has fallen back: it is retried every 60 s (R68, R69) -/
  xo32Retrying : Bool := false
  /-- the move to XO32 now due is the first of the power-up (R69) -/
  xo32First : Bool := true
  lprcFallbacks : Word32 := 0
  xo24On : Bool := false
  xo24Fail : Bool := false
  /-- the try of XO24 now running: 0 none, 1 first, 2 second (R70) -/
  xo24Try : Nat := 0
  xo24StartLast : Word32 := 0
  xo24StartMax : Word32 := 0
  /-- locks and failures of PLL_C, PLL_A, PLL_L -/
  lock : Vector Bool 3 := Vector.replicate 3 false
  pllFailed : Vector Bool 3 := Vector.replicate 3 false
  /-- ticks of the lock losses of each PLL within the last 10 s (R72) -/
  losses : Vector (List Ticks) 3 := Vector.replicate 3 []
  frcOn : Bool := true
  deriving DecidableEq, Repr

/-- Who feeds VA30, decided at each power-on reset (R76). -/
inductive Va30Source where
  | undecided | internal | external
  deriving DecidableEq, Repr, Inhabited

/-- One watch-channel entry of WAKE_CONFIG (Table 3-14). -/
structure WatchEntry where
  channel : BitVec 5
  count : Nat
  thresh : BitVec 24
  deriving DecidableEq, Repr, Inhabited

/-- WAKE_CONFIG (Table 3-13). -/
structure WakeConfig where
  block : Nat := 256
  ropeWake : Bool := false
  watchRate : BitVec 2 := 2
  entries : List WatchEntry := []
  deriving DecidableEq, Repr, Inhabited

/-- The tick alarm (R97). -/
structure TickAlarm where
  enabled : Bool := false
  value : Ticks := 0
  period : Word32 := 0
  deriving DecidableEq, Repr, Inhabited

/-- THERMAL_CONFIG (Table 3-17). -/
structure ThermalConfig where
  tWarn : Byte := 95
  tThrottle : Byte := 105
  throttleCores : Byte := 4
  throttleDiv : Byte := 1
  deriving DecidableEq, Repr, Inhabited

/-- One governor threshold: set or clear, with the length of the run toward its change (R92). -/
structure Threshold where
  isSet : Bool := false
  run : Nat := 0
  deriving DecidableEq, Repr, Inhabited

/-- Governor states, coded as Table 3-10. -/
inductive ThermalState where
  | normal | warn | throttle | trip
  deriving DecidableEq, Repr, Inhabited

/-- A sleep entry under way (R80 to R82). -/
structure SleepEntry where
  target : PowerState
  discard : Bool
  automatic : Bool
  /-- the command's tag, whose DONE entry waits for (none for automatic sleep) -/
  tag : Option Tag
  /-- entry has begun: streams are suspended -/
  begun : Bool := false
  deriving DecidableEq, Repr, Inhabited

/-- A wake under way (R89). -/
structure Waking where
  from' : PowerState
  source : WakeSource
  channel : Byte
  /-- instant at which the wake was detected -/
  time : Word64
  deriving DecidableEq, Repr, Inhabited

/-- POWER_POLICY (Table 3-19). -/
structure PowerPolicy where
  autoState : BitVec 2 := 0
  cimIdleOff : BitVec 16 := 5
  idleDwell : BitVec 16 := 1000
  deriving DecidableEq, Repr, Inhabited

/-- Rails, domains and power states (R73 to R90). -/
structure PowerBlock where
  state : PowerState := .active
  /-- bit n: PDn is on -/
  on : BitVec 24 := 0x000003
  /-- PD1 is in retention -/
  retention : Bool := false
  /-- requests the sequencer has not yet carried out, oldest first: domain and on/off (R74) -/
  requests : List (Nat × Bool) := []
  vcoreBuck : Bool := true
  vcimBuck : Bool := false
  va30Source : Va30Source := .undecided
  va30Ok : Bool := true
  vioHOk : Bool := true
  vioSOk : Bool := true
  lastWake : Option WakeSource := none
  lastSleep : PowerState := .off
  wakes : Word32 := 0
  entry : Option SleepEntry := none
  waking : Option Waking := none
  /-- tick at which the present sleep began -/
  sleptAt : Ticks := 0
  /-- Bivouac discarded events: EVENTS_LOST follows WOKE (R57) -/
  bivouacLoss : Bool := false
  /-- events that occurred in sleep and are raised at the next wake (R68, R69) -/
  heldEvents : List Event := []
  wake : WakeConfig := {}
  /-- the configuration WATCH was entered with, and the run of each of its channels (R87) -/
  watching : WakeConfig := {}
  watchRuns : List Nat := []
  /-- a watch channel has fired: the wake starts at the next tick edge (R87) -/
  wakeDue : Option (BitVec 5) := none
  alarm : TickAlarm := {}
  policy : PowerPolicy := {}
  deriving DecidableEq, Repr

/-- The thermal governor (R91 to R96) (in part DESIGN CHOICE, log entry 14). -/
structure ThermalBlock where
  config : ThermalConfig := {}
  warn : Threshold := {}
  throttle : Threshold := {}
  trip : Threshold := {}
  /-- Tj and its highest value since power-on, in units of 0.25 degrees -/
  tj : BitVec 16 := 0
  tjMax : BitVec 16 := 0
  hottest : Byte := 0
  /-- the governor has sampled since power-on -/
  sampled : Bool := false
  throttleEntries : Word32 := 0
  tripEntries : Word32 := 0
  /-- PHASE_DIV in force on each core: 0 divides by 40, 1 by 80, 2 by 160 (R71) -/
  phaseDiv : Vector (BitVec 2) 8 := Vector.replicate 8 0
  deriving DecidableEq, Repr

/-- The pins and straps that stand outside the other units (R12, R77, R422). -/
structure PinState where
  /-- the strap word sampled at reset (Table 18-5) -/
  straps : BitVec 4 := 0xF
  /-- RESET_N as driven from outside -/
  resetN : Bool := true
  deriving DecidableEq, Repr

end Sys2Proof.Machine
end

