-- ==== Sys2Proof/Machine/State/Rope.lean ====
section
/-! DEFINITION. The Rope's state: its two ports, the topology, relays and what Ridge models exchange (chapter 15). -/

namespace Sys2Proof.Machine

/-- Link states, coded as Table 15-1. -/
inductive LinkPhase where
  | off | idle | training | up | upOne | asleep | lost
  deriving DecidableEq, Repr, Inhabited

/-- A Rope frame without its link sequence and CRC (Table 15-3): `code` is the CTRL code of Table 15-5 for a CTRL frame. -/
structure RopeFrame where
  type : Byte
  code : Byte := 0
  dst : Byte
  src : Byte
  info : Nat := 0
  payload : Bytes := []
  /-- the port whose receive buffer a frame that waits to be passed on stands in (R360) -/
  buffer : Option (BitVec 1) := none
  deriving DecidableEq, Repr, Inhabited

/-- The eight counters of a port, saturating (ROPE_COUNTERS). -/
structure RopeCounters where
  tx : Word32 := 0
  rx : Word32 := 0
  crcErrors : Word32 := 0
  naks : Word32 := 0
  replays : Word32 := 0
  trainings : Word32 := 0
  degrades : Word32 := 0
  lost : Word32 := 0
  deriving DecidableEq, Repr, Inhabited

/-- A Rope port, U or D. -/
structure RopePort where
  phase : LinkPhase := .off
  /-- lanes in use, lanes that have code-group synchronisation, and lanes that may be used (R350) -/
  lanes : BitVec 2 := 0
  synced : BitVec 2 := 0
  allowed : BitVec 2 := 3
  /-- UP since PD11 was powered -/
  everUp : Bool := false
  /-- attempts of the training that runs, the state it started from, and what the attempt has received -/
  attempt : Nat := 0
  from' : LinkPhase := .idle
  train : Option (BitVec 2) := none
  acked : Option (BitVec 2) := none
  neighbour : Byte := 0xFF
  neighbourId : Option (Word64 × Word32) := none
  /-- the neighbour's identity has changed since the last training (R351) -/
  changed : Bool := false
  /-- ticks of the synchronisation losses of lanes 0 and 1 within 1 s (R350) -/
  losses : Vector (List Ticks) 2 := Vector.replicate 2 []
  /-- next LSEQ to send, and the LSEQ expected -/
  txSeq : BitVec 12 := 0
  rxSeq : BitVec 12 := 0
  /-- the replay buffer: sent frames not yet acknowledged, oldest first -/
  replay : List (BitVec 12 × RopeFrame) := []
  /-- frames that wait for credit, or for an ASLEEP neighbour -/
  waiting : List RopeFrame := []
  /-- credits held for VC0 to VC3, in 64-byte units, and freed by received frames but not yet returned -/
  credits : Vector Nat 4 := Vector.replicate 4 0
  owed : Vector Nat 4 := Vector.replicate 4 0
  /-- refusals of one frame in succession (R349) -/
  refused : Nat := 0
  /-- a NAK is due, and the frames received since the last acknowledgement -/
  nak : Bool := false
  unacked : Nat := 0
  /-- a wake burst has been driven toward an ASLEEP neighbour (R368) -/
  burst : Bool := false
  retrainTag : Option Tag := none
  /-- tick at which the training that runs began -/
  trainAt : Ticks := 0
  /-- a training is due and waits for the stream fabric to admit its bubble (R161) -/
  due : Bool := false
  /-- the last frame driven on the port, and its bytes on lanes 0 and 1 (R347) -/
  sent : Option RopeFrame := none
  lane : Vector Bytes 2 := #v[[], []]
  /-- its code groups on the lanes, and the lanes' running disparity after them, 1 for positive (R345) -/
  groups : Vector (List (BitVec 10)) 2 := #v[[], []]
  disparity : BitVec 2 := 0
  counters : RopeCounters := {}
  deriving DecidableEq, Repr, Inhabited

/-- A relay this chip has sent and that has not ended (R367). -/
structure RelayOut where
  tag : Tag
  dst : Byte
  id : BitVec 16
  /-- the destination has taken the packet -/
  taken : Bool := false
  got : Bytes := []
  deriving DecidableEq, Repr, Inhabited

/-- A relayed command received from another chip: packet bytes so far, or the tag it runs under. -/
structure RelayIn where
  src : Byte
  id : BitVec 16
  got : Bytes := []
  tag : Option Tag := none
  deriving DecidableEq, Repr, Inhabited

/-- Outputs of a layer that wait for a LAND_GRANT of the receiving chip (R362). -/
structure ActSend where
  model : Nat
  /-- layer that takes them; 0xFF for scores -/
  layer : Nat
  source : Nat
  dst : Nat
  frames : List (BitVec 16 × Bytes)
  deriving DecidableEq, Repr, Inhabited

/-- Activations or scores that are arriving in ACT frames (R362): source chip, FRAME_REF and bytes so far. -/
structure Landing where
  model : Nat
  layer : Nat
  src : Nat
  ref : BitVec 16
  got : Bytes := []
  deriving DecidableEq, Repr, Inhabited

/-- A circulation round of a Ridge-Circulated model (R364). -/
structure Circulation where
  round : Word32 := 0
  running : Bool := false
  /-- on the head: chips that have reported ROUND_DONE, and those with frames waiting -/
  done : List Nat := []
  waiting : List Nat := []
  /-- bytes of the shards this chip sources that are outstanding, and the WSTREAM frames it has not sent yet -/
  outstanding : Nat := 0
  unsent : List RopeFrame := []
  /-- bytes of other chips' shards applied so far: layer, shard and count -/
  applied : List (Nat × Nat × Nat) := []
  deriving DecidableEq, Repr, Inhabited

/-- What a chip keeps of a Ridge model (R361, R386, R387). -/
structure RidgeModel where
  salt : Bytes := []
  /-- next FRAME_REF and its era -/
  ref : BitVec 16 := 0
  era : Nat := 0
  /-- the era of received frames, and whether a FRAME_REF at 0xC000 or above has been seen under it -/
  rxEra : Nat := 0
  rxHigh : Bool := false
  circ : Circulation := {}
  deriving DecidableEq, Repr, Inhabited

/-- The Rope (chapter 15) (in part DESIGN CHOICE, log entry 148). -/
structure RopeState where
  /-- U and D -/
  ports : Vector RopePort 2 := Vector.replicate 2 {}
  /-- chip index; 0xFF while not enumerated -/
  index : Nat := 0xFF
  /-- an index taken from ENUM that TOPOLOGY has not confirmed -/
  offered : Option Nat := none
  topo : Topo := .none
  count : Nat := 0
  gen : Byte := 0
  lostMask : Word64 := 0
  /-- DEVICE_ID by index; indices that hold a replacement chip; the kind before the loss -/
  ids : List Word64 := []
  replaced : List Nat := []
  before : Topo := .none
  headId : Word64 := 0
  heartbeat : Bool := false
  conflict : Bool := false
  noEnumRaised : Bool := false
  detached : Bool := false
  /-- an enumeration is under way, with the command that asked for it -/
  enumerating : Bool := false
  enumTag : Option Tag := none
  attachTag : Option Tag := none
  /-- links reported lost, as port and chip -/
  links : List (Nat × Nat) := []
  relaysOut : List RelayOut := []
  relaysIn : List RelayIn := []
  nextRelay : BitVec 16 := 0
  sends : List ActSend := []
  landings : List Landing := []
  /-- frames granted by receiving chips, by model and layer -/
  grants : List (Nat × Nat × Nat) := []
  models : Vector RidgeModel 8 := Vector.replicate 8 {}
  /-- frames made by this chip that have not been routed to a port yet -/
  out : List RopeFrame := []
  deriving DecidableEq, Repr

end Sys2Proof.Machine
end

