-- ==== Sys2Proof/Machine/State/Stream.lean ====
section
/-! DEFINITION. Streams, bursts, sensor ports and the tach and encoder inputs (chapter 06). -/

namespace Sys2Proof.Machine

/-- Stream states, coded as Table 6-1. -/
inductive StreamPhase where
  | unconfigured | stopped | running | suspended | waiting
  deriving DecidableEq, Repr, Inhabited

/-- Which part of the frame a sample belongs to (R149, R163). -/
inductive SampleClass where
  | calibration | discarded | measured
  deriving DecidableEq, Repr, Inhabited

/-- Where an open frame stands in the order of R149. -/
inductive FrameStep where
  | settle | calibrating | discarding | measuring
  deriving DecidableEq, Repr, Inhabited

/-- The belt as a header shows it: the three quantities, `POS_STATE` and `ENC_LOST` (R180). -/
structure BeltView where
  count : Word32 := 0
  offset : Word32 := 0
  index : BitVec 16 := 0
  state : BitVec 2 := 0
  lost : Bool := false
  deriving DecidableEq, Repr, Inhabited

/-- A frame that is open (R149 to R151, R163). -/
structure OpenFrame where
  seq : Word32 := 0
  step : FrameStep := .measuring
  /-- samples taken in the present step, lost ones included -/
  taken : Nat := 0
  /-- samples already moved into the slot: calibration, then measurement -/
  calSamples : List Int := []
  samples : List Int := []
  /-- measurement samples stored, those still in the FIFO included -/
  stored : Nat := 0
  lostCal : Nat := 0
  lostMeas : Nat := 0
  gapAt : Option Nat := none
  calSwallowed : Bool := false
  measSwallowed : Bool := false
  tStart : Word64 := 0
  tClose : Word64 := 0
  saturated : Bool := false
  /-- the burst's LEAD segment runs: it has a source (R139) -/
  leading : Bool := false
  /-- the belt at the last stored sample -/
  belt : BeltView := {}
  /-- tach edges counted since the measurement burst began (R150) -/
  edges : Nat := 0
  revsDone : Bool := false
  deriving DecidableEq, Repr, Inhabited

/-- What a frame takes at its close for the feature frame's header (R179, R180, R185 to R187). -/
structure FrameContext where
  encCount : Word32 := 0
  spliceOffset : Word32 := 0
  spliceIndex : BitVec 16 := 0
  /-- `TRACK` (Table 7-8) and `MSTATE` (Table 7-7) -/
  track : Byte := 0
  mstate : Byte := 0
  speed : Word32 := 0
  accel : Word32 := 0
  load : BitVec 16 := 0
  /-- reference events of the frame, oldest first: nanoseconds and edge or count index; the index per revolution in
  1/256; the close and start instants in the same nanoseconds (R178) -/
  events : List (Nat × Int) := []
  perRev : Nat := 0
  deriving DecidableEq, Repr, Inhabited

/-- A closed frame in its slot: the descriptor of Table 6-4 and the samples (R168). -/
structure ClosedFrame where
  stream : Nat
  partly : Bool := false
  staleCal : Bool := false
  degraded : Bool := false
  saturated : Bool := false
  sensorFault : Bool := false
  staleRun : Byte := 0
  closeCause : Byte := 0
  seq : Word32 := 0
  tStart : Word64 := 0
  tClose : Word64 := 0
  calTime : Word64 := 0
  lost : Word32 := 0
  gapAt : Word32 := 0xFFFFFFFF
  calAge : BitVec 16 := 0
  revsDone : BitVec 16 := 0
  calSamples : List Int := []
  samples : List Int := []
  ctx : FrameContext := {}
  /-- a member of a pair whose partner has not closed yet (R142) -/
  awaiting : Bool := false
  /-- IMPLAUSIBLE of an analogue stream's channel at the close (R145) -/
  implausible : Bool := false
  /-- the tag of its lines (R211) -/
  tag : LineTag := {}
  deriving DecidableEq, Repr, Inhabited

/-- The nine counters of a stream (`STREAM_COUNTERS`), saturating. -/
structure StreamCounters where
  closed : Word32 := 0
  partly : Word32 := 0
  stale : Word32 := 0
  degraded : Word32 := 0
  skipped : Word32 := 0
  discarded : Word32 := 0
  samplesLost : Word32 := 0
  calSwallowed : Word32 := 0
  measSwallowed : Word32 := 0
  deriving DecidableEq, Repr, Inhabited

/-- Counts since the stream's previous STREAM_LOSS (Table 6-13). -/
structure LossNote where
  lost : Word32 := 0
  partly : BitVec 16 := 0
  stale : BitVec 16 := 0
  /-- tick of the previous STREAM_LOSS -/
  last : Option Ticks := none
  deriving DecidableEq, Repr, Inhabited

/-- One of the 96 streams (R147, R148). -/
structure Strm where
  phase : StreamPhase := .unconfigured
  ctrl : Word32 := 0
  frameLen : Word32 := 0
  bufFrames : Byte := 0
  period : Word32 := 0
  frameLimit : Word32 := 0
  staleRun : Byte := 0
  /-- next FRAME_SEQ -/
  seq : Word32 := 0
  /-- frames closed since the start -/
  run : Word32 := 0
  /-- STREAM_STOP after the current frame has been asked for -/
  stopAfter : Bool := false
  /-- the start waits for its instant (R152) -/
  starting : Bool := false
  fifo : List (SampleClass × Int) := []
  frame : Option OpenFrame := none
  /-- a CONTINUOUS start has been skipped for want of a slot since the last frame (R166) -/
  skipped : Bool := false
  held : List ClosedFrame := []
  counters : StreamCounters := {}
  loss : LossNote := {}
  deriving DecidableEq, Repr, Inhabited

/-- A STREAM_START waiting for its start instant (R152). -/
structure StartRun where
  tag : Tag
  streams : List Nat
  deriving DecidableEq, Repr, Inhabited

/-- A STREAM_STOP after the current frame that waits for its streams. -/
structure StopRun where
  tag : Tag
  streams : List Nat
  deriving DecidableEq, Repr, Inhabited

/-- The STREAM_SNAPSHOT in progress (one on the device). -/
structure SnapRun where
  tag : Tag
  stream : Nat
  first : Nat
  count : Nat
  deriving DecidableEq, Repr, Inhabited

/-- Modes of a sensor port. -/
inductive PortMode where
  | disabled | tdm | spi
  deriving DecidableEq, Repr, Inhabited

/-- The last poll of an SPI sensor: the levels of SPp_CS3 to SPp_CS0 during it, the SPI mode and the bytes sent (R157). -/
structure SpiPoll where
  cs : BitVec 4
  mode : BitVec 2
  sent : Bytes
  deriving DecidableEq, Repr, Inhabited

/-- A sensor port (R154 to R157); `lost` is the LOST state of R156. -/
structure Port where
  mode : PortMode := .disabled
  /-- TDM_CFG or SPI_CFG -/
  cfg : Word32 := 0
  fsRate : Word32 := 0
  /-- the sensor entries of Table 6-10, 16 bytes each -/
  sensors : List Bytes := []
  lost : Bool := false
  measured : Word32 := 0
  lostCount : Word32 := 0
  /-- consecutive good frame-sync periods while LOST -/
  good : Nat := 0
  poll : Option SpiPoll := none
  deriving DecidableEq, Repr, Inhabited

/-- ACTIVE and IDLE of a tach input or the encoder (R158). -/
inductive InputPhase where
  | disabled | active | idle
  deriving DecidableEq, Repr, Inhabited

/-- A tach input (R158). -/
structure Tach where
  word : Word32 := 0
  phase : InputPhase := .disabled
  edges : Word32 := 0
  periodNs : Word32 := 0
  /-- the accepted level; none before the first one after the input is enabled, DEDUCED (R158, log entry 173) -/
  level : Option Bool := none
  /-- time of the last counted edge in nanoseconds -/
  lastNs : Option Nat := none
  /-- instant at which the input last became ACTIVE -/
  since : Word64 := 0
  /-- counted edges back to the start of the oldest frame not yet closed, newest first: instant, nanoseconds, number -/
  log : List (Word64 × Nat × Int) := []
  deriving DecidableEq, Repr, Inhabited

/-- The quadrature encoder (R159). -/
structure Encoder where
  word : Word32 := 0
  phase : InputPhase := .disabled
  errors : Word32 := 0
  zPulses : Word32 := 0
  /-- A and B at the last sample -/
  a : Bool := false
  b : Bool := false
  /-- instant at which the encoder last became ACTIVE -/
  since : Word64 := 0
  /-- count changes, as for a tach -/
  log : List (Word64 × Nat × Int) := []
  deriving DecidableEq, Repr, Inhabited

/-- Streams and inputs (chapter 06). -/
structure StreamBlock where
  streams : Vector Strm 96 := Vector.replicate 96 {}
  bubbles : Word32 := 0
  bubbleMaxUs : Word32 := 0
  /-- end of the last bubble (R161) -/
  bubbleEnd : Option Word64 := none
  starts : List StartRun := []
  stops : List StopRun := []
  snapshot : Option SnapRun := none
  ports : Vector Port 4 := Vector.replicate 4 {}
  tachs : Vector Tach 4 := Vector.replicate 4 {}
  encoder : Encoder := {}
  deriving DecidableEq, Repr

end Sys2Proof.Machine
end

