-- ==== Sys2Proof/Machine/State.lean ====
section
/-! DEFINITION. The whole state of the Pyruz block, as plain data, and the state after a power-on reset. -/

namespace Sys2Proof.Machine

/-- Why the block stops with a fault. -/
inductive Fault where
  /-- never raised: every error the spec describes is a status, a counter or an event, and the block goes on (safe;
  DESIGN CHOICE, log entry 128) -/
  | none
  deriving DecidableEq, Repr

/-- Why the model gives no effect. -/
inductive Refusal where
  /-- a command that has no meaning in the model yet, by its mnemonic (safe) -/
  | notModelled (mnemonic : String)
  /-- DBG_ACCESS while debug is open: the spec gives the 96-bit register no format (safe) -/
  | debugAccess
  deriving DecidableEq, Repr

/-- The block's state: one part for each unit, the queue of commands that wait, and the count of free values drawn
(the model's own field, log entry 2). -/
structure State where
  link : LinkState := {}
  clk : ClockState := {}
  pwr : PowerBlock := {}
  thm : ThermalBlock := {}
  pins : PinState := {}
  boot : BootState := {}
  nvm : NvmState := {}
  cairn : CairnState := {}
  afe : AfeState := {}
  stm : StreamBlock := {}
  feat : FeatureBlock := {}
  own : OwnerState := {}
  bly : BelayBlock := {}
  mdl : ModelBlock := {}
  lrn : LearnBlock := {}
  rope : RopeState := {}
  free : Nat := 0
  pending : List Instr := []
  deriving DecidableEq, Repr

/-- The text of firmware slot A's record at manufacture: VALID, major version 1 (R2). -/
def manufactureSlot : Bytes := 0x02 :: 0x01 :: List.replicate 15 0

/-- `SEAL_CTR` committed ahead at manufacture (R379). -/
def manufactureSeal : Bytes := le 8 65536

/-- The commit record of a record's first update. -/
def firstCommit (b : Bytes) : CommitRecord := { seq := 1, copy := 0, length := b.length, crc := crc32c b }

/-- The page that holds the manufacture entry in its first position. -/
def manufacturePage : Bytes := fixed 256 manufactureEntry

/-- The header of a journal record of manufacture, and the page it covers. -/
def manufactureHeader (record target : Nat) : Bytes :=
  let b := le 4 record ++ le 2 target ++ le 4 2
  b ++ le 4 (crc32c (manufacturePage ++ b)).toNat

/-- The pages that manufacture has programmed: the two journal records of the manufacture entry, the records of `SEAL_CTR` and
of firmware slot A, and the entry's two positions. -/
def manufacturePages : List PageInfo :=
  let page (n : Nat) (b : Bytes) : PageInfo := { page := n, programs := 1, data := b }
  [page 256 manufacturePage, page 257 (manufactureHeader 1 0x1240), page 258 manufacturePage, page 259 (manufactureHeader 2 0x1200),
   page 338 manufactureSeal, page 340 (firstCommit manufactureSeal).bytes, page 0x180 manufactureSlot,
   page 0x182 (firstCommit manufactureSlot).bytes, page 0x1200 manufacturePage, page 0x1240 manufacturePage]

/-- The records of a part as it leaves manufacture. -/
def manufactureRecords : Vector CopyRecord 11 :=
  let record (b : Bytes) : CopyRecord := { copies := #v[b, []], commits := [firstCommit b] }
  ((Vector.replicate 11 {}).set 6 (record manufactureSeal)).set 8 (record manufactureSlot)

/-- A part as it leaves manufacture, in its first power-on reset, which has taken effect and is not yet released
(log entry 1): `SRAM_ROOT` is the first draw of the DRBG (R375), and the record holds the manufacture entry and its
original (Table 17-3). -/
def State.reset : State :=
  { boot := { stage := .held }
    nvm := { pages := manufacturePages, records := manufactureRecords }
    own := { sramRoot := Config.random 0 32 }
    bly := { latches := Vector.replicate 4 { level := .notReady, code := 205 } }
    free := 1 }

end Sys2Proof.Machine
end

