-- ==== Sys2Proof/Machine/Ops.lean ====
section
/-! DEFINITION. The named operations over the state that every family uses: byte order, banks of registers, CRC-32C,
time, events, replies, the Cairn's queue, the NVM's buffer and requests for power domains. -/

namespace Sys2Proof.Machine

/-! ### Banks of registers -/

/-- Read one of a bank. -/
def rd {α : Type} [Inhabited α] {n : Nat} (v : Vector α n) (i : Nat) : α := v.toList.getD i default

/-- Write one of a bank; a number outside it writes nothing. -/
def wr {α : Type} {n : Nat} (v : Vector α n) (i : Nat) (x : α) : Vector α n := v.setIfInBounds i x

/-- Change one of a bank. -/
def upd {α : Type} [Inhabited α] {n : Nat} (v : Vector α n) (i : Nat) (f : α → α) : Vector α n := wr v i (f (rd v i))

/-- The numbers below `n` whose bit is set in a mask, rising. -/
def members (n mask : Nat) : List Nat := (List.range n).filter (bit mask)

/-! ### Time (R64 to R66) -/

/-- The fraction of Table 3-1: floor(c x 2^31 / 24 000 000), saturating; 0 while XO24 is stopped or not yet counted, from the
instant it stops (R65, against R66) (in part DESIGN CHOICE, log entry 160). -/
def fraction (c : ClockState) : Nat :=
  if c.xo24On && c.counting then min 0xFFFF (c.cycles * 2 ^ 31 / 24000000) else 0

/-- The timestamp of the present instant. -/
def now (s : State) : Word64 := BitVec.ofNat 64 (s.clk.tick.toNat * 65536 + fraction s.clk)

/-- Ticks from one count to a later one, across the counter's wrap. -/
def since (s : State) (t : Ticks) : Nat := (s.clk.tick - t).toNat

/-- A fresh free value (log entry 2), and the state that has drawn it. -/
def drawFree (s : State) : Word64 × State := (Config.freeValue s.free, { s with free := s.free + 1 })

/-! ### The host port -/

/-- Change the host port's part of the state. -/
def State.mapLink (s : State) (f : LinkState → LinkState) : State := { s with link := f s.link }

/-- An outbound packet is an event. -/
def Outbound.isEvent : Outbound → Bool
  | .event _ => true
  | _ => false

/-- An outbound packet is a low-priority event. -/
def Outbound.isLow : Outbound → Bool
  | .event e => !e.high
  | _ => false

/-- An outbound packet is a reject notice. -/
def Outbound.isNotice : Outbound → Bool
  | .notice _ => true
  | _ => false

/-- Events waiting in the queue of 128 (R56). -/
def LinkState.events (l : LinkState) : Nat := l.out.countP Outbound.isEvent

/-- Count an overwritten event (R56). -/
def LinkState.overwrite (l : LinkState) : LinkState :=
  { l with
    counters := { l.counters with eventsOverwritten := satInc l.counters.eventsOverwritten }
    lostOver := satInc l.lostOver, lossPending := true, eventLost := true }

/-- Count `n` dropped events (R56, R57). -/
def LinkState.drop (l : LinkState) (n : Nat) : LinkState :=
  { l with
    counters := { l.counters with eventsDropped := satAdd l.counters.eventsDropped n }
    lostDrop := satAdd l.lostDrop n, lossPending := true, eventLost := true }

/-- Queue an event under R56; with LOW_EVENTS at 0 a low-priority event is discarded at its source. -/
def LinkState.queueEvent (l : LinkState) (e : Event) : LinkState :=
  if !e.high && !l.lowEvents then l
  else if l.events < 128 then { l with out := l.out ++ [.event e] }
  else if l.out.any Outbound.isLow then
    { l with out := l.out.eraseP Outbound.isLow ++ [Outbound.event e] : LinkState }.overwrite
  else if e.high then { l with out := l.out.eraseP Outbound.isEvent ++ [Outbound.event e] : LinkState }.overwrite
  else l.drop 1

/-- Keep the highest level of a queue of QUEUE_STATUS (queue code less 1) (in part DEDUCED, log entry 141). -/
def noteHigh (q n : Nat) (s : State) : State :=
  { s with mdl := { s.mdl with high := upd s.mdl.high q (max n) } }

/-- Raise an event whose occurrence has a timestamp of its own. -/
def raiseAt (time : Word64) (code : Byte) (high : Bool) (owner : Option (BitVec 2)) (body : Bytes) (s : State) : State :=
  let s := s.mapLink (·.queueEvent { code, high, owner, time, body })
  noteHigh 5 s.link.events s

/-- Raise an event that occurs now and concerns no owner. -/
def raise (code : Byte) (high : Bool) (body : Bytes) (s : State) : State := raiseAt (now s) code high none body s

/-- Raise an event that concerns one owner's model, head or result (R55). -/
def raiseOwned (owner : BitVec 2) (code : Byte) (high : Bool) (body : Bytes) (s : State) : State :=
  raiseAt (now s) code high (some owner) body s

/-- Queue EVENTS_LOST with the losses since the previous one (Table 2-19). -/
def eventsLost (s : State) : State :=
  let body := le 4 s.link.lostOver.toNat ++ le 4 s.link.lostDrop.toNat
  raise 0x02 true body (s.mapLink fun l => { l with lostOver := 0, lostDrop := 0, lossPending := false })

/-- The reply slot of a tag in flight. -/
def State.slot? (s : State) (tag : Tag) : Option Slot := s.link.slots.find? (·.tag == tag)

/-- Change the reply slot of a tag. -/
def onSlot (tag : Tag) (f : Slot → Slot) (s : State) : State :=
  s.mapLink fun l => { l with slots := l.slots.map fun c => if c.tag == tag then f c else c }

/-- Record the passing of a command's commit point (R39, R52). -/
def commitMark (tag : Tag) (s : State) : State := onSlot tag (fun c => { c with committed := true }) s

/-- The reply packet of a slot. -/
def Slot.reply (c : Slot) (status : Byte) (payload : Bytes) : Reply :=
  { opcode := c.opcode, tag := c.tag, status, secure := c.secure && !c.plain, owner := c.owner, session := c.session,
    seq := c.seq, payload }

/-- An unpulled STARTED of a tag. -/
def isStarted (tag : Tag) : Outbound → Bool
  | .reply r => r.tag == tag && r.status == 0x01
  | _ => false

/-- The command came by the host port, not over the Rope (R367). -/
def hostTag (tag : Tag) : Bool := decide (tag.toNat < 64)

/-- Make a terminal reply pending: an unpulled STARTED is withdrawn (R34, R35). A tag not in flight gets none. While the
firmware restarts a command in flight gets none either: one that would end with DONE has reached its commit point, and each
ends with INTERNAL once the firmware is ready (R39) (in part DEDUCED, log entry 125). -/
def finish (tag : Tag) (status : Byte) (payload : Bytes) (s : State) : State :=
  match s.slot? tag with
  | none => s
  | some c =>
    if c.replied then s
    else if s.boot.phase == .restarting && !c.plain then (if status == 0x00 then commitMark tag s else s)
    else
      (onSlot tag (fun c => { c with replied := true }) s).mapLink fun l =>
        if hostTag tag then { l with out := l.out.filter (fun o => !isStarted tag o) ++ [.reply (c.reply status payload)] }
        else { l with relayed := l.relayed ++ [.reply (c.reply status payload)] }

/-- Make a terminal reply without payload pending on each of some tags. -/
def finishAll (tags : List Tag) (status : Byte) (s : State) : State :=
  tags.foldl (fun s t => finish t status [] s) s

/-- Send STARTED (R35); a relayed command's is dropped (R367). -/
def started (tag : Tag) (s : State) : State :=
  match s.slot? tag with
  | none => s
  | some c => if hostTag tag then s.mapLink fun l => { l with out := l.out ++ [.reply (c.reply 0x01 [])] } else s

/-- DONE with a payload. -/
def doneWith (h : Hdr) (payload : Bytes) (s : State) : State := finish h.tag 0x00 payload (commitMark h.tag s)

/-- Queue a reject notice; a ninth overwrites the oldest (R32). -/
def notice (n : Notice) (s : State) : State :=
  s.mapLink fun l =>
    if !hostTag n.tag then { l with relayed := l.relayed ++ [.notice n] }
    else if l.out.countP Outbound.isNotice < 8 then { l with out := l.out ++ [.notice n] }
    else
      { l with
        out := l.out.eraseP Outbound.isNotice ++ [.notice n]
        counters := { l.counters with rejectsLost := satInc l.counters.rejectsLost } }

/-- The session of an owner slot. -/
def State.session (s : State) (owner : BitVec 2) : Session := rd s.link.sessions owner.toNat

/-- Commands of a session in flight (R44, Table 2-18). -/
def inFlight (s : State) (id : Word32) : Nat := s.link.slots.countP fun c => c.secure && c.session == id

/-- End a live session and raise SESSION_ENDED with its reason (Table 2-19). -/
def endSession (slot : Nat) (reason : Byte) (s : State) : State :=
  let old := rd s.link.sessions slot
  if old.phase == .none then s
  else
    raise 0x03 true ([BitVec.ofNat 8 slot, reason, 0, 0] ++ le 4 old.id.toNat)
      (s.mapLink fun l => { l with sessions := wr l.sessions slot {}, sessionEnd := true })

/-! ### Power domains (R74, R90) -/

/-- Domain n is on. -/
def State.isOn (s : State) (n : Nat) : Bool := s.pwr.on.getLsbD n

/-- Set or clear a domain's bit. -/
def setDomain (n : Nat) (v : Bool) (s : State) : State :=
  { s with pwr := { s.pwr with on := if v then s.pwr.on ||| (1#24 <<< n) else s.pwr.on &&& ~~~(1#24 <<< n) } }

/-- Ask the sequencer for a domain to be on or off; a request already waiting for it is replaced. -/
def wantDomain (n : Nat) (v : Bool) (s : State) : State :=
  let rest := s.pwr.requests.filter (fun r => r.1 != n)
  { s with pwr := { s.pwr with requests := if s.isOn n == v then rest else rest ++ [(n, v)] } }

/-- A bubble of the stream fabric, `us` long, while PD7 is on (R161). -/
def countBubble (us : Nat) (s : State) : State :=
  if !s.isOn 7 then s
  else
    { s with stm := { s.stm with
        bubbles := satInc s.stm.bubbles
        bubbleEnd := some (now s)
        bubbleMaxUs := if s.stm.bubbleMaxUs.toNat < us then satAdd 0 us else s.stm.bubbleMaxUs } }

/-- A bubble lasts: a commit record is being programmed, or a port trains (Table 6-2). -/
def bubbling (s : State) : Bool :=
  s.isOn 7 && ((s.nvm.busy == .posted && s.nvm.posted.head?.any (·.commit)) || s.rope.ports.toList.any (·.phase == .training))

/-- A bubble may begin: none lasts, and while a stream is in a burst the fabric has run for 50 us since the last one (R161). DEDUCED: what would insert a bubble waits for that (log entry 175). -/
def mayBubble (s : State) : Bool :=
  !s.isOn 7 || (!bubbling s && (!(s.stm.streams.toList.any (·.frame.isSome))
    || s.stm.bubbleEnd.all fun t => decide (t.toNat + 107375 ≤ (now s).toNat)))

/-- The PLLs whose clock a domain needs while the device is awake: 0 PLL_C, 1 PLL_A, 2 PLL_L; PD6 needs PD7 (Table 3-3)
(in part DEDUCED, log entry 124). -/
def clocksOf (n : Nat) : List Nat :=
  if n < 4 then [] else if n < 6 then [0, 1] else if n == 11 then [0, 2] else [0]

/-- XO24 or a PLL that a domain needs has failed, which keeps the domain off (R70, R72). -/
def clockDown (s : State) (n : Nat) : Bool := (clocksOf n).any fun k => s.clk.xo24Fail || rd s.clk.pllFailed k

/-- The blocks that CORECLK clocks can have no clock. -/
def pllDown (s : State) : Bool := clockDown s 7

/-- A domain's blocks work: it is on, no reset is in progress and its clocks run, which is FRC in WATCH (R72, R73, R115,
R458). -/
def works (s : State) (n : Nat) : Bool :=
  s.isOn n && s.boot.stage == .none
    && (if s.pwr.state == .watch then s.clk.frcOn else (clocksOf n).all fun k => rd s.clk.lock k)

/-! ### The Cairn's queue (R404) -/

/-- The critical types of Table 17-3, which the pinned area keeps. -/
def pinnedTypes : List (BitVec 16) :=
  [0x0001, 0x0003, 0x0004, 0x1001, 0x1002, 0x8002, 0x8003, 0x8004, 0xA002, 0xA003, 0xC001, 0xC003, 0xD002]

/-- `BOOT_COUNT` of an occurrence now: the stored count plus one before READY (R399). -/
def bootOf (s : State) : Word32 := if s.boot.counted then s.boot.bootCount else s.boot.bootCount + 1

/-- Enter an entry in the queue, or in the Anchor's own places while PD1 is in retention; one that finds no place
is dropped and counted (in part DEDUCED, log entry 9). -/
def cairnPut (e : CairnEntry) (s : State) : State :=
  let critical := pinnedTypes.contains e.type
  let room := if s.pwr.retention then decide (s.cairn.anchor.length < 4)
    else decide (s.cairn.queue.length < 32) || (critical && decide (s.cairn.queue.length < 40))
  let c := s.cairn
  if !room then
    { s with cairn := { c with
        dropped := satInc c.dropped
        droppedCritical := if critical then satInc c.droppedCritical else c.droppedCritical
        droppedReset := satInc c.droppedReset } }
  else if s.pwr.retention then { s with cairn := { c with anchor := c.anchor ++ [e] } }
  else { s with cairn := { c with queue := c.queue ++ [e] } }

/-- Write a Cairn entry of an occurrence now, and have the NVM powered. -/
def cairn (type source : BitVec 16) (payload : Bytes) (s : State) : State :=
  wantDomain 3 (!s.pwr.retention || s.isOn 3) <| cairnPut { type, source, time := now s, bootCount := bootOf s, payload } s

/-! ### The NVM's posted write buffer (R220, R456) -/

/-- Programs among the operations of the buffer. -/
def postedPrograms (ops : List NvmOp) : Nat := ops.countP fun o => !o.erase

/-- Move waiting operations into the buffer, in order, while it has room for 8 programs. -/
def refill : List NvmOp → List NvmOp → List NvmOp × List NvmOp
  | posted, [] => (posted, [])
  | posted, w :: ws => if w.erase || postedPrograms posted < 8 then refill (posted ++ [w]) ws else (posted, w :: ws)

/-- Let waiting writers in. -/
def nvmRefill (s : State) : State :=
  let r := refill s.nvm.posted s.nvm.waiting
  { s with nvm := { s.nvm with posted := r.1, waiting := r.2 } }

/-- Post operations in order, behind every writer that waits already, and have the NVM powered. Once a reset has begun
nothing is posted (R115). -/
def postNvm (ops : List NvmOp) (s : State) : State :=
  if s.boot.stage != .none then s else
  let s := nvmRefill { s with nvm := { s.nvm with waiting := s.nvm.waiting ++ ops } }
  wantDomain 3 true (noteHigh 7 (postedPrograms s.nvm.posted) s)

/-- Withdraw a command's operations; one that the NVM has begun goes on (R52, R457). -/
def cancelNvm (tag : Tag) (s : State) : State :=
  let keep (ops : List NvmOp) := ops.filter fun o => o.tag != some tag
  nvmRefill { s with nvm := { s.nvm with
    posted := if s.nvm.busy == .posted then s.nvm.posted.take 1 ++ keep (s.nvm.posted.drop 1) else keep s.nvm.posted
    waiting := keep s.nvm.waiting } }

/-! ### Records kept by copies (R222) -/

/-- Place of a record in `NvmState.records`. -/
def RecordKind.index : RecordKind → Nat
  | .label => 0 | .select => 1 | .svn => 2 | .bootCount => 3 | .erase => 4 | .storeGen => 5 | .sealCtr => 6 | .keys => 7
  | .slotA => 8 | .slotB => 9 | .wear => 10

/-- First page of a record, and the number of pages of one of its copies: the two copies stand first, then the commit page
(DESIGN CHOICE, log entry 8: the spec places no record inside its region; the journal takes the first 64 pages of SYSTEM). -/
def RecordKind.base : RecordKind → Nat
  | .keys => 0x1180 | .slotA => 0x180 | .slotB => 0x980 | .wear => 0x1600
  | k => 256 + 64 + 3 * k.index

/-- Pages of one of a record's copies. -/
def RecordKind.size : RecordKind → Nat
  | .keys => 4
  | .wear => 6
  | _ => 1

/-- Pages of a copy of a record, and its commit page. -/
def copyPages (k : RecordKind) (copy : Nat) : List Nat := (List.range k.size).map fun i => k.base + copy * k.size + i
def recordPage (k : RecordKind) : Nat := k.base + 2 * k.size

/-- The copy that a commit record names checks: its length and its CRC-32C. -/
def CopyRecord.checks (r : CopyRecord) (c : CommitRecord) : Bool :=
  (rd r.copies c.copy).length == c.length && crc32c (rd r.copies c.copy) == c.crc

/-- The commit record in force: that with the highest sequence number whose copy checks. -/
def CopyRecord.current (r : CopyRecord) : Option CommitRecord := r.commits.find? r.checks

/-- The bytes of the current copy; none where the record reads as never written. -/
def CopyRecord.content (r : CopyRecord) : Bytes := (r.current.map fun c => rd r.copies c.copy).getD []

/-- A record. -/
def State.record (s : State) (k : RecordKind) : CopyRecord := rd s.nvm.records k.index

/-- The commit record that the next update of a record follows: the last one on its way, or the one in force. -/
def lastCommit (s : State) (k : RecordKind) : Option CommitRecord :=
  let waiting := (s.nvm.posted ++ s.nvm.waiting).filterMap fun o => match o.job with
    | .recordCommit j c => if j == k then some c else none
    | .wearCommit c _ => if k == .wear then some c else none
    | _ => none
  match waiting.getLast? with
  | some c => some c
  | none => (s.record k).current

/-- The operations of a record's update: the copy that is not current, then the commit record, which shares its page with the
one before it. -/
def recordOps (k : RecordKind) (content : Bytes) (tag : Option Tag) (bootPath : Bool) (s : State) : List NvmOp :=
  let last := lastCommit s k
  let copy := match last with | some c => 1 - c.copy | none => 0
  let record : CommitRecord :=
    { seq := (match last with | some c => c.seq | none => 0) + 1, copy := copy, length := content.length, crc := crc32c content }
  (copyPages k copy).zipIdx.map (fun x =>
      { page := x.1, data := slice content (256 * x.2) 256, job := .recordCopy k copy (x.2 == 0), tag := tag, bootPath := bootPath })
    ++ [{ page := recordPage k, data := record.bytes ++ (match last with | some c => c.bytes | none => [])
          job := .recordCommit k record, tag := tag, commit := true, point := true, bootPath := bootPath }]

/-- Post an update of a record kept by copies. -/
def postRecord (k : RecordKind) (content : Bytes) (tag : Option Tag) (bootPath : Bool) (s : State) : State :=
  postNvm (recordOps k content tag bootPath s) s

/-- First page and number of pages of each region of Table 9-4. -/
def regionBase : List Nat := [0x000, 0x100, 0x180, 0x980, 0x1180, 0x1200, 0x1600, 0x1680, 0x2280]
def regionPages : List Nat := [256, 128, 2048, 2048, 128, 1024, 128, 3072, 7552]

/-- The region that holds a page. -/
def regionOf (page : Nat) : Nat := (regionBase.countP fun b => b ≤ page) - 1

/-! ### Owner epochs and line tags (R211 to R214) -/

/-- Current epoch of an owner: 0 to 3, or 7 for the device. -/
def epochOf (s : State) (owner : BitVec 3) : BitVec 16 :=
  if owner.toNat < 4 then rd s.nvm.epochs owner.toNat else s.nvm.deviceEpoch

/-- The tag that a write by an owner leaves on a line (R211). -/
def tagFor (s : State) (owner : BitVec 3) : LineTag := { valid := true, owner, epoch := epochOf s owner }

/-- A read by an owner finds the line's data (R212) (in part DESIGN CHOICE, log entry 145). -/
def LineTag.readable (t : LineTag) (s : State) (owner : BitVec 3) : Bool :=
  t.valid && t.owner == owner && t.epoch == epochOf s owner

/-- The index of a memory in `UNWRITTEN_READ`. -/
def Memory.index : Memory → Nat
  | .activation => 0 | .staging => 1 | .sample => 2 | .plasticity => 3 | .control => 4

/-- Count lines read as never written (R212). -/
def countUnwritten (m : Memory) (lines : Nat) (s : State) : State :=
  { s with nvm := { s.nvm with unwritten := upd s.nvm.unwritten m.index (satAdd · lines) } }

/-- Lines that hold a number of bytes. -/
def linesOf (bytes : Nat) : Nat := (bytes + 63) / 64

end Sys2Proof.Machine
end

