-- ==== Sys2Proof/Machine/Pages.lean ====
section
/-! DEFINITION. The NVM's pages: what a program, an erase and a read do to a page and to the counters, how the pages of LEARN
and MODEL are sealed, and reads that wait for a busy bank (chapters 09 and 16). -/

namespace Sys2Proof.Machine

/-- What is known of a page; a page not listed is ERASED and was never programmed. -/
def pageInfo (s : State) (page : Nat) : PageInfo :=
  (s.nvm.pages.find? (·.page == page)).getD { page := page, state := .erased }

/-- The entry says more than an unlisted page: only such entries are kept. -/
def PageInfo.listed (i : PageInfo) : Bool := i != { page := i.page, state := .erased }

/-- Write down a page, keeping the list in rising order without an entry that says nothing
(in part DESIGN CHOICE, log entry 140). -/
def setPage (i : PageInfo) (s : State) : State :=
  let before := s.nvm.pages.filter fun x => decide (x.page < i.page)
  let after := s.nvm.pages.filter fun x => decide (i.page < x.page)
  { s with nvm := { s.nvm with pages := before ++ (if i.listed then [i] else []) ++ after } }

/-- NVM_FAULT (Table 9-10). -/
def nvmFault (kind : Byte) (page : Nat) (s : State) : State :=
  raise 0xD2 true ([kind, BitVec.ofNat 8 (regionOf page), 0, 0] ++ le 4 page) s

/-- What a program writes to a page: its 256 bytes, and the side area of a sealed one. -/
structure PageImage where
  data : Bytes
  side : Option PageSide := none

/-- A program of a page ends after `us` microseconds, of which the page and `bad - 1` spares in turn did not verify
(R218): the page takes the cells of the first spare that does. With no spare left the program fails and the page keeps what
it held. The flag says that the page is programmed. -/
def programPage (page : Nat) (x : PageImage) (bad us : Nat) (s : State) : State × Bool :=
  let region := regionOf page
  let spares := rd s.nvm.spares region
  let i := pageInfo s page
  let s := { s with nvm := { s.nvm with
    spares := wr s.nvm.spares region (spares - bad), programTimes := (us :: s.nvm.programTimes).take 256 } }
  if spares < bad then
    (nvmFault 0x02 page { s with nvm := { s.nvm with programFails := satInc s.nvm.programFails } }, false)
  else
    (setPage { page := page, programs := i.programs + 1, data := x.data, side := x.side }
      { s with nvm := { s.nvm with programs := satInc s.nvm.programs } }, true)

/-- A program of a page is cut short by loss of VHOLD: the page holds any mixture of its previous and new bytes (R455). -/
def tearPage (page : Nat) (x : PageImage) (s : State) : State :=
  let i := pageInfo s page
  setPage { i with state := .valid, data := x.data, side := x.side, torn := true, was := i.data } s

/-- The sector with this first page is ERASED. -/
def eraseSector (first : Nat) (s : State) : State :=
  let erase (i : PageInfo) : PageInfo :=
    if first ≤ i.page ∧ i.page < first + 16 then { page := i.page, state := .erased, programs := i.programs } else i
  { s with nvm := { s.nvm with pages := (s.nvm.pages.map erase).filter (·.listed) } }

/-! ### Sealed pages (R379) -/

/-- Nonce and additional data of a sealed page: owner, page number and region. -/
def sealNonce (o page : Nat) (ctr : Word64) : Bytes := [BitVec.ofNat 8 o, 0x00] ++ le 2 page ++ le 8 ctr.toNat
def sealAad (o page : Nat) : Bytes := le 2 page ++ [BitVec.ofNat 8 o, BitVec.ofNat 8 (regionOf page)]

/-- What a program of an operation writes: a page of an owner is enciphered under NDK and the next `SEAL_CTR`. -/
def pageImage (s : State) (o : NvmOp) : PageImage :=
  match o.owner with
  | none => { data := o.data }
  | some k =>
    let z := gcmSeal (rd s.own.slots k).ndk (sealNonce k o.page s.own.sealCtr) (sealAad k o.page) (fixed 256 o.data)
    { data := z.1, side := some { owner := k, ctr := s.own.sealCtr, tag := z.2 } }

/-- A sealed program has advanced `SEAL_CTR`, which SYSTEM holds committed 65 536 values ahead of use: the next value is
committed before the last is used up (R379) (in part DESIGN CHOICE, log entry 155). -/
def countSeal (s : State) : State :=
  let n := s.own.sealCtr + 1
  let s := { s with own := { s.own with sealCtr := n } }
  if s.own.sealAhead ≤ n + 32768 && (s.nvm.posted ++ s.nvm.waiting).all (fun o => match o.job with
      | .recordCommit .sealCtr _ => false | _ => true) then
    postRecord .sealCtr (le 8 (s.own.sealAhead + 65536).toNat) none true s
  else s

/-! ### Reads (R215, R217, R220) -/

/-- The newest posted program of a page. -/
def postedFor (s : State) (page : Nat) : Option NvmOp := s.nvm.posted.reverse.find? fun o => !o.erase && o.page == page

/-- The bytes in a page's cells; those of a page cut short are the part's own mixture. -/
def PageInfo.bytes (i : PageInfo) : Bytes :=
  let new := fixed 256 i.data
  if i.torn then (new.zip (fixed 256 i.was)).zipIdx.map fun x => if Config.tornNew i.page x.2 then x.1.1 else x.1.2 else new

/-- A sealed page's plaintext where its tag verifies under the owner's NDK. -/
def unsealed (s : State) (i : PageInfo) : Option Bytes :=
  match i.side with
  | none => some i.bytes
  | some x => gcmOpen (rd s.own.slots x.owner).ndk (sealNonce x.owner i.page x.ctr) (sealAad x.owner i.page) i.bytes x.tag

/-- The state that a page's cells give (R217): the part's own for a page cut short (R455), and UNCORRECTABLE for a sealed page
whose tag fails (R379). -/
def cellsState (s : State) (page : Nat) : PageState :=
  let i := pageInfo s page
  let errors := Config.bitErrors page i.programs
  if i.state == .erased then .erased
  else if (unsealed s i).isNone then .uncorrectable
  else if i.torn then (match Config.tornState page with | 0 => .valid | 1 => .corrected | 2 => .uncorrectable)
  else if errors == 0 then .valid
  else if errors ≤ 4 then .corrected
  else .uncorrectable

/-- The 256 bytes read from a page's cells: zeros for a page that is ERASED or UNCORRECTABLE (R217). -/
def cellsBytes (s : State) (page : Nat) : Bytes :=
  match cellsState s page with
  | .valid | .corrected => (unsealed s (pageInfo s page)).getD []
  | .erased | .uncorrectable => List.replicate 256 0

/-- The state a read of a page reports: VALID for a posted entry (R220), or that of its cells. -/
def pageState (s : State) (page : Nat) : PageState := if (postedFor s page).isSome then .valid else cellsState s page

/-- The 256 bytes a read of a page returns: those of the newest posted entry (R220), or those of its cells. -/
def pageBytes (s : State) (page : Nat) : Bytes :=
  match postedFor s page with
  | some o => fixed 256 o.data
  | none => cellsBytes s page

/-- Count a read of a page and report an uncorrectable one (R215, R217). -/
def readPage (page : Nat) (s : State) : State :=
  match pageState s page with
  | .erased | .valid => s
  | .corrected => { s with nvm := { s.nvm with eccCorrected := satInc s.nvm.eccCorrected } }
  | .uncorrectable => nvmFault 0x01 page { s with nvm := { s.nvm with eccUncorrectable := satInc s.nvm.eccUncorrectable } }

/-- Count reads of pages in order. -/
def readPages (pages : List Nat) (s : State) : State := pages.foldl (fun s k => readPage k s) s

/-- None of the pages is UNCORRECTABLE. -/
def readable (s : State) (pages : List Nat) : Bool := pages.all fun k => pageState s k != .uncorrectable

/-- Bank of a page (R218). -/
def bankOfPage (page : Nat) : Nat := page / 2048

/-- Banks busy with a program or an erase; a Cairn commit programs SYSTEM and CAIRN. -/
def busyBanks (s : State) : List Nat :=
  match s.nvm.busy with
  | .idle => []
  | .posted => (s.nvm.posted.head?.map fun o => bankOfPage o.page).toList
  | .cairn => [bankOfPage 256, bankOfPage 0x1200]
  | .background f => [bankOfPage f]

/-- A read of one of the pages has to wait for the operation in progress in its bank (R218). -/
def readWaits (s : State) (pages : List Nat) : Bool := pages.any fun k => (busyBanks s).contains (bankOfPage k)

/-- Serve a command that reads pages, once no bank it reads is busy. -/
def whenReadable (pages : List Nat) (opcode : Byte) (h : Hdr) (p : Bytes) (body : State → State) (s : State) : State :=
  if readWaits s pages then { s with nvm := { s.nvm with waitingReads := s.nvm.waitingReads ++ [(opcode, h, p)] } }
  else body s

/-! ### Reading a record kept by copies (R222) -/

/-- Read a record: its commit page and the copies that its commit records name, in order, until one checks. A copy with an
UNCORRECTABLE page checks no CRC. -/
def readRecord (k : RecordKind) (s : State) : Bytes × State :=
  let r := s.record k
  let s := readPage (recordPage k) s
  let go := (if readable s [recordPage k] then r.commits else []).foldl (fun (a : Option Bytes × State) c =>
    match a.1 with
    | some _ => a
    | none => (if r.checks c && readable a.2 (copyPages k c.copy) then some (rd r.copies c.copy) else none,
               readPages (copyPages k c.copy) a.2)) (none, s)
  (go.1.getD [], go.2)

end Sys2Proof.Machine
end

