-- ==== Sys2Proof/Machine/Flags.lean ====
section
/-! DEFINITION. The codes and status words the spec computes from the state. -/

namespace Sys2Proof.Machine

/-- Table 2-4. -/
def BootPhase.code : BootPhase → Byte
  | .rom => 0x01 | .erasePending => 0x02 | .auth => 0x03 | .init => 0x04 | .ready => 0x05 | .restarting => 0x06 | .failed => 0x0F

/-- Table 3-5. -/
def PowerState.code : PowerState → Byte
  | .off => 0x00 | .bivouac => 0x01 | .watch => 0x02 | .active => 0x03 | .summit => 0x04

/-- `SOURCE` in `WOKE` (Table 3-20). -/
def WakeSource.code : WakeSource → Byte
  | .wakeN => 0x01 | .tickAlarm => 0x02 | .threshold => 0x03 | .rope => 0x04

/-- Table 3-10. -/
def ThermalState.code : ThermalState → Byte
  | .normal => 0x00 | .warn => 0x01 | .throttle => 0x02 | .trip => 0x03

/-- Table 4-2. -/
def FwSlotState.code : FwSlotState → Byte
  | .empty => 0x00 | .writing => 0x01 | .valid => 0x02 | .trial => 0x03 | .invalid => 0x04

/-- Table 6-1. -/
def StreamPhase.code : StreamPhase → Byte
  | .unconfigured => 0x00 | .stopped => 0x01 | .running => 0x02 | .suspended => 0x03 | .waiting => 0x04

/-- Table 5-9. -/
def PairPhase.code : PairPhase → Byte
  | .inactive => 0x00 | .unknown => 0x01 | .agree => 0x02 | .faultA => 0x03 | .faultB => 0x04 | .faultBoth => 0x05

/-- `STATE` of a tach or the encoder in `SPORT_GET`. -/
def InputPhase.code : InputPhase → Byte
  | .disabled => 0x00 | .active => 0x01 | .idle => 0x02

/-- Table 7-3. -/
def PosState.code : PosState → Nat
  | .unconfigured => 0 | .unsynced => 1 | .synced => 2 | .estimated => 3

/-- `TRACK_SRC` (Table 7-8). -/
def TrackSource.code : TrackSource → Nat
  | .none => 0 | .encoder => 1 | .tach => 2 | .time => 3

/-- `STATE` of a session (Table 2-18). -/
def SessionPhase.code : SessionPhase → Byte
  | .none => 0x00 | .live => 0x01 | .ending => 0x02

/-- `MODE` of a sensor port (Table 6-7). -/
def PortMode.code : PortMode → Byte
  | .disabled => 0x00 | .tdm => 0x01 | .spi => 0x02

/-- A stream is running for R146 and chapter 06 (R148). -/
def Strm.isRunning (x : Strm) : Bool :=
  match x.phase with
  | .running | .suspended | .waiting => true
  | _ => false

/-- A stream that runs, or whose start waits for its instant. -/
def Strm.engaged (x : Strm) : Bool := x.isRunning || x.starting

/-! ### The LINK_STATUS word (Tables 2-3 and 2-5) -/

/-- `RX_SPACE`: 0xFF while 4096 bytes are free, otherwise sixteenths, at most 0xFE; 0 while a committed sleep
request keeps packets out (R80). -/
def rxSpace (s : State) : Nat :=
  let free := 16384 - s.link.rxHeld
  if s.link.closed then 0 else if 4096 ≤ free then 0xFF else min 0xFE (free / 16)

/-- Replies and reject notices waiting to be pulled. -/
def repliesPending (s : State) : Nat := s.link.out.countP fun o => !o.isEvent

/-- `IRQ_CAUSE` (Table 2-5). -/
def irqCause (s : State) : Byte :=
  BitVec.ofNat 8 (flags [repliesPending s != 0, s.link.events != 0, rxSpace s == 0xFF, s.link.sessionEnd,
    s.link.bootChange, s.link.discard, s.link.eventLost, s.link.resetSeen])

/-- IRQ_N is asserted (low): an enabled cause is set (R29), while the host port is powered (R23) and its rail is in
range (R77). -/
def irqAsserted (s : State) : Bool := s.isOn 2 && s.pwr.vioHOk && (irqCause s &&& s.link.irqMask != 0)

/-- The `LINK_STATUS` word, byte 0 first (Table 2-3). -/
def linkStatus (s : State) : Bytes :=
  [s.boot.phase.code, BitVec.ofNat 8 (rxSpace s), BitVec.ofNat 8 (min 255 (repliesPending s)), irqCause s]

/-! ### Roles (Table 18-5, R423) -/

/-- The strapped role: 0 Solo, 1 Ridge head, 2 Ridge member. -/
def role (s : State) : Nat :=
  match s.pins.straps.toNat / 4 with
  | 1 => 1
  | 2 => 2
  | _ => 0

/-- The chip is strapped for a Ridge. -/
def isRidge (s : State) : Bool := role s != 0

/-! ### Governor (R92) -/

/-- The governor state: the highest set threshold. -/
def thermalState (s : State) : ThermalState :=
  if s.thm.trip.isSet then .trip
  else if s.thm.throttle.isSet then .throttle
  else if s.thm.warn.isSet then .warn
  else .normal

/-! ### Channel status (Table 5-7) -/

/-- `IMPLAUSIBLE`: any of bits 6, 5, 3, 1, 0, or bit 2 with at least SAT_LIMIT saturated samples. -/
def implausible (status : BitVec 16) (satEnough : Bool) : Bool :=
  (status &&& 0x006B#16 != 0) || (status.getLsbD 2 && satEnough)

/-- Set or clear one bit of a status word. -/
def setBit {w : Nat} (x : BitVec w) (i : Nat) (v : Bool) : BitVec w :=
  if v then x ||| (1#w <<< i) else x &&& ~~~(1#w <<< i)

/-! ### Frame flags (Table 6-4) -/

/-- `QFLAGS` of a closed frame. -/
def ClosedFrame.qflags (f : ClosedFrame) : Byte :=
  BitVec.ofNat 8 (flags [f.partly, f.staleCal, f.degraded, f.saturated, f.sensorFault])

/-- `MSTATE` (Table 7-7). -/
def MachineState.word (m : MachineState) : Byte :=
  BitVec.ofNat 8 (flags [m.running, m.loaded, m.coasting, m.stopped])

end Sys2Proof.Machine
end

