-- ==== Sys2Proof/Machine/Lanes.lean ====
section
/-! DEFINITION. The lanes of a Rope port: the bytes of a frame over the lanes in use, and the 8b/10b code groups that carry
them (R345, R347). -/

namespace Sys2Proof.Machine

/-- Bytes on lanes 0 and 1: byte k on lane k mod 2 of two, or every byte on the one lane (R347). -/
def onLanes (lanes : BitVec 2) (b : Bytes) : Vector Bytes 2 :=
  let every (k : Nat) : Bytes := (b.zipIdx.filter fun x => x.2 % 2 == k).map Prod.fst
  if lanes == 3 then #v[every 0, every 1]
  else #v[if lanes.getLsbD 0 then b else [], if lanes.getLsbD 1 then b else []]

/-! ### 8b/10b (R345)

The tables are those of the standard that R345 names; the spec prints none (PRESUMED, log entry 185). A code group is written
abcdeifghj, its first bit on the left. -/

/-- The sub-blocks abcdei of D0 to D31 at negative running disparity. -/
def sixBits : List Nat :=
  [0b100111, 0b011101, 0b101101, 0b110001, 0b110101, 0b101001, 0b011001, 0b111000,
   0b111001, 0b100101, 0b010101, 0b110100, 0b001101, 0b101100, 0b011100, 0b010111,
   0b011011, 0b100011, 0b010011, 0b110010, 0b001011, 0b101010, 0b011010, 0b111010,
   0b110011, 0b100110, 0b010110, 0b110110, 0b001110, 0b101110, 0b011110, 0b101011]

/-- The sub-blocks fghj of Dx.0 to Dx.7 at negative running disparity. -/
def fourBits : List Nat := [0b1011, 0b1001, 0b0101, 0b1100, 0b1101, 0b1010, 0b0110, 0b1110]

/-- Ones of a sub-block of `n` bits. -/
def onesOf (n x : Nat) : Nat := (List.range n).countP (bit x ·)

/-- The sub-block of `n` bits at a running disparity: one that is not balanced, or is listed with it, is complemented at positive
disparity. -/
def atDisparity (n : Nat) (positive alternates : Bool) (x : Nat) : Nat :=
  if positive && (alternates || 2 * onesOf n x != n) then 2 ^ n - 1 - x else x

/-- Running disparity after a sub-block: one that is not balanced turns it over. -/
def disparityAfter (n : Nat) (positive : Bool) (x : Nat) : Bool := if 2 * onesOf n x == n then positive else !positive

/-- The data code group of a byte, and the running disparity after it: Dx.A7 stands for Dx.7 where five equal bits would meet. -/
def codeGroup (positive : Bool) (b : Byte) : BitVec 10 × Bool :=
  let x := b.toNat % 32; let y := b.toNat / 32
  let six := atDisparity 6 positive (x == 7) (sixBits.getD x 0)
  let mid := disparityAfter 6 positive six
  let other := y == 7 && (if mid then [11, 13, 14] else [17, 18, 20]).contains x
  let four := if other then (if mid then 0b1000 else 0b0111) else atDisparity 4 mid (y == 3) (fourBits.getD y 0)
  (BitVec.ofNat 10 (16 * six + four), disparityAfter 4 mid four)

/-- The code groups of bytes, and the running disparity after them. -/
def codeGroups (positive : Bool) : Bytes → List (BitVec 10) × Bool
  | [] => ([], positive)
  | b :: bs =>
    let g := codeGroup positive b
    let r := codeGroups g.2 bs
    (g.1 :: r.1, r.2)

/-- /S/ (K27.7) and /T/ (K29.7), which leave the running disparity as it is. -/
def startGroup (positive : Bool) : BitVec 10 := if positive then 0b0010010111 else 0b1101101000
def endGroup (positive : Bool) : BitVec 10 := if positive then 0b0100010111 else 0b1011101000

/-- A lane's code groups for its share of a frame: /S/, the data, /T/. An /I2/ between frames leaves the running disparity
as it is. -/
def framed (positive : Bool) (b : Bytes) : List (BitVec 10) × Bool :=
  let g := codeGroups positive b
  (startGroup positive :: g.1 ++ [endGroup g.2], g.2)

/-- What two lanes carry for a frame whose bytes they share, from their running disparities; a lane not in use carries none of it. -/
def laneGroups (lanes positive : BitVec 2) (b : Vector Bytes 2) : Vector (List (BitVec 10)) 2 × BitVec 2 :=
  let one (k : Nat) : List (BitVec 10) × Bool :=
    if lanes.getLsbD k then framed (positive.getLsbD k) (b.toList.getD k []) else ([], positive.getLsbD k)
  (#v[(one 0).1, (one 1).1], setBit (setBit positive 0 (one 0).2) 1 (one 1).2)

end Sys2Proof.Machine
end

