-- ==== Sys2Proof/Machine/Operands.lean ====
section
/-! DEFINITION. How a command is accepted and its operands are taken: the checks of Table 2-8 from check 5 on, the
rights classes, and the forms of payloads. -/

namespace Sys2Proof.Machine

/-! ### Status codes (Table 2-12) -/

def stAborted : Byte := 0x02
def stTooLate : Byte := 0x03
def stPartial : Byte := 0x08
def stBooting : Byte := 0x10
def stBusy : Byte := 0x11
def stTagBusy : Byte := 0x12
def stQueueFull : Byte := 0x13
def stCrc : Byte := 0x20
def stLength : Byte := 0x21
def stUnknown : Byte := 0x22
def stParam : Byte := 0x23
def stState : Byte := 0x24
def stNotOwner : Byte := 0x30
def stAuth : Byte := 0x31
def stLocked : Byte := 0x32
def stExpired : Byte := 0x33
def stNoResource : Byte := 0x40
def stTooLarge : Byte := 0x41
def stWear : Byte := 0x42
def stThermal : Byte := 0x43
def stHwFault : Byte := 0x50
def stFenced : Byte := 0x51
def stLinkDown : Byte := 0x52
def stNvm : Byte := 0x60
def stImage : Byte := 0x61
def stInternal : Byte := 0xFF

/-! ### Sleep entry abandoned (R82) -/

/-- Return every suspended stream to RUNNING, to start a new frame (R82, R89). -/
def resumeStreams (s : State) : State :=
  { s with stm := { s.stm with streams := s.stm.streams.map fun x =>
      if x.phase == .suspended then { x with phase := .running } else x } }

/-- The heads that the entry has saved are loaded again before they score a frame (R82, R301). -/
def reloadSlept (s : State) : State :=
  { s with lrn := { s.lrn with heads := s.lrn.heads.map fun h =>
      if h.slept && h.user.isSome then { h with slept := false, loaded := false, ops := h.ops ++ [.load .resumed none] } else h } }

/-- Abandon a sleep entry with its cause: 1 Belay, 2 wake source, 3 host packet (R82, Table 3-20). -/
def abandonSleep (cause : Byte) (s : State) : State :=
  match s.pwr.entry with
  | none => s
  | some e =>
    raise 0x11 true [e.target.code, cause, 0, 0]
      (resumeStreams ((reloadSlept { s with pwr := { s.pwr with entry := none } }).mapLink fun l => { l with closed := false }))

/-! ### Rights (Table 2-9, R46) -/

/-- Who may issue a command. -/
inductive Rights where
  | anyone
  | site
  | anyOwner
  /-- the owner bound to the object named; none when nothing is bound -/
  | bound (owner : Option (BitVec 2))
  deriving DecidableEq, Repr

/-- All four owner slots are unprovisioned (R46). -/
def unprovisioned (s : State) : Bool := s.own.slots.toList.all fun o => !o.provisioned

/-- The header has the rights of a class (R46). -/
def Rights.allow (r : Rights) (h : Hdr) (s : State) : Bool :=
  match r with
  | .anyone => true
  | .site => (h.secure && h.owner == 0) || (!h.secure && unprovisioned s)
  | .anyOwner => h.secure || unprovisioned s
  | .bound o => h.secure && o == some h.owner

/-- The fixed part of a command: opcode, rights, the payload lengths it admits and its reserved fields. -/
structure Form where
  opcode : Byte
  rights : State → Bytes → Rights := fun _ _ => .anyone
  length : Nat → Bool
  /-- the length agrees with the counts the payload itself gives -/
  shape : Bytes → Bool := fun _ => true
  /-- every reserved field of the payload is zero (R6) -/
  reserved : Bytes → Bool := fun _ => true

/-- Offsets and lengths of reserved fields are all zero. -/
def zeros (fields : List (Nat × Nat)) (p : Bytes) : Bool := fields.all fun f => fld p f.1 f.2 == 0

/-! ### Checks 5 to 10 (Table 2-8) -/

/-- The host port answers: PD2 is on, VIO_H in range, no reset in progress (R23, R77, R99)
(in part DEDUCED, log entry 137). -/
def hostUp (s : State) : Bool := s.isOn 2 && s.pwr.vioHOk && s.boot.stage == .none

/-- Opcodes that the boot ROM serves in phase FAILED (R103). -/
def failedServes : List Byte := [0x00, 0x01, 0x0D, 0xB0, 0xB1, 0xB2, 0xD0, 0xD1, 0xD2, 0xD3]

/-- End a command whose packet is not authenticated: non-secure, LENGTH 0 (R43). -/
def refusePlain (tag : Tag) (status : Byte) (s : State) : State :=
  finish tag status [] (onSlot tag (fun c => { c with plain := true }) s)

/-- Reserve a tag with its reply slot (R33). -/
def reserve (opcode : Byte) (h : Hdr) (s : State) : State :=
  let s := s.mapLink fun l =>
    { l with slots := l.slots ++ [{
        tag := h.tag, opcode, secure := h.secure, owner := h.owner, seq := h.seq
        named := if h.secure then (s.session h.owner).id else 0 }] }
  noteHigh 6 (s.link.slots.countP fun c => hostTag c.tag) s

/-- A secure packet that verifies advances its session's counter, and the first of a command's packets accepts the command in
its session; at 2^32 the session ends (R41). -/
def advanceRx (h : Hdr) (s : State) : State :=
  let old := s.session h.owner
  let s' := onSlot h.tag (fun c => { c with session := if c.fragments == 0 then old.id else c.session })
    (s.mapLink fun l => { l with sessions := wr l.sessions h.owner.toNat { old with rx := old.rx + 1 } })
  if old.rx + 1 ≥ 2 ^ 32 then endSession h.owner.toNat 0x03 s' else s'

/-- Checks 6 to 8: the boot phase, the session and the packet's authenticity. The flag says that all pass. -/
def authenticate (opcode : Byte) (h : Hdr) (s : State) : State × Bool :=
  if s.boot.phase == .failed then
    if !h.secure && failedServes.contains opcode then (s, true) else (refusePlain h.tag stImage s, false)
  else if s.boot.phase != .ready then (refusePlain h.tag stBooting s, false)
  else if !h.secure then (s, true)
  else if (s.session h.owner).phase != .live then (refusePlain h.tag stExpired s, false)
  else if !(h.authentic && h.seq == BitVec.ofNat 8 (s.session h.owner).rx) then
    (refusePlain h.tag stAuth (s.mapLink fun l =>
      { l with counters := { l.counters with authRejects := satInc l.counters.authRejects } }), false)
  else (advanceRx h s, true)

/-- Check 10 up to the opcode's own checks, then the opcode's body (R6, R46). In FAILED every command served is
accepted whatever its class (R103). -/
def judge (f : Form) (h : Hdr) (p : Bytes) (body : State → State) (s : State) : State :=
  if !((f.rights s p).allow h s || s.boot.phase == .failed) then finish h.tag stNotOwner [] s
  else if !(f.length p.length && f.shape p) then finish h.tag stLength [] s
  else if !f.reserved p then finish h.tag stParam [] s
  else body s

/-- A packet that passes checks 1 to 3 binds the port, and ends an automatic sleep entry (R22, R82). -/
def bindPort (via : Transport) (s : State) : State :=
  let s := s.mapLink fun l => { l with bound := some via }
  if s.pwr.entry.any (·.automatic) then abandonSleep 0x03 s else s

/-- The port hears a transport: it is up and not bound to the other (R22, R23). -/
def hears (via : Transport) (s : State) : Bool := hostUp s && s.link.bound.all (· == via)

/-- A packet larger than the receive space: discarded whole and counted (R26, R80). -/
def overrun (s : State) : State :=
  s.mapLink fun l => { l with discard := true, counters := { l.counters with overruns := satInc l.counters.overruns } }

/-- A whole command that has passed checks 5 to 9: one accepted during the debug-open erase waits until it ends (R393). -/
def pass (f : Form) (h : Hdr) (p : Bytes) (body : State → State) (s : State) : State :=
  if s.own.erase.any (fun e => e.step != 1) then
    { s with own := { s.own with heldCommands := s.own.heldCommands ++ [(f.opcode, h, p)] } }
  else judge f h p body s

/-- Serve a whole command: checks 5 to 10 in order, then its body (R31). A message that the host port has put together has
passed checks 5 to 9 already. -/
def serve (f : Form) (h : Hdr) (p : Bytes) (body : State → State) (s : State) : State :=
  let relayed := decide (64 ≤ h.tag.toNat)
  if (s.slot? h.tag).any (·.ready) then pass f h p body (onSlot h.tag (fun c => { c with ready := false }) s)
  else if !relayed && !hears h.via s then s
  else if s.link.closed then if relayed then s else overrun s
  else
    let s := if relayed then s else bindPort h.via s
    if (s.slot? h.tag).isSome then
      notice { opcode := f.opcode, tag := h.tag, status := stTagBusy, seq := h.seq }
        (s.mapLink fun l => { l with counters := { l.counters with tagBusyRejects := satInc l.counters.tagBusyRejects } })
    else
      let a := authenticate f.opcode h (reserve f.opcode h s)
      if a.2 then pass f h p body a.1 else a.1

/-- The first status whose condition holds, or the effect. -/
def refuseIf (tag : Tag) : List (Bool × Byte) → (State → State) → State → State
  | [], k, s => k s
  | (true, st) :: _, _, s => finish tag st [] s
  | (false, _) :: cs, k, s => refuseIf tag cs k s

end Sys2Proof.Machine
end

