-- ==== Sys2Proof/Machine/Link.lean ====
section
/-! DEFINITION. The device and session commands of chapter 02 and the host port's own events. -/

namespace Sys2Proof.Machine

/-- What a meaning answers. -/
abbrev Answer := Host.Outcome State Fault Refusal

/-! ### Replies that are read from the state -/

/-- NOP: up to a whole packet of any bytes, echoed (R34). -/
def cmdNop (h : Hdr) (p : Bytes) (s : State) : State :=
  serve { opcode := 0x00, length := (· ≤ 4068) } h p (doneWith h p) s

/-- The bytes of LINK_CONFIG in force (Table 2-16). -/
def linkConfigBytes (l : LinkState) : Bytes := [l.irqMask, if l.lowEvents then 1 else 0, 0, 0]

/-- LINK_CONFIG without a payload returns the configuration in force (Table 2-16). -/
def cmdLinkConfigRead (h : Hdr) (p : Bytes) (s : State) : State :=
  serve { opcode := 0x03, length := (· == 0) } h p (fun s => doneWith h (linkConfigBytes s.link) s) s

/-- LINK_CONFIG with four bytes sets IRQ_MASK and LOW_EVENTS (Table 2-16, R29). -/
def cmdLinkConfigWrite (h : Hdr) (p : Bytes) (s : State) : State :=
  serve { opcode := 0x03, rights := fun _ _ => .site, length := (· == 4)
          reserved := fun p => bits (fld p 0 4) 9 23 == 0 } h p
    (fun s =>
      let s := s.mapLink fun l => { l with irqMask := BitVec.ofNat 8 (fld p 0 1), lowEvents := bit (fld p 1 1) 0 }
      doneWith h (linkConfigBytes s.link) s) s

/-- The ten counters in the order of `LINK_COUNTERS`. -/
def LinkCounters.bytes (c : LinkCounters) : Bytes :=
  [c.crcRejects, c.lengthRejects, c.syncDiscards, c.overruns, c.tagBusyRejects, c.authRejects, c.eventsOverwritten,
   c.eventsDropped, c.rejectsLost, c.fragmentTimeouts].flatMap fun x => le 4 x.toNat

/-- LINK_COUNTERS with CLEAR at 0 returns the counters. -/
def cmdLinkCounters (h : Hdr) (p : Bytes) (s : State) : State :=
  serve { opcode := 0x04, length := (· == 1), reserved := fun p => fld p 0 1 / 2 == 0 } h p
    (fun s => doneWith h s.link.counters.bytes s) s

/-- LINK_COUNTERS with CLEAR at 1 returns the counters and clears them as the reply becomes pending. -/
def cmdLinkCountersClear (h : Hdr) (p : Bytes) (s : State) : State :=
  serve { opcode := 0x04, rights := fun _ _ => .site, length := (· == 1), reserved := fun p => fld p 0 1 / 2 == 0 } h p
    (fun s => (doneWith h s.link.counters.bytes s).mapLink fun l => { l with counters := {} }) s

/-! ### Sessions -/

/-- SESSION_CLOSE: sent secure in the session it closes, which is ending from its commit until its reply is pulled
(R44). -/
def cmdSessionClose (h : Hdr) (p : Bytes) (s : State) : State :=
  serve { opcode := 0x06, rights := fun _ _ => if h.secure then .anyone else .bound none, length := (· == 0) } h p
    (fun s =>
      let x := s.session h.owner
      if 1 < inFlight s x.id then finish h.tag stBusy [] s
      else
        doneWith h [] (s.mapLink fun l => { l with sessions := wr l.sessions h.owner.toNat { x with phase := .ending } })) s

/-- Seconds before the idle end of a session, rounded up (Table 2-18). -/
def idleLeft (s : State) (x : Session) : Nat :=
  if x.phase != .live then 0
  else if inFlight s x.id != 0 then 0xFFFF
  else (x.timeout * 32768 - since s x.since + 32767) / 32768

/-- One entry of SESSION_STATUS. -/
def sessionEntry (s : State) (x : Session) : Bytes :=
  if x.phase == .none then List.replicate 8 0
  else [x.phase.code, BitVec.ofNat 8 (inFlight s x.id)] ++ le 2 (idleLeft s x) ++ le 4 x.id.toNat

/-- SESSION_STATUS (Table 2-18). -/
def cmdSessionStatus (h : Hdr) (p : Bytes) (s : State) : State :=
  serve { opcode := 0x07, length := (· == 0) } h p
    (fun s => doneWith h (s.link.sessions.toList.flatMap (sessionEntry s)) s) s

/-! ### The label (R457) -/

/-- DEV_LABEL_SET posts the spare copy and then its commit record; the command ends when that record's program does. -/
def cmdDevLabelSet (h : Hdr) (p : Bytes) (s : State) : State :=
  serve { opcode := 0x08, rights := fun _ _ => .site, length := (· == 32) } h p (postRecord .label p (some h.tag) false) s

/-- Pages that a read of the label may touch. -/
def labelPages : List Nat := copyPages .label 0 ++ copyPages .label 1 ++ [recordPage .label]

/-- DEV_LABEL_GET: the current copy; 32 zero bytes while none was ever written (R215), NVM_ERROR where none can be read
(Table 9-11). -/
def cmdDevLabelGet (h : Hdr) (p : Bytes) (s : State) : State :=
  serve { opcode := 0x09, length := (· == 0) } h p
    (whenReadable labelPages 0x09 h p fun s =>
      let r := readRecord .label s
      if r.1.isEmpty && !readable s labelPages then finish h.tag stNvm [] r.2 else doneWith h (fixed 32 r.1) r.2) s

/-! ### The meanings -/

def execNop (h : Hdr) (p : Bytes) (s : State) : Answer := .next (cmdNop h p s)
def execLinkConfigRead (h : Hdr) (p : Bytes) (s : State) : Answer := .next (cmdLinkConfigRead h p s)
def execLinkConfigWrite (h : Hdr) (p : Bytes) (s : State) : Answer := .next (cmdLinkConfigWrite h p s)
def execLinkCounters (h : Hdr) (p : Bytes) (s : State) : Answer := .next (cmdLinkCounters h p s)
def execLinkCountersClear (h : Hdr) (p : Bytes) (s : State) : Answer := .next (cmdLinkCountersClear h p s)
def execSessionClose (h : Hdr) (p : Bytes) (s : State) : Answer := .next (cmdSessionClose h p s)
def execSessionStatus (h : Hdr) (p : Bytes) (s : State) : Answer := .next (cmdSessionStatus h p s)
def execDevLabelSet (h : Hdr) (p : Bytes) (s : State) : Answer := .next (cmdDevLabelSet h p s)
def execDevLabelGet (h : Hdr) (p : Bytes) (s : State) : Answer := .next (cmdDevLabelGet h p s)

/-- CLEAR_STATUS applies its mask to the W1C bits of IRQ_CAUSE (R29); it is answered on either target until the port
is bound (R22). -/
def execClearStatus (via : Transport) (mask : Byte) (s : State) : Answer :=
  if !hears via s then .next s
  else .next (s.mapLink fun l =>
    { l with
      resetSeen := l.resetSeen && !mask.getLsbD 7
      eventLost := l.eventLost && !mask.getLsbD 6
      discard := l.discard && !mask.getLsbD 5
      bootChange := l.bootChange && !mask.getLsbD 4
      sessionEnd := l.sessionEnd && !mask.getLsbD 3 })

/-- Transport opcodes of Table 2-1. -/
def transportOpcodes : List Byte := [0x02, 0x03, 0x05, 0x06, 0x22, 0x23]

/-- What the device drives after the opcode byte of LINK_STATUS: the turnaround byte, over SPI, and the status word
(Tables 2-1 to 2-3). -/
def linkStatusDriven (via : Transport) (s : State) : Bytes :=
  match via with
  | .spi => 0x00 :: linkStatus s
  | .i2c => linkStatus s

/-- A transport transaction whose opcode byte moves no packet. LINK_STATUS drives the status word; it is answered on either
target until the port is bound (R22). Over SPI an opcode outside Table 2-1 is ignored and sets DISCARD (R24)
(in part DESIGN CHOICE, log entry 152). -/
def execInvalidTransportOpcode (via : Transport) (op : Byte) (s : State) : Answer :=
  if !hears via s then .next s
  else if op == 0x05 then .next (s.mapLink fun l => { l with driven := linkStatusDriven via s })
  else if via == .i2c || transportOpcodes.contains op then .next s
  else .next (s.mapLink fun l => { l with discard := true })

/-- No fragment for 1000 ms: the incomplete message on the tag ends with LENGTH_ERROR (R48). -/
def execFragmentTimeout (tag : Tag) (s : State) : Answer :=
  match s.slot? tag with
  | some c =>
    if c.fragments == 0 || c.replied then .next s
    else .next (finish tag stLength [] (s.mapLink fun l =>
      { l with counters := { l.counters with fragmentTimeouts := satInc l.counters.fragmentTimeouts } }))
  | none => .next s

/-- A session's idle timer expires; it runs only while none of its commands is in flight (R44), and one that expires
in WATCH ends its session at the next wake (R83). -/
def execSessionIdleTimeout (slot : BitVec 2) (s : State) : Answer :=
  let x := s.session slot
  if x.phase != .live || inFlight s x.id != 0 || !s.isOn 2 then .next s
  else .next (endSession slot.toNat 0x01 s)

end Sys2Proof.Machine
end

