-- ==== Sys2Proof/Machine/Power.lean ====
section
/-! DEFINITION. The power, time and thermal commands of chapter 03 that read or set the Anchor's registers. -/

namespace Sys2Proof.Machine

/-- The bytes of POWER_STATE_GET (Table 3-11). -/
def powerStateBytes (s : State) : Bytes :=
  let wakes := match s.pwr.lastWake with | some w => w.code | none => 0
  [s.pwr.state.code, (thermalState s).code, BitVec.ofNat 8 (s.pwr.on.toNat / 65536), 0]
    ++ le 4 (s.pwr.on.toNat - (if s.pwr.retention && s.isOn 1 then 2 else 0))
    ++ [wakes, s.pwr.lastSleep.code, 0, 0] ++ le 4 s.pwr.wakes.toNat

/-- POWER_STATE_GET. -/
def cmdPowerStateGet (h : Hdr) (p : Bytes) (s : State) : State :=
  serve { opcode := 0x10, length := (· == 0) } h p (fun s => doneWith h (powerStateBytes s) s) s

/-! ### WAKE_CONFIG (Tables 3-13 and 3-14) -/

/-- One watch-channel entry of a payload. -/
def watchEntry (p : Bytes) (i : Nat) : WatchEntry :=
  { channel := BitVec.ofNat 5 (fld p (4 + 8 * i) 1), count := fld p (5 + 8 * i) 1
    thresh := BitVec.ofNat 24 (fld p (8 + 8 * i) 3) }

/-- The number of watch channels a payload gives. -/
def watchCount (p : Bytes) : Nat := bits (fld p 0 4) 8 4

/-- Every value is in range and no channel stands twice. -/
def watchInRange (p : Bytes) : Bool :=
  let n := watchCount p
  let chans := (List.range n).map fun i => fld p (4 + 8 * i) 1
  decide (16 ≤ fld p 2 2) && decide (fld p 2 2 ≤ 1024) && decide (n ≤ 8) && chans.all (· < 32)
    && (List.range n).all (fun i => decide (1 ≤ fld p (5 + 8 * i) 1) && decide (fld p (5 + 8 * i) 1 ≤ 15))
    && decide chans.Nodup

/-- Every reserved field is zero. -/
def watchReserved (p : Bytes) : Bool :=
  bits (fld p 0 4) 12 4 == 0 && bits (fld p 0 4) 2 5 == 0
    && (List.range (watchCount p)).all fun i => fld p (6 + 8 * i) 2 == 0 && fld p (11 + 8 * i) 1 == 0

/-- WAKE_CONFIG sets the configuration of the next WATCH (R87, R88). -/
def cmdWakeConfig (h : Hdr) (p : Bytes) (s : State) : State :=
  serve { opcode := 0x12, rights := fun _ _ => .site, length := (4 ≤ ·)
          shape := fun p => p.length == 4 + 8 * watchCount p, reserved := watchReserved } h p
    (fun s =>
      let entries := (List.range (watchCount p)).map (watchEntry p)
      refuseIf h.tag
        [(!watchInRange p, stParam),
         (bit (fld p 0 1) 7 && !isRidge s, stState),
         (entries.any fun e => !(rd s.afe.channels e.channel.toNat).configured, stState)]
        (fun s => doneWith h [] { s with pwr := { s.pwr with wake :=
          { block := fld p 2 2, ropeWake := bit (fld p 0 1) 7, watchRate := BitVec.ofNat 2 (fld p 0 1), entries } } }) s) s

/-! ### TICK_ALARM_SET (Table 3-15, R97) -/

/-- The form of TICK_ALARM_SET. -/
def tickAlarmForm : Form :=
  { opcode := 0x13, rights := fun _ _ => .site, length := (· == 16), reserved := zeros [(1, 3), (14, 2)] }

/-- The alarm's value in force, or 0 while it is disabled. -/
def alarmBytes (s : State) : Bytes := le 8 (if s.pwr.alarm.enabled then s.pwr.alarm.value.toNat else 0)

/-- PERIOD is 0 or at least 32. -/
def periodOk (p : Bytes) : Bool := fld p 4 4 == 0 || decide (32 ≤ fld p 4 4)

/-- Arm the alarm. -/
def armAlarm (value : Ticks) (p : Bytes) (s : State) : State :=
  { s with pwr := { s.pwr with alarm := { enabled := true, value, period := BitVec.ofNat 32 (fld p 4 4) } } }

/-- MODE 0x00 disables the alarm (in part DEDUCED, log entry 13). -/
def cmdTickAlarmDisable (h : Hdr) (p : Bytes) (s : State) : State :=
  serve tickAlarmForm h p
    (fun s =>
      let s := { s with pwr := { s.pwr with alarm := {} } }
      doneWith h (alarmBytes s) s) s

/-- MODE 0x01 arms it at an absolute tick, which must lie after the present count. -/
def cmdTickAlarmAbsolute (h : Hdr) (p : Bytes) (s : State) : State :=
  serve tickAlarmForm h p
    (fun s =>
      refuseIf h.tag [(!periodOk p, stParam), (decide (fld p 8 6 ≤ s.clk.tick.toNat), stParam)]
        (fun s =>
          let s := armAlarm (BitVec.ofNat 48 (fld p 8 6)) p s
          doneWith h (alarmBytes s) s) s) s

/-- MODE 0x02 arms it at an offset of at least 1 from the present count. -/
def cmdTickAlarmRelative (h : Hdr) (p : Bytes) (s : State) : State :=
  serve tickAlarmForm h p
    (fun s =>
      refuseIf h.tag [(!periodOk p, stParam), (fld p 8 6 == 0, stParam)]
        (fun s =>
          let s := armAlarm (s.clk.tick + BitVec.ofNat 48 (fld p 8 6)) p s
          doneWith h (alarmBytes s) s) s) s

/-! ### Time and clocks -/

/-- TIME_GET. -/
def cmdTimeGet (h : Hdr) (p : Bytes) (s : State) : State :=
  serve { opcode := 0x14, length := (· == 0) } h p
    (fun s => doneWith h (le 8 (now s).toNat ++ le 4 s.boot.bootCount.toNat
      ++ [if s.clk.onLprc then 0x01 else 0x00, 0, 0, 0]) s) s

/-- PHASE_DIV selected by the governor: the configured value in THROTTLE, otherwise 40 (R71). -/
def phaseDivNow (s : State) : Nat := if thermalState s == .throttle then s.thm.config.throttleDiv.toNat else 0

/-- The clock status word (Table 3-16). -/
def clockWord (s : State) : Nat :=
  flags [false, s.clk.xo32Ok, s.clk.onLprc, s.clk.xo24On, s.clk.xo24Fail, rd s.clk.lock 0, rd s.clk.lock 1,
    rd s.clk.lock 2, s.clk.frcOn] + 512 * phaseDivNow s

/-- CLOCK_STATUS. -/
def cmdClockStatus (h : Hdr) (p : Bytes) (s : State) : State :=
  serve { opcode := 0x15, length := (· == 0) } h p
    (fun s => doneWith h (le 4 (clockWord s) ++ le 4 s.clk.lprcFallbacks.toNat ++ le 4 s.clk.xo24StartLast.toNat
      ++ le 4 s.clk.xo24StartMax.toNat) s) s

/-! ### The governor's commands -/

/-- The four bytes of THERMAL_CONFIG (Table 3-17). -/
def ThermalConfig.bytes (c : ThermalConfig) : Bytes := [c.tWarn, c.tThrottle, c.throttleCores, c.throttleDiv]

/-- THERMAL_CONFIG sets thresholds and limits and restarts every count (R92). -/
def cmdThermalConfig (h : Hdr) (p : Bytes) (s : State) : State :=
  serve { opcode := 0x16, rights := fun _ _ => .site, length := (· == 4) } h p
    (fun s =>
      let w := fld p 0 1; let t := fld p 1 1; let c := fld p 2 1; let d := fld p 3 1
      let ok := decide (60 ≤ w) && decide (w ≤ 95) && decide (w + 5 ≤ t) && decide (t ≤ 105)
        && decide (1 ≤ c) && decide (c ≤ 7) && decide (1 ≤ d) && decide (d ≤ 2)
      refuseIf h.tag [(!ok, stParam)]
        (fun s =>
          let m := s.thm
          let config : ThermalConfig := { tWarn := .ofNat 8 w, tThrottle := .ofNat 8 t, throttleCores := .ofNat 8 c,
                                          throttleDiv := .ofNat 8 d }
          let thm : ThermalBlock := { m with config := config, warn := { m.warn with run := 0 }, throttle := { m.throttle with run := 0 }, trip := { m.trip with run := 0 } }
          doneWith h config.bytes { s with thm := thm }) s) s

/-- THERMAL_STATUS (Table 3-18). -/
def cmdThermalStatus (h : Hdr) (p : Bytes) (s : State) : State :=
  serve { opcode := 0x17, length := (· == 0) } h p
    (fun s => doneWith h ([(thermalState s).code, 0] ++ le 2 s.thm.tj.toNat ++ le 2 s.thm.tjMax.toNat
      ++ [s.thm.hottest, 0] ++ le 4 s.thm.throttleEntries.toNat ++ le 4 s.thm.tripEntries.toNat) s) s

/-! ### POWER_POLICY (Table 3-19) -/

/-- The eight bytes of the policy in force. -/
def PowerPolicy.bytes (c : PowerPolicy) : Bytes :=
  le 2 c.autoState.toNat ++ le 2 c.cimIdleOff.toNat ++ le 2 c.idleDwell.toNat ++ [0, 0]

/-- POWER_POLICY without a payload. -/
def cmdPowerPolicyRead (h : Hdr) (p : Bytes) (s : State) : State :=
  serve { opcode := 0x18, rights := fun _ _ => .site, length := (· == 0) } h p
    (fun s => doneWith h s.pwr.policy.bytes s) s

/-- POWER_POLICY with a payload sets the dwell times and the automatic state (R84, R90). -/
def cmdPowerPolicyWrite (h : Hdr) (p : Bytes) (s : State) : State :=
  serve { opcode := 0x18, rights := fun _ _ => .site, length := (· == 8)
          reserved := fun p => bits (fld p 0 2) 2 14 == 0 && fld p 6 2 == 0 } h p
    (fun s =>
      let off := fld p 2 2
      refuseIf h.tag
        [(fld p 0 2 == 3 || off == 0 || decide (1000 < off) || fld p 4 2 == 0, stParam)]
        (fun s =>
          let policy : PowerPolicy := { autoState := .ofNat 2 (fld p 0 2), cimIdleOff := .ofNat 16 off
                                        idleDwell := .ofNat 16 (fld p 4 2) }
          doneWith h policy.bytes { s with pwr := { s.pwr with policy } }) s) s

/-! ### The meanings -/

def execPowerStateGet (h : Hdr) (p : Bytes) (s : State) : Answer := .next (cmdPowerStateGet h p s)
def execWakeConfig (h : Hdr) (p : Bytes) (s : State) : Answer := .next (cmdWakeConfig h p s)
def execTickAlarmDisable (h : Hdr) (p : Bytes) (s : State) : Answer := .next (cmdTickAlarmDisable h p s)
def execTickAlarmAbsolute (h : Hdr) (p : Bytes) (s : State) : Answer := .next (cmdTickAlarmAbsolute h p s)
def execTickAlarmRelative (h : Hdr) (p : Bytes) (s : State) : Answer := .next (cmdTickAlarmRelative h p s)
def execTimeGet (h : Hdr) (p : Bytes) (s : State) : Answer := .next (cmdTimeGet h p s)
def execClockStatus (h : Hdr) (p : Bytes) (s : State) : Answer := .next (cmdClockStatus h p s)
def execThermalConfig (h : Hdr) (p : Bytes) (s : State) : Answer := .next (cmdThermalConfig h p s)
def execThermalStatus (h : Hdr) (p : Bytes) (s : State) : Answer := .next (cmdThermalStatus h p s)
def execPowerPolicyRead (h : Hdr) (p : Bytes) (s : State) : Answer := .next (cmdPowerPolicyRead h p s)
def execPowerPolicyWrite (h : Hdr) (p : Bytes) (s : State) : Answer := .next (cmdPowerPolicyWrite h p s)

end Sys2Proof.Machine
end

