-- ==== Sys2Proof/Machine/Afe.lean ====
section
/-! DEFINITION. The crosspoint front end's commands and events (chapter 05). -/

namespace Sys2Proof.Machine

/-- Change a stream. -/
def onStream (n : Nat) (f : Strm → Strm) (s : State) : State :=
  { s with stm := { s.stm with streams := upd s.stm.streams n f } }

/-- The stream `n`. -/
def State.strm (s : State) (n : Nat) : Strm := rd s.stm.streams n

/-! ### Fields of a channel's configuration (Tables 5-11 to 5-14) -/

def Channel.odr (c : Channel) : Nat := bits c.cfg0.toNat 24 4
def Channel.wideband (c : Channel) : Bool := bit c.cfg0.toNat 23
def Channel.gain (c : Channel) : Nat := 2 ^ bits c.cfg0.toNat 20 3
def Channel.byDriver (c : Channel) : Bool := bits c.cfg0.toNat 18 2 == 1
def Channel.refDrv (c : Channel) : Nat := bits c.cfg0.toNat 16 2
def Channel.tia (c : Channel) : Bool := bit c.cfg0.toNat 15
def Channel.reverse (c : Channel) : Bool := bit c.cfg0.toNat 10
def Channel.leadCheck (c : Channel) : Bool := bit c.cfg0.toNat 9
def Channel.openCheck (c : Channel) : Bool := bit c.cfg0.toNat 8
def Channel.leadMode (c : Channel) : Nat := bits c.leads.toNat 14 2
/-- The lead entries in use: pin and sign bit (Table 5-12). -/
def Channel.leadList (c : Channel) : List (Nat × Bool) :=
  (if bit c.leads.toNat 23 then [(bits c.leads.toNat 16 6, bit c.leads.toNat 22)] else [])
    ++ if bit c.leads.toNat 31 then [(bits c.leads.toNat 24 6, bit c.leads.toNat 30)] else []
/-- The pins of LEAD_SETUP (Table 5-13); a word of 0 without LEAD_CHECK names none (DEDUCED, log entry 169). -/
def Channel.setupPins (c : Channel) : List Nat :=
  if !c.leadCheck && c.leadSetup == 0 then []
  else
    [bits c.leadSetup.toNat 26 6, bits c.leadSetup.toNat 20 6]
      ++ if bit c.leadSetup.toNat 13 then [bits c.leadSetup.toNat 14 6] else []
/-- Samples discarded after any switching (R131). -/
def Channel.discard (c : Channel) : Nat := if c.wideband then 36 else 5
/-- Number of calibration segments selected (R133). -/
def Channel.segments (c : Channel) : Nat :=
  1 + b2n c.openCheck + b2n (c.reverse && c.byDriver) + b2n c.leadCheck
/-- R133 for a calibration burst of `l` samples. -/
def Channel.fits (c : Channel) (l : Nat) : Bool := decide (c.discard + 8 ≤ l / c.segments)

/-- Output data rates (Table 5-5), in samples per second. -/
def odrRates : List Nat := [250, 500, 1000, 1600, 2000, 3200, 6400, 12800, 25600, 51200, 102400]
/-- The feedback capacitor in picofarads (Table 5-3). -/
def Channel.cf (c : Channel) : Nat := [100, 330, 1000, 10000].getD (bits c.cfg0.toNat 11 2) 100

/-! ### Pins and roles (R121 to R125) -/

/-- Pins of a bank with a role that name a unit. -/
def pinsWith (a : AfeState) (bank role unit : Nat) : List Nat :=
  (List.range 24).filterMap fun i =>
    let p := rd a.pins (24 * bank + i)
    if p.role.toNat == role && bit p.unit.toNat unit then some (24 * bank + i) else none

/-- Pins of a bank with role VBIAS. -/
def vbiasPins (a : AfeState) (bank : Nat) : List Nat :=
  (List.range 24).filterMap fun i => if (rd a.pins (24 * bank + i)).role == 5 then some (24 * bank + i) else none

/-- A UNIT mask has the shape its role needs (Table 5-1). -/
def unitOk (role : Nat) (unit : Nat) : Bool :=
  let one := (List.range 16).countP (bit unit) == 1
  match role with
  | 0 => unit == 0
  | 1 => one
  | 2 => unit != 0
  | 3 | 4 | 6 | 7 => one && decide (unit < 16)
  | 5 => unit == 0
  | 8 => one && decide (unit < 4)
  | _ => false

/-- R124 for one bank. -/
def bankLegal (a : AfeState) (bank : Nat) : Bool :=
  ((List.range 24).all fun i => let p := rd a.pins (24 * bank + i); unitOk p.role.toNat p.unit.toNat)
    && (List.range 16).all (fun u => [1, 2].all fun r => (pinsWith a bank r u).length ≤ 1)
    && (List.range 4).all (fun u => [3, 4, 6, 7].all fun r => (pinsWith a bank r u).length ≤ 1)
    && (List.range 2).all (fun u => (pinsWith a bank 8 u).length ≤ 1)

/-- Pins of a driver (0 to 7). -/
def driverPins (a : AfeState) (d : Nat) : List Nat := [3, 4, 6, 7].flatMap fun r => pinsWith a (d / 4) r (d % 4)

/-- The driver a channel references. -/
def driverOf (a : AfeState) (ch : Nat) : Option Nat :=
  let c := rd a.channels ch
  if c.configured && c.byDriver then some (4 * (ch / 16) + c.refDrv) else none

/-- R135: a driver of a channel with REVERSE or LEAD_CHECK serves it alone, and LEAD_SETUP names pins of the channel
or of its driver. -/
def ownersLegal (a : AfeState) : Bool :=
  (List.range 32).all fun ch =>
    let c := rd a.channels ch
    if !c.configured || !(c.reverse || c.leadCheck) then true
    else
      let d := driverOf a ch
      let own := [1, 2].flatMap (fun r => pinsWith a (ch / 16) r (ch % 16)) ++ (d.map (driverPins a)).getD []
      (d == none || (List.range 32).all fun o => o == ch || driverOf a o != d)
        && c.setupPins.all own.contains

/-- A bank is enabled and its domain works. -/
def bankLive (s : State) (bank : Nat) : Bool := s.afe.banks.getLsbD bank && works s (4 + bank)

/-- V_ref of a channel's conversions in picovolts, by the voltages between its driver's EXP and EXN pins and between
REFP and REFN (R128). -/
def vRef (a : AfeState) (ch drive sense : Nat) : Nat :=
  match driverOf a ch with
  | none => 2500000000000
  | some d => if (pinsWith a (d / 4) 6 (d % 4)).isEmpty then drive else sense

/-- The first condition of Table 5-2 that fails; 0 when the channel is ready (R125). -/
def notReady (a : AfeState) (ch : Nat) : Byte :=
  let c := rd a.channels ch
  let bank := ch / 16
  let inn := (pinsWith a bank 2 (ch % 16)).length
  if !c.configured then 0x01
  else if (pinsWith a bank 1 (ch % 16)).length != 1 then 0x02
  else if (if c.tia then inn != 0 else decide (1 < inn)) then 0x03
  else if c.tia && (vbiasPins a bank).isEmpty then 0x04
  else if c.byDriver &&
      !((pinsWith a bank 3 c.refDrv).length == 1 && (pinsWith a bank 4 c.refDrv).length == 1
        && (pinsWith a bank 6 c.refDrv).length == (pinsWith a bank 7 c.refDrv).length
        && (rd a.drivers (4 * bank + c.refDrv)).word.getLsbD 8) then 0x05
  else if !a.banks.getLsbD bank then 0x06
  else 0x00

/-! ### What is in use (R146) -/

/-- A pin with a configuration serves a channel or its driver (R146). -/
def serves (a : AfeState) (pin : Nat) (cfg : PinCfg) (ch : Nat) : Bool :=
  let c := rd a.channels ch
  pin / 24 == ch / 16 &&
    (((cfg.role == 1 || cfg.role == 2) && bit cfg.unit.toNat (ch % 16))
      || c.setupPins.contains pin || (c.leadList.map (·.1)).contains pin
      || (cfg.role == 5 && c.tia)
      || ([3, 4, 6, 7].contains cfg.role.toNat && c.byDriver && bit cfg.unit.toNat c.refDrv))

/-- Pins of a commanded lead measurement. -/
def LeadRun.pins (r : LeadRun) : List Nat := if r.kelvin then [r.p, r.q, r.s] else [r.p, r.q]

/-- A channel runs: its stream is running, or a commanded calibration or lead measurement holds it (R146). -/
def channelBusy (s : State) (ch : Nat) : Bool :=
  (rd s.stm.streams ch).engaged || s.afe.calRuns.any (fun r => r.mask.getLsbD ch)
    || s.afe.leadRuns.any (fun r => r.channel == ch)

/-- A commanded calibration or lead measurement runs on a channel, one of its pins or its driver (R146). -/
def commandHolds (s : State) (ch : Nat) : Bool :=
  s.afe.calRuns.any (fun r => r.mask.getLsbD ch
      || (driverOf s.afe ch != none && (members 32 r.mask.toNat).any fun o => driverOf s.afe o == driverOf s.afe ch))
    || s.afe.leadRuns.any fun r => r.channel == ch || r.pins.any fun p => serves s.afe p (rd s.afe.pins p) ch

/-- The channels that run. -/
def busyChannels (s : State) : List Nat := (List.range 32).filter (channelBusy s)

/-- A pin is held by something that runs. -/
def pinBusy (s : State) (pin : Nat) (cfg : PinCfg) : Bool :=
  (busyChannels s).any (serves s.afe pin cfg) || s.afe.leadRuns.any fun r => r.pins.contains pin

/-- A driver is referenced by a channel that runs, or has a pin that is being measured. -/
def driverBusy (s : State) (d : Nat) : Bool :=
  (busyChannels s).any (fun ch => driverOf s.afe ch == some d)
    || s.afe.leadRuns.any fun r => r.pins.any (driverPins s.afe d).contains

/-! ### Lead sources (R137, R139) -/

/-- Lead sources of a bank that ILEAD pins hold. -/
def ileadHeld (a : AfeState) (bank : Nat) : Nat := (List.range 2).countP fun u => !(pinsWith a bank 8 u).isEmpty

/-- Channels of a bank whose LEAD segment runs. -/
def leadingOf (s : State) (bank : Nat) : List Nat :=
  (List.range 32).filter fun ch => ch / 16 == bank && (s.strm ch).frame.any (·.leading)

/-- The commanded lead measurements of a bank that have a source: the oldest, as far as the sources reach (R139). -/
def leadActive (s : State) (bank : Nat) : List LeadRun :=
  if !bankLive s bank then []
  else (s.afe.leadRuns.filter fun r => r.p / 24 == bank).take (2 - ileadHeld s.afe bank - (leadingOf s bank).length)

/-- Lead sources of a bank that are busy. -/
def sourcesBusy (s : State) (bank : Nat) : Nat :=
  ileadHeld s.afe bank + (leadingOf s bank).length + (leadActive s bank).length

/-- The pins of a bank that a lead measurement has now. -/
def leadPins (s : State) (bank : Nat) : List Nat :=
  (leadActive s bank).flatMap LeadRun.pins ++ (leadingOf s bank).flatMap fun ch => (rd s.afe.channels ch).setupPins

/-- A driver drives its pins now (R126, R137): enabled, its bank live, no pin under measurement, and continuous, needed by
a burst, or in WATCH referenced by a watch channel. -/
def driving (s : State) (d : Nat) : Bool :=
  let w := (rd s.afe.drivers d).word
  let burst (ch : Nat) := (s.strm ch).frame.isSome || s.afe.calRuns.any (fun r => r.left.getLsbD ch)
    || (s.pwr.state == .watch && s.pwr.wake.entries.any fun e => e.channel.toNat == ch)
  w.getLsbD 8 && bankLive s (d / 4) && !(driverPins s.afe d).any (leadPins s (d / 4)).contains &&
    (!w.getLsbD 9 || (List.range 32).any fun ch => driverOf s.afe ch == some d && burst ch)

/-! ### Status words (R140) -/

/-- Change a channel. -/
def onChannel (ch : Nat) (f : Channel → Channel) (s : State) : State :=
  { s with afe := { s.afe with channels := upd s.afe.channels ch f } }

/-- Give a channel a status word: IMPLAUSIBLE is recomputed, and a change of any other bit raises
AFE_CHANNEL_FAULT. -/
def setStatus (ch : Nat) (st : BitVec 16) (s : State) : State :=
  let c := rd s.afe.channels ch
  let limit := bits c.limits.toNat 16 8
  let new := setBit st 8 (implausible st (limit != 0 && decide (limit ≤ c.satCount)))
  let s' := onChannel ch (fun c => { c with status := new }) s
  if setBit new 8 false == setBit c.status 8 false then s'
  else raise 0x20 true ([BitVec.ofNat 8 ch, 0] ++ le 2 new.toNat ++ le 2 c.status.toNat ++ [0, 0]) s'

/-- Set or clear one status bit of a channel. -/
def statusBit (ch bitNo : Nat) (v : Bool) (s : State) : State := setStatus ch (setBit (rd s.afe.channels ch).status bitNo v) s

/-- LEAD_HIGH and EXC_LIMIT of a channel follow its listed pins and its driver (R127, R137). -/
def followStatus (ch : Nat) (s : State) : State :=
  let c := rd s.afe.channels ch
  let high := (c.leadList.map (·.1)).any s.afe.high.getLsbD
  let limit := (driverOf s.afe ch).any fun d => (rd s.afe.drivers d).limit
  let st := setBit (setBit c.status 6 high) 5 limit
  if st == c.status then s else setStatus ch st s

/-! ### Roles -/

/-- The entry of a pin in the set format. -/
def pinBytes (a : AfeState) (pin : Nat) : Bytes :=
  let c := rd a.pins pin
  [BitVec.ofNat 8 pin, BitVec.ofNat 8 c.role.toNat] ++ le 2 c.unit.toNat

/-- Entries of an AFE_PIN_ROLE_SET payload: pin, role, unit. -/
def roleEntries (p : Bytes) : List (Nat × PinCfg) :=
  (List.range (p.length / 4)).map fun i =>
    (fld p (4 * i) 1, { role := BitVec.ofNat 4 (fld p (4 * i + 1) 1), unit := BitVec.ofNat 16 (fld p (4 * i + 2) 2) })

/-- AFE_PIN_ROLE_SET: all entries together, or none (R124, R135, R146). -/
def cmdAfePinRoleSet (h : Hdr) (p : Bytes) (s : State) : State :=
  serve { opcode := 0x20, rights := fun _ _ => .site, length := fun n => n % 4 == 0 && decide (4 ≤ n) && decide (n ≤ 192)
          reserved := fun p => (List.range (p.length / 4)).all fun i => bits (fld p (4 * i + 1) 1) 4 4 == 0 } h p
    (fun s =>
      let es := roleEntries p
      let after := { s.afe with pins := es.foldl (fun v e => wr v e.1 e.2) s.afe.pins }
      let changed := es.filter fun e => rd s.afe.pins e.1 != e.2
      refuseIf h.tag
        [(es.any (fun e => decide (48 ≤ e.1) || decide (8 < e.2.role.toNat)) || !decide (es.map (·.1)).Nodup
            || !(bankLegal after 0 && bankLegal after 1 && ownersLegal after), stParam),
         (changed.any fun e => pinBusy s e.1 (rd s.afe.pins e.1) || pinBusy s e.1 e.2, stBusy)]
        (fun s => doneWith h [] { s with afe := after }) s) s

/-- AFE_PIN_ROLE_GET. -/
def cmdAfePinRoleGet (h : Hdr) (p : Bytes) (s : State) : State :=
  serve { opcode := 0x21, length := (· == 1) } h p
    (fun s => refuseIf h.tag [(decide (1 < fld p 0 1), stParam)]
      (fun s => doneWith h ((List.range 24).flatMap fun i => pinBytes s.afe (24 * fld p 0 1 + i)) s) s) s

/-! ### Channels -/

/-- The four flag bytes of AFE_CHANNEL_CONFIG's reply. -/
def channelFlags (s : State) (ch : Nat) : Bytes :=
  let cause := notReady s.afe ch
  [BitVec.ofNat 8 (flags [(rd s.afe.channels ch).configured, cause == 0, (rd s.stm.streams ch).isRunning]), cause, 0, 0]

/-- The configuration of Table 5-10 as bytes. -/
def Channel.bytes (c : Channel) (ch : Nat) : Bytes :=
  [BitVec.ofNat 8 ch, 0, 0, 0] ++ ([c.cfg0, c.leads, c.rNom, c.leadSetup, c.limits].flatMap fun w => le 4 w.toNat)

/-- The calibration record as bytes (Table 5-16). -/
def CalRecord.bytes (r : CalRecord) : Bytes :=
  le 8 r.time.toNat ++ leInt 4 r.offset ++ leInt 4 r.emf ++ le 2 r.openMeas.toNat ++ le 2 r.status.toNat ++ le 4 r.leadCorr.toNat

/-- The channel a payload of Table 5-10 configures, over its earlier record. -/
def channelFrom (p : Bytes) (c : Channel) : Channel :=
  { c with
    configured := true
    cfg0 := .ofNat 32 (fld p 4 4), leads := .ofNat 32 (fld p 8 4), rNom := .ofNat 32 (fld p 12 4)
    leadSetup := .ofNat 32 (fld p 16 4), limits := .ofNat 32 (fld p 20 4) }

/-- Ranges of Tables 5-10 to 5-13, apart from R133 and R135. -/
def channelInRange (c : Channel) (ch : Nat) : Bool :=
  let bank (pin : Nat) := decide (pin < 48) && pin / 24 == ch / 16
  decide (c.odr ≤ 10) && decide (bits c.cfg0.toNat 18 2 ≤ 1) && decide (c.leadMode ≤ 2)
    && (!c.reverse || c.byDriver)
    && (c.leadList.all fun l => bank l.1) && c.setupPins.all bank
    && ((c.leadMode == 0) == (c.rNom == 0))
    && !(c.leadMode == 2 && c.tia)

/-- The calibration length of the stream on a channel, where one is configured. -/
def calLenOf (s : State) (ch : Nat) : Option Nat :=
  let x := rd s.stm.streams ch
  if x.phase == .unconfigured then none else some (bits x.ctrl.toNat 0 10)

/-- AFE_CHANNEL_CONFIG (Table 5-10, R133, R135, R146). -/
def cmdAfeChannelConfig (h : Hdr) (p : Bytes) (s : State) : State :=
  serve { opcode := 0x22, rights := fun _ _ => .site, length := (· == 24)
          reserved := fun p => fld p 1 3 == 0 && bits (fld p 4 4) 28 4 == 0 && bits (fld p 4 4) 0 8 == 0
            && bits (fld p 8 4) 0 14 == 0 && bits (fld p 16 4) 0 13 == 0 } h p
    (fun s =>
      let ch := fld p 0 1
      let old := rd s.afe.channels ch
      let new := channelFrom p old
      let after := { s.afe with channels := wr s.afe.channels ch new }
      refuseIf h.tag
        [(decide (32 ≤ ch) || !channelInRange new ch || !((calLenOf s ch).all new.fits) || !ownersLegal after, stParam),
         (new != old && channelBusy s ch, stBusy)]
        (fun s =>
          let s := followStatus ch { s with afe := after }
          doneWith h (channelFlags s ch) s) s) s

/-- AFE_CHANNEL_GET. -/
def cmdAfeChannelGet (h : Hdr) (p : Bytes) (s : State) : State :=
  serve { opcode := 0x23, length := (· == 1) } h p
    (fun s =>
      let ch := fld p 0 1
      let c := rd s.afe.channels ch
      refuseIf h.tag [(decide (32 ≤ ch), stParam)]
        (fun s => doneWith h (channelFlags s ch ++ c.bytes ch ++ c.record.bytes) s) s) s

/-! ### Excitation, leads -/

/-- AFE_EXCITATION_SET (Table 5-15, R146). -/
def cmdAfeExcitationSet (h : Hdr) (p : Bytes) (s : State) : State :=
  serve { opcode := 0x24, rights := fun _ _ => .site, length := (· == 8)
          reserved := fun p => fld p 1 3 == 0 && fld p 7 1 == 0 && bits (fld p 4 4) 10 6 == 0 } h p
    (fun s =>
      let d := fld p 0 1
      let w : Word32 := .ofNat 32 (fld p 4 4)
      refuseIf h.tag
        [(decide (8 ≤ d) || decide (200 < bits w.toNat 0 8) || (w.getLsbD 9 && bits w.toNat 16 8 == 0), stParam),
         ((rd s.afe.drivers d).word != w && driverBusy s d, stBusy)]
        (fun s => doneWith h (le 4 w.toNat)
          { s with afe := { s.afe with drivers := upd s.afe.drivers d fun x => { x with word := w } } }) s) s

/-- The form of AFE_LEAD_MEASURE. -/
def leadForm : Form := { opcode := 0x25, rights := fun _ _ => .site, length := (· == 12), reserved := zeros [(5, 3)] }

/-- A pin has been measured above 500 ohms, or a lower value stored for it: LEAD_HIGH of every channel whose lead list names
it follows (R137). -/
def leadHigh (pin : Nat) (v : Bool) (s : State) : State :=
  let bitOf : BitVec 48 := 1#48 <<< pin
  let s := { s with afe := { s.afe with high := if v then s.afe.high ||| bitOf else s.afe.high &&& ~~~bitOf } }
  (List.range 32).foldl (fun s ch => followStatus ch s) s

/-- Store a lead value of 500 ohms or less (R137). -/
def storeLead (pin : Nat) (state : BitVec 2) (milli : Nat) (s : State) : State :=
  leadHigh pin false { s with afe := { s.afe with leads := wr s.afe.leads pin { state, value := .ofNat 30 milli } } }

/-- Keep or refuse a measured value: above 500 ohms nothing is stored (R137). The flag says it was stored. -/
def keepLead (kelvin : Bool) (p q milli : Nat) (s : State) : State × Bool :=
  if 500000 < milli then
    (raise 0x23 false ([BitVec.ofNat 8 p, 0, 0, 0] ++ le 4 (min milli 0xFFFFFFFF)) (leadHigh p true s), false)
  else if kelvin then (storeLead p 1 milli s, true)
  else (storeLead q 2 milli (storeLead p 2 milli s), true)

/-- Ask for the domains of some channels' banks. -/
def wantBanks (chs : List Nat) (s : State) : State := chs.foldl (fun s c => wantDomain (4 + c / 16) true s) (wantDomain 7 true s)

/-- Start a commanded lead measurement (R137, R139, R146); on a disabled bank it is refused (DESIGN CHOICE, log entry 170). -/
def startLead (kelvin : Bool) (h : Hdr) (p : Bytes) (s : State) : State :=
  let pp := fld p 1 1; let q := fld p 2 1; let k := fld p 3 1; let ch := fld p 4 1
  let pins := if kelvin then [pp, q, k] else [pp, q]
  refuseIf h.tag
    [(pins.any (48 ≤ ·) || !decide pins.Nodup || pins.any (fun x => x / 24 != pp / 24) || (!kelvin && k != 0)
        || decide (32 ≤ ch) || ch / 16 != pp / 24 || fld p 8 4 != 0, stParam),
     (channelBusy s ch || pins.any (fun x => pinBusy s x (rd s.afe.pins x)), stBusy),
     (!s.afe.banks.getLsbD (pp / 24), stState),
     (ileadHeld s.afe (pp / 24) == 2, stNoResource),
     (clockDown s (4 + pp / 24), stHwFault)]
    (fun s => started h.tag (wantBanks [ch] { s with afe := { s.afe with
      leadRuns := s.afe.leadRuns ++ [{ tag := h.tag, kelvin, p := pp, q, s := k, channel := ch }] } })) s

/-- AFE_LEAD_MEASURE in LOOP mode. -/
def cmdAfeLeadMeasureLoop (h : Hdr) (p : Bytes) (s : State) : State := serve leadForm h p (startLead false h p) s

/-- AFE_LEAD_MEASURE in KELVIN mode. -/
def cmdAfeLeadMeasureKelvin (h : Hdr) (p : Bytes) (s : State) : State := serve leadForm h p (startLead true h p) s

/-- AFE_LEAD_MEASURE in SET mode stores the given value for P in state SET. -/
def cmdAfeLeadMeasureSet (h : Hdr) (p : Bytes) (s : State) : State :=
  serve leadForm h p
    (fun s =>
      let pin := fld p 1 1
      refuseIf h.tag
        [(decide (48 ≤ pin) || fld p 2 3 != 0 || decide (500000 < fld p 8 4), stParam),
         (pinBusy s pin (rd s.afe.pins pin), stBusy)]
        (fun s => doneWith h (le 4 (fld p 8 4) ++ [1, 0, 0, 0]) (storeLead pin 3 (fld p 8 4) s)) s) s

/-- AFE_LEAD_GET. -/
def cmdAfeLeadGet (h : Hdr) (p : Bytes) (s : State) : State :=
  serve { opcode := 0x26, length := (· == 1) } h p
    (fun s => refuseIf h.tag [(decide (1 < fld p 0 1), stParam)]
      (fun s => doneWith h ((List.range 24).flatMap fun i =>
        let l := rd s.afe.leads (24 * fld p 0 1 + i)
        le 4 (l.value.toNat + 2 ^ 30 * l.state.toNat)) s) s) s

/-- A commanded lead measurement completes with the voltage it read, in picovolts at 100 microamps: the oldest one that has a
source (R137, R139). In LOOP mode half of the loop reading is compared with 500 ohms and reported (DESIGN CHOICE, log entry
163). -/
def execLeadMeasureDone (picovolts : Nat) (s : State) : Answer :=
  match s.afe.leadRuns.find? (fun r => (leadActive s (r.p / 24)).contains r) with
  | none => .next s
  | some r =>
    let milli := (roundDiv picovolts (if r.kelvin then 100000 else 200000)).toNat
    let s := commitMark r.tag { s with afe := { s.afe with leadRuns := s.afe.leadRuns.filter (· != r) } }
    let k := keepLead r.kelvin r.p r.q milli s
    .next (finish r.tag 0x00 (le 4 (min milli 0xFFFFFFFF) ++ [if k.2 then 1 else 2, 0, 0, 0]) k.1)

/-! ### Redundant pairs (R142 to R145) -/

/-- Change a pair. -/
def onPair (i : Nat) (f : Pair → Pair) (s : State) : State := { s with afe := { s.afe with pairs := upd s.afe.pairs i f } }

/-- Mark or unmark the two members: PAIR_FAULT of an analogue member's channel follows (R145). -/
def markPair (i : Nat) (a b : Bool) (s : State) : State :=
  let q := rd s.afe.pairs i
  let mark (stream : Nat) (v : Bool) (s : State) : State :=
    if stream < 32 && (rd s.afe.channels stream).status.getLsbD 9 != v then statusBit stream 9 v s else s
  mark q.streamB b (mark q.streamA a (onPair i (fun q => { q with markA := a, markB := b }) s))

/-- Move a pair to a state; each change raises AFE_PAIR_STATE, and the marks follow the state (Table 5-9, R144). -/
def setPair (i : Nat) (phase : PairPhase) (s : State) : State :=
  let q := rd s.afe.pairs i
  let s := markPair i (phase == .faultA || phase == .faultBoth) (phase == .faultB || phase == .faultBoth)
    (onPair i (fun q => { q with phase := phase }) s)
  if q.phase == phase then s
  else raise 0x21 true [BitVec.ofNat 8 i, phase.code, q.phase.code, q.fails, q.implausible, 0, 0, 0] s

/-- The frames of a pair's members that wait for their partner wait no more: the pair is no longer as it was (R142). -/
def releasePair (i : Nat) (s : State) : State :=
  let q := rd s.afe.pairs i
  let free (n : Nat) (s : State) : State :=
    onStream n (fun x => { x with held := x.held.map fun f => { f with awaiting := false } }) s
  if q.configured then free q.streamB (free q.streamA s) else s

/-- The form of AFE_PAIR_CONFIG. -/
def pairForm : Form :=
  { opcode := 0x27, rights := fun _ _ => .site, length := (· == 12), reserved := zeros [(11, 1)] }

/-- AFE_PAIR_CONFIG with MODE 0x01 declares a pair: UNKNOWN while both members run, else INACTIVE (Table 5-9, R144). -/
def cmdAfePairConfigSet (h : Hdr) (p : Bytes) (s : State) : State :=
  serve pairForm h p
    (fun s =>
      let i := fld p 0 1; let a := fld p 2 1; let b := fld p 3 1; let ratio := fld p 4 2
      let taken := (List.range 16).any fun o =>
        let q := rd s.afe.pairs o
        o != i && q.configured && [a, b].any fun x => x == q.streamA || x == q.streamB
      refuseIf h.tag
        [(decide (16 ≤ i) || decide (96 ≤ a) || decide (96 ≤ b) || a == b || taken
            || (ratio != 0 && (decide (ratio < 0x101) || decide (0x1000 < ratio)))
            || decide (32 < fld p 8 1) || fld p 9 1 == 0 || fld p 10 1 == 0, stParam)]
        (fun s =>
          let s := releasePair i (markPair i false false s)
          let both := (s.strm a).isRunning && (s.strm b).isRunning
          let old := rd s.afe.pairs i
          let new : Pair :=
            { configured := true, streamA := a, streamB := b, ratioMax := .ofNat 16 ratio, corrMin := .ofNat 8 (fld p 6 1)
              bandDb := .ofNat 8 (fld p 7 1), maxLag := .ofNat 8 (fld p 8 1), persist := .ofNat 8 (fld p 9 1)
              digSatLimit := .ofNat 8 (fld p 10 1), phase := old.phase }
          doneWith h [] (setPair i (if both then .unknown else .inactive) (onPair i (fun _ => new) s))) s) s

/-- AFE_PAIR_CONFIG with MODE 0x00: only PAIR is read; the pair becomes INACTIVE and its marks clear. -/
def cmdAfePairConfigRemove (h : Hdr) (p : Bytes) (s : State) : State :=
  serve pairForm h p
    (fun s => refuseIf h.tag [(decide (16 ≤ fld p 0 1), stParam)]
      (fun s => doneWith h [] (onPair (fld p 0 1) (fun _ => {}) (setPair (fld p 0 1) .inactive (releasePair (fld p 0 1) s)))) s) s

/-- The 16-byte entry of AFE_PAIR_STATUS. -/
def pairEntry (s : State) (i : Nat) : Bytes :=
  let q := rd s.afe.pairs i
  [BitVec.ofNat 8 i, q.phase.code, q.fails, q.implausible] ++ le 2 q.ratio.toNat ++ [q.corr, q.bandWorst]
    ++ le 4 q.compared.toNat ++ le 4 q.skipped.toNat

/-- AFE_PAIR_STATUS: one pair, or all with 0xFF. -/
def cmdAfePairStatus (h : Hdr) (p : Bytes) (s : State) : State :=
  serve { opcode := 0x28, length := (· == 1) } h p
    (fun s =>
      let i := fld p 0 1
      refuseIf h.tag [(decide (16 ≤ i) && i != 0xFF, stParam)]
        (fun s => doneWith h (if i == 0xFF then (List.range 16).flatMap (pairEntry s) else pairEntry s i) s) s) s

/-! ### Diagnostics, calibration and banks -/

/-- AFE_DIAG: 212 bytes. -/
def cmdAfeDiag (h : Hdr) (p : Bytes) (s : State) : State :=
  serve { opcode := 0x29, length := (· == 1) } h p
    (fun s =>
      let b := fld p 0 1
      refuseIf h.tag [(decide (1 < b), stParam)]
        (fun s =>
          let chans := (List.range 16).flatMap fun i =>
            let c := rd s.afe.channels (16 * b + i)
            le 2 c.status.toNat ++ [0, 0] ++ le 4 c.faultFrames.toNat ++ le 4 c.satSamples.toNat
          let drvs := (List.range 4).flatMap fun i =>
            let d := rd s.afe.drivers (4 * b + i)
            [BitVec.ofNat 8 (flags [d.word.getLsbD 8, driving s (4 * b + i), d.limit]), 0] ++ le 2 (rd s.afe.leadSkips b).toNat
          doneWith h ([BitVec.ofNat 8 b, BitVec.ofNat 8 (b2n (s.afe.banks.getLsbD b)), BitVec.ofNat 8 (b2n s.pwr.va30Ok), 0]
            ++ chans ++ drvs) s) s) s

/-- AFE_CAL_RUN starts a calibration burst on each channel of the mask; it ends when the last record is written. -/
def cmdAfeCalRun (h : Hdr) (p : Bytes) (s : State) : State :=
  serve { opcode := 0x2A, rights := fun _ _ => .site, length := (· == 8), reserved := zeros [(6, 2)] } h p
    (fun s =>
      let mask := fld p 0 4
      let len := fld p 4 2
      let chs := members 32 mask
      refuseIf h.tag
        [(mask == 0 || decide (len < 64) || decide (512 < len)
            || chs.any (fun c => (rd s.afe.channels c).configured && !(rd s.afe.channels c).fits len), stParam),
         (chs.any fun c => notReady s.afe c != 0, stState),
         (chs.any fun c => channelBusy s c || commandHolds s c || (driverOf s.afe c).any (driverBusy s), stBusy),
         (chs.any fun c => clockDown s (4 + c / 16), stHwFault)]
        (fun s => started h.tag (wantBanks chs { s with afe := { s.afe with
          calRuns := s.afe.calRuns ++ [{ tag := h.tag, mask := .ofNat 32 mask, left := .ofNat 32 mask, length := len }] } })) s) s

/-- AFE_BANK_ENABLE: a bank that a running channel uses is not disabled (R125, R146). An enabled bank lets the Resource
Manager power its domain. -/
def cmdAfeBankEnable (h : Hdr) (p : Bytes) (s : State) : State :=
  serve { opcode := 0x2B, rights := fun _ _ => .site, length := (· == 1), reserved := fun p => fld p 0 1 / 4 == 0 } h p
    (fun s =>
      let v : BitVec 2 := .ofNat 2 (fld p 0 1)
      let drop (b : Nat) := s.afe.banks.getLsbD b && !v.getLsbD b
      refuseIf h.tag
        [((List.range 2).any fun b => drop b && (busyChannels s).any (· / 16 == b), stBusy)]
        (fun s =>
          let s := { s with afe := { s.afe with banks := v } }
          let s := (List.range 2).foldl (fun s b => if v.getLsbD b then s else if s.isOn (4 + b) then wantDomain (4 + b) false s else s) s
          doneWith h (le 1 v.toNat) s) s) s

/-! ### The calibration burst (R133 to R139) -/

/-- Sum and number of the raw codes of segment `i` of a burst cut into `k` segments, after the discard. -/
def segment (raws : List Int) (k d i : Nat) : Int × Nat :=
  let n := raws.length / k
  let first := n + raws.length % k
  let xs := (if i == 0 then raws.take first else (raws.drop (first + (i - 1) * n)).take n).drop d
  (xs.sum, xs.length)

/-- Mean of a sum, rounded (R460). -/
def mean (s : Int × Nat) : Int := roundDiv s.1 (max 1 s.2)

/-- Signed sum of the listed leads in milliohms: with signs in OFFSET mode, without in BRIDGE mode (R138). -/
def leadSum (a : AfeState) (c : Channel) : Int :=
  (c.leadList.map fun l =>
    let r : Int := (rd a.leads l.1).value.toNat
    if c.leadMode == 1 && l.2 then -r else r).sum

/-- `LEAD_CORR` of a record: the correction in codes, the factor in Q2.30, or 0. One that its 32 bits do not hold is a free
value (DESIGN CHOICE, log entry 165). -/
def leadCorr (c : Channel) (sum : Int) : Word32 :=
  let r := c.rNom.toNat
  let held (lo hi v : Int) : Word32 := if lo ≤ v && v < hi then BitVec.ofInt 32 v else Config.leadCorrOver v
  match c.leadMode with
  | 1 => held (-2147483648) 2147483648 (roundDiv (2 ^ 23 * c.gain * sum) (max 1 r))
  | 2 => held 0 4294967296 (roundDiv ((r + sum) * 2 ^ 30) (max 1 r))
  | _ => 0

/-- Source resistance in units of 100 ohms from an OPEN segment of the instrumentation path, given V_ref in picovolts
(R134). -/
def sourceResistance (c : Channel) (o m : Int × Nat) (vref : Nat) : Nat :=
  let num := (o.1 * m.2 - m.1 * o.2).natAbs * vref
  min 0xFFFF (roundDiv num (max 1 (o.2 * m.2 * 2 ^ 23 * c.gain * 100000000))).toNat

/-- Sensor capacitance in picofarads from the output step in picovolts (R134). -/
def sensorCapacitance (c : Channel) (step : Nat) : Nat :=
  min 0xFFFF (max 0 (roundDiv ((c.cf : Int) * ((step : Int) - 10000000000)) 10000000000)).toNat

/-- The record that a completed calibration burst makes. `step` is the OPEN segment's output step and `vref` V_ref,
in picovolts; `prev` is M_prev, absent in the first frame of a run (R134, R136). -/
def calRecord (s : State) (c : Channel) (raws : List Int) (step vref : Nat) (prev : Option (Int × Nat)) : CalRecord :=
  let k := c.segments
  let seg := segment raws k c.discard
  let shortAt := b2n c.openCheck
  let offset := mean (seg shortAt)
  let openMeas :=
    if !c.openCheck then c.record.openMeas
    else if c.tia then BitVec.ofNat 16 (sensorCapacitance c step)
    else match prev with
      | none => c.record.openMeas
      | some m => BitVec.ofNat 16 (sourceResistance c (seg 0) m vref)
  let emf := match prev with
    | none => 0
    | some m =>
      if c.reverse && c.byDriver then
        let r := seg (shortAt + 1)
        roundDiv (r.1 * m.2 - offset * r.2 * m.2 + m.1 * r.2) (max 1 (2 * r.2 * m.2))
      else c.record.emf
  { c.record with time := now s, offset, emf, openMeas }

/-- The LEAD segment of a burst begins: skipped and counted where no source is free (R139). The flag says that it runs. -/
def leadBegins (ch : Nat) (s : State) : State × Bool :=
  if 2 ≤ sourcesBusy s (ch / 16) then
    ({ s with afe := { s.afe with leadSkips := upd s.afe.leadSkips (ch / 16) satInc } }, false)
  else (s, true)

/-- The LEAD segment's voltage in picovolts gives its value (R137). -/
def leadSegment (ch leadPicovolts : Nat) (s : State) : State :=
  let c := rd s.afe.channels ch
  let kelvin := bit c.leadSetup.toNat 13
  let milli := (roundDiv leadPicovolts (if kelvin then 100000 else 200000)).toNat
  (keepLead kelvin (bits c.leadSetup.toNat 26 6) (bits c.leadSetup.toNat 20 6) milli s).1

/-- Put a burst's results in force: the LEAD segment where it ran, the record and its correction (R136, R138, R140). -/
def takeCalibration (ch : Nat) (raws : List Int) (step lead vref : Nat) (led : Bool) (prev : Option (Int × Nat)) (s : State) :
    State :=
  let s := if led then leadSegment ch lead s else s
  onChannel ch (fun c =>
    let r := calRecord s c raws step vref prev
    { c with record := { r with leadCorr := leadCorr c (leadSum s.afe c) }
             burst := { c.burst with openDone := c.openCheck && (c.tia || prev.isSome) } }) s

/-- OPEN by its limit: resistance above, or capacitance below, the limit; without a result of the frame's OPEN segment it keeps
its value, and a limit of 0 disables it (Table 5-7). -/
def openNow (c : Channel) : Bool :=
  let lim := bits c.limits.toNat 24 8
  if lim == 0 then false
  else if !c.burst.openDone then c.status.getLsbD 0
  else if c.tia then decide (c.record.openMeas.toNat < lim * 100)
  else decide (lim * 100 < c.record.openMeas.toNat)

/-! ### Driver limits (R127) -/

/-- A driver's limit has stayed engaged for 1 ms. -/
def execExcLimitEngaged (d : BitVec 3) (s : State) : Answer :=
  if (rd s.afe.drivers d.toNat).limit || !driving s d.toNat then .next s
  else
    let s := { s with afe := { s.afe with drivers := upd s.afe.drivers d.toNat fun x => { x with limit := true } } }
    let s := (List.range 32).foldl (fun s ch => followStatus ch s) s
    .next (raise 0x22 true [BitVec.ofNat 8 d.toNat, 1, 0, 0] s)

/-- A driver's limit has been released for 1 ms. -/
def execExcLimitReleased (d : BitVec 3) (s : State) : Answer :=
  if !(rd s.afe.drivers d.toNat).limit then .next s
  else
    let s := { s with afe := { s.afe with drivers := upd s.afe.drivers d.toNat fun x => { x with limit := false } } }
    let s := (List.range 32).foldl (fun s ch => followStatus ch s) s
    .next (raise 0x22 true [BitVec.ofNat 8 d.toNat, 0, 0, 0] s)

/-! ### The meanings -/

def execAfePinRoleSet (h : Hdr) (p : Bytes) (s : State) : Answer := .next (cmdAfePinRoleSet h p s)
def execAfePinRoleGet (h : Hdr) (p : Bytes) (s : State) : Answer := .next (cmdAfePinRoleGet h p s)
def execAfeChannelConfig (h : Hdr) (p : Bytes) (s : State) : Answer := .next (cmdAfeChannelConfig h p s)
def execAfeChannelGet (h : Hdr) (p : Bytes) (s : State) : Answer := .next (cmdAfeChannelGet h p s)
def execAfeExcitationSet (h : Hdr) (p : Bytes) (s : State) : Answer := .next (cmdAfeExcitationSet h p s)
def execAfeLeadMeasureLoop (h : Hdr) (p : Bytes) (s : State) : Answer := .next (cmdAfeLeadMeasureLoop h p s)
def execAfeLeadMeasureKelvin (h : Hdr) (p : Bytes) (s : State) : Answer := .next (cmdAfeLeadMeasureKelvin h p s)
def execAfeLeadMeasureSet (h : Hdr) (p : Bytes) (s : State) : Answer := .next (cmdAfeLeadMeasureSet h p s)
def execAfeLeadGet (h : Hdr) (p : Bytes) (s : State) : Answer := .next (cmdAfeLeadGet h p s)
def execAfePairConfigSet (h : Hdr) (p : Bytes) (s : State) : Answer := .next (cmdAfePairConfigSet h p s)
def execAfePairConfigRemove (h : Hdr) (p : Bytes) (s : State) : Answer := .next (cmdAfePairConfigRemove h p s)
def execAfePairStatus (h : Hdr) (p : Bytes) (s : State) : Answer := .next (cmdAfePairStatus h p s)
def execAfeDiag (h : Hdr) (p : Bytes) (s : State) : Answer := .next (cmdAfeDiag h p s)
def execAfeCalRun (h : Hdr) (p : Bytes) (s : State) : Answer := .next (cmdAfeCalRun h p s)
def execAfeBankEnable (h : Hdr) (p : Bytes) (s : State) : Answer := .next (cmdAfeBankEnable h p s)

end Sys2Proof.Machine
end

