-- ==== Sys2Proof/Machine/Stream.lean ====
section
/-! DEFINITION. Streams, bursts, sensor ports and input configuration (chapter 06). -/

namespace Sys2Proof.Machine

/-! ### Fields of a stream's entry (Tables 6-5 and 6-6) -/

def Strm.byRevs (x : Strm) : Bool := bits x.ctrl.toNat 30 2 == 1
def Strm.periodic (x : Strm) : Bool := bits x.ctrl.toNat 28 2 == 1
def Strm.revTach (x : Strm) : Nat := bits x.ctrl.toNat 26 2
def Strm.revs (x : Strm) : Nat := bits x.ctrl.toNat 16 8
def Strm.calLen (x : Strm) : Nat := bits x.ctrl.toNat 0 10

/-- A stream of the front end (R147). -/
def isAnalog (n : Nat) : Bool := n < 32

/-- The port of a digital stream and its position there (R147). -/
def portOf (n : Nat) : Nat := (n - 32) / 16
def positionOf (n : Nat) : Nat := (n - 32) % 16

/-- Bytes of sample buffer an entry takes (R169). -/
def Strm.bytes (x : Strm) : Nat :=
  if x.phase == .unconfigured then 0 else x.bufFrames.toNat * (64 + 4 * (x.calLen + x.frameLen.toNat))

/-- Bytes of sample buffer left (R169). -/
def bufFree (s : State) : Nat := 1572864 - (s.stm.streams.toList.map Strm.bytes).sum

/-! ### Ports (Tables 6-7 to 6-10) -/

/-- Width code of `SLOT_WIDTH` and `DATA_BITS`. -/
def widthOf (code : Nat) : Nat := 16 + 8 * code

def Port.slots (p : Port) : Nat := bits p.cfg.toNat 20 4 + 1

/-- The entry of an SPI sensor that feeds a position. -/
def Port.sensorAt (p : Port) (k : Nat) : Option Bytes :=
  p.sensors.find? fun e => decide (fld e 2 1 ≤ k) && decide (k < fld e 2 1 + fld e 3 1)

/-- The port is in a mode that feeds a position. -/
def Port.feeds (p : Port) (k : Nat) : Bool :=
  match p.mode with
  | .disabled => false
  | .tdm => decide (k < p.slots)
  | .spi => (p.sensorAt k).isSome

/-- Samples per second of a stream. -/
def streamRate (s : State) (n : Nat) : Nat :=
  if isAnalog n then odrRates.getD (rd s.afe.channels n).odr 0
  else
    let p := rd s.stm.ports (portOf n)
    match p.mode with
    | .disabled => 0
    | .tdm => p.fsRate.toNat
    | .spi => match p.sensorAt (positionOf n) with
      | some e => fld e 12 4
      | none => 0

/-- Width of the data words of a digital stream. -/
def dataBits (s : State) (n : Nat) : Nat :=
  let p := rd s.stm.ports (portOf n)
  match p.mode with
  | .spi => match p.sensorAt (positionOf n) with
    | some e => fld e 4 1
    | none => 32
  | _ => widthOf (bits p.cfg.toNat 16 2)

/-- Streams of a port that run. -/
def portRunning (s : State) (p : Nat) : List Nat :=
  (List.range 16).map (32 + 16 * p + ·) |>.filter fun n => (s.strm n).engaged

/-! ### STREAM_CONFIG and STREAM_GET -/

/-- The entry of a payload (Table 6-5). -/
def streamFrom (p : Bytes) (x : Strm) : Strm :=
  { x with
    phase := if x.phase == .unconfigured then .stopped else x.phase
    ctrl := .ofNat 32 (fld p 4 4), frameLen := .ofNat 32 (fld p 8 4), bufFrames := .ofNat 8 (fld p 12 1)
    period := .ofNat 32 (fld p 16 4), frameLimit := .ofNat 32 (fld p 20 4) }

/-- Ranges of Tables 6-5 and 6-6, and R133. -/
def streamInRange (s : State) (n : Nat) (x : Strm) : Bool :=
  decide (256 ≤ x.frameLen.toNat) && decide (x.frameLen.toNat ≤ 16384)
    && decide (2 ≤ x.bufFrames.toNat) && decide (x.bufFrames.toNat ≤ 8)
    && decide (bits x.ctrl.toNat 30 2 ≤ 1) && decide (bits x.ctrl.toNat 28 2 ≤ 1)
    && (if x.periodic then decide (32 ≤ x.period.toNat) else x.period == 0)
    && (if x.byRevs then decide (1 ≤ x.revs) else x.revs == 0)
    && (if isAnalog n then decide (64 ≤ x.calLen) && decide (x.calLen ≤ 512) else x.calLen == 0)
    && (!isAnalog n || !(rd s.afe.channels n).configured || (rd s.afe.channels n).fits x.calLen)

/-- The entry of the same stream is as it stands (R170). -/
def Strm.sameEntry (x y : Strm) : Bool :=
  x.phase == y.phase && x.ctrl == y.ctrl && x.frameLen == y.frameLen && x.bufFrames == y.bufFrames
    && x.period == y.period && x.frameLimit == y.frameLimit

/-- R170: the entry of a stream that runs, or that holds closed frames, does not change. -/
def Strm.locked (x : Strm) : Bool := x.engaged || !x.held.isEmpty

/-- The form of STREAM_CONFIG with `OP` set. -/
def streamForm : Form :=
  { opcode := 0x30, rights := fun _ _ => .site, length := (· == 32)
    reserved := fun p => zeros [(2, 2), (13, 3), (24, 8)] p && bits (fld p 4 4) 24 2 == 0 && bits (fld p 4 4) 10 6 == 0 }

/-- STREAM_CONFIG with `OP` 0x01 (R169, R170). -/
def cmdStreamConfigSet (h : Hdr) (p : Bytes) (s : State) : State :=
  serve streamForm h p
    (fun s =>
      let n := fld p 0 1
      let old := s.strm n
      let new := streamFrom p old
      refuseIf h.tag
        [(decide (96 ≤ n) || !streamInRange s n new, stParam),
         (!old.sameEntry new && old.locked, stBusy),
         (decide (bufFree s + old.bytes < new.bytes), stNoResource)]
        (fun s =>
          let s := if old.sameEntry new then s else onStream n (fun _ => new) s
          doneWith h (le 4 (bufFree s)) s) s) s

/-- STREAM_CONFIG with `OP` 0x00: only `STREAM` is read, and the reserved bytes are zero (R6, R169, R170). -/
def cmdStreamConfigRemove (h : Hdr) (p : Bytes) (s : State) : State :=
  serve streamForm h p
    (fun s =>
      let n := fld p 0 1
      refuseIf h.tag [(decide (96 ≤ n), stParam), ((s.strm n).locked, stBusy)]
        (fun s =>
          let s := onStream n (fun x => { x with
            phase := .unconfigured, ctrl := 0, frameLen := 0, bufFrames := 0, period := 0, frameLimit := 0 }) s
          doneWith h (le 4 (bufFree s)) s) s) s

/-- The entry of Table 6-5 as STREAM_GET returns it. -/
def Strm.entry (x : Strm) (n : Nat) : Bytes :=
  if x.phase == .unconfigured then [BitVec.ofNat 8 n] ++ List.replicate 31 0
  else
    [BitVec.ofNat 8 n, 1, 0, 0] ++ le 4 x.ctrl.toNat ++ le 4 x.frameLen.toNat ++ [x.bufFrames, 0, 0, 0]
      ++ le 4 x.period.toNat ++ le 4 x.frameLimit.toNat ++ List.replicate 8 0

/-- STREAM_GET. -/
def cmdStreamGet (h : Hdr) (p : Bytes) (s : State) : State :=
  serve { opcode := 0x31, length := (· == 1) } h p
    (fun s =>
      let n := fld p 0 1
      let x := s.strm n
      refuseIf h.tag [(decide (96 ≤ n), stParam)]
        (fun s => doneWith h (x.entry n ++ [x.phase.code, x.staleRun, 0, 0] ++ le 4 x.seq.toNat ++ le 4 x.bytes
          ++ [BitVec.ofNat 8 x.held.length, 0, 0, 0]) s) s) s

/-! ### Start and stop -/

/-- Domains a stream needs (Table 3-3). -/
def streamDomains (n : Nat) : List Nat := if isAnalog n then [7, 8, 4 + n / 16] else [7, 8, 6]

/-- Ask for some domains. -/
def wantAll (ds : List Nat) (s : State) : State := ds.foldl (fun s d => wantDomain d true s) s

/-- A stream is ready to start (STREAM_START). -/
def streamReady (s : State) (n : Nat) : Bool :=
  let x := s.strm n
  x.phase != .unconfigured
    && (if isAnalog n then notReady s.afe n == 0 else (rd s.stm.ports (portOf n)).feeds (positionOf n))
    && (!x.byRevs || (rd s.stm.tachs x.revTach).phase != .disabled)

/-- The streams that a 12-byte mask names. -/
def streamMask (p : Bytes) (off : Nat) : List Nat := members 96 (fld p off 12)

/-- STREAM_START: the streams wait for one start instant (R152). -/
def cmdStreamStart (h : Hdr) (p : Bytes) (s : State) : State :=
  serve { opcode := 0x32, rights := fun _ _ => .site, length := (· == 12) } h p
    (fun s =>
      let ns := streamMask p 0
      refuseIf h.tag
        [(ns.any fun n => !(s.strm n).engaged && !streamReady s n, stState),
         (ns.any fun n => (s.strm n).engaged || (isAnalog n && commandHolds s n), stBusy),
         (ns.any fun n => (streamDomains n).any (clockDown s), stHwFault)]
        (fun s =>
          let s := ns.foldl (fun s n => wantAll (streamDomains n) (onStream n (fun x => { x with starting := true }) s)) s
          { s with stm := { s.stm with starts := s.stm.starts ++ [{ tag := h.tag, streams := ns }] } }) s) s

/-- A pair follows its members: INACTIVE while one is stopped, UNKNOWN when the last is restarted (R144). -/
def followPairs (n : Nat) (s : State) : State :=
  (List.range 16).foldl (fun s i =>
    let q := rd s.afe.pairs i
    if q.configured && (q.streamA == n || q.streamB == n) then
      let both := (s.strm q.streamA).isRunning && (s.strm q.streamB).isRunning
      setPair i (if both then .unknown else .inactive) (onPair i (fun q => { q with failRun := 0, passRun := 0 }) s)
    else s) s

/-- What starting a stream leaves: the run begins at frame 0 (R148, R152, R164, R186). -/
def startStream (n : Nat) (s : State) : State :=
  let lost := !isAnalog n && (rd s.stm.ports (portOf n)).lost
  let s := onStream n (fun x => { x with
    phase := if lost then .waiting else .running
    starting := false, seq := 0, run := 0, staleRun := 0, stopAfter := false, skipped := false, fifo := [], frame := none }) s
  let s := if isAnalog n then onChannel n (fun c => { c with first := true }) s else s
  let s := { s with feat := { s.feat with streams := upd s.feat.streams n fun f =>
    { f with latest := none, track := none, mstate := {} } } }
  followPairs n s

/-- A start instant: a tick edge, of the oldest STREAM_START whose domains all work (R152). -/
def execStreamStartInstant (s : State) : Answer :=
  match s.stm.starts.find? (fun r => r.streams.all fun n => (streamDomains n).all (works s)) with
  | none => .next s
  | some r =>
    let s := r.streams.foldl (fun s n => startStream n s)
      { s with stm := { s.stm with starts := s.stm.starts.filter (·.tag != r.tag) } }
    .next (finish r.tag 0x00 (le 8 (s.clk.tick.toNat * 65536)) (commitMark r.tag s))

/-- Discard the open frame of a stream (R167). -/
def discardFrame (n : Nat) (s : State) : State :=
  onStream n (fun x =>
    if x.frame.isSome then
      { x with frame := none, fifo := [], counters := { x.counters with discarded := satInc x.counters.discarded } }
    else { x with fifo := [] }) s

/-- A snapshot of a stream that stops before a frame closes ends with STATE_ERROR. -/
def dropSnapshot (n : Nat) (s : State) : State :=
  match s.stm.snapshot with
  | some r => if r.stream == n then finish r.tag stState [] { s with stm := { s.stm with snapshot := none } } else s
  | none => s

/-- End the STREAM_STOPs whose streams have all stopped. -/
def finishStops (s : State) : State :=
  let ended (r : StopRun) := r.streams.all fun n => !(s.strm n).isRunning
  let s' := { s with stm := { s.stm with stops := s.stm.stops.filter fun r => !ended r } }
  finishAll ((s.stm.stops.filter ended).map (·.tag)) 0x00 s'

/-- Stop a stream that runs (R153, R167). -/
def stopStream (n : Nat) (s : State) : State :=
  let s := discardFrame n s
  let s := onStream n (fun x => { x with phase := .stopped, stopAfter := false }) s
  finishStops (followPairs n (dropSnapshot n s))

/-- The form of STREAM_STOP. -/
def stopForm : Form := { opcode := 0x33, rights := fun _ _ => .site, length := (· == 16), reserved := zeros [(13, 3)] }

/-- STREAM_STOP with `WHEN` 0x00 (R167). -/
def cmdStreamStopNow (h : Hdr) (p : Bytes) (s : State) : State :=
  serve stopForm h p
    (fun s =>
      let ns := (streamMask p 0).filter fun n => (s.strm n).isRunning
      doneWith h [] (ns.foldl (fun s n => stopStream n s) s)) s

/-- STREAM_STOP with `WHEN` 0x01: a stream without an open frame stops at once (R153). -/
def cmdStreamStopAfterFrame (h : Hdr) (p : Bytes) (s : State) : State :=
  serve stopForm h p
    (fun s =>
      let ns := (streamMask p 0).filter fun n => (s.strm n).isRunning
      let s := commitMark h.tag (started h.tag s)
      let s := { s with stm := { s.stm with stops := s.stm.stops ++ [{ tag := h.tag, streams := ns }] } }
      finishStops (ns.foldl (fun s n =>
        if (s.strm n).frame.isSome then onStream n (fun x => { x with stopAfter := true }) s else stopStream n s) s)) s

/-! ### SPORT_CONFIG and SPORT_GET -/

/-- The sensor entries of an SPI payload. -/
def sensorEntries (p : Bytes) : List Bytes := (List.range (bits (fld p 4 4) 20 4)).map fun i => slice p (12 + 16 * i) 16

/-- Reserved fields of a SPORT_CONFIG payload by its mode. -/
def sportReserved (p : Bytes) : Bool :=
  fld p 2 2 == 0 &&
    match fld p 1 1 with
    | 1 => bits (fld p 4 4) 24 8 == 0 && bits (fld p 4 4) 0 12 == 0
    | 2 => bits (fld p 4 4) 0 19 == 0 && (sensorEntries p).all fun e => fld e 1 1 / 4 == 0 && fld e 7 1 == 0
    | _ => true

/-- R155. -/
def tdmOk (p : Bytes) : Bool :=
  let c := fld p 4 4
  let w := bits c 18 2; let d := bits c 16 2; let f := fld p 8 4
  let clock := (bits c 20 4 + 1) * widthOf w * f
  decide (w ≤ 2) && decide (d ≤ w) && decide (1000 ≤ f) && decide (f ≤ 64000)
    && (if bit c 15 then 24576000 % clock == 0 else decide (clock ≤ 32768000))

/-- One sensor entry is in range (Table 6-10). -/
def sensorOk (decode : Bool) (e : Bytes) : Bool :=
  decide (fld e 0 1 ≤ 7) && (decode || decide (fld e 0 1 ≤ 3)) && decide (fld e 2 1 ≤ 15)
    && decide (1 ≤ fld e 3 1) && decide (fld e 3 1 ≤ 4) && decide (fld e 2 1 + fld e 3 1 ≤ 16)
    && [16, 24, 32].contains (fld e 4 1) && decide (fld e 5 1 ≤ 4) && decide (fld e 6 1 ≤ 1)
    && fld e (8 + fld e 5 1) (4 - fld e 5 1) == 0
    && decide (1 ≤ fld e 12 4) && decide (fld e 12 4 ≤ 16000) && 24576000 % (fld e 12 4) == 0

/-- R157. -/
def spiOk (p : Bytes) : Bool :=
  let c := fld p 4 4
  let div := bits c 24 8
  let es := sensorEntries p
  let span (e : Bytes) := (List.range (fld e 3 1)).map (fld e 2 1 + ·)
  decide (2 ≤ div) && decide (1 ≤ es.length) && decide (es.length ≤ 8) && fld p 8 4 == 0
    && es.all (sensorOk (bit c 19)) && decide (es.map fun e => fld e 0 1).Nodup && decide (es.flatMap span).Nodup
    && decide ((es.map fun e => fld e 12 4 * div * (8 * (fld e 5 1 + fld e 3 1 * fld e 4 1 / 8) + 4)).sum ≤ 22118400)

/-- The port that a payload configures, over the port as it stands: OK at once, and no SPORT_STATE (DESIGN CHOICE, log entry
166). -/
def portFrom (p : Bytes) (x : Port) : Port :=
  { mode := match fld p 1 1 with | 1 => .tdm | 2 => .spi | _ => .disabled
    cfg := .ofNat 32 (fld p 4 4), fsRate := .ofNat 32 (fld p 8 4)
    sensors := if fld p 1 1 == 2 then sensorEntries p else [], lostCount := x.lostCount }

/-- SPORT_CONFIG (Table 6-7, R154 to R157, R170). -/
def cmdSportConfig (h : Hdr) (p : Bytes) (s : State) : State :=
  serve { opcode := 0x34, rights := fun _ _ => .site, length := (12 ≤ ·)
          shape := fun p => p.length == 12 + (if fld p 1 1 == 2 then 16 * bits (fld p 4 4) 20 4 else 0)
          reserved := sportReserved } h p
    (fun s =>
      let i := fld p 0 1
      let old := rd s.stm.ports i
      let new := portFrom p old
      let same := old.mode == new.mode && old.cfg == new.cfg && old.fsRate == new.fsRate && old.sensors == new.sensors
      let ok := match fld p 1 1 with
        | 0 => fld p 4 8 == 0
        | 1 => tdmOk p
        | 2 => spiOk p
        | _ => false
      refuseIf h.tag
        [(decide (4 ≤ i) || !ok, stParam), (!same && !(portRunning s i).isEmpty, stBusy)]
        (fun s =>
          let s := if same then s else { s with stm := { s.stm with ports := wr s.stm.ports i new } }
          doneWith h [] s) s) s

/-- `PERIOD_NS`, `PPR` and the other bytes of a tach in SPORT_GET. -/
def Tach.bytes (t : Tach) : Bytes :=
  [t.phase.code, 0] ++ le 2 (bits t.word.toNat 21 11) ++ le 4 t.edges.toNat ++ le 4 t.periodNs.toNat

/-- A port's part of SPORT_GET. -/
def Port.bytes (x : Port) (i : Nat) : Bytes :=
  let state : Byte := match x.mode with | .disabled => 0 | _ => if x.lost then 2 else 1
  [BitVec.ofNat 8 i, x.mode.code, 0, 0] ++ le 4 x.cfg.toNat ++ le 4 x.fsRate.toNat ++ x.sensors.flatten
    ++ [state, 0, 0, 0] ++ le 4 x.measured.toNat ++ le 4 x.lostCount.toNat

/-- SPORT_GET: a port, or with 4 the tach and encoder inputs. -/
def cmdSportGet (h : Hdr) (p : Bytes) (s : State) : State :=
  serve { opcode := 0x35, length := (· == 1) } h p
    (fun s =>
      let i := fld p 0 1
      refuseIf h.tag [(decide (4 < i), stParam)]
        (fun s =>
          let e := s.stm.encoder
          doneWith h
            (if i < 4 then (rd s.stm.ports i).bytes i
             else s.stm.tachs.toList.flatMap Tach.bytes ++ [e.phase.code, 0, 0, 0] ++ le 4 e.errors.toNat ++ le 4 e.zPulses.toNat)
            s) s) s

/-! ### TACH_CONFIG and ENC_CONFIG -/

/-- The order configuration of a stream names a reference: 1 the encoder, 2 a tach (Table 7-13). -/
def orderRef (s : State) (n : Nat) : Nat := fld (rd s.feat.streams n).order 1 1

/-- A tach is in use by a stream that runs, by Belay or by belt counting (R170). -/
def tachUsed (s : State) (i : Nat) : Bool :=
  (List.range 96).any (fun n =>
      let x := s.strm n
      let f := rd s.feat.streams n
      x.engaged && ((x.byRevs && x.revTach == i) || (orderRef s n != 0 && fld f.order 2 1 == i)
        || (!f.machineCfg.isEmpty && fld f.machineCfg 1 1 == i)))
    || (s.bly.phase != .disarmed && s.bly.cfg.coastTach.toNat == i)
    || (s.feat.belt.configured && s.stm.encoder.phase != .disabled && s.feat.belt.checkTach.toNat == i)

/-- The encoder is in use by a stream that runs or by belt counting (R170). -/
def encoderUsed (s : State) : Bool :=
  (List.range 96).any (fun n => (s.strm n).engaged && orderRef s n == 1)
    || (s.feat.belt.configured && s.stm.encoder.phase != .disabled)

/-- TACH_CONFIG (Table 6-11): an input enabled starts IDLE. -/
def cmdTachConfig (h : Hdr) (p : Bytes) (s : State) : State :=
  serve { opcode := 0x36, rights := fun _ _ => .site, length := (· == 8)
          reserved := fun p => fld p 1 3 == 0 && bits (fld p 4 4) 16 5 == 0 && bits (fld p 4 4) 3 3 == 0 } h p
    (fun s =>
      let i := fld p 0 1
      let w := fld p 4 4
      let same := (rd s.stm.tachs i).word.toNat == w
      refuseIf h.tag
        [(decide (4 ≤ i) || decide (1024 < bits w 21 11) || (bit w 7 && (bits w 21 11 == 0 || bits w 8 8 == 0)), stParam),
         (!same && tachUsed s i, stBusy)]
        (fun s =>
          let new : Tach := { word := .ofNat 32 w, phase := if bit w 7 then .idle else .disabled }
          let s := if same then s else { s with stm := { s.stm with tachs := wr s.stm.tachs i new } }
          doneWith h (le 4 w) (if bit w 7 then wantAll [7, 6] s else s)) s) s

/-- BELT_STATE (Table 7-17). -/
def beltEvent (old : PosState) (s : State) : State :=
  let b := s.feat.belt
  raise 0x41 true ([BitVec.ofNat 8 b.state.code, BitVec.ofNat 8 old.code, BitVec.ofNat 8 (b2n b.encLost), 0]
    ++ le 4 b.encCount.toNat ++ le 2 b.spliceIndex ++ [0, 0]) s

/-- Change the belt; a change of `POS_STATE` or `ENC_LOST` raises BELT_STATE. -/
def onBelt (f : Belt → Belt) (s : State) : State :=
  let old := s.feat.belt
  let new := f old
  let s := { s with feat := { s.feat with belt := new } }
  if old.state == new.state && old.encLost == new.encLost then s else beltEvent old.state s

/-- ENC_CONFIG (Table 6-12): a belt configuration set before counts from the kept values once the encoder is enabled
(R180, R184). -/
def cmdEncConfig (h : Hdr) (p : Bytes) (s : State) : State :=
  serve { opcode := 0x37, rights := fun _ _ => .site, length := (· == 4)
          reserved := fun p => bits (fld p 0 4) 16 16 == 0 } h p
    (fun s =>
      let w := fld p 0 4
      let same := s.stm.encoder.word.toNat == w
      refuseIf h.tag
        [(bits w 5 2 == 3 || (bit w 7 && bits w 8 8 == 0), stParam), (!same && encoderUsed s, stBusy)]
        (fun s =>
          let new : Encoder := { word := .ofNat 32 w, phase := if bit w 7 then .idle else .disabled }
          let s := if same then s else { s with stm := { s.stm with encoder := new } }
          let s := if bit w 7 && s.feat.belt.configured && s.feat.belt.state == .unconfigured
            then onBelt (fun b => { b with state := .unsynced }) s else s
          doneWith h (le 4 w) (if bit w 7 then wantAll [7, 6] s else s)) s) s

/-! ### STREAM_COUNTERS and STREAM_SNAPSHOT -/

/-- The entry of a stream in STREAM_COUNTERS. -/
def Strm.counterBytes (x : Strm) (n : Nat) : Bytes :=
  let c := x.counters
  [BitVec.ofNat 8 n, x.phase.code, 0, 0] ++ [c.closed, c.partly, c.stale, c.degraded, c.skipped, c.discarded,
    c.samplesLost, c.calSwallowed, c.measSwallowed].flatMap fun w => le 4 w.toNat

/-- The body shared by both forms of STREAM_COUNTERS. -/
def streamCounters (clear : Bool) (h : Hdr) (p : Bytes) (s : State) : State :=
  let first := fld p 0 1; let count := fld p 1 1
  let ns := (List.range count).map (first + ·)
  refuseIf h.tag [(count == 0 || decide (96 < first + count), stParam)]
    (fun s =>
      let t := doneWith h (le 4 s.stm.bubbles.toNat ++ le 4 s.stm.bubbleMaxUs.toNat ++ le 4 (bufFree s) ++ le 4 1572864
        ++ ns.flatMap fun n => (s.strm n).counterBytes n) s
      if clear then
        ns.foldl (fun s n => onStream n (fun x => { x with counters := {} }) s)
          { t with stm := { t.stm with bubbles := 0 } }
      else t) s

/-- The form of STREAM_COUNTERS. -/
def countersForm : Form :=
  { opcode := 0x38, length := (· == 4), reserved := fun p => fld p 2 1 / 2 == 0 && fld p 3 1 == 0 }

/-- STREAM_COUNTERS with `CLEAR` at 0. -/
def cmdStreamCounters (h : Hdr) (p : Bytes) (s : State) : State := serve countersForm h p (streamCounters false h p) s

/-- STREAM_COUNTERS with `CLEAR` at 1 clears the counters it returns; `BUBBLE_MAX_US` stands until a reset (R161). -/
def cmdStreamCountersClear (h : Hdr) (p : Bytes) (s : State) : State :=
  serve { countersForm with rights := fun _ _ => .site } h p (streamCounters true h p) s

/-- STREAM_SNAPSHOT waits for the next frame of the stream to close. -/
def cmdStreamSnapshot (h : Hdr) (p : Bytes) (s : State) : State :=
  serve { opcode := 0x39, rights := fun _ _ => .site, length := (· == 12), reserved := zeros [(1, 3)] } h p
    (fun s =>
      let n := fld p 0 1
      refuseIf h.tag
        [(decide (96 ≤ n) || decide (16384 ≤ fld p 4 4) || decide (16384 < fld p 8 4), stParam),
         (!(s.strm n).isRunning, stState), (s.stm.snapshot.isSome, stBusy)]
        (fun s => started h.tag { s with stm := { s.stm with
          snapshot := some { tag := h.tag, stream := n, first := fld p 4 4, count := fld p 8 4 } } }) s) s

/-! ### Frames -/

/-- A frame descriptor (Table 6-4). -/
def ClosedFrame.descriptor (f : ClosedFrame) : Bytes :=
  [BitVec.ofNat 8 f.stream, f.qflags, f.staleRun, f.closeCause] ++ le 4 f.seq.toNat ++ le 8 f.tStart.toNat
    ++ le 8 f.tClose.toNat ++ le 8 f.calTime.toNat ++ le 4 f.samples.length ++ le 4 f.lost.toNat ++ le 4 f.gapAt.toNat
    ++ le 2 f.calAge.toNat ++ le 2 f.revsDone.toNat

/-- A frame starts, or is skipped and counted: no slot free, or the previous frame still open (R151, R166). -/
def execFrameStart (stream : BitVec 7) (s : State) : Answer :=
  let n := stream.toNat
  let x := s.strm n
  let full := decide (x.bufFrames.toNat ≤ x.held.length + b2n x.frame.isSome)
  if x.phase != .running || !works s 7 || (!x.periodic && x.frame.isSome) then .next s
  else if full || x.frame.isSome then
    if !x.periodic && x.skipped then .next s
    else .next (onStream n (fun x => { x with
      seq := x.seq + 1, skipped := true, counters := { x.counters with skipped := satInc x.counters.skipped } }) s)
  else
    let burstOnly := match driverOf s.afe n with
      | some d => isAnalog n && (rd s.afe.drivers d).word.getLsbD 9
      | none => false
    let step : FrameStep := if burstOnly then .settle else if isAnalog n then .calibrating else .measuring
    let s := if isAnalog n then onChannel n (fun c => { c with burst := {} }) s else s
    .next (onStream n (fun x => { x with seq := x.seq + 1, skipped := false, frame := some { seq := x.seq, step := step } }) s)

/-- A BURST_ONLY driver's `SETTLE` ends: the frames that wait for it begin their calibration burst (R126, R149). -/
def execDriverSettleDone (d : BitVec 3) (s : State) : Answer :=
  .next ((List.range 32).foldl (fun s n =>
    match (s.strm n).frame with
    | some f =>
      if driverOf s.afe n == some d.toNat && f.step == .settle
      then onStream n (fun x => { x with frame := some { f with step := .calibrating } }) s else s
    | none => s) s)

/-- Change the open frame of a stream. -/
def onFrame (n : Nat) (f : OpenFrame → OpenFrame) (s : State) : State := onStream n (fun x => { x with frame := x.frame.map f }) s

/-- A frame has all the samples it takes; its revolutions may end while the measurement burst still discards (R150). -/
def frameFull (x : Strm) (f : OpenFrame) : Bool :=
  (f.step == .measuring && decide (x.frameLen.toNat ≤ f.stored)) || f.revsDone

/-- The three quantities and the states as a header or a reply shows them: zeros while UNCONFIGURED (Table 7-3). -/
def beltView (s : State) : BeltView :=
  let b := s.feat.belt
  if b.state == .unconfigured then {}
  else { count := b.encCount, offset := b.spliceOffset, index := .ofNat 16 b.spliceIndex, state := .ofNat 2 b.state.code, lost := b.encLost }

/-- A sample of the open frame reaches the stream's FIFO; at a full FIFO it is lost and counted (R163). -/
def pushSample (n : Nat) (cls : SampleClass) (v : Int) (saturated : Bool) (s : State) : State :=
  let x := s.strm n
  if x.fifo.length < 256 then
    let s := onStream n (fun x => { x with fifo := x.fifo ++ [(cls, v)] }) s
    onFrame n (fun f =>
      let f := { f with taken := f.taken + 1 }
      if cls == .measured then
        { f with stored := f.stored + 1, saturated := f.saturated || saturated
                 tStart := if f.stored == 0 then now s else f.tStart, tClose := now s, belt := beltView s }
      else f) s
  else
    let s := onStream n (fun x => { x with counters := { x.counters with samplesLost := satInc x.counters.samplesLost } }) s
    onFrame n (fun f =>
      let f := { f with taken := f.taken + 1 }
      match cls with
      | .calibration => { f with lostCal := f.lostCal + 1, calSwallowed := true }
      | .discarded => { f with lostMeas := f.lostMeas + 1, measSwallowed := true }
      | .measured => { f with lostMeas := f.lostMeas + 1, measSwallowed := true, gapAt := some (f.gapAt.getD f.stored) }) s

/-- Limits of the 24-bit codes. -/
def codeMax : Int := 8388607
def codeMin : Int := -8388608

/-- The stage's output and whether it is at its limit: the current-to-voltage stage swings 1.25 V either way, where it is held
(R132). -/
def stageOut (c : Channel) (picovolts : Int) : Int × Bool :=
  if c.tia then (clamp (-1250000000000) 1250000000000 picovolts, decide (1250000000000 ≤ picovolts.natAbs)) else (picovolts, false)

/-- R132: the raw code of a conversion, and whether the sample is saturated (in part DESIGN CHOICE, log entry 15). -/
def rawCode (c : Channel) (picovolts : Int) (vref : Nat) (overload : Bool) : Int × Bool :=
  let out := stageOut c picovolts
  let r := clamp codeMin codeMax (roundDiv (8388608 * c.gain * out.1) (max 1 vref))
  (r, overload || out.2 || r == codeMax || r == codeMin)

/-- R132 from step 2: offset, EMF, lead correction and clamp. -/
def correct (c : Channel) (raw : Int) : Int :=
  let x := raw - c.record.offset - c.record.emf
  let y := match c.leadMode with
    | 1 => x - roundDiv (8388608 * c.gain * c.burst.leads) (max 1 c.rNom.toNat)
    | 2 => roundDiv (x * (c.rNom.toNat + c.burst.leads)) (max 1 c.rNom.toNat)
    | _ => x
  clamp codeMin codeMax y

/-- The LEAD segment, the last of the burst, begins after `taken` samples where the channel has one (R133, R139). -/
def leadDue (c : Channel) (calLen taken : Nat) : Bool := c.leadCheck && taken == calLen - calLen / c.segments

/-- An analogue conversion of an open frame (R132, R149, R140). -/
def takeAnalog (n : Nat) (picovolts : Int) (drive sense : Nat) (overload : Bool) (s : State) : State :=
  let x := s.strm n
  match x.frame with
  | none => s
  | some f =>
    let c := rd s.afe.channels n
    let vref := vRef s.afe n drive sense
    let atLimit := overload || (stageOut c picovolts).2
    let raw := rawCode c picovolts vref overload
    let watch (s : State) := onChannel n (fun c => { c with burst := { c.burst with
      overload := c.burst.overload || atLimit, refLow := c.burst.refLow || (c.byDriver && decide (vref < 50000000000)) } }) s
    match f.step with
    | .settle => s
    | .calibrating =>
      if f.taken < x.calLen then
        let s := pushSample n .calibration raw.1 false s
        if leadDue c x.calLen (f.taken + 1) then
          let b := leadBegins n s
          onFrame n (fun f => { f with leading := b.2 }) b.1
        else s
      else s
    | .discarding =>
      if frameFull x f then s
      else
        let s := pushSample n .discarded raw.1 false (watch s)
        if f.taken + 1 < c.discard then s else onFrame n (fun f => { f with step := .measuring, taken := 0 }) s
    | .measuring =>
      if frameFull x f then s
      else
        let v := correct c raw.1
        let u := raw.1 - c.record.offset - c.record.emf
        let s := watch s
        let tally (c : Channel) : Channel :=
          let b := c.burst
          let b' : BurstSums := { b with sum := b.sum + u, squares := b.squares + u * u, stored := b.stored + 1
                                         saturated := b.saturated + b2n raw.2 }
          { c with burst := b', satSamples := if raw.2 then satInc c.satSamples else c.satSamples }
        let s := if x.fifo.length < 256 then onChannel n tally s else s
        pushSample n .measured v raw.2 s

/-- A digital word of an open frame (R157a). -/
def takeDigital (n : Nat) (word : Nat) (s : State) : State :=
  let x := s.strm n
  match x.frame with
  | none => s
  | some f =>
    if frameFull x f then s
    else
      let w := dataBits s n
      let v := signed w (word % 2 ^ w)
      pushSample n .measured v (v == 2 ^ (w - 1) - 1 || v == -(2 ^ (w - 1))) s

/-- A sample arrives at a stream's FIFO (R128, R132, R160, R163): for an analogue stream the stage's voltage, those between EXP and
EXN and between REFP and REFN of its driver in picovolts, and the overload comparator; for an SPI stream the data word in
`picovolts` (in part DESIGN CHOICE, log entry 11). -/
def execSampleArrival (stream : BitVec 7) (picovolts : Int) (drive sense : Nat) (overload : Bool) (s : State) : Answer :=
  let n := stream.toNat
  if (s.strm n).phase != .running || !works s 7 then .next s
  else if isAnalog n then
    if bankLive s (n / 16) then .next (takeAnalog n picovolts drive sense overload s) else .next s
  else if works s 6 then .next (takeDigital n (picovolts % 4294967296).toNat s)
  else .next s

/-- Move FIFO entries into the slot of the open frame. -/
def moveSamples (k : Nat) (x : Strm) : Strm :=
  let out := x.fifo.take k
  let of (c : SampleClass) := (out.filter (·.1 == c)).map (·.2)
  { x with
    fifo := x.fifo.drop k
    frame := x.frame.map fun f => { f with calSamples := f.calSamples ++ of .calibration, samples := f.samples ++ of .measured } }

/-- The fabric moves 16 samples, or with `rest` the remainder, from a FIFO; none while a bubble lasts (R160). -/
def execFabricTransaction (stream : BitVec 7) (rest : Bool) (s : State) : Answer :=
  let x := s.strm stream.toNat
  if bubbling s || !works s 7 || (!rest && decide (x.fifo.length < 16)) then .next s
  else .next (onStream stream.toNat (moveSamples (if rest then x.fifo.length else 16)) s)

/-! ### The calibration burst of a frame, and of AFE_CAL_RUN -/

/-- The measurement burst begins: its sums start, with the leads stored now (R138, R149). -/
def beginMeasurement (n : Nat) (s : State) : State :=
  onFrame n (fun f => { f with step := .discarding, taken := 0, leading := false })
    (onChannel n (fun c => { c with burst := { leads := leadSum s.afe c, openDone := c.burst.openDone } }) s)

/-- M_prev as the record's derivation sees it: absent in the first frame of a run (R134). -/
def mPrevOf (c : Channel) (first : Bool) : Option (Int × Nat) := if first then none else c.mPrev

/-- Age of the calibration record at an instant, in ms (R164). -/
def calAge (record close : Word64) : Nat :=
  if record == 0 then 0xFFFF else min 65534 ((close.toNat - record.toNat) * 1000 / 2147483648)

/-- A frame's calibration burst has been swallowed: the record stands, and STREAM_DEGRADED is raised when STALE_RUN reaches 8,
with the record's age then (R164) (in part DESIGN CHOICE, log entry 168). -/
def swallowed (n : Nat) (s : State) : State :=
  let s := onStream n (fun x => { x with
    staleRun := satInc x.staleRun, counters := { x.counters with calSwallowed := satInc x.counters.calSwallowed } }) s
  if (s.strm n).staleRun == 8 then
    raise 0x32 true ([BitVec.ofNat 8 n, 8] ++ le 2 (calAge (rd s.afe.channels n).record.time (now s))) s
  else s

/-- A calibration burst completes: of the channel's open frame, or else of the oldest AFE_CAL_RUN that names the
channel, whose raw codes `raws` are; the LEAD segment of the latter is judged here (DESIGN CHOICE, log entry 171). `step`, `lead`,
`drive` and `sense` are the OPEN segment's output step, the LEAD segment's voltage and the driver's two voltages in picovolts
(R128, R134 to R139, R164). -/
def execCalBurstComplete (channel : BitVec 5) (raws : List Int) (step lead drive sense : Nat) (s : State) : Answer :=
  let n := channel.toNat
  let x := s.strm n
  let vref := vRef s.afe n drive sense
  match x.frame with
  | some f =>
    if f.step != .calibrating || f.taken < x.calLen || !works s 7 then .next s
    else
      let c := rd s.afe.channels n
      let all := f.calSamples ++ (x.fifo.filter (·.1 == .calibration)).map (·.2)
      let s :=
        if f.calSwallowed then swallowed n s
        else onStream n (fun x => { x with staleRun := 0 }) (takeCalibration n all step lead vref f.leading (mPrevOf c c.first) s)
      let s := if !bubbling s then onStream n (fun x => moveSamples x.fifo.length x) s else s
      .next (beginMeasurement n s)
  | none =>
    match s.afe.calRuns.find? (fun r => r.left.getLsbD n) with
    | none => .next s
    | some r =>
      if !bankLive s (n / 16) then .next s
      else
        let c := rd s.afe.channels n
        let b := if c.leadCheck then leadBegins n s else (s, false)
        let s := onStream n (fun x => { x with staleRun := 0 }) (takeCalibration n raws step lead vref b.2 c.mPrev b.1)
        let left := setBit r.left n false
        let rest (f : CalRunAfe → List CalRunAfe) (s : State) : State :=
          { s with afe := { s.afe with calRuns := s.afe.calRuns.flatMap fun o => if o.tag == r.tag then f o else [o] } }
        if left != 0 then .next (rest (fun o => [{ o with left := left }]) s)
        else
          let s := commitMark r.tag (rest (fun _ => []) s)
          .next (finish r.tag 0x00 ((members 32 r.mask.toNat).flatMap fun i => (rd s.afe.channels i).record.bytes) s)

/-! ### The meanings -/

def execStreamConfigSet (h : Hdr) (p : Bytes) (s : State) : Answer := .next (cmdStreamConfigSet h p s)
def execStreamConfigRemove (h : Hdr) (p : Bytes) (s : State) : Answer := .next (cmdStreamConfigRemove h p s)
def execStreamGet (h : Hdr) (p : Bytes) (s : State) : Answer := .next (cmdStreamGet h p s)
def execStreamStart (h : Hdr) (p : Bytes) (s : State) : Answer := .next (cmdStreamStart h p s)
def execStreamStopNow (h : Hdr) (p : Bytes) (s : State) : Answer := .next (cmdStreamStopNow h p s)
def execStreamStopAfterFrame (h : Hdr) (p : Bytes) (s : State) : Answer := .next (cmdStreamStopAfterFrame h p s)
def execSportConfig (h : Hdr) (p : Bytes) (s : State) : Answer := .next (cmdSportConfig h p s)
def execSportGet (h : Hdr) (p : Bytes) (s : State) : Answer := .next (cmdSportGet h p s)
def execTachConfig (h : Hdr) (p : Bytes) (s : State) : Answer := .next (cmdTachConfig h p s)
def execEncConfig (h : Hdr) (p : Bytes) (s : State) : Answer := .next (cmdEncConfig h p s)
def execStreamCounters (h : Hdr) (p : Bytes) (s : State) : Answer := .next (cmdStreamCounters h p s)
def execStreamCountersClear (h : Hdr) (p : Bytes) (s : State) : Answer := .next (cmdStreamCountersClear h p s)
def execStreamSnapshot (h : Hdr) (p : Bytes) (s : State) : Answer := .next (cmdStreamSnapshot h p s)

end Sys2Proof.Machine
end

