-- ==== Sys2Proof/Machine/Dsp.lean ====
section
/-! DEFINITION. The feature engine's arithmetic: windows, spectra, bands, levels and statistics (R173 to R178, R189).
A power is a quotient of two numbers, in code². -/

namespace Sys2Proof.Machine

/-! ### Cosines in fixed point, 2^60 (DESIGN CHOICE, log entry 16: the engine's precision is not stated) -/

/-- 1 and pi in this scale. -/
def oneQ : Int := 1152921504606846976
def piQ : Int := 3622009729038561421

/-- The cosine's series from term i on. -/
def cosGo : Nat → Nat → Int → Int → Int
  | 0, _, _, _ => 0
  | fuel + 1, i, term, x2 => term + cosGo fuel (i + 1) (-(term * x2 / oneQ) / ((2 * i + 1) * (2 * i + 2) : Nat)) x2

/-- cos(2 pi k / n). -/
def cosQ (k n : Nat) : Int :=
  let k := k % max 1 n
  let k := if n < 2 * k then n - k else k
  let x := 2 * piQ * k / (max 1 n : Nat)
  cosGo 30 0 oneQ (x * x / oneQ)

/-- sin(2 pi k / n). -/
def sinQ (k n : Nat) : Int := cosQ (4 * k + 3 * n) (4 * n)

/-! ### Windows (Table 7-2) -/

/-- Weights of the cosine terms of the flat-top window, in 10^-9 (PRESUMED, log entry 17). -/
def flatTop : List Int := [215578950, -416631580, 277263158, -83578947, 6947368]

/-- Weight `j` of a window of `len` points. -/
def window (code len j : Nat) : Int :=
  match code with
  | 0 => (oneQ - cosQ j len) / 2
  | 1 => ((flatTop.zipIdx.map fun t => t.1 * cosQ (t.2 * j) len).sum) / 1000000000
  | _ => oneQ

/-- ENBW of a window, in thousandths. -/
def enbw (code : Nat) : Nat := [1500, 3770, 1000].getD code 1000

/-! ### Spectra (R175) -/

/-- A power: numerator and denominator. -/
abbrev Power := Nat × Nat

/-- The start and length of each segment of M samples for an FFT of N points. -/
def segmentsOf (m n : Nat) : List (Nat × Nat) :=
  if m < n then [(0, m)] else (List.range ((m - n) / (n / 2) + 1)).map fun i => (i * (n / 2), n)

/-- |X_k|² of one segment, windowed with its mean removed, in the scale of `spectrumDen`. -/
def binNum (win n k : Nat) (xs : List Int) : Nat :=
  let len := xs.length
  let sum := xs.sum
  let terms := xs.zipIdx.map fun x => (window win len x.2 * (len * x.1 - sum), x.2)
  let re := (terms.map fun t => t.1 * cosQ (k * t.2) n).sum
  let im := (terms.map fun t => t.1 * sinQ (k * t.2) n).sum
  (re * re + im * im).natAbs * (if k == 0 then 1 else 2)

/-- The denominator of the powers of K segments of `len` points. -/
def spectrumDen (win len segs : Nat) : Nat :=
  let w := ((List.range len).map (window win len)).sum
  segs * (w * (len * 65536 * oneQ) * (w * (len * 65536 * oneQ))).natAbs

/-- P_k of samples in 1/65536 code, averaged over the segments. -/
def binPower (win n k : Nat) (xs : List Int) : Power :=
  let segs := segmentsOf xs.length n
  let len := min xs.length n
  ((segs.map fun g => binNum win n k ((xs.drop g.1).take g.2)).sum, max 1 (spectrumDen win len segs.length))

/-- The sum of bins divided by the ENBW; a band without bins has power 0 (R176). -/
def grouped (win n : Nat) (ks : List Nat) (xs : List Int) : Power :=
  match ks with
  | [] => (0, 1)
  | k :: _ => ((ks.map fun j => (binPower win n j xs).1).sum * 1000, (binPower win n k xs).2 * enbw win)

/-- The value of a spectral feature (R176). -/
def featurePower (win n first group : Nat) (xs : List Int) : Power :=
  if group ≤ 1 then binPower win n first xs else grouped win n ((List.range group).map (first + ·)) xs

/-! ### Decimation and the envelope (R174, R177; in part DESIGN CHOICE, log entry 83) -/

/-- A sample at an index; beyond the ends the first and the last one. -/
def heldAt (xs : List Int) (i : Int) : Int := xs.getD (min i.toNat (xs.length - 1)) 0

/-- A half-band stage: half of its centre sample and the pairs at odd distances, every second output, its delay line primed with
the first sample. -/
def halfBandStage (stage : Nat) (xs : List Int) : List Int :=
  let taps := Config.halfBand stage
  (List.range (xs.length / 2)).map fun i =>
    let mid : Int := 2 * i + 1 - (2 * taps.length - 1)
    roundDiv (2 ^ 29 * heldAt xs mid + (taps.zipIdx.map fun t =>
      t.1 * (heldAt xs (mid - (2 * t.2 + 1)) + heldAt xs (mid + (2 * t.2 + 1)))).sum) (2 ^ 30)

/-- The stage of an odd factor. -/
def oddStage (r : Nat) (xs : List Int) : List Int :=
  let taps := Config.oddTaps r
  (List.range (xs.length / r)).map fun i =>
    roundDiv (taps.zipIdx.map fun t => t.1 * heldAt xs ((r * (i + 1) : Nat) - 1 - t.2)).sum (2 ^ 30)

/-- The cascade that decimates by a factor: half-band stages for its twos, then the odd rest. -/
def cascade : Nat → Nat → Nat → List Int → List Int
  | 0, _, _, xs => xs
  | fuel + 1, stage, d, xs =>
    if d ≤ 1 then xs
    else if d % 2 == 0 then cascade fuel (stage + 1) (d / 2) (halfBandStage stage xs)
    else oddStage d xs

/-- The decimated samples in 1/65536 code (R174). -/
def decimate (dec : Nat) (xs : List Int) : List Int := cascade 8 0 (2 ^ dec) (xs.map (· * 65536))

/-- A symmetric FIR, from its centre tap outwards. -/
def symmetric (taps : List Int) (xs : List Int) (i : Int) : Int :=
  roundDiv (taps.zipIdx.map fun t => t.1 * (if t.2 == 0 then heldAt xs i else heldAt xs (i - t.2) + heldAt xs (i + t.2))).sum (2 ^ 30)

/-- An antisymmetric FIR, from the tap next to its centre outwards. -/
def antisymmetric (taps : List Int) (xs : List Int) (i : Int) : Int :=
  roundDiv (taps.zipIdx.map fun t => t.1 * (heldAt xs (i - (t.2 + 1)) - heldAt xs (i + (t.2 + 1)))).sum (2 ^ 30)

/-- The envelope in 1/65536 code: band-pass, magnitude of the analytic signal, mean removed, decimated (R177). -/
def envelope (lo hi rate dec : Nat) (xs : List Int) : List Int :=
  let n := xs.length
  let xs := xs.map (· * 65536)
  let band := (List.range n).map fun i => symmetric (Config.bandTaps lo hi rate) xs i
  let mag := (List.range n).map fun i =>
    let re := band.getD i 0
    let im := antisymmetric Config.hilbertTaps band i
    ((searchBits 64 (fun k => decide (k * k ≤ (re * re + im * im).natAbs)) 0 : Nat) : Int)
  let mean := roundDiv mag.sum (max 1 n)
  cascade 8 0 dec (mag.map (· - mean))

/-! ### Levels (Table 7-9) -/

/-- P ≥ 10^(t / 1280). -/
def powerAtLeast (p : Power) (t : Int) : Bool :=
  if 0 ≤ t then decide (10 ^ t.toNat * p.2 ^ 1280 ≤ p.1 ^ 1280) else decide (p.2 ^ 1280 ≤ p.1 ^ 1280 * 10 ^ (-t).toNat)

/-- Limits of a feature format. -/
def formatLo (wide : Bool) : Int := if wide then -32768 else -128
def formatHi (wide : Bool) : Int := if wide then 32767 else 127

/-- A value clamped to the format, and whether it was. -/
def putFeature (wide : Bool) (v : Int) : Int × Bool :=
  (clamp (formatLo wide) (formatHi wide) v, decide (v < formatLo wide) || decide (formatHi wide < v))

/-- The level of a power, with `DB_REF` in 0.25 dB and `DB_STEP` in 1/64 dB. -/
def levelFeature (wide : Bool) (dbRef : Int) (dbStep : Nat) (p : Power) : Int × Bool :=
  let reaches (f : Int) := powerAtLeast p (32 * dbRef + (2 * f - 1) * dbStep)
  let lo := formatLo wide
  if p.1 == 0 then (lo, false)
  else if !reaches lo then (lo, true)
  else
    let k := searchBits (if wide then 16 else 8) (fun k => reaches (lo + k)) 0
    (lo + k, reaches (formatHi wide + 1))

/-! ### STATS (Table 7-9) -/

/-- round(x) for x ≥ 0 given as (2x)² = q / b: the largest f with (2f - 1)² b ≤ q. -/
def overRoot (q b : Nat) : Nat := searchBits 20 (fun f => decide ((2 * f - 1) * (2 * f - 1) * b ≤ q)) 0

/-- -round(-x) for the same x: the least g with (2g + 1)² b ≥ q. -/
def underRoot (q b : Nat) : Nat := searchBits 20 (fun g => g == 0 || decide ((2 * g - 1) * (2 * g - 1) * b < q)) 0

/-- Sign changes between consecutive nonzero values. -/
def crossings (ds : List Int) : Nat :=
  let signs := (ds.filter (· != 0)).map fun d => decide (0 < d)
  (signs.zip (signs.drop 1)).countP fun p => p.1 != p.2

/-- The 8 features of the STATS block. -/
def statsBlock (wide : Bool) (dbRef : Int) (dbStep linShift : Nat) (xs : List Int) : List (Int × Bool) :=
  let n := max 1 xs.length
  let sum := xs.sum
  let ds := xs.map fun x => n * x - sum
  let peak := (ds.map Int.natAbs).foldl max 0
  let hi := xs.foldl max (xs.headD 0)
  let lo := xs.foldl min (xs.headD 0)
  let d2 := (ds.map fun d => (d * d).natAbs).sum
  let d3 := (ds.map fun d => d * d * d).sum
  let d4 := (ds.map fun d => (d * d * (d * d)).natAbs).sum
  let level := levelFeature wide dbRef dbStep
  let skewAt := if wide then 4096 else 32
  let crest := if wide then 256 else 8
  let skew : Int :=
    if d2 == 0 then 0
    else if 0 ≤ d3 then overRoot (4 * skewAt * skewAt * n * (d3 * d3).natAbs) (d2 * d2 * d2)
    else -(underRoot (4 * skewAt * skewAt * n * (d3 * d3).natAbs) (d2 * d2 * d2) : Int)
  [putFeature wide (roundDiv sum (n * 2 ^ linShift)),
   level (d2, n * n * n),
   level (peak * peak, n * n),
   level (((hi - lo) * (hi - lo)).natAbs, 1),
   putFeature wide (if d2 == 0 then 0 else overRoot (4 * crest * crest * peak * peak * n) d2),
   putFeature wide (if d2 == 0 then 0 else roundDiv ((if wide then 256 else 8) * (n * d4 : Nat)) (d2 * d2)),
   putFeature wide skew,
   putFeature wide (roundDiv ((if wide then 32768 else 256) * crossings ds) n)]

/-! ### Order tracking (R178) -/

/-- Angle-time events, oldest first, made to rise. -/
def rising (es : List (Nat × Int)) : List (Nat × Int) :=
  match es.head?, es.getLast? with
  | some a, some b => if b.2 < a.2 then es.map fun e => (e.1, -e.2) else es
  | _, _ => es

/-- The interval of events that decides at an index y / q: the one that holds it, or the nearest end. -/
def intervalAt (y : Int) (q : Nat) : List (Nat × Int) → Option ((Nat × Int) × (Nat × Int))
  | a :: b :: rest => if y ≤ b.2 * q || rest.isEmpty then some (a, b) else intervalAt y q (b :: rest)
  | _ => none

/-- Time in nanoseconds at an index y / q. -/
def timeAt (es : List (Nat × Int)) (y : Int) (q : Nat) : Int :=
  match intervalAt y q es with
  | some (a, b) => a.1 + (y - a.2 * q) * ((b.1 : Int) - a.1) / max 1 ((b.2 - a.2) * q)
  | none => 0

/-- Index times `q` at a time, from the first or the last interval. -/
def indexAt (es : List (Nat × Int)) (t : Nat) (q : Nat) : Int :=
  let pair := if t ≤ (es.headD (0, 0)).1 then es.take 2 else es.drop (es.length - 2)
  match pair with
  | [a, b] => a.2 * q + ((t : Int) - a.1) * (b.2 - a.2) * q / max 1 ((b.1 : Int) - a.1)
  | _ => 0

/-- sin(pi t) / (pi t) at a distance t in 1/65536 sample, in the scale of the cosines, under the interpolator's window. -/
def sincAt (d : Int) : Int :=
  if d == 0 then oneQ
  else sinQ (d % 131072).toNat 131072 * 65536 * oneQ / (piQ * d) * Config.sincWindow d / 2 ^ 30

/-- The value of decimated samples at a position in 1/65536 sample: a 16-tap windowed sinc, which gives the samples themselves
at whole positions (R178). -/
def interpolated (xs : List Int) (p : Int) : Int :=
  let i := p / 65536
  let f := p % 65536
  if f == 0 then heldAt xs i
  else roundDiv ((List.range 16).map fun k => heldAt xs (i + ((k : Int) - 7)) * sincAt (f - 65536 * ((k : Int) - 7))).sum oneQ.toNat

/-- The samples resampled in angle: `spr` a revolution, from decimated samples at `num`/`den` per second that begin at
`t0` nanoseconds and end at `t1`. -/
def resample (es : List (Nat × Int)) (perRev spr num den t0 t1 : Nat) (xs : List Int) : List Int :=
  let es := rising es
  let q := 256 * spr
  if perRev == 0 || es.length < 2 then []
  else
    let j0 := -(-(indexAt es t0 q) / perRev)
    let j1 := indexAt es t1 q / perRev
    (List.range (j1 - j0 + 1).toNat).map fun i =>
      interpolated xs ((timeAt es ((j0 + i) * perRev) q - t0) * num * 65536 / (den * 1000000000))

/-- First order bin above fs' / (2 v_max), 0xFFFF for none. -/
def orderCut (es : List (Nat × Int)) (perRev spr n num den : Nat) : Nat :=
  let es := rising es
  let above (k : Nat) := (es.zip (es.drop 1)).any fun p =>
    -- k spr / n > (num / den) / (2 v), with v = (di 256 / perRev) / (dt 10^-9)
    decide ((num : Int) * n * perRev * ((p.2.1 : Int) - p.1.1) < 2 * k * spr * den * (p.2.2 - p.1.2) * 256 * 1000000000)
  ((List.range (n / 2 + 1)).find? above).getD 0xFFFF

end Sys2Proof.Machine
end

