-- ==== Sys2Proof/Machine/Feature.lean ====
section
/-! DEFINITION. Frame closes, redundant pairs, digital samples, the encoder and the belt, and the feature engine
(chapters 05 to 07). -/

namespace Sys2Proof.Machine

/-- Change what the feature engine holds for a stream. -/
def onFeature (n : Nat) (f : FeatureStream → FeatureStream) (s : State) : State :=
  { s with feat := { s.feat with streams := upd s.feat.streams n f } }

/-- What the feature engine holds for a stream. -/
def State.ftr (s : State) (n : Nat) : FeatureStream := rd s.feat.streams n

/-! ### The belt (R180 to R184) -/

/-- The count moves by `d`: the offset with it, and the log of the last 100 ms (R180). -/
def beltCount (d : Int) (s : State) : State :=
  let b := s.feat.belt
  if b.state == .unconfigured then s
  else
    let t := now s
    let count := b.encCount + BitVec.ofInt 32 d
    let log := (t, count.toInt) :: b.log
    let old := log.dropWhile fun e => decide (t.toNat < e.1.toNat + 214748365)
    let b' : Belt := { b with
      encCount := count, spliceOffset := b.spliceOffset + BitVec.ofInt 32 d, down := if d == 0 then b.down else decide (d < 0)
      log := log.take (log.length - old.length + 1) }
    { s with feat := { s.feat with belt := b' } }

/-- |g| lies within tau of G. -/
def Belt.within (b : Belt) (g gap : Nat) : Bool :=
  decide (gap * (256 - b.zTol) ≤ g * 256) && decide (g * 256 ≤ gap * (256 + b.zTol))

/-- The index moved by `k` splices in the direction of counting. -/
def Belt.moved (b : Belt) (k : Nat) : Nat :=
  (if b.down then b.spliceIndex + b.splices * 2 - k else b.spliceIndex + k) % max 1 b.splices

/-- The gap that lies `k` splices ahead in the direction of counting. -/
def Belt.gapAhead (b : Belt) (k : Nat) : Nat :=
  b.gaps.getD ((if b.down then b.spliceIndex + b.splices * 2 - 1 - k else b.spliceIndex + k) % max 1 b.splices) 0

/-- SPLICE_ANOMALY (Table 7-17). -/
def spliceAnomaly (kind : Byte) (gap : Nat) (s : State) : State :=
  raise 0x42 false ([kind, 0, 0, 0] ++ le 4 gap ++ le 4 s.feat.belt.encCount.toNat) s

/-- A mark in UNSYNCED or ESTIMATED (R182, R183): a table of zeros never synchronises. -/
def markUnsynced (b : Belt) : Belt :=
  let g := b.spliceOffset.toInt.natAbs
  let first := { b with spliceIndex := b.moved 1, spliceOffset := 0, marked := true }
  let fits := (List.range b.splices).filter fun j => b.within g (b.gaps.getD j 0)
  match b.marked && b.gaps.any (· != 0), fits with
  | true, [j] => { first with spliceIndex := (j + 1) % max 1 b.splices, state := if b.encLost then b.state else .synced }
  | _, _ => first

/-- An ENC_Z pulse (R181, R182): judged against the gap table. -/
def spliceMark (s : State) : State :=
  let s := { s with stm := { s.stm with encoder := { s.stm.encoder with zPulses := s.stm.encoder.zPulses + 1 } } }
  let b := s.feat.belt
  let g := b.spliceOffset.toInt.natAbs
  let gap := b.gapAhead 0
  match b.state with
  | .unconfigured => s
  | .synced =>
    if b.gaps.all (· == 0) then onBelt (fun b => { b with spliceIndex := b.moved 1, spliceOffset := 0, marked := true }) s
    else if g * 256 < gap * (256 - b.zTol) then
      spliceAnomaly 0x02 g (onBelt (fun b => { b with zSpurious := satInc b.zSpurious }) s)
    else if b.within g gap then onBelt (fun b => { b with spliceIndex := b.moved 1, spliceOffset := 0, marked := true }) s
    else if b.within g (gap + b.gapAhead 1) then
      spliceAnomaly 0x01 g (onBelt (fun b => { b with
        spliceIndex := b.moved 2, spliceOffset := 0, marked := true, zMissed := satInc b.zMissed }) s)
    else
      spliceAnomaly 0x03 g (onBelt (fun b => { b with
        spliceIndex := b.moved 1, spliceOffset := 0, marked := true, state := .unsynced, syncLosses := satInc b.syncLosses }) s)
  | _ => onBelt markUnsynced s

/-- The encoder inputs are heard: the encoder is enabled, PD6 works and its rail is in range. -/
def encoderHeard (s : State) : Bool := s.stm.encoder.phase != .disabled && works s 6 && s.pwr.vioSOk

/-- A level that an input held for `held` nanoseconds passes the FILTER code: 0 is off, n rejects pulses shorter than
0.16 us x 2^(n-1) (Table 6-11). -/
def passesFilter (code held : Nat) : Bool := code == 0 || decide (160 * 2 ^ (code - 1) ≤ held)

/-- SPLICE_MARK: ENC_Z was at a level for `held` nanoseconds; a pulse of the polarity of Z_POL that passes the filter is a
mark (R159, Table 6-12). -/
def execSpliceMark (high : Bool) (held : Nat) (s : State) : Answer :=
  let w := s.stm.encoder.word.toNat
  if encoderHeard s && high != bit w 3 && passesFilter (bits w 0 3) held then .next (spliceMark s) else .next s

/-- The encoder is declared LOST (R183). -/
def encoderLost (s : State) : State := onBelt (fun b => { b with encLost := true, state := .estimated }) s

/-- A check tach is set and the belt counts. -/
def checked (s : State) : Bool :=
  s.feat.belt.state != .unconfigured && decide (s.feat.belt.checkTach.toNat < 4)

/-- ENC_STATE with the encoder's new phase. -/
def encPhase (p : InputPhase) (s : State) : State :=
  let e := s.stm.encoder
  if e.phase == p then s
  else
    raise 0x35 true ([p.code, e.phase.code, 0, 0] ++ le 4 e.errors.toNat)
      { s with stm := { s.stm with encoder := { e with phase := p, since := if p == .active then now s else e.since } } }

/-- No A or B edge for LOSS_TIMEOUT: IDLE, and LOST while the check tach is ACTIVE (R159, R183). -/
def execEncIdle (s : State) : Answer :=
  if !encoderHeard s then .next s
  else
    let s := encPhase .idle s
    if checked s && !s.feat.belt.encLost && (rd s.stm.tachs s.feat.belt.checkTach.toNat).phase == .active
    then .next (encoderLost s) else .next s

/-- How far a log has moved since an instant (both inputs begin at 0). -/
def movedSince (log : List (Word64 × Nat × Int)) (t : Nat) : Int :=
  let last (l : List (Word64 × Nat × Int)) : Int := match l with | x :: _ => x.2.2 | [] => 0
  last log - last (log.dropWhile fun x => decide (t < x.1.toNat))

/-- The encoder's speed, converted by ENC_PER_TACH_REV, differs from the check tach's by more than SLIP_MAX % over the last
second (R183). -/
def slipping (s : State) : Bool :=
  let b := s.feat.belt
  let t := rd s.stm.tachs b.checkTach.toNat
  let from1s := (now s).toNat - 2147483648
  let enc := (movedSince s.stm.encoder.log from1s).natAbs * 256 * bits t.word.toNat 21 11
  let tach := (movedSince t.log from1s).natAbs * b.encPerTachRev.toNat
  decide (b.slipMax.toNat * tach < 100 * (max enc tach - min enc tach))

/-- A 1 s window has ended in which the encoder's speed differed from the check tach's by more than SLIP_MAX (R183). -/
def execEncoderSlip (s : State) : Answer :=
  if encoderHeard s && checked s && !s.feat.belt.encLost && slipping s then .next (encoderLost s) else .next s

/-- The encoder has been ACTIVE and agreeing for 1 s (R183): ESTIMATED stays until a mark matches. -/
def execEncoderRestored (s : State) : Answer :=
  let e := s.stm.encoder
  if s.feat.belt.encLost && e.phase == .active && decide (e.since.toNat + 2147483648 ≤ (now s).toNat) && !slipping s
  then .next (onBelt (fun b => { b with encLost := false }) s)
  else .next s

/-- What the edge logs must reach back to: the earliest start of a frame still open, and the last second (R178, R183). -/
def oldestStart (s : State) : Nat :=
  s.stm.streams.toList.foldl (fun t x => match x.frame with
    | some f => if f.stored == 0 then t else min t f.tStart.toNat
    | none => t) ((now s).toNat - 2147483648)

/-- A log of edges with a new one, cut behind two edges before what it must reach back to. -/
def logEdge (s : State) (e : Word64 × Nat × Int) (log : List (Word64 × Nat × Int)) : List (Word64 × Nat × Int) :=
  let keep := log.takeWhile fun x => decide (oldestStart s ≤ x.1.toNat)
  e :: log.take (keep.length + 2)

/-- Quadrature: +1, -1 or 0 for a change of A or of B, by DECODE (R159). Forward is A before B; x2 counts the edges of
A, x1 those of A while B is low (PRESUMED, log entry 19). -/
def quadrature (decode : Nat) (invert a b a' b' : Bool) : Int :=
  let up := if a != a' then a' != b' else a' == b'
  let counts := match decode with
    | 0 => a != a' && !b
    | 1 => a != a'
    | _ => true
  if !counts then 0 else if up != invert then 1 else -1

/-- An encoder edge with the levels of A and B after it, which have held for `held` nanoseconds, at a time in nanoseconds (R159,
R180). -/
def execEncEdge (a b : Bool) (held ns : Nat) (s : State) : Answer :=
  let e := s.stm.encoder
  if !encoderHeard s || !passesFilter (bits e.word.toNat 0 3) held || (a == e.a && b == e.b) then .next s
  else
    let s := encPhase .active s
    let e := s.stm.encoder
    if a != e.a && b != e.b then
      .next { s with stm := { s.stm with encoder := { e with a := a, b := b, errors := satInc e.errors } } }
    else
      let d := quadrature (bits e.word.toNat 5 2) (bit e.word.toNat 4) e.a e.b a b
      let s := if s.feat.belt.encLost then s else beltCount d s
      let last := match e.log with | x :: _ => x.2.2 | [] => 0
      let log := if d == 0 then e.log else logEdge s (now s, ns, last + d) e.log
      .next { s with stm := { s.stm with encoder := { e with a := a, b := b, log := log } } }

/-! ### BELT_POSITION_GET and BELT_CONFIG -/

/-- Signed counts per second over the last 100 ms. -/
def beltSpeed (s : State) : Int :=
  let b := s.feat.belt
  let t := (now s).toNat
  let before := b.log.find? fun e => decide (e.1.toNat + 214748365 ≤ t)
  match before.orElse (fun _ => b.log.getLast?) with
  | some e => 10 * (b.encCount.toInt - e.2)
  | none => 0

/-- BELT_POSITION_GET (Table 7-16). -/
def cmdBeltPositionGet (h : Hdr) (p : Bytes) (s : State) : State :=
  serve { opcode := 0x46, length := (· == 0) } h p
    (fun s =>
      let b := s.feat.belt
      let q := beltView s
      doneWith h (le 4 q.count.toNat ++ le 4 q.offset.toNat ++ le 2 q.index.toNat ++ [BitVec.ofNat 8 b.state.code, BitVec.ofNat 8 (b2n b.encLost)]
        ++ le 8 (now s).toNat ++ leInt 4 (beltSpeed s) ++ le 2 b.zMissed.toNat ++ le 2 b.zSpurious.toNat
        ++ le 2 b.syncLosses.toNat ++ [0, 0]) s) s

/-- The form of BELT_CONFIG for the operations of four bytes. -/
def beltForm : Form := { opcode := 0x47, rights := fun _ _ => .site, length := (· == 4) }

/-- BELT_CONFIG set (Table 7-15). -/
def cmdBeltConfigSet (h : Hdr) (p : Bytes) (s : State) : State :=
  serve { opcode := 0x47, rights := fun _ _ => .site, length := (12 ≤ ·)
          shape := fun p => p.length == 12 + 4 * fld p 1 1, reserved := zeros [(9, 3)] } h p
    (fun s =>
      let n := fld p 1 1; let tol := fld p 2 1; let check := fld p 3 1; let slip := fld p 8 1
      refuseIf h.tag
        [(n == 0 || decide (64 < n) || tol == 0 || decide (64 < tol) || (decide (3 < check) && check != 0xFF)
            || (check != 0xFF && fld p 4 4 == 0) || slip == 0 || decide (100 < slip), stParam)]
        (fun s =>
          let new : Belt :=
            { configured := true, splices := n, zTol := tol, checkTach := .ofNat 8 check, encPerTachRev := .ofNat 32 (fld p 4 4)
              slipMax := .ofNat 8 slip, gaps := (List.range n).map fun i => fld p (12 + 4 * i) 4
              state := if s.stm.encoder.phase == .disabled then .unconfigured else .unsynced, log := [(now s, 0)] }
          doneWith h [] (onBelt (fun _ => new) s)) s) s

/-- BELT_CONFIG disable. -/
def cmdBeltConfigDisable (h : Hdr) (p : Bytes) (s : State) : State :=
  serve { beltForm with reserved := zeros [(1, 3)] } h p (fun s => doneWith h [] (onBelt (fun _ => {}) s)) s

/-- BELT_CONFIG `SET_INDEX`. -/
def cmdSetIndex (h : Hdr) (p : Bytes) (s : State) : State :=
  serve { beltForm with reserved := zeros [(2, 2)] } h p
    (fun s =>
      let b := s.feat.belt
      refuseIf h.tag
        [(b.configured && decide (b.splices ≤ fld p 1 1), stParam), (b.state == .unconfigured, stState)]
        (fun s => doneWith h [] (onBelt (fun b => { b with spliceIndex := fld p 1 1, state := .synced }) s)) s) s

/-- BELT_CONFIG clear count. -/
def cmdBeltClearCount (h : Hdr) (p : Bytes) (s : State) : State :=
  serve { beltForm with reserved := zeros [(1, 3)] } h p
    (fun s => doneWith h [] (onBelt (fun b => { b with encCount := 0, log := [(now s, 0)] }) s)) s

/-! ### Feature configuration (Tables 7-10 to 7-14, R192) -/

/-- R192: the configuration of a stream does not change while it runs, or while it is LOAD_STREAM of one that runs. -/
def featureBusy (s : State) (n : Nat) : Bool :=
  (s.strm n).engaged || (List.range 96).any fun m =>
    let c := (s.ftr m).machineCfg
    (s.strm m).engaged && !c.isEmpty && bit (fld c 2 1) 1 && fld c 3 1 == n

/-- Put a configuration in force unless it stands already (R192). -/
def featureSet (h : Hdr) (n : Nat) (same bad : Bool) (f : FeatureStream → FeatureStream) (s : State) : State :=
  refuseIf h.tag [(decide (96 ≤ n) || bad, stParam), (!same && featureBusy s n, stBusy)]
    (fun s => doneWith h [] (onFeature n f s)) s

/-- The blocks of a FEAT_CONFIG payload (Table 7-12). -/
def blocksOf (p : Bytes) : List Bytes := (List.range (fld p 2 1)).map fun i => slice p (20 + 8 * i) 8

/-- Points of an FFT from its code. -/
def points (code : Nat) : Nat := 256 * 2 ^ code

/-- Number of bands of a stream's set. -/
def bandCount (f : FeatureStream) : Nat := fld f.bands 1 1

/-- A block is in range. -/
def blockOk (p : Bytes) (f : FeatureStream) (b : Bytes) : Bool :=
  let kind := fld b 0 1; let group := fld b 1 1; let first := fld b 2 2; let count := fld b 4 2
  let n := match kind with
    | 2 => points (bits (fld p 4 4) 20 4)
    | 3 => points (fld p 17 1)
    | _ => points (fld f.order 4 1)
  fld b 6 2 == 0 &&
    match kind with
    | 1 => group == 0 && first == 0 && count == 8
    | 5 => group == 0 && first == 0 && count == bandCount f
    | 2 | 3 | 4 => decide (1 ≤ group) && decide (group ≤ 64) && decide (1 ≤ count) && decide (count ≤ 256)
        && decide (first + group * count ≤ n / 2 + 1)
    | _ => false

/-- A FEAT_CONFIG payload is in range (Tables 7-10 to 7-12, R177). ENV_HI is checked against the stream's rate where it has
one. -/
def featOk (s : State) (p : Bytes) : Bool :=
  let c := fld p 4 4
  let f := s.ftr (fld p 0 1)
  let rate := streamRate s (fld p 0 1)
  let bs := blocksOf p
  decide (1 ≤ fld p 2 1) && decide (fld p 2 1 ≤ 8) && decide (bits c 24 4 ≤ 5) && decide (bits c 20 4 ≤ 5)
    && decide (bits c 18 2 ≤ 2) && decide (1 ≤ fld p 10 1) && decide (fld p 11 1 ≤ 24)
    && decide (fld p 12 2 < fld p 14 2) && (rate == 0 || decide (1000 * fld p 14 2 ≤ 45 * rate))
    && decide (1 ≤ fld p 16 1) && decide (fld p 16 1 ≤ 64) && decide (fld p 17 1 ≤ 5)
    && bs.all (blockOk p f) && decide ((bs.map fun b => fld b 4 2).sum ≤ 256)

/-- Reserved fields of a FEAT_CONFIG payload. -/
def featReserved (p : Bytes) : Bool := zeros [(3, 1), (18, 2)] p && bits (fld p 4 4) 28 4 == 0 && bits (fld p 4 4) 0 17 == 0

/-- FEAT_CONFIG with `OP` 0x01. -/
def cmdFeatConfigSet (h : Hdr) (p : Bytes) (s : State) : State :=
  serve { opcode := 0x40, rights := fun _ _ => .site, length := (20 ≤ ·), shape := fun p => p.length == 20 + 8 * fld p 2 1
          reserved := featReserved } h p
    (fun s => featureSet h (fld p 0 1) ((s.ftr (fld p 0 1)).config == p) (!featOk s p) (fun f => { f with config := p }) s) s

/-- FEAT_CONFIG with `OP` 0x00: only `STREAM` is read, so whatever follows `OP` may be left out (DEDUCED, log entry 110). -/
def cmdFeatConfigRemove (h : Hdr) (p : Bytes) (s : State) : State :=
  serve { opcode := 0x40, rights := fun _ _ => .site, length := (2 ≤ ·), reserved := featReserved } h p
    (fun s => featureSet h (fld p 0 1) ((s.ftr (fld p 0 1)).config.isEmpty) false (fun f => { f with config := [] }) s) s

/-- A part of FEAT_GET: as set, or its minimum length with only `STREAM`. -/
def partOr (n len : Nat) (p : Bytes) : Bytes := if p.isEmpty then BitVec.ofNat 8 n :: List.replicate (len - 1) 0 else p

/-- FEAT_GET. -/
def cmdFeatGet (h : Hdr) (p : Bytes) (s : State) : State :=
  serve { opcode := 0x41, length := (· == 1) } h p
    (fun s =>
      let n := fld p 0 1
      let f := s.ftr n
      refuseIf h.tag [(decide (96 ≤ n), stParam)]
        (fun s => doneWith h (partOr n 20 f.config ++ partOr n 16 f.order ++ partOr n 20 f.machineCfg ++ partOr n 4 f.bands) s) s) s

/-- FEAT_ORDER_CONFIG (Table 7-13). -/
def cmdFeatOrderConfig (h : Hdr) (p : Bytes) (s : State) : State :=
  serve { opcode := 0x42, rights := fun _ _ => .site, length := (· == 16), reserved := zeros [(5, 3)] } h p
    (fun s =>
      let ref := fld p 1 1; let t := fld p 2 1
      let ok := decide (ref ≤ 2) && decide (fld p 3 1 ≤ 4) && decide (fld p 4 1 ≤ 5)
        && (ref != 2 || decide (t ≤ 3)) && (ref != 1 || ((decide (t ≤ 3) || t == 0xFF) && fld p 8 4 != 0))
      featureSet h (fld p 0 1) ((s.ftr (fld p 0 1)).order == p) (!ok) (fun f => { f with order := p }) s) s

/-- FEAT_BANDS_SET; a set of no bands removes it. -/
def cmdFeatBandsSet (h : Hdr) (p : Bytes) (s : State) : State :=
  serve { opcode := 0x43, rights := fun _ _ => .site, length := (4 ≤ ·), shape := fun p => p.length == 4 + 8 * fld p 1 1
          reserved := zeros [(3, 1)] } h p
    (fun s =>
      let n := fld p 1 1
      let ok := decide (n ≤ 32) && decide (fld p 2 1 ≤ 1)
        && (List.range n).all fun i => decide (fld p (4 + 8 * i) 4 < fld p (8 + 8 * i) 4)
      let new := if n == 0 then [] else p
      featureSet h (fld p 0 1) ((s.ftr (fld p 0 1)).bands == new) (!ok) (fun f => { f with bands := new }) s) s

/-- FEAT_STATE_CONFIG (Table 7-14); with the remove bit the other fields are not read. -/
def cmdFeatStateConfig (h : Hdr) (p : Bytes) (s : State) : State :=
  serve { opcode := 0x44, rights := fun _ _ => .site, length := (· == 20)
          reserved := fun p => fld p 15 1 == 0 && bits (fld p 2 1) 2 5 == 0 } h p
    (fun s =>
      let remove := bit (fld p 2 1) 7
      let t := fld p 1 1
      let ok := remove || ((decide (t ≤ 3) || t == 0xFF) && decide (fld p 3 1 ≤ 95) && decide (fld p 8 4 < fld p 4 4)
        && decide (1 ≤ fld p 12 2) && decide (1 ≤ fld p 14 1) && decide (fld p 14 1 ≤ 15)
        && decide (signed 16 (fld p 18 2) ≤ signed 16 (fld p 16 2)))
      let new := if remove then [] else p
      featureSet h (fld p 0 1) ((s.ftr (fld p 0 1)).machineCfg == new) (!ok) (fun f => { f with machineCfg := new }) s) s

/-- The bytes of a feature frame without padding (R188). -/
def FeatureFrame.bytes (f : FeatureFrame) : Bytes := f.header ++ f.features.flatMap fun x => leInt (if f.wide then 2 else 1) x

/-- FEAT_FRAME_READ. -/
def cmdFeatFrameRead (h : Hdr) (p : Bytes) (s : State) : State :=
  serve { opcode := 0x45, rights := fun _ _ => .anyOwner, length := (· == 4), reserved := zeros [(1, 3)] } h p
    (fun s =>
      let n := fld p 0 1
      refuseIf h.tag [(decide (96 ≤ n), stParam), ((s.ftr n).latest.isNone, stState)]
        (fun s => doneWith h (match (s.ftr n).latest with | some f => f.bytes | none => []) s) s) s

/-! ### Speed, tracking source and machine state at a frame close (R179, R185 to R187) -/

/-- A tach has been ACTIVE since an instant. -/
def tachActive (s : State) (i : Nat) (t0 : Word64) : Bool :=
  let t := rd s.stm.tachs i
  decide (i < 4) && t.phase == .active && decide (t.since.toNat ≤ t0.toNat)

/-- The tracking source of a frame (Table 7-4), and its tach. -/
def trackOf (s : State) (n : Nat) (t0 : Word64) : TrackSource × Nat :=
  let o := (s.ftr n).order
  let t := fld o 2 1
  let byTach : TrackSource × Nat := if tachActive s t t0 then (.tach, t) else (.time, 0)
  match fld o 1 1 with
  | 1 =>
    let e := s.stm.encoder
    if !s.feat.belt.encLost && e.phase == .active && decide (e.since.toNat ≤ t0.toNat) then (.encoder, 0) else byTach
  | 2 => byTach
  | _ => (.none, 0)

/-- The events of a log within two instants, oldest first; where fewer than two lie there, the last two before the
end (R178, R179). -/
def eventsIn (log : List (Word64 × Nat × Int)) (t0 t1 : Word64) : List (Nat × Int) :=
  let upTo := log.filter fun e => decide (e.1.toNat ≤ t1.toNat)
  let inside := upTo.filter fun e => decide (t0.toNat ≤ e.1.toNat)
  ((if inside.length < 2 then upTo.take 2 else inside).map (·.2)).reverse

/-- The events and the index per revolution (in 1/256) of a stream's speed source in a frame (R179). -/
def speedSource (s : State) (n : Nat) (track : TrackSource × Nat) (t0 t1 : Word64) : List (Nat × Int) × Nat :=
  let tach (i : Nat) := (eventsIn (rd s.stm.tachs i).log t0 t1, 256 * bits (rd s.stm.tachs i).word.toNat 21 11)
  let c := (s.ftr n).machineCfg
  match track.1 with
  | .encoder => (eventsIn s.stm.encoder.log t0 t1, fld (s.ftr n).order 8 4)
  | .tach => tach track.2
  | _ => if !c.isEmpty && tachActive s (fld c 1 1) t0 then tach (fld c 1 1) else ([], 0)

/-- `SHAFT_SPEED` in 0.001 rev/s (R179). -/
def shaftSpeed (es : List (Nat × Int)) (perRev : Nat) : Nat :=
  match es.head?, es.getLast? with
  | some a, some b =>
    if perRev == 0 || b.1 ≤ a.1 then 0
    else min 0xFFFFFFFF (roundDiv ((b.2 - a.2).natAbs * 256 * 1000000000000 : Nat) (perRev * (b.1 - a.1))).toNat
  | _, _ => 0

/-- `ACCEL` in 0.001 rev/s²: the least-squares slope of the intervals' speeds over their midpoints (R179). -/
def shaftAccel (es : List (Nat × Int)) (perRev : Nat) : Int :=
  if es.length < 3 || perRev == 0 then 0
  else
    let ps : List (Rat × Rat) := (es.zip (es.drop 1)).map fun p =>
      (((p.1.1 + p.2.1 : Nat) : Rat) / 2000000000,
       (((p.2.2 - p.1.2).natAbs * 256 * 1000000000 : Nat) : Rat) / ((perRev * (p.2.1 - p.1.1) : Nat) : Rat))
    let n : Rat := (ps.length : Rat)
    let mt := (ps.map (·.1)).sum / n
    let mv := (ps.map (·.2)).sum / n
    let den := (ps.map fun p => (p.1 - mt) * (p.1 - mt)).sum
    let slope := (ps.map fun p => (p.1 - mt) * (p.2 - mv)).sum / den
    clamp (-2147483648) 2147483647 (slope * 1000 + 1 / 2).floor

/-- LOAD of a stream (R187); 0 before any frame of LOAD_STREAM. -/
def loadOf (s : State) (n : Nat) : Int :=
  let c := (s.ftr n).machineCfg
  if c.isEmpty || !bit (fld c 2 1) 1 then 0
  else match (s.ftr (fld c 3 1)).lastSum with
    | some m => clamp (-32768) 32767 (roundDiv m.1 (256 * m.2))
    | none => 0

/-- The machine state after a frame (R186, R187). -/
def nextMachine (c : Bytes) (belayCoasts : Bool) (speed : Nat) (accel load : Int) (m : MachineState) : MachineState :=
  let stop := fld c 8 4; let run := fld c 4 4; let decel : Int := 10 * fld c 12 2; let dwell := fld c 14 1
  let bump (ok : Bool) (k : Nat) := if ok then min 255 (k + 1) else 0
  let m := { m with
    dwell2 := bump (decide (speed ≤ stop)) m.dwell2
    dwell3 := bump (decide (stop < speed) && decide (accel ≤ -decel)) m.dwell3
    dwell4 := bump (decide (run ≤ speed) && decide (-decel < accel)) m.dwell4 }
  let set (r c p : Bool) : MachineState := { m with running := r, coasting := c, stopped := p }
  let m :=
    if bit (fld c 2 1) 0 && belayCoasts then set false true false
    else if dwell ≤ m.dwell2 then set false false true
    else if dwell ≤ m.dwell3 then set false true false
    else if dwell ≤ m.dwell4 then set true false false
    else m
  if !(bit (fld c 2 1) 1 && m.running) then { m with loaded := false, dwellOn := 0, dwellOff := 0 }
  else
    let on := bump (decide (signed 16 (fld c 16 2) ≤ load)) m.dwellOn
    let off := bump (decide (load < signed 16 (fld c 18 2))) m.dwellOff
    { m with dwellOn := on, dwellOff := off, loaded := if m.loaded then decide (off < dwell) else decide (dwell ≤ on) }

/-- What a frame takes at its close, with TRACK_SOURCE and MACHINE_STATE (R179, R180, R185 to R187). -/
def frameContext (n : Nat) (t0 t1 : Word64) (q : BeltView) (s : State) : FrameContext × State :=
  let track := trackOf s n t0
  let f := s.ftr n
  let src := speedSource s n track t0 t1
  let speed := shaftSpeed src.1 src.2
  let accel := shaftAccel src.1 src.2
  let load := loadOf s n
  let old := f.track.getD .none
  let due := match f.trackEvent with | some t => decide (32768 ≤ since s t) | none => true
  let changed := f.track.isSome && track.1 != old && due
  let s := if changed then raise 0x40 true [BitVec.ofNat 8 n, BitVec.ofNat 8 track.1.code, BitVec.ofNat 8 old.code, 0] s else s
  let belayCoasts := s.bly.phase == .tripped || s.bly.phase == .coasting
  let m := if f.machineCfg.isEmpty then f.mstate else nextMachine f.machineCfg belayCoasts speed accel load f.mstate
  let s := onFeature n (fun f => { f with
    track := some track.1, trackEvent := if changed then some s.clk.tick else f.trackEvent, mstate := m }) s
  let s := if m.word == f.mstate.word then s
    else raise 0x43 false ([BitVec.ofNat 8 n, m.word, f.mstate.word, 0] ++ le 4 speed) s
  ({ encCount := q.count, spliceOffset := q.offset, spliceIndex := q.index
     track := .ofNat 8 (track.1.code + 4 * q.state.toNat + 16 * b2n q.lost)
     mstate := if f.machineCfg.isEmpty then 0 else m.word
     speed := .ofNat 32 speed, accel := .ofInt 32 accel, load := .ofInt 16 load, events := src.1, perRev := src.2 }, s)

/-! ### Spectra of a frame -/

/-- Nanoseconds of an instant. -/
def nanos (t : Word64) : Nat := t.toNat * 1000000000 / 2147483648

/-- The decimated samples of a frame under a FEAT_CONFIG payload. -/
def decimatedOf (cfg : Bytes) (xs : List Int) : List Int := decimate (bits (fld cfg 4 4) 24 4) xs

/-- The bins of a band in Hz (R176). -/
def bandBins (n num den lo hi : Nat) : List Nat :=
  (List.range (n / 2 + 1)).filter fun k => decide (lo * n * den ≤ k * num * 1000) && decide (k * num * 1000 < hi * n * den)

/-- Orders of a stream's band set (UNIT 0x01). -/
def FeatureStream.inOrders (g : FeatureStream) : Bool := fld g.bands 2 1 == 1

/-- The samples of a frame resampled in angle under a stream's order configuration (R178). -/
def resampled (g : FeatureStream) (rate : Nat) (ctx : FrameContext) (t0 t1 : Word64) (xs : List Int) : List Int :=
  resample ctx.events ctx.perRev (64 * 2 ^ fld g.order 3 1) rate (2 ^ bits (fld g.config 4 4) 24 4) (nanos t0) (nanos t1)
    (decimatedOf g.config xs)

/-- The first order bin cut, 0xFFFF for none (R178). -/
def cutOf (g : FeatureStream) (rate : Nat) (ctx : FrameContext) : Nat :=
  orderCut ctx.events ctx.perRev (64 * 2 ^ fld g.order 3 1) (points (fld g.order 4 1)) rate (2 ^ bits (fld g.config 4 4) 24 4)

/-- The bin of the ordinary spectrum nearest to order bin k at NOM_SPEED (R185). -/
def nominalBin (g : FeatureStream) (rate k : Nat) : Nat :=
  let c := fld g.config 4 4
  (roundDiv ((k * (64 * 2 ^ fld g.order 3 1) * fld g.order 12 4 * points (bits c 20 4) * 2 ^ bits c 24 4 : Nat) : Int)
    (max 1 (points (fld g.order 4 1) * 1000 * rate))).toNat

/-- The power of some order bins of a frame, in the frame's tracking source; none where they all lie above the Nyquist rate. A
band or group divides by the ENBW of the window that its bins come from (R176, R178, R185, R189). -/
def orderPower (g : FeatureStream) (rate : Nat) (ctx : FrameContext) (t0 t1 : Word64) (xs : List Int) (group : Bool)
    (ks : List Nat) : Option Power :=
  let c := fld g.config 4 4
  let win := bits c 18 2
  let ns := points (bits c 20 4)
  let np := points (fld g.order 4 1)
  let value (win n : Nat) (bins : List Nat) (xs : List Int) : Power :=
    match group, bins with
    | false, [k] => binPower win n k xs
    | _, _ => grouped win n bins xs
  match ctx.track.toNat % 4 with
  | 0 => some (0, 1)
  | 3 =>
    if fld g.order 12 4 == 0 then some (0, 1)
    else
      let bins := (ks.map (nominalBin g rate)).filter (· ≤ ns / 2)
      if bins.isEmpty && !ks.isEmpty then none else some (value win ns bins (decimatedOf g.config xs))
  | _ =>
    let ys := resampled g rate ctx t0 t1 xs
    if ys.isEmpty then some (Config.orderPower xs (ks.headD 0), 1)
    else some (value 0 np (ks.filter (· < cutOf g rate ctx)) ys)

/-- The order bins of band i of a set in orders (R176). -/
def bandOrders (g : FeatureStream) (i : Nat) : List Nat :=
  let np := points (fld g.order 4 1)
  let spr := 64 * 2 ^ fld g.order 3 1
  (List.range (np / 2 + 1)).filter fun k =>
    decide (fld g.bands (4 + 8 * i) 4 * np ≤ 1000 * k * spr) && decide (1000 * k * spr < fld g.bands (8 + 8 * i) 4 * np)

/-- The power of band i of a stream's set over a frame's samples; none where it lies above the Nyquist rate (R176, R189). -/
def bandPower (g : FeatureStream) (rate : Nat) (ctx : FrameContext) (t0 t1 : Word64) (xs : List Int) (i : Nat) : Option Power :=
  let c := fld g.config 4 4
  let lo := fld g.bands (4 + 8 * i) 4; let hi := fld g.bands (8 + 8 * i) 4
  if g.inOrders then orderPower g rate ctx t0 t1 xs true (bandOrders g i)
  else if rate * 500 < lo * 2 ^ bits c 24 4 then none
  else
    let n := points (bits c 20 4)
    some (grouped (bits c 18 2) n (bandBins n rate (2 ^ bits c 24 4) lo hi) (decimatedOf g.config xs))

/-! ### Redundant pairs at a close (R142 to R145) -/

/-- n² times the variance of samples, and n. -/
def varianceOf (xs : List Int) : Nat × Nat :=
  let sum := xs.sum
  ((xs.length * (xs.map fun x => x * x).sum - sum * sum).natAbs, max 1 xs.length)

/-- Whether the RMS ratio test fails, and `RATIO` in Q8.8 (Table 5-8): a quotient of zeros has no value (DESIGN CHOICE, log entry
84). -/
def ratioTest (limit : Nat) (a b : List Int) : Bool × Nat :=
  let va := varianceOf a; let vb := varianceOf b
  let x := va.1 * vb.2 * vb.2; let y := vb.1 * va.2 * va.2
  let shown := searchBits 16 (fun k => decide ((2 * k - 1) * (2 * k - 1) * y ≤ 512 * 512 * x)) 0
  if x == 0 && y == 0 then (limit != 0 && Config.pairTest 0 a, Config.pairShown 0 a % 65536)
  else (limit != 0 && (decide (limit * limit * y < 65536 * x) || decide (limit * limit * x < 65536 * y)), if y == 0 then 0xFFFF else shown)

/-- Twice-overlapped sums of a lag: covariance and variances over the samples that overlap. -/
def lagSums (lag : Int) (a b : List Int) : Int × Nat × Nat :=
  let a' := if 0 ≤ lag then a.drop lag.toNat else a
  let b' := if 0 ≤ lag then b else b.drop (-lag).toNat
  let ps := a'.zip b'
  let n : Int := ps.length
  let sa := (ps.map (·.1)).sum; let sb := (ps.map (·.2)).sum
  (n * (ps.map fun p => p.1 * p.2).sum - sa * sb, (varianceOf (ps.map (·.1))).1, (varianceOf (ps.map (·.2))).1)

/-- Whether the correlation test fails, and `CORR` in 1/256, 0 if negative (Table 5-8). -/
def corrTest (limit maxLag : Nat) (a b : List Int) : Bool × Nat :=
  let lags := (List.range (2 * maxLag + 1)).map fun i => lagSums ((i : Int) - maxLag) a b
  let usable := lags.filter fun l => l.2.1 != 0 && l.2.2 != 0
  let atLeast (num den : Nat) := usable.any fun l =>
    decide (0 ≤ l.1) && decide (num * num * (l.2.1 * l.2.2) ≤ den * den * (l.1 * l.1).natAbs)
  if usable.isEmpty then (limit != 0 && Config.pairTest 1 a, Config.pairShown 1 a % 256)
  else (limit != 0 && !atLeast limit 256, searchBits 8 (fun k => decide (k == 0) || atLeast (2 * k - 1) 512) 0)

/-- Whether the band-energy test fails, and `BAND_WORST` in 0.5 dB (Table 5-8). -/
def bandTest (limit : Nat) (as bs : List Power) (a : List Int) : Bool × Nat :=
  let ratios := (as.zip bs).map fun p => (p.1.1 * p.2.2, p.2.1 * p.1.2)
  let hi (r : Nat × Nat) := (max r.1 r.2, min r.1 r.2)
  let above (r : Nat × Nat) := if r.1 == 0 && r.2 == 0 then Config.pairTest 2 a
    else decide (10 ^ limit * (hi r).2 ^ 20 < (hi r).1 ^ 20)
  let worst (r : Nat × Nat) := if r.1 == 0 && r.2 == 0 then Config.pairShown 2 a % 256 else searchBits 8 (fun k => decide (k == 0) || decide (10 ^ (2 * k - 1) * (hi r).2 ^ 40 ≤ (hi r).1 ^ 40)) 0
  (limit != 0 && !as.isEmpty && ratios.any above, (ratios.map worst).foldl max 0)

/-- A member is implausible in a frame (R145). -/
def memberImplausible (s : State) (q : Pair) (f : ClosedFrame) : Bool :=
  if isAnalog f.stream then f.implausible
  else
    let p := rd s.stm.ports (portOf f.stream)
    let w := if p.mode == .tdm then widthOf (bits p.cfg.toNat 18 2) else dataBits s f.stream
    let ends := f.samples.countP fun v => v == 2 ^ (w - 1) - 1 || v == -(2 ^ (w - 1))
    decide (q.digSatLimit.toNat ≤ ends) || f.samples.all (· == f.samples.headD 0)

/-- Complete the headers of those waiting frames of a pair that `which` names, with the marks in force (R142). -/
def completePair (i : Nat) (which : ClosedFrame → Bool) (s : State) : State :=
  let q := rd s.afe.pairs i
  let fix (mark : Bool) (f : ClosedFrame) : ClosedFrame :=
    if f.awaiting && which f then { f with awaiting := false, sensorFault := f.sensorFault || mark } else f
  onStream q.streamB (fun x => { x with held := x.held.map (fix q.markB) })
    (onStream q.streamA (fun x => { x with held := x.held.map (fix q.markA) }) s)

/-- Count a frame pair that is not compared (R142). -/
def skipPair (i : Nat) (which : ClosedFrame → Bool) (s : State) : State :=
  completePair i which (onPair i (fun q => { q with skipped := satInc q.skipped }) s)

/-- The waiting frames of a pair's members, member A's first. -/
def pairWaiting (s : State) (i : Nat) : List ClosedFrame :=
  let q := rd s.afe.pairs i
  ((s.strm q.streamA).held ++ (s.strm q.streamB).held).filter (·.awaiting)

/-- Compare a frame pair and move the pair (R143 to R145). The bands are member A's set, under A's feature and order configuration
and its frame's angle reference, for both members (DESIGN CHOICE, log entry 164). -/
def comparePair (i : Nat) (a b : ClosedFrame) (s : State) : State :=
  let q := rd s.afe.pairs i
  let rate := streamRate s q.streamA
  let fa := s.ftr q.streamA
  let energies (f : ClosedFrame) : List Power := (List.range (bandCount fa)).map fun k =>
    (bandPower fa rate a.ctx f.tStart f.tClose f.samples k).getD (0, 1)
  let r := ratioTest q.ratioMax.toNat a.samples b.samples
  let c := corrTest q.corrMin.toNat q.maxLag.toNat a.samples b.samples
  let e := bandTest q.bandDb.toNat (energies a) (energies b) a.samples
  let ia := memberImplausible s q a; let ib := memberImplausible s q b
  let fails := r.1 || c.1 || e.1
  let s := onPair i (fun q => { q with
    fails := .ofNat 8 (flags [r.1, c.1, e.1]), implausible := .ofNat 8 (flags [ia, ib]), ratio := .ofNat 16 r.2
    corr := .ofNat 8 c.2, bandWorst := .ofNat 8 e.2, compared := satInc q.compared
    failRun := if fails then q.failRun + 1 else 0, passRun := if fails then 0 else q.passRun + 1 }) s
  let n := rd s.afe.pairs i
  let chosen : PairPhase := if ia && !ib then .faultA else if ib && !ia then .faultB else .faultBoth
  let faulty := q.phase == .faultA || q.phase == .faultB || q.phase == .faultBoth
  let next : PairPhase :=
    if fails then (if faulty || q.persist.toNat ≤ n.failRun then chosen else q.phase)
    else if q.phase == .unknown then .agree
    else if faulty && q.persist.toNat ≤ n.passRun then .agree
    else q.phase
  completePair i (fun f => f == a || f == b) (setPair i next s)

/-- The pair a stream belongs to while it takes part in comparisons. -/
def pairOf (s : State) (n : Nat) : Option Nat :=
  (List.range 16).find? fun i =>
    let q := rd s.afe.pairs i
    q.configured && q.phase != .inactive && (q.streamA == n || q.streamB == n)

/-- Half a frame period of a stream, in units of a timestamp: of PERIOD, or of the frame's samples (R142) (in part DESIGN CHOICE,
log entry 172). -/
def halfPeriod (s : State) (n : Nat) : Nat :=
  let x := s.strm n
  if x.periodic then x.period.toNat * 32768
  else
    let burst := if isAnalog n then x.calLen + (rd s.afe.channels n).discard else 0
    (burst + x.frameLen.toNat) * 1073741824 / max 1 (streamRate s n)

/-- After a frame of a pair's member has been put in its slot: the waiting frames that are half a period older are skipped, and
with a partner the pair is decided (R142). -/
def pairClosed (i n : Nat) (s : State) : State :=
  let q := rd s.afe.pairs i
  let other := if q.streamA == n then q.streamB else q.streamA
  match (pairWaiting s i).filter (·.stream == n) |>.getLast? with
  | none => s
  | some f =>
    let old (g : ClosedFrame) := decide (g.tClose.toNat + halfPeriod s q.streamA ≤ f.tClose.toNat)
    let s := ((pairWaiting s i).filter old).foldl (fun s g => skipPair i (· == g) s) s
    match (pairWaiting s i).find? (·.stream == other) with
    | none => s
    | some g =>
      let unlike := streamRate s n != streamRate s other || (s.strm n).frameLen != (s.strm other).frameLen
      if unlike || f.partly || g.partly then skipPair i (fun x => x == f || x == g) s
      else if n == q.streamA then comparePair i f g s
      else comparePair i g f s

/-- No partner frame has closed within half a frame period of the oldest waiting frame (R142). -/
def execPairPartnerTimeout (pair : BitVec 4) (s : State) : Answer :=
  let i := pair.toNat
  let oldest := (pairWaiting s i).foldl (fun best f => match best with
    | some (g : ClosedFrame) => if f.tClose.toNat < g.tClose.toNat then some f else best
    | none => some f) none
  match oldest with
  | some f => if (rd s.afe.pairs i).configured then .next (skipPair i (· == f) s) else .next s
  | none => .next s

/-! ### A frame closes -/

/-- STREAM_LOSS for a frame with PARTIAL or STALE_CAL, at most once a second per stream (Table 6-13). -/
def lossEvent (n : Nat) (f : ClosedFrame) (s : State) : State :=
  if !(f.partly || f.staleCal) then s
  else
    let l := (s.strm n).loss
    let l := { l with lost := satAdd l.lost f.lost.toNat, partly := if f.partly then satInc l.partly else l.partly
                      stale := if f.staleCal then satInc l.stale else l.stale }
    let due := match l.last with | some t => decide (32768 ≤ since s t) | none => true
    if due then
      raise 0x31 false ([BitVec.ofNat 8 n, f.qflags, 0, 0] ++ le 4 l.lost.toNat ++ le 2 l.partly.toNat ++ le 2 l.stale.toNat)
        (onStream n (fun x => { x with loss := { last := some s.clk.tick } }) s)
    else onStream n (fun x => { x with loss := l }) s

/-- The channel's status word at a frame close (R140). -/
def closeChannel (n : Nat) (s : State) : State :=
  let c := rd s.afe.channels n
  let b := c.burst
  let lim := bits c.limits.toNat 0 16
  let stuck := lim != 0 && decide (b.stored * b.squares - b.sum * b.sum < (lim * lim * (b.stored * b.stored) : Nat))
  let st := setBit (setBit c.status 3 b.refLow) 0 (openNow c)
  let st := if b.stored == 0 then st
    else setBit (setBit (setBit st 7 b.overload) 2 (b.saturated != 0)) 1 stuck
  let s := if b.stored == 0 then s else onChannel n (fun c => { c with satCount := b.saturated }) s
  let s := setStatus n st s
  onChannel n (fun c => { c with
    mPrev := if b.stored == 0 then c.mPrev else some (b.sum, b.stored), first := false
    faultFrames := if c.status.getLsbD 8 then satInc c.faultFrames else c.faultFrames
    record := { c.record with status := c.status } }) s

/-- STREAM_SNAPSHOT copies the frame that closes. -/
def takeSnapshot (n : Nat) (f : ClosedFrame) (s : State) : State :=
  match s.stm.snapshot with
  | some r =>
    if r.stream != n then s
    else
      let words := ((f.samples.drop r.first).take r.count).flatMap fun v => leInt 4 v
      finish r.tag 0x00 (f.descriptor ++ words) (commitMark r.tag { s with stm := { s.stm with snapshot := none } })
  | none => s

/-- Close the open frame of a stream with its cause; `lost` is a close for port loss (R150, R156, R164 to R168). Without a stored
sample `T_START` and `T_CLOSE` are free values (DESIGN CHOICE, log entry 167). -/
def closeFrame (n : Nat) (cause : Byte) (lost : Bool) (s : State) : State :=
  match (s.strm n).frame with
  | none => s
  | some f =>
    let x := s.strm n
    let samples := f.samples ++ (x.fifo.filter (·.1 == .measured)).map (·.2)
    let s := if isAnalog n then closeChannel n s else s
    let c := rd s.afe.channels n
    let ppr := bits (rd s.stm.tachs x.revTach).word.toNat 21 11
    let s := if samples.isEmpty then s else onFeature n (fun g => { g with lastSum := some (samples.sum, samples.length) }) s
    let f := if f.stored == 0 then { f with tStart := Config.freeValue s.free, tClose := Config.freeValue (s.free + 1), belt := beltView s } else f
    let s := if f.stored == 0 then { s with free := s.free + 2 } else s
    let ctx := frameContext n f.tStart f.tClose f.belt s
    let s := ctx.2
    let pair := pairOf s n
    let closed : ClosedFrame :=
      { stream := n, partly := f.measSwallowed || lost, staleCal := f.calSwallowed
        degraded := (f.calSwallowed && (decide (8 ≤ x.staleRun.toNat) || c.record.time == 0)) || cause == 2
        saturated := f.saturated
        sensorFault := lost || (isAnalog n && (c.status.getLsbD 8 || c.status.getLsbD 9))
          || (!isAnalog n && (List.range 16).any fun i => let q := rd s.afe.pairs i
                (q.streamA == n && q.markA) || (q.streamB == n && q.markB))
        staleRun := x.staleRun, closeCause := cause, seq := f.seq, tStart := f.tStart, tClose := f.tClose
        calTime := if isAnalog n then c.record.time else 0, lost := .ofNat 32 (f.lostCal + f.lostMeas)
        gapAt := match f.gapAt with | some g => .ofNat 32 g | none => 0xFFFFFFFF
        calAge := if f.calSwallowed then .ofNat 16 (calAge c.record.time f.tClose) else 0
        revsDone := if x.byRevs then .ofNat 16 (f.edges / max 1 ppr) else 0
        calSamples := f.calSamples, samples := samples, ctx := ctx.1, awaiting := pair.isSome
        implausible := isAnalog n && c.status.getLsbD 8, tag := tagFor s 7 }
    let count (k : StreamCounters) : StreamCounters := { k with
      closed := satInc k.closed
      partly := if closed.partly then satInc k.partly else k.partly
      stale := if closed.staleCal then satInc k.stale else k.stale
      degraded := if closed.degraded then satInc k.degraded else k.degraded
      measSwallowed := if f.measSwallowed then satInc k.measSwallowed else k.measSwallowed }
    let s := onStream n (fun x => { x with
      fifo := if bubbling s then x.fifo.map (fun e => (.discarded, e.2)) else []
      frame := none, held := x.held ++ [closed], run := satInc x.run, counters := count x.counters }) s
    let s := noteHigh 8 ((s.stm.streams.toList.map (·.held.length)).sum) s
    let s := match pair with | some i => pairClosed i n s | none => s
    let s := lossEvent n closed (takeSnapshot n closed s)
    let limit := x.frameLimit != 0 && decide (x.frameLimit.toNat ≤ x.run.toNat + 1)
    if limit then raise 0x30 false ([BitVec.ofNat 8 n, 0, 0, 0] ++ le 4 (x.run.toNat + 1)) (stopStream n s)
    else if x.stopAfter then stopStream n s
    else s

/-- A frame closes at FRAME_LEN or at REVS (R150). -/
def execFrameClose (stream : BitVec 7) (s : State) : Answer :=
  let n := stream.toNat
  let x := s.strm n
  match x.frame with
  | some f =>
    if x.phase != .running || !frameFull x f then .next s
    else .next (closeFrame n (if f.revsDone then 1 else if x.byRevs then 2 else 0) false s)
  | none => .next s

/-! ### Sensor ports (R154 to R157) -/

/-- A port hears its pins: PD6 and PD7 work and VIO_S is in range; a port that drives its own clock needs PLL_A (R155). -/
def portHeard (s : State) (i : Nat) : Bool :=
  let p := rd s.stm.ports i
  works s 6 && works s 7 && s.pwr.vioSOk && (!(p.mode == .tdm && bit p.cfg.toNat 15) || rd s.clk.lock 1)

/-- Change a port. -/
def onPort (i : Nat) (f : Port → Port) (s : State) : State := { s with stm := { s.stm with ports := upd s.stm.ports i f } }

/-- SPORT_STATE (Table 6-13). -/
def sportEvent (i : Nat) (new prev : Byte) (s : State) : State := raise 0x33 true [BitVec.ofNat 8 i, new, prev, 0] s

/-- The word of a slot, from the bits of SPp_DI at the edges after the frame sync: most significant bit first, left-justified in
its slot (R154). -/
def slotWord (cfg : Nat) (line : List Bool) (k : Nat) : Nat :=
  let first := b2n (bit cfg 13) + k * widthOf (bits cfg 18 2)
  ((line.drop first).take (widthOf (bits cfg 16 2))).foldl (fun w b => 2 * w + b2n b) 0

/-- An edge of SPp_FS, with SPp_DI at the bit clock's rising and falling edges from it on and the rate of frame syncs in Hz: a
frame sync where it is the edge of FS_POL (R154, R156). -/
def execTdmFrameSync (port : BitVec 2) (rising : Bool) (onRise onFall : List Bool) (hz : Nat) (s : State) : Answer :=
  let i := port.toNat
  let p := rd s.stm.ports i
  if p.mode != .tdm || rising == bit p.cfg.toNat 14 || !portHeard s i then .next s
  else
    let s := onPort i (fun p => { p with measured := .ofNat 32 hz }) s
    if p.lost then
      let close := decide (95 * p.fsRate.toNat ≤ 100 * hz) && decide (100 * hz ≤ 105 * p.fsRate.toNat)
      let good := if close then p.good + 1 else 0
      if good < 16 then .next (onPort i (fun p => { p with good := good }) s)
      else
        let s := onPort i (fun p => { p with lost := false, good := 0 }) s
        let s := (List.range 16).foldl (fun s k => onStream (32 + 16 * i + k)
          (fun x => if x.phase == .waiting then { x with phase := .running } else x) s) s
        .next (sportEvent i 1 2 s)
    else
      let line := if bit p.cfg.toNat 12 then onFall else onRise
      .next ((List.range p.slots).foldl (fun s k =>
        let n := 32 + 16 * i + k
        if (s.strm n).phase == .running then takeDigital n (slotWord p.cfg.toNat line k) s else s) s)

/-- No frame sync within four periods (R156). -/
def execSportLost (port : BitVec 2) (s : State) : Answer :=
  let i := port.toNat
  let p := rd s.stm.ports i
  if p.mode != .tdm || p.lost || !works s 6 then .next s
  else
    let s := onPort i (fun p => { p with lost := true, good := 0, lostCount := satInc p.lostCount }) s
    let s := (List.range 16).foldl (fun s k =>
      let n := 32 + 16 * i + k
      if (s.strm n).phase == .running then
        onStream n (fun x => if x.phase == .running then { x with phase := .waiting } else x) (closeFrame n 3 true s)
      else s) s
    .next (sportEvent i 2 1 s)

/-- The levels of SPp_CS3 to SPp_CS0 during a poll: one line low, or the number with SPp_CS3 as a low strobe (R157). -/
def selectLines (decode : Bool) (cs : Nat) : BitVec 4 :=
  if decode then .ofNat 4 (cs % 8) else ~~~(1#4 <<< cs)

/-- A polled sensor's timer falls due: the port selects the sensor and sends its command, and the data words come in the order of
its entry. SPp_SCK comes from PLL_A (R157). -/
def execSpiPoll (port : BitVec 2) (sensor : Nat) (reply : Bytes) (s : State) : Answer :=
  let i := port.toNat
  let p := rd s.stm.ports i
  match p.sensors[sensor]? with
  | none => .next s
  | some e =>
    if p.mode != .spi || !portHeard s i || !rd s.clk.lock 1 then .next s
    else
      let poll : SpiPoll :=
        { cs := selectLines (bit p.cfg.toNat 19) (fld e 0 1), mode := .ofNat 2 (fld e 1 1), sent := slice e 8 (fld e 5 1) }
      let s := onPort i (fun p => { p with poll := some poll }) s
      let w := fld e 4 1 / 8
      let word (j : Nat) := let bs := slice reply (w * j) w
        leNat (if fld e 6 1 == 0 then bs.reverse else bs)
      .next ((List.range (fld e 3 1)).foldl (fun s j =>
        let n := 32 + 16 * i + fld e 2 1 + j
        if (s.strm n).phase == .running then takeDigital n (word j) s else s) s)

/-! ### The feature engine takes a frame (R171 to R173, R188 to R190) -/

/-- The features of one block (Tables 7-1, 7-9). -/
def blockFeatures (s : State) (n : Nat) (f : ClosedFrame) (b : Bytes) : List (Int × Bool) :=
  let g := s.ftr n
  let cfg := g.config
  let c := fld cfg 4 4
  let wide := bit c 17
  let level := levelFeature wide (signed 16 (fld cfg 8 2)) (fld cfg 10 1)
  let group := fld b 1 1; let first := fld b 2 2; let count := fld b 4 2
  let bins (i : Nat) := (List.range (max 1 group)).map (first + i * group + ·)
  let rate := streamRate s n
  let minimum := (formatLo wide, true)
  match fld b 0 1 with
  | 1 => statsBlock wide (signed 16 (fld cfg 8 2)) (fld cfg 10 1) (fld cfg 11 1) f.samples
  | 2 =>
    let xs := decimatedOf cfg f.samples
    (List.range count).map fun i => level (featurePower (bits c 18 2) (points (bits c 20 4)) (first + i * group) group xs)
  | 3 =>
    let xs := envelope (fld cfg 12 2) (fld cfg 14 2) rate (max 1 (fld cfg 16 1)) f.samples
    (List.range count).map fun i =>
      if 1000 * fld cfg 14 2 ≤ 50 * rate then level (featurePower 0 (points (fld cfg 17 1)) (first + i * group) group xs) else minimum
  | 4 =>
    if f.ctx.track.toNat % 4 == 0 then []
    else (List.range count).map fun i =>
      ((orderPower g rate f.ctx f.tStart f.tClose f.samples (decide (1 < group)) (bins i)).map level).getD minimum
  | 5 => (List.range count).map fun i => ((bandPower g rate f.ctx f.tStart f.tClose f.samples i).map level).getD minimum
  | _ => []

/-- The feature frame of a closed frame (R172, R188) (in part DESIGN CHOICE, log entry 18). -/
def featureFrame (s : State) (f : ClosedFrame) : FeatureFrame :=
  let n := f.stream
  let g := s.ftr n
  let wide := bit (fld g.config 4 4) 17 && !g.config.isEmpty
  let track := f.ctx.track.toNat % 4
  let whole := !f.partly && !g.config.isEmpty && !f.samples.isEmpty
  let feats := if whole then (blocksOf g.config).flatMap (blockFeatures s n f) else []
  let cut := if track == 1 || track == 2 then cutOf g (streamRate s n) f.ctx else 0xFFFF
  let q := setBit f.qflags 2 (f.degraded || track == 3)
  { header := [BitVec.ofNat 8 n, q, f.ctx.mstate, f.ctx.track] ++ le 4 f.seq.toNat ++ le 8 f.tStart.toNat ++ le 8 f.tClose.toNat
      ++ le 4 f.ctx.encCount.toNat ++ le 4 f.ctx.spliceOffset.toNat ++ le 2 f.ctx.spliceIndex.toNat ++ le 2 f.calAge.toNat
      ++ le 4 f.ctx.speed.toNat ++ le 4 f.ctx.accel.toNat ++ le 2 f.ctx.load.toNat ++ le 2 feats.length
      ++ [if wide then 1 else 0, f.staleRun] ++ le 2 (feats.countP (·.2)) ++ le 4 f.lost.toNat ++ le 2 f.revsDone.toNat
      ++ le 2 cut ++ [0, 0, 0, 0]
    features := feats.map (·.1), wide }

/-- The closed frame with the oldest `T_CLOSE` (R171); of equal ones, the lowest stream. -/
def oldestClosed (s : State) : Option ClosedFrame :=
  (s.stm.streams.toList.filterMap (·.held.head?)).foldl (fun best f => match best with
    | none => some f
    | some b => if f.tClose.toNat < b.tClose.toNat then some f else some b) none

/-- QUEUE_PRESSURE of the feature queue (0) or the inference queue (1), and its highest level (Table 11-10). -/
def queuePressure (q now depth : Nat) (s : State) : State :=
  let s := noteHigh q now s
  let event (level : Byte) := raise 0x62 true ([BitVec.ofNat 8 (q + 1), level] ++ le 2 now)
  let set (v : Bool) (s : State) : State := { s with mdl := { s.mdl with pressed := wr s.mdl.pressed q v } }
  if !rd s.mdl.pressed q && depth ≤ now then event 1 (set true s)
  else if rd s.mdl.pressed q && 2 * now < depth then event 0 (set false s)
  else s

/-- The bank group the Resource Manager gives a feature frame: the lowest that is powered (DESIGN CHOICE, log entry
20). -/
def freeBank (s : State) : Option Nat := (List.range 4).find? fun b => s.isOn (12 + b)

/-- A frame whose lines read as never written: zeros (R168, R212). -/
def ClosedFrame.unread (f : ClosedFrame) : ClosedFrame :=
  { stream := f.stream, samples := f.samples.map fun _ => 0, calSamples := f.calSamples.map fun _ => 0 }

/-- The feature engine takes the oldest closed frame once the feature queue has room (R171). -/
def execFeatureFrameTake (s : State) : Answer :=
  match oldestClosed s, freeBank s with
  | some f, some bank =>
    if f.awaiting || !works s 8 || 64 ≤ s.mdl.features.length then .next s
    else
      let lost := !f.tag.readable s 7
      let words := f.calSamples.length + f.samples.length
      let g := featureFrame s (if lost then f.unread else f)
      let s := if lost then countUnwritten .sample (linesOf (64 + 4 * words)) s else s
      let s := onStream f.stream (fun x => { x with held := x.held.drop 1 }) s
      let s := onFeature f.stream (fun x => { x with latest := some g }) s
      let s := { s with mdl := { s.mdl with features := s.mdl.features ++ [{ frame := g, bank := bank, tag := tagFor s 7 }] } }
      .next (queuePressure 0 s.mdl.features.length 64 s)
  | some _, none => .next (wantDomain 12 true s)
  | none, _ => .next s

/-! ### The meanings -/

def execFeatConfigSet (h : Hdr) (p : Bytes) (s : State) : Answer := .next (cmdFeatConfigSet h p s)
def execFeatConfigRemove (h : Hdr) (p : Bytes) (s : State) : Answer := .next (cmdFeatConfigRemove h p s)
def execFeatGet (h : Hdr) (p : Bytes) (s : State) : Answer := .next (cmdFeatGet h p s)
def execFeatOrderConfig (h : Hdr) (p : Bytes) (s : State) : Answer := .next (cmdFeatOrderConfig h p s)
def execFeatBandsSet (h : Hdr) (p : Bytes) (s : State) : Answer := .next (cmdFeatBandsSet h p s)
def execFeatStateConfig (h : Hdr) (p : Bytes) (s : State) : Answer := .next (cmdFeatStateConfig h p s)
def execFeatFrameRead (h : Hdr) (p : Bytes) (s : State) : Answer := .next (cmdFeatFrameRead h p s)
def execBeltPositionGet (h : Hdr) (p : Bytes) (s : State) : Answer := .next (cmdBeltPositionGet h p s)
def execBeltConfigDisable (h : Hdr) (p : Bytes) (s : State) : Answer := .next (cmdBeltConfigDisable h p s)
def execBeltConfigSet (h : Hdr) (p : Bytes) (s : State) : Answer := .next (cmdBeltConfigSet h p s)
def execSetIndex (h : Hdr) (p : Bytes) (s : State) : Answer := .next (cmdSetIndex h p s)
def execBeltClearCount (h : Hdr) (p : Bytes) (s : State) : Answer := .next (cmdBeltClearCount h p s)

end Sys2Proof.Machine
end

