-- ==== Sys2Proof/Machine/Freeze.lean ====
section
/-! DEFINITION. What every family needs of the heads: their owner, the freeze mask and the cancelling of queued steps
(chapter 12). -/

namespace Sys2Proof.Machine

/-- Head n. -/
def State.head (s : State) (n : Nat) : Head := rd s.lrn.heads n

/-- Change a head. -/
def onHead (n : Nat) (f : Head → Head) (s : State) : State := { s with lrn := { s.lrn with heads := upd s.lrn.heads n f } }

/-- Model slot m. -/
def State.model (s : State) (m : Nat) : Model := rd s.mdl.slots m

/-- Change a model slot. -/
def onModel (m : Nat) (f : Model → Model) (s : State) : State := { s with mdl := { s.mdl with slots := upd s.mdl.slots m f } }

/-- The head's current copy (R222). -/
def Head.copyImage (h : Head) : Option Bytes := h.current.bind (rd h.areas ·)

/-- The head is FREE: allocated to no layer, and no release of it is under way (R304). -/
def Head.free (h : Head) : Bool := h.user.isNone && h.busy.isNone

/-- The head is FREE and its pair holds a current copy: an orphan (R276). -/
def Head.orphan (h : Head) : Bool := h.free && h.copyImage.isSome

/-- The owner a head is bound to: its model's, or that of its orphan; none for a FREE head without one. -/
def headOwner (s : State) (n : Nat) : Option (BitVec 2) :=
  if 4 ≤ n then none
  else match (s.head n).user with
    | some u => some (s.model u.1).owner
    | none => if (s.head n).orphan then (s.head n).copyImage.map fun c => .ofNat 2 (fld c 36 1) else none

/-- Raise an event of a head for its owner. -/
def raiseHead (n : Nat) (code : Byte) (high : Bool) (body : Bytes) (s : State) : State :=
  match headOwner s n with
  | some o => raiseOwned o code high body s
  | none => raise code high body s

/-- A slot in this state takes frames: RUNNING, or a pitch of a model that the head chip runs. -/
def ModelPhase.runs (p : ModelPhase) : Bool := p == .running || p == .pitch

/-- Belay is in HOLD, TRIPPED or COASTING (R19). -/
def belayHolds (s : State) : Bool := s.bly.phase == .hold || s.bly.phase == .tripped || s.bly.phase == .coasting

/-- The `FREEZE` mask of a head (Table 12-1). -/
def freezeMask (s : State) (n : Nat) : Byte :=
  let h := s.head n
  match h.user with
  | none => 0
  | some u => BitVec.ofNat 8 (flags [h.command, h.settle.isSome, belayHolds s, h.holdoff.isSome, !(s.model u.1).phase.runs])

/-- Bits of `FREEZE` that block posting. -/
def blocksPosting (mask : Byte) : Bool := mask &&& 0x17#8 != 0

/-- Note a head's freeze mask; a change of bit 0, 1, 2 or 4 raises HEAD_FROZEN with the steps cancelled (Table 12-7). -/
def noteFreeze (n cancelled : Nat) (s : State) : State :=
  let new := freezeMask s n
  let old := (s.head n).frozen
  let s := onHead n (fun h => { h with frozen := new }) s
  if new &&& 0x17#8 == old &&& 0x17#8 || (s.head n).user.isNone then s
  else raiseHead n 0x73 true ([BitVec.ofNat 8 n, new, old, 0] ++ le 4 cancelled) s

/-- Note every head's freeze mask. -/
def noteFreezes (s : State) : State := (List.range 4).foldl (fun s n => noteFreeze n 0 s) s

/-- A head's operation is a posted step. -/
def HeadOp.isStep : HeadOp → Bool
  | .step _ => true
  | .reward _ _ | .save _ _ | .load _ _ => false

/-- The operation works on the head's pair. -/
def HeadOp.onPair : HeadOp → Bool
  | .save _ _ | .load _ _ => true
  | .step _ | .reward _ _ => false

/-- The command that waits for an operation. -/
def HeadOp.tag : HeadOp → Option Tag
  | .step _ => none
  | .reward t _ => some t
  | .save _ t | .load _ t => t

/-- The command that keeps a pair busy. -/
def HeadBusy.tag : HeadBusy → Option Tag
  | .saving _ t | .saved _ t | .releasing _ t => t
  | .restoring t | .importing t | .resetting t => some t

/-- Steps of a head in the plasticity event queue. -/
def Head.steps (h : Head) : Nat := h.ops.countP HeadOp.isStep

/-- Entries of the plasticity event queue (R266). -/
def plasticityQueue (s : State) : Nat := (s.lrn.heads.toList.map Head.steps).sum

/-- Cancel a head's queued steps; they count in STEPS_CANCELLED (R283) (in part DEDUCED, log entry 39). -/
def cancelSteps (n : Nat) (s : State) : State :=
  onHead n (fun h => { h with
    ops := h.ops.filter (fun o => !o.isStep)
    stats := { h.stats with cancelled := satAdd h.stats.cancelled h.steps } }) s

/-- Cancel the queued steps of every head as Belay enters HOLD (R283, R336). -/
def holdHeads (s : State) : State :=
  (List.range 4).foldl (fun s n => let k := (s.head n).steps; noteFreeze n k (cancelSteps n s)) s

/-- Start a head's settle period of SETTLE seconds; 0 sets no bit (R294). -/
def startSettle (n : Nat) (s : State) : State :=
  noteFreeze n 0 (onHead n (fun h => { h with
    settle := if fld h.hrec 26 2 == 0 then none else some (s.clk.tick + .ofNat 48 (32768 * fld h.hrec 26 2)) }) s)

/-- Start every head's holdoff period as Belay enters ARMED from REARM (R294). -/
def startHoldoff (s : State) : State :=
  (List.range 4).foldl (fun s n => noteFreeze n 0 (onHead n (fun h => { h with
    holdoff := if h.user.isNone || fld h.mrec 6 2 == 0 then none
      else some (s.clk.tick + .ofNat 48 (32768 * fld h.mrec 6 2)) }) s)) s

end Sys2Proof.Machine
end

