-- ==== Sys2Proof/Machine/Belay.lean ====
section
/-! DEFINITION. Belay, the assets and the health outputs (chapter 14). -/

namespace Sys2Proof.Machine

/-! ### Codes and levels -/

/-- Table 14-3. -/
def BelayPhase.code : BelayPhase → Byte
  | .disarmed => 0 | .armed => 1 | .hold => 2 | .tripped => 3 | .coasting => 4 | .stopped => 5 | .rearm => 6

/-- `SRC` of Table 14-5. -/
def OutSource.code : OutSource → Byte
  | .off => 0 | .asset => 1 | .fixed => 2

/-- `LEVEL` of HOUT_GET. -/
def Level.code : Level → Byte
  | .off => 0 | .deviceFault => 1 | .notReady => 2 | .index => 3 | .sensorFault => 4 | .fixed => 5

/-- BELAY_OK is high exactly in ARMED and HOLD, and low without power (R333, R12). -/
def belayOk (s : State) : Bool := s.isOn 0 && (s.bly.phase == .armed || s.bly.phase == .hold)

/-- The device-fault condition (R332); a PLL that has failed counts as XO24_FAIL does (R72). -/
def deviceFault (s : State) : Bool := s.clk.xo24Fail || s.clk.pllFailed.toList.any id

/-- An asset is in use. -/
def AssetCfg.used (c : AssetCfg) : Bool := decide (c.model.toNat < 8)
def AssetCfg.tripEn (c : AssetCfg) : Bool := c.used && c.flags.getLsbD 0
def AssetCfg.alarmEn (c : AssetCfg) : Bool := c.used && c.flags.getLsbD 1
/-- `FAULT_ACTION`: 0 NONE, 1 ALARM, 2 TRIP. -/
def AssetCfg.faultAction (c : AssetCfg) : Nat := bits c.flags.toNat 2 2
/-- `DEV_FAULT_ACTION`. -/
def BelayConfig.deviceAction (c : BelayConfig) : Nat := bits c.flags.toNat 1 2

/-- Asset i. -/
def State.asset (s : State) (i : Nat) : Asset := rd s.bly.assets i

/-- Change an asset. -/
def onAsset (i : Nat) (f : Asset → Asset) (s : State) : State := { s with bly := { s.bly with assets := upd s.bly.assets i f } }

/-- The asset is in sensor fault (R326). -/
def Asset.inFault (a : Asset) : Bool := a.cfg.used && a.faults != 0

/-- Phase of the asset's model, where it names one. -/
def assetModel (s : State) (a : Asset) : ModelPhase := if a.cfg.used then (s.model a.cfg.model.toNat).phase else .empty

/-- Code of an index (Table 14-1). -/
def indexCode (v : Nat) : Nat := 410 + (3276 * min v 4096 + 2048) / 4096

/-- The level an output shows, and its code (R330, R331). -/
def outLevel (s : State) (o : OutEntry) : OutLatch :=
  match o.src with
  | .off => { level := .off, code := 0 }
  | .fixed => { level := .fixed, code := o.code }
  | .asset =>
    let a := s.asset o.asset.toNat
    if deviceFault s || assetModel s a == .halted then { level := .deviceFault, code := 82 }
    else if a.inFault then { level := .sensorFault, code := 3891 }
    else match a.value with
      | some v => if assetModel s a == .running then { level := .index, code := .ofNat 16 (indexCode v) }
                  else { level := .notReady, code := 205 }
      | none => { level := .notReady, code := 205 }

/-- The causes of ALARM_N that are set (Table 14-2). -/
def alarmCauses (s : State) : BitVec 16 :=
  let used := s.bly.assets.toList.filter (·.cfg.used)
  BitVec.ofNat 16 (flags
    [used.any (·.inAlarm),
     used.any (fun a => a.inFault && (a.cfg.faultAction == 1 || a.cfg.faultAction == 2)),
     deviceFault s || used.any (fun a => a.cfg.tripEn && assetModel s a == .halted),
     belayHolds s, false, false,
     s.bly.phase == .armed && !used.any (fun a => a.cfg.tripEn && assetModel s a == .running)])
    ||| (s.bly.latched &&& 0x01B0#16)

/-- The controller in PD1 runs: firmware is READY and control SRAM is not in retention. -/
def belayRuns (s : State) : Bool := (s.boot.phase == .ready || s.boot.phase == .restarting) && s.isOn 1 && !s.pwr.retention

/-- Write the outputs and ALARM_N; a change of ALARM_N raises ALARM_STATE (R331, R333) (in part DEDUCED, log entry 22). -/
def showBelay (s : State) : State :=
  if !belayRuns s then s
  else
    let s := if s.bly.mapped then { s with bly := { s.bly with latches := s.bly.map.map (outLevel s) } } else s
    let causes := alarmCauses s
    let low := causes &&& s.bly.alarmMask != 0
    if low == s.bly.alarm then s
    else raise 0x84 true ([BitVec.ofNat 8 (b2n low), 0] ++ le 2 causes.toNat) { s with bly := { s.bly with alarm := low } }

/-! ### The coast tach (R339) -/

/-- The coast tach, where one is set and enabled. -/
def coastTach (s : State) : Option Tach :=
  let i := s.bly.cfg.coastTach.toNat
  if i < 4 && (rd s.stm.tachs i).phase != .disabled then some (rd s.stm.tachs i) else none

/-- `PERIOD_NS` behind the coast tach's speed; 0 where the speed is 0: without a tach, while it is IDLE, and before a
second edge gives a period (in part DEDUCED, log entry 25). -/
def coastNs (s : State) : Nat :=
  match coastTach s with
  | some t => if t.phase == .active then t.periodNs.toNat else 0
  | none => 0

/-- A speed in 0.001 rev/s from the coast tach's period, not rounded up. -/
def coastSpeed (s : State) : Nat :=
  match coastTach s with
  | some t => if coastNs s == 0 then 0 else min 0xFFFFFFFF (1000000000000 / max 1 (bits t.word.toNat 21 11 * coastNs s))
  | none => 0

/-- The coast tach's speed is at or below STOP_SPEED. -/
def atRest (s : State) : Bool :=
  match coastTach s with
  | some t => coastNs s == 0 || decide (1000000000000 ≤ s.bly.cfg.stopSpeed.toNat * bits t.word.toNat 21 11 * coastNs s)
  | none => true

/-- Deceleration is seen: the speed is at or below v0 x (100 - DECEL_PCT) / 100, or the tach is IDLE. -/
def decelerated (s : State) : Bool :=
  coastNs s == 0 || (s.bly.v0Ns != 0 && decide (s.bly.v0Ns * 100 ≤ coastNs s * (100 - s.bly.cfg.decelPct.toNat)))

/-! ### Changes of state (R335) -/

/-- The Cairn entry's source for the record's asset. -/
def belaySource (s : State) : BitVec 16 := 0x0300#16 ||| s.bly.asset.setWidth 16

/-- Enter a state: the record, BELAY_STATE and the Cairn entry (R335). -/
def enterBelay (p : BelayPhase) (declared : Bool) (s : State) : State :=
  let prev := s.bly.phase
  let s := { s with bly := { s.bly with phase := p, prev := prev, tState := now s, dwell := false, slow := false } }
  let body : Bytes := [p.code, prev.code, s.bly.cause, s.bly.asset] ++ le 4 (coastSpeed s)
  let entry : Bytes := [p.code, prev.code, s.bly.cause, BitVec.ofNat 8 (b2n declared)] ++ le 4 (coastSpeed s)
  let s := raise 0x80 true body s
  match p with
  | .tripped => cairn 0x8002 (belaySource s) entry s
  | .coasting | .stopped | .armed => cairn 0x8001 (belaySource s) entry s
  | _ => s

/-- Enter ARMED: every run returns to 0 (R328). -/
def enterArmed (s : State) : State :=
  enterBelay .armed false { s with bly := { s.bly with assets := s.bly.assets.map fun a => { a with run := 0 } } }

/-- Enter STOPPED; the coast timer ends. -/
def enterStopped (declared : Bool) (s : State) : State :=
  let s := enterBelay .stopped declared { s with bly := { s.bly with coasting := none } }
  { s with bly := { s.bly with slow := atRest s } }

/-- Enter COASTING; a speed at or below STOP_SPEED starts the dwell (R339). -/
def enterCoasting (s : State) : State :=
  let s := enterBelay .coasting false s
  { s with bly := { s.bly with dwell := (coastTach s).isSome && atRest s } }

/-- Follow the coast tach after a change of its speed (R339, R341). -/
def followCoast (s : State) : State :=
  match s.bly.phase, coastTach s with
  | .tripped, some _ => if decelerated s then enterCoasting s else s
  | .coasting, some _ => { s with bly := { s.bly with dwell := atRest s } }
  | .stopped, some _ =>
    if atRest s then { s with bly := { s.bly with slow := true, dwell := false } }
    else { s with bly := { s.bly with dwell := s.bly.slow } }
  | _, _ => s

/-- The commit point: BELAY_OK falls, v0 is recorded and the coast timer starts (R338). -/
def commitTrip (s : State) : State :=
  let s := { s with bly := { s.bly with
    v0 := .ofNat 32 (coastSpeed s), v0Ns := coastNs s, tCommit := now s, coasting := some s.clk.tick, noDecel := false
    trips := satInc s.bly.trips, heldModel := none } }
  let s := enterBelay .tripped false s
  if (coastTach s).isNone then enterCoasting s else followCoast s

/-- A released hold is no trip: the record's cause and asset are the last trip's again (in part DEDUCED, log entry 21). -/
def releaseHold (s : State) : State :=
  enterArmed { s with bly := { s.bly with cause := s.bly.lastTrip.1, asset := s.bly.lastTrip.2, heldModel := none } }

/-- A trip request with its cause and asset (R336); `halted` is the model behind a DEVICE request. The outcome is that
of BELAY_TRIP. -/
def tripRequest (cause asset : Byte) (halted : Option Nat) (atOnce : Bool) (s : State) : State × Byte :=
  match s.bly.phase with
  | .armed =>
    let s := { s with bly := { s.bly with cause := cause, asset := asset, lastTrip := (s.bly.cause, s.bly.asset), heldModel := halted } }
    let s := abandonSleep 0x01 (holdHeads (enterBelay .hold false s))
    (if atOnce || s.bly.cfg.confirmMs == 0 then noteFreezes (commitTrip s) else s, 1)
  | .hold | .tripped | .coasting => ({ s with bly := { s.bly with ignored := satInc s.bly.ignored } }, 2)
  | _ => (s, 3)

/-! ### Arming (R342) -/

/-- The first arming condition that fails, as `CAUSE` of BELAY_REARM; 0 when all hold. -/
def armFails (s : State) : Byte :=
  if s.bly.cfg.coastTach != 0xFF && (coastTach s).isNone then 5
  else if deviceFault s && s.bly.cfg.deviceAction == 2 then 1
  else if s.bly.assets.toList.any (fun a => a.inFault && a.cfg.faultAction == 2) then 2
  else if s.bly.latched &&& 0x0110#16 != 0 then 3
  else 0

/-- Leave REARM for STOPPED or DISARMED and end the BELAY_REARM in flight. -/
def endRearm (status cause : Byte) (s : State) : State :=
  let s' := { s with bly := { s.bly with rearming := none } }
  match s.bly.rearming with
  | some t => finish t status (if status == stAborted then [] else [cause, 0, 0, 0]) s'
  | none => s'

/-- During REARM the first condition to fail returns Belay to STOPPED (R342). -/
def checkRearm (s : State) : State :=
  if s.bly.phase == .rearm && armFails s != 0 then endRearm stState (armFails s) (enterStopped false s) else s

/-! ### What Belay notices of the rest of the device -/

/-- ASSET_STATE (Table 14-9). -/
def assetEvent (i : Nat) (kind : Byte) (s : State) : State :=
  raise 0x82 false ([BitVec.ofNat 8 i, kind] ++ le 2 ((s.asset i).value.getD 0) ++ [0, 0, 0, 0]) s

/-- Look at one asset's model: a value is cleared when the model has left RUNNING (R329), and a model that has become
HALTED is a DEVICE request where DEV_FAULT_ACTION is TRIP (R336). -/
def lookAsset (i : Nat) (s : State) : State :=
  let a := s.asset i
  let phase := assetModel s a
  let halted := phase == .halted
  let s := if phase == .running || !a.cfg.used then s else onAsset i (fun a => { a with value := none, restart := false }) s
  let s := onAsset i (fun a => { a with halted := halted }) s
  if !halted || a.halted then s
  else
    let s := assetEvent i 5 s
    if a.cfg.tripEn && s.bly.phase == .armed && s.bly.cfg.deviceAction == 2 then
      (tripRequest 4 0xFF (some a.cfg.model.toNat) false s).1
    else s

/-- The controller looks at the device-fault condition, the models and the arming conditions, and writes its outputs. -/
def lookBelay (s : State) : State :=
  if !belayRuns s then s
  else
    let begins := deviceFault s && !s.bly.deviceFault
    let s := { s with bly := { s.bly with deviceFault := deviceFault s } }
    let s := if begins && s.bly.phase == .armed && s.bly.cfg.deviceAction == 2 then (tripRequest 4 0xFF none false s).1 else s
    let s := (List.range 8).foldl (fun s i => lookAsset i s) s
    showBelay (checkRearm s)

/-! ### Results (R326 to R328) -/

/-- The value's update (R327). -/
def nextValue (a : Asset) (score : Nat) : Nat :=
  match a.value with
  | some v =>
    if a.restart then score
    else (clamp 0 65535 (v + (((score : Int) - v) * a.cfg.alpha.toNat + 128) / 256)).toNat
  | none => score

/-- An update with a score: the value, the alarm and the run (R327, R328). -/
def updateAsset (i : Nat) (r : AssetResult) (s : State) : State :=
  let a := s.asset i
  let score := r.scores.getD a.cfg.score.toNat 0
  let v := nextValue a score
  let s := onAsset i (fun a => { a with value := some v, restart := false, lastScore := .ofNat 16 score, resultSeq := r.seq }) s
  let on := a.cfg.alarmEn && !a.inAlarm && decide (a.cfg.alarmOn.toNat ≤ v)
  let off := a.inAlarm && decide (v < a.cfg.alarmOff.toNat)
  let s := if on then assetEvent i 1 (onAsset i (fun a => { a with inAlarm := true }) s) else s
  let s := if off then assetEvent i 2 (onAsset i (fun a => { a with inAlarm := false }) s) else s
  if !(a.cfg.tripEn && s.bly.phase == .armed && !s.bly.startGuard) then s
  else
    let run := if a.cfg.tripThresh.toNat ≤ v then satInc a.run else 0
    let s := onAsset i (fun a => { a with run := run }) s
    if run == a.cfg.tripCount && run != 0 then
      (tripRequest 1 (.ofNat 8 i) none false (onAsset i (fun a => { a with trips := satInc a.trips }) s)).1
    else s

/-- One asset takes a result (R326). -/
def assetTakes (r : AssetResult) (s : State) (i : Nat) : State :=
  let a := s.asset i
  if !a.cfg.used || a.cfg.model.toNat != r.model || !a.cfg.streams.getLsbD r.stream then s
  else
    let was := a.inFault
    let s := onAsset i (fun a => { a with faults := setBit a.faults r.stream r.sensorFault }) s
    let is := (s.asset i).inFault
    let s := if is == was then s else assetEvent i (if is then 3 else 4) s
    let s := if is && !was && a.cfg.faultAction == 2 && s.bly.phase == .armed then
        (tripRequest 3 (.ofNat 8 i) none false (onAsset i (fun a => { a with trips := satInc a.trips }) s)).1
      else s
    if r.scored && !r.sensorFault then updateAsset i r s else s

/-- ASSET_UPDATE: the controller takes the next result passed to it (R326, R336). -/
def execAssetUpdate (s : State) : Answer :=
  match s.bly.queue with
  | [] => .next s
  | r :: rest =>
    if !belayRuns s then .next s
    else .next (lookBelay ((List.range 8).foldl (assetTakes r) { s with bly := { s.bly with queue := rest } }))

/-! ### Timers -/

/-- The condition behind a hold still holds (R337); a COMMAND trip is never released. -/
def holdStands (s : State) : Bool :=
  match s.bly.cause with
  | 1 => let a := s.asset s.bly.asset.toNat
         match a.value with
         | some v => decide (a.cfg.tripThresh.toNat ≤ v)
         | none => false
  | 3 => (s.asset s.bly.asset.toNat).inFault
  | 4 => match s.bly.heldModel with
         | some m => (s.model m).phase == .halted
         | none => deviceFault s
  | _ => true

/-- The confirm window ends (R337). -/
def execConfirmWindowEnd (s : State) : Answer :=
  if s.bly.phase != .hold || !belayRuns s then .next s
  else if s.bly.cfg.flags.getLsbD 0 && !holdStands s then
    .next (lookBelay (noteFreezes (releaseHold { s with bly := { s.bly with rechecks := satInc s.bly.rechecks } })))
  else .next (lookBelay (commitTrip s))

/-- The coast timer ends (R339, R340). -/
def execCoastTimerEnd (s : State) : Answer :=
  if s.bly.coasting.isNone || !(s.bly.phase == .tripped || s.bly.phase == .coasting) || !belayRuns s then .next s
  else
    let s := { s with bly := { s.bly with coasting := none } }
    if (coastTach s).isNone then
      .next (lookBelay (noteFreezes (enterStopped false (if s.bly.phase == .tripped then enterCoasting s else s))))
    else if s.bly.noDecel then .next s
    else
      let body : Bytes := [if s.bly.phase == .tripped then 1 else 2, 0, 0, 0] ++ le 4 (coastSpeed s)
      let s := { s with bly := { s.bly with noDecel := true, latched := s.bly.latched ||| 0x0010#16 } }
      .next (lookBelay (cairn 0x8003 (belaySource s) body (raise 0x81 true body s)))

/-- The speed has stayed at or below STOP_SPEED for STOP_DWELL (R339). -/
def execStopDwellEnd (s : State) : Answer :=
  if s.bly.phase == .coasting && s.bly.dwell && (coastTach s).isSome && belayRuns s then
    .next (lookBelay (noteFreezes (enterStopped false s)))
  else .next s

/-- The belt has moved in STOPPED for STOP_DWELL (R341) (in part DEDUCED, log entry 26). -/
def execMotionDwellEnd (s : State) : Answer :=
  if s.bly.phase == .stopped && s.bly.dwell && (coastTach s).isSome && belayRuns s then
    let s := { s with bly := { s.bly with dwell := false, slow := false, latched := s.bly.latched ||| 0x0100#16 } }
    .next (lookBelay (raise 0x83 true (le 4 (coastSpeed s)) s))
  else .next s

/-- REARM_MS has elapsed with the conditions held: ARMED, with the start guard, the holdoff and every value marked for
restart (R329, R342). -/
def execRearmTimerEnd (s : State) : Answer :=
  if s.bly.phase != .rearm || !belayRuns s then .next s
  else
    let tag := s.bly.rearming
    let s := enterArmed s
    let b := s.bly
    let s := { s with bly := { b with
      startGuard := b.cfg.startGuard != 0, assets := b.assets.map (fun a => { a with restart := a.value.isSome }), rearming := none } }
    let s := match tag with
      | some t => finish t 0x00 [] (commitMark t s)
      | none => s
    .next (lookBelay (startHoldoff s))

/-- The start guard ends (R342). -/
def execStartGuardEnd (s : State) : Answer := .next { s with bly := { s.bly with startGuard := false } }

/-! ### The tach inputs (R158) -/

/-- TACH_STATE with a tach's new phase. -/
def tachPhase (i : Nat) (p : InputPhase) (s : State) : State :=
  let t := rd s.stm.tachs i
  if t.phase == p then s
  else
    raise 0x34 true [BitVec.ofNat 8 i, p.code, t.phase.code, 0]
      { s with stm := { s.stm with tachs := upd s.stm.tachs i fun t =>
        { t with phase := p, since := if p == .active then now s else t.since } } }

/-- A REVOLUTIONS frame counts the edge from the start of its measurement burst, until it has all its samples (R150) (in part
DEDUCED, log entry 27). -/
def countRevs (i : Nat) (x : Strm) (ppr : Nat) : Strm :=
  match x.frame with
  | some f =>
    let burst := f.step == .discarding || f.step == .measuring
    if x.byRevs && x.revTach == i && burst && !frameFull x f && x.phase == .running then
      { x with frame := some { f with edges := f.edges + 1, revsDone := decide (x.revs * ppr ≤ f.edges + 1) } }
    else x
  | none => x

/-- While the encoder is LOST the count advances with the check tach (R183). -/
def checkTachAdvance (i ppr : Nat) (s : State) : State :=
  let b := s.feat.belt
  if !(checked s && b.encLost && b.checkTach.toNat == i) then s
  else
    let r := b.residue + b.encPerTachRev.toNat
    let s := { s with feat := { s.feat with belt := { b with residue := r % (256 * max 1 ppr) } } }
    beltCount (r / (256 * max 1 ppr) : Nat) s

/-- A tach input is heard: enabled, PD6 works and its rail is in range. -/
def tachHeard (s : State) (i : Nat) : Bool := (rd s.stm.tachs i).phase != .disabled && works s 6 && s.pwr.vioSOk

/-- An accepted edge of the counted polarity, at a time in nanoseconds (R158, R150, R183, R339). -/
def countTach (i ns : Nat) (s : State) : State :=
  let s := tachPhase i .active s
  let t := rd s.stm.tachs i
  let ppr := bits t.word.toNat 21 11
  let last := match t.log with | x :: _ => x.2.2 | [] => 0
  let new : Tach := { t with
    edges := t.edges + 1
    periodNs := match t.lastNs with | some l => satAdd 0 (ns - l) | none => 0
    lastNs := some ns, log := logEdge s (now s, ns, last + 1) t.log }
  let s := { s with stm := { s.stm with
    tachs := wr s.stm.tachs i new, streams := s.stm.streams.map fun x => countRevs i x ppr } }
  let s := checkTachAdvance i ppr s
  if s.bly.cfg.coastTach.toNat == i && belayRuns s then lookBelay (followCoast s) else s

/-- A tach pin has changed its level and held it for `held` nanoseconds: the change is accepted where it passes the filter, and
counted where it is of the polarity of EDGE (R158). -/
def execTachEdge (tach : BitVec 2) (up : Bool) (held ns : Nat) (s : State) : Answer :=
  let i := tach.toNat
  let t := rd s.stm.tachs i
  if !tachHeard s i || t.level == some up || !passesFilter (bits t.word.toNat 0 3) held then .next s
  else
    let s := { s with stm := { s.stm with tachs := upd s.stm.tachs i fun t => { t with level := some up } } }
    if up == bit t.word.toNat 6 then .next s else .next (countTach i ns s)

/-- No counted edge for LOSS_TIMEOUT (R158); speed 0 for Belay (R339). -/
def execTachIdle (tach : BitVec 2) (s : State) : Answer :=
  let i := tach.toNat
  if !tachHeard s i then .next s
  else
    let s := tachPhase i .idle s
    if s.bly.cfg.coastTach.toNat == i && belayRuns s then .next (lookBelay (followCoast s)) else .next s

/-! ### HOUT_MAP and HOUT_GET (Tables 14-5 and 14-6) -/

/-- The output entry at an offset. -/
def outFrom (p : Bytes) (i : Nat) : OutEntry :=
  { src := match fld p (4 * i) 1 with | 1 => .asset | 2 => .fixed | _ => .off
    asset := .ofNat 8 (fld p (4 * i + 1) 1), code := .ofNat 16 (fld p (4 * i + 2) 2) }

/-- The bytes of an output entry. -/
def OutEntry.bytes (o : OutEntry) : Bytes := [o.src.code, o.asset] ++ le 2 o.code.toNat

/-- The asset entry k of a payload. -/
def assetFrom (p : Bytes) (k : Nat) : AssetCfg :=
  let o := 16 + 32 * k
  { model := .ofNat 8 (fld p o 1), score := .ofNat 8 (fld p (o + 1) 1), flags := .ofNat 8 (fld p (o + 2) 1)
    tripCount := .ofNat 8 (fld p (o + 3) 1), streams := .ofNat 96 (fld p (o + 4) 12), alpha := .ofNat 16 (fld p (o + 16) 2)
    tripThresh := .ofNat 16 (fld p (o + 18) 2), alarmOn := .ofNat 16 (fld p (o + 20) 2), alarmOff := .ofNat 16 (fld p (o + 22) 2) }

/-- The bytes of an asset entry. -/
def AssetCfg.bytes (c : AssetCfg) : Bytes :=
  [c.model, c.score, c.flags, c.tripCount] ++ le 12 c.streams.toNat ++ le 2 c.alpha.toNat ++ le 2 c.tripThresh.toNat
    ++ le 2 c.alarmOn.toNat ++ le 2 c.alarmOff.toNat ++ List.replicate 8 0

/-- The values of an asset entry are in range; an unused entry is not read further. -/
def AssetCfg.ok (c : AssetCfg) : Bool :=
  c.model == 0xFF || (decide (c.model.toNat < 8) && decide (c.score.toNat ≤ 3) && c.faultAction != 3
    && c.tripCount != 0 && c.alpha != 0 && decide (c.alpha.toNat ≤ 256) && c.tripThresh != 0
    && decide (c.alarmOff.toNat ≤ c.alarmOn.toNat))

/-- An output entry is in range. -/
def outOk (p : Bytes) (i : Nat) : Bool :=
  let asset := fld p (4 * i + 1) 1; let code := fld p (4 * i + 2) 2
  match fld p (4 * i) 1 with
  | 0 => asset == 0 && code == 0
  | 1 => code == 0 && decide (asset < 8) && (assetFrom p asset).used
  | 2 => asset == 0 && decide (code < 4096)
  | _ => false

/-- The map in force. -/
def mapBytes (s : State) : Bytes :=
  s.bly.map.toList.flatMap OutEntry.bytes ++ s.bly.assets.toList.flatMap fun a => a.cfg.bytes

/-- HOUT_MAP and BELAY_CONFIG are written only in DISARMED and STOPPED (R344). -/
def belayFixed (s : State) : Bool := !(s.bly.phase == .disarmed || s.bly.phase == .stopped)

/-- HOUT_MAP: read, or replace the whole map. An asset whose model, score and streams stay keeps what it has gathered
(in part DEDUCED, log entry 23). -/
def cmdHoutMap (h : Hdr) (p : Bytes) (s : State) : State :=
  serve { opcode := 0x80, rights := fun _ _ => .site, length := fun n => n == 0 || n == 272
          reserved := fun p => (List.range 8).all fun k => fld p (40 + 32 * k) 8 == 0 && bits (fld p (18 + 32 * k) 1) 4 4 == 0 } h p
    (fun s =>
      if p.isEmpty then doneWith h (mapBytes s) s
      else
        refuseIf h.tag
          [(!((List.range 4).all (outOk p) && (List.range 8).all fun k => (assetFrom p k).ok), stParam),
           (belayFixed s, stState)]
          (fun s =>
            let take (k : Nat) : Asset :=
              let c := assetFrom p k
              let a := s.asset k
              if a.cfg.model == c.model && a.cfg.score == c.score && a.cfg.streams == c.streams then { a with cfg := c, inAlarm := a.inAlarm && c.alarmEn }
              else { cfg := c }
            let s := { s with bly := { s.bly with
              map := Vector.ofFn fun i => outFrom p i.val, assets := Vector.ofFn fun k => take k.val, mapped := true } }
            let s := lookBelay s
            doneWith h (mapBytes s) s) s) s

/-- HOUT_GET: 160 bytes. -/
def houtBytes (s : State) : Bytes :=
  (List.range 4).flatMap (fun i =>
    let l := rd s.bly.latches i
    [BitVec.ofNat 8 i, l.level.code, 0, 0] ++ le 2 l.code.toNat ++ [0, 0])
  ++ (List.range 8).flatMap fun k =>
    let a := s.asset k
    [BitVec.ofNat 8 k,
     BitVec.ofNat 8 (flags [a.value.isSome, a.inAlarm, a.inFault, assetModel s a == .running, assetModel s a == .halted, a.restart]),
     a.run, 0] ++ le 2 (a.value.getD 0) ++ le 2 a.lastScore.toNat ++ le 4 a.resultSeq.toNat ++ le 4 a.trips.toNat

/-- HOUT_GET. -/
def cmdHoutGet (h : Hdr) (p : Bytes) (s : State) : State :=
  serve { opcode := 0x81, length := (· == 0) } h p (fun s => doneWith h (houtBytes s) s) s

/-! ### BELAY_CONFIG (Table 14-7) -/

/-- The bytes of the configuration. -/
def BelayConfig.bytes (c : BelayConfig) : Bytes :=
  le 2 c.confirmMs.toNat ++ le 2 c.coastS.toNat ++ [c.coastTach, c.decelPct, c.stopDwell, c.flags] ++ le 4 c.stopSpeed.toNat
    ++ le 2 c.rearmMs.toNat ++ le 2 c.startGuard.toNat

/-- A payload's configuration. -/
def belayFrom (p : Bytes) : BelayConfig :=
  { confirmMs := .ofNat 16 (fld p 0 2), coastS := .ofNat 16 (fld p 2 2), coastTach := .ofNat 8 (fld p 4 1)
    decelPct := .ofNat 8 (fld p 5 1), stopDwell := .ofNat 8 (fld p 6 1), flags := .ofNat 8 (fld p 7 1)
    stopSpeed := .ofNat 32 (fld p 8 4), rearmMs := .ofNat 16 (fld p 12 2), startGuard := .ofNat 16 (fld p 14 2) }

/-- The configuration is in range. -/
def BelayConfig.ok (c : BelayConfig) : Bool :=
  decide (c.confirmMs.toNat ≤ 5000) && c.coastS != 0 && decide (c.coastS.toNat ≤ 300)
    && (decide (c.coastTach.toNat < 4) || c.coastTach == 0xFF) && c.decelPct != 0 && decide (c.decelPct.toNat ≤ 50)
    && c.stopDwell != 0 && decide (c.stopDwell.toNat ≤ 100) && c.deviceAction != 3 && decide (c.rearmMs.toNat ≤ 10000)
    && decide (c.startGuard.toNat ≤ 600)

/-- BELAY_CONFIG: read or write. -/
def cmdBelayConfig (h : Hdr) (p : Bytes) (s : State) : State :=
  serve { opcode := 0x82, rights := fun _ _ => .site, length := fun n => n == 0 || n == 16
          reserved := fun p => bits (fld p 7 1) 3 5 == 0 } h p
    (fun s =>
      if p.isEmpty then doneWith h s.bly.cfg.bytes s
      else
        let c := belayFrom p
        refuseIf h.tag
          [(!c.ok, stParam), (belayFixed s, stState),
           (c.coastTach != 0xFF && (rd s.stm.tachs c.coastTach.toNat).phase == .disabled, stState)]
          (fun s =>
            let s := { s with bly := { s.bly with cfg := c } }
            let s := lookBelay (if s.bly.phase == .stopped then { s with bly := { s.bly with slow := atRest s, dwell := false } } else s)
            doneWith h c.bytes s) s) s

/-! ### Commands of the state machine -/

/-- `STATE` and three reserved bytes. -/
def belayReply (s : State) : Bytes := [s.bly.phase.code, 0, 0, 0]

/-- BELAY_ARM. -/
def cmdBelayArm (h : Hdr) (p : Bytes) (s : State) : State :=
  serve { opcode := 0x83, rights := fun _ _ => .site, length := (· == 0) } h p
    (fun s =>
      if s.bly.phase == .armed then doneWith h (belayReply s) s
      else
        refuseIf h.tag [(s.bly.phase != .disarmed || armFails s != 0, stState)]
          (fun s => let s := lookBelay (enterArmed s); doneWith h (belayReply s) s) s) s

/-- BELAY_DISARM: from REARM it ends the BELAY_REARM in flight. -/
def cmdBelayDisarm (h : Hdr) (p : Bytes) (s : State) : State :=
  serve { opcode := 0x84, rights := fun _ _ => .site, length := (· == 0) } h p
    (fun s =>
      refuseIf h.tag [(!(s.bly.phase == .armed || s.bly.phase == .stopped || s.bly.phase == .rearm), stState)]
        (fun s =>
          let s := lookBelay (endRearm stState 4 (enterBelay .disarmed false { s with bly := { s.bly with startGuard := false } }))
          doneWith h (belayReply s) s) s) s

/-- BELAY_TRIP (R336). -/
def cmdBelayTrip (h : Hdr) (p : Bytes) (s : State) : State :=
  serve { opcode := 0x85, rights := fun _ _ => .anyOwner, length := (· == 4)
          reserved := fun p => fld p 1 3 == 0 && fld p 0 1 / 2 == 0 } h p
    (fun s =>
      let r := tripRequest 2 0xFF none (bit (fld p 0 1) 0) s
      let s := lookBelay r.1
      doneWith h [r.2, s.bly.phase.code, 0, 0] s) s

/-- BELAY_ABORT_HOLD (R337). -/
def cmdBelayAbortHold (h : Hdr) (p : Bytes) (s : State) : State :=
  serve { opcode := 0x86, rights := fun _ _ => .anyOwner, length := (· == 0) } h p
    (fun s =>
      if s.bly.phase != .hold then finish h.tag stState (belayReply s) s
      else
        doneWith h [] (lookBelay (noteFreezes (releaseHold { s with bly := { s.bly with aborts := satInc s.bly.aborts } })))) s

/-- The form of BELAY_REARM. -/
def rearmForm : Form := { opcode := 0x87, rights := fun _ _ => .site, length := (· == 4), reserved := zeros [(1, 3)] }

/-- BELAY_REARM with `OP` 0x01 (R342) (in part DEDUCED, log entry 24). -/
def cmdBelayRearm (h : Hdr) (p : Bytes) (s : State) : State :=
  serve rearmForm h p
    (fun s =>
      if s.bly.phase != .stopped then finish h.tag stState [] s
      else if armFails s != 0 then finish h.tag stState [armFails s, 0, 0, 0] s
      else
        let s := enterBelay .rearm false s
        started h.tag (showBelay { s with bly := { s.bly with rearming := some h.tag } })) s

/-- BELAY_REARM with `OP` 0x02 declares a stop (R343). -/
def cmdBelayDeclareStop (h : Hdr) (p : Bytes) (s : State) : State :=
  serve rearmForm h p
    (fun s =>
      refuseIf h.tag [(!((s.bly.phase == .tripped || s.bly.phase == .coasting) && s.bly.noDecel), stState)]
        (fun s =>
          let s := if s.bly.phase == .tripped then enterCoasting s else s
          doneWith h [] (lookBelay (noteFreezes (enterStopped true s)))) s) s

/-- An ABORT of a BELAY_REARM before its commit point returns Belay to STOPPED (R52). -/
def abortRearm (s : State) : State := showBelay (enterStopped false { s with bly := { s.bly with rearming := none } })

/-- Milliseconds left of the coast timer. -/
def coastLeft (s : State) : Nat :=
  match s.bly.coasting with
  | some t => if s.bly.phase == .tripped || s.bly.phase == .coasting then
      (s.bly.cfg.coastS.toNat * 32768 - since s t) * 1000 / 32768 else 0
  | none => 0

/-- BELAY_STATUS (Table 14-8). -/
def cmdBelayStatus (h : Hdr) (p : Bytes) (s : State) : State :=
  serve { opcode := 0x88, length := (· == 0) } h p
    (fun s =>
      let b := s.bly
      doneWith h ([b.phase.code, b.prev.code, b.cause, b.asset] ++ le 2 (alarmCauses s).toNat ++ le 2 b.alarmMask.toNat
        ++ [BitVec.ofNat 8 (flags [belayOk s, b.alarm]), 0, 0, 0] ++ le 8 b.tState.toNat ++ le 8 b.tCommit.toNat
        ++ le 4 b.v0.toNat ++ le 4 (coastSpeed s) ++ le 4 (coastLeft s) ++ le 2 b.trips.toNat ++ le 2 b.ignored.toNat
        ++ le 2 b.aborts.toNat ++ le 2 b.rechecks.toNat) s) s

/-! ### ALARM_SET -/

/-- Serve an ALARM_SET whose VALUE must satisfy a test (R333). -/
def alarmSet (ok : Nat → Bool) (f : Nat → BelayBlock → BelayBlock) (h : Hdr) (p : Bytes) (s : State) : State :=
  serve { opcode := 0x89, rights := fun _ _ => .site, length := (· == 4), reserved := zeros [(1, 1)] } h p
    (fun s =>
      refuseIf h.tag [(!ok (fld p 2 2), stParam)]
        (fun s =>
          let s := lookBelay { s with bly := f (fld p 2 2) s.bly }
          doneWith h (le 2 (alarmCauses s).toNat ++ le 2 s.bly.alarmMask.toNat) s) s) s

/-- `OP` 0x00 sets ALARM_MASK. -/
def cmdAlarmSetMask (h : Hdr) (p : Bytes) (s : State) : State :=
  alarmSet (fun v => decide (v < 512)) (fun v b => { b with alarmMask := .ofNat 16 v }) h p s

/-- `OP` 0x01 sets HOST. -/
def cmdAlarmSetHost (h : Hdr) (p : Bytes) (s : State) : State :=
  alarmSet (· == 0) (fun _ b => { b with latched := b.latched ||| 0x0080#16 }) h p s

/-- `OP` 0x02 clears HOST. -/
def cmdAlarmClearHost (h : Hdr) (p : Bytes) (s : State) : State :=
  alarmSet (· == 0) (fun _ b => { b with latched := b.latched &&& ~~~0x0080#16 }) h p s

/-- `OP` 0x03 acknowledges the latched causes of VALUE. -/
def cmdAlarmAcknowledge (h : Hdr) (p : Bytes) (s : State) : State :=
  alarmSet (fun v => decide (v < 512)) (fun v b => { b with latched := b.latched &&& ~~~(BitVec.ofNat 16 v) }) h p s

/-! ### The meanings -/

def execHoutMap (h : Hdr) (p : Bytes) (s : State) : Answer := .next (cmdHoutMap h p s)
def execHoutGet (h : Hdr) (p : Bytes) (s : State) : Answer := .next (cmdHoutGet h p s)
def execBelayConfig (h : Hdr) (p : Bytes) (s : State) : Answer := .next (cmdBelayConfig h p s)
def execBelayArm (h : Hdr) (p : Bytes) (s : State) : Answer := .next (cmdBelayArm h p s)
def execBelayDisarm (h : Hdr) (p : Bytes) (s : State) : Answer := .next (cmdBelayDisarm h p s)
def execBelayTrip (h : Hdr) (p : Bytes) (s : State) : Answer := .next (cmdBelayTrip h p s)
def execBelayAbortHold (h : Hdr) (p : Bytes) (s : State) : Answer := .next (cmdBelayAbortHold h p s)
def execBelayRearm (h : Hdr) (p : Bytes) (s : State) : Answer := .next (cmdBelayRearm h p s)
def execBelayDeclareStop (h : Hdr) (p : Bytes) (s : State) : Answer := .next (cmdBelayDeclareStop h p s)
def execBelayStatus (h : Hdr) (p : Bytes) (s : State) : Answer := .next (cmdBelayStatus h p s)
def execAlarmSetMask (h : Hdr) (p : Bytes) (s : State) : Answer := .next (cmdAlarmSetMask h p s)
def execAlarmSetHost (h : Hdr) (p : Bytes) (s : State) : Answer := .next (cmdAlarmSetHost h p s)
def execAlarmClearHost (h : Hdr) (p : Bytes) (s : State) : Answer := .next (cmdAlarmClearHost h p s)
def execAlarmAcknowledge (h : Hdr) (p : Bytes) (s : State) : Answer := .next (cmdAlarmAcknowledge h p s)

end Sys2Proof.Machine
end

