-- ==== Sys2Proof/Machine/Image.lean ====
section
/-! DEFINITION. The Chovy model image: header, layer records, quantisation blocks, and the ordered checks of
Table 10-7 (chapter 10). -/

namespace Sys2Proof.Machine

/-! ### Header (Table 10-3) -/

def imgSize (m : Bytes) : Nat := fld m 8 4
def imgTag (m : Bytes) : Bytes := fixed 16 (slice m 12 16)
def imgVersion (m : Bytes) : Nat := fld m 28 4
def imgOwner (m : Bytes) : Nat := fld m 32 1
def imgLayerCount (m : Bytes) : Nat := fld m 33 1
def imgScores (m : Bytes) : Nat := fld m 34 1
def imgPitches (m : Bytes) : Nat := fld m 35 1
def imgRate (m : Bytes) : Nat := fld m 44 4
def imgInC (m : Bytes) : Nat := fld m 48 2
def imgInL (m : Bytes) : Nat := fld m 50 2
/-- `IN_FMT` is int16. -/
def imgWide (m : Bytes) : Bool := fld m 52 1 == 1
def imgBatch (m : Bytes) : Nat := fld m 53 1
def imgRotBatch (m : Bytes) : Nat := fld m 54 1
def imgActBytes (m : Bytes) : Nat := fld m 56 4

/-! ### Layer records (Tables 10-4 to 10-6) -/

/-- A layer record with its quantisation block; its weight block stays in the image, at `wAt`. -/
structure Layer where
  index : Nat
  type : Nat
  hint : Nat
  srcA : Nat
  srcB : Nat
  inC : Nat
  inL : Nat
  outC : Nat
  outL : Nat
  k : Nat
  stride : Nat
  pitch : Nat
  outType : Nat
  qpOff : Nat
  qpLen : Nat
  wOff : Nat
  wLen : Nat
  qp : Bytes
  wAt : Nat
  deriving DecidableEq, Repr, Inhabited

/-- Layer i of an image. -/
def layerAt (m : Bytes) (i : Nat) : Layer :=
  let r := slice m (fld m 60 4 + 32 * i) 32
  { index := i, type := fld r 0 1, hint := fld r 1 1, srcA := fld r 2 1, srcB := fld r 3 1, inC := fld r 4 2, inL := fld r 6 2
    outC := fld r 8 2, outL := fld r 10 2, k := fld r 12 1, stride := fld r 13 1, pitch := fld r 14 1, outType := fld r 15 1
    qpOff := fld r 16 4, qpLen := fld r 20 4, wOff := fld r 24 4, wLen := fld r 28 4
    qp := slice m (fld m 64 4 + fld r 16 4) (fld r 20 4), wAt := fld m 68 4 + fld r 24 4 }

/-- The layers in order. -/
def imgLayers (m : Bytes) : List Layer := (List.range (imgLayerCount m)).map (layerAt m)

/-- The control word. -/
def Layer.ctrl (l : Layer) : Nat := fld l.qp 0 4

def Layer.isDense (l : Layer) : Bool := l.type == 1
def Layer.isConv (l : Layer) : Bool := l.type == 2
def Layer.isDepthwise (l : Layer) : Bool := l.type == 3
def Layer.isPool (l : Layer) : Bool := l.type == 4
def Layer.isNorm (l : Layer) : Bool := l.type == 5
def Layer.isAct (l : Layer) : Bool := l.type == 6
def Layer.isConcat (l : Layer) : Bool := l.type == 7
def Layer.isProto (l : Layer) : Bool := l.type == 8
def Layer.isScore (l : Layer) : Bool := l.type == 9

/-- CIM-eligible: a DENSE or CONV1D layer with hint CIM (R232). -/
def Layer.cim (l : Layer) : Bool := (l.isDense || l.isConv) && l.hint == 1
/-- A multiply-accumulate layer that only the stream engine runs. -/
def Layer.mac (l : Layer) : Bool := (l.isDense || l.isConv || l.isDepthwise) && l.hint != 1
/-- A layer of the vector unit (Table 10-5). -/
def Layer.vector (l : Layer) : Bool := l.isPool || l.isNorm || l.isAct || l.isConcat || l.isScore

/-- R of Table 10-5; `K` for DWCONV1D. -/
def Layer.rows (l : Layer) : Nat := if l.isConv then l.k * l.inC else if l.isDepthwise then l.k else l.inC * l.inL
/-- Input arrays for each output block, and output blocks (R233). -/
def Layer.nIn (l : Layer) : Nat := (l.rows + 255) / 256
def Layer.nOut (l : Layer) : Nat := (l.outC + 255) / 256
def Layer.arrays (l : Layer) : Nat := l.nIn * l.nOut
/-- Multiply-accumulates per frame (R233). -/
def Layer.macs (l : Layer) : Nat := l.rows * l.outC * (if l.isDense then 1 else l.outL)
/-- Weight bytes that the stream engine streams for the layer, one to a weight (R226, R240). -/
def Layer.streamBytes (l : Layer) : Nat := l.rows * l.outC
/-- `OUT_MODE` is RAW16. -/
def Layer.raw16 (l : Layer) : Bool := bit l.ctrl 10
/-- Column record of an output channel (Table 8-4). -/
def Layer.column (l : Layer) (c : Nat) : Nat := fld l.qp (4 + 8 * c) 8
/-- Look-up tables the block carries. -/
def Layer.tables (l : Layer) : Nat := (l.qpLen - 4 - 8 * l.outC) / 256
/-- Head record and modulator record of a PROTO layer (R277). -/
def Layer.head (l : Layer) : Bytes := slice l.qp 4 40
def Layer.modulator (l : Layer) : Bytes := slice l.qp 44 16
def Layer.nPre (l : Layer) : Nat := l.inC * l.inL
def Layer.nPost (l : Layer) : Nat := l.outC - 2
/-- `N_INIT`. -/
def Layer.nInit (l : Layer) : Nat := bits l.ctrl 0 15

/-- Channels, positions and element type (0 u8, 1 s8, 2 s16) of a source. -/
def srcShape (m : Bytes) (i : Nat) : Nat × Nat × Nat :=
  if i == 0xFF then (imgInC m, imgInL m, if imgWide m then 2 else 1)
  else let l := layerAt m i; (l.outC, l.outL, l.outType)

/-- Entry n of a PROTO layer's initial synapses: PRE, POST, reserved byte, W (R278). -/
def initialEntry (m : Bytes) (l : Layer) (n : Nat) : Nat × Nat × Nat × Int :=
  let e := slice m (l.wAt + 6 * n) 6
  (fld e 0 2, fld e 2 1, fld e 3 1, signed 16 (fld e 4 2))

/-- The initial synapses of a PROTO layer. -/
def initialSynapses (m : Bytes) (l : Layer) : List Synapse :=
  (List.range l.nInit).map fun n => let e := initialEntry m l n; { pre := e.1, post := e.2.1, w := e.2.2.2 }

/-! ### Head and modulator records (Tables 12-4 and 12-5) -/

/-- Reserved bits and values of a head record are clear. -/
def headReserved (r : Bytes) : Bool :=
  fld r 18 1 / 8 == 0 && bits (fld r 18 1) 1 2 != 3 && !bit (fld r 38 1) 7 && fld r 39 1 &&& 0xE5 == 0

/-- Every value of a head record is in range. -/
def headInRange (r : Bytes) : Bool :=
  let wMin := signed 16 (fld r 4 2); let wMax := signed 16 (fld r 6 2); let wInit := signed 16 (fld r 8 2)
  let shift := bits (fld r 38 1) 0 4; let step := bits (fld r 38 1) 4 3
  decide (fld r 0 2 ≤ 32767) && decide (wMin < wMax) && decide (wMin ≤ wInit) && decide (wInit ≤ wMax)
    && decide (1 ≤ fld r 10 2) && decide (fld r 10 2 ≤ 32767) && decide (fld r 12 2 ≤ 32767) && decide (fld r 14 1 ≤ 15)
    && decide (1 ≤ fld r 16 2) && decide (1 ≤ fld r 24 2) && decide (fld r 24 2 ≤ 16384) && decide (fld r 26 2 ≤ 600)
    && decide (fld r 30 1 ≤ 15) && decide (fld r 31 1 ≤ 31) && decide (fld r 32 1 ≤ 15) && decide (1 ≤ fld r 33 1)
    && decide (1 ≤ fld r 34 1) && decide (fld r 35 1 ≤ 16) && decide (shift ≤ 11) && decide (step ≤ 5)
    && decide (shift + step ≤ 14)

/-- Reserved bits of a modulator record are clear; its HOLDOFF is in range. -/
def modReserved (r : Bytes) : Bool := fld r 3 1 / 4 == 0
def modInRange (r : Bytes) : Bool := decide (fld r 6 2 ≤ 3600)

/-! ### The checks of Table 10-7, in order (R238) -/

/-- Sections as [from, to): layer records, quantisation blocks, weights (R229) (in part DESIGN CHOICE, log entry 89). -/
def imgSections (m : Bytes) : List (Nat × Nat) :=
  let ls := imgLayers m
  let far (f : Layer → Nat) := ls.foldl (fun a l => max a (f l)) 0
  [(fld m 60 4, fld m 60 4 + 32 * imgLayerCount m), (fld m 64 4, fld m 64 4 + far fun l => l.qpOff + l.qpLen),
   (fld m 68 4, fld m 68 4 + far fun l => l.wOff + l.wLen)].filter fun x => decide (x.1 < x.2)

/-- Two ranges do not overlap. -/
def apart (x y : Nat × Nat) : Bool := decide (x.2 ≤ y.1) || decide (y.2 ≤ x.1)

/-- Reason 0x02. -/
def sectionsOk (m : Bytes) : Bool :=
  let ss := imgSections m
  imgSize m == m.length && ss.all (fun x => decide (128 ≤ x.1) && decide (x.2 + 64 ≤ m.length)) && decide (ss.Pairwise fun x y => apart x y)

/-- Reason 0x03: the signature verifies under the key that its owner slot holds (R230). -/
def signatureOk (s : State) (m : Bytes) : Bool :=
  let o := rd s.own.slots (imgOwner m)
  decide (imgOwner m < 4) && o.provisioned && ecdsaOk o.signPub (sha256 (m.take (m.length - 64))) (m.drop (m.length - 64))

/-- Reason 0x04: the owner that issued the load, and its fingerprint (R230, R373). -/
def bindingOk (s : State) (owner : BitVec 2) (m : Bytes) : Bool :=
  imgOwner m == owner.toNat && slice m 36 8 == (rd s.own.slots (imgOwner m)).fpr

/-- Reason 0x05 for a layer: no reserved field or value is set. -/
def Layer.reservedOk (m : Bytes) (l : Layer) : Bool :=
  let c := l.ctrl
  decide (l.outType ≤ 2) &&
  (if l.cim then c / 2 ^ 20 == 0 && bits c 8 2 == 0 && bits c 14 2 != 3 && decide (bits c 11 3 ≤ 5)
   else if l.mac || l.isNorm then c / 2 ^ 26 == 0 && bits c 11 13 == 0 && bits c 0 10 == 0 && bits c 24 2 != 3
   else if l.isPool then decide (bits c 30 2 ≤ 1) && bits c 24 6 == 0 && bits c 5 3 == 0
   else if l.isAct then c / 32 == 0
   else if l.isConcat then c == 0
   else if l.isScore then bits c 5 11 == 0
   else if l.isProto then c / 2 ^ 15 == 0 && headReserved l.head && modReserved l.modulator
     && (List.range (l.wLen / 6)).all fun n => (initialEntry m l n).2.2.1 == 0
   else true) &&
  (!(l.cim || l.mac || l.isNorm)
    || (List.range (min l.outC ((l.qpLen - 4) / 8))).all fun e => bits (l.column e) 13 3 == 0 && bits (l.column e) 2 6 == 0)

/-- Reason 0x06 for a layer: sources have lower indices (R231). -/
def Layer.sourcesOk (l : Layer) : Bool :=
  (l.srcA == 0xFF || decide (l.srcA < l.index))
    && (if l.isConcat then l.srcB == 0xFF || decide (l.srcB < l.index) else l.srcB == 0xFE)

/-- Reason 0x07 for a layer (Table 10-5). -/
def Layer.hintOk (l : Layer) : Bool :=
  if l.isDense || l.isConv then l.hint == 1 || l.hint == 2
  else if l.isProto then l.hint == 3
  else decide (1 ≤ l.type) && decide (l.type ≤ 9) && l.hint == 2

/-- Header ranges of Table 10-3, a part of reason 0x08. -/
def headerRanges (m : Bytes) : Bool :=
  let p := imgPitches m; let n := imgInC m * imgInL m
  decide (imgOwner m ≤ 3) && decide (1 ≤ imgLayerCount m) && decide (imgLayerCount m ≤ 64) && decide (1 ≤ imgScores m)
    && decide (imgScores m ≤ 4) && (p == 0 || (decide (2 ≤ p) && decide (p ≤ 64))) && decide (1 ≤ imgRate m)
    && decide (imgRate m ≤ 2400000) && decide (1 ≤ n) && decide (n ≤ 256) && decide (fld m 52 1 ≤ 1) && decide (1 ≤ imgBatch m)
    && decide (imgBatch m ≤ 64) && decide (1 ≤ imgRotBatch m) && decide (imgRotBatch m ≤ 64)

/-- The initial synapses of a PROTO layer obey R278. -/
def synapsesOk (m : Bytes) (l : Layer) : Bool :=
  let es := (List.range l.nInit).map (initialEntry m l)
  let wMin := signed 16 (fld l.head 4 2); let wMax := signed 16 (fld l.head 6 2)
  es.all (fun e => decide (e.1 < l.nPre) && decide (e.2.1 < l.nPost) && decide (wMin ≤ e.2.2.2) && decide (e.2.2.2 ≤ wMax))
    && (es.zip (es.drop 1)).all fun x => decide (x.1.2.1 * 65536 + x.1.1 < x.2.2.1 * 65536 + x.2.1)

/-- Reason 0x08 for a layer: shapes and ranges (Table 10-5, R224, R233, R277, R278). What a quantisation block of another length
holds is not looked at: its length fails. -/
def Layer.shapeOk (m : Bytes) (l : Layer) : Bool :=
  let a := srcShape m l.srcA; let b := srcShape m l.srcB
  let same := l.outC == l.inC
  l.inC == a.1 + (if l.isConcat then b.1 else 0) && l.inL == a.2.1 && (!l.isConcat || b.2.1 == a.2.1)
    && decide (1 ≤ l.inC) && decide (1 ≤ l.inL) && decide (1 ≤ l.outC) && decide (1 ≤ l.outL)
    && (if l.isConv || l.isDepthwise || l.isPool then
          decide (1 ≤ l.k) && decide (l.k ≤ 64) && decide (1 ≤ l.stride) && decide (l.stride ≤ 64) && decide (l.k ≤ l.inL)
            && l.outL == (l.inL - l.k) / l.stride + 1
        else l.k == 1 && l.stride == 1)
    && (if l.isDense then l.outL == 1
        else if l.isDepthwise then same
        else if l.isPool then same && (bits l.ctrl 30 2 == 0 || decide (1 ≤ bits l.ctrl 0 5))
        else if l.isNorm || l.isConcat then same && l.outL == l.inL
        else if l.isAct then same && l.outL == l.inL && l.outType == 0
        else if l.isScore then l.outC == 1 && l.outL == 1 && decide (1 ≤ bits l.ctrl 0 5) && decide (bits l.ctrl 16 16 < a.1)
        else if l.isProto then
          l.outL == 1 && decide (l.nPre ≤ 1024) && decide (3 ≤ l.outC) && decide (l.outC ≤ 258) && l.outType == 2
            && decide (l.nInit ≤ 16384)
            && (l.qpLen != 60 || (headInRange l.head && modInRange l.modulator && decide (l.nInit ≤ fld l.head 24 2)
              && (l.wLen != 6 * l.nInit || synapsesOk m l)))
        else true)
    && (!l.cim || (decide (l.rows ≤ 2048) && bits l.ctrl 17 3 + 1 == l.nIn)) && (!l.mac || decide (l.rows ≤ 65536))

/-- Reason 0x09 for a layer: element types (R234, R235). -/
def Layer.typesOk (m : Bytes) (l : Layer) : Bool :=
  let a := (srcShape m l.srcA).2.2
  if l.cim then a == 0 && (if l.raw16 then l.outType == 2 else decide (l.outType ≤ 1))
  else if l.mac || l.isNorm then
    (bits l.ctrl 24 2 == 2) == (a == 2) && (if l.raw16 then l.isNorm || l.outType == 2 else decide (l.outType ≤ 1))
  else if l.isConcat then a == (srcShape m l.srcB).2.2 && l.outType == a
  else true

/-- Reason 0x0A for a layer: lengths (Table 10-6, R277). -/
def Layer.lengthsOk (l : Layer) : Bool :=
  (l.wLen != 0 || l.wOff == 0) &&
  (if l.cim || l.mac || l.isNorm then
    let extra := l.qpLen - 4 - 8 * l.outC
    decide (4 + 8 * l.outC ≤ l.qpLen) && extra % 256 == 0 && decide (extra ≤ 1024)
      && (l.raw16 || (List.range l.outC).all fun c => decide (bits (l.column c) 0 2 < extra / 256))
      && l.wLen == (if l.cim then 32768 * l.arrays else if l.isNorm then 0 else l.rows * l.outC)
   else if l.isAct then l.qpLen == 260 && l.wLen == 0
   else if l.isScore then l.qpLen == 12 && l.wLen == 0
   else if l.isProto then l.qpLen == 60 && l.wLen == 6 * l.nInit
   else l.qpLen == 4 && l.wLen == 0)

/-- Reason 0x0B for a layer: `PITCH`. -/
def Layer.pitchOk (m : Bytes) (l : Layer) : Bool :=
  if l.pitch == 0xFE then (l.isDense || l.isConv) && l.hint == 2
  else if imgPitches m == 0 then l.pitch == 0xFF
  else decide (l.pitch < imgPitches m)

/-- The first layer that fails a check, as reason and LAYER. -/
def firstBad (m : Bytes) (reason : Byte) (ok : Layer → Bool) : List (Byte × Byte) :=
  match (imgLayers m).find? (fun l => !ok l) with
  | some l => [(reason, BitVec.ofNat 8 l.index)]
  | none => []

/-- A header check. -/
def headerBad (reason : Byte) (ok : Bool) : List (Byte × Byte) := if ok then [] else [(reason, 0xFF)]

/-- Code of this silicon revision (R2). -/
def siliconRev : Nat := 0x21

/-- Reason and LAYER of the first check of Table 10-7 that an image loaded by an owner fails (R238). -/
def imageFault (s : State) (owner : BitVec 2) (m : Bytes) : Option (Byte × Byte) :=
  (headerBad 0x01 (m.take 8 == [0x43, 0x4D, 0x49, 0x31, 1, 0, 128, 0])
    ++ headerBad 0x02 (sectionsOk m)
    ++ headerBad 0x03 (signatureOk s m)
    ++ headerBad 0x04 (bindingOk s owner m)
    ++ headerBad 0x05 ((slice m 72 56).all (· == 0)) ++ firstBad m 0x05 (Layer.reservedOk m)
    ++ firstBad m 0x06 Layer.sourcesOk ++ headerBad 0x06 (imgScores m == (imgLayers m).countP Layer.isScore)
    ++ firstBad m 0x07 Layer.hintOk
    ++ headerBad 0x08 (headerRanges m) ++ firstBad m 0x08 (Layer.shapeOk m)
    ++ firstBad m 0x09 (Layer.typesOk m)
    ++ firstBad m 0x0A Layer.lengthsOk
    ++ firstBad m 0x0B (Layer.pitchOk m)
    ++ headerBad 0x0C (decide (fld m 55 1 ≤ siliconRev))).head?

/-! ### Array images (Table 10-6, R194) -/

/-! ### The image's pages (R216, R248) -/

/-- Page of the NVM that holds page k of a model's image. -/
def Model.pageAt (x : Model) (k : Nat) : Nat := x.pages.getD (k / 16) 0 + k % 16

/-- Pages of the NVM that hold so many bytes of an image from an offset; freed sectors hold none. -/
def Model.pagesFor (x : Model) (off len : Nat) : List Nat :=
  ((List.range ((off + len + 255) / 256)).drop (off / 256)).filterMap fun k => if x.pages.getD (k / 16) 0 == 0 then none else some (x.pageAt k)

/-- Pages of the NVM that hold a model's image. -/
def imagePages (x : Model) : List Nat := x.pagesFor 0 x.image.length

/-- So many bytes of an image from an offset as the NVM gives them; a page that cannot be read gives zeros (R215)
(in part DEDUCED, log entry 181). -/
def readImage (s : State) (x : Model) (off len : Nat) : Bytes :=
  fixed len (((x.pagesFor off len).flatMap (pageBytes s)).drop (off % 256))

/-- A block of a CIM layer's weights: its offset in the image, and its array image (in part DEDUCED, log entry 93). -/
def blockAt (l : Layer) (block : Nat) : Nat := l.wAt + 32768 * block
def arrayImage (s : State) (x : Model) (l : Layer) (block : Nat) : Bytes := readImage s x (blockAt l block) 32768

end Sys2Proof.Machine
end

