-- ==== Sys2Proof/Machine/Layers.lean ====
section
/-! DEFINITION. The arithmetic of the layers: in-memory compute cores (chapter 08), the stream engine and the vector unit
(chapters 09 and 10), and the forward pass of a head (chapter 12). A tensor is a list of elements, channel fastest. -/

namespace Sys2Proof.Machine

/-! ### Element types -/

/-- Saturate to an element type: 0 u8, 1 s8, 2 s16. -/
def satTo (t : Nat) (x : Int) : Int :=
  if t == 0 then clamp 0 255 x else if t == 1 then clamp (-128) 127 x else clamp (-32768) 32767 x

def sat16 (x : Int) : Int := clamp (-32768) 32767 x
def sat8 (x : Int) : Int := clamp (-128) 127 x

/-- A stored element read as another type of its width. -/
def readAs (t : Nat) (x : Int) : Int := if t == 0 then x % 256 else if t == 1 then signed 8 (x % 256).toNat else x

/-- Element i of a tensor. -/
def elem (x : List Int) (i : Nat) : Int := x.getD i 0

/-- (t + 2^(sh-1)) >> sh as an arithmetic shift; t when sh is 0 (R199). -/
def shiftRound (t : Int) (sh : Nat) : Int := if sh == 0 then t else (t + 2 ^ (sh - 1)) / 2 ^ sh

/-! ### Post-processing (R199) -/

/-- Entry i of look-up table `sel` of a layer's block. -/
def Layer.lut (l : Layer) (sel i : Nat) : Int := fld l.qp (4 + 8 * l.outC + 256 * sel + i) 1

/-- Output channel c's element from its accumulator (R199, R225, R235). -/
def Layer.post (l : Layer) (c : Nat) (acc : Int) : Int :=
  let r := l.column c
  let u := shiftRound (acc * signed 16 (bits r 48 16) + signed 32 (bits r 16 32)) (bits r 8 5)
  if l.raw16 then satTo l.outType u
  else readAs l.outType (l.lut (bits r 0 2) (clamp (-128) 127 u + 128).toNat)

/-! ### A pass on a core (R195 to R198, R200) -/

/-- Fields of the CIM control word (Table 8-3). -/
def cimPhases (ctrl : Nat) : Nat := if bit ctrl 16 then 4 else 2
def cimGroup (ctrl : Nat) : Nat := 8 * 2 ^ bits ctrl 14 2
def cimStep (ctrl : Nat) : Nat := 2 ^ bits ctrl 11 3

/-- The activation of a byte (R195). -/
def activation (ctrl : Nat) (v : Int) : Nat := if bit ctrl 16 then v.toNat else min 15 v.toNat

/-- Code of a cell of an array. -/
def cellCode (cells : Bytes) (row col : Nat) : Nat := bits (fld cells (128 * row + col / 2) 1) (4 * (col % 2)) 4

/-- A conversion of a product sum: the code, and 1 where it clips (R197). What reaches the converter differs from the ideal sum
by a free deviation, in 1/256 of a product unit (R200) (in part DESIGN CHOICE, log entry 92). -/
def convert (step p : Nat) (deviation : Int) : Nat × Nat :=
  let x : Int := 256 * p + deviation
  if 15616 * (step : Int) < 2 * x then (31, 1) else ((clamp 0 31 ((2 * x + 256 * step) / (512 * step))).toNat, 0)

/-- The conversions of one column over phases, slices and sub-phases: their sum weighted by 4^p, and the clips. -/
def columnSum (ctrl : Nat) (acts : List Nat) (code : Nat → Nat) (draw base : Nat) : Int × Nat :=
  let g := cimGroup ctrl
  (List.range (cimPhases ctrl * 32)).foldl (fun a n =>
    let p := n / 32; let s := n / 4 % 8; let q := n % 4
    if 32 ≤ q * g then a
    else
      let sum := ((List.range g).map fun i => let r := 32 * s + q * g + i; code r * (acts.getD r 0 / 4 ^ p % 4)).sum
      let k := convert (cimStep ctrl) sum (Config.converterInput draw (base + n))
      (a.1 + 4 ^ p * k.1, a.2 + k.2)) (0, 0)

/-! ### The keyed permutation (R383) -/

/-- Where the weight columns and the weight rows of an array image stand: the physical column of each column and the physical
row of each row. -/
structure Order where
  cols : List Nat
  rows : List Nat
  deriving DecidableEq, Repr, Inhabited

/-- The order of a write: under the seed of the array and its `COUNT`, the columns are shuffled, then the row groups, then the
rows within each group (in part DESIGN CHOICE, log entry 153). -/
def drawOrder (pk : BitVec 256) (array count group : Nat) : Order :=
  let seed := hkdfKey pk [] (ascii "AETHUO-PERM" ++ [BitVec.ofNat 8 array] ++ le 4 count)
  let words := (cutBytes 4 (keyStream (roundKeys (keyBytes seed)) (List.replicate 16 0) 2040)).map leNat
  let n := 256 / group
  let groups := shuffle (List.range n) (words.drop 255)
  { cols := shuffle (List.range 256) words
    rows := (List.range n).flatMap fun k =>
      (shuffle (List.range group) (words.drop (254 + n + k * (group - 1)))).map fun i => group * groups.getD k 0 + i }

/-- An array image as its cells hold it under an order. -/
def permuted (o : Order) (image : Bytes) : Bytes :=
  let codes := (List.range 65536).foldl (fun (v : Array Nat) k =>
    v.setIfInBounds (256 * o.rows.getD (k / 256) 0 + o.cols.getD (k % 256) 0) (cellCode image (k / 256) (k % 256))) (Array.replicate 65536 0)
  (List.range 32768).map fun i => BitVec.ofNat 8 (codes.getD (2 * i) 0 + 16 * codes.getD (2 * i + 1) 0)

/-- acc of the 256 columns of one array for one input block, and its clips. The input router drives the rows in their order,
and the output routing undoes that of the columns (R383); the reference columns stand where they are. -/
def arrayPass (ctrl : Nat) (a : CimArray) (o : Order) (acts : List Nat) (draw base : Nat) : List Int × Nat :=
  let driven := (List.range 256).map fun r => acts.getD (o.rows.idxOf r) 0
  let refs := (List.range 8).map fun j => columnSum ctrl driven (fun _ => a.refCols.getD j 8) draw (base + 128 * (256 + j))
  let cols := (List.range 256).map fun c => columnSum ctrl driven (fun r => cellCode a.cells r c) draw (base + 128 * c)
  ((List.range 256).map fun c => (cols.getD (o.cols.getD c 0) (0, 0)).1 - (refs.getD (o.cols.getD c 0 / 32) (0, 0)).1,
   (cols.map Prod.snd).sum + (refs.map Prod.snd).sum)

/-- An array with the order of its last write, for a layer's control word; its owner's PK gives it again (R383, R385). -/
def orderedArray (s : State) (ctrl a : Nat) : CimArray × Order :=
  let x := rd s.mdl.arrays a
  let d := x.drawn.getD (0, 0)
  (x, drawOrder (rd s.own.slots d.1).pk a d.2 (cimGroup ctrl))

/-- Conversions of one array for one vector: every column and reference column in every slice, phase and sub-phase. -/
def conversions (ctrl : Nat) : Nat := 264 * 8 * cimPhases ctrl * (32 / cimGroup ctrl)

/-- Lanes of one output block for each vector, from its input arrays, and the clips of each array (R198). -/
def blockPass (ctrl : Nat) (arrays : List (CimArray × Order)) (draw : Nat) (vectors : List (List Int)) : List (List Int) × List Nat :=
  let passes := vectors.zipIdx.map fun v => arrays.zipIdx.map fun a =>
    arrayPass ctrl a.1.1 a.1.2 (((v.1.drop (256 * a.2)).take 256).map (activation ctrl)) draw (128 * 264 * (v.2 * arrays.length + a.2))
  (passes.map fun ps => (List.range 256).map fun c => (ps.map fun p => p.1.getD c 0).sum,
   (List.range arrays.length).map fun i => (passes.map fun ps => (ps.getD i ([], 0)).2).sum)

/-- The input vectors of a layer for one frame, one for each output position (R232, R233). -/
def Layer.vectors (l : Layer) (x : List Int) : List (List Int) :=
  if l.isConv then (List.range l.outL).map fun j => (x.drop (j * l.stride * l.inC)).take (l.k * l.inC) else [x]

/-- The elements of output block b of a CIM layer for one frame, from the lanes of its vectors. -/
def Layer.blockOut (l : Layer) (b : Nat) (lanes : List (List Int)) : List (List Int) :=
  lanes.map fun v => ((List.range 256).filter fun c => decide (256 * b + c < l.outC)).map fun c => l.post (256 * b + c) (elem v c)

/-- A CIM layer's tensor from the elements of its blocks: for each position the blocks' channels in order. -/
def joinBlocks (blocks : List (List (List Int))) (positions : Nat) : List Int :=
  (List.range positions).flatMap fun j => blocks.flatMap fun b => b.getD j []

/-! ### The stream engine (R224, R225, R240) -/

/-- Weight of an output channel and reduction index in a layer's weight block: int8, or the 4-bit code of a demoted CIM layer
widened. -/
def Layer.weight (w : Bytes) (l : Layer) (c r : Nat) : Int :=
  if l.cim then cellCode (slice w (32768 * (c / 256 * l.nIn + r / 256)) 32768) (r % 256) (c % 256) - 8
  else signed 8 (fld w (l.rows * c + r) 1)

/-- Wrap to signed 40 bits. -/
def wrap40 (x : Int) : Int := signed 40 (x % 2 ^ 40).toNat

/-- A layer of the stream engine for one frame, from its weight block: sums in 40 bits, post-processed by the steps of R199. -/
def streamLayer (m : Bytes) (l : Layer) (x : List Int) : List Int :=
  let inputs := if l.cim then x.map fun v => (activation l.ctrl v : Int) else x.map (readAs (bits l.ctrl 24 2))
  let finish (c : Nat) (e : Int) : Int :=
    let e := wrap40 e
    l.post c (if l.cim then (2 * e + cimStep l.ctrl) / (2 * cimStep l.ctrl) else e)
  if l.isDepthwise then
    (List.range l.outL).flatMap fun j => (List.range l.outC).map fun c =>
      finish c ((List.range l.k).map fun k => l.weight m c k * elem inputs ((j * l.stride + k) * l.inC + c)).sum
  else
    (l.vectors inputs).flatMap fun v => (List.range l.outC).map fun c =>
      finish c (v.zipIdx.map fun a => a.1 * l.weight m c a.2).sum

/-! ### The vector unit and SCORE (R235, R236) -/

/-- Wrap to signed 48 bits (in part DEDUCED, log entry 92). -/
def wrap48 (x : Int) : Int := signed 48 (x % 2 ^ 48).toNat

/-- Elements of a POOL window. -/
def poolWindow (l : Layer) (x : List Int) (j c : Nat) : List Int :=
  (List.range l.k).map fun k => elem x ((j * l.stride + k) * l.inC + c)

/-- An element of type t holds a value. -/
def holds (t : Nat) (v : Int) : Bool := satTo t v == v

/-- One POOL element. -/
def poolElem (l : Layer) (x : List Int) (j c : Nat) : Int :=
  let w := poolWindow l x j c
  if bits l.ctrl 30 2 == 0 then
    let v := w.foldl max (w.headD 0)
    if holds l.outType v then v else Config.outsideType l.outType v
  else satTo l.outType (shiftRound (w.sum * bits l.ctrl 8 16) (bits l.ctrl 0 5))

/-- SCORE (R236). -/
def scoreIndex (l : Layer) (x : List Int) : Int :=
  let sh := bits l.ctrl 0 5
  let t := wrap48 ((elem x (bits l.ctrl 16 16) - signed 32 (fld l.qp 4 4)) * signed 32 (fld l.qp 8 4) + 2 ^ (sh - 1))
  clamp 0 65535 (t / 2 ^ sh)

/-- A layer of the vector unit for one frame, from its sources; `t` is the type of the first. -/
def vectorLayer (l : Layer) (t : Nat) (x y : List Int) : List Int :=
  if l.isPool then (List.range l.outL).flatMap fun j => (List.range l.outC).map (poolElem l x j)
  else if l.isNorm then (x.map (readAs (bits l.ctrl 24 2))).zipIdx.map fun e => l.post (e.2 % l.outC) e.1
  else if l.isAct then
    x.map fun v => (fld l.qp (4 + (if t == 0 then v else if t == 1 then v + 128
      else clamp (-128) 127 (v / 2 ^ bits l.ctrl 0 5) + 128).toNat) 1 : Int)
  else if l.isConcat then
    let b := l.outC - x.length / max 1 l.outL
    (List.range l.outL).flatMap fun j => (x.drop (j * (l.outC - b))).take (l.outC - b) ++ (y.drop (j * b)).take b
  else [scoreIndex l x]

/-! ### The forward pass of a head (R279, R280) -/

/-- Step 1: the p vector. -/
def protoInputs (hrec : Bytes) (x : List Int) : List Nat :=
  x.map fun v => (clamp 0 255 ((v - signed 16 (fld hrec 28 2)) / 2 ^ fld hrec 30 1)).toNat

/-- Steps 2 and 3 on the digital path. -/
def protoDigital (hrec : Bytes) (syn : List Synapse) (nPost : Nat) (p : List Nat) : List Int :=
  (List.range nPost).map fun j =>
    sat16 (shiftRound (wrap40 ((syn.filter (·.post == j)).map fun z => z.w * (p.getD z.pre 0 : Int)).sum) (fld hrec 31 1))

/-- Control word of a consolidated copy (R280). -/
def copyCtrl (hrec : Bytes) (nPre : Nat) : Nat :=
  ((nPre + 255) / 256 - 1) * 2 ^ 17 + 2 ^ 16 + 2 ^ 14 + bits (fld hrec 38 1) 4 3 * 2 ^ 11 + 2 ^ 10 + 255

/-- Step 3 from the lanes of a copy's pass (R280). -/
def protoCopy (hrec : Bytes) (nPost : Nat) (lanes : List Int) : List Int :=
  (List.range nPost).map fun j =>
    sat16 (shiftRound (elem lanes j * 2 ^ (bits (fld hrec 38 1) 4 3 + bits (fld hrec 38 1) 0 4)) (fld hrec 31 1))

/-- Steps 4 and 5: the outputs novelty, j* and the y_j. -/
def protoOut (hrec : Bytes) (y : List Int) : List Int :=
  let m := y.foldl max (y.headD 0)
  [sat16 (signed 16 (fld hrec 36 2) - m), (y.idxOf m : Int)] ++ y

end Sys2Proof.Machine
end

