-- ==== Sys2Proof/Machine/Place.lean ====
section
/-! DEFINITION. The placement decision: free arrays, layouts, the four-step rule with its rate and wear tests, and the
wear accounts (chapters 10 and 13). -/

namespace Sys2Proof.Machine

/-! ### Orders -/

/-- Insert into a list that rises by a key, behind equals. -/
def insertBy {α : Type} (key : α → Nat) (x : α) : List α → List α
  | [] => [x]
  | y :: ys => if key x < key y then x :: y :: ys else y :: insertBy key x ys

/-- Sort by a rising key; equals keep their order. -/
def sortBy {α : Type} (key : α → Nat) (xs : List α) : List α := xs.foldl (fun acc x => insertBy key x acc) []

/-! ### Arrays and accounts (R308, R309, R311) -/

/-- Array 8n + m. -/
def State.array (s : State) (a : Nat) : CimArray := rd s.mdl.arrays a

/-- Change an array. -/
def onArray (a : Nat) (f : CimArray → CimArray) (s : State) : State :=
  { s with mdl := { s.mdl with arrays := upd s.mdl.arrays a f } }

/-- Core n. -/
def State.core (s : State) (n : Nat) : Core := rd s.lrn.cores n

/-- Change a core. -/
def onCore (n : Nat) (f : Core → Core) (s : State) : State := { s with lrn := { s.lrn with cores := upd s.lrn.cores n f } }

/-- Program cycles an array is guaranteed. -/
def guaranteed : Nat := 30000

/-- The array is WORN. -/
def CimArray.worn (a : CimArray) : Bool := decide (guaranteed ≤ a.count)

/-- D, the remaining days (R308). -/
def remainingDays (s : State) : Nat := max (s.lrn.lifeDays.toNat - s.lrn.daysUsed.toNat) 30

/-- Sum over arrays of 30 000 - COUNT: their allowances times D. -/
def allowanceSum (s : State) (arrays : List Nat) : Nat := (arrays.map fun a => guaranteed - (s.array a).count).sum

/-- An array's allowance in units of 2^-16 writes per day. -/
def allowance (s : State) (a : Nat) : Nat := (guaranteed - (s.array a).count) * 65536 / remainingDays s

/-- Arrays that a model's placement holds. -/
def Placement.arrays (p : Placement) : List Nat := (p.layers.flatMap (·.arrays) ++ p.rotSet).eraseDups

/-- Arrays of the copies of a model's heads (R296). -/
def copyArrays (s : State) (m : Nat) : List Nat :=
  s.lrn.heads.toList.flatMap fun h => if h.user.any (·.1 == m) then (h.copy.map (·.arrays)).getD [] else []

/-- Arrays a model holds on this chip. -/
def modelArrays (s : State) (m : Nat) : List Nat := ((s.model m).placement.arrays ++ copyArrays s m).eraseDups

/-- Arrays that any placement or copy holds. -/
def heldArrays (s : State) : List Nat := (List.range 8).flatMap (modelArrays s)

/-- Neither on a fenced core nor WORN. -/
def healthyArray (s : State) (a : Nat) : Bool := !(s.core (a / 8)).fenced && !(s.array a).worn

/-- Order of R311: lowest COUNT, then core, then array (in part DESIGN CHOICE, log entry 87). -/
def arrayKey (s : State) (a : Nat) : Nat := (s.array a).count * 64 + a

/-- Free healthy arrays. -/
def freeArrays (s : State) : List Nat :=
  let held := heldArrays s
  (List.range 64).filter fun a => healthyArray s a && !held.contains a

/-- Healthy cores. -/
def healthyCores (s : State) : Nat := s.lrn.cores.toList.countP (!·.fenced)

/-- The charge of a write on a core: two cycles while its reading is above 85 degrees (R307). -/
def charge (s : State) (core : Nat) : Nat := if (s.core core).reading.any (fun r => decide (340 < r)) then 2 else 1

/-- Every write of a decision can be granted (R309). -/
def grantable (s : State) (arrays : List Nat) : Bool :=
  arrays.all fun a => healthyArray s a
    && decide (arrays.count a * charge s (a / 8) * 65536 ≤ (s.array a).balance)

/-- Charge program cycles to an array (R309); one that reaches 30 000 becomes WORN. -/
def chargeCycles (a k : Nat) (s : State) : State :=
  let was := (s.array a).worn
  let s := onArray a (fun x => { x with count := x.count + k, balance := x.balance - k * 65536 }) s
  if !was && (s.array a).worn then
    let s := raise 0xC3 true ([BitVec.ofNat 8 a, 0, 0, 0] ++ le 4 (s.array a).count) s
    cairn 0xC003 (0x0200#16 ||| BitVec.ofNat 16 a) ([0, 0, 0, 0] ++ le 4 (s.array a).count) s
  else s

/-- Charge one write. -/
def chargeArray (a : Nat) (s : State) : State := chargeCycles a (charge s (a / 8)) s

/-- Columns of an array that spare columns have replaced: its retired-column map (R319). -/
def CimArray.retired (a : CimArray) : Nat := a.spareFor.eraseDups.length

/-- An update of WEAR on its way commits this. -/
def wearPending (s : State) (why : WearWhy) : Bool :=
  (s.nvm.posted ++ s.nvm.waiting).any fun o => match o.job with
    | .wearCommit _ w => w == why
    | _ => false

/-- A core's fence has its record in WEAR, or in an update on its way or being posted (R322, R323). -/
def fenceKept (s : State) (why : WearWhy) (n : Nat) : Bool :=
  (s.core n).fenced && (why == .fence n || (s.core n).fencing.isNone || wearPending s (.fence n))
    && why != .unfence n && !wearPending s (.unfence n)

/-- The configuration that an update of WEAR keeps: `LIFE_DAYS`, `DAYS_USED` and `BANK_DAYS`, those of a WEAR_CONFIG under way
where there is one. -/
def wearSettings (s : State) : Bytes :=
  match s.lrn.wearSet with
  | some (_, p) => slice p 0 2 ++ le 2 (satAdd s.lrn.daysUsed (fld p 4 2)).toNat ++ slice p 2 1
  | none => le 2 s.lrn.lifeDays.toNat ++ le 2 s.lrn.daysUsed.toNat ++ [s.lrn.bankDays]

/-- An array's account and columns in WEAR: 20 bytes. -/
def accountBytes (a : CimArray) : Bytes :=
  le 4 a.count ++ le 8 a.balance ++ [BitVec.ofNat 8 a.spareFor.length] ++ fixed 4 (a.spareFor.map (BitVec.ofNat 8)) ++ le 2 a.failing
    ++ [BitVec.ofNat 8 a.spareBad]

/-- The text of WEAR: the configuration, the accounts and columns of every array and the cores' fence records (Table 9-4)
(in part DESIGN CHOICE, log entry 156). -/
def wearBytes (s : State) (why : WearWhy) : Bytes :=
  wearSettings s ++ s.mdl.arrays.toList.flatMap accountBytes
    ++ s.lrn.cores.toList.zipIdx.flatMap fun c => [BitVec.ofNat 8 (flags [fenceKept s why c.2]), c.1.cause] ++ le 8 c.1.tFence.toNat

/-- What WEAR gives to an array, and to a core, once control SRAM has been lost (R310). -/
def readAccount (b : Bytes) (a : Nat) : CimArray :=
  let x := slice b (5 + 20 * a) 20
  { count := fld x 0 4, balance := fld x 4 8, spareFor := ((slice x 13 4).take (fld x 12 1)).map (·.toNat), failing := fld x 17 2
    spareBad := fld x 19 1 }
def readFence (b : Bytes) (n : Nat) : Core :=
  let x := slice b (1285 + 10 * n) 10
  { fenced := bit (fld x 0 1) 0, cause := x.getD 1 0, tFence := BitVec.ofNat 64 (fld x 2 8) }

/-- Post an update of WEAR by copy and commit record (R310) (in part DEDUCED, log entry 113). -/
def postWear (why : WearWhy) (tag : Option Tag) (s : State) : State :=
  let mark (o : NvmOp) : NvmOp := match o.job with
    | .recordCommit _ c => { o with job := .wearCommit c why }
    | _ => o
  postNvm ((recordOps .wear (wearBytes s why) tag false s).map mark) s

/-- A refused grant is counted. -/
def countRefusal (s : State) : State := { s with lrn := { s.lrn with refused := satInc s.lrn.refused } }

/-! ### Layouts (R203, R311) -/

/-- Place blocks of given sizes, each within one core, on cores given by their free arrays in the order of R311: each
block on the core whose next free array comes first, trying the others where a later block finds no place. -/
def pack (key : Nat → Nat) : List Nat → List (List Nat) → Option (List (List Nat))
  | [], _ => some []
  | n :: ns, cores =>
    let open' := (List.range cores.length).filter fun j => decide (n ≤ (cores.getD j []).length) && n != 0
    (sortBy (fun j => key ((cores.getD j []).headD 0)) open').findSome? fun j =>
      (pack key ns (cores.set j ((cores.getD j []).drop n))).map fun rest => sortBy id ((cores.getD j []).take n) :: rest

/-- A pool of arrays, by core, in the order of R311. -/
def byCore (s : State) (pool : List Nat) : List (List Nat) :=
  (List.range 8).map fun c => sortBy (arrayKey s) (pool.filter fun a => a / 8 == c)

/-- A layout: arrays of the Resident and of the Rotated layers, by layer, and the rotation set. -/
structure Layout where
  resident : List (Nat × List Nat) := []
  rotated : List (Nat × List Nat) := []
  set : List Nat := []
  deriving DecidableEq, Repr, Inhabited

/-- The arrays a list of blocks gives to a layer, block by block. -/
def gather (blocks : List (Nat × Nat × Nat)) (got : List (List Nat)) (layer : Nat) : List Nat :=
  ((blocks.zip got).filter fun x => x.1.1 == layer).flatMap (·.2)

/-- The largest of the Rotated layers (R244) (in part DESIGN CHOICE, log entry 88). -/
def largest (rot : List Layer) : Option Layer :=
  rot.foldl (fun b l => match b with
    | some x => if x.arrays < l.arrays || (x.arrays == l.arrays && decide (x.nIn < l.nIn)) then some l else some x
    | none => some l) none

/-- A layout in which some Resident layers keep their arrays; a rotation set that fits is `old`. -/
def layoutWith (s : State) (pool : List Nat) (res rot : List Layer) (pins : List (Nat × List Nat)) (old : List Nat) : Option Layout :=
  let taken := pins.flatMap (·.2)
  let free := pool.filter fun a => !taken.contains a
  let big := largest rot
  let within (set : List Nat) (l : Layer) : Option (Nat × List Nat) :=
    (pack (arrayKey s) (List.replicate l.nOut l.nIn) (byCore s set)).map fun g => (l.index, g.flatten)
  let keep := !old.isEmpty && big.any (·.arrays == old.length) && old.all free.contains && rot.all fun l => (within old l).isSome
  let need := (res.filter fun l => pins.all (·.1 != l.index)) ++ if keep then [] else big.toList
  let blocks := (sortBy Layer.index need).flatMap fun l => (List.range l.nOut).map fun b => (l.index, b, l.nIn)
  match pack (arrayKey s) (blocks.map (·.2.2)) (byCore s (if keep then free.filter fun a => !old.contains a else free)) with
  | none => none
  | some got =>
    let set := if keep then old else (big.map fun l => gather blocks got l.index).getD []
    let others := rot.map fun l => if !keep && big.any (·.index == l.index) then some (l.index, set) else within set l
    if others.any Option.isNone then none
    else some {
      resident := res.map fun l => (l.index, ((pins.find? (·.1 == l.index)).map (·.2)).getD (gather blocks got l.index))
      rotated := others.filterMap id, set := set }

/-- Arrays that a layer is Resident on now. -/
def residentOn (x : Model) (layer : Nat) : List Nat :=
  let p := x.placement.layers.getD layer {}
  if p.place == .resident then p.arrays else []

/-- Bytes of a layer's output for one frame. -/
def outBytes (img : Bytes) (i : Nat) : Nat :=
  let s := srcShape img i
  s.1 * s.2.1 * (if s.2.2 == 2 then 2 else 1)

/-- Landing areas of a Ridge-Partitioned model on this chip: two batches of every source that lies on another chip, and on
the entry chip of the returning scores (R361). -/
def landingBytes (x : Model) : Nat :=
  let away (i : Nat) : Bool := match (x.placement.layers.getD i {}).place with | .away _ => true | _ => false
  let ls := imgLayers x.image
  let here := ls.filter fun l => !away l.index
  let ins := (here.flatMap fun l => [l.srcA] ++ (if l.isConcat then [l.srcB] else [])).eraseDups
  let scores := if away 0 then [] else (ls.filter fun l => l.isScore && away l.index).map Layer.index
  if x.placement.mode != 4 then 0
  else 2 * imgBatch x.image * (((ins.filter fun i => decide (i < ls.length) && away i) ++ scores).map (outBytes x.image)).sum

/-- A placed model's reserve of activation SRAM (R255, R361). -/
def reserveBytes (x : Model) : Nat := imgActBytes x.image + landingBytes x

/-- The arrays a decision for a model may write, and those a layer may stay on: free ones and the model's own, with
others that count as free (R244). -/
def pools (s : State) (m : Nat) (extra : List Nat) : List Nat × List Nat :=
  let own := (s.model m).placement.arrays ++ extra
  let pool := (List.range 64).filter fun a => healthyArray s a && ((freeArrays s).contains a || own.contains a)
  (pool, pool ++ own.filter fun a => !(s.core (a / 8)).fenced)

/-- A layout of Resident and Rotated layers. Every layer that can stay where it is stays, taken in layer order, and so does the
rotation set; one whose weights NO_BACKUP has freed must (R248, R249). -/
def layout (s : State) (m : Nat) (extra : List Nat) (res rot : List Layer) : Option Layout :=
  let x := s.model m
  let p := pools s m extra
  let stays (l : Layer) : Bool := !(residentOn x l.index).isEmpty && (residentOn x l.index).all p.2.contains
  let pin (ls : List Layer) := ls.map fun l => (l.index, residentOn x l.index)
  let bound := res.filter fun l => x.freed.contains l.index
  let fits (pins : List (Nat × List Nat)) : Option Layout := layoutWith s p.1 res rot pins x.placement.rotSet
  if rot.any (fun l => x.freed.contains l.index) || bound.any (fun l => !stays l) then none
  else fits ((pin (res.filter fun l => stays l && !x.freed.contains l.index)).foldl (fun pins q =>
    if (fits (pins ++ [q])).isSome then pins ++ [q] else pins) (pin bound))

/-! ### The rate test (R226, R245) and the wear test (R246) -/

/-- Stream-engine cycles of a layer for a batch, from staging or from the NVM (R226, Table 9-7). -/
def streamCycles (img : Bytes) (l : Layer) (staged : Bool) : Nat :=
  let m := l.macs * imgBatch img * (if (srcShape img l.srcA).2.2 == 2 then 2 else 1)
  let w := l.streamBytes
  max ((m + 1023) / 1024) (if staged then (w + 191) / 192 else (5 * w + 15) / 16) + 64

/-- Staging bytes that a model's streamed layers and shards take (R242, R365) (in part DEDUCED, log entry 86). -/
def stagedBytes (x : Model) : Nat :=
  (x.placement.layers.zipIdx.map fun p => match p.1.place with
    | .staged => (layerAt x.image p.2).streamBytes
    | .circulated => 262144 + (layerAt x.image p.2).streamBytes / max 1 (imgPitches x.image)
    | _ => 0).sum

/-- Array images that wait to be written. -/
def pendingWrites (s : State) : Nat := (s.mdl.writes.map (·.writes.length)).sum

/-- Staging room left beside models other than m. -/
def stagingRoom (s : State) (m : Nat) (writes : Nat) : Nat :=
  2097152 - 32768 * (pendingWrites s + writes)
    - (((List.range 8).filter (· != m)).map fun n => stagedBytes (s.model n)).sum

/-- The source of each streamed layer in layer order: staging while it has room (R242). -/
def sources (room : Nat) : List Layer → List (Nat × Bool)
  | [] => []
  | l :: ls => if l.streamBytes ≤ room then (l.index, true) :: sources (room - l.streamBytes) ls
               else (l.index, false) :: sources room ls

/-- Cycles of a batch over sources. -/
def batchCycles (img : Bytes) (srcs : List (Nat × Bool)) : Nat :=
  (srcs.map fun x => streamCycles img (layerAt img x.1) x.2).sum

/-- Stream cycles per second of a placement (R245). -/
def loadRate (img : Bytes) (cycles : Nat) : ℚ := (cycles * imgRate img : ℚ) / (100 * max 1 (imgBatch img) : ℚ)

/-- The sum of R245 over the PLACED and RUNNING models other than m. -/
def streamLoad (s : State) (m : Nat) : ℚ :=
  (((List.range 8).filter (· != m)).map fun n =>
    let x := s.model n
    if x.phase == .placed || x.phase.runs then loadRate x.image x.placement.batchCycles else 0).sum

/-- WR of R246: array writes per day; 0 when one layer is Rotated. -/
def wearRate (img : Bytes) (rot : List Layer) : ℚ :=
  if rot.length ≤ 1 then 0
  else ((rot.map Layer.arrays).sum * imgRate img * 86400 : ℚ) / (100 * max 1 (imgRotBatch img) : ℚ)

/-- The daily allowances of a set of arrays. -/
def setAllowance (s : State) (set : List Nat) : ℚ := (allowanceSum s set : ℚ) / (remainingDays s : ℚ)

/-- A quotient as reported: rounded down, saturating at 32 bits. -/
def report (x : ℚ) : Nat := min 0xFFFFFFFF x.floor.toNat

/-! ### The four-step rule (R244) -/

/-- A placement decided: its step, layout, demoted layers and stream sources. -/
structure Found where
  step : Byte
  lay : Layout
  srcs : List (Nat × Bool)
  deriving DecidableEq, Repr, Inhabited

/-- What the rule finds, with the figures of Table 10-10. -/
structure Verdict where
  found : Option Found
  free : Nat := 0
  cycles : Nat := 0
  wr : ℚ := 0
  allow : ℚ := 0
  steps : Byte := 0

/-- The layers of a model that this chip places: all of a single-chip model, its pitch's, or the replicated ones. -/
def placedHere (mine : Nat → Bool) (img : Bytes) : List Layer := (imgLayers img).filter fun l => mine l.pitch

/-- Stream sources after some layers are demoted and so many arrays are to be written. -/
def demotedSources (s : State) (m : Nat) (ls : List Layer) (lay : Layout) : List (Nat × Bool) :=
  let writes := lay.resident.flatMap fun r => r.2.zipIdx.filter fun a =>
    (s.array a.1).use != some { model := m, layer := r.1, block := a.2 }
  sources (stagingRoom s m writes.length) (ls.filter fun l => l.mac
    || (l.cim && lay.resident.all (·.1 != l.index) && lay.rotated.all (·.1 != l.index)))

/-- Decide a placement of an image on a model slot (R244 to R247, R324). -/
def fourSteps (s : State) (m : Nat) (img : Bytes) (opts : Word32) (mine : Nat → Bool) (extra : List Nat) : Verdict :=
  let ls := placedHere mine img
  let cim := ls.filter Layer.cim
  let movable := cim.filter fun l => !(s.model m).freed.contains l.index
  let free := (pools s m extra).1.length
  let found (step : Byte) (lay : Layout) : Found := { step := step, lay := lay, srcs := demotedSources s m ls lay }
  match layout s m extra cim [] with
  | some lay => { found := some (found 1 lay), free := free }
  | none =>
    let order := (sortBy (fun l => l.macs * 256 + (255 - l.index)) movable).map Layer.index
    let second := (List.range order.length).findSome? fun k =>
      (layout s m extra (cim.filter fun l => !(order.take (k + 1)).contains l.index) []).map (found 2)
    let cycles := (second.map fun f => batchCycles img f.srcs).getD 0
    let rateOk := healthyCores s == 0 || decide (loadRate img cycles + streamLoad s m ≤ 250000000)
    let noDemote := opts.getLsbD 0; let noRotate := opts.getLsbD 1
    let perFrame := (cycles + imgBatch img - 1) / max 1 (imgBatch img)
    let bits2 := flags2 noDemote (second.isSome && !rateOk) second.isNone
    match second with
    | some f =>
      if rateOk && !noDemote then { found := some f, free := free, cycles := perFrame }
      else rotate ls cim movable free perFrame bits2 noRotate found
    | none => rotate ls cim movable free perFrame bits2 noRotate found
where
  /-- `STEPS` bits 0 to 2. -/
  flags2 (a b c : Bool) : Nat := flags [a, b, c]
  /-- Steps 3 and 4. -/
  rotate (_ls cim movable : List Layer) (free perFrame bits2 : Nat) (noRotate : Bool) (found : Byte → Layout → Found) : Verdict :=
    let down := sortBy (fun l => (2 ^ 64 - l.macs) * 256 + l.index) movable
    let kept := down.foldl (fun kept l =>
      let keep := kept ++ [l.index]
      if (layout s m extra (cim.filter fun x => keep.contains x.index) (cim.filter fun x => !keep.contains x.index)).isSome
      then keep else kept) ((cim.filter fun l => !movable.contains l).map Layer.index)
    let rot := cim.filter fun x => !kept.contains x.index
    match (if rot.isEmpty then none else layout s m extra (cim.filter fun x => kept.contains x.index) rot) with
    | none => { found := none, free := free, cycles := perFrame
                steps := BitVec.ofNat 8 (bits2 + 16 + (if noRotate then 32 else 0)) }
    | some lay =>
      let wr := wearRate img rot; let allow := setAllowance s lay.set
      if wr ≤ allow && !noRotate then { found := some (found 3 lay), free := free, cycles := perFrame, wr := wr, allow := allow }
      else { found := none, free := free, cycles := perFrame, wr := wr, allow := allow
             steps := BitVec.ofNat 8 (bits2 + (if wr ≤ allow then 0 else 8) + (if noRotate then 32 else 0)) }

/-- The reply of MODEL_TOO_LARGE (Table 10-10); `chip` is 0xFF for a single chip (in part DEDUCED, log entry 102). -/
def tooLarge (img : Bytes) (v : Verdict) (chip : Byte) : Bytes :=
  le 2 (min 0xFFFF ((imgLayers img).filter Layer.cim |>.map Layer.arrays).sum) ++ le 2 v.free ++ le 4 (min 0xFFFFFFFF v.cycles)
    ++ le 4 (report v.wr) ++ le 4 (report v.allow) ++ [v.steps, chip, 0, 0]

/-! ### A placement and its writes -/

/-- Where layer l runs under a decision (R239, Table 10-12). -/
def placeOf (f : Found) (mine : Nat → Bool) (chipOf : Nat → Nat) (l : Layer) : LayerPlace :=
  if l.pitch == 0xFE && !mine l.pitch then { place := .circulated }
  else if !mine l.pitch then { place := .away (chipOf l.pitch) }
  else match f.lay.resident.find? (·.1 == l.index), f.lay.rotated.find? (·.1 == l.index), f.srcs.find? (·.1 == l.index) with
    | some r, _, _ => { place := .resident, arrays := r.2 }
    | none, some r, _ => { place := .rotated, arrays := r.2 }
    | none, none, some r => { place := if r.2 then .staged else .fromNvm }
    | none, none, none => { place := if l.isProto then .plasticity else .vector }

/-- The model's mode, first matching row of Table 10-8. -/
def modeOf (ridge : Bool) (img : Bytes) (layers : List LayerPlace) : Byte :=
  let cim := (imgLayers img).filter Layer.cim
  if ridge && layers.any (·.place == .circulated) then 5
  else if ridge then 4
  else if layers.any (·.place == .rotated) then 3
  else if cim.isEmpty || cim.any (fun l => (layers.getD l.index {}).place == .staged || (layers.getD l.index {}).place == .fromNvm) then 2
  else 1

/-- The placement a decision makes. -/
def placementOf (img : Bytes) (f : Found) (ridge : Bool) (mine : Nat → Bool) (chipOf : Nat → Nat) : Placement :=
  let layers := (imgLayers img).map (placeOf f mine chipOf)
  { layers := layers, mode := modeOf ridge img layers, step := if ridge then 0x10 else f.step, rotSet := f.lay.set
    batchCycles := batchCycles img f.srcs }

/-- Pages of the NVM that the images of some writes are read from; those of a head's copy come from the head. -/
def writePages (s : State) (writes : List ArrayWrite) : List Nat :=
  writes.flatMap fun w => if w.use.head.isSome then [] else
    let x := s.model w.use.model
    x.pagesFor (blockAt (layerAt x.image w.use.layer) w.use.block) 32768

/-- The array writes that bring a placement's Resident layers into their arrays; those that stand already are left. -/
def placementWrites (s : State) (m : Nat) (img : Bytes) (p : Placement) : List ArrayWrite :=
  p.layers.zipIdx.flatMap fun x =>
    if x.1.place != .resident then []
    else x.1.arrays.zipIdx.filterMap fun a =>
      let use : ArrayUse := { model := m, layer := x.2, block := a.2 }
      if (s.array a.1).use == some use then none
      else some { array := a.1, use := use, cells := arrayImage s (s.model m) (layerAt img x.2) a.2 }

end Sys2Proof.Machine
end

