-- ==== Sys2Proof/Machine/Jobs.lean ====
section
/-! DEFINITION. Results, learning events, the end of jobs and their abandonment (chapter 11). -/

namespace Sys2Proof.Machine

/-! ### Owners and frames -/

/-- An owner slot's current epoch. -/
def ownerEpoch (s : State) (o : BitVec 2) : BitVec 16 := epochOf s (o.setWidth 3)

/-- Change the Resource Manager's part of the state. -/
def onRm (f : ModelBlock → ModelBlock) (s : State) : State := { s with mdl := f s.mdl }

/-- Frames that hold an inference queue entry (R257). -/
def queueLength (s : State) : Nat := s.mdl.frames.countP (!·.pitch)

/-- A frame of the inference queue. -/
def State.frame? (s : State) (id : Nat) : Option Frame := s.mdl.frames.find? (·.id == id)

/-- Change a frame. -/
def onQueued (id : Nat) (f : Frame → Frame) (s : State) : State :=
  onRm (fun b => { b with frames := b.frames.map fun x => if x.id == id then f x else x }) s

/-- Free a frame's inference queue entry. -/
def dropFrame (id : Nat) (s : State) : State :=
  let s := onRm (fun b => { b with frames := b.frames.filter (·.id != id) }) s
  queuePressure 1 (queueLength s) 128 s

/-- A job. -/
def State.job? (s : State) (id : Nat) : Option Job := s.mdl.jobs.find? (·.id == id)

/-- Change a job. -/
def onJob (id : Nat) (f : Job → Job) (s : State) : State :=
  onRm (fun b => { b with jobs := b.jobs.map fun x => if x.id == id then f x else x }) s

/-- Change a model's counters. -/
def onCounters (m : Nat) (f : ModelCounters → ModelCounters) (s : State) : State :=
  onModel m (fun x => { x with counters := f x.counters }) s

/-- A frame's inputs are still held (R263). -/
def frameHeld (s : State) (f : Frame) : Bool := f.held && f.epoch == ownerEpoch s (s.model f.model).owner

/-- A frame's header fields (Table 7-6). -/
def Frame.qflags (f : Frame) : Nat := fld f.frame.header 1 1
def Frame.mstate (f : Frame) : Nat := fld f.frame.header 2 1

/-! ### The result ring (R268 to R270) -/

/-- A result's entry is valid: its tag still matches its owner's epoch. -/
def Result.valid (s : State) (r : Result) : Bool := r.epoch == ownerEpoch s r.owner

/-- Oldest valid result of an owner still held; the next sequence number where there is none
(in part DEDUCED, log entry 98). -/
def oldestSeq (s : State) (o : BitVec 2) : Word32 :=
  ((s.mdl.results.find? fun r => r.owner == o && r.valid s).map (·.seq)).getD s.mdl.resultSeq

/-- Count the loss of an undelivered result; RESULTS_LOST at most once a second for an owner (Table 11-10). -/
def countLost (o : BitVec 2) (s : State) : State :=
  let x := rd s.mdl.shares o.toNat
  let due := x.lostAt.all fun t => decide (32768 ≤ since s t)
  let n := satInc x.lostNote
  let put (x : Share) (s : State) : State := onRm (fun b => { b with shares := wr b.shares o.toNat x }) s
  if due then
    let s := put { x with lost := satInc x.lost, lostNote := 0, lostAt := some s.clk.tick } s
    raiseOwned o 0x61 true (le 4 n.toNat ++ le 4 (oldestSeq s o).toNat) s
  else put { x with lost := satInc x.lost, lostNote := n } s

/-- Make room in the ring: the oldest invalid entry, or else the oldest that is not pinned, which counts (R270). -/
def ringRoom (s : State) : State :=
  if s.mdl.results.length < 1024 then s
  else match s.mdl.results.find? fun r => !r.valid s with
    | some r => onRm (fun b => { b with results := b.results.filter (·.seq != r.seq) }) s
    | none => match s.mdl.results.find? fun r => !r.pinned with
      | some r =>
        let s := onRm (fun b => { b with results := b.results.filter (·.seq != r.seq), overwritten := satInc b.overwritten }) s
        if r.delivered then s else countLost r.owner s
      | none => s

/-- What a result says beside its frame's header. -/
structure Verdict' where
  /-- `QFLAGS` as the result carries them -/
  qflags : Nat
  rflags : Nat
  scores : List Int := []
  clips : Nat := 0
  unwritten : Nat := 0
  cores : Byte := 0
  learn : Nat := 0
  batch : Nat := 0
  deriving DecidableEq, Repr, Inhabited

/-- Microseconds from one timestamp to another, rounded down, saturating (Table 11-3) (in part DEDUCED, log entry 99). -/
def latencyUs (close result : Nat) : Nat :=
  min 0xFFFFFFFF ((BitVec.ofNat 64 result - BitVec.ofNat 64 close).toNat * 15625 / 33554432)

/-- The 64-byte entry of Table 11-3. -/
def resultEntry (s : State) (m : Nat) (h : Bytes) (v : Verdict') : Bytes :=
  let t := (now s).toNat
  let scores := (List.range 4).flatMap fun i => le 2 (v.scores.getD i 0).toNat
  le 4 s.mdl.resultSeq.toNat ++ [BitVec.ofNat 8 m] ++ slice h 0 1 ++ [BitVec.ofNat 8 v.qflags
  , BitVec.ofNat 8 (v.rflags + (if v.unwritten == 0 then 0 else 32))] ++ slice h 4 4 ++ slice h 24 4 ++ slice h 16 8 ++ le 8 t
    ++ scores ++ slice h 32 2 ++ slice h 2 2 ++ le 2 (min 65535 v.clips) ++ le 2 (min 65535 v.unwritten)
    ++ le 4 (latencyUs (fld h 16 8) t) ++ [v.cores, BitVec.ofNat 8 (imgScores (s.model m).image), BitVec.ofNat 8 v.learn
  , BitVec.ofNat 8 v.batch] ++ slice h 28 4 ++ [0, 0, 0, 0]

/-- RESULT_SUBSCRIBE selects the result. -/
def subscribed (x : Model) (v : Verdict') : Bool :=
  match x.subMode.toNat with
  | 1 => true
  | 2 => bit v.rflags 0 && decide (x.subThresh.toNat ≤ (v.scores.getD 0 0).toNat)
  | 3 => !bit v.rflags 0 || v.qflags != 0
  | _ => false

/-- Write a result: the ring, the model's counters, the event, the Belay controller and the JOB_SUBMIT that waits
(R268 to R271, R274). -/
def writeResult (m : Nat) (h : Bytes) (host : Option Tag) (v : Verdict') (s : State) : State :=
  let s := ringRoom s
  let x := s.model m
  let entry := resultEntry s m h v
  let lat := latencyUs (fld h 16 8) (now s).toNat
  let seq := s.mdl.resultSeq
  let s := onRm (fun b => { b with
    results := b.results ++ [{ seq := seq, owner := x.owner, epoch := ownerEpoch s x.owner, model := m, entry := entry }]
    resultSeq := seq + 1 }) s
  let s := onCounters m (fun c => { c with
    results := satInc c.results
    unscored := if bit v.rflags 0 then c.unscored else satInc c.unscored
    abandoned := if bit v.rflags 2 then satInc c.abandoned else c.abandoned
    latencies := (lat :: c.latencies).take 1024
    latMax := if c.latMax.toNat < lat then BitVec.ofNat 32 lat else c.latMax }) s
  let s := if subscribed x v then raiseOwned x.owner 0x60 false entry s else s
  let s := if bit v.rflags 0 && !bit v.rflags 3 then
      { s with bly := { s.bly with queue := s.bly.queue ++
        [{ model := m, stream := fld h 0 1, scored := true, sensorFault := bit v.qflags 4, scores := v.scores.map Int.toNat, seq := seq }] } }
    else s
  match host with
  | some tag => finish tag 0x00 entry s
  | none => s

/-! ### Learning events (R260, R266, R282) -/

/-- Heads of a model, with their layers. -/
def headsOf (s : State) (m : Nat) : List (Nat × Nat) :=
  (List.range 4).filterMap fun n => match (s.head n).user with
    | some u => if u.1 == m then some (n, u.2) else none
    | none => none

/-- Post one head's learning step for a scored frame; the flag says that it was posted. -/
def postStep (f : Frame) (n layer : Nat) (s : State) : State × Bool :=
  let h := s.head n
  let out := ((f.outs.find? (·.1 == layer)).map (·.2)).getD []
  let p := ((f.lanes.find? (·.1 == layer)).map (·.2)).getD []
  if f.host.isSome || f.learned.getLsbD n then (s, false)
  else if f.qflags &&& (0x05 ||| fld h.hrec 39 1) != 0 || blocksPosting (freezeMask s n) then
    (onHead n (fun h => { h with stats := { h.stats with excluded := satInc h.stats.excluded } }) s, false)
  else if 64 ≤ plasticityQueue s then (onCounters f.model (fun c => { c with learnDropped := satInc c.learnDropped }) s, false)
  else
    let e : StepEvent :=
      { pre := p.map Int.toNat, winner := (elem out 1).toNat, novelty := elem out 0, running := bit f.mstate 0, loaded := bit f.mstate 1
        speed := fld f.frame.header 36 4 }
    let s := onQueued f.id (fun f => { f with learned := setBit f.learned n true }) (onHead n (fun h => { h with ops := h.ops ++ [.step e] }) s)
    (noteHigh 3 (plasticityQueue s) s, true)

/-- Post the steps of every head of the frame's model; the number is the mask of heads that took one. -/
def postSteps (f : Frame) (s : State) : State × Nat :=
  (headsOf s f.model).foldl (fun a u =>
    let r := postStep f u.1 u.2 a.1
    (r.1, if r.2 then a.2 + 2 ^ u.1 else a.2)) (s, 0)

/-! ### The end of a job (R260) -/

/-- The model's scores from a frame's outputs (R236). -/
def scoresOf (img : Bytes) (f : Frame) : List Int :=
  ((imgLayers img).filter Layer.isScore).map fun l => elem (((f.outs.find? (·.1 == l.index)).map (·.2)).getD []) 0

/-- Write the scored result of one frame of a job and free its entry. -/
def completeFrame (j : Job) (id : Nat) (s : State) : State :=
  match s.frame? id with
  | none => s
  | some f =>
    let r := postSteps f s
    let v : Verdict' :=
      { qflags := f.qflags, rflags := flags [true, f.rerun, false, f.host.isSome], scores := scoresOf (s.model j.model).image f
        clips := j.clips, unwritten := j.unwritten, cores := j.cores, learn := r.2, batch := j.frames.length }
    dropFrame id (writeResult j.model f.frame.header f.host v r.1)

/-- Free a job's slot and space. -/
def dropJob (id : Nat) (s : State) : State := onRm (fun b => { b with jobs := b.jobs.filter (·.id != id) }) s

/-- The whole batch is written; the job's slot and space are freed (R260). -/
def completeJob (j : Job) (s : State) : State :=
  let s := j.frames.foldl (fun s id => completeFrame j id s) s
  dropJob j.id (onCounters j.model (fun c => { c with clips := satAdd c.clips j.clips }) s)

/-! ### Abandoned jobs (R263, R264) -/

/-- The result of a frame that is not run again: SCORED 0, ABANDONED, and PARTIAL added (in part DEDUCED, log entry 91). -/
def abandonFrame (f : Frame) (j : Option Job) (s : State) : State :=
  let v : Verdict' :=
    { qflags := f.qflags ||| 1, rflags := flags [false, f.rerun, true, f.host.isSome]
      clips := (j.map (·.clips)).getD 0, unwritten := (j.map (·.unwritten)).getD 0, cores := (j.map (·.cores)).getD 0
      batch := (j.map (·.frames.length)).getD 0 }
  dropFrame f.id (writeResult f.model f.frame.header f.host v s)

/-- A layer of the model runs on another chip. -/
def Model.layerAway (x : Model) (i : Nat) : Bool := match (x.placement.layers.getD i {}).place with | .away _ => true | _ => false

/-- A frame returns to its place in the inference queue, to be run again from the first layer; a pitch frame from the
activations that landed. -/
def requeueFrame (f : Frame) (s : State) : State :=
  let x := s.model f.model
  onCounters f.model (fun c => { c with reruns := satInc c.reruns })
    (onQueued f.id (fun f => { f with
      inJob := false, rerun := true, outs := if f.pitch then f.outs.filter fun o => x.layerAway o.1 else [], lanes := [] }) s)

/-- A job's frame cannot be run again: it is reported, but for a pitch frame, whose result the entry chip writes. -/
def loseFrame (j : Job) (f : Frame) (s : State) : State :=
  if f.pitch then onRm (fun b => { b with frames := b.frames.filter (·.id != f.id) }) s else abandonFrame f (some j) s

/-- Abandon a job; with `final` no frame of it is run again. In TRIP a pitch job is held and its layer begins again
(Table 15-10) (in part DESIGN CHOICE, log entry 177). -/
def abandonJob (cause : Byte) (final : Bool) (j : Job) (s : State) : State :=
  let fs := j.frames.filterMap s.frame?
  if j.pitch && cause == 1 && !final then onJob j.id (fun j => { j with running := [], done := [], arrays := [], parts := [] }) s
  else
    let again := fs.filter fun f => !final && frameHeld s f && !f.rerun
    let lost := fs.filter fun f => final || !frameHeld s f || f.rerun
    let s := lost.foldl (fun s f => loseFrame j f s) (again.foldl (fun s f => requeueFrame f s) s)
    raiseOwned (s.model j.model).owner 0x63 true
      ([BitVec.ofNat 8 j.model, cause, BitVec.ofNat 8 again.length, BitVec.ofNat 8 lost.length, 0, 0, 0, 0]) (dropJob j.id s)

/-- Abandon every job for which a condition holds. -/
def abandonJobs (which : Job → Bool) (cause : Byte) (final : Bool) (s : State) : State :=
  (s.mdl.jobs.filter which).foldl (fun s j => abandonJob cause final j s) s

/-- A job runs now on a core, the stream engine or the vector unit. -/
def Job.onCompute (j : Job) : Bool := j.running.any (· != .plasticity)

/-- A job has run or is running a pass on a core (R322). -/
def Job.used (j : Job) (n : Nat) : Bool := j.cores.getLsbD n

/-- Forget frames with no result; a JOB_SUBMIT whose frame is one of them ends with ABORTED (in part DEDUCED, log entry 36). -/
def forgetThese (fs : List Frame) (s : State) : State :=
  fs.foldl (fun s f => finishAll f.host.toList stAborted (dropFrame f.id s)) s

/-- A model's frames that wait in the inference queue. -/
def queuedFrames (s : State) (m : Nat) : List Frame := s.mdl.frames.filter fun f => f.model == m && !f.inJob && !f.pitch

/-- Discard a model's waiting frames, counted (R264). -/
def discardFrames (m : Nat) (s : State) : State :=
  let fs := queuedFrames s m
  forgetThese fs (onCounters m (fun c => { c with dropped := satAdd c.dropped fs.length }) s)

/-- An owner's removal discards a model's waiting frames with no result (in part DEDUCED, log entry 36). -/
def forgetFrames (m : Nat) (s : State) : State := forgetThese (queuedFrames s m) s

/-- Report a model's waiting frames unscored (R264, a halt). -/
def reportFrames (m : Nat) (s : State) : State :=
  (queuedFrames s m).foldl (fun s f => abandonFrame f none s) s

/-- A job of the model is in progress, or a frame of an abandoned one waits to be run again (R263). -/
def busyModel (s : State) (m : Nat) : Bool :=
  s.mdl.jobs.any (·.model == m) || s.mdl.frames.any fun f => f.model == m && f.rerun

end Sys2Proof.Machine
end

