-- ==== Sys2Proof/Machine/Heads.lean ====
section
/-! DEFINITION. The heads' saved state, its loading, their allocation, release and consolidated copies (chapter 12). -/

namespace Sys2Proof.Machine

/-! ### The slot pairs of the LEARN region (R298, Table 9-4) -/

/-- First page of head n's slot A, of an area (0 A, 1 B), its commit page, and that page's sector. -/
def pairPage (n : Nat) : Nat := 0x1680 + 768 * n
def areaPage (n area : Nat) : Nat := pairPage n + 384 * area
def commitPage (n : Nat) : Nat := pairPage n + 383
def commitSector (n : Nat) : Nat := pairPage n + 368

/-- A page of a sector has been programmed. -/
def sectorUsed (s : State) (first : Nat) : Bool :=
  s.nvm.pages.any fun x => x.page / 16 == first / 16 && x.state != .erased

/-- Free sectors, given by their first pages, to be erased in the background before they are allocated again (R219). -/
def eraseLater (firsts : List Nat) (s : State) : State :=
  let new := firsts.filter fun f => sectorUsed s f && !s.nvm.background.contains f
  wantDomain 3 (!new.isEmpty || s.isOn 3) { s with nvm := { s.nvm with background := s.nvm.background ++ new } }

/-! ### The saved image (Table 12-2) -/

/-- Key of the order by (POST, PRE). -/
def Synapse.key (z : Synapse) : Nat := z.post * 65536 + z.pre

/-- 24-bit entry of the connectivity table. -/
def Synapse.entry (z : Synapse) : Nat := z.pre * 2 ^ 14 + z.post * 2 ^ 6 + min 15 z.run * 4

/-- Prototype table entry: FIRST, COUNT and WINS. -/
def protoEntry (h : Head) (j : Nat) : Bytes :=
  le 2 (h.syn.countP fun z => decide (z.post < j)) ++ le 2 (h.syn.countP (·.post == j)) ++ le 4 (h.wins.getD j 0)
    ++ List.replicate 8 0

/-- A head's state as saved now for its model and layer. -/
def savedImage (s : State) (n : Nat) : Bytes :=
  let h := s.head n
  let u := h.user.getD (0, 0)
  let img := (s.model u.1).image
  [0x48, 0x53, 0x56, 0x31, 1, 0] ++ le 2 h.nPre ++ le 2 h.nPost ++ le 2 h.syn.length ++ le 4 (h.saveSeq + 1) ++ imgTag img
    ++ le 4 (imgVersion img) ++ [BitVec.ofNat 8 (s.model u.1).owner.toNat, BitVec.ofNat 8 u.2, 0, 0] ++ le 4 h.epochs
    ++ le 4 h.change ++ fixed 40 h.hrec ++ fixed 16 h.mrec ++ leInt 4 h.sM ++ le 2 h.epochCount ++ [0, 0]
    ++ le 8 (now s).toNat ++ le 8 Config.deviceId.toNat ++ List.replicate 128 0
    ++ (List.range h.nPost).flatMap (protoEntry h) ++ padTo 4 (h.syn.flatMap fun z => le 3 z.entry)
    ++ h.syn.flatMap fun z => leInt 2 z.w

/-- Where the connectivity and the weights of a saved image begin. -/
def imageSynAt (c : Bytes) : Nat := 256 + 16 * fld c 8 2
def imageWeightAt (c : Bytes) : Nat := imageSynAt c + (3 * fld c 10 2 + 3) / 4 * 4

/-- Synapse k of a saved image, its trace 0. -/
def imageSynapse (c : Bytes) (k : Nat) : Synapse :=
  let e := fld c (imageSynAt c + 3 * k) 3
  { pre := e / 2 ^ 14, post := bits e 6 8, run := bits e 2 4, w := signed 16 (fld c (imageWeightAt c + 2 * k) 2) }

/-- The state a copy gives to its head (R301). -/
def Head.load (c : Bytes) (h : Head) : Head :=
  { h with
    hrec := slice c 48 40, mrec := slice c 88 16, nPre := fld c 6 2, nPost := fld c 8 2
    syn := (List.range (fld c 10 2)).map (imageSynapse c), cands := []
    wins := (List.range (fld c 8 2)).map fun j => fld c (256 + 16 * j + 4) 4
    epochCount := fld c 108 2, sM := signed 32 (fld c 104 4), epochs := fld c 40 4, change := fld c 44 4
    saveSeq := max h.saveSeq (fld c 12 4), loaded := true, changed := false }

/-- The initial state of an image's PROTO layer, every counter 0 (R278) (in part DEDUCED, log entry 46). -/
def Head.initial (m : Bytes) (l : Layer) (h : Head) : Head :=
  { h with
    hrec := l.head, mrec := l.modulator, nPre := l.nPre, nPost := l.nPost, syn := initialSynapses m l, cands := []
    wins := List.replicate l.nPost 0, epochCount := 0, sM := 0, epochs := 0, change := 0, loaded := true, changed := true }

/-! ### Saves (R299, R300) -/

/-- The head's pair is busy with a save, a load, an import, a reset or a release, or one is due (R306). -/
def pairBusy (s : State) (n : Nat) : Bool := (s.head n).busy.isSome || (s.head n).ops.any HeadOp.onPair

/-- Pages that a read of an area's image reads, the commit page first. -/
def imagePagesOf (n area : Nat) (image : Bytes) : List Nat :=
  commitPage n :: (List.range ((image.length + 255) / 256)).map fun k => areaPage n area + k

/-- Pages of a head's current copy. -/
def currentPages (s : State) (n : Nat) : List Nat :=
  match (s.head n).current, (s.head n).copyImage with
  | some k, some c => imagePagesOf n k c
  | _, _ => []

/-- Post an image as the head's next copy: its pages, then the commit record (R222). Sectors of the area that still await their
background erase are erased first (R219). -/
def postCopy (n : Nat) (image : Bytes) (tag : Option Tag) (s : State) : State :=
  let area := match (s.head n).current with | some 0 => 1 | _ => 0
  let pages := (image.length + 255) / 256
  let freed := s.nvm.background.filter fun f => decide (areaPage n area ≤ f) && decide (f < areaPage n area + pages)
  let s := onHead n (fun h => { h with image := image, area := area }) s
  let s := { s with nvm := { s.nvm with background := s.nvm.background.filter fun f => !freed.contains f } }
  postNvm (freed.map (fun f => { page := f, erase := true, job := .freed, tag := none }) ++ (List.range pages).map (fun k =>
      { page := areaPage n area + k, data := slice image (256 * k) 256, owner := some (fld image 36 1), job := .headPage n, tag := tag })
    ++ [{ page := commitPage n, job := .headCommit n, tag := tag, commit := true, point := true }]) s

/-- Begin a save: a snapshot between two operations (in part DEDUCED, log entry 42). -/
def startSave (n : Nat) (cause : SaveCause) (tag : Option Tag) (s : State) : State :=
  let image := savedImage s n
  postCopy n image tag (onHead n (fun h => { h with busy := some (.saving cause tag), changed := false, slept := h.slept || cause == .sleep }) s)

/-- Begin the save at the front of a head's operations; one for MODEL_STOP of a head that has not changed falls away (R281,
R300). -/
def serveHead (n : Nat) (s : State) : State :=
  let h := s.head n
  match h.ops with
  | .save cause tag :: rest =>
    if h.busy.isSome || !h.loaded then s
    else
      let s := onHead n (fun h => { h with ops := rest }) s
      if cause == .stop && !h.changed then s else startSave n cause tag s
  | _ => s

/-- A save of a head is due (R281). -/
def requestSave (n : Nat) (cause : SaveCause) (tag : Option Tag) (s : State) : State :=
  serveHead n (onHead n (fun h => { h with ops := h.ops ++ [.save cause tag] }) s)

/-- The saves of a model's heads that have changed become due as it stops (R300) (in part DEDUCED, log entry 41). -/
def saveAtStop (m : Nat) (s : State) : State :=
  (headsOf s m).foldl (fun s u => if (s.head u.1).loaded then requestSave u.1 .stop none s else s) s

/-! ### Consolidated copies (R295 to R297) -/

/-- `ARRAY_MAP` of arrays. -/
def arrayMap (arrays : List Nat) : Bytes := le 8 ((List.range 64).map fun a => if arrays.contains a then 2 ^ a else 0).sum

/-- HEAD_CONSOLIDATED (Table 12-7). -/
def consolidated (n : Nat) (kind : Byte) (arrays : List Nat) (s : State) : State :=
  raiseHead n 0x72 false ([BitVec.ofNat 8 n, kind, 0, 0] ++ arrayMap arrays) s

/-- Forget what arrays hold. -/
def forgetArrays (arrays : List Nat) (s : State) : State :=
  arrays.foldl (fun s a => onArray a (fun x => { x with use := none }) s) s

/-- What an array's cells hold is not known: nothing runs on it until it is written (R215). -/
def CimArray.unknown (a : CimArray) : CimArray :=
  { a with use := none, cells := [], refCols := [], refRows := [], drawn := none, signed := false, windows := [] }

/-- A write of an array is dropped: one that has not begun leaves the cells as they are (R205). -/
def CimArray.unwritten (a : CimArray) : CimArray :=
  { (if a.begun then a.unknown else a) with writing := none, begun := false }

/-- Drop runs of array writes; their arrays wait for no write any more. -/
def dropWrites (which : WriteRun → Bool) (s : State) : State :=
  let gone := (s.mdl.writes.filter which).flatMap (·.writes)
  onRm (fun b => { b with writes := b.writes.filter fun r => !which r })
    (gone.foldl (fun s w => onArray w.array CimArray.unwritten s) s)

/-- Drop the writes of a head's copy that wait, ending its command with a status. -/
def dropCopyWrites (n : Nat) (status : Byte) (s : State) : State :=
  let mine (r : WriteRun) : Bool := match r.cause with | .consolidate k _ _ => k == n | _ => false
  let tags := (s.mdl.writes.filter mine).filterMap fun r => match r.cause with | .consolidate _ t _ => t | _ => none
  finishAll tags status (dropWrites mine s)

/-- The copy is in force, or on its way there; otherwise the head only keeps its arrays. -/
def HeadCopy.live (c : HeadCopy) : Bool := c.inForce || c.writing || c.ready

/-- Withdraw a head's copy. With `keep` it keeps its arrays for the next consolidation (R297)
(in part DEDUCED, log entry 44). -/
def withdrawCopy (n : Nat) (keep : Bool) (status : Byte) (s : State) : State :=
  match (s.head n).copy with
  | none => s
  | some c =>
    let s := if c.live then finishAll c.tag.toList status (consolidated n 4 c.arrays (dropCopyWrites n status s)) else s
    if !keep then onHead n (fun h => { h with copy := none }) (forgetArrays c.arrays s)
    else if c.live then
      onHead n (fun h => { h with copy := some { c with inForce := false, ready := false, writing := false, tag := none }, change := 0xFFFFFFFF }) s
    else s

/-! ### Allocation (R276, R303) -/

/-- A copy is of this model and layer. -/
def copyMatches (s : State) (m : Nat) (img : Bytes) (l : Layer) (c : Bytes) : Bool :=
  fld c 36 1 == (s.model m).owner.toNat && slice c 16 16 == imgTag img && fld c 37 1 == l.index && fld c 6 2 == l.nPre
    && fld c 8 2 == l.nPost

/-- A load of a head's state is due (R281, R301); until a load that no command asked for has ended, the head holds no state. -/
def startLoad (n : Nat) (source : LoadSource) (tag : Option Tag) (s : State) : State :=
  onHead n (fun h => { h with ops := h.ops ++ [.load source tag], loaded := h.loaded && tag.isSome }) s

/-- Allocate a head to one PROTO layer: an orphan of it is adopted, else the lowest FREE head without a copy. -/
def allocateHead (m : Nat) (img : Bytes) (l : Layer) (s : State) : Option State :=
  let free := (List.range 4).filter fun n => (s.head n).free
  let take (n : Nat) (s : State) : State :=
    let s := onHead n (fun h => ({ areas := h.areas, current := h.current, saveSeq := h.saveSeq, user := some (m, l.index) } : Head).initial img l) s
    onHead n (fun h => { h with frozen := freezeMask s n }) s
  match free.find? fun n => (s.head n).copyImage.any (copyMatches s m img l) with
  | some n => some (startLoad n .adoption none (take n s))
  | none => match free.find? fun n => (s.head n).copyImage.isNone with
    | some n => some (take n s)
    | none => none

/-- The PROTO layers this chip places that need a head at placement: not those that have one, nor those that inherit. -/
def headless (s : State) (m : Nat) (ls : List Layer) (inherit : List Nat) : List Layer :=
  ls.filter fun l => l.isProto && (headsOf s m).all (·.2 != l.index) && !inherit.contains l.index

/-- Allocate heads to layers in order; none where one finds no head. -/
def allocateHeads (m : Nat) (img : Bytes) : List Layer → State → Option State
  | [], s => some s
  | l :: ls, s => (allocateHead m img l s).bind (allocateHeads m img ls)

/-- The k-th PROTO layers of two images pair up; those of equal shape pass the head on (R303). -/
def inheritance (old new : Bytes) : List (Nat × Nat) :=
  (((imgLayers old).filter Layer.isProto).zip ((imgLayers new).filter Layer.isProto)).filterMap fun x =>
    if x.1.nPre == x.2.nPre && x.1.nPost == x.2.nPost then some (x.1.index, x.2.index) else none

/-- A head's copy goes with it: its arrays and the writes of them belong to the new model; it is withdrawn where the new
record has CONSOLIDATE OFF (R295, R303). -/
def passCopy (n : Nat) (to' : Nat × Nat) (s : State) : State :=
  let mine (u : ArrayUse) : ArrayUse := if u.head == some n then { u with model := to'.1, layer := to'.2 } else u
  let s := (((s.head n).copy.map (·.arrays)).getD []).foldl (fun s a => onArray a (fun x => { x with
    use := x.use.map mine, writing := x.writing.map mine }) s) s
  let s := onRm (fun b => { b with writes := b.writes.map fun r => match r.cause with
    | .consolidate k _ _ => if k == n then { r with model := to'.1, writes := r.writes.map fun w => { w with use := mine w.use } } else r
    | _ => r }) s
  if bits (fld (s.head n).hrec 18 1) 1 2 == 0 then withdrawCopy n false stState s else s

/-- Pass the heads of an old model on to the new one, with the new image's records (R303). -/
def passHeads (old new : Nat) (s : State) : State :=
  let img := (s.model new).image
  let pairs := inheritance (s.model old).image img
  (headsOf s old).foldl (fun s u =>
    match pairs.find? (·.1 == u.2) with
    | some p =>
      let l := layerAt img p.2
      passCopy u.1 (new, p.2) (onHead u.1 (fun h => { h with 
        user := some (new, p.2), hrec := l.head, mrec := l.modulator
        changed := h.changed || h.hrec != l.head || h.mrec != l.modulator }) s)
    | none => s) s

/-! ### Release (R304) -/

/-- The sectors of a head's pair but the one of its commit page. -/
def pairRest (n : Nat) : List Nat := ((List.range 48).map fun k => pairPage n + 16 * k).filter (· != commitSector n)

/-- Begin the release of a head: it becomes FREE when its commit page's sector is erased. An operation on its pair under
way is dropped, its command ending with ABORTED. -/
def releaseHead (n : Nat) (tag : Option Tag) (s : State) : State :=
  let h := s.head n
  let s := finishAll ((h.busy.bind HeadBusy.tag).toList ++ h.ops.filterMap HeadOp.tag).eraseDups stAborted (cancelSteps n s)
  let s := forgetArrays ((h.copy.map (·.arrays)).getD []) (dropCopyWrites n stAborted s)
  let s := onHead n (fun h => { areas := h.areas, current := h.current, saveSeq := h.saveSeq, busy := some (.releasing (h.user.map (·.1)) tag) }) s
  postNvm [{ page := commitSector n, erase := true, job := .headErase n, tag := none }] s

/-- The pair's commit page is erased: no copy of it checks, the rest is erased later, and the head is FREE. -/
def headReleased (n : Nat) (s : State) : State :=
  eraseLater (pairRest n) (onHead n (fun _ => {}) s)

/-- A head is being released for a model. -/
def releasingFor (s : State) (m : Nat) : Bool :=
  s.lrn.heads.toList.any fun h => match h.busy with
    | some (.releasing (some k) _) => k == m
    | _ => false

end Sys2Proof.Machine
end

