-- ==== Sys2Proof/Machine/Replace.lean ====
section
/-! DEFINITION. The life of placed models: orders of array writes, halts, re-placement, fences, the stop, the release and
the switch of a replacement (chapters 10 and 13). -/

namespace Sys2Proof.Machine

/-! ### Replies and events -/

/-- The header of Table 10-11; a slot before PLACED has MODE 0. -/
def placementHeader (s : State) (m : Nat) (code : Byte) : Bytes :=
  let x := s.model m
  let p := x.placement
  let cycles := (p.batchCycles + imgBatch x.image - 1) / max 1 (imgBatch x.image)
  let rot := (imgLayers x.image).filter fun l => (p.layers.getD l.index {}).place == .rotated
  [BitVec.ofNat 8 m, code, p.mode, p.step] ++ le 2 (modelArrays s m).length ++ [BitVec.ofNat 8 p.rotSet.length, 0]
    ++ le 4 (min 0xFFFFFFFF cycles) ++ le 4 (report (wearRate x.image rot))

/-- MODEL_PLACEMENT (Table 10-13). -/
def placementEvent (m : Nat) (cause oldMode : Byte) (s : State) : State :=
  raiseOwned (s.model m).owner 0x50 true ([BitVec.ofNat 8 m, cause, oldMode, (s.model m).placement.mode]
    ++ le 2 (modelArrays s m).length ++ [0, 0]) s

/-- Set a model's phase; its heads and Belay look at the change (R293, R329, R336). -/
def setPhase (m : Nat) (p : ModelPhase) (s : State) : State :=
  lookBelay (noteFreezes (onModel m (fun x => { x with phase := p }) s))

/-! ### Orders of array writes (R309 to R311) -/

/-- Charge a decision's writes, whole or not at all (R309). -/
def askGrant (writes : List ArrayWrite) (s : State) : Option State :=
  let arrays := writes.map (·.array)
  if grantable s arrays then some (arrays.foldl (fun s a => chargeArray a s) s) else none

/-- Mark a run's arrays as being written. -/
def markWrites (run : WriteRun) (s : State) : State :=
  run.writes.foldl (fun s w => onArray w.array (fun a => { a with use := none, writing := some w.use }) s) s

/-- An in-place replacement waits for the frame boundary of the old model, which still uses its arrays. -/
def WriteRun.waits (run : WriteRun) (s : State) : Bool :=
  match run.cause with
  | .replace _ old true => busyModel s old
  | _ => false

/-- Order granted writes; they begin once their accounts are committed to WEAR (R310), with a fence in the fence's own
update (R322). -/
def orderWrites (run : WriteRun) (tag : Option Tag) (s : State) : State :=
  let run := { run with writes := run.writes.map fun w => { w with count := (s.array w.array).count, charged := charge s (w.array / 8) } }
  let s := if run.waits s then s else markWrites run s
  let s := readPages (writePages s run.writes) (onRm (fun b => { b with writes := b.writes ++ [run] }) s)
  if run.fence.isSome then s else postWear .grant tag s

/-- A run decides a model's placement, not a rotation, a refresh or a head's copy. -/
def WriteRun.places (r : WriteRun) : Bool :=
  match r.cause with
  | .place _ | .replace _ _ _ | .again _ _ | .pitch => true
  | _ => false

/-- The placement command or re-placement under way of a model. -/
def placing (s : State) (m : Nat) : Option WriteRun := s.mdl.writes.find? fun r => r.model == m && r.places

/-- Drop a model's runs but those of its heads' copies (in part DEDUCED, log entry 53). -/
def dropRuns (m : Nat) (s : State) : State :=
  dropWrites (fun r => r.model == m && !(match r.cause with | .consolidate _ _ _ => true | _ => false)) s

/-- Arrays that no other model holds. -/
def soleArrays (s : State) (m : Nat) (arrays : List Nat) : List Nat :=
  arrays.filter fun a => (List.range 8).all fun k => k == m || !(modelArrays s k).contains a

/-- Release a model's lines of weight-staging SRAM (R251). -/
def unstage (m : Nat) (s : State) : State := onRm (fun b => { b with staging := b.staging.filter (·.model != m) }) s

/-- Put a placement in force; arrays the model no longer holds are given up. -/
def setPlacement (m : Nat) (p : Placement) (s : State) : State :=
  let gone := soleArrays s m ((s.model m).placement.arrays.filter fun a => !p.arrays.contains a)
  forgetArrays gone (unstage m (onModel m (fun x => { x with placement := p }) s))

/-- Ranges of the image that the weight blocks of some layers fill. -/
def blockRanges (img : Bytes) (layers : List Nat) : List (Nat × Nat) :=
  layers.map fun i => let l := layerAt img i; (l.wAt, l.wAt + l.wLen)

/-- Bytes of a range within others that do not overlap. -/
def covered (lo hi : Nat) (rs : List (Nat × Nat)) : Nat := (rs.map fun r => min hi r.2 - max lo r.1).sum

/-- With NO_BACKUP the blocks of Resident layers are freed, sector by sector, once their arrays are written (R248). -/
def freeBackups (m : Nat) (s : State) : State :=
  let x := s.model m
  if !x.flags.getLsbD 2 || x.placement.mode == 5 then s
  else
    let res := ((imgLayers x.image).filter fun l => (x.placement.layers.getD l.index {}).place == .resident).map Layer.index
    let freed := (x.freed ++ res).eraseDups
    let rs := blockRanges x.image freed
    let gone := (x.pages.zipIdx.filter fun p => covered (4096 * p.2) (4096 * p.2 + 4096) rs == 4096).map Prod.fst
    eraseLater gone (onModel m (fun x => { x with freed := freed, pages := x.pages.map fun p => if gone.contains p then 0 else p }) s)

/-! ### Release (R251) -/

/-- Release what a model holds and empty its slot. -/
def emptySlot (m : Nat) (s : State) : State :=
  let x := s.model m
  let s := forgetArrays (soleArrays s m (modelArrays s m)) (unstage m (dropRuns m s))
  let s := onRm (fun b => { b with arrays := b.arrays.map fun a => { a with windows := a.windows.filter (·.use.model != m) } }) s
  let s := { s with rope := { s.rope with
    models := wr s.rope.models m {}, sends := s.rope.sends.filter (·.model != m), grants := s.rope.grants.filter (·.1 != m)
    landings := s.rope.landings.filter (·.model != m) } }
  let s := eraseLater (x.pages.filter (· != 0)) (onRm (fun b => { b with frames := b.frames.filter fun f => !(f.model == m && f.pitch) }) s)
  setPhase m .empty (onModel m (fun _ => { phase := x.phase }) s)

/-- Release a pitch: its jobs and frames end here, and what it holds is given up (R251, R356). -/
def releasePitch (m : Nat) (s : State) : State :=
  if (s.model m).phase != .pitch then s
  else emptySlot m (onRm (fun b => { b with jobs := b.jobs.filter (·.model != m), frames := b.frames.filter (·.model != m) }) s)

/-- Carry an unload on: once no job of the model is in progress its heads are released, and then the model (R251, R304). -/
def carryUnload (m : Nat) (s : State) : State :=
  match (s.model m).unloading with
  | none => s
  | some tag =>
    if busyModel s m then s
    else
      let s := (headsOf s m).foldl (fun s u => releaseHead u.1 none s) s
      if releasingFor s m then s
      else
        let s := emptySlot m s
        match tag with
        | some t => finish t 0x00 [] s
        | none => s

/-- Begin an unload: the model takes no frame, its waiting frames are discarded and its jobs complete (R264). -/
def startUnload (m : Nat) (tag : Option Tag) (s : State) : State :=
  let s := onModel m (fun x => { x with unloading := some tag }) (discardFrames m s)
  let s := match (s.model m).stopping with | some t => finish t stState [] (onModel m (fun x => { x with stopping := none }) s) | none => s
  carryUnload m (setPhase m (s.model m).phase s)

/-- Carry a MODEL_STOP on: after the last job the model is PLACED, and changed heads are saved (R300). -/
def carryStop (m : Nat) (s : State) : State :=
  match (s.model m).stopping with
  | some t =>
    if busyModel s m then s
    else
      let s := setPhase m .placed (onModel m (fun x => { x with stopping := none }) s)
      finish t 0x00 [] (saveAtStop m s)
  | none =>
    if (s.model m).yielding && (s.model m).phase == .running && !busyModel s m then setPhase m .placed s else s

/-- The switch of MODEL_REPLACE at a frame boundary of the old model: bindings, heads and the start pass to the new, and
the old one is unloaded (R303). -/
def carrySwitch (m : Nat) (s : State) : State :=
  match (s.model m).succeeds with
  | none => s
  | some (tag, old, start) =>
    if busyModel s old then s
    else
      let bound := (s.model old).bound
      let running := start || (s.model old).phase == .running
      let s := onModel old (fun x => { x with bound := 0, yielding := false }) s
      let s := passHeads old m (onModel m (fun x => { x with bound := bound, succeeds := none }) s)
      let s := if running then
          (headsOf s m).foldl (fun s u => startSettle u.1 s) (setPhase m .running s)
        else s
      let s := finish tag 0x00 (placementHeader s m (if running then 5 else 4)) s
      startUnload old none s

/-! ### Epochs and the end of an owner's removal (R214, R388) -/

/-- Roll an owner's epoch; from 0xFFFF every line of the owner is first cleared and the epoch becomes 1. -/
def rollEpoch (o : Nat) (s : State) : State :=
  let old := rd s.nvm.epochs o
  let s := { s with nvm := { s.nvm with epochs := wr s.nvm.epochs o (if old == 0xFFFF then 1 else old + 1) } }
  if old != 0xFFFF then s
  else onRm (fun b => { b with
    results := b.results.filter fun r => r.owner.toNat != o
    staging := b.staging.filter fun x => x.tag.owner.toNat != o
    frames := b.frames.map fun f => if (rd b.slots f.model).owner.toNat == o then { f with held := false } else f }) s

/-- Orphans of an owner. -/
def orphansOf (s : State) (o : Nat) : List Nat :=
  (List.range 4).filter fun n => (s.head n).orphan && (s.head n).copyImage.any fun c => fld c 36 1 == o

/-- Carry an owner's removal on: once every model and orphan is released the epoch rolls, the Cairn entry is written,
OWNER_CHANGED is raised and the command ends (R388 steps 4 and 5). -/
def carryRemoval (s : State) : State :=
  match s.own.removal with
  | none => s
  | some r =>
    if (List.range 8).any (fun m => (s.model m).removing)
      || s.lrn.heads.toList.any (fun h => match h.busy with | some (.releasing none none) => true | _ => false) then s
    else
      let s := rollEpoch r.slot { s with own := { s.own with removal := none } }
      let s := cairn 0xA001 (0x0400#16 ||| BitVec.ofNat 16 r.slot) ([2, 0, 0, 0] ++ r.fpr) s
      let s := raise 0xA0 true [BitVec.ofNat 8 r.slot, 2, 0, 0] s
      match r.tag with
      | some t => finish t 0x00 [BitVec.ofNat 8 r.models, BitVec.ofNat 8 r.heads, 0, 0] s
      | none => s

/-- Carry on whatever waits for jobs to end or for a head's release (in part DEDUCED, log entry 96). -/
def carryOn (s : State) : State :=
  let s := s.mdl.writes.foldl (fun s r => match r.cause with
    | .replace _ old true => if busyModel s old then s else markWrites r s
    | _ => s) s
  carryRemoval ((List.range 8).foldl (fun s m => carrySwitch m (carryUnload m (carryStop m s))) s)

/-! ### The end of a run of writes -/

/-- Every array of a run is written and recalibrated. -/
def runDone (r : WriteRun) (s : State) : State :=
  let m := r.model
  match r.cause with
  | .place tag =>
    let s := freeBackups m (setPhase m .placed s)
    finish tag 0x00 (placementHeader s m 4) (commitMark tag s)
  | .replace tag old inPlace =>
    let start := inPlace && (s.model old).yielding
    let s := freeBackups m (setPhase m .placed s)
    carryOn (onModel m (fun x => { x with succeeds := some (tag, old, start) }) s)
  | .again cause oldMode => placementEvent m cause oldMode (freeBackups m s)
  | .rotation _ => s
  | .consolidate head tag at' =>
    onHead head (fun h => { h with copy := h.copy.map fun c => { c with writing := false, ready := true, changeAt := at', tag := tag } }) s
  | .refresh | .pitch => s

/-- Order the writes of a decision, or end it at once when there is none. -/
def startRun (run : WriteRun) (tag : Option Tag) (s : State) : State :=
  if run.writes.isEmpty then runDone run s else orderWrites run tag s

/-! ### Halts (R249, R264) -/

/-- Halt a model for a status code (in part DEDUCED, log entry 100). -/
def haltModel (m : Nat) (code : Byte) (s : State) : State :=
  let s := setPhase m .halted (dropRuns m s)
  let s := reportFrames m (abandonJobs (fun j => j.model == m) 4 true s)
  let s := raiseOwned (s.model m).owner 0x51 true [BitVec.ofNat 8 m, code, 0, 0] s
  match (s.model m).stopping with
  | some t => finish t stState [] (onModel m (fun x => { x with stopping := none }) s)
  | none => s

/-- Whether a layer's `PITCH` is placed on this chip under the placement in force. -/
def pitchHere (s : State) (m : Nat) (pitch : Nat) : Bool :=
  let x := s.model m
  x.placement.step != 0x10 || (x.placement.mode == 5 && pitch == 0xFF)
    || (x.placement.mode != 5 && x.baseChip + pitch == s.rope.index)

/-- Chip of a pitch. -/
def pitchChip (s : State) (m : Nat) (pitch : Nat) : Nat := (s.model m).baseChip + pitch

/-- A re-placement that fails: a MODEL_PLACE or MODEL_REPLACE under way ends with the status and its model is VERIFIED;
any other model is halted. -/
def replaceFails (m : Nat) (code : Byte) (s : State) : State :=
  match placing s m with
  | some r =>
    match r.cause with
    | .place tag => finish tag code [] (setPhase m .verified (setPlacement m {} (dropRuns m s)))
    | .replace tag old inPlace =>
      let s := setPhase m .verified (setPlacement m {} (dropRuns m s))
      finish tag code [] (if inPlace then haltModel old code (onModel old (fun x => { x with yielding := false }) s) else s)
    | _ => haltModel m code s
  | none => haltModel m code s

/-- The cause a re-placement's run carries: a command under way keeps its own (R250). -/
def againCause (s : State) (m : Nat) (cause : Byte) : WriteCause :=
  match placing s m with
  | some r => r.cause
  | none => .again cause (s.model m).placement.mode

/-- Place a model again after a fence, or after a Rope change (R249, R311). -/
def replaceModel (m : Nat) (cause code : Byte) (fence : Option Nat) (s : State) : State :=
  let x := s.model m
  let v := fourSteps s m x.image x.flags (pitchHere s m) []
  match v.found with
  | none => replaceFails m code s
  | some f =>
    let p := placementOf x.image f (x.placement.step == 0x10) (pitchHere s m) (pitchChip s m)
    let writes := placementWrites s m x.image p
    match askGrant writes s with
    | none => replaceFails m stWear (countRefusal s)
    | some s =>
      let why := againCause s m cause
      startRun { model := m, cause := why, writes := writes, fence := fence } none (setPlacement m p (dropRuns m s))

/-- The wear governor withdraws a rotation set's allowance: its layers are demoted under the rate test (R249, R312). -/
def withdrawSet (m : Nat) (s : State) : State :=
  let x := s.model m
  let old := x.placement
  let rot := (imgLayers x.image).filter fun l => (old.layers.getD l.index {}).place == .rotated
  let wr := report (wearRate x.image rot); let allow := report (setAllowance s old.rotSet)
  let s := raise 0xC2 true ([BitVec.ofNat 8 m, 0, 0, 0] ++ le 4 wr ++ le 4 allow)
    { s with lrn := { s.lrn with withdrawals := satInc s.lrn.withdrawals } }
  let srcs := sources (stagingRoom s m 0 - stagedBytes x) rot
  let cycles := old.batchCycles + batchCycles x.image srcs
  if x.flags.getLsbD 0 || (healthyCores s != 0 && decide (250000000 < loadRate x.image cycles + streamLoad s m)) then
    haltModel m stWear s
  else
    let layers := old.layers.zipIdx.map fun l => match srcs.find? (·.1 == l.2) with
      | some r => { place := if r.2 then .staged else .fromNvm }
      | none => l.1
    let p : Placement := { layers := layers, mode := modeOf (old.step == 0x10) x.image layers, step := old.step, batchCycles := cycles }
    placementEvent m 2 old.mode (setPlacement m p (dropRuns m s))

/-! ### Fences (R320, R322) -/

/-- Healthy cores after a change. -/
def healthyByte (s : State) : Byte := BitVec.ofNat 8 (healthyCores s)

/-- FAILING columns of a core's arrays. -/
def failingColumns (s : State) (n : Nat) : Nat := ((List.range 8).map fun k => (s.array (8 * n + k)).failing).sum

/-- The core is off: the fence record is committed with the grants of the re-placements (R322 step 4). -/
def postFence (n : Nat) (s : State) : State :=
  match (s.core n).fencing with
  | some tag => postWear (.fence n) tag s
  | none => s

/-- A job whose present layer still waits for a core takes the layer's new placement instead (R322). -/
def Job.leaveCore (n : Nat) (j : Job) : Job :=
  if j.arrays.any (fun a => a / 8 == n) then { j with arrays := [], parts := [], done := [] } else j

/-- Fence a core: steps 1 to 3 of R322, and step 4 where the domain is off already. -/
def fenceCore (n : Nat) (cause : Byte) (tag : Option Tag) (s : State) : State :=
  let s := onCore n (fun c => { c with fenced := true, cause := cause, tFence := now s, fencing := some tag }) s
  let s := abandonJobs (fun j => j.used n) 2 false s
  let s := onRm (fun b => { b with jobs := b.jobs.map (Job.leaveCore n) }) s
  let heads := (List.range 4).filter fun k => (s.head k).copy.any fun c => c.arrays.any fun a => a / 8 == n
  let models := (List.range 8).filter fun m => (s.model m).placement.arrays.any fun a => a / 8 == n
  let s := models.foldl (fun s m => replaceModel m 1 stFenced (some n) s) s
  let s := heads.foldl (fun s k => withdrawCopy k false stFenced s) s
  let s := dropWrites (fun r => r.writes.any fun w => w.array / 8 == n) s
  if s.isOn (16 + n) then wantDomain (16 + n) false s else postFence n s

/-- The fence record is committed: the writes it covers may begin, the Cairn entry is written, CORE_STATE is raised and a
CORE_FENCE ends (R322 step 5). -/
def fenceCommitted (n : Nat) (s : State) : State :=
  match (s.core n).fencing with
  | none => s
  | some tag =>
    let c := s.core n
    let s := onCore n (fun c => { c with fencing := none })
      (onRm (fun b => { b with writes := b.writes.map fun r => if r.fence == some n then { r with granted := true } else r }) s)
    let s := cairn 0xC001 (0x0100#16 ||| BitVec.ofNat 16 n) ([c.cause, healthyByte s] ++ le 2 (failingColumns s n)) s
    let s := raise 0xC0 true [BitVec.ofNat 8 n, 2, c.cause, healthyByte s, 0, 0, 0, 0] s
    match tag with
    | some t => finish t 0x00 [] (commitMark t s)
    | none => s

/-- A grant's accounts are committed: the oldest run that waits for them may begin (R310). -/
def grantCommitted (s : State) : State :=
  let i := s.mdl.writes.findIdx fun r => !r.granted && r.fence.isNone
  onRm (fun b => { b with writes := b.writes.zipIdx.map fun r => if r.2 == i then { r.1 with granted := true } else r.1 }) s

end Sys2Proof.Machine
end

