-- ==== Sys2Proof/Machine/Rm.lean ====
section
/-! DEFINITION. The Resource Manager's frame path: routing, job starts, layer dispatch and the ends of passes
(chapter 11). -/

namespace Sys2Proof.Machine

/-! ### Routing feature frames (R256) -/

/-- A model takes frames: RUNNING or a pitch, and neither stopping, unloading, removed nor being replaced in place. -/
def Model.takes (x : Model) : Bool :=
  x.phase.runs && x.stopping.isNone && x.unloading.isNone && !x.removing && !x.yielding

/-- The streams of the model's binding are streams of this chip. -/
def entryHere (x : Model) : Bool := !x.layerAway 0

/-- The model that takes a stream's frames; none once a sleep entry discards them (R264). -/
def modelOf (s : State) (stream : Nat) : Option Nat :=
  if s.pwr.entry.any fun e => e.begun && e.discard then none
  else (List.range 8).find? fun m => (s.model m).takes && entryHere (s.model m) && (s.model m).bound.getLsbD stream

/-- Enter a frame in the inference queue (R257). -/
def enterFrame (m : Nat) (g : FeatureFrame) (bank : Nat) (host : Option Tag) (s : State) : State :=
  let f : Frame := { id := s.mdl.nextId, model := m, frame := g, bank := bank, epoch := ownerEpoch s (s.model m).owner, host := host }
  let s := onRm (fun b => { b with frames := b.frames ++ [f], nextId := b.nextId + 1 }) s
  let s := onCounters m (fun c => { c with framesIn := satInc c.framesIn }) s
  queuePressure 1 (queueLength s) 128 s

/-- Lines of a feature frame: its header and its features. -/
def frameLines (f : FeatureFrame) : Nat := linesOf (64 + f.features.length * (if f.wide then 2 else 1))

/-- Read a queued frame; where its lines read as never written they give zeros, and count (R212)
(in part DESIGN CHOICE, log entry 145). -/
def readQueued (q : Queued) (s : State) : FeatureFrame × State :=
  if q.tag.readable s 7 then (q.frame, s)
  else ({ q.frame with header := fixed 64 (slice q.frame.header 0 1), features := [] }, countUnwritten .activation (frameLines q.frame) s)

/-- The Resource Manager takes the oldest feature frame (R256). -/
def execFeatureQueueRoute (s : State) : Answer :=
  match s.mdl.features with
  | [] => .next s
  | q :: rest =>
    let take (s : State) : State := queuePressure 0 rest.length 64 (onRm (fun b => { b with features := rest }) s)
    let r := readQueued q s
    let h := r.1.header
    if !works s 1 then .next s
    else match modelOf s (fld q.frame.header 0 1) with
      | none => .next (take (onRm (fun b => { b with framesUnbound := satInc b.framesUnbound }) r.2))
      | some m =>
        if fld h 46 2 == 0 then
          .next (take (writeResult m h none
            { qflags := fld h 1 1, rflags := 0, unwritten := if q.tag.readable s 7 then 0 else frameLines q.frame } r.2))
        else if 128 ≤ queueLength s then .next s
        else .next (take (enterFrame m r.1 q.bank none r.2))

/-! ### Job starts (R258, R261, R262) -/

/-- Bytes of an ACT bank group. -/
def groupBytes : Nat := 1572864

/-- Bytes left in a bank group after the models' reserves. -/
def groupRoom (s : State) (g : Nat) : Nat :=
  groupBytes - (s.mdl.slots.toList.map fun x => if x.actGroup == some g then reserveBytes x else 0).sum

/-- Bytes left in a bank group after reserves and job space. -/
def groupFree (s : State) (g : Nat) : Nat :=
  groupRoom s g - (s.mdl.jobs.map fun j => if j.bank == g then j.space else 0).sum

/-- The chip is an enumerated Ridge chip: 8 of the slots are pitch slots (R262). -/
def pitchSlots (s : State) : Nat := if isRidge s && s.rope.index != 0xFF && !s.rope.detached then 8 else 0

/-- Slots that R261 serves. -/
def localSlots (s : State) : Nat := 64 - pitchSlots s

/-- Jobs in the slots that R261 serves. -/
def localJobs (s : State) : Nat := s.mdl.jobs.countP (!·.pitch)

/-- Frames of a model that wait for a job, oldest first. -/
def waitingFrames (s : State) (m : Nat) : List Frame := queuedFrames s m

/-- An owner's oldest waiting frame, with its place in the queue. -/
def oldestOf (s : State) (o : Nat) : Option (Frame × Nat) :=
  s.mdl.frames.zipIdx.find? fun f => !f.1.inJob && !f.1.pitch && (s.model f.1.model).owner.toNat == o

/-- Some layer of the model is Rotated. -/
def hasRotated (x : Model) : Bool := x.placement.layers.any (·.place == .rotated)

/-- The largest batch of a model (R258). -/
def batchLimit (x : Model) : Nat := if hasRotated x then imgRotBatch x.image else imgBatch x.image

/-- Frames that fit in a group's job space. -/
def framesFit (s : State) (x : Model) (g : Nat) : Nat :=
  if imgActBytes x.image == 0 then 64 else groupFree s g / imgActBytes x.image

/-- Bank group, bytes and frames of a job of at most `want` frames of a model: the group that takes most frames, the lowest on a
tie; where none takes one, the model's reserve unless a job of it holds that (R258). -/
def spaceFor (s : State) (m want : Nat) : Option (Nat × Nat × Nat) :=
  let x := s.model m
  let best := (List.range 4).foldl (fun b g => if framesFit s x b < framesFit s x g then g else b) 0
  let n := min want (framesFit s x best)
  if want == 0 then none
  else if 1 ≤ n then some (best, n * imgActBytes x.image, n)
  else if s.mdl.jobs.any fun j => j.model == m && j.space == 0 then none
  else x.actGroup.map fun g => (g, 0, 1)

/-- Bank group, job space and number of frames of the batch that a model can start now (R258); a circulated model's frames wait
for a round (R364). -/
def batchFor (s : State) (m : Nat) : Option (Nat × Nat × Nat) :=
  let x := s.model m
  if x.placement.layers.isEmpty || x.placement.mode == 5 then none
  else spaceFor s m (min (batchLimit x) (waitingFrames s m).length)

/-- The owner's slots in use. -/
def slotsOf (s : State) (o : Nat) : Nat := s.mdl.jobs.countP fun j => !j.pitch && (s.model j.model).owner.toNat == o

/-- The owner is eligible (R261). -/
def eligible (s : State) (o : Nat) : Bool :=
  match oldestOf s o with
  | some f => decide (slotsOf s o < (rd s.mdl.shares o).maxSlots.toNat) && (batchFor s f.1.model).isSome
  | none => false

/-- The owner whose job starts next, from the credits as the selection sees them (R261). -/
def pickOwner (s : State) (credit : Nat → Int) : Option Nat :=
  let es := (List.range 4).filter (eligible s)
  let starved := es.filter fun o => decide (slotsOf s o < (rd s.mdl.shares o).minSlots.toNat)
  let age (o : Nat) : Nat := ((oldestOf s o).map (·.2)).getD 0
  if starved.isEmpty then es.foldl (fun b o => match b with
      | some x => if credit x < credit o then some o else some x
      | none => some o) none
  else starved.foldl (fun b o => match b with
      | some x => if age o < age x then some o else some x
      | none => some o) none

/-- Input lines that read as never written when the frame's features are taken (R212). -/
def unreadLines (s : State) (f : Frame) : Nat :=
  if frameHeld s f then 0 else frameLines f.frame

/-- A CTRL frame of this chip. -/
def ctrlFrame (s : State) (code dst : Byte) (arg : Nat) (payload : Bytes) : RopeFrame :=
  { type := 1, code := code, dst := dst, src := BitVec.ofNat 8 s.rope.index, info := code.toNat + 256 * arg, payload := payload }

/-- Hand a frame to the Rope. -/
def sendRope (f : RopeFrame) (s : State) : State := { s with rope := { s.rope with out := s.rope.out ++ [f] } }

/-- Sources of a layer that lie on another chip, with that chip. -/
def awaySources (x : Model) (l : Layer) : List (Nat × Nat) :=
  ([l.srcA] ++ if l.isConcat then [l.srcB] else []).eraseDups.filterMap fun i =>
    if (imgLayers x.image).length ≤ i then none
    else match (x.placement.layers.getD i {}).place with
      | .away c => some (i, c)
      | _ => none

/-- Grant the chip that sends a layer's inputs so many frames (R362) (in part DESIGN CHOICE, log entry 60). -/
def grantFrames (m layer dst frames : Nat) (s : State) : State :=
  sendRope (ctrlFrame s 0x10 (BitVec.ofNat 8 dst) (m + 256 * layer) (le 2 frames)) s

/-- Start a job of some frames. A frame whose input lines no longer read back gives zeros, and the lines count. -/
def startJob (m : Nat) (frames : List Frame) (bank space : Nat) (pitch : Bool) (round : Option Word32) (s : State) : State :=
  let lost := (frames.map (unreadLines s)).sum
  let ids := frames.map (·.id)
  let gone := (frames.filter fun f => !frameHeld s f && !pitch).map (·.id)
  let base := (rd s.rope.models m).ref
  let renew := (s.model m).placement.mode == 4 && !pitch
  let j : Job := { id := s.mdl.nextId, model := m, frames := ids, bank := bank, space := space, pitch := pitch, round := round
                   layer := if pitch then (frames.headD default).land else 0
                   unwritten := lost, source := (frames.map (·.source)).headD 0 }
  let upd' (f : Frame) : Frame :=
    if !ids.contains f.id then f
    else
      { f with
        inJob := true
        ref := if renew then base + BitVec.ofNat 16 (ids.idxOf f.id) else f.ref
        frame := if gone.contains f.id then { f.frame with features := f.frame.features.map fun _ => 0 } else f.frame }
  let s := onRm (fun b => { b with jobs := b.jobs ++ [j], nextId := b.nextId + 1, frames := b.frames.map upd' }) s
  let s := if renew then { s with rope := { s.rope with models := upd s.rope.models m fun r => { r with
      ref := base + BitVec.ofNat 16 ids.length
      era := if base.toNat + ids.length < 65536 then r.era else r.era + 1 } } } else s
  let s := onCounters m (fun c => { c with jobs := satInc c.jobs }) (countUnwritten .activation lost s)
  let s := if pitch then grantFrames m j.layer j.source ids.length s else s
  noteHigh 2 s.mdl.jobs.length (wantDomain (12 + bank) true s)

/-- The pitch frame whose first activations arrived first, once all have landed, with the others for the same layer that
have (R262). -/
def pitchBatch (s : State) : List Frame :=
  let waits (f : Frame) : Bool := f.pitch && !f.inJob
  match s.mdl.frames.find? waits with
  | some f =>
    if f.outs.isEmpty then []
    else (s.mdl.frames.filter fun g => waits g && g.model == f.model && g.source == f.source && g.land == f.land && !g.outs.isEmpty).take
      (max 1 (imgBatch (s.model f.model).image))
  | none => []

/-- Start a pitch job in a pitch slot, where one is free, a batch has landed and job space is there (R258, R262). -/
def startPitch (s : State) : Option State :=
  let p := pitchBatch s
  let m := (p.headD default).model
  if pitchSlots s ≤ s.mdl.jobs.countP (·.pitch) then none
  else (spaceFor s m p.length).map fun b => startJob m (p.take b.2.2) b.1 b.2.1 true none s

/-- A selection of R261: every owner with a waiting frame gains its weight, and the owner picked starts a job. -/
def selectJob (s : State) : State :=
  let credit (o : Nat) : Int :=
    let x := rd s.mdl.shares o
    if (oldestOf s o).isSome then min (x.credit + x.weight.toNat) 1024 else x.credit
  let pick := (pickOwner s credit).bind fun o => (oldestOf s o).bind fun f => (batchFor s f.1.model).map fun b => (o, f.1.model, b)
  let paid (k : Nat) : Int := if pick.any (·.1 == k) then 256 else 0
  let shares := (List.range 4).foldl (fun v k => upd v k fun x => { x with credit := credit k - paid k }) s.mdl.shares
  let s' := onRm (fun b => { b with shares := shares }) s
  match pick with
  | none => s'
  | some (_, m, bank, space, n) => startJob m ((waitingFrames s m).take n) bank space false none s'

/-- A job starts: a pitch job in a pitch slot, or else a job of the owner that R261 selects. -/
def execJobStart (s : State) : Answer :=
  if s.boot.phase != .ready || !works s 1 then .next s
  else match startPitch s with
    | some s => .next s
    | none => if localSlots s ≤ localJobs s then .next s else .next (selectJob s)

/-! ### What a job's layer needs (R259) -/

/-- The layer a job is at. -/
def Job.layerIn (s : State) (j : Job) : Layer := layerAt (s.model j.model).image j.layer

/-- Where it runs: a CIM layer already begun keeps its arrays. -/
def Job.placeIn (s : State) (j : Job) : LayerPlace :=
  let lp := (s.model j.model).placement.layers.getD j.layer {}
  if j.arrays.isEmpty || lp.place == .plasticity then lp else { place := .resident, arrays := j.arrays }

/-- A frame's output of a source layer, or its features for the model input. -/
def sourceOf (f : Frame) (src : Nat) : List Int :=
  if src == 0xFF then f.frame.features else ((f.outs.find? (·.1 == src)).map (·.2)).getD []

/-- A frame has a source. -/
def hasSource (f : Frame) (src : Nat) : Bool := src == 0xFF || src == 0xFE || f.outs.any (·.1 == src)

/-- No job runs on a unit. -/
def unitFree (s : State) (u : Unit') : Bool := s.mdl.jobs.all fun j => !j.running.contains u

/-- The head of a PROTO layer. -/
def headAt (s : State) (m layer : Nat) : Option Nat :=
  (List.range 4).find? fun n => (s.head n).user == some (m, layer)

/-- Forward passes of a head use its copy (R280). -/
def copyUsed (s : State) (n : Nat) : Bool :=
  (s.head n).copy.any fun c => c.inForce && !c.writing && thermalState s != .trip
    && c.arrays.all fun a => !(s.core (a / 8)).fenced && (s.array a).writing.isNone

/-- Arrays of a layer on core n, with their block numbers. -/
def onCoreOf (arrays : List Nat) (n : Nat) : List (Nat × Nat) := arrays.zipIdx.filter fun a => a.1 / 8 == n

/-- Cores of a list of arrays, each once. -/
def coresOf (arrays : List Nat) : List Nat := (arrays.map (· / 8)).eraseDups

/-- The arrays hold the layer and none is being written. -/
def arraysReady (s : State) (m layer : Nat) (head : Option Nat) (arrays : List Nat) (n : Nat) : Bool :=
  (onCoreOf arrays n).all fun a =>
    (s.array a.1).use == some { model := m, layer := layer, block := a.2, head := head } && (s.array a.1).writing.isNone

/-- A domain is on and is not about to go off. -/
def stays (s : State) (n : Nat) : Bool := s.isOn n && !s.pwr.requests.contains (n, false)

/-- Ask for a domain that a job needs. -/
def askDomain (n : Nat) (s : State) : Option State :=
  if stays s n || s.pwr.requests.contains (n, true) || clockDown s n then none else some (wantDomain n true s)

/-- Passes that wait for a core. -/
def waitingPasses (s : State) (n : Nat) : Nat :=
  s.mdl.jobs.countP fun j => ((j.placeIn s).arrays.any fun a => a / 8 == n) && !j.done.contains n

/-- Cores that are on or asked for. -/
def coresOn (s : State) : List Nat :=
  (List.range 8).filter fun n => stays s (16 + n) || s.pwr.requests.contains (16 + n, true)

/-- The write that is next on a core: one at a time on each core, cores in parallel (R205). -/
def nextWrite (s : State) (n : Nat) : Option (WriteRun × ArrayWrite) :=
  s.mdl.writes.findSome? fun r =>
    if r.granted && !r.waits s then (r.writes.find? fun w => w.array / 8 == n).map fun w => (r, w) else none

/-- A core's unfence is under way (R323). -/
def unfencing (s : State) (n : Nat) : Bool := s.lrn.unfence.any (·.core == n)

/-- A core runs no pass, and no array write, recalibration or test is under way or ordered on it. -/
def coreIdle (s : State) (n : Nat) : Bool :=
  unitFree s (.core n) && (nextWrite s n).isNone && !unfencing s n && s.lrn.runs.all fun r => !r.left.getLsbD n

/-- Ask for a core's power; in THROTTLE beyond THROTTLE_CORES an idle core is switched off first, the one with the fewest
waiting passes (R259); in TRIP there is none. -/
def askCore (n : Nat) (s : State) : Option State :=
  let on := coresOn s
  if on.contains n || clockDown s (16 + n) then none
  else match thermalState s with
    | .trip => none
    | .throttle =>
      if on.length < s.thm.config.throttleCores.toNat then askDomain (16 + n) s
      else
        let idle := on.filter fun k => s.isOn (16 + k) && coreIdle s k
        match idle.foldl (fun b k => match b with
            | some x => if waitingPasses s k < waitingPasses s x then some k else some x
            | none => some k) none with
        | some k => askDomain (16 + n) (wantDomain (16 + k) false s)
        | none => none
    | _ => askDomain (16 + n) s

/-- A commanded calibration or test of a kind is due on a core (in part DESIGN CHOICE, log entry 48). -/
def runDue (s : State) (kind n : Nat) : Bool := s.lrn.runs.any fun r => r.kind == kind && r.left.getLsbD n

/-- Work waits for the core's next job boundary (Table 13-3, R318). -/
def boundaryDue (s : State) (n : Nat) : Bool :=
  (s.core n).recalDue || (s.core n).fullDue || [0, 1, 2].any fun k => runDue s k n

/-- A job's first pass on a core waits for the work due there, unless a younger job stands between its own passes on it: jobs wait
for older ones only (R267) (in part DESIGN CHOICE, log entry 176). -/
def boundaryFirst (s : State) (j : Job) (n : Nat) : Bool :=
  !j.used n && boundaryDue s n && s.mdl.jobs.all fun k => !(decide (j.id < k.id) && k.used n)

/-- Put the selected band, and the phase divider (R71), in force as a job makes its first pass on a core; another band than the
correction's needs a recalibration first (R208, R315). While another job stands between its passes on the core, its band stays
(in part DESIGN CHOICE, log entry 176). -/
def forceBand (j : Job) (n : Nat) (s : State) : State :=
  if j.used n || s.mdl.jobs.any (fun k => k.id != j.id && k.used n) then s
  else
    let s := { s with thm := { s.thm with phaseDiv := wr s.thm.phaseDiv n (BitVec.ofNat 2 (phaseDivNow s)) } }
    onCore n (fun c => { c with bandForce := c.bandSel, recalFirst := c.recalFirst || c.bandCal != some c.bandSel }) s

/-- The core can take the job's pass: its blocks work, and it is not fenced, tested and calibrated. -/
def coreReady (s : State) (j : Job) (n : Nat) : Bool :=
  let c := s.core n
  works s (16 + n) && !c.fenced && !c.quickDue && !c.recalFirst && !boundaryFirst s j n && thermalState s != .trip

/-- Start a job's pass on a core. -/
def startPass (j : Job) (n : Nat) (arrays : List Nat) (s : State) : State :=
  onJob j.id (fun j => { j with running := j.running ++ [.core n], arrays := arrays, cores := setBit j.cores n true }) s

/-- Try one core of a layer: its power, its band, its pass. -/
def tryCore (j : Job) (layer : Nat) (head : Option Nat) (arrays : List Nat) (n : Nat) (s : State) : Option State :=
  if j.done.contains n || j.running.contains (.core n) || !arraysReady s j.model layer head arrays n || (s.core n).fenced then none
  else if !stays s (16 + n) then askCore n s
  else if !unitFree s (.core n) then none
  else
    let s' := forceBand j n s
    if coreReady s' j n then some (startPass j n arrays s')
    else if (s'.core n).recalFirst && !(s.core n).recalFirst then some s' else none

/-- Try to take a unit whose domain must be on. -/
def tryUnit (j : Job) (u : Unit') (domain : Nat) (s : State) : Option State :=
  if !unitFree s u || j.running.contains u then none
  else if !stays s domain then if domain == 9 && thermalState s == .trip then none else askDomain domain s
  else if !works s domain then none
  else some (onJob j.id (fun j => { j with running := j.running ++ [u] }) s)

/-- Order the writes that bring a Rotated layer into the rotation set, once no older round of the model is in progress and
nothing runs on the set; a refused grant withdraws the set's allowance (R241, R309, R312). -/
def tryRotate (j : Job) (lp : LayerPlace) (s : State) : Option State :=
  let img := (s.model j.model).image
  let idle := lp.arrays.all fun a => (s.array a).writing.isNone
  let older := (s.mdl.jobs.takeWhile (·.id != j.id)).any (·.model == j.model)
  let due := lp.arrays.zipIdx.filter fun a => (s.array a.1).use != some { model := j.model, layer := j.layer, block := a.2 }
  if older || !idle || due.isEmpty || s.mdl.jobs.any (fun k => k.model == j.model && k.onCompute) then none
  else
    let writes : List ArrayWrite := due.map fun a =>
      { array := a.1, use := { model := j.model, layer := j.layer, block := a.2 }, cells := arrayImage s (s.model j.model) (layerAt img j.layer) a.2 }
    match askGrant writes s with
    | some s => some (orderWrites { model := j.model, cause := .rotation j.id, writes := writes } none s)
    | none => some (withdrawSet j.model (countRefusal s))

/-- The staged weights of a layer that its model's owner can read (R212). -/
def stagedFor (s : State) (m layer : Nat) : Option Staged :=
  s.mdl.staging.find? fun x => x.model == m && x.layer == layer && x.tag.readable s ((s.model m).owner.setWidth 3)

/-- Page a layer's weights from the MODEL region into staging (R242). -/
def stageLayer (m layer : Nat) (s : State) : State :=
  let x := s.model m
  let l := layerAt x.image layer
  let entry : Staged := { model := m, layer := layer, tag := tagFor s (x.owner.setWidth 3), data := readImage s x l.wAt l.wLen }
  onRm (fun b => { b with staging := (b.staging.filter fun y => !(y.model == m && y.layer == layer)) ++ [entry] })
    (readPages (x.pagesFor l.wAt l.wLen) s)

/-- Try to run a layer on the stream engine, from staging once its weights are there, or from the NVM (R218, R242). -/
def tryStream (j : Job) (staged : Bool) (s : State) : Option State :=
  let x := s.model j.model
  let l := j.layerIn s
  let pages := x.pagesFor l.wAt l.wLen
  if !stays s 9 || (staged && (stagedFor s j.model j.layer).isSome) then tryUnit j .stream 9 s
  else if !stays s 3 then askDomain 3 s
  else if readWaits s pages then none
  else if staged then some (stageLayer j.model j.layer s)
  else (tryUnit j .stream 9 s).map (readPages pages)

/-- The weight block that the stream engine is given for a job's layer. -/
def streamWeights (s : State) (j : Job) : Bytes :=
  let x := s.model j.model
  let l := j.layerIn s
  match (j.placeIn s).place with
  | .staged => ((stagedFor s j.model j.layer).map (·.data)).getD []
  | _ => readImage s x l.wAt l.wLen

/-- Every shard of a circulated layer has reached the job (R364). -/
def shardsIn (s : State) (j : Job) : Bool :=
  decide (imgPitches (s.model j.model).image ≤ j.shards.countP (·.1 == j.layer))

/-- The next thing a job can do now, if any: take a unit, or ask for a domain or for array writes. -/
def tryJob (j : Job) (s : State) : Option State :=
  let l := j.layerIn s
  let lp := j.placeIn s
  let ready := (j.frames.filterMap s.frame?).all fun f => hasSource f l.srcA && hasSource f l.srcB
  if (s.model j.model).placement.layers.length ≤ j.layer || !ready || j.running.contains .stream || j.running.contains .vector
    || j.running.contains .plasticity || (s.model j.model).removing then none
  else if !stays s (12 + j.bank) then askDomain (12 + j.bank) s
  else if !works s (12 + j.bank) then none
  else match lp.place with
    | .resident => (coresOf lp.arrays).findSome? fun n => tryCore j j.layer none lp.arrays n s
    | .rotated =>
      match (coresOf lp.arrays).findSome? fun n => tryCore j j.layer none lp.arrays n s with
      | some s => some s
      | none => tryRotate j lp s
    | .staged => tryStream j true s
    | .fromNvm => tryStream j false s
    | .circulated => if shardsIn s j then tryUnit j .stream 9 s else none
    | .vector => tryUnit j .vector 9 s
    | .plasticity =>
      match headAt s j.model j.layer with
      | none => none
      | some n =>
        let copy := ((s.head n).copy.map (·.arrays)).getD []
        if !(s.head n).loaded then askDomain 10 s
        else if copyUsed s n && !(j.done.contains ((copy.headD 0) / 8)) then
          tryCore j j.layer (some n) copy ((copy.headD 0) / 8) s
        else if j.running.isEmpty then tryUnit j .plasticity 10 s else none
    | .none | .away _ => none

/-- The oldest job with something to do does it (R259). -/
def execLayerDispatch (s : State) : Answer :=
  .next ((s.mdl.jobs.findSome? fun j => tryJob j s).getD s)

/-! ### The end of a layer -/

/-- Outputs a Ridge job owes to other chips after a layer: to each chip that runs a layer fed by it, and a pitch job's
scores to the entry chip (R362). -/
def owedOutputs (j : Job) (l : Layer) (s : State) : List ActSend :=
  let x := s.model j.model
  let fs := j.frames.filterMap s.frame?
  let data (src : Nat) : List (BitVec 16 × Bytes) :=
    fs.map fun f => (f.ref, (sourceOf f src).flatMap fun v => leInt (if l.outType == 2 then 2 else 1) v)
  let fed := (imgLayers x.image).filterMap fun y =>
    if y.srcA == l.index || (y.isConcat && y.srcB == l.index) then
      match (x.placement.layers.getD y.index {}).place with
      | .away c => some ({ model := j.model, layer := y.index, source := l.index, dst := c, frames := data l.index } : ActSend)
      | _ => none
    else none
  if x.placement.mode != 4 then []
  else if j.pitch && l.isScore then
    fed ++ [{ model := j.model, layer := 0xFF, source := l.index, dst := x.baseChip
              frames := fs.map fun f => (f.ref, le 2 (elem (sourceOf f l.index) 0).toNat) }]
  else fed

/-- The next layer that this chip runs, from a number on. -/
def nextHere (x : Model) (from' : Nat) : Nat :=
  from' + ((x.placement.layers.drop from').takeWhile fun p => match p.place with | .away _ => true | _ => false).length

/-- Every score of the model has been computed or has returned. -/
def scoresIn (s : State) (j : Job) : Bool :=
  ((imgLayers (s.model j.model).image).filter Layer.isScore).all fun l =>
    (j.frames.filterMap s.frame?).all fun f => hasSource f l.index

/-- A round's job has finished: the chip reports ROUND_DONE with the frames that wait (R364). -/
def reportRound (m : Nat) (round : Word32) (s : State) : State :=
  sendRope (ctrlFrame s 0x0D 0 m (le 4 round.toNat ++ le 2 (min 65535 (waitingFrames s m).length))) s

/-- Finish a job whose last layer has run: a pitch job frees its frames, any other writes its results. -/
def endJob (id : Nat) (s : State) : State :=
  match s.job? id with
  | none => s
  | some j =>
    if j.layer < (s.model j.model).placement.layers.length then s
    else if j.pitch then carryOn (dropJob id (onRm (fun b => { b with frames := b.frames.filter fun f => !j.frames.contains f.id }) s))
    else if !scoresIn s j then onJob id (fun j => { j with awaiting := true }) s
    else
      let s := completeJob j s
      let s := match j.round with | some r => reportRound j.model r s | none => s
      carryOn s

/-- A job's model is being removed: the job ends with no result at the end of its layer (R264). -/
def vanishJob (j : Job) (s : State) : State :=
  carryOn (dropJob j.id (forgetThese (j.frames.filterMap s.frame?) s))

/-- A layer of a job has run: its outputs stand in the frames and the job goes on to its next layer. -/
def advance (id : Nat) (outs : Frame → List Int) (s : State) : State :=
  match s.job? id with
  | none => s
  | some j =>
    let l := j.layerIn s
    let s := j.frames.foldl (fun s k => onQueued k (fun f => { f with outs := f.outs ++ [(l.index, outs f)] }) s) s
    if (s.model j.model).removing then vanishJob j s
    else
      let s := { s with rope := { s.rope with sends := s.rope.sends ++ owedOutputs j l s } }
      let next := nextHere (s.model j.model) (j.layer + 1)
      endJob id (onJob id (fun j => { j with layer := next, running := [], done := [], arrays := [], parts := [] }) s)

/-- The window is that of a layer or of a head's copy, whatever block of it the array holds. -/
def ClipWindow.isOf (u : ArrayUse) (w : ClipWindow) : Bool := w.use.model == u.model && w.use.layer == u.layer && w.use.head == u.head

/-- Count into the window of the layer that the array holds. -/
def countWindow (u : ArrayUse) (clips conv : Nat) (ws : List ClipWindow) : List ClipWindow :=
  let w := (ws.find? (·.isOf u)).getD { use := u }
  ws.filter (fun w => !w.isOf u) ++ [{ w with clips := w.clips + clips, conv := w.conv + conv }]

/-- Count clipped conversions of one array over so many vectors (R197, R321) (in part DEDUCED, log entry 52). -/
def countClips (array clips conv : Nat) (s : State) : State :=
  onArray array (fun a => { a with
    clips := satAdd a.clips clips, conv := a.conv + conv
    windows := match a.use with | some u => countWindow u clips conv a.windows | none => a.windows }) s

/-- Elements per position of output block b. -/
def Layer.blockWidth (l : Layer) (b : Nat) : Nat := min 256 (l.outC - 256 * b)

/-- Run one output block of a layer for the frames of a job: its elements, and the clips of its arrays. -/
def runBlock (j : Job) (l : Layer) (b : Nat) (arrays : List Nat) (fs : List Frame) (s : State) : State :=
  let vecs := fs.map fun f => l.vectors (sourceOf f l.srcA)
  let r := blockPass l.ctrl (arrays.map (orderedArray s l.ctrl)) s.free vecs.flatten
  let per := vecs.zipIdx.map fun v =>
    (l.blockOut b ((r.1.drop (((vecs.take v.2).map List.length).sum)).take v.1.length)).flatten
  let s := { s with free := s.free + 1 }
  let s := (arrays.zip r.2).foldl (fun s a => countClips a.1 a.2 (conversions l.ctrl * vecs.flatten.length) s) s
  onJob j.id (fun j => { j with parts := j.parts ++ [(b, per)], clips := j.clips + r.2.sum }) s

/-- A frame's tensor from the blocks that have run; `i` is the frame's place in the batch. -/
def assemble (j : Job) (l : Layer) (i : Nat) : List Int :=
  let block (b : Nat) : List Int := (((j.parts.find? (·.1 == b)).map (·.2)).getD []).getD i []
  (List.range l.outL).flatMap fun p => (List.range l.nOut).flatMap fun b => ((block b).drop (p * l.blockWidth b)).take (l.blockWidth b)

/-- The pass of a head's copy: the lanes of each frame wait for the plasticity engine (R280). -/
def runCopy (j : Job) (n : Nat) (s : State) : State :=
  let h := s.head n
  let l := j.layerIn s
  let arrays := j.arrays
  let ctrl := copyCtrl h.hrec h.nPre
  let fs := j.frames.filterMap s.frame?
  let vecs := fs.map fun f => (protoInputs h.hrec (sourceOf f l.srcA)).map fun p => (p : Int)
  let r := blockPass ctrl (arrays.map (orderedArray s ctrl)) s.free vecs
  let s := { s with free := s.free + 1 }
  let s := (arrays.zip r.2).foldl (fun s a => countClips a.1 a.2 (conversions ctrl * vecs.length) s) s
  let s := (fs.zip r.1).foldl (fun s x => onQueued x.1.id (fun f => { f with lanes := f.lanes ++ [(l.index, x.2)] }) s) s
  onJob j.id (fun j => { j with clips := j.clips + r.2.sum }) s

/-- A pass of a layer ends on a core; the parity check of its adder trees passes, or the core is fenced (R204, R320). -/
def execCimPassDone (core : BitVec 3) (parityOk : Bool) (s : State) : Answer :=
  let n := core.toNat
  match s.mdl.jobs.find? fun j => j.running.contains (.core n) with
  | none => .next s
  | some j =>
    if !works s (16 + n) then .next s
    else if !parityOk then .next (carryOn (fenceCore n 6 none s))
    else
      let l := j.layerIn s
      let leave (s : State) : State := onJob j.id (fun j => { j with running := j.running.filter (· != .core n), done := j.done ++ [n] }) s
      if l.isProto then
        match headAt s j.model j.layer with
        | some k => .next (leave (runCopy j k s))
        | none => .next (leave s)
      else
        let fs := j.frames.filterMap s.frame?
        let blocks := ((onCoreOf j.arrays n).map fun a => a.2 / l.nIn).eraseDups
        let s := leave (blocks.foldl (fun s b => runBlock j l b ((j.arrays.drop (b * l.nIn)).take l.nIn) fs s) s)
        match s.job? j.id with
        | none => .next s
        | some j =>
          if (coresOf j.arrays).all j.done.contains then
            .next (advance j.id (fun f => assemble j l ((j.frames.idxOf f.id))) s)
          else .next s

/-- A layer of the stream engine ends (R224, R225, R240). -/
def execStreamLayerDone (s : State) : Answer :=
  match s.mdl.jobs.find? fun j => j.running.contains .stream with
  | none => .next s
  | some j =>
    let w := streamWeights s j
    let l := j.layerIn s
    if !works s 9 then .next s else .next (advance j.id (fun f => streamLayer w l (sourceOf f l.srcA)) s)

/-- A layer of the vector unit ends (R235, R236). -/
def execVectorLayerDone (s : State) : Answer :=
  match s.mdl.jobs.find? fun j => j.running.contains .vector with
  | none => .next s
  | some j =>
    let l := j.layerIn s
    let t := (srcShape (s.model j.model).image l.srcA).2.2
    if !works s 9 then .next s
    else .next (advance j.id (fun f => vectorLayer l t (sourceOf f l.srcA) (if l.isConcat then sourceOf f l.srcB else [])) s)

/-- The forward pass of a head ends, on the digital path or from the lanes of its copy (R279, R280). -/
def execProtoForwardDone (s : State) : Answer :=
  match s.mdl.jobs.find? fun j => j.running.contains .plasticity with
  | none => .next s
  | some j =>
    let l := j.layerIn s
    match if works s 10 then headAt s j.model j.layer else none with
    | none => .next s
    | some n =>
      let h := s.head n
      let out (f : Frame) : List Int :=
        let p := protoInputs h.hrec (sourceOf f l.srcA)
        protoOut h.hrec (match f.lanes.find? (·.1 == l.index) with
          | some x => protoCopy h.hrec h.nPost x.2
          | none => protoDigital h.hrec h.syn h.nPost p)
      let table := (j.frames.filterMap s.frame?).map fun f => (f.id, out f)
      let keep (f : Frame) : Frame :=
        let p : List Int := (protoInputs h.hrec (sourceOf f l.srcA)).map fun x => (x : Int)
        { f with lanes := f.lanes.filter (·.1 != l.index) ++ [(l.index, p)] }
      let s := j.frames.foldl (fun s k => onQueued k keep s) s
      .next (advance j.id (fun f => ((table.find? (·.1 == f.id)).map (·.2)).getD []) s)

end Sys2Proof.Machine
end

