-- ==== Sys2Proof/Machine/Model.lean ====
section
/-! DEFINITION. The model commands of group 0x5_: load, verification, placement, release, start, stop, replacement and
binding (chapter 10). -/

namespace Sys2Proof.Machine

/-! ### Whose model (R227, R46) -/

/-- The owner of the model a number names; a number above 7 or an EMPTY slot names none. -/
def modelOwner (s : State) (m : Nat) : Option (BitVec 2) :=
  if m < 8 && (s.model m).phase != .empty then some (s.model m).owner else none

/-- Class Bound for a MODEL_ID at an offset of the payload; a payload too short to name a model meets the length check
(in part DEDUCED, log entry 29). -/
def boundModel (off : Nat) (s : State) (p : Bytes) : Rights :=
  if p.length ≤ off then .anyone else .bound (modelOwner s (fld p off 1))

/-- The form of a command that names a model in four bytes. -/
def modelForm (opcode : Byte) : Form :=
  { opcode := opcode, rights := boundModel 0, length := (· == 4), reserved := zeros [(1, 3)] }

/-- Another command works on the model's image: its bytes are being programmed or checked (R58). -/
def Model.loadBusy (x : Model) : Bool := x.verifying.isSome || !x.loads.isEmpty

/-- A placement command, a re-placement or a release is under way (R254, R58) (in part DESIGN CHOICE, log entry 30). -/
def modelBusy (s : State) (m : Nat) : Bool :=
  (placing s m).isSome || (s.model m).succeeds.isSome || (s.model m).unloading.isSome || (s.model m).removing
    || (List.range 8).any fun k => (s.model k).succeeds.any (·.2.1 == m)
    || s.mdl.writes.any fun r => match r.cause with | .replace _ old _ => old == m | _ => false

/-! ### MODEL_LOAD (R227, R228, R247) -/

/-- First pages of the MODEL region's 472 sectors (in part DESIGN CHOICE, log entry 90). -/
def modelSectors : List Nat := (List.range 472).map fun k => 0x2280 + 16 * k

/-- Sectors of MODEL that no model holds and that await no erase (R219). -/
def freeSectors (s : State) : List Nat :=
  modelSectors.filter fun f => !s.nvm.background.contains f && s.mdl.slots.toList.all fun x => !x.pages.contains f

/-- BEGIN reserves a slot and sectors; the session's owner becomes the provisional owner. It needs a secure session in
every case. -/
def cmdModelLoadBegin (h : Hdr) (p : Bytes) (s : State) : State :=
  serve { opcode := 0x50, rights := fun _ _ => .bound (some h.owner), length := (· == 12)
          reserved := fun p => fld p 2 2 == 0 && fld p 8 4 / 8 == 0 } h p
    (fun s =>
      let id := fld p 1 1; let size := fld p 4 4
      let empty := (List.range 8).filter fun m => (s.model m).phase == .empty
      let slot := if id == 0xFF then empty.headD 8 else id
      let need := (size + 4095) / 4096
      let free := freeSectors s
      refuseIf h.tag
        [((decide (7 < id) && id != 0xFF) || decide (size < 256) || decide (1933312 < size), stParam),
         (id != 0xFF && (s.model id).phase != .empty, stBusy),
         (decide (8 ≤ slot) || decide (free.length < need), stNoResource)]
        (fun s => doneWith h [BitVec.ofNat 8 slot, 0, 0, 0]
          (setPhase slot .loading (onModel slot (fun _ =>
            { owner := h.owner, size := size, flags := BitVec.ofNat 32 (fld p 8 4), pages := free.take need }) s))) s) s

/-- The first waiting DATA of a model is judged and its pages posted; one that does not follow the bytes received is
refused and the next one is judged. -/
def nextLoad (m : Nat) : List (Tag × Nat × Bytes) → State → State
  | [], s => onModel m (fun x => { x with loads := [] }) s
  | (tag, off, data) :: rest, s =>
    let x := s.model m
    if x.phase != .loading then nextLoad m rest (finish tag stState [] s)
    else if off != x.image.length || x.size < off + data.length then nextLoad m rest (finish tag stParam [] s)
    else
      let first := off / 256; let last := (off + data.length - 1) / 256
      let s := onModel m (fun x => { x with loads := (tag, off, data) :: rest }) s
      let page (k : Nat) (job : NvmJob) : NvmOp :=
        { page := x.pageAt k, data := slice (x.image ++ data) (256 * k) 256, owner := some x.owner.toNat, job := job, tag := some tag }
      postNvm ((List.range (last - first)).map (fun k => page (first + k) (.modelPage m)) ++ [page last (.modelLast m data)]) s

/-- DATA programs bytes of the image in order; it ends when they are programmed (R117) (in part DEDUCED, log entry 28). -/
def cmdModelLoadData (h : Hdr) (p : Bytes) (s : State) : State :=
  serve { opcode := 0x50, rights := boundModel 1, length := fun n => decide (9 ≤ n) && decide (n ≤ 4068)
          reserved := zeros [(2, 2)] } h p
    (fun s =>
      let m := fld p 1 1
      let load := (h.tag, fld p 4 4, p.drop 8)
      let x := s.model m
      if !x.loads.isEmpty then onModel m (fun x => { x with loads := x.loads ++ [load] }) s else nextLoad m [load] s) s

/-- ABANDON frees the pages in LOADING and RECEIVED. -/
def cmdModelLoadAbandon (h : Hdr) (p : Bytes) (s : State) : State :=
  serve { opcode := 0x50, rights := boundModel 1, length := (· == 4), reserved := zeros [(2, 2)] } h p
    (fun s =>
      let m := fld p 1 1
      let x := s.model m
      refuseIf h.tag [(x.phase != .loading && x.phase != .received, stState), (x.loadBusy, stBusy)]
        (fun s => doneWith h [] (emptySlot m s)) s) s

/-! ### MODEL_VERIFY (R230, R238) -/

/-- MODEL_VERIFY begins to read and check the image. -/
def cmdModelVerify (h : Hdr) (p : Bytes) (s : State) : State :=
  serve (modelForm 0x51) h p
    (fun s =>
      let m := fld p 0 1
      let x := s.model m
      refuseIf h.tag [(x.phase != .received, stState), (x.verifying.isSome, stBusy)]
        (fun s => started h.tag (wantDomain 3 true (onModel m (fun x => { x with verifying := some h.tag }) s))) s) s

/-- The reply of MODEL_VERIFY: arrays for every CIM-eligible layer Resident, layers, pitches and multiply-accumulates. -/
def verifyReply (img : Bytes) : Bytes :=
  let cim := (imgLayers img).filter Layer.cim
  le 2 (min 0xFFFF (cim.map Layer.arrays).sum) ++ [BitVec.ofNat 8 (imgLayerCount img), BitVec.ofNat 8 (imgPitches img)]
    ++ le 4 (min 0xFFFFFFFF (cim.map Layer.macs).sum)

/-- The image of a model has been read from the NVM and checked: it is VERIFIED with its owner final, or its slot is EMPTY again (R227, R228)
(in part DEDUCED, log entry 33). -/
def execModelVerifyDone (slot : BitVec 3) (s : State) : Answer :=
  let m := slot.toNat
  let x := s.model m
  match x.verifying with
  | none => .next s
  | some tag =>
    if s.boot.stage != .none || !s.isOn 3 || readWaits s (imagePages x) then .next s else
    let s := readPages (imagePages x) (onModel m (fun x => { x with verifying := none }) s)
    if !readable s (imagePages x) then .next (finish tag stNvm [] s)
    else match imageFault s x.owner x.image with
      | some f => .next (finish tag stImage [f.1, f.2, 0, 0] (emptySlot m s))
      | none => .next (finish tag 0x00 (verifyReply x.image) (commitMark tag (setPhase m .verified s)))

/-! ### MODEL_PLACE (R244 to R248, R276, R309) -/

/-- The bank group with the most room for so many bytes, the lowest on a tie (R255). -/
def reserveGroup (s : State) (bytes : Nat) : Option Nat :=
  let best := (List.range 4).foldl (fun b g => if groupFree s b < groupFree s g then g else b) 0
  if bytes ≤ groupFree s best then some best else none

/-- Give a model up: it is VERIFIED and holds no array and no reserve. -/
def unplace (m : Nat) (s : State) : State :=
  setPhase m .verified (onModel m (fun x => { x with actGroup := none }) (setPlacement m {} s))

/-- A layer of the model runs on a core or on the stream engine, whose vector unit runs every SCORE layer (R254). -/
def usesCompute (img : Bytes) : Bool := (imgLayers img).any fun l => l.cim || l.mac || l.vector

/-- In TRIP such a model is neither placed nor started (in part DEDUCED, log entry 32). -/
def thermalRefuses (s : State) (img : Bytes) : Bool := thermalState s == .trip && usesCompute img

/-- A unit that a model needs has no clock, since XO24 or its PLL has failed (R70, R72). -/
def clockRefuses (s : State) (img : Bytes) : Bool :=
  pllDown s && (usesCompute img || (imgLayers img).any Layer.isProto)

/-- Take a reserve for a model under a placement that is in force: its group, with the group's domain asked for. -/
def takeReserve (m : Nat) (s : State) : Option State :=
  match (s.model m).actGroup with
  | some _ => some s
  | none => (reserveGroup s (reserveBytes (s.model m))).map fun g =>
      wantDomain (12 + g) true (onModel m (fun x => { x with actGroup := some g }) s)

/-- Put a decided placement in force with its reserve, its heads and its grants, or the status that refuses it
(in part DEDUCED, log entry 95). -/
def commitPlacement (m : Nat) (p : Placement) (inherit : List Nat) (mine : Nat → Bool) (s : State) : Byte ⊕ (State × List ArrayWrite) :=
  let img := (s.model m).image
  let writes := placementWrites s m img p
  let ls := placedHere mine img
  match takeReserve m (setPlacement m p s) with
  | none => .inl stNoResource
  | some s => match allocateHeads m img (headless s m ls inherit) s with
    | none => .inl stNoResource
    | some s => if !readable s (writePages s writes) then .inl stNvm else match askGrant writes s with
      | none => .inl stWear
      | some s => .inr (s, writes)

/-- What a refused placement leaves: a refused grant is counted, and pages that could not be read (Table 9-11). -/
def placeRefused (m : Nat) (p : Placement) (st : Byte) (s : State) : State :=
  if st == stWear then countRefusal s
  else if st == stNvm then readPages (writePages s (placementWrites s m (s.model m).image p)) s
  else s

/-- Carry out a placement decision for a command; `prep` is what a decision that holds does first. -/
def placeModel (h : Hdr) (m : Nat) (p : Placement) (mine : Nat → Bool) (prep : State → State) (s : State) : State :=
  match commitPlacement m p [] mine s with
  | .inl st => finish h.tag st [] (placeRefused m p st s)
  | .inr (s, writes) =>
    startRun { model := m, cause := .place h.tag, writes := writes } none (started h.tag (commitMark h.tag (prep s)))

/-- The form of MODEL_PLACE. -/
def placeForm : Form := { opcode := 0x52, rights := boundModel 0, length := (· == 4), reserved := zeros [(3, 1)] }

/-- States in which MODEL_PLACE is accepted. -/
def Model.placeable (x : Model) : Bool := x.phase == .verified || x.phase == .placed || x.phase == .halted

/-- MODEL_PLACE with `REQ` 0x00. -/
def cmdModelPlace (h : Hdr) (p : Bytes) (s : State) : State :=
  serve placeForm h p
    (fun s =>
      let m := fld p 0 1
      let x := s.model m
      refuseIf h.tag
        [(fld p 2 1 != 0, stParam), (!x.placeable, stState), (modelBusy s m || busyModel s m, stBusy), (thermalRefuses s x.image, stThermal),
         (clockRefuses s x.image, stHwFault)]
        (fun s =>
          let v := fourSteps s m x.image x.flags (fun _ => true) []
          match v.found with
          | none => finish h.tag stTooLarge (tooLarge x.image v 0xFF) (if x.phase == .verified then s else unplace m s)
          | some f => placeModel h m (placementOf x.image f false (fun _ => true) (fun _ => 0)) (fun _ => true) id s) s) s

/-! ### A Ridge request (R243, R361, R363, R386) -/

/-- The image has a circulated layer. -/
def circulates (img : Bytes) : Bool := (imgLayers img).any fun l => l.pitch == 0xFE

/-- The chips a Ridge request needs stand on one chain or ring, the head with its own Rope key. -/
def ridgeReachable (s : State) (m base : Nat) : Bool :=
  let n := imgPitches (s.model m).image
  let r := s.rope
  let alive := (List.range r.count).filter fun c => !r.lostMask.getLsbD c
  let keyed := (rd s.own.slots (s.model m).owner.toNat).rk != 0
  r.index != 0xFF && !r.detached && r.topo != .none && keyed &&
    if circulates (s.model m).image then r.topo == .ring && decide (n ≤ alive.length)
    else (List.range n).all fun k => alive.contains (base + k)

/-- What the first other chip that refuses its pitch answers: its index, status and payload (R243). -/
abbrev Refuser := Byte × Byte × Bytes

/-- A Ridge placement that holds records its base chip and its salt (R386); its landing areas take two batches, which
the sending chips are granted at once (R361). -/
def ridgePlaced (m base : Nat) (salt : Bytes) (s : State) : State :=
  let s := onModel m (fun x => { x with baseChip := base }) s
  let s := { s with rope := { s.rope with models := wr s.rope.models m { salt := salt } } }
  let x := s.model m
  let here := (imgLayers x.image).filter fun l => match (x.placement.layers.getD l.index {}).place with | .away _ => false | _ => true
  if x.placement.mode != 4 then s
  else here.foldl (fun s l => (awaySources x l).foldl (fun s c => grantFrames m l.index c.2 (2 * imgBatch x.image) s) s) s

/-- MODEL_PLACE with `REQ` 0x01; `others` is the refusal of the other chips, if any, as the Rope returns it
(in part DESIGN CHOICE, log entry 34). -/
def cmdModelPlaceRidge (h : Hdr) (p : Bytes) (others : Option Refuser) (s : State) : State :=
  serve placeForm h p
    (fun s =>
      let m := fld p 0 1; let base := fld p 2 1
      let x := s.model m
      let n := imgPitches x.image
      let here := s.rope.index
      let mine (q : Nat) : Bool := if circulates x.image then q == 0xFF else base + q == here
      refuseIf h.tag
        [(decide (63 < base), stParam), (isRidge s && (here == 0xFF || s.rope.detached), stLinkDown), (!x.placeable || role s != 1 || decide (n < 2) || decide (64 < n), stState),
         (modelBusy s m || busyModel s m, stBusy), (thermalRefuses s x.image, stThermal), (s.own.trngFault || clockRefuses s x.image, stHwFault), (!ridgeReachable s m base, stLinkDown)]
        (fun s =>
          let v := fourSteps s m x.image x.flags mine []
          let other := others.filter fun o => v.found.isSome || decide (o.1.toNat < here)
          match other, v.found with
          | some o, _ =>
            if o.2.1 == stTooLarge then
              finish h.tag stTooLarge (fixed 17 o.2.2 ++ [o.1, 0, 0]) (if x.phase == .verified then s else unplace m s)
            else finish h.tag o.2.1 [] s
          | none, none =>
            finish h.tag stTooLarge (tooLarge x.image v (BitVec.ofNat 8 here)) (if x.phase == .verified then s else unplace m s)
          | none, some f =>
            placeModel h m (placementOf x.image f true mine (fun q => base + q)) mine
              (fun s => ridgePlaced m base (Config.random s.free 32) { s with free := s.free + 1 }) s) s) s

/-! ### Pitches on a member (R243, R361) -/

/-- A member places what the head chip orders, under the four-step rule, where its owner is provisioned here with a Rope key
(R243, R363); a refusal leaves the slot EMPTY (in part DESIGN CHOICE, log entry 63). -/
def placePitch (o : Config.PitchOrder) (s : State) : State :=
  let m := o.slot.toNat; let base := o.baseChip.toNat
  let mine (q : Nat) : Bool := if circulates o.image then q == 0xFF else base + q == s.rope.index
  let need := (o.image.length + 4095) / 4096
  let free := freeSectors s
  if (s.model m).phase != .empty || (rd s.own.slots o.owner.toNat).rk == 0 || (imageFault s o.owner o.image).isSome
    || decide (imgPitches o.image < 2) || decide (free.length < need) || clockRefuses s o.image || thermalRefuses s o.image then s
  else
    let x : Model := { owner := o.owner, size := o.image.length, image := o.image, pages := free.take need, bound := o.bound }
    let t := onModel m (fun _ => x) s
    match (fourSteps t m o.image 0 mine []).found with
    | none => s
    | some f =>
      match commitPlacement m (placementOf o.image f true mine (fun q => base + q)) [] mine t with
      | .inl _ => s
      | .inr (t, writes) =>
        let page (k : Nat) : NvmOp :=
          { page := x.pageAt k, data := slice o.image (256 * k) 256, owner := some o.owner.toNat, job := .modelPage m }
        let t := setPhase m .pitch (ridgePlaced m base o.salt (postNvm ((List.range ((o.image.length + 255) / 256)).map page) t))
        startRun { model := m, cause := .pitch, writes := writes } none t

/-- An order of the head chip reaches an enumerated member. -/
def takeOrder (s : State) : State :=
  if role s != 2 || s.rope.index == 0xFF || s.rope.detached || s.boot.phase != .ready then s
  else
    let t := { s with free := s.free + 1 }
    match Config.pitchOrder s.free with
    | none => t
    | some o => if o.release then releasePitch o.slot.toNat t else placePitch o t

/-! ### Release and reports -/

/-- MODEL_UNLOAD. -/
def cmdModelUnload (h : Hdr) (p : Bytes) (s : State) : State :=
  serve (modelForm 0x53) h p
    (fun s =>
      let m := fld p 0 1
      refuseIf h.tag
        [((s.model m).phase == .pitch, stState), (modelBusy s m || (s.model m).loadBusy, stBusy)]
        (fun s => startUnload m (some h.tag) (started h.tag (commitMark h.tag s))) s) s

/-- Code of `PLACE` and `CHIP` (Table 10-12). -/
def Place.codes : Place → Byte × Byte
  | .none => (0x00, 0xFF) | .resident => (0x01, 0xFF) | .rotated => (0x02, 0xFF) | .staged => (0x03, 0xFF)
  | .fromNvm => (0x04, 0xFF) | .vector => (0x05, 0xFF) | .plasticity => (0x06, 0xFF)
  | .away c => (0x07, BitVec.ofNat 8 c) | .circulated => (0x08, 0xFF)

/-- One entry of Table 10-12. -/
def placementEntry (x : Model) (i : Nat) (lp : LayerPlace) : Bytes :=
  let c := lp.place.codes
  let onArrays := lp.place == .resident || lp.place == .rotated
  [BitVec.ofNat 8 i, c.1, c.2, 0] ++ le 4 (if onArrays then (layerAt x.image i).ctrl else 0)
    ++ arrayMap (if lp.place == .rotated then x.placement.rotSet else lp.arrays)

/-- A slot's `STATE` (Table 10-1). -/
def ModelPhase.code : ModelPhase → Byte
  | .empty => 0 | .loading => 1 | .received => 2 | .verified => 3 | .placed => 4 | .running => 5 | .halted => 6 | .pitch => 7

/-- The slot has been placed. -/
def ModelPhase.hasPlacement : ModelPhase → Bool
  | .placed | .running | .halted | .pitch => true
  | .empty | .loading | .received | .verified => false

/-- MODEL_PLACEMENT_GET. -/
def cmdModelPlacementGet (h : Hdr) (p : Bytes) (s : State) : State :=
  serve (modelForm 0x54) h p
    (fun s =>
      let m := fld p 0 1
      let x := s.model m
      if x.phase.hasPlacement then
        doneWith h (placementHeader s m x.phase.code
          ++ x.placement.layers.zipIdx.flatMap fun l => placementEntry x l.2 l.1) s
      else doneWith h ([BitVec.ofNat 8 m, x.phase.code] ++ List.replicate 14 0) s) s

/-- One entry of MODEL_LIST; the tag is shown to the model's owner alone. -/
def listEntry (s : State) (h : Hdr) (m : Nat) : Bytes :=
  let x := s.model m
  let known := x.phase == .verified || x.phase.hasPlacement
  let mine := h.secure && h.owner == x.owner && known
  [BitVec.ofNat 8 m, x.phase.code, BitVec.ofNat 8 x.owner.toNat, if x.phase.hasPlacement then x.placement.mode else 0]
    ++ le 2 (modelArrays s m).length ++ [0, 0] ++ le 4 (if known then imgRate x.image else 0) ++ (if mine then imgTag x.image else List.replicate 16 0)

/-- MODEL_LIST (in part DESIGN CHOICE, log entry 31). -/
def cmdModelList (h : Hdr) (p : Bytes) (s : State) : State :=
  serve { opcode := 0x55, length := (· == 0) } h p
    (fun s => doneWith h ((List.range 8).flatMap (listEntry s h)) s) s

/-! ### Start and stop (R252, R254, R264, R294) -/

/-- A stream's feature frames fit the model's input (R252) (in part DEDUCED, log entry 35). -/
def streamFits (s : State) (img : Bytes) (n : Nat) : Bool :=
  let c := (s.ftr n).config
  !c.isEmpty && ((blocksOf c).map fun b => fld b 4 2).sum == imgInC img * imgInL img && bit (fld c 4 4) 17 == imgWide img

/-- MODEL_START; the heads' settle periods begin. -/
def cmdModelStart (h : Hdr) (p : Bytes) (s : State) : State :=
  serve (modelForm 0x56) h p
    (fun s =>
      let m := fld p 0 1
      let x := s.model m
      let fits := !entryHere x || (members 96 x.bound.toNat).all (streamFits s x.image)
      refuseIf h.tag
        [(x.phase != .placed || x.bound == 0 || !fits, stState), (modelBusy s m, stBusy), (thermalRefuses s x.image, stThermal),
         (clockRefuses s x.image, stHwFault)]
        (fun s =>
          let s := setPhase m .running s
          doneWith h [] ((headsOf s m).foldl (fun s u =>
            startSettle u.1 (if (s.head u.1).loaded || pairBusy s u.1 then s else startLoad u.1 .current none s)) s)) s) s

/-- MODEL_STOP: no further frame enters, the waiting ones are discarded, and the reply follows the last job. -/
def cmdModelStop (h : Hdr) (p : Bytes) (s : State) : State :=
  serve (modelForm 0x57) h p
    (fun s =>
      let m := fld p 0 1
      let x := s.model m
      refuseIf h.tag [(x.phase != .running, stState), (x.stopping.isSome || x.unloading.isSome || x.removing, stBusy)]
        (fun s => carryOn (discardFrames m (onModel m (fun x => { x with stopping := some h.tag }) (commitMark h.tag s)))) s) s

/-! ### MODEL_REPLACE (R250, R303) -/

/-- Class Bound for both models of a replacement. -/
def boundPair (s : State) (p : Bytes) : Rights :=
  if p.length < 2 then .anyone
  else
    let a := modelOwner s (fld p 0 1)
    .bound (if a == modelOwner s (fld p 1 1) then a else none)

/-- An in-place replacement that is decided: the old model takes no frame, and its waiting ones are discarded. -/
def yieldOld (old : Nat) (s : State) : State :=
  if (s.model old).phase == .running then discardFrames old (onModel old (fun x => { x with yielding := true }) s) else s

/-- MODEL_REPLACE. -/
def cmdModelReplace (h : Hdr) (p : Bytes) (s : State) : State :=
  serve { opcode := 0x58, rights := boundPair, length := (· == 4), reserved := fun p => fld p 2 1 / 2 == 0 && fld p 3 1 == 0 } h p
    (fun s =>
      let old := fld p 0 1; let m := fld p 1 1; let inPlace := bit (fld p 2 1) 0
      let x := s.model m; let o := s.model old
      refuseIf h.tag
        [(x.phase != .verified || (o.phase != .placed && o.phase != .running), stState),
         (modelBusy s m || modelBusy s old || o.stopping.isSome, stBusy), (thermalRefuses s x.image, stThermal),
         (clockRefuses s x.image, stHwFault)]
        (fun s =>
          let v := fourSteps s m x.image x.flags (fun _ => true) (if inPlace then o.placement.arrays else [])
          match v.found with
          | none => finish h.tag stTooLarge (tooLarge x.image v 0xFF) s
          | some f =>
            let q := placementOf x.image f false (fun _ => true) (fun _ => 0)
            match commitPlacement m q ((inheritance o.image x.image).map (·.2)) (fun _ => true) s with
            | .inl st => finish h.tag st [] (placeRefused m q st s)
            | .inr (s, writes) =>
              let s := started h.tag (commitMark h.tag s)
              let s := if inPlace then yieldOld old s else s
              carryOn (startRun { model := m, cause := .replace h.tag old inPlace, writes := writes } none s)) s) s

/-! ### MODEL_BIND_STREAMS -/

/-- MODEL_BIND_STREAMS replaces the model's binding. -/
def cmdModelBindStreams (h : Hdr) (p : Bytes) (s : State) : State :=
  serve { opcode := 0x59, rights := boundModel 0, length := (· == 16), reserved := zeros [(1, 3)] } h p
    (fun s =>
      let m := fld p 0 1
      let x := s.model m
      let mask := BitVec.ofNat 96 (fld p 4 12)
      let taken := (List.range 8).any fun k => k != m && (s.model k).phase != .empty && (s.model k).bound &&& mask != 0
      refuseIf h.tag [(!x.placeable || taken, stState), (modelBusy s m, stBusy)]
        (fun s => doneWith h [] (onModel m (fun x => { x with bound := mask }) s)) s) s

/-! ### The meanings -/

def execModelLoadBegin (h : Hdr) (p : Bytes) (s : State) : Answer := .next (cmdModelLoadBegin h p s)
def execModelLoadData (h : Hdr) (p : Bytes) (s : State) : Answer := .next (cmdModelLoadData h p s)
def execModelLoadAbandon (h : Hdr) (p : Bytes) (s : State) : Answer := .next (cmdModelLoadAbandon h p s)
def execModelVerify (h : Hdr) (p : Bytes) (s : State) : Answer := .next (cmdModelVerify h p s)
def execModelPlace (h : Hdr) (p : Bytes) (s : State) : Answer := .next (cmdModelPlace h p s)
def execModelPlaceRidge (h : Hdr) (p : Bytes) (others : Option Refuser) (s : State) : Answer := .next (cmdModelPlaceRidge h p others s)
def execModelUnload (h : Hdr) (p : Bytes) (s : State) : Answer := .next (cmdModelUnload h p s)
def execModelPlacementGet (h : Hdr) (p : Bytes) (s : State) : Answer := .next (cmdModelPlacementGet h p s)
def execModelList (h : Hdr) (p : Bytes) (s : State) : Answer := .next (cmdModelList h p s)
def execModelStart (h : Hdr) (p : Bytes) (s : State) : Answer := .next (cmdModelStart h p s)
def execModelStop (h : Hdr) (p : Bytes) (s : State) : Answer := .next (cmdModelStop h p s)
def execModelReplace (h : Hdr) (p : Bytes) (s : State) : Answer := .next (cmdModelReplace h p s)
def execModelBindStreams (h : Hdr) (p : Bytes) (s : State) : Answer := .next (cmdModelBindStreams h p s)

end Sys2Proof.Machine
end

