-- ==== Sys2Proof/Machine/RmCommands.lean ====
section
/-! DEFINITION. The Resource Manager's commands of group 0x6_ (chapter 11). -/

namespace Sys2Proof.Machine

/-! ### JOB_SUBMIT (R274) -/

/-- The features that follow a frame's header in a payload. -/
def submitted (wide : Bool) (n : Nat) (p : Bytes) : List Int :=
  (List.range n).map fun i => if wide then signed 16 (fld p (68 + 2 * i) 2) else signed 8 (fld p (68 + i) 1)

/-- Reserved bytes of JOB_SUBMIT, and reserved bits and bytes of its frame's header (Tables 6-4, 7-6 to 7-8). -/
def submitReserved (p : Bytes) : Bool :=
  zeros [(1, 3), (64, 4)] p && bits (fld p 5 1) 5 3 == 0 && bits (fld p 6 1) 4 4 == 0 && bits (fld p 7 1) 5 3 == 0

/-- JOB_SUBMIT runs the host's frame through a PLACED or RUNNING model. -/
def cmdJobSubmit (h : Hdr) (p : Bytes) (s : State) : State :=
  serve { opcode := 0x60, rights := boundModel 0, length := fun _ => true, reserved := submitReserved } h p
    (fun s =>
      let m := fld p 0 1
      let x := s.model m
      let n := imgInC x.image * imgInL x.image; let wide := imgWide x.image
      let fits := p.length == 68 + n * (if wide then 2 else 1) && fld p 50 2 == n && fld p 52 1 == b2n wide
      refuseIf h.tag
        [(decide (p.length < 68), stParam), (x.phase != .placed && x.phase != .running, stState), (!fits, stParam),
         (x.unloading.isSome || x.yielding, stBusy), (decide (128 ≤ queueLength s), stQueueFull),
         (thermalRefuses s x.image, stThermal), (clockRefuses s x.image, stHwFault)]
        (fun s =>
          let g : FeatureFrame := { header := 0xFF :: slice p 5 63, features := submitted wide n p, wide := wide }
          started h.tag (commitMark h.tag (enterFrame m g ((freeBank s).getD 0) (some h.tag) s))) s) s

/-! ### Results (R268 to R270) -/

/-- Class Bound of a selection of results: a model's owner, or the session's own results (in part DEDUCED, log entry 37). -/
def boundResults (h : Hdr) (s : State) (p : Bytes) : Rights :=
  let m := fld p 0 1
  if p.isEmpty then .anyone
  else if m == 0xFF || (m < 8 && (s.model m).phase == .empty) then .bound (some h.owner)
  else .bound (modelOwner s m)

/-- A sequence number is not older than another, modulo 2^32. -/
def seqFrom (from' seq : Word32) : Bool := decide ((seq - from').toNat < 2 ^ 31)

/-- A result's entry as it is returned, with `PINNED`. -/
def Result.bytes (r : Result) : Bytes :=
  r.entry.take 7 ++ (slice r.entry 7 1).map (fun b => setBit b 4 r.pinned) ++ r.entry.drop 8

/-- Mark results as delivered. -/
def deliver (seqs : List Word32) (s : State) : State :=
  onRm (fun b => { b with results := b.results.map fun r => if seqs.contains r.seq then { r with delivered := true } else r }) s

/-- The number names a slot in PITCH, which accepts no command but two reports (Table 10-1). -/
def pitchSlot (s : State) (m : Nat) : Bool := decide (m < 8) && (s.model m).phase == .pitch

/-- RESULT_READ. An entry of the selection whose tag no longer matches reads as never written, and counts (R212, R270). -/
def cmdResultRead (h : Hdr) (p : Bytes) (s : State) : State :=
  serve { opcode := 0x61, rights := boundResults h, length := (· == 12)
          reserved := fun p => fld p 1 1 / 2 == 0 && fld p 2 2 == 0 && fld p 10 2 == 0 } h p
    (fun s =>
      let m := fld p 0 1; let from' := BitVec.ofNat 32 (fld p 4 4); let count := fld p 8 2
      refuseIf h.tag [(count == 0 || decide (63 < count), stParam), (pitchSlot s m, stState)]
        (fun s =>
          let mine := s.mdl.results.filter fun r => r.owner == h.owner && (m == 0xFF || r.model == m)
          let s := countUnwritten .control (mine.countP fun r => !r.valid s && seqFrom from' r.seq) s
          let chosen := mine.filter fun r => r.valid s && (!bit (fld p 1 1) 0 || r.pinned)
          let got := (chosen.filter fun r => seqFrom from' r.seq).take count
          let next := (got.getLast?.map fun r => r.seq + 1).getD from'
          let oldest := (chosen.head?.map (·.seq)).getD s.mdl.resultSeq
          doneWith h (le 4 next.toNat ++ le 4 oldest.toNat ++ got.flatMap Result.bytes) (deliver (got.map (·.seq)) s)) s) s

/-- The valid result a sequence number names. -/
def resultAt (s : State) (p : Bytes) : Option Result :=
  s.mdl.results.find? fun r => r.seq.toNat == fld p 0 4 && r.valid s

/-- Class Bound of a held result's owner; one no longer held names no owner. -/
def boundResult (s : State) (p : Bytes) : Rights :=
  match resultAt s p with
  | some r => .bound (some r.owner)
  | none => .anyone

/-- Pin or unpin a result. -/
def setPinned (seq : Word32) (v : Bool) (s : State) : State :=
  let s := onRm (fun b => { b with results := b.results.map fun r => if r.seq == seq then { r with pinned := v } else r }) s
  noteHigh 4 (s.mdl.results.countP fun r => r.pinned && r.valid s) s

/-- RESULT_PIN, within 256 pins of the device and 64 of an owner. -/
def cmdResultPin (h : Hdr) (p : Bytes) (s : State) : State :=
  serve { opcode := 0x62, rights := boundResult, length := (· == 4) } h p
    (fun s =>
      match resultAt s p with
      | none => finish h.tag stState [] s
      | some r =>
        let pins := s.mdl.results.filter fun q => q.pinned && q.valid s
        refuseIf h.tag
          [(!r.pinned && (decide (256 ≤ pins.length) || decide (64 ≤ pins.countP (·.owner == r.owner))), stNoResource)]
          (fun s => doneWith h [] (setPinned r.seq true s)) s) s

/-- RESULT_UNPIN. -/
def cmdResultUnpin (h : Hdr) (p : Bytes) (s : State) : State :=
  serve { opcode := 0x63, rights := boundResult, length := (· == 4) } h p
    (fun s =>
      match resultAt s p with
      | none => finish h.tag stState [] s
      | some r => doneWith h [] (setPinned r.seq false s)) s

/-! ### Status and counters -/

/-- RM_STATUS (Table 11-9). -/
def rmStatusBytes (s : State) : Bytes :=
  [BitVec.ofNat 8 (freeArrays s).length, BitVec.ofNat 8 ((List.range 64).countP (healthyArray s)),
   BitVec.ofNat 8 (s.pwr.on.toNat / 65536), BitVec.ofNat 8 (flags (s.lrn.cores.toList.map (·.fenced)))]
    ++ (List.range 4).flatMap (fun g => le 2 (groupRoom s g / 1024)) ++ le 2 (stagingRoom s 8 0 / 1024)
    ++ [BitVec.ofNat 8 (s.mdl.slots.toList.countP (·.phase == .running)), BitVec.ofNat 8 (pitchSlots s),
        BitVec.ofNat 8 s.mdl.jobs.length, 0, 0, 0]
    ++ le 4 s.mdl.framesUnbound.toNat ++ le 4 (report (streamLoad s 8)) ++ le 4 s.mdl.overwritten.toNat

/-- RM_STATUS. -/
def cmdRmStatus (h : Hdr) (p : Bytes) (s : State) : State :=
  serve { opcode := 0x64, length := (· == 0) } h p (fun s => doneWith h (rmStatusBytes s) s) s

/-- The twelve counters of a model; the mean LAT_AVG_US is rounded down (in part DESIGN CHOICE, log entry 174). -/
def counterBytes (s : State) (m : Nat) : Bytes :=
  let c := (s.model m).counters
  let avg := c.latencies.sum / max 1 c.latencies.length
  ([c.framesIn, c.jobs, c.results, c.unscored, c.reruns, c.abandoned, c.dropped, c.learnDropped,
    (rd s.mdl.shares (s.model m).owner.toNat).lost, BitVec.ofNat 32 avg, c.latMax, c.clips] : List Word32).flatMap fun x => le 4 x.toNat

/-- The form of RM_COUNTERS. -/
def rmCountersForm : Form :=
  { opcode := 0x65, rights := boundModel 0, length := (· == 4), reserved := fun p => fld p 1 1 / 2 == 0 && fld p 2 2 == 0 }

/-- RM_COUNTERS with `CLEAR` at 0. -/
def cmdRmCounters (h : Hdr) (p : Bytes) (s : State) : State :=
  serve rmCountersForm h p (fun s => refuseIf h.tag [(pitchSlot s (fld p 0 1), stState)] (fun s => doneWith h (counterBytes s (fld p 0 1)) s) s) s

/-- RM_COUNTERS with `CLEAR` at 1: the reply shows the values before. -/
def cmdRmCountersClear (h : Hdr) (p : Bytes) (s : State) : State :=
  serve rmCountersForm h p
    (fun s =>
      let m := fld p 0 1
      refuseIf h.tag [(pitchSlot s m, stState)]
        (fun s =>
          let s := onCounters m (fun _ => {}) (doneWith h (counterBytes s m) s)
          onRm (fun b => { b with shares := upd b.shares (s.model m).owner.toNat fun x => { x with lost := 0 } }) s) s) s

/-! ### RM_SHARE_SET (R261, R262) -/

/-- The 16 bytes in force. -/
def shareBytes (s : State) : Bytes := s.mdl.shares.toList.flatMap fun x => [x.weight, x.minSlots, x.maxSlots, 0]

/-- Entry o of a payload is in range. -/
def shareOk (p : Bytes) (o : Nat) : Bool :=
  let w := fld p (4 * o) 1; let lo := fld p (4 * o + 1) 1; let hi := fld p (4 * o + 2) 1
  decide (1 ≤ w) && decide (lo ≤ 56) && decide (1 ≤ hi) && decide (hi ≤ 64) && decide (lo ≤ hi)

/-- An owner's share with an entry's values. -/
def shareFrom (p : Bytes) (o : Nat) (x : Share) : Share :=
  { x with weight := .ofNat 8 (fld p (4 * o) 1), minSlots := .ofNat 8 (fld p (4 * o + 1) 1), maxSlots := .ofNat 8 (fld p (4 * o + 2) 1) }

/-- RM_SHARE_SET: read without a payload, or written with 16 bytes. -/
def cmdRmShareSet (h : Hdr) (p : Bytes) (s : State) : State :=
  serve { opcode := 0x66, rights := fun _ _ => .site, length := fun n => n == 0 || n == 16
          reserved := zeros [(3, 1), (7, 1), (11, 1), (15, 1)] } h p
    (fun s =>
      if p.isEmpty then doneWith h (shareBytes s) s
      else
        let ok := (List.range 4).all (shareOk p)
          && decide (((List.range 4).map fun o => fld p (4 * o + 1) 1).sum ≤ localSlots s)
        refuseIf h.tag [(!ok, stParam)]
          (fun s =>
            let s := onRm (fun b => { b with shares := (List.range 4).foldl (fun v o => upd v o (shareFrom p o)) b.shares }) s
            doneWith h (shareBytes s) s) s) s

/-! ### QUEUE_STATUS (R265) -/

/-- Depth and present level of the nine queues, in the order of their codes. -/
def queueLevels (s : State) : List (Nat × Nat) :=
  [(64, s.mdl.features.length), (128, queueLength s), (64, s.mdl.jobs.length), (64, plasticityQueue s),
   (1024, s.mdl.results.countP fun r => r.pinned && r.valid s), (128, s.link.events), (64, s.link.slots.countP fun c => hostTag c.tag),
   (8, postedPrograms s.nvm.posted), ((s.stm.streams.toList.map fun x => x.bufFrames.toNat).sum, (s.stm.streams.toList.map (·.held.length)).sum)]

/-- The 72 bytes of QUEUE_STATUS. -/
def queueBytes (s : State) : Bytes :=
  (queueLevels s).zipIdx.flatMap fun q =>
    [BitVec.ofNat 8 (q.2 + 1), 0] ++ le 2 q.1.1 ++ le 2 q.1.2 ++ le 2 (max q.1.2 (rd s.mdl.high q.2))

/-- QUEUE_STATUS with `CLEAR_HIGH` at 0. -/
def cmdQueueStatus (h : Hdr) (p : Bytes) (s : State) : State :=
  serve { opcode := 0x67, length := (· == 1), reserved := fun p => fld p 0 1 / 2 == 0 } h p (fun s => doneWith h (queueBytes s) s) s

/-- QUEUE_STATUS with `CLEAR_HIGH` at 1: the highest levels start again from the present ones
(in part DEDUCED, log entry 38). -/
def cmdQueueStatusClearHigh (h : Hdr) (p : Bytes) (s : State) : State :=
  serve { opcode := 0x67, rights := fun _ _ => .site, length := (· == 1), reserved := fun p => fld p 0 1 / 2 == 0 } h p
    (fun s =>
      let now := queueLevels s
      onRm (fun b => { b with high := (List.range 9).foldl (fun v i => wr v i (now.getD i (0, 0)).2) b.high })
        (doneWith h (queueBytes s) s)) s

/-- RESULT_SUBSCRIBE, kept with the model. -/
def cmdResultSubscribe (h : Hdr) (p : Bytes) (s : State) : State :=
  serve { opcode := 0x68, rights := boundModel 0, length := (· == 8), reserved := zeros [(4, 4)] } h p
    (fun s =>
      refuseIf h.tag [(decide (3 < fld p 1 1), stParam), (pitchSlot s (fld p 0 1), stState)]
        (fun s => doneWith h [] (onModel (fld p 0 1) (fun x => { x with subMode := .ofNat 8 (fld p 1 1), subThresh := .ofNat 16 (fld p 2 2) }) s)) s) s

/-! ### The meanings -/

def execJobSubmit (h : Hdr) (p : Bytes) (s : State) : Answer := .next (cmdJobSubmit h p s)
def execResultRead (h : Hdr) (p : Bytes) (s : State) : Answer := .next (cmdResultRead h p s)
def execResultPin (h : Hdr) (p : Bytes) (s : State) : Answer := .next (cmdResultPin h p s)
def execResultUnpin (h : Hdr) (p : Bytes) (s : State) : Answer := .next (cmdResultUnpin h p s)
def execRmStatus (h : Hdr) (p : Bytes) (s : State) : Answer := .next (cmdRmStatus h p s)
def execRmCounters (h : Hdr) (p : Bytes) (s : State) : Answer := .next (cmdRmCounters h p s)
def execRmCountersClear (h : Hdr) (p : Bytes) (s : State) : Answer := .next (cmdRmCountersClear h p s)
def execRmShareSet (h : Hdr) (p : Bytes) (s : State) : Answer := .next (cmdRmShareSet h p s)
def execQueueStatus (h : Hdr) (p : Bytes) (s : State) : Answer := .next (cmdQueueStatus h p s)
def execQueueStatusClearHigh (h : Hdr) (p : Bytes) (s : State) : Answer := .next (cmdQueueStatusClearHigh h p s)
def execResultSubscribe (h : Hdr) (p : Bytes) (s : State) : Answer := .next (cmdResultSubscribe h p s)

end Sys2Proof.Machine
end

