-- ==== Sys2Proof/Machine/Learn.lean ====
section
/-! DEFINITION. On-device learning: the engine's operations and the commands of group 0x7_ (chapter 12). -/

namespace Sys2Proof.Machine

/-! ### The records (Tables 12-4 and 12-5) -/

def Head.lambda (h : Head) : Int := fld h.hrec 0 2
def Head.eta (h : Head) : Int := fld h.hrec 2 2
def Head.wMin (h : Head) : Int := signed 16 (fld h.hrec 4 2)
def Head.wMax (h : Head) : Int := signed 16 (fld h.hrec 6 2)
def Head.wInit (h : Head) : Int := signed 16 (fld h.hrec 8 2)
def Head.thetaCreate (h : Head) : Int := fld h.hrec 10 2
def Head.thetaPrune (h : Head) : Nat := fld h.hrec 12 2
def Head.pPrune (h : Head) : Nat := fld h.hrec 14 1
def Head.maxCreate (h : Head) : Nat := fld h.hrec 15 1
def Head.epochLen (h : Head) : Nat := fld h.hrec 16 2
def Head.epochMode (h : Head) : Bool := bit (fld h.hrec 18 1) 0
/-- `CONSOLIDATE`: 0 OFF, 1 AUTO, 2 COMMAND. -/
def Head.consMode (h : Head) : Nat := bits (fld h.hrec 18 1) 1 2
def Head.saveEpochs (h : Head) : Nat := fld h.hrec 19 1
def Head.deltaCommit (h : Head) : Nat := fld h.hrec 20 4
def Head.maxSyn (h : Head) : Nat := fld h.hrec 24 2
def Head.traceShift (h : Head) : Nat := fld h.hrec 32 1
def Head.postWin (h : Head) : Nat := fld h.hrec 33 1
def Head.candPre (h : Head) : Nat := fld h.hrec 34 1
def Head.candPerFrame (h : Head) : Nat := fld h.hrec 35 1
def Head.consShift (h : Head) : Nat := bits (fld h.hrec 38 1) 0 4
def Head.kReward (h : Head) : Int := signed 8 (fld h.mrec 0 1)
def Head.kNovelty (h : Head) : Int := signed 8 (fld h.mrec 1 1)
def Head.kContext (h : Head) : Int := signed 8 (fld h.mrec 2 1)
def Head.novLow (h : Head) : Int := signed 16 (fld h.mrec 4 2)

/-- Add to `CHANGE`, which stops at all ones (in part DEDUCED, log entry 40). -/
def addChange (k c : Nat) : Nat := min 0xFFFFFFFF (c + k)

/-! ### Traces and candidates (R284, R285) -/

/-- The trace rule for a pair. -/
def nextTrace (h : Head) (e : StepEvent) (pre post : Nat) (t : Int) : Int :=
  let q := if post == e.winner then h.postWin else 0
  sat16 ((h.lambda * t + 2 ^ 14) / 2 ^ 15 + ((e.pre.getD pre 0 * q / 2 ^ h.traceShift : Nat) : Int))

/-- Sweep the traces of the synapses. -/
def sweepTraces (e : StepEvent) (h : Head) : Head :=
  { h with syn := h.syn.map fun z => { z with e := nextTrace h e z.pre z.post z.e } }

/-- Sweep the candidates; one whose trace becomes 0 is freed. -/
def sweepCandidates (e : StepEvent) (h : Head) : Head :=
  { h with cands := h.cands.map fun c => c.bind fun c =>
      let t := nextTrace h e c.pre c.post c.trace
      if t == 0 then none else some { c with trace := t } }

/-- The pair is a synapse or a candidate. -/
def Head.knows (h : Head) (pre post : Nat) : Bool :=
  h.syn.any (fun z => z.pre == pre && z.post == post)
    || h.cands.any fun c => c.any fun c => c.pre == pre && c.post == post

/-- Entry with the smallest trace, the lowest on a tie. -/
def weakest (cs : List (Option Candidate)) : Option (Nat × Int) :=
  cs.zipIdx.foldl (fun b c => match c.1, b with
    | some c', some x => if c'.trace < x.2 then some (c.2, c'.trace) else some x
    | some c', none => some (c.2, c'.trace)
    | none, b => b) none

/-- Enter a candidate: the lowest free entry, or in place of a weaker one; otherwise it is dropped and counted. -/
def enterCandidate (c : Candidate) (h : Head) : Head :=
  match h.cands.findIdx? (·.isNone) with
  | some k => { h with cands := h.cands.set k (some c) }
  | none =>
    if h.cands.length < 1024 then { h with cands := h.cands ++ [some c] }
    else match weakest h.cands with
      | some x =>
        if x.2 < c.trace then { h with cands := h.cands.set x.1 (some c) }
        else { h with stats := { h.stats with candDropped := satInc h.stats.candDropped } }
      | none => h

/-- New candidates of a step's winner. -/
def newCandidates (e : StepEvent) (h : Head) : Head :=
  let found := (e.pre.zipIdx.filter fun p => decide (h.candPre ≤ p.1) && !h.knows p.2 e.winner).take h.candPerFrame
  found.foldl (fun h p => enterCandidate { pre := p.2, post := e.winner, trace := ((p.1 * h.postWin / 2 ^ h.traceShift : Nat) : Int) } h) h

/-! ### Modulator and weight update (R286, R287) -/

/-- CONTEXT. -/
def contextOf (h : Head) (e : StepEvent) : Int :=
  let lo := fld h.mrec 8 4; let hi := fld h.mrec 12 4
  if e.running && decide (lo ≤ e.speed) && (hi == 0 || decide (e.speed ≤ hi)) && (e.loaded || !bit (fld h.mrec 3 1) 1) then 127 else 0

/-- The modulator of a step. -/
def modulator (h : Head) (e : StepEvent) : Int :=
  let r := if h.rewardLeft == 0 then 0 else h.reward
  let n : Int := if e.novelty ≤ h.novLow then 127 else 0
  let c := contextOf h e
  if h.holdoff.isSome || (bit (fld h.mrec 3 1) 0 && c == 0) then 0
  else sat8 ((h.kReward * r + h.kNovelty * n + h.kContext * c + 64) / 2 ^ 7)

/-- A weight after an update with M. -/
def nextWeight (h : Head) (m : Int) (z : Synapse) : Int :=
  let range := h.wMax - h.wMin
  let g := if 0 < m * z.e then ((h.wMax - z.w) * 2 ^ 15).tdiv range else ((z.w - h.wMin) * 2 ^ 15).tdiv range
  clamp h.wMin h.wMax (z.w + (h.eta * m * z.e * g + 2 ^ 37) / 2 ^ 38)

/-- Apply one weight update, with the sum of the changes. -/
def updateWeights (m : Int) (h : Head) : Head × Nat :=
  let new := h.syn.map fun z => { z with w := nextWeight h m z }
  let delta := ((h.syn.zip new).map fun z => (z.2.w - z.1.w).natAbs).sum
  ({ h with syn := new, change := addChange delta h.change, changed := h.changed || delta != 0
            stats := { h.stats with updates := satInc h.stats.updates } }, delta)

/-- A step's part before the epoch end (R284 to R290). Traces, WINS, EPOCH_COUNT and S_M alone are no change since the last save
(R299) (in part DEDUCED, log entry 178). -/
def takeStep (e : StepEvent) (h : Head) : Head :=
  let m := modulator h e
  let h := sweepTraces e h
  let h := if !h.epochMode && m != 0 then (updateWeights m h).1 else h
  let h := newCandidates e (sweepCandidates e h)
  { h with
    sM := if h.epochMode then h.sM + m else h.sM, rewardLeft := h.rewardLeft - 1, epochCount := h.epochCount + 1
    wins := h.wins.zipIdx.map (fun w => if w.2 == e.winner then min 0xFFFFFFFF (w.1 + 1) else w.1)
    stats := { h.stats with steps := satInc h.stats.steps } }

/-! ### The epoch end (R289, R292) -/

/-- S_M / EPOCH_LEN to the nearest integer, halves away from zero, saturated. -/
def epochModulator (h : Head) : Int :=
  let l := max 1 h.epochLen
  let q : Int := (((2 * h.sM.natAbs + l) / (2 * l) : Nat) : Int)
  sat8 (if h.sM < 0 then -q else q)

/-- Insert a synapse in the order of (POST, PRE). -/
def insertSynapse (z : Synapse) (l : List Synapse) : List Synapse :=
  l.takeWhile (fun x => x.key < z.key) ++ z :: l.dropWhile fun x => x.key < z.key

/-- Prune: `PRUNE_RUN` of every synapse, and those that leave. -/
def prune (h : Head) : Head × Nat :=
  let ran := h.syn.map fun z => { z with run := if z.w.natAbs < h.thetaPrune then min 15 (z.run + 1) else 0 }
  let goes (z : Synapse) : Bool := h.pPrune != 0 && decide (h.pPrune ≤ z.run)
  let out := ran.filter goes
  ({ h with syn := ran.filter (!goes ·), changed := h.changed || !out.isEmpty || ran != h.syn, change := addChange ((out.map (·.w.natAbs)).sum) h.change
            stats := { h.stats with pruned := satAdd h.stats.pruned out.length } }, out.length)

/-- Candidates above THETA_CREATE, strongest first, ties by (POST, PRE). -/
def strong (h : Head) : List Candidate :=
  (sortBy (fun c => (65535 - c.trace.toNat) * 2 ^ 24 + c.post * 65536 + c.pre) (h.cands.filterMap id)).filter
    fun c => h.thetaCreate < c.trace

/-- Create synapses from the strongest candidates; the last number counts those created. -/
def create (h : Head) : Head × Nat :=
  let room := h.maxSyn - h.syn.length
  let new := (strong h).take (min h.maxCreate room)
  let h' : Head := { h with
    syn := new.foldl (fun l c => insertSynapse { pre := c.pre, post := c.post, w := h.wInit, e := c.trace } l) h.syn
    cands := h.cands.map fun c => c.bind fun c => if new.any (fun n => n.pre == c.pre && n.post == c.post) then none else some c
    change := addChange (new.length * h.wInit.natAbs) h.change, changed := h.changed || !new.isEmpty
    stats := { h.stats with created := satAdd h.stats.created new.length } }
  (h', new.length)

/-- Creation is blocked: the synapse table is full while a candidate could still be created. -/
def createBlocked (h : Head) (created : Nat) : Bool :=
  decide (created < h.maxCreate) && !(strong h).isEmpty && decide (h.maxSyn ≤ h.syn.length)

/-! ### Consolidation (R295, R296) -/

/-- Code of a weight in a copy: w4 + 8. -/
def w4 (h : Head) (w : Int) : Nat :=
  (clamp (-8) 7 (shiftRound w h.consShift) + 8).toNat

/-- The cells of array k of a head's copy; a pair without a synapse takes 0. -/
def copyCells (h : Head) (k : Nat) : Bytes :=
  let code (row col : Nat) : Nat := match h.syn.find? fun z => z.pre == 256 * k + row && z.post == col with
    | some z => w4 h z.w
    | none => 8
  (List.range 32768).map fun i => BitVec.ofNat 8 (code (i / 128) (i % 128 * 2) + 16 * code (i / 128) (i % 128 * 2 + 1))

/-- What a request for consolidation comes to. -/
inductive Request where
  | begun (s : State)
  | noArrays (s : State)
  | wear (s : State)

/-- A deferred request is counted and reported. -/
def deferCopy (n : Nat) (kind : Byte) (arrays : List Nat) (s : State) : State :=
  consolidated n kind arrays (onHead n (fun h => { h with stats := { h.stats with consDeferred := satInc h.stats.consDeferred } }) s)

/-- Request a consolidation. -/
def requestCopy (n : Nat) (tag : Option Tag) (s : State) : Request :=
  let h := s.head n
  let u := h.user.getD (0, 0)
  let need := (h.nPre + 255) / 256
  let arrays := match h.copy with
    | some c => some c.arrays
    | none => (pack (arrayKey s) [need] (byCore s (freeArrays s))).map List.flatten
  match arrays with
  | none => .noArrays (deferCopy n 3 [] s)
  | some arrays =>
    let writes : List ArrayWrite := arrays.zipIdx.map fun a =>
      { array := a.1, use := { model := u.1, layer := u.2, block := a.2, head := some n }, cells := copyCells h a.2 }
    match askGrant writes s with
    | none => .wear (deferCopy n 2 arrays (countRefusal s))
    | some s =>
      let s := onHead n (fun h => { h with change := 0, copy := some { arrays := arrays, writing := true } }) s
      .begun (startRun { model := u.1, cause := .consolidate n tag h.change, writes := writes } none s)

/-- The consolidation test of an epoch end. -/
def testCopy (n : Nat) (s : State) : State :=
  let h := s.head n
  if h.consMode != 1 || h.change < h.deltaCommit || h.copy.any (fun c => c.writing || c.ready) || thermalState s == .trip then s
  else match requestCopy n none s with
    | .begun s | .noArrays s | .wear s => s

/-- The save test of an epoch end, before `EPOCHS` rises (R292); where the pair is busy its save follows. -/
def saveAtEpoch (n : Nat) (s : State) : State :=
  let h := s.head n
  if h.saveEpochs == 0 || h.epochs % h.saveEpochs != 0 || !h.changed then s
  else if pairBusy s n then requestSave n .epoch none s
  else startSave n .epoch none s

/-- The epoch end of a head. -/
def epochEnd (n : Nat) (s : State) : State :=
  let h := s.head n
  let mEp := if h.epochMode then epochModulator h else 0
  let h := if mEp != 0 then (updateWeights mEp h).1 else h
  let p := prune (if h.epochMode then { h with sM := 0 } else h)
  let c := create p.1
  let blocked := createBlocked c.1 c.2
  let s := onHead n (fun _ => { c.1 with
    stats := { c.1.stats with createBlocked := if blocked then satInc c.1.stats.createBlocked else c.1.stats.createBlocked } }) s
  let s := if blocked then
      raiseHead n 0x74 false ([BitVec.ofNat 8 n, 0] ++ le 2 c.1.syn.length ++ le 4 (strong c.1).length) s
    else s
  let s := saveAtEpoch n (testCopy n s)
  let s := onHead n (fun h => { h with epochCount := 0, epochs := min 0xFFFFFFFF (h.epochs + 1) }) s
  let h := s.head n
  raiseHead n 0x70 false ([BitVec.ofNat 8 n, BitVec.ofInt 8 mEp, BitVec.ofNat 8 (min 255 c.2), BitVec.ofNat 8 (min 255 p.2)]
    ++ le 4 h.epochs ++ le 2 h.syn.length ++ [0, 0] ++ le 4 h.change) s

/-! ### The engine's operations (R281) -/

/-- A forward pass waits for the engine. -/
def forwardWaits (s : State) : Bool :=
  s.mdl.jobs.any fun j => j.running.contains .plasticity
    || ((j.placeIn s).place == .plasticity && j.running.isEmpty && decide (j.layer < (s.model j.model).placement.layers.length)
        && match headAt s j.model j.layer with
          | some n => (s.head n).loaded && (!copyUsed s n || !j.done.isEmpty)
          | none => false)

/-- A save of the head is in progress: its other operations wait (R299). -/
def Head.saves (h : Head) : Bool := match h.busy with
  | some (.saving _ _) | some (.saved _ _) => true
  | _ => false

/-- The engine can take a step or a reward of a head: not under Belay's freeze (R293), during a save (R299), before a waiting
forward pass (R281) or without its clock. -/
def headServes (s : State) (n : Nat) : Bool :=
  (s.head n).loaded && !(s.head n).saves && !belayHolds s && works s 10 && !forwardWaits s

/-- The engine takes the learning step at the front of a head's operations. -/
def execLearningStep (head : BitVec 2) (s : State) : Answer :=
  let n := head.toNat
  match (s.head n).ops with
  | .step e :: rest =>
    if !s.isOn 10 then .next (wantDomain 10 true s)
    else if !headServes s n then .next s
    else
      let s := onHead n (fun h => takeStep e { h with ops := rest }) s
      .next (serveHead n (if (s.head n).epochLen ≤ (s.head n).epochCount then epochEnd n s else s))
  | _ => .next s

/-- The engine applies the immediate reward at the front of a head's operations (R291). -/
def execRewardUpdate (head : BitVec 2) (s : State) : Answer :=
  let n := head.toNat
  match (s.head n).ops with
  | .reward tag value :: rest =>
    if !s.isOn 10 then .next (wantDomain 10 true s)
    else if !headServes s n then .next s
    else
      let h := s.head n
      let m := if h.holdoff.isSome then 0 else sat8 ((h.kReward * value + 64) / 2 ^ 7)
      let r := if m == 0 then (h, 0) else updateWeights m h
      let s := onHead n (fun _ => { r.1 with ops := rest, stats := { r.1.stats with rewards := satInc r.1.stats.rewards } }) s
      .next (serveHead n (finish tag 0x00 ([BitVec.ofInt 8 m, 0, 0, 0] ++ le 4 (min 0xFFFFFFFF r.2)) (commitMark tag s)))
  | _ => .next s

/-- The settle period of a head ends (R294). -/
def execSettlePeriodEnd (head : BitVec 2) (s : State) : Answer :=
  let n := head.toNat
  if (s.head n).settle.isNone then .next s else .next (noteFreeze n 0 (onHead n (fun h => { h with settle := none }) s))

/-- The holdoff period of a head ends (R294). -/
def execHoldoffPeriodEnd (head : BitVec 2) (s : State) : Answer :=
  let n := head.toNat
  if (s.head n).holdoff.isNone then .next s else .next (noteFreeze n 0 (onHead n (fun h => { h with holdoff := none }) s))

/-! ### Saves and loads that end (R299, R301) -/

/-- The blob of Table 12-3 of a head's current copy under its owner's export key, and the state that has drawn its nonce. -/
def exportBlob (n : Nat) (c : Bytes) (s : State) : Bytes × State :=
  let owner := fld c 36 1
  let nonce := fixed 12 (Config.random s.free 12)
  let hdr := [0x48, 0x58, 0x50, 0x31, 1, 0, BitVec.ofNat 8 n, BitVec.ofNat 8 owner] ++ le 4 c.length ++ le 4 (fld c 12 4) ++ nonce ++ [0, 0, 0, 0]
  let r := gcmSeal (rd s.own.slots owner).xk nonce hdr c
  (hdr ++ r.1 ++ r.2, { s with free := s.free + 1 })

/-- End a HEAD_EXPORT with the blob of the current copy, whose pages are read. -/
def replyExport (n : Nat) (tag : Tag) (s : State) : State :=
  match (s.head n).copyImage with
  | some c =>
    let ok := readable s (currentPages s n)
    let s := readPages (currentPages s n) s
    if ok then let r := exportBlob n c s; finish tag 0x00 r.1 (commitMark tag r.2) else finish tag stNvm [] s
  | none => finish tag stState [] s

/-- Heads allocated to an owner's models. -/
def headsOfOwner (s : State) (o : Nat) : List Nat :=
  (List.range 4).filter fun n => (s.head n).user.any fun u => (s.model u.1).owner.toNat == o

/-- Carry an EPOCH_ROLL on: once its heads are saved the epoch rolls, which is the commit point, and the heads are loaded
again; then EPOCH_ROLLED and the reply (R382) (in part DEDUCED, log entry 105). -/
def carryRoll (s : State) : State :=
  match s.own.roll with
  | none => s
  | some r =>
    let hs := headsOfOwner s r.owner
    if hs.any fun n => pairBusy s n then s
    else if !r.rolled then
      let s := commitMark r.tag (rollEpoch r.owner { s with own := { s.own with roll := some { r with rolled := true } } })
      let s := hs.foldl (fun s n => startLoad n .wake none s) s
      if hs.isEmpty then endRoll r s else wantDomain 10 true s
    else endRoll r s
where
  endRoll (r : EpochRoll) (s : State) : State :=
    let e := le 2 (rd s.nvm.epochs r.owner).toNat
    let s := raiseOwned (BitVec.ofNat 2 r.owner) 0xA3 true ([BitVec.ofNat 8 r.owner, 0] ++ e) { s with own := { s.own with roll := none } }
    finish r.tag 0x00 (e ++ [0, 0]) s

/-- The commit record of a head's save is programmed: HEAD_SAVED, and the reply of the command that asked for it; an export
waits until it can read the copy (R218). -/
def execHeadSaveCommit (head : BitVec 2) (s : State) : Answer :=
  let n := head.toNat
  match (s.head n).busy with
  | some (.saved cause tag) =>
    if cause == .exported && readWaits s (currentPages s n) then .next s
    else
      let s := onHead n (fun h => { h with busy := none, image := [], stats := { h.stats with saves := satInc h.stats.saves } }) s
      let h := s.head n
      let slot := BitVec.ofNat 8 (h.current.getD 0)
      let s := raiseHead n 0x71 false ([BitVec.ofNat 8 n, slot, 0, 0] ++ le 4 h.saveSeq) s
      let s := match tag with
        | none => carryRoll s
        | some t => if cause == .exported then replyExport n t s else finish t 0x00 (le 4 h.saveSeq ++ [slot, 1, 0, 0]) s
      .next (serveHead n s)
  | _ => .next s

/-- `SOURCE` of HEAD_RESTORED. -/
def LoadSource.code : LoadSource → Byte
  | .current | .wake | .resumed => 0 | .previous => 1 | .initial => 2 | .imported => 3 | .adoption => 4

/-- The load at the front of a head's operations, once no record, copy or erase stands before it. -/
def Head.loadDue (h : Head) : Option (LoadSource × Option Tag) :=
  match h.ops, h.busy with
  | .load source tag :: _, none => some (source, tag)
  | _, _ => none

/-- A head takes what its load has read: the copy, or the image's initial state where there is none; restores, imports and resets
withdraw the consolidated copy and start the settle period (R281, R297, R301). -/
def loadTakes (n : Nat) (u : Nat × Nat) (source : LoadSource) (tag : Option Tag) (copy : Option Bytes) (s : State) : State :=
  let img := (s.model u.1).image
  let ended (h : Head) : Head := { h with rewardLeft := if source == .wake then h.rewardLeft else 0, slept := false }
  let s := onHead n (fun h => ended (match copy with
    | some c => h.load c
    | none => h.initial img (layerAt img u.2))) s
  let keep := (s.head n).consMode != 0
  let s := if tag.isSome then startSettle n (withdrawCopy n keep stState s) else s
  let seq := (copy.map fun c => fld c 12 4).getD 0
  let code := if copy.isNone then 2 else source.code
  let s := if source == .wake || source == .resumed then s else raiseHead n 0x75 true ([BitVec.ofNat 8 n, code, 0, 0] ++ le 4 seq) s
  serveHead n (match tag with
    | none => carryRoll s
    | some t => finish t 0x00 (if (s.slot? t).any (·.opcode == 0x7C) then [] else le 4 seq) (commitMark t s))

/-- The engine ends a head's load. A load from a copy that does not exist, or that cannot be read, takes the image's initial
state, but for one that a command asked for, which then ends with NVM_ERROR. -/
def execHeadLoadDone (head : BitVec 2) (s : State) : Answer :=
  let n := head.toNat
  match (s.head n).loadDue, (s.head n).user with
  | some (source, tag), some u =>
    let l := layerAt (s.model u.1).image u.2
    let pages := if source == .initial then (s.model u.1).pagesFor l.wAt l.wLen else currentPages s n
    if !s.isOn 10 then .next (wantDomain 10 true s)
    else if !works s 10 || forwardWaits s || readWaits s pages then .next s
    else
      let good := readable s pages
      let s := onHead n (fun h => { h with ops := h.ops.drop 1 }) (readPages pages s)
      let copy := if source == .initial || !good then none else (s.head n).copyImage
      match if good then none else tag with
      | some t => .next (serveHead n (finish t stNvm [] s))
      | none => .next (loadTakes n u source tag copy s)
  | _, _ => .next s

/-- A consolidated copy comes into force at a frame boundary of its model (R296). -/
def execConsolidationInForce (head : BitVec 2) (s : State) : Answer :=
  let n := head.toNat
  match (s.head n).copy, (s.head n).user with
  | some c, some u =>
    if !c.ready || s.mdl.jobs.any (·.model == u.1) then .next s
    else
      let s := onHead n (fun h => { h with copy := some { c with ready := false, inForce := true, tag := none } }) s
      let s := consolidated n 1 c.arrays s
      match c.tag with
      | some t => .next (finish t 0x00 ([1, 0, 0, 0] ++ arrayMap c.arrays ++ le 4 c.changeAt) (commitMark t s))
      | none => .next s
  | _, _ => .next s

/-! ### Commands: configuration (R305) -/

/-- Class Bound for a HEAD. -/
def boundHead (s : State) (p : Bytes) : Rights := if p.isEmpty then .anyone else .bound (headOwner s (fld p 0 1))

/-- The head a payload names is an orphan (R306). -/
def namesOrphan (s : State) (p : Bytes) : Bool := (s.head (fld p 0 1)).user.isNone

/-- The form of a command that names a head in four bytes with flags in the second. -/
def headForm (opcode : Byte) (flagBits : Nat) : Form :=
  { opcode := opcode, rights := boundHead, length := (· == 4), reserved := fun p => fld p 1 1 / 2 ^ flagBits == 0 && fld p 2 2 == 0 }

/-- A head with a new head record in force. -/
def Head.withRecord (r : Bytes) (h : Head) : Head :=
  let h' : Head := { h with hrec := r, changed := h.changed || h.hrec != r }
  let h' := if h'.epochMode != h.epochMode then { h' with epochCount := 0, sM := 0 } else h'
  if h'.wMin == h.wMin && h'.wMax == h.wMax then h'
  else
    let new := h.syn.map fun z => { z with w := clamp h'.wMin h'.wMax z.w }
    { h' with syn := new, change := addChange (((h.syn.zip new).map fun z => (z.2.w - z.1.w).natAbs).sum) h.change }

/-- HEAD_CONFIG. -/
def cmdHeadConfig (h : Hdr) (p : Bytes) (s : State) : State :=
  serve { opcode := 0x70, rights := boundHead, length := (· == 44), reserved := fun p => zeros [(1, 3)] p && headReserved (slice p 4 40) } h p
    (fun s =>
      let n := fld p 0 1; let r := slice p 4 40
      refuseIf h.tag
        [(!headInRange r || (!namesOrphan s p && decide (fld r 24 2 < (s.head n).syn.length)), stParam), (namesOrphan s p, stState)]
        (fun s =>
          let s := onHead n (Head.withRecord r) s
          let s := if (s.head n).consMode == 0 then withdrawCopy n false stState s else s
          doneWith h r s) s) s

/-- MODULATOR_CONFIG. -/
def cmdModulatorConfig (h : Hdr) (p : Bytes) (s : State) : State :=
  serve { opcode := 0x73, rights := boundHead, length := (· == 20), reserved := fun p => zeros [(1, 3)] p && modReserved (slice p 4 16) } h p
    (fun s =>
      let n := fld p 0 1; let r := slice p 4 16
      refuseIf h.tag [(!modInRange r, stParam), (namesOrphan s p, stState)]
        (fun s => doneWith h r (onHead n (fun h => { h with mrec := r, changed := h.changed || h.mrec != r }) s)) s) s

/-- Seconds left of a period, rounded up (in part DESIGN CHOICE, log entry 183). -/
def periodLeft (s : State) (t : Option Ticks) : Nat :=
  match t with
  | some t => if s.clk.tick.toNat < t.toNat then min 0xFFFF ((t.toNat - s.clk.tick.toNat + 32767) / 32768) else 0
  | none => 0

/-- HEAD_GET (Table 12-6). -/
def headBytes (s : State) (n : Nat) : Bytes :=
  let h := s.head n
  let c := h.copyImage
  match h.user with
  | some u =>
    [BitVec.ofNat 8 n, BitVec.ofNat 8 (flags [true, h.copy.any (·.inForce), c.isSome, false, h.changed]), BitVec.ofNat 8 u.1, BitVec.ofNat 8 u.2
    , freezeMask s n, 0] ++ le 2 h.syn.length ++ le 2 h.epochCount ++ le 2 (periodLeft s h.settle) ++ le 2 (periodLeft s h.holdoff)
      ++ le 2 (h.cands.countP (·.isSome)) ++ fixed 40 h.hrec ++ fixed 16 h.mrec
  | none =>
    let c := c.getD []
    [BitVec.ofNat 8 n, 0x0C, 0xFF] ++ fixed 1 (slice c 37 1) ++ [0, 0] ++ fixed 2 (slice c 10 2) ++ fixed 2 (slice c 108 2) ++ List.replicate 6 0
      ++ fixed 56 (slice c 48 56)

/-- HEAD_GET (in part DEDUCED, log entry 43). -/
def cmdHeadGet (h : Hdr) (p : Bytes) (s : State) : State :=
  serve (headForm 0x71 0) h p (fun s => doneWith h (headBytes s (fld p 0 1)) s) s

/-! ### REWARD (R286, R291) -/

/-- The form of REWARD. -/
def rewardForm : Form := { opcode := 0x72, rights := boundHead, length := (· == 8), reserved := zeros [(3, 1), (6, 2)] }

/-- Conditions of REWARD beside its own range. -/
def rewardRefused (s : State) (p : Bytes) : Bool := namesOrphan s p || blocksPosting (freezeMask s (fld p 0 1))

/-- REWARD with `MODE` 0x00. -/
def cmdRewardCancel (h : Hdr) (p : Bytes) (s : State) : State :=
  serve rewardForm h p
    (fun s => refuseIf h.tag [(fld p 2 1 != 0 || fld p 4 2 != 0, stParam), (rewardRefused s p, stState)]
      (fun s => doneWith h (List.replicate 8 0) (onHead (fld p 0 1) (fun h => { h with reward := 0, rewardLeft := 0 }) s)) s) s

/-- REWARD with `MODE` 0x01 stands behind the steps queued now. -/
def cmdRewardImmediate (h : Hdr) (p : Bytes) (s : State) : State :=
  serve rewardForm h p
    (fun s => refuseIf h.tag [(fld p 4 2 != 0, stParam), (rewardRefused s p, stState), (clockDown s 10, stHwFault)]
      (fun s => onHead (fld p 0 1) (fun x => { x with ops := x.ops ++ [.reward h.tag (signed 8 (fld p 2 1))] }) s) s) s

/-- REWARD with `MODE` 0x02 replaces any held reward. -/
def cmdRewardHeld (h : Hdr) (p : Bytes) (s : State) : State :=
  serve rewardForm h p
    (fun s => refuseIf h.tag [(fld p 4 2 == 0, stParam), (rewardRefused s p, stState)]
      (fun s => doneWith h (List.replicate 8 0)
        (onHead (fld p 0 1) (fun h => { h with reward := signed 8 (fld p 2 1), rewardLeft := fld p 4 2 }) s)) s) s

/-! ### Freeze (R293, R294) -/

/-- HEAD_FREEZE. -/
def cmdHeadFreeze (h : Hdr) (p : Bytes) (s : State) : State :=
  serve (headForm 0x74 0) h p
    (fun s => refuseIf h.tag [(namesOrphan s p, stState)]
      (fun s =>
        let n := fld p 0 1
        let k := (s.head n).steps
        let s := serveHead n (noteFreeze n k (cancelSteps n (onHead n (fun h => { h with command := true }) s)))
        doneWith h [freezeMask s n, 0, 0, 0] s) s) s

/-- HEAD_RESUME. -/
def cmdHeadResume (h : Hdr) (p : Bytes) (s : State) : State :=
  serve (headForm 0x75 1) h p
    (fun s => refuseIf h.tag [(namesOrphan s p, stState)]
      (fun s =>
        let n := fld p 0 1
        let s := onHead n (fun h => { h with command := false }) s
        let s := if bit (fld p 1 1) 0 then startSettle n s else noteFreeze n 0 s
        doneWith h [freezeMask s n, 0, 0, 0] s) s) s

/-! ### Saved state (R299 to R302, R306) -/

/-- HEAD_SAVE (in part DEDUCED, log entry 142). -/
def cmdHeadSave (h : Hdr) (p : Bytes) (s : State) : State :=
  serve (headForm 0x76 0) h p
    (fun s =>
      let n := fld p 0 1
      refuseIf h.tag [(namesOrphan s p, stState), (pairBusy s n, stBusy)]
        (fun s =>
          let x := s.head n
          if !x.changed then
            doneWith h (le 4 ((x.copyImage.map fun c => fld c 12 4).getD 0) ++ [BitVec.ofNat 8 (x.current.getD 0), 0, 0, 0]) s
          else refuseIf h.tag [(clockDown s 10, stHwFault)] (fun s => requestSave n .command (some h.tag) (started h.tag s)) s) s) s

/-- The other area's image. -/
def previousImage (h : Head) : Option Bytes := h.current.bind fun k => rd h.areas (1 - k)

/-- HEAD_RESTORE; from the previous copy it first writes the commit record that names it. -/
def cmdHeadRestore (h : Hdr) (p : Bytes) (s : State) : State :=
  serve { opcode := 0x77, rights := boundHead, length := (· == 4), reserved := zeros [(2, 2)] } h p
    (fun s =>
      let n := fld p 0 1; let src := fld p 1 1
      let x := s.head n
      let u := x.user.getD (0, 0)
      let l := layerAt (s.model u.1).image u.2
      let none' := (src == 0 && x.copyImage.isNone) || (src == 1 && (previousImage x).isNone)
        || (src == 2 && ((s.model u.1).pagesFor l.wAt l.wLen).contains 0)
      refuseIf h.tag [(decide (2 < src), stParam), (namesOrphan s p || none', stState), (pairBusy s n, stBusy), (clockDown s 10, stHwFault)]
        (fun s =>
          let s := cancelSteps n (started h.tag s)
          if src == 1 then
            postNvm [{ page := commitPage n, job := .headCommit n, tag := some h.tag, commit := true, point := true }]
              (onHead n (fun x => { x with area := 1 - x.current.getD 0, image := (previousImage x).getD [], busy := some (.restoring h.tag) })
                (startLoad n .previous (some h.tag) s))
          else startLoad n (if src == 0 then .current else .initial) (some h.tag) s) s) s

/-- HEAD_EXPORT (in part DEDUCED, log entry 45). -/
def cmdHeadExport (h : Hdr) (p : Bytes) (s : State) : State :=
  serve (headForm 0x78 1) h p
    (fun s =>
      let n := fld p 0 1; let first := bit (fld p 1 1) 0
      refuseIf h.tag
        [((first && namesOrphan s p) || (!first && (s.head n).copyImage.isNone), stState), (pairBusy s n, stBusy)]
        (fun s => refuseIf h.tag [(s.own.trngFault || (first && clockDown s 10), stHwFault)]
          (fun s =>
            if first then requestSave n .exported (some h.tag) (started h.tag s)
            else whenReadable (currentPages s n) 0x78 h p (replyExport n h.tag) s) s) s) s

/-- The plaintext of a blob, where its tag verifies under the owner's export key. -/
def openBlob (s : State) (owner : Nat) (b : Bytes) : Option Bytes :=
  gcmOpen (rd s.own.slots owner).xk (slice b 16 12) (b.take 32) (slice b 32 (fld b 8 4)) (b.drop (32 + fld b 8 4))

/-- HEAD_IMPORT checks a blob and writes it as the head's next copy, with the head's next SAVE_SEQ. -/
def cmdHeadImport (h : Hdr) (p : Bytes) (s : State) : State :=
  serve { opcode := 0x79, rights := boundHead, length := (52 ≤ ·), reserved := fun p => fld p 1 1 / 2 == 0 && fld p 2 2 == 0 } h p
    (fun s =>
      let n := fld p 0 1; let b := p.drop 4
      let x := s.head n
      refuseIf h.tag
        [(b.take 6 != [0x48, 0x58, 0x50, 0x31, 1, 0] || b.length != 48 + fld b 8 4 || fld b 28 4 != 0, stParam),
         (fld b 7 1 != h.owner.toNat, stNotOwner), (namesOrphan s p, stState), (pairBusy s n, stBusy), (clockDown s 10, stHwFault)]
        (fun s =>
          match openBlob s h.owner.toNat b with
          | none => finish h.tag stAuth [] s
          | some c =>
            let u := x.user.getD (0, 0)
            refuseIf h.tag
              [(fld c 6 2 != x.nPre || fld c 8 2 != x.nPost || decide (fld c 72 2 < fld c 10 2), stParam),
               (!bit (fld p 1 1) 0 && slice c 16 16 != imgTag (s.model u.1).image, stState)]
              (fun s =>
                let s := cancelSteps n (started h.tag s)
                let image := c.take 12 ++ le 4 (x.saveSeq + 1) ++ c.drop 16
                postCopy n image (some h.tag) (onHead n (fun x => { x with busy := some (.importing h.tag) }) (startLoad n .imported (some h.tag) s))) s) s) s

/-- HEAD_CONSOLIDATE. -/
def cmdHeadConsolidate (h : Hdr) (p : Bytes) (s : State) : State :=
  serve (headForm 0x7A 1) h p
    (fun s =>
      let n := fld p 0 1
      let x := s.head n
      refuseIf h.tag
        [(namesOrphan s p || x.consMode == 0, stState), (x.copy.any (fun c => c.writing || c.ready) || !x.loaded, stBusy),
         (thermalState s == .trip, stThermal), (pllDown s, stHwFault)]
        (fun s =>
          if x.change < x.deltaCommit && !bit (fld p 1 1) 0 then
            doneWith h ([0, 0, 0, 0] ++ arrayMap ((x.copy.map (·.arrays)).getD []) ++ le 4 x.change) s
          else match requestCopy n (some h.tag) (started h.tag s) with
            | .begun s => s
            | .noArrays s => finish h.tag stNoResource [] s
            | .wear s => finish h.tag stWear [] s) s) s

/-! ### HEAD_STATS and HEAD_RESET -/

/-- The twelve counters. -/
def statBytes (s : State) (n : Nat) : Bytes :=
  let h := s.head n
  let k := h.stats
  let epochs := if h.user.isNone then (h.copyImage.map fun c => fld c 40 4).getD 0 else h.epochs
  ([k.steps, k.cancelled, k.excluded, k.updates, k.rewards, BitVec.ofNat 32 epochs, k.created, k.pruned, k.createBlocked, k.candDropped
  , k.saves, k.consDeferred] : List Word32).flatMap fun x => le 4 x.toNat

/-- HEAD_STATS with `CLEAR` at 0. -/
def cmdHeadStats (h : Hdr) (p : Bytes) (s : State) : State :=
  serve (headForm 0x7B 1) h p (fun s => doneWith h (statBytes s (fld p 0 1)) s) s

/-- HEAD_STATS with `CLEAR` at 1. -/
def cmdHeadStatsClear (h : Hdr) (p : Bytes) (s : State) : State :=
  serve (headForm 0x7B 1) h p
    (fun s => onHead (fld p 0 1) (fun h => { h with stats := {} }) (doneWith h (statBytes s (fld p 0 1)) s)) s

/-- The form of HEAD_RESET. -/
def headResetForm : Form := { opcode := 0x7C, rights := boundHead, length := (· == 4), reserved := zeros [(2, 2)] }

/-- Post the erase of the sector with a pair's commit page (R304, R456). -/
def erasePair (n : Nat) (tag : Option Tag) (s : State) : State :=
  postNvm [{ page := commitSector n, erase := true, job := .headErase n, tag := tag, point := true }] s

/-- HEAD_RESET with `OP` 0x00. -/
def cmdHeadReset (h : Hdr) (p : Bytes) (s : State) : State :=
  serve headResetForm h p
    (fun s =>
      let n := fld p 0 1
      refuseIf h.tag [(namesOrphan s p, stState), (pairBusy s n, stBusy), (clockDown s 10, stHwFault)]
        (fun s => erasePair n h.tag (onHead n (fun x => { x with busy := some (.resetting h.tag) })
          (startLoad n .initial (some h.tag) (cancelSteps n (started h.tag s))))) s) s

/-- HEAD_RESET with `OP` 0x01. -/
def cmdHeadEraseOrphan (h : Hdr) (p : Bytes) (s : State) : State :=
  serve headResetForm h p
    (fun s =>
      let n := fld p 0 1
      refuseIf h.tag [(!namesOrphan s p, stState), (pairBusy s n, stBusy)]
        (fun s => erasePair n h.tag (onHead n (fun x => { x with busy := some (.releasing none (some h.tag)) }) (started h.tag s))) s) s

/-! ### The meanings -/

def execHeadConfig (h : Hdr) (p : Bytes) (s : State) : Answer := .next (cmdHeadConfig h p s)
def execHeadGet (h : Hdr) (p : Bytes) (s : State) : Answer := .next (cmdHeadGet h p s)
def execRewardCancel (h : Hdr) (p : Bytes) (s : State) : Answer := .next (cmdRewardCancel h p s)
def execRewardImmediate (h : Hdr) (p : Bytes) (s : State) : Answer := .next (cmdRewardImmediate h p s)
def execRewardHeld (h : Hdr) (p : Bytes) (s : State) : Answer := .next (cmdRewardHeld h p s)
def execModulatorConfig (h : Hdr) (p : Bytes) (s : State) : Answer := .next (cmdModulatorConfig h p s)
def execHeadFreeze (h : Hdr) (p : Bytes) (s : State) : Answer := .next (cmdHeadFreeze h p s)
def execHeadResume (h : Hdr) (p : Bytes) (s : State) : Answer := .next (cmdHeadResume h p s)
def execHeadSave (h : Hdr) (p : Bytes) (s : State) : Answer := .next (cmdHeadSave h p s)
def execHeadRestore (h : Hdr) (p : Bytes) (s : State) : Answer := .next (cmdHeadRestore h p s)
def execHeadExport (h : Hdr) (p : Bytes) (s : State) : Answer := .next (cmdHeadExport h p s)
def execHeadImport (h : Hdr) (p : Bytes) (s : State) : Answer := .next (cmdHeadImport h p s)
def execHeadConsolidate (h : Hdr) (p : Bytes) (s : State) : Answer := .next (cmdHeadConsolidate h p s)
def execHeadStats (h : Hdr) (p : Bytes) (s : State) : Answer := .next (cmdHeadStats h p s)
def execHeadStatsClear (h : Hdr) (p : Bytes) (s : State) : Answer := .next (cmdHeadStatsClear h p s)
def execHeadReset (h : Hdr) (p : Bytes) (s : State) : Answer := .next (cmdHeadReset h p s)
def execHeadEraseOrphan (h : Hdr) (p : Bytes) (s : State) : Answer := .next (cmdHeadEraseOrphan h p s)

end Sys2Proof.Machine
end

