-- ==== Sys2Proof/Machine/Wear.lean ====
section
/-! DEFINITION. Array writes, recalibration, self-tests, fences and the wear governor's commands and events
(chapter 13). -/

namespace Sys2Proof.Machine

/-! ### Work that waits for a core -/

/-- Ticks in 24 h of powered time. -/
def dayTicks : Nat := 86400 * 32768

/-- No job is between its first and last pass on the core (R315). -/
def atBoundary (s : State) (n : Nat) : Bool := s.mdl.jobs.all fun j => !j.used n

/-- Ask for the power of every core that a write, a commanded test or an unfence needs; a request that the governor holds
back is made again at its next sample. -/
def wantCores (s : State) : State :=
  (List.range 8).foldl (fun s n =>
    if unfencing s n then wantDomain (16 + n) true s
    else if (s.core n).fenced then s
    else if (nextWrite s n).isSome || s.lrn.runs.any (fun r => r.left.getLsbD n) then (askCore n s).getD s
    else s) s

/-! ### Ends of commanded runs -/

/-- A core's entry in the reply of CAL_RUN or SELFTEST_RUN. -/
def runEntry (s : State) (kind n : Nat) (result : Byte) : Bytes :=
  let c := s.core n
  if kind == 0 then [BitVec.ofNat 8 n, result, BitVec.ofNat 8 c.bandForce, 0] ++ leInt 2 c.tjCal ++ le 2 c.maxResidual
  else [BitVec.ofNat 8 n, BitVec.ofNat 8 kind, result, 0] ++ le 2 (failingColumns s n) ++ [0, 0]

/-- Give a core's result to every run of a kind that waits for it. -/
def giveResult (kind n : Nat) (result : Byte) (s : State) : State :=
  { s with lrn := { s.lrn with runs := s.lrn.runs.map fun r =>
      if r.kind == kind && r.left.getLsbD n then
        { r with left := setBit r.left n false, results := r.results ++ [(n, runEntry s kind n result)] }
      else r } }

/-- A core fenced for another reason gives its runs the result "fenced" (in part DEDUCED, log entry 50). -/
def closeFenced (s : State) : State :=
  (List.range 8).foldl (fun s n =>
    if (s.core n).fenced then [0, 1, 2].foldl (fun s k => giveResult k n 1 s) s else s) s

/-- End the runs whose every core has its result and whose fences are committed. -/
def endRuns (s : State) : State :=
  let s := closeFenced s
  let isOver (r : CoreRun) : Bool := r.left == 0 && (members 8 r.mask.toNat).all fun n => (s.core n).fencing.isNone
  let ended := s.lrn.runs.filter isOver
  let s := { s with lrn := { s.lrn with runs := s.lrn.runs.filter fun r => !isOver r } }
  ended.foldl (fun s r => finish r.tag 0x00 ((sortBy (·.1) r.results).flatMap (·.2)) (commitMark r.tag s)) s

/-- Fence a core, and let waiting work go on. -/
def fenceNow (n : Nat) (cause : Byte) (s : State) : State := endRuns (carryOn (fenceCore n cause none s))

/-- An unfence fails: the core stays fenced, its domain goes off and the command ends (R323). -/
def unfenceFails (status : Byte) (s : State) : State :=
  match s.lrn.unfence with
  | none => s
  | some u => finish u.tag status [] (wantDomain (16 + u.core) false { s with lrn := { s.lrn with unfence := none } })

/-- The removal of the fence record is committed: the core is healthy, and its arrays hold unknown content (R215, R323)
(in part DEDUCED, log entry 49). -/
def unfenceCommitted (n : Nat) (s : State) : State :=
  match s.lrn.unfence with
  | none => s
  | some u =>
    let s := onCore n (fun c => { c with fenced := false }) { s with lrn := { s.lrn with unfence := none } }
    let s := ((List.range 8).map (8 * n + ·)).foldl (fun s a => onArray a CimArray.unknown s) s
    let s := cairn 0xC002 (0x0100#16 ||| BitVec.ofNat 16 n) [healthyByte s] s
    let s := raise 0xC0 true [BitVec.ofNat 8 n, 0, (s.core n).cause, healthyByte s, 0, 0, 0, 0] s
    finish u.tag 0x00 [] (commitMark u.tag s)

/-! ### Columns (R205, R319, R320) -/

/-- Spare columns an array has left, of its four. -/
def CimArray.spares (a : CimArray) : Nat := 4 - a.spareFor.length - a.spareBad

/-- COLUMN_STATE, once for each column that changed. -/
def columnEvents (a : Nat) (kind : Byte) (count : Nat) (s : State) : State :=
  (List.range count).foldl (fun s _ => raise 0xC4 false [BitVec.ofNat 8 a, kind, BitVec.ofNat 8 (s.array a).spares, 0] s) s

/-- Retired and FAILING columns exceed four in one array (Table 13-4, cause 0x01). -/
def columnsLost (s : State) (n : Nat) : Bool :=
  (List.range 8).any fun k => decide (4 < (s.array (8 * n + k)).retired + (s.array (8 * n + k)).failing)

/-- A recalibration diverges: a residual above 0.5 step, or a correction outside its bounds (R316). -/
def diverges (residual : Nat) (outside : Bool) : Bool := decide (128 < residual) || outside

/-- Refresh an array with FAILING columns from the weights available for it; without weights or without a grant it stays
as it is (R319) (in part DEDUCED, log entry 47). -/
def refreshArray (a : Nat) (s : State) : State :=
  match (s.array a).use with
  | none => s
  | some u =>
    match u.head with
    | some k =>
      match requestCopy k none s with
      | .begun s | .noArrays s | .wear s => s
    | none =>
      let x := s.model u.model
      if x.freed.contains u.layer then s
      else
        let writes : List ArrayWrite := [{ array := a, use := u, cells := arrayImage s x (layerAt x.image u.layer) u.block }]
        match askGrant writes s with
        | none => countRefusal s
        | some s => orderWrites { model := u.model, cause := .refresh, writes := writes } none s

/-- A pass of a job that runs now uses the array. -/
def passOn (s : State) (a : Nat) : Bool := s.mdl.jobs.any fun j => j.running.contains (.core (a / 8)) && j.arrays.contains a

/-- A write begins: every cell of the array is erased to code 8 (R194, R205). -/
def CimArray.erase (a : CimArray) : CimArray :=
  { a with
    begun := true, use := none, cells := List.replicate 32768 0x88, refCols := List.replicate 8 8, refRows := List.replicate 16 8
    drawn := none, signed := false }

/-- A write that begins above 85 degrees and was charged as one cycle at its grant is charged the second one (R307)
(in part DEDUCED, log entry 182). -/
def chargeLate (w : ArrayWrite) (s : State) : State :=
  let more := charge s (w.array / 8) - w.charged
  if more == 0 then s else postWear .accounts none (chargeCycles w.array more s)

/-- The next write on a core begins once its array is in no pass and the core works (R205). -/
def beginWrite (n : Nat) (s : State) : State :=
  match nextWrite s n with
  | some (_, w) =>
    if (s.array w.array).begun || !works s (16 + n) || passOn s w.array then s
    else onArray w.array CimArray.erase (chargeLate w s)
  | none => s

/-- Begin the writes that can begin. -/
def beginWrites (s : State) : State := (List.range 8).foldl (fun s n => beginWrite n s) s

/-- Program an array: the weights under the write's order, every reference column to code 8 and the reference rows of each
slice to codes 0 and 15 (R194, R383). -/
def CimArray.program (w : ArrayWrite) (owner : Nat) (o : Order) (a : CimArray) : CimArray :=
  { a.erase with
    use := some w.use, writing := none, begun := false, cells := permuted o w.cells
    refRows := (List.replicate 8 [0, 15]).flatten, drawn := some (owner, w.count) }

/-- The control word of what an array is written with. -/
def writtenCtrl (s : State) (u : ArrayUse) : Nat :=
  match u.head with
  | some k => copyCtrl (s.head k).hrec (s.head k).nPre
  | none => (layerAt (s.model u.model).image u.layer).ctrl

/-- Program the array of a write. -/
def programArray (w : ArrayWrite) (s : State) : State :=
  let o := (s.model w.use.model).owner.toNat
  onArray w.array (CimArray.program w o
    (drawOrder (rd s.own.slots o).pk w.array w.count (cimGroup (writtenCtrl s w.use)))) s

/-- Columns fail verification: each takes a spare, and beyond the spares it is FAILING; `bad` unused spares diverge (R205, R316,
R319). -/
def CimArray.replaceColumns (stuck : List Nat) (bad : Nat) (a : CimArray) : CimArray :=
  let kept := a.spareFor ++ stuck.take a.spares
  { a with
    spareFor := kept, failing := stuck.length - a.spares, spareBad := min (4 - kept.length) (a.spareBad + bad), signed := true }

/-- An array write ends: its cells are programmed, stuck columns go to spares, the array is recalibrated and its signature
is kept (R205, R318, R319); no recalibration runs in TRIP, so that none ends then (R325). `stuck` columns failed verification, `bad` unused spares diverged. -/
def execArrayWriteDone (array : BitVec 6) (stuck : List (BitVec 8)) (residual : Nat) (outside : Bool) (bad : Nat) (s : State) : Answer :=
  let a := array.toNat; let n := a / 8
  match nextWrite s n with
  | none => .next s
  | some (run, w) =>
    if w.array != a || !works s (16 + n) || passOn s a || thermalState s == .trip then .next s
    else
      let x := s.array a
      let stuck := (stuck.map (·.toNat)).eraseDups
      let s := onArray a (CimArray.replaceColumns stuck bad) (programArray w s)
      let s := columnEvents a 3 (x.failing - stuck.length) (columnEvents a 2 (stuck.length - x.spares) (columnEvents a 1 (min stuck.length x.spares) s))
      let s := if stuck.isEmpty && x.failing == 0 then s else postWear .accounts none s
      if columnsLost s n then .next (fenceNow n 1 s)
      else if diverges residual outside then .next (fenceNow n 4 s)
      else
        let i := s.mdl.writes.findIdx fun r => r == run
        let left := run.writes.erase w
        if left.isEmpty then .next (wantCores (runDone run (onRm (fun b => { b with writes := b.writes.eraseIdx i }) s)))
        else .next (onRm (fun b => { b with writes := b.writes.set i { run with writes := left } }) s)

/-! ### Recalibration and tests -/

/-- A whole-core recalibration that is due runs at a job boundary, or before the next pass, with no array write under way on the
core and not in TRIP (R314, R315, R325). `bad` names arrays in which an unused spare diverged. -/
def execRecalibration (core : BitVec 3) (residual : Nat) (outside : Bool) (bad : List (BitVec 3)) (s : State) : Answer :=
  let n := core.toNat; let c := s.core n
  let unf := s.lrn.unfence.any fun u => u.core == n && u.quickPassed
  let due := unf || (!c.fenced && (c.recalFirst || ((c.recalDue || runDue s 0 n) && atBoundary s n)))
  if !due || !works s (16 + n) || !unitFree s (.core n) || (nextWrite s n).isSome || thermalState s == .trip then .next s
  else
    let s := bad.foldl (fun s k => onArray (8 * n + k.toNat) (fun x => { x with spareBad := min (4 - x.spareFor.length) (x.spareBad + 1) }) s) s
    let s := onCore n (fun c => { c with maxResidual := residual }) s
    if diverges residual outside then
      if unf then .next (unfenceFails stHwFault s)
      else .next (fenceNow n 4 (giveResult 0 n 1 s))
    else
      let s := onCore n (fun c => { c with recalDue := false, recalFirst := false, bandCal := some c.bandForce, tjCal := c.reading.getD 0, tCal := now s }) s
      if unf then .next (postWear (.unfence n) (s.lrn.unfence.map (·.tag)) s)
      else .next (endRuns (giveResult 0 n 0 s))

/-- The quick self-test of a core, before its first pass after a wake or a reset, on SELFTEST_RUN or in an unfence
(R317, R323). -/
def execQuickSelftest (core : BitVec 3) (ok : Bool) (s : State) : Answer :=
  let n := core.toNat; let c := s.core n
  let unf := s.lrn.unfence.any fun u => u.core == n && !u.quickPassed
  let due := unf || (!c.fenced && (c.quickDue || (runDue s 1 n && atBoundary s n)))
  if !due || !works s (16 + n) || !unitFree s (.core n) || thermalState s == .trip then .next s
  else
    let s := onCore n (fun c => { c with quick := if ok then 0 else 1, quickDue := c.quickDue && !ok }) s
    if unf then
      if ok then .next { s with lrn := { s.lrn with unfence := s.lrn.unfence.map fun u => { u with quickPassed := true } } }
      else .next (unfenceFails stHwFault s)
    else if ok then .next (endRuns (giveResult 1 n 0 s))
    else .next (fenceNow n 2 (giveResult 1 n 1 s))

/-- Mark FAILING columns of an array that holds a layer and has a signature (R318, R319). -/
def markFailing (a count : Nat) (s : State) : State :=
  let x := s.array a
  if x.use.isNone || !x.signed then s
  else columnEvents a 2 (count - x.failing) (onArray a (fun x => { x with failing := max x.failing count }) s)

/-- The full self-test of a core: the quick test, then the signatures of its arrays (R318). `failing` gives the columns of
each array that differ from their signature. -/
def execFullSelftest (core : BitVec 3) (quickOk otherOk : Bool) (failing : List (BitVec 3 × Nat)) (s : State) : Answer :=
  let n := core.toNat; let c := s.core n
  if c.fenced || !(c.fullDue || runDue s 2 n) || !works s (16 + n) || !atBoundary s n || thermalState s == .trip then .next s
  else
    let s := failing.foldl (fun s f => markFailing (8 * n + f.1.toNat) f.2 s) s
    let fails := !quickOk || !otherOk || columnsLost s n
    let found := decide (0 < failingColumns s n)
    let result : Byte := if fails then 1 else if found then 2 else 0
    let cause : Byte :=
      if columnsLost s n then 1 else if c.anomalyTest then 5 else if !quickOk then 2 else 3
    let s := onCore n (fun c => { c with
      full := result, quick := if quickOk then 0 else 1, quickDue := c.quickDue && !quickOk
      fullDue := false, anomalyTest := false, tFull := now s, failing := failingColumns s n }) s
    let s := giveResult 2 n result s
    if fails then .next (fenceNow n cause s)
    else
      let worse := ((List.range 8).map (8 * n + ·)).filter fun a => decide (0 < (s.array a).failing)
      .next (endRuns (worse.foldl (fun s a => if (s.array a).writing.isNone then refreshArray a s else s) s))

/-! ### Clipping (R321) -/

/-- CLIP_EXPECT of what an array holds. -/
def clipExpect (s : State) (u : ArrayUse) : Nat :=
  bits (writtenCtrl s u) 0 8

/-- The anomalous windows of a core in the last 24 h. -/
def recentAnomalies (s : State) (n : Nat) : List Ticks := (s.core n).anomalies.filter fun t => decide (since s t < dayTicks)

/-- A window of 2^24 conversions of a layer on an array ends (R321). -/
def execClipWindowEnd (array : BitVec 6) (s : State) : Answer :=
  let a := array.toNat; let n := a / 8
  match (s.array a).windows.find? fun w => decide (2 ^ 24 ≤ w.conv) with
  | none => .next s
  | some w =>
    let u := w.use
    let s := onArray a (fun x => { x with windows := x.windows.filter fun w => !w.isOf u }) s
    let e := clipExpect s u
    if (s.core n).fenced || w.clips ≤ 256 * max (4 * e) (e + 32) then .next s
    else
      let s := raise 0xC1 true ([BitVec.ofNat 8 n, BitVec.ofNat 8 a, BitVec.ofNat 8 u.model, BitVec.ofNat 8 u.layer]
        ++ le 2 (min 65535 (w.clips / 256)) ++ le 2 e) s
      let list := recentAnomalies s n ++ [s.clk.tick]
      let s := onCore n (fun c => { c with anomalies := list, fullDue := true, anomalyTest := true }) s
      if 3 ≤ list.length then .next (fenceNow n 5 s) else .next s

/-! ### The wear governor's clock (R308, R312) -/

/-- Withdraw the set of every Rotated model whose wear rate exceeds its allowances (R312). -/
def withdrawWorn (s : State) : State :=
  (List.range 8).foldl (fun s m =>
    let x := s.model m
    let rot := (imgLayers x.image).filter fun l => (x.placement.layers.getD l.index {}).place == .rotated
    let stands := (x.phase == .placed || x.phase == .running || x.phase == .pitch) && (placing s m).isNone
    if stands && !rot.isEmpty && decide (setAllowance s x.placement.rotSet < wearRate x.image rot) then withdrawSet m s else s) s

/-- BALANCE of an array after an hour: it rises by A / 24 up to BANK_DAYS x A (R308) (in part DEDUCED, log entry 54). -/
def accrued (s : State) (a : Nat) : Nat :=
  let x := s.array a
  let left := (guaranteed - x.count) * 65536
  max x.balance (min (s.lrn.bankDays.toNat * left / remainingDays s) (x.balance + left / (24 * remainingDays s)))

/-- An hour of powered time ends (R308, R312). -/
def execWearHourlyAccrual (s : State) : Answer :=
  if !s.isOn 0 then .next s
  else .next (carryOn (withdrawWorn
    ((List.range 64).foldl (fun s a => onArray a (fun x => { x with balance := accrued s a }) s) s)))

/-- 86 400 s of powered time end: DAYS_USED rises and every account is written (R308, R310). -/
def execWearDayBoundary (s : State) : Answer :=
  if !s.isOn 0 then .next s
  else .next (postWear .accounts none { s with lrn := { s.lrn with daysUsed := satInc s.lrn.daysUsed } })

/-! ### Commands -/

/-- CAL_RUN and SELFTEST_RUN: the statuses, then the run (R314, R317, R318, R325). -/
def startCores (kind : Nat) (h : Hdr) (p : Bytes) (s : State) : State :=
  let mask := fld p 0 1
  refuseIf h.tag
    [(mask == 0, stParam), ((members 8 mask).any fun n => (s.core n).fenced, stFenced),
     (thermalState s == .trip, stThermal), (pllDown s, stHwFault)]
    (fun s =>
      wantCores (started h.tag { s with lrn := { s.lrn with runs := s.lrn.runs ++
        [{ tag := h.tag, kind := kind, mask := BitVec.ofNat 8 mask, left := BitVec.ofNat 8 mask }] } })) s

/-- CAL_RUN. -/
def cmdCalRun (h : Hdr) (p : Bytes) (s : State) : State :=
  serve { opcode := 0xC0, rights := fun _ _ => .site, length := (· == 4), reserved := zeros [(1, 3)] } h p (startCores 0 h p) s

/-- The form of SELFTEST_RUN. -/
def selftestForm : Form := { opcode := 0xC2, rights := fun _ _ => .site, length := (· == 4), reserved := zeros [(2, 2)] }

/-- SELFTEST_RUN with KIND 0x01. -/
def cmdSelftestRunQuick (h : Hdr) (p : Bytes) (s : State) : State := serve selftestForm h p (startCores 1 h p) s

/-- SELFTEST_RUN with KIND 0x02. -/
def cmdSelftestRunFull (h : Hdr) (p : Bytes) (s : State) : State := serve selftestForm h p (startCores 2 h p) s

/-- One entry for each core. -/
def coreEntries (f : Nat → Bytes) : Bytes := (List.range 8).flatMap f

/-- `STATE` of a core: off, on, fenced. -/
def coreState (s : State) (n : Nat) : Byte := if (s.core n).fenced then 2 else if s.isOn (16 + n) then 1 else 0

/-- CAL_STATUS. -/
def cmdCalStatus (h : Hdr) (p : Bytes) (s : State) : State :=
  serve { opcode := 0xC1, length := (· == 0) } h p
    (fun s => doneWith h (coreEntries fun n =>
      let c := s.core n
      [BitVec.ofNat 8 n, coreState s n, BitVec.ofNat 8 c.bandForce, BitVec.ofNat 8 c.bandSel] ++ leInt 2 c.tjCal
        ++ le 2 c.maxResidual ++ le 8 c.tCal.toNat) s) s

/-- SELFTEST_RESULT. -/
def cmdSelftestResult (h : Hdr) (p : Bytes) (s : State) : State :=
  serve { opcode := 0xC3, length := (· == 0) } h p
    (fun s => doneWith h (coreEntries fun n =>
      let c := s.core n
      [BitVec.ofNat 8 n, c.quick, c.full, 0] ++ le 2 (failingColumns s n)
        ++ [BitVec.ofNat 8 (min 255 (recentAnomalies s n).length), 0] ++ le 8 c.tFull.toNat) s) s

/-- An array's entry in WEAR_STATUS. -/
def wearEntry (s : State) (a : Nat) : Bytes :=
  let x := s.array a
  let set := s.mdl.slots.toList.any fun y => y.placement.rotSet.contains a
  le 4 x.count ++ le 4 (allowance s a) ++ le 4 (min 0xFFFFFFFF x.balance)
    ++ [BitVec.ofNat 8 (flags [(heldArrays s).contains a, x.worn, (s.core (a / 8)).fenced, set]), BitVec.ofNat 8 x.retired]
    ++ le 2 x.failing

/-- WEAR_STATUS. -/
def cmdWearStatus (h : Hdr) (p : Bytes) (s : State) : State :=
  serve { opcode := 0xC4, length := (· == 0) } h p
    (fun s => doneWith h (le 2 s.lrn.lifeDays.toNat ++ le 2 s.lrn.daysUsed.toNat ++ le 2 (remainingDays s)
      ++ [s.lrn.bankDays, BitVec.ofNat 8 (s.mdl.arrays.toList.countP CimArray.worn)] ++ le 4 s.lrn.refused.toNat
      ++ le 4 s.lrn.withdrawals.toNat ++ (List.range 64).flatMap (wearEntry s)) s) s

/-- The eight bytes of WEAR_CONFIG in force. -/
def wearConfigBytes (s : State) : Bytes := le 2 s.lrn.lifeDays.toNat ++ [s.lrn.bankDays, 0, 0, 0, 0, 0]

/-- WEAR_CONFIG reads the configuration, or posts its change, which is in force from its commit record (R308)
(in part DEDUCED, log entry 51). -/
def cmdWearConfig (h : Hdr) (p : Bytes) (s : State) : State :=
  serve { opcode := 0xC5, rights := fun _ _ => .site, length := fun n => n == 0 || n == 8, reserved := zeros [(3, 1), (6, 2)] } h p
    (fun s =>
      if p.isEmpty then doneWith h (wearConfigBytes s) s
      else
        let life := fld p 0 2; let bank := fld p 2 1; let add := fld p 4 2
        let ok := decide (365 ≤ life) && decide (life ≤ 7305) && decide (1 ≤ bank) && decide (bank ≤ 90) && decide (add ≤ 7305)
        refuseIf h.tag [(!ok, stParam), (s.lrn.wearSet.isSome, stBusy)]
          (fun s => postWear .config (some h.tag) { s with lrn := { s.lrn with wearSet := some (h.tag, p) } }) s) s

/-- The commit record of WEAR_CONFIG is programmed: the configuration is in force and R312 is applied. -/
def wearConfigCommitted (s : State) : State :=
  match s.lrn.wearSet with
  | none => s
  | some (tag, p) =>
    let s := { s with lrn := { s.lrn with
      wearSet := none, lifeDays := BitVec.ofNat 16 (fld p 0 2), bankDays := BitVec.ofNat 8 (fld p 2 1)
      daysUsed := satAdd s.lrn.daysUsed (fld p 4 2) } }
    finish tag 0x00 (wearConfigBytes s) (commitMark tag (carryOn (withdrawWorn s)))

/-- CORE_STATUS. -/
def cmdCoreStatus (h : Hdr) (p : Bytes) (s : State) : State :=
  serve { opcode := 0xC6, length := (· == 0) } h p
    (fun s => doneWith h (coreEntries fun n =>
      let c := s.core n
      let own := (List.range 8).map (8 * n + ·)
      let held := heldArrays s
      [BitVec.ofNat 8 n, coreState s n, c.cause, BitVec.ofNat 8 (own.countP held.contains),
       BitVec.ofNat 8 (own.foldl (fun b a => max b (s.array a).retired) 0), BitVec.ofNat 8 (min 255 (failingColumns s n)), 0, 0]
        ++ le 8 c.tFence.toNat) s) s

/-- The form of CORE_FENCE. -/
def coreFenceForm : Form := { opcode := 0xC7, rights := fun _ _ => .site, length := (· == 4), reserved := zeros [(2, 2)] }

/-- CORE_FENCE with OP 0x01 (R322); fencing a fenced core changes nothing. -/
def cmdCoreFence (h : Hdr) (p : Bytes) (s : State) : State :=
  serve coreFenceForm h p
    (fun s =>
      let n := fld p 0 1
      refuseIf h.tag [(decide (7 < n), stParam)]
        (fun s => if (s.core n).fenced then doneWith h [] s else endRuns (carryOn (fenceCore n 7 (some h.tag) s))) s) s

/-- CORE_FENCE with OP 0x02 (R323, R325). -/
def cmdCoreUnfence (h : Hdr) (p : Bytes) (s : State) : State :=
  serve coreFenceForm h p
    (fun s =>
      let n := fld p 0 1
      refuseIf h.tag
        [(decide (7 < n), stParam), (!(s.core n).fenced || columnsLost s n, stState),
         ((s.core n).fencing.isSome || s.lrn.unfence.isSome, stBusy), (thermalState s == .trip, stThermal), (pllDown s, stHwFault)]
        (fun s =>
          wantDomain (16 + n) true (started h.tag { s with lrn := { s.lrn with unfence := some { tag := h.tag, core := n } } })) s) s

/-- The reply of CLIP_COUNTERS. -/
def clipBytes (s : State) : Bytes :=
  (s.mdl.arrays.toList.flatMap fun x => le 4 x.clips.toNat ++ le 4 (min 0xFFFFFFFF (x.conv / 2 ^ 20)))
    ++ coreEntries fun n => [BitVec.ofNat 8 (min 255 (recentAnomalies s n).length)]

/-- Reserved fields of CLIP_COUNTERS. -/
def clipReserved (p : Bytes) : Bool := fld p 0 1 / 2 == 0 && fld p 1 3 == 0

/-- CLIP_COUNTERS with CLEAR at 0. -/
def cmdClipCounters (h : Hdr) (p : Bytes) (s : State) : State :=
  serve { opcode := 0xC9, length := (· == 4), reserved := clipReserved } h p (fun s => doneWith h (clipBytes s) s) s

/-- CLIP_COUNTERS with CLEAR at 1: the reply shows the counters before they are cleared. -/
def cmdClipCountersClear (h : Hdr) (p : Bytes) (s : State) : State :=
  serve { opcode := 0xC9, rights := fun _ _ => .site, length := (· == 4), reserved := clipReserved } h p
    (fun s =>
      let clear (a : CimArray) : CimArray := { a with clips := 0, conv := 0 }
      onRm (fun b => { b with arrays := b.arrays.map clear }) (doneWith h (clipBytes s) s)) s

/-! ### The meanings -/

def execCalRun (h : Hdr) (p : Bytes) (s : State) : Answer := .next (cmdCalRun h p s)
def execCalStatus (h : Hdr) (p : Bytes) (s : State) : Answer := .next (cmdCalStatus h p s)
def execSelftestRunQuick (h : Hdr) (p : Bytes) (s : State) : Answer := .next (cmdSelftestRunQuick h p s)
def execSelftestRunFull (h : Hdr) (p : Bytes) (s : State) : Answer := .next (cmdSelftestRunFull h p s)
def execSelftestResult (h : Hdr) (p : Bytes) (s : State) : Answer := .next (cmdSelftestResult h p s)
def execWearStatus (h : Hdr) (p : Bytes) (s : State) : Answer := .next (cmdWearStatus h p s)
def execWearConfig (h : Hdr) (p : Bytes) (s : State) : Answer := .next (cmdWearConfig h p s)
def execCoreStatus (h : Hdr) (p : Bytes) (s : State) : Answer := .next (cmdCoreStatus h p s)
def execCoreFence (h : Hdr) (p : Bytes) (s : State) : Answer := .next (cmdCoreFence h p s)
def execCoreUnfence (h : Hdr) (p : Bytes) (s : State) : Answer := .next (cmdCoreUnfence h p s)
def execClipCounters (h : Hdr) (p : Bytes) (s : State) : Answer := .next (cmdClipCounters h p s)
def execClipCountersClear (h : Hdr) (p : Bytes) (s : State) : Answer := .next (cmdClipCountersClear h p s)

end Sys2Proof.Machine
end

