-- ==== Sys2Proof/Machine/Rope.lean ====
section
/-! DEFINITION. The Rope: frames, credits and replay, training, enumeration and topology, faults, and what Ridge models
exchange (chapter 15). -/

namespace Sys2Proof.Machine

/-! ### Ports and frames -/

/-- The chip is the head of its Rope. -/
def isHead (s : State) : Bool := role s == 1

/-- A port: 0 U, 1 D. -/
def State.port (s : State) (p : Nat) : RopePort := rd s.rope.ports p

/-- Change a port. -/
def onRopePort (p : Nat) (f : RopePort → RopePort) (s : State) : State :=
  { s with rope := { s.rope with ports := upd s.rope.ports p f } }

/-- Change the Rope's state. -/
def onRope (f : RopeState → RopeState) (s : State) : State := { s with rope := f s.rope }

/-- Change what the chip keeps of a Ridge model. -/
def onRidge (m : Nat) (f : RidgeModel → RidgeModel) (s : State) : State :=
  { s with rope := { s.rope with models := upd s.rope.models m f } }

/-- Table 15-1. -/
def LinkPhase.code : LinkPhase → Byte
  | .off => 0 | .idle => 1 | .training => 2 | .up => 3 | .upOne => 4 | .asleep => 5 | .lost => 6

/-- Table 15-2. -/
def Topo.code : Topo → Byte
  | .none => 0 | .chain => 1 | .ring => 2 | .ringBroken => 3 | .split => 4

/-- The port is trained. -/
def RopePort.isUp (x : RopePort) : Bool := x.phase == .up || x.phase == .upOne

/-- Virtual channel of a frame type (Table 15-4). -/
def channelOf (type : Byte) : Nat := if type.toNat ≤ 2 then 0 else if type.toNat ≤ 4 then 1 else type.toNat - 3

/-- Credits a frame takes, in 64-byte units (R359). -/
def RopeFrame.units (f : RopeFrame) : Nat := (16 + f.payload.length + 63) / 64

/-- Bytes of the replay buffer in use. -/
def RopePort.replayBytes (x : RopePort) : Nat := (x.replay.map fun r => 16 + r.2.payload.length).sum

/-- The frame can be sent now: its credits are held and the replay buffer of 16 KiB has room (R358, R359). -/
def RopePort.canSend (x : RopePort) (f : RopeFrame) : Bool :=
  x.isUp && decide (f.units ≤ rd x.credits (channelOf f.type)) && decide (x.replayBytes + 16 + f.payload.length ≤ 16384)

/-- A CTRL frame to the neighbour of a link. -/
def neighbourFrame (s : State) (code : Byte) (arg : Nat) (payload : Bytes) : RopeFrame := ctrlFrame s code 0xFE arg payload

/-- The bytes of a frame (Table 15-3). -/
def RopeFrame.bytes (f : RopeFrame) (lseq : Nat) : Bytes :=
  let b := [f.type, BitVec.ofNat 8 (channelOf f.type), f.dst, f.src] ++ le 2 f.payload.length ++ le 2 lseq ++ le 4 f.info ++ f.payload
  b ++ le 4 (crc32c b).toNat

/-- Lanes a port sends on: those in use, and before it is UP those its attempt may use (in part DEDUCED, log entry 179). -/
def RopePort.sends (x : RopePort) : BitVec 2 := if x.isUp then x.lanes else x.allowed

/-- Put a frame on the lanes of a port. -/
def RopePort.put (x : RopePort) (f : RopeFrame) (lseq : Nat) : RopePort :=
  let lane := onLanes x.sends (f.bytes lseq)
  let g := laneGroups x.sends x.disparity lane
  { x with sent := some f, lane := lane, groups := g.1, disparity := g.2 }

/-- Drive a frame that is not sequenced: CREDIT, TRAIN, TRAIN_ACK. -/
def drive (p : Nat) (f : RopeFrame) (s : State) : State := onRopePort p (fun x => x.put f 0) s

/-- Send the frames of the replay buffer again, in order (R358). -/
def resend (p : Nat) (s : State) : State :=
  onRopePort p (fun x => x.replay.foldl (fun x r => x.put r.2 r.1.toNat) x) s

/-- A received frame leaves its buffer: its units go back with the next CREDIT (R359, R360). -/
def freeBuffer (f : RopeFrame) (s : State) : State :=
  match f.buffer with
  | some p => onRopePort p.toNat (fun x => { x with owed := upd x.owed (channelOf f.type) (· + f.units) }) s
  | none => s

/-- Send a sequenced frame (R358). -/
def transmit (p : Nat) (f : RopeFrame) (s : State) : State :=
  let g : RopeFrame := { f with buffer := none }
  freeBuffer f (onRopePort p (fun x => { x.put g x.txSeq.toNat with
    replay := x.replay ++ [(x.txSeq, g)], txSeq := x.txSeq + 1
    credits := upd x.credits (channelOf f.type) (· - f.units)
    counters := { x.counters with tx := satInc x.counters.tx } }) s)

/-- A relay or remote read of this chip ends with LINK_DOWN; the payload says whether the commit point has passed. -/
def endRelay (id : Nat) (s : State) : State :=
  match s.rope.relaysOut.find? fun r => r.id.toNat == id with
  | none => s
  | some r =>
    finish r.tag stLinkDown [if r.taken then 1 else 0] (onRope (fun b => { b with relaysOut := b.relaysOut.filter (·.id.toNat != id) }) s)

/-- A remote Cairn read ends with LINK_DOWN (R413). -/
def endRead (id : Nat) (s : State) : State :=
  match s.cairn.remote.find? fun r => r.relay.toNat == id with
  | none => s
  | some r => finish r.tag stLinkDown [] { s with cairn := { s.cairn with remote := s.cairn.remote.filter (·.relay.toNat != id) } }

/-- A frame cannot be delivered: its buffer is free, and a relay of this chip that waits on it ends. -/
def dropRope (f : RopeFrame) (s : State) : State :=
  let s := freeBuffer f s
  if f.src.toNat != s.rope.index then s
  else if f.type == 3 && !bit f.info 16 then endRelay (f.info % 65536) s
  else if f.type == 4 && !bit f.info 16 then endRead (f.info % 65536) s
  else s

/-- A relayed packet has left for its destination: its outcome is unknown from here on. -/
def noteTaken (f : RopeFrame) (s : State) : State :=
  if f.type == 3 && f.info / 65536 == 0 && f.src.toNat == s.rope.index then
    let mine (r : RelayOut) : Bool := r.id.toNat == f.info % 65536
    let s := (s.rope.relaysOut.filter mine).foldl (fun s r => commitMark r.tag s) s
    onRope (fun b => { b with relaysOut := b.relaysOut.map fun r => if mine r then { r with taken := true } else r }) s
  else s

/-- A trained port sends a frame, or keeps it behind those of its virtual channel until it has credit; no channel waits for
another (R359). -/
def sendOrWait (p : Nat) (f : RopeFrame) (s : State) : State :=
  let x := s.port p
  if (x.waiting.all fun g => channelOf g.type != channelOf f.type) && x.canSend f then noteTaken f (transmit p f s)
  else onRopePort p (fun x => { x with waiting := x.waiting ++ [f] }) s

/-- Hand a frame to a port: it is sent, waits for credit, retraining or an ASLEEP neighbour's wake burst, or is lost. -/
def portSend (p : Nat) (f : RopeFrame) (s : State) : State :=
  let x := s.port p
  match x.phase with
  | .up | .upOne => sendOrWait p f s
  | .asleep => onRopePort p (fun x => { x with waiting := x.waiting ++ [f], burst := true }) s
  | .training =>
    if x.from' == .idle || x.from' == .lost then dropRope f s
    else onRopePort p (fun x => { x with waiting := x.waiting ++ [f] }) s
  | .off | .idle | .lost => dropRope f s

/-- Send what waits on a port, each virtual channel in order. -/
def pump (p : Nat) (s : State) : State :=
  (s.port p).waiting.foldl (fun s f => sendOrWait p f s) (onRopePort p (fun x => { x with waiting := [] }) s)

/-! ### Routing (R357) -/

/-- A frame could leave by the port. -/
def usable (s : State) (p : Nat) : Bool := (s.port p).isUp || (s.port p).phase == .asleep || (s.port p).phase == .training

/-- The port toward an index; on RING_BROKEN the other one where that port leads nowhere. -/
def routePort (s : State) (dst : Nat) : Nat :=
  let p := if s.rope.index < dst then 1 else 0
  if s.rope.topo == .ringBroken && !usable s p && usable s (1 - p) then 1 - p else p

/-- Send a frame of this chip; a broadcast goes down, and both ways on RING_BROKEN. -/
def routeOut (f : RopeFrame) (s : State) : State :=
  if f.dst == 0xFF then
    let s := if usable s 1 then portSend 1 f s else s
    if s.rope.topo == .ringBroken && usable s 0 then portSend 0 f s else s
  else portSend (routePort s f.dst.toNat) f s

/-- Send the frames this chip has made. -/
def sendOut (s : State) : State := s.rope.out.foldl (fun s f => routeOut f s) (onRope (fun b => { b with out := [] }) s)

/-- Pass a frame on away from the port it came by; a broadcast stops at the end of the chain or ring, and a frame that
meets the break of a RING_BROKEN turns back (in part DEDUCED, log entry 57). -/
def forward (p : Nat) (f : RopeFrame) (s : State) : State :=
  let q := 1 - p
  if f.dst == 0xFF then
    let last := s.rope.topo != .ringBroken && q == 1 && s.rope.count != 0 && s.rope.index + 1 == s.rope.count
    if usable s q && !last && !isHead s then portSend q f s else freeBuffer f s
  else if usable s q then portSend q f s
  else if s.rope.topo == .ringBroken then portSend p f s
  else freeBuffer f s

/-- The chip at an index can be reached. -/
def reachable (s : State) (dst : Nat) : Bool :=
  s.rope.index != 0xFF && !s.rope.detached && s.rope.topo != .none && decide (dst < s.rope.count) && !s.rope.lostMask.getLsbD dst

/-! ### Acts (R362, R386, R387) -/

/-- The additional authenticated data of a frame: its first 12 bytes with LSEQ and VC zero. -/
def frameAad (f : RopeFrame) (len : Nat) : Bytes := [f.type, 0, f.dst, f.src] ++ le 2 len ++ [0, 0] ++ le 4 f.info

/-- The Rope key of a model's owner. -/
def ropeKey (s : State) (m : Nat) : BitVec 256 := (rd s.own.slots (s.model m).owner.toNat).rk

/-- Key of the ACT frames of an era (Table 16-5). -/
def actKey (s : State) (m era : Nat) : BitVec 256 :=
  hkdfKey (ropeKey s m) (rd s.rope.models m).salt (ascii "AETHUO-ACT" ++ [s.rope.gen] ++ le 4 era)

/-- Nonce of an ACT frame. -/
def actNonce (src dst layer : Byte) (ref offset : Nat) : Bytes := [src, dst, layer, 5] ++ le 2 ref ++ le 4 offset ++ [0, 0]

/-- Pieces of at most 2028 bytes, with their offsets. -/
def piecesFrom : Nat → Nat → Bytes → List (Nat × Bytes)
  | 0, _, _ => []
  | fuel + 1, off, data => if data.isEmpty then [] else (off, data.take 2028) :: piecesFrom fuel (off + 2028) (data.drop 2028)

/-- The pieces of a block of data. -/
def pieces (data : Bytes) : List (Nat × Bytes) := piecesFrom (data.length / 2028 + 1) 0 data

/-- The ACT frames of one frame's outputs. -/
def actFrames (s : State) (x : ActSend) (ref : BitVec 16) (data : Bytes) : List RopeFrame :=
  (pieces data).map fun c =>
    let f : RopeFrame := { type := 5, dst := BitVec.ofNat 8 x.dst, src := BitVec.ofNat 8 s.rope.index
                           info := x.model + 256 * x.layer + 65536 * ref.toNat }
    let e := gcmSeal (actKey s x.model (rd s.rope.models x.model).era)
      (actNonce f.src f.dst (BitVec.ofNat 8 x.layer) ref.toNat c.1) (frameAad f (20 + c.2.length)) c.2
    { f with payload := le 4 c.1 ++ e.1 ++ e.2 }

/-- Frames granted for a model's layer. -/
def granted (s : State) (m layer : Nat) : Nat := ((s.rope.grants.filter fun g => g.1 == m && g.2.1 == layer).map (·.2.2)).sum

/-- Take a grant off. -/
def useGrant (m layer n : Nat) (s : State) : State :=
  let left := granted s m layer - n
  onRope (fun b => { b with grants := (b.grants.filter fun g => !(g.1 == m && g.2.1 == layer)) ++ [(m, layer, left)] }) s

/-- Send the outputs whose grant covers the batch; scores need none (R362). -/
def sendActs (s : State) : State :=
  s.rope.sends.foldl (fun s x =>
    if x.layer == 0xFF || x.frames.length ≤ granted s x.model x.layer then
      let s := if x.layer == 0xFF then s else useGrant x.model x.layer x.frames.length s
      let s := onRope (fun b => { b with sends := b.sends.erase x }) s
      x.frames.foldl (fun s f => (actFrames s x f.1 f.2).foldl (fun s g => routeOut g s) s) s
    else s) s

/-- A chip's report ends on the head: the round is over once every chip that can be reached has reported
(in part DEDUCED, log entry 68). -/
def roundReported (chip m : Nat) (round : Word32) (waiting : Nat) (s : State) : State :=
  let c := (rd s.rope.models m).circ
  if !c.running || c.round != round then s
  else
    let done := (c.done ++ [chip]).eraseDups
    let all := (List.range s.rope.count).all fun k => s.rope.lostMask.getLsbD k || done.contains k
    onRidge m (fun r => { r with circ := { r.circ with
      done := if all then [] else done, running := !all
      waiting := if waiting == 0 then r.circ.waiting.filter (· != chip) else (r.circ.waiting ++ [chip]).eraseDups } }) s

/-- The head's own ROUND_DONE, which it takes without a frame. -/
def headReports (s : State) : State :=
  if !isHead s then s
  else
    let mine (f : RopeFrame) : Bool := f.type == 1 && f.code == 0x0D
    let own := s.rope.out.filter mine
    own.foldl (fun s f => roundReported 0 (f.info / 256) (BitVec.ofNat 32 (fld f.payload 0 4)) (fld f.payload 4 2) s)
      (onRope (fun b => { b with out := b.out.filter fun f => !mine f }) s)

/-- Let everything that waits on the Rope go on. -/
def flushRope (s : State) : State := sendActs (sendOut (headReports s))

/-! ### Reception (R358 to R360) -/

/-- Return credits and the acknowledgement in a CREDIT frame (in part DESIGN CHOICE, log entry 67). -/
def returnCredit (p : Nat) (nak : Bool) (s : State) : State :=
  let x := s.port p
  let info := (if nak then x.rxSeq.toNat else (x.rxSeq - 1).toNat) + (if nak then 65536 else 0)
  let f : RopeFrame := { type := 2, dst := 0xFE, src := BitVec.ofNat 8 s.rope.index, info := info
                         payload := x.owed.toList.flatMap (le 2) }
  onRopePort p (fun x => { x with
    owed := Vector.replicate 4 0, unacked := 0, nak := nak
    counters := if nak then { x.counters with naks := satInc x.counters.naks } else x.counters }) (drive p f s)

/-- TRAIN names this chip, its lanes and its receive buffers (Table 15-5, Table 15-6) (in part DEDUCED, log entry 55). -/
def trainFrame (s : State) (p : Nat) : RopeFrame :=
  let x := s.port p
  neighbourFrame s 1 0 (le 8 Config.deviceId.toNat ++ le 4 s.boot.bootCount.toNat
    ++ [BitVec.ofNat 8 (role s), BitVec.ofNat 8 s.rope.index, (x.synced &&& x.allowed).setWidth 8, 0]
    ++ [64, 192, 512, 256].flatMap (le 2))

/-- Begin a training (R348, R349), the commit point of ROPE_RETRAIN: the bubble it inserts into the stream fabric is counted when
it ends. A TRAIN that has arrived while the training waited is answered now. -/
def beginTraining (p : Nat) (s : State) : State :=
  let x := s.port p
  let kept := if x.due then x.train else none
  let s := onRopePort p (fun x => { x with
    phase := .training, from' := if x.phase == .training then x.from' else x.phase, attempt := 1, train := kept
    acked := none, refused := 0, trainAt := s.clk.tick, due := false }) s
  let s := match x.retrainTag with | some t => commitMark t s | none => s
  let s := match kept with | some both => drive p (neighbourFrame s 2 both.toNat []) s | none => s
  if (x.synced &&& x.allowed) != 0 then drive p (trainFrame s p) s else s

/-- Train a port, once the stream fabric admits the bubble (R161). -/
def startTraining (p : Nat) (s : State) : State :=
  let x := s.port p
  if x.phase == .off then s
  else if x.phase != .training && !mayBubble s then onRopePort p (fun x => { x with due := true, train := none }) s
  else beginTraining p s

/-- Trainings that waited begin (R161). -/
def beginTrainings (s : State) : State :=
  [0, 1].foldl (fun s p => if (s.port p).due && mayBubble s then beginTraining p s else s) s

/-- A frame is refused: discarded, counted and answered with NAK; the eighth refusal of one frame retrains the port
(R349, R358). -/
def refuseFrame (p : Nat) (badCrc : Bool) (s : State) : State :=
  let s := onRopePort p (fun x => { x with
    refused := if badCrc then x.refused + 1 else x.refused
    counters := if badCrc then { x.counters with crcErrors := satInc x.counters.crcErrors } else x.counters }) s
  let s := returnCredit p true s
  if 8 ≤ (s.port p).refused then startTraining p s else s

/-- Receive a sequenced frame and act on it if it is for this chip, which has space for it; pass it on where it is not, or is a
broadcast: it stands in its receive buffer until it has left (R360). -/
def receive (r : RopeRx) (f : RopeFrame) (act : State → State) (s : State) : State :=
  let p := r.port.toNat
  let x := s.port p
  if !x.isUp then s
  else if !r.good then refuseFrame p true s
  else if r.lseq != x.rxSeq then refuseFrame p false s
  else
    let s := onRopePort p (fun x => { x with
      rxSeq := x.rxSeq + 1, unacked := x.unacked + 1, refused := 0, nak := false
      counters := { x.counters with rx := satInc x.counters.rx } }) s
    let mine := r.dst == 0xFE || r.dst == 0xFF || r.dst.toNat == s.rope.index
    let f := { f with dst := r.dst, src := r.src, buffer := some r.port }
    let s := if mine && r.dst != 0xFF then freeBuffer f s else forward p f s
    let s := if 16 ≤ (s.port p).unacked then returnCredit p false s else s
    flushRope (if mine then act s else s)

/-- A CTRL frame's form. -/
def ctrl (code : Byte) (arg : Nat) (payload : Bytes) : RopeFrame :=
  { type := 1, code := code, dst := 0, src := 0, info := code.toNat + 256 * arg, payload := payload }

/-! ### Topology (R352 to R356, R369 to R372) -/

/-- ROPE_TOPOLOGY (Table 15-8). -/
def topologyEvent (s : State) : State :=
  raise 0x91 true ([s.rope.topo.code, BitVec.ofNat 8 s.rope.count, s.rope.gen, BitVec.ofNat 8 s.rope.index] ++ le 8 s.rope.lostMask.toNat) s

/-- ROPE_FAULT. -/
def ropeFault (kind chip : Byte) (s : State) : State := raise 0x92 true [kind, chip, 0, 0] s

/-- A placed model is of a Ridge mode. -/
def ridgeModel (x : Model) : Bool := x.placement.mode == 4 || x.placement.mode == 5

/-- Chips of a placed Ridge model. -/
def ridgeChips (s : State) (x : Model) : List Nat :=
  if x.placement.mode == 5 then List.range s.rope.count
  else if x.placement.mode == 4 then (List.range (imgPitches x.image)).map (x.baseChip + ·) else []

/-- Abandon a model's round on this chip (R371). -/
def endRound (m : Nat) (s : State) : State :=
  let s := onRidge m (fun r => { r with circ := { r.circ with running := false, done := [], outstanding := 0, unsent := [], applied := [] } }) s
  abandonJobs (fun j => j.model == m && j.round.isSome) 5 false s

/-- A topology change ends the rounds of the models that continue (R371). -/
def abortRounds (s : State) : State :=
  (List.range 8).foldl (fun s m =>
    if ((s.model m).phase == .running || (s.model m).phase == .placed) && (s.model m).placement.mode == 5 then
      endRound m (sendOut (sendRope (ctrlFrame s 0x0E 0xFF m []) s))
    else s) s

/-- Links of the Rope that have been reported lost: link n joins chips n and n + 1 (R369) (in part DEDUCED, log entry 61). -/
def lostLinks (s : State) : List Nat :=
  (s.rope.links.map fun l => if l.1 == 1 then l.2 else (l.2 + s.rope.count - 1) % max 1 s.rope.count).eraseDups

/-- What the head does to its Ridge models after a new topology: one that has lost a pitch chip halts, one whose path has
changed runs its frames again, a circulated one goes on without the lost shards (R370, R371). -/
def ridgeAfter (old : Word64) (s : State) : State :=
  (List.range 8).foldl (fun s m =>
    let x := s.model m
    if !(x.phase == .running || x.phase == .placed && busyModel s m) || !ridgeModel x then s
    else if x.placement.mode == 4 then
      if (ridgeChips s x).any fun c => !reachable s c then haltModel m stLinkDown s
      else if (lostLinks s).any fun l => decide (x.baseChip ≤ l) && decide (l + 1 < x.baseChip + imgPitches x.image) then
        abandonJobs (fun j => j.model == m && !j.pitch) 5 false s
      else s
    else if s.rope.lostMask != old then placementEvent m 3 5 s
    else s) s

/-- Broadcast the topology in force. -/
def broadcastTopology (s : State) : State :=
  let r := s.rope
  routeOut (ctrlFrame s 5 0xFF 0 ([r.gen, r.topo.code, BitVec.ofNat 8 r.count, 0] ++ le 8 r.lostMask.toNat
    ++ r.ids.flatMap fun i => le 8 i.toNat)) s

/-- Relays and remote reads whose chip can no longer be reached end with LINK_DOWN. -/
def endLostRelays (s : State) : State :=
  let s := (s.rope.relaysOut.filter fun r => !reachable s r.dst.toNat).foldl (fun s r => endRelay r.id.toNat s) s
  (s.cairn.remote.filter fun r => !reachable s r.chip.toNat).foldl (fun s r => endRead r.relay.toNat s) s

/-- The head puts a new topology in force with GEN plus one and broadcasts it. -/
def newTopology (kind : Topo) (count : Nat) (lost : Word64) (ids : List Word64) (s : State) : State :=
  let old := s.rope.lostMask
  let s := abortRounds s
  let s := onRope (fun r => { r with topo := kind, count := count, lostMask := lost, ids := ids, gen := r.gen + 1, index := 0,
                                     headId := Config.deviceId, heartbeat := false }) s
  endLostRelays (ridgeAfter old (topologyEvent (broadcastTopology s)))

/-- End ROPE_ENUMERATE with its four bytes. -/
def endEnum (status result : Byte) (s : State) : State :=
  let body := [s.rope.topo.code, BitVec.ofNat 8 s.rope.count, s.rope.gen, result]
  match s.rope.enumTag with
  | some t => finish t status body (onRope (fun r => { r with enumTag := none, enumerating := false }) s)
  | none => onRope (fun r => { r with enumerating := false }) s

/-- Indices of chips that hold a pitch or shard of a placed Ridge model. -/
def heldChips (s : State) : List Nat :=
  ((s.mdl.slots.toList.filter fun x => ridgeModel x && (x.phase == .placed || x.phase == .running)).flatMap (ridgeChips s)).eraseDups

/-- The new enumeration moves a chip that holds a pitch or shard to another index, or leaves one without an index that is not
marked lost (R355) (in part DEDUCED, log entry 62). -/
def movesChips (s : State) (ids : List Word64) : Bool :=
  (heldChips s).any fun i => decide (i < s.rope.ids.length) &&
    ((ids.zipIdx.any fun x => x.1 == s.rope.ids.getD i 0 && x.2 != i)
      || (!s.rope.lostMask.getLsbD i && !ids.contains (s.rope.ids.getD i 0)))

/-- A lost chip is enumerated again at its index (R372). -/
def chipReturned (i : Nat) (old new : Word64) (s : State) : State :=
  let other := old != new
  let s := onRope (fun r => { r with replaced := if other then (r.replaced ++ [i]).eraseDups else r.replaced.filter (· != i) }) s
  raise 0x93 false ([BitVec.ofNat 8 i, if other then 1 else 0, 0, 0] ++ le 8 new.toNat) s

/-- An enumeration ends with a kind, a count and the identities found, or with the 65th chip's answer (R352 to R355,
R372). An enumeration that finds lost chips again restores the kind before the loss once no chip is lost. -/
def enumDone (kind : Topo) (count : Nat) (ids : List Word64) (overflow : Bool) (s : State) : State :=
  let r := s.rope
  let upUp := (s.port 0).isUp && kind != .ring
  let result : Nat := flags [true, false, overflow, upUp]
  let again := r.enumTag.isNone && (r.lostMask != 0 || r.topo == .ringBroken) && decide (count ≤ r.count)
  if movesChips s (if again then ids ++ r.ids.drop count else ids) then
    endEnum stState (BitVec.ofNat 8 (result - 1)) (ropeFault 8 0xFF s)
  else
    let back := (List.range count).filter fun i => r.lostMask.getLsbD i
    let lost := if again then back.foldl (fun w i => setBit w i false) r.lostMask else 0
    let whole := lost == 0 && count == r.count
    let kind' := if again && !whole then r.topo else kind
    let ids' := if again then ids ++ r.ids.drop count else ids
    let count' := if again then r.count else count
    let s := (onRope fun r => { r with links := if again && !whole then r.links.filter (fun l => !decide (l.2 < count)) else [] }) s
    let s := match r.enumTag with | some t => commitMark t s | none => s
    let s := newTopology kind' count' lost ids' s
    let s := if again then back.foldl (fun s i => chipReturned i (r.ids.getD i 0) (ids.getD i 0) s) s else s
    let s := if overflow then ropeFault 3 0xFF s else s
    let s := if upUp then ropeFault 7 0xFF s else s
    endEnum 0x00 (BitVec.ofNat 8 result) s

/-- The head begins an enumeration (R352); with ROPE_D not UP the Rope is a chain of one chip
(in part DEDUCED, log entry 62). -/
def startEnum (s : State) : State :=
  if !isHead s || s.boot.phase != .ready || !s.isOn 11 || s.rope.detached || s.rope.conflict then s
  else if !(s.port 1).isUp then enumDone .chain 1 [Config.deviceId] false s
  else portSend 1 (neighbourFrame s 3 1 (le 8 Config.deviceId.toNat)) (onRope (fun r => { r with enumerating := true, index := 0 }) s)

/-- The chip loses its index: it runs as a single chip and releases every pitch it holds (R356). -/
def loseIndex (s : State) : State :=
  let s := onRope (fun r => { r with index := 0xFF, offered := none, topo := .none, count := 0, lostMask := 0, ids := [],
                                     headId := 0, heartbeat := false, replaced := [], links := [] }) s
  let s := (List.range 8).foldl (fun s m => releasePitch m s) s
  endLostRelays (topologyEvent s)

/-- ROPE_LINK, for a change among UP, UP_1LANE, ASLEEP and LOST (in part DEDUCED, log entry 184). -/
def linkEvent (p : Nat) (prev : LinkPhase) (s : State) : State :=
  let x := s.port p
  let shown (a : LinkPhase) : Bool := a == .up || a == .upOne || a == .asleep || a == .lost
  if shown x.phase && x.phase != prev then
    raise 0x90 true [BitVec.ofNat 8 p, x.phase.code, prev.code, x.lanes.setWidth 8] s
  else s

/-- Chips that can be reached from the head across the links that remain. -/
def reachedFrom (count : Nat) (ring : Bool) (lost : List Nat) : List Nat :=
  let down := 1 + ((List.range (count - 1)).takeWhile fun l => !lost.contains l).length
  let up := if ring then (((List.range (count - 1)).map fun k => count - 1 - k).takeWhile fun l => !lost.contains l).length else 0
  (List.range down) ++ (List.range up).map fun k => count - 1 - k

/-- The head hears that a port of a chip is LOST and decides the new topology: when a link of a chain is lost, when both
ends of a ring's link or both links of a chip are, and at a second loss (R369). -/
def linkLost (chip port : Nat) (s : State) : State :=
  let r := s.rope
  if r.topo == .none || r.topo == .split && r.links.contains (port, chip) then s
  else
    let s := onRope (fun r => { r with links := (r.links ++ [(port, chip)]).eraseDups }) s
    let ring := r.topo == .ring || r.topo == .ringBroken
    let links := lostLinks s
    if r.topo == .ring && s.rope.links.length < 2 then s
    else
      let seen := reachedFrom r.count ring links
      let gone := (List.range r.count).filter fun c => !seen.contains c
      let mask := gone.foldl (fun w c => setBit w c true) (0 : Word64)
      let kind : Topo := if ring && gone.length ≤ 1 then .ringBroken else if gone.isEmpty then r.topo else .split
      if kind == r.topo && mask == r.lostMask then s
      else
        let s := onRope (fun r => { r with before := if r.lostMask == 0 then r.topo else r.before }) s
        let s := newTopology kind r.count mask r.ids s
        if gone.isEmpty then s
        else
          let fault : Byte := if kind == .split then 6 else 5
          let first := gone.headD 0
          cairn 0x9001 (0x0500#16 ||| BitVec.ofNat 16 first) ([fault, kind.code, s.rope.gen, 0] ++ le 8 mask.toNat)
            (ropeFault fault (BitVec.ofNat 8 first) s)

/-- Report a LOST port to the head, on the other port where that can still reach it (R357, R369). -/
def reportLost (p : Nat) (s : State) : State :=
  if s.rope.index == 0xFF then s
  else if isHead s then linkLost 0 p s
  else
    let f := ctrlFrame s 8 0 (p + 256 * (s.port p).neighbour.toNat) []
    let q := 1 - p
    if usable s q && (q == 0 || s.rope.topo == .ring || s.rope.topo == .ringBroken) then portSend q f s else s

/-- Frames that wait on a port are discarded and counted. -/
def discardWaiting (p : Nat) (s : State) : State :=
  let fs := (s.port p).waiting
  let clear (x : RopePort) : RopePort :=
    { x with waiting := [], burst := false, counters := { x.counters with lost := satAdd x.counters.lost fs.length } }
  fs.foldl (fun s f => dropRope f s) (onRopePort p clear s)

/-- The count of a training's bubble, from its first attempt to its end (R348). -/
def endTrainBubble (p : Nat) (s : State) : State := countBubble (since s (s.port p).trainAt * 1000000 / 32768) s

/-- End ROPE_RETRAIN and ROPE_ATTACH where their trainings have ended. -/
def endTrainTags (p : Nat) (s : State) : State :=
  let x := s.port p
  let s := match x.retrainTag with
    | some t => finish t 0x00 [x.phase.code, x.lanes.setWidth 8, 0, 0] (onRopePort p (fun x => { x with retrainTag := none }) s)
    | none => s
  match s.rope.attachTag with
  | some t =>
    if [0, 1].any fun q => (s.port q).phase == .training || (s.port q).due then s
    else finish t 0x00 [(s.port 0).phase.code, (s.port 1).phase.code, 0, 0] (onRope (fun r => { r with attachTag := none }) s)
  | none => s

/-- A port becomes LOST (R348, R349, R369). -/
def portLost (p : Nat) (s : State) : State :=
  let prev := if (s.port p).phase == .training then (s.port p).from' else (s.port p).phase
  let s := onRopePort p (fun x => { x with phase := .lost, lanes := 0, train := none, acked := none, attempt := 0, due := false }) s
  let s := endTrainTags p (reportLost p (discardWaiting p (linkEvent p prev s)))
  flushRope (if p == 1 && s.rope.enumerating then startEnum s else s)

/-! ### Training (R348 to R351) -/

/-- A port's registers as its training ends (R348, R350, R351, R358): the neighbour has been reset or is new where `fresh`. -/
def RopePort.trained (lanes : BitVec 2) (fresh : Bool) (x : RopePort) : RopePort :=
  let degraded := lanes != 3 && (x.allowed == 3 || decide (4 ≤ x.attempt))
  { x with
    phase := if lanes == 3 then .up else .upOne, lanes := lanes, allowed := lanes, everUp := true, changed := false, attempt := 0
    train := none, acked := none, refused := 0, unacked := 0, nak := false, owed := Vector.replicate 4 0, burst := false,
    txSeq := if fresh then BitVec.ofNat 12 0 else x.txSeq, rxSeq := if fresh then BitVec.ofNat 12 0 else x.rxSeq
    replay := if fresh then [] else x.replay
    counters := { x.counters with
      trainings := satInc x.counters.trainings
      degrades := if degraded then satInc x.counters.degrades else x.counters.degrades
      lost := if x.changed then satAdd x.counters.lost x.replay.length else x.counters.lost
      replays := if fresh then x.counters.replays else satAdd x.counters.replays x.replay.length } }

/-- A training ends on both ports' registers: the neighbour counts on whole buffers, so that frames from it that still wait to be
passed on give no credit back. -/
def endTraining (p : Nat) (lanes : BitVec 2) (fresh : Bool) (s : State) : State :=
  let moved (f : RopeFrame) : RopeFrame := if f.buffer.any (·.toNat == p) then { f with buffer := none } else f
  onRopePort (1 - p) (fun x => { x with waiting := x.waiting.map moved })
    (onRopePort p (RopePort.trained lanes fresh) (endTrainBubble p s))

/-- A trained port becomes UP (R348), with the credits of whole buffers: it resumes from its first unacknowledged frame, or
discards its replay buffer where the neighbour has been reset, which is taken as a chip that left and returned (R351); an
enumerated chip reports a new neighbour or a closed ring (R355). -/
def becomeUp (p : Nat) (lanes : BitVec 2) (s : State) : State :=
  let old := s.port p
  let fresh := old.changed || !old.everUp
  let s := endTraining p lanes fresh s
  let s := endTrainTags p (linkEvent p old.from' (if fresh then s else resend p s))
  let left := old.changed && (old.from' == .up || old.from' == .upOne || old.from' == .asleep)
  let s := if left then reportLost p s else s
  let r := s.rope
  let closes := (r.topo == .ringBroken || r.topo == .split) || (p == 1 && r.index + 1 == r.count && old.neighbour == 0 && r.topo == .chain)
    || (p == 0 && isHead s && r.topo == .chain)
  let s :=
    if r.index != 0xFF && r.topo != .none && old.from' != .asleep && (old.neighbour == 0xFF || (closes && old.from' == .lost) || (closes && r.topo == .chain)) then
      if isHead s then startEnum s else sendRope (ctrlFrame s 9 0 p []) s
    else if isHead s && p == 1 && (r.topo == .none || r.enumerating) then startEnum s
    else s
  flushRope (pump p s)

/-- Both ends have received TRAIN_ACK (in part DEDUCED, log entry 69). -/
def checkTrained (p : Nat) (s : State) : State :=
  match (s.port p).train, (s.port p).acked with
  | some _, some lanes => if (s.port p).phase == .training && lanes != 0 then becomeUp p lanes s else s
  | _, _ => s

/-- A TRAIN frame arrives: an UP port retrains; it is answered with TRAIN_ACK naming the lanes present in both masks, and
sets the credits (R348, R349, R351, R359). -/
def execTrain (r : RopeRx) (deviceId : Word64) (bootCount : Word32) (index : Byte) (lanes : BitVec 2)
    (credits : Vector (BitVec 16) 4) (s : State) : Answer :=
  let p := r.port.toNat
  let x := s.port p
  if x.phase == .off || !r.good then .next s
  else
    let s := if x.phase == .training then s else startTraining p s
    let id := some (deviceId, bootCount)
    let both := lanes &&& x.synced &&& x.allowed
    let s := onRopePort p (fun y => { y with
      train := some both, neighbour := index, neighbourId := id
      changed := y.changed || (x.neighbourId.isSome && x.neighbourId != id)
      credits := credits.map BitVec.toNat }) s
    .next (if (s.port p).phase == .training then checkTrained p (drive p (neighbourFrame s 2 both.toNat []) s) else s)

/-- A TRAIN_ACK arrives (R348). -/
def execTrainAck (r : RopeRx) (lanes : BitVec 2) (s : State) : Answer :=
  let p := r.port.toNat
  if (s.port p).phase != .training || !r.good then .next s
  else .next (checkTrained p (onRopePort p (fun x => { x with acked := some (lanes &&& x.allowed) }) s))

/-- A training attempt is not complete within 10 ms (R348, R350) (in part DEDUCED, log entry 70). -/
def execTrainingAttemptTimeout (port : BitVec 1) (s : State) : Answer :=
  let p := port.toNat
  let x := s.port p
  if x.phase != .training then .next s
  else
    let last := if x.allowed == 3 || 4 ≤ x.attempt then 5 else 3
    if x.attempt < last then
      let n := x.attempt + 1
      let lanes : BitVec 2 := if n == 4 then 1 else if n == 5 then 2 else x.allowed
      .next (onRopePort p (fun x => { x with attempt := n, train := none, acked := none, allowed := lanes }) s)
    else
      let all (x : RopePort) : RopePort := { x with allowed := if 4 ≤ x.attempt then 3 else x.allowed }
      let s := onRopePort p all (endTrainBubble p s)
      if x.everUp then .next (portLost p s)
      else .next (flushRope (endTrainTags p (discardWaiting p
        (onRopePort p (fun x => { x with phase := .idle, attempt := 0, train := none, acked := none, lanes := 0 }) s))))

/-- A receiver acquires code-group synchronisation on a lane: the port sends TRAIN; an IDLE or LOST port begins to train
(R348) (in part DEDUCED, log entry 58). -/
def execCodeGroupSyncAcquired (port : BitVec 1) (lane : BitVec 1) (s : State) : Answer :=
  let p := port.toNat
  let x := s.port p
  if x.phase == .off then .next s
  else
    let s := onRopePort p (fun x => { x with synced := setBit x.synced lane.toNat true }) s
    match x.phase with
    | .training => .next (if ((s.port p).synced &&& x.allowed) != 0 then drive p (trainFrame s p) s else s)
    | .idle | .lost | .asleep => .next (startTraining p s)
    | _ => .next s

/-- An active lane loses code-group synchronisation: the port retrains; at the second loss within 1 s the lane is dropped
(R349, R350). -/
def execLaneSyncLoss (port : BitVec 1) (lane : BitVec 1) (s : State) : Answer :=
  let p := port.toNat; let k := lane.toNat
  let x := s.port p
  let s := onRopePort p (fun x => { x with synced := setBit x.synced k false }) s
  if !x.isUp || !x.lanes.getLsbD k then .next s
  else
    let recent := (rd x.losses k).filter fun t => decide (since s t < 32768)
    let dropped := !recent.isEmpty && x.lanes == 3
    let s := onRopePort p (fun x => { x with
      losses := wr x.losses k (recent ++ [s.clk.tick])
      allowed := if dropped then setBit x.allowed k false else x.allowed
      counters := if dropped then { x.counters with degrades := satInc x.counters.degrades } else x.counters }) s
    .next (startTraining p s)

/-- No activity for 1 ms after a loss of synchronisation: the port is LOST at once (R349). -/
def execSquelchSilence (port : BitVec 1) (s : State) : Answer :=
  let p := port.toNat
  let x := s.port p
  let was := if x.phase == .training then x.from' else x.phase
  if x.synced != 0 || !(was == .up || was == .upOne) then .next s
  else .next (portLost p (if x.phase == .training then endTrainBubble p s else s))

/-! ### Enumeration -/

/-- The head sends ENUM 10 ms after READY, or as ROPE_D becomes UP (R352). -/
def execEnumStart (s : State) : Answer :=
  if s.rope.topo != .none || s.rope.enumerating then .next s else .next (flushRope (startEnum s))

/-- An ENUM arrives (R352, R353). `ids` are the DEVICE_IDs of the chips of a ring that closes at the head
(in part DESIGN CHOICE, log entry 56). -/
def execEnum (r : RopeRx) (index : Nat) (headId : Word64) (ids : List Word64) (s : State) : Answer :=
  .next (receive r (ctrl 3 index (le 8 headId.toNat)) (fun s =>
    if isHead s then
      if headId == Config.deviceId then
        if s.rope.enumerating && r.port == 0 then enumDone .ring index ids false s else s
      else ropeFault 2 0xFF (portSend 0 (neighbourFrame s 6 0 []) s)
    else if r.port != 0 then s
    else if 64 ≤ index then portSend 0 { ctrlFrame s 4 0 64 [] with src := 0xFF } s
    else
      let s := onRope (fun b => { b with offered := some index, headId := headId }) s
      if (s.port 1).isUp then portSend 1 { neighbourFrame s 3 (index + 1) (le 8 headId.toNat) with src := BitVec.ofNat 8 index } s
      else portSend 0 { ctrlFrame s 4 0 (index + 1) [] with src := BitVec.ofNat 8 index } s) s)

/-- ENUM_END reaches the head, or is passed up (R352). `ids` are the DEVICE_IDs of the chips of the chain
(in part DEDUCED, log entry 59). -/
def execEnumEnd (r : RopeRx) (count : Nat) (ids : List Word64) (s : State) : Answer :=
  .next (receive r (ctrl 4 count []) (fun s =>
    if isHead s && s.rope.enumerating then enumDone .chain count ids (r.src == 0xFF) s else s) s)

/-- A TOPOLOGY broadcast arrives: the chip is enumerated at the index that ENUM gave it where the broadcast names it there, or
its index is withdrawn (R352, R353, R355) (in part DEDUCED, log entry 184). -/
def execTopology (r : RopeRx) (gen : Byte) (kind : Topo) (count : Nat) (lost : Word64) (ids : List Word64) (s : State) : Answer :=
  .next (receive r (ctrl 5 0 ([gen, kind.code, BitVec.ofNat 8 count, 0] ++ le 8 lost.toNat ++ ids.flatMap fun i => le 8 i.toNat))
    (fun s =>
      if isHead s then s
      else if kind == .none then loseIndex (onRope (fun b => { b with gen := gen }) s)
      else
        let index := match s.rope.offered with
          | some i => if ids.getD i 0 == Config.deviceId then i else s.rope.index
          | none => s.rope.index
        if index == 0xFF then s
        else endLostRelays (topologyEvent (onRope (fun b => { b with
          index := index, offered := none, topo := kind, count := count, gen := gen, lostMask := lost, ids := ids }) s))) s)

/-- HEAD_CONFLICT: the head withdraws every index it gave and keeps index 0 with kind NONE (R353). -/
def execHeadConflict (r : RopeRx) (s : State) : Answer :=
  .next (receive { r with dst := if isHead s then r.dst else 0 } (ctrl 6 0 []) (fun s =>
    if !isHead s then s
    else
      let s := onRope (fun b => { b with conflict := true }) s
      let s := newTopology .none 0 0 [] s
      endEnum 0x00 2 (ropeFault 2 0xFF s)) s)

/-- A member's ROPE_U has been UP for 2 s without ENUM (R354). -/
def execNoEnumTimeout (s : State) : Answer :=
  if role s != 2 || !(s.port 0).isUp || s.rope.index != 0xFF || s.rope.offered.isSome || s.rope.noEnumRaised then .next s
  else .next (ropeFault 1 0xFF (onRope (fun b => { b with noEnumRaised := true }) s))

/-- Every 10 ms the head broadcasts HEARTBEAT (R356). -/
def execHeartbeatSend (s : State) : Answer :=
  if !isHead s || s.boot.phase != .ready || !s.isOn 11 || s.rope.topo == .none then .next s
  else .next (flushRope (routeOut (ctrlFrame s 7 0xFF s.rope.gen.toNat []) s))

/-- A member receives HEARTBEAT (R356). -/
def execHeartbeat (r : RopeRx) (gen : Byte) (s : State) : Answer :=
  .next (receive r (ctrl 7 gen.toNat []) (onRope fun b => { b with heartbeat := true }) s)

/-- A member has had no HEARTBEAT for 1 s (R356). -/
def execHeartbeatLoss (s : State) : Answer :=
  if role s != 2 || s.rope.index == 0xFF then .next s
  else .next (ropeFault 4 0 (loseIndex s))

/-- LINK_LOST reaches the head, or is passed on (R369). -/
def execLinkLost (r : RopeRx) (port : BitVec 1) (chip : Byte) (s : State) : Answer :=
  .next (receive r (ctrl 8 (port.toNat + 256 * chip.toNat) []) (fun s =>
    if isHead s then linkLost r.src.toNat port.toNat s else s) s)

/-- JOIN: the head enumerates again (R355). -/
def execJoin (r : RopeRx) (port : BitVec 1) (s : State) : Answer :=
  .next (receive r (ctrl 9 port.toNat []) (fun s => if isHead s then startEnum s else s) s)

/-- A neighbour announces sleep: the port is ASLEEP, neither lost nor split (R368). -/
def execSleep (r : RopeRx) (s : State) : Answer :=
  .next (receive r (ctrl 0x0A 0 []) (fun s =>
    let prev := (s.port r.port.toNat).phase
    linkEvent r.port.toNat prev (onRopePort r.port.toNat (fun x => { x with phase := .asleep, lanes := 0, synced := 0 }) s)) s)

/-- A neighbour's DETACH marks the port LOST. -/
def execDetach (r : RopeRx) (s : State) : Answer := .next (receive r (ctrl 0x0B 0 []) (portLost r.port.toNat) s)

/-- A port is not UP within 10 ms of a wake burst (R368). -/
def execWakeBurstTimeout (port : BitVec 1) (s : State) : Answer :=
  if !(s.port port.toNat).burst || (s.port port.toNat).isUp then .next s else .next (discardWaiting port.toNat s)

/-! ### Circulation (R364, R365) -/

/-- Circulated layers of an image. -/
def circLayers (img : Bytes) : List Layer := (imgLayers img).filter fun l => l.pitch == 0xFE

/-- Shard i of a layer: its block of output channels (R364). -/
def shardData (img : Bytes) (l : Layer) (i : Nat) : Bytes :=
  let n := l.rows * (l.outC / max 1 (imgPitches img))
  slice img (l.wAt + n * i) n

/-- Key of a round's WSTREAM frames (Table 16-5). -/
def streamKey (s : State) (m : Nat) (round : Word32) : BitVec 256 :=
  hkdfKey (ropeKey s m) (rd s.rope.models m).salt (ascii "AETHUO-WST" ++ le 4 round.toNat)

/-- The WSTREAM frames of one shard of a layer. -/
def shardFrames (s : State) (m : Nat) (l : Layer) (shard : Nat) (round : Word32) : List RopeFrame :=
  (pieces (shardData (s.model m).image l shard)).map fun c =>
    let f : RopeFrame := { type := 6, dst := 0xFE, src := BitVec.ofNat 8 s.rope.index
                           info := m + 256 * l.index + 65536 * shard + 16777216 * (round.toNat % 256) }
    let e := gcmSeal (streamKey s m round) ([BitVec.ofNat 8 shard, BitVec.ofNat 8 l.index, 6, 0] ++ le 4 c.1 ++ [0, 0, 0, 0])
      (frameAad f (20 + c.2.length)) c.2
    { f with payload := le 4 c.1 ++ e.1 ++ e.2 }

/-- Shards this chip sources: its own, and on the head those of lost chips (R370). -/
def sourced (s : State) (m : Nat) : List Nat :=
  let n := imgPitches (s.model m).image
  s.rope.index :: if isHead s then (List.range n).filter fun c => s.rope.lostMask.getLsbD c else []

/-- Bytes of its own shards a chip may have outstanding (R365). -/
def shardWindow (s : State) (m : Nat) : Nat := 196608 / max 1 (imgPitches (s.model m).image)

/-- Send a WSTREAM frame of this chip: down a ring, both ways along a chain; answers the number of copies sent
(in part DESIGN CHOICE, log entry 65). -/
def sendShard (f : RopeFrame) (s : State) : State × Nat :=
  if s.rope.topo == .ring then (portSend 1 f s, 1)
  else
    let ps := [0, 1].filter (usable s)
    (ps.foldl (fun s p => portSend p f s) s, ps.length)

/-- Send unsent frames while the window allows (R365). -/
def pumpShards (m : Nat) : List RopeFrame → State → State
  | [], s => s
  | f :: fs, s =>
    let n := f.payload.length - 20
    if (rd s.rope.models m).circ.outstanding + n ≤ shardWindow s m then
      let r := sendShard f s
      pumpShards m fs (onRidge m (fun x => { x with circ := { x.circ with unsent := x.circ.unsent.drop 1, outstanding := x.circ.outstanding + r.2 * n } }) r.1)
    else s

/-- The chip takes part in a round: its waiting frames as one job, its shards into the ring (R364); a chip without frames
reports at once. -/
def takeRound (m : Nat) (round : Word32) (s : State) : State :=
  let x := s.model m
  let want := if localSlots s ≤ localJobs s || thermalState s == .trip then 0 else min (imgRotBatch x.image) (waitingFrames s m).length
  let space := spaceFor s m want
  let ls := circLayers x.image
  let src := sourced s m
  let s := onRidge m (fun r => { r with circ := { r.circ with
    round := round, running := true, outstanding := 0, applied := []
    unsent := src.flatMap fun k => ls.flatMap fun l => shardFrames s m l k round } }) s
  let s := match space with
    | none => reportRound m round s
    | some (g, bytes, n) =>
      let id := s.mdl.nextId
      onJob id (fun j => { j with shards := src.flatMap fun k => ls.map fun l => (l.index, k) })
        (startJob m ((waitingFrames s m).take n) g bytes false (some round) s)
  flushRope (pumpShards m (rd s.rope.models m).circ.unsent s)

/-- The head broadcasts ROUND once every chip is done and frames are waiting (R364). An aborted round's number is not
used again (R387). -/
def execCirculationRoundStart (slot : BitVec 3) (s : State) : Answer :=
  let m := slot.toNat
  let x := s.model m
  let c := (rd s.rope.models m).circ
  let waits := !(waitingFrames s m).isEmpty || c.waiting.any fun k => !s.rope.lostMask.getLsbD k
  if !isHead s || (x.phase != .running && x.phase != .placed) || x.placement.mode != 5 || c.running || !waits || s.rope.topo == .none
  then .next s
  else
    let round := c.round + 1
    .next ((takeRound m round (routeOut (ctrlFrame s 0x0C 0xFF m (le 4 round.toNat)) s)))

/-- ROUND (R364). -/
def execRound (r : RopeRx) (slot : BitVec 3) (round : Word32) (s : State) : Answer :=
  let m := slot.toNat
  .next (receive r (ctrl 0x0C m (le 4 round.toNat)) (fun s =>
    if (s.model m).phase == .pitch && (s.model m).placement.mode == 5 then takeRound m round s else s) s)

/-- ROUND_DONE (R364). -/
def execRoundDone (r : RopeRx) (slot : BitVec 3) (round : Word32) (waiting : BitVec 16) (s : State) : Answer :=
  .next (receive r (ctrl 0x0D slot.toNat (le 4 round.toNat ++ le 2 waiting.toNat)) (fun s =>
    if isHead s then roundReported r.src.toNat slot.toNat round waiting.toNat s else s) s)

/-- ROUND_ABORT (R371). -/
def execRoundAbort (r : RopeRx) (slot : BitVec 3) (s : State) : Answer :=
  .next (receive r (ctrl 0x0E slot.toNat []) (endRound slot.toNat) s)

/-- RETIRE frees the origin's window (R365). -/
def execRetire (r : RopeRx) (slot : BitVec 3) (bytes : Word32) (s : State) : Answer :=
  let m := slot.toNat
  .next (receive r (ctrl 0x0F m (le 4 bytes.toNat)) (fun s =>
    let s := onRidge m (fun x => { x with circ := { x.circ with outstanding := x.circ.outstanding - bytes.toNat } }) s
    pumpShards m (rd s.rope.models m).circ.unsent s) s)

/-- A part of a shard that authenticates under the round's key is noted, and a shard that is whole is applied to the round's job;
a frame that does not authenticate is applied nowhere (R364). -/
def takeShard (m : Nat) (layer shard roundLow : Byte) (offset : Nat) (data gcmTag : Bytes) (f : RopeFrame) (s : State) : State :=
  let img := (s.model m).image
  let c := (rd s.rope.models m).circ
  let plain := gcmOpen (streamKey s m c.round) ([shard, layer, 6, 0] ++ le 4 offset ++ [0, 0, 0, 0])
    (frameAad f (20 + data.length)) data gcmTag
  let mine (x : Nat × Nat × Nat) : Bool := x.1 == layer.toNat && x.2.1 == shard.toNat
  let done := ((c.applied.filter mine).map (·.2.2)).sum + data.length
  let whole := (circLayers img).any fun l => l.index == layer.toNat && done == (shardData img l shard.toNat).length
  if plain.isSome && c.round.toNat % 256 == roundLow.toNat then
    let s := onRidge m (fun r => { r with circ := { r.circ with
      applied := (r.circ.applied.filter fun x => !mine x) ++ [(layer.toNat, shard.toNat, done)] } }) s
    match s.mdl.jobs.find? fun j => j.model == m && j.round == some c.round with
    | some j => if whole then onJob j.id (fun j => { j with shards := (j.shards ++ [(layer.toNat, shard.toNat)]).eraseDups }) s else s
    | none => s
  else s

/-- A WSTREAM frame is applied to the round's job, and forwarded, or retired where the next chip is its origin or the chain
ends (R364, R370). -/
def execWstream (r : RopeRx) (slot : BitVec 3) (layer shard roundLow : Byte) (offset : Nat) (data gcmTag : Bytes) (s : State) : Answer :=
  let m := slot.toNat; let p := r.port.toNat
  let f : RopeFrame := { type := 6, dst := r.dst, src := r.src
                         info := m + 256 * layer.toNat + 65536 * shard.toNat + 16777216 * roundLow.toNat
                         payload := le 4 offset ++ data ++ gcmTag }
  .next (receive { r with dst := 0xFE } f (fun s =>
    let s := takeShard m layer shard roundLow offset data gcmTag f s
    let ring := s.rope.topo == .ring
    let ends := if ring then (s.rope.index + 1) % max 1 s.rope.count == r.src.toNat else !usable s (1 - p)
    if ends then sendRope (ctrlFrame s 0x0F r.src m (le 4 data.length)) s else portSend (if ring then 1 else 1 - p) f s) s)

/-! ### Activations between pitches (R362) -/

/-- LAND_GRANT: granted outputs leave (R362). -/
def execLandGrant (r : RopeRx) (slot : BitVec 3) (layer : Byte) (frames : BitVec 16) (s : State) : Answer :=
  .next (receive r (ctrl 0x10 (slot.toNat + 256 * layer.toNat) (le 2 frames.toNat)) (fun s =>
    onRope (fun b => { b with grants := b.grants ++ [(slot.toNat, layer.toNat, frames.toNat)] }) s) s)

/-- The source layer whose outputs an ACT frame carries: of the layers on the sending chip that feed the layer named, or
of the SCORE layers there, the first that the frame still lacks. -/
def landSource (s : State) (m layer src : Nat) (f : Option Frame) : Option Nat :=
  let x := s.model m
  let lacks (i : Nat) : Bool := match f with | some f => f.outs.all (·.1 != i) | none => true
  let here (i : Nat) : Bool := (x.placement.layers.getD i {}).place == .away src
  let cands := if layer == 0xFF then ((imgLayers x.image).filter fun l => l.isScore && here l.index).map Layer.index
    else ((awaySources x (layerAt x.image layer)).filter fun c => c.2 == src).map Prod.fst
  cands.find? lacks

/-- The bytes of a source layer's outputs for one frame; a score has two. -/
def landBytes (s : State) (m layer source : Nat) : Nat := if layer == 0xFF then 2 else outBytes (s.model m).image source

/-- The values of a source layer's outputs. -/
def landValues (s : State) (m layer source : Nat) (b : Bytes) : List Int :=
  let t := if layer == 0xFF then 2 else (srcShape (s.model m).image source).2.2
  let n := if t == 2 then 2 else 1
  (List.range (b.length / n)).map fun i => if layer == 0xFF then (fld b (2 * i) 2 : Int)
    else readAs t (if t == 2 then signed 16 (fld b (2 * i) 2) else fld b i 1)

/-- The frame on this chip that a FRAME_REF names. -/
def landFrame (s : State) (m : Nat) (ref : BitVec 16) : Option Frame :=
  s.mdl.frames.find? fun f => f.model == m && f.ref == ref && (f.inJob || f.pitch)

/-- The first ACT frame of a FRAME_REF makes a frame of a pitch job, whose place in their order this is (R262). -/
def openLanding (m layer src : Nat) (ref : BitVec 16) (s : State) : State :=
  if layer == 0xFF || (landFrame s m ref).isSome then s
  else
    let x := s.model m
    let f : Frame := { id := s.mdl.nextId, model := m, frame := default, bank := x.actGroup.getD 0, epoch := ownerEpoch s x.owner
                       pitch := true, ref := ref, land := layer, source := src }
    onRm (fun b => { b with frames := b.frames ++ [f], nextId := b.nextId + 1 }) s

/-- Whole outputs have landed: they stand in the frame of that FRAME_REF. -/
def landed (m source : Nat) (ref : BitVec 16) (vals : List Int) (s : State) : State :=
  match landFrame s m ref with
  | none => s
  | some f =>
    let s := onQueued f.id (fun f => { f with outs := f.outs ++ [(source, vals)] }) s
    match s.mdl.jobs.find? fun j => j.frames.contains f.id && j.awaiting with
    | some j => endJob j.id s
    | none => s

/-- The era of a received FRAME_REF, and what is kept of it (R387). -/
def eraOf (m : Nat) (ref : BitVec 16) (s : State) : Nat × State :=
  let r := rd s.rope.models m
  if r.rxHigh && decide (ref.toNat < 0x4000) then (r.rxEra + 1, onRidge m (fun r => { r with rxEra := r.rxEra + 1, rxHigh := false }) s)
  else (r.rxEra, onRidge m (fun r => { r with rxHigh := r.rxHigh || decide (0xC000 ≤ ref.toNat) }) s)

/-- An ACT frame lands activations or scores in reserved space (R360, R362). -/
def execAct (r : RopeRx) (slot : BitVec 3) (layer : Byte) (ref : BitVec 16) (offset : Nat) (data gcmTag : Bytes) (s : State) : Answer :=
  let m := slot.toNat; let k := layer.toNat
  let f : RopeFrame := { type := 5, dst := r.dst, src := r.src, info := m + 256 * k + 65536 * ref.toNat, payload := le 4 offset ++ data ++ gcmTag }
  .next (receive r f (fun s =>
    let x := s.model m
    if !(x.phase.runs || x.phase == .placed) || x.placement.mode != 4 then s
    else
      let e := eraOf m ref s
      match gcmOpen (actKey s m e.1) (actNonce r.src r.dst layer ref.toNat offset) (frameAad f (20 + data.length)) data gcmTag with
      | none => s
      | some plain =>
        let s := openLanding m k r.src.toNat ref e.2
        let key (l : Landing) : Bool := l.model == m && l.layer == k && l.src == r.src.toNat && l.ref == ref
        let got := ((s.rope.landings.find? key).map (·.got)).getD [] ++ plain
        let s := onRope (fun b => { b with landings := b.landings.filter fun l => !key l }) s
        match landSource s m k r.src.toNat (landFrame s m ref) with
        | none => s
        | some source =>
          if got.length < landBytes s m k source then
            onRope (fun b => { b with landings := b.landings ++ [{ model := m, layer := k, src := r.src.toNat, ref := ref, got := got }] }) s
          else landed m source ref (landValues s m k source got) s) s)

/-! ### Credits (R358, R359) -/

/-- A CREDIT frame returns credits and acknowledges frames; a NAK has the sender resend from the frame it names. -/
def execCredit (port : BitVec 1) (good : Bool) (ack : BitVec 12) (nak : Bool) (credits : Vector (BitVec 16) 4) (s : State) : Answer :=
  let p := port.toNat
  let x := s.port p
  if !x.isUp then .next s
  else if !good then .next (onRopePort p (fun x => { x with counters := { x.counters with crcErrors := satInc x.counters.crcErrors } }) s)
  else
    let at' := x.replay.findIdx fun r => r.1 == ack
    let left := if at' < x.replay.length then x.replay.drop (if nak then at' else at' + 1) else x.replay
    let s := onRopePort p (fun x => { x with
      replay := left
      credits := (List.range 4).foldl (fun v i => upd v i (· + (rd credits i).toNat)) x.credits
      counters := if nak then { x.counters with replays := satAdd x.counters.replays left.length } else x.counters }) s
    .next (flushRope (pump p (if nak then resend p s else s)))

/-- Every 20 us with frames unacknowledged, or credits to return, the receiver sends a CREDIT (R358, R359). -/
def execAckTimer (port : BitVec 1) (s : State) : Answer :=
  let p := port.toNat
  if !(s.port p).isUp || ((s.port p).unacked == 0 && (s.port p).owed == Vector.replicate 4 0) then .next s
  else .next (returnCredit p false s)

/-! ### The power of the Rope -/

/-- PD11 is powered: both ports train (R348). -/
def ropePowered (s : State) : State :=
  let on (x : RopePort) : RopePort := { x with phase := .idle, everUp := false, allowed := 3, synced := 0 }
  let s := onRopePort 1 on (onRopePort 0 on s)
  startTraining 1 (startTraining 0 s)

/-- PD11 goes off: the ports are OFF and what waited on them is lost. -/
def ropeUnpowered (s : State) : State :=
  let off (p : Nat) (s : State) : State :=
    onRopePort p (fun x => { counters := x.counters, neighbourId := x.neighbourId }) (discardWaiting p s)
  off 1 (off 0 s)

/-- Announce sleep on each UP port (R368). -/
def sendSleep (s : State) : State :=
  [0, 1].foldl (fun s p => if (s.port p).isUp then portSend p (neighbourFrame s 0x0A 0 []) s else s) s

/-- The chip holds a pitch or shard of a RUNNING Ridge model, or is a head with one RUNNING (R368). -/
def ridgeRuns (s : State) : Bool := s.mdl.slots.toList.any fun x => x.phase == .pitch || (ridgeModel x && x.phase == .running)

/-! ### Commands -/

/-- A Solo chip refuses every command of the group (R13). -/
def ropeServe (f : Form) (h : Hdr) (p : Bytes) (body : State → State) (s : State) : State :=
  serve f h p (fun s => refuseIf h.tag [(!isRidge s, stState)] body s) s

/-- A port's eight bytes in ROPE_STATUS. -/
def portBytes (x : RopePort) : Bytes :=
  [x.phase.code, x.lanes.setWidth 8, if x.isUp || x.phase == .asleep then x.neighbour else 0xFF, 0] ++ le 4 x.counters.trainings.toNat

/-- ROPE_STATUS (Table 15-7). -/
def cmdRopeStatus (h : Hdr) (p : Bytes) (s : State) : State :=
  ropeServe { opcode := 0x90, length := (· == 0) } h p
    (fun s =>
      let r := s.rope
      doneWith h ([BitVec.ofNat 8 (role s), BitVec.ofNat 8 r.index, r.topo.code, BitVec.ofNat 8 r.count, r.gen,
        BitVec.ofNat 8 (flags [r.detached, r.heartbeat, r.conflict]), 0, 0] ++ portBytes (s.port 0) ++ portBytes (s.port 1)
        ++ le 8 r.headId.toNat) s) s

/-- ROPE_ENUMERATE, on the head only. -/
def cmdRopeEnumerate (h : Hdr) (p : Bytes) (s : State) : State :=
  ropeServe { opcode := 0x91, rights := fun _ _ => .site, length := (· == 0) } h p
    (fun s =>
      refuseIf h.tag [(!isHead s, stState), (s.rope.detached, stLinkDown), (clockDown s 11, stHwFault), (s.rope.enumTag.isSome, stBusy)]
        (fun s => flushRope (startEnum (started h.tag (onRope (fun r => { r with enumTag := some h.tag, conflict := false }) s)))) s) s

/-- The commands of the Rope that are in flight end as the chip leaves it (in part DEDUCED, log entry 184). -/
def endRopeTags (s : State) : State :=
  let end1 (status : Byte) (body : Bytes) (t : Option Tag) (s : State) : State :=
    match t with
    | some t => finish t status body s
    | none => s
  let r := s.rope
  let s := end1 0x00 [0, 0, 0, 0] (s.port 1).retrainTag (end1 0x00 [0, 0, 0, 0] (s.port 0).retrainTag s)
  let s := end1 0x00 [0, 0, 0, 0] r.attachTag (end1 stLinkDown [] r.enumTag s)
  onRope (fun b => { b with enumTag := none, attachTag := none, ports := b.ports.map fun x => { x with retrainTag := none } }) s

/-- ROPE_DETACH: DETACH on each UP port, PD11 off, and the chip runs alone (R15) (in part DEDUCED, log entry 184). -/
def cmdRopeDetach (h : Hdr) (p : Bytes) (s : State) : State :=
  ropeServe { opcode := 0x92, rights := fun _ _ => .site, length := (· == 4)
              reserved := fun p => fld p 0 1 / 2 == 0 && fld p 1 3 == 0 } h p
    (fun s =>
      refuseIf h.tag [(!bit (fld p 0 1) 0 && ridgeRuns s, stBusy)]
        (fun s =>
          if s.rope.detached then doneWith h [] s
          else
            let s := [0, 1].foldl (fun s q => if (s.port q).isUp then portSend q (neighbourFrame s 0x0B 0 []) s else s) s
            let old := s.rope.lostMask
            let s := onRope (fun r => { r with detached := true, enumerating := false, conflict := false }) s
            let s := ridgeAfter old (abortRounds s)
            doneWith h [] (wantDomain 11 false (ropeUnpowered (loseIndex (endRopeTags s))))) s) s

/-- ROPE_ATTACH powers PD11 and trains both ports. -/
def cmdRopeAttach (h : Hdr) (p : Bytes) (s : State) : State :=
  ropeServe { opcode := 0x93, rights := fun _ _ => .site, length := (· == 0) } h p
    (fun s =>
      if !s.rope.detached then doneWith h [(s.port 0).phase.code, (s.port 1).phase.code, 0, 0] s
      else
        refuseIf h.tag [(s.rope.attachTag.isSome, stBusy), (clockDown s 11, stHwFault)]
          (fun s => wantDomain 11 true (started h.tag (onRope (fun r => { r with detached := false, attachTag := some h.tag }) s))) s) s

/-- ROPE_TOPOLOGY_GET (in part DEDUCED, log entry 184). -/
def cmdRopeTopologyGet (h : Hdr) (p : Bytes) (s : State) : State :=
  ropeServe { opcode := 0x95, length := (· == 0) } h p
    (fun s =>
      let r := s.rope
      let entry (i : Nat) : Bytes :=
        let state : Byte := if r.lostMask.getLsbD i then 1 else if r.replaced.contains i then 2 else 0
        let link : Nat := if i == r.index then flags [(s.port 0).phase == .upOne, (s.port 1).phase == .upOne] else 0
        [BitVec.ofNat 8 i, state, if i == 0 then 1 else 2, BitVec.ofNat 8 link] ++ le 8 (r.ids.getD i 0).toNat ++ [0, 0, 0, 0]
      if r.index == 0xFF then doneWith h (List.replicate 16 0) s
      else doneWith h ([r.topo.code, BitVec.ofNat 8 r.count, r.gen, 0] ++ le 8 r.lostMask.toNat ++ [0, 0, 0, 0]
        ++ (List.range r.count).flatMap entry) s) s

/-- ROPE_RETRAIN (R349, R350). -/
def cmdRopeRetrain (h : Hdr) (p : Bytes) (s : State) : State :=
  ropeServe { opcode := 0x96, rights := fun _ _ => .site, length := (· == 4), reserved := zeros [(2, 2)] } h p
    (fun s =>
      let q := fld p 0 1; let l := fld p 1 1
      let x := s.port q
      refuseIf h.tag
        [(decide (1 < q) || decide (2 < l), stParam), (x.phase == .training || x.retrainTag.isSome, stBusy), (x.phase == .off || x.phase == .asleep, stState)]
        (fun s =>
          let lanes : BitVec 2 := if l == 0 then 3 else BitVec.ofNat 2 l
          startTraining q (onRopePort q (fun x => { x with allowed := lanes, retrainTag := some h.tag }) (started h.tag s))) s) s

/-- The eight counters of a port (in part DEDUCED, log entry 66). -/
def RopeCounters.bytes (c : RopeCounters) : Bytes :=
  [c.tx, c.rx, c.crcErrors, c.naks, c.replays, c.trainings, c.degrades, c.lost].flatMap fun x => le 4 x.toNat

/-- The reply of ROPE_COUNTERS. -/
def ropeCounterBytes (s : State) : Bytes := (s.port 0).counters.bytes ++ (s.port 1).counters.bytes

/-- ROPE_COUNTERS with CLEAR at 0. -/
def cmdRopeCounters (h : Hdr) (p : Bytes) (s : State) : State :=
  ropeServe { opcode := 0x97, length := (· == 4), reserved := fun p => fld p 0 1 / 2 == 0 && fld p 1 3 == 0 } h p
    (fun s => doneWith h (ropeCounterBytes s) s) s

/-- ROPE_COUNTERS with CLEAR at 1. -/
def cmdRopeCountersClear (h : Hdr) (p : Bytes) (s : State) : State :=
  ropeServe { opcode := 0x97, rights := fun _ _ => .site, length := (· == 4)
              reserved := fun p => fld p 0 1 / 2 == 0 && fld p 1 3 == 0 } h p
    (fun s =>
      let clear (x : RopePort) : RopePort := { x with counters := {} }
      onRopePort 1 clear (onRopePort 0 clear (doneWith h (ropeCounterBytes s) s))) s

/-! ### The meanings -/

def execRopeStatus (h : Hdr) (p : Bytes) (s : State) : Answer := .next (cmdRopeStatus h p s)
def execRopeEnumerate (h : Hdr) (p : Bytes) (s : State) : Answer := .next (cmdRopeEnumerate h p s)
def execRopeDetach (h : Hdr) (p : Bytes) (s : State) : Answer := .next (cmdRopeDetach h p s)
def execRopeAttach (h : Hdr) (p : Bytes) (s : State) : Answer := .next (cmdRopeAttach h p s)
def execRopeTopologyGet (h : Hdr) (p : Bytes) (s : State) : Answer := .next (cmdRopeTopologyGet h p s)
def execRopeRetrain (h : Hdr) (p : Bytes) (s : State) : Answer := .next (cmdRopeRetrain h p s)
def execRopeCounters (h : Hdr) (p : Bytes) (s : State) : Answer := .next (cmdRopeCounters h p s)
def execRopeCountersClear (h : Hdr) (p : Bytes) (s : State) : Answer := .next (cmdRopeCountersClear h p s)

end Sys2Proof.Machine
end

