-- ==== Sys2Proof/Machine/Abort.lean ====
section
/-! DEFINITION. Stopping a command before its commit point, with no effect: ABORT, the end of a session by owner removal
or debug open, and a control-core exception (R39, R45, R52). -/

namespace Sys2Proof.Machine

/-- The tag in an option. -/
def isTag (tag : Tag) (o : Option Tag) : Bool := o == some tag

/-- Withdraw a command's work on heads (chapter 12). -/
def withdrawHead (tag : Tag) (s : State) (n : Nat) : State :=
  let h := s.head n
  let copying := h.copy.any (fun c => isTag tag c.tag) || s.mdl.writes.any fun r => match r.cause with
    | .consolidate k t _ => k == n && isTag tag t
    | _ => false
  let s := if copying then withdrawCopy n false stAborted s else s
  let mine := isTag tag (h.busy.bind HeadBusy.tag)
  serveHead n (onHead n (fun h => { h with
    busy := if mine then none else h.busy, image := if mine then [] else h.image, changed := h.changed || (mine && h.saves)
    ops := h.ops.filter fun o => !isTag tag o.tag }) s)

/-- Withdraw a command's work on models (chapters 10 and 11). -/
def withdrawModel (tag : Tag) (s : State) (m : Nat) : State :=
  onModel m (fun x => { x with
    verifying := if isTag tag x.verifying then none else x.verifying
    loads := x.loads.filter (·.1 != tag)
    stopping := if isTag tag x.stopping then none else x.stopping }) s

/-- Withdraw a CORE_FENCE whose record has not begun: the core is healthy again, and the writes that its record would have
committed are committed by themselves. -/
def withdrawFence (tag : Tag) (s : State) (n : Nat) : State :=
  if (s.core n).fencing != some (some tag) then s
  else
    let s := onCore n (fun c => { c with fenced := false, fencing := none }) s
    let waits (r : WriteRun) : Bool := r.fence == some n
    let any := s.mdl.writes.any waits
    let s := onRm (fun b => { b with writes := b.writes.map fun r => if waits r then { r with fence := none } else r }) s
    let later := (s.nvm.posted ++ s.nvm.waiting).any fun o => match o.job with | .wearCommit _ _ => o.tag != some tag | _ => false
    if any then postWear .grant none s else if later then postWear .accounts none s else s

/-- Withdraw a command's work on streams and the front end (chapters 05 and 06). -/
def withdrawStream (tag : Tag) (s : State) : State :=
  let ns := (s.stm.starts.filter (·.tag == tag)).flatMap (·.streams)
  let s := ns.foldl (fun s n => onStream n (fun x => { x with starting := false }) s) s
  { s with
    stm := { s.stm with
      starts := s.stm.starts.filter (·.tag != tag)
      snapshot := if s.stm.snapshot.any (·.tag == tag) then none else s.stm.snapshot }
    afe := { s.afe with leadRuns := s.afe.leadRuns.filter (·.tag != tag), calRuns := s.afe.calRuns.filter (·.tag != tag) } }

/-- Withdraw a command's work on the cores (chapter 13). -/
def withdrawCore (tag : Tag) (s : State) : State :=
  let mine := match s.lrn.wearSet with | some x => x.1 == tag | none => false
  let s := { s with lrn := { s.lrn with
    runs := s.lrn.runs.filter (·.tag != tag), wearSet := if mine then none else s.lrn.wearSet } }
  let s := match s.lrn.unfence with
    | some u => if u.tag == tag then wantDomain (16 + u.core) false { s with lrn := { s.lrn with unfence := none } } else s
    | none => s
  (List.range 8).foldl (withdrawFence tag) s

/-- Withdraw a command's work on the Rope (chapter 15). -/
def withdrawRope (tag : Tag) (s : State) : State :=
  let ids := (s.rope.relaysOut.filter (·.tag == tag)).map (·.id.toNat)
  let keep (f : RopeFrame) : Bool := !(f.type == 3 && !bit f.info 16 && f.src.toNat == s.rope.index && ids.contains (f.info % 65536))
  let port (x : RopePort) : RopePort := { x with waiting := x.waiting.filter keep }
  let attach := isTag tag s.rope.attachTag
  let s := onRopePort 1 port (onRopePort 0 port s)
  let s := onRope (fun r => { r with
    relaysOut := r.relaysOut.filter (·.tag != tag), out := r.out.filter keep
    enumTag := if isTag tag r.enumTag then none else r.enumTag
    attachTag := if attach then none else r.attachTag, detached := r.detached || attach }) s
  if attach then wantDomain 11 false s else s

/-- Withdraw what keys, firmware, the Cairn, Belay and the Anchor hold for a command. -/
def withdrawOther (tag : Tag) (s : State) : State :=
  let s := { s with
    own := { s.own with
      change := if s.own.change.any (·.tag == tag) then none else s.own.change
      roll := if s.own.roll.any (·.tag == tag) then none else s.own.roll
      erase := if s.own.erase.any (fun e => isTag tag e.tag && e.step == 1) then none else s.own.erase
      heldCommands := s.own.heldCommands.filter (·.2.1.tag != tag) }
    boot := { s.boot with
      begin' := if s.boot.begin'.any (·.tag == tag) then none else s.boot.begin'
      commit := if s.boot.commit.any (·.tag == tag) then none else s.boot.commit }
    cairn := { s.cairn with
      queue := s.cairn.queue.filter fun e => !isTag tag e.tag
      remote := s.cairn.remote.filter (·.tag != tag) } }
  let s := if isTag tag s.bly.rearming then abortRearm s else s
  match s.pwr.entry with
  | some e => if isTag tag e.tag then resumeStreams { s with pwr := { s.pwr with entry := none } } else s
  | none => s

/-- Withdraw every work of a command that has not reached its commit point. -/
def withdraw (tag : Tag) (s : State) : State :=
  let first := (List.range 8).filter fun m => (s.model m).loads.head?.any (·.1 == tag)
  let s := cancelNvm tag s
  let s := (List.range 4).foldl (withdrawHead tag) s
  let s := (List.range 8).foldl (withdrawModel tag) s
  let s := withdrawOther tag (withdrawRope tag (withdrawCore tag (withdrawStream tag s)))
  first.foldl (fun s m => nextLoad m (s.model m).loads s) s

/-- Stop a command in flight with no effect and answer it (R52). -/
def stopCommand (tag : Tag) (status : Byte) (payload : Bytes) (s : State) : State := finish tag status payload (withdraw tag s)

/-- End a session by owner removal or debug open: its commands that have not reached their commit points end with ABORTED,
which R45 turns into SESSION_EXPIRED when the reply is pulled. -/
def expireSession (slot : Nat) (reason : Byte) (s : State) : State :=
  let id := (rd s.link.sessions slot).id
  let open' := (rd s.link.sessions slot).phase != .none
  let mine := s.link.slots.filter fun c => open' && c.secure && c.session == id && !c.committed && !c.replied
  endSession slot reason (mine.foldl (fun s c => stopCommand c.tag stAborted [] s) s)

end Sys2Proof.Machine
end

