-- ==== Sys2Proof/Machine/Owner.lean ====
section
/-! DEFINITION. Sessions, owners and keys, attestation, the TRNG and the debug-open erase (chapter 16). -/

namespace Sys2Proof.Machine

/-- Change the owners' part of the state. -/
def onOwn (f : OwnerState → OwnerState) (s : State) : State := { s with own := f s.own }

/-- Draw bytes from the DRBG. -/
def drawRandom (n : Nat) (s : State) : Bytes × State := (Config.random s.free n, { s with free := s.free + 1 })

/-- DEVICE_ID as eight bytes. -/
def idBytes : Bytes := le 8 Config.deviceId.toNat

/-- An owner slot. -/
def State.ownerSlot (s : State) (o : Nat) : OwnerSlot := rd s.own.slots o

/-- SIGN_FPR of a public key (R376). -/
def fingerprint (pub : Bytes) : Bytes := (sha256 (0x04 :: pub)).take 8

/-! ### Sessions (R378, Table 2-17) -/

/-- Idle timeout a payload selects. -/
def timeoutOf (p : Bytes) : Nat := if fld p 2 2 == 0 then 300 else fld p 2 2

/-- SESSION_OPEN. -/
def cmdSessionOpen (h : Hdr) (p : Bytes) (s : State) : State :=
  serve { opcode := 0x05, length := (· == 84), reserved := zeros [(1, 1)] } h p
    (fun s =>
      let o := fld p 0 1
      let hostKey := slice p 4 64
      let old := rd s.link.sessions o
      refuseIf h.tag
        [(h.secure || decide (3 < o), stParam), (!(s.ownerSlot o).provisioned, stNotOwner),
         (decide (timeoutOf p < 10) || decide (3600 < timeoutOf p) || !onCurve hostKey, stParam),
         (old.phase != .none && inFlight s old.id != 0, stBusy), (s.own.trngFault, stHwFault)]
        (fun s =>
          let draw := s.free
          let id := drawRandom 4 { s with free := s.free + 1 }
          let nonce := drawRandom 16 id.2
          let devKey := ephemeralKey draw
          let t := sha256 (ascii "AETHUO-SESSION-1" ++ idBytes ++ [BitVec.ofNat 8 o] ++ hostKey ++ slice p 68 16 ++ id.1
            ++ devKey ++ nonce.1)
          let key := hkdfKey (ephemeralShared draw hostKey) (keyBytes (s.ownerSlot o).ork) (ascii "AETHUO-KS" ++ t)
          let new : Session := { phase := .live, id := BitVec.ofNat 32 (leNat id.1), key := key, timeout := timeoutOf p, since := s.clk.tick }
          let s := (endSession o 0x02 nonce.2).mapLink fun l => { l with sessions := wr l.sessions o new }
          doneWith h (id.1 ++ devKey ++ nonce.1 ++ dikSign t) s) s) s

/-! ### The key store (R376) -/

/-- The 233 bytes of an owner slot in the key store: its state, five keys, SIGN_PUB and SIGN_FPR. -/
def OwnerSlot.bytes (o : OwnerSlot) : Bytes :=
  [BitVec.ofNat 8 (b2n o.provisioned)] ++ [o.ork, o.ndk, o.pk, o.xk, o.rk].flatMap keyBytes ++ fixed 64 o.signPub ++ fixed 8 o.fpr

/-- KSK of a STORE_GEN (R376). -/
def storeKey (gen : Word32) : BitVec 256 := hkdfKey Config.deviceKey [] (ascii "AETHUO-KSK" ++ le 4 gen.toNat)

/-- The key store as it is stored: a nonce, then the four slots enciphered under KSK and the tag (R376)
(in part DESIGN CHOICE, log entry 156). -/
def storeBytes (gen : Word32) (nonce : Bytes) (slots : Vector OwnerSlot 4) : Bytes :=
  let e := gcmSeal (storeKey gen) nonce [] (slots.toList.flatMap OwnerSlot.bytes)
  nonce ++ e.1 ++ e.2

/-- An owner slot of the key store's text. -/
def slotOfStore (b : Bytes) (k : Nat) : OwnerSlot :=
  let at' (i n : Nat) : Bytes := slice b (233 * k + i) n
  if fld b (233 * k) 1 == 1 then
    { provisioned := true, ork := keyOf (at' 1 32), ndk := keyOf (at' 33 32), pk := keyOf (at' 65 32), xk := keyOf (at' 97 32)
      rk := keyOf (at' 129 32), signPub := at' 161 64, fpr := at' 225 8 }
  else {}

/-- The slots that the key store holds: none where it cannot be deciphered under the present STORE_GEN. -/
def slotsOfStore (gen : Word32) (b : Bytes) : Vector OwnerSlot 4 :=
  if b.isEmpty then Vector.replicate 4 {}
  else match gcmOpen (storeKey gen) (b.take 12) [] (slice b 12 932) (b.drop 944) with
    | some text => Vector.ofFn fun k => slotOfStore text k
    | none => Vector.replicate 4 {}

/-- Post a change of the key store: its copy and its commit record, which is the command's commit point. -/
def postKeys (c : KeyChange) (s : State) : State :=
  let nonce := drawRandom 12 s
  postRecord .keys (storeBytes s.own.storeGen nonce.1 (wr s.own.slots c.slot c.entry)) (some c.tag) false
    (onOwn (fun w => { w with change := some c }) nonce.2)

/-- A change of the key store or an owner's removal is under way (in part DEDUCED, log entry 103). -/
def keysBusy (s : State) : Bool := s.own.change.isSome || s.own.removal.isSome

/-- ROPE_KCV of a slot (R386). -/
def kcv (o : OwnerSlot) : Bytes := (hmac (keyBytes o.rk) (ascii "AETHUO-KCV")).take 4

/-- A slot's entry in OWNER_LIST. -/
def ownerEntry (s : State) (o : Nat) : Bytes :=
  let x := s.ownerSlot o
  if !x.provisioned then [BitVec.ofNat 8 o] ++ List.replicate 15 0
  else
    [BitVec.ofNat 8 o, 1, BitVec.ofNat 8 (s.mdl.slots.toList.countP fun m => m.phase != .empty && m.owner.toNat == o),
     BitVec.ofNat 8 ((List.range 4).countP fun n => (headOwner s n).any (·.toNat == o))] ++ x.fpr ++ kcv x

/-- OWNER_PROVISION (R374, R377). -/
def cmdOwnerProvision (h : Hdr) (p : Bytes) (s : State) : State :=
  serve { opcode := 0xA0, rights := fun _ _ => .site, length := (· == 212), reserved := zeros [(1, 3)] } h p
    (fun s =>
      let o := fld p 0 1
      let eph := slice p 4 64; let pub := slice p 68 64
      let z := exchangeShared eph
      let ork := hkdfKey z idBytes (ascii "AETHUO-ORK" ++ [BitVec.ofNat 8 o])
      let kek := hkdfKey z idBytes (ascii "AETHUO-KEK" ++ [BitVec.ofNat 8 o])
      let open' := gcmOpen kek (List.replicate 12 0) (BitVec.ofNat 8 o :: pub) (slice p 132 64) (slice p 196 16)
      let allowed := if unprovisioned s then o == 0 else o == 0 || (h.secure && h.owner == 0)
      refuseIf h.tag
        [(decide (3 < o) || !onCurve eph || !onCurve pub, stParam), (s.own.debugOpen, stLocked),
         ((s.ownerSlot o).provisioned || !allowed, stState), (s.own.trngFault, stHwFault), (open'.isNone, stAuth), (keysBusy s, stBusy)]
        (fun s =>
          let keys := open'.getD []
          let ndk := drawRandom 32 s
          let pk := drawRandom 32 ndk.2
          let entry : OwnerSlot := { provisioned := true, signPub := pub, fpr := fingerprint pub, ork := ork, ndk := keyOf ndk.1, pk := keyOf pk.1
                                     xk := keyOf (keys.take 32), rk := keyOf (keys.drop 32) }
          let reply := [BitVec.ofNat 8 o, 0, 0, 0] ++ entry.fpr ++ (hmac (keyBytes ork) (ascii "AETHUO-CONFIRM")).take 4
          postKeys { tag := h.tag, slot := o, kind := 1, entry := entry, reply := reply } (rollEpoch o pk.2)) s) s

/-- OWNER_REMOVE (R374, R388): its commit point is the key store's commit record. -/
def cmdOwnerRemove (h : Hdr) (p : Bytes) (s : State) : State :=
  serve { opcode := 0xA1, rights := fun _ _ => .site, length := (· == 4), reserved := zeros [(1, 3)] } h p
    (fun s =>
      let o := fld p 0 1
      let others := [1, 2, 3].any fun k => (s.ownerSlot k).provisioned
      refuseIf h.tag
        [(decide (3 < o), stParam), (!(s.ownerSlot o).provisioned || (o == 0 && others), stState), (keysBusy s, stBusy)]
        (fun s => postKeys { tag := h.tag, slot := o, kind := 2, entry := {} } (started h.tag s)) s) s

/-- Release the orphans of an owner that is removed. -/
def releaseOrphans (o : Nat) (s : State) : State :=
  (orphansOf s o).foldl (fun s n => erasePair n none (onHead n (fun x => { x with busy := some (.releasing none none) }) s)) s

/-- Stop every model of an owner and release it with its heads and orphans (R388 step 3). -/
def beginRemoval (o : Nat) (tag : Tag) (fpr : Bytes) (s : State) : State :=
  let ms := (List.range 8).filter fun m => (s.model m).phase != .empty && (s.model m).owner.toNat == o
  let orphans := orphansOf s o
  let heads := (ms.map fun m => (headsOf s m).length).sum + orphans.length
  let s := onOwn (fun w => { w with removal := some { slot := o, tag := some tag, models := ms.length, heads := heads, fpr := fpr } }) s
  let s := ms.foldl (fun s m =>
    let idle := s.mdl.jobs.filter fun j => j.model == m && j.running.isEmpty
    let s := idle.foldl (fun s j => dropJob j.id (forgetThese (j.frames.filterMap s.frame?) s)) s
    onModel m (fun x => { x with removing := true, unloading := some none }) (forgetFrames m s)) s
  let s := releaseOrphans o s
  carryOn s

/-- The key store's commit record is programmed (in part DEDUCED, log entry 94). -/
def keysCommitted (s : State) : State :=
  match s.own.change with
  | none => s
  | some c =>
    let old := (s.ownerSlot c.slot).fpr
    let s := onOwn (fun w => { w with change := none, slots := wr w.slots c.slot c.entry }) s
    if c.kind == 2 then beginRemoval c.slot c.tag old (expireSession c.slot 0x04 s)
    else
      let s := cairn 0xA001 (0x0400#16 ||| BitVec.ofNat 16 c.slot) ([c.kind, c.select, 0, 0] ++ c.entry.fpr) s
      let s := raise 0xA0 true [BitVec.ofNat 8 c.slot, c.kind, c.select, 0] s
      finish c.tag 0x00 (if c.kind == 1 then c.reply else ownerEntry s c.slot) s

/-- OWNER_LIST. -/
def cmdOwnerList (h : Hdr) (p : Bytes) (s : State) : State :=
  serve { opcode := 0xA2, length := (· == 0) } h p (fun s => doneWith h ((List.range 4).flatMap (ownerEntry s)) s) s

/-- A Ridge model of an owner is PLACED or RUNNING. -/
def ridgePlacedOf (s : State) (o : BitVec 2) : Bool :=
  s.mdl.slots.toList.any fun x => x.owner == o && ridgeModel x && (x.phase == .placed || x.phase.runs)

/-- KEY_ROTATE, in the owner's session. -/
def cmdKeyRotate (h : Hdr) (p : Bytes) (s : State) : State :=
  serve { opcode := 0xA7, rights := fun _ _ => .anyOwner, length := (· == 164)
          reserved := fun p => fld p 0 1 / 16 == 0 && fld p 1 3 == 0 } h p
    (fun s =>
      let sel := fld p 0 1
      let pub := slice p 36 64
      let blank (i off n : Nat) : Bool := bit sel i || fld p off n == 0
      let ok := sel != 0 && blank 0 4 32 && blank 1 36 64 && blank 2 100 32 && blank 3 132 32 && (!bit sel 1 || onCurve pub)
      refuseIf h.tag
        [(!ok, stParam), (!h.secure, stState), (bit sel 3 && ridgePlacedOf s h.owner, stBusy), (keysBusy s, stBusy)]
        (fun s =>
          let x := s.ownerSlot h.owner.toNat
          let entry : OwnerSlot := { x with
            ork := if bit sel 0 then keyOf (slice p 4 32) else x.ork
            signPub := if bit sel 1 then pub else x.signPub
            fpr := if bit sel 1 then fingerprint pub else x.fpr
            xk := if bit sel 2 then keyOf (slice p 100 32) else x.xk
            rk := if bit sel 3 then keyOf (slice p 132 32) else x.rk }
          postKeys { tag := h.tag, slot := h.owner.toNat, kind := 3, select := BitVec.ofNat 8 sel, entry := entry } s) s) s

/-! ### Epoch roll (R382) -/

/-- EPOCH_ROLL saves the owner's changed heads first. -/
def cmdEpochRoll (h : Hdr) (p : Bytes) (s : State) : State :=
  serve { opcode := 0xA4, rights := fun _ _ => .anyOwner, length := (· == 0) } h p
    (fun s =>
      let o := h.owner.toNat
      let mine := (List.range 8).filter fun m => (s.model m).phase != .empty && (s.model m).owner == h.owner
      let hs := headsOfOwner s o
      refuseIf h.tag
        [(!h.secure || mine.any (fun m => (s.model m).phase.runs || (placing s m).isSome || (s.model m).succeeds.isSome), stState),
         (s.own.roll.isSome || mine.any (busyModel s) || hs.any (pairBusy s), stBusy)]
        (fun s =>
          let s := onOwn (fun w => { w with roll := some { tag := h.tag, owner := o } }) (started h.tag s)
          carryRoll (hs.foldl (fun s n => if (s.head n).changed then requestSave n .command none s else s) s)) s) s

/-! ### Attestation and the TRNG (R389) -/

/-- The running firmware slot; none in FAILED. -/
def runningSlot (s : State) : FwSlot := if s.boot.phase == .failed then {} else rd s.boot.slots s.boot.running.toNat

/-- The attestation report (Table 16-7). -/
def report96 (s : State) (nonce : Bytes) : Bytes :=
  let f := runningSlot s
  [0x41, 0x54, 0x54, 0x31] ++ nonce ++ idBytes
    ++ [0x21, f.major, f.minor, BitVec.ofNat 8 (flags [s.own.debugOpen, s.own.trngFault, s.own.eraseDone])] ++ le 2 f.patch.toNat
    ++ [BitVec.ofNat 8 (flags (s.own.slots.toList.map (·.provisioned))), 0] ++ le 4 f.svn.toNat ++ le 4 s.boot.bootCount.toNat
    ++ le 4 s.own.storeGen.toNat ++ s.own.slots.toList.flatMap (fun o => if o.provisioned then o.fpr else List.replicate 8 0)
    ++ le 8 (now s).toNat ++ List.replicate 8 0

/-- ATTEST: the report, the DIK signature over its digest, and the certificate if asked. -/
def cmdAttest (h : Hdr) (p : Bytes) (s : State) : State :=
  serve { opcode := 0xA3, length := (· == 20), reserved := fun p => fld p 16 1 / 2 == 0 && fld p 17 3 == 0 } h p
    (fun s =>
      let r := report96 s (p.take 16)
      doneWith h (r ++ dikSign (sha256 r) ++ if bit (fld p 16 1) 0 then certificate else []) s) s

/-- TRNG_READ. -/
def cmdTrngRead (h : Hdr) (p : Bytes) (s : State) : State :=
  serve { opcode := 0xA8, rights := fun _ _ => .anyOwner, length := (· == 4), reserved := zeros [(2, 2)] } h p
    (fun s =>
      let n := fld p 0 2
      refuseIf h.tag [(n == 0 || decide (256 < n), stParam), (s.own.trngFault, stHwFault)]
        (fun s => let r := drawRandom n s; doneWith h r.1 r.2) s) s

/-- A health test of the TRNG fails: the repetition count test, or else the adaptive proportion test. -/
def execTrngHealthFail (repetition : Bool) (s : State) : Answer :=
  if s.own.trngFault || !s.isOn 1 || s.pwr.retention then .next s
  else
    let kind : Byte := if repetition then 1 else 2
    .next (raise 0xA2 true [kind, 0, 0, 0] (cairn 0xA003 0 [kind] (onOwn (fun w => { w with trngFault := true }) s)))

/-- The source is tried again; service is restored by a start-up test that passes. -/
def execTrngRetry (passed : Bool) (s : State) : Answer :=
  if !s.own.trngFault || !passed || !s.isOn 1 || s.pwr.retention then .next s
  else .next (raise 0xA2 true [3, 0, 0, 0] (onOwn (fun w => { w with trngFault := false }) s))

/-! ### Opening debug (R392 to R394) -/

/-- Draw a new live challenge (Table 16-9). -/
def newChallenge (s : State) : Bytes × State :=
  let n := drawRandom 16 s
  let c := idBytes ++ le 4 s.boot.bootCount.toNat ++ [0x21, BitVec.ofNat 8 (b2n (s.ownerSlot 0).provisioned), 0, 0] ++ n.1
  (c, onOwn (fun w => { w with challenge := some (c, s.clk.tick) }) n.2)

/-- DEBUG_CHALLENGE. -/
def cmdDebugChallenge (h : Hdr) (p : Bytes) (s : State) : State :=
  serve { opcode := 0xA5, length := (· == 0) } h p
    (fun s => refuseIf h.tag [(s.own.trngFault, stHwFault)] (fun s => let c := newChallenge s; doneWith h c.1 c.2) s) s

/-- The live challenge expires 60 s after its issue. -/
def execDebugChallengeExpiry (s : State) : Answer := .next (onOwn (fun w => { w with challenge := none }) s)

/-- Belay is in DISARMED or STOPPED. -/
def belayRests (s : State) : Bool := s.bly.phase == .disarmed || s.bly.phase == .stopped

/-- The live challenge, within its 60 s. -/
def liveChallenge (s : State) : Option Bytes :=
  s.own.challenge.bind fun c => if since s c.2 < 60 * 32768 then some c.1 else none

/-- The signatures of an opening payload verify over the live challenge. -/
def openingOk (s : State) (p : Bytes) : Bool :=
  let text := ascii "AETHUO-DBG-1" ++ p.take 32
  liveChallenge s == some (p.take 32) && ecdsaOk Config.debugPublic (sha256 text) (slice p 32 64)
    && if (s.ownerSlot 0).provisioned then ecdsaOk (s.ownerSlot 0).signPub (sha256 text) (slice p 96 64) else true

/-- Text of the erase-pending record: the flag and the target STORE_GEN. -/
def eraseBytes (pending : Bool) (target : Word32) : Bytes := [BitVec.ofNat 8 (b2n pending)] ++ le 4 target.toNat

/-- Begin the debug-open erase: the erase-pending record is its commit point (Table 16-8, step 1)
(in part DEDUCED, log entry 104). -/
def beginErase (kind : Byte) (tag : Option Tag) (s : State) : State :=
  let e : DebugErase := { kind := kind, tag := tag, step := 1, target := s.own.storeGen + 1, begun := s.clk.tick }
  postRecord .erase (eraseBytes true e.target) tag false (onOwn (fun w => { w with erase := some e }) s)

/-- DEBUG_OPEN: the challenge is used up by an attempt that the Belay check lets pass. -/
def cmdDebugOpen (h : Hdr) (p : Bytes) (s : State) : State :=
  serve { opcode := 0xA6, length := (· == 160) } h p
    (fun s =>
      refuseIf h.tag [(!belayRests s, stState), (s.own.erase.isSome, stBusy)]
        (fun s =>
          let ok := openingOk s p
          let s := onOwn (fun w => { w with challenge := none }) s
          if ok then beginErase 1 (some h.tag) (started h.tag s) else finish h.tag stAuth [] s) s) s

/-- Forget every model and head at once, with no result (step 2). -/
def forgetModels (s : State) : State :=
  let s := forgetThese s.mdl.frames (onRm (fun b => { b with jobs := [], features := [], results := [] }) s)
  let s := (List.range 4).foldl (fun s n =>
    let s := finishAll ((s.head n).ops.filterMap HeadOp.tag) stAborted s
    eraseLater ((List.range 48).map fun k => pairPage n + 16 * k) (onHead n (fun _ => {}) s)) s
  (List.range 8).foldl (fun s m => emptySlot m s) s

/-- Write zeros over the samples and features that SRAM holds (step 4). -/
def zeroSamples (s : State) : State :=
  let frame (f : OpenFrame) : OpenFrame := { f with samples := f.samples.map fun _ => 0 }
  let shut (f : ClosedFrame) : ClosedFrame := { f with samples := f.samples.map fun _ => 0 }
  { s with stm := { s.stm with streams := s.stm.streams.map fun x => { x with frame := x.frame.map frame, held := x.held.map shut } } }

/-- Roll the epoch of owner 7; from 0xFFFF every line of the device itself is first cleared and the epoch becomes 1 (R214). -/
def rollDevice (s : State) : State :=
  let old := s.nvm.deviceEpoch
  let s := { s with nvm := { s.nvm with deviceEpoch := if old == 0xFFFF then 1 else old + 1 } }
  if old != 0xFFFF then s
  else
    let clear (x : Strm) : Strm := { x with held := x.held.map fun f => { f with tag := {} } }
    onRm (fun b => { b with features := b.features.map fun q => { q with tag := {} } })
      { s with stm := { s.stm with streams := s.stm.streams.map clear } }

/-- Steps 3 to 5 of the erase: the key store can no longer be deciphered, SRAM is cleared, SRAM_ROOT is drawn again and
every epoch rolls, so that the latest feature frames read as never written (in part DEDUCED, log entry 106). -/
def eraseKeys (target : Word32) (s : State) : State :=
  let root := drawRandom 32 s
  let s := onOwn (fun w => { w with storeGen := target, slots := Vector.replicate 4 {}, change := none, removal := none, roll := none, sramRoot := root.1 }) root.2
  let s := rollDevice ([0, 1, 2, 3].foldl (fun s o => rollEpoch o s) (zeroSamples s))
  { s with feat := { s.feat with streams := s.feat.streams.map fun x => { x with latest := none } } }

/-- Step 3 of the erase: STORE_GEN is to be the target. -/
def eraseStore (e : DebugErase) (s : State) : State :=
  postRecord .storeGen (le 4 e.target.toNat) none (e.kind == 3) (onOwn (fun w => { w with erase := some { e with step := 3 } }) s)

/-- Step 7: the erase-pending record is to be cleared. -/
def eraseClear (e : DebugErase) (s : State) : State :=
  postRecord .erase (eraseBytes false e.target) none (e.kind == 3) (onOwn (fun w => { w with erase := some { e with step := 7 } }) s)

/-- The Cairn entry of step 6, and step 7 once it is committed. -/
def eraseCairn (e : DebugErase) (s : State) : State :=
  let s := cairn 0xA002 0 ([e.kind, 0, 0, 0] ++ le 4 e.target.toNat) s
  if s.cairn.queue.any (·.type == 0xA002) then onOwn (fun w => { w with erase := some { e with step := 6 } }) s
  else eraseClear e s

/-- The entry of step 6 is committed. -/
def eraseCairned (s : State) : State :=
  match s.own.erase with
  | some e => if e.step == 6 then eraseClear e s else s
  | none => s

/-- A program of the erase has ended: the next steps follow; the last one grants debug (R393). An erase completed at boot
grants none. -/
def eraseProgrammed (s : State) : State :=
  match s.own.erase with
  | none => s
  | some e =>
    match e.step with
    | 1 =>
      let s := { s with boot := { s.boot with erasePending := true } }
      let s := (List.range 4).foldl (fun s o => expireSession o 0x05 s) s
      eraseStore e (forgetModels s)
    | 3 => eraseCairn e (eraseKeys e.target s)
    | 7 =>
      let s := { s with boot := { s.boot with erasePending := false } }
      let us := le 4 (min 0xFFFFFFFF (since s e.begun * 1000000 / 32768))
      let s := onOwn (fun w => { w with erase := none, eraseDone := true, debugOpen := e.kind != 3 }) s
      if e.kind == 3 then s
      else
        let s := raise 0xA1 true ([0, 0, 0, 0] ++ us) s
        match e.tag with
        | some t => finish t 0x00 us (onSlot t (fun c => { c with plain := true }) s)
        | none => s
    | _ => s

/-! ### The meanings -/

def execSessionOpen (h : Hdr) (p : Bytes) (s : State) : Answer := .next (cmdSessionOpen h p s)
def execOwnerProvision (h : Hdr) (p : Bytes) (s : State) : Answer := .next (cmdOwnerProvision h p s)
def execOwnerRemove (h : Hdr) (p : Bytes) (s : State) : Answer := .next (cmdOwnerRemove h p s)
def execOwnerList (h : Hdr) (p : Bytes) (s : State) : Answer := .next (cmdOwnerList h p s)
def execAttest (h : Hdr) (p : Bytes) (s : State) : Answer := .next (cmdAttest h p s)
def execEpochRoll (h : Hdr) (p : Bytes) (s : State) : Answer := .next (cmdEpochRoll h p s)
def execDebugChallenge (h : Hdr) (p : Bytes) (s : State) : Answer := .next (cmdDebugChallenge h p s)
def execDebugOpen (h : Hdr) (p : Bytes) (s : State) : Answer := .next (cmdDebugOpen h p s)
def execKeyRotate (h : Hdr) (p : Bytes) (s : State) : Answer := .next (cmdKeyRotate h p s)
def execTrngRead (h : Hdr) (p : Bytes) (s : State) : Answer := .next (cmdTrngRead h p s)

end Sys2Proof.Machine
end

