-- ==== Sys2Proof/Machine/Nvm.lean ====
section
/-! DEFINITION. The commands that report the NVM's regions and counters (chapter 09). -/

namespace Sys2Proof.Machine

/-- Rounded average of a list of durations; 0 of none. -/
def average (xs : List Nat) : Nat := if xs.isEmpty then 0 else (2 * xs.sum + xs.length) / (2 * xs.length)

/-- Programs are held after READY until the holdup supply is charged (R105). -/
def programsHeld (s : State) : Bool := s.boot.hold

/-- NVM_STATUS (Table 9-8). -/
def cmdNvmStatus (h : Hdr) (p : Bytes) (s : State) : State :=
  serve { opcode := 0xD4, length := (· == 0) } h p
    (fun s =>
      let n := s.nvm
      let cairnPending := !s.cairn.queue.isEmpty || n.busy == .cairn
      doneWith h ([BitVec.ofNat 8 (postedPrograms n.posted), BitVec.ofNat 8 (flags [n.busy != .idle, cairnPending, programsHeld s]), 0, 0]
        ++ [n.programs, n.erases, n.programFails, n.eccCorrected, n.eccUncorrectable].flatMap (fun x => le 4 x.toNat)
        ++ le 2 (average n.programTimes) ++ le 2 (average n.eraseTimes) ++ n.unwritten.toList.flatMap fun x => le 4 x.toNat) s) s

/-- A region's 20 bytes (Table 9-9). -/
def regionEntry (s : State) (r : Nat) : Bytes :=
  let base := regionBase.getD r 0
  let count := regionPages.getD r 0
  let mine := s.nvm.pages.filter fun i => decide (base ≤ i.page) && decide (i.page < base + count)
  let used := mine.countP (·.state != .erased)
  let erased := if r == 0 then Config.factoryErased.toNat else count - used
  [BitVec.ofNat 8 r, BitVec.ofNat 8 (flags [r == 7 || r == 8, r == 0]), 0, 0] ++ le 4 (base * 256) ++ le 4 (count * 256)
    ++ le 2 erased ++ le 2 (rd s.nvm.spares r) ++ le 4 ((mine.map (·.programs)).foldl max 0)

/-- NVM_REGION_INFO (Table 9-9). -/
def cmdNvmRegionInfo (h : Hdr) (p : Bytes) (s : State) : State :=
  serve { opcode := 0xD5, length := (· == 1) } h p
    (fun s =>
      let r := fld p 0 1
      refuseIf h.tag [(decide (8 < r) && r != 0xFF, stParam)]
        (fun s => doneWith h (((List.range 9).filter fun k => r == 0xFF || k == r).flatMap (regionEntry s)) s) s) s

/-! ### The meanings -/

def execNvmStatus (h : Hdr) (p : Bytes) (s : State) : Answer := .next (cmdNvmStatus h p s)
def execNvmRegionInfo (h : Hdr) (p : Bytes) (s : State) : Answer := .next (cmdNvmRegionInfo h p s)

end Sys2Proof.Machine
end

