-- ==== Sys2Proof/Machine/Cairn.lean ====
section
/-! DEFINITION. The Cairn record: commits, the replay, checked and signed reads, marks and reads of other chips' records
(chapter 17). -/

namespace Sys2Proof.Machine

/-- Change the Cairn. -/
def onCairn (f : CairnState → CairnState) (s : State) : State := { s with cairn := f s.cairn }

/-- Page of a position: four to a page of the CAIRN region. -/
def cellPage (pos : Nat) : Nat := 0x1200 + pos / 4

/-- The 64 bytes at a position; one never written reads zero (R395). The commit engine alone programs these pages, and it posts
nothing (R405). -/
def cell (s : State) (pos : Nat) : Bytes := slice (cellsBytes s (cellPage pos)) (64 * (pos % 4)) 64

/-- The image of a position's page: the page as it stands, with an entry in its position (R405). -/
def cellImage (s : State) (pos : Nat) (b : Bytes) : Bytes :=
  let page := cellsBytes s (cellPage pos)
  page.take (64 * (pos % 4)) ++ fixed 64 b ++ page.drop (64 * (pos % 4) + 64)

/-- `OLDEST_SEQ`. -/
def oldest (s : State) : Nat := oldestEntry s.cairn.nextSeq.toNat

/-- Positions of the pinned area that hold an entry. -/
def pinnedUsed (s : State) : List Nat :=
  let pages := (s.nvm.pages.map (·.page)).filter fun k => decide (0x1200 ≤ k) && decide (k < 0x1240)
  (pages.flatMap fun k => (List.range 4).map fun i => 4 * (k - 0x1200) + i).filter fun p => cell s p != List.replicate 64 0

/-- The type that an entry's bytes give. -/
def typeOf (b : Bytes) : Nat := fld b 12 2

/-- An entry's type is critical and has no pinned copy yet (R403). -/
def pinDue (s : State) (type : Nat) : Bool :=
  pinnedTypes.any (·.toNat == type) && (pinnedUsed s).all fun p => typeOf (cell s p) != type

/-- The lowest pinned position that holds no entry; the pinned area never fills (R403). -/
def pinPlace (s : State) : Option Nat := (List.range 256).find? fun p => !(pinnedUsed s).contains p

/-- CAIRN_FAULT (Table 17-8) (in part DESIGN CHOICE, log entry 73). -/
def cairnFault (kind : Byte) (seq : Nat) (s : State) : State := raise 0xB1 true ([kind, 0, 0, 0] ++ le 4 seq) s

/-- How far a commit has come: its programs left, and whether it has passed its commit point. -/
structure Commit where
  left : List (Nat × Nat)
  visible : Bool

/-- Image page of a journal record of the 32; the header page follows it. -/
def journalPage (record : Nat) : Nat := 256 + 2 * (record % 32)

/-- The header of a journal record: its sequence number, the target page, `NEXT_SEQ` after the commit, and the CRC-32C of the
image and of these. -/
def journalHeader (record target next : Nat) (image : Bytes) : Bytes :=
  let b := le 4 record ++ le 2 target ++ le 4 next
  b ++ le 4 (crc32c (image ++ b)).toNat

/-- The commit point: the journal record that issues the sequence number stands (R405). -/
def issue (next : Nat) (s : State) : State :=
  onCairn (fun c => { c with journal := c.journal + 1, nextSeq := BitVec.ofNat 32 next }) s

/-- Keep the duration of a commit, for the mean of the last 64 (Table 17-7). -/
def timeCommit (us : Nat) (s : State) : State := onCairn (fun c => { c with commitTimes := (us :: c.commitTimes).take 64 }) s

/-- Commit an entry to a position in two phases (R405), by programs whose outcomes are given; where the list ends, VHOLD no
longer sustains a program and the one in progress is cut (R120, R455). -/
def commitCell (pos next : Nat) (b : Bytes) (ps : List (Nat × Nat)) (s : State) : State × Commit :=
  let page := journalPage s.cairn.journal
  let image : PageImage := { data := cellImage s pos b }
  let header : PageImage := { data := journalHeader (s.cairn.journal + 1) (cellPage pos) next image.data }
  let seq := fld b 0 4
  match ps with
  | [] => (tearPage page image s, ⟨[], false⟩)
  | a :: ps =>
    let x := programPage page image a.1 a.2 s
    if !x.2 then (cairnFault 0x04 seq x.1, ⟨ps, false⟩)
    else
      match ps with
      | [] => (tearPage (page + 1) header x.1, ⟨[], false⟩)
      | h :: ps =>
        let y := programPage (page + 1) header h.1 h.2 x.1
        if !y.2 then (cairnFault 0x04 seq y.1, ⟨ps, false⟩)
        else
          let s := issue next (countBubble h.2 y.1)
          match ps with
          | [] => (tearPage (cellPage pos) image s, ⟨[], true⟩)
          | t :: ps =>
            let z := programPage (cellPage pos) image t.1 t.2 s
            let s := timeCommit (a.2 + h.2 + t.2) z.1
            if !z.2 then (cairnFault 0x04 seq s, ⟨ps, true⟩) else (s, ⟨ps, true⟩)

/-- Copy the newest circular entry into the pinned area where its type has no copy yet (R403)
(in part DEDUCED, log entry 139). -/
def pinCopy (b : Bytes) (ps : List (Nat × Nat)) (s : State) : State × List (Nat × Nat) :=
  if pinDue s (typeOf b) then
    match pinPlace s with
    | some pos =>
      let r := commitCell pos s.cairn.nextSeq.toNat b ps s
      (r.1, r.2.left)
    | none => (s, ps)
  else (s, ps)

/-- Commit one entry with its pinned copy; a new lap of the circular area is announced (R410). The flag says that the
commit point has passed. -/
def commitEntry (e : CairnEntry) (ps : List (Nat × Nat)) (s : State) : State × Commit :=
  let seq := s.cairn.nextSeq.toNat
  let b := e.bytes seq
  let r := commitCell (cairnPosition seq) (seq + 1) b ps s
  if !r.2.visible then r
  else
    let s := if (seq - 1) % 3840 == 0 && decide (1 < seq) then
        raise 0xB0 false (le 4 ((seq - 1) / 3840 + 1) ++ le 4 (oldest r.1)) r.1
      else r.1
    let q := pinCopy b r.2.left s
    (q.1, ⟨q.2, true⟩)

/-- The hold of R105 lets an entry pass. -/
def bootEntry (e : CairnEntry) : Bool :=
  e.type == 0x0002 || e.type == 0xD002 || (e.type == 0xA002 && e.payload.head? == some 3)

/-- The next entry of the queue that may be committed: the first, and while programs are held the first of the boot path
(in part DEDUCED, log entry 72). -/
def nextEntry (s : State) : Option CairnEntry :=
  if programsHeld s then s.cairn.queue.find? bootEntry else s.cairn.queue.head?

/-- A CAIRN_OVERFLOW entry goes before the next commit (R404). -/
def overflowDue (s : State) : Bool := s.cairn.dropped != 0 && !programsHeld s

/-- A commit is waiting. -/
def commitPending (s : State) : Bool := (nextEntry s).isSome || (overflowDue s && !s.cairn.queue.isEmpty)

/-- Commit the CAIRN_OVERFLOW entry; the programs left. -/
def commitOverflow (ps : List (Nat × Nat)) (s : State) : State × List (Nat × Nat) :=
  let e : CairnEntry := { type := 0xB002, source := 0, time := now s, bootCount := bootOf s
                          payload := le 4 s.cairn.dropped.toNat ++ le 4 s.cairn.droppedCritical.toNat }
  let s := onCairn (fun c => { c with dropped := 0, droppedCritical := 0 }) (cairnFault 0x03 0 s)
  let r := commitEntry e ps s
  (r.1, r.2.left)

/-- What follows a commit of a queued entry: the mark's reply, and the debug-open erase's next step. -/
def entryCommitted (e : CairnEntry) (seq : Nat) (visible : Bool) (s : State) : State :=
  let s := match e.tag with
    | some t => if visible then finish t 0x00 (le 4 seq) (commitMark t s) else finish t stNvm [] s
    | none => s
  if e.type == 0xA002 then eraseCairned s else s

/-- Commit the next entry of the queue; the programs left. -/
def commitNext (ps : List (Nat × Nat)) (s : State) : State × List (Nat × Nat) :=
  if overflowDue s && !s.cairn.queue.isEmpty then commitOverflow ps s
  else
    match nextEntry s with
    | none => (s, ps)
    | some e =>
      let seq := s.cairn.nextSeq.toNat
      let s := onCairn (fun c => { c with queue := c.queue.erase e }) s
      let r := commitEntry e ps s
      (entryCommitted e seq r.2.visible r.1, r.2.left)

/-- The commit engine commits the next queued entry, by three programs and three more for a pinned copy, each given by the
pages of which it does not verify on and its duration in microseconds. It waits for the program in progress (R221); a
background erase is stopped for it (R219) (in part DESIGN CHOICE, log entry 71). -/
def execCairnCommit (programs : Vector (Nat × Nat) 6) (s : State) : Answer :=
  if !s.isOn 3 || s.nvm.busy == .posted || !commitPending s then .next s
  else .next (commitNext programs.toList { s with nvm := { s.nvm with busy := .idle } }).1

/-- What a journal record that checks says. -/
structure JournalRecord where
  seq : Nat
  target : Nat
  next : Nat
  image : Bytes

/-- A journal record whose header and image CRCs check; one with a page cut short does not (R455). -/
def journalRecord (s : State) (record : Nat) : Option JournalRecord :=
  let page := journalPage record
  let image := cellsBytes s page
  let h := cellsBytes s (page + 1)
  if (pageInfo s page).torn || (pageInfo s (page + 1)).torn || fld h 0 4 == 0 || fld h 10 4 != (crc32c (image ++ h.take 10)).toNat then none
  else some { seq := fld h 0 4, target := fld h 4 2, next := fld h 6 4, image := image }

/-- The newest journal record that checks. -/
def newestRecord (s : State) : Option JournalRecord :=
  ((List.range 32).filterMap (journalRecord s)).foldl (fun a r => match a with
    | some x => if x.seq < r.seq then some r else a
    | none => some r) none

/-- `NEXT_SEQ` goes on from a journal record, and its target page is programmed again where it differs from the record's image; the
programs left. -/
def replayRecord (x : JournalRecord) (ps : List (Nat × Nat)) (s : State) : State × List (Nat × Nat) :=
  let s := readPage x.target (onCairn (fun c => { c with journal := x.seq, nextSeq := BitVec.ofNat 32 x.next }) s)
  if !(pageInfo s x.target).torn && cellsBytes s x.target == x.image then (s, ps)
  else
    let due := onCairn (fun c => { c with replayed := true, replayDue := some (BitVec.ofNat 32 (x.next - 1)) }) s
    match ps with
    | [] => (tearPage x.target { data := x.image } due, [])
    | a :: ps =>
      let y := programPage x.target { data := x.image } a.1 a.2 due
      (if y.2 then y.1 else cairnFault 0x04 (x.next - 1) y.1, ps)

/-- Start-up replay (R408): the journal is read, its newest record is replayed, and a missing pinned copy of the last entry is
committed. -/
def cairnReplay (ps : List (Nat × Nat)) (s : State) : State :=
  let s := readPages ((List.range 64).map (256 + ·)) s
  let r := match newestRecord s with
    | none => (s, ps)
    | some x => replayRecord x ps s
  let s := r.1
  let last := cell s (cairnPosition (s.cairn.nextSeq.toNat - 1))
  if fld last 0 4 + 1 == s.cairn.nextSeq.toNat then (pinCopy last r.2 s).1 else s

/-! ### Checking a record (R411) -/

/-- An entry's MAC checks. -/
def macOk (b : Bytes) : Bool := slice b 52 8 == fixed 8 (cairnMac (b.take 52))

/-- An entry's CRC checks. -/
def crcOk (b : Bytes) : Bool := fld b 60 4 == (crc32c (b.take 60)).toNat

/-- The last two checks of Table 17-6. -/
def sealStatus (b : Bytes) : Byte := if !crcOk b then 0x02 else if !macOk b then 0x03 else 0x00

/-- Status of the circular entry with a sequence number (Table 17-6). -/
def circularStatus (s : State) (seq : Nat) : Byte :=
  let b := cell s (cairnPosition seq)
  if cellsState s (cellPage (cairnPosition seq)) == .uncorrectable then 0x04
  else if fld b 0 4 != seq then 0x05
  else sealStatus b

/-- Status of a pinned position (Table 17-6). -/
def pinnedStatus (s : State) (pos : Nat) : Byte :=
  let b := cell s pos
  let again := (pinnedUsed s).any fun p => decide (p < pos) && typeOf (cell s p) == typeOf b
  if cellsState s (cellPage pos) == .uncorrectable then 0x04
  else if !(pinnedUsed s).contains pos then 0x01
  else if !pinnedTypes.any (·.toNat == typeOf b) || again then 0x05
  else sealStatus b

/-- Report an entry that fails a check, once per boot (in part DEDUCED, log entry 74). -/
def noteFault (pinned : Bool) (key seq : Nat) (status : Byte) (s : State) : State :=
  if status == 0x00 || status == 0x01 then s
  else
    let s := onCairn (fun c => { c with faultSeen := true }) s
    if s.cairn.reported.contains (pinned, key) then s
    else cairnFault 0x01 seq (onCairn (fun c => { c with reported := c.reported ++ [(pinned, key)] }) s)

/-- The signature over a reply under a nonce. -/
def cairnSign (nonce reply : Bytes) : Bytes :=
  dikSign (sha256 (ascii "AETHUO-CAIRN" ++ nonce ++ le 8 Config.deviceId.toNat ++ reply))

/-- Bytes of an entry as returned. -/
def returned (s : State) (pos : Nat) (status : Byte) : Bytes := if status == 0x04 then List.replicate 64 0 else cell s pos

/-- A reply of CAIRN_READ or CAIRN_READ_PINNED: header, entries, statuses and the signature asked for
(in part DESIGN CHOICE, log entry 75). -/
def readReply (pinned : Bool) (first : Word32) (keys : List Nat) (sign : Bool) (nonce : Bytes) (s : State) : Bytes × State :=
  let place (k : Nat) : Nat := if pinned then k else cairnPosition k
  let status (k : Nat) : Byte := if pinned then pinnedStatus s k else circularStatus s k
  let body := le 4 first.toNat ++ [BitVec.ofNat 8 keys.length, 0, 0, 0] ++ le 4 s.cairn.nextSeq.toNat ++ le 4 (oldest s)
    ++ keys.flatMap (fun k => returned s (place k) (status k)) ++ padTo 4 (keys.map status)
  let found := keys.map fun k => (k, if pinned then fld (returned s k (status k)) 0 4 else k, status k)
  let s := ((keys.map fun k => cellPage (place k)).dedup).foldl (fun s page => readPage page s) s
  let s := found.foldl (fun s f => noteFault pinned f.1 f.2.1 f.2.2 s) s
  (body ++ if sign then cairnSign nonce body else [], s)

/-- Sequence numbers that a read of circular entries selects. -/
def selected (s : State) (start count : Nat) : List Nat :=
  let low := max start (oldest s)
  (List.range (min count (s.cairn.nextSeq.toNat - low))).map (low + ·)

/-- Pages that such a read touches. -/
def circularPages (s : State) (start count : Nat) : List Nat := (selected s start count).map fun k => cellPage (cairnPosition k)

/-- Read circular entries; the spec states no FIRST for a selection of none. -/
def readCircular (start count : Nat) (sign : Bool) (nonce : Bytes) (s : State) : Bytes × State :=
  let keys := selected s start count
  let first := if keys.isEmpty then drawFree s else (BitVec.ofNat 64 (max start (oldest s)), s)
  readReply false (first.1.setWidth 32) keys sign nonce first.2

/-- Read pinned positions. -/
def readPinned (start count : Nat) (sign : Bool) (nonce : Bytes) (s : State) : Bytes × State :=
  readReply true (BitVec.ofNat 32 start) ((List.range count).map (start + ·)) sign nonce s

/-! ### Commands -/

/-- COMMIT_AVG_US and the rest of Table 17-7. -/
def cairnInfoBytes (s : State) : Bytes :=
  let c := s.cairn
  le 4 c.nextSeq.toNat ++ le 4 (oldest s) ++ [BitVec.ofNat 8 (pinnedUsed s).length, BitVec.ofNat 8 c.queue.length,
    BitVec.ofNat 8 (flags [c.replayed, c.faultSeen, s.nvm.busy == .cairn]), 0]
    ++ le 4 (bootOf s).toNat ++ le 8 Config.deviceId.toNat ++ le 4 c.droppedReset.toNat ++ le 2 (average c.commitTimes) ++ [0, 0]

/-- CAIRN_INFO. -/
def cmdCairnInfo (h : Hdr) (p : Bytes) (s : State) : State :=
  serve { opcode := 0xB0, length := fun n => n == 0 || n == 16 } h p
    (fun s =>
      let b := cairnInfoBytes s
      doneWith h (b ++ if p.isEmpty then [] else cairnSign p b) s) s

/-- Reserved fields of a read: FLAGS [7:1], two bytes, and NONCE unless SIGN is set. -/
def readReserved (p : Bytes) : Bool := fld p 5 1 / 2 == 0 && fld p 6 2 == 0 && (bit (fld p 5 1) 0 || fld p 8 16 == 0)

/-- CAIRN_READ. -/
def cmdCairnRead (h : Hdr) (p : Bytes) (s : State) : State :=
  serve { opcode := 0xB1, length := (· == 24), reserved := readReserved } h p
    (fun s =>
      let n := fld p 4 1
      refuseIf h.tag [(n == 0 || decide (56 < n), stParam)]
        (whenReadable (circularPages s (fld p 0 4) n) 0xB1 h p fun s =>
          let r := readCircular (fld p 0 4) n (bit (fld p 5 1) 0) (slice p 8 16) s
          doneWith h r.1 r.2) s) s

/-- CAIRN_READ_PINNED. -/
def cmdCairnReadPinned (h : Hdr) (p : Bytes) (s : State) : State :=
  serve { opcode := 0xB2, length := (· == 24), reserved := readReserved } h p
    (fun s =>
      let n := fld p 4 1
      refuseIf h.tag [(n == 0 || decide (56 < n) || decide (256 < fld p 0 4 + n), stParam)]
        (whenReadable ((List.range n).map fun k => cellPage (fld p 0 4 + k)) 0xB2 h p fun s =>
          let r := readPinned (fld p 0 4) n (bit (fld p 5 1) 0) (slice p 8 16) s
          doneWith h r.1 r.2) s) s

/-- CAIRN_MARK queues a HOST_MARK, at most 16 per SOURCE in 3600 s (R412). One that finds no position in the queue is dropped
and counted (R404), and its command ends with NO_RESOURCE (in part DESIGN CHOICE, log entry 76). -/
def cmdCairnMark (h : Hdr) (p : Bytes) (s : State) : State :=
  serve { opcode := 0xB3, rights := fun _ _ => .anyOwner, length := (· == 32) } h p
    (fun s =>
      let source : BitVec 16 := if h.secure then 0x0400#16 ||| h.owner.setWidth 16 else 0x04FF
      let recent := s.cairn.marks.filter fun m => decide (since s m.2 < 3600 * 32768)
      refuseIf h.tag [(decide (16 ≤ recent.countP (·.1 == source)), stNoResource)]
        (fun s =>
          let e : CairnEntry := { type := 0xB001, source := source, time := now s, bootCount := bootOf s, payload := p, tag := some h.tag }
          let dropped := decide (32 ≤ s.cairn.queue.length)
          let s := wantDomain 3 true (cairnPut e (onCairn (fun c => { c with marks := recent ++ [(source, s.clk.tick)] }) s))
          if dropped then finish h.tag stNoResource [] s else s) s) s

/-- CAIRN_REMOTE_READ sends its payload from KIND on in a CAIRN frame (R413). -/
def cmdCairnRemoteRead (h : Hdr) (p : Bytes) (s : State) : State :=
  serve { opcode := 0xB4, length := (· == 28)
          reserved := fun p => fld p 2 1 / 2 == 0 && fld p 3 1 == 0 && fld p 9 3 == 0 && (bit (fld p 2 1) 0 || fld p 12 16 == 0) } h p
    (fun s =>
      let chip := fld p 0 1; let kind := fld p 1 1; let n := fld p 8 1
      let range := decide (1 < kind) || n == 0 || decide (56 < n) || (kind == 1 && decide (256 < fld p 4 4 + n))
      refuseIf h.tag
        [(!isRidge s, stState), (decide (63 < chip) || chip == s.rope.index || range, stParam), (!reachable s chip, stLinkDown)]
        (fun s =>
          let id := s.rope.nextRelay
          let f : RopeFrame := { type := 4, dst := BitVec.ofNat 8 chip, src := BitVec.ofNat 8 s.rope.index, info := id.toNat
                                 payload := p.drop 1 }
          let s := onRope (fun r => { r with nextRelay := r.nextRelay + 1 }) (commitMark h.tag s)
          routeOut f (onCairn (fun c => { c with remote := c.remote ++ [{ tag := h.tag, chip := BitVec.ofNat 8 chip, relay := id }] }) s)) s) s

/-! ### Other chips' records (R413) -/

/-- Frames of at most 2048 bytes that carry a reply: RFLAGS bit 0, and bit 1 in every frame but the last. -/
def replyFrames (type dst : Byte) (src : Nat) (id : BitVec 16) : Nat → Bytes → List RopeFrame
  | 0, _ => []
  | n + 1, b =>
    let more := decide (2048 < b.length)
    { type := type, dst := dst, src := BitVec.ofNat 8 src, info := id.toNat + 65536 * (if more then 3 else 1), payload := b.take 2048 }
      :: if more then replyFrames type dst src id n (b.drop 2048) else []

/-- Remote reads served: those whose last frame still waits to leave. -/
def servedReads (s : State) : Nat :=
  let mine (f : RopeFrame) : Bool := f.type == 4 && f.info / 65536 == 1 && f.src.toNat == s.rope.index
  s.rope.ports.toList.foldl (fun n x => n + x.waiting.countP mine) 0

/-- Serve a read for another chip; a third at a time is answered with no bytes (in part DESIGN CHOICE, log entry 77). -/
def serveRead (src : Byte) (id : BitVec 16) (p : Bytes) (s : State) : State :=
  let kind := fld p 0 1; let n := fld p 7 1; let sign := bit (fld p 1 1) 0
  let r := if 2 ≤ servedReads s then ([], s)
    else if kind == 0 then readCircular (fld p 3 4) n sign (slice p 11 16) s
    else readPinned (fld p 3 4) n sign (slice p 11 16) s
  (replyFrames 4 src r.2.rope.index id (r.1.length / 2048 + 1) r.1).foldl (fun s f => routeOut f s) r.2

/-- A reply's bytes arrive at the chip that asked. -/
def readArrived (src : Byte) (id : BitVec 16) (more : Bool) (b : Bytes) (s : State) : State :=
  let mine (r : RemoteRead) : Bool := r.relay == id && r.chip == src
  match s.cairn.remote.find? mine with
  | none => s
  | some r =>
    let got := r.got ++ b
    if more then onCairn (fun c => { c with remote := c.remote.map fun r => if mine r then { r with got := got } else r }) s
    else
      finish r.tag (if got.isEmpty then stQueueFull else 0x00) got (onCairn (fun c => { c with remote := c.remote.filter fun r => !mine r }) s)

/-- A CAIRN frame delivers a read request, or a reply of it (R413). -/
def execCairn (r : RopeRx) (relay : BitVec 16) (reply more : Bool) (payload : Bytes) (s : State) : Answer :=
  let info := relay.toNat + 65536 * (b2n reply + 2 * b2n more)
  let f : RopeFrame := { type := 4, dst := 0, src := 0, info := info, payload := payload }
  .next (receive r f (fun s => if reply then readArrived r.src relay more payload s
    else if s.boot.phase == .ready then serveRead r.src relay payload s else s) s)

/-- No complete reply within 100 ms (R413). -/
def execRemoteReadTimeout (relay : BitVec 16) (s : State) : Answer := .next (endRead relay.toNat s)

/-! ### The meanings -/

def execCairnInfo (h : Hdr) (p : Bytes) (s : State) : Answer := .next (cmdCairnInfo h p s)
def execCairnRead (h : Hdr) (p : Bytes) (s : State) : Answer := .next (cmdCairnRead h p s)
def execCairnReadPinned (h : Hdr) (p : Bytes) (s : State) : Answer := .next (cmdCairnReadPinned h p s)
def execCairnMark (h : Hdr) (p : Bytes) (s : State) : Answer := .next (cmdCairnMark h p s)
def execCairnRemoteRead (h : Hdr) (p : Bytes) (s : State) : Answer := .next (cmdCairnRemoteRead h p s)

end Sys2Proof.Machine
end

