-- ==== Sys2Proof/Machine/Resets.lean ====
section
/-! DEFINITION. What a reset does: how it begins, what each kind keeps, and when it takes effect (chapter 04, Tables 4-4 to
4-6). -/

namespace Sys2Proof.Machine

/-! ### Outputs and the Belay record (Table 4-6) -/

/-- Write every HOUT latch with one level. -/
def setOutputs (level : Level) (code : BitVec 16) (s : State) : State :=
  { s with bly := { s.bly with latches := Vector.replicate 4 { level := level, code := code } } }

/-- The record becomes TRIPPED, BELAY_OK falls, and the entry of R335 is written (in part DEDUCED, log entry 108). -/
def tripRecord (cause asset : Byte) (entry : Bool) (s : State) : State :=
  let prev := s.bly.phase
  let s := { s with bly := { s.bly with
    phase := .tripped, prev := prev, cause := cause, asset := asset, tState := now s, tCommit := now s
    trips := satInc s.bly.trips, v0 := 0, v0Ns := 0, heldModel := none } }
  if entry then cairn 0x8002 (belaySource s) ([BelayPhase.tripped.code, prev.code, cause, 0, 0, 0, 0, 0]) s else s

/-- The record is ARMED or HOLD. -/
def recordUp (s : State) : Bool := s.bly.phase == .armed || s.bly.phase == .hold

/-- The outputs and the record at the instant a reset of a kind begins (R112, Table 4-6); POWER_ON has its own row
(in part DEDUCED, log entry 143). -/
def belayReset (cause : Byte) (s : State) : State :=
  if cause == 0x06 then
    let s := setOutputs .deviceFault 82 { s with bly := { s.bly with alarm := true } }
    if recordUp s then tripRecord 6 0xFF true { s with bly := { s.bly with latched := setBit s.bly.latched 5 true } } else s
  else if cause == 0x07 then
    let s := setOutputs .notReady 205 s
    if recordUp s then tripRecord 5 0xFF false s else s
  else
    let s := setOutputs .notReady 205 s
    if s.bly.phase == .hold then tripRecord 7 s.bly.asset true s else s

/-! ### The beginning -/

/-- The host port after a reset (R38). -/
def resetLink (s : State) : State := { s with link := {} }

/-- Ingest stops: every stream is stopped and its open frame discarded; jobs are abandoned (R115, R167). -/
def stopWork (s : State) : State :=
  let stop (x : Strm) : Strm :=
    let lost := x.frame.isSome
    { x with
      phase := if x.phase == .unconfigured then .unconfigured else .stopped
      starting := false, stopAfter := false, fifo := [], frame := none, held := []
      counters := if lost then { x.counters with discarded := satInc x.counters.discarded } else x.counters }
  { s with
    stm := { s.stm with streams := s.stm.streams.map stop, starts := [], stops := [], snapshot := none }
    mdl := { s.mdl with jobs := [] } }

/-- The operation belongs to a save, a label or another record kept by copies, which a reset lets complete (Table 4-7). -/
def NvmOp.completes (o : NvmOp) : Bool :=
  match o.job with
  | .headPage _ | .headCommit _ | .recordCopy _ _ _ | .recordCommit _ _ | .wearCommit _ _ => true
  | _ => false

/-- A reset by the watchdog or the exception limit that stops a TRIAL image before its READY: the slot being tried or run, and
the cause (R102). -/
def trialStopped (cause : Byte) (b : BootState) : Option (BitVec 1 × Byte) :=
  let slot := if b.phase == .init || b.phase == .restarting then b.running else b.preferred
  if (cause == 0x05 || cause == 0x09) && !b.counted && (rd b.slots slot.toNat).state == .trial then some (slot, cause)
  else b.trialFailed

/-- A reset begins with VCORE in regulation: the fabric quiesces (R115). A cause that arises while a reset is in progress
replaces nothing (R109). An erase in progress stops (R461) (in part DEDUCED, log entry 118). A boot guard that runs ends; the
release starts a new one (R113) (in part DESIGN CHOICE, log entry 158). -/
def beginReset (cause : Byte) (s : State) : State :=
  if !s.isOn 0 || s.boot.stage != .none then s
  else
    let s := stopWork (resetLink (belayReset cause s))
    let stopped : NvmBusy := match s.nvm.busy with
      | .background _ => .idle
      | b => b
    let erasing := s.nvm.busy == .posted && s.nvm.posted.head?.any (·.erase)
    { s with
      boot := { s.boot with
        cause := cause, stage := .quiesced, scheduled := none, phase := .rom, guard := false, trialFailed := trialStopped cause s.boot }
      nvm := { s.nvm with
        busy := if erasing then .idle else stopped
        posted := s.nvm.posted.filter (fun o => !o.erase), waiting := s.nvm.waiting.filter (·.completes) }
      pwr := { s.pwr with entry := none, waking := none } }

/-! ### What each kind keeps (Table 4-5) -/

/-- The clocks that PD0 owns go on; XO24 and the PLLs stop. -/
def resetClocks (c : ClockState) : ClockState :=
  { c with cycles := 0, counting := false, xo24On := false, xo24Try := 0, lock := Vector.replicate 3 false, frcOn := true }

/-- Power after a reset: PD0 and PD1; the settings return to their reset values. -/
def resetPower (ridge : Bool) (p : PowerBlock) : PowerBlock :=
  { p with
    state := .active, on := 3, retention := false, requests := [], vcoreBuck := true, vcimBuck := false, entry := none
    waking := none, wake := { ropeWake := ridge }, watching := {}, watchRuns := [], wakeDue := none, alarm := {}, policy := {}, bivouacLoss := false }

/-- The governor after a reset (in part DEDUCED, log entry 109). -/
def resetThermal (t : ThermalBlock) : ThermalBlock :=
  { t with config := {}, warn := {}, throttle := {}, trip := {}, phaseDiv := Vector.replicate 8 0 }

/-- The boot record of a new boot. -/
def resetBoot (b : BootState) : BootState :=
  { b with
    stage := .held, phase := .rom, counted := false, updating := none, begin' := none, commit := none, rollback := none
    guard := false, exceptions := [], restarts := 0, scheduled := none }

/-- The NVM after a reset; the erase list survives only CMD_WARM (R461), as the epochs do (R213). -/
def resetNvm (warm : Bool) (n : NvmState) : NvmState :=
  if warm then { n with posted := [], waiting := [], busy := .idle, waitingReads := [] }
  else { pages := n.pages, spares := n.spares, records := n.records }

/-- The Cairn after a reset: what the NVM holds, the marks of R412, and the entries that the Anchor held in sleep
(in part DEDUCED, log entry 117). -/
def resetCairn (warm : Bool) (c : CairnState) : CairnState :=
  { nextSeq := c.nextSeq, journal := c.journal, marks := c.marks
    queue := c.anchor, dropped := if warm then c.dropped else 0, droppedCritical := if warm then c.droppedCritical else 0
    commitTimes := if warm then c.commitTimes else [] }

/-- The front end: configuration, leads and records survive CMD_WARM; both banks are disabled (R144a). DESIGN CHOICE: M_prev
does not survive it (log entry 180). -/
def resetAfe (warm : Bool) (a : AfeState) : AfeState :=
  if warm then
    { a with
      banks := 0, leadRuns := [], calRuns := []
      pairs := a.pairs.map fun q => { q with phase := .inactive, failRun := 0, passRun := 0, markA := false, markB := false }
      channels := a.channels.map fun c => { c with first := true, burst := {}, mPrev := none, status := c.status &&& 0x0040 }
      drivers := a.drivers.map fun d => { d with limit := false } }
  else {}

/-- Streams: entries survive CMD_WARM and are STOPPED; ports, tachs and the encoder are disabled (R107). -/
def resetStreams (warm : Bool) (b : StreamBlock) : StreamBlock :=
  if warm then { streams := b.streams, bubbles := b.bubbles } else {}

/-- A position state after PD6 has been off (R184). -/
def PosState.afterOff : PosState → PosState
  | .synced | .estimated => .unsynced
  | p => p

/-- Feature configurations and the belt survive CMD_WARM (R184, R191). -/
def resetFeatures (warm : Bool) (b : FeatureBlock) : FeatureBlock :=
  if warm then
    { streams := b.streams.map fun x => { config := x.config, order := x.order, machineCfg := x.machineCfg, bands := x.bands, latest := x.latest }
      belt := { b.belt with state := b.belt.state.afterOff, encLost := false, log := [], residue := 0 } }
  else {}

/-- Keys survive in NVM; a debug opening ends (R392, R394), and an erase under way goes on at boot from its record (R104). A
removal past its commit point goes on across CMD_WARM, without its command (R38, R388). -/
def resetOwners (warm : Bool) (root : Bytes) (o : OwnerState) : OwnerState :=
  { slots := o.slots, storeGen := o.storeGen, sealCtr := o.sealCtr, sealAhead := o.sealAhead, tap := o.tap
    removal := if warm then o.removal.map fun r => { r with tag := none } else none, sramRoot := if warm then o.sramRoot else root }

/-- Belay: the record, the latches and the latched causes are in PD0, the rest in control SRAM (R344). -/
def resetBelay (warm : Bool) (b : BelayBlock) : BelayBlock :=
  if warm then { b with queue := [], rearming := none, dwell := false, slow := false, startGuard := false, coasting := none }
  else
    { phase := b.phase, prev := b.prev, cause := b.cause, asset := b.asset, latches := b.latches, alarm := b.alarm
      latched := b.latched, tState := b.tState, tCommit := b.tCommit }

/-- A model across CMD_WARM: loaded models keep their placement, and a RUNNING one is PLACED (R253). One whose placement was
being written is not placed. -/
def warmModel (placing : Bool) (x : Model) : Model :=
  { x with
    phase := if placing then .verified else if x.phase == .running then .placed else x.phase
    placement := if placing then {} else x.placement
    verifying := none, loads := [], stopping := none, unloading := if x.unloading.isSome then some none else none, yielding := false
    succeeds := none }

/-- Models: after a reset that loses control SRAM none is loaded, every array holds unknown content and its account is that of
WEAR (R111, R310). -/
def resetModels (warm : Bool) (wear : Bytes) (b : ModelBlock) : ModelBlock :=
  if warm then
    let placing (m : Nat) : Bool := b.writes.any fun r => r.model == m && match r.cause with | .place _ | .replace _ _ _ => true | _ => false
    let slots := (List.range 8).foldl (fun v m => upd v m (warmModel (placing m))) b.slots
    let arrays := b.arrays.map fun a => if a.writing.isSome then a.unwritten else a
    { b with slots := slots, arrays := arrays, writes := [], staging := [], features := [], frames := [], jobs := [], pressed := Vector.replicate 2 false }
  else if wear.isEmpty then {}
  else { arrays := Vector.ofFn fun a => readAccount wear a }

/-- A head: its copies are in NVM; across CMD_WARM its allocation stays and its state is loaded again (R111, R301). -/
def resetHead (warm : Bool) (h : Head) : Head :=
  if warm then { h with loaded := false, changed := false, slept := false, ops := [], busy := none, image := [], cands := [], rewardLeft := 0
                        copy := h.copy.map fun c => { c with tag := none } }
  else { areas := h.areas, current := h.current, saveSeq := h.saveSeq }

/-- A core: a fence stands once its record is committed, and a reset that loses control SRAM takes it from WEAR (R310); every
reset makes a quick self-test due (R317), and one that loses control SRAM a recalibration (Table 13-3). -/
def resetCore (wear : Option Bytes) (n : Nat) (c : Core) : Core :=
  match wear with
  | none => { c with fenced := c.fenced && c.fencing.isNone, fencing := none, quickDue := true }
  | some b => if b.isEmpty then {} else readFence b n

/-- Heads, cores and the wear configuration. -/
def resetLearn (warm : Bool) (wear : Bytes) (b : LearnBlock) : LearnBlock :=
  let cores := Vector.ofFn fun n : Fin 8 => resetCore (if warm then none else some wear) n (rd b.cores n)
  let kept : LearnBlock := { heads := b.heads.map (resetHead warm), cores := cores }
  if warm then
    { kept with lifeDays := b.lifeDays, bankDays := b.bankDays, daysUsed := b.daysUsed, refused := b.refused, withdrawals := b.withdrawals }
  else if wear.isEmpty then kept
  else { kept with
    lifeDays := BitVec.ofNat 16 (fld wear 0 2), daysUsed := BitVec.ofNat 16 (fld wear 2 2), bankDays := wear.getD 4 0 }

/-- The Rope is off; its counters survive CMD_WARM. -/
def resetRope (warm : Bool) (r : RopeState) : RopeState :=
  if warm then { ports := r.ports.map fun x => { counters := x.counters } } else {}

/-- The reset takes effect on PD1 to PD23. -/
def takeEffect (warm : Bool) (s : State) : State :=
  let root := if warm then ([], s) else drawRandom 32 s
  let s := if warm then (List.range 8).foldl (fun s m => releasePitch m s) root.2 else root.2
  { s with
    link := {}, clk := resetClocks s.clk, pwr := resetPower (isRidge s) s.pwr, thm := resetThermal s.thm
    boot := resetBoot s.boot, nvm := resetNvm warm s.nvm, cairn := resetCairn warm s.cairn, afe := resetAfe warm s.afe
    stm := resetStreams warm s.stm, feat := resetFeatures warm s.feat, own := resetOwners warm root.1 s.own
    bly := resetBelay warm s.bly, mdl := resetModels warm (s.record .wear).content s.mdl
    lrn := resetLearn warm (s.record .wear).content s.lrn, rope := resetRope warm s.rope }

/-- A condition holds the device in reset (R109). -/
def heldInReset (s : State) : Bool := s.boot.pinHold || s.boot.brownoutHold || s.boot.thermalHold

end Sys2Proof.Machine
end

