-- ==== Sys2Proof/Machine/Firmware.lean ====
section
/-! DEFINITION. The firmware slots and the firmware update (chapter 04). -/

namespace Sys2Proof.Machine

/-- Change the boot record. -/
def onBoot (f : BootState → BootState) (s : State) : State := { s with boot := f s.boot }

/-- Change a firmware slot. -/
def onFw (k : Nat) (f : FwSlot → FwSlot) (s : State) : State := onBoot (fun b => { b with slots := upd b.slots k f }) s

/-- A firmware slot. -/
def State.fw (s : State) (k : Nat) : FwSlot := rd s.boot.slots k

/-- `SLOT_CAPACITY`: the slot less its state sector. -/
def slotCapacity : Nat := 520192

/-- The 17 bytes of a slot's header that its record keeps: state, version, SVN, image size and build. -/
def FwSlot.bytes (x : FwSlot) : Bytes :=
  [x.state.code, x.major, x.minor] ++ le 2 x.patch.toNat ++ le 4 x.svn.toNat ++ le 4 x.size ++ le 4 x.build.toNat

/-- The slot states by code; any other code is EMPTY's. -/
def fwStateOf (n : Nat) : FwSlotState := [FwSlotState.empty, .writing, .valid, .trial, .invalid].getD n .empty

/-- A slot whose header is read from its record; a record never written reads EMPTY (R215). -/
def FwSlot.ofBytes (b : Bytes) (x : FwSlot) : FwSlot :=
  { x with
    state := fwStateOf (fld b 0 1), major := .ofNat 8 (fld b 1 1), minor := .ofNat 8 (fld b 2 1), patch := .ofNat 16 (fld b 3 2)
    svn := .ofNat 32 (fld b 5 4), size := fld b 9 4, build := .ofNat 32 (fld b 13 4) }

/-- The record of a slot. -/
def slotRecord (k : Nat) : RecordKind := if k == 0 then .slotA else .slotB

/-- First page of a slot's region; its first sector holds the header and the state. -/
def fwBase (k : Nat) : Nat := 0x180 + 2048 * k

/-- Page k of a slot's image. -/
def fwImagePage (slot k : Nat) : Nat := fwBase slot + 16 + k

/-- The slot that an update writes: the one that is not running. -/
def otherSlot (s : State) : Nat := 1 - s.boot.running.toNat

/-- Sectors of a slot's image that hold programmed pages, by first page. -/
def fwUsed (s : State) (slot : Nat) : List Nat :=
  ((List.range 127).map fun k => fwBase slot + 16 * (k + 1)).filter fun f => sectorUsed s f

/-- FW_UPDATE_BEGIN marks the other slot WRITING, which is its commit point, and erases it
(in part DEDUCED, log entry 114). -/
def cmdFwUpdateBegin (h : Hdr) (p : Bytes) (s : State) : State :=
  serve { opcode := 0xD0, rights := fun _ _ => .site, length := (· == 16), reserved := zeros [(12, 4)] } h p
    (fun s =>
      let size := fld p 0 4
      let k := otherSlot s
      refuseIf h.tag
        [(size == 0 || decide (slotCapacity < size) || decide (fld p 8 4 < s.boot.svnFloor.toNat), stParam),
         (s.boot.begin'.isSome || s.boot.commit.isSome, stBusy)]
        (fun s =>
          let s := onBoot (fun b => { b with begin' := some { tag := h.tag, slot := k, payload := p } }) (started h.tag s)
          let new : FwSlot := { state := .writing, major := .ofNat 8 (fld p 4 1), minor := .ofNat 8 (fld p 5 1)
                                patch := .ofNat 16 (fld p 6 2), svn := .ofNat 32 (fld p 8 4), size := size }
          postNvm (recordOps (slotRecord k) new.bytes (some h.tag) false s
            ++ (fwUsed s k).map fun f => { page := f, erase := true, job := .fwErase k, tag := some h.tag }) s) s) s

/-- Operations of the NVM not yet ended that satisfy a test. -/
def opsPending (s : State) (f : NvmJob → Bool) : Bool := (s.nvm.posted ++ s.nvm.waiting).any fun o => f o.job

/-- The last erase of FW_UPDATE_BEGIN has ended (in part DEDUCED, log entry 107). -/
def fwErased (s : State) : State :=
  let more := opsPending s fun j => match j with | .fwErase _ | .recordCommit .slotA _ | .recordCommit .slotB _ => true | _ => false
  match s.boot.begin' with
  | some b => if more then s else finish b.tag 0x00 [] (onBoot (fun x => { x with begin' := none }) s)
  | none => s

/-- FW_UPDATE_BEGIN fails (in part DEDUCED, log entry 115). -/
def fwBeginFails (s : State) : State :=
  match s.boot.begin' with
  | some b => finish b.tag stNvm [] (cancelNvm b.tag (onBoot (fun x => { x with begin' := none, updating := none }) s))
  | none => s

/-- Bytes of an update received: those programmed and those posted. -/
def fwBytes (s : State) (k : Nat) : Bytes :=
  (s.fw k).image ++ (s.nvm.posted ++ s.nvm.waiting).flatMap fun o => match o.job with
    | .fwLast j d => if j == k then d else []
    | _ => []

/-- FW_UPDATE_DATA programs image bytes at the expected offset (R117). Its section names no commit point: it commits at
acceptance (R51) (in part DEDUCED, log entry 127). -/
def cmdFwUpdateData (h : Hdr) (p : Bytes) (s : State) : State :=
  serve { opcode := 0xD1, rights := fun _ _ => .site, length := fun n => decide (5 ≤ n) && decide (n ≤ 4068) } h p
    (fun s =>
      let off := fld p 0 4; let data := p.drop 4
      match s.boot.updating with
      | none => finish h.tag stState [] s
      | some k =>
        refuseIf h.tag [(off != (fwBytes s k).length || decide ((s.fw k).size < off + data.length), stParam)]
          (fun s =>
            let first := off / 256; let last := (off + data.length - 1) / 256
            let bytes := fwBytes s k ++ data
            let page (i : Nat) (job : NvmJob) : NvmOp :=
              { page := fwImagePage k i, data := slice bytes (256 * i) 256, job := job, tag := some h.tag }
            postNvm ((List.range (last - first)).map (fun i => page (first + i) (.fwPage k)) ++ [page last (.fwLast k data)])
              (commitMark h.tag s)) s) s

/-- End a command with DONE, where there is one. -/
def doneTag (tag : Option Tag) (s : State) : State :=
  match tag with
  | some t => finish t 0x00 [] (commitMark t s)
  | none => s

/-- The last page of a FW_UPDATE_DATA is programmed. -/
def fwReceived (k : Nat) (data : Bytes) (tag : Option Tag) (s : State) : State :=
  doneTag tag (onFw k (fun x => { x with image := x.image ++ data }) s)

/-- A page of FW_UPDATE_DATA fails: the same OFFSET can be sent again, and data behind it does not follow. -/
def fwDataFails (k : Nat) (tag : Option Tag) (s : State) : State :=
  let later := ((s.nvm.posted ++ s.nvm.waiting).filter fun o => match o.job with
    | .fwLast j _ => j == k && o.tag != tag
    | _ => false).filterMap (·.tag)
  let s := later.foldl (fun s t => finish t stParam [] (cancelNvm t s)) s
  match tag with
  | some t => finish t stNvm [] (cancelNvm t s)
  | none => s

/-- FW_UPDATE_COMMIT begins the verification. -/
def cmdFwUpdateCommit (h : Hdr) (p : Bytes) (s : State) : State :=
  serve { opcode := 0xD2, rights := fun _ _ => .site, length := (· == 1), reserved := fun p => fld p 0 1 / 2 == 0 } h p
    (fun s =>
      match s.boot.updating with
      | none => finish h.tag stState [] s
      | some k =>
        refuseIf h.tag [(s.boot.commit.isSome || s.boot.begin'.isSome, stBusy)]
          (fun s => onBoot (fun b => { b with commit := some { tag := h.tag, slot := k, resetNow := bit (fld p 0 1) 0 } }) (started h.tag s)) s) s

/-- Pages of a slot's image that have been programmed. -/
def fwPages (s : State) (k : Nat) : List Nat :=
  (s.nvm.pages.map (·.page)).filter fun p => decide (fwImagePage k 0 ≤ p) && decide (p < fwBase k + 2048)

/-- The checks of FW_UPDATE_COMMIT: every byte has arrived, the header agrees, the signature verifies and the SVN is at
least the floor. -/
def fwImageOk (s : State) (k : Nat) : Bool :=
  let x := s.fw k
  let (major, minor, patch, svn, _) := Config.fwHeader x.image
  x.image.length == x.size && major == x.major && minor == x.minor && patch == x.patch && svn == x.svn && fwSignatureOk x.image
    && decide (s.boot.svnFloor.toNat ≤ x.svn.toNat)

/-- Verification ends: TRIAL and the selection record, or INVALID (R102). -/
def execFwImageVerified (s : State) : Answer :=
  match s.boot.commit with
  | none => .next s
  | some c =>
    let pages := fwPages s c.slot
    if opsPending s (fun j => match j with | .fwPage _ | .fwLast _ _ | .recordCommit .slotA _ | .recordCommit .slotB _ => true | _ => false)
        || readWaits s pages || s.boot.phase == .restarting then .next s
    else
      let s := readPages pages s
      let mark (st : FwSlotState) : List NvmOp :=
        (recordOps (slotRecord c.slot) { s.fw c.slot with state := st, build := (Config.fwHeader (s.fw c.slot).image).2.2.2.2 }.bytes (some c.tag) false s).map
          fun o => { o with point := false }
      if fwImageOk s c.slot && readable s pages then
        .next (postNvm (mark .trial ++ recordOps .select [BitVec.ofNat 8 c.slot] (some c.tag) false s) s)
      else .next (postNvm (mark .invalid) s)

/-- A slot's new state is programmed. WRITING begins the update, whatever one it abandons; INVALID ends the FW_UPDATE_COMMIT
whose check failed. -/
def fwStated (k : Nat) (tag : Option Tag) (b : Bytes) (s : State) : State :=
  let st := fwStateOf (fld b 0 1)
  let s := onFw k (fun x => { x.ofBytes b with
    image := if st == .writing then [] else x.image
    signed := if st == .writing || st == .invalid then false else x.signed || tag.isSome }) s
  match st, s.boot.commit with
  | .writing, _ => fwErased (onBoot (fun x => { x with updating := some k }) s)
  | .invalid, some c =>
    if tag == some c.tag then finish c.tag stImage [] (onBoot (fun b => { b with commit := none, updating := none }) s) else s
  | _, _ => s

/-- The slot-selection record is programmed: the slot is preferred. For FW_UPDATE_COMMIT the Cairn entry is written and the
command ends; with RESET_NOW a reset waits for the reply (R61). -/
def fwSelected (tag : Option Tag) (k : Nat) (s : State) : State :=
  let s := onBoot (fun b => { b with preferred := .ofNat 1 k }) s
  match s.boot.commit with
  | none => s
  | some c =>
    if tag != some c.tag then s else
    let x := s.fw k
    let s := onBoot (fun b => { b with updating := none, commit := none }) s
    let s := cairn 0xD001 (0x0600#16 ||| BitVec.ofNat 16 k) ([x.major, x.minor] ++ le 2 x.patch.toNat ++ le 4 x.svn.toNat) s
    let s := if c.resetNow && s.boot.scheduled.isNone then onBoot (fun b => { b with scheduled := some (0x08, c.tag) }) s else s
    finish c.tag 0x00 [] s

/-- A program of FW_UPDATE_COMMIT fails. -/
def fwCommitFails (s : State) : State :=
  match s.boot.commit with
  | some c => finish c.tag stNvm [] (cancelNvm c.tag (onBoot (fun b => { b with commit := none }) s))
  | none => s

/-- A slot's entry in FW_SLOT_STATUS (Table 4-9). -/
def fwEntry (s : State) (k : Nat) : Bytes :=
  let x := s.fw k
  let running := s.boot.running.toNat == k && s.boot.phase != .failed
  let mark := [x.state.code, BitVec.ofNat 8 (flags [running, s.boot.preferred.toNat == k])]
  if x.state == .empty then mark ++ List.replicate 14 0
  else mark ++ [x.major, x.minor] ++ le 2 x.patch.toNat ++ le 4 x.svn.toNat ++ le 4 (if x.state == .writing then x.image.length else x.size) ++ [0, 0]

/-- FW_SLOT_STATUS; Table 2-13 lists it as Open, where chapter 04 speaks of the update commands as Site (R60). -/
def cmdFwSlotStatus (h : Hdr) (p : Bytes) (s : State) : State :=
  serve { opcode := 0xD3, length := (· == 0) } h p
    (fun s => doneWith h (fwEntry s 0 ++ fwEntry s 1 ++ le 4 s.boot.svnFloor.toNat ++ le 4 slotCapacity) s) s

/-! ### The meanings -/

def execFwUpdateBegin (h : Hdr) (p : Bytes) (s : State) : Answer := .next (cmdFwUpdateBegin h p s)
def execFwUpdateData (h : Hdr) (p : Bytes) (s : State) : Answer := .next (cmdFwUpdateData h p s)
def execFwUpdateCommit (h : Hdr) (p : Bytes) (s : State) : Answer := .next (cmdFwUpdateCommit h p s)
def execFwSlotStatus (h : Hdr) (p : Bytes) (s : State) : Answer := .next (cmdFwSlotStatus h p s)

end Sys2Proof.Machine
end

