-- ==== Sys2Proof/Machine/NvmJobs.lean ====
section
/-! DEFINITION. What each program and each commanded erase of the NVM is for, and what its end does (chapters 02, 04, 09, 10,
12, 13 and 16). -/

namespace Sys2Proof.Machine

/-- End a command with NVM_ERROR, where there is one, and withdraw its other operations. -/
def failTag (tag : Option Tag) (s : State) : State :=
  match tag with
  | some t => finish t stNvm [] (cancelNvm t s)
  | none => s

/-- Withdraw every operation that satisfies a test and has not begun. -/
def dropOps (f : NvmOp → Bool) (s : State) : State :=
  let keep (ops : List NvmOp) := ops.filter fun o => !f o
  nvmRefill { s with nvm := { s.nvm with posted := keep s.nvm.posted, waiting := keep s.nvm.waiting } }

/-! ### Records kept by copies (R222) -/

/-- A page of a record's copy is programmed. -/
def copyProgrammed (k : RecordKind) (copy : Nat) (first : Bool) (data : Bytes) (s : State) : State :=
  { s with nvm := { s.nvm with records := upd s.nvm.records k.index fun r =>
      { r with copies := upd r.copies copy fun b => if first then data else b ++ data } } }

/-- A page of a record's copy is cut short: the copy checks no more. -/
def copyTorn (k : RecordKind) (copy : Nat) (s : State) : State :=
  { s with nvm := { s.nvm with records := upd s.nvm.records k.index fun r => { r with copies := wr r.copies copy [] } } }

/-- A commit record is programmed: its page keeps it and the one before it. -/
def commitProgrammed (k : RecordKind) (c : CommitRecord) (s : State) : State :=
  { s with nvm := { s.nvm with records := upd s.nvm.records k.index fun r => { r with commits := c :: r.commits.take 1 } } }

/-- What a record's update brings about as its commit record is programmed. -/
def recordInForce (k : RecordKind) (tag : Option Tag) (s : State) : State :=
  let b := (s.record k).content
  match k with
  | .label => doneTag tag s
  | .select => fwSelected tag (fld b 0 1) s
  | .svn => onBoot (fun x => { x with svnFloor := BitVec.ofNat 32 (fld b 0 4) }) s
  | .bootCount => s
  | .erase | .storeGen => eraseProgrammed s
  | .sealCtr => onOwn (fun w => { w with sealAhead := BitVec.ofNat 64 (fld b 0 8) }) s
  | .keys => keysCommitted s
  | .slotA => fwStated 0 tag b s
  | .slotB => fwStated 1 tag b s
  | .wear => s

/-! ### Heads (R299, R301, R304) -/

/-- The commit record of a head's copy is programmed: the copy is current, and the load of a restore or an import can go on. -/
def headCommitted (n : Nat) (s : State) : State :=
  let current (b : Option HeadBusy) (h : Head) : Head :=
    { h with areas := wr h.areas h.area (some h.image), current := some h.area, saveSeq := h.saveSeq + 1, busy := b }
  match (s.head n).busy with
  | some (.saving cause tag) => onHead n (current (some (.saved cause tag))) s
  | some (.importing _) | some (.restoring _) => wantDomain 10 true (onHead n (fun h => { current none h with image := [] }) s)
  | _ => s

/-- A program of a head's copy fails: the previous copy stays current. An EPOCH_ROLL that waits for the save ends. -/
def headFails (n : Nat) (s : State) : State :=
  let s := dropOps (fun o => o.job == .headPage n || o.job == .headCommit n) s
  let tag := (s.head n).busy.bind HeadBusy.tag
  let s := onHead n (fun h => { h with
    busy := none, image := [], changed := h.changed || h.saves, ops := h.ops.filter fun o => match o with | .load _ t => t.isNone || t != tag | _ => true }) s
  let s := serveHead n (failTag tag s)
  match s.own.roll with
  | some r => if !r.rolled && (headsOfOwner s r.owner).contains n then finish r.tag stNvm [] (onOwn (fun w => { w with roll := none }) s) else s
  | none => s

/-- The sector of a pair's commit page is erased. -/
def headErased (n : Nat) (s : State) : State :=
  match (s.head n).busy with
  | some (.resetting _) =>
    wantDomain 10 true (eraseLater (pairRest n) (onHead n (fun h => { h with areas := Vector.replicate 2 none, current := none, busy := none }) s))
  | some (.releasing none (some t)) =>
    finish t 0x00 [] (headReleased n s)
  | some (.releasing none none) => carryRemoval (headReleased n s)
  | some (.releasing _ _) => carryOn (headReleased n s)
  | _ => s

/-! ### Models (R228) -/

/-- The last page of a MODEL_LOAD DATA is programmed; with the last byte the image is RECEIVED. -/
def modelReceived (m : Nat) (data : Bytes) (tag : Option Tag) (s : State) : State :=
  match (s.model m).loads with
  | [] => s
  | (t, _, _) :: rest =>
    if tag != some t then s
    else
      let s := onModel m (fun x => { x with image := x.image ++ data }) s
      let s := if (s.model m).image.length == (s.model m).size then setPhase m .received s else s
      nextLoad m rest (doneTag tag s)

/-- A page of a MODEL_LOAD DATA fails; the same OFFSET can be sent again. -/
def modelFails (m : Nat) (tag : Option Tag) (s : State) : State :=
  match (s.model m).loads with
  | [] => s
  | (t, _, _) :: rest => if tag != some t then s else nextLoad m rest (failTag tag s)

/-! ### WEAR (R310, R322, R323) -/

/-- The commit record of an update of WEAR is programmed. -/
def wearProgrammed (why : WearWhy) (s : State) : State :=
  match why with
  | .accounts => s
  | .grant => wantCores (grantCommitted s)
  | .fence n => wantCores (endRuns (fenceCommitted n s))
  | .unfence n => wantCores (unfenceCommitted n s)
  | .config => wearConfigCommitted s

/-- The run whose accounts a failed grant was to commit does not begin. -/
def grantFails (s : State) : State :=
  match s.mdl.writes.find? fun r => !r.granted && r.fence.isNone with
  | none => s
  | some r => match r.cause with
    | .place _ | .replace _ _ _ | .again _ _ => replaceFails r.model stNvm s
    | .pitch => releasePitch r.model s
    | .rotation _ => haltModel r.model stNvm s
    | .consolidate n _ _ => withdrawCopy n false stNvm s
    | .refresh => dropWrites (· == r) s

/-- A program of an update of WEAR fails. A core whose fence record fails stays out of use, and the writes of its
re-placements begin. -/
def wearFails (why : WearWhy) (tag : Option Tag) (s : State) : State :=
  match why with
  | .accounts => s
  | .grant => grantFails s
  | .fence n =>
    let s := onCore n (fun c => { c with fencing := none })
      (onRm (fun b => { b with writes := b.writes.map fun r => if r.fence == some n then { r with granted := true } else r }) s)
    wantCores (endRuns (failTag tag s))
  | .unfence _ => unfenceFails stNvm s
  | .config => failTag tag { s with lrn := { s.lrn with wearSet := none } }

/-- A page of WEAR's copy fails: the rest of its update, up to its commit record, is not programmed. -/
def wearCopyFails (s : State) : State :=
  let isCopy (o : NvmOp) : Bool := match o.job with | .recordCopy .wear _ _ => true | _ => false
  let ops := s.nvm.posted ++ s.nvm.waiting
  let rest := ops.dropWhile isCopy
  let n := ops.length - rest.length + 1
  let s := nvmRefill { s with nvm := { s.nvm with posted := s.nvm.posted.drop n, waiting := s.nvm.waiting.drop (n - s.nvm.posted.length) } }
  match rest with
  | { job := .wearCommit _ why, tag := tag, .. } :: _ => wearFails why tag s
  | _ => s

/-! ### Every job -/

/-- A program of the debug-open erase fails: the erase ends with NVM_ERROR and completes at the next boot where its flag is
set. -/
def eraseFails (s : State) : State :=
  match s.own.erase with
  | some e => failTag e.tag (onOwn (fun w => { w with erase := none }) s)
  | none => s

/-- A key store change fails: the previous copy stays current (R374). -/
def keysFail (s : State) : State :=
  match s.own.change with
  | some c => failTag (some c.tag) (onOwn (fun w => { w with change := none }) s)
  | none => s

/-- A program of a record's update fails: the previous copy stays current (R222), the rest of the update is withdrawn, and the
command that waits for it ends with NVM_ERROR. -/
def recordFails (k : RecordKind) (tag : Option Tag) (s : State) : State :=
  let mine (j : NvmJob) : Bool := match j with
    | .recordCopy i _ _ | .recordCommit i _ => i == k
    | _ => false
  let s := dropOps (fun o => o.tag == tag && mine o.job) s
  match k with
  | .label => failTag tag s
  | .keys => keysFail s
  | .erase | .storeGen => eraseFails s
  | .slotA | .slotB | .select =>
    if tag.isSome && s.boot.begin'.any (fun b => some b.tag == tag) then fwBeginFails s
    else if tag.isSome then fwCommitFails s
    else s
  | .svn | .bootCount | .sealCtr | .wear => s

/-- What a program that has verified does. -/
def programmed (o : NvmOp) (s : State) : State :=
  match o.job with
  | .recordCopy k copy first => copyProgrammed k copy first o.data s
  | .recordCommit k c => recordInForce k o.tag (commitProgrammed k c s)
  | .modelPage _ => countSeal s
  | .modelLast m data => modelReceived m data o.tag (countSeal s)
  | .headPage n => onHead n (fun h => { h with areas := wr h.areas h.area none }) (countSeal s)
  | .headCommit n => headCommitted n (countSeal s)
  | .fwLast k data => fwReceived k data o.tag s
  | .wearCommit c why => wearProgrammed why (commitProgrammed .wear c s)
  | .headErase _ | .fwErase _ | .fwPage _ | .freed => s

/-- What a program does that fails with no spare left (R218). -/
def programFailed (o : NvmOp) (s : State) : State :=
  match o.job with
  | .recordCopy .wear _ _ => wearCopyFails s
  | .wearCommit _ why => wearFails why o.tag s
  | .recordCopy k _ _ | .recordCommit k _ => recordFails k o.tag s
  | .modelPage m | .modelLast m _ => modelFails m o.tag s
  | .headPage n | .headCommit n => headFails n s
  | .fwPage k | .fwLast k _ => fwDataFails k o.tag s
  | .headErase _ | .fwErase _ | .freed => s

/-- What the end of a commanded erase does; one that a firmware update needs may fail. -/
def erased (o : NvmOp) (ok : Bool) (s : State) : State :=
  match o.job with
  | .headErase n => headErased n s
  | .fwErase _ => if ok then fwErased s else fwBeginFails s
  | _ => s

/-! ### The order of operations (R456, R105) -/

/-- The device has reached READY since its reset. -/
def afterReady (s : State) : Bool := s.boot.counted

/-- Place in the buffer of the next operation that may start: the first, and while programs are held the first of the boot
path, or an erase at the front (in part DEDUCED, log entry 12). -/
def nextOp (s : State) : Option Nat :=
  if s.nvm.posted.isEmpty then none
  else if !programsHeld s || s.nvm.posted.head?.any (·.erase) then some 0
  else s.nvm.posted.findIdx? (·.bootPath)

/-- An operation starts: it moves to the front, and the commit point of its command has come where it writes a commit record
or erases a head's commit page (R52). -/
def startOp (i : Nat) (s : State) : State :=
  match s.nvm.posted[i]? with
  | none => s
  | some o =>
    let s := { s with nvm := { s.nvm with posted := o :: s.nvm.posted.eraseIdx i, busy := .posted } }
    match o.tag with
    | some t => if o.point then commitMark t s else s
    | none => s

/-- The NVM is free for an operation: nothing is in progress, or a background erase, which a program stops and no commanded
erase does (R456, R219). -/
def nvmFree (s : State) (program : Bool) : Bool :=
  match s.nvm.busy with
  | .idle => true
  | .background _ => program
  | _ => false

/-- The NVM starts its next operation when it is free: a pending Cairn commit, the next operation of the buffer, or with the
buffer empty, once the device is READY, a background erase (R456, R219, R461). A program that is a bubble waits until one may
begin (R161). -/
def execNvmOperationStart (s : State) : Answer :=
  if !s.isOn 3 then .next s
  else if commitPending s then
    if nvmFree s true && mayBubble s then .next { s with nvm := { s.nvm with busy := .cairn } } else .next s
  else match nextOp s with
    | some i =>
      let o := s.nvm.posted[i]?
      if nvmFree s (o.any fun o => !o.erase) && (!o.any (·.commit) || mayBubble s) then .next (startOp i s) else .next s
    | none =>
      if s.nvm.busy != .idle || !s.nvm.posted.isEmpty || !s.nvm.waiting.isEmpty || s.boot.stage != .none || !afterReady s then .next s
      else match s.nvm.background with
        | f :: _ => .next { s with nvm := { s.nvm with busy := .background f } }
        | [] => .next s

/-- The front operation leaves the buffer, and the NVM is free. -/
def endOp (s : State) : State := nvmRefill { s with nvm := { s.nvm with posted := s.nvm.posted.drop 1, busy := .idle } }

/-- What the program of an operation writes. The commit record of a head's copy covers the stored bytes of its pages
(R379). -/
def imageOf (s : State) (o : NvmOp) : PageImage :=
  match o.job with
  | .headCommit n =>
    let h := s.head n
    let stored := (List.range ((h.image.length + 255) / 256)).flatMap fun k => (pageInfo s (areaPage n h.area + k)).bytes
    { data := ({ seq := BitVec.ofNat 32 (h.saveSeq + 1), copy := h.area, length := h.image.length, crc := crc32c stored } : CommitRecord).bytes }
  | _ => pageImage s o

/-- The program in progress ends (in part DESIGN CHOICE, log entry 79). -/
def programEnds (bad us : Nat) (s : State) : State :=
  match s.nvm.busy, s.nvm.posted with
  | .posted, o :: _ =>
    if o.erase then s
    else
      let r := programPage o.page (imageOf s o) bad us s
      let s := endOp (if o.commit then countBubble us r.1 else r.1)
      if r.2 then programmed o s else programFailed o s
  | _, _ => s

/-- Count an erase that has ended. -/
def countErase (first us : Nat) (s : State) : State :=
  let s := eraseSector first s
  { s with nvm := { s.nvm with erases := satInc s.nvm.erases, eraseTimes := (us :: s.nvm.eraseTimes).take 16 } }

/-- A sector erase ends (R219). One that does not succeed is done again, unless FW_UPDATE_BEGIN ordered it. -/
def execNvmEraseDone (ok : Bool) (us : Nat) (s : State) : Answer :=
  match s.nvm.busy, s.nvm.posted with
  | .posted, o :: _ =>
    if !o.erase then .next s
    else if ok then .next (erased o true (endOp (countErase o.page us s)))
    else match o.job with
      | .fwErase _ => .next (erased o false (endOp s))
      | _ => .next { s with nvm := { s.nvm with busy := .idle } }
  | .background f, _ =>
    let s := { s with nvm := { s.nvm with busy := .idle } }
    if ok then .next (countErase f us { s with nvm := { s.nvm with background := s.nvm.background.filter (· != f) } }) else .next s
  | _, _ => .next s

end Sys2Proof.Machine
end

