-- ==== Sys2Proof/Machine/Boot.lean ====
section
/-! DEFINITION. Resets and the boot: how each reset comes about and is released, the boot phases up to READY, the control-core
exception and the holdup supply (chapter 04). -/

namespace Sys2Proof.Machine

/-! ### RESET (R61) -/

/-- Schedule a reset: it begins once its DONE is pulled or 10 ms have passed. -/
def cmdReset (cause : Byte) (h : Hdr) (p : Bytes) (s : State) : State :=
  serve { opcode := 0x0D, rights := fun _ _ => .site, length := (· == 1) } h p
    (fun s =>
      doneWith h [] (if s.boot.scheduled.isSome then s else onBoot (fun b => { b with scheduled := some (cause, h.tag) }) s)) s

/-- RESET with KIND 0x01. -/
def cmdResetWarm (h : Hdr) (p : Bytes) (s : State) : State := cmdReset 0x03 h p s

/-- RESET with KIND 0x02. -/
def cmdResetFull (h : Hdr) (p : Bytes) (s : State) : State := cmdReset 0x04 h p s

/-- The scheduled reset begins. -/
def scheduledReset (s : State) : State :=
  match s.boot.scheduled with
  | some c => beginReset c.1 s
  | none => s

/-- 10 ms have passed since the reply of the scheduled reset became pending. -/
def execResetReplyTimeout (s : State) : Answer := .next (scheduledReset s)

/-! ### Beginning, holding and taking effect (R109, R116) -/

/-- RESET_N is low (R430). -/
def execResetPinAssert (s : State) : Answer :=
  let s := { s with pins := { s.pins with resetN := false } }
  if !s.isOn 0 then .next s else .next (onBoot (fun b => { b with pinHold := true }) (beginReset 0x02 s))

/-- RESET_N is high again. -/
def execResetPinRelease (s : State) : Answer :=
  .next (onBoot (fun b => { b with pinHold := false }) { s with pins := { s.pins with resetN := true } })

/-- VIN has stayed above V_BOR plus 100 mV for 10 ms. -/
def execBrownoutRelease (s : State) : Answer := .next (onBoot (fun b => { b with brownoutHold := false }) s)

/-- The Anchor's sensor reads 115 °C or less. -/
def execThermalResetRelease (s : State) : Answer := .next (onBoot (fun b => { b with thermalHold := false }) s)

/-- Every queued Cairn entry is committed and every posted write programmed: the reset takes effect (R116, R407). -/
def execResetTakeEffect (s : State) : Answer :=
  if s.boot.stage != .quiesced || s.nvm.busy != .idle || !s.nvm.posted.isEmpty || !s.nvm.waiting.isEmpty || !s.cairn.queue.isEmpty then .next s
  else .next (takeEffect (s.boot.cause == 0x03) s)

/-! ### Power-on (R64, R112) -/

/-- The Belay states by code. -/
def belayPhases : List BelayPhase := [.disarmed, .armed, .hold, .tripped, .coasting, .stopped, .rearm]

/-- Types of the entries that carry a Belay record. -/
def recordTypes : List Nat := [0x0005, 0x8001, 0x8002, 0x8004]

/-- The circular entries that the NVM holds, the newest journal record's page as the replay will leave it (R408). -/
def circularEntries (s : State) : List Bytes :=
  let last := newestRecord s
  let pages := (s.nvm.pages.map (·.page)).filter fun k => decide (0x1240 ≤ k) && decide (k < 0x1600)
  let page (k : Nat) : Bytes := match last with
    | some x => if x.target == k then x.image else cellsBytes s k
    | none => cellsBytes s k
  let all := match last with
    | some x => if pages.contains x.target || x.target < 0x1240 then pages else x.target :: pages
    | none => pages
  all.flatMap fun k => (List.range 4).map fun i => slice (page k) (64 * i) 64

/-- The last Belay record of the Cairn, where a POWER_LOSS entry holds it: state, cause and asset. The entry never records ARMED or
HOLD (R119), and BELAY_OK is low at power-on (Table 4-6). -/
def lostRecord (s : State) : Option (BelayPhase × Byte × Byte) :=
  let records := (circularEntries s).filter fun b => recordTypes.contains (typeOf b)
  let last := records.foldl (fun (a : Bytes) b => if fld a 0 4 < fld b 0 4 then b else a) []
  if typeOf last == 0x0005 then
    (belayPhases.find? fun x => x != .armed && x != .hold && x.code.toNat == fld last 20 1).map fun x => (x, .ofNat 8 (fld last 21 1), .ofNat 8 (fld last 22 1))
  else none

/-- VIN rises through V_POR; a rise that takes more than 1 ms is a brownout (R429). -/
def execPowerOnReset (slow : Bool) (s : State) : Answer :=
  if s.pwr.state != .off then .next s
  else
    let s := takeEffect false s
    let r := (lostRecord s).getD (.disarmed, 0, 0xFF)
    let off : OutLatch := { level := .notReady, code := 205 }
    .next { s with
      clk := {}, thm := {}, pwr := { vioHOk := s.pwr.vioHOk, vioSOk := s.pwr.vioSOk, va30Ok := s.pwr.va30Ok }
      boot := { s.boot with
        cause := if slow then 0x07 else 0x01, hold := true, holdupOk := false, vholdMv := 0, pinHold := !s.pins.resetN
        brownoutHold := slow, thermalHold := false, trialFailed := none }
      cairn := { s.cairn with marks := [], queue := [] }
      own := { s.own with tap := {} }
      bly := { phase := r.1, cause := r.2.1, asset := r.2.2, latches := Vector.replicate 4 off } }

/-! ### Boot (R98 to R104) -/

/-- Enter a boot phase; the change is a cause of IRQ_N (Table 2-5). -/
def enterPhase (p : BootPhase) (s : State) : State :=
  onBoot (fun b => { b with phase := p }) (s.mapLink fun l => { l with bootChange := true })

/-- AUTH begins: the sequencer enables XO24 for CORECLK (R70). -/
def enterAuth (s : State) : State := enterPhase .auth { s with clk := { s.clk with xo24Try := 1 } }

/-- Read the records that the boot needs from the NVM: the slot selection, the SVN floor, BOOT_COUNT, the erase-pending record,
STORE_GEN, SEAL_CTR committed ahead (R379), the key store and the two slots' headers (R222). -/
def loadRecords (s : State) : State :=
  let sel := readRecord .select s
  let svn := readRecord .svn sel.2
  let count := readRecord .bootCount svn.2
  let flag := readRecord .erase count.2
  let gen := readRecord .storeGen flag.2
  let ahead := readRecord .sealCtr gen.2
  let keys := readRecord .keys ahead.2
  let a := readRecord .slotA keys.2
  let b := readRecord .slotB a.2
  let s := b.2
  let storeGen : Word32 := BitVec.ofNat 32 (fld gen.1 0 4)
  { s with
    boot := { s.boot with
      preferred := BitVec.ofNat 1 (fld sel.1 0 1), svnFloor := BitVec.ofNat 32 (fld svn.1 0 4), bootCount := BitVec.ofNat 32 (fld count.1 0 4)
      erasePending := fld flag.1 0 1 == 1, slots := #v[(s.fw 0).ofBytes a.1, (s.fw 1).ofBytes b.1] }
    own := { s.own with
      storeGen := storeGen, slots := slotsOfStore storeGen keys.1
      sealCtr := if s.boot.cause == 0x03 then s.own.sealCtr else BitVec.ofNat 64 (fld ahead.1 0 8)
      sealAhead := BitVec.ofNat 64 (fld ahead.1 0 8)
      erase := if fld flag.1 0 1 == 1 then
          some { kind := 3, step := 2, target := BitVec.ofNat 32 (fld flag.1 1 4), begun := s.clk.tick }
        else none } }

/-- Phase ERASE_PENDING begins: the steps of the debug-open erase from step 2 on (R104, Table 16-8). -/
def startPendingErase (s : State) : State :=
  match s.own.erase with
  | some e => eraseStore e (forgetModels s)
  | none => s

/-- At the reset's release the straps are sampled (R422), the boot guard starts for a record of ARMED (R113), PD2 and PD3
are requested, the Cairn is replayed (R408), the NVM's records are read and the erase-pending flag is checked. `programs` are
the programs of the replay. -/
def execBootRomStart (straps : BitVec 4) (programs : Vector (Nat × Nat) 4) (s : State) : Answer :=
  if !s.isOn 0 || s.boot.stage != .held || heldInReset s then .next s
  else
    let s := if s.boot.cause == 0x03 then s else { s with pins := { s.pins with straps := straps } }
    let s := { s with pwr := { s.pwr with wake := { s.pwr.wake with ropeWake := isRidge s } } }
    let s := onBoot (fun b => { b with stage := .none, guard := s.bly.phase == .armed }) s
    let s := loadRecords (cairnReplay programs.toList (wantDomain 3 true (wantDomain 2 true s)))
    if s.boot.erasePending then .next (startPendingErase (enterPhase .erasePending s)) else .next (enterAuth s)

/-- The debug-open erase is complete at boot: every step and its Cairn entry are programmed and the flag is clear (R104). A step
whose program fails leaves the device in ERASE_PENDING, for the watchdog to reset (in part DEDUCED, log entry 120). -/
def execErasePendingComplete (s : State) : Answer :=
  if s.boot.phase != .erasePending || s.boot.stage != .none || s.own.erase.isSome || s.boot.erasePending then .next s
  else .next (enterAuth s)

/-- A slot's image may run (R101); `barred` is the slot that a rollback gives up. -/
def slotPasses (s : State) (barred : Option Nat) (k : Nat) : Bool :=
  let x := s.fw k
  barred != some k && (x.state == .valid || x.state == .trial) && x.signed && decide (s.boot.svnFloor.toNat ≤ x.svn.toNat)
    && readable s (fwPages s k)

/-- Mark a slot's state in its header (R101, R102). -/
def markSlot (k : Nat) (st : FwSlotState) (s : State) : State :=
  postRecord (slotRecord k) { s.fw k with state := st }.bytes none true s

/-- A slot is tried, by reading its image: one that fails the signature or the SVN check is marked INVALID. -/
def trySlot (barred : Option Nat) (k : Nat) (s : State) : State × Bool :=
  let x := s.fw k
  let tried := x.state == .valid || x.state == .trial
  let passes := slotPasses s barred k
  let s := if tried && barred != some k then readPages (fwPages s k) s else s
  if passes then (s, true)
  else if tried && barred != some k then (markSlot k .invalid s, false)
  else (s, false)

/-- The rollback of a TRIAL image that a WATCHDOG or EXCEPTION_LIMIT reset stopped before READY: its slot, where there is one
(R102) (in part DEDUCED, log entry 116). -/
def rollBack (s : State) : State × Option Nat :=
  match s.boot.trialFailed with
  | none => (s, none)
  | some (slot, cause) =>
    let k := slot.toNat
    let s := onBoot (fun b => { b with trialFailed := none }) s
    if (s.fw k).state != .trial then (s, none)
    else
      let s := postRecord .select [BitVec.ofNat 8 (1 - k)] none true (markSlot k .invalid s)
      let s := onBoot (fun b => { b with rollback := some (slot, .ofNat 1 (1 - k), cause) }) s
      (cairn 0xD002 (0x0600#16 ||| BitVec.ofNat 16 k) [BitVec.ofNat 8 k, BitVec.ofNat 8 (1 - k), cause] s, some k)

/-- A slot runs: INIT, and the domains of ACTIVE are requested (Table 3-5). -/
def runSlot (k : Nat) (s : State) : State :=
  [3, 7, 8, 9, 10, 12].foldl (fun s n => wantDomain n true s) (enterPhase .init (onBoot (fun b => { b with running := .ofNat 1 k }) s))

/-- Authentication ends: the preferred slot first, or after a rollback the other one, then the other; with neither, FAILED
(R101, R102). -/
def execAuthComplete (s : State) : Answer :=
  if s.boot.phase != .auth || s.boot.stage != .none then .next s
  else
    let r := rollBack s
    let s := r.1
    let k := match r.2 with
      | some k => 1 - k
      | none => s.boot.preferred.toNat
    let a := trySlot r.2 k s
    if a.2 then .next (runSlot k a.1)
    else
      let b := trySlot r.2 (1 - k) a.1
      if b.2 then .next (runSlot (1 - k) b.1)
      else .next (enterPhase .failed (onBoot (fun x => { x with running := .ofNat 1 (1 - k) }) b.1))

/-! ### READY (R100, R102, R112) -/

/-- BOOT_COUNT is incremented and written. -/
def countBoot (s : State) : State :=
  postRecord .bootCount (le 4 (s.boot.bootCount + 1).toNat) none true
    (onBoot (fun b => { b with bootCount := b.bootCount + 1, counted := true }) s)

/-- A TRIAL image that reaches READY is VALID and raises the SVN floor (R102). -/
def confirmTrial (s : State) : State :=
  let k := s.boot.running.toNat
  let x := s.fw k
  if x.state != .trial then s
  else postRecord .svn (le 4 (max s.boot.svnFloor.toNat x.svn.toNat)) none true (markSlot k .valid s)

/-- Payload of the Cairn's BOOT entry. -/
def bootPayload (s : State) : Bytes :=
  let x := s.fw s.boot.running.toNat
  [s.boot.cause, s.boot.running.setWidth 8, x.major, x.minor] ++ le 2 x.patch.toNat ++ [0, 0] ++ le 4 x.svn.toNat ++ le 4 s.own.storeGen.toNat

/-- DEVICE_READY with its RESET_CAUSE. -/
def readyEvent (cause : Byte) (s : State) : State :=
  raise 0x01 true ([cause, s.boot.running.setWidth 8, 0, 0] ++ le 4 s.boot.bootCount.toNat) s

/-- Belay resumes from its record (R112). -/
def resumeBelay (s : State) : State :=
  match s.bly.phase with
  | .hold | .tripped => enterCoasting { s with bly := { s.bly with coasting := some s.clk.tick } }
  | .coasting => { s with bly := { s.bly with coasting := some s.clk.tick, dwell := (coastTach s).isSome && atRest s } }
  | .rearm => enterStopped false s
  | .stopped => { s with bly := { s.bly with slow := atRest s } }
  | _ => s

/-- Sectors with a page whose side area names an unprovisioned slot (R380). -/
def strangeSectors (s : State) : List Nat :=
  ((s.nvm.pages.filter fun i => i.side.any fun x => !(s.ownerSlot x.owner).provisioned).map fun i => i.page - i.page % 16).dedup

/-- After a reset that lost control SRAM every page of MODEL is freed (R253), and every LEARN and MODEL page of an unprovisioned
slot is erased; a head's copy on such pages is current no more (R380). -/
def cleanNvm (s : State) : State :=
  if s.boot.cause == 0x03 then s
  else
    let gone := strangeSectors s
    let s := eraseLater modelSectors s
    let s := (List.range 4).foldl (fun s n =>
      if (s.head n).free && gone.any fun f => decide (pairPage n ≤ f) && decide (f < pairPage n + 768) then
        eraseLater [commitSector n] (onHead n (fun h => { h with areas := Vector.replicate 2 none, current := none }) s)
      else s) s
    eraseLater gone s

/-- The held events are raised, each with the time of its occurrence. -/
def raiseHeld (s : State) : State :=
  let es := s.pwr.heldEvents
  es.foldl (fun s e => raiseAt e.time e.code e.high e.owner e.body s) { s with pwr := { s.pwr with heldEvents := [] } }

/-- A rollback of this boot is told after READY (R102). -/
def tellRollback (s : State) : State :=
  match s.boot.rollback with
  | some r => raise 0xD0 true [r.1.setWidth 8, r.2.1.setWidth 8, r.2.2, 0] s
  | none => s

/-- Entries that the replay did not find are told after READY (R408). -/
def tellReplay (s : State) : State :=
  match s.cairn.replayDue with
  | some q => cairnFault 0x02 q.toNat (onCairn (fun c => { c with replayDue := none }) s)
  | none => s

/-- The Cairn's entry of a boot. -/
def recordBoot (s : State) : State := cairn 0x0002 0 (bootPayload s) s

/-- A Ridge chip that is not detached powers its ports. -/
def wantRope (s : State) : State := if isRidge s && !s.rope.detached then wantDomain 11 true s else s

/-- A removal that CMD_WARM interrupted goes on: the owner's orphans are released again (R388). -/
def resumeRemoval (s : State) : State :=
  match s.own.removal with
  | some r => releaseOrphans r.slot s
  | none => s

/-- The first READY of a boot: BOOT_COUNT, the Cairn boot entry and DEVICE_READY in that order, then what waited for READY
(R100). -/
def firstReady (s : State) : State :=
  let s := recordBoot (confirmTrial (countBoot (onBoot (fun b => { b with guard := false }) s)))
  let s := tellReplay (tellRollback (readyEvent s.boot.cause s))
  lookBelay (carryOn (resumeRemoval (wantRope (cleanNvm (resumeBelay (raiseHeld s))))))

/-- The firmware is ready. -/
def execDeviceReady (s : State) : Answer :=
  if s.boot.phase != .init || s.boot.stage != .none then .next s else .next (firstReady (enterPhase .ready s))

/-- The boot guard ends before READY (R113). -/
def execBootGuardExpiry (s : State) : Answer :=
  if !s.boot.guard then .next s
  else
    let entry : Bytes := [s.boot.phase.code, s.boot.cause]
    let s := onBoot (fun b => { b with guard := false }) s
    let s := setOutputs .deviceFault 82 { s with bly := { s.bly with alarm := true, latched := setBit s.bly.latched 5 true } }
    .next (cairn 0x8004 0 entry (tripRecord 8 0xFF true s))

/-! ### Watchdog and exceptions (R114, R118) -/

/-- The watchdog expires; it is paused in retention and while the firmware restarts. -/
def execWatchdogExpiry (s : State) : Answer :=
  if !s.isOn 1 || s.pwr.retention || s.boot.stage != .none || s.boot.phase == .restarting then .next s
  else .next (beginReset 0x05 (cairn 0x0004 0 [s.boot.phase.code] s))

/-- A control-core exception stops the firmware, in INIT, READY and RESTARTING; the fourth within 60 s is a reset (R118)
(in part DEDUCED, log entry 157). -/
def execControlCoreException (code : Word32) (s : State) : Answer :=
  let runs := s.boot.phase == .init || s.boot.phase == .ready || s.boot.phase == .restarting
  if !runs || s.boot.stage != .none || !s.isOn 1 || s.pwr.retention then .next s
  else
    let recent := s.boot.exceptions.filter fun t => decide (since s t ≤ 60 * 32768)
    let s := cairn 0x0003 0 (le 4 code.toNat ++ le 4 s.boot.restarts.toNat) s
    let s := onBoot (fun b => { b with exceptions := recent ++ [s.clk.tick], exceptionCode := code }) s
    if 3 ≤ recent.length then .next (beginReset 0x09 s) else .next (enterPhase .restarting s)

/-- A command in flight ends with INTERNAL and its commit mark (R39). -/
def endInternal (s : State) (c : Slot) : State :=
  if c.replied then s
  else if c.committed then finish c.tag stInternal [1] s
  else stopCommand c.tag stInternal [0] s

/-- The restarted firmware is ready, once the posted writes are complete (R39, R118); one that stopped before its first READY
does what READY does (R100) (in part DEDUCED, log entry 125). -/
def execFirmwareRestartDone (s : State) : Answer :=
  if s.boot.phase != .restarting || s.boot.stage != .none || !s.nvm.posted.isEmpty || !s.nvm.waiting.isEmpty then .next s
  else
    let first := !s.boot.counted
    let s := onBoot (fun b => { b with restarts := satInc b.restarts }) (enterPhase .ready s)
    let s := s.link.slots.foldl endInternal s
    let s := raise 0x04 true (le 4 s.boot.exceptionCode.toNat ++ le 4 s.boot.restarts.toNat) s
    if first then .next (firstReady s) else .next (lookBelay (carryOn (readyEvent 0x00 s)))

/-! ### Holdup (R105) -/

/-- Raise an event at once, or hold it while the device sleeps or has not reached READY. -/
def raiseAwake (code : Byte) (body : Bytes) (s : State) : State :=
  if s.boot.counted && !s.pwr.retention then raise code true body s
  else
    { s with pwr := { s.pwr with heldEvents := s.pwr.heldEvents ++ [{ code := code, high := true, time := now s, body := body }] } }

/-- VHOLD crosses a threshold of HOLDUP_OK. -/
def execVholdThreshold (mv : BitVec 16) (s : State) : Answer :=
  if !s.isOn 0 then .next s
  else
    let ok := if 4500 ≤ mv.toNat then true else if mv.toNat < 4300 then false else s.boot.holdupOk
    let change := ok != s.boot.holdupOk
    let s := onBoot (fun b => { b with holdupOk := ok, vholdMv := mv, hold := b.hold && !ok }) s
    if change && s.boot.counted then .next (raiseAwake 0xD1 ([BitVec.ofNat 8 (b2n ok), 0] ++ le 2 mv.toNat) s) else .next s

/-- 1000 ms after READY the hold ends. -/
def execHoldupHoldEnd (s : State) : Answer := if s.boot.counted then .next (onBoot (fun b => { b with hold := false }) s) else .next s

/-! ### Brownout and power loss (R119, R120, R12) -/

/-- The program in progress ends from VHOLD, or is cut where VHOLD sustains none; the programs left, and whether it
ended and whether it was cut. An erase in progress stops. -/
def holdupProgram (ps : List (Nat × Nat)) (s : State) : State × List (Nat × Nat) × Bool × Bool :=
  match s.nvm.busy, s.nvm.posted with
  | .posted, o :: _ =>
    if o.erase then (endOp s, ps, false, false)
    else
      match ps with
      | [] =>
        let s := tearPage o.page (imageOf s o) (endOp s)
        (match o.job with
          | .headPage n => onHead n (fun h => { h with areas := wr h.areas h.area none }) s
          | .recordCopy k copy _ => copyTorn k copy s
          | _ => s, [], false, true)
      | p :: ps => (programEnds p.1 p.2 s, ps, true, false)
  | _, _ => (s, ps, false, false)

/-- Payload of the POWER_LOSS entry (Table 17-4). -/
def lossPayload (s : State) (done : Bool) : Bytes :=
  [s.bly.phase.code, s.bly.cause, s.bly.asset, BitVec.ofNat 8 (min 255 s.cairn.queue.length)] ++ le 2 s.bly.latched.toNat
    ++ [BitVec.ofNat 8 (b2n done), BitVec.ofNat 8 (min 255 (postedPrograms s.nvm.posted))]

/-- VIN falls below V_BOR. `ps` are the programs that VHOLD sustains, each by the pages that do not verify and its duration:
the one in progress, the commit in progress, and the POWER_LOSS entry, in that order (R120)
(in part DEDUCED, log entry 119). -/
def brownOut (ps : List (Nat × Nat)) (s : State) : State :=
  let cause := if s.boot.stage != .none then s.boot.cause else 0x07
  let s := belayReset 0x07 (onBoot (fun b => { b with stage := .quiesced }) s)
  let a := holdupProgram ps s
  let b := if s.nvm.busy == .cairn then commitNext a.2.1 { a.1 with nvm := { a.1.nvm with busy := .idle } } else (a.1, a.2.1)
  let e : CairnEntry := { type := 0x0005, source := 0, time := now s, bootCount := bootOf s, payload := lossPayload b.1 a.2.2.1 }
  let s := if a.2.2.2 || b.2.isEmpty then b.1 else (commitEntry e b.2 b.1).1
  let s := takeEffect false s
  onBoot (fun x => { x with cause := cause, brownoutHold := true, hold := !x.holdupOk }) s

/-- A brownout. -/
def execBrownoutDetect (programs : List (Nat × Nat)) (s : State) : Answer :=
  if !s.isOn 0 || s.boot.brownoutHold then .next s else .next (brownOut programs s)

/-- VIN is below V_POR and VHOLD is exhausted: OFF, with every output low (R12). -/
def execPowerOff (s : State) : Answer :=
  if s.pwr.state == .off then .next s
  else
    let s := if s.boot.brownoutHold then s else brownOut [] s
    let s := { s with
      pwr := { s.pwr with state := .off, on := 0, requests := [], vcoreBuck := false }
      cairn := { s.cairn with queue := [] } }
    .next { s with bly := { s.bly with latches := Vector.replicate 4 {}, alarm := false } }

/-! ### The meanings -/

def execResetWarm (h : Hdr) (p : Bytes) (s : State) : Answer := .next (cmdResetWarm h p s)
def execResetFull (h : Hdr) (p : Bytes) (s : State) : Answer := .next (cmdResetFull h p s)

end Sys2Proof.Machine
end

