-- ==== Sys2Proof/Machine/Anchor.lean ====
section
/-! DEFINITION. The Anchor at work: clock sources, rails, the power sequencer, sleep and wake, and the thermal governor
(chapter 03). -/

namespace Sys2Proof.Machine

/-- Change the clocks. -/
def onClk (f : ClockState → ClockState) (s : State) : State := { s with clk := f s.clk }

/-- Change the power block. -/
def onPwr (f : PowerBlock → PowerBlock) (s : State) : State := { s with pwr := f s.pwr }

/-- The device sleeps, and no wake has begun. -/
def asleep (s : State) : Bool := s.pwr.state == .watch || s.pwr.state == .bivouac

/-! ### XO32 and LPRC (R68, R69, R452) -/

/-- CLOCK_FAULT (Table 3-20): at once, or at READY or the next wake. -/
def clockFault (kind pll : Byte) (s : State) : State := raiseAwake 0x13 [kind, pll, 0, 0] s

/-- The Cairn's entry of a clock fault. -/
def clockEntry (kind pll : Byte) (s : State) : State := cairn 0x1001 0 [kind, pll] s

/-- An interval of 32 768 LPRC periods ends with a count of XO32 edges: from 31 458 to 34 078 XO32 qualifies, and the tick
counter moves to it. The first move of a power-up is no fallback (R69). -/
def execXo32QualifyInterval (edges : Nat) (s : State) : Answer :=
  if !s.isOn 0 || s.clk.xo32Ok || !s.clk.xo32Running || edges < 31458 || 34078 < edges then .next s
  else
    let first := s.clk.xo32First
    let s := onClk (fun c => { c with xo32Ok := true, onLprc := false, xo32Retrying := false, xo32First := false }) s
    .next (if first then s else clockFault 0x02 0 s)

/-- The tick counter falls back to LPRC, or XO32 is declared absent. -/
def loseXo32 (s : State) : State :=
  clockEntry 0x01 0 (clockFault 0x01 0 (onClk (fun c => { c with
    xo32Ok := false, xo32Running := false, xo32Retrying := true, onLprc := true, xo32First := false
    lprcFallbacks := satInc c.lprcFallbacks }) s))

/-- No XO32 edge for 8 LPRC periods while the tick counter runs on XO32. -/
def execXo32EdgeLoss (s : State) : Answer := if !s.isOn 0 || s.clk.onLprc then .next s else .next (loseXo32 s)

/-- On LPRC, XO32 is tried again every 60 s. -/
def execXo32Retry (s : State) : Answer :=
  if !s.isOn 0 || !s.clk.xo32Retrying then .next s else .next (onClk (fun c => { c with xo32Running := true }) s)

/-- XO32 has not qualified 3 s after PD0 powered up. -/
def execXo32Absent (s : State) : Answer :=
  if !s.isOn 0 || !s.clk.xo32First || s.clk.xo32Ok then .next s else .next (loseXo32 s)

/-! ### XO24 and the PLLs (R70 to R72, R458) -/

/-- The tick counter's edge, from which the cycles of XO24 are counted (R64, R65). -/
def tickEdge (s : State) : State :=
  onClk (fun c => { c with tick := c.tick + 1, cycles := 0, counting := c.xo24On }) s

/-- A bank group holds no allocation. -/
def bankEmpty (s : State) (b : Nat) : Bool :=
  s.mdl.frames.all (·.bank != b) && s.mdl.features.all (·.bank != b) && s.mdl.jobs.all (·.bank != b)
    && s.mdl.slots.toList.all (·.actGroup != some b)

/-- Domains of ACTIVE, those of configured inputs and banks included (Table 3-5). -/
def activeDomains (s : State) : List Nat :=
  let input := s.stm.tachs.toList.any (·.phase != .disabled) || s.stm.encoder.phase != .disabled
    || s.stm.ports.toList.any (·.mode != .disabled)
  let bank (b : Nat) : Bool := (List.range 32).any fun n => n / 16 == b && (s.strm n).engaged
  [2, 3, 7, 8, 9, 10, 12] ++ (if bank 0 then [4] else []) ++ (if bank 1 then [5] else []) ++ (if input then [6] else [])
    ++ if isRidge s && !s.rope.detached then [11] else []

/-- Ask for the domains of ACTIVE; TRIP keeps PD9 off (R93). -/
def wantActive (s : State) : State :=
  ((activeDomains s).filter fun n => !(n == 9 && thermalState s == .trip)).foldl (fun s n => wantDomain n true s) s

/-- Steps 4 and 5 of a wake (R89): the heads saved at entry are loaded, and the suspended streams resume. -/
def resumeWork (s : State) : State :=
  let s := (List.range 4).foldl (fun s n =>
    let h := s.head n
    if h.user.isSome && !h.loaded && !pairBusy s n then startLoad n .wake none s else s) s
  resumeStreams s

/-- A clock that had failed has returned: the domains that the power state and the work require are powered, and what waited
for them resumes (R70, R89). -/
def clockBack (s : State) : State :=
  if s.boot.phase != .ready || asleep s then s
  else
    let s := wantActive s
    lookBelay (if s.pwr.waking.isNone && s.pwr.entry.isNone then resumeWork s else s)

/-- XO24 qualifies `us` after its enable: XO24_FAIL clears, the PLLs start, and the domains that were waiting are powered
(R70, R458). -/
def execXo24Qualified (us : Nat) (s : State) : Answer :=
  if s.clk.xo24Try == 0 || s.clk.xo24On then .next s
  else
    .next (clockBack (onClk (fun c => { c with
      xo24On := true, xo24Try := 0, xo24Fail := false, counting := false, cycles := 0, xo24StartLast := satAdd 0 us
      xo24StartMax := if c.xo24StartMax.toNat < us then satAdd 0 us else c.xo24StartMax }) s))

/-- Every domain whose clock has failed goes off, but for one that holds activations or an unsaved head (R70, R90)
(in part DEDUCED, log entry 124). -/
def clockLost (s : State) : State :=
  let held (n : Nat) : Bool :=
    if n == 10 then s.lrn.heads.toList.any (·.changed)
    else decide (12 ≤ n) && decide (n < 16) && !bankEmpty s (n - 12)
  (((List.range 24).filter fun n => s.isOn n && clockDown s n && !held n)).foldl (fun s n => wantDomain n false s) s

/-- XO24 has not qualified in time: a second try, then XO24_FAIL (R70). A later try that fails raises nothing again
(in part DESIGN CHOICE, log entry 161). -/
def execXo24QualifyTimeout (s : State) : Answer :=
  if s.clk.xo24On || s.clk.xo24Try == 0 then .next s
  else if s.clk.xo24Try == 1 then .next (onClk (fun c => { c with xo24Try := 2 }) s)
  else
    let failed := s.clk.xo24Fail
    let s := onClk (fun c => { c with xo24Try := 0, xo24Fail := true }) s
    if failed then .next s else .next (lookBelay (clockLost (clockEntry 0x03 0 (clockFault 0x03 0 s))))

/-- XO24 is tried again after XO24_FAIL. -/
def execXo24Retry (s : State) : Answer :=
  if !s.clk.xo24Fail || s.clk.xo24Try != 0 || asleep s then .next s else .next (onClk (fun c => { c with xo24Try := 1 }) s)

/-- Every job whose engines lose CORECLK is abandoned (R72, R263) (in part DEDUCED, log entry 101). -/
def haltCompute (s : State) : State := carryOn (abandonJobs (fun j => !j.running.isEmpty) 3 false s)

/-- A qualified XO24 stops: every block clocked by a PLL stops, and the two tries of R70 begin (R458). -/
def execXo24Stopped (s : State) : Answer :=
  if !s.clk.xo24On then .next s
  else
    let s := onClk (fun c => { c with xo24On := false, counting := false, cycles := 0, lock := Vector.replicate 3 false, xo24Try := 1, frcOn := true }) s
    let s := haltCompute (clockEntry 0x06 0 (clockFault 0x06 0 s))
    .next (if s.isOn 11 then portLost 1 (portLost 0 s) else s)

/-- A PLL locks: 0 PLL_C, 1 PLL_A, 2 PLL_L. One that had failed serves its domains again. -/
def execPllLocked (pll : BitVec 2) (s : State) : Answer :=
  if !s.clk.xo24On || pll == 3 then .next s
  else
    let failed := rd s.clk.pllFailed pll.toNat
    let s := onClk (fun c => { c with lock := wr c.lock pll.toNat true, pllFailed := wr c.pllFailed pll.toNat false }) s
    .next (if failed then clockBack s else s)

/-- A PLL loses lock while in use: the blocks it clocks stop, and it relocks; after three losses within 10 s it has failed, as
XO24_FAIL states it (R72). -/
def execPllLockLoss (pll : BitVec 2) (s : State) : Answer :=
  let k := pll.toNat
  if !rd s.clk.lock k then .next s
  else
    let recent := (rd s.clk.losses k).filter fun t => decide (since s t < 10 * 32768)
    let name := BitVec.ofNat 8 (k + 1)
    let s := onClk (fun c => { c with lock := wr c.lock k false, losses := wr c.losses k (recent ++ [s.clk.tick]) }) s
    let s := clockFault 0x04 name s
    let s := if k == 0 then haltCompute (onClk (fun c => { c with frcOn := true }) s) else s
    let s := if k == 2 && s.isOn 11 then portLost 1 (portLost 0 s) else s
    if recent.length < 2 then .next s
    else
      .next (lookBelay (clockLost (clockEntry 0x05 name (clockFault 0x05 name
        (onClk (fun c => { c with pllFailed := wr c.pllFailed k true }) s)))))

/-! ### The power sequencer (R73 to R76) -/

/-- An ACT domain is on. -/
def actOn (s : State) : Bool := [12, 13, 14, 15].any s.isOn

/-- Every domain and clock that a domain requires is ready (Table 3-3); in WATCH the fabric and the front end run on FRC. -/
def domainReady (s : State) (n : Nat) : Bool :=
  let clocks := if s.pwr.state == .watch then s.clk.frcOn else (clocksOf n).all fun k => rd s.clk.lock k
  let needs := if n < 4 || n == 7 || n == 10 || (12 ≤ n && n < 16) then s.isOn 1
    else if n == 9 || 16 ≤ n then actOn s
    else s.isOn 7
  needs && (n < 4 || n == 6 || clocks)

/-- No domain that is on requires the domain any more. -/
def domainFree (s : State) (n : Nat) : Bool :=
  let others := [12, 13, 14, 15].any fun k => k != n && s.isOn k
  if n == 7 then !([4, 5, 6, 8, 11].any s.isOn)
  else if 12 ≤ n && n < 16 then others || !(s.isOn 9 || (List.range 8).any fun k => s.isOn (16 + k))
  else true

/-- The first request that can be granted now. -/
def nextRequest (s : State) : Option (Nat × Bool) :=
  s.pwr.requests.find? fun r => if r.2 then domainReady s r.1 && (s.boot.stage == .none || r.1 == 3) else domainFree s r.1

/-- Band that contains a reading in quarter degrees (R207). -/
def bandOf (q : Int) : Nat := (clamp 0 15 ((q + 160) / 40)).toNat

/-- A core is powered up: its first reading selects the band and may make a recalibration due (R207, R315). -/
def powerCore (n : Nat) (q : Int) (s : State) : State :=
  onCore n (fun c => { c with
    reading := some q, bandSel := bandOf q, recalFirst := c.recalFirst || c.bandCal.isNone || decide (20 ≤ (q - c.tjCal).natAbs) }) s

/-- In Summit exactly while a CIM domain is on, and the VCIM buck with it (R75, R79). -/
def followCim (s : State) : State :=
  let any := (List.range 8).any fun k => s.isOn (16 + k)
  onPwr (fun p => { p with
    vcimBuck := any, state := if p.state == .active || p.state == .summit then (if any then .summit else .active) else p.state }) s

/-- A bank goes off: its channels' state is lost, their configuration and records are not (Table 3-3). DEDUCED: the
status bits of the records and of the pairs, 5, 6 and 9, stay (log entry 162). -/
def bankOff (b : Nat) (s : State) : State :=
  { s with afe := { s.afe with channels := (List.range 32).foldl (fun v k =>
      if k / 16 == b then upd v k (fun c => { c with mPrev := none, status := c.status &&& 0x0260, burst := {} }) else v) s.afe.channels } }

/-- PD7 goes off: the sample buffer is lost, with the frames open in it (Table 3-3). -/
def fabricOff (s : State) : State :=
  (List.range 96).foldl (fun s n => onStream n (fun x => { x with held := [], fifo := [] }) (discardFrame n s)) s

/-- PD6 goes off: port, tach and encoder logic is lost, the configuration is not; an ACTIVE input becomes IDLE, and a LOST port
stays LOST (Table 3-3, R156, R158, R184). -/
def inputsOff (s : State) : State :=
  let s := (List.range 4).foldl (fun s i => if (rd s.stm.tachs i).phase == .active then tachPhase i .idle s else s) s
  let s := if s.stm.encoder.phase == .active then encPhase .idle s else s
  let s := { s with stm := { s.stm with
    ports := s.stm.ports.map fun x => { x with good := 0, poll := none }
    tachs := s.stm.tachs.map fun x => { word := x.word, phase := x.phase }
    encoder := { word := s.stm.encoder.word, phase := s.stm.encoder.phase } } }
  onBelt (fun b => { b with state := b.state.afterOff, encLost := false, log := [], residue := 0 }) s

/-- What a domain loses as it goes off (Table 3-3). -/
def domainLost (n : Nat) (s : State) : State :=
  if n == 4 || n == 5 then bankOff (n - 4) s
  else if n == 6 then followCoast (inputsOff s)
  else if n == 7 then fabricOff s
  else if n == 9 then onRm (fun b => { b with staging := [] }) s
  else if n == 10 then { s with lrn := { s.lrn with heads := s.lrn.heads.map fun h => { h with loaded := false } } }
  else if n == 11 then ropeUnpowered s
  else if 12 ≤ n && n < 16 then
    onRm (fun b => { b with frames := b.frames.map fun f => if f.bank + 12 == n then { f with held := false } else f
                            features := b.features.filter fun q => q.bank + 12 != n }) s
  else if 16 ≤ n then
    let s := followCim s
    if (s.core (n - 16)).fencing.isSome then postFence (n - 16) s else s
  else s

/-- What a domain begins as it comes on. VA30's source is decided at the first request for PD4 or PD5 (R76). -/
def domainGained (n va30 : Nat) (q : Int) (s : State) : State :=
  if n == 4 || n == 5 then
    if s.pwr.va30Source == .undecided then onPwr (fun p => { p with va30Source := if 2850 ≤ va30 then .external else .internal }) s else s
  else if n == 11 then ropePowered s
  else if 16 ≤ n then followCim (powerCore (n - 16) q s)
  else s

/-- A domain's switch is a bubble while PD7 is on (Table 6-2). -/
def switchBubbles (n : Nat) : Bool := n == 3 || decide (8 ≤ n)

/-- A switch completes after `us` microseconds, once the bubble that it is may be (R74, R161). `va30` is VA30 in millivolts and `milli` the core's first reading in
thousandths of a degree, where the domain has them. -/
def execDomainSwitchDone (us va30 : Nat) (milli : Int) (s : State) : Answer :=
  match nextRequest s with
  | none => .next s
  | some (n, v) =>
    if switchBubbles n && s.isOn n != v && !mayBubble s then .next s else
    let s := onPwr (fun p => { p with requests := p.requests.erase (n, v) }) s
    if s.isOn n == v then .next s
    else
      let s := setDomain n v s
      let s := if switchBubbles n then countBubble us s else s
      .next (if v then domainGained n va30 (roundDiv (4 * milli) 1000) s else domainLost n s)

/-- A started model has a layer that the stream engine runs. -/
def streamedStarted (s : State) : Bool :=
  s.mdl.slots.toList.any fun x => x.phase.runs && x.placement.layers.any fun l => match l.place with
    | .staged | .fromNvm | .circulated => true
    | _ => false

/-- PD6 is used by a sensor-port stream that runs, or by an input that a running stream or Belay uses; while Belay holds, is
tripped or coasts it does not go off (R20). -/
def inputsUsed (s : State) : Bool :=
  (List.range 96).any (fun n => (s.strm n).engaged && (!isAnalog n || (s.strm n).byRevs || orderRef s n != 0
    || !(rd s.feat.streams n).machineCfg.isEmpty)) || (s.bly.phase != .disarmed && (coastTach s).isSome) || belayHolds s

/-- A domain may be switched off (Table 3-9). -/
def mayRelease (s : State) (n : Nat) : Bool :=
  if n == 3 then
    s.nvm.busy == .idle && s.nvm.posted.isEmpty && s.nvm.waiting.isEmpty && s.nvm.background.isEmpty && s.cairn.queue.isEmpty
  else if n == 4 || n == 5 then (busyChannels s).all (· / 16 != n - 4)
  else if n == 6 then !inputsUsed s
  else if n == 9 then !streamedStarted s && s.mdl.jobs.all fun j => !j.onCompute
  else if 12 ≤ n && n < 16 then bankEmpty s (n - 12) && domainFree s n
  else if 16 ≤ n then coreIdle s (n - 16)
  else false

/-- A domain's idle time has passed (R90). -/
def execDomainIdleRelease (domain : BitVec 5) (s : State) : Answer :=
  let n := domain.toNat
  if s.isOn n && n < 24 && mayRelease s n && s.boot.stage == .none then .next (wantDomain n false s) else .next s

/-- VA30 leaves or regains regulation (R76). -/
def execVa30OutOfRegulation (out : Bool) (s : State) : Answer :=
  if !out then .next (onPwr (fun p => { p with va30Ok := true }) s)
  else if !(s.isOn 4 || s.isOn 5) || !s.pwr.va30Ok then .next s
  else .next (raise 0x15 true [1, 0, 0, 0] (onPwr (fun p => { p with va30Ok := false }) s))

/-- VIO_H, or with `sensor` VIO_S, enters or leaves its range (R77). -/
def execIoRailRangeChange (sensor inRange : Bool) (s : State) : Answer :=
  .next (onPwr (fun p => if sensor then { p with vioSOk := inRange } else { p with vioHOk := inRange }) s)

/-- On wake the VCORE buck reaches regulation; XO24 is enabled (R75, R89). -/
def execVcoreBuckInRegulation (s : State) : Answer :=
  if s.pwr.waking.isNone || s.pwr.vcoreBuck then .next s
  else .next (onClk (fun c => { c with xo24Try := 1 }) (onPwr (fun p => { p with vcoreBuck := true }) s))

/-! ### Entering sleep (R80 to R84) -/

/-- POWER_STATE_SET: a sleep request that commits when its DONE becomes pending. -/
def cmdSleep (target : PowerState) (h : Hdr) (p : Bytes) (s : State) : State :=
  serve { opcode := 0x11, rights := fun _ _ => .site, length := (· == 4), reserved := fun p => fld p 0 4 / 512 == 0 } h p
    (fun s =>
      let others := s.link.slots.any (fun c => c.tag != h.tag) || repliesPending s != 0 || !s.link.relayed.isEmpty
      refuseIf h.tag [(belayHolds s, stState), (others || ridgeRuns s, stBusy)]
        (fun s =>
          let e : SleepEntry := { target := target, discard := bit (fld p 1 1) 0, automatic := false, tag := some h.tag }
          doneWith h [] ((onPwr (fun p => { p with entry := some e }) s).mapLink fun l => { l with closed := true })) s) s

/-- POWER_STATE_SET with TARGET BIVOUAC. -/
def cmdPowerStateSetBivouac (h : Hdr) (p : Bytes) (s : State) : State := cmdSleep .bivouac h p s

/-- POWER_STATE_SET with TARGET WATCH. -/
def cmdPowerStateSetWatch (h : Hdr) (p : Bytes) (s : State) : State := cmdSleep .watch h p s

/-- Steps 1 and 2: running streams are suspended, and with DISCARD_FRAMES the frames of the
inference queue are discarded; those of the feature queue are handled as unbound (R256, R264). -/
def beginSleep (e : SleepEntry) (s : State) : State :=
  let s := onPwr (fun p => { p with entry := some { e with begun := true } }) s
  let s := (List.range 96).foldl (fun s n =>
    if (s.strm n).phase == .running then onStream n (fun x => { x with phase := .suspended }) (discardFrame n s) else s) s
  if !e.discard then s
  else (List.range 8).foldl (fun s m => discardFrames m s) s

/-- Sleep entry begins: the host has pulled the DONE of POWER_STATE_SET, or 10 ms have passed. -/
def execSleepEntryStart (s : State) : Answer :=
  match s.pwr.entry with
  | some e => if e.begun then .next s else .next (beginSleep e s)
  | none => .next s

/-- The device is idle (R84) (in part DEDUCED, log entry 123). -/
def deviceIdle (s : State) : Bool :=
  s.link.slots.isEmpty && repliesPending s == 0 && s.link.relayed.isEmpty && s.stm.streams.toList.all (fun x => !x.engaged)
    && s.mdl.features.isEmpty && s.mdl.frames.isEmpty && s.mdl.jobs.isEmpty && s.nvm.posted.isEmpty && s.nvm.waiting.isEmpty
    && !belayHolds s && !ridgeRuns s

/-- The device has been idle for IDLE_DWELL: automatic entry begins. -/
def execAutoSleepDwellExpiry (s : State) : Answer :=
  let awake := (s.pwr.state == .active || s.pwr.state == .summit) && s.pwr.waking.isNone && s.boot.phase == .ready
  if !awake || s.pwr.entry.isSome || !deviceIdle s then .next s
  else
    match s.pwr.policy.autoState.toNat with
    | 1 => .next (beginSleep { target := .watch, discard := false, automatic := true, tag := none } s)
    | 2 => .next (beginSleep { target := .bivouac, discard := false, automatic := true, tag := none } s)
    | _ => .next s

/-- Begin the saves of step 3, once no step of any head waits; the flag says that some save is still to do. -/
def saveAtSleep (s : State) : State × Bool :=
  if s.lrn.heads.toList.any fun h => h.user.isSome && h.loaded && !h.ops.isEmpty then (s, true)
  else
    let s := (List.range 4).foldl (fun s n =>
      let h := s.head n
      if h.user.isSome && h.changed && h.loaded && !pairBusy s n then startSave n .sleep none s else s) s
    (s, (List.range 4).any (pairBusy s))

/-- Domains that are on in a sleep state (Table 3-5): in WATCH those of the watch channels whose bank is enabled (R87). -/
def sleepDomains (target : PowerState) (s : State) : List Nat :=
  if target != .watch then [0, 1]
  else
    let bank (b : Nat) : Bool := s.afe.banks.getLsbD b && s.pwr.wake.entries.any fun e => e.channel.toNat / 16 == b
    [0, 1, 7] ++ (if bank 0 then [4] else []) ++ if bank 1 then [5] else []

/-- Step 6 in BIVOUAC: pending events are discarded and counted, sessions end, without an event and without SESSION_END in
IRQ_CAUSE (in part DESIGN CHOICE, log entry 159), and the VCORE buck stops. -/
def enterBivouac (s : State) : State :=
  let n := s.link.events
  let s := s.mapLink fun l =>
    let l := { l with out := [], sessions := Vector.replicate 4 {} : LinkState }
    if n == 0 then l else l.drop n
  onPwr (fun p => { p with vcoreBuck := false, bivouacLoss := n != 0 }) (onClk (fun c => { c with frcOn := false }) s)

/-- Steps 5 and 6: the domains go off, each in `us` microseconds, PD1 enters retention and the device sleeps. -/
def goToSleep (e : SleepEntry) (us : Nat) (s : State) : State :=
  let s := sendSleep s
  let off := ([23, 22, 21, 20, 19, 18, 17, 16, 11, 10, 9, 8, 15, 14, 13, 12, 6, 5, 4, 3, 7, 2].filter fun n =>
    s.isOn n && !(sleepDomains e.target s).contains n)
  let s := off.foldl (fun s n =>
    let s := setDomain n false s
    domainLost n (if switchBubbles n then countBubble us s else s)) s
  let s := s.mapLink fun l => { l with
    out := l.out.filter Outbound.isEvent, slots := [], relayed := [], rxHeld := 0, driven := [], closed := false }
  let s := onClk (fun c => { c with xo24On := false, counting := false, cycles := 0, xo24Try := 0, lock := Vector.replicate 3 false, frcOn := true }) s
  let s := onPwr (fun p => { p with
    state := e.target, retention := true, wakeDue := none
    requests := ((sleepDomains e.target s).filter fun n => !s.isOn n).map fun n => (n, true), vcimBuck := false, entry := none, lastSleep := e.target, sleptAt := s.clk.tick
    watching := p.wake, watchRuns := p.wake.entries.map fun _ => 0 }) s
  if e.target == .bivouac then enterBivouac s else s

/-- A command is in flight, or a reply or reject notice waits: the device does not sleep, but for the DONE of the command that
asked for it (R57, R80). -/
def linkWaits (s : State) (e : SleepEntry) : Bool :=
  e.automatic && (!s.link.slots.isEmpty || repliesPending s != 0 || !s.link.relayed.isEmpty)

/-- Queues have drained, heads are saved and posted writes are complete: the device sleeps (R57, R81). -/
def execSleepEntryComplete (us : Nat) (s : State) : Answer :=
  match s.pwr.entry with
  | none => .next s
  | some e =>
    if !e.begun || linkWaits s e || !s.mdl.features.isEmpty || !s.mdl.frames.isEmpty || !s.mdl.jobs.isEmpty then .next s
    else
      let r := saveAtSleep s
      let s := r.1
      if r.2 || !s.nvm.posted.isEmpty || !s.nvm.waiting.isEmpty || !s.cairn.queue.isEmpty || s.nvm.busy == .posted || s.nvm.busy == .cairn then .next s
      else .next (goToSleep e us { s with nvm := { s.nvm with busy := .idle } })

/-! ### Waking (R85 to R89) -/

/-- A wake starts: PD1 leaves retention on FRC, the VCORE buck and XO24 start, and the domains of ACTIVE are requested. The
Anchor's Cairn entries enter the queue (R404) (in part DEDUCED, log entry 121). -/
def startWake (source : WakeSource) (channel : Byte) (s : State) : State :=
  let w : Waking := { from' := s.pwr.state, source := source, channel := channel, time := now s }
  let thr (t : Threshold) : Threshold := { t with run := 0 }
  let s := { s with
    cairn := { s.cairn with queue := s.cairn.queue ++ s.cairn.anchor, anchor := [] }
    thm := { s.thm with warn := thr s.thm.warn, throttle := thr s.thm.throttle, trip := thr s.thm.trip }
    lrn := { s.lrn with cores := s.lrn.cores.map fun c => { c with quickDue := true } } }
  let s := onPwr (fun p => { p with state := .active, retention := false, waking := some w, wakeDue := none, requests := [] }) s
  let s := onClk (fun c => { c with frcOn := true, xo24Try := if s.pwr.vcoreBuck then 1 else 0 }) s
  wantActive s

/-- A wake source fires: it wakes a sleeping device, and abandons a sleep entry (R82, R86). -/
def wakeSource (source : WakeSource) (channel : Byte) (s : State) : State :=
  if asleep s then startWake source channel s
  else if s.pwr.entry.isSome then abandonSleep 0x02 s
  else s

/-- WAKE_N, a pin of VIO_H, reads low at a tick edge (R77, R86). -/
def execWakeNLow (s : State) : Answer := if !s.isOn 0 || !s.pwr.vioHOk then .next s else .next (wakeSource .wakeN 0xFF s)

/-- The tick counter equals the alarm value (R97) (in part DEDUCED, log entry 122). -/
def execTickAlarmFire (s : State) : Answer :=
  let a := s.pwr.alarm
  if !s.isOn 0 || !a.enabled || a.value != s.clk.tick then .next s
  else
    let next : TickAlarm := if a.period == 0 then {} else { a with value := a.value + a.period.setWidth 48 }
    let s := onPwr (fun p => { p with alarm := next }) s
    let body := le 8 a.value.toNat
    let s := if s.pwr.retention then
        onPwr (fun p => { p with heldEvents := p.heldEvents ++ [{ code := 0x14, high := false, time := now s, body := body }] }) s
      else raise 0x14 false body s
    .next (wakeSource .tickAlarm 0xFF s)

/-- AC RMS of a block is at least a threshold: N x sum of squares - square of the sum, against (N x threshold) squared. -/
def rmsReaches (xs : List Int) (t : Nat) : Bool :=
  let n : Int := xs.length
  decide (((n * t) * (n * t) : Int) ≤ n * (xs.map fun x => x * x).sum - xs.sum * xs.sum)

/-- A tick edge passes, at which the wake of a watch channel that has fired starts (R87). -/
def passEdge (s : State) : State :=
  let s := tickEdge s
  match s.pwr.wakeDue with
  | some c => wakeSource .threshold (c.setWidth 8) s
  | none => s

/-- A block of samples of a watch channel ends; the channel fires when the run of COUNT blocks is complete, and the wake starts
at the next tick edge (R87). -/
def execWatchThresholdFire (channel : BitVec 5) (samples : List Int) (s : State) : Answer :=
  let c := s.pwr.watching
  let i := c.entries.findIdx (·.channel == channel)
  match c.entries[i]? with
  | none => .next s
  | some e =>
    if s.pwr.state != .watch || s.pwr.wakeDue.isSome || samples.length != c.block || !works s 7 || !bankLive s (channel.toNat / 16) then .next s
    else
      let run := if rmsReaches samples e.thresh.toNat then s.pwr.watchRuns.getD i 0 + 1 else 0
      let s := onPwr (fun p => { p with watchRuns := p.watchRuns.set i run }) s
      .next (if run < e.count then s else onPwr (fun p => { p with wakeDue := some channel }) s)

/-- Activity of 10 us or more on a Rope receive lane (R88). -/
def execRopeSquelchWake (s : State) : Answer :=
  let on := if asleep s then s.pwr.watching.ropeWake else s.pwr.wake.ropeWake
  if isRidge s && on then .next (wakeSource .rope 0xFF s) else .next s

/-- A live session's idle time ran out in sleep: it ends with REASON 0x01 (R83). -/
def endIdleSessions (s : State) : State :=
  (List.range 4).foldl (fun s k =>
    let x := rd s.link.sessions k
    if x.phase == .live && inFlight s x.id == 0 && x.timeout * 32768 ≤ since s x.since then endSession k 0x01 s else s) s

/-- Every domain that can be powered is on: heads and streams resume, and WOKE is raised with the events held in sleep. -/
def execWakeComplete (s : State) : Answer :=
  match s.pwr.waking with
  | none => .next s
  | some w =>
    let waits := s.pwr.requests.any fun r => r.2 && [2, 3, 7, 8, 9, 10, 12].contains r.1 && !clockDown s r.1
    if waits then .next s
    else
      let s := if pllDown s then s else resumeWork s
      let asleepFor := ((BitVec.ofNat 48 (w.time.toNat / 65536)) - s.pwr.sleptAt).toNat / 32768
      let s := onPwr (fun p => { p with waking := none, lastWake := some w.source, wakes := satInc p.wakes }) s
      let s := raiseAt w.time 0x10 true none ([w.from'.code, w.source.code, w.channel, 0] ++ le 4 (min 0xFFFFFFFF asleepFor)) s
      let s := if s.pwr.bivouacLoss then eventsLost (onPwr (fun p => { p with bivouacLoss := false }) s) else s
      .next (lookBelay (raiseHeld (endIdleSessions s)))

/-! ### The thermal governor (R91 to R95) -/

/-- One sample against a threshold of `x` quarter degrees (R92). -/
def Threshold.sample (x q : Int) (t : Threshold) : Threshold :=
  let toward := if t.isSet then decide (q ≤ x - 16) else decide (x ≤ q)
  if !toward then { t with run := 0 }
  else if t.run + 1 < 200 then { t with run := t.run + 1 }
  else { isSet := !t.isSet, run := 0 }

/-- The selected band after a reading (R207). -/
def nextBand (b : Nat) (q : Int) : Nat :=
  let low : Int := -160 + 40 * b
  if (b < 15 ∧ low + 48 ≤ q) ∨ (0 < b ∧ q ≤ low - 8) then bandOf q else b

/-- A powered core's sensor is read: its band, and the recalibration and full test that are due (R207, R315, R318). -/
def readCore (s : State) (n : Nat) (q : Int) : State :=
  onCore n (fun c => { c with
    reading := some q, bandSel := if c.reading.isNone then bandOf q else nextBand c.bandSel q
    recalDue := c.recalDue || decide (20 ≤ (q - c.tjCal).natAbs) || decide (dayTicks ≤ s.clk.tick.toNat - c.tCal.toNat / 65536)
    fullDue := c.fullDue || decide (dayTicks ≤ s.clk.tick.toNat - c.tFull.toNat / 65536) }) s

/-- Entry to TRIP (R94): jobs on the cores and the stream engine are abandoned, every CIM domain and PD9 goes off, and the
Cairn's entry is written (in part DEDUCED, log entry 126). -/
def enterTrip (s : State) : State :=
  let core : BitVec 16 := if s.thm.hottest.toNat < 8 then 0x0100#16 ||| s.thm.hottest.setWidth 16 else 0
  let s := cairn 0x1002 core (le 2 s.thm.tj.toNat ++ [s.thm.hottest]) s
  let s := abandonJobs Job.onCompute 1 false s
  carryOn ([9, 16, 17, 18, 19, 20, 21, 22, 23].foldl (fun s n => wantDomain n false s) s)

/-- A change of the governor's state (R92, R93). -/
def changeThermal (prev : ThermalState) (s : State) : State :=
  let new := thermalState s
  if new == prev then s
  else
    let s := { s with thm := { s.thm with
      throttleEntries := if new == .throttle then satInc s.thm.throttleEntries else s.thm.throttleEntries
      tripEntries := if new == .trip then satInc s.thm.tripEntries else s.thm.tripEntries } }
    let s := raise 0x12 true ([new.code, prev.code] ++ le 2 s.thm.tj.toNat ++ [s.thm.hottest, 0, 0, 0]) s
    if new == .trip then enterTrip s
    else if prev == .trip && streamedStarted s then wantDomain 9 true s
    else s

/-- In THROTTLE an idle core beyond THROTTLE_CORES is released (R93). -/
def shedCores (s : State) : State :=
  let on := coresOn s
  if thermalState s != .throttle || on.length ≤ s.thm.config.throttleCores.toNat then s
  else match on.reverse.find? fun n => s.mdl.jobs.all fun j => !j.running.contains (.core n) with
    | some n => wantDomain (16 + n) false s
    | none => s

/-- The thermal reset of R95; in a reset that is in progress the temperature only holds it (R109). -/
def thermalShutdown (q : Int) (s : State) : State :=
  if q < 500 then s else onBoot (fun b => { b with thermalHold := true }) (beginReset 0x06 s)

/-- Every 1 ms: the readings of the cores, the engine area and the Anchor in thousandths of a degree; a core that is off
gives none (R91). -/
def execGovernorSample (cores : Vector Int 8) (engine anchor : Int) (s : State) : Answer :=
  let quarter (m : Int) : Int := roundDiv (4 * m) 1000
  if !s.isOn 1 || s.pwr.retention then .next s
  else if s.boot.stage != .none then .next (thermalShutdown (quarter anchor) s)
  else
    let on := (List.range 8).filter fun n => s.isOn (16 + n)
    let all := on.map (fun n => (n, quarter (cores.toList.getD n 0))) ++ [(8, quarter engine), (9, quarter anchor)]
    let hot := all.foldl (fun (a : Nat × Int) b => if a.2 < b.2 then b else a) (all.headD (9, 0))
    let tj : BitVec 16 := BitVec.ofInt 16 hot.2
    let prev := thermalState s
    let c := s.thm.config
    let s := { s with thm := { s.thm with
      tj := tj, hottest := BitVec.ofNat 8 hot.1, sampled := true
      tjMax := if !s.thm.sampled || s.thm.tjMax.toInt < hot.2 then tj else s.thm.tjMax
      warn := s.thm.warn.sample (4 * c.tWarn.toNat) hot.2, throttle := s.thm.throttle.sample (4 * c.tThrottle.toNat) hot.2
      trip := s.thm.trip.sample 480 hot.2 } }
    let s := on.foldl (fun s n => readCore s n (quarter (cores.toList.getD n 0))) s
    let s := shedCores (changeThermal prev s)
    .next (thermalShutdown (quarter anchor) (if s.boot.phase == .ready then wantCores s else s))

/-- In sleep the Anchor reads its own sensor on the 1 s tick grid, for the shutdown check alone (R95). -/
def execAnchorTempSample (anchor : Int) (s : State) : Answer :=
  if !asleep s then .next s else .next (thermalShutdown (roundDiv (4 * anchor) 1000) s)

/-! ### The meanings -/

def execPowerStateSetBivouac (h : Hdr) (p : Bytes) (s : State) : Answer := .next (cmdPowerStateSetBivouac h p s)
def execPowerStateSetWatch (h : Hdr) (p : Bytes) (s : State) : Answer := .next (cmdPowerStateSetWatch h p s)

end Sys2Proof.Machine
end

