-- ==== Sys2Proof/Machine/Device.lean ====
section
/-! DEFINITION. The device's identity and status words (chapter 02, Tables 2-14 and 2-15). -/

namespace Sys2Proof.Machine

/-- `OWNERS`: the provisioned slots. -/
def ownersWord (s : State) : Byte := BitVec.ofNat 8 (flags (s.own.slots.toList.map (·.provisioned)))

/-- `TRANSPORT` of the bound port; the spec states none for a port that no packet has bound
(in part DESIGN CHOICE, log entry 111). -/
def transportCode (s : State) : Byte × State :=
  match s.link.bound with
  | some .spi => (0x01, s)
  | some .i2c => (0x02, s)
  | none => let r := drawFree s; (r.1.setWidth 8, r.2)

/-- The 32 bytes of DEV_INFO but `TRANSPORT` (Table 2-14, R103). -/
def devInfoBytes (s : State) (transport : Byte) : Bytes :=
  let f := runningSlot s
  [0xAE, 0x96, 0x64, 0x21, f.major, f.minor] ++ le 2 f.patch.toNat ++ le 4 f.build.toNat
    ++ [BitVec.ofNat 8 (role s), BitVec.ofNat 8 (if role s == 0 then 0xFF else s.rope.index), s.boot.running.setWidth 8, s.boot.cause]
    ++ le 8 Config.deviceId.toNat ++ le 4 s.boot.bootCount.toNat ++ [ownersWord s, transport] ++ le 2 4068

/-- DEV_INFO. -/
def cmdDevInfo (h : Hdr) (p : Bytes) (s : State) : State :=
  serve { opcode := 0x01, length := (· == 0) } h p
    (fun s => let t := transportCode s; doneWith h (devInfoBytes t.2 t.1) t.2) s

/-- The 16 bytes of DEV_STATUS (Table 2-15) (in part DEDUCED, log entry 112). -/
def devStatusBytes (s : State) : Bytes :=
  [s.pwr.state.code, s.bly.phase.code, (thermalState s).code,
    BitVec.ofNat 8 (flags ((List.range 8).map fun n => (s.core n).fenced)),
    BitVec.ofNat 8 (flags (s.link.sessions.toList.map fun x => x.phase == .live)),
    BitVec.ofNat 8 (s.link.slots.countP fun c => hostTag c.tag),
    BitVec.ofNat 8 (s.mdl.slots.toList.countP fun x => x.phase != .empty), 0] ++ le 8 (now s).toNat

/-- DEV_STATUS. -/
def cmdDevStatus (h : Hdr) (p : Bytes) (s : State) : State :=
  serve { opcode := 0x02, length := (· == 0) } h p (fun s => doneWith h (devStatusBytes s) s) s

/-! ### The meanings -/

def execDevInfo (h : Hdr) (p : Bytes) (s : State) : Answer := .next (cmdDevInfo h p s)
def execDevStatus (h : Hdr) (p : Bytes) (s : State) : Answer := .next (cmdDevStatus h p s)

end Sys2Proof.Machine
end

