-- ==== Sys2Proof/Machine/Tap.lean ====
section
/-! DEFINITION. The test access port: its instructions, each with one scan of its data register (chapter 16, Table 16-6). -/

namespace Sys2Proof.Machine

/-- The TAP answers in every state except OFF, while the rail of its pins is in range (R77, R390). -/
def tapUp (s : State) : Bool := s.isOn 0 && s.pwr.vioHOk

/-- Change the TAP. -/
def onTap (f : TapState → TapState) (s : State) : State := onOwn (fun w => { w with tap := f w.tap }) s

/-- Select an instruction and shift bits through its register, the captured bits first
(in part DESIGN CHOICE, log entry 149). -/
def scan (instr : BitVec 5) (captured tdi : List Bool) (s : State) : State :=
  onTap (fun t => { t with instr := instr, out := (captured ++ tdi).take tdi.length }) s

/-- The bits of bytes, least significant first. -/
def bitsOf (b : Bytes) : List Bool := b.flatMap fun x => (List.range 8).map x.getLsbD

/-- The byte of up to eight bits. -/
def byteOf (bs : List Bool) : Byte := BitVec.ofNat 8 (flags bs)

/-- Bytes of bits, least significant first. -/
def bytesOf : Nat → List Bool → Bytes
  | 0, _ => []
  | n + 1, bs => byteOf (bs.take 8) :: bytesOf n (bs.drop 8)

/-- EXTEST, HIGHZ and CLAMP take control of the pins: while RESET_N is held low (R391). The cells of BELAY_OK, ALARM_N and
HOUT0 to HOUT3 stay observe-only. -/
def pinsTaken (s : State) : Bool := tapUp s && !s.pins.resetN && [0x00, 0x03, 0x04].contains s.own.tap.instr.toNat

/-- A scan of the boundary register: the pins are captured, and the bits left in it become the latches
(in part DEDUCED, log entry 144). -/
def boundary (instr : BitVec 5) (pins tdi : List Bool) (s : State) : State :=
  onTap (fun t => { t with latches := (pins ++ tdi).drop tdi.length }) (scan instr pins tdi s)

/-- TRST_N or TMS returns the TAP to test-logic reset, with IDCODE selected. -/
def execTapReset (s : State) : Answer :=
  if !tapUp s then .next s else .next (onTap (fun t => { t with instr := 0x01, out := [] }) s)

/-- Opcodes of Table 16-6 other than BYPASS. -/
def tapOpcodes : List Nat := [0x00, 0x01, 0x02, 0x03, 0x04, 0x10, 0x11, 0x12]

/-- BYPASS, and every opcode that Table 16-6 does not list (R390). -/
def execBypass (opcode : BitVec 5) (tdi : List Bool) (s : State) : Answer :=
  if !tapUp s || tapOpcodes.contains opcode.toNat then .next s else .next (scan opcode [false] tdi s)

/-- IDCODE (R390). -/
def execIdcode (tdi : List Bool) (s : State) : Answer :=
  if !tapUp s then .next s else .next (scan 0x01 (bitsOf (le 4 0x2649655D)) tdi s)

/-- SAMPLE/PRELOAD. -/
def execSamplePreload (pins tdi : List Bool) (s : State) : Answer :=
  if !tapUp s then .next s else .next (boundary 0x02 pins tdi s)

/-- EXTEST (R391). -/
def execExtest (pins tdi : List Bool) (s : State) : Answer :=
  if !tapUp s then .next s else .next (boundary 0x00 pins tdi s)

/-- HIGHZ; with RESET_N high it acts as SAMPLE/PRELOAD (R391). -/
def execHighz (pins tdi : List Bool) (s : State) : Answer :=
  if !tapUp s then .next s
  else if s.pins.resetN then .next (boundary 0x03 pins tdi s)
  else .next (scan 0x03 [false] tdi s)

/-- CLAMP; with RESET_N high it acts as SAMPLE/PRELOAD (R391). -/
def execClamp (pins tdi : List Bool) (s : State) : Answer :=
  if !tapUp s then .next s
  else if s.pins.resetN then .next (boundary 0x04 pins tdi s)
  else .next (scan 0x04 [false] tdi s)

/-- The firmware serves the debug instructions. -/
def tspServed (s : State) : Bool := s.isOn 1 && !s.pwr.retention && s.boot.phase == .ready && s.boot.stage == .none

/-- `n` words of free bits. -/
def freeBits : Nat → State → List Bool × State
  | 0, s => ([], s)
  | n + 1, s =>
    let a := drawFree s
    let r := freeBits n a.2
    (bitsOf (le 8 a.1.toNat) ++ r.1, r.2)

/-- DBG_CHAL shifts out a new challenge (R392); the spec states no bits where none can be issued
(in part DESIGN CHOICE, log entry 81). -/
def execDbgChal (tdi : List Bool) (s : State) : Answer :=
  if !tapUp s then .next s
  else if !tspServed s || s.own.trngFault then
    let r := freeBits 4 s
    .next (scan 0x10 r.1 tdi r.2)
  else
    let c := newChallenge s
    .next (scan 0x10 (bitsOf c.1) tdi c.2)

/-- DBG_OPEN: a whole payload shifted in opens debug as DEBUG_OPEN does (R393); the bits it shifts out are stated nowhere. -/
def execDbgOpen (tdi : List Bool) (s : State) : Answer :=
  if !tapUp s then .next s
  else
    let r := freeBits 20 s
    let s := scan 0x11 r.1 tdi r.2
    if tdi.length != 1280 || !tspServed s || !belayRests s || s.own.erase.isSome then .next s
    else
      let p := bytesOf 160 tdi
      let ok := openingOk s p
      let s := onOwn (fun w => { w with challenge := none }) s
      .next (if ok then beginErase 2 none s else s)

/-- DBG_ACCESS reads zero while debug is closed (Table 16-6). While it is open the access itself has no format in the
spec (in part DESIGN CHOICE, log entry 80). -/
def execDbgAccess (tdi : List Bool) (s : State) : Answer :=
  if !tapUp s then .next s
  else if s.own.debugOpen then .refused .debugAccess
  else .next (scan 0x12 (List.replicate 96 false) tdi s)

end Sys2Proof.Machine
end

