-- ==== Sys2Proof/Machine/Transport.lean ====
section
/-! DEFINITION. Whole packets on the host port and over the Rope: how a packet is checked, put together and served, how an
outbound packet leaves, ABORT, and commands relayed between chips (chapters 02 and 15). -/

namespace Sys2Proof.Machine

/-! ### Packets (Table 2-6) -/

/-- Bytes of a packet that is not secure. -/
def plainPacket (flags : Nat) (opcode tagByte status seq : Byte) (payload : Bytes) : Bytes :=
  let b := [0x5A, BitVec.ofNat 8 flags] ++ le 2 payload.length ++ [opcode, tagByte, status, seq] ++ payload
  b ++ le 4 (crc32c b).toNat

/-- The 96-bit nonce of a packet: session, direction, packet counter (R40). -/
def packetNonce (id : Word32) (direction : Byte) (counter : Nat) : Bytes := le 4 id.toNat ++ [direction] ++ le 7 counter

/-- A secure packet to the host takes a counter value; the session ends at 2^32 (R41). -/
def advanceTx (owner : BitVec 2) (s : State) : State :=
  let x := s.session owner
  let s := s.mapLink fun l => { l with sessions := wr l.sessions owner.toNat { x with tx := x.tx + 1 } }
  if x.tx + 1 ≥ 2 ^ 32 then endSession owner.toNat 0x03 s else s

/-- A packet sealed under an owner's session (R40), and the state after its counter has advanced. -/
def sealedPacket (owner : BitVec 2) (more : Bool) (opcode tagByte status : Byte) (payload : Bytes) (s : State) : Bytes × State :=
  let x := s.session owner
  let head := [0x5A, BitVec.ofNat 8 (0x81 + 32 * owner.toNat + 16 * b2n more)] ++ le 2 payload.length
    ++ [opcode, tagByte, status, BitVec.ofNat 8 x.tx]
  let e := gcmSeal x.key (packetNonce x.id 1 x.tx) head payload
  let b := head ++ fixed payload.length e.1 ++ fixed 12 e.2
  (b ++ le 4 (crc32c b).toNat, advanceTx owner s)

/-- The packet of a reject notice (R32). -/
def Notice.packet (n : Notice) : Bytes := plainPacket 1 n.opcode (BitVec.ofNat 8 (0x80 + n.tag.toNat % 64)) n.status n.seq []

/-! ### Outbound packets leave (R27, R43, R45, R50, R55) -/

/-- The session a reply is due to still holds its keys. -/
def keyed (s : State) (r : Reply) : Bool := (s.session r.owner).phase != .none && (s.session r.owner).id == r.session

/-- The next packet of a reply, the rest of a long one (R50), and the state after its counter has advanced. A terminal reply
due to a session that has ended is SESSION_EXPIRED, not secure (R45) (in part DEDUCED, log entry 131). -/
def replyPacket (r : Reply) (s : State) : Bytes × Option Reply × State :=
  let tagByte : Byte := BitVec.ofNat 8 (0x40 + r.tag.toNat % 64)
  let more := decide (4068 < r.payload.length)
  let rest := if more then some { r with payload := r.payload.drop 4068 } else none
  if !r.secure then (plainPacket (1 + 16 * b2n more) r.opcode tagByte r.status r.seq (r.payload.take 4068), rest, s)
  else if keyed s r then
    let e := sealedPacket r.owner more r.opcode tagByte r.status (r.payload.take 4068) s
    (e.1, rest, e.2)
  else (plainPacket 1 r.opcode tagByte stExpired r.seq [], none, s)

/-- Free a tag; with the last command in flight its session's idle timer starts again, with its full timeout (R33, R44)
(in part DESIGN CHOICE, log entry 151). -/
def freeTag (tag : Tag) (s : State) : State :=
  let s' := s.mapLink fun l => { l with slots := l.slots.filter (·.tag != tag) }
  match s.slot? tag with
  | some c =>
    if c.secure && inFlight s' c.session == 0 then
      s'.mapLink fun l => { l with sessions := l.sessions.map fun x =>
        if x.phase == .live && x.id == c.session then { x with since := s'.clk.tick } else x }
    else s'
  | none => s'

/-- SESSION_CLOSE's DONE has left: the session ends (R44). -/
def closeSession (r : Reply) (s : State) : State :=
  if r.opcode == 0x06 && r.status == 0x00 && keyed s r && (s.session r.owner).phase == .ending then
    s.mapLink fun l => { l with sessions := wr l.sessions r.owner.toNat {} }
  else s

/-- A terminal reply has left the device: its tag is free, and what waited for it happens: the end of a session, a sleep entry
(R80), a scheduled reset (R61). -/
def replyGone (r : Reply) (s : State) : State :=
  let s := closeSession r (freeTag r.tag s)
  let s := match s.pwr.entry with
    | some e => if e.tag == some r.tag && !e.begun then beginSleep e s else s
    | none => s
  if s.boot.scheduled.any (·.2 == r.tag) then scheduledReset s else s

/-- A packet of a reply has left: the next fragment becomes pending, or the reply is gone. -/
def replyLeft (r : Reply) (rest : Option Reply) (s : State) : State :=
  match rest with
  | some n => s.mapLink fun l => { l with out := l.out ++ [.reply n] }
  | none => if r.status == 0x01 then s else replyGone r s

/-- An event not secure takes the event counter's value (R42). -/
def countEvent (s : State) : State := s.mapLink fun l => { l with eventSeq := l.eventSeq + 1 }

/-- A RESULT event pulled under its session delivers its result (R270). -/
def eventDelivered (e : Event) (s : State) : State :=
  if e.code == 0x60 then deliver [BitVec.ofNat 32 (fld e.body 0 4)] s else s

/-- EVENTS_LOST, once the queue holds fewer than 96 events after a loss (R56). -/
def lossReported (s : State) : State :=
  if s.link.lossPending && decide (s.link.events < 96) then eventsLost s else s

/-- The packet of an event, and the state after it has left (R55) (in part DEDUCED, log entry 150). -/
def eventPacket (e : Event) (s : State) : Bytes × State :=
  let tagByte : Byte := if e.high then 0xC1 else 0xC0
  let plain (owner : Nat) (payload : Bytes) : Bytes × State :=
    (plainPacket (1 + 32 * owner) e.code tagByte 0 s.link.eventSeq payload, lossReported (countEvent s))
  match e.owner with
  | none => plain 0 (le 8 e.time.toNat ++ e.body)
  | some o =>
    if (s.session o).phase == .live then
      let z := sealedPacket o false e.code tagByte 0 (le 8 e.time.toNat ++ e.body) s
      (z.1, lossReported (eventDelivered e z.2))
    else plain o.toNat (le 8 e.time.toNat)

/-- The bytes of an outbound packet taken from the queue, and the state after it has left. -/
def leave (o : Outbound) (s : State) : Bytes × State :=
  match o with
  | .reply r => let z := replyPacket r s; (z.1, replyLeft r z.2.1 z.2.2)
  | .notice n => (n.packet, s)
  | .event e => eventPacket e s

/-- A STARTED due to a session that has ended is withdrawn (in part DEDUCED, log entry 130). -/
def stale (s : State) : Outbound → Bool
  | .reply r => r.status == 0x01 && r.secure && !keyed s r
  | _ => false

/-- The host clocks `clocked` bytes of the oldest outbound packet, which leaves once its last byte has been clocked out (R27);
the device drives zeros beyond it and where nothing is pending. -/
def pullPacket (via : Transport) (clocked : Nat) (s : State) : State :=
  if !hears via s then s
  else
    let s := s.mapLink fun l => { l with out := l.out.dropWhile (stale s) }
    match s.link.out with
    | [] => s.mapLink fun l => { l with driven := List.replicate clocked 0 }
    | o :: rest =>
      let z := leave o (s.mapLink fun l => { l with out := rest })
      if clocked < z.1.length then s.mapLink fun l => { l with driven := z.1.take clocked }
      else z.2.mapLink fun l => { l with driven := fixed clocked z.1 }

/-! ### Checks 1 to 4 (Table 2-8) -/

/-- Bytes a header implies. -/
def impliedSize (b : Bytes) : Nat := 12 + fld b 2 2 + 12 * b2n (bit (fld b 1 1) 7)

/-- The first of checks 1 to 4 that a packet fails, or 0. -/
def failedCheck (b : Bytes) : Nat :=
  if b.head? != some 0xA5 then 1
  else if 4068 < fld b 2 2 || b.length != impliedSize b then 2
  else if (crc32c (b.take (b.length - 4))).toNat != fld b (b.length - 4) 4 then 3
  else if bits (fld b 1 1) 0 4 != 1 || fld b 5 1 / 64 != 0 || fld b 6 1 != 0 || (!bit (fld b 1 1) 7 && bits (fld b 1 1) 5 2 != 0) then 4
  else 0

/-- The header of a packet that passes them, on a tag space (0 for the host port), and its plaintext: a secure one is deciphered
under its owner's session and the full counter expected (R40, R41). -/
def openPacket (via : Transport) (space : Nat) (b : Bytes) (s : State) : Hdr × Bytes :=
  let owner : BitVec 2 := BitVec.ofNat 2 (bits (fld b 1 1) 5 2)
  let secure := bit (fld b 1 1) 7
  let n := fld b 2 2
  let x := s.session owner
  let clear := if secure then gcmOpen x.key (packetNonce x.id 0 x.rx) (b.take 8) (slice b 8 n) (slice b (8 + n) 12)
    else some (slice b 8 n)
  ({ via := via, tag := BitVec.ofNat 13 (64 * space + fld b 5 1 % 64), secure := secure, owner := owner
     seq := BitVec.ofNat 8 (fld b 7 1), authentic := clear.isSome }, clear.getD [])

/-! ### Check 9 (Table 2-13) -/

/-- Every opcode of the index. -/
def opcodeIndex : List Nat :=
  List.range 0x0A ++ [0x0D, 0x0E] ++ List.range' 0x10 9 ++ List.range' 0x20 12 ++ List.range' 0x30 10 ++ List.range' 0x40 8
    ++ List.range' 0x50 10 ++ List.range' 0x60 9 ++ List.range' 0x70 13 ++ List.range' 0x80 10 ++ List.range' 0x90 8
    ++ List.range' 0xA0 9 ++ List.range' 0xB0 5 ++ List.range' 0xC0 8 ++ [0xC9] ++ List.range' 0xD0 6

/-- The status of an opcode that is not served (R60). -/
def notServed (opcode : Byte) : Option Byte :=
  if opcodeIndex.contains opcode.toNat then none
  else if opcode.toNat / 16 == 15 then some stLocked
  else some stUnknown

/-! ### ABORT (R52, R53) -/

/-- ABORT stops its target before the target's commit mark, or comes too late; the target is in the ABORT's own tag space
(in part DEDUCED, log entry 133). -/
def cmdAbort (h : Hdr) (p : Bytes) (s : State) : State :=
  serve { opcode := 0x0E, length := (· == 1), reserved := fun p => fld p 0 1 / 64 == 0 } h p
    (fun s =>
      let s := commitMark h.tag s
      let target : Tag := BitVec.ofNat 13 (h.tag.toNat / 64 * 64 + fld p 0 1)
      match s.slot? target with
      | none => finish h.tag stParam [] s
      | some c =>
        if target == h.tag then finish h.tag stParam [] s
        else if c.secure != h.secure || (h.secure && (c.owner != h.owner || c.named != (s.session h.owner).id)) then
          finish h.tag stNotOwner [] s
        else if c.committed || c.replied || c.opcode == 0x0E then finish h.tag stTooLate [] s
        else finish h.tag 0x00 [] (stopCommand target stAborted [] s)) s

/-! ### ROPE_RELAY (R367) -/

/-- The frames of a relayed command. -/
def relayFrames (dst : Byte) (src : Nat) (id : BitVec 16) (b : Bytes) : List RopeFrame :=
  (replyFrames 3 dst src id (b.length / 2048 + 1) b).map fun f => { f with info := f.info - 65536 }

/-- ROPE_RELAY sends a packet to another chip in CMD frames (in part DEDUCED, log entry 64). -/
def cmdRopeRelay (h : Hdr) (p : Bytes) (s : State) : State :=
  ropeServe { opcode := 0x94, length := fun n => decide (16 ≤ n) && decide (n ≤ 4068), reserved := zeros [(1, 3)] } h p
    (fun s =>
      let dst := fld p 0 1
      if 63 < dst || dst == s.rope.index then finish h.tag stParam [] s
      else if !reachable s dst then finish h.tag stLinkDown [0] s
      else
        let id := s.rope.nextRelay
        let s := onRope (fun r => { r with
          nextRelay := r.nextRelay + 1, relaysOut := r.relaysOut ++ [{ tag := h.tag, dst := BitVec.ofNat 8 dst, id := id }] }) s
        (relayFrames (BitVec.ofNat 8 dst) s.rope.index id (p.drop 4)).foldl (fun s f => routeOut f s) s) s

/-! ### Check 10: which command a message is -/

/-- A selector that names no operation: the opcode's rights and lengths, then PARAM_ERROR (in part DEDUCED, log entry 135). -/
def noSuch (f : Form) (h : Hdr) (p : Bytes) (s : State) : State := serve f h p (finish h.tag stParam []) s

/-- A command of class Site that is refused for its selector. -/
def siteForm (opcode : Byte) (length : Nat → Bool) : Form := { opcode := opcode, rights := fun _ _ => .site, length := length }

/-- Choose by a flag of the payload. -/
def byFlag (off : Nat) (p : Bytes) (clear keep : Hdr → Bytes → State → State) : Hdr → Bytes → State → State :=
  if bit (fld p off 1) 0 then clear else keep

/-- The commands of groups 0x0_ and 0x1_. -/
def device (opcode : Nat) (h : Hdr) (p : Bytes) (s : State) : State :=
  match opcode with
  | 0x00 => cmdNop h p s
  | 0x01 => cmdDevInfo h p s
  | 0x02 => cmdDevStatus h p s
  | 0x03 => if p.isEmpty then cmdLinkConfigRead h p s else cmdLinkConfigWrite h p s
  | 0x04 => byFlag 0 p cmdLinkCountersClear cmdLinkCounters h p s
  | 0x05 => cmdSessionOpen h p s
  | 0x06 => cmdSessionClose h p s
  | 0x07 => cmdSessionStatus h p s
  | 0x08 => cmdDevLabelSet h p s
  | 0x09 => cmdDevLabelGet h p s
  | 0x0D => match fld p 0 1 with
    | 1 => cmdResetWarm h p s
    | 2 => cmdResetFull h p s
    | _ => noSuch (siteForm 0x0D (· == 1)) h p s
  | 0x0E => cmdAbort h p s
  | 0x10 => cmdPowerStateGet h p s
  | 0x11 => match fld p 0 1 with
    | 1 => cmdPowerStateSetBivouac h p s
    | 2 => cmdPowerStateSetWatch h p s
    | _ => noSuch (siteForm 0x11 (· == 4)) h p s
  | 0x12 => cmdWakeConfig h p s
  | 0x13 => match fld p 0 1 with
    | 0 => cmdTickAlarmDisable h p s
    | 1 => cmdTickAlarmAbsolute h p s
    | 2 => cmdTickAlarmRelative h p s
    | _ => noSuch tickAlarmForm h p s
  | 0x14 => cmdTimeGet h p s
  | 0x15 => cmdClockStatus h p s
  | 0x16 => cmdThermalConfig h p s
  | 0x17 => cmdThermalStatus h p s
  | _ => if p.isEmpty then cmdPowerPolicyRead h p s else cmdPowerPolicyWrite h p s

/-- The commands of groups 0x2_ to 0x4_. -/
def sensing (opcode : Nat) (h : Hdr) (p : Bytes) (s : State) : State :=
  match opcode with
  | 0x20 => cmdAfePinRoleSet h p s
  | 0x21 => cmdAfePinRoleGet h p s
  | 0x22 => cmdAfeChannelConfig h p s
  | 0x23 => cmdAfeChannelGet h p s
  | 0x24 => cmdAfeExcitationSet h p s
  | 0x25 => match fld p 0 1 with
    | 0 => cmdAfeLeadMeasureLoop h p s
    | 1 => cmdAfeLeadMeasureKelvin h p s
    | 2 => cmdAfeLeadMeasureSet h p s
    | _ => noSuch leadForm h p s
  | 0x26 => cmdAfeLeadGet h p s
  | 0x27 => match fld p 1 1 with
    | 0 => cmdAfePairConfigRemove h p s
    | 1 => cmdAfePairConfigSet h p s
    | _ => noSuch pairForm h p s
  | 0x28 => cmdAfePairStatus h p s
  | 0x29 => cmdAfeDiag h p s
  | 0x2A => cmdAfeCalRun h p s
  | 0x2B => cmdAfeBankEnable h p s
  | 0x30 => match fld p 1 1 with
    | 0 => cmdStreamConfigRemove h p s
    | 1 => cmdStreamConfigSet h p s
    | _ => noSuch streamForm h p s
  | 0x31 => cmdStreamGet h p s
  | 0x32 => cmdStreamStart h p s
  | 0x33 => match fld p 12 1 with
    | 0 => cmdStreamStopNow h p s
    | 1 => cmdStreamStopAfterFrame h p s
    | _ => noSuch stopForm h p s
  | 0x34 => cmdSportConfig h p s
  | 0x35 => cmdSportGet h p s
  | 0x36 => cmdTachConfig h p s
  | 0x37 => cmdEncConfig h p s
  | 0x38 => byFlag 2 p cmdStreamCountersClear cmdStreamCounters h p s
  | 0x39 => cmdStreamSnapshot h p s
  | 0x40 => match fld p 1 1 with
    | 0 => cmdFeatConfigRemove h p s
    | 1 => cmdFeatConfigSet h p s
    | _ => noSuch { siteForm 0x40 (20 ≤ ·) with shape := fun p => p.length == 20 + 8 * fld p 2 1 } h p s
  | 0x41 => cmdFeatGet h p s
  | 0x42 => cmdFeatOrderConfig h p s
  | 0x43 => cmdFeatBandsSet h p s
  | 0x44 => cmdFeatStateConfig h p s
  | 0x45 => cmdFeatFrameRead h p s
  | 0x46 => cmdBeltPositionGet h p s
  | _ => match fld p 0 1 with
    | 0 => cmdBeltConfigDisable h p s
    | 1 => cmdBeltConfigSet h p s
    | 2 => cmdSetIndex h p s
    | 3 => cmdBeltClearCount h p s
    | _ => noSuch beltForm h p s

/-- The commands of groups 0x5_ to 0x7_. The answer of the other chips to a Ridge request is a
free value (log entry 136). -/
def models (opcode : Nat) (h : Hdr) (p : Bytes) (s : State) : State :=
  match opcode with
  | 0x50 => match fld p 0 1 with
    | 1 => cmdModelLoadBegin h p s
    | 2 => cmdModelLoadData h p s
    | 3 => cmdModelLoadAbandon h p s
    | _ => noSuch { opcode := 0x50, rights := boundModel 1, length := (4 ≤ ·) } h p s
  | 0x51 => cmdModelVerify h p s
  | 0x52 => match fld p 1 1 with
    | 0 => cmdModelPlace h p s
    | 1 => cmdModelPlaceRidge h p (Config.ridgeAnswer s.free) { s with free := s.free + 1 }
    | _ => noSuch placeForm h p s
  | 0x53 => cmdModelUnload h p s
  | 0x54 => cmdModelPlacementGet h p s
  | 0x55 => cmdModelList h p s
  | 0x56 => cmdModelStart h p s
  | 0x57 => cmdModelStop h p s
  | 0x58 => cmdModelReplace h p s
  | 0x59 => cmdModelBindStreams h p s
  | 0x60 => cmdJobSubmit h p s
  | 0x61 => cmdResultRead h p s
  | 0x62 => cmdResultPin h p s
  | 0x63 => cmdResultUnpin h p s
  | 0x64 => cmdRmStatus h p s
  | 0x65 => byFlag 1 p cmdRmCountersClear cmdRmCounters h p s
  | 0x66 => cmdRmShareSet h p s
  | 0x67 => byFlag 0 p cmdQueueStatusClearHigh cmdQueueStatus h p s
  | 0x68 => cmdResultSubscribe h p s
  | 0x70 => cmdHeadConfig h p s
  | 0x71 => cmdHeadGet h p s
  | 0x72 => match fld p 1 1 with
    | 0 => cmdRewardCancel h p s
    | 1 => cmdRewardImmediate h p s
    | 2 => cmdRewardHeld h p s
    | _ => noSuch rewardForm h p s
  | 0x73 => cmdModulatorConfig h p s
  | 0x74 => cmdHeadFreeze h p s
  | 0x75 => cmdHeadResume h p s
  | 0x76 => cmdHeadSave h p s
  | 0x77 => cmdHeadRestore h p s
  | 0x78 => cmdHeadExport h p s
  | 0x79 => cmdHeadImport h p s
  | 0x7A => cmdHeadConsolidate h p s
  | 0x7B => byFlag 1 p cmdHeadStatsClear cmdHeadStats h p s
  | _ => match fld p 1 1 with
    | 0 => cmdHeadReset h p s
    | 1 => cmdHeadEraseOrphan h p s
    | _ => noSuch headResetForm h p s

/-- The commands of groups 0x8_ and 0x9_. -/
def outputs (opcode : Nat) (h : Hdr) (p : Bytes) (s : State) : State :=
  match opcode with
  | 0x80 => cmdHoutMap h p s
  | 0x81 => cmdHoutGet h p s
  | 0x82 => cmdBelayConfig h p s
  | 0x83 => cmdBelayArm h p s
  | 0x84 => cmdBelayDisarm h p s
  | 0x85 => cmdBelayTrip h p s
  | 0x86 => cmdBelayAbortHold h p s
  | 0x87 => match fld p 0 1 with
    | 1 => cmdBelayRearm h p s
    | 2 => cmdBelayDeclareStop h p s
    | _ => noSuch rearmForm h p s
  | 0x88 => cmdBelayStatus h p s
  | 0x89 => match fld p 0 1 with
    | 0 => cmdAlarmSetMask h p s
    | 1 => cmdAlarmSetHost h p s
    | 2 => cmdAlarmClearHost h p s
    | 3 => cmdAlarmAcknowledge h p s
    | _ => noSuch { siteForm 0x89 (· == 4) with reserved := zeros [(1, 1)] } h p s
  | 0x90 => cmdRopeStatus h p s
  | 0x91 => cmdRopeEnumerate h p s
  | 0x92 => cmdRopeDetach h p s
  | 0x93 => cmdRopeAttach h p s
  | 0x94 => cmdRopeRelay h p s
  | 0x95 => cmdRopeTopologyGet h p s
  | 0x96 => cmdRopeRetrain h p s
  | _ => byFlag 0 p cmdRopeCountersClear cmdRopeCounters h p s

/-- The commands of groups 0xA_ to 0xD_. -/
def security (opcode : Nat) (h : Hdr) (p : Bytes) (s : State) : State :=
  match opcode with
  | 0xA0 => cmdOwnerProvision h p s
  | 0xA1 => cmdOwnerRemove h p s
  | 0xA2 => cmdOwnerList h p s
  | 0xA3 => cmdAttest h p s
  | 0xA4 => cmdEpochRoll h p s
  | 0xA5 => cmdDebugChallenge h p s
  | 0xA6 => cmdDebugOpen h p s
  | 0xA7 => cmdKeyRotate h p s
  | 0xA8 => cmdTrngRead h p s
  | 0xB0 => cmdCairnInfo h p s
  | 0xB1 => cmdCairnRead h p s
  | 0xB2 => cmdCairnReadPinned h p s
  | 0xB3 => cmdCairnMark h p s
  | 0xB4 => cmdCairnRemoteRead h p s
  | 0xC0 => cmdCalRun h p s
  | 0xC1 => cmdCalStatus h p s
  | 0xC2 => match fld p 1 1 with
    | 1 => cmdSelftestRunQuick h p s
    | 2 => cmdSelftestRunFull h p s
    | _ => noSuch selftestForm h p s
  | 0xC3 => cmdSelftestResult h p s
  | 0xC4 => cmdWearStatus h p s
  | 0xC5 => cmdWearConfig h p s
  | 0xC6 => cmdCoreStatus h p s
  | 0xC7 => match fld p 1 1 with
    | 1 => cmdCoreFence h p s
    | 2 => cmdCoreUnfence h p s
    | _ => noSuch coreFenceForm h p s
  | 0xC9 => byFlag 0 p cmdClipCountersClear cmdClipCounters h p s
  | 0xD0 => cmdFwUpdateBegin h p s
  | 0xD1 => cmdFwUpdateData h p s
  | 0xD2 => cmdFwUpdateCommit h p s
  | 0xD3 => cmdFwSlotStatus h p s
  | 0xD4 => cmdNvmStatus h p s
  | _ => cmdNvmRegionInfo h p s

/-- The command that a message spells, by opcode and selector. An opcode outside the index is refused by check 9. -/
def command (opcode : Byte) (h : Hdr) (p : Bytes) (s : State) : State :=
  match notServed opcode with
  | some st => serve { opcode := opcode, length := fun _ => true } h p (finish h.tag st []) s
  | none =>
    if opcode < 0x20 then device opcode.toNat h p s
    else if opcode < 0x50 then sensing opcode.toNat h p s
    else if opcode < 0x80 then models opcode.toNat h p s
    else if opcode < 0xA0 then outputs opcode.toNat h p s
    else security opcode.toNat h p s

/-! ### Fragments (R47 to R49) and acceptance (R31) -/

/-- A whole message goes to check 10. -/
def runWhole (opcode : Byte) (h : Hdr) (p : Bytes) (s : State) : State :=
  command opcode h p (onSlot h.tag (fun c => { c with ready := true, fragments := 0, parts := [] }) s)

/-- A packet on a tag in flight continues a message (R48): checks 6 to 9, the first fragment's OPCODE, SECURE and OWNER, at
most 256 fragments (R47) (in part DEDUCED, log entry 132). -/
def continueMessage (c : Slot) (opcode : Byte) (more : Bool) (h : Hdr) (p : Bytes) (s : State) : State :=
  let a := authenticate opcode h s
  if !a.2 then a.1
  else match notServed opcode with
  | some st => finish h.tag st [] a.1
  | none =>
    if opcode != c.opcode || h.secure != c.secure || h.owner != c.owner then finish h.tag stParam [] a.1
    else if 256 ≤ c.fragments then finish h.tag stLength [] a.1
    else if more then onSlot h.tag (fun c => { c with parts := c.parts ++ p, fragments := c.fragments + 1 }) a.1
    else runWhole opcode { h with seq := c.seq } (c.parts ++ p) a.1

/-- A packet on a free tag begins a message: the tag is reserved, then checks 6 to 9. -/
def beginMessage (opcode : Byte) (more : Bool) (h : Hdr) (p : Bytes) (s : State) : State :=
  let a := authenticate opcode h (reserve opcode h s)
  if !a.2 then a.1
  else if !more then runWhole opcode h p a.1
  else match notServed opcode with
    | some st => finish h.tag st [] a.1
    | none => onSlot h.tag (fun c => { c with parts := p, fragments := 1 }) a.1

/-- Count a packet refused by check 2, 3 or 5. -/
def countReject (check : Nat) (c : LinkCounters) : LinkCounters :=
  match check with
  | 2 => { c with lengthRejects := satInc c.lengthRejects }
  | 3 => { c with crcRejects := satInc c.crcRejects }
  | 5 => { c with tagBusyRejects := satInc c.tagBusyRejects }
  | _ => c

/-- A received packet passes the checks of Table 2-8, in a tag space (0 for the host port); `reject` sends a reject notice. -/
def admitPacket (reject : Notice → State → State) (via : Transport) (space : Nat) (b : Bytes) (s : State) : State :=
  let bind (s : State) : State := if space == 0 then bindPort via s else s
  let refuse (check : Nat) (status : Byte) (s : State) : State :=
    reject { opcode := b.getD 4 0, tag := BitVec.ofNat 13 (64 * space + fld b 5 1 % 64), status := status, seq := b.getD 7 0 }
      (s.mapLink fun l => { l with counters := countReject check l.counters })
  match failedCheck b with
  | 1 => s.mapLink fun l => { l with discard := true, counters := { l.counters with syncDiscards := satInc l.counters.syncDiscards } }
  | 2 => refuse 2 stLength s
  | 3 => refuse 3 stCrc s
  | 4 => refuse 4 stParam (bind s)
  | _ =>
    let s := bind s
    let x := openPacket via space b s
    let opcode := b.getD 4 0
    let more := bit (fld b 1 1) 4
    match s.slot? x.1.tag with
    | none => beginMessage opcode more x.1 x.2 s
    | some c =>
      if c.fragments == 0 || c.replied then refuse 5 stTagBusy s
      else continueMessage c opcode more x.1 x.2 s

/-! ### The host port (R25 to R28) -/

/-- The size that decides whether a push fits: over SPI the bytes sent, over I²C what its header describes (R26, R28). -/
def pushSize (via : Transport) (b : Bytes) : Nat :=
  match via with
  | .spi => b.length
  | .i2c => if b.length < 4 then 0 else impliedSize b

/-- The host pushes one packet while earlier ones, whose checks are not complete yet, hold `held` bytes of the receive buffer.
Packets are taken in arrival order, so the packet's own checks come after theirs, and leave the buffer empty (R58). A push
abandons an automatic sleep entry (R82)
(in part DESIGN CHOICE, log entry 129). -/
def pushPacket (via : Transport) (held : Nat) (b : Bytes) (s : State) : State :=
  if !hears via s then s else
  let s := if s.pwr.entry.any (·.automatic) then abandonSleep 0x03 s else s
  if (if s.link.closed then 0 else 16384 - min held 16384) < pushSize via b then
    overrun (s.mapLink fun l => { l with rxHeld := min held 16384 })
  else admitPacket notice via 0 b (s.mapLink fun l => { l with rxHeld := 0 })

/-! ### Relayed commands at their destination (R367) -/

/-- The whole reply of a relayed command: its packets one after another (in part DEDUCED, log entry 134). -/
def replyPackets : Nat → Reply → State → Bytes × State
  | 0, _, s => ([], s)
  | n + 1, r, s =>
    let z := replyPacket r s
    match z.2.1 with
    | none => (z.1, z.2.2)
    | some rest => let y := replyPackets n rest z.2.2; (z.1 ++ y.1, y.2)

/-- Send bytes to the chip a relay came from. -/
def sendBack (src : Byte) (id : BitVec 16) (b : Bytes) (s : State) : State :=
  (replyFrames 3 src s.rope.index id (b.length / 2048 + 1) b).foldl (fun s f => routeOut f s) s

/-- A relayed command's terminal reply goes back to where the command came from, which frees its tag. -/
def sendRelayed (r : Reply) (s : State) : State :=
  let mine (x : RelayIn) : Bool := x.tag == some r.tag
  let origins := s.rope.relaysIn.filter mine
  let z := replyPackets (r.payload.length / 4068 + 1) r (onRope (fun b => { b with relaysIn := b.relaysIn.filter fun x => !mine x }) s)
  replyGone r (origins.foldl (fun s x => sendBack x.src x.id z.1 s) z.2)

/-- Send every reply that waits for the Rope (in part DESIGN CHOICE, log entry 97). -/
def flushRelayed (s : State) : State :=
  s.link.relayed.foldl (fun s o => match o with | .reply r => sendRelayed r s | _ => s) (s.mapLink fun l => { l with relayed := [] })

/-- A relayed packet has arrived whole; its tags are those of its source chip, and a ninth command in flight is refused. -/
def takeRelayed (src : Byte) (id : BitVec 16) (b : Bytes) (s : State) : State :=
  let mine (x : RelayIn) : Bool := x.src == src && x.id == id
  let drop (s : State) : State := onRope (fun r => { r with relaysIn := r.relaysIn.filter fun x => !mine x }) s
  let tag : Tag := BitVec.ofNat 13 (64 * (1 + src.toNat) + fld b 5 1 % 64)
  if s.link.closed then s
  else if 8 ≤ s.rope.relaysIn.countP (·.tag.isSome) then sendBack src id [] s
  else
    let s := onRope (fun r => { r with relaysIn := r.relaysIn ++ [{ src := src, id := id, tag := some tag }] }) s
    let s := admitPacket (fun n s => sendBack src id n.packet (drop s)) .spi (1 + src.toNat) b s
    flushRelayed (if (s.slot? tag).isNone then drop s else s)

/-- A CMD frame of a relayed command: its bytes so far, or the packet whole. -/
def relayArrived (src : Byte) (id : BitVec 16) (more : Bool) (b : Bytes) (s : State) : State :=
  let mine (x : RelayIn) : Bool := x.src == src && x.id == id && x.tag.isNone
  let got := (match s.rope.relaysIn.find? mine with | some x => x.got | none => []) ++ b
  let s := onRope (fun r => { r with relaysIn := r.relaysIn.filter fun x => !mine x }) s
  if more then onRope (fun r => { r with relaysIn := r.relaysIn ++ [{ src := src, id := id, got := got }] }) s
  else takeRelayed src id got s

/-- A CMD frame of a reply: ROPE_RELAY ends with DONE once it is whole; one without bytes says that eight relayed commands were
in flight. -/
def relayReplied (src : Byte) (id : BitVec 16) (more : Bool) (b : Bytes) (s : State) : State :=
  let mine (r : RelayOut) : Bool := r.id == id && r.dst == src
  match s.rope.relaysOut.find? mine with
  | none => s
  | some r =>
    let got := r.got ++ b
    if more then onRope (fun x => { x with relaysOut := x.relaysOut.map fun r => if mine r then { r with got := got } else r }) s
    else
      finish r.tag (if got.isEmpty then stQueueFull else 0x00) got
        (onRope (fun x => { x with relaysOut := x.relaysOut.filter fun r => !mine r }) s)

/-! ### The commands that waited for the debug-open erase (R393) -/

/-- Serve the commands accepted during the erase, in order, once it has ended. -/
def serveHeld (s : State) : State :=
  if s.own.erase.isSome then s
  else
    s.own.heldCommands.foldl
      (fun s c => if (s.slot? c.2.1.tag).any (fun x => !x.replied) then runWhole c.1 c.2.1 c.2.2 s else s)
      { s with own := { s.own with heldCommands := [] } }

/-- Serve, in order, the commands that waited to read a busy bank; one whose bank is still busy waits again (R218). -/
def serveReads (s : State) : State :=
  s.nvm.waitingReads.foldl
    (fun s c => if (s.slot? c.2.1.tag).any (fun x => !x.replied) then runWhole c.1 c.2.1 c.2.2 s else s)
    { s with nvm := { s.nvm with waitingReads := [] } }

/-! ### The meanings -/

/-- PUSH over SPI or I²C. -/
def execPush (via : Transport) (held : Nat) (b : Bytes) (s : State) : Answer := .next (pushPacket via held b s)

/-- QPUSH. -/
def execQpush (held : Nat) (b : Bytes) (s : State) : Answer := .next (pushPacket .spi held b s)

/-- PULL over SPI or I²C. -/
def execPull (via : Transport) (clocked : Nat) (s : State) : Answer := .next (pullPacket via clocked s)

/-- QPULL. -/
def execQpull (clocked : Nat) (s : State) : Answer := .next (pullPacket .spi clocked s)

def execAbort (h : Hdr) (p : Bytes) (s : State) : Answer := .next (cmdAbort h p s)
def execRopeRelay (h : Hdr) (p : Bytes) (s : State) : Answer := .next (cmdRopeRelay h p s)

/-- A CMD frame delivers a relayed command, or its reply. -/
def execCmd (r : RopeRx) (relay : BitVec 16) (reply more : Bool) (payload : Bytes) (s : State) : Answer :=
  let info := relay.toNat + 65536 * (b2n reply + 2 * b2n more)
  let f : RopeFrame := { type := 3, dst := 0, src := 0, info := info, payload := payload }
  .next (receive r f (fun s => if reply then relayReplied r.src relay more payload s else relayArrived r.src relay more payload s) s)

/-- A page program ends, after `bad` pages in turn that did not verify (R218, R224). -/
def execNvmProgramDone (bad us : Nat) (s : State) : Answer := .next (serveHeld (programEnds bad us s))

end Sys2Proof.Machine
end

