-- ==== Sys2Proof/Machine/Dispatch.lean ====
section
/-! DEFINITION. The meaning of each command: one arm for each row of the opcode table. -/

namespace Sys2Proof.Machine

def exec (i : Instr) (s : State) : Host.Outcome State Fault Refusal :=
  match i with
  | .push via held b => Sys2Proof.Machine.execPush via held b s
  | .qpush held b => Sys2Proof.Machine.execQpush held b s
  | .pull via clocked => Sys2Proof.Machine.execPull via clocked s
  | .qpull clocked => Sys2Proof.Machine.execQpull clocked s
  | .clearStatus via mask => Sys2Proof.Machine.execClearStatus via mask s
  | .invalidTransportOpcode via op => Sys2Proof.Machine.execInvalidTransportOpcode via op s
  | .fragmentTimeout tag => Sys2Proof.Machine.execFragmentTimeout tag s
  | .sessionIdleTimeout slot => Sys2Proof.Machine.execSessionIdleTimeout slot s
  | .resetReplyTimeout => Sys2Proof.Machine.execResetReplyTimeout s
  | .nop h p => Sys2Proof.Machine.execNop h p s
  | .devInfo h p => Sys2Proof.Machine.execDevInfo h p s
  | .devStatus h p => Sys2Proof.Machine.execDevStatus h p s
  | .linkConfigRead h p => Sys2Proof.Machine.execLinkConfigRead h p s
  | .linkConfigWrite h p => Sys2Proof.Machine.execLinkConfigWrite h p s
  | .linkCounters h p => Sys2Proof.Machine.execLinkCounters h p s
  | .linkCountersClear h p => Sys2Proof.Machine.execLinkCountersClear h p s
  | .sessionOpen h p => Sys2Proof.Machine.execSessionOpen h p s
  | .sessionClose h p => Sys2Proof.Machine.execSessionClose h p s
  | .sessionStatus h p => Sys2Proof.Machine.execSessionStatus h p s
  | .devLabelSet h p => Sys2Proof.Machine.execDevLabelSet h p s
  | .devLabelGet h p => Sys2Proof.Machine.execDevLabelGet h p s
  | .resetWarm h p => Sys2Proof.Machine.execResetWarm h p s
  | .resetFull h p => Sys2Proof.Machine.execResetFull h p s
  | .abort h p => Sys2Proof.Machine.execAbort h p s
  | .powerStateGet h p => Sys2Proof.Machine.execPowerStateGet h p s
  | .powerStateSetBivouac h p => Sys2Proof.Machine.execPowerStateSetBivouac h p s
  | .powerStateSetWatch h p => Sys2Proof.Machine.execPowerStateSetWatch h p s
  | .wakeConfig h p => Sys2Proof.Machine.execWakeConfig h p s
  | .tickAlarmDisable h p => Sys2Proof.Machine.execTickAlarmDisable h p s
  | .tickAlarmAbsolute h p => Sys2Proof.Machine.execTickAlarmAbsolute h p s
  | .tickAlarmRelative h p => Sys2Proof.Machine.execTickAlarmRelative h p s
  | .timeGet h p => Sys2Proof.Machine.execTimeGet h p s
  | .clockStatus h p => Sys2Proof.Machine.execClockStatus h p s
  | .thermalConfig h p => Sys2Proof.Machine.execThermalConfig h p s
  | .thermalStatus h p => Sys2Proof.Machine.execThermalStatus h p s
  | .powerPolicyRead h p => Sys2Proof.Machine.execPowerPolicyRead h p s
  | .powerPolicyWrite h p => Sys2Proof.Machine.execPowerPolicyWrite h p s
  | .afePinRoleSet h p => Sys2Proof.Machine.execAfePinRoleSet h p s
  | .afePinRoleGet h p => Sys2Proof.Machine.execAfePinRoleGet h p s
  | .afeChannelConfig h p => Sys2Proof.Machine.execAfeChannelConfig h p s
  | .afeChannelGet h p => Sys2Proof.Machine.execAfeChannelGet h p s
  | .afeExcitationSet h p => Sys2Proof.Machine.execAfeExcitationSet h p s
  | .afeLeadMeasureLoop h p => Sys2Proof.Machine.execAfeLeadMeasureLoop h p s
  | .afeLeadMeasureKelvin h p => Sys2Proof.Machine.execAfeLeadMeasureKelvin h p s
  | .afeLeadMeasureSet h p => Sys2Proof.Machine.execAfeLeadMeasureSet h p s
  | .afeLeadGet h p => Sys2Proof.Machine.execAfeLeadGet h p s
  | .afePairConfigSet h p => Sys2Proof.Machine.execAfePairConfigSet h p s
  | .afePairConfigRemove h p => Sys2Proof.Machine.execAfePairConfigRemove h p s
  | .afePairStatus h p => Sys2Proof.Machine.execAfePairStatus h p s
  | .afeDiag h p => Sys2Proof.Machine.execAfeDiag h p s
  | .afeCalRun h p => Sys2Proof.Machine.execAfeCalRun h p s
  | .streamConfigSet h p => Sys2Proof.Machine.execStreamConfigSet h p s
  | .streamConfigRemove h p => Sys2Proof.Machine.execStreamConfigRemove h p s
  | .streamGet h p => Sys2Proof.Machine.execStreamGet h p s
  | .streamStart h p => Sys2Proof.Machine.execStreamStart h p s
  | .streamStartInstant => Sys2Proof.Machine.execStreamStartInstant s
  | .streamStopNow h p => Sys2Proof.Machine.execStreamStopNow h p s
  | .streamStopAfterFrame h p => Sys2Proof.Machine.execStreamStopAfterFrame h p s
  | .sportConfig h p => Sys2Proof.Machine.execSportConfig h p s
  | .sportGet h p => Sys2Proof.Machine.execSportGet h p s
  | .tachConfig h p => Sys2Proof.Machine.execTachConfig h p s
  | .encConfig h p => Sys2Proof.Machine.execEncConfig h p s
  | .streamCounters h p => Sys2Proof.Machine.execStreamCounters h p s
  | .streamCountersClear h p => Sys2Proof.Machine.execStreamCountersClear h p s
  | .streamSnapshot h p => Sys2Proof.Machine.execStreamSnapshot h p s
  | .featConfigSet h p => Sys2Proof.Machine.execFeatConfigSet h p s
  | .featConfigRemove h p => Sys2Proof.Machine.execFeatConfigRemove h p s
  | .featGet h p => Sys2Proof.Machine.execFeatGet h p s
  | .featOrderConfig h p => Sys2Proof.Machine.execFeatOrderConfig h p s
  | .featBandsSet h p => Sys2Proof.Machine.execFeatBandsSet h p s
  | .featStateConfig h p => Sys2Proof.Machine.execFeatStateConfig h p s
  | .featFrameRead h p => Sys2Proof.Machine.execFeatFrameRead h p s
  | .beltPositionGet h p => Sys2Proof.Machine.execBeltPositionGet h p s
  | .beltConfigDisable h p => Sys2Proof.Machine.execBeltConfigDisable h p s
  | .beltConfigSet h p => Sys2Proof.Machine.execBeltConfigSet h p s
  | .setIndex h p => Sys2Proof.Machine.execSetIndex h p s
  | .beltClearCount h p => Sys2Proof.Machine.execBeltClearCount h p s
  | .modelLoadBegin h p => Sys2Proof.Machine.execModelLoadBegin h p s
  | .modelLoadData h p => Sys2Proof.Machine.execModelLoadData h p s
  | .modelLoadAbandon h p => Sys2Proof.Machine.execModelLoadAbandon h p s
  | .modelVerify h p => Sys2Proof.Machine.execModelVerify h p s
  | .modelPlace h p => Sys2Proof.Machine.execModelPlace h p s
  | .modelPlaceRidge h p others => Sys2Proof.Machine.execModelPlaceRidge h p others s
  | .modelUnload h p => Sys2Proof.Machine.execModelUnload h p s
  | .modelPlacementGet h p => Sys2Proof.Machine.execModelPlacementGet h p s
  | .modelList h p => Sys2Proof.Machine.execModelList h p s
  | .modelStart h p => Sys2Proof.Machine.execModelStart h p s
  | .modelStop h p => Sys2Proof.Machine.execModelStop h p s
  | .modelReplace h p => Sys2Proof.Machine.execModelReplace h p s
  | .modelBindStreams h p => Sys2Proof.Machine.execModelBindStreams h p s
  | .jobSubmit h p => Sys2Proof.Machine.execJobSubmit h p s
  | .resultRead h p => Sys2Proof.Machine.execResultRead h p s
  | .resultPin h p => Sys2Proof.Machine.execResultPin h p s
  | .resultUnpin h p => Sys2Proof.Machine.execResultUnpin h p s
  | .rmStatus h p => Sys2Proof.Machine.execRmStatus h p s
  | .rmCounters h p => Sys2Proof.Machine.execRmCounters h p s
  | .rmCountersClear h p => Sys2Proof.Machine.execRmCountersClear h p s
  | .rmShareSet h p => Sys2Proof.Machine.execRmShareSet h p s
  | .queueStatus h p => Sys2Proof.Machine.execQueueStatus h p s
  | .queueStatusClearHigh h p => Sys2Proof.Machine.execQueueStatusClearHigh h p s
  | .resultSubscribe h p => Sys2Proof.Machine.execResultSubscribe h p s
  | .headConfig h p => Sys2Proof.Machine.execHeadConfig h p s
  | .headGet h p => Sys2Proof.Machine.execHeadGet h p s
  | .rewardCancel h p => Sys2Proof.Machine.execRewardCancel h p s
  | .rewardImmediate h p => Sys2Proof.Machine.execRewardImmediate h p s
  | .rewardHeld h p => Sys2Proof.Machine.execRewardHeld h p s
  | .modulatorConfig h p => Sys2Proof.Machine.execModulatorConfig h p s
  | .headFreeze h p => Sys2Proof.Machine.execHeadFreeze h p s
  | .headResume h p => Sys2Proof.Machine.execHeadResume h p s
  | .headSave h p => Sys2Proof.Machine.execHeadSave h p s
  | .headRestore h p => Sys2Proof.Machine.execHeadRestore h p s
  | .headExport h p => Sys2Proof.Machine.execHeadExport h p s
  | .headImport h p => Sys2Proof.Machine.execHeadImport h p s
  | .headConsolidate h p => Sys2Proof.Machine.execHeadConsolidate h p s
  | .headStats h p => Sys2Proof.Machine.execHeadStats h p s
  | .headStatsClear h p => Sys2Proof.Machine.execHeadStatsClear h p s
  | .headReset h p => Sys2Proof.Machine.execHeadReset h p s
  | .headEraseOrphan h p => Sys2Proof.Machine.execHeadEraseOrphan h p s
  | .houtMap h p => Sys2Proof.Machine.execHoutMap h p s
  | .houtGet h p => Sys2Proof.Machine.execHoutGet h p s
  | .belayConfig h p => Sys2Proof.Machine.execBelayConfig h p s
  | .belayArm h p => Sys2Proof.Machine.execBelayArm h p s
  | .belayDisarm h p => Sys2Proof.Machine.execBelayDisarm h p s
  | .belayTrip h p => Sys2Proof.Machine.execBelayTrip h p s
  | .belayAbortHold h p => Sys2Proof.Machine.execBelayAbortHold h p s
  | .belayRearm h p => Sys2Proof.Machine.execBelayRearm h p s
  | .belayDeclareStop h p => Sys2Proof.Machine.execBelayDeclareStop h p s
  | .belayStatus h p => Sys2Proof.Machine.execBelayStatus h p s
  | .alarmSetMask h p => Sys2Proof.Machine.execAlarmSetMask h p s
  | .alarmSetHost h p => Sys2Proof.Machine.execAlarmSetHost h p s
  | .alarmClearHost h p => Sys2Proof.Machine.execAlarmClearHost h p s
  | .alarmAcknowledge h p => Sys2Proof.Machine.execAlarmAcknowledge h p s
  | .ropeStatus h p => Sys2Proof.Machine.execRopeStatus h p s
  | .ropeEnumerate h p => Sys2Proof.Machine.execRopeEnumerate h p s
  | .ropeDetach h p => Sys2Proof.Machine.execRopeDetach h p s
  | .ropeAttach h p => Sys2Proof.Machine.execRopeAttach h p s
  | .ropeRelay h p => Sys2Proof.Machine.execRopeRelay h p s
  | .ropeTopologyGet h p => Sys2Proof.Machine.execRopeTopologyGet h p s
  | .ropeRetrain h p => Sys2Proof.Machine.execRopeRetrain h p s
  | .ropeCounters h p => Sys2Proof.Machine.execRopeCounters h p s
  | .ropeCountersClear h p => Sys2Proof.Machine.execRopeCountersClear h p s
  | .ownerProvision h p => Sys2Proof.Machine.execOwnerProvision h p s
  | .ownerRemove h p => Sys2Proof.Machine.execOwnerRemove h p s
  | .ownerList h p => Sys2Proof.Machine.execOwnerList h p s
  | .attest h p => Sys2Proof.Machine.execAttest h p s
  | .epochRoll h p => Sys2Proof.Machine.execEpochRoll h p s
  | .debugChallenge h p => Sys2Proof.Machine.execDebugChallenge h p s
  | .debugOpen h p => Sys2Proof.Machine.execDebugOpen h p s
  | .keyRotate h p => Sys2Proof.Machine.execKeyRotate h p s
  | .trngRead h p => Sys2Proof.Machine.execTrngRead h p s
  | .cairnInfo h p => Sys2Proof.Machine.execCairnInfo h p s
  | .cairnRead h p => Sys2Proof.Machine.execCairnRead h p s
  | .cairnReadPinned h p => Sys2Proof.Machine.execCairnReadPinned h p s
  | .cairnMark h p => Sys2Proof.Machine.execCairnMark h p s
  | .cairnRemoteRead h p => Sys2Proof.Machine.execCairnRemoteRead h p s
  | .calRun h p => Sys2Proof.Machine.execCalRun h p s
  | .calStatus h p => Sys2Proof.Machine.execCalStatus h p s
  | .selftestRunQuick h p => Sys2Proof.Machine.execSelftestRunQuick h p s
  | .selftestRunFull h p => Sys2Proof.Machine.execSelftestRunFull h p s
  | .selftestResult h p => Sys2Proof.Machine.execSelftestResult h p s
  | .wearStatus h p => Sys2Proof.Machine.execWearStatus h p s
  | .wearConfig h p => Sys2Proof.Machine.execWearConfig h p s
  | .coreStatus h p => Sys2Proof.Machine.execCoreStatus h p s
  | .coreFence h p => Sys2Proof.Machine.execCoreFence h p s
  | .coreUnfence h p => Sys2Proof.Machine.execCoreUnfence h p s
  | .clipCounters h p => Sys2Proof.Machine.execClipCounters h p s
  | .clipCountersClear h p => Sys2Proof.Machine.execClipCountersClear h p s
  | .fwUpdateBegin h p => Sys2Proof.Machine.execFwUpdateBegin h p s
  | .fwUpdateData h p => Sys2Proof.Machine.execFwUpdateData h p s
  | .fwUpdateCommit h p => Sys2Proof.Machine.execFwUpdateCommit h p s
  | .fwSlotStatus h p => Sys2Proof.Machine.execFwSlotStatus h p s
  | .nvmStatus h p => Sys2Proof.Machine.execNvmStatus h p s
  | .nvmRegionInfo h p => Sys2Proof.Machine.execNvmRegionInfo h p s
  | .powerOnReset slow => Sys2Proof.Machine.execPowerOnReset slow s
  | .brownoutDetect programs => Sys2Proof.Machine.execBrownoutDetect programs s
  | .brownoutRelease => Sys2Proof.Machine.execBrownoutRelease s
  | .powerOff => Sys2Proof.Machine.execPowerOff s
  | .resetPinAssert => Sys2Proof.Machine.execResetPinAssert s
  | .resetPinRelease => Sys2Proof.Machine.execResetPinRelease s
  | .resetTakeEffect => Sys2Proof.Machine.execResetTakeEffect s
  | .thermalResetRelease => Sys2Proof.Machine.execThermalResetRelease s
  | .watchdogExpiry => Sys2Proof.Machine.execWatchdogExpiry s
  | .controlCoreException code => Sys2Proof.Machine.execControlCoreException code s
  | .firmwareRestartDone => Sys2Proof.Machine.execFirmwareRestartDone s
  | .bootRomStart straps programs => Sys2Proof.Machine.execBootRomStart straps programs s
  | .erasePendingComplete => Sys2Proof.Machine.execErasePendingComplete s
  | .authComplete => Sys2Proof.Machine.execAuthComplete s
  | .deviceReady => Sys2Proof.Machine.execDeviceReady s
  | .bootGuardExpiry => Sys2Proof.Machine.execBootGuardExpiry s
  | .vholdThreshold mv => Sys2Proof.Machine.execVholdThreshold mv s
  | .holdupHoldEnd => Sys2Proof.Machine.execHoldupHoldEnd s
  | .xo32QualifyInterval edges => Sys2Proof.Machine.execXo32QualifyInterval edges s
  | .xo32EdgeLoss => Sys2Proof.Machine.execXo32EdgeLoss s
  | .xo32Retry => Sys2Proof.Machine.execXo32Retry s
  | .xo32Absent => Sys2Proof.Machine.execXo32Absent s
  | .xo24Qualified us => Sys2Proof.Machine.execXo24Qualified us s
  | .xo24QualifyTimeout => Sys2Proof.Machine.execXo24QualifyTimeout s
  | .xo24Retry => Sys2Proof.Machine.execXo24Retry s
  | .xo24Stopped => Sys2Proof.Machine.execXo24Stopped s
  | .pllLocked pll => Sys2Proof.Machine.execPllLocked pll s
  | .pllLockLoss pll => Sys2Proof.Machine.execPllLockLoss pll s
  | .tickAlarmFire => Sys2Proof.Machine.execTickAlarmFire s
  | .wakeNLow => Sys2Proof.Machine.execWakeNLow s
  | .watchThresholdFire channel samples => Sys2Proof.Machine.execWatchThresholdFire channel samples s
  | .ropeSquelchWake => Sys2Proof.Machine.execRopeSquelchWake s
  | .wakeComplete => Sys2Proof.Machine.execWakeComplete s
  | .autoSleepDwellExpiry => Sys2Proof.Machine.execAutoSleepDwellExpiry s
  | .sleepEntryStart => Sys2Proof.Machine.execSleepEntryStart s
  | .sleepEntryComplete us => Sys2Proof.Machine.execSleepEntryComplete us s
  | .governorSample cores engine anchor => Sys2Proof.Machine.execGovernorSample cores engine anchor s
  | .anchorTempSample anchor => Sys2Proof.Machine.execAnchorTempSample anchor s
  | .domainSwitchDone us va30 milli => Sys2Proof.Machine.execDomainSwitchDone us va30 milli s
  | .domainIdleRelease domain => Sys2Proof.Machine.execDomainIdleRelease domain s
  | .sampleArrival stream picovolts drive sense overload => Sys2Proof.Machine.execSampleArrival stream picovolts drive sense overload s
  | .fabricTransaction stream rest => Sys2Proof.Machine.execFabricTransaction stream rest s
  | .excLimitEngaged d => Sys2Proof.Machine.execExcLimitEngaged d s
  | .excLimitReleased d => Sys2Proof.Machine.execExcLimitReleased d s
  | .driverSettleDone d => Sys2Proof.Machine.execDriverSettleDone d s
  | .frameStart stream => Sys2Proof.Machine.execFrameStart stream s
  | .calBurstComplete channel raws step lead drive sense => Sys2Proof.Machine.execCalBurstComplete channel raws step lead drive sense s
  | .frameClose stream => Sys2Proof.Machine.execFrameClose stream s
  | .tdmFrameSync port rising onRise onFall hz => Sys2Proof.Machine.execTdmFrameSync port rising onRise onFall hz s
  | .sportLost port => Sys2Proof.Machine.execSportLost port s
  | .spiPoll port sensor reply => Sys2Proof.Machine.execSpiPoll port sensor reply s
  | .tachEdge tach rising held ns => Sys2Proof.Machine.execTachEdge tach rising held ns s
  | .tachIdle tach => Sys2Proof.Machine.execTachIdle tach s
  | .encEdge a b held ns => Sys2Proof.Machine.execEncEdge a b held ns s
  | .spliceMark high held => Sys2Proof.Machine.execSpliceMark high held s
  | .encIdle => Sys2Proof.Machine.execEncIdle s
  | .encoderSlip => Sys2Proof.Machine.execEncoderSlip s
  | .encoderRestored => Sys2Proof.Machine.execEncoderRestored s
  | .pairPartnerTimeout pair => Sys2Proof.Machine.execPairPartnerTimeout pair s
  | .leadMeasureDone picovolts => Sys2Proof.Machine.execLeadMeasureDone picovolts s
  | .featureFrameTake => Sys2Proof.Machine.execFeatureFrameTake s
  | .featureQueueRoute => Sys2Proof.Machine.execFeatureQueueRoute s
  | .jobStart => Sys2Proof.Machine.execJobStart s
  | .layerDispatch => Sys2Proof.Machine.execLayerDispatch s
  | .cimPassDone core parityOk => Sys2Proof.Machine.execCimPassDone core parityOk s
  | .streamLayerDone => Sys2Proof.Machine.execStreamLayerDone s
  | .vectorLayerDone => Sys2Proof.Machine.execVectorLayerDone s
  | .protoForwardDone => Sys2Proof.Machine.execProtoForwardDone s
  | .assetUpdate => Sys2Proof.Machine.execAssetUpdate s
  | .confirmWindowEnd => Sys2Proof.Machine.execConfirmWindowEnd s
  | .coastTimerEnd => Sys2Proof.Machine.execCoastTimerEnd s
  | .stopDwellEnd => Sys2Proof.Machine.execStopDwellEnd s
  | .motionDwellEnd => Sys2Proof.Machine.execMotionDwellEnd s
  | .rearmTimerEnd => Sys2Proof.Machine.execRearmTimerEnd s
  | .startGuardEnd => Sys2Proof.Machine.execStartGuardEnd s
  | .learningStep head => Sys2Proof.Machine.execLearningStep head s
  | .rewardUpdate head => Sys2Proof.Machine.execRewardUpdate head s
  | .settlePeriodEnd head => Sys2Proof.Machine.execSettlePeriodEnd head s
  | .holdoffPeriodEnd head => Sys2Proof.Machine.execHoldoffPeriodEnd head s
  | .headSaveCommit head => Sys2Proof.Machine.execHeadSaveCommit head s
  | .consolidationInForce head => Sys2Proof.Machine.execConsolidationInForce head s
  | .arrayWriteDone array stuck residual outside bad => Sys2Proof.Machine.execArrayWriteDone array stuck residual outside bad s
  | .recalibration core residual outside bad => Sys2Proof.Machine.execRecalibration core residual outside bad s
  | .quickSelftest core ok => Sys2Proof.Machine.execQuickSelftest core ok s
  | .fullSelftest core quickOk otherOk failing => Sys2Proof.Machine.execFullSelftest core quickOk otherOk failing s
  | .clipWindowEnd array => Sys2Proof.Machine.execClipWindowEnd array s
  | .wearHourlyAccrual => Sys2Proof.Machine.execWearHourlyAccrual s
  | .wearDayBoundary => Sys2Proof.Machine.execWearDayBoundary s
  | .nvmOperationStart => Sys2Proof.Machine.execNvmOperationStart s
  | .nvmProgramDone bad us => Sys2Proof.Machine.execNvmProgramDone bad us s
  | .nvmEraseDone ok us => Sys2Proof.Machine.execNvmEraseDone ok us s
  | .cairnCommit programs => Sys2Proof.Machine.execCairnCommit programs s
  | .trngHealthFail repetition => Sys2Proof.Machine.execTrngHealthFail repetition s
  | .trngRetry passed => Sys2Proof.Machine.execTrngRetry passed s
  | .debugChallengeExpiry => Sys2Proof.Machine.execDebugChallengeExpiry s
  | .tapReset => Sys2Proof.Machine.execTapReset s
  | .bypass opcode tdi => Sys2Proof.Machine.execBypass opcode tdi s
  | .idcode tdi => Sys2Proof.Machine.execIdcode tdi s
  | .samplePreload pins tdi => Sys2Proof.Machine.execSamplePreload pins tdi s
  | .extest pins tdi => Sys2Proof.Machine.execExtest pins tdi s
  | .highz pins tdi => Sys2Proof.Machine.execHighz pins tdi s
  | .clamp pins tdi => Sys2Proof.Machine.execClamp pins tdi s
  | .dbgChal tdi => Sys2Proof.Machine.execDbgChal tdi s
  | .dbgOpen tdi => Sys2Proof.Machine.execDbgOpen tdi s
  | .dbgAccess tdi => Sys2Proof.Machine.execDbgAccess tdi s
  | .train r deviceId bootCount index lanes credits => Sys2Proof.Machine.execTrain r deviceId bootCount index lanes credits s
  | .trainAck r lanes => Sys2Proof.Machine.execTrainAck r lanes s
  | .trainingAttemptTimeout port => Sys2Proof.Machine.execTrainingAttemptTimeout port s
  | .laneSyncLoss port lane => Sys2Proof.Machine.execLaneSyncLoss port lane s
  | .squelchSilence port => Sys2Proof.Machine.execSquelchSilence port s
  | .enumStart => Sys2Proof.Machine.execEnumStart s
  | .enum r index headId ids => Sys2Proof.Machine.execEnum r index headId ids s
  | .enumEnd r count ids => Sys2Proof.Machine.execEnumEnd r count ids s
  | .topology r gen kind count lost ids => Sys2Proof.Machine.execTopology r gen kind count lost ids s
  | .headConflict r => Sys2Proof.Machine.execHeadConflict r s
  | .noEnumTimeout => Sys2Proof.Machine.execNoEnumTimeout s
  | .heartbeatSend => Sys2Proof.Machine.execHeartbeatSend s
  | .heartbeat r gen => Sys2Proof.Machine.execHeartbeat r gen s
  | .heartbeatLoss => Sys2Proof.Machine.execHeartbeatLoss s
  | .linkLost r port chip => Sys2Proof.Machine.execLinkLost r port chip s
  | .join r port => Sys2Proof.Machine.execJoin r port s
  | .sleep r => Sys2Proof.Machine.execSleep r s
  | .detach r => Sys2Proof.Machine.execDetach r s
  | .wakeBurstTimeout port => Sys2Proof.Machine.execWakeBurstTimeout port s
  | .circulationRoundStart slot => Sys2Proof.Machine.execCirculationRoundStart slot s
  | .round r slot round => Sys2Proof.Machine.execRound r slot round s
  | .roundDone r slot round waiting => Sys2Proof.Machine.execRoundDone r slot round waiting s
  | .roundAbort r slot => Sys2Proof.Machine.execRoundAbort r slot s
  | .retire r slot bytes => Sys2Proof.Machine.execRetire r slot bytes s
  | .landGrant r slot layer frames => Sys2Proof.Machine.execLandGrant r slot layer frames s
  | .act r slot layer ref offset data gcmTag => Sys2Proof.Machine.execAct r slot layer ref offset data gcmTag s
  | .wstream r slot layer shard roundLow offset data gcmTag => Sys2Proof.Machine.execWstream r slot layer shard roundLow offset data gcmTag s
  | .cmd r relay reply more payload => Sys2Proof.Machine.execCmd r relay reply more payload s
  | .cairn r relay reply more payload => Sys2Proof.Machine.execCairn r relay reply more payload s
  | .credit port good ack nak credits => Sys2Proof.Machine.execCredit port good ack nak credits s
  | .ackTimer port => Sys2Proof.Machine.execAckTimer port s
  | .remoteReadTimeout relay => Sys2Proof.Machine.execRemoteReadTimeout relay s
  | .afeBankEnable h p => Sys2Proof.Machine.execAfeBankEnable h p s
  | .va30OutOfRegulation out => Sys2Proof.Machine.execVa30OutOfRegulation out s
  | .ioRailRangeChange sensor inRange => Sys2Proof.Machine.execIoRailRangeChange sensor inRange s
  | .vcoreBuckInRegulation => Sys2Proof.Machine.execVcoreBuckInRegulation s
  | .codeGroupSyncAcquired port lane => Sys2Proof.Machine.execCodeGroupSyncAcquired port lane s
  | .headLoadDone head => Sys2Proof.Machine.execHeadLoadDone head s
  | .modelVerifyDone slot => Sys2Proof.Machine.execModelVerifyDone slot s
  | .fwImageVerified => Sys2Proof.Machine.execFwImageVerified s

end Sys2Proof.Machine
end

