-- ==== Sys2Proof/Machine/Tick.lean ====
section
/-! DEFINITION. What the block does by itself while no command waits: time goes on (log entry 3). -/

namespace Sys2Proof.Machine

/-- One XO24 cycle passes while XO24 counts, and otherwise one tick period (R64, R65). -/
def passTime (s : State) : State :=
  if s.clk.xo24On && s.clk.counting && decide (s.clk.cycles + 1 < Config.cyclesInTick s.clk.tick) then
    onClk (fun c => { c with cycles := c.cycles + 1 }) s
  else passEdge s

/-- The checks of the packets in the receive buffer are complete, and their space is free (R58). -/
def checksComplete (s : State) : State := s.mapLink fun l => { l with rxHeld := 0 }

/-- The saves at the front of the heads' operations begin (R281). -/
def serveHeads (s : State) : State := (List.range 4).foldl (fun s n => serveHead n s) s

/-- An idle step: nothing happens while the device is OFF; otherwise the receive buffer empties, what waits for the Rope or for
a bank of the NVM goes on, trainings, array writes and heads' saves begin, the head chip's orders reach a member and time
passes. -/
def idle (s : State) : State :=
  if !s.isOn 0 then s else 
    passTime (takeOrder (serveHeads (beginWrites (beginTrainings (flushRope (flushRelayed (serveReads (checksComplete s))))))))

end Sys2Proof.Machine
end

