-- ==== Sys2Proof/Machine/Pins.lean ====
section
/-! DEFINITION. What the digital balls of Table 18-4 do as seen from outside, from the state alone (chapter 18, R77, R391). -/

namespace Sys2Proof.Machine

/-- The digital signal balls of Table 18-4; a lane's pair counts as one. -/
inductive Ball where
  | hostSck | hostCsN | hostIo (k : Fin 4) | i2cScl | i2cSda | irqN | wakeN | belayOk | alarmN
  | sportSck (p : Fin 4) | sportFs (p : Fin 4) | sportDi (p : Fin 4) | sportDo (p : Fin 4) | sportCs (p k : Fin 4)
  | tach (k : Fin 4) | encA | encB | encZ
  | ropeTx (port lane : Fin 2) | ropeRx (port lane : Fin 2)
  | tck | tms | tdi | tdo | trstN | resetN | strap (k : Fin 4)
  deriving DecidableEq, Repr

/-- The supply that a ball refers to. -/
inductive Rail where
  | vioH | vioS | always
  deriving DecidableEq, Repr

/-- What a ball does: it is high-impedance and ignored, it is read, it carries the unit's signal, or it is held at a level; an
open-drain ball is high-impedance or low. -/
inductive Drive where
  | highZ | read | signal | high | low
  deriving DecidableEq, Repr

/-- The rail column of Table 18-4 (R417); RESET_N, the straps and the Rope refer to internal supplies (R419). -/
def Ball.rail : Ball → Rail
  | .belayOk | .alarmN | .sportSck _ | .sportFs _ | .sportDi _ | .sportDo _ | .sportCs _ _ | .tach _ | .encA | .encB | .encZ => .vioS
  | .ropeTx _ _ | .ropeRx _ _ | .resetN | .strap _ => .always
  | _ => .vioH

/-- The pull column of Table 18-4: up or down. -/
def Ball.pull : Ball → Option Bool
  | .hostCsN | .wakeN | .tms | .tdi | .sportCs _ _ | .resetN => some true
  | .hostIo k => if 2 ≤ k.val then some true else none
  | .sportSck _ | .sportFs _ | .sportDi _ | .sportDo _ | .tach _ | .encA | .encB | .encZ | .tck | .trstN => some false
  | _ => none

/-- A rail is in range. -/
def railOk (s : State) : Rail → Bool
  | .vioH => s.pwr.vioHOk
  | .vioS => s.pwr.vioSOk
  | .always => s.isOn 0

/-- The pull that is active on a ball: that of Table 18-4 while its rail is in range, in every power state (R418). -/
def activePull (s : State) (b : Ball) : Option Bool := if railOk s b.rail then b.pull else none

/-- The cells of BELAY_OK and ALARM_N are observe-only, and boundary scan reaches neither the TAP's own balls nor RESET_N (R391). -/
def Ball.scanned : Ball → Bool
  | .belayOk | .alarmN | .tck | .tms | .tdi | .tdo | .trstN | .resetN => false
  | _ => true

/-- The ball is read where a condition holds, and is ignored otherwise. -/
def readIf (c : Bool) : Drive := if c then .read else .highZ

/-- The unit behind the ball drives it where a condition holds. -/
def signalIf (c : Bool) : Drive := if c then .signal else .highZ

/-- What the functional side does with a ball whose rail is in range (R417, Table 18-4). -/
def functional (s : State) : Ball → Drive
  | .hostSck | .hostCsN => readIf (hears .spi s)
  | .hostIo k => if k = 1 then signalIf (hears .spi s) else readIf (hears .spi s)
  | .i2cScl | .i2cSda => readIf (hears .i2c s)
  | .irqN => if irqAsserted s then .low else .highZ
  | .wakeN => readIf (asleep s)
  | .belayOk => if belayOk s then .high else .low
  | .alarmN => if s.bly.alarm then .low else .highZ
  | .sportSck p | .sportFs p =>
    let x := rd s.stm.ports p
    if !works s 6 || x.mode == .disabled then .highZ
    else if x.mode == .tdm && !bit x.cfg.toNat 15 then .read
    else .signal
  | .sportDi p => readIf (works s 6 && (rd s.stm.ports p).mode != .disabled)
  | .sportDo p | .sportCs p _ => signalIf (works s 6 && (rd s.stm.ports p).mode == .spi)
  | .tach k => readIf (tachHeard s k)
  | .encA | .encB | .encZ => readIf (encoderHeard s)
  | .ropeTx p _ => signalIf (s.isOn 11 && (s.port p).phase != .off)
  | .ropeRx p _ => readIf (if asleep s then s.pwr.watching.ropeWake else s.isOn 11 && (s.port p).phase != .off)
  | .tck | .tms | .tdi | .trstN => readIf (s.isOn 0)
  | .tdo => .highZ
  | .resetN => readIf (s.isOn 0)
  | .strap _ => .highZ

/-- What a ball does. High impedance, its input ignored, while its rail is out of range (R77); under EXTEST, HIGHZ and CLAMP with
RESET_N low the boundary register's, but for the observe-only cells (R391). TDO is driven in the Shift states only, which no
state of the model stands in. -/
def drives (s : State) (b : Ball) : Drive :=
  if !railOk s b.rail then .highZ
  else if pinsTaken s && b.scanned then (if s.own.tap.instr == 0x03 then .highZ else .signal)
  else functional s b

end Sys2Proof.Machine
end

