-- ==== Sys2Proof/Safety.lean ====
section
/-! DEFINITION. The terms in which claims about the block are stated: when a whole command is taken up and what that alone
leaves, the form of a completion, what lasts through a step, and the invariants of the memories and of Belay. -/

namespace Sys2Proof.Machine

/-! ### A command taken up (checks 5 to 9 of Table 2-8) -/

/-- The host port or the Rope brings the command, the port accepts packets, its tag is free, no sleep entry of the
device's own is abandoned for it, no debug-open erase holds it, the phase is READY, and a secure packet verifies in a live
session whose counter goes on (R22, R23, R33, R41, R80, R82, R99, R367, R393). -/
abbrev Taken (h : Hdr) (s : State) : Prop :=
  (hostTag h.tag = true → hears h.via s = true ∧ s.pwr.entry.any (·.automatic) = false)
  ∧ s.link.closed = false ∧ s.slot? h.tag = none ∧ s.own.erase.any (fun e => e.step != 1) = false ∧ s.boot.phase = .ready
  ∧ (h.secure = true → (s.session h.owner).phase = .live ∧ h.authentic = true
      ∧ h.seq = BitVec.ofNat 8 (s.session h.owner).rx ∧ (s.session h.owner).rx + 1 < 2 ^ 32)

/-- The reply slot of a command that has just been taken up (R33). -/
def newSlot (op : Byte) (h : Hdr) (s : State) : Slot :=
  { tag := h.tag, opcode := op, secure := h.secure, owner := h.owner, seq := h.seq
    session := if h.secure then (s.session h.owner).id else 0
    named := if h.secure then (s.session h.owner).id else 0 }

/-- What taking a command up leaves, before its own effect: the port bound, the tag in flight, the session's counter
advanced, and the highest level of the tags in flight kept. -/
def entered (op : Byte) (h : Hdr) (s : State) : State :=
  let slots := s.link.slots ++ [newSlot op h s]
  let x := s.session h.owner
  { s with
    link := { s.link with
      bound := if hostTag h.tag then some h.via else s.link.bound
      slots := slots
      sessions := if h.secure then wr s.link.sessions h.owner.toNat { x with rx := x.rx + 1 } else s.link.sessions }
    mdl := { s.mdl with high := upd s.mdl.high 6 (max (slots.countP fun c => hostTag c.tag)) } }

/-- The terminal reply of the command just taken up: it becomes pending, for the host port or for the Rope (R34, R367). -/
def replies (op : Byte) (h : Hdr) (status : Byte) (payload : Bytes) (s : State) : State :=
  finish h.tag status payload (entered op h s)

/-! ### Completion -/

/-- A row that is an ACP command: its opcode and rights, the condition on its payload and on the state under which
the spec has it executed, and its effect on the state that has taken it up. -/
structure CommandRow where
  command : Hdr → Bytes → Instr
  opcode : Byte
  rights : Hdr → Bytes → State → Rights := fun _ _ _ => .anyone
  ready : Hdr → Bytes → State → Prop
  effect : Hdr → Bytes → State → State

/-- The premises of a row, on its operands and the state alone. -/
abbrev CommandRow.Met (r : CommandRow) (h : Hdr) (p : Bytes) (s : State) : Prop :=
  Taken h s ∧ (r.rights h p s).allow h s = true ∧ r.ready h p s

/-- Where its premises hold the row completes with its effect. -/
def CommandRow.Completes (r : CommandRow) : Prop :=
  ∀ h p s, r.Met h p s → exec (r.command h p) s = .next (r.effect h p (entered r.opcode h s))

/-- A row that is something that happens, at given operands: the condition on the state under which the spec gives it its
effect, and that effect. -/
structure EventRow where
  command : Instr
  ready : State → Prop
  effect : State → State

/-- Where its condition holds the row completes with its effect. -/
def EventRow.Completes (r : EventRow) : Prop := ∀ s, r.ready s → exec r.command s = .next (r.effect s)

/-! ### What a step leaves as it was -/

/-- The parts of the state beside the host port and the queue of commands. -/
inductive Part where
  | clk | pwr | thm | pins | boot | nvm | cairn | afe | stm | feat | own | bly | mdl | lrn | rope | free
  deriving DecidableEq, Repr

/-- A part is as it was; of the models' part all but the high levels of the queues, which every reply and event may raise. -/
def Part.same (x : Part) (s t : State) : Prop :=
  match x with
  | .clk => t.clk = s.clk
  | .pwr => t.pwr = s.pwr
  | .thm => t.thm = s.thm
  | .pins => t.pins = s.pins
  | .boot => t.boot = s.boot
  | .nvm => t.nvm = s.nvm
  | .cairn => t.cairn = s.cairn
  | .afe => t.afe = s.afe
  | .stm => t.stm = s.stm
  | .feat => t.feat = s.feat
  | .own => t.own = s.own
  | .bly => t.bly = s.bly
  | .mdl => t.mdl = { s.mdl with high := t.mdl.high }
  | .lrn => t.lrn = s.lrn
  | .rope => t.rope = s.rope
  | .free => t.free = s.free

/-- Every part but these is as it was, and so is the queue of commands. -/
def Keeps (parts : List Part) (s t : State) : Prop := t.pending = s.pending ∧ ∀ x : Part, x ∉ parts → x.same s t

/-! ### What the NVM and the record hold -/

/-- Pages in rising order, none of them saying nothing. -/
abbrev PagesWf (l : List PageInfo) : Prop := l.Pairwise (fun a b => a.page < b.page) ∧ ∀ i ∈ l, i.listed = true

/-- What the NVM holds, the record among it, is in canonical form. -/
abbrev MemoryWf (s : State) : Prop := PagesWf s.nvm.pages

/-- The 64 bytes in the cells of a position of the record. -/
abbrev stored (s : State) (pos : Nat) : Bytes := slice (fixed 256 (pageInfo s (cellPage pos)).data) (64 * (pos % 4)) 64

/-- The record holds something at this position, on a page whose programming was not cut short. -/
abbrev Held (s : State) (pos : Nat) : Prop :=
  (pageInfo s (cellPage pos)).state = .valid ∧ (pageInfo s (cellPage pos)).torn = false ∧ (pageInfo s (cellPage pos)).side = none
    ∧ stored s pos ≠ List.replicate 64 0

/-- The operation that the NVM carries out programs or erases this page. -/
abbrev AtWork (s : State) (page : Nat) : Prop :=
  (∃ o, s.nvm.posted.head? = some o ∧ if o.erase then o.page ≤ page ∧ page < o.page + 16 else o.page = page)
    ∨ ∃ f, s.nvm.busy = .background f ∧ f ≤ page ∧ page < f + 16

/-- `t` holds at this position what `s` holds; the exceptions are the physics of the part: a page whose program was cut short, for
the replay to write again, and one with more bit errors than its code corrects (R217, R455). -/
abbrev KeptAt (s t : State) (pos : Nat) : Prop :=
  (Held t pos ∧ stored t pos = stored s pos) ∨ (pageInfo t (cellPage pos)).torn = true ∨ ∃ n, 4 < Config.bitErrors (cellPage pos) n

/-- `t`'s record is `s`'s after at most `k` commits: nothing held has changed but at the circular positions of the sequence numbers
issued between, and on a page that the operation in progress is for (R396, R398, R409). -/
abbrev RecordGrows (k : Nat) (s t : State) : Prop :=
  ∃ n, n ≤ k ∧ t.cairn.nextSeq = s.cairn.nextSeq + BitVec.ofNat 32 n ∧
    ∀ pos, Held s pos → ¬ AtWork s (cellPage pos) →
      KeptAt s t pos ∨ ∃ j < n, pos = cairnPosition (s.cairn.nextSeq + BitVec.ofNat 32 j).toNat

/-! ### Belay -/

/-- BELAY_OK is low in this state of Belay (R333). -/
def low (p : BelayPhase) : Prop := p ≠ .armed ∧ p ≠ .hold

/-- A trip has passed its commit point and no rearm has begun (R18). -/
def fallen (p : BelayPhase) : Prop := p = .tripped ∨ p = .coasting ∨ p = .stopped

end Sys2Proof.Machine
end

