-- ==== Sys2Proof/Certificates/Slice0/RowsChain.lean ====
section
/-! DEFINITION. When the ports of the Rope train, and frames arrive in step, are sent and are acknowledged, and with what
effect: one row each (chapter 15). -/

namespace Sys2Proof.Rows

open Machine

/-! ### Training and loss -/

/-- A good TRAIN frame on a powered port: a port that is not training begins to, once the bubble that training is may be; the neighbour,
its lanes and its receive buffers are kept, and with the port training TRAIN_ACK names the lanes of both (R161, R348, R359). -/
noncomputable abbrev train (r : RopeRx) (deviceId : Word64) (bootCount : Word32) (index : Byte) (lanes : BitVec 2)
    (credits : Vector (BitVec 16) 4) : EventRow where
  command := .train r deviceId bootCount index lanes credits
  ready s := (s.port r.port.toNat).phase ≠ .off ∧ r.good = true
  effect s :=
    let p := r.port.toNat
    let x := s.port p
    let training := if x.phase = .training then s else startTraining p s
    let both := lanes &&& x.synced &&& x.allowed
    let known := onRopePort p (fun y => { y with
      train := some both, neighbour := index, neighbourId := some (deviceId, bootCount)
      changed := y.changed || (x.neighbourId.isSome && x.neighbourId != some (deviceId, bootCount))
      credits := credits.map BitVec.toNat }) training
    if (known.port p).phase = .training then checkTrained p (drive p (neighbourFrame known 2 both.toNat []) known) else known

/-- A good TRAIN_ACK on a training port: the lanes both may use are agreed. -/
noncomputable abbrev trainAck (r : RopeRx) (lanes : BitVec 2) : EventRow where
  command := .trainAck r lanes
  ready s := (s.port r.port.toNat).phase = .training ∧ r.good = true
  effect s := checkTrained r.port.toNat
    (onRopePort r.port.toNat (fun x => { x with acked := some (lanes &&& x.allowed) }) s)

/-- The last attempt of a training: the third, or the fifth where both lanes were allowed from its beginning. -/
def lastAttempt (x : RopePort) : Nat := if x.allowed = 3 ∨ 4 ≤ x.attempt then 5 else 3

/-- An attempt to train runs out, and another follows: the fourth on lane 0 alone, the fifth on lane 1 (R348). -/
noncomputable abbrev trainingNextAttempt (port : BitVec 1) : EventRow where
  command := .trainingAttemptTimeout port
  ready s := (s.port port.toNat).phase = .training ∧ (s.port port.toNat).attempt < lastAttempt (s.port port.toNat)
  effect s := onRopePort port.toNat (fun y =>
    let n := (s.port port.toNat).attempt + 1
    { y with attempt := n, train := none, acked := none
             allowed := if n = 4 then 1 else if n = 5 then 2 else (s.port port.toNat).allowed }) s

/-- The last attempt runs out: a port that has been up is lost, one that has not goes idle, and the commands that waited end. -/
noncomputable abbrev trainingFails (port : BitVec 1) : EventRow where
  command := .trainingAttemptTimeout port
  ready s := (s.port port.toNat).phase = .training ∧ lastAttempt (s.port port.toNat) ≤ (s.port port.toNat).attempt
  effect s :=
    let p := port.toNat
    let ended := onRopePort p (fun x => { x with allowed := if 4 ≤ x.attempt then 3 else x.allowed }) (endTrainBubble p s)
    if (s.port p).everUp then portLost p ended
    else flushRope (endTrainTags p (discardWaiting p
      (onRopePort p (fun x => { x with phase := .idle, attempt := 0, train := none, acked := none, lanes := 0 }) ended)))

/-- A lane of a powered port acquires code-group synchronisation: a training port sends TRAIN, a silent one begins to train. -/
noncomputable abbrev codeGroupSyncAcquired (port lane : BitVec 1) : EventRow where
  command := .codeGroupSyncAcquired port lane
  ready s := (s.port port.toNat).phase ≠ .off
  effect s :=
    let p := port.toNat
    let synced := onRopePort p (fun x => { x with synced := setBit x.synced lane.toNat true }) s
    match (s.port p).phase with
    | .training => if ((synced.port p).synced &&& (s.port p).allowed) ≠ 0 then drive p (trainFrame synced p) synced else synced
    | .idle | .lost | .asleep => startTraining p synced
    | _ => synced

/-- A lane in use loses synchronisation: the port retrains; the second loss in a second of a two-lane port drops the lane (R349, R350). -/
noncomputable abbrev laneSyncLoss (port lane : BitVec 1) : EventRow where
  command := .laneSyncLoss port lane
  ready s := (s.port port.toNat).isUp = true ∧ (s.port port.toNat).lanes.getLsbD lane.toNat = true
  effect s :=
    let p := port.toNat; let k := lane.toNat
    let x := s.port p
    let recent := (rd x.losses k).filter fun t => decide (since s t < 32768)
    let dropped := !recent.isEmpty && x.lanes == 3
    startTraining p (onRopePort p (fun x => { x with
      losses := wr x.losses k (recent ++ [s.clk.tick])
      allowed := if dropped then setBit x.allowed k false else x.allowed
      counters := if dropped then { x.counters with degrades := satInc x.counters.degrades } else x.counters })
      (onRopePort p (fun x => { x with synced := setBit x.synced k false }) s))

/-- A port that was up hears nothing on either lane: it is lost. -/
noncomputable abbrev squelchSilence (port : BitVec 1) : EventRow where
  command := .squelchSilence port
  ready s := (s.port port.toNat).synced = 0
    ∧ ((s.port port.toNat).phase = .up ∨ (s.port port.toNat).phase = .upOne
      ∨ ((s.port port.toNat).phase = .training ∧ ((s.port port.toNat).from' = .up ∨ (s.port port.toNat).from' = .upOne)))
  effect s := portLost port.toNat (if (s.port port.toNat).phase = .training then endTrainBubble port.toNat s else s)

/-- The burst that wakes a neighbour runs out on a port that is not up: what waited to be sent is discarded. -/
noncomputable abbrev wakeBurstTimeout (port : BitVec 1) : EventRow where
  command := .wakeBurstTimeout port
  ready s := (s.port port.toNat).burst = true ∧ (s.port port.toNat).isUp = false
  effect s := discardWaiting port.toNat s

/-! ### Frames that arrive in step -/

/-- The port is up, the frame's CRC holds, and its LSEQ is the one expected. -/
abbrev InStep (r : RopeRx) (s : State) : Prop :=
  (s.port r.port.toNat).isUp = true ∧ r.good = true ∧ r.lseq = (s.port r.port.toNat).rxSeq

/-- A frame in step is counted. -/
def countFrame (r : RopeRx) (s : State) : State :=
  onRopePort r.port.toNat (fun x => { x with
    rxSeq := x.rxSeq + 1, unacked := x.unacked + 1, refused := 0, nak := false
    counters := { x.counters with rx := satInc x.counters.rx } }) s

/-- A frame in step is acted on where it is addressed to this chip, to the neighbour or to all, and passed on where it is for
another or for all. Its units of credit are owed at once where it is not passed on, or else once it has left; the sixteenth
unacknowledged frame is acknowledged (R358, R359, R360). -/
def heard (r : RopeRx) (f : RopeFrame) (act : State → State) (s : State) : State :=
  let p := r.port.toNat
  let counted := countFrame r s
  let mine := r.dst == 0xFE || r.dst == 0xFF || r.dst.toNat == counted.rope.index
  let whole := { f with dst := r.dst, src := r.src, buffer := some r.port }
  let passed :=
    if mine && r.dst != 0xFF then onRopePort p (fun x => { x with owed := upd x.owed (channelOf f.type) (· + f.units) }) counted
    else forward p whole counted
  let answered := if 16 ≤ (passed.port p).unacked then returnCredit p false passed else passed
  flushRope (if mine then act answered else answered)

/-- ENUM on the head of a ring ends its enumeration; one with another head's identity is a conflict; a chip takes the index
it is offered on port 0 and passes the next on, or ends the chain (R352, R353, R354). -/
noncomputable abbrev enum (r : RopeRx) (index : Nat) (headId : Word64) (ids : List Word64) : EventRow where
  command := .enum r index headId ids
  ready s := InStep r s
  effect s := heard r (ctrl 3 index (le 8 headId.toNat)) (fun s =>
    if isHead s then
      if headId = Config.deviceId then
        if s.rope.enumerating && r.port == 0 then enumDone .ring index ids false s else s
      else ropeFault 2 0xFF (portSend 0 (neighbourFrame s 6 0 []) s)
    else if r.port ≠ 0 then s
    else if 64 ≤ index then portSend 0 { ctrlFrame s 4 0 64 [] with src := 0xFF } s
    else
      let offered := onRope (fun b => { b with offered := some index, headId := headId }) s
      if (offered.port 1).isUp then
        portSend 1 { neighbourFrame offered 3 (index + 1) (le 8 headId.toNat) with src := BitVec.ofNat 8 index } offered
      else portSend 0 { ctrlFrame offered 4 0 (index + 1) [] with src := BitVec.ofNat 8 index } offered) s

/-- ENUM_END gives the enumerating head the chain. -/
noncomputable abbrev enumEnd (r : RopeRx) (count : Nat) (ids : List Word64) : EventRow where
  command := .enumEnd r count ids
  ready s := InStep r s
  effect s := heard r (ctrl 4 count []) (fun s =>
    if isHead s && s.rope.enumerating then enumDone .chain count ids (r.src == 0xFF) s else s) s

/-- TOPOLOGY gives every other chip its index and the topology, or takes its index away (R354, R372). -/
noncomputable abbrev topology (r : RopeRx) (gen : Byte) (kind : Topo) (count : Nat) (lost : Word64) (ids : List Word64) : EventRow where
  command := .topology r gen kind count lost ids
  ready s := InStep r s
  effect s := heard r (ctrl 5 0 ([gen, kind.code, BitVec.ofNat 8 count, 0] ++ le 8 lost.toNat ++ ids.flatMap fun i => le 8 i.toNat))
    (fun s =>
      let index := match s.rope.offered with
        | some i => if ids.getD i 0 = Config.deviceId then i else s.rope.index
        | none => s.rope.index
      if isHead s then s
      else if kind = .none then loseIndex (onRope (fun b => { b with gen := gen }) s)
      else if index = 0xFF then s
      else endLostRelays (topologyEvent (onRope (fun b => { b with
        index := index, offered := none, topo := kind, count := count, gen := gen, lostMask := lost, ids := ids }) s))) s

/-- HEAD_CONFLICT tells the head that the Rope has two: its topology is none (R353). -/
noncomputable abbrev headConflict (r : RopeRx) : EventRow where
  command := .headConflict r
  ready s := InStep r s
  effect s := heard { r with dst := if isHead s then r.dst else 0 } (ctrl 6 0 []) (fun s =>
    if isHead s then endEnum 0x00 2 (ropeFault 2 0xFF (newTopology .none 0 0 [] (onRope (fun b => { b with conflict := true }) s)))
    else s) s

/-- HEARTBEAT is heard. -/
noncomputable abbrev heartbeat (r : RopeRx) (gen : Byte) : EventRow where
  command := .heartbeat r gen
  ready s := InStep r s
  effect s := heard r (ctrl 7 gen.toNat []) (onRope fun b => { b with heartbeat := true }) s

/-- LINK_LOST tells the head of a lost link. -/
noncomputable abbrev linkLostHeard (r : RopeRx) (port : BitVec 1) (chip : Byte) : EventRow where
  command := .linkLost r port chip
  ready s := InStep r s
  effect s := heard r (ctrl 8 (port.toNat + 256 * chip.toNat) []) (fun s =>
    if isHead s then linkLost r.src.toNat port.toNat s else s) s

/-- JOIN makes the head enumerate. -/
noncomputable abbrev join (r : RopeRx) (port : BitVec 1) : EventRow where
  command := .join r port
  ready s := InStep r s
  effect s := heard r (ctrl 9 port.toNat []) (fun s => if isHead s then startEnum s else s) s

/-- SLEEP tells that the neighbour sleeps: the port is ASLEEP. -/
noncomputable abbrev sleep (r : RopeRx) : EventRow where
  command := .sleep r
  ready s := InStep r s
  effect s := heard r (ctrl 0x0A 0 []) (fun s => linkEvent r.port.toNat (s.port r.port.toNat).phase
    (onRopePort r.port.toNat (fun x => { x with phase := .asleep, lanes := 0, synced := 0 }) s)) s

/-- DETACH tells that the neighbour leaves: the port is lost. -/
noncomputable abbrev detach (r : RopeRx) : EventRow where
  command := .detach r
  ready s := InStep r s
  effect s := heard r (ctrl 0x0B 0 []) (portLost r.port.toNat) s

/-- ROUND starts a Circulation round on every chip that holds a Pitch of the model (R364). -/
noncomputable abbrev round (r : RopeRx) (slot : BitVec 3) (number : Word32) : EventRow where
  command := .round r slot number
  ready s := InStep r s
  effect s := heard r (ctrl 0x0C slot.toNat (le 4 number.toNat)) (fun s =>
    if (s.model slot.toNat).phase = .pitch ∧ (s.model slot.toNat).placement.mode = 5
    then takeRound slot.toNat number s else s) s

/-- ROUND_DONE reports to the head. -/
noncomputable abbrev roundDone (r : RopeRx) (slot : BitVec 3) (number : Word32) (waiting : BitVec 16) : EventRow where
  command := .roundDone r slot number waiting
  ready s := InStep r s
  effect s := heard r (ctrl 0x0D slot.toNat (le 4 number.toNat ++ le 2 waiting.toNat)) (fun s =>
    if isHead s then roundReported r.src.toNat slot.toNat number waiting.toNat s else s) s

/-- ROUND_ABORT abandons the round on this chip (R371). -/
noncomputable abbrev roundAbort (r : RopeRx) (slot : BitVec 3) : EventRow where
  command := .roundAbort r slot
  ready s := InStep r s
  effect s := heard r (ctrl 0x0E slot.toNat []) (endRound slot.toNat) s

/-- RETIRE takes a shard's bytes off those outstanding, which lets the next shards go (R365). -/
noncomputable abbrev retire (r : RopeRx) (slot : BitVec 3) (bytes : Word32) : EventRow where
  command := .retire r slot bytes
  ready s := InStep r s
  effect s := heard r (ctrl 0x0F slot.toNat (le 4 bytes.toNat)) (fun s =>
    let fewer := onRidge slot.toNat (fun x => { x with circ := { x.circ with outstanding := x.circ.outstanding - bytes.toNat } }) s
    pumpShards slot.toNat (rd fewer.rope.models slot.toNat).circ.unsent fewer) s

/-- LAND_GRANT grants a layer's frames. -/
noncomputable abbrev landGrant (r : RopeRx) (slot : BitVec 3) (layer : Byte) (frames : BitVec 16) : EventRow where
  command := .landGrant r slot layer frames
  ready s := InStep r s
  effect s := heard r (ctrl 0x10 (slot.toNat + 256 * layer.toNat) (le 2 frames.toNat))
    (onRope fun b => { b with grants := b.grants ++ [(slot.toNat, layer.toNat, frames.toNat)] }) s

/-- The frame of an ACT. -/
def actFrame (r : RopeRx) (slot : BitVec 3) (layer : Byte) (ref : BitVec 16) (offset : Nat) (data gcmTag : Bytes) : RopeFrame :=
  { type := 5, dst := r.dst, src := r.src, info := slot.toNat + 256 * layer.toNat + 65536 * ref.toNat
    payload := le 4 offset ++ data ++ gcmTag }

/-- What the outputs of an ACT that is authentic do: the first of a frame make it a frame of a pitch job, they land with those before
them, and the last of a source's hand its values on (R262, R362). -/
def land (m k : Nat) (src : Byte) (ref : BitVec 16) (plain : Bytes) (s : State) : State :=
  let s := openLanding m k src.toNat ref s
  let key (l : Landing) : Bool := l.model == m && l.layer == k && l.src == src.toNat && l.ref == ref
  let got := ((s.rope.landings.find? key).map (·.got)).getD [] ++ plain
  let taken := onRope (fun b => { b with landings := b.landings.filter fun l => !key l }) s
  match landSource taken m k src.toNat (landFrame taken m ref) with
  | none => taken
  | some source =>
    if got.length < landBytes taken m k source then
      onRope (fun b => { b with landings := b.landings ++ [{ model := m, layer := k, src := src.toNat, ref := ref, got := got }] }) taken
    else landed m source ref (landValues taken m k source got) taken

/-- ACT: a partitioned model that is PLACED or RUNNING, or a Pitch of one, takes the outputs, if they decipher under the key of their
era (R362, R386, R387). -/
noncomputable abbrev act (r : RopeRx) (slot : BitVec 3) (layer : Byte) (ref : BitVec 16) (offset : Nat) (data gcmTag : Bytes) : EventRow where
  command := .act r slot layer ref offset data gcmTag
  ready s := InStep r s
  effect s :=
    let f := actFrame r slot layer ref offset data gcmTag
    heard r f (fun s =>
      let e := eraOf slot.toNat ref s
      let phase := (s.model slot.toNat).phase
      if (phase = .running ∨ phase = .pitch ∨ phase = .placed) ∧ (s.model slot.toNat).placement.mode = 4 then
        match gcmOpen (actKey s slot.toNat e.1) (actNonce r.src r.dst layer ref.toNat offset)
            (frameAad f (20 + data.length)) data gcmTag with
        | none => s
        | some plain => land slot.toNat layer.toNat r.src ref plain e.2
      else s) s

/-- The frame of a WSTREAM. -/
def streamFrame (r : RopeRx) (slot : BitVec 3) (layer shard roundLow : Byte) (offset : Nat) (data gcmTag : Bytes) : RopeFrame :=
  { type := 6, dst := r.dst, src := r.src
    info := slot.toNat + 256 * layer.toNat + 65536 * shard.toNat + 16777216 * roundLow.toNat
    payload := le 4 offset ++ data ++ gcmTag }

/-- Bytes of a shard that the chip has with `n` more. -/
def shardHas (c : Circulation) (layer shard : Byte) (n : Nat) : Nat :=
  ((c.applied.filter fun x => x.1 == layer.toNat && x.2.1 == shard.toNat).map (·.2.2)).sum + n

/-- With so many bytes a shard is whole. -/
def shardWhole (m : Nat) (layer shard : Byte) (has : Nat) (s : State) : Bool :=
  (circLayers (s.model m).image).any fun l => l.index == layer.toNat && has == (shardData (s.model m).image l shard.toNat).length

/-- An authentic piece of this round is applied: its bytes count, and a shard that is whole is held for the round's job. -/
def applyShard (m : Nat) (layer shard : Byte) (n : Nat) (s : State) : State :=
  let c := (rd s.rope.models m).circ
  let has := shardHas c layer shard n
  let counted := onRidge m (fun x => { x with circ := { x.circ with
    applied := (x.circ.applied.filter fun y => !(y.1 == layer.toNat && y.2.1 == shard.toNat)) ++ [(layer.toNat, shard.toNat, has)] } }) s
  match counted.mdl.jobs.find? fun j => j.model == m && j.round == some c.round with
  | some j =>
    if shardWhole m layer shard has s then
      onJob j.id (fun j => { j with shards := (j.shards ++ [(layer.toNat, shard.toNat)]).eraseDups }) counted
    else counted
  | none => counted

/-- WSTREAM: an authentic piece of a shard of this round is applied; the last chip of its way retires it, every other passes it on
(R365, R366, R370). -/
noncomputable abbrev wstream (r : RopeRx) (slot : BitVec 3) (layer shard roundLow : Byte) (offset : Nat) (data gcmTag : Bytes) : EventRow where
  command := .wstream r slot layer shard roundLow offset data gcmTag
  ready s := InStep r s
  effect s :=
    let m := slot.toNat
    let f := streamFrame r slot layer shard roundLow offset data gcmTag
    heard { r with dst := 0xFE } f (fun s =>
      let c := (rd s.rope.models m).circ
      let plain := gcmOpen (streamKey s m c.round) ([shard, layer, 6, 0] ++ le 4 offset ++ [0, 0, 0, 0])
        (frameAad f (20 + data.length)) data gcmTag
      let kept :=
        if plain.isSome && c.round.toNat % 256 == roundLow.toNat then applyShard m layer shard data.length s else s
      let ring := kept.rope.topo == .ring
      let ends := if ring then (kept.rope.index + 1) % max 1 kept.rope.count == r.src.toNat else !usable kept (1 - r.port.toNat)
      if ends then sendRope (ctrlFrame kept 0x0F r.src m (le 4 data.length)) kept
      else portSend (if ring then 1 else 1 - r.port.toNat) f kept) s

/-- CMD: a part of a relayed command, or of the reply to one (R367). -/
noncomputable abbrev cmd (r : RopeRx) (relay : BitVec 16) (reply more : Bool) (payload : Bytes) : EventRow where
  command := .cmd r relay reply more payload
  ready s := InStep r s
  effect s := heard r
    { type := 3, dst := 0, src := 0, info := relay.toNat + 65536 * (b2n reply + 2 * b2n more), payload := payload }
    (if reply then relayReplied r.src relay more payload else relayArrived r.src relay more payload) s

/-- CAIRN: a remote read that a READY chip serves, or the reply to one (R413). -/
noncomputable abbrev cairnFrame (r : RopeRx) (relay : BitVec 16) (reply more : Bool) (payload : Bytes) : EventRow where
  command := .cairn r relay reply more payload
  ready s := InStep r s
  effect s := heard r
    { type := 4, dst := 0, src := 0, info := relay.toNat + 65536 * (b2n reply + 2 * b2n more), payload := payload }
    (fun s => if reply then readArrived r.src relay more payload s
      else if s.boot.phase = .ready then serveRead r.src relay payload s else s) s

/-- CREDIT acknowledges up to its LSEQ, or has the frames from that one on sent again, and returns credits; what waited for them is
sent (R358, R359). -/
noncomputable abbrev credit (port : BitVec 1) (ack : BitVec 12) (nak : Bool) (credits : Vector (BitVec 16) 4) : EventRow where
  command := .credit port true ack nak credits
  ready s := (s.port port.toNat).isUp = true
  effect s :=
    let p := port.toNat
    let x := s.port p
    let i := x.replay.findIdx fun r => r.1 == ack
    let left := if i < x.replay.length then x.replay.drop (if nak then i else i + 1) else x.replay
    let freed := onRopePort p (fun x => { x with
      replay := left
      credits := (List.range 4).foldl (fun v i => upd v i (· + (rd credits i).toNat)) x.credits
      counters := if nak then { x.counters with replays := satAdd x.counters.replays left.length } else x.counters }) s
    flushRope (pump p (if nak then resend p freed else freed))

/-- A CREDIT frame with a bad CRC is only counted. -/
noncomputable abbrev creditBad (port : BitVec 1) (ack : BitVec 12) (nak : Bool) (credits : Vector (BitVec 16) 4) : EventRow where
  command := .credit port false ack nak credits
  ready s := (s.port port.toNat).isUp = true
  effect s := onRopePort port.toNat (fun x => { x with counters := { x.counters with crcErrors := satInc x.counters.crcErrors } }) s

/-- Frames unacknowledged for the timer's time are acknowledged, and credits that are owed go back. -/
noncomputable abbrev ackTimer (port : BitVec 1) : EventRow where
  command := .ackTimer port
  ready s := (s.port port.toNat).isUp = true
    ∧ ((s.port port.toNat).unacked ≠ 0 ∨ (s.port port.toNat).owed ≠ Vector.replicate 4 0)
  effect s := returnCredit port.toNat false s

/-! ### What a chip does of itself -/

/-- A head without a topology enumerates. -/
noncomputable abbrev enumStart : EventRow where
  command := .enumStart
  ready s := s.rope.topo = .none ∧ s.rope.enumerating = false
  effect s := flushRope (startEnum s)

/-- A member whose port 0 is up and that no enumeration has reached raises ROPE_FAULT of kind 1, once. -/
noncomputable abbrev noEnumTimeout : EventRow where
  command := .noEnumTimeout
  ready s := role s = 2 ∧ (s.port 0).isUp = true ∧ s.rope.index = 0xFF ∧ s.rope.offered = none ∧ s.rope.noEnumRaised = false
  effect s := ropeFault 1 0xFF (onRope (fun b => { b with noEnumRaised := true }) s)

/-- The head of an enumerated Rope sends its heartbeat. -/
noncomputable abbrev heartbeatSend : EventRow where
  command := .heartbeatSend
  ready s := isHead s = true ∧ s.boot.phase = .ready ∧ s.isOn 11 = true ∧ s.rope.topo ≠ .none
  effect s := flushRope (routeOut (ctrlFrame s 7 0xFF s.rope.gen.toNat []) s)

/-- An enumerated member that hears none loses its index, with ROPE_FAULT of kind 4. -/
noncomputable abbrev heartbeatLoss : EventRow where
  command := .heartbeatLoss
  ready s := role s = 2 ∧ s.rope.index ≠ 0xFF
  effect s := ropeFault 4 0 (loseIndex s)

/-- The head starts a round of a Circulation model, PLACED or RUNNING, for which frames wait anywhere (R274, R364). -/
noncomputable abbrev circulationRoundStart (slot : BitVec 3) : EventRow where
  command := .circulationRoundStart slot
  ready s := isHead s = true ∧ ((s.model slot.toNat).phase = .running ∨ (s.model slot.toNat).phase = .placed) ∧ (s.model slot.toNat).placement.mode = 5
    ∧ (rd s.rope.models slot.toNat).circ.running = false ∧ s.rope.topo ≠ .none
    ∧ (waitingFrames s slot.toNat ≠ [] ∨ ∃ k ∈ (rd s.rope.models slot.toNat).circ.waiting, s.rope.lostMask.getLsbD k = false)
  effect s :=
    let number := (rd s.rope.models slot.toNat).circ.round + 1
    takeRound slot.toNat number (routeOut (ctrlFrame s 0x0C 0xFF slot.toNat (le 4 number.toNat)) s)

end Sys2Proof.Rows
end

