-- ==== Sys2Proof/Certificates/Slice0/RowsGuard.lean ====
section
/-! DEFINITION. When the commands of Belay, the Rope, the Cairn and the cores complete, and with what effect: one row each
(chapters 13 to 17). -/

namespace Sys2Proof.Rows

open Machine

/-! ### Belay (chapter 14) -/

/-- HOUT_MAP: without a payload the map in force; with one in range, while Belay is not armed, the map is set, and a source that
stays the same keeps its state. -/
abbrev houtMap : CommandRow where
  command := .houtMap
  opcode := 0x80
  rights _ _ _ := .site
  ready _ p s := p = [] ∨ p.length = 272 ∧ (∀ k < 8, fld p (40 + 32 * k) 8 = 0 ∧ bits (fld p (18 + 32 * k) 1) 4 4 = 0)
    ∧ (∀ i < 4, outOk p i = true) ∧ (∀ k < 8, (assetFrom p k).ok = true) ∧ belayFixed s = false
  effect h p s :=
    let take (k : Nat) : Asset :=
      let c := assetFrom p k
      let a := s.asset k
      if a.cfg.model = c.model ∧ a.cfg.score = c.score ∧ a.cfg.streams = c.streams then { a with cfg := c, inAlarm := a.inAlarm && c.alarmEn }
      else { cfg := c }
    let t := if p = [] then s
      else lookBelay { s with bly := { s.bly with
        map := Vector.ofFn fun i => outFrom p i.val, assets := Vector.ofFn fun k => take k.val, mapped := true } }
    doneWith h (mapBytes t) t

/-- HOUT_GET. -/
abbrev houtGet : CommandRow where
  command := .houtGet
  opcode := 0x81
  ready _ p _ := p = []
  effect h _ s := doneWith h (houtBytes s) s

/-- BELAY_CONFIG: without a payload the configuration in force; with one in range, while Belay is not armed, it is set. -/
abbrev belayConfig : CommandRow where
  command := .belayConfig
  opcode := 0x82
  rights _ _ _ := .site
  ready _ p s := p = [] ∨ p.length = 16 ∧ bits (fld p 7 1) 3 5 = 0 ∧ (belayFrom p).ok = true ∧ belayFixed s = false
    ∧ ((belayFrom p).coastTach = 0xFF ∨ (rd s.stm.tachs (belayFrom p).coastTach.toNat).phase ≠ .disabled)
  effect h p s :=
    if p = [] then doneWith h s.bly.cfg.bytes s
    else
      let t := { s with bly := { s.bly with cfg := belayFrom p } }
      doneWith h (belayFrom p).bytes
        (lookBelay (if t.bly.phase == .stopped then { t with bly := { t.bly with slow := atRest t, dwell := false } } else t))

/-- BELAY_ARM of a disarmed Belay for which every condition of Table 14-7 holds: it is ARMED. -/
abbrev belayArm : CommandRow where
  command := .belayArm
  opcode := 0x83
  rights _ _ _ := .site
  ready _ p s := p = [] ∧ (s.bly.phase = .armed ∨ s.bly.phase = .disarmed ∧ armFails s = 0)
  effect h _ s :=
    let t := if s.bly.phase = .armed then s else lookBelay (enterArmed s)
    doneWith h (belayReply t) t

/-- BELAY_DISARM from ARMED, STOPPED or REARM. -/
abbrev belayDisarm : CommandRow where
  command := .belayDisarm
  opcode := 0x84
  rights _ _ _ := .site
  ready _ p s := p = [] ∧ (s.bly.phase = .armed ∨ s.bly.phase = .stopped ∨ s.bly.phase = .rearm)
  effect h _ s :=
    let t := lookBelay (endRearm stState 4 (enterBelay .disarmed false { s with bly := { s.bly with startGuard := false } }))
    doneWith h (belayReply t) t

/-- BELAY_TRIP by any owner: the trip request of R336, and what became of it. -/
abbrev belayTrip : CommandRow where
  command := .belayTrip
  opcode := 0x85
  rights _ _ _ := .anyOwner
  ready _ p _ := p.length = 4 ∧ fld p 1 3 = 0 ∧ fld p 0 1 < 2
  effect h p s :=
    let r := tripRequest 2 0xFF none (bit (fld p 0 1) 0) s
    doneWith h [r.2, (lookBelay r.1).bly.phase.code, 0, 0] (lookBelay r.1)

/-- BELAY_ABORT_HOLD in HOLD: the hold is released and counted. -/
abbrev belayAbortHold : CommandRow where
  command := .belayAbortHold
  opcode := 0x86
  rights _ _ _ := .anyOwner
  ready _ p s := p = [] ∧ s.bly.phase = .hold
  effect h _ s := doneWith h [] (lookBelay (noteFreezes (releaseHold { s with bly := { s.bly with aborts := satInc s.bly.aborts } })))

/-- BELAY_REARM in STOPPED with every condition met: STARTED, and REARM runs. -/
abbrev belayRearm : CommandRow where
  command := .belayRearm
  opcode := 0x87
  rights _ _ _ := .site
  ready _ p s := p.length = 4 ∧ fld p 1 3 = 0 ∧ s.bly.phase = .stopped ∧ armFails s = 0
  effect h _ s :=
    let t := enterBelay .rearm false s
    started h.tag (showBelay { t with bly := { t.bly with rearming := some h.tag } })

/-- BELAY_DECLARE_STOP where no deceleration could be seen: Belay is STOPPED. -/
abbrev belayDeclareStop : CommandRow where
  command := .belayDeclareStop
  opcode := 0x87
  rights _ _ _ := .site
  ready _ p s := p.length = 4 ∧ fld p 1 3 = 0 ∧ (s.bly.phase = .tripped ∨ s.bly.phase = .coasting) ∧ s.bly.noDecel = true
  effect h _ s := doneWith h [] (lookBelay (noteFreezes (enterStopped true (if s.bly.phase == .tripped then enterCoasting s else s))))

/-- BELAY_STATUS: the bytes of Table 14-8. -/
abbrev belayStatus : CommandRow where
  command := .belayStatus
  opcode := 0x88
  ready _ p _ := p = []
  effect h _ s :=
    let b := s.bly
    doneWith h ([b.phase.code, b.prev.code, b.cause, b.asset] ++ le 2 (alarmCauses s).toNat ++ le 2 b.alarmMask.toNat
      ++ [BitVec.ofNat 8 (flags [belayOk s, b.alarm]), 0, 0, 0] ++ le 8 b.tState.toNat ++ le 8 b.tCommit.toNat
      ++ le 4 b.v0.toNat ++ le 4 (coastSpeed s) ++ le 4 (coastLeft s) ++ le 2 b.trips.toNat ++ le 2 b.ignored.toNat
      ++ le 2 b.aborts.toNat ++ le 2 b.rechecks.toNat) s

/-- A row of ALARM_SET: what it does to the alarm's causes and mask, and the reply that tells both. -/
abbrev alarmRow (command : Hdr → Bytes → Instr) (limit : Nat) (f : Nat → BelayBlock → BelayBlock) : CommandRow where
  command := command
  opcode := 0x89
  rights _ _ _ := .site
  ready _ p _ := p.length = 4 ∧ fld p 1 1 = 0 ∧ fld p 2 2 < limit
  effect h p s :=
    let t := lookBelay { s with bly := f (fld p 2 2) s.bly }
    doneWith h (le 2 (alarmCauses t).toNat ++ le 2 t.bly.alarmMask.toNat) t

abbrev alarmSetMask : CommandRow := alarmRow .alarmSetMask 512 fun v b => { b with alarmMask := .ofNat 16 v }
abbrev alarmSetHost : CommandRow := alarmRow .alarmSetHost 1 fun _ b => { b with latched := b.latched ||| 0x0080#16 }
abbrev alarmClearHost : CommandRow := alarmRow .alarmClearHost 1 fun _ b => { b with latched := b.latched &&& ~~~0x0080#16 }
abbrev alarmAcknowledge : CommandRow := alarmRow .alarmAcknowledge 512 fun v b => { b with latched := b.latched &&& ~~~(BitVec.ofNat 16 v) }

/-! ### The Rope (chapter 15) -/

/-- ROPE_STATUS. -/
abbrev ropeStatus : CommandRow where
  command := .ropeStatus
  opcode := 0x90
  ready _ p s := p = [] ∧ isRidge s = true
  effect h _ s :=
    let r := s.rope
    doneWith h ([BitVec.ofNat 8 (role s), BitVec.ofNat 8 r.index, r.topo.code, BitVec.ofNat 8 r.count, r.gen,
      BitVec.ofNat 8 (flags [r.detached, r.heartbeat, r.conflict]), 0, 0] ++ portBytes (s.port 0) ++ portBytes (s.port 1) ++ le 8 r.headId.toNat) s

/-- ROPE_ENUMERATE at an attached head chip: STARTED, and enumeration begins. -/
abbrev ropeEnumerate : CommandRow where
  command := .ropeEnumerate
  opcode := 0x91
  rights _ _ _ := .site
  ready _ p s := p = [] ∧ isRidge s = true ∧ isHead s = true ∧ s.rope.detached = false ∧ clockDown s 11 = false
    ∧ s.rope.enumTag = none
  effect h _ s := flushRope (startEnum (started h.tag (onRope (fun r => { r with enumTag := some h.tag, conflict := false }) s)))

/-- ROPE_DETACH, with FORCE or while no Ridge model runs: the neighbours are told, the chip has no index and PD11 is asked to go
off; a detached chip answers at once. -/
abbrev ropeDetach : CommandRow where
  command := .ropeDetach
  opcode := 0x92
  rights _ _ _ := .site
  ready _ p s := p.length = 4 ∧ fld p 0 1 < 2 ∧ fld p 1 3 = 0 ∧ isRidge s = true ∧ (fld p 0 1 = 1 ∨ ridgeRuns s = false)
  effect h _ s :=
    if s.rope.detached then doneWith h [] s
    else
      let t := if (s.port 0).isUp then portSend 0 (neighbourFrame s 0x0B 0 []) s else s
      let t := if (t.port 1).isUp then portSend 1 (neighbourFrame t 0x0B 0 []) t else t
      doneWith h [] (wantDomain 11 false (ropeUnpowered (loseIndex (endRopeTags (ridgeAfter t.rope.lostMask
        (abortRounds (onRope (fun r => { r with detached := true, enumerating := false, conflict := false }) t)))))))

/-- ROPE_ATTACH: an attached chip answers with its ports; a detached one is STARTED, with PD11 asked for. -/
abbrev ropeAttach : CommandRow where
  command := .ropeAttach
  opcode := 0x93
  rights _ _ _ := .site
  ready _ p s := p = [] ∧ isRidge s = true ∧ (s.rope.detached = true → s.rope.attachTag = none ∧ clockDown s 11 = false)
  effect h _ s :=
    if s.rope.detached then wantDomain 11 true (started h.tag (onRope (fun r => { r with detached := false, attachTag := some h.tag }) s))
    else doneWith h [(s.port 0).phase.code, (s.port 1).phase.code, 0, 0] s

/-- ROPE_RELAY to another chip that can be reached: the packet leaves in CMD frames under the next relay number (R367). -/
abbrev ropeRelay : CommandRow where
  command := .ropeRelay
  opcode := 0x94
  ready _ p s := 16 ≤ p.length ∧ p.length ≤ 4068 ∧ fld p 1 3 = 0 ∧ isRidge s = true ∧ fld p 0 1 ≤ 63 ∧ fld p 0 1 ≠ s.rope.index
    ∧ reachable s (fld p 0 1) = true
  effect h p s :=
    let dst := BitVec.ofNat 8 (fld p 0 1)
    (relayFrames dst s.rope.index s.rope.nextRelay (p.drop 4)).foldl (fun s f => routeOut f s)
      (onRope (fun r => { r with nextRelay := r.nextRelay + 1, relaysOut := r.relaysOut ++ [{ tag := h.tag, dst := dst, id := r.nextRelay }] }) s)

/-- ROPE_TOPOLOGY_GET: zeros for a chip without an index, else the header and an entry for each chip. -/
abbrev ropeTopologyGet : CommandRow where
  command := .ropeTopologyGet
  opcode := 0x95
  ready _ p s := p = [] ∧ isRidge s = true
  effect h _ s :=
    let r := s.rope
    let entry (i : Nat) : Bytes :=
      [BitVec.ofNat 8 i, if r.lostMask.getLsbD i then 1 else if r.replaced.contains i then 2 else 0, if i = 0 then 1 else 2,
        BitVec.ofNat 8 (if i = r.index then flags [(s.port 0).phase == .upOne, (s.port 1).phase == .upOne] else 0)]
      ++ le 8 (r.ids.getD i 0).toNat ++ [0, 0, 0, 0]
    doneWith h (if r.index = 255 then List.replicate 16 0
      else [r.topo.code, BitVec.ofNat 8 r.count, r.gen, 0] ++ le 8 r.lostMask.toNat ++ [0, 0, 0, 0] ++ (List.range r.count).flatMap entry) s

/-- ROPE_RETRAIN of a port that is up or down: STARTED, and the port trains on the lanes allowed. -/
abbrev ropeRetrain : CommandRow where
  command := .ropeRetrain
  opcode := 0x96
  rights _ _ _ := .site
  ready _ p s := p.length = 4 ∧ fld p 2 2 = 0 ∧ isRidge s = true ∧ fld p 0 1 ≤ 1 ∧ fld p 1 1 ≤ 2
    ∧ (s.port (fld p 0 1)).phase ≠ .training ∧ (s.port (fld p 0 1)).retrainTag = none ∧ (s.port (fld p 0 1)).phase ≠ .off ∧ (s.port (fld p 0 1)).phase ≠ .asleep
  effect h p s :=
    let lanes : BitVec 2 := if fld p 1 1 = 0 then 3 else BitVec.ofNat 2 (fld p 1 1)
    startTraining (fld p 0 1) (onRopePort (fld p 0 1) (fun x => { x with allowed := lanes, retrainTag := some h.tag })
      (started h.tag s))

/-- ROPE_COUNTERS. -/
abbrev ropeCounters : CommandRow where
  command := .ropeCounters
  opcode := 0x97
  ready _ p s := p.length = 4 ∧ fld p 0 1 < 2 ∧ fld p 1 3 = 0 ∧ isRidge s = true
  effect h _ s := doneWith h (ropeCounterBytes s) s

/-- ROPE_COUNTERS with CLEAR: both ports' counters are zero after the reply. -/
abbrev ropeCountersClear : CommandRow where
  command := .ropeCountersClear
  opcode := 0x97
  rights _ _ _ := .site
  ready _ p s := p.length = 4 ∧ fld p 0 1 < 2 ∧ fld p 1 3 = 0 ∧ isRidge s = true
  effect h _ s := onRopePort 1 (fun x => { x with counters := {} }) (onRopePort 0 (fun x => { x with counters := {} })
    (doneWith h (ropeCounterBytes s) s))

/-! ### The Cairn (chapter 17) -/

/-- CAIRN_INFO: the state of the record, signed where a nonce is given. -/
abbrev cairnInfo : CommandRow where
  command := .cairnInfo
  opcode := 0xB0
  ready _ p _ := p = [] ∨ p.length = 16
  effect h p s := doneWith h (cairnInfoBytes s ++ if p = [] then [] else cairnSign p (cairnInfoBytes s)) s

/-- CAIRN_READ of 1 to 56 entries of the circular area, none of them in a bank that is busy. -/
abbrev cairnRead : CommandRow where
  command := .cairnRead
  opcode := 0xB1
  ready _ p s := p.length = 24 ∧ readReserved p = true ∧ 1 ≤ fld p 4 1 ∧ fld p 4 1 ≤ 56
    ∧ readWaits s (circularPages s (fld p 0 4) (fld p 4 1)) = false
  effect h p s :=
    let r := readCircular (fld p 0 4) (fld p 4 1) (bit (fld p 5 1) 0) (slice p 8 16) s
    doneWith h r.1 r.2

/-- CAIRN_READ_PINNED of 1 to 56 positions of the pinned area, none of them in a bank that is busy. -/
abbrev cairnReadPinned : CommandRow where
  command := .cairnReadPinned
  opcode := 0xB2
  ready _ p s := p.length = 24 ∧ readReserved p = true ∧ 1 ≤ fld p 4 1 ∧ fld p 4 1 ≤ 56 ∧ fld p 0 4 + fld p 4 1 ≤ 256
    ∧ readWaits s ((List.range (fld p 4 1)).map fun k => cellPage (fld p 0 4 + k)) = false
  effect h p s :=
    let r := readPinned (fld p 0 4) (fld p 4 1) (bit (fld p 5 1) 0) (slice p 8 16) s
    doneWith h r.1 r.2

/-- SOURCE of a mark: the owner, or 0x04FF on a device that is not provisioned. -/
def markSource (h : Hdr) : BitVec 16 := if h.secure then 0x0400#16 ||| h.owner.setWidth 16 else 0x04FF

/-- Marks of the last hour. -/
def recentMarks (s : State) : List (BitVec 16 × Ticks) := s.cairn.marks.filter fun m => since s m.2 < 3600 * 32768

/-- CAIRN_MARK with a place in the queue, the owner's 16 marks of the hour not used up: the entry is queued, and answered when
it is committed (R412). -/
abbrev cairnMark : CommandRow where
  command := .cairnMark
  opcode := 0xB3
  rights _ _ _ := .anyOwner
  ready h p s := p.length = 32 ∧ s.pwr.retention = false ∧ s.cairn.queue.length < 32 ∧ (recentMarks s).countP (fun m => m.1 == markSource h) < 16
  effect h p s := wantDomain 3 true (onCairn (fun c => { c with
    queue := c.queue ++ [{ type := 0xB001, source := markSource h, time := now s, bootCount := bootOf s, payload := p, tag := some h.tag }]
    marks := recentMarks s ++ [(markSource h, s.clk.tick)] }) s)

/-- CAIRN_MARK that finds no place in the queue: the entry is dropped and counted (R404), and the command ends with NO_RESOURCE, which
is the model's choice (log entry 76). -/
abbrev cairnMarkDropped : CommandRow where
  command := .cairnMark
  opcode := 0xB3
  rights _ _ _ := .anyOwner
  ready h p s := p.length = 32 ∧ s.pwr.retention = false ∧ 32 ≤ s.cairn.queue.length
    ∧ (recentMarks s).countP (fun m => m.1 == markSource h) < 16
  effect h _ s := finish h.tag stNoResource [] (wantDomain 3 true (onCairn (fun c => { c with
    dropped := satInc c.dropped, droppedReset := satInc c.droppedReset
    marks := recentMarks s ++ [(markSource h, s.clk.tick)] }) s))

/-- CAIRN_REMOTE_READ of a chip that can be reached: the request leaves in a CAIRN frame under the next relay number. -/
abbrev cairnRemoteRead : CommandRow where
  command := .cairnRemoteRead
  opcode := 0xB4
  ready _ p s := p.length = 28 ∧ fld p 2 1 < 2 ∧ fld p 3 1 = 0 ∧ fld p 9 3 = 0 ∧ (fld p 2 1 = 1 ∨ fld p 12 16 = 0) ∧ fld p 0 1 ≤ 63
    ∧ fld p 0 1 ≠ s.rope.index ∧ fld p 1 1 ≤ 1 ∧ 1 ≤ fld p 8 1 ∧ fld p 8 1 ≤ 56 ∧ (fld p 1 1 = 1 → fld p 4 4 + fld p 8 1 ≤ 256)
    ∧ isRidge s = true ∧ reachable s (fld p 0 1) = true
  effect h p s :=
    let chip := BitVec.ofNat 8 (fld p 0 1)
    let id := s.rope.nextRelay
    let t := onRope (fun r => { r with nextRelay := r.nextRelay + 1 }) (commitMark h.tag s)
    routeOut { type := 4, dst := chip, src := BitVec.ofNat 8 s.rope.index, info := id.toNat, payload := p.drop 1 }
      (onCairn (fun c => { c with remote := c.remote ++ [{ tag := h.tag, chip := chip, relay := id }] }) t)

/-! ### Cores and wear (chapter 13) -/

/-- The cores named are healthy, the device is not in thermal TRIP and no PLL has failed. -/
abbrev coresFree (p : Bytes) (s : State) : Prop :=
  fld p 0 1 ≠ 0 ∧ (∀ n ∈ members 8 (fld p 0 1), (s.core n).fenced = false) ∧ thermalState s ≠ .trip ∧ pllDown s = false

/-- A run over cores: STARTED, and it waits for their domains. -/
def coreRun (kind : Nat) (h : Hdr) (p : Bytes) (s : State) : State :=
  wantCores (started h.tag { s with lrn := { s.lrn with runs := s.lrn.runs
    ++ [{ tag := h.tag, kind := kind, mask := BitVec.ofNat 8 (fld p 0 1), left := BitVec.ofNat 8 (fld p 0 1) }] } })

/-- CAL_RUN. -/
abbrev calRun : CommandRow where
  command := .calRun
  opcode := 0xC0
  rights _ _ _ := .site
  ready _ p s := p.length = 4 ∧ fld p 1 3 = 0 ∧ coresFree p s
  effect h p s := coreRun 0 h p s

/-- CAL_STATUS: the eight cores. -/
abbrev calStatus : CommandRow where
  command := .calStatus
  opcode := 0xC1
  ready _ p _ := p = []
  effect h _ s := doneWith h (coreEntries fun n =>
    let c := s.core n
    [BitVec.ofNat 8 n, coreState s n, BitVec.ofNat 8 c.bandForce, BitVec.ofNat 8 c.bandSel] ++ leInt 2 c.tjCal
      ++ le 2 c.maxResidual ++ le 8 c.tCal.toNat) s

/-- SELFTEST_RUN QUICK. -/
abbrev selftestRunQuick : CommandRow where
  command := .selftestRunQuick
  opcode := 0xC2
  rights _ _ _ := .site
  ready _ p s := p.length = 4 ∧ fld p 2 2 = 0 ∧ coresFree p s
  effect h p s := coreRun 1 h p s

/-- SELFTEST_RUN FULL. -/
abbrev selftestRunFull : CommandRow where
  command := .selftestRunFull
  opcode := 0xC2
  rights _ _ _ := .site
  ready _ p s := p.length = 4 ∧ fld p 2 2 = 0 ∧ coresFree p s
  effect h p s := coreRun 2 h p s

/-- SELFTEST_RESULT: the eight cores. -/
abbrev selftestResult : CommandRow where
  command := .selftestResult
  opcode := 0xC3
  ready _ p _ := p = []
  effect h _ s := doneWith h (coreEntries fun n =>
    let c := s.core n
    [BitVec.ofNat 8 n, c.quick, c.full, 0] ++ le 2 (failingColumns s n)
      ++ [BitVec.ofNat 8 (min 255 (recentAnomalies s n).length), 0] ++ le 8 c.tFull.toNat) s

/-- WEAR_STATUS: the days, the refusals and the 64 arrays. -/
abbrev wearStatus : CommandRow where
  command := .wearStatus
  opcode := 0xC4
  ready _ p _ := p = []
  effect h _ s := doneWith h (le 2 s.lrn.lifeDays.toNat ++ le 2 s.lrn.daysUsed.toNat ++ le 2 (remainingDays s)
    ++ [s.lrn.bankDays, BitVec.ofNat 8 (s.mdl.arrays.toList.countP CimArray.worn)] ++ le 4 s.lrn.refused.toNat
    ++ le 4 s.lrn.withdrawals.toNat ++ (List.range 64).flatMap (wearEntry s)) s

/-- WEAR_CONFIG: without a payload the configuration in force; with one in range, the record is posted for commit. -/
abbrev wearConfig : CommandRow where
  command := .wearConfig
  opcode := 0xC5
  rights _ _ _ := .site
  ready _ p s := p = [] ∨ p.length = 8 ∧ fld p 3 1 = 0 ∧ fld p 6 2 = 0 ∧ 365 ≤ fld p 0 2 ∧ fld p 0 2 ≤ 7305 ∧ 1 ≤ fld p 2 1
    ∧ fld p 2 1 ≤ 90 ∧ fld p 4 2 ≤ 7305 ∧ s.lrn.wearSet = none
  effect h p s := if p = [] then doneWith h (wearConfigBytes s) s
    else postWear .config (some h.tag) { s with lrn := { s.lrn with wearSet := some (h.tag, p) } }

/-- CORE_STATUS: the eight cores. -/
abbrev coreStatus : CommandRow where
  command := .coreStatus
  opcode := 0xC6
  ready _ p _ := p = []
  effect h _ s := doneWith h (coreEntries fun n =>
    let c := s.core n
    let own := (List.range 8).map (8 * n + ·)
    [BitVec.ofNat 8 n, coreState s n, c.cause, BitVec.ofNat 8 (own.countP (heldArrays s).contains),
      BitVec.ofNat 8 (own.foldl (fun b a => max b (s.array a).retired) 0), BitVec.ofNat 8 (min 255 (failingColumns s n)), 0, 0]
      ++ le 8 c.tFence.toNat) s

/-- CORE_FENCE: a fenced core answers at once; a healthy one is fenced by command, and its runs end. -/
abbrev coreFence : CommandRow where
  command := .coreFence
  opcode := 0xC7
  rights _ _ _ := .site
  ready _ p _ := p.length = 4 ∧ fld p 2 2 = 0 ∧ fld p 0 1 ≤ 7
  effect h p s := if (s.core (fld p 0 1)).fenced then doneWith h [] s else endRuns (carryOn (fenceCore (fld p 0 1) 7 (some h.tag) s))

/-- CORE_UNFENCE of a fenced core with its columns, its fence committed and no other unfence under way: STARTED, with its domain
asked for. -/
abbrev coreUnfence : CommandRow where
  command := .coreUnfence
  opcode := 0xC7
  rights _ _ _ := .site
  ready _ p s := p.length = 4 ∧ fld p 2 2 = 0 ∧ fld p 0 1 ≤ 7 ∧ (s.core (fld p 0 1)).fenced = true ∧ columnsLost s (fld p 0 1) = false
    ∧ (s.core (fld p 0 1)).fencing = none ∧ s.lrn.unfence = none ∧ thermalState s ≠ .trip ∧ pllDown s = false
  effect h p s := wantDomain (16 + fld p 0 1) true
    (started h.tag { s with lrn := { s.lrn with unfence := some { tag := h.tag, core := fld p 0 1 } } })

/-- CLIP_COUNTERS. -/
abbrev clipCounters : CommandRow where
  command := .clipCounters
  opcode := 0xC9
  ready _ p _ := p.length = 4 ∧ clipReserved p = true
  effect h _ s := doneWith h (clipBytes s) s

/-- CLIP_COUNTERS with CLEAR: the counters of every array are zero after the reply. -/
abbrev clipCountersClear : CommandRow where
  command := .clipCountersClear
  opcode := 0xC9
  rights _ _ _ := .site
  ready _ p _ := p.length = 4 ∧ clipReserved p = true
  effect h _ s := onRm (fun b => { b with arrays := b.arrays.map fun a => { a with clips := 0, conv := 0 } }) (doneWith h (clipBytes s) s)

end Sys2Proof.Rows
end

