-- ==== Sys2Proof/Certificates/Slice0/RowsHost.lean ====
section
/-! DEFINITION. When the commands of the host port, the Anchor, boot, the NVM and the owners complete, and with what effect:
one row each. `ready` looks at the state before the command; `effect` starts from the state that has taken it up. -/

namespace Sys2Proof.Rows

open Machine

/-! ### The host port (chapter 02) -/

/-- NOP: DONE with the payload it came with. -/
abbrev nop : CommandRow where
  command := .nop
  opcode := 0x00
  ready _ p _ := p.length ≤ 4068
  effect h p s := doneWith h p s

/-- DEV_INFO: the 32 bytes of Table 2-14. -/
abbrev devInfo : CommandRow where
  command := .devInfo
  opcode := 0x01
  ready _ p _ := p = []
  effect h _ s := doneWith h (devInfoBytes (transportCode s).2 (transportCode s).1) (transportCode s).2

/-- DEV_STATUS: the 16 bytes of Table 2-15. -/
abbrev devStatus : CommandRow where
  command := .devStatus
  opcode := 0x02
  ready _ p _ := p = []
  effect h _ s := doneWith h (devStatusBytes s) s

/-- LINK_CONFIG without a payload: IRQ_MASK, LOW_EVENTS and two zero bytes. -/
abbrev linkConfigRead : CommandRow where
  command := .linkConfigRead
  opcode := 0x03
  ready _ p _ := p = []
  effect h _ s := doneWith h [s.link.irqMask, if s.link.lowEvents then 1 else 0, 0, 0] s

/-- LINK_CONFIG with a payload sets both fields, and answers with them. -/
abbrev linkConfigWrite : CommandRow where
  command := .linkConfigWrite
  opcode := 0x03
  rights _ _ _ := .site
  ready _ p _ := p.length = 4 ∧ bits (fld p 0 4) 9 23 = 0
  effect h p s := doneWith h [p.getD 0 0, p.getD 1 0, 0, 0]
    (s.mapLink fun l => { l with irqMask := p.getD 0 0, lowEvents := fld p 1 1 == 1 })

/-- LINK_COUNTERS: the ten counters. -/
abbrev linkCounters : CommandRow where
  command := .linkCounters
  opcode := 0x04
  ready _ p _ := p.length = 1 ∧ fld p 0 1 < 2
  effect h _ s := doneWith h s.link.counters.bytes s

/-- LINK_COUNTERS with CLEAR: the ten counters, all zero once the reply is pending. -/
abbrev linkCountersClear : CommandRow where
  command := .linkCountersClear
  opcode := 0x04
  rights _ _ _ := .site
  ready _ p _ := p.length = 1 ∧ fld p 0 1 < 2
  effect h _ s := (doneWith h s.link.counters.bytes s).mapLink fun l => { l with counters := {} }

/-- The key and the identity of a session that SESSION_OPEN opens, its nonces drawn from the DRBG (R378). -/
def opened (p : Bytes) (s : State) : Session × Bytes × Bytes × Bytes × State :=
  let o := fld p 0 1
  let id := drawRandom 4 { s with free := s.free + 1 }
  let nonce := drawRandom 16 id.2
  let devKey := ephemeralKey s.free
  let digest := sha256 (ascii "AETHUO-SESSION-1" ++ idBytes ++ [BitVec.ofNat 8 o] ++ slice p 4 64 ++ slice p 68 16 ++ id.1
    ++ devKey ++ nonce.1)
  let key := hkdfKey (ephemeralShared s.free (slice p 4 64)) (keyBytes (s.ownerSlot o).ork) (ascii "AETHUO-KS" ++ digest)
  ({ phase := .live, id := BitVec.ofNat 32 (leNat id.1), key := key, timeout := if fld p 2 2 = 0 then 300 else fld p 2 2, since := s.clk.tick },
    id.1 ++ devKey ++ nonce.1, digest, nonce.1, nonce.2)

/-- SESSION_OPEN of a provisioned owner that has no session with a command in flight: a key that is no point of the curve is
refused, another opens the session, which replaces the old one (R378). -/
abbrev sessionOpen : CommandRow where
  command := .sessionOpen
  opcode := 0x05
  ready h p s := p.length = 84 ∧ fld p 1 1 = 0 ∧ h.secure = false ∧ fld p 0 1 < 4 ∧ (s.ownerSlot (fld p 0 1)).provisioned = true
    ∧ (fld p 2 2 = 0 ∨ 10 ≤ fld p 2 2 ∧ fld p 2 2 ≤ 3600)
    ∧ ((rd s.link.sessions (fld p 0 1)).phase ≠ .none → inFlight s (rd s.link.sessions (fld p 0 1)).id = 0) ∧ s.own.trngFault = false
  effect h p s :=
    if onCurve (slice p 4 64) then
      let x := opened p s
      doneWith h (x.2.1 ++ dikSign x.2.2.1)
        ((endSession (fld p 0 1) 0x02 x.2.2.2.2).mapLink fun l => { l with sessions := wr l.sessions (fld p 0 1) x.1 })
    else finish h.tag stParam [] s

/-- SESSION_CLOSE in its session, with no other command of it in flight: the session ends once the reply has gone (R44). -/
abbrev sessionClose : CommandRow where
  command := .sessionClose
  opcode := 0x06
  rights h _ _ := if h.secure then .anyone else .bound none
  ready h p s := p = [] ∧ h.secure = true ∧ inFlight s (s.session h.owner).id = 0
  effect h _ s := doneWith h [] (s.mapLink fun l => { l with
    sessions := wr l.sessions h.owner.toNat { s.session h.owner with phase := .ending } })

/-- SESSION_STATUS: the four entries of Table 2-18. -/
abbrev sessionStatus : CommandRow where
  command := .sessionStatus
  opcode := 0x07
  ready _ p _ := p = []
  effect h _ s := doneWith h (s.link.sessions.toList.flatMap (sessionEntry s)) s

/-- DEV_LABEL_SET posts the copy and the commit record of the label. -/
abbrev devLabelSet : CommandRow where
  command := .devLabelSet
  opcode := 0x08
  rights _ _ _ := .site
  ready _ p _ := p.length = 32
  effect h p s := postRecord .label p (some h.tag) false s

/-- DEV_LABEL_GET while no bank it reads is busy: the label, or NVM_ERROR where neither copy can be read (R215, R222). -/
abbrev devLabelGet : CommandRow where
  command := .devLabelGet
  opcode := 0x09
  ready _ p s := p = [] ∧ readWaits s labelPages = false
  effect h _ s :=
    let r := readRecord .label s
    if r.1 = [] ∧ readable s labelPages = false then finish h.tag stNvm [] r.2 else doneWith h (fixed 32 r.1) r.2

/-- DEV_LABEL_GET while a bank it reads is busy waits for it (R218). -/
abbrev devLabelGetWaits : CommandRow where
  command := .devLabelGet
  opcode := 0x09
  ready _ p s := p = [] ∧ readWaits s labelPages = true
  effect h _ s := { s with nvm := { s.nvm with waitingReads := s.nvm.waitingReads ++ [(0x09, h, [])] } }

/-- RESET schedules a reset with a cause, unless one is scheduled: it begins once the reply is pulled, or after 10 ms (R61). -/
abbrev reset (command : Hdr → Bytes → Instr) (cause : Byte) : CommandRow where
  command := command
  opcode := 0x0D
  rights _ _ _ := .site
  ready _ p _ := p.length = 1
  effect h _ s := doneWith h [] { s with boot := { s.boot with scheduled := if s.boot.scheduled = none then some (cause, h.tag) else s.boot.scheduled } }

abbrev resetWarm : CommandRow := reset .resetWarm 0x03
abbrev resetFull : CommandRow := reset .resetFull 0x04

/-- ABORT of a command in flight, of the same owner and not past its commit point: that command ends ABORTED with no effect,
and ABORT is DONE (R52). -/
abbrev abort : CommandRow where
  command := .abort
  opcode := 0x0E
  ready h p s := p.length = 1 ∧ fld p 0 1 < 64 ∧ ∃ c ∈ s.slot? (BitVec.ofNat 13 (h.tag.toNat / 64 * 64 + fld p 0 1)),
    c.secure = h.secure ∧ (h.secure = true → c.owner = h.owner ∧ c.named = (s.session h.owner).id)
      ∧ c.committed = false ∧ c.replied = false ∧ c.opcode ≠ 0x0E
  effect h p s := finish h.tag 0x00 []
    (stopCommand (BitVec.ofNat 13 (h.tag.toNat / 64 * 64 + fld p 0 1)) stAborted [] (commitMark h.tag s))

/-! ### The Anchor (chapter 03) -/

/-- POWER_STATE_GET: the bytes of Table 3-11. -/
abbrev powerStateGet : CommandRow where
  command := .powerStateGet
  opcode := 0x10
  ready _ p _ := p = []
  effect h _ s := doneWith h (powerStateBytes s) s

/-- POWER_STATE_SET with nothing else in flight and Belay at rest: the request commits, and no packet is accepted from then
on (R80). -/
abbrev powerStateSet (command : Hdr → Bytes → Instr) (target : PowerState) : CommandRow where
  command := command
  opcode := 0x11
  rights _ _ _ := .site
  ready _ p s := p.length = 4 ∧ fld p 0 4 < 512 ∧ belayHolds s = false ∧ s.link.slots = [] ∧ repliesPending s = 0
    ∧ s.link.relayed = [] ∧ ridgeRuns s = false
  effect h p s := doneWith h [] { s with
    pwr := { s.pwr with entry := some { target := target, discard := bit (fld p 1 1) 0, automatic := false, tag := some h.tag } }
    link := { s.link with closed := true } }

abbrev powerStateSetBivouac : CommandRow := powerStateSet .powerStateSetBivouac .bivouac
abbrev powerStateSetWatch : CommandRow := powerStateSet .powerStateSetWatch .watch

/-- WAKE_CONFIG sets the configuration of the next WATCH (R87, Table 3-13). -/
abbrev wakeConfig : CommandRow where
  command := .wakeConfig
  opcode := 0x12
  rights _ _ _ := .site
  ready _ p s := p.length = 4 + 8 * watchCount p ∧ watchReserved p = true ∧ watchInRange p = true
    ∧ (bit (fld p 0 1) 7 = true → isRidge s = true)
    ∧ ∀ i < watchCount p, (rd s.afe.channels (BitVec.ofNat 5 (fld p (4 + 8 * i) 1)).toNat).configured = true
  effect h p s := doneWith h [] { s with pwr := { s.pwr with wake :=
    { block := fld p 2 2, ropeWake := bit (fld p 0 1) 7, watchRate := BitVec.ofNat 2 (fld p 0 1)
      entries := (List.range (watchCount p)).map (watchEntry p) } } }

/-- The form of the three rows of TICK_ALARM_SET (Table 3-15). -/
abbrev alarmPayload (p : Bytes) : Prop := p.length = 16 ∧ fld p 1 3 = 0 ∧ fld p 14 2 = 0

/-- TICK_ALARM_SET with MODE 0 disables the alarm. -/
abbrev tickAlarmDisable : CommandRow where
  command := .tickAlarmDisable
  opcode := 0x13
  rights _ _ _ := .site
  ready _ p _ := alarmPayload p
  effect h _ s := doneWith h (le 8 0) { s with pwr := { s.pwr with alarm := {} } }

/-- TICK_ALARM_SET at an instant to come. -/
abbrev tickAlarmAbsolute : CommandRow where
  command := .tickAlarmAbsolute
  opcode := 0x13
  rights _ _ _ := .site
  ready _ p s := alarmPayload p ∧ periodOk p = true ∧ s.clk.tick.toNat < fld p 8 6
  effect h p s := doneWith h (le 8 (BitVec.ofNat 48 (fld p 8 6)).toNat)
    { s with pwr := { s.pwr with alarm := { enabled := true, value := BitVec.ofNat 48 (fld p 8 6), period := BitVec.ofNat 32 (fld p 4 4) } } }

/-- TICK_ALARM_SET at a distance from now. -/
abbrev tickAlarmRelative : CommandRow where
  command := .tickAlarmRelative
  opcode := 0x13
  rights _ _ _ := .site
  ready _ p _ := alarmPayload p ∧ periodOk p = true ∧ fld p 8 6 ≠ 0
  effect h p s := doneWith h (le 8 (s.clk.tick + BitVec.ofNat 48 (fld p 8 6)).toNat)
    { s with pwr := { s.pwr with alarm :=
      { enabled := true, value := s.clk.tick + BitVec.ofNat 48 (fld p 8 6), period := BitVec.ofNat 32 (fld p 4 4) } } }

/-- TIME_GET: the timestamp, BOOT_COUNT and the tick source. -/
abbrev timeGet : CommandRow where
  command := .timeGet
  opcode := 0x14
  ready _ p _ := p = []
  effect h _ s := doneWith h (le 8 (now s).toNat ++ le 4 s.boot.bootCount.toNat ++ [if s.clk.onLprc then 1 else 0, 0, 0, 0]) s

/-- CLOCK_STATUS: the bytes of Table 3-16. -/
abbrev clockStatus : CommandRow where
  command := .clockStatus
  opcode := 0x15
  ready _ p _ := p = []
  effect h _ s := doneWith h (le 4 (clockWord s) ++ le 4 s.clk.lprcFallbacks.toNat ++ le 4 s.clk.xo24StartLast.toNat
    ++ le 4 s.clk.xo24StartMax.toNat) s

/-- THERMAL_CONFIG sets the governor's thresholds and restarts every run (Table 3-17). -/
abbrev thermalConfig : CommandRow where
  command := .thermalConfig
  opcode := 0x16
  rights _ _ _ := .site
  ready _ p _ := p.length = 4 ∧ 60 ≤ fld p 0 1 ∧ fld p 0 1 ≤ 95 ∧ fld p 0 1 + 5 ≤ fld p 1 1 ∧ fld p 1 1 ≤ 105
    ∧ 1 ≤ fld p 2 1 ∧ fld p 2 1 ≤ 7 ∧ 1 ≤ fld p 3 1 ∧ fld p 3 1 ≤ 2
  effect h p s := doneWith h p { s with thm := { s.thm with
    config := { tWarn := p.getD 0 0, tThrottle := p.getD 1 0, throttleCores := p.getD 2 0, throttleDiv := p.getD 3 0 }
    warn := { s.thm.warn with run := 0 }, throttle := { s.thm.throttle with run := 0 }, trip := { s.thm.trip with run := 0 } } }

/-- THERMAL_STATUS: the bytes of Table 3-18. -/
abbrev thermalStatus : CommandRow where
  command := .thermalStatus
  opcode := 0x17
  ready _ p _ := p = []
  effect h _ s := doneWith h ([(thermalState s).code, 0] ++ le 2 s.thm.tj.toNat ++ le 2 s.thm.tjMax.toNat
    ++ [s.thm.hottest, 0] ++ le 4 s.thm.throttleEntries.toNat ++ le 4 s.thm.tripEntries.toNat) s

/-- POWER_POLICY without a payload: the policy in force. -/
abbrev powerPolicyRead : CommandRow where
  command := .powerPolicyRead
  opcode := 0x18
  rights _ _ _ := .site
  ready _ p _ := p = []
  effect h _ s := doneWith h s.pwr.policy.bytes s

/-- POWER_POLICY with a payload sets the policy, and answers with it (Table 3-19). -/
abbrev powerPolicyWrite : CommandRow where
  command := .powerPolicyWrite
  opcode := 0x18
  rights _ _ _ := .site
  ready _ p _ := p.length = 8 ∧ fld p 0 2 < 3 ∧ fld p 6 2 = 0 ∧ 1 ≤ fld p 2 2 ∧ fld p 2 2 ≤ 1000 ∧ fld p 4 2 ≠ 0
  effect h p s := doneWith h p { s with pwr := { s.pwr with policy :=
    { autoState := BitVec.ofNat 2 (fld p 0 2), cimIdleOff := BitVec.ofNat 16 (fld p 2 2), idleDwell := BitVec.ofNat 16 (fld p 4 2) } } }

/-! ### Firmware and the NVM (chapters 04 and 09) -/

/-- FW_UPDATE_BEGIN: STARTED, then the other slot is marked WRITING and every sector of it in use is erased. -/
abbrev fwUpdateBegin : CommandRow where
  command := .fwUpdateBegin
  opcode := 0xD0
  rights _ _ _ := .site
  ready _ p s := p.length = 16 ∧ fld p 12 4 = 0 ∧ 1 ≤ fld p 0 4 ∧ fld p 0 4 ≤ 520192 ∧ s.boot.svnFloor.toNat ≤ fld p 8 4
    ∧ s.boot.begin' = none ∧ s.boot.commit = none
  effect h p s :=
    let k := 1 - s.boot.running.toNat
    let s := started h.tag s
    let s := { s with boot := { s.boot with begin' := some { tag := h.tag, slot := k, payload := p } } }
    let new : FwSlot := { state := .writing, major := .ofNat 8 (fld p 4 1), minor := .ofNat 8 (fld p 5 1), patch := .ofNat 16 (fld p 6 2)
                          svn := .ofNat 32 (fld p 8 4), size := fld p 0 4 }
    postNvm (recordOps (slotRecord k) new.bytes (some h.tag) false s
        ++ (fwUsed s k).map fun f => { page := f, erase := true, job := .fwErase k, tag := some h.tag }) s

/-- FW_UPDATE_DATA at the offset that comes next, within the image: it commits as it is accepted, and its pages are posted. -/
abbrev fwUpdateData : CommandRow where
  command := .fwUpdateData
  opcode := 0xD1
  rights _ _ _ := .site
  ready _ p s := 5 ≤ p.length ∧ p.length ≤ 4068 ∧ ∃ k ∈ s.boot.updating,
    fld p 0 4 = (fwBytes s k).length ∧ fld p 0 4 + (p.length - 4) ≤ (s.fw k).size
  effect h p s :=
    let k := s.boot.updating.getD 0
    let first := fld p 0 4 / 256
    let last := (fld p 0 4 + (p.length - 4) - 1) / 256
    let bytes := fwBytes s k ++ p.drop 4
    postNvm ((List.range (last - first)).map (fun i =>
        { page := fwImagePage k (first + i), data := slice bytes (256 * (first + i)) 256, job := .fwPage k, tag := some h.tag })
      ++ [{ page := fwImagePage k last, data := slice bytes (256 * last) 256, job := .fwLast k (p.drop 4), tag := some h.tag }])
      (commitMark h.tag s)

/-- FW_UPDATE_COMMIT: STARTED, and the image is verified. -/
abbrev fwUpdateCommit : CommandRow where
  command := .fwUpdateCommit
  opcode := 0xD2
  rights _ _ _ := .site
  ready _ p s := p.length = 1 ∧ fld p 0 1 < 2 ∧ s.boot.updating.isSome = true ∧ s.boot.commit = none ∧ s.boot.begin' = none
  effect h p s :=
    let s := started h.tag s
    { s with boot := { s.boot with commit := some { tag := h.tag, slot := s.boot.updating.getD 0, resetNow := bit (fld p 0 1) 0 } } }

/-- FW_SLOT_STATUS: both slots, the SVN floor and the slot capacity (Table 4-9). -/
abbrev fwSlotStatus : CommandRow where
  command := .fwSlotStatus
  opcode := 0xD3
  ready _ p _ := p = []
  effect h _ s := doneWith h (fwEntry s 0 ++ fwEntry s 1 ++ le 4 s.boot.svnFloor.toNat ++ le 4 520192) s

/-- NVM_STATUS: the 48 bytes of Table 9-8. -/
abbrev nvmStatus : CommandRow where
  command := .nvmStatus
  opcode := 0xD4
  ready _ p _ := p = []
  effect h _ s := doneWith h ([BitVec.ofNat 8 (postedPrograms s.nvm.posted),
      BitVec.ofNat 8 (flags [s.nvm.busy != .idle, !s.cairn.queue.isEmpty || s.nvm.busy == .cairn, s.boot.hold]), 0, 0]
    ++ le 4 s.nvm.programs.toNat ++ le 4 s.nvm.erases.toNat ++ le 4 s.nvm.programFails.toNat ++ le 4 s.nvm.eccCorrected.toNat
    ++ le 4 s.nvm.eccUncorrectable.toNat
    ++ le 2 (average s.nvm.programTimes) ++ le 2 (average s.nvm.eraseTimes) ++ s.nvm.unwritten.toList.flatMap fun x => le 4 x.toNat) s

/-- NVM_REGION_INFO of one region or of all nine (Table 9-9). -/
abbrev nvmRegionInfo : CommandRow where
  command := .nvmRegionInfo
  opcode := 0xD5
  ready _ p _ := p.length = 1 ∧ (fld p 0 1 ≤ 8 ∨ fld p 0 1 = 255)
  effect h p s := doneWith h (((List.range 9).filter fun k => fld p 0 1 == 255 || k == fld p 0 1).flatMap (regionEntry s)) s

/-! ### Owners and keys (chapter 16) -/

/-- OWNER_PROVISION of an empty slot, owner 0 first: a key that is no point of the curve or a package that does not open is
refused; the slot's new keys, its NDK and PK drawn, are posted for commit (R374, R377). -/
abbrev ownerProvision : CommandRow where
  command := .ownerProvision
  opcode := 0xA0
  rights _ _ _ := .site
  ready h p s := p.length = 212 ∧ fld p 1 3 = 0 ∧ fld p 0 1 < 4 ∧ s.own.debugOpen = false
    ∧ (s.ownerSlot (fld p 0 1)).provisioned = false ∧ (fld p 0 1 = 0 ∨ unprovisioned s = false ∧ h.secure = true ∧ h.owner = 0)
    ∧ s.own.trngFault = false ∧ keysBusy s = false
  effect h p s :=
    let o := fld p 0 1
    let pub := slice p 68 64
    let z := exchangeShared (slice p 4 64)
    let ork := hkdfKey z idBytes (ascii "AETHUO-ORK" ++ [BitVec.ofNat 8 o])
    let kek := hkdfKey z idBytes (ascii "AETHUO-KEK" ++ [BitVec.ofNat 8 o])
    if !(onCurve (slice p 4 64) && onCurve pub) then finish h.tag stParam [] s
    else
      match gcmOpen kek (List.replicate 12 0) (BitVec.ofNat 8 o :: pub) (slice p 132 64) (slice p 196 16) with
      | none => finish h.tag stAuth [] s
      | some keys =>
        let ndk := drawRandom 32 s
        let pk := drawRandom 32 ndk.2
        let entry : OwnerSlot := { provisioned := true, signPub := pub, fpr := fingerprint pub, ork := ork, ndk := keyOf ndk.1, pk := keyOf pk.1
                                   xk := keyOf (keys.take 32), rk := keyOf (keys.drop 32) }
        postKeys { tag := h.tag, slot := o, kind := 1, entry := entry
                   reply := [BitVec.ofNat 8 o, 0, 0, 0] ++ entry.fpr ++ (hmac (keyBytes ork) (ascii "AETHUO-CONFIRM")).take 4 }
          (rollEpoch o pk.2)

/-- OWNER_REMOVE of a provisioned slot, owner 0 last: STARTED, and the empty slot is posted for commit (R388). -/
abbrev ownerRemove : CommandRow where
  command := .ownerRemove
  opcode := 0xA1
  rights _ _ _ := .site
  ready _ p s := p.length = 4 ∧ fld p 1 3 = 0 ∧ fld p 0 1 < 4 ∧ (s.ownerSlot (fld p 0 1)).provisioned = true
    ∧ (fld p 0 1 = 0 → ∀ k ∈ [1, 2, 3], (s.ownerSlot k).provisioned = false) ∧ keysBusy s = false
  effect h p s := postKeys { tag := h.tag, slot := fld p 0 1, kind := 2, entry := {} } (started h.tag s)

/-- OWNER_LIST: the four entries. -/
abbrev ownerList : CommandRow where
  command := .ownerList
  opcode := 0xA2
  ready _ p _ := p = []
  effect h _ s := doneWith h (ownerEntry s 0 ++ ownerEntry s 1 ++ ownerEntry s 2 ++ ownerEntry s 3) s

/-- ATTEST: the report over the nonce, its signature, and with bit 0 the certificate (R389, Table 16-7). -/
abbrev attest : CommandRow where
  command := .attest
  opcode := 0xA3
  ready _ p _ := p.length = 20 ∧ fld p 16 1 < 2 ∧ fld p 17 3 = 0
  effect h p s := doneWith h (report96 s (p.take 16) ++ dikSign (sha256 (report96 s (p.take 16)))
    ++ if fld p 16 1 = 1 then certificate else []) s

/-- EPOCH_ROLL of an owner whose models rest: STARTED, and its changed heads are saved before the epoch rolls (R382). -/
abbrev epochRoll : CommandRow where
  command := .epochRoll
  opcode := 0xA4
  rights _ _ _ := .anyOwner
  ready h p s := p = [] ∧ h.secure = true ∧ s.own.roll = none
    ∧ (∀ m < 8, (s.model m).phase ≠ .empty → (s.model m).owner = h.owner →
        (s.model m).phase.runs = false ∧ placing s m = none ∧ (s.model m).succeeds = none ∧ busyModel s m = false)
    ∧ ∀ n ∈ headsOfOwner s h.owner.toNat, pairBusy s n = false
  effect h _ s :=
    let o := h.owner.toNat
    let t := onOwn (fun w => { w with roll := some { tag := h.tag, owner := o } }) (started h.tag s)
    carryRoll ((headsOfOwner s o).foldl (fun s n => if (s.head n).changed then requestSave n .command none s else s) t)

/-- DEBUG_CHALLENGE draws the live challenge and answers with it (Table 16-9). -/
abbrev debugChallenge : CommandRow where
  command := .debugChallenge
  opcode := 0xA5
  ready _ p s := p = [] ∧ s.own.trngFault = false
  effect h _ s := doneWith h (newChallenge s).1 (newChallenge s).2

/-- DEBUG_OPEN while Belay rests: the challenge is used up, and signatures that verify begin the erase (R392, R393). -/
abbrev debugOpen : CommandRow where
  command := .debugOpen
  opcode := 0xA6
  ready _ p s := p.length = 160 ∧ (s.bly.phase = .disarmed ∨ s.bly.phase = .stopped) ∧ s.own.erase = none
  effect h p s :=
    let t := onOwn (fun w => { w with challenge := none }) s
    if openingOk s p then beginErase 1 (some h.tag) (started h.tag t) else finish h.tag stAuth [] t

/-- KEY_ROTATE of at least one key of the owner's slot: the new key store is posted for commit. -/
abbrev keyRotate : CommandRow where
  command := .keyRotate
  opcode := 0xA7
  rights _ _ _ := .anyOwner
  ready h p s := p.length = 164 ∧ 1 ≤ fld p 0 1 ∧ fld p 0 1 < 16 ∧ fld p 1 3 = 0 ∧ h.secure = true
    ∧ (bit (fld p 0 1) 0 = true ∨ fld p 4 32 = 0) ∧ (bit (fld p 0 1) 1 = true ∨ fld p 36 64 = 0)
    ∧ (bit (fld p 0 1) 2 = true ∨ fld p 100 32 = 0) ∧ (bit (fld p 0 1) 3 = true ∨ fld p 132 32 = 0)
    ∧ (bit (fld p 0 1) 3 = true → ridgePlacedOf s h.owner = false) ∧ keysBusy s = false
  effect h p s :=
    let sel := fld p 0 1
    let x := s.ownerSlot h.owner.toNat
    if bit sel 1 && !onCurve (slice p 36 64) then finish h.tag stParam [] s
    else postKeys { tag := h.tag, slot := h.owner.toNat, kind := 3, select := BitVec.ofNat 8 sel, entry := { x with
      ork := if bit sel 0 then keyOf (slice p 4 32) else x.ork
      signPub := if bit sel 1 then slice p 36 64 else x.signPub
      fpr := if bit sel 1 then fingerprint (slice p 36 64) else x.fpr
      xk := if bit sel 2 then keyOf (slice p 100 32) else x.xk
      rk := if bit sel 3 then keyOf (slice p 132 32) else x.rk } } s

/-- TRNG_READ of 1 to 256 bytes. -/
abbrev trngRead : CommandRow where
  command := .trngRead
  opcode := 0xA8
  rights _ _ _ := .anyOwner
  ready _ p s := p.length = 4 ∧ fld p 2 2 = 0 ∧ 1 ≤ fld p 0 2 ∧ fld p 0 2 ≤ 256 ∧ s.own.trngFault = false
  effect h p s := doneWith h (drawRandom (fld p 0 2) s).1 (drawRandom (fld p 0 2) s).2

end Sys2Proof.Rows
end

