-- ==== Sys2Proof/Certificates/Slice0/RowsLearn.lean ====
section
/-! DEFINITION. When the commands of the learning heads complete, and with what effect: one row each (chapter 12). -/

namespace Sys2Proof.Rows

open Machine

/-- A payload of four bytes: a head's number and flags. -/
abbrev headPayload (flagBits : Nat) (p : Bytes) : Prop := p.length = 4 ∧ fld p 1 1 < 2 ^ flagBits ∧ fld p 2 2 = 0

/-- HEAD_CONFIG of a record in range that leaves the head its synapses: the head has the record; with consolidation off, a copy
under way is withdrawn. -/
abbrev headConfig : CommandRow where
  command := .headConfig
  opcode := 0x70
  rights _ p s := boundHead s p
  ready _ p s := p.length = 44 ∧ fld p 1 3 = 0 ∧ headReserved (slice p 4 40) = true ∧ headInRange (slice p 4 40) = true
    ∧ (s.head (fld p 0 1)).syn.length ≤ fld (slice p 4 40) 24 2 ∧ namesOrphan s p = false
  effect h p s :=
    let t := onHead (fld p 0 1) (Head.withRecord (slice p 4 40)) s
    doneWith h (slice p 4 40) (if (t.head (fld p 0 1)).consMode == 0 then withdrawCopy (fld p 0 1) false stState t else t)

/-- HEAD_GET: a head's records and state. -/
abbrev headGet : CommandRow where
  command := .headGet
  opcode := 0x71
  rights _ p s := boundHead s p
  ready _ p _ := headPayload 0 p
  effect h p s := doneWith h (headBytes s (fld p 0 1)) s

/-- The form of the three rows of REWARD, of a head that takes a reward. -/
abbrev rewardable (p : Bytes) (s : State) : Prop := p.length = 8 ∧ fld p 3 1 = 0 ∧ fld p 6 2 = 0 ∧ rewardRefused s p = false

/-- REWARD CANCEL: no reward is held. -/
abbrev rewardCancel : CommandRow where
  command := .rewardCancel
  opcode := 0x72
  rights _ p s := boundHead s p
  ready _ p s := rewardable p s ∧ fld p 2 1 = 0 ∧ fld p 4 2 = 0
  effect h p s := doneWith h (List.replicate 8 0) (onHead (fld p 0 1) (fun x => { x with reward := 0, rewardLeft := 0 }) s)

/-- REWARD IMMEDIATE, with the clock of PD10 not failed, waits behind the head's earlier operations (R281, R291). -/
abbrev rewardImmediate : CommandRow where
  command := .rewardImmediate
  opcode := 0x72
  rights _ p s := boundHead s p
  ready _ p s := rewardable p s ∧ fld p 4 2 = 0 ∧ clockDown s 10 = false
  effect h p s := onHead (fld p 0 1) (fun x => { x with ops := x.ops ++ [.reward h.tag (signed 8 (fld p 2 1))] }) s

/-- REWARD HELD: the reward is held for a number of steps. -/
abbrev rewardHeld : CommandRow where
  command := .rewardHeld
  opcode := 0x72
  rights _ p s := boundHead s p
  ready _ p s := rewardable p s ∧ fld p 4 2 ≠ 0
  effect h p s := doneWith h (List.replicate 8 0) (onHead (fld p 0 1) (fun x => { x with reward := signed 8 (fld p 2 1), rewardLeft := fld p 4 2 }) s)

/-- MODULATOR_CONFIG of a record in range: the head has it, and has changed where it differs. -/
abbrev modulatorConfig : CommandRow where
  command := .modulatorConfig
  opcode := 0x73
  rights _ p s := boundHead s p
  ready _ p s := p.length = 20 ∧ fld p 1 3 = 0 ∧ modReserved (slice p 4 16) = true ∧ modInRange (slice p 4 16) = true ∧ namesOrphan s p = false
  effect h p s := doneWith h (slice p 4 16)
    (onHead (fld p 0 1) (fun x => { x with mrec := slice p 4 16, changed := x.changed || x.mrec != slice p 4 16 }) s)

/-- HEAD_FREEZE: the head is frozen by command, its waiting steps are cancelled, and a save behind them begins. -/
abbrev headFreeze : CommandRow where
  command := .headFreeze
  opcode := 0x74
  rights _ p s := boundHead s p
  ready _ p s := headPayload 0 p ∧ namesOrphan s p = false
  effect h p s :=
    let n := fld p 0 1
    let t := serveHead n (noteFreeze n (s.head n).steps (cancelSteps n (onHead n (fun x => { x with command := true }) s)))
    doneWith h [freezeMask t n, 0, 0, 0] t

/-- HEAD_RESUME: the head is no longer frozen by command; with SETTLE it settles first. -/
abbrev headResume : CommandRow where
  command := .headResume
  opcode := 0x75
  rights _ p s := boundHead s p
  ready _ p s := headPayload 1 p ∧ namesOrphan s p = false
  effect h p s :=
    let n := fld p 0 1
    let t := onHead n (fun x => { x with command := false }) s
    let t := if bit (fld p 1 1) 0 then startSettle n t else noteFreeze n 0 t
    doneWith h [freezeMask t n, 0, 0, 0] t

/-- HEAD_SAVE: an unchanged head answers with its last save; a changed one, with the clock of PD10 not failed, is
saved after STARTED, behind its earlier operations (R281, R299). -/
abbrev headSave : CommandRow where
  command := .headSave
  opcode := 0x76
  rights _ p s := boundHead s p
  ready _ p s := headPayload 0 p ∧ namesOrphan s p = false ∧ pairBusy s (fld p 0 1) = false
    ∧ ((s.head (fld p 0 1)).changed = true → clockDown s 10 = false)
  effect h p s :=
    let x := s.head (fld p 0 1)
    if x.changed then requestSave (fld p 0 1) .command (some h.tag) (started h.tag s)
    else doneWith h (le 4 ((x.copyImage.map fun c => fld c 12 4).getD 0) ++ [BitVec.ofNat 8 (x.current.getD 0), 0, 0, 0]) s

/-- HEAD_RESTORE from a copy, or an image, that is there, with the clock of PD10 not failed: waiting steps are cancelled and the head is
loaded from it; the previous copy becomes the current one by a commit (R301). -/
abbrev headRestore : CommandRow where
  command := .headRestore
  opcode := 0x77
  rights _ p s := boundHead s p
  ready _ p s :=
    let x := s.head (fld p 0 1)
    let u := x.user.getD (0, 0)
    let l := layerAt (s.model u.1).image u.2
    p.length = 4 ∧ fld p 2 2 = 0 ∧ namesOrphan s p = false ∧ pairBusy s (fld p 0 1) = false ∧ clockDown s 10 = false
      ∧ (fld p 1 1 = 0 ∧ x.copyImage.isSome = true ∨ fld p 1 1 = 1 ∧ (previousImage x).isSome = true
        ∨ fld p 1 1 = 2 ∧ 0 ∉ (s.model u.1).pagesFor l.wAt l.wLen)
  effect h p s :=
    let n := fld p 0 1
    let t := cancelSteps n (started h.tag s)
    if fld p 1 1 = 1 then
      postNvm [{ page := commitPage n, job := .headCommit n, tag := some h.tag, commit := true, point := true }]
        (onHead n (fun x => { x with area := 1 - x.current.getD 0, image := (previousImage x).getD [], busy := some (.restoring h.tag) }) (startLoad n .previous (some h.tag) t))
    else startLoad n (if fld p 1 1 = 0 then .current else .initial) (some h.tag) t

/-- HEAD_EXPORT: with SAVE_FIRST, and the clock of PD10 not failed, the head is saved first; else its copy, in no busy bank, is sealed
and answered; without the TRNG neither (R218, R302). -/
abbrev headExport : CommandRow where
  command := .headExport
  opcode := 0x78
  rights _ p s := boundHead s p
  ready _ p s := headPayload 1 p ∧ pairBusy s (fld p 0 1) = false ∧ s.own.trngFault = false
    ∧ (fld p 1 1 = 1 ∧ namesOrphan s p = false ∧ clockDown s 10 = false
      ∨ fld p 1 1 = 0 ∧ (s.head (fld p 0 1)).copyImage.isSome = true ∧ readWaits s (currentPages s (fld p 0 1)) = false)
  effect h p s := if fld p 1 1 = 1 then requestSave (fld p 0 1) .exported (some h.tag) (started h.tag s) else replyExport (fld p 0 1) h.tag s

/-- HEAD_IMPORT of a blob of the owner's: one that does not open, or whose shape or layer's tag is not the head's, is refused;
another becomes the head's copy after STARTED, and the head is loaded from it (R302). -/
abbrev headImport : CommandRow where
  command := .headImport
  opcode := 0x79
  rights _ p s := boundHead s p
  ready h p s :=
    let b := p.drop 4
    52 ≤ p.length ∧ fld p 1 1 < 2 ∧ fld p 2 2 = 0 ∧ b.take 6 = [0x48, 0x58, 0x50, 0x31, 1, 0] ∧ b.length = 48 + fld b 8 4 ∧ fld b 28 4 = 0
      ∧ fld b 7 1 = h.owner.toNat ∧ namesOrphan s p = false ∧ pairBusy s (fld p 0 1) = false ∧ clockDown s 10 = false
  effect h p s :=
    let n := fld p 0 1
    let x := s.head n
    match openBlob s h.owner.toNat (p.drop 4) with
    | none => finish h.tag stAuth [] s
    | some c =>
      if fld c 6 2 ≠ x.nPre ∨ fld c 8 2 ≠ x.nPost ∨ fld c 72 2 < fld c 10 2 then finish h.tag stParam [] s
      else if fld p 1 1 = 0 ∧ slice c 16 16 ≠ imgTag (s.model (x.user.getD (0, 0)).1).image then finish h.tag stState [] s
      else postCopy n (c.take 12 ++ le 4 (x.saveSeq + 1) ++ c.drop 16) (some h.tag)
        (onHead n (fun x => { x with busy := some (.importing h.tag) })
          (startLoad n .imported (some h.tag) (cancelSteps n (started h.tag s))))

/-- HEAD_CONSOLIDATE of a loaded head with no copy being written: too small a change without FORCE answers at once, else a copy
is begun after STARTED, or refused for want of arrays or wear (R295). -/
abbrev headConsolidate : CommandRow where
  command := .headConsolidate
  opcode := 0x7A
  rights _ p s := boundHead s p
  ready _ p s :=
    let x := s.head (fld p 0 1)
    headPayload 1 p ∧ namesOrphan s p = false ∧ x.consMode ≠ 0 ∧ (∀ c ∈ x.copy, c.writing = false ∧ c.ready = false) ∧ x.loaded = true
      ∧ thermalState s ≠ .trip ∧ pllDown s = false
  effect h p s :=
    let x := s.head (fld p 0 1)
    if x.change < x.deltaCommit ∧ bit (fld p 1 1) 0 = false then
      doneWith h ([0, 0, 0, 0] ++ arrayMap ((x.copy.map (·.arrays)).getD []) ++ le 4 x.change) s
    else match requestCopy (fld p 0 1) (some h.tag) (started h.tag s) with
      | .begun t => t
      | .noArrays t => finish h.tag stNoResource [] t
      | .wear t => finish h.tag stWear [] t

/-- HEAD_STATS. -/
abbrev headStats : CommandRow where
  command := .headStats
  opcode := 0x7B
  rights _ p s := boundHead s p
  ready _ p _ := headPayload 1 p
  effect h p s := doneWith h (statBytes s (fld p 0 1)) s

/-- HEAD_STATS with CLEAR: the statistics are zero after the reply. -/
abbrev headStatsClear : CommandRow where
  command := .headStatsClear
  opcode := 0x7B
  rights _ p s := boundHead s p
  ready _ p _ := headPayload 1 p
  effect h p s := onHead (fld p 0 1) (fun x => { x with stats := {} }) (doneWith h (statBytes s (fld p 0 1)) s)

/-- HEAD_RESET: STARTED, waiting steps are cancelled, both copies are erased, and the head is loaded from its image. -/
abbrev headReset : CommandRow where
  command := .headReset
  opcode := 0x7C
  rights _ p s := boundHead s p
  ready _ p s := p.length = 4 ∧ fld p 2 2 = 0 ∧ namesOrphan s p = false ∧ pairBusy s (fld p 0 1) = false ∧ clockDown s 10 = false
  effect h p s := erasePair (fld p 0 1) h.tag
    (onHead (fld p 0 1) (fun x => { x with busy := some (.resetting h.tag) })
      (startLoad (fld p 0 1) .initial (some h.tag) (cancelSteps (fld p 0 1) (started h.tag s))))

/-- HEAD_RESET of an orphan erases its copies and releases it. -/
abbrev headEraseOrphan : CommandRow where
  command := .headEraseOrphan
  opcode := 0x7C
  rights _ p s := boundHead s p
  ready _ p s := p.length = 4 ∧ fld p 2 2 = 0 ∧ namesOrphan s p = true ∧ pairBusy s (fld p 0 1) = false
  effect h p s := erasePair (fld p 0 1) h.tag
    (onHead (fld p 0 1) (fun x => { x with busy := some (.releasing none (some h.tag)) }) (started h.tag s))

end Sys2Proof.Rows
end

