-- ==== Sys2Proof/Certificates/Slice0/RowsModel.lean ====
section
/-! DEFINITION. When the commands of the models and the Resource Manager complete, and with what effect: one row each
(chapters 10 and 11). -/

namespace Sys2Proof.Rows

open Machine

/-- A payload of four bytes that begins with a model's number. -/
abbrev modelPayload (p : Bytes) : Prop := p.length = 4 ∧ fld p 1 3 = 0

/-! ### Models (chapter 10) -/

/-- The slot that MODEL_LOAD takes: the one named, or with 0xFF the lowest EMPTY one, 8 where there is none. -/
def loadSlot (p : Bytes) (s : State) : Nat :=
  if fld p 1 1 = 255 then ((List.range 8).filter fun m => (s.model m).phase == .empty).headD 8 else fld p 1 1

/-- MODEL_LOAD BEGIN of an empty slot, with sectors enough: the slot is LOADING, owned by the sender. -/
abbrev modelLoadBegin : CommandRow where
  command := .modelLoadBegin
  opcode := 0x50
  rights h _ _ := .bound (some h.owner)
  ready _ p s := p.length = 12 ∧ fld p 2 2 = 0 ∧ fld p 8 4 < 8 ∧ 256 ≤ fld p 4 4 ∧ fld p 4 4 ≤ 1933312 ∧ loadSlot p s < 8
    ∧ (s.model (loadSlot p s)).phase = .empty ∧ (fld p 4 4 + 4095) / 4096 ≤ (freeSectors s).length
  effect h p s := doneWith h [BitVec.ofNat 8 (loadSlot p s), 0, 0, 0]
    (setPhase (loadSlot p s) .loading (onModel (loadSlot p s) (fun _ =>
      { owner := h.owner, size := fld p 4 4, flags := BitVec.ofNat 32 (fld p 8 4), pages := (freeSectors s).take ((fld p 4 4 + 4095) / 4096) }) s))

/-- MODEL_LOAD DATA: behind another part that is being programmed it waits its turn, else it is taken up. -/
abbrev modelLoadData : CommandRow where
  command := .modelLoadData
  opcode := 0x50
  rights _ p s := boundModel 1 s p
  ready _ p _ := 9 ≤ p.length ∧ p.length ≤ 4068 ∧ fld p 2 2 = 0
  effect h p s :=
    let load := (h.tag, fld p 4 4, p.drop 8)
    if (s.model (fld p 1 1)).loads = [] then nextLoad (fld p 1 1) [load] s
    else onModel (fld p 1 1) (fun x => { x with loads := x.loads ++ [load] }) s

/-- MODEL_LOAD ABANDON of a model being loaded, no part of which is being programmed: the slot is EMPTY. -/
abbrev modelLoadAbandon : CommandRow where
  command := .modelLoadAbandon
  opcode := 0x50
  rights _ p s := boundModel 1 s p
  ready _ p s := p.length = 4 ∧ fld p 2 2 = 0 ∧ ((s.model (fld p 1 1)).phase = .loading ∨ (s.model (fld p 1 1)).phase = .received)
    ∧ (s.model (fld p 1 1)).loadBusy = false
  effect h p s := doneWith h [] (emptySlot (fld p 1 1) s)

/-- MODEL_VERIFY of a model received whole: STARTED, and the check goes on with the NVM powered. -/
abbrev modelVerify : CommandRow where
  command := .modelVerify
  opcode := 0x51
  rights _ p s := boundModel 0 s p
  ready _ p s := modelPayload p ∧ (s.model (fld p 0 1)).phase = .received ∧ (s.model (fld p 0 1)).verifying = none
  effect h p s := started h.tag (wantDomain 3 true (onModel (fld p 0 1) (fun x => { x with verifying := some h.tag }) s))

/-- MODEL_PLACE on one chip: the placement that the four steps find is committed and written (R244), or the model
does not fit and TOO_LARGE tells why. -/
abbrev modelPlace : CommandRow where
  command := .modelPlace
  opcode := 0x52
  rights _ p s := boundModel 0 s p
  ready _ p s := p.length = 4 ∧ fld p 2 1 = 0 ∧ fld p 3 1 = 0 ∧ (s.model (fld p 0 1)).placeable = true
    ∧ modelBusy s (fld p 0 1) = false ∧ busyModel s (fld p 0 1) = false ∧ thermalRefuses s (s.model (fld p 0 1)).image = false
    ∧ clockRefuses s (s.model (fld p 0 1)).image = false
  effect h p s :=
    let m := fld p 0 1
    let x := s.model m
    let v := fourSteps s m x.image x.flags (fun _ => true) []
    match v.found with
    | none => finish h.tag stTooLarge (tooLarge x.image v 0xFF) (if x.phase == .verified then s else unplace m s)
    | some f => placeModel h m (placementOf x.image f false (fun _ => true) (fun _ => 0)) (fun _ => true) id s

/-- MODEL_PLACE of a Ridge model on the head chip of a Rope that reaches every pitch, no other chip refusing: this chip's
pitches are placed as on one chip, under a new salt (R243, R386). -/
abbrev modelPlaceRidge : CommandRow where
  command := fun h p => .modelPlaceRidge h p none
  opcode := 0x52
  rights _ p s := boundModel 0 s p
  ready _ p s := p.length = 4 ∧ fld p 3 1 = 0 ∧ fld p 2 1 ≤ 63 ∧ (s.model (fld p 0 1)).placeable = true ∧ role s = 1
    ∧ 2 ≤ imgPitches (s.model (fld p 0 1)).image ∧ imgPitches (s.model (fld p 0 1)).image ≤ 64
    ∧ modelBusy s (fld p 0 1) = false ∧ busyModel s (fld p 0 1) = false ∧ thermalRefuses s (s.model (fld p 0 1)).image = false
    ∧ clockRefuses s (s.model (fld p 0 1)).image = false ∧ s.own.trngFault = false ∧ s.rope.index ≠ 255 ∧ s.rope.detached = false
    ∧ ridgeReachable s (fld p 0 1) (fld p 2 1) = true
  effect h p s :=
    let m := fld p 0 1
    let x := s.model m
    let mine (q : Nat) : Bool := if circulates x.image then q == 255 else fld p 2 1 + q == s.rope.index
    let v := fourSteps s m x.image x.flags mine []
    match v.found with
    | none => finish h.tag stTooLarge (tooLarge x.image v (BitVec.ofNat 8 s.rope.index)) (if x.phase == .verified then s else unplace m s)
    | some f => placeModel h m (placementOf x.image f true mine (fun q => fld p 2 1 + q)) mine
        (fun s => ridgePlaced m (fld p 2 1) (Config.random s.free 32) { s with free := s.free + 1 }) s

/-- MODEL_UNLOAD commits at acceptance: STARTED, and the unload begins. -/
abbrev modelUnload : CommandRow where
  command := .modelUnload
  opcode := 0x53
  rights _ p s := boundModel 0 s p
  ready _ p s := modelPayload p ∧ (s.model (fld p 0 1)).phase ≠ .pitch ∧ modelBusy s (fld p 0 1) = false
    ∧ (s.model (fld p 0 1)).loadBusy = false
  effect h p s := startUnload (fld p 0 1) (some h.tag) (started h.tag (commitMark h.tag s))

/-- MODEL_PLACEMENT_GET: the header and the placed layers, or the model's phase alone. -/
abbrev modelPlacementGet : CommandRow where
  command := .modelPlacementGet
  opcode := 0x54
  rights _ p s := boundModel 0 s p
  ready _ p _ := modelPayload p
  effect h p s :=
    let x := s.model (fld p 0 1)
    doneWith h (if x.phase.hasPlacement then placementHeader s (fld p 0 1) x.phase.code
        ++ x.placement.layers.zipIdx.flatMap fun l => placementEntry x l.2 l.1
      else [BitVec.ofNat 8 (fld p 0 1), x.phase.code] ++ List.replicate 14 0) s

/-- MODEL_LIST: the eight entries that the sender may see. -/
abbrev modelList : CommandRow where
  command := .modelList
  opcode := 0x55
  ready _ p _ := p = []
  effect h _ s := doneWith h ((List.range 8).flatMap (listEntry s h)) s

/-- MODEL_START of a placed model, bound to streams that fit it: it is RUNNING, its heads loaded and settling. -/
abbrev modelStart : CommandRow where
  command := .modelStart
  opcode := 0x56
  rights _ p s := boundModel 0 s p
  ready _ p s :=
    let x := s.model (fld p 0 1)
    modelPayload p ∧ x.phase = .placed ∧ x.bound ≠ 0
      ∧ (entryHere x = true → ∀ n ∈ members 96 x.bound.toNat, streamFits s x.image n = true)
      ∧ modelBusy s (fld p 0 1) = false ∧ thermalRefuses s x.image = false ∧ clockRefuses s x.image = false
  effect h p s :=
    let t := setPhase (fld p 0 1) .running s
    doneWith h [] ((headsOf t (fld p 0 1)).foldl (fun s u =>
      startSettle u.1 (if (s.head u.1).loaded || pairBusy s u.1 then s else startLoad u.1 .current none s)) t)

/-- MODEL_STOP of a running model commits at acceptance: waiting frames are discarded, and DONE follows the last job. -/
abbrev modelStop : CommandRow where
  command := .modelStop
  opcode := 0x57
  rights _ p s := boundModel 0 s p
  ready _ p s :=
    let x := s.model (fld p 0 1)
    modelPayload p ∧ x.phase = .running ∧ x.stopping = none ∧ x.unloading = none ∧ x.removing = false
  effect h p s :=
    carryOn (discardFrames (fld p 0 1) (onModel (fld p 0 1) (fun x => { x with stopping := some h.tag }) (commitMark h.tag s)))

/-- MODEL_REPLACE of a placed model by a verified one: the successor is placed beside it, or with IN_PLACE over it, and its
arrays are written (R250); or it does not fit, or a placement's commit is refused. -/
abbrev modelReplace : CommandRow where
  command := .modelReplace
  opcode := 0x58
  rights _ p s := boundPair s p
  ready _ p s :=
    let old := fld p 0 1
    let m := fld p 1 1
    p.length = 4 ∧ fld p 2 1 < 2 ∧ fld p 3 1 = 0 ∧ (s.model m).phase = .verified
      ∧ ((s.model old).phase = .placed ∨ (s.model old).phase = .running) ∧ modelBusy s m = false ∧ modelBusy s old = false
      ∧ (s.model old).stopping = none ∧ thermalRefuses s (s.model m).image = false
      ∧ clockRefuses s (s.model m).image = false
  effect h p s :=
    let old := fld p 0 1
    let m := fld p 1 1
    let inPlace := bit (fld p 2 1) 0
    let x := s.model m
    let o := s.model old
    let v := fourSteps s m x.image x.flags (fun _ => true) (if inPlace then o.placement.arrays else [])
    match v.found with
    | none => finish h.tag stTooLarge (tooLarge x.image v 0xFF) s
    | some f =>
      let q := placementOf x.image f false (fun _ => true) (fun _ => 0)
      match commitPlacement m q ((inheritance o.image x.image).map (·.2)) (fun _ => true) s with
      | .inl st => finish h.tag st [] (placeRefused m q st s)
      | .inr (t, writes) =>
        let t := started h.tag (commitMark h.tag t)
        carryOn (startRun { model := m, cause := .replace h.tag old inPlace, writes := writes } none (if inPlace then yieldOld old t else t))

/-- MODEL_BIND_STREAMS of streams that no other model has: the model is bound to them. -/
abbrev modelBindStreams : CommandRow where
  command := .modelBindStreams
  opcode := 0x59
  rights _ p s := boundModel 0 s p
  ready _ p s := p.length = 16 ∧ fld p 1 3 = 0 ∧ (s.model (fld p 0 1)).placeable = true ∧ modelBusy s (fld p 0 1) = false
    ∧ ∀ k < 8, k = fld p 0 1 ∨ (s.model k).phase = .empty ∨ (s.model k).bound &&& BitVec.ofNat 96 (fld p 4 12) = 0
  effect h p s := doneWith h [] (onModel (fld p 0 1) (fun x => { x with bound := BitVec.ofNat 96 (fld p 4 12) }) s)

/-! ### The Resource Manager (chapter 11) -/

/-- JOB_SUBMIT of a frame of the model's input shape to a placed or running model, with a place in the queue: it commits, and
the frame enters. -/
abbrev jobSubmit : CommandRow where
  command := .jobSubmit
  opcode := 0x60
  rights _ p s := boundModel 0 s p
  ready _ p s :=
    let x := s.model (fld p 0 1)
    let n := imgInC x.image * imgInL x.image
    68 ≤ p.length ∧ submitReserved p = true ∧ (x.phase = .placed ∨ x.phase = .running)
      ∧ p.length = 68 + n * (if imgWide x.image then 2 else 1) ∧ fld p 50 2 = n ∧ fld p 52 1 = b2n (imgWide x.image)
      ∧ x.unloading = none ∧ x.yielding = false ∧ queueLength s < 128 ∧ thermalRefuses s x.image = false ∧ clockRefuses s x.image = false
  effect h p s :=
    let x := s.model (fld p 0 1)
    let g : FeatureFrame := { header := 0xFF :: slice p 5 63, wide := imgWide x.image
                              features := submitted (imgWide x.image) (imgInC x.image * imgInL x.image) p }
    started h.tag (commitMark h.tag (enterFrame (fld p 0 1) g ((freeBank s).getD 0) (some h.tag) s))

/-- RESULT_READ: up to COUNT results of the owner from a sequence number on, which are then read; one whose epoch has gone counts as
read unwritten (R212, R270). -/
abbrev resultRead : CommandRow where
  command := .resultRead
  opcode := 0x61
  rights h p s := boundResults h s p
  ready _ p s := p.length = 12 ∧ fld p 1 1 < 2 ∧ fld p 2 2 = 0 ∧ fld p 10 2 = 0 ∧ 1 ≤ fld p 8 2 ∧ fld p 8 2 ≤ 63
    ∧ pitchSlot s (fld p 0 1) = false
  effect h p s :=
    let start := BitVec.ofNat 32 (fld p 4 4)
    let mine := s.mdl.results.filter fun r => r.owner == h.owner && (fld p 0 1 == 255 || r.model == fld p 0 1)
    let s := countUnwritten .control (mine.countP fun r => !r.valid s && seqFrom start r.seq) s
    let chosen := mine.filter fun r => r.valid s && (!bit (fld p 1 1) 0 || r.pinned)
    let got := (chosen.filter fun r => seqFrom start r.seq).take (fld p 8 2)
    doneWith h (le 4 ((got.getLast?.map fun r => r.seq + 1).getD start).toNat ++ le 4 ((chosen.head?.map (·.seq)).getD s.mdl.resultSeq).toNat
      ++ got.flatMap Result.bytes) (deliver (got.map (·.seq)) s)

/-- RESULT_PIN of a result that is pinned already, or while fewer than 256 are and fewer than 64 of its owner. -/
abbrev resultPin : CommandRow where
  command := .resultPin
  opcode := 0x62
  rights _ p s := boundResult s p
  ready _ p s :=
    let pins := s.mdl.results.filter fun q => q.pinned && q.valid s
    p.length = 4 ∧ ∃ r ∈ resultAt s p, r.pinned = true ∨ pins.length < 256 ∧ pins.countP (fun q => q.owner == r.owner) < 64
  effect h p s := doneWith h [] (match resultAt s p with | some r => setPinned r.seq true s | none => s)

/-- RESULT_UNPIN of a result. -/
abbrev resultUnpin : CommandRow where
  command := .resultUnpin
  opcode := 0x63
  rights _ p s := boundResult s p
  ready _ p s := p.length = 4 ∧ (resultAt s p).isSome = true
  effect h p s := doneWith h [] (match resultAt s p with | some r => setPinned r.seq false s | none => s)

/-- RM_STATUS. -/
abbrev rmStatus : CommandRow where
  command := .rmStatus
  opcode := 0x64
  ready _ p _ := p = []
  effect h _ s := doneWith h (rmStatusBytes s) s

/-- RM_COUNTERS of a model, whose slot is no PITCH. -/
abbrev rmCounters : CommandRow where
  command := .rmCounters
  opcode := 0x65
  rights _ p s := boundModel 0 s p
  ready _ p s := p.length = 4 ∧ fld p 1 1 < 2 ∧ fld p 2 2 = 0 ∧ pitchSlot s (fld p 0 1) = false
  effect h p s := doneWith h (counterBytes s (fld p 0 1)) s

/-- RM_COUNTERS with CLEAR: the counters of the model, and its owner's lost share, are zero after the reply. -/
abbrev rmCountersClear : CommandRow where
  command := .rmCountersClear
  opcode := 0x65
  rights _ p s := boundModel 0 s p
  ready _ p s := p.length = 4 ∧ fld p 1 1 < 2 ∧ fld p 2 2 = 0 ∧ pitchSlot s (fld p 0 1) = false
  effect h p s :=
    let t := onCounters (fld p 0 1) (fun _ => {}) (doneWith h (counterBytes s (fld p 0 1)) s)
    onRm (fun b => { b with shares := upd b.shares (t.model (fld p 0 1)).owner.toNat fun x => { x with lost := 0 } }) t

/-- RM_SHARE_SET: without a payload the shares in force; with one, legal shares that fit the slots are set. -/
abbrev rmShareSet : CommandRow where
  command := .rmShareSet
  opcode := 0x66
  rights _ _ _ := .site
  ready _ p s := p = [] ∨ p.length = 16 ∧ fld p 3 1 = 0 ∧ fld p 7 1 = 0 ∧ fld p 11 1 = 0 ∧ fld p 15 1 = 0
    ∧ (∀ o < 4, shareOk p o = true) ∧ fld p 1 1 + fld p 5 1 + fld p 9 1 + fld p 13 1 ≤ localSlots s
  effect h p s :=
    let t := if p = [] then s
      else onRm (fun b => { b with shares := (List.range 4).foldl (fun v o => upd v o (shareFrom p o)) b.shares }) s
    doneWith h (shareBytes t) t

/-- QUEUE_STATUS: the nine queues. -/
abbrev queueStatus : CommandRow where
  command := .queueStatus
  opcode := 0x67
  ready _ p _ := p.length = 1 ∧ fld p 0 1 < 2
  effect h _ s := doneWith h (queueBytes s) s

/-- QUEUE_STATUS with CLEAR_HIGH: each highest level is then the level that the reply tells. -/
abbrev queueStatusClearHigh : CommandRow where
  command := .queueStatusClearHigh
  opcode := 0x67
  rights _ _ _ := .site
  ready _ p _ := p.length = 1 ∧ fld p 0 1 < 2
  effect h _ s := onRm (fun b => { b with high := (List.range 9).foldl (fun v i => wr v i ((queueLevels s).getD i (0, 0)).2) b.high })
    (doneWith h (queueBytes s) s)

/-- RESULT_SUBSCRIBE sets the mode and threshold of a model whose slot is no PITCH. -/
abbrev resultSubscribe : CommandRow where
  command := .resultSubscribe
  opcode := 0x68
  rights _ p s := boundModel 0 s p
  ready _ p s := p.length = 8 ∧ fld p 4 4 = 0 ∧ fld p 1 1 ≤ 3 ∧ pitchSlot s (fld p 0 1) = false
  effect h p s := doneWith h [] (onModel (fld p 0 1) (fun x => { x with subMode := .ofNat 8 (fld p 1 1), subThresh := .ofNat 16 (fld p 2 2) }) s)

end Sys2Proof.Rows
end

