-- ==== Sys2Proof/Certificates/Slice0/RowsPort.lean ====
section
/-! DEFINITION. When the host port does what the spec gives it, which row a whole message spells, and what a pushed packet that
is accepted does: one row for each event of the port (chapter 02). -/

namespace Sys2Proof.Rows

open Machine

/-! ### The row a message spells (Tables 2-13 to 2-16) -/

/-- The row that a whole message spells, by its opcode and the selector that its payload holds; none where it spells no row, and for
MODEL_PLACE of a Ridge model, whose row has the other chips' answer as an operand. -/
noncomputable def spelled (opcode : Byte) (p : Bytes) : Option (Hdr → Bytes → Instr) :=
  match opcode.toNat with
  | 0x00 => some .nop
  | 0x01 => some .devInfo
  | 0x02 => some .devStatus
  | 0x03 => some (if p = [] then .linkConfigRead else .linkConfigWrite)
  | 0x04 => some (if bit (fld p 0 1) 0 then .linkCountersClear else .linkCounters)
  | 0x05 => some .sessionOpen
  | 0x06 => some .sessionClose
  | 0x07 => some .sessionStatus
  | 0x08 => some .devLabelSet
  | 0x09 => some .devLabelGet
  | 0x0D => match fld p 0 1 with
    | 1 => some .resetWarm
    | 2 => some .resetFull
    | _ => none
  | 0x0E => some .abort
  | 0x10 => some .powerStateGet
  | 0x11 => match fld p 0 1 with
    | 1 => some .powerStateSetBivouac
    | 2 => some .powerStateSetWatch
    | _ => none
  | 0x12 => some .wakeConfig
  | 0x13 => match fld p 0 1 with
    | 0 => some .tickAlarmDisable
    | 1 => some .tickAlarmAbsolute
    | 2 => some .tickAlarmRelative
    | _ => none
  | 0x14 => some .timeGet
  | 0x15 => some .clockStatus
  | 0x16 => some .thermalConfig
  | 0x17 => some .thermalStatus
  | 0x18 => some (if p = [] then .powerPolicyRead else .powerPolicyWrite)
  | 0x20 => some .afePinRoleSet
  | 0x21 => some .afePinRoleGet
  | 0x22 => some .afeChannelConfig
  | 0x23 => some .afeChannelGet
  | 0x24 => some .afeExcitationSet
  | 0x25 => match fld p 0 1 with
    | 0 => some .afeLeadMeasureLoop
    | 1 => some .afeLeadMeasureKelvin
    | 2 => some .afeLeadMeasureSet
    | _ => none
  | 0x26 => some .afeLeadGet
  | 0x27 => match fld p 1 1 with
    | 0 => some .afePairConfigRemove
    | 1 => some .afePairConfigSet
    | _ => none
  | 0x28 => some .afePairStatus
  | 0x29 => some .afeDiag
  | 0x2A => some .afeCalRun
  | 0x2B => some .afeBankEnable
  | 0x30 => match fld p 1 1 with
    | 0 => some .streamConfigRemove
    | 1 => some .streamConfigSet
    | _ => none
  | 0x31 => some .streamGet
  | 0x32 => some .streamStart
  | 0x33 => match fld p 12 1 with
    | 0 => some .streamStopNow
    | 1 => some .streamStopAfterFrame
    | _ => none
  | 0x34 => some .sportConfig
  | 0x35 => some .sportGet
  | 0x36 => some .tachConfig
  | 0x37 => some .encConfig
  | 0x38 => some (if bit (fld p 2 1) 0 then .streamCountersClear else .streamCounters)
  | 0x39 => some .streamSnapshot
  | 0x40 => match fld p 1 1 with
    | 0 => some .featConfigRemove
    | 1 => some .featConfigSet
    | _ => none
  | 0x41 => some .featGet
  | 0x42 => some .featOrderConfig
  | 0x43 => some .featBandsSet
  | 0x44 => some .featStateConfig
  | 0x45 => some .featFrameRead
  | 0x46 => some .beltPositionGet
  | 0x47 => match fld p 0 1 with
    | 0 => some .beltConfigDisable
    | 1 => some .beltConfigSet
    | 2 => some .setIndex
    | 3 => some .beltClearCount
    | _ => none
  | 0x50 => match fld p 0 1 with
    | 1 => some .modelLoadBegin
    | 2 => some .modelLoadData
    | 3 => some .modelLoadAbandon
    | _ => none
  | 0x51 => some .modelVerify
  | 0x52 => match fld p 1 1 with
    | 0 => some .modelPlace
    | _ => none
  | 0x53 => some .modelUnload
  | 0x54 => some .modelPlacementGet
  | 0x55 => some .modelList
  | 0x56 => some .modelStart
  | 0x57 => some .modelStop
  | 0x58 => some .modelReplace
  | 0x59 => some .modelBindStreams
  | 0x60 => some .jobSubmit
  | 0x61 => some .resultRead
  | 0x62 => some .resultPin
  | 0x63 => some .resultUnpin
  | 0x64 => some .rmStatus
  | 0x65 => some (if bit (fld p 1 1) 0 then .rmCountersClear else .rmCounters)
  | 0x66 => some .rmShareSet
  | 0x67 => some (if bit (fld p 0 1) 0 then .queueStatusClearHigh else .queueStatus)
  | 0x68 => some .resultSubscribe
  | 0x70 => some .headConfig
  | 0x71 => some .headGet
  | 0x72 => match fld p 1 1 with
    | 0 => some .rewardCancel
    | 1 => some .rewardImmediate
    | 2 => some .rewardHeld
    | _ => none
  | 0x73 => some .modulatorConfig
  | 0x74 => some .headFreeze
  | 0x75 => some .headResume
  | 0x76 => some .headSave
  | 0x77 => some .headRestore
  | 0x78 => some .headExport
  | 0x79 => some .headImport
  | 0x7A => some .headConsolidate
  | 0x7B => some (if bit (fld p 1 1) 0 then .headStatsClear else .headStats)
  | 0x7C => match fld p 1 1 with
    | 0 => some .headReset
    | 1 => some .headEraseOrphan
    | _ => none
  | 0x80 => some .houtMap
  | 0x81 => some .houtGet
  | 0x82 => some .belayConfig
  | 0x83 => some .belayArm
  | 0x84 => some .belayDisarm
  | 0x85 => some .belayTrip
  | 0x86 => some .belayAbortHold
  | 0x87 => match fld p 0 1 with
    | 1 => some .belayRearm
    | 2 => some .belayDeclareStop
    | _ => none
  | 0x88 => some .belayStatus
  | 0x89 => match fld p 0 1 with
    | 0 => some .alarmSetMask
    | 1 => some .alarmSetHost
    | 2 => some .alarmClearHost
    | 3 => some .alarmAcknowledge
    | _ => none
  | 0x90 => some .ropeStatus
  | 0x91 => some .ropeEnumerate
  | 0x92 => some .ropeDetach
  | 0x93 => some .ropeAttach
  | 0x94 => some .ropeRelay
  | 0x95 => some .ropeTopologyGet
  | 0x96 => some .ropeRetrain
  | 0x97 => some (if bit (fld p 0 1) 0 then .ropeCountersClear else .ropeCounters)
  | 0xA0 => some .ownerProvision
  | 0xA1 => some .ownerRemove
  | 0xA2 => some .ownerList
  | 0xA3 => some .attest
  | 0xA4 => some .epochRoll
  | 0xA5 => some .debugChallenge
  | 0xA6 => some .debugOpen
  | 0xA7 => some .keyRotate
  | 0xA8 => some .trngRead
  | 0xB0 => some .cairnInfo
  | 0xB1 => some .cairnRead
  | 0xB2 => some .cairnReadPinned
  | 0xB3 => some .cairnMark
  | 0xB4 => some .cairnRemoteRead
  | 0xC0 => some .calRun
  | 0xC1 => some .calStatus
  | 0xC2 => match fld p 1 1 with
    | 1 => some .selftestRunQuick
    | 2 => some .selftestRunFull
    | _ => none
  | 0xC3 => some .selftestResult
  | 0xC4 => some .wearStatus
  | 0xC5 => some .wearConfig
  | 0xC6 => some .coreStatus
  | 0xC7 => match fld p 1 1 with
    | 1 => some .coreFence
    | 2 => some .coreUnfence
    | _ => none
  | 0xC9 => some (if bit (fld p 0 1) 0 then .clipCountersClear else .clipCounters)
  | 0xD0 => some .fwUpdateBegin
  | 0xD1 => some .fwUpdateData
  | 0xD2 => some .fwUpdateCommit
  | 0xD3 => some .fwSlotStatus
  | 0xD4 => some .nvmStatus
  | 0xD5 => some .nvmRegionInfo
  | _ => none

/-! ### Packets pushed -/

/-- The state that a push finds: an automatic sleep entry is abandoned for it (R82). -/
def attended (s : State) : State := if s.pwr.entry.any (·.automatic) then abandonSleep 0x03 s else s

/-- The state as the checks of a pushed packet begin: those of earlier packets are complete, and the receive buffer is empty. -/
def pushed (s : State) : State := s.mapLink fun l => { l with rxHeld := 0 }

/-- Bytes that the receive buffer has room for behind `held` bytes; none while the port is closed (R80). -/
def room (held : Nat) (s : State) : Nat := if s.link.closed then 0 else 16384 - min held 16384

/-- The header of the packet `b`, sent over `via` by the host. -/
noncomputable def headerOf (via : Transport) (b : Bytes) (s : State) : Hdr := (openPacket via 0 b s).1

/-- The payload of the packet `b`, deciphered where it is secure. -/
noncomputable def payloadOf (via : Transport) (b : Bytes) (s : State) : Bytes := (openPacket via 0 b s).2

/-- The host pushes a packet that the port hears, that fits, that passes checks 1 to 4, that is a message whole, and that would be taken
up as a command. -/
def Whole (via : Transport) (held : Nat) (b : Bytes) (s : State) : Prop :=
  hears via s = true ∧ pushSize via b ≤ 16384 - min held 16384 ∧ failedCheck b = 0 ∧ bit (fld b 1 1) 4 = false
    ∧ Taken (headerOf via b s) s

/-- A whole message: its tag is in flight and check 10 judges it (R25, R31). -/
noncomputable abbrev push (via : Transport) (held : Nat) (b : Bytes) : EventRow where
  command := .push via held b
  ready s := Whole via held b s
  effect s := runWhole (b.getD 4 0) (headerOf via b s) (payloadOf via b s)
    (entered (b.getD 4 0) (headerOf via b s) (pushed s))

/-- QPUSH is PUSH over four lanes. -/
noncomputable abbrev qpush (held : Nat) (b : Bytes) : EventRow where
  command := .qpush held b
  ready s := Whole .spi held b s
  effect s := runWhole (b.getD 4 0) (headerOf .spi b s) (payloadOf .spi b s)
    (entered (b.getD 4 0) (headerOf .spi b s) (pushed s))

/-- A packet larger than the free receive space is discarded and counted, and DISCARD is set (R26). -/
noncomputable abbrev pushOverrun (via : Transport) (held : Nat) (b : Bytes) : EventRow where
  command := .push via held b
  ready s := hears via s = true ∧ room held (attended s) < pushSize via b
  effect s := (attended s).mapLink fun l => { l with
    rxHeld := min held 16384, discard := true, counters := { l.counters with overruns := satInc l.counters.overruns } }

/-- A packet whose first byte is not 0xA5 is discarded without a notice (check 1). -/
noncomputable abbrev pushNoSync (via : Transport) (held : Nat) (b : Bytes) : EventRow where
  command := .push via held b
  ready s := hears via s = true ∧ pushSize via b ≤ room held (attended s) ∧ b.head? ≠ some 0xA5
  effect s := (attended s).mapLink fun l =>
    { l with rxHeld := 0, discard := true, counters := { l.counters with syncDiscards := satInc l.counters.syncDiscards } }

/-! ### Packets pulled -/

/-- The outbound packets that wait, without STARTED replies of sessions that have ended. -/
def waitingOut (s : State) : List Outbound := s.link.out.dropWhile (stale s)

/-- The oldest packet as it would leave: its bytes, and the state after it has left. -/
noncomputable def oldest (s : State) : Bytes × State :=
  match waitingOut s with
  | [] => ([], s)
  | o :: rest => leave o (s.mapLink fun l => { l with out := rest })

/-- The host clocks the oldest packet whole: it leaves, and the bytes clocked beyond it are zero. -/
noncomputable abbrev pull (via : Transport) (clocked : Nat) : EventRow where
  command := .pull via clocked
  ready s := hears via s = true ∧ waitingOut s ≠ [] ∧ (oldest s).1.length ≤ clocked
  effect s := (oldest s).2.mapLink fun l => { l with driven := fixed clocked (oldest s).1 }

/-- QPULL is PULL over four lanes. -/
noncomputable abbrev qpull (clocked : Nat) : EventRow where
  command := .qpull clocked
  ready s := hears .spi s = true ∧ waitingOut s ≠ [] ∧ (oldest s).1.length ≤ clocked
  effect s := (oldest s).2.mapLink fun l => { l with driven := fixed clocked (oldest s).1 }

/-- The host stops before the last byte: the packet stays the oldest (R27). -/
noncomputable abbrev pullShort (via : Transport) (clocked : Nat) : EventRow where
  command := .pull via clocked
  ready s := hears via s = true ∧ waitingOut s ≠ [] ∧ clocked < (oldest s).1.length
  effect s := s.mapLink fun l => { l with out := waitingOut s, driven := (oldest s).1.take clocked }

/-- With no packet pending the device drives zeros. -/
noncomputable abbrev pullNothing (via : Transport) (clocked : Nat) : EventRow where
  command := .pull via clocked
  ready s := hears via s = true ∧ waitingOut s = []
  effect s := s.mapLink fun l => { l with out := [], driven := List.replicate clocked 0 }

/-! ### Status and timers -/

/-- CLEAR_STATUS clears the bits of IRQ_CAUSE that are written 1 among bits 3 to 7, and no other (R29). -/
noncomputable abbrev clearStatus (via : Transport) (mask : Byte) : EventRow where
  command := .clearStatus via mask
  ready s := hears via s = true
  effect s := { s with link := { s.link with
    resetSeen := s.link.resetSeen && !mask.getLsbD 7, eventLost := s.link.eventLost && !mask.getLsbD 6
    discard := s.link.discard && !mask.getLsbD 5, bootChange := s.link.bootChange && !mask.getLsbD 4
    sessionEnd := s.link.sessionEnd && !mask.getLsbD 3 } }

/-- A transport opcode outside Table 2-1 sets DISCARD (R24). -/
noncomputable abbrev invalidTransportOpcode (op : Byte) : EventRow where
  command := .invalidTransportOpcode .spi op
  ready s := hears .spi s = true ∧ op ∉ ([0x02, 0x03, 0x05, 0x06, 0x22, 0x23] : List Byte)
  effect s := { s with link := { s.link with discard := true } }

/-- LINK_STATUS drives the status word, behind a turnaround byte over SPI (R22, Table 2-1). -/
noncomputable abbrev linkStatusRead (via : Transport) : EventRow where
  command := .invalidTransportOpcode via 0x05
  ready s := hears via s = true
  effect s := { s with link := { s.link with driven := if via = .spi then 0x00 :: linkStatus s else linkStatus s } }

/-- A message whose next fragment does not come within 1000 ms ends with LENGTH_ERROR, counted (R48). -/
noncomputable abbrev fragmentTimeout (tag : Tag) : EventRow where
  command := .fragmentTimeout tag
  ready s := ((s.slot? tag).any fun c => c.fragments != 0 && !c.replied) = true
  effect s := finish tag stLength []
    { s with link := { s.link with counters := { s.link.counters with fragmentTimeouts := satInc s.link.counters.fragmentTimeouts } } }

/-- A live session with nothing in flight is idle too long: it ends with reason 1 (R44). -/
noncomputable abbrev sessionIdleTimeout (slot : BitVec 2) : EventRow where
  command := .sessionIdleTimeout slot
  ready s := (s.session slot).phase = .live ∧ inFlight s (s.session slot).id = 0 ∧ s.isOn 2 = true
  effect s := endSession slot.toNat 0x01 s

end Sys2Proof.Rows
end

