-- ==== Sys2Proof/Certificates/Slice0/RowsSense.lean ====
section
/-! DEFINITION. When the front end, the streams, the feature engine, Belay and the TAP do what the spec gives them, and with
what effect: one row each (chapters 05 to 07, 14 and 16). -/

namespace Sys2Proof.Rows

open Machine

/-! ### The front end (chapter 05) -/

/-- A driving driver's limit stays engaged: every channel's status follows, and EXC_LIMIT is raised (R127). -/
noncomputable abbrev excLimitEngaged (d : BitVec 3) : EventRow where
  command := .excLimitEngaged d
  ready s := (rd s.afe.drivers d.toNat).limit = false ∧ driving s d.toNat = true
  effect s :=
    let limited := { s with afe := { s.afe with drivers := upd s.afe.drivers d.toNat fun x => { x with limit := true } } }
    raise 0x22 true [BitVec.ofNat 8 d.toNat, 1, 0, 0]
      ((List.range 32).foldl (fun s ch => followStatus ch s) limited)

/-- A driver below its limit again. -/
noncomputable abbrev excLimitReleased (d : BitVec 3) : EventRow where
  command := .excLimitReleased d
  ready s := (rd s.afe.drivers d.toNat).limit = true
  effect s :=
    let free := { s with afe := { s.afe with drivers := upd s.afe.drivers d.toNat fun x => { x with limit := false } } }
    raise 0x22 true [BitVec.ofNat 8 d.toNat, 0, 0, 0]
      ((List.range 32).foldl (fun s ch => followStatus ch s) free)

/-- The oldest lead measurement that has a source ends: its resistance in milliohms from the picovolts at 100 µA, in LOOP mode half
of it, is kept for its pins and is the reply (R137, R139); that LOOP mode compares and reports the half is the model's choice
(log entry 163). -/
noncomputable abbrev leadMeasureDone (picovolts : Nat) : EventRow where
  command := .leadMeasureDone picovolts
  ready s := (s.afe.leadRuns.any fun r => (leadActive s (r.p / 24)).contains r) = true
  effect s :=
    let r := (s.afe.leadRuns.find? fun r => (leadActive s (r.p / 24)).contains r).getD default
    let milli := (roundDiv picovolts (if r.kelvin then 100000 else 200000)).toNat
    let done := commitMark r.tag { s with afe := { s.afe with leadRuns := s.afe.leadRuns.filter (· != r) } }
    let kept := keepLead r.kelvin r.p r.q milli done
    finish r.tag 0x00 (le 4 (min milli 0xFFFFFFFF) ++ [if kept.2 then 1 else 2, 0, 0, 0]) kept.1

/-! ### Streams (chapter 06) -/

/-- The streams of the oldest start whose domains all work begin together, at the tick the reply names (R152). -/
noncomputable abbrev streamStartInstant : EventRow where
  command := .streamStartInstant
  ready s := (s.stm.starts.any fun r => r.streams.all fun n => (streamDomains n).all (works s)) = true
  effect s :=
    let r := (s.stm.starts.find? fun r => r.streams.all fun n => (streamDomains n).all (works s)).getD default
    let begun := r.streams.foldl (fun s n => startStream n s) { s with stm := { s.stm with starts := s.stm.starts.filter (·.tag != r.tag) } }
    finish r.tag 0x00 (le 8 (begun.clk.tick.toNat * 65536)) (commitMark r.tag begun)

/-- A frame of a running stream begins with the next number, unless the buffer is full or the last one is still open: then the
number is skipped and counted, once for a run of skips where frames follow one another (R151). -/
noncomputable abbrev frameStart (stream : BitVec 7) : EventRow where
  command := .frameStart stream
  ready s := (s.strm stream.toNat).phase = .running ∧ works s 7 = true
    ∧ ((s.strm stream.toNat).periodic = true ∨ ((s.strm stream.toNat).frame = none ∧ (s.strm stream.toNat).skipped = false)
      ∨ (s.strm stream.toNat).frame = none ∧ (s.strm stream.toNat).held.length < (s.strm stream.toNat).bufFrames.toNat)
  effect s :=
    let n := stream.toNat
    let x := s.strm n
    if x.frame.isSome = true ∨ x.bufFrames.toNat ≤ x.held.length then
      onStream n (fun x => { x with
        seq := x.seq + 1, skipped := true, counters := { x.counters with skipped := satInc x.counters.skipped } }) s
    else
      let burstOnly := isAnalog n && (driverOf s.afe n).any fun d => (rd s.afe.drivers d).word.getLsbD 9
      let ready := if isAnalog n then onChannel n (fun c => { c with burst := {} }) s else s
      onStream n (fun x => { x with
        seq := x.seq + 1, skipped := false
        frame := some { seq := x.seq, step := if burstOnly then .settle else if isAnalog n then .calibrating else .measuring } })
        ready

/-- A driver has settled: the frames that waited for it calibrate. -/
noncomputable abbrev driverSettleDone (d : BitVec 3) : EventRow where
  command := .driverSettleDone d
  ready _ := True
  effect s := (List.range 32).foldl (fun s n =>
    match (s.strm n).frame with
    | some f =>
      if driverOf s.afe n == some d.toNat && f.step == .settle
      then onStream n (fun x => { x with frame := some { f with step := .calibrating } }) s else s
    | none => s) s

/-- A running stream whose blocks work takes a sample: a voltage on a channel, with those of its driver, or a word on a digital
stream. -/
noncomputable abbrev sampleArrival (stream : BitVec 7) (picovolts : Int) (drive sense : Nat) (overload : Bool) : EventRow where
  command := .sampleArrival stream picovolts drive sense overload
  ready s := (s.strm stream.toNat).phase = .running ∧ works s 7 = true
    ∧ (if isAnalog stream.toNat then bankLive s (stream.toNat / 16) else works s 6) = true
  effect s :=
    if isAnalog stream.toNat then takeAnalog stream.toNat picovolts drive sense overload s
    else takeDigital stream.toNat (picovolts % 4294967296).toNat s

/-- The fabric moves 16 samples of a stream's FIFO, or the rest of a frame, to its frame in memory (R160). -/
noncomputable abbrev fabricTransaction (stream : BitVec 7) (rest : Bool) : EventRow where
  command := .fabricTransaction stream rest
  ready s := bubbling s = false ∧ works s 7 = true ∧ (rest = true ∨ 16 ≤ (s.strm stream.toNat).fifo.length)
  effect s := onStream stream.toNat (moveSamples (if rest then (s.strm stream.toNat).fifo.length else 16)) s

/-- A frame's calibration burst ends: a whole one gives the channel its gain and offset, a swallowed one is stale and
counted, and the measurement begins (R136, R164). -/
noncomputable abbrev calBurstComplete (channel : BitVec 5) (raws : List Int) (step lead drive sense : Nat) : EventRow where
  command := .calBurstComplete channel raws step lead drive sense
  ready s := ((s.strm channel.toNat).frame.any fun f => f.step == .calibrating && decide ((s.strm channel.toNat).calLen ≤ f.taken)) = true
    ∧ works s 7 = true
  effect s :=
    let n := channel.toNat
    let x := s.strm n
    let f := x.frame.getD default
    let c := rd s.afe.channels n
    let all := f.calSamples ++ (x.fifo.filter (·.1 == .calibration)).map (·.2)
    let taken :=
      if f.calSwallowed then swallowed n s
      else onStream n (fun x => { x with staleRun := 0 })
        (takeCalibration n all step lead (vRef s.afe n drive sense) f.leading (mPrevOf c c.first) s)
    beginMeasurement n (if bubbling taken then taken else onStream n (fun x => moveSamples x.fifo.length x) taken)

/-- The calibration that AFE_CAL_RUN asked of a channel ends; with its last channel the command is DONE with the records. Its LEAD
segment runs where a source is free as it ends, by the model's choice (log entry 171). -/
noncomputable abbrev calRunComplete (channel : BitVec 5) (raws : List Int) (step lead drive sense : Nat) : EventRow where
  command := .calBurstComplete channel raws step lead drive sense
  ready s := (s.strm channel.toNat).frame = none ∧ (s.afe.calRuns.find? (fun r => r.left.getLsbD channel.toNat)).isSome = true
    ∧ bankLive s (channel.toNat / 16) = true
  effect s :=
    let n := channel.toNat
    let r := (s.afe.calRuns.find? (fun r => r.left.getLsbD n)).getD default
    let c := rd s.afe.channels n
    let led := if c.leadCheck then leadBegins n s else (s, false)
    let taken := onStream n (fun x => { x with staleRun := 0 })
      (takeCalibration n raws step lead (vRef s.afe n drive sense) led.2 c.mPrev led.1)
    let left := setBit r.left n false
    let rest (f : CalRunAfe → List CalRunAfe) : State :=
      { taken with afe := { taken.afe with calRuns := taken.afe.calRuns.flatMap fun o => if o.tag == r.tag then f o else [o] } }
    if left = 0 then
      let done := commitMark r.tag (rest fun _ => [])
      finish r.tag 0x00 ((members 32 r.mask.toNat).flatMap fun i => (rd done.afe.channels i).record.bytes) done
    else rest fun o => [{ o with left := left }]

/-! ### Frames, ports and the encoder (chapters 06 and 07) -/

/-- A full frame of a running stream closes, by its revolutions, before them, or by its length (R150). -/
noncomputable abbrev frameClose (stream : BitVec 7) : EventRow where
  command := .frameClose stream
  ready s := (s.strm stream.toNat).phase = .running ∧ ((s.strm stream.toNat).frame.any (frameFull (s.strm stream.toNat))) = true
  effect s :=
    let x := s.strm stream.toNat
    closeFrame stream.toNat (if (x.frame.getD default).revsDone then 1 else if x.byRevs then 2 else 0) false s

/-- A frame sync of the port's polarity on a TDM port in step: every running slot takes its word, read from the data line at the
port's edge of the bit clock (R154). -/
noncomputable abbrev tdmFrameSync (port : BitVec 2) (rising : Bool) (onRise onFall : List Bool) (hz : Nat) : EventRow where
  command := .tdmFrameSync port rising onRise onFall hz
  ready s := (rd s.stm.ports port.toNat).mode = .tdm ∧ rising ≠ bit (rd s.stm.ports port.toNat).cfg.toNat 14
    ∧ portHeard s port.toNat = true ∧ (rd s.stm.ports port.toNat).lost = false
  effect s :=
    let p := rd s.stm.ports port.toNat
    let line := if bit p.cfg.toNat 12 then onFall else onRise
    (List.range p.slots).foldl (fun s k =>
      let n := 32 + 16 * port.toNat + k
      if (s.strm n).phase == .running then takeDigital n (slotWord p.cfg.toNat line k) s else s)
      (onPort port.toNat (fun p => { p with measured := .ofNat 32 hz }) s)

/-- A frame sync on a port that has lost step: the sixteenth in a row within 5 % of its rate brings it back, and the streams that
waited run (R156). -/
noncomputable abbrev tdmFrameRegained (port : BitVec 2) (rising : Bool) (onRise onFall : List Bool) (hz : Nat) : EventRow where
  command := .tdmFrameSync port rising onRise onFall hz
  ready s := (rd s.stm.ports port.toNat).mode = .tdm ∧ rising ≠ bit (rd s.stm.ports port.toNat).cfg.toNat 14
    ∧ portHeard s port.toNat = true ∧ (rd s.stm.ports port.toNat).lost = true
  effect s :=
    let i := port.toNat
    let measured := onPort i (fun p => { p with measured := .ofNat 32 hz }) s
    let rate := (rd s.stm.ports i).fsRate.toNat
    let good := if 95 * rate ≤ 100 * hz ∧ 100 * hz ≤ 105 * rate then (rd s.stm.ports i).good + 1 else 0
    if good < 16 then onPort i (fun p => { p with good := good }) measured
    else sportEvent i 1 2 ((List.range 16).foldl (fun s k => onStream (32 + 16 * i + k)
        (fun x => if x.phase == .waiting then { x with phase := .running } else x) s)
      (onPort i (fun p => { p with lost := false, good := 0 }) measured))

/-- A TDM port loses step: counted, its running streams close their frames as incomplete and wait, SPORT_STATE is raised. -/
noncomputable abbrev sportLost (port : BitVec 2) : EventRow where
  command := .sportLost port
  ready s := (rd s.stm.ports port.toNat).mode = .tdm ∧ (rd s.stm.ports port.toNat).lost = false ∧ works s 6 = true
  effect s :=
    let i := port.toNat
    sportEvent i 2 1 ((List.range 16).foldl (fun s k =>
        let n := 32 + 16 * i + k
        if (s.strm n).phase == .running then
          onStream n (fun x => if x.phase == .running then { x with phase := .waiting } else x) (closeFrame n 3 true s)
        else s)
      (onPort i (fun p => { p with lost := true, good := 0, lostCount := satInc p.lostCount }) s))

/-- A poll of an SPI sensor: the port selects it, in the sensor's SPI mode, and sends its command bytes; the words, in the sensor's
width and byte order, go to its running streams (R157). -/
noncomputable abbrev spiPoll (port : BitVec 2) (sensor : Nat) (reply : Bytes) : EventRow where
  command := .spiPoll port sensor reply
  ready s := sensor < (rd s.stm.ports port.toNat).sensors.length ∧ (rd s.stm.ports port.toNat).mode = .spi
    ∧ portHeard s port.toNat = true ∧ rd s.clk.lock 1 = true
  effect s :=
    let e := (rd s.stm.ports port.toNat).sensors.getD sensor []
    let poll : SpiPoll := {
      cs := selectLines (bit (rd s.stm.ports port.toNat).cfg.toNat 19) (fld e 0 1), mode := .ofNat 2 (fld e 1 1)
      sent := slice e 8 (fld e 5 1) }
    let sent := onPort port.toNat (fun p => { p with poll := some poll }) s
    let w := fld e 4 1 / 8
    (List.range (fld e 3 1)).foldl (fun s j =>
      let n := 32 + 16 * port.toNat + fld e 2 1 + j
      let bs := slice reply (w * j) w
      if (s.strm n).phase == .running then takeDigital n (leNat (if fld e 6 1 == 0 then bs.reverse else bs)) s else s) sent

/-- An encoder that is heard moves by one step: the belt and its log move by the quadrature count; two inputs that change at
once are an error (R159). -/
noncomputable abbrev encEdge (a b : Bool) (held ns : Nat) : EventRow where
  command := .encEdge a b held ns
  ready s := encoderHeard s = true ∧ passesFilter (bits s.stm.encoder.word.toNat 0 3) held = true ∧ (a ≠ s.stm.encoder.a ∨ b ≠ s.stm.encoder.b)
  effect s :=
    let active := encPhase .active s
    let e := active.stm.encoder
    if a ≠ e.a ∧ b ≠ e.b then
      { active with stm := { active.stm with encoder := { e with a := a, b := b, errors := satInc e.errors } } }
    else
      let d := quadrature (bits e.word.toNat 5 2) (bit e.word.toNat 4) e.a e.b a b
      let counted := if active.feat.belt.encLost then active else beltCount d active
      let last := match e.log with | x :: _ => x.2.2 | [] => 0
      { counted with stm := { counted.stm with encoder := { e with
        a := a, b := b, log := if d = 0 then e.log else logEdge counted (now counted, ns, last + d) e.log } } }

/-- A pulse of ENC_Z of the polarity of Z_POL that passes the filter marks the belt (R159, R181). -/
noncomputable abbrev spliceMarked (high : Bool) (held : Nat) : EventRow where
  command := .spliceMark high held
  ready s := encoderHeard s = true ∧ high ≠ bit s.stm.encoder.word.toNat 3 ∧ passesFilter (bits s.stm.encoder.word.toNat 0 3) held = true
  effect s := spliceMark s

/-- The encoder is idle: it is lost where the check tachometer still turns (R159). -/
noncomputable abbrev encIdle : EventRow where
  command := .encIdle
  ready s := encoderHeard s = true
  effect s :=
    let idle := encPhase .idle s
    if checked idle && !idle.feat.belt.encLost && (rd idle.stm.tachs idle.feat.belt.checkTach.toNat).phase == .active
    then encoderLost idle else idle

/-- The encoder's speed differs from the check tachometer's by more than SLIP_MAX over a second: it is lost (R183). -/
noncomputable abbrev encoderSlip : EventRow where
  command := .encoderSlip
  ready s := encoderHeard s = true ∧ checked s = true ∧ s.feat.belt.encLost = false ∧ slipping s = true
  effect s := encoderLost s

/-- A lost encoder that has moved and agreed for a second counts again (R183). -/
noncomputable abbrev encoderRestored : EventRow where
  command := .encoderRestored
  ready s := s.feat.belt.encLost = true ∧ s.stm.encoder.phase = .active ∧ s.stm.encoder.since.toNat + 2147483648 ≤ (now s).toNat
    ∧ slipping s = false
  effect s := onBelt (fun b => { b with encLost := false }) s

/-- The frame of a pair that has waited longest. -/
noncomputable def longestWait (s : State) (i : Nat) : Option ClosedFrame :=
  (pairWaiting s i).foldl (fun best f => match best with
    | some g => if f.tClose.toNat < g.tClose.toNat then some f else best
    | none => some f) none

/-- The partner of the frame of a pair that has waited longest does not come: the pair skips it (R142). -/
noncomputable abbrev pairPartnerTimeout (pair : BitVec 4) : EventRow where
  command := .pairPartnerTimeout pair
  ready s := (rd s.afe.pairs pair.toNat).configured = true ∧ (longestWait s pair.toNat).isSome = true
  effect s := skipPair pair.toNat (fun f => some f == longestWait s pair.toNat) s

/-- The feature engine takes the oldest closed frame: its feature frame, of zeros where the frame's lines read as never written, is
the stream's latest and enters the queue (R168, R171, R212). -/
noncomputable abbrev featureFrameTake : EventRow where
  command := .featureFrameTake
  ready s := ((oldestClosed s).any fun f => !f.awaiting) = true ∧ (freeBank s).isSome = true ∧ works s 8 = true
    ∧ s.mdl.features.length < 64
  effect s :=
    let f := (oldestClosed s).getD default
    let found := f.tag.readable s 7
    let g := featureFrame s (if found then f else f.unread)
    let counted := if found then s else countUnwritten .sample ((64 + 4 * (f.calSamples.length + f.samples.length) + 63) / 64) s
    let taken := onFeature f.stream (fun x => { x with latest := some g }) (onStream f.stream (fun x => { x with held := x.held.drop 1 }) counted)
    let queued := onRm (fun b => { b with features := b.features ++ [{ frame := g, bank := (freeBank s).getD 0, tag := tagFor s 7 }] }) taken
    queuePressure 0 queued.mdl.features.length 64 queued

/-- With no Commons bank free, the first bank is asked for. -/
noncomputable abbrev featureFrameWaits : EventRow where
  command := .featureFrameTake
  ready s := (oldestClosed s).isSome = true ∧ freeBank s = none
  effect s := wantDomain 12 true s

/-! ### Tachometers and Belay (chapters 06 and 14) -/

/-- The counted edges of a tachometer: the period, the log, the revolutions of the streams and the check of advance (R150, R158,
R183). -/
noncomputable def counted (i ns : Nat) (s : State) : State :=
  let active := tachPhase i .active s
  let t := rd active.stm.tachs i
  let ppr := bits t.word.toNat 21 11
  let last := match t.log with | x :: _ => x.2.2 | [] => 0
  let counted := { active with stm := { active.stm with
    tachs := wr active.stm.tachs i { t with
      edges := t.edges + 1, periodNs := match t.lastNs with | some l => satAdd 0 (ns - l) | none => 0
      lastNs := some ns, log := logEdge active (now active, ns, last + 1) t.log }
    streams := active.stm.streams.map fun x => countRevs i x ppr } }
  let moved := checkTachAdvance i ppr counted
  if moved.bly.cfg.coastTach.toNat == i && belayRuns moved then lookBelay (followCoast moved) else moved

/-- A pin of a tachometer that is heard changes its level and passes the filter: the level is kept, and an edge of the polarity of
EDGE is counted (R158). -/
noncomputable abbrev tachEdge (tach : BitVec 2) (rising : Bool) (held ns : Nat) : EventRow where
  command := .tachEdge tach rising held ns
  ready s := tachHeard s tach.toNat = true ∧ (rd s.stm.tachs tach.toNat).level ≠ some rising
    ∧ passesFilter (bits (rd s.stm.tachs tach.toNat).word.toNat 0 3) held = true
  effect s :=
    let i := tach.toNat
    let levelled := { s with stm := { s.stm with tachs := upd s.stm.tachs i fun t => { t with level := some rising } } }
    if rising = bit (rd s.stm.tachs i).word.toNat 6 then levelled else counted i ns levelled

/-- A tachometer that is heard goes idle. -/
noncomputable abbrev tachIdle (tach : BitVec 2) : EventRow where
  command := .tachIdle tach
  ready s := tachHeard s tach.toNat = true
  effect s :=
    let idle := tachPhase tach.toNat .idle s
    if idle.bly.cfg.coastTach.toNat == tach.toNat && belayRuns idle then lookBelay (followCoast idle) else idle

/-- Belay takes the oldest result that waits for it: every asset it feeds is updated (R326, R327). -/
noncomputable abbrev assetUpdate : EventRow where
  command := .assetUpdate
  ready s := s.bly.queue ≠ [] ∧ belayRuns s = true
  effect s := lookBelay ((List.range 8).foldl (assetTakes (s.bly.queue.headD default)) { s with bly := { s.bly with queue := s.bly.queue.tail } })

/-- The confirmation window ends: with CONFIRM_RECHECK and no standing cause the hold is released, else the trip is committed (R337). -/
noncomputable abbrev confirmWindowEnd : EventRow where
  command := .confirmWindowEnd
  ready s := s.bly.phase = .hold ∧ belayRuns s = true
  effect s :=
    if s.bly.cfg.flags.getLsbD 0 && !holdStands s then
      lookBelay (noteFreezes (releaseHold { s with bly := { s.bly with rechecks := satInc s.bly.rechecks } }))
    else lookBelay (commitTrip s)

/-- The coast timer ends: without a coast tachometer the machine is taken to have stopped; with one that still turns, the first
end is BELAY_NO_DECEL (R340). -/
noncomputable abbrev coastTimerEnd : EventRow where
  command := .coastTimerEnd
  ready s := s.bly.coasting.isSome = true ∧ (s.bly.phase = .tripped ∨ s.bly.phase = .coasting) ∧ belayRuns s = true
  effect s :=
    let ended := { s with bly := { s.bly with coasting := none } }
    if (coastTach ended).isNone then
      lookBelay (noteFreezes (enterStopped false (if s.bly.phase = .tripped then enterCoasting ended else ended)))
    else if s.bly.noDecel then ended
    else
      let body : Bytes := [if s.bly.phase = .tripped then 1 else 2, 0, 0, 0] ++ le 4 (coastSpeed ended)
      let warned := { ended with bly := { ended.bly with noDecel := true, latched := ended.bly.latched ||| 0x0010#16 } }
      lookBelay (cairn 0x8003 (belaySource warned) body (raise 0x81 true body warned))

/-- The coast tachometer has stayed below the stop speed for its dwell: STOPPED. -/
noncomputable abbrev stopDwellEnd : EventRow where
  command := .stopDwellEnd
  ready s := s.bly.phase = .coasting ∧ s.bly.dwell = true ∧ (coastTach s).isSome = true ∧ belayRuns s = true
  effect s := lookBelay (noteFreezes (enterStopped false s))

/-- In STOPPED it has stayed above for its dwell: BELAY_MOTION. -/
noncomputable abbrev motionDwellEnd : EventRow where
  command := .motionDwellEnd
  ready s := s.bly.phase = .stopped ∧ s.bly.dwell = true ∧ (coastTach s).isSome = true ∧ belayRuns s = true
  effect s :=
    let moving := { s with bly := { s.bly with dwell := false, slow := false, latched := s.bly.latched ||| 0x0100#16 } }
    lookBelay (raise 0x83 true (le 4 (coastSpeed moving)) moving)

/-- The re-arm timer ends: ARMED again, with the start guard and the assets' restart, and the command that asked is DONE. -/
noncomputable abbrev rearmTimerEnd : EventRow where
  command := .rearmTimerEnd
  ready s := s.bly.phase = .rearm ∧ belayRuns s = true
  effect s :=
    let armed := enterArmed s
    let guarded := { armed with bly := { armed.bly with
      startGuard := armed.bly.cfg.startGuard != 0, rearming := none
      assets := armed.bly.assets.map (fun a => { a with restart := a.value.isSome }) } }
    lookBelay (startHoldoff (match s.bly.rearming with
      | some t => finish t 0x00 [] (commitMark t guarded)
      | none => guarded))

/-- The start guard ends. -/
noncomputable abbrev startGuardEnd : EventRow where
  command := .startGuardEnd
  ready _ := True
  effect s := { s with bly := { s.bly with startGuard := false } }

/-! ### The TAP (chapter 16) -/

/-- TAP_RESET selects IDCODE. -/
noncomputable abbrev tapReset : EventRow where
  command := .tapReset
  ready s := tapUp s = true
  effect s := onTap (fun t => { t with instr := 0x01, out := [] }) s

/-- An opcode that names no instruction is BYPASS: one bit, captured 0. -/
noncomputable abbrev bypass (opcode : BitVec 5) (tdi : List Bool) : EventRow where
  command := .bypass opcode tdi
  ready s := tapUp s = true ∧ tapOpcodes.contains opcode.toNat = false
  effect s := onTap (fun t => { t with instr := opcode, out := ([false] ++ tdi).take tdi.length }) s

/-- IDCODE shifts 0x2649655D out, its bit 0 first (R390). -/
noncomputable abbrev idcode (tdi : List Bool) : EventRow where
  command := .idcode tdi
  ready s := tapUp s = true
  effect s := onTap (fun t => { t with instr := 0x01, out := (bitsOf [0x5D, 0x65, 0x49, 0x26] ++ tdi).take tdi.length }) s

/-- SAMPLE/PRELOAD captures the pins. -/
noncomputable abbrev samplePreload (pins tdi : List Bool) : EventRow where
  command := .samplePreload pins tdi
  ready s := tapUp s = true
  effect s := boundary 0x02 pins tdi s

/-- EXTEST captures the pins. -/
noncomputable abbrev extest (pins tdi : List Bool) : EventRow where
  command := .extest pins tdi
  ready s := tapUp s = true
  effect s := boundary 0x00 pins tdi s

/-- HIGHZ acts with RESET_N high; in reset its bypass bit is shifted. -/
noncomputable abbrev highz (pins tdi : List Bool) : EventRow where
  command := .highz pins tdi
  ready s := tapUp s = true
  effect s := if s.pins.resetN then boundary 0x03 pins tdi s else scan 0x03 [false] tdi s

/-- CLAMP likewise. -/
noncomputable abbrev clamp (pins tdi : List Bool) : EventRow where
  command := .clamp pins tdi
  ready s := tapUp s = true
  effect s := if s.pins.resetN then boundary 0x04 pins tdi s else scan 0x04 [false] tdi s

/-- DBG_CHAL shifts a new challenge out; where it cannot be made the bits are free values (log entry 81). -/
noncomputable abbrev dbgChal (tdi : List Bool) : EventRow where
  command := .dbgChal tdi
  ready s := tapUp s = true
  effect s :=
    if tspServed s = true ∧ s.own.trngFault = false then scan 0x10 (bitsOf (newChallenge s).1) tdi (newChallenge s).2
    else scan 0x10 (freeBits 4 s).1 tdi (freeBits 4 s).2

/-- DBG_OPEN of 1280 bits uses up the challenge, and a signature that verifies begins the erase (R393). -/
noncomputable abbrev dbgOpen (tdi : List Bool) : EventRow where
  command := .dbgOpen tdi
  ready s := tapUp s = true
  effect s :=
    let shifted := scan 0x11 (freeBits 20 s).1 tdi (freeBits 20 s).2
    if tdi.length = 1280 ∧ tspServed shifted = true ∧ belayRests shifted = true ∧ shifted.own.erase = none then
      let used := onOwn (fun w => { w with challenge := none }) shifted
      if openingOk shifted (bytesOf 160 tdi) then beginErase 2 none used else used
    else shifted

/-- DBG_ACCESS while debug is closed shifts zeros. -/
noncomputable abbrev dbgAccess (tdi : List Bool) : EventRow where
  command := .dbgAccess tdi
  ready s := tapUp s = true ∧ s.own.debugOpen = false
  effect s := scan 0x12 (List.replicate 96 false) tdi s

end Sys2Proof.Rows
end

