-- ==== Sys2Proof/Certificates/Slice0/RowsSignal.lean ====
section
/-! DEFINITION. When the commands of the front end, the streams, the features and the belt complete, and with what effect: one
row each (chapters 05 to 08). -/

namespace Sys2Proof.Rows

open Machine

/-! ### The front end (chapter 05) -/

/-- AFE_PIN_ROLE_SET of distinct pins, to roles that are legal together, none of a changed pin in use: every pin named has its
role. -/
abbrev afePinRoleSet : CommandRow where
  command := .afePinRoleSet
  opcode := 0x20
  rights _ _ _ := .site
  ready _ p s :=
    let after := { s.afe with pins := (roleEntries p).foldl (fun v e => wr v e.1 e.2) s.afe.pins }
    p.length % 4 = 0 ∧ 4 ≤ p.length ∧ p.length ≤ 192 ∧ (∀ i < p.length / 4, bits (fld p (4 * i + 1) 1) 4 4 = 0)
    ∧ (∀ e ∈ roleEntries p, e.1 < 48 ∧ e.2.role.toNat ≤ 8) ∧ ((roleEntries p).map (·.1)).Nodup
    ∧ bankLegal after 0 = true ∧ bankLegal after 1 = true ∧ ownersLegal after = true
    ∧ ∀ e ∈ roleEntries p, rd s.afe.pins e.1 = e.2 ∨ pinBusy s e.1 (rd s.afe.pins e.1) = false ∧ pinBusy s e.1 e.2 = false
  effect h p s := doneWith h [] { s with afe := { s.afe with pins := (roleEntries p).foldl (fun v e => wr v e.1 e.2) s.afe.pins } }

/-- AFE_PIN_ROLE_GET: the 24 pins of a bank. -/
abbrev afePinRoleGet : CommandRow where
  command := .afePinRoleGet
  opcode := 0x21
  ready _ p _ := p.length = 1 ∧ fld p 0 1 ≤ 1
  effect h p s := doneWith h ((List.range 24).flatMap fun i => pinBytes s.afe (24 * fld p 0 1 + i)) s

/-- AFE_CHANNEL_CONFIG of values in range, of a channel not in use or without a change: the channel has the entry, and its EXC_LIMIT and LEAD_HIGH follow what it names now (R127, R140). -/
abbrev afeChannelConfig : CommandRow where
  command := .afeChannelConfig
  opcode := 0x22
  rights _ _ _ := .site
  ready _ p s :=
    let ch := fld p 0 1
    let new := channelFrom p (rd s.afe.channels ch)
    p.length = 24 ∧ fld p 1 3 = 0 ∧ bits (fld p 4 4) 28 4 = 0 ∧ bits (fld p 4 4) 0 8 = 0 ∧ bits (fld p 8 4) 0 14 = 0
    ∧ bits (fld p 16 4) 0 13 = 0 ∧ ch < 32 ∧ channelInRange new ch = true ∧ (calLenOf s ch).all new.fits = true
    ∧ ownersLegal { s.afe with channels := wr s.afe.channels ch new } = true
    ∧ (new = rd s.afe.channels ch ∨ channelBusy s ch = false)
  effect h p s :=
    let ch := fld p 0 1
    let t := followStatus ch { s with afe := { s.afe with channels := wr s.afe.channels ch (channelFrom p (rd s.afe.channels ch)) } }
    doneWith h (channelFlags t ch) t

/-- AFE_CHANNEL_GET: the flags, the entry and the calibration record of a channel. -/
abbrev afeChannelGet : CommandRow where
  command := .afeChannelGet
  opcode := 0x23
  ready _ p _ := p.length = 1 ∧ fld p 0 1 < 32
  effect h p s := doneWith h (channelFlags s (fld p 0 1) ++ (rd s.afe.channels (fld p 0 1)).bytes (fld p 0 1)
    ++ (rd s.afe.channels (fld p 0 1)).record.bytes) s

/-- AFE_EXCITATION_SET of a driver not in use, or without a change: the driver has the word. -/
abbrev afeExcitationSet : CommandRow where
  command := .afeExcitationSet
  opcode := 0x24
  rights _ _ _ := .site
  ready _ p s := p.length = 8 ∧ fld p 1 3 = 0 ∧ fld p 7 1 = 0 ∧ bits (fld p 4 4) 10 6 = 0 ∧ fld p 0 1 < 8
    ∧ bits (BitVec.ofNat 32 (fld p 4 4)).toNat 0 8 ≤ 200
    ∧ ((BitVec.ofNat 32 (fld p 4 4)).getLsbD 9 = true → bits (BitVec.ofNat 32 (fld p 4 4)).toNat 16 8 ≠ 0)
    ∧ ((rd s.afe.drivers (fld p 0 1)).word = BitVec.ofNat 32 (fld p 4 4) ∨ driverBusy s (fld p 0 1) = false)
  effect h p s := doneWith h (le 4 (BitVec.ofNat 32 (fld p 4 4)).toNat)
    { s with afe := { s.afe with drivers := upd s.afe.drivers (fld p 0 1) fun x => { x with word := BitVec.ofNat 32 (fld p 4 4) } } }

/-- The pins and the channel of AFE_LEAD_MEASURE are of one bank that is enabled and free, one of the bank's two lead-measurement
currents is free and the bank's clock has not failed (R137, R139). -/
abbrev leadFree (pins : List Nat) (ch : Nat) (s : State) : Prop :=
  (∀ x ∈ pins, x < 48 ∧ x / 24 = pins.headD 0 / 24 ∧ pinBusy s x (rd s.afe.pins x) = false) ∧ pins.Nodup
  ∧ ch < 32 ∧ ch / 16 = pins.headD 0 / 24 ∧ channelBusy s ch = false ∧ ileadHeld s.afe (pins.headD 0 / 24) ≠ 2
  ∧ s.afe.banks.getLsbD (pins.headD 0 / 24) = true ∧ clockDown s (4 + pins.headD 0 / 24) = false

/-- AFE_LEAD_MEASURE of a loop: STARTED, and the run waits for its banks. -/
abbrev afeLeadMeasureLoop : CommandRow where
  command := .afeLeadMeasureLoop
  opcode := 0x25
  rights _ _ _ := .site
  ready _ p s := p.length = 12 ∧ fld p 5 3 = 0 ∧ fld p 3 1 = 0 ∧ fld p 8 4 = 0 ∧ leadFree [fld p 1 1, fld p 2 1] (fld p 4 1) s
  effect h p s := started h.tag (wantBanks [fld p 4 1] { s with afe := { s.afe with leadRuns := s.afe.leadRuns
    ++ [{ tag := h.tag, kelvin := false, p := fld p 1 1, q := fld p 2 1, s := fld p 3 1, channel := fld p 4 1 }] } })

/-- AFE_LEAD_MEASURE with a sense pin. -/
abbrev afeLeadMeasureKelvin : CommandRow where
  command := .afeLeadMeasureKelvin
  opcode := 0x25
  rights _ _ _ := .site
  ready _ p s := p.length = 12 ∧ fld p 5 3 = 0 ∧ fld p 8 4 = 0
    ∧ leadFree [fld p 1 1, fld p 2 1, fld p 3 1] (fld p 4 1) s
  effect h p s := started h.tag (wantBanks [fld p 4 1] { s with afe := { s.afe with leadRuns := s.afe.leadRuns
    ++ [{ tag := h.tag, kelvin := true, p := fld p 1 1, q := fld p 2 1, s := fld p 3 1, channel := fld p 4 1 }] } })

/-- AFE_LEAD_MEASURE with a value stores it for the pin. -/
abbrev afeLeadMeasureSet : CommandRow where
  command := .afeLeadMeasureSet
  opcode := 0x25
  rights _ _ _ := .site
  ready _ p s := p.length = 12 ∧ fld p 5 3 = 0 ∧ fld p 1 1 < 48 ∧ fld p 2 3 = 0 ∧ fld p 8 4 ≤ 500000
    ∧ pinBusy s (fld p 1 1) (rd s.afe.pins (fld p 1 1)) = false
  effect h p s := doneWith h (le 4 (fld p 8 4) ++ [1, 0, 0, 0]) (storeLead (fld p 1 1) 3 (fld p 8 4) s)

/-- AFE_LEAD_GET: the lead values of a bank's pins, their states in bits 31 and 30. -/
abbrev afeLeadGet : CommandRow where
  command := .afeLeadGet
  opcode := 0x26
  ready _ p _ := p.length = 1 ∧ fld p 0 1 ≤ 1
  effect h p s := doneWith h ((List.range 24).flatMap fun i =>
    le 4 ((rd s.afe.leads (24 * fld p 0 1 + i)).value.toNat + 2 ^ 30 * (rd s.afe.leads (24 * fld p 0 1 + i)).state.toNat)) s

/-- AFE_PAIR_CONFIG of two streams in no other pair: the pair has the entry, UNKNOWN while both streams run and INACTIVE else
(R144). -/
abbrev afePairConfigSet : CommandRow where
  command := .afePairConfigSet
  opcode := 0x27
  rights _ _ _ := .site
  ready _ p s := p.length = 12 ∧ fld p 11 1 = 0 ∧ fld p 0 1 < 16 ∧ fld p 2 1 < 96 ∧ fld p 3 1 < 96 ∧ fld p 2 1 ≠ fld p 3 1
    ∧ (fld p 4 2 = 0 ∨ 0x101 ≤ fld p 4 2 ∧ fld p 4 2 ≤ 0x1000) ∧ fld p 8 1 ≤ 32 ∧ fld p 9 1 ≠ 0 ∧ fld p 10 1 ≠ 0
    ∧ ∀ o < 16, o = fld p 0 1 ∨ (rd s.afe.pairs o).configured = false
        ∨ ∀ x ∈ [fld p 2 1, fld p 3 1], x ≠ (rd s.afe.pairs o).streamA ∧ x ≠ (rd s.afe.pairs o).streamB
  effect h p s :=
    let i := fld p 0 1
    let s := releasePair i (markPair i false false s)
    let both := (s.strm (fld p 2 1)).isRunning && (s.strm (fld p 3 1)).isRunning
    let new : Pair :=
      { configured := true, streamA := fld p 2 1, streamB := fld p 3 1, ratioMax := .ofNat 16 (fld p 4 2), corrMin := .ofNat 8 (fld p 6 1)
        bandDb := .ofNat 8 (fld p 7 1), maxLag := .ofNat 8 (fld p 8 1), persist := .ofNat 8 (fld p 9 1)
        digSatLimit := .ofNat 8 (fld p 10 1), phase := (rd s.afe.pairs i).phase }
    doneWith h [] (setPair i (if both then .unknown else .inactive) (onPair i (fun _ => new) s))

/-- AFE_PAIR_CONFIG with ENABLE 0 removes the pair. -/
abbrev afePairConfigRemove : CommandRow where
  command := .afePairConfigRemove
  opcode := 0x27
  rights _ _ _ := .site
  ready _ p _ := p.length = 12 ∧ fld p 11 1 = 0 ∧ fld p 0 1 < 16
  effect h p s := doneWith h [] (onPair (fld p 0 1) (fun _ => {}) (setPair (fld p 0 1) .inactive (releasePair (fld p 0 1) s)))

/-- AFE_PAIR_STATUS of one pair or of all. -/
abbrev afePairStatus : CommandRow where
  command := .afePairStatus
  opcode := 0x28
  ready _ p _ := p.length = 1 ∧ (fld p 0 1 < 16 ∨ fld p 0 1 = 255)
  effect h p s := doneWith h (if fld p 0 1 = 255 then (List.range 16).flatMap (pairEntry s) else pairEntry s (fld p 0 1)) s

/-- AFE_DIAG of a bank: its state, its 16 channels and its four drivers. -/
abbrev afeDiag : CommandRow where
  command := .afeDiag
  opcode := 0x29
  ready _ p _ := p.length = 1 ∧ fld p 0 1 ≤ 1
  effect h p s :=
    let b := fld p 0 1
    doneWith h ([BitVec.ofNat 8 b, BitVec.ofNat 8 (b2n (s.afe.banks.getLsbD b)), BitVec.ofNat 8 (b2n s.pwr.va30Ok), 0]
      ++ (List.range 16).flatMap (fun i =>
        le 2 (rd s.afe.channels (16 * b + i)).status.toNat ++ [0, 0] ++ le 4 (rd s.afe.channels (16 * b + i)).faultFrames.toNat
          ++ le 4 (rd s.afe.channels (16 * b + i)).satSamples.toNat)
      ++ (List.range 4).flatMap fun i =>
        [BitVec.ofNat 8 (flags [(rd s.afe.drivers (4 * b + i)).word.getLsbD 8, driving s (4 * b + i), (rd s.afe.drivers (4 * b + i)).limit]), 0]
          ++ le 2 (rd s.afe.leadSkips b).toNat) s

/-- AFE_CAL_RUN of ready channels not in use, with a length that fits them: STARTED, and the run waits for its banks. -/
abbrev afeCalRun : CommandRow where
  command := .afeCalRun
  opcode := 0x2A
  rights _ _ _ := .site
  ready _ p s := p.length = 8 ∧ fld p 6 2 = 0 ∧ fld p 0 4 ≠ 0 ∧ 64 ≤ fld p 4 2 ∧ fld p 4 2 ≤ 512
    ∧ ∀ c ∈ members 32 (fld p 0 4), (rd s.afe.channels c).fits (fld p 4 2) = true ∧ notReady s.afe c = 0
        ∧ channelBusy s c = false ∧ commandHolds s c = false ∧ (driverOf s.afe c).any (driverBusy s) = false
        ∧ clockDown s (4 + c / 16) = false
  effect h p s := started h.tag (wantBanks (members 32 (fld p 0 4)) { s with afe := { s.afe with calRuns := s.afe.calRuns
    ++ [{ tag := h.tag, mask := .ofNat 32 (fld p 0 4), left := .ofNat 32 (fld p 0 4), length := fld p 4 2 }] } })

/-- AFE_BANK_ENABLE where no bank that it disables has a channel in use: the banks are so enabled, and a disabled bank's
domain is asked to go off. -/
noncomputable abbrev afeBankEnable : CommandRow where
  command := .afeBankEnable
  opcode := 0x2B
  rights _ _ _ := .site
  ready _ p s := p.length = 1 ∧ fld p 0 1 < 4
    ∧ ∀ b < 2, s.afe.banks.getLsbD b = true → (BitVec.ofNat 2 (fld p 0 1)).getLsbD b = false → ∀ c ∈ busyChannels s, c / 16 ≠ b
  effect h p s :=
    let s := { s with afe := { s.afe with banks := .ofNat 2 (fld p 0 1) } }
    let s := if (BitVec.ofNat 2 (fld p 0 1)).getLsbD 0 then s else if s.isOn 4 then wantDomain 4 false s else s
    let s := if (BitVec.ofNat 2 (fld p 0 1)).getLsbD 1 then s else if s.isOn 5 then wantDomain 5 false s else s
    doneWith h (le 1 (fld p 0 1)) s

/-! ### Streams (chapters 06 and 07) -/

/-- STREAM_CONFIG of values in range, of a stream at rest or without a change, for which the frame buffer has room: the stream
has the entry, and the reply tells the bytes left. -/
abbrev streamConfigSet : CommandRow where
  command := .streamConfigSet
  opcode := 0x30
  rights _ _ _ := .site
  ready _ p s :=
    let n := fld p 0 1
    let old := s.strm n
    p.length = 32 ∧ fld p 2 2 = 0 ∧ fld p 13 3 = 0 ∧ fld p 24 8 = 0 ∧ bits (fld p 4 4) 24 2 = 0 ∧ bits (fld p 4 4) 10 6 = 0
    ∧ n < 96 ∧ streamInRange s n (streamFrom p old) = true ∧ (old.sameEntry (streamFrom p old) = true ∨ old.locked = false)
    ∧ (streamFrom p old).bytes ≤ bufFree s + old.bytes
  effect h p s :=
    let n := fld p 0 1
    let t := if (s.strm n).sameEntry (streamFrom p (s.strm n)) then s else onStream n (fun _ => streamFrom p (s.strm n)) s
    doneWith h (le 4 (bufFree t)) t

/-- STREAM_CONFIG with ENABLE 0 removes a stream at rest. -/
abbrev streamConfigRemove : CommandRow where
  command := .streamConfigRemove
  opcode := 0x30
  rights _ _ _ := .site
  ready _ p s := p.length = 32 ∧ fld p 2 2 = 0 ∧ fld p 13 3 = 0 ∧ fld p 24 8 = 0 ∧ bits (fld p 4 4) 24 2 = 0 ∧ bits (fld p 4 4) 10 6 = 0
    ∧ fld p 0 1 < 96 ∧ (s.strm (fld p 0 1)).locked = false
  effect h p s :=
    let t := onStream (fld p 0 1) (fun x => { x with phase := .unconfigured, ctrl := 0, frameLen := 0, bufFrames := 0, period := 0, frameLimit := 0 }) s
    doneWith h (le 4 (bufFree t)) t

/-- STREAM_GET: a stream's entry and state. -/
abbrev streamGet : CommandRow where
  command := .streamGet
  opcode := 0x31
  ready _ p _ := p.length = 1 ∧ fld p 0 1 < 96
  effect h p s :=
    let x := s.strm (fld p 0 1)
    doneWith h (x.entry (fld p 0 1) ++ [x.phase.code, x.staleRun, 0, 0] ++ le 4 x.seq.toNat ++ le 4 x.bytes
      ++ [BitVec.ofNat 8 x.held.length, 0, 0, 0]) s

/-- STREAM_START of streams that are ready, at rest and with no commanded measurement on their channels: they wait to start together, once their domains are on (R152). -/
abbrev streamStart : CommandRow where
  command := .streamStart
  opcode := 0x32
  rights _ _ _ := .site
  ready _ p s := p.length = 12 ∧ ∀ n ∈ streamMask p 0, (s.strm n).engaged = false ∧ streamReady s n = true
    ∧ (isAnalog n = true → commandHolds s n = false) ∧ ∀ d ∈ streamDomains n, clockDown s d = false
  effect h p s :=
    let t := (streamMask p 0).foldl (fun s n => wantAll (streamDomains n) (onStream n (fun x => { x with starting := true }) s)) s
    { t with stm := { t.stm with starts := t.stm.starts ++ [{ tag := h.tag, streams := streamMask p 0 }] } }

/-- STREAM_STOP at once: every running stream named is stopped. -/
abbrev streamStopNow : CommandRow where
  command := .streamStopNow
  opcode := 0x33
  rights _ _ _ := .site
  ready _ p _ := p.length = 16 ∧ fld p 13 3 = 0
  effect h p s := doneWith h [] (((streamMask p 0).filter fun n => (s.strm n).isRunning).foldl (fun s n => stopStream n s) s)

/-- STREAM_STOP after the frame: a stream with an open frame stops at its end, another at once, and the command ends with the
last of them. -/
abbrev streamStopAfterFrame : CommandRow where
  command := .streamStopAfterFrame
  opcode := 0x33
  rights _ _ _ := .site
  ready _ p _ := p.length = 16 ∧ fld p 13 3 = 0
  effect h p s :=
    let ns := (streamMask p 0).filter fun n => (s.strm n).isRunning
    let t := commitMark h.tag (started h.tag s)
    finishStops (ns.foldl (fun s n => if (s.strm n).frame.isSome then onStream n (fun x => { x with stopAfter := true }) s else stopStream n s)
      { t with stm := { t.stm with stops := t.stm.stops ++ [{ tag := h.tag, streams := ns }] } })

/-- SPORT_CONFIG of a legal configuration for a port whose streams are at rest, or without a change. -/
abbrev sportConfig : CommandRow where
  command := .sportConfig
  opcode := 0x34
  rights _ _ _ := .site
  ready _ p s :=
    let old := rd s.stm.ports (fld p 0 1)
    let new := portFrom p old
    12 ≤ p.length ∧ p.length = 12 + (if fld p 1 1 = 2 then 16 * bits (fld p 4 4) 20 4 else 0) ∧ sportReserved p = true ∧ fld p 0 1 < 4
    ∧ (fld p 1 1 = 0 ∧ fld p 4 8 = 0 ∨ fld p 1 1 = 1 ∧ tdmOk p = true ∨ fld p 1 1 = 2 ∧ spiOk p = true)
    ∧ (old.mode = new.mode ∧ old.cfg = new.cfg ∧ old.fsRate = new.fsRate ∧ old.sensors = new.sensors ∨ portRunning s (fld p 0 1) = [])
  effect h p s :=
    let old := rd s.stm.ports (fld p 0 1)
    let new := portFrom p old
    doneWith h [] (if old.mode == new.mode && old.cfg == new.cfg && old.fsRate == new.fsRate && old.sensors == new.sensors then s
      else { s with stm := { s.stm with ports := wr s.stm.ports (fld p 0 1) new } })

/-- SPORT_GET of a port, or with PORT 4 of the tachometers and the encoder. -/
abbrev sportGet : CommandRow where
  command := .sportGet
  opcode := 0x35
  ready _ p _ := p.length = 1 ∧ fld p 0 1 ≤ 4
  effect h p s := doneWith h (if fld p 0 1 < 4 then (rd s.stm.ports (fld p 0 1)).bytes (fld p 0 1)
    else s.stm.tachs.toList.flatMap Tach.bytes ++ [s.stm.encoder.phase.code, 0, 0, 0] ++ le 4 s.stm.encoder.errors.toNat
      ++ le 4 s.stm.encoder.zPulses.toNat) s

/-- TACH_CONFIG of a tachometer not in use, or without a change; one that is enabled has PD6 and PD7 asked for. -/
abbrev tachConfig : CommandRow where
  command := .tachConfig
  opcode := 0x36
  rights _ _ _ := .site
  ready _ p s := p.length = 8 ∧ fld p 1 3 = 0 ∧ bits (fld p 4 4) 16 5 = 0 ∧ bits (fld p 4 4) 3 3 = 0 ∧ fld p 0 1 < 4
    ∧ bits (fld p 4 4) 21 11 ≤ 1024 ∧ (bit (fld p 4 4) 7 = true → bits (fld p 4 4) 21 11 ≠ 0 ∧ bits (fld p 4 4) 8 8 ≠ 0)
    ∧ ((rd s.stm.tachs (fld p 0 1)).word.toNat = fld p 4 4 ∨ tachUsed s (fld p 0 1) = false)
  effect h p s :=
    let w := fld p 4 4
    let new : Tach := { word := .ofNat 32 w, phase := if bit w 7 then .idle else .disabled }
    let t := if (rd s.stm.tachs (fld p 0 1)).word.toNat = w then s else { s with stm := { s.stm with tachs := wr s.stm.tachs (fld p 0 1) new } }
    doneWith h (le 4 w) (if bit w 7 then wantAll [7, 6] t else t)

/-- ENC_CONFIG of an encoder not in use, or without a change; a configured belt without a position is then unsynchronised. -/
abbrev encConfig : CommandRow where
  command := .encConfig
  opcode := 0x37
  rights _ _ _ := .site
  ready _ p s := p.length = 4 ∧ bits (fld p 0 4) 16 16 = 0 ∧ bits (fld p 0 4) 5 2 ≠ 3 ∧ (bit (fld p 0 4) 7 = true → bits (fld p 0 4) 8 8 ≠ 0)
    ∧ (s.stm.encoder.word.toNat = fld p 0 4 ∨ encoderUsed s = false)
  effect h p s :=
    let w := fld p 0 4
    let new : Encoder := { word := .ofNat 32 w, phase := if bit w 7 then .idle else .disabled }
    let t := if s.stm.encoder.word.toNat = w then s else { s with stm := { s.stm with encoder := new } }
    let t := if bit w 7 && t.feat.belt.configured && t.feat.belt.state == .unconfigured then onBelt (fun b => { b with state := .unsynced }) t else t
    doneWith h (le 4 w) (if bit w 7 then wantAll [7, 6] t else t)

/-- What STREAM_COUNTERS answers. -/
def counterReply (p : Bytes) (s : State) : Bytes :=
  le 4 s.stm.bubbles.toNat ++ le 4 s.stm.bubbleMaxUs.toNat ++ le 4 (bufFree s) ++ le 4 1572864
    ++ ((List.range (fld p 1 1)).map (fld p 0 1 + ·)).flatMap fun n => (s.strm n).counterBytes n

/-- The range of streams of STREAM_COUNTERS. -/
abbrev countersPayload (p : Bytes) : Prop :=
  p.length = 4 ∧ fld p 2 1 < 2 ∧ fld p 3 1 = 0 ∧ 1 ≤ fld p 1 1 ∧ fld p 0 1 + fld p 1 1 ≤ 96

/-- STREAM_COUNTERS: the fabric's counters and those of a range of streams. -/
abbrev streamCounters : CommandRow where
  command := .streamCounters
  opcode := 0x38
  ready _ p _ := countersPayload p
  effect h p s := doneWith h (counterReply p s) s

/-- STREAM_COUNTERS with CLEAR: the same reply, and what it told is zero; the longest bubble since reset stands (R161). -/
abbrev streamCountersClear : CommandRow where
  command := .streamCountersClear
  opcode := 0x38
  rights _ _ _ := .site
  ready _ p _ := countersPayload p
  effect h p s :=
    let t := doneWith h (counterReply p s) s
    ((List.range (fld p 1 1)).map (fld p 0 1 + ·)).foldl (fun s n => onStream n (fun x => { x with counters := {} }) s)
      { t with stm := { t.stm with bubbles := 0 } }

/-- STREAM_SNAPSHOT of a running stream, with no other snapshot under way: STARTED, and the next frame is kept. -/
abbrev streamSnapshot : CommandRow where
  command := .streamSnapshot
  opcode := 0x39
  rights _ _ _ := .site
  ready _ p s := p.length = 12 ∧ fld p 1 3 = 0 ∧ fld p 0 1 < 96 ∧ fld p 4 4 < 16384 ∧ fld p 8 4 ≤ 16384
    ∧ (s.strm (fld p 0 1)).isRunning = true ∧ s.stm.snapshot = none
  effect h p s := started h.tag { s with stm := { s.stm with
    snapshot := some { tag := h.tag, stream := fld p 0 1, first := fld p 4 4, count := fld p 8 4 } } }

/-! ### Features and the belt (chapters 07 and 08) -/

/-- A stream's feature part may take a configuration: it is the one in force, or the stream's features are not in use. -/
abbrev mayConfigure (n : Nat) (same : Prop) (s : State) : Prop := n < 96 ∧ (same ∨ featureBusy s n = false)

/-- FEAT_CONFIG of a configuration that is legal. -/
abbrev featConfigSet : CommandRow where
  command := .featConfigSet
  opcode := 0x40
  rights _ _ _ := .site
  ready _ p s := 20 ≤ p.length ∧ p.length = 20 + 8 * fld p 2 1 ∧ fld p 3 1 = 0 ∧ fld p 18 2 = 0 ∧ bits (fld p 4 4) 28 4 = 0
    ∧ bits (fld p 4 4) 0 17 = 0 ∧ featOk s p = true ∧ mayConfigure (fld p 0 1) ((s.ftr (fld p 0 1)).config = p) s
  effect h p s := doneWith h [] (onFeature (fld p 0 1) (fun f => { f with config := p }) s)

/-- FEAT_CONFIG with ENABLE 0 removes the configuration. -/
abbrev featConfigRemove : CommandRow where
  command := .featConfigRemove
  opcode := 0x40
  rights _ _ _ := .site
  ready _ p s := 2 ≤ p.length ∧ fld p 3 1 = 0 ∧ fld p 18 2 = 0 ∧ bits (fld p 4 4) 28 4 = 0 ∧ bits (fld p 4 4) 0 17 = 0
    ∧ mayConfigure (fld p 0 1) ((s.ftr (fld p 0 1)).config = []) s
  effect h p s := doneWith h [] (onFeature (fld p 0 1) (fun f => { f with config := [] }) s)

/-- FEAT_GET: the four configurations of a stream, zeros for one that it does not have. -/
abbrev featGet : CommandRow where
  command := .featGet
  opcode := 0x41
  ready _ p _ := p.length = 1 ∧ fld p 0 1 < 96
  effect h p s :=
    let f := s.ftr (fld p 0 1)
    doneWith h (partOr (fld p 0 1) 20 f.config ++ partOr (fld p 0 1) 16 f.order ++ partOr (fld p 0 1) 20 f.machineCfg ++ partOr (fld p 0 1) 4 f.bands) s

/-- FEAT_ORDER_CONFIG of a reference, a tachometer and factors in range. -/
abbrev featOrderConfig : CommandRow where
  command := .featOrderConfig
  opcode := 0x42
  rights _ _ _ := .site
  ready _ p s := p.length = 16 ∧ fld p 5 3 = 0 ∧ fld p 1 1 ≤ 2 ∧ fld p 3 1 ≤ 4 ∧ fld p 4 1 ≤ 5 ∧ (fld p 1 1 = 2 → fld p 2 1 ≤ 3)
    ∧ (fld p 1 1 = 1 → (fld p 2 1 ≤ 3 ∨ fld p 2 1 = 255) ∧ fld p 8 4 ≠ 0) ∧ mayConfigure (fld p 0 1) ((s.ftr (fld p 0 1)).order = p) s
  effect h p s := doneWith h [] (onFeature (fld p 0 1) (fun f => { f with order := p }) s)

/-- FEAT_BANDS_SET of at most 32 bands, each with its lower edge below its upper; none removes them. -/
abbrev featBandsSet : CommandRow where
  command := .featBandsSet
  opcode := 0x43
  rights _ _ _ := .site
  ready _ p s := 4 ≤ p.length ∧ p.length = 4 + 8 * fld p 1 1 ∧ fld p 3 1 = 0 ∧ fld p 1 1 ≤ 32 ∧ fld p 2 1 ≤ 1
    ∧ (∀ i < fld p 1 1, fld p (4 + 8 * i) 4 < fld p (8 + 8 * i) 4)
    ∧ mayConfigure (fld p 0 1) ((s.ftr (fld p 0 1)).bands = if fld p 1 1 = 0 then [] else p) s
  effect h p s := doneWith h [] (onFeature (fld p 0 1) (fun f => { f with bands := if fld p 1 1 = 0 then [] else p }) s)

/-- FEAT_STATE_CONFIG of inputs and thresholds in range, or with REMOVE. -/
abbrev featStateConfig : CommandRow where
  command := .featStateConfig
  opcode := 0x44
  rights _ _ _ := .site
  ready _ p s := p.length = 20 ∧ fld p 15 1 = 0 ∧ bits (fld p 2 1) 2 5 = 0
    ∧ (bit (fld p 2 1) 7 = true ∨ (fld p 1 1 ≤ 3 ∨ fld p 1 1 = 255) ∧ fld p 3 1 ≤ 95 ∧ fld p 8 4 < fld p 4 4 ∧ 1 ≤ fld p 12 2
        ∧ 1 ≤ fld p 14 1 ∧ fld p 14 1 ≤ 15 ∧ signed 16 (fld p 18 2) ≤ signed 16 (fld p 16 2))
    ∧ mayConfigure (fld p 0 1) ((s.ftr (fld p 0 1)).machineCfg = if bit (fld p 2 1) 7 then [] else p) s
  effect h p s := doneWith h [] (onFeature (fld p 0 1) (fun f => { f with machineCfg := if bit (fld p 2 1) 7 then [] else p }) s)

/-- FEAT_FRAME_READ: the latest feature frame of a stream. -/
abbrev featFrameRead : CommandRow where
  command := .featFrameRead
  opcode := 0x45
  rights _ _ _ := .anyOwner
  ready _ p s := p.length = 4 ∧ fld p 1 3 = 0 ∧ fld p 0 1 < 96 ∧ (s.ftr (fld p 0 1)).latest.isSome = true
  effect h p s := doneWith h (match (s.ftr (fld p 0 1)).latest with | some f => f.bytes | none => []) s

/-- BELT_POSITION_GET: position, state, speed and the encoder's error counts. -/
abbrev beltPositionGet : CommandRow where
  command := .beltPositionGet
  opcode := 0x46
  ready _ p _ := p = []
  effect h _ s :=
    let b := s.feat.belt
    let q := beltView s
    doneWith h (le 4 q.count.toNat ++ le 4 q.offset.toNat ++ le 2 q.index.toNat
      ++ [BitVec.ofNat 8 b.state.code, BitVec.ofNat 8 (b2n b.encLost)] ++ le 8 (now s).toNat ++ leInt 4 (beltSpeed s) ++ le 2 b.zMissed.toNat
      ++ le 2 b.zSpurious.toNat ++ le 2 b.syncLosses.toNat ++ [0, 0]) s

/-- BELT_CONFIG: a new belt, unsynchronised, or without a position while the encoder is disabled. -/
abbrev beltConfigSet : CommandRow where
  command := .beltConfigSet
  opcode := 0x47
  rights _ _ _ := .site
  ready _ p _ := 12 ≤ p.length ∧ p.length = 12 + 4 * fld p 1 1 ∧ fld p 9 3 = 0 ∧ 1 ≤ fld p 1 1 ∧ fld p 1 1 ≤ 64 ∧ 1 ≤ fld p 2 1 ∧ fld p 2 1 ≤ 64
    ∧ (fld p 3 1 = 255 ∨ fld p 3 1 ≤ 3 ∧ fld p 4 4 ≠ 0) ∧ 1 ≤ fld p 8 1 ∧ fld p 8 1 ≤ 100
  effect h p s := doneWith h [] (onBelt (fun _ =>
    { configured := true, splices := fld p 1 1, zTol := fld p 2 1, checkTach := .ofNat 8 (fld p 3 1), encPerTachRev := .ofNat 32 (fld p 4 4)
      slipMax := .ofNat 8 (fld p 8 1), gaps := (List.range (fld p 1 1)).map fun i => fld p (12 + 4 * i) 4
      state := if s.stm.encoder.phase == .disabled then .unconfigured else .unsynced, log := [(now s, 0)] }) s)

/-- BELT_CONFIG with ENABLE 0: no belt. -/
abbrev beltConfigDisable : CommandRow where
  command := .beltConfigDisable
  opcode := 0x47
  rights _ _ _ := .site
  ready _ p _ := p.length = 4 ∧ fld p 1 3 = 0
  effect h _ s := doneWith h [] (onBelt (fun _ => {}) s)

/-- SET_INDEX of a belt with a position: it stands at the splice named, synchronised. -/
abbrev setIndex : CommandRow where
  command := .setIndex
  opcode := 0x47
  rights _ _ _ := .site
  ready _ p s := p.length = 4 ∧ fld p 2 2 = 0 ∧ (s.feat.belt.configured = true → fld p 1 1 < s.feat.belt.splices) ∧ s.feat.belt.state ≠ .unconfigured
  effect h p s := doneWith h [] (onBelt (fun b => { b with spliceIndex := fld p 1 1, state := .synced }) s)

/-- CLEAR_COUNT: the encoder count is zero. -/
abbrev beltClearCount : CommandRow where
  command := .beltClearCount
  opcode := 0x47
  rights _ _ _ := .site
  ready _ p _ := p.length = 4 ∧ fld p 1 3 = 0
  effect h _ s := doneWith h [] (onBelt (fun b => { b with encCount := 0, log := [(now s, 0)] }) s)

end Sys2Proof.Rows
end

