-- ==== Sys2Proof/Certificates/Slice0/RowsTime.lean ====
section
/-! DEFINITION. When the clocks, the power domains, the sleeps and wakes, the thermal governor, the resets and the boot
sequence do what the spec gives them, and with what effect: one row each (chapters 03 and 04). -/

namespace Sys2Proof.Rows

open Machine

/-! ### Clocks -/

/-- An interval of 32 768 LPRC periods with 31 458 to 34 078 edges qualifies XO32: the tick counter moves to it, with a
CLOCK_FAULT of kind 2 but for the first move of a power-up (R452). -/
noncomputable abbrev xo32QualifyInterval (edges : Nat) : EventRow where
  command := .xo32QualifyInterval edges
  ready s := s.isOn 0 = true ∧ s.clk.xo32Ok = false ∧ s.clk.xo32Running = true ∧ 31458 ≤ edges ∧ edges ≤ 34078
  effect s :=
    let moved := onClk (fun c => { c with xo32Ok := true, onLprc := false, xo32Retrying := false, xo32First := false }) s
    if s.clk.xo32First then moved else clockFault 0x02 0 moved

/-- XO32 is lost: the tick counter falls back to LPRC, counted, and XO32 is tried again (R69). -/
def onLprc (s : State) : State :=
  onClk (fun c => { c with
    xo32Ok := false, xo32Running := false, xo32Retrying := true, onLprc := true, xo32First := false
    lprcFallbacks := satInc c.lprcFallbacks }) s

/-- No edge for 8 LPRC periods while the counter runs on XO32: the fallback, with its event and its Cairn entry. -/
noncomputable abbrev xo32EdgeLoss : EventRow where
  command := .xo32EdgeLoss
  ready s := s.isOn 0 = true ∧ s.clk.onLprc = false
  effect s := cairn 0x1001 0 [0x01, 0] (clockFault 0x01 0 (onLprc s))

/-- XO32 that never starts is the same fallback (R69). -/
noncomputable abbrev xo32Absent : EventRow where
  command := .xo32Absent
  ready s := s.isOn 0 = true ∧ s.clk.xo32First = true ∧ s.clk.xo32Ok = false
  effect s := cairn 0x1001 0 [0x01, 0] (clockFault 0x01 0 (onLprc s))

/-- XO32 is enabled again while the device retries it. -/
noncomputable abbrev xo32Retry : EventRow where
  command := .xo32Retry
  ready s := s.isOn 0 = true ∧ s.clk.xo32Retrying = true
  effect s := onClk (fun c => { c with xo32Running := true }) s

/-- The work that waited for a clock goes on: the domains that the power state and the work require are powered, and an awake device
resumes its heads and streams (R70, R89). -/
noncomputable def backToWork (s : State) : State :=
  if s.boot.phase = .ready ∧ asleep s = false then
    let awake := wantActive s
    lookBelay (if awake.pwr.waking = none ∧ awake.pwr.entry = none then resumeWork awake else awake)
  else s

/-- XO24 qualifies: it is on, its start time is kept, and the device goes back to work (R70, R458). -/
noncomputable abbrev xo24Qualified (us : Nat) : EventRow where
  command := .xo24Qualified us
  ready s := s.clk.xo24Try ≠ 0 ∧ s.clk.xo24On = false
  effect s := backToWork (onClk (fun c => { c with
    xo24On := true, xo24Try := 0, xo24Fail := false, counting := false, cycles := 0, xo24StartLast := satAdd 0 us
    xo24StartMax := if c.xo24StartMax.toNat < us then satAdd 0 us else c.xo24StartMax }) s)

/-- The first try of XO24 runs out: the second begins. -/
noncomputable abbrev xo24SecondTry : EventRow where
  command := .xo24QualifyTimeout
  ready s := s.clk.xo24On = false ∧ s.clk.xo24Try = 1
  effect s := onClk (fun c => { c with xo24Try := 2 }) s

/-- The second runs out: XO24_FAIL is set, and the first failure is a CLOCK_FAULT of kind 3 in the Cairn, for which the domains
without a clock go off (R70); that a later one says nothing is the model's choice (log entry 161). -/
noncomputable abbrev xo24Fails : EventRow where
  command := .xo24QualifyTimeout
  ready s := s.clk.xo24On = false ∧ s.clk.xo24Try ≠ 0 ∧ s.clk.xo24Try ≠ 1
  effect s :=
    let off := onClk (fun c => { c with xo24Try := 0, xo24Fail := true }) s
    if s.clk.xo24Fail then off else lookBelay (clockLost (cairn 0x1001 0 [0x03, 0] (clockFault 0x03 0 off)))

/-- A failed XO24 is tried again. -/
noncomputable abbrev xo24Retry : EventRow where
  command := .xo24Retry
  ready s := s.clk.xo24Fail = true ∧ s.clk.xo24Try = 0 ∧ asleep s = false
  effect s := onClk (fun c => { c with xo24Try := 1 }) s

/-- A qualified XO24 stops: the PLLs lose lock, computing ends, the links are lost, and the tries begin (R458). -/
noncomputable abbrev xo24Stopped : EventRow where
  command := .xo24Stopped
  ready s := s.clk.xo24On = true
  effect s :=
    let lost := haltCompute (cairn 0x1001 0 [0x06, 0] (clockFault 0x06 0 (onClk (fun c => { c with
      xo24On := false, counting := false, cycles := 0, lock := Vector.replicate 3 false, xo24Try := 1, frcOn := true }) s)))
    if lost.isOn 11 then portLost 1 (portLost 0 lost) else lost

/-- A PLL locks while XO24 runs; one that had failed takes the device back to work. -/
noncomputable abbrev pllLocked (pll : BitVec 2) : EventRow where
  command := .pllLocked pll
  ready s := s.clk.xo24On = true ∧ pll ≠ 3
  effect s :=
    let locked := onClk (fun c => { c with lock := wr c.lock pll.toNat true, pllFailed := wr c.pllFailed pll.toNat false }) s
    if rd s.clk.pllFailed pll.toNat then backToWork locked else locked

/-- A locked PLL loses lock: a CLOCK_FAULT of kind 4, the work of its blocks ends, and the third loss in 10 s fails it with
kind 5 in the Cairn, and the domains without a clock go off (R72). -/
noncomputable abbrev pllLockLoss (pll : BitVec 2) : EventRow where
  command := .pllLockLoss pll
  ready s := rd s.clk.lock pll.toNat = true
  effect s :=
    let name := BitVec.ofNat 8 (pll.toNat + 1)
    let recent := (rd s.clk.losses pll.toNat).filter fun t => decide (since s t < 10 * 32768)
    let lost := clockFault 0x04 name (onClk (fun c => { c with
      lock := wr c.lock pll.toNat false, losses := wr c.losses pll.toNat (recent ++ [s.clk.tick]) }) s)
    let stopped :=
      if pll = 0 then haltCompute (onClk (fun c => { c with frcOn := true }) lost)
      else if pll = 2 ∧ lost.isOn 11 = true then portLost 1 (portLost 0 lost)
      else lost
    if recent.length < 2 then stopped
    else lookBelay (clockLost (cairn 0x1001 0 [0x05, name] (clockFault 0x05 name
      (onClk (fun c => { c with pllFailed := wr c.pllFailed pll.toNat true }) stopped))))

/-! ### Power domains and rails -/

/-- The switch of the first request in turn ends, where the bubble it is may be: the domain is on or off, its bubble is counted, and
what it holds is found or lost (R74, R161); a request that is already met is only taken off the list. -/
noncomputable abbrev domainSwitchDone (us va30 : Nat) (milli : Int) : EventRow where
  command := .domainSwitchDone us va30 milli
  ready s := ∃ r, nextRequest s = some r ∧ ((r.1 = 3 ∨ 8 ≤ r.1) → s.isOn r.1 ≠ r.2 → mayBubble s = true)
  effect s :=
    let r := (nextRequest s).getD (0, false)
    let met := onPwr (fun p => { p with requests := p.requests.erase r }) s
    if s.isOn r.1 = r.2 then met
    else
      let switched := setDomain r.1 r.2 met
      let counted := if r.1 = 3 ∨ 8 ≤ r.1 then countBubble us switched else switched
      if r.2 then domainGained r.1 va30 (roundDiv (4 * milli) 1000) counted else domainLost r.1 counted

/-- A powered domain that nothing needs is asked off. -/
noncomputable abbrev domainIdleRelease (domain : BitVec 5) : EventRow where
  command := .domainIdleRelease domain
  ready s := s.isOn domain.toNat = true ∧ domain.toNat < 24 ∧ mayRelease s domain.toNat = true ∧ s.boot.stage = .none
  effect s := wantDomain domain.toNat false s

/-- VA30 leaves regulation with an analog bank powered: SUPPLY_FAULT. -/
noncomputable abbrev va30OutOfRegulation : EventRow where
  command := .va30OutOfRegulation true
  ready s := (s.isOn 4 = true ∨ s.isOn 5 = true) ∧ s.pwr.va30Ok = true
  effect s := raise 0x15 true [1, 0, 0, 0] (onPwr (fun p => { p with va30Ok := false }) s)

/-- VA30 is in regulation again. -/
noncomputable abbrev va30InRegulation : EventRow where
  command := .va30OutOfRegulation false
  ready _ := True
  effect s := onPwr (fun p => { p with va30Ok := true }) s

/-- An I/O rail enters or leaves its range. -/
noncomputable abbrev ioRailRangeChange (sensor inRange : Bool) : EventRow where
  command := .ioRailRangeChange sensor inRange
  ready _ := True
  effect s := onPwr (fun p => { p with
    vioSOk := if sensor then inRange else p.vioSOk, vioHOk := if sensor then p.vioHOk else inRange }) s

/-- The VCORE buck of a wake is in regulation: XO24 is enabled. -/
noncomputable abbrev vcoreBuckInRegulation : EventRow where
  command := .vcoreBuckInRegulation
  ready s := s.pwr.waking.isSome = true ∧ s.pwr.vcoreBuck = false
  effect s := onClk (fun c => { c with xo24Try := 1 }) (onPwr (fun p => { p with vcoreBuck := true }) s)

/-! ### Sleep and wake -/

/-- A requested sleep entry begins. -/
noncomputable abbrev sleepEntryStart : EventRow where
  command := .sleepEntryStart
  ready s := s.pwr.entry.any (fun e => !e.begun) = true
  effect s := beginSleep (s.pwr.entry.getD default) s

/-- An idle device that is awake enters the sleep state of its policy by itself. -/
noncomputable abbrev autoSleepDwellExpiry : EventRow where
  command := .autoSleepDwellExpiry
  ready s := (s.pwr.state = .active ∨ s.pwr.state = .summit) ∧ s.pwr.waking = none ∧ s.boot.phase = .ready
    ∧ s.pwr.entry = none ∧ deviceIdle s = true ∧ (s.pwr.policy.autoState = 1 ∨ s.pwr.policy.autoState = 2)
  effect s := beginSleep
    { target := if s.pwr.policy.autoState = 1 then .watch else .bivouac, discard := false, automatic := true, tag := none } s

/-- Nothing of the work is left: the heads that must be saved are, and once no NVM work is left either, the device sleeps. -/
noncomputable abbrev sleepEntryComplete (us : Nat) : EventRow where
  command := .sleepEntryComplete us
  ready s := (∃ e, s.pwr.entry = some e ∧ e.begun = true
      ∧ (e.automatic = true → s.link.slots = [] ∧ repliesPending s = 0 ∧ s.link.relayed = []))
    ∧ s.mdl.features = [] ∧ s.mdl.frames = [] ∧ s.mdl.jobs = []
  effect s :=
    let saved := (saveAtSleep s).1
    let pending := (saveAtSleep s).2 || !saved.nvm.posted.isEmpty || !saved.nvm.waiting.isEmpty || !saved.cairn.queue.isEmpty
      || saved.nvm.busy == .posted || saved.nvm.busy == .cairn
    if pending then saved
    else goToSleep (s.pwr.entry.getD default) us { saved with nvm := { saved.nvm with busy := .idle } }

/-- WAKE_N low, with its rail in range, wakes a sleeping device, abandons a sleep entry, and does nothing to a device awake (R77,
R86). -/
noncomputable abbrev wakeNLow : EventRow where
  command := .wakeNLow
  ready s := s.isOn 0 = true ∧ s.pwr.vioHOk = true
  effect s := if asleep s then startWake .wakeN 0xFF s else if s.pwr.entry.isSome then abandonSleep 0x02 s else s

/-- The tick counter equals the alarm's value: TICK_ALARM, the next value of a periodic alarm, and a wake (R97). -/
noncomputable abbrev tickAlarmFire : EventRow where
  command := .tickAlarmFire
  ready s := s.isOn 0 = true ∧ s.pwr.alarm.enabled = true ∧ s.pwr.alarm.value = s.clk.tick
  effect s :=
    let a := s.pwr.alarm
    let next := onPwr (fun p => { p with
      alarm := if a.period = 0 then {} else { a with value := a.value + a.period.setWidth 48 } }) s
    let body := le 8 a.value.toNat
    let told :=
      if s.pwr.retention then
        onPwr (fun p => { p with heldEvents := p.heldEvents ++ [{ code := 0x14, high := false, time := now s, body := body }] }) next
      else raise 0x14 false body next
    wakeSource .tickAlarm 0xFF told

/-- A block of a watched channel in WATCH: the run of blocks that reach its threshold grows or ends, and with the run that reaches
its count a wake is due at the next tick edge (R87, Table 3-13). -/
noncomputable abbrev watchThresholdFire (channel : BitVec 5) (samples : List Int) : EventRow where
  command := .watchThresholdFire channel samples
  ready s := s.pwr.watching.entries.any (·.channel == channel) = true ∧ s.pwr.state = .watch
    ∧ s.pwr.wakeDue = none ∧ samples.length = s.pwr.watching.block ∧ works s 7 = true ∧ bankLive s (channel.toNat / 16) = true
  effect s :=
    let i := s.pwr.watching.entries.findIdx (·.channel == channel)
    let e := s.pwr.watching.entries.getD i default
    let run := if rmsReaches samples e.thresh.toNat then s.pwr.watchRuns.getD i 0 + 1 else 0
    let counted := onPwr (fun p => { p with watchRuns := p.watchRuns.set i run }) s
    if run < e.count then counted else onPwr (fun p => { p with wakeDue := some channel }) counted

/-- Rope activity wakes a Ridge chip whose wake configuration says so (R88). -/
noncomputable abbrev ropeSquelchWake : EventRow where
  command := .ropeSquelchWake
  ready s := isRidge s = true ∧ (if asleep s then s.pwr.watching.ropeWake else s.pwr.wake.ropeWake) = true
  effect s := wakeSource .rope 0xFF s

/-- A wake whose domains are all on ends: heads and streams resume, WOKE is raised at the wake's time with the events held
(R89), and idle sessions end. -/
noncomputable abbrev wakeComplete : EventRow where
  command := .wakeComplete
  ready s := s.pwr.waking.isSome = true
    ∧ (s.pwr.requests.any fun r => r.2 && [2, 3, 7, 8, 9, 10, 12].contains r.1 && !clockDown s r.1) = false
  effect s :=
    let w := s.pwr.waking.getD default
    let resumed := if pllDown s then s else resumeWork s
    let asleepFor := ((BitVec.ofNat 48 (w.time.toNat / 65536)) - resumed.pwr.sleptAt).toNat / 32768
    let woken := onPwr (fun p => { p with waking := none, lastWake := some w.source, wakes := satInc p.wakes }) resumed
    let told := raiseAt w.time 0x10 true none ([w.from'.code, w.source.code, w.channel, 0] ++ le 4 (min 0xFFFFFFFF asleepFor)) woken
    let lost := if told.pwr.bivouacLoss then eventsLost (onPwr (fun p => { p with bivouacLoss := false }) told) else told
    lookBelay (raiseHeld (endIdleSessions lost))

/-! ### The thermal governor -/

/-- The readings of a sample in quarter degrees, with the number of the sensor: the cores that are on, the engine area (8), the
Anchor (9). -/
def readings (cores : Vector Int 8) (engine anchor : Int) (s : State) : List (Nat × Int) :=
  ((List.range 8).filter fun n => s.isOn (16 + n)).map (fun n => (n, roundDiv (4 * cores.toList.getD n 0) 1000))
    ++ [(8, roundDiv (4 * engine) 1000), (9, roundDiv (4 * anchor) 1000)]

/-- The first of the hottest readings. -/
def hottest (rs : List (Nat × Int)) : Nat × Int := rs.foldl (fun a b => if a.2 < b.2 then b else a) (rs.headD (9, 0))

/-- A sample moves the three thresholds by the hottest reading, reads the cores that are on, and the thermal state's change has its
effects; at the shutdown temperature of the Anchor a reset begins (R91 to R95). -/
noncomputable abbrev governorSample (cores : Vector Int 8) (engine anchor : Int) : EventRow where
  command := .governorSample cores engine anchor
  ready s := s.isOn 1 = true ∧ s.pwr.retention = false ∧ s.boot.stage = .none
  effect s :=
    let hot := hottest (readings cores engine anchor s)
    let c := s.thm.config
    let sampled := { s with thm := { s.thm with
      tj := .ofInt 16 hot.2, hottest := .ofNat 8 hot.1, sampled := true
      tjMax := if s.thm.sampled = false ∨ s.thm.tjMax.toInt < hot.2 then .ofInt 16 hot.2 else s.thm.tjMax
      warn := s.thm.warn.sample (4 * c.tWarn.toNat) hot.2, throttle := s.thm.throttle.sample (4 * c.tThrottle.toNat) hot.2
      trip := s.thm.trip.sample 480 hot.2 } }
    let read := ((List.range 8).filter fun n => s.isOn (16 + n)).foldl
      (fun s n => readCore s n (roundDiv (4 * cores.toList.getD n 0) 1000)) sampled
    let changed := shedCores (changeThermal (thermalState s) read)
    thermalShutdown (roundDiv (4 * anchor) 1000) (if changed.boot.phase = .ready then wantCores changed else changed)

/-- In a reset the Anchor's reading can only hold the device (R95, R109). -/
noncomputable abbrev governorInReset (cores : Vector Int 8) (engine anchor : Int) : EventRow where
  command := .governorSample cores engine anchor
  ready s := s.isOn 1 = true ∧ s.pwr.retention = false ∧ s.boot.stage ≠ .none
  effect s := thermalShutdown (roundDiv (4 * anchor) 1000) s

/-- Asleep, only the Anchor's own sensor is read, for the shutdown temperature. -/
noncomputable abbrev anchorTempSample (anchor : Int) : EventRow where
  command := .anchorTempSample anchor
  ready s := asleep s = true
  effect s := thermalShutdown (roundDiv (4 * anchor) 1000) s

/-! ### Resets -/

/-- The reply of a scheduled reset has waited 10 ms: the reset begins. -/
noncomputable abbrev resetReplyTimeout : EventRow where
  command := .resetReplyTimeout
  ready s := s.boot.scheduled.isSome = true
  effect s := beginReset (s.boot.scheduled.getD (0, 0)).1 s

/-- RESET_N low begins a reset with cause RESET_N and holds the device (R109). -/
noncomputable abbrev resetPinAssert : EventRow where
  command := .resetPinAssert
  ready s := s.isOn 0 = true
  effect s := onBoot (fun b => { b with pinHold := true }) (beginReset 0x02 { s with pins := { s.pins with resetN := false } })

/-- RESET_N high holds it no longer. -/
noncomputable abbrev resetPinRelease : EventRow where
  command := .resetPinRelease
  ready _ := True
  effect s := onBoot (fun b => { b with pinHold := false }) { s with pins := { s.pins with resetN := true } }

/-- VIN is above the brownout release threshold. -/
noncomputable abbrev brownoutRelease : EventRow where
  command := .brownoutRelease
  ready _ := True
  effect s := onBoot (fun b => { b with brownoutHold := false }) s

/-- The Anchor has cooled below the release temperature. -/
noncomputable abbrev thermalResetRelease : EventRow where
  command := .thermalResetRelease
  ready _ := True
  effect s := onBoot (fun b => { b with thermalHold := false }) s

/-- A quiesced device whose NVM work is done is reset; a warm reset keeps what R110 names. -/
noncomputable abbrev resetTakeEffect : EventRow where
  command := .resetTakeEffect
  ready s := s.boot.stage = .quiesced ∧ s.nvm.busy = .idle ∧ s.nvm.posted = [] ∧ s.nvm.waiting = [] ∧ s.cairn.queue = []
  effect s := takeEffect (s.boot.cause == 0x03) s

/-- Power comes up: every volatile field is reset, the thermal and clock state and the Cairn marks too, and Belay has the phase,
cause and asset of the record of the last power loss. -/
noncomputable abbrev powerOnReset (slow : Bool) : EventRow where
  command := .powerOnReset slow
  ready s := s.pwr.state = .off
  effect s :=
    let up := takeEffect false s
    let r := (lostRecord up).getD (.disarmed, 0, 0xFF)
    { up with
      clk := {}, thm := {}, pwr := { vioHOk := up.pwr.vioHOk, vioSOk := up.pwr.vioSOk, va30Ok := up.pwr.va30Ok }
      boot := { up.boot with
        cause := if slow then 0x07 else 0x01, hold := true, holdupOk := false, vholdMv := 0, pinHold := !up.pins.resetN
        brownoutHold := slow, thermalHold := false, trialFailed := none }
      cairn := { up.cairn with marks := [], queue := [] }
      own := { up.own with tap := {} }
      bly := { phase := r.1, cause := r.2.1, asset := r.2.2
               latches := Vector.replicate 4 { level := .notReady, code := 205 } } }

/-- The supply falls below V_BO_FALL: the brownout's own programs and reset. -/
noncomputable abbrev brownoutDetect (programs : List (Nat × Nat)) : EventRow where
  command := .brownoutDetect programs
  ready s := s.isOn 0 = true ∧ s.boot.brownoutHold = false
  effect s := brownOut programs s

/-- Power is gone: a brownout where none came before, and then every domain off and every output undriven. -/
noncomputable abbrev powerOff : EventRow where
  command := .powerOff
  ready s := s.pwr.state ≠ .off
  effect s :=
    let low := if s.boot.brownoutHold then s else brownOut [] s
    { low with
      pwr := { low.pwr with state := .off, on := 0, requests := [], vcoreBuck := false }
      cairn := { low.cairn with queue := [] }
      bly := { low.bly with latches := Vector.replicate 4 {}, alarm := false } }

/-- The watchdog expires: its Cairn entry names the boot phase, and a reset with cause WATCHDOG begins. -/
noncomputable abbrev watchdogExpiry : EventRow where
  command := .watchdogExpiry
  ready s := s.isOn 1 = true ∧ s.pwr.retention = false ∧ s.boot.stage = .none ∧ s.boot.phase ≠ .restarting
  effect s := beginReset 0x05 (cairn 0x0004 0 [s.boot.phase.code] s)

/-- An exception of the control core in INIT, READY or RESTARTING restarts the firmware; the fourth within 60 s resets the device
(R118); that it may come outside READY is the model's inference (log entry 157). -/
noncomputable abbrev controlCoreException (code : Word32) : EventRow where
  command := .controlCoreException code
  ready s := (s.boot.phase = .init ∨ s.boot.phase = .ready ∨ s.boot.phase = .restarting) ∧ s.boot.stage = .none ∧ s.isOn 1 = true
    ∧ s.pwr.retention = false
  effect s :=
    let recent := s.boot.exceptions.filter fun t => decide (since s t ≤ 60 * 32768)
    let noted := onBoot (fun b => { b with exceptions := recent ++ [s.clk.tick], exceptionCode := code })
      (cairn 0x0003 0 (le 4 code.toNat ++ le 4 s.boot.restarts.toNat) s)
    if 3 ≤ recent.length then beginReset 0x09 noted else enterPhase .restarting noted

/-- The firmware runs again: the restart is counted, commands in flight end with INTERNAL, FIRMWARE_RESTART and DEVICE_READY are
raised; one that stopped before its first READY does all that READY does (R39, R100, R118). -/
noncomputable abbrev firmwareRestartDone : EventRow where
  command := .firmwareRestartDone
  ready s := s.boot.phase = .restarting ∧ s.boot.stage = .none ∧ s.nvm.posted = [] ∧ s.nvm.waiting = []
  effect s :=
    let up := onBoot (fun b => { b with restarts := satInc b.restarts }) (enterPhase .ready s)
    let ended := s.link.slots.foldl endInternal up
    let told := raise 0x04 true (le 4 ended.boot.exceptionCode.toNat ++ le 4 ended.boot.restarts.toNat) ended
    if s.boot.counted then lookBelay (carryOn (readyEvent 0x00 told)) else firstReady told

/-! ### Booting -/

/-- The reset is released: the straps are sampled but for CMD_WARM, the guard starts for a record of ARMED, the Cairn is
replayed and the records of the NVM are read; then the pending erase, or AUTH. -/
noncomputable abbrev bootRomStart (straps : BitVec 4) (programs : Vector (Nat × Nat) 4) : EventRow where
  command := .bootRomStart straps programs
  ready s := s.isOn 0 = true ∧ s.boot.stage = .held ∧ heldInReset s = false
  effect s :=
    let strapped := if s.boot.cause = 0x03 then s else { s with pins := { s.pins with straps := straps } }
    let wakes := { strapped with pwr := { strapped.pwr with wake := { strapped.pwr.wake with ropeWake := isRidge strapped } } }
    let released := onBoot (fun b => { b with stage := .none, guard := wakes.bly.phase == .armed }) wakes
    let read := loadRecords (cairnReplay programs.toList (wantDomain 3 true (wantDomain 2 true released)))
    if read.boot.erasePending then startPendingErase (enterPhase .erasePending read)
    else enterPhase .auth { read with clk := { read.clk with xo24Try := 1 } }

/-- The pending erase has ended and its flag is clear: AUTH begins, and with it XO24 (R70, R104). -/
noncomputable abbrev erasePendingComplete : EventRow where
  command := .erasePendingComplete
  ready s := s.boot.phase = .erasePending ∧ s.boot.stage = .none ∧ s.own.erase = none ∧ s.boot.erasePending = false
  effect s := enterPhase .auth { s with clk := { s.clk with xo24Try := 1 } }

/-- Authentication ends: after the rollback due, the preferred slot runs if it passes, else the other, else the device is FAILED;
a rolled-back slot is not tried (R101, R102). -/
noncomputable abbrev authComplete : EventRow where
  command := .authComplete
  ready s := s.boot.phase = .auth ∧ s.boot.stage = .none
  effect s :=
    let back := rollBack s
    let k := match back.2 with | some k => 1 - k | none => back.1.boot.preferred.toNat
    let first := trySlot back.2 k back.1
    let second := trySlot back.2 (1 - k) first.1
    if first.2 then runSlot k first.1
    else if second.2 then runSlot (1 - k) second.1
    else enterPhase .failed (onBoot (fun x => { x with running := .ofNat 1 (1 - k) }) second.1)

/-- The firmware is ready: BOOT_COUNT is counted, the boot entry committed, DEVICE_READY raised, and what waited for READY follows
in its order. -/
noncomputable abbrev deviceReady : EventRow where
  command := .deviceReady
  ready s := s.boot.phase = .init ∧ s.boot.stage = .none
  effect s :=
    let counted := confirmTrial (countBoot (onBoot (fun b => { b with guard := false }) (enterPhase .ready s)))
    let recorded := cairn 0x0002 0 (bootPayload counted) counted
    let told := tellReplay (tellRollback (readyEvent recorded.boot.cause recorded))
    lookBelay (carryOn (resumeRemoval (wantRope (cleanNvm (resumeBelay (raiseHeld told))))))

/-- The boot guard expires before READY: the outputs take their fault states, ALARM is asserted, and the trip of cause 8 is
recorded (R113). -/
noncomputable abbrev bootGuardExpiry : EventRow where
  command := .bootGuardExpiry
  ready s := s.boot.guard = true
  effect s :=
    let safe := onBoot (fun b => { b with guard := false }) s
    let off := setOutputs .deviceFault 82 { safe with bly := { safe.bly with alarm := true, latched := setBit safe.bly.latched 5 true } }
    cairn 0x8004 0 [s.boot.phase.code, s.boot.cause] (tripRecord 8 0xFF true off)

/-! ### The hold-up supply -/

/-- The hold-up rail is measured: it is good from 4500 mV and bad below 4300 mV, and a change is told once the boot is counted. -/
noncomputable abbrev vholdThreshold (mv : BitVec 16) : EventRow where
  command := .vholdThreshold mv
  ready s := s.isOn 0 = true
  effect s :=
    let ok := if 4500 ≤ mv.toNat then true else if mv.toNat < 4300 then false else s.boot.holdupOk
    let measured := onBoot (fun b => { b with holdupOk := ok, vholdMv := mv, hold := b.hold && !ok }) s
    if ok ≠ s.boot.holdupOk ∧ s.boot.counted = true then raiseAwake 0xD1 ([BitVec.ofNat 8 (b2n ok), 0] ++ le 2 mv.toNat) measured
    else measured

/-- The hold for the hold-up supply ends 1000 ms after READY (R105). -/
noncomputable abbrev holdupHoldEnd : EventRow where
  command := .holdupHoldEnd
  ready s := s.boot.counted = true
  effect s := onBoot (fun b => { b with hold := false }) s

end Sys2Proof.Rows
end

