-- ==== Sys2Proof/Certificates/Slice0/RowsWork.lean ====
section
/-! DEFINITION. When jobs, heads, cells, the NVM and the Cairn go on with their work, and with what effect: one row each
(chapters 08 to 13, 16 and 17). -/

namespace Sys2Proof.Rows

open Machine

/-! ### The Resource Manager and the engines (chapters 08, 09, 11) -/

/-- The oldest feature frame leaves the feature queue: counted where no model takes its stream, a result without a job where it
has no valid element, else a frame of the inference queue; it is read from the activation lines it was written to (R212, R256). -/
noncomputable abbrev featureQueueRoute : EventRow where
  command := .featureQueueRoute
  ready s := s.mdl.features ≠ [] ∧ works s 1 = true ∧ queueLength s < 128
  effect s :=
    let q := s.mdl.features.headD default
    let rest := s.mdl.features.tail
    let r := readQueued q s
    let routed := match modelOf s (fld q.frame.header 0 1) with
      | none => onRm (fun b => { b with framesUnbound := satInc b.framesUnbound }) r.2
      | some m =>
        if fld r.1.header 46 2 = 0 then
          writeResult m r.1.header none { qflags := fld r.1.header 1 1, rflags := 0
                                          unwritten := if q.tag.readable s 7 then 0 else frameLines q.frame } r.2
        else enterFrame m r.1 q.bank none r.2
    queuePressure 0 rest.length 64 (onRm (fun b => { b with features := rest }) routed)

/-- The landed frames of a Pitch that there is a slot and job space for start the next job of the Rope's pipeline, before any other
(R258, R262, R362). -/
noncomputable abbrev jobStartPitch : EventRow where
  command := .jobStart
  ready s := s.boot.phase = .ready ∧ works s 1 = true ∧ s.mdl.jobs.countP (·.pitch) < pitchSlots s
    ∧ (spaceFor s ((pitchBatch s).headD default).model (pitchBatch s).length).isSome = true
  effect s :=
    let p := pitchBatch s
    let b := (spaceFor s (p.headD default).model p.length).getD default
    startJob (p.headD default).model (p.take b.2.2) b.1 b.2.1 true none s

/-- Credit of an owner as a job is chosen: a waiting owner gains its weight, to 1024 (R259). -/
def creditOf (s : State) (o : Nat) : Int :=
  let x := rd s.mdl.shares o
  if (oldestOf s o).isSome then min (x.credit + x.weight.toNat) 1024 else x.credit

/-- The credits of the owners after a selection in which the owners of `paid` pay 256. -/
def creditsAfter (s : State) (paid : Nat → Bool) : Vector Share 4 :=
  (List.range 4).foldl (fun v k => upd v k fun x => { x with credit := creditOf s k - (if paid k then 256 else 0) }) s.mdl.shares

/-- No pitch job starts and a slot is free: the Resource Manager selects (R261). -/
abbrev selects (s : State) : Prop :=
  s.boot.phase = .ready ∧ works s 1 = true ∧ startPitch s = none ∧ localJobs s < localSlots s

/-- A job starts for the owner with the most credit, which pays 256, on the oldest frame of that owner with what may be batched
with it (R258, R261). -/
noncomputable abbrev jobStart : EventRow where
  command := .jobStart
  ready s := selects s ∧ ((((pickOwner s (creditOf s)).bind (oldestOf s)).bind fun f => batchFor s f.1.model)).isSome = true
  effect s :=
    let o := (pickOwner s (creditOf s)).getD 0
    let m := ((oldestOf s o).getD default).1.model
    let b := (batchFor s m).getD default
    startJob m ((waitingFrames s m).take b.2.2) b.1 b.2.1 false none (onRm (fun b => { b with shares := creditsAfter s (· == o) }) s)

/-- A selection that picks no owner gives the waiting owners their credit all the same (R261). -/
noncomputable abbrev jobNotStarted : EventRow where
  command := .jobStart
  ready s := selects s ∧ pickOwner s (creditOf s) = none
  effect s := onRm (fun b => { b with shares := creditsAfter s fun _ => false }) s

/-- The first job in order that can use a free engine does. -/
noncomputable abbrev layerDispatch : EventRow where
  command := .layerDispatch
  ready s := (s.mdl.jobs.findSome? fun j => tryJob j s).isSome = true
  effect s := (s.mdl.jobs.findSome? fun j => tryJob j s).getD s

/-- A pass on a core that fails its parity check fences the core (R204). -/
noncomputable abbrev cimPassParity (core : BitVec 3) : EventRow where
  command := .cimPassDone core false
  ready s := (s.mdl.jobs.any fun j => j.running.contains (.core core.toNat)) = true ∧ works s (16 + core.toNat) = true
  effect s := carryOn (fenceCore core.toNat 6 none s)

/-- The core is done with its part of a job's layer. -/
def leaveCore (id n : Nat) (s : State) : State :=
  onJob id (fun j => { j with running := j.running.filter (· != .core n), done := j.done ++ [n] }) s

/-- A pass on a core ends: its blocks of the layer are computed, and with the layer's last core the layer is assembled and the
job goes on; a PROTO layer's copy is computed for its head (R204). -/
noncomputable abbrev cimPassDone (core : BitVec 3) : EventRow where
  command := .cimPassDone core true
  ready s := (s.mdl.jobs.any fun j => j.running.contains (.core core.toNat)) = true ∧ works s (16 + core.toNat) = true
  effect s :=
    let n := core.toNat
    let j := (s.mdl.jobs.find? fun j => j.running.contains (.core n)).getD default
    let l := j.layerIn s
    if l.isProto then
      match headAt s j.model j.layer with
      | some k => leaveCore j.id n (runCopy j k s)
      | none => leaveCore j.id n s
    else
      let fs := j.frames.filterMap s.frame?
      let blocks := ((onCoreOf j.arrays n).map fun a => a.2 / l.nIn).eraseDups
      let left := leaveCore j.id n (blocks.foldl (fun s b => runBlock j l b ((j.arrays.drop (b * l.nIn)).take l.nIn) fs s) s)
      match left.job? j.id with
      | none => left
      | some j =>
        if (coresOf j.arrays).all j.done.contains then advance j.id (fun f => assemble j l ((j.frames.idxOf f.id))) left else left

/-- A layer of the memory stream engine ends: its outputs, by the weights it was given, go to the job's frames (R211, R225). -/
noncomputable abbrev streamLayerDone : EventRow where
  command := .streamLayerDone
  ready s := (s.mdl.jobs.any fun j => j.running.contains .stream) = true ∧ works s 9 = true
  effect s :=
    let j := (s.mdl.jobs.find? fun j => j.running.contains .stream).getD default
    let l := j.layerIn s
    let w := streamWeights s j
    advance j.id (fun f => streamLayer w l (sourceOf f l.srcA)) s

/-- A layer of the vector unit ends. -/
noncomputable abbrev vectorLayerDone : EventRow where
  command := .vectorLayerDone
  ready s := (s.mdl.jobs.any fun j => j.running.contains .vector) = true ∧ works s 9 = true
  effect s :=
    let j := (s.mdl.jobs.find? fun j => j.running.contains .vector).getD default
    let l := j.layerIn s
    advance j.id (fun f => vectorLayer l (srcShape (s.model j.model).image l.srcA).2.2 (sourceOf f l.srcA)
      (if l.isConcat then sourceOf f l.srcB else [])) s

/-- The plasticity engine ends a PROTO layer: the outputs are the distances or the copy's, and the head keeps the inputs for
its learning step (R279). -/
noncomputable abbrev protoForwardDone : EventRow where
  command := .protoForwardDone
  ready s := ((s.mdl.jobs.find? fun j => j.running.contains .plasticity).any fun j => (headAt s j.model j.layer).isSome) = true
    ∧ works s 10 = true
  effect s :=
    let j := (s.mdl.jobs.find? fun j => j.running.contains .plasticity).getD default
    let l := j.layerIn s
    let h := s.head ((headAt s j.model j.layer).getD 0)
    let table := (j.frames.filterMap s.frame?).map fun f => (f.id,
      protoOut h.hrec (match f.lanes.find? (·.1 == l.index) with
        | some x => protoCopy h.hrec h.nPost x.2
        | none => protoDigital h.hrec h.syn h.nPost (protoInputs h.hrec (sourceOf f l.srcA))))
    let keep (f : Frame) : Frame :=
      { f with lanes := f.lanes.filter (·.1 != l.index) ++ [(l.index, (protoInputs h.hrec (sourceOf f l.srcA)).map fun x => (x : Int))] }
    advance j.id (fun f => ((table.find? (·.1 == f.id)).map (·.2)).getD []) (j.frames.foldl (fun s k => onQueued k keep s) s)

/-! ### Models (chapter 10) -/

/-- The check of a received image, read with no bank of it busy, ends: VERIFIED, or NVM_ERROR where a page of it cannot be read, or
IMAGE_INVALID with the fault, and the slot is EMPTY (R215, R238). -/
noncomputable abbrev modelVerifyDone (slot : BitVec 3) : EventRow where
  command := .modelVerifyDone slot
  ready s := (s.model slot.toNat).verifying.isSome = true ∧ s.boot.stage = .none ∧ s.isOn 3 = true
    ∧ readWaits s (imagePages (s.model slot.toNat)) = false
  effect s :=
    let m := slot.toNat
    let x := s.model m
    let tag := x.verifying.getD 0
    let ended := readPages (imagePages x) (onModel m (fun x => { x with verifying := none }) s)
    if readable ended (imagePages x) then
      match imageFault ended x.owner x.image with
      | some f => finish tag stImage [f.1, f.2, 0, 0] (emptySlot m ended)
      | none => finish tag 0x00 (verifyReply x.image) (commitMark tag (setPhase m .verified ended))
    else finish tag stNvm [] ended

/-! ### Heads (chapter 12) -/

/-- A learning step of a head served by PD10: the head learns, an epoch that ends is closed, and a save that is due then begins
(R281, R284, R285). -/
noncomputable abbrev learningStep (head : BitVec 2) : EventRow where
  command := .learningStep head
  ready s := (match (s.head head.toNat).ops with | .step _ :: _ => true | _ => false) = true
    ∧ s.isOn 10 = true ∧ headServes s head.toNat = true
  effect s :=
    let n := head.toNat
    match (s.head n).ops with
    | .step e :: rest =>
      let learned := onHead n (fun h => takeStep e { h with ops := rest }) s
      serveHead n (if (learned.head n).epochLen ≤ (learned.head n).epochCount then epochEnd n learned else learned)
    | _ => s

/-- With PD10 off, a head that has work asks for it. -/
noncomputable abbrev learningWaits (head : BitVec 2) : EventRow where
  command := .learningStep head
  ready s := (match (s.head head.toNat).ops with | .step _ :: _ => true | _ => false) = true ∧ s.isOn 10 = false
  effect s := wantDomain 10 true s

/-- A reward is taken: the modulator is K_REWARD times the reward, none in the hold-off; the eligible weights move by it, the reply gives
both numbers, and a save that is due then begins (R281, R291). -/
noncomputable abbrev rewardUpdate (head : BitVec 2) : EventRow where
  command := .rewardUpdate head
  ready s := (match (s.head head.toNat).ops with | .reward _ _ :: _ => true | _ => false) = true
    ∧ s.isOn 10 = true ∧ headServes s head.toNat = true
  effect s :=
    let h := s.head head.toNat
    match h.ops with
    | .reward tag value :: rest =>
      let m := if h.holdoff.isSome then 0 else sat8 ((h.kReward * value + 64) / 2 ^ 7)
      let r := if m = 0 then (h, 0) else updateWeights m h
      let moved := onHead head.toNat (fun _ => { r.1 with ops := rest, stats := { r.1.stats with rewards := satInc r.1.stats.rewards } }) s
      serveHead head.toNat (finish tag 0x00 ([BitVec.ofInt 8 m, 0, 0, 0] ++ le 4 (min 0xFFFFFFFF r.2)) (commitMark tag moved))
    | _ => s

/-- The settling period of a head ends. -/
noncomputable abbrev settlePeriodEnd (head : BitVec 2) : EventRow where
  command := .settlePeriodEnd head
  ready s := (s.head head.toNat).settle.isSome = true
  effect s := noteFreeze head.toNat 0 (onHead head.toNat (fun h => { h with settle := none }) s)

/-- The hold-off of a head after a trip ends. -/
noncomputable abbrev holdoffPeriodEnd (head : BitVec 2) : EventRow where
  command := .holdoffPeriodEnd head
  ready s := (s.head head.toNat).holdoff.isSome = true
  effect s := noteFreeze head.toNat 0 (onHead head.toNat (fun h => { h with holdoff := none }) s)

/-- A head's save is committed: counted, HEAD_SAVED is raised, the command that asked gets the sequence and slot, or the
export its image, which waits while a bank of it is busy, and the head's next operation may begin (R218, R299, R302). -/
noncomputable abbrev headSaveCommit (head : BitVec 2) : EventRow where
  command := .headSaveCommit head
  ready s := (match (s.head head.toNat).busy with
    | some (.saved cause _) => cause != .exported || !readWaits s (currentPages s head.toNat)
    | _ => false) = true
  effect s :=
    let n := head.toNat
    match (s.head n).busy with
    | some (.saved cause tag) =>
      let saved := onHead n (fun h => { h with busy := none, image := [], stats := { h.stats with saves := satInc h.stats.saves } }) s
      let h := saved.head n
      let slot := BitVec.ofNat 8 (h.current.getD 0)
      let told := raiseHead n 0x71 false ([BitVec.ofNat 8 n, slot, 0, 0] ++ le 4 h.saveSeq) saved
      serveHead n (match tag with
        | none => carryRoll told
        | some t =>
          if cause == .exported then replyExport n t told
          else finish t 0x00 (le 4 h.saveSeq ++ [slot, 1, 0, 0]) told)
    | _ => s

/-- A consolidation copy that is ready comes into force between the jobs of its model (R296). -/
noncomputable abbrev consolidationInForce (head : BitVec 2) : EventRow where
  command := .consolidationInForce head
  ready s := ((s.head head.toNat).copy.any (·.ready)) = true
    ∧ ((s.head head.toNat).user.any fun u => !s.mdl.jobs.any (·.model == u.1)) = true
  effect s :=
    let n := head.toNat
    let c := (s.head n).copy.getD default
    let told := consolidated n 1 c.arrays (onHead n (fun h => { h with copy := some { c with ready := false, inForce := true, tag := none } }) s)
    match c.tag with
    | some t => finish t 0x00 ([1, 0, 0, 0] ++ arrayMap c.arrays ++ le 4 c.changeAt) (commitMark t told)
    | none => told

/-- The pages that a load of a head reads: the layer's block of the image, or the head's current copy. -/
def loadPages (source : LoadSource) (n : Nat) (s : State) : List Nat :=
  match source, (s.head n).user with
  | .initial, some u =>
    let l := layerAt (s.model u.1).image u.2
    (s.model u.1).pagesFor l.wAt l.wLen
  | _, _ => currentPages s n

/-- The engine can end the head's load: it is the head's next operation, PD10 works, no forward pass waits and no bank that it reads is
busy (R218, R281). -/
def loadReady (n : Nat) (s : State) : Prop :=
  ∃ d, (s.head n).loadDue = some d ∧ (s.head n).user.isSome = true ∧ works s 10 = true ∧ forwardWaits s = false
    ∧ readWaits s (loadPages d.1 n s) = false

/-- A head's load ends: from its copy, or from the image where it has none or the copy cannot be read. For a command, the copy in the
cells is withdrawn, the head settles and the command is DONE; HEAD_LOADED is raised but at a wake (R301). -/
noncomputable abbrev headLoadDone (head : BitVec 2) : EventRow where
  command := .headLoadDone head
  ready s := loadReady head.toNat s ∧ ∀ d ∈ (s.head head.toNat).loadDue, readable s (loadPages d.1 head.toNat s) = true ∨ d.2 = none
  effect s :=
    let n := head.toNat
    match (s.head n).loadDue, (s.head n).user with
    | some (source, tag), some u =>
      let img := (s.model u.1).image
      let read := onHead n (fun h => { h with ops := h.ops.drop 1 }) (readPages (loadPages source n s) s)
      let copy := if source == .initial || !readable s (loadPages source n s) then none else (read.head n).copyImage
      let loaded := onHead n (fun h =>
        let h := match copy with
          | some c => h.load c
          | none => h.initial img (layerAt img u.2)
        { h with rewardLeft := if source == .wake then h.rewardLeft else 0, slept := false }) read
      let settled :=
        if tag.isSome then startSettle n (withdrawCopy n ((loaded.head n).consMode != 0) stState loaded) else loaded
      let seq := (copy.map fun c => fld c 12 4).getD 0
      let code := if copy.isNone then 2 else source.code
      let told :=
        if source == .wake || source == .resumed then settled
        else raiseHead n 0x75 true ([BitVec.ofNat 8 n, code, 0, 0] ++ le 4 seq) settled
      serveHead n (match tag with
        | none => carryRoll told
        | some t => finish t 0x00 (if (told.slot? t).any (·.opcode == 0x7C) then [] else le 4 seq) (commitMark t told))
    | _, _ => s

/-- A load that a command asked for of a copy that cannot be read ends with NVM_ERROR (R215). -/
noncomputable abbrev headLoadFails (head : BitVec 2) : EventRow where
  command := .headLoadDone head
  ready s := loadReady head.toNat s ∧ ∀ d ∈ (s.head head.toNat).loadDue, readable s (loadPages d.1 head.toNat s) = false ∧ d.2.isSome = true
  effect s :=
    let n := head.toNat
    match (s.head n).loadDue with
    | some (source, tag) =>
      serveHead n (finish (tag.getD 0) stNvm []
        (onHead n (fun h => { h with ops := h.ops.drop 1 }) (readPages (loadPages source n s) s)))
    | none => s

/-! ### Cells, tests and wear (chapter 13) -/

/-- What a write leaves of an array: the weights in the places that the owner's key draws for this write, reference columns at code 8 and
reference rows at codes 0 and 15, the stuck columns on spares while there are any, FAILING beyond them (R194, R205, R319, R383). -/
def writtenArray (s : State) (w : ArrayWrite) (stuck : List Nat) (bad : Nat) (x : CimArray) : CimArray :=
  let owner := (s.model w.use.model).owner.toNat
  let order := drawOrder (rd s.own.slots owner).pk w.array w.count (cimGroup (writtenCtrl s w.use))
  let spares := 4 - x.spareFor.length - x.spareBad
  let kept := x.spareFor ++ stuck.take spares
  { x.erase with
    use := some w.use, writing := none, begun := false, cells := permuted order w.cells
    refRows := [0, 15, 0, 15, 0, 15, 0, 15, 0, 15, 0, 15, 0, 15, 0, 15], drawn := some (owner, w.count)
    spareFor := kept, failing := stuck.length - spares, spareBad := min (4 - kept.length) (x.spareBad + bad)
    signed := true }

/-- An array is written and recalibrated: stuck columns are replaced by spares while there are any, and the core is fenced for
lost columns (cause 1) or a reference that diverges (cause 4); with the run's last array what waited for the run follows
(R205, R310, R316). -/
noncomputable abbrev arrayWriteDone (array : BitVec 6) (stuck : List (BitVec 8)) (residual : Nat) (outside : Bool) (bad : Nat) : EventRow where
  command := .arrayWriteDone array stuck residual outside bad
  ready s := ((nextWrite s (array.toNat / 8)).any fun r => r.2.array == array.toNat) = true ∧ works s (16 + array.toNat / 8) = true
    ∧ passOn s array.toNat = false ∧ thermalState s ≠ .trip
  effect s :=
    let a := array.toNat; let n := a / 8
    let r := (nextWrite s n).getD default
    let x := s.array a
    let lost := (stuck.map (·.toNat)).eraseDups
    let written := onArray a (writtenArray s r.2 lost bad) s
    let told := columnEvents a 3 (x.failing - lost.length) (columnEvents a 2 (lost.length - x.spares)
      (columnEvents a 1 (min lost.length x.spares) written))
    let told := if lost = [] ∧ x.failing = 0 then told else postWear .accounts none told
    if columnsLost told n then fenceNow n 1 told
    else if diverges residual outside then fenceNow n 4 told
    else
      let i := told.mdl.writes.findIdx fun w => w == r.1
      let left := r.1.writes.erase r.2
      if left.isEmpty then wantCores (runDone r.1 (onRm (fun b => { b with writes := b.writes.eraseIdx i }) told))
      else onRm (fun b => { b with writes := b.writes.set i { r.1 with writes := left } }) told

/-- A recalibration of a core is due and its core is free for it: one before the next pass between any two passes, another between
jobs (R314, R315, R325). -/
def recalReady (n : Nat) (s : State) : Bool :=
  ((s.lrn.unfence.any fun u => u.core == n && u.quickPassed)
      || (!(s.core n).fenced && ((s.core n).recalFirst || (((s.core n).recalDue || runDue s 0 n) && atBoundary s n))))
    && works s (16 + n) && unitFree s (.core n) && (nextWrite s n).isNone && thermalState s != .trip

/-- A recalibration ends: one that diverges fences the core (cause 4) or fails its unfencing, else the band and the reading of
the calibration are kept (R314, R315). -/
noncomputable abbrev recalibration (core : BitVec 3) (residual : Nat) (outside : Bool) (bad : List (BitVec 3)) : EventRow where
  command := .recalibration core residual outside bad
  ready s := recalReady core.toNat s = true
  effect s :=
    let n := core.toNat
    let unf := s.lrn.unfence.any fun u => u.core == n && u.quickPassed
    let read := onCore n (fun c => { c with maxResidual := residual }) (bad.foldl (fun s k =>
      onArray (8 * n + k.toNat) (fun x => { x with spareBad := min (4 - x.spareFor.length) (x.spareBad + 1) }) s) s)
    if diverges residual outside then
      if unf then unfenceFails stHwFault read else fenceNow n 4 (giveResult 0 n 1 read)
    else
      let kept := onCore n (fun c => { c with
        recalDue := false, recalFirst := false, bandCal := some c.bandForce, tjCal := c.reading.getD 0, tCal := now read }) read
      if unf then postWear (.unfence n) (kept.lrn.unfence.map (·.tag)) kept else endRuns (giveResult 0 n 0 kept)

/-- A quick self-test of a core is due and its core is free for it. -/
def quickReady (n : Nat) (s : State) : Bool :=
  ((s.lrn.unfence.any fun u => u.core == n && !u.quickPassed)
      || (!(s.core n).fenced && ((s.core n).quickDue || (runDue s 1 n && atBoundary s n))))
    && works s (16 + n) && unitFree s (.core n) && thermalState s != .trip

/-- A quick self-test ends: a failure fences the core (cause 2), or fails its unfencing (R317). -/
noncomputable abbrev quickSelftest (core : BitVec 3) (ok : Bool) : EventRow where
  command := .quickSelftest core ok
  ready s := quickReady core.toNat s = true
  effect s :=
    let n := core.toNat
    let tested := onCore n (fun c => { c with quick := if ok then 0 else 1, quickDue := c.quickDue && !ok }) s
    if s.lrn.unfence.any fun u => u.core == n && !u.quickPassed then
      if ok then { tested with lrn := { tested.lrn with unfence := tested.lrn.unfence.map fun u => { u with quickPassed := true } } }
      else unfenceFails stHwFault tested
    else if ok then endRuns (giveResult 1 n 0 tested)
    else fenceNow n 2 (giveResult 1 n 1 tested)

/-- A full self-test of a core is due and its core is free for it. -/
def fullReady (n : Nat) (s : State) : Bool :=
  !(s.core n).fenced && ((s.core n).fullDue || runDue s 2 n) && works s (16 + n) && atBoundary s n && thermalState s != .trip

/-- A full self-test ends: the failing columns are marked; lost columns, a failed quick test or another failure fence the core, a
core with failing columns has its arrays refreshed (R318). -/
noncomputable abbrev fullSelftest (core : BitVec 3) (quickOk otherOk : Bool) (failing : List (BitVec 3 × Nat)) : EventRow where
  command := .fullSelftest core quickOk otherOk failing
  ready s := fullReady core.toNat s = true
  effect s :=
    let n := core.toNat
    let marked := failing.foldl (fun s f => markFailing (8 * n + f.1.toNat) f.2 s) s
    let lost := columnsLost marked n
    let fails := !quickOk || !otherOk || lost
    let result : Byte := if fails then 1 else if 0 < failingColumns marked n then 2 else 0
    let cause : Byte := if lost then 1 else if (s.core n).anomalyTest then 5 else if !quickOk then 2 else 3
    let tested := onCore n (fun c => { c with
      full := result, quick := if quickOk then 0 else 1, quickDue := c.quickDue && !quickOk
      fullDue := false, anomalyTest := false, tFull := now marked, failing := failingColumns marked n }) marked
    let told := giveResult 2 n result tested
    if fails then fenceNow n cause told
    else endRuns ((((List.range 8).map (8 * n + ·)).filter fun a => decide (0 < (told.array a).failing)).foldl
      (fun s a => if (s.array a).writing.isNone then refreshArray a s else s) told)

/-- A window of 2^24 conversions ends: its clips are counted from zero again, and more of them than the expectation allows are an
anomaly: CLIP_ANOMALY, a full self-test, and at the third in a day a fence (cause 5) (R321). -/
noncomputable abbrev clipWindowEnd (array : BitVec 6) : EventRow where
  command := .clipWindowEnd array
  ready s := ((s.array array.toNat).windows.any fun w => decide (2 ^ 24 ≤ w.conv)) = true
  effect s :=
    let a := array.toNat; let n := a / 8
    match (s.array a).windows.find? fun w => decide (2 ^ 24 ≤ w.conv) with
    | none => s
    | some w =>
      let ended := onArray a (fun x => { x with windows := x.windows.filter fun y => !y.isOf w.use }) s
      let e := clipExpect ended w.use
      if (s.core n).fenced = true ∨ w.clips ≤ 256 * max (4 * e) (e + 32) then ended
      else
        let told := raise 0xC1 true ([BitVec.ofNat 8 n, BitVec.ofNat 8 a, BitVec.ofNat 8 w.use.model, BitVec.ofNat 8 w.use.layer]
          ++ le 2 (min 65535 (w.clips / 256)) ++ le 2 e) ended
        let list := recentAnomalies told n ++ [told.clk.tick]
        let marked := onCore n (fun c => { c with anomalies := list, fullDue := true, anomalyTest := true }) told
        if 3 ≤ list.length then fenceNow n 5 marked else marked

/-- Every hour the wear balance of every array accrues, and what is worn out is withdrawn (R312). -/
noncomputable abbrev wearHourlyAccrual : EventRow where
  command := .wearHourlyAccrual
  ready s := s.isOn 0 = true
  effect s := carryOn (withdrawWorn ((List.range 64).foldl (fun s a => onArray a (fun x => { x with balance := accrued s a }) s) s))

/-- Every day the days in use are counted and the wear record is written (R308). -/
noncomputable abbrev wearDayBoundary : EventRow where
  command := .wearDayBoundary
  ready s := s.isOn 0 = true
  effect s := postWear .accounts none { s with lrn := { s.lrn with daysUsed := satInc s.lrn.daysUsed } }

/-! ### The NVM and the Cairn (chapters 09 and 17) -/

/-- The NVM takes up a commit of the Cairn before all else, once the bubble that it is may be (R161, R456). -/
noncomputable abbrev nvmTakesCommit : EventRow where
  command := .nvmOperationStart
  ready s := s.isOn 3 = true ∧ commitPending s = true ∧ nvmFree s true = true ∧ mayBubble s = true
  effect s := { s with nvm := { s.nvm with busy := .cairn } }

/-- Then the posted operation whose turn it is: a program stops a background erase, an erase waits for it, and a program that is a bubble
waits for another's end (R161, R219, R456). -/
noncomputable abbrev nvmTakesPosted : EventRow where
  command := .nvmOperationStart
  ready s := s.isOn 3 = true ∧ commitPending s = false ∧ ∃ i o, nextOp s = some i ∧ s.nvm.posted[i]? = some o
    ∧ nvmFree s (!o.erase) = true ∧ (o.commit = true → mayBubble s = true)
  effect s := startOp ((nextOp s).getD 0) s

/-- Then, with nothing posted and the device READY, the oldest sector that waits for its background erase (R456, R461). -/
noncomputable abbrev nvmTakesErase : EventRow where
  command := .nvmOperationStart
  ready s := s.isOn 3 = true ∧ s.nvm.busy = .idle ∧ commitPending s = false ∧ nextOp s = none ∧ s.nvm.posted = []
    ∧ s.nvm.waiting = [] ∧ s.boot.stage = .none ∧ s.boot.counted = true ∧ s.nvm.background ≠ []
  effect s := { s with nvm := { s.nvm with busy := .background (s.nvm.background.headD 0) } }

/-- A page program ends, after `bad` pages in turn that did not verify: what was posted has its effect, and commands that waited for the
debug-open erase are served where it has ended (R218). -/
noncomputable abbrev nvmProgramDone (bad us : Nat) : EventRow where
  command := .nvmProgramDone bad us
  ready s := s.nvm.busy = .posted ∧ (s.nvm.posted.head?.any fun o => !o.erase) = true
  effect s := serveHeld (programEnds bad us s)

/-- A posted sector erase ends: counted, and what was posted goes on (R219). -/
noncomputable abbrev nvmEraseDone (us : Nat) : EventRow where
  command := .nvmEraseDone true us
  ready s := s.nvm.busy = .posted ∧ (s.nvm.posted.head?.any (·.erase)) = true
  effect s :=
    let o := s.nvm.posted.headD default
    erased o true (endOp (countErase o.page us s))

/-- A background erase ends: counted, and the sector waits no longer. -/
noncomputable abbrev nvmBackgroundEraseDone (sector us : Nat) : EventRow where
  command := .nvmEraseDone true us
  ready s := s.nvm.busy = .background sector
  effect s := countErase sector us { s with nvm := { s.nvm with busy := .idle, background := s.nvm.background.filter (· != sector) } }

/-- The oldest Cairn entry that waits is committed (R405). -/
noncomputable abbrev cairnCommit (programs : Vector (Nat × Nat) 6) : EventRow where
  command := .cairnCommit programs
  ready s := s.isOn 3 = true ∧ s.nvm.busy ≠ .posted ∧ commitPending s = true
  effect s := (commitNext programs.toList { s with nvm := { s.nvm with busy := .idle } }).1

/-- A remote read that had no reply ends. -/
noncomputable abbrev remoteReadTimeout (relay : BitVec 16) : EventRow where
  command := .remoteReadTimeout relay
  ready _ := True
  effect s := endRead relay.toNat s

/-- The programs that give an update's slot its new state, ahead of the command's commit point. -/
noncomputable def slotMark (c : FwCommit) (state : FwSlotState) (s : State) : List NvmOp :=
  let slot := s.fw c.slot
  (recordOps (slotRecord c.slot) { slot with state := state, build := (Config.fwHeader slot.image).2.2.2.2 }.bytes (some c.tag) false s).map
    fun o => { o with point := false }

/-- The image of a firmware update is verified once every part is programmed and no bank of it is busy: it is marked TRIAL and
selected, or marked INVALID, also where a page of it cannot be read (R102, R215). -/
noncomputable abbrev fwImageVerified : EventRow where
  command := .fwImageVerified
  ready s := ∃ c, s.boot.commit = some c ∧ readWaits s (fwPages s c.slot) = false ∧ s.boot.phase ≠ .restarting
    ∧ opsPending s (fun j => match j with
        | .fwPage _ | .fwLast _ _ | .recordCommit .slotA _ | .recordCommit .slotB _ => true
        | _ => false) = false
  effect s :=
    let c := s.boot.commit.getD default
    let read := readPages (fwPages s c.slot) s
    if fwImageOk read c.slot = true ∧ readable read (fwPages s c.slot) = true then
      postNvm (slotMark c .trial read ++ recordOps .select [BitVec.ofNat 8 c.slot] (some c.tag) false read) read
    else postNvm (slotMark c .invalid read) read

/-! ### The TRNG and the challenge (chapter 16) -/

/-- A health test of the TRNG fails: TRNG_FAULT, with its Cairn entry (R389). -/
noncomputable abbrev trngHealthFail (repetition : Bool) : EventRow where
  command := .trngHealthFail repetition
  ready s := s.own.trngFault = false ∧ s.isOn 1 = true ∧ s.pwr.retention = false
  effect s :=
    let kind : Byte := if repetition then 1 else 2
    raise 0xA2 true [kind, 0, 0, 0] (cairn 0xA003 0 [kind] (onOwn (fun w => { w with trngFault := true }) s))

/-- A retry that passes clears it. -/
noncomputable abbrev trngRetry : EventRow where
  command := .trngRetry true
  ready s := s.own.trngFault = true ∧ s.isOn 1 = true ∧ s.pwr.retention = false
  effect s := raise 0xA2 true [3, 0, 0, 0] (onOwn (fun w => { w with trngFault := false }) s)

/-- A debug challenge expires (R392). -/
noncomputable abbrev debugChallengeExpiry : EventRow where
  command := .debugChallengeExpiry
  ready _ := True
  effect s := onOwn (fun w => { w with challenge := none }) s

end Sys2Proof.Rows
end

