-- ==== Sys2Proof/Certificates/Slice0/RowsAll.lean ====
section
/-! DEFINITION. The rows of the commands, family by family, and the parts of the state that each row may change. -/

namespace Sys2Proof.Rows

open Machine

/-! ### The rows of the commands -/

/-- The host port (chapter 02). -/
noncomputable def portRows : List CommandRow := [
  nop, devInfo, devStatus, linkConfigRead, linkConfigWrite, linkCounters, linkCountersClear, sessionOpen,
  sessionClose, sessionStatus, devLabelSet, devLabelGet, devLabelGetWaits, resetWarm, resetFull, abort]

/-- The Anchor (chapter 03). -/
noncomputable def anchorRows : List CommandRow := [
  powerStateGet, powerStateSetBivouac, powerStateSetWatch, wakeConfig, tickAlarmDisable, tickAlarmAbsolute,
  tickAlarmRelative, timeGet, clockStatus, thermalConfig, thermalStatus, powerPolicyRead, powerPolicyWrite]

/-- Firmware and the NVM (chapters 04 and 09). -/
noncomputable def firmwareRows : List CommandRow := [
  fwUpdateBegin, fwUpdateData, fwUpdateCommit, fwSlotStatus, nvmStatus, nvmRegionInfo]

/-- Owners and keys (chapter 16). -/
noncomputable def ownerRows : List CommandRow := [
  ownerProvision, ownerRemove, ownerList, attest, epochRoll, debugChallenge, debugOpen, keyRotate, trngRead]

/-- The front end (chapter 05). -/
noncomputable def frontEndRows : List CommandRow := [
  afePinRoleSet, afePinRoleGet, afeChannelConfig, afeChannelGet, afeExcitationSet, afeLeadMeasureLoop,
  afeLeadMeasureKelvin, afeLeadMeasureSet, afeLeadGet, afePairConfigSet, afePairConfigRemove, afePairStatus, afeDiag,
  afeCalRun, afeBankEnable]

/-- Streams (chapters 06 and 07). -/
noncomputable def streamRows : List CommandRow := [
  streamConfigSet, streamConfigRemove, streamGet, streamStart, streamStopNow, streamStopAfterFrame, sportConfig,
  sportGet, tachConfig, encConfig, streamCounters, streamCountersClear, streamSnapshot]

/-- Features and the belt (chapters 07 and 08). -/
noncomputable def featureRows : List CommandRow := [
  featConfigSet, featConfigRemove, featGet, featOrderConfig, featBandsSet, featStateConfig, featFrameRead,
  beltPositionGet, beltConfigSet, beltConfigDisable, setIndex, beltClearCount]

/-- Models (chapter 10). -/
noncomputable def modelRows : List CommandRow := [
  modelLoadBegin, modelLoadData, modelLoadAbandon, modelVerify, modelPlace, modelPlaceRidge, modelUnload,
  modelPlacementGet, modelList, modelStart, modelStop, modelReplace, modelBindStreams]

/-- The Resource Manager (chapter 11). -/
noncomputable def managerRows : List CommandRow := [
  jobSubmit, resultRead, resultPin, resultUnpin, rmStatus, rmCounters, rmCountersClear, rmShareSet, queueStatus,
  queueStatusClearHigh, resultSubscribe]

/-- Heads (chapter 12). -/
noncomputable def headRows : List CommandRow := [
  headConfig, headGet, rewardCancel, rewardImmediate, rewardHeld, modulatorConfig, headFreeze, headResume, headSave,
  headRestore, headExport, headImport, headConsolidate, headStats, headStatsClear, headReset, headEraseOrphan]

/-- Belay (chapter 14). -/
noncomputable def belayRows : List CommandRow := [
  houtMap, houtGet, belayConfig, belayArm, belayDisarm, belayTrip, belayAbortHold, belayRearm, belayDeclareStop,
  belayStatus, alarmSetMask, alarmSetHost, alarmClearHost, alarmAcknowledge]

/-- The Rope (chapter 15). -/
noncomputable def ropeRows : List CommandRow := [
  ropeStatus, ropeEnumerate, ropeDetach, ropeAttach, ropeRelay, ropeTopologyGet, ropeRetrain, ropeCounters,
  ropeCountersClear]

/-- The Cairn (chapter 17). -/
noncomputable def recordRows : List CommandRow := [
  cairnInfo, cairnRead, cairnReadPinned, cairnMark, cairnMarkDropped, cairnRemoteRead]

/-- Cores and wear (chapter 13). -/
noncomputable def coreRows : List CommandRow := [
  calRun, calStatus, selftestRunQuick, selftestRunFull, selftestResult, wearStatus, wearConfig, coreStatus,
  coreFence, coreUnfence, clipCounters, clipCountersClear]

/-- Every row that is an ACP command. -/
noncomputable def commandRows : List CommandRow :=
  portRows ++ anchorRows ++ firmwareRows ++ ownerRows ++ frontEndRows ++ streamRows ++ featureRows
    ++ modelRows ++ managerRows ++ headRows ++ belayRows ++ ropeRows ++ recordRows ++ coreRows

/-! ### What a row may change -/

/-- The host port (chapter 02): the parts each command may change. -/
noncomputable def portParts : List (CommandRow × List Part) := [
  (nop, []), (devInfo, [.free]), (devStatus, []), (linkConfigRead, []), (linkConfigWrite, []), (linkCounters, []),
  (linkCountersClear, []), (sessionOpen, [.free]), (sessionClose, []), (sessionStatus, []), (devLabelSet, [.pwr, .nvm]),
  (devLabelGet, [.nvm]), (resetWarm, [.boot]), (resetFull, [.boot]),
  (abort, [.pwr, .boot, .nvm, .cairn, .afe, .stm, .own, .bly, .mdl, .lrn, .rope])]

/-- The Anchor (chapter 03): the parts each command may change. -/
noncomputable def anchorParts : List (CommandRow × List Part) := [
  (powerStateGet, []), (powerStateSetBivouac, [.pwr]), (powerStateSetWatch, [.pwr]), (wakeConfig, [.pwr]),
  (tickAlarmDisable, [.pwr]), (tickAlarmAbsolute, [.pwr]), (tickAlarmRelative, [.pwr]), (timeGet, []), (clockStatus, []),
  (thermalConfig, [.thm]), (thermalStatus, []), (powerPolicyRead, []), (powerPolicyWrite, [.pwr])]

/-- Firmware and the NVM (chapters 04 and 09): the parts each command may change. -/
noncomputable def firmwareParts : List (CommandRow × List Part) := [
  (fwUpdateBegin, [.pwr, .boot, .nvm]), (fwUpdateData, [.pwr, .nvm]), (fwUpdateCommit, [.boot]), (fwSlotStatus, []),
  (nvmStatus, []), (nvmRegionInfo, [])]

/-- Owners and keys (chapter 16): the parts each command may change. -/
noncomputable def ownerParts : List (CommandRow × List Part) := [
  (ownerProvision, [.pwr, .nvm, .own, .mdl, .free]), (ownerRemove, [.pwr, .nvm, .own, .free]), (ownerList, []),
  (attest, []), (epochRoll, [.pwr, .nvm, .own, .mdl, .lrn]), (debugChallenge, [.own, .free]),
  (debugOpen, [.pwr, .nvm, .own]), (keyRotate, [.pwr, .nvm, .own, .free]), (trngRead, [.free])]

/-- The front end (chapter 05): the parts each command may change. -/
noncomputable def frontEndParts : List (CommandRow × List Part) := [
  (afePinRoleSet, [.afe]), (afePinRoleGet, []), (afeChannelConfig, [.afe]), (afeChannelGet, []),
  (afeExcitationSet, [.afe]), (afeLeadMeasureLoop, [.pwr, .afe]), (afeLeadMeasureKelvin, [.pwr, .afe]),
  (afeLeadMeasureSet, [.afe]), (afeLeadGet, []), (afePairConfigSet, [.afe, .stm]), (afePairConfigRemove, [.afe, .stm]),
  (afePairStatus, []), (afeDiag, []), (afeCalRun, [.pwr, .afe]), (afeBankEnable, [.pwr, .afe])]

/-- Streams (chapters 06 and 07): the parts each command may change. -/
noncomputable def streamParts : List (CommandRow × List Part) := [
  (streamConfigSet, [.stm]), (streamConfigRemove, [.stm]), (streamGet, []), (streamStart, [.pwr, .stm]),
  (streamStopNow, [.afe, .stm]), (streamStopAfterFrame, [.afe, .stm]), (sportConfig, [.stm]), (sportGet, []),
  (tachConfig, [.pwr, .stm]), (encConfig, [.pwr, .stm, .feat]), (streamCounters, [.stm]), (streamCountersClear, [.stm]),
  (streamSnapshot, [.stm])]

/-- Features and the belt (chapters 07 and 08): the parts each command may change. -/
noncomputable def featureParts : List (CommandRow × List Part) := [
  (featConfigSet, [.feat]), (featConfigRemove, [.feat]), (featGet, []), (featOrderConfig, [.feat]),
  (featBandsSet, [.feat]), (featStateConfig, [.feat]), (featFrameRead, []), (beltPositionGet, []),
  (beltConfigSet, [.feat]), (beltConfigDisable, [.feat]), (setIndex, [.feat]), (beltClearCount, [.feat])]

/-- Models (chapter 10): the parts each command may change. -/
noncomputable def modelParts : List (CommandRow × List Part) := [
  (modelLoadBegin, [.pwr, .cairn, .stm, .bly, .mdl, .lrn]), (modelLoadData, [.pwr, .nvm, .mdl]),
  (modelLoadAbandon, [.pwr, .nvm, .cairn, .stm, .bly, .mdl, .lrn, .rope]), (modelVerify, [.pwr, .mdl]),
  (modelPlace, [.pwr, .nvm, .cairn, .stm, .own, .bly, .mdl, .lrn, .rope]),
  (modelPlaceRidge, [.pwr, .nvm, .cairn, .stm, .own, .bly, .mdl, .lrn, .rope, .free]),
  (modelUnload, [.pwr, .nvm, .cairn, .stm, .bly, .mdl, .lrn, .rope]), (modelPlacementGet, []), (modelList, []),
  (modelStart, [.pwr, .cairn, .stm, .bly, .mdl, .lrn]),
  (modelStop, [.pwr, .nvm, .cairn, .stm, .own, .bly, .mdl, .lrn, .rope]),
  (modelReplace, [.pwr, .nvm, .cairn, .stm, .own, .bly, .mdl, .lrn, .rope]), (modelBindStreams, [.mdl])]

/-- The Resource Manager (chapter 11): the parts each command may change. -/
noncomputable def managerParts : List (CommandRow × List Part) := [
  (jobSubmit, [.mdl]), (resultRead, [.nvm, .mdl]), (resultPin, [.mdl]), (resultUnpin, [.mdl]), (rmStatus, []),
  (rmCounters, []), (rmCountersClear, [.mdl]), (rmShareSet, [.mdl]), (queueStatus, []), (queueStatusClearHigh, [.mdl]),
  (resultSubscribe, [.mdl])]

/-- Heads (chapter 12): the parts each command may change. -/
noncomputable def headParts : List (CommandRow × List Part) := [
  (headConfig, [.mdl, .lrn]), (headGet, []), (rewardCancel, [.lrn]), (rewardImmediate, [.lrn]), (rewardHeld, [.lrn]),
  (modulatorConfig, [.lrn]), (headFreeze, [.pwr, .nvm, .lrn]), (headResume, [.lrn]), (headSave, [.pwr, .nvm, .lrn]),
  (headRestore, [.pwr, .nvm, .lrn]), (headExport, [.pwr, .nvm, .lrn, .free]), (headImport, [.pwr, .nvm, .lrn]),
  (headConsolidate, [.pwr, .nvm, .cairn, .stm, .own, .bly, .mdl, .lrn, .rope]), (headStats, []), (headStatsClear, [.lrn]),
  (headReset, [.pwr, .nvm, .lrn]), (headEraseOrphan, [.pwr, .nvm, .lrn])]

/-- Belay (chapter 14): the parts each command may change. -/
noncomputable def belayParts : List (CommandRow × List Part) := [
  (houtMap, [.pwr, .cairn, .stm, .bly, .lrn]), (houtGet, []), (belayConfig, [.pwr, .cairn, .stm, .bly, .lrn]),
  (belayArm, [.pwr, .cairn, .stm, .bly, .lrn]), (belayDisarm, [.pwr, .cairn, .stm, .bly, .lrn]),
  (belayTrip, [.pwr, .cairn, .stm, .bly, .lrn]), (belayAbortHold, [.pwr, .cairn, .stm, .bly, .lrn]),
  (belayRearm, [.pwr, .cairn, .bly]), (belayDeclareStop, [.pwr, .cairn, .stm, .bly, .lrn]), (belayStatus, []),
  (alarmSetMask, [.pwr, .cairn, .stm, .bly, .lrn]), (alarmSetHost, [.pwr, .cairn, .stm, .bly, .lrn]),
  (alarmClearHost, [.pwr, .cairn, .stm, .bly, .lrn]), (alarmAcknowledge, [.pwr, .cairn, .stm, .bly, .lrn])]

/-- The Rope (chapter 15): the parts each command may change. -/
noncomputable def ropeParts : List (CommandRow × List Part) := [
  (ropeStatus, []), (ropeEnumerate, [.pwr, .cairn, .stm, .bly, .mdl, .lrn, .rope]),
  (ropeDetach, [.pwr, .nvm, .cairn, .stm, .bly, .mdl, .lrn, .rope]), (ropeAttach, [.pwr, .rope]),
  (ropeRelay, [.cairn, .rope]), (ropeTopologyGet, []), (ropeRetrain, [.rope]), (ropeCounters, []),
  (ropeCountersClear, [.rope])]

/-- The Cairn (chapter 17): the parts each command may change. -/
noncomputable def recordParts : List (CommandRow × List Part) := [
  (cairnInfo, []), (cairnRead, [.nvm, .cairn, .free]), (cairnReadPinned, [.nvm, .cairn]), (cairnMark, [.pwr, .cairn]),
  (cairnRemoteRead, [.cairn, .rope])]

/-- Cores and wear (chapter 13): the parts each command may change. -/
noncomputable def coreParts : List (CommandRow × List Part) := [
  (calRun, [.pwr, .lrn]), (calStatus, []), (selftestRunQuick, [.pwr, .lrn]), (selftestRunFull, [.pwr, .lrn]),
  (selftestResult, []), (wearStatus, []), (wearConfig, [.pwr, .nvm, .lrn]), (coreStatus, []),
  (coreFence, [.pwr, .nvm, .cairn, .stm, .own, .bly, .mdl, .lrn, .rope, .free]), (coreUnfence, [.pwr, .lrn]),
  (clipCounters, []), (clipCountersClear, [.mdl])]

/-- The rows of the commands, each with the parts of the state that a command of its kind, once taken up, may change beside the
host port and the high levels of the queues. -/
noncomputable def commandParts : List (CommandRow × List Part) :=
  portParts ++ anchorParts ++ firmwareParts ++ ownerParts ++ frontEndParts ++ streamParts
    ++ featureParts ++ modelParts ++ managerParts ++ headParts ++ belayParts ++ ropeParts
    ++ recordParts ++ coreParts

/-- The parts of the state that something that happens may change beside the host port and the high levels of the queues; none
for the commands. -/
def eventParts (c : Instr) : Option (List Part) :=
  match c with
  | .push .. => some [.pwr, .thm, .boot, .nvm, .cairn, .afe, .stm, .feat, .own, .bly, .mdl, .lrn, .rope, .free]
  | .qpush .. => some [.pwr, .thm, .boot, .nvm, .cairn, .afe, .stm, .feat, .own, .bly, .mdl, .lrn, .rope, .free]
  | .pull .. => some [.pwr, .boot, .nvm, .cairn, .stm, .bly, .mdl]
  | .qpull .. => some [.pwr, .boot, .nvm, .cairn, .stm, .bly, .mdl]
  | .clearStatus .. => some []
  | .invalidTransportOpcode .. => some []
  | .fragmentTimeout .. => some []
  | .sessionIdleTimeout .. => some []
  | .resetReplyTimeout .. => some [.pwr, .boot, .nvm, .cairn, .stm, .bly, .mdl]
  | .streamStartInstant .. => some [.afe, .stm, .feat]
  | .powerOnReset .. => some [.clk, .pwr, .thm, .boot, .nvm, .cairn, .afe, .stm, .feat, .own, .bly, .mdl, .lrn, .rope, .free]
  | .brownoutDetect .. => some [.clk, .pwr, .thm, .boot, .nvm, .cairn, .afe, .stm, .feat, .own, .bly, .mdl, .lrn, .rope, .free]
  | .brownoutRelease .. => some [.boot]
  | .powerOff .. => some [.clk, .pwr, .thm, .boot, .nvm, .cairn, .afe, .stm, .feat, .own, .bly, .mdl, .lrn, .rope, .free]
  | .resetPinAssert .. => some [.pwr, .pins, .boot, .nvm, .cairn, .stm, .bly, .mdl]
  | .resetPinRelease .. => some [.pins, .boot]
  | .resetTakeEffect .. => some [.clk, .pwr, .thm, .boot, .nvm, .cairn, .afe, .stm, .feat, .own, .bly, .mdl, .lrn, .rope, .free]
  | .thermalResetRelease .. => some [.boot]
  | .watchdogExpiry .. => some [.pwr, .boot, .nvm, .cairn, .stm, .bly, .mdl]
  | .controlCoreException .. => some [.pwr, .boot, .nvm, .cairn, .stm, .bly, .mdl]
  | .firmwareRestartDone .. => some [.pwr, .boot, .nvm, .cairn, .afe, .stm, .own, .bly, .mdl, .lrn, .rope]
  | .bootRomStart .. => some [.clk, .pwr, .pins, .boot, .nvm, .cairn, .stm, .own, .bly, .mdl, .lrn, .rope]
  | .erasePendingComplete .. => some [.clk, .boot]
  | .authComplete .. => some [.pwr, .boot, .nvm, .cairn]
  | .deviceReady .. => some [.pwr, .boot, .nvm, .cairn, .stm, .own, .bly, .mdl, .lrn, .rope]
  | .bootGuardExpiry .. => some [.pwr, .boot, .cairn, .bly]
  | .vholdThreshold .. => some [.pwr, .boot]
  | .holdupHoldEnd .. => some [.boot]
  | .xo32QualifyInterval .. => some [.clk, .pwr]
  | .xo32EdgeLoss .. => some [.clk, .pwr, .cairn]
  | .xo32Retry .. => some [.clk]
  | .xo32Absent .. => some [.clk, .pwr, .cairn]
  | .xo24Qualified .. => some [.clk, .pwr, .cairn, .stm, .bly, .lrn]
  | .xo24QualifyTimeout .. => some [.clk, .pwr, .cairn, .stm, .bly, .lrn]
  | .xo24Retry .. => some [.clk]
  | .xo24Stopped .. => some [.clk, .pwr, .nvm, .cairn, .stm, .own, .bly, .mdl, .lrn, .rope]
  | .pllLocked .. => some [.clk, .pwr, .cairn, .stm, .bly, .lrn]
  | .pllLockLoss .. => some [.clk, .pwr, .nvm, .cairn, .stm, .own, .bly, .mdl, .lrn, .rope]
  | .tickAlarmFire .. => some [.clk, .pwr, .thm, .cairn, .stm, .lrn]
  | .wakeNLow .. => some [.clk, .pwr, .thm, .cairn, .stm, .lrn]
  | .watchThresholdFire .. => some [.pwr]
  | .ropeSquelchWake .. => some [.clk, .pwr, .thm, .cairn, .stm, .lrn]
  | .wakeComplete .. => some [.pwr, .cairn, .stm, .bly, .lrn]
  | .autoSleepDwellExpiry .. => some [.pwr, .stm, .mdl]
  | .sleepEntryStart .. => some [.pwr, .stm, .mdl]
  | .sleepEntryComplete .. => some [.clk, .pwr, .nvm, .cairn, .afe, .stm, .feat, .bly, .mdl, .lrn, .rope]
  | .governorSample .. => some [.pwr, .thm, .boot, .nvm, .cairn, .stm, .own, .bly, .mdl, .lrn, .rope]
  | .anchorTempSample .. => some [.pwr, .boot, .nvm, .cairn, .stm, .bly, .mdl]
  | .domainSwitchDone .. => some [.pwr, .nvm, .cairn, .afe, .stm, .feat, .bly, .mdl, .lrn, .rope]
  | .domainIdleRelease .. => some [.pwr]
  | .sampleArrival .. => some [.afe, .stm, .rope]
  | .fabricTransaction .. => some [.stm]
  | .excLimitEngaged .. => some [.afe]
  | .excLimitReleased .. => some [.afe]
  | .driverSettleDone .. => some [.stm]
  | .frameStart .. => some [.afe, .stm]
  | .calBurstComplete .. => some [.afe, .stm, .rope]
  | .frameClose .. => some [.afe, .stm, .feat, .free]
  | .tdmFrameSync .. => some [.stm]
  | .sportLost .. => some [.afe, .stm, .feat, .free]
  | .spiPoll .. => some [.stm]
  | .tachEdge .. => some [.pwr, .cairn, .stm, .feat, .bly, .lrn]
  | .tachIdle .. => some [.pwr, .cairn, .stm, .bly, .lrn]
  | .encEdge .. => some [.stm, .feat]
  | .spliceMark .. => some [.stm, .feat]
  | .encIdle .. => some [.stm, .feat]
  | .encoderSlip .. => some [.feat]
  | .encoderRestored .. => some [.feat]
  | .pairPartnerTimeout .. => some [.afe, .stm]
  | .leadMeasureDone .. => some [.afe]
  | .featureFrameTake .. => some [.pwr, .nvm, .stm, .feat, .mdl]
  | .featureQueueRoute .. => some [.nvm, .bly, .mdl]
  | .jobStart .. => some [.pwr, .nvm, .mdl, .rope]
  | .layerDispatch .. => some [.pwr, .thm, .nvm, .cairn, .stm, .bly, .mdl, .lrn]
  | .cimPassDone .. => some [.pwr, .boot, .nvm, .cairn, .stm, .own, .bly, .mdl, .lrn, .rope, .free]
  | .streamLayerDone .. => some [.pwr, .nvm, .cairn, .stm, .own, .bly, .mdl, .lrn, .rope]
  | .vectorLayerDone .. => some [.pwr, .nvm, .cairn, .stm, .own, .bly, .mdl, .lrn, .rope]
  | .protoForwardDone .. => some [.pwr, .nvm, .cairn, .stm, .own, .bly, .mdl, .lrn, .rope]
  | .assetUpdate .. => some [.pwr, .cairn, .stm, .bly, .lrn]
  | .confirmWindowEnd .. => some [.pwr, .cairn, .stm, .bly, .lrn]
  | .coastTimerEnd .. => some [.pwr, .cairn, .stm, .bly, .lrn]
  | .stopDwellEnd .. => some [.pwr, .cairn, .stm, .bly, .lrn]
  | .motionDwellEnd .. => some [.pwr, .cairn, .stm, .bly, .lrn]
  | .rearmTimerEnd .. => some [.pwr, .cairn, .stm, .bly, .lrn]
  | .startGuardEnd .. => some [.bly]
  | .learningStep .. => some [.pwr, .nvm, .cairn, .stm, .own, .bly, .mdl, .lrn, .rope]
  | .rewardUpdate .. => some [.pwr, .nvm, .lrn]
  | .settlePeriodEnd .. => some [.lrn]
  | .holdoffPeriodEnd .. => some [.lrn]
  | .headSaveCommit .. => some [.pwr, .nvm, .own, .mdl, .lrn, .free]
  | .consolidationInForce .. => some [.lrn]
  | .arrayWriteDone .. => some [.pwr, .nvm, .cairn, .stm, .own, .bly, .mdl, .lrn, .rope, .free]
  | .recalibration .. => some [.pwr, .nvm, .cairn, .stm, .own, .bly, .mdl, .lrn, .rope, .free]
  | .quickSelftest .. => some [.pwr, .nvm, .cairn, .stm, .own, .bly, .mdl, .lrn, .rope, .free]
  | .fullSelftest .. => some [.pwr, .nvm, .cairn, .stm, .own, .bly, .mdl, .lrn, .rope, .free]
  | .clipWindowEnd .. => some [.pwr, .nvm, .cairn, .stm, .own, .bly, .mdl, .lrn, .rope, .free]
  | .wearHourlyAccrual .. => some [.pwr, .nvm, .cairn, .stm, .own, .bly, .mdl, .lrn, .rope]
  | .wearDayBoundary .. => some [.pwr, .nvm, .lrn]
  | .nvmOperationStart .. => some [.nvm]
  | .nvmProgramDone .. => some [.pwr, .thm, .boot, .nvm, .cairn, .afe, .stm, .feat, .own, .bly, .mdl, .lrn, .rope, .free]
  | .nvmEraseDone .. => some [.pwr, .boot, .nvm, .cairn, .stm, .own, .bly, .mdl, .lrn, .rope]
  | .cairnCommit .. => some [.pwr, .nvm, .cairn, .stm, .own]
  | .trngHealthFail .. => some [.pwr, .cairn, .own]
  | .trngRetry .. => some [.own]
  | .debugChallengeExpiry .. => some [.own]
  | .tapReset .. => some [.own]
  | .bypass .. => some [.own]
  | .idcode .. => some [.own]
  | .samplePreload .. => some [.own]
  | .extest .. => some [.own]
  | .highz .. => some [.own]
  | .clamp .. => some [.own]
  | .dbgChal .. => some [.own, .free]
  | .dbgOpen .. => some [.pwr, .nvm, .own, .free]
  | .dbgAccess .. => some [.own]
  | .train .. => some [.pwr, .cairn, .stm, .bly, .mdl, .lrn, .rope]
  | .trainAck .. => some [.pwr, .cairn, .stm, .bly, .mdl, .lrn, .rope]
  | .trainingAttemptTimeout .. => some [.pwr, .cairn, .stm, .bly, .mdl, .lrn, .rope]
  | .laneSyncLoss .. => some [.rope]
  | .squelchSilence .. => some [.pwr, .cairn, .stm, .bly, .mdl, .lrn, .rope]
  | .enumStart .. => some [.pwr, .cairn, .stm, .bly, .mdl, .lrn, .rope]
  | .enum .. => some [.pwr, .cairn, .stm, .bly, .mdl, .lrn, .rope]
  | .enumEnd .. => some [.pwr, .cairn, .stm, .bly, .mdl, .lrn, .rope]
  | .topology .. => some [.pwr, .nvm, .cairn, .stm, .bly, .mdl, .lrn, .rope]
  | .headConflict .. => some [.pwr, .cairn, .stm, .bly, .mdl, .lrn, .rope]
  | .noEnumTimeout .. => some [.rope]
  | .heartbeatSend .. => some [.cairn, .rope]
  | .heartbeat .. => some [.cairn, .rope]
  | .heartbeatLoss .. => some [.pwr, .nvm, .cairn, .stm, .bly, .mdl, .lrn, .rope]
  | .linkLost .. => some [.pwr, .cairn, .stm, .bly, .mdl, .lrn, .rope]
  | .join .. => some [.pwr, .cairn, .stm, .bly, .mdl, .lrn, .rope]
  | .sleep .. => some [.cairn, .rope]
  | .detach .. => some [.pwr, .cairn, .stm, .bly, .mdl, .lrn, .rope]
  | .wakeBurstTimeout .. => some [.cairn, .rope]
  | .circulationRoundStart .. => some [.pwr, .nvm, .cairn, .mdl, .rope]
  | .round .. => some [.pwr, .nvm, .cairn, .mdl, .rope]
  | .roundDone .. => some [.cairn, .rope]
  | .roundAbort .. => some [.cairn, .bly, .mdl, .rope]
  | .retire .. => some [.cairn, .rope]
  | .landGrant .. => some [.cairn, .rope]
  | .act .. => some [.pwr, .nvm, .cairn, .stm, .own, .bly, .mdl, .lrn, .rope]
  | .wstream .. => some [.cairn, .mdl, .rope]
  | .cmd .. => some [.pwr, .thm, .boot, .nvm, .cairn, .afe, .stm, .feat, .own, .bly, .mdl, .lrn, .rope, .free]
  | .cairn .. => some [.nvm, .cairn, .rope, .free]
  | .credit .. => some [.cairn, .rope]
  | .ackTimer .. => some [.rope]
  | .remoteReadTimeout .. => some [.cairn]
  | .va30OutOfRegulation .. => some [.pwr]
  | .ioRailRangeChange .. => some [.pwr]
  | .vcoreBuckInRegulation .. => some [.clk, .pwr]
  | .codeGroupSyncAcquired .. => some [.rope]
  | .headLoadDone .. => some [.pwr, .nvm, .own, .mdl, .lrn]
  | .modelVerifyDone .. => some [.pwr, .nvm, .cairn, .stm, .bly, .mdl, .lrn, .rope]
  | .fwImageVerified .. => some [.pwr, .nvm]
  | _ => none

/-- The row that starts the tick counter (R64). -/
def powersUp (c : Instr) : Bool :=
  match c with
  | .powerOnReset .. => true
  | _ => false

/-- The rows that may change a page of the NVM or the record's next sequence number: the commit engine, the NVM's programs and
erases, boot's replay, and the last programs on the hold-up supply. -/
def writesRecord (c : Instr) : Bool :=
  match c with
  | .cairnCommit .. | .nvmProgramDone .. | .nvmEraseDone .. | .bootRomStart .. | .brownoutDetect .. | .powerOff .. => true
  | _ => false

/-! ### The rows that a pin brings (Table 18-4) -/

/-- What the pins of VIO_H bring: the host's transactions, WAKE_N and the TAP. -/
def atHostRail (c : Instr) : Bool :=
  match c with
  | .push .. | .qpush .. | .pull .. | .qpull .. | .clearStatus .. | .invalidTransportOpcode .. | .wakeNLow | .tapReset | .bypass ..
  | .idcode .. | .samplePreload .. | .extest .. | .highz .. | .clamp .. | .dbgChal .. | .dbgOpen .. | .dbgAccess .. => true
  | _ => false

/-- What the pins of VIO_S bring: the sensor ports, the tachs and the encoder. -/
def atSensorRail (c : Instr) : Bool :=
  match c with
  | .tdmFrameSync .. | .spiPoll .. | .tachEdge .. | .encEdge .. | .spliceMark .. => true
  | _ => false

/-! ### A reference for the CRC (R30) -/

/-- One bit of the division by 0x1EDC6F41, most significant bit first. -/
def crcMsbBit (c : Word32) : Word32 := if c.getLsbD 31 then (c <<< 1) ^^^ 0x1EDC6F41 else c <<< 1

/-- One byte of it, reflected on input. -/
def crcMsbByte (c : Word32) (b : Byte) : Word32 := Nat.repeat crcMsbBit 8 (c ^^^ (b.reverse.setWidth 32 <<< 24))

end Sys2Proof.Rows
end

