-- ==== Sys2Proof/Certificates/Slice0/Obligations.lean ====
section
/-! DEFINITION. What is claimed of the block, for the provers. -/

open Sys2Proof Sys2Proof.Machine

/-- For every command and state, a step with that command at the front of the queue is its meaning on the state with the rest of
the queue. -/
def Obligations.StepTakesFront : Prop :=
  ∀ (c : Instr) (q : List Instr) (s : State), step { s with pending := c :: q } = exec c { s with pending := q }

/-- On an empty queue a step answers a next state in which the tick counter has stayed or gone on by one, and the pages of the NVM
and the record's next sequence number are as they were; a device that is OFF stays as it is. That time passes there is the
model's choice (log entry 3). -/
def Obligations.StepIdle : Prop :=
  ∀ s : State, s.pending = [] → ∃ t, step s = .next t ∧ t.pending = [] ∧ (t.clk.tick = s.clk.tick ∨ t.clk.tick = s.clk.tick + 1)
    ∧ (s.isOn 0 = false → t = s) ∧ t.cairn.nextSeq = s.cairn.nextSeq ∧ t.nvm.pages = s.nvm.pages

/-- At reset nothing waits, the tick counter is 0, the boot ROM runs, Belay is DISARMED with BELAY_OK low, no tag is in flight and
no session exists, debug is closed, the record holds the manufacture entry with SEQ 1 and its pinned copy, and the memories
are in canonical form (that form and the device's age are the model's choice, log entry 1). -/
def Obligations.ResetState : Prop :=
  State.reset.pending = [] ∧ State.reset.clk.tick = 0 ∧ State.reset.boot.phase = .rom ∧ State.reset.bly.phase = .disarmed
    ∧ belayOk State.reset = false ∧ State.reset.link.slots = [] ∧ State.reset.link.out = []
    ∧ (∀ o, (State.reset.session o).phase = .none) ∧ State.reset.own.debugOpen = false ∧ State.reset.cairn.nextSeq = 2
    ∧ cell State.reset 0 = cell State.reset 256 ∧ (cell State.reset 256).take 4 = [1, 0, 0, 0] ∧ MemoryWf State.reset

/-- Every command and event answers a next state in every state; the one stop is DBG_ACCESS while debug is open, whose access the
spec gives no format (log entry 80). -/
def Obligations.OnlyDebugRefuses : Prop :=
  ∀ (c : Instr) (s : State), (∃ t, exec c s = .next t)
    ∨ ∃ tdi, c = .dbgAccess tdi ∧ tapUp s = true ∧ s.own.debugOpen = true ∧ exec c s = .refused .debugAccess

/-- Each of these commands, once taken up with the rights of its class and under the conditions its row states, completes with the
effect its row states: the whole next state, and so all it leaves unchanged. -/
def Obligations.PortCommandsComplete : Prop :=
  ∀ r ∈ Rows.portRows, r.Completes

/-- Each of these commands, once taken up with the rights of its class and under the conditions its row states, completes with the
effect its row states: the whole next state, and so all it leaves unchanged. -/
def Obligations.AnchorCommandsComplete : Prop :=
  ∀ r ∈ Rows.anchorRows, r.Completes

/-- Each of these commands, once taken up with the rights of its class and under the conditions its row states, completes with the
effect its row states: the whole next state, and so all it leaves unchanged. -/
def Obligations.FirmwareCommandsComplete : Prop :=
  ∀ r ∈ Rows.firmwareRows, r.Completes

/-- Each of these commands, once taken up with the rights of its class and under the conditions its row states, completes with the
effect its row states: the whole next state, and so all it leaves unchanged. -/
def Obligations.OwnerCommandsComplete : Prop :=
  ∀ r ∈ Rows.ownerRows, r.Completes

/-- Each of these commands, once taken up with the rights of its class and under the conditions its row states, completes with the
effect its row states: the whole next state, and so all it leaves unchanged. -/
def Obligations.FrontEndCommandsComplete : Prop :=
  ∀ r ∈ Rows.frontEndRows, r.Completes

/-- Each of these commands, once taken up with the rights of its class and under the conditions its row states, completes with the
effect its row states: the whole next state, and so all it leaves unchanged. -/
def Obligations.StreamCommandsComplete : Prop :=
  ∀ r ∈ Rows.streamRows, r.Completes

/-- Each of these commands, once taken up with the rights of its class and under the conditions its row states, completes with the
effect its row states: the whole next state, and so all it leaves unchanged. -/
def Obligations.FeatureCommandsComplete : Prop :=
  ∀ r ∈ Rows.featureRows, r.Completes

/-- Each of these commands, once taken up with the rights of its class and under the conditions its row states, completes with the
effect its row states: the whole next state, and so all it leaves unchanged. -/
def Obligations.ModelCommandsComplete : Prop :=
  ∀ r ∈ Rows.modelRows, r.Completes

/-- Each of these commands, once taken up with the rights of its class and under the conditions its row states, completes with the
effect its row states: the whole next state, and so all it leaves unchanged. -/
def Obligations.ManagerCommandsComplete : Prop :=
  ∀ r ∈ Rows.managerRows, r.Completes

/-- Each of these commands, once taken up with the rights of its class and under the conditions its row states, completes with the
effect its row states: the whole next state, and so all it leaves unchanged. -/
def Obligations.HeadCommandsComplete : Prop :=
  ∀ r ∈ Rows.headRows, r.Completes

/-- Each of these commands, once taken up with the rights of its class and under the conditions its row states, completes with the
effect its row states: the whole next state, and so all it leaves unchanged. -/
def Obligations.BelayCommandsComplete : Prop :=
  ∀ r ∈ Rows.belayRows, r.Completes

/-- Each of these commands, once taken up with the rights of its class and under the conditions its row states, completes with the
effect its row states: the whole next state, and so all it leaves unchanged. -/
def Obligations.RopeCommandsComplete : Prop :=
  ∀ r ∈ Rows.ropeRows, r.Completes

/-- Each of these commands, once taken up with the rights of its class and under the conditions its row states, completes with the
effect its row states: the whole next state, and so all it leaves unchanged. -/
def Obligations.RecordCommandsComplete : Prop :=
  ∀ r ∈ Rows.recordRows, r.Completes

/-- Each of these commands, once taken up with the rights of its class and under the conditions its row states, completes with the
effect its row states: the whole next state, and so all it leaves unchanged. -/
def Obligations.CoreCommandsComplete : Prop :=
  ∀ r ∈ Rows.coreRows, r.Completes

/-- Each of these events, under the condition its row states, completes with the effect its row states: the whole next state, and
so all it leaves unchanged. -/
def Obligations.PortEventsComplete : Prop :=
  (∀ (via : Transport) (held : Nat) (b : Bytes), (Rows.push via held b).Completes)
    ∧ (∀ (held : Nat) (b : Bytes), (Rows.qpush held b).Completes)
    ∧ (∀ (via : Transport) (held : Nat) (b : Bytes), (Rows.pushOverrun via held b).Completes)
    ∧ (∀ (via : Transport) (held : Nat) (b : Bytes), (Rows.pushNoSync via held b).Completes)
    ∧ (∀ (via : Transport) (clocked : Nat), (Rows.pull via clocked).Completes)
    ∧ (∀ (clocked : Nat), (Rows.qpull clocked).Completes)
    ∧ (∀ (via : Transport) (clocked : Nat), (Rows.pullShort via clocked).Completes)
    ∧ (∀ (via : Transport) (clocked : Nat), (Rows.pullNothing via clocked).Completes)
    ∧ (∀ (via : Transport) (mask : Byte), (Rows.clearStatus via mask).Completes)
    ∧ (∀ (op : Byte), (Rows.invalidTransportOpcode op).Completes)
    ∧ (∀ (via : Transport), (Rows.linkStatusRead via).Completes)
    ∧ (∀ (tag : Tag), (Rows.fragmentTimeout tag).Completes)
    ∧ (∀ (slot : BitVec 2), (Rows.sessionIdleTimeout slot).Completes)

/-- Each of these events, under the condition its row states, completes with the effect its row states: the whole next state, and
so all it leaves unchanged. -/
def Obligations.ClockEventsComplete : Prop :=
  (∀ (edges : Nat), (Rows.xo32QualifyInterval edges).Completes)
    ∧ Rows.xo32EdgeLoss.Completes
    ∧ Rows.xo32Absent.Completes
    ∧ Rows.xo32Retry.Completes
    ∧ (∀ (us : Nat), (Rows.xo24Qualified us).Completes)
    ∧ Rows.xo24SecondTry.Completes
    ∧ Rows.xo24Fails.Completes
    ∧ Rows.xo24Retry.Completes
    ∧ Rows.xo24Stopped.Completes
    ∧ (∀ (pll : BitVec 2), (Rows.pllLocked pll).Completes)
    ∧ (∀ (pll : BitVec 2), (Rows.pllLockLoss pll).Completes)

/-- Each of these events, under the condition its row states, completes with the effect its row states: the whole next state, and
so all it leaves unchanged. -/
def Obligations.DomainEventsComplete : Prop :=
  (∀ (us va30 : Nat) (milli : Int), (Rows.domainSwitchDone us va30 milli).Completes)
    ∧ (∀ (domain : BitVec 5), (Rows.domainIdleRelease domain).Completes)
    ∧ Rows.va30OutOfRegulation.Completes
    ∧ Rows.va30InRegulation.Completes
    ∧ (∀ (sensor inRange : Bool), (Rows.ioRailRangeChange sensor inRange).Completes)
    ∧ Rows.vcoreBuckInRegulation.Completes
    ∧ (∀ (mv : BitVec 16), (Rows.vholdThreshold mv).Completes)
    ∧ Rows.holdupHoldEnd.Completes

/-- Each of these events, under the condition its row states, completes with the effect its row states: the whole next state, and
so all it leaves unchanged. -/
def Obligations.SleepEventsComplete : Prop :=
  Rows.sleepEntryStart.Completes
    ∧ Rows.autoSleepDwellExpiry.Completes
    ∧ (∀ (us : Nat), (Rows.sleepEntryComplete us).Completes)
    ∧ Rows.wakeNLow.Completes
    ∧ Rows.tickAlarmFire.Completes
    ∧ (∀ (channel : BitVec 5) (samples : List Int), (Rows.watchThresholdFire channel samples).Completes)
    ∧ Rows.ropeSquelchWake.Completes
    ∧ Rows.wakeComplete.Completes

/-- Each of these events, under the condition its row states, completes with the effect its row states: the whole next state, and
so all it leaves unchanged. -/
def Obligations.ResetEventsComplete : Prop :=
  (∀ (cores : Vector Int 8) (engine anchor : Int), (Rows.governorSample cores engine anchor).Completes)
    ∧ (∀ (cores : Vector Int 8) (engine anchor : Int), (Rows.governorInReset cores engine anchor).Completes)
    ∧ (∀ (anchor : Int), (Rows.anchorTempSample anchor).Completes)
    ∧ Rows.resetReplyTimeout.Completes
    ∧ Rows.resetPinAssert.Completes
    ∧ Rows.resetPinRelease.Completes
    ∧ Rows.brownoutRelease.Completes
    ∧ Rows.thermalResetRelease.Completes
    ∧ Rows.resetTakeEffect.Completes
    ∧ (∀ (slow : Bool), (Rows.powerOnReset slow).Completes)
    ∧ (∀ (programs : List (Nat × Nat)), (Rows.brownoutDetect programs).Completes)
    ∧ Rows.powerOff.Completes
    ∧ Rows.watchdogExpiry.Completes
    ∧ (∀ (code : Word32), (Rows.controlCoreException code).Completes)
    ∧ Rows.firmwareRestartDone.Completes

/-- Each of these events, under the condition its row states, completes with the effect its row states: the whole next state, and
so all it leaves unchanged. -/
def Obligations.BootEventsComplete : Prop :=
  (∀ (straps : BitVec 4) (programs : Vector (Nat × Nat) 4), (Rows.bootRomStart straps programs).Completes)
    ∧ Rows.erasePendingComplete.Completes
    ∧ Rows.authComplete.Completes
    ∧ Rows.deviceReady.Completes
    ∧ Rows.bootGuardExpiry.Completes

/-- Each of these events, under the condition its row states, completes with the effect its row states: the whole next state, and
so all it leaves unchanged. -/
def Obligations.SenseEventsComplete : Prop :=
  (∀ (d : BitVec 3), (Rows.excLimitEngaged d).Completes)
    ∧ (∀ (d : BitVec 3), (Rows.excLimitReleased d).Completes)
    ∧ (∀ (picovolts : Nat), (Rows.leadMeasureDone picovolts).Completes)
    ∧ Rows.streamStartInstant.Completes
    ∧ (∀ (stream : BitVec 7), (Rows.frameStart stream).Completes)
    ∧ (∀ (d : BitVec 3), (Rows.driverSettleDone d).Completes)
    ∧ (∀ (stream : BitVec 7) (picovolts : Int) (drive sense : Nat) (overload : Bool), (Rows.sampleArrival stream picovolts drive sense overload).Completes)
    ∧ (∀ (stream : BitVec 7) (rest : Bool), (Rows.fabricTransaction stream rest).Completes)
    ∧ (∀ (channel : BitVec 5) (raws : List Int) (step lead drive sense : Nat), (Rows.calBurstComplete channel raws step lead drive sense).Completes)
    ∧ (∀ (channel : BitVec 5) (raws : List Int) (step lead drive sense : Nat), (Rows.calRunComplete channel raws step lead drive sense).Completes)

/-- Each of these events, under the condition its row states, completes with the effect its row states: the whole next state, and
so all it leaves unchanged. -/
def Obligations.FrameEventsComplete : Prop :=
  (∀ (stream : BitVec 7), (Rows.frameClose stream).Completes)
    ∧ (∀ (port : BitVec 2) (rising : Bool) (onRise onFall : List Bool) (hz : Nat), (Rows.tdmFrameSync port rising onRise onFall hz).Completes)
    ∧ (∀ (port : BitVec 2) (rising : Bool) (onRise onFall : List Bool) (hz : Nat), (Rows.tdmFrameRegained port rising onRise onFall hz).Completes)
    ∧ (∀ (port : BitVec 2), (Rows.sportLost port).Completes)
    ∧ (∀ (port : BitVec 2) (sensor : Nat) (reply : Bytes), (Rows.spiPoll port sensor reply).Completes)
    ∧ (∀ (a b : Bool) (held ns : Nat), (Rows.encEdge a b held ns).Completes)
    ∧ (∀ (high : Bool) (held : Nat), (Rows.spliceMarked high held).Completes)
    ∧ Rows.encIdle.Completes
    ∧ Rows.encoderSlip.Completes
    ∧ Rows.encoderRestored.Completes
    ∧ (∀ (pair : BitVec 4), (Rows.pairPartnerTimeout pair).Completes)
    ∧ Rows.featureFrameTake.Completes
    ∧ Rows.featureFrameWaits.Completes

/-- Each of these events, under the condition its row states, completes with the effect its row states: the whole next state, and
so all it leaves unchanged. -/
def Obligations.BelayEventsComplete : Prop :=
  (∀ (tach : BitVec 2) (rising : Bool) (held ns : Nat), (Rows.tachEdge tach rising held ns).Completes)
    ∧ (∀ (tach : BitVec 2), (Rows.tachIdle tach).Completes)
    ∧ Rows.assetUpdate.Completes
    ∧ Rows.confirmWindowEnd.Completes
    ∧ Rows.coastTimerEnd.Completes
    ∧ Rows.stopDwellEnd.Completes
    ∧ Rows.motionDwellEnd.Completes
    ∧ Rows.rearmTimerEnd.Completes
    ∧ Rows.startGuardEnd.Completes

/-- Each of these events, under the condition its row states, completes with the effect its row states: the whole next state, and
so all it leaves unchanged. -/
def Obligations.TapEventsComplete : Prop :=
  Rows.tapReset.Completes
    ∧ (∀ (opcode : BitVec 5) (tdi : List Bool), (Rows.bypass opcode tdi).Completes)
    ∧ (∀ (tdi : List Bool), (Rows.idcode tdi).Completes)
    ∧ (∀ (pins tdi : List Bool), (Rows.samplePreload pins tdi).Completes)
    ∧ (∀ (pins tdi : List Bool), (Rows.extest pins tdi).Completes)
    ∧ (∀ (pins tdi : List Bool), (Rows.highz pins tdi).Completes)
    ∧ (∀ (pins tdi : List Bool), (Rows.clamp pins tdi).Completes)
    ∧ (∀ (tdi : List Bool), (Rows.dbgChal tdi).Completes)
    ∧ (∀ (tdi : List Bool), (Rows.dbgOpen tdi).Completes)
    ∧ (∀ (tdi : List Bool), (Rows.dbgAccess tdi).Completes)

/-- Each of these events, under the condition its row states, completes with the effect its row states: the whole next state, and
so all it leaves unchanged. -/
def Obligations.WorkEventsComplete : Prop :=
  Rows.featureQueueRoute.Completes
    ∧ Rows.jobStartPitch.Completes
    ∧ Rows.jobStart.Completes
    ∧ Rows.jobNotStarted.Completes
    ∧ Rows.layerDispatch.Completes
    ∧ (∀ (core : BitVec 3), (Rows.cimPassParity core).Completes)
    ∧ (∀ (core : BitVec 3), (Rows.cimPassDone core).Completes)
    ∧ Rows.streamLayerDone.Completes
    ∧ Rows.vectorLayerDone.Completes
    ∧ Rows.protoForwardDone.Completes
    ∧ (∀ (slot : BitVec 3), (Rows.modelVerifyDone slot).Completes)

/-- Each of these events, under the condition its row states, completes with the effect its row states: the whole next state, and
so all it leaves unchanged. -/
def Obligations.HeadEventsComplete : Prop :=
  (∀ (head : BitVec 2), (Rows.learningStep head).Completes)
    ∧ (∀ (head : BitVec 2), (Rows.learningWaits head).Completes)
    ∧ (∀ (head : BitVec 2), (Rows.rewardUpdate head).Completes)
    ∧ (∀ (head : BitVec 2), (Rows.settlePeriodEnd head).Completes)
    ∧ (∀ (head : BitVec 2), (Rows.holdoffPeriodEnd head).Completes)
    ∧ (∀ (head : BitVec 2), (Rows.headSaveCommit head).Completes)
    ∧ (∀ (head : BitVec 2), (Rows.consolidationInForce head).Completes)
    ∧ (∀ (head : BitVec 2), (Rows.headLoadDone head).Completes)
    ∧ (∀ (head : BitVec 2), (Rows.headLoadFails head).Completes)

/-- Each of these events, under the condition its row states, completes with the effect its row states: the whole next state, and
so all it leaves unchanged. -/
def Obligations.CoreEventsComplete : Prop :=
  (∀ (array : BitVec 6) (stuck : List (BitVec 8)) (residual : Nat) (outside : Bool) (bad : Nat), (Rows.arrayWriteDone array stuck residual outside bad).Completes)
    ∧ (∀ (core : BitVec 3) (residual : Nat) (outside : Bool) (bad : List (BitVec 3)), (Rows.recalibration core residual outside bad).Completes)
    ∧ (∀ (core : BitVec 3) (ok : Bool), (Rows.quickSelftest core ok).Completes)
    ∧ (∀ (core : BitVec 3) (quickOk otherOk : Bool) (failing : List (BitVec 3 × Nat)), (Rows.fullSelftest core quickOk otherOk failing).Completes)
    ∧ (∀ (array : BitVec 6), (Rows.clipWindowEnd array).Completes)
    ∧ Rows.wearHourlyAccrual.Completes
    ∧ Rows.wearDayBoundary.Completes

/-- Each of these events, under the condition its row states, completes with the effect its row states: the whole next state, and
so all it leaves unchanged. -/
def Obligations.StoreEventsComplete : Prop :=
  Rows.nvmTakesCommit.Completes
    ∧ Rows.nvmTakesPosted.Completes
    ∧ Rows.nvmTakesErase.Completes
    ∧ (∀ (bad us : Nat), (Rows.nvmProgramDone bad us).Completes)
    ∧ (∀ (us : Nat), (Rows.nvmEraseDone us).Completes)
    ∧ (∀ (sector us : Nat), (Rows.nvmBackgroundEraseDone sector us).Completes)
    ∧ (∀ (programs : Vector (Nat × Nat) 6), (Rows.cairnCommit programs).Completes)
    ∧ (∀ (relay : BitVec 16), (Rows.remoteReadTimeout relay).Completes)
    ∧ Rows.fwImageVerified.Completes
    ∧ (∀ (repetition : Bool), (Rows.trngHealthFail repetition).Completes)
    ∧ Rows.trngRetry.Completes
    ∧ Rows.debugChallengeExpiry.Completes

/-- Each of these events, under the condition its row states, completes with the effect its row states: the whole next state, and
so all it leaves unchanged. -/
def Obligations.LinkEventsComplete : Prop :=
  (∀ (r : RopeRx) (deviceId : Word64) (bootCount : Word32) (index : Byte) (lanes : BitVec 2) (credits : Vector (BitVec 16) 4), (Rows.train r deviceId bootCount index lanes credits).Completes)
    ∧ (∀ (r : RopeRx) (lanes : BitVec 2), (Rows.trainAck r lanes).Completes)
    ∧ (∀ (port : BitVec 1), (Rows.trainingNextAttempt port).Completes)
    ∧ (∀ (port : BitVec 1), (Rows.trainingFails port).Completes)
    ∧ (∀ (port lane : BitVec 1), (Rows.codeGroupSyncAcquired port lane).Completes)
    ∧ (∀ (port lane : BitVec 1), (Rows.laneSyncLoss port lane).Completes)
    ∧ (∀ (port : BitVec 1), (Rows.squelchSilence port).Completes)
    ∧ (∀ (port : BitVec 1), (Rows.wakeBurstTimeout port).Completes)
    ∧ Rows.enumStart.Completes
    ∧ Rows.noEnumTimeout.Completes
    ∧ Rows.heartbeatSend.Completes
    ∧ Rows.heartbeatLoss.Completes
    ∧ (∀ (slot : BitVec 3), (Rows.circulationRoundStart slot).Completes)

/-- Each of these events, under the condition its row states, completes with the effect its row states: the whole next state, and
so all it leaves unchanged. -/
def Obligations.RopeFramesComplete : Prop :=
  (∀ (r : RopeRx) (index : Nat) (headId : Word64) (ids : List Word64), (Rows.enum r index headId ids).Completes)
    ∧ (∀ (r : RopeRx) (count : Nat) (ids : List Word64), (Rows.enumEnd r count ids).Completes)
    ∧ (∀ (r : RopeRx) (gen : Byte) (kind : Topo) (count : Nat) (lost : Word64) (ids : List Word64), (Rows.topology r gen kind count lost ids).Completes)
    ∧ (∀ (r : RopeRx), (Rows.headConflict r).Completes)
    ∧ (∀ (r : RopeRx) (gen : Byte), (Rows.heartbeat r gen).Completes)
    ∧ (∀ (r : RopeRx) (port : BitVec 1) (chip : Byte), (Rows.linkLostHeard r port chip).Completes)
    ∧ (∀ (r : RopeRx) (port : BitVec 1), (Rows.join r port).Completes)
    ∧ (∀ (r : RopeRx), (Rows.sleep r).Completes)
    ∧ (∀ (r : RopeRx), (Rows.detach r).Completes)
    ∧ (∀ (r : RopeRx) (slot : BitVec 3) (number : Word32), (Rows.round r slot number).Completes)
    ∧ (∀ (r : RopeRx) (slot : BitVec 3) (number : Word32) (waiting : BitVec 16), (Rows.roundDone r slot number waiting).Completes)
    ∧ (∀ (r : RopeRx) (slot : BitVec 3), (Rows.roundAbort r slot).Completes)
    ∧ (∀ (r : RopeRx) (slot : BitVec 3) (bytes : Word32), (Rows.retire r slot bytes).Completes)
    ∧ (∀ (r : RopeRx) (slot : BitVec 3) (layer : Byte) (frames : BitVec 16), (Rows.landGrant r slot layer frames).Completes)
    ∧ (∀ (r : RopeRx) (slot : BitVec 3) (layer : Byte) (ref : BitVec 16) (offset : Nat) (data gcmTag : Bytes), (Rows.act r slot layer ref offset data gcmTag).Completes)
    ∧ (∀ (r : RopeRx) (slot : BitVec 3) (layer shard roundLow : Byte) (offset : Nat) (data gcmTag : Bytes), (Rows.wstream r slot layer shard roundLow offset data gcmTag).Completes)
    ∧ (∀ (r : RopeRx) (relay : BitVec 16) (reply more : Bool) (payload : Bytes), (Rows.cmd r relay reply more payload).Completes)
    ∧ (∀ (r : RopeRx) (relay : BitVec 16) (reply more : Bool) (payload : Bytes), (Rows.cairnFrame r relay reply more payload).Completes)
    ∧ (∀ (port : BitVec 1) (ack : BitVec 12) (nak : Bool) (credits : Vector (BitVec 16) 4), (Rows.credit port ack nak credits).Completes)
    ∧ (∀ (port : BitVec 1) (ack : BitVec 12) (nak : Bool) (credits : Vector (BitVec 16) 4), (Rows.creditBad port ack nak credits).Completes)
    ∧ (∀ (port : BitVec 1), (Rows.ackTimer port).Completes)

/-- A pushed packet larger than the receive space (behind `held` bytes of earlier packets; none while the port is closed) changes
nothing but DISCARD and OVERRUNS, once an automatic sleep entry is abandoned for it: no reply, no reject notice. -/
def Obligations.ReceiveOverrun : Prop :=
  ∀ (via : Transport) (held : Nat) (b : Bytes) (s : State), hears via s = true →
    let u := if s.pwr.entry.any (·.automatic) then abandonSleep 0x03 s else s
    (if u.link.closed then 0 else 16384 - min held 16384) < pushSize via b →
    let t := { u with link := { u.link with
      rxHeld := min held 16384, discard := true, counters := { u.link.counters with overruns := satInc u.link.counters.overruns } } }
    exec (.push via held b) s = .next t ∧ (via = .spi → exec (.qpush held b) s = .next t) ∧ t.link.out = u.link.out

/-- While the port is powered and its rail in range, IRQ_N is asserted exactly while an enabled cause is set; CLEAR_STATUS clears
the causes of bits 3 to 7 that its mask names, and bits 0 to 2 ignore it. -/
def Obligations.InterruptLine : Prop :=
  (∀ s : State, s.isOn 2 = true → s.pwr.vioHOk = true →
      (irqAsserted s = true ↔ ∃ i : Nat, (irqCause s).getLsbD i = true ∧ s.link.irqMask.getLsbD i = true))
    ∧ ∀ (via : Transport) (mask : Byte) (s : State), hears via s = true → ∃ t, exec (.clearStatus via mask) s = .next t
      ∧ (∀ i : Nat, 3 ≤ i → (irqCause t).getLsbD i = ((irqCause s).getLsbD i && !mask.getLsbD i))
      ∧ ∀ i : Nat, i < 3 → (irqCause t).getLsbD i = (irqCause s).getLsbD i

/-- The CRC is division by 0x1EDC6F41 with reflected input and output, initial value and final XOR all ones; its check value is
0xE3069283; every packet that leaves ends with it, little-endian. -/
def Obligations.PacketCrc : Prop :=
  (∀ b : Bytes, crc32c b = (b.foldl Rows.crcMsbByte 0xFFFFFFFF).reverse ^^^ 0xFFFFFFFF)
    ∧ crc32c [0x31, 0x32, 0x33, 0x34, 0x35, 0x36, 0x37, 0x38, 0x39] = 0xE3069283
    ∧ ∀ (o : Outbound) (s : State), ∃ b, (leave o s).1 = b ++ le 4 (crc32c b).toNat

/-- For every row that is a command: taken up without the rights of its class it receives NOT_OWNER and has no other effect. On a
device whose four owner slots are unprovisioned, Site and Any commands are allowed non-secure, and a Bound one never. -/
def Obligations.RightsRefused : Prop :=
  (∀ r ∈ Rows.commandRows, ∀ (h : Hdr) (p : Bytes) (s : State), Taken h s → (r.rights h p s).allow h s = false →
      exec (r.command h p) s = .next (replies r.opcode h stNotOwner [] s))
    ∧ ∀ (h : Hdr) (s : State) (o : Option (BitVec 2)), unprovisioned s = true → h.secure = false →
      Rights.anyone.allow h s = true ∧ Rights.site.allow h s = true ∧ Rights.anyOwner.allow h s = true ∧ (Rights.bound o).allow h s = false

/-- Pulling a reply of more than 4068 bytes sends its first 4068 with MORE set, the command's tag and its status, and only then is
the rest pending, its tag still in flight; a pull that stops short leaves the queue as it was. The last fragment has MORE
clear and frees the tag. -/
def Obligations.LongReply : Prop :=
  ∀ (via : Transport) (clocked : Nat) (s : State) (r : Reply) (rest : List Outbound), hears via s = true →
    s.link.out = .reply r :: rest → r.status ≠ 0x01 → (r.secure = true → keyed s r = true) →
    (4068 < r.payload.length → 4092 ≤ clocked → ∃ t, exec (.pull via clocked) s = .next t
      ∧ fld t.link.driven 2 2 = 4068 ∧ bit (fld t.link.driven 1 1) 4 = true
      ∧ fld t.link.driven 5 1 = 64 + r.tag.toNat % 64 ∧ fld t.link.driven 6 1 = r.status.toNat
      ∧ .reply { r with payload := r.payload.drop 4068 } ∈ t.link.out ∧ t.link.slots = s.link.slots)
    ∧ (4068 < r.payload.length → clocked < 4080 → ∃ t, exec (.pull via clocked) s = .next t ∧ t.link.out = s.link.out)
    ∧ (r.payload.length ≤ 4068 → 4092 ≤ clocked → ∃ t, exec (.pull via clocked) s = .next t
      ∧ fld t.link.driven 2 2 = r.payload.length ∧ bit (fld t.link.driven 1 1) 4 = false
      ∧ fld t.link.driven 5 1 = 64 + r.tag.toNat % 64 ∧ fld t.link.driven 6 1 = r.status.toNat ∧ t.slot? r.tag = none)

/-- An ABORT whose target was issued in another session, or secure where it is not, receives NOT_OWNER; with the target's rights
it is judged on the target, and comes too late for one past its commit mark. -/
def Obligations.AbortRights : Prop :=
  ∀ (h : Hdr) (p : Bytes) (s : State) (c : Slot), Taken h s → p.length = 1 → fld p 0 1 < 64 →
    s.slot? (BitVec.ofNat 13 (h.tag.toNat / 64 * 64 + fld p 0 1)) = some c → BitVec.ofNat 13 (h.tag.toNat / 64 * 64 + fld p 0 1) ≠ h.tag →
    (¬ (c.secure = h.secure ∧ (h.secure = true → c.owner = h.owner ∧ c.named = (s.session h.owner).id)) →
      exec (.abort h p) s = .next (finish h.tag stNotOwner [] (commitMark h.tag (entered 0x0E h s))))
    ∧ (c.secure = h.secure ∧ (h.secure = true → c.owner = h.owner ∧ c.named = (s.session h.owner).id) →
      c.committed = true ∨ c.replied = true →
      exec (.abort h p) s = .next (finish h.tag stTooLate [] (commitMark h.tag (entered 0x0E h s))))

/-- The packet a pulled event leaves in: sealed under the session of the owner it concerns; without a live session non-secure,
with that owner in OWNER and the timestamp alone; non-secure where it concerns no owner. -/
def Obligations.OwnerEvents : Prop :=
  ∀ (via : Transport) (clocked : Nat) (s : State) (e : Event) (rest : List Outbound), hears via s = true →
    s.link.out = .event e :: rest → e.body.length + 36 ≤ clocked → ∃ t, exec (.pull via clocked) s = .next t ∧ t.link.driven = fixed clocked
      (match e.owner with
       | none => plainPacket 1 e.code (if e.high then 0xC1 else 0xC0) 0 s.link.eventSeq (le 8 e.time.toNat ++ e.body)
       | some o =>
         if (s.session o).phase = .live then (sealedPacket o false e.code (if e.high then 0xC1 else 0xC0) 0 (le 8 e.time.toNat ++ e.body) s).1
         else plainPacket (1 + 32 * o.toNat) e.code (if e.high then 0xC1 else 0xC0) 0 s.link.eventSeq (le 8 e.time.toNat))

/-- Where the shaft's speed has stayed above STOP_SPEED for its dwell in STOPPED, BELAY_MOTION is raised with the speed and MOTION
is latched; Belay stays STOPPED and BELAY_OK low. -/
def Obligations.BeltMoves : Prop :=
  ∀ s : State, s.bly.phase = .stopped → s.bly.dwell = true → (coastTach s).isSome = true → belayRuns s = true →
    let moving := { s with bly := { s.bly with dwell := false, slow := false, latched := s.bly.latched ||| 0x0100#16 } }
    let t := lookBelay (raise 0x83 true (le 4 (coastSpeed s)) moving)
    exec .motionDwellEnd s = .next t ∧ t.bly.phase = .stopped ∧ belayOk t = false ∧ t.bly.latched.getLsbD 8 = true

/-- A declared stop is accepted only in TRIPPED or COASTING once BELAY_NO_DECEL has been raised for the trip: Belay is STOPPED,
and the Cairn entry says that it was declared. In every other case it receives STATE_ERROR and has no effect. -/
def Obligations.DeclaredStop : Prop :=
  ∀ (h : Hdr) (p : Bytes) (s : State), Taken h s → Rights.site.allow h s = true → p.length = 4 → fld p 1 3 = 0 →
    ((s.bly.phase = .tripped ∨ s.bly.phase = .coasting) ∧ s.bly.noDecel = true →
      ∃ t, exec (.belayDeclareStop h p) s = .next t ∧ t.bly.phase = .stopped
        ∧ (s.pwr.retention = false → s.cairn.queue.length < 30 →
            ∃ e ∈ t.cairn.queue, e.type = 0x8001 ∧ e.payload.getD 0 0 = 0x05 ∧ e.payload.getD 3 0 = 1))
    ∧ (¬ ((s.bly.phase = .tripped ∨ s.bly.phase = .coasting) ∧ s.bly.noDecel = true) →
      exec (.belayDeclareStop h p) s = .next (replies 0x87 h stState [] s))

/-- While all four slots are unprovisioned, no slot but 0 is provisioned; slots 1 to 3 are provisioned from a session of slot 0
alone; slot 0 is not removed while another is provisioned: otherwise the owners' state is unchanged. -/
def Obligations.OwnerOrder : Prop :=
  ∀ (h : Hdr) (p : Bytes) (s : State), Taken h s →
    (fld p 0 1 ≠ 0 → unprovisioned s = true ∨ h.secure = false ∨ h.owner ≠ 0 →
      ∃ t, exec (.ownerProvision h p) s = .next t ∧ t.own = s.own)
    ∧ (fld p 0 1 = 0 → (∃ k ∈ [1, 2, 3], (s.ownerSlot k).provisioned = true) →
      ∃ t, exec (.ownerRemove h p) s = .next t ∧ t.own = s.own)

/-- The circular entry of a sequence number lies at position 256 + ((s − 1) mod 3840); OLDEST_SEQ is NEXT_SEQ − 3840 once NEXT_SEQ
exceeds 3841, and 1 before. -/
def Obligations.RecordPositions : Prop :=
  (∀ seq : Nat, cairnPosition seq = 256 + (seq - 1) % 3840)
    ∧ ∀ s : State, (3841 < s.cairn.nextSeq.toNat → oldest s = s.cairn.nextSeq.toNat - 3840)
      ∧ (s.cairn.nextSeq.toNat ≤ 3841 → oldest s = 1)

/-- With fewer than 16 marks of its SOURCE in the last 3600 s of ticks, CAIRN_MARK counts, and enters its entry where the record's
queue has a position for it; with 16 it receives NO_RESOURCE and has no effect. -/
def Obligations.MarkLimit : Prop :=
  ∀ (h : Hdr) (p : Bytes) (s : State), Taken h s → Rights.anyOwner.allow h s = true → p.length = 32 →
    ((Rows.recentMarks s).countP (fun m => m.1 == Rows.markSource h) < 16 → ∃ t, exec (.cairnMark h p) s = .next t
      ∧ t.cairn.marks = Rows.recentMarks s ++ [(Rows.markSource h, s.clk.tick)]
      ∧ (s.pwr.retention = false → s.cairn.queue.length < 32 → t.cairn.queue.map (·.payload) = s.cairn.queue.map (·.payload) ++ [p]))
    ∧ (16 ≤ (Rows.recentMarks s).countP (fun m => m.1 == Rows.markSource h) →
      exec (.cairnMark h p) s = .next (replies 0xB3 h stNoResource [] s))

/-- For every row that is a command: a tag in flight gets a TAG_BUSY notice, counted; outside READY the reply is BOOTING, in
FAILED IMAGE_INVALID but for the opcodes that phase serves, without a live session SESSION_EXPIRED, and where the packet does
not verify AUTH_FAILED, counted; nothing else changes. -/
def Obligations.TurnedAway : Prop :=
  ∀ r ∈ Rows.commandRows, ∀ (h : Hdr) (p : Bytes) (s : State),
    (hostTag h.tag = true → hears h.via s = true ∧ s.pwr.entry.any (·.automatic) = false) → s.link.closed = false →
    let heard := s.mapLink fun l => { l with bound := if hostTag h.tag then some h.via else l.bound }
    let begun := reserve r.opcode h heard
    (∀ c, s.slot? h.tag = some c → c.ready = false → exec (r.command h p) s = .next
        (notice { opcode := r.opcode, tag := h.tag, status := stTagBusy, seq := h.seq }
          (heard.mapLink fun l => { l with counters := { l.counters with tagBusyRejects := satInc l.counters.tagBusyRejects } })))
    ∧ (s.slot? h.tag = none →
      (s.boot.phase ≠ .ready → s.boot.phase ≠ .failed → exec (r.command h p) s = .next (refusePlain h.tag stBooting begun))
      ∧ (s.boot.phase = .failed → h.secure = true ∨ r.opcode ∉ failedServes →
          exec (r.command h p) s = .next (refusePlain h.tag stImage begun))
      ∧ (s.boot.phase = .ready → h.secure = true → (s.session h.owner).phase ≠ .live →
          exec (r.command h p) s = .next (refusePlain h.tag stExpired begun))
      ∧ (s.boot.phase = .ready → h.secure = true → (s.session h.owner).phase = .live →
          (h.authentic = false ∨ h.seq ≠ BitVec.ofNat 8 (s.session h.owner).rx) → exec (r.command h p) s = .next
            (refusePlain h.tag stAuth (begun.mapLink fun l =>
              { l with counters := { l.counters with authRejects := satInc l.counters.authRejects } }))))

/-- While Belay is in HOLD, TRIPPED or COASTING, a command for a lower power state receives STATE_ERROR and has no effect. -/
def Obligations.SleepRefused : Prop :=
  ∀ r ∈ [Rows.powerStateSetBivouac, Rows.powerStateSetWatch], ∀ (h : Hdr) (p : Bytes) (s : State), Taken h s →
    Rights.site.allow h s = true → p.length = 4 → fld p 0 4 < 512 →
    s.bly.phase = .hold ∨ s.bly.phase = .tripped ∨ s.bly.phase = .coasting →
    exec (r.command h p) s = .next (replies 0x11 h stState [] s)

/-- On a chip strapped Solo every Rope command that some Ridge chip would execute receives STATE_ERROR and has no effect. -/
def Obligations.SoloHasNoRope : Prop :=
  ∀ r ∈ Rows.ropeRows, ∀ (h : Hdr) (p : Bytes) (s : State), Taken h s → (r.rights h p s).allow h s = true → isRidge s = false →
    (∃ u, isRidge u = true ∧ r.ready h p u) → exec (r.command h p) s = .next (replies r.opcode h stState [] s)

/-- Each of these commands, once taken up, changes beside the host port (and the high levels of the queues) only the parts of the
state listed with it, whether it completes or is refused; a command that only reads changes none. -/
def Obligations.CommandFrames : Prop :=
  ∀ x ∈ Rows.commandParts, x.2.length ≤ 5 → ∀ (h : Hdr) (p : Bytes) (s t : State), Taken h s →
    exec (x.1.command h p) s = .next t → Keeps x.2 s t

/-- Each of these events changes beside the host port (and the high levels of the queues) only the parts of the state listed with
it, in every state. -/
def Obligations.EventFrames : Prop :=
  ∀ (c : Instr) (parts : List Part), Rows.eventParts c = some parts → parts.length ≤ 5 → ∀ s t : State, exec c s = .next t → Keeps parts s t

/-- The commands and events that may change more than five parts of the state leave the others unchanged. -/
def Obligations.WideFrames : Prop :=
  (∀ x ∈ Rows.commandParts, 5 < x.2.length → ∀ (h : Hdr) (p : Bytes) (s t : State), Taken h s →
      exec (x.1.command h p) s = .next t → Keeps x.2 s t)
    ∧ ∀ (c : Instr) (parts : List Part), Rows.eventParts c = some parts → 5 < parts.length →
      ∀ s t : State, exec c s = .next t → Keeps parts s t

/-- No command or event changes the queue; none but POWER_ON_RESET changes the tick counter; none but the commit, the programs and
erases of the NVM, boot's replay and the hold-up supply's last programs changes what a page of the NVM holds, the record among
it, or the record's next sequence number. -/
def Obligations.MemoryLasts : Prop :=
  ∀ (c : Instr) (s t : State), exec c s = .next t →
    t.pending = s.pending
    ∧ (Rows.powersUp c = false → t.clk.tick = s.clk.tick)
    ∧ (Rows.writesRecord c = false → t.cairn.nextSeq = s.cairn.nextSeq ∧ t.nvm.pages = s.nvm.pages)

/-- Every command and event leaves each entry of the record as it is, but for the circular positions of the at most two sequence
numbers it issues; sequence numbers only go on. At boot the number goes on from the journal's newest record, and only the page that
this record names may be written again. -/
def Obligations.RecordOnlyGrows : Prop :=
  ∀ (c : Instr) (s t : State), exec c s = .next t →
    ((∀ straps ps, c ≠ .bootRomStart straps ps) → RecordGrows 2 s t)
    ∧ ∀ straps ps, c = .bootRomStart straps ps →
      (t.cairn.nextSeq = s.cairn.nextSeq ∨ ∃ x ∈ newestRecord s, t.cairn.nextSeq = BitVec.ofNat 32 x.next)
      ∧ ∀ pos, Held s pos → ¬ AtWork s (cellPage pos) → (∀ x ∈ newestRecord s, x.target ≠ cellPage pos) → KeptAt s t pos

/-- If the table of the NVM's pages and the record are in canonical form, they are so after any step. -/
def Obligations.MemoryStaysCanonical : Prop :=
  ∀ s t : State, MemoryWf s → step s = .next t → MemoryWf t

/-- From TRIPPED, COASTING and STOPPED no single command or event (a program's end that lets a whole queue of held commands go on
apart) leads to a state in which BELAY_OK is high. -/
def Obligations.TripKeepsOutputLow : Prop :=
  ∀ (c : Instr) (s t : State), fallen s.bly.phase →
    (∀ bad us, c = .nvmProgramDone bad us → s.own.heldCommands = []) → exec c s = .next t → low t.bly.phase ∧ belayOk t = false

/-- Pushing a whole message that passes the checks of the port is the same as the row that its opcode and selector spell, with the
header and payload of the packet. For MODEL_PLACE of a Ridge model the row's answer of the other chips is the part's own. -/
def Obligations.PushRunsItsRow : Prop :=
  ∀ (via : Transport) (held : Nat) (b : Bytes) (s : State), Rows.Whole via held b s →
    let h := Rows.headerOf via b s
    let p := Rows.payloadOf via b s
    (∀ c : Hdr → Bytes → Instr, Rows.spelled (b.getD 4 0) p = some c → exec (.push via held b) s = exec (c h p) (Rows.pushed s))
    ∧ (b.getD 4 0 = 0x52 → fld p 1 1 = 1 →
      exec (.push via held b) s = exec (.modelPlaceRidge h p (Config.ridgeAnswer s.free)) { Rows.pushed s with free := s.free + 1 })

/-- A ball whose rail is out of range is high-impedance; what comes in at the pins of VIO_H or VIO_S while it is out of range is
ignored. -/
def Obligations.RailsOutOfRange : Prop :=
  (∀ (b : Ball) (s : State), railOk s b.rail = false → drives s b = .highZ)
    ∧ (∀ (c : Instr) (s : State), Rows.atHostRail c = true → s.pwr.vioHOk = false → exec c s = .next s)
    ∧ ∀ (c : Instr) (s : State), Rows.atSensorRail c = true → s.pwr.vioSOk = false → exec c s = .next s

/-- With two lanes in use the byte k of a frame that a port drives is on lane k mod 2, each lane's in their order; with one, every byte
is on that lane and none on the other. -/
def Obligations.LanesCarryFrames : Prop :=
  ∀ (x : RopePort) (f : RopeFrame) (lseq : Nat),
    (x.sends = 3 → ∀ k : Nat, (rd (x.put f lseq).lane (k % 2))[k / 2]? = (f.bytes lseq)[k]?)
    ∧ (x.sends = 1 → (x.put f lseq).lane = #v[f.bytes lseq, []])
    ∧ (x.sends = 2 → (x.put f lseq).lane = #v[[], f.bytes lseq])

/-- The order of an array's write, whatever its key and count, permutes the 256 columns among themselves and the 256 rows among
themselves, and rows share a row group after it exactly where they did before. -/
def Obligations.OrdersPermute : Prop :=
  ∀ (pk : BitVec 256) (array count group : Nat), group ∣ 256 →
    let o := drawOrder pk array count group
    o.cols.Perm (List.range 256) ∧ o.rows.Perm (List.range 256)
      ∧ ∀ r q : Nat, r < 256 → q < 256 → (o.rows.getD r 0 / group = o.rows.getD q 0 / group ↔ r / group = q / group)
end

