-- ==== Sys2Proof/Laws/Serve.lean ====
section
/-! SUPPORT. Taking a command up: where its premises hold, a whole command comes to its body. -/

namespace Sys2Proof.Machine
/-- A change of a tag not in flight changes no slot. -/
theorem map_slots_none (tag : Tag) (f : Slot → Slot) (l : List Slot) (h : l.find? (·.tag == tag) = none) :
    l.map (fun c => if c.tag = tag then f c else c) = l := by
  refine (List.map_congr_left fun x hx => ?_).trans (List.map_id _)
  have := List.find?_eq_none.1 h x hx
  simp_all

theorem hostTag_eq (t : Tag) : hostTag t = !decide (64 ≤ t.toNat) := by
  unfold hostTag
  by_cases h : 64 ≤ t.toNat
  · simp [h]
  · simp [h]; omega

theorem authenticate_taken (op : Byte) (h : Hdr) (s : State) (ht : Taken h s) :
    authenticate op h (reserve op h (s.mapLink fun l => { l with bound := if hostTag h.tag then some h.via else l.bound }))
      = (entered op h s, true) := by
  obtain ⟨_, _, hf, _, hp, hs⟩ := ht
  by_cases hsec : h.secure = true
  · obtain ⟨h1, h2, h3, h4⟩ := hs hsec
    simp only [authenticate, reserve, entered, newSlot, State.mapLink, noteHigh, advanceRx, State.session, onSlot] at *
    simp only [State.slot?] at hf
    simp [hp, hsec, h1, h2, h3, map_slots_none h.tag _ s.link.slots hf]
    intro; omega
  · simp [authenticate, reserve, entered, newSlot, State.mapLink, noteHigh, hp, hsec]

theorem serve_taken (f : Form) (h : Hdr) (p : Bytes) (body : State → State) (s : State) (ht : Taken h s)
    (hr : (f.rights (entered f.opcode h s) p).allow h s = true) (hl : (f.length p.length && f.shape p) = true)
    (hz : f.reserved p = true) : serve f h p body s = body (entered f.opcode h s) := by
  have ha := authenticate_taken f.opcode h s ht
  obtain ⟨hh, hc, hf, he, hp, hs⟩ := ht
  have hb : (if decide (64 ≤ h.tag.toNat) = true then s else bindPort h.via s) =
      s.mapLink fun l => { l with bound := if hostTag h.tag then some h.via else l.bound } := by
    have hn := hostTag_eq h.tag
    by_cases hd : hostTag h.tag = true
    · have := (hh hd).2
      simp_all [bindPort, State.mapLink]
    · have h64 : decide (64 ≤ h.tag.toNat) = true := by cases h : decide (64 ≤ h.tag.toNat) <;> simp_all
      have hd' : hostTag h.tag = false := by simpa using hd
      simp only [h64, hd', if_true]
      rfl
  have hx : (!decide (64 ≤ h.tag.toNat) && !hears h.via s) = false := by
    rw [← hostTag_eq]
    cases hd : hostTag h.tag
    · rfl
    · simp [(hh hd).1]
  have hf' : State.slot? (s.mapLink fun l => { l with bound := if hostTag h.tag then some h.via else l.bound }) h.tag = none := hf
  have he' : (entered f.opcode h s).own.erase.any (fun e => e.step != 1) = false := he
  have hr' : (f.rights (entered f.opcode h s) p).allow h (entered f.opcode h s) = true := hr
  unfold serve
  simp only [hf, Option.any_none, Bool.false_eq_true, if_false, hx, hc, hb, hf', Option.isSome_none, ha, if_true]
  simp only [pass, he', judge, hr', hl, hz]
  simp
end Sys2Proof.Machine
end

