-- ==== Sys2Proof/Laws/Entered.lean ====
section
/-! SUPPORT. What a state that has taken a command up still holds. -/

namespace Sys2Proof.Machine
variable (op : Byte) (h : Hdr) (s : State)
@[simp] theorem entered_clk : (entered op h s).clk = s.clk := rfl
@[simp] theorem entered_pwr : (entered op h s).pwr = s.pwr := rfl
@[simp] theorem entered_thm : (entered op h s).thm = s.thm := rfl
@[simp] theorem entered_pins : (entered op h s).pins = s.pins := rfl
@[simp] theorem entered_boot : (entered op h s).boot = s.boot := rfl
@[simp] theorem entered_nvm : (entered op h s).nvm = s.nvm := rfl
@[simp] theorem entered_cairn : (entered op h s).cairn = s.cairn := rfl
@[simp] theorem entered_afe : (entered op h s).afe = s.afe := rfl
@[simp] theorem entered_stm : (entered op h s).stm = s.stm := rfl
@[simp] theorem entered_feat : (entered op h s).feat = s.feat := rfl
@[simp] theorem entered_own : (entered op h s).own = s.own := rfl
@[simp] theorem entered_bly : (entered op h s).bly = s.bly := rfl
@[simp] theorem entered_lrn : (entered op h s).lrn = s.lrn := rfl
@[simp] theorem entered_rope : (entered op h s).rope = s.rope := rfl
@[simp] theorem entered_free : (entered op h s).free = s.free := rfl


theorem refuseIf_clear (tag : Tag) (l : List (Bool × Byte)) (k : State → State) (s : State) (hl : ∀ c ∈ l, c.1 = false) :
    refuseIf tag l k s = k s := by
  induction l with
  | nil => rfl
  | cons c l ih =>
    obtain ⟨b, st⟩ := c
    obtain rfl : b = false := hl _ (List.mem_cons_self ..)
    exact ih fun c hc => hl c (List.mem_cons_of_mem _ hc)

@[simp] theorem entered_ownerSlot (o : Nat) : (entered op h s).ownerSlot o = s.ownerSlot o := rfl
@[simp] theorem entered_keysBusy : keysBusy (entered op h s) = keysBusy s := rfl
@[simp] theorem entered_unprovisioned : unprovisioned (entered op h s) = unprovisioned s := rfl
@[simp] theorem entered_isOn (n : Nat) : (entered op h s).isOn n = s.isOn n := rfl
@[simp] theorem entered_fw (n : Nat) : (entered op h s).fw n = s.fw n := rfl
@[simp] theorem entered_isRidge : isRidge (entered op h s) = isRidge s := rfl
@[simp] theorem entered_belayHolds : belayHolds (entered op h s) = belayHolds s := rfl
@[simp] theorem entered_ridgeRuns : ridgeRuns (entered op h s) = ridgeRuns s := rfl
@[simp] theorem entered_belayRests : belayRests (entered op h s) = belayRests s := rfl
@[simp] theorem entered_ridgePlacedOf (o : BitVec 2) : ridgePlacedOf (entered op h s) o = ridgePlacedOf s o := rfl
@[simp] theorem entered_repliesPending : repliesPending (entered op h s) = repliesPending s := rfl
@[simp] theorem entered_model (m : Nat) : (entered op h s).model m = s.model m := rfl
@[simp] theorem entered_head (m : Nat) : (entered op h s).head m = s.head m := rfl
@[simp] theorem entered_placing (m : Nat) : placing (entered op h s) m = placing s m := rfl
@[simp] theorem entered_busyModel (m : Nat) : busyModel (entered op h s) m = busyModel s m := rfl
@[simp] theorem entered_pairBusy (m : Nat) : pairBusy (entered op h s) m = pairBusy s m := rfl
@[simp] theorem entered_headsOfOwner (m : Nat) : headsOfOwner (entered op h s) m = headsOfOwner s m := rfl
@[simp] theorem entered_otherSlot : otherSlot (entered op h s) = otherSlot s := rfl
@[simp] theorem entered_pinBusy (a : Nat) (b) : pinBusy (entered op h s) a b = pinBusy s a b := rfl
@[simp] theorem entered_channelBusy (a) : channelBusy (entered op h s) a = channelBusy s a := rfl
@[simp] theorem entered_calLenOf (a) : calLenOf (entered op h s) a = calLenOf s a := rfl
@[simp] theorem entered_driverBusy (a) : driverBusy (entered op h s) a = driverBusy s a := rfl
@[simp] theorem entered_busyChannels  : busyChannels (entered op h s) = busyChannels s := rfl
@[simp] theorem entered_pllDown  : pllDown (entered op h s) = pllDown s := rfl
@[simp] theorem entered_strm (a) : (entered op h s).strm a = s.strm a := rfl
@[simp] theorem entered_bufFree  : bufFree (entered op h s) = bufFree s := rfl
@[simp] theorem entered_portRunning (a) : portRunning (entered op h s) a = portRunning s a := rfl
@[simp] theorem entered_tachUsed (a) : tachUsed (entered op h s) a = tachUsed s a := rfl
@[simp] theorem entered_encoderUsed  : encoderUsed (entered op h s) = encoderUsed s := rfl
@[simp] theorem entered_streamReady (a) : streamReady (entered op h s) a = streamReady s a := rfl
@[simp] theorem entered_featureBusy (a) : featureBusy (entered op h s) a = featureBusy s a := rfl
@[simp] theorem entered_ftr (a) : (entered op h s).ftr a = s.ftr a := rfl
@[simp] theorem entered_featOk (a) : featOk (entered op h s) a = featOk s a := rfl
@[simp] theorem entered_streamInRange (a) (b) : streamInRange (entered op h s) a b = streamInRange s a b := rfl

@[simp] theorem entered_core (n₁ : Nat) : State.core (entered op h s) n₁ = State.core s n₁ := rfl
@[simp] theorem entered_port (p₁ : Nat) : State.port (entered op h s) p₁ = State.port s p₁ := rfl
@[simp] theorem entered_armFails  : armFails (entered op h s) = armFails s := rfl
@[simp] theorem entered_belayFixed  : belayFixed (entered op h s) = belayFixed s := rfl
@[simp] theorem entered_boundHead (p₁ : Bytes) : boundHead (entered op h s) p₁ = boundHead s p₁ := rfl
@[simp] theorem entered_boundModel (off₁ : Nat) (p₁ : Bytes) : boundModel off₁ (entered op h s) p₁ = boundModel off₁ s p₁ := rfl
@[simp] theorem entered_boundPair (p₁ : Bytes) : boundPair (entered op h s) p₁ = boundPair s p₁ := rfl
@[simp] theorem entered_boundResult (p₁ : Bytes) : boundResult (entered op h s) p₁ = boundResult s p₁ := rfl
@[simp] theorem entered_boundResults (h₁ : Hdr) (p₁ : Bytes) : boundResults h₁ (entered op h s) p₁ = boundResults h₁ s p₁ := rfl
@[simp] theorem entered_coastTach  : coastTach (entered op h s) = coastTach s := rfl
@[simp] theorem entered_columnsLost (n₁ : Nat) : columnsLost (entered op h s) n₁ = columnsLost s n₁ := rfl
@[simp] theorem entered_freeSectors  : freeSectors (entered op h s) = freeSectors s := rfl
@[simp] theorem entered_headOwner (n₁ : Nat) : headOwner (entered op h s) n₁ = headOwner s n₁ := rfl
@[simp] theorem entered_isHead  : isHead (entered op h s) = isHead s := rfl
@[simp] theorem entered_localSlots  : localSlots (entered op h s) = localSlots s := rfl
@[simp] theorem entered_modelBusy (m₁ : Nat) : modelBusy (entered op h s) m₁ = modelBusy s m₁ := rfl
@[simp] theorem entered_namesOrphan (p₁ : Bytes) : namesOrphan (entered op h s) p₁ = namesOrphan s p₁ := rfl
@[simp] theorem entered_orphansOf (o₁ : Nat) : orphansOf (entered op h s) o₁ = orphansOf s o₁ := rfl
@[simp] theorem entered_queueLength  : queueLength (entered op h s) = queueLength s := rfl
@[simp] theorem entered_reachable (dst₁ : Nat) : reachable (entered op h s) dst₁ = reachable s dst₁ := rfl
@[simp] theorem entered_resultAt (p₁ : Bytes) : resultAt (entered op h s) p₁ = resultAt s p₁ := rfl
@[simp] theorem entered_rewardRefused (p₁ : Bytes) : rewardRefused (entered op h s) p₁ = rewardRefused s p₁ := rfl
@[simp] theorem entered_ridgeReachable (m₁ base₁ : Nat) : ridgeReachable (entered op h s) m₁ base₁ = ridgeReachable s m₁ base₁ := rfl
@[simp] theorem entered_role  : role (entered op h s) = role s := rfl
@[simp] theorem entered_streamFits (img₁ : Bytes) (n₁ : Nat) : streamFits (entered op h s) img₁ n₁ = streamFits s img₁ n₁ := rfl
@[simp] theorem entered_thermalRefuses (img₁ : Bytes) : thermalRefuses (entered op h s) img₁ = thermalRefuses s img₁ := rfl
@[simp] theorem entered_thermalState  : thermalState (entered op h s) = thermalState s := rfl
/-- The slot of the command taken up. -/
@[simp] theorem entered_relayed : (entered op h s).link.relayed = s.link.relayed := rfl
theorem entered_slots : (entered op h s).link.slots = s.link.slots ++ [newSlot op h s] := rfl
theorem serve_row {f : Form} {h : Hdr} {p : Bytes} {body : State → State} {s t : State} (ht : Taken h s)
    (hr : (f.rights (entered f.opcode h s) p).allow h s = true) (hl : (f.length p.length && f.shape p) = true)
    (hz : f.reserved p = true) (hb : body (entered f.opcode h s) = t) :
    (Host.Outcome.next (serve f h p body s) : Host.Outcome State Fault Refusal) = .next t := by
  rw [serve_taken f h p body s ht hr hl hz, hb]
end Sys2Proof.Machine
end

