-- ==== Sys2Proof/Laws/Phase.lean ====
section
/-! SUPPORT. The operations and meanings that leave Belay's state as it is. -/

set_option linter.all false

namespace Sys2Proof.Machine
@[simp] theorem phase_resetBelay (w : Bool) (b : BelayBlock) : (resetBelay w b).phase = b.phase := by cases w <;> rfl
@[simp] theorem phase_ite_bly (c : Prop) [Decidable c] (a b : State) : (if c then a else b).bly = if c then a.bly else b.bly := by split <;> rfl
@[simp] theorem phase_ite_phase (c : Prop) [Decidable c] (a b : BelayBlock) : (if c then a else b).phase = if c then a.phase else b.phase := by split <;> rfl
@[simp] theorem phase_foldl {α : Type} (f : State → α → State) (h : ∀ s a, (f s a).bly.phase = s.bly.phase) (l : List α) (s : State) : (l.foldl f s).bly.phase = s.bly.phase := by
  induction l generalizing s with
  | nil => rfl
  | cons a l ih => simp [List.foldl, ih, h]

@[simp] theorem phase_drawFree (s : State) : (drawFree s).2.bly.phase = s.bly.phase := by
  simp [drawFree]

@[simp] theorem phase_State_mapLink (s : State) (f : LinkState → LinkState) : (State.mapLink s f).bly.phase = s.bly.phase := by
  simp [State.mapLink]

@[simp] theorem phase_noteHigh (q n : Nat) (s : State) : (noteHigh q n s).bly.phase = s.bly.phase := by
  simp [noteHigh]

@[simp] theorem phase_raiseAt (time : Word64) (code : Byte) (high : Bool) (owner : Option (BitVec 2)) (body : Bytes) (s : State) : (raiseAt time code high owner body s).bly.phase = s.bly.phase := by
  simp [raiseAt]

@[simp] theorem phase_raise (code : Byte) (high : Bool) (body : Bytes) (s : State) : (raise code high body s).bly.phase = s.bly.phase := by
  simp [raise]

@[simp] theorem phase_raiseOwned (owner : BitVec 2) (code : Byte) (high : Bool) (body : Bytes) (s : State) : (raiseOwned owner code high body s).bly.phase = s.bly.phase := by
  simp [raiseOwned]

@[simp] theorem phase_eventsLost (s : State) : (eventsLost s).bly.phase = s.bly.phase := by
  simp [eventsLost]

@[simp] theorem phase_onSlot (tag : Tag) (f : Slot → Slot) (s : State) : (onSlot tag f s).bly.phase = s.bly.phase := by
  simp [onSlot]

@[simp] theorem phase_commitMark (tag : Tag) (s : State) : (commitMark tag s).bly.phase = s.bly.phase := by
  simp [commitMark]

@[simp] theorem phase_finish (tag : Tag) (status : Byte) (payload : Bytes) (s : State) : (finish tag status payload s).bly.phase = s.bly.phase := by
  unfold finish; (repeat' split) <;> (first | with_reducible rfl | (simp; done))

@[simp] theorem phase_finishAll (tags : List Tag) (status : Byte) (s : State) : (finishAll tags status s).bly.phase = s.bly.phase := by
  simp [finishAll]

@[simp] theorem phase_started (tag : Tag) (s : State) : (started tag s).bly.phase = s.bly.phase := by
  unfold started; (repeat' split) <;> (first | with_reducible rfl | (simp; done))

@[simp] theorem phase_doneWith (h : Hdr) (payload : Bytes) (s : State) : (doneWith h payload s).bly.phase = s.bly.phase := by
  simp [doneWith]

@[simp] theorem phase_notice (n : Notice) (s : State) : (notice n s).bly.phase = s.bly.phase := by
  simp [notice]

@[simp] theorem phase_endSession (slot : Nat) (reason : Byte) (s : State) : (endSession slot reason s).bly.phase = s.bly.phase := by
  simp [endSession]

@[simp] theorem phase_setDomain (n : Nat) (v : Bool) (s : State) : (setDomain n v s).bly.phase = s.bly.phase := by
  simp [setDomain]

@[simp] theorem phase_wantDomain (n : Nat) (v : Bool) (s : State) : (wantDomain n v s).bly.phase = s.bly.phase := by
  simp [wantDomain]

@[simp] theorem phase_countBubble (us : Nat) (s : State) : (countBubble us s).bly.phase = s.bly.phase := by
  simp [countBubble]

@[simp] theorem phase_cairnPut (e : CairnEntry) (s : State) : (cairnPut e s).bly.phase = s.bly.phase := by
  simp [cairnPut]

@[simp] theorem phase_cairn (type source : BitVec 16) (payload : Bytes) (s : State) : (cairn type source payload s).bly.phase = s.bly.phase := by
  simp [cairn]

@[simp] theorem phase_nvmRefill (s : State) : (nvmRefill s).bly.phase = s.bly.phase := by
  simp [nvmRefill]

@[simp] theorem phase_postNvm (ops : List NvmOp) (s : State) : (postNvm ops s).bly.phase = s.bly.phase := by
  simp [postNvm]

@[simp] theorem phase_cancelNvm (tag : Tag) (s : State) : (cancelNvm tag s).bly.phase = s.bly.phase := by
  simp [cancelNvm]

@[simp] theorem phase_postRecord (k : RecordKind) (content : Bytes) (tag : Option Tag) (bootPath : Bool) (s : State) : (postRecord k content tag bootPath s).bly.phase = s.bly.phase := by
  simp [postRecord]

@[simp] theorem phase_countUnwritten (m : Memory) (lines : Nat) (s : State) : (countUnwritten m lines s).bly.phase = s.bly.phase := by
  simp [countUnwritten]

@[simp] theorem phase_setPage (i : PageInfo) (s : State) : (setPage i s).bly.phase = s.bly.phase := by
  simp [setPage]

@[simp] theorem phase_nvmFault (kind : Byte) (page : Nat) (s : State) : (nvmFault kind page s).bly.phase = s.bly.phase := by
  simp [nvmFault]

@[simp] theorem phase_programPage (page : Nat) (x : PageImage) (bad us : Nat) (s : State) : (programPage page x bad us s).1.bly.phase = s.bly.phase := by
  simp only [programPage]; iterate 10 (all_goals (try (first | with_reducible rfl | (refine phase_serve _ _ _ _ _ (fun s' => ?_)) | (refine (phase_refuseIf _ _ _ (fun s' => ?_) _).trans ?_) | (refine phase_receive _ _ _ _ (fun s' => ?_)) | (refine phase_whenReadable _ _ _ _ _ _ (fun s' => ?_)) | (refine (phase_foldl _ (fun s' a => ?_) _ _).trans ?_) | split | (simp; done) | (simp_all; done) | simp)))

@[simp] theorem phase_tearPage (page : Nat) (x : PageImage) (s : State) : (tearPage page x s).bly.phase = s.bly.phase := by
  simp [tearPage]

@[simp] theorem phase_eraseSector (first : Nat) (s : State) : (eraseSector first s).bly.phase = s.bly.phase := by
  simp [eraseSector]

@[simp] theorem phase_countSeal (s : State) : (countSeal s).bly.phase = s.bly.phase := by
  simp [countSeal]

@[simp] theorem phase_readPage (page : Nat) (s : State) : (readPage page s).bly.phase = s.bly.phase := by
  unfold readPage; (repeat' split) <;> (first | with_reducible rfl | (simp; done))

@[simp] theorem phase_readPages (pages : List Nat) (s : State) : (readPages pages s).bly.phase = s.bly.phase := by
  simp [readPages]

@[simp] theorem phase_whenReadable (pages : List Nat) (opcode : Byte) (h : Hdr) (p : Bytes) (body : State → State) (s : State) (h_body : ∀ a0, (body a0).bly.phase = a0.bly.phase) : (whenReadable pages opcode h p body s).bly.phase = s.bly.phase := by
  simp [whenReadable, h_body]

@[simp] theorem phase_readRecord (k : RecordKind) (s : State) : ((readRecord k s).2).bly.phase = s.bly.phase := by
  have h : ∀ (l : List CommitRecord) (a : Option Bytes × State) (r : CopyRecord), ((l.foldl (fun (a : Option Bytes × State) c => match a.1 with | some _ => a | none => (if r.checks c && readable a.2 (copyPages k c.copy) then some (rd r.copies c.copy) else none, readPages (copyPages k c.copy) a.2)) a).2).bly.phase = a.2.bly.phase := by
    intro l a r
    induction l generalizing a with
    | nil => rfl
    | cons c l ih => rw [List.foldl_cons, ih]; split <;> simp
  simp only [readRecord]
  exact (h _ _ _).trans (phase_readPage _ _)

@[simp] theorem phase_resumeStreams (s : State) : (resumeStreams s).bly.phase = s.bly.phase := by
  simp [resumeStreams]

@[simp] theorem phase_reloadSlept (s : State) : (reloadSlept s).bly.phase = s.bly.phase := by
  simp [reloadSlept]

@[simp] theorem phase_abandonSleep (cause : Byte) (s : State) : (abandonSleep cause s).bly.phase = s.bly.phase := by
  unfold abandonSleep; (repeat' split) <;> (first | with_reducible rfl | (simp; done))

@[simp] theorem phase_refusePlain (tag : Tag) (status : Byte) (s : State) : (refusePlain tag status s).bly.phase = s.bly.phase := by
  simp [refusePlain]

@[simp] theorem phase_reserve (opcode : Byte) (h : Hdr) (s : State) : (reserve opcode h s).bly.phase = s.bly.phase := by
  simp [reserve]

@[simp] theorem phase_advanceRx (h : Hdr) (s : State) : (advanceRx h s).bly.phase = s.bly.phase := by
  simp [advanceRx]

@[simp] theorem phase_authenticate (opcode : Byte) (h : Hdr) (s : State) : (authenticate opcode h s).1.bly.phase = s.bly.phase := by
  unfold authenticate; (repeat' split) <;> (first | with_reducible rfl | (simp; done))

@[simp] theorem phase_judge (f : Form) (h : Hdr) (p : Bytes) (body : State → State) (s : State) (h_body : ∀ a0, (body a0).bly.phase = a0.bly.phase) : (judge f h p body s).bly.phase = s.bly.phase := by
  simp [judge, h_body]

@[simp] theorem phase_bindPort (via : Transport) (s : State) : (bindPort via s).bly.phase = s.bly.phase := by
  simp [bindPort]

@[simp] theorem phase_overrun (s : State) : (overrun s).bly.phase = s.bly.phase := by
  simp [overrun]

@[simp] theorem phase_pass (f : Form) (h : Hdr) (p : Bytes) (body : State → State) (s : State) (h_body : ∀ a0, (body a0).bly.phase = a0.bly.phase) : (pass f h p body s).bly.phase = s.bly.phase := by
  simp [pass, h_body]

@[simp] theorem phase_serve (f : Form) (h : Hdr) (p : Bytes) (body : State → State) (s : State) (h_body : ∀ a0, (body a0).bly.phase = a0.bly.phase) : (serve f h p body s).bly.phase = s.bly.phase := by
  simp [serve, h_body]

@[simp] theorem phase_refuseIf (tag : Tag) (cs : List (Bool × Byte)) (k : State → State) (hk : ∀ s, (k s).bly.phase = s.bly.phase) (s : State) :
    (refuseIf tag cs k s).bly.phase = s.bly.phase := by
  induction cs with
  | nil => exact hk s
  | cons c cs ih =>
    obtain ⟨b, st⟩ := c
    cases b
    · exact ih
    · simp [refuseIf]

@[simp] theorem phase_cmdNop (h : Hdr) (p : Bytes) (s : State) : (cmdNop h p s).bly.phase = s.bly.phase := by
  simp [cmdNop]

@[simp] theorem phase_cmdLinkConfigRead (h : Hdr) (p : Bytes) (s : State) : (cmdLinkConfigRead h p s).bly.phase = s.bly.phase := by
  simp [cmdLinkConfigRead]

@[simp] theorem phase_cmdLinkConfigWrite (h : Hdr) (p : Bytes) (s : State) : (cmdLinkConfigWrite h p s).bly.phase = s.bly.phase := by
  simp [cmdLinkConfigWrite]

@[simp] theorem phase_cmdLinkCounters (h : Hdr) (p : Bytes) (s : State) : (cmdLinkCounters h p s).bly.phase = s.bly.phase := by
  simp [cmdLinkCounters]

@[simp] theorem phase_cmdLinkCountersClear (h : Hdr) (p : Bytes) (s : State) : (cmdLinkCountersClear h p s).bly.phase = s.bly.phase := by
  simp [cmdLinkCountersClear]

@[simp] theorem phase_cmdSessionClose (h : Hdr) (p : Bytes) (s : State) : (cmdSessionClose h p s).bly.phase = s.bly.phase := by
  simp [cmdSessionClose]

@[simp] theorem phase_cmdSessionStatus (h : Hdr) (p : Bytes) (s : State) : (cmdSessionStatus h p s).bly.phase = s.bly.phase := by
  simp [cmdSessionStatus]

@[simp] theorem phase_cmdDevLabelSet (h : Hdr) (p : Bytes) (s : State) : (cmdDevLabelSet h p s).bly.phase = s.bly.phase := by
  simp [cmdDevLabelSet]

@[simp] theorem phase_cmdDevLabelGet (h : Hdr) (p : Bytes) (s : State) : (cmdDevLabelGet h p s).bly.phase = s.bly.phase := by
  simp [cmdDevLabelGet]

theorem phase_execNop (h : Hdr) (p : Bytes) (s : State) : ∀ t, (execNop h p s) = .next t → t.bly.phase = s.bly.phase := by
  exact fun _ e => Host.Outcome.next.inj e ▸ phase_cmdNop h p s

theorem phase_execLinkConfigRead (h : Hdr) (p : Bytes) (s : State) : ∀ t, (execLinkConfigRead h p s) = .next t → t.bly.phase = s.bly.phase := by
  exact fun _ e => Host.Outcome.next.inj e ▸ phase_cmdLinkConfigRead h p s

theorem phase_execLinkConfigWrite (h : Hdr) (p : Bytes) (s : State) : ∀ t, (execLinkConfigWrite h p s) = .next t → t.bly.phase = s.bly.phase := by
  exact fun _ e => Host.Outcome.next.inj e ▸ phase_cmdLinkConfigWrite h p s

theorem phase_execLinkCounters (h : Hdr) (p : Bytes) (s : State) : ∀ t, (execLinkCounters h p s) = .next t → t.bly.phase = s.bly.phase := by
  exact fun _ e => Host.Outcome.next.inj e ▸ phase_cmdLinkCounters h p s

theorem phase_execLinkCountersClear (h : Hdr) (p : Bytes) (s : State) : ∀ t, (execLinkCountersClear h p s) = .next t → t.bly.phase = s.bly.phase := by
  exact fun _ e => Host.Outcome.next.inj e ▸ phase_cmdLinkCountersClear h p s

theorem phase_execSessionClose (h : Hdr) (p : Bytes) (s : State) : ∀ t, (execSessionClose h p s) = .next t → t.bly.phase = s.bly.phase := by
  exact fun _ e => Host.Outcome.next.inj e ▸ phase_cmdSessionClose h p s

theorem phase_execSessionStatus (h : Hdr) (p : Bytes) (s : State) : ∀ t, (execSessionStatus h p s) = .next t → t.bly.phase = s.bly.phase := by
  exact fun _ e => Host.Outcome.next.inj e ▸ phase_cmdSessionStatus h p s

theorem phase_execDevLabelSet (h : Hdr) (p : Bytes) (s : State) : ∀ t, (execDevLabelSet h p s) = .next t → t.bly.phase = s.bly.phase := by
  exact fun _ e => Host.Outcome.next.inj e ▸ phase_cmdDevLabelSet h p s

theorem phase_execDevLabelGet (h : Hdr) (p : Bytes) (s : State) : ∀ t, (execDevLabelGet h p s) = .next t → t.bly.phase = s.bly.phase := by
  exact fun _ e => Host.Outcome.next.inj e ▸ phase_cmdDevLabelGet h p s

theorem phase_execClearStatus (via : Transport) (mask : Byte) (s : State) : ∀ t, (execClearStatus via mask s) = .next t → t.bly.phase = s.bly.phase := by
  intro t; unfold execClearStatus; (try simp only []); (repeat' split) <;> intro h <;> (first | (simp only [Host.Outcome.next.injEq] at h; subst h; first | (simp; done) | (simp_all; done) | (iterate 10 (all_goals (try (first | with_reducible rfl | (refine phase_serve _ _ _ _ _ (fun s' => ?_)) | (refine (phase_refuseIf _ _ _ (fun s' => ?_) _).trans ?_) | (refine phase_receive _ _ _ _ (fun s' => ?_)) | (refine phase_whenReadable _ _ _ _ _ _ (fun s' => ?_)) | (refine (phase_foldl _ (fun s' a => ?_) _ _).trans ?_) | split | (simp; done) | (simp_all; done) | simp))))) | (simp at h; done))

theorem phase_execInvalidTransportOpcode (via : Transport) (op : Byte) (s : State) : ∀ t, (execInvalidTransportOpcode via op s) = .next t → t.bly.phase = s.bly.phase := by
  intro t; unfold execInvalidTransportOpcode; (try simp only []); (repeat' split) <;> intro h <;> (first | (simp only [Host.Outcome.next.injEq] at h; subst h; first | (simp; done) | (simp_all; done) | (iterate 10 (all_goals (try (first | with_reducible rfl | (refine phase_serve _ _ _ _ _ (fun s' => ?_)) | (refine (phase_refuseIf _ _ _ (fun s' => ?_) _).trans ?_) | (refine phase_receive _ _ _ _ (fun s' => ?_)) | (refine phase_whenReadable _ _ _ _ _ _ (fun s' => ?_)) | (refine (phase_foldl _ (fun s' a => ?_) _ _).trans ?_) | split | (simp; done) | (simp_all; done) | simp))))) | (simp at h; done))

theorem phase_execFragmentTimeout (tag : Tag) (s : State) : ∀ t, (execFragmentTimeout tag s) = .next t → t.bly.phase = s.bly.phase := by
  intro t; unfold execFragmentTimeout; (try simp only []); (repeat' split) <;> intro h <;> (first | (simp only [Host.Outcome.next.injEq] at h; subst h; first | (simp; done) | (simp_all; done) | (iterate 10 (all_goals (try (first | with_reducible rfl | (refine phase_serve _ _ _ _ _ (fun s' => ?_)) | (refine (phase_refuseIf _ _ _ (fun s' => ?_) _).trans ?_) | (refine phase_receive _ _ _ _ (fun s' => ?_)) | (refine phase_whenReadable _ _ _ _ _ _ (fun s' => ?_)) | (refine (phase_foldl _ (fun s' a => ?_) _ _).trans ?_) | split | (simp; done) | (simp_all; done) | simp))))) | (simp at h; done))

theorem phase_execSessionIdleTimeout (slot : BitVec 2) (s : State) : ∀ t, (execSessionIdleTimeout slot s) = .next t → t.bly.phase = s.bly.phase := by
  intro t; unfold execSessionIdleTimeout; (try simp only []); (repeat' split) <;> intro h <;> (first | (simp only [Host.Outcome.next.injEq] at h; subst h; first | (simp; done) | (simp_all; done) | (iterate 10 (all_goals (try (first | with_reducible rfl | (refine phase_serve _ _ _ _ _ (fun s' => ?_)) | (refine (phase_refuseIf _ _ _ (fun s' => ?_) _).trans ?_) | (refine phase_receive _ _ _ _ (fun s' => ?_)) | (refine phase_whenReadable _ _ _ _ _ _ (fun s' => ?_)) | (refine (phase_foldl _ (fun s' a => ?_) _ _).trans ?_) | split | (simp; done) | (simp_all; done) | simp))))) | (simp at h; done))

@[simp] theorem phase_cmdPowerStateGet (h : Hdr) (p : Bytes) (s : State) : (cmdPowerStateGet h p s).bly.phase = s.bly.phase := by
  simp [cmdPowerStateGet]

@[simp] theorem phase_cmdWakeConfig (h : Hdr) (p : Bytes) (s : State) : (cmdWakeConfig h p s).bly.phase = s.bly.phase := by
  simp [cmdWakeConfig]

@[simp] theorem phase_armAlarm (value : Ticks) (p : Bytes) (s : State) : (armAlarm value p s).bly.phase = s.bly.phase := by
  simp [armAlarm]

@[simp] theorem phase_cmdTickAlarmDisable (h : Hdr) (p : Bytes) (s : State) : (cmdTickAlarmDisable h p s).bly.phase = s.bly.phase := by
  simp [cmdTickAlarmDisable]

@[simp] theorem phase_cmdTickAlarmAbsolute (h : Hdr) (p : Bytes) (s : State) : (cmdTickAlarmAbsolute h p s).bly.phase = s.bly.phase := by
  simp [cmdTickAlarmAbsolute]

@[simp] theorem phase_cmdTickAlarmRelative (h : Hdr) (p : Bytes) (s : State) : (cmdTickAlarmRelative h p s).bly.phase = s.bly.phase := by
  simp [cmdTickAlarmRelative]

@[simp] theorem phase_cmdTimeGet (h : Hdr) (p : Bytes) (s : State) : (cmdTimeGet h p s).bly.phase = s.bly.phase := by
  simp [cmdTimeGet]

@[simp] theorem phase_cmdClockStatus (h : Hdr) (p : Bytes) (s : State) : (cmdClockStatus h p s).bly.phase = s.bly.phase := by
  simp [cmdClockStatus]

@[simp] theorem phase_cmdThermalConfig (h : Hdr) (p : Bytes) (s : State) : (cmdThermalConfig h p s).bly.phase = s.bly.phase := by
  simp [cmdThermalConfig]

@[simp] theorem phase_cmdThermalStatus (h : Hdr) (p : Bytes) (s : State) : (cmdThermalStatus h p s).bly.phase = s.bly.phase := by
  simp [cmdThermalStatus]

@[simp] theorem phase_cmdPowerPolicyRead (h : Hdr) (p : Bytes) (s : State) : (cmdPowerPolicyRead h p s).bly.phase = s.bly.phase := by
  simp [cmdPowerPolicyRead]

@[simp] theorem phase_cmdPowerPolicyWrite (h : Hdr) (p : Bytes) (s : State) : (cmdPowerPolicyWrite h p s).bly.phase = s.bly.phase := by
  simp [cmdPowerPolicyWrite]

theorem phase_execPowerStateGet (h : Hdr) (p : Bytes) (s : State) : ∀ t, (execPowerStateGet h p s) = .next t → t.bly.phase = s.bly.phase := by
  exact fun _ e => Host.Outcome.next.inj e ▸ phase_cmdPowerStateGet h p s

theorem phase_execWakeConfig (h : Hdr) (p : Bytes) (s : State) : ∀ t, (execWakeConfig h p s) = .next t → t.bly.phase = s.bly.phase := by
  exact fun _ e => Host.Outcome.next.inj e ▸ phase_cmdWakeConfig h p s

theorem phase_execTickAlarmDisable (h : Hdr) (p : Bytes) (s : State) : ∀ t, (execTickAlarmDisable h p s) = .next t → t.bly.phase = s.bly.phase := by
  exact fun _ e => Host.Outcome.next.inj e ▸ phase_cmdTickAlarmDisable h p s

theorem phase_execTickAlarmAbsolute (h : Hdr) (p : Bytes) (s : State) : ∀ t, (execTickAlarmAbsolute h p s) = .next t → t.bly.phase = s.bly.phase := by
  exact fun _ e => Host.Outcome.next.inj e ▸ phase_cmdTickAlarmAbsolute h p s

theorem phase_execTickAlarmRelative (h : Hdr) (p : Bytes) (s : State) : ∀ t, (execTickAlarmRelative h p s) = .next t → t.bly.phase = s.bly.phase := by
  exact fun _ e => Host.Outcome.next.inj e ▸ phase_cmdTickAlarmRelative h p s

theorem phase_execTimeGet (h : Hdr) (p : Bytes) (s : State) : ∀ t, (execTimeGet h p s) = .next t → t.bly.phase = s.bly.phase := by
  exact fun _ e => Host.Outcome.next.inj e ▸ phase_cmdTimeGet h p s

theorem phase_execClockStatus (h : Hdr) (p : Bytes) (s : State) : ∀ t, (execClockStatus h p s) = .next t → t.bly.phase = s.bly.phase := by
  exact fun _ e => Host.Outcome.next.inj e ▸ phase_cmdClockStatus h p s

theorem phase_execThermalConfig (h : Hdr) (p : Bytes) (s : State) : ∀ t, (execThermalConfig h p s) = .next t → t.bly.phase = s.bly.phase := by
  exact fun _ e => Host.Outcome.next.inj e ▸ phase_cmdThermalConfig h p s

theorem phase_execThermalStatus (h : Hdr) (p : Bytes) (s : State) : ∀ t, (execThermalStatus h p s) = .next t → t.bly.phase = s.bly.phase := by
  exact fun _ e => Host.Outcome.next.inj e ▸ phase_cmdThermalStatus h p s

theorem phase_execPowerPolicyRead (h : Hdr) (p : Bytes) (s : State) : ∀ t, (execPowerPolicyRead h p s) = .next t → t.bly.phase = s.bly.phase := by
  exact fun _ e => Host.Outcome.next.inj e ▸ phase_cmdPowerPolicyRead h p s

theorem phase_execPowerPolicyWrite (h : Hdr) (p : Bytes) (s : State) : ∀ t, (execPowerPolicyWrite h p s) = .next t → t.bly.phase = s.bly.phase := by
  exact fun _ e => Host.Outcome.next.inj e ▸ phase_cmdPowerPolicyWrite h p s

@[simp] theorem phase_onStream (n : Nat) (f : Strm → Strm) (s : State) : (onStream n f s).bly.phase = s.bly.phase := by
  simp [onStream]

@[simp] theorem phase_onChannel (ch : Nat) (f : Channel → Channel) (s : State) : (onChannel ch f s).bly.phase = s.bly.phase := by
  simp [onChannel]

@[simp] theorem phase_setStatus (ch : Nat) (st : BitVec 16) (s : State) : (setStatus ch st s).bly.phase = s.bly.phase := by
  simp [setStatus]

@[simp] theorem phase_statusBit (ch bitNo : Nat) (v : Bool) (s : State) : (statusBit ch bitNo v s).bly.phase = s.bly.phase := by
  simp [statusBit]

@[simp] theorem phase_followStatus (ch : Nat) (s : State) : (followStatus ch s).bly.phase = s.bly.phase := by
  simp [followStatus]

@[simp] theorem phase_cmdAfePinRoleSet (h : Hdr) (p : Bytes) (s : State) : (cmdAfePinRoleSet h p s).bly.phase = s.bly.phase := by
  simp [cmdAfePinRoleSet]

@[simp] theorem phase_cmdAfePinRoleGet (h : Hdr) (p : Bytes) (s : State) : (cmdAfePinRoleGet h p s).bly.phase = s.bly.phase := by
  simp [cmdAfePinRoleGet]

@[simp] theorem phase_cmdAfeChannelConfig (h : Hdr) (p : Bytes) (s : State) : (cmdAfeChannelConfig h p s).bly.phase = s.bly.phase := by
  simp [cmdAfeChannelConfig]

@[simp] theorem phase_cmdAfeChannelGet (h : Hdr) (p : Bytes) (s : State) : (cmdAfeChannelGet h p s).bly.phase = s.bly.phase := by
  simp [cmdAfeChannelGet]

@[simp] theorem phase_cmdAfeExcitationSet (h : Hdr) (p : Bytes) (s : State) : (cmdAfeExcitationSet h p s).bly.phase = s.bly.phase := by
  simp [cmdAfeExcitationSet]

@[simp] theorem phase_leadHigh (pin : Nat) (v : Bool) (s : State) : (leadHigh pin v s).bly.phase = s.bly.phase := by
  simp [leadHigh]

@[simp] theorem phase_storeLead (pin : Nat) (state : BitVec 2) (milli : Nat) (s : State) : (storeLead pin state milli s).bly.phase = s.bly.phase := by
  simp [storeLead]

@[simp] theorem phase_keepLead (kelvin : Bool) (p q milli : Nat) (s : State) : (keepLead kelvin p q milli s).1.bly.phase = s.bly.phase := by
  unfold keepLead; (repeat' split) <;> (first | with_reducible rfl | (simp; done))

@[simp] theorem phase_wantBanks (chs : List Nat) (s : State) : (wantBanks chs s).bly.phase = s.bly.phase := by
  simp [wantBanks]

@[simp] theorem phase_startLead (kelvin : Bool) (h : Hdr) (p : Bytes) (s : State) : (startLead kelvin h p s).bly.phase = s.bly.phase := by
  simp [startLead]

@[simp] theorem phase_cmdAfeLeadMeasureLoop (h : Hdr) (p : Bytes) (s : State) : (cmdAfeLeadMeasureLoop h p s).bly.phase = s.bly.phase := by
  simp [cmdAfeLeadMeasureLoop]

@[simp] theorem phase_cmdAfeLeadMeasureKelvin (h : Hdr) (p : Bytes) (s : State) : (cmdAfeLeadMeasureKelvin h p s).bly.phase = s.bly.phase := by
  simp [cmdAfeLeadMeasureKelvin]

@[simp] theorem phase_cmdAfeLeadMeasureSet (h : Hdr) (p : Bytes) (s : State) : (cmdAfeLeadMeasureSet h p s).bly.phase = s.bly.phase := by
  simp [cmdAfeLeadMeasureSet]

@[simp] theorem phase_cmdAfeLeadGet (h : Hdr) (p : Bytes) (s : State) : (cmdAfeLeadGet h p s).bly.phase = s.bly.phase := by
  simp [cmdAfeLeadGet]

theorem phase_execLeadMeasureDone (picovolts : Nat) (s : State) : ∀ t, (execLeadMeasureDone picovolts s) = .next t → t.bly.phase = s.bly.phase := by
  intro t; unfold execLeadMeasureDone; (try simp only []); (repeat' split) <;> intro h <;> (first | (simp only [Host.Outcome.next.injEq] at h; subst h; first | (simp; done) | (simp_all; done) | (iterate 10 (all_goals (try (first | with_reducible rfl | (refine phase_serve _ _ _ _ _ (fun s' => ?_)) | (refine (phase_refuseIf _ _ _ (fun s' => ?_) _).trans ?_) | (refine phase_receive _ _ _ _ (fun s' => ?_)) | (refine phase_whenReadable _ _ _ _ _ _ (fun s' => ?_)) | (refine (phase_foldl _ (fun s' a => ?_) _ _).trans ?_) | split | (simp; done) | (simp_all; done) | simp))))) | (simp at h; done))

@[simp] theorem phase_onPair (i : Nat) (f : Pair → Pair) (s : State) : (onPair i f s).bly.phase = s.bly.phase := by
  simp [onPair]

@[simp] theorem phase_markPair (i : Nat) (a b : Bool) (s : State) : (markPair i a b s).bly.phase = s.bly.phase := by
  simp [markPair]

@[simp] theorem phase_setPair (i : Nat) (phase : PairPhase) (s : State) : (setPair i phase s).bly.phase = s.bly.phase := by
  simp [setPair]

@[simp] theorem phase_releasePair (i : Nat) (s : State) : (releasePair i s).bly.phase = s.bly.phase := by
  simp [releasePair]

@[simp] theorem phase_cmdAfePairConfigSet (h : Hdr) (p : Bytes) (s : State) : (cmdAfePairConfigSet h p s).bly.phase = s.bly.phase := by
  simp [cmdAfePairConfigSet]

@[simp] theorem phase_cmdAfePairConfigRemove (h : Hdr) (p : Bytes) (s : State) : (cmdAfePairConfigRemove h p s).bly.phase = s.bly.phase := by
  simp [cmdAfePairConfigRemove]

@[simp] theorem phase_cmdAfePairStatus (h : Hdr) (p : Bytes) (s : State) : (cmdAfePairStatus h p s).bly.phase = s.bly.phase := by
  simp [cmdAfePairStatus]

@[simp] theorem phase_cmdAfeDiag (h : Hdr) (p : Bytes) (s : State) : (cmdAfeDiag h p s).bly.phase = s.bly.phase := by
  simp [cmdAfeDiag]

@[simp] theorem phase_cmdAfeCalRun (h : Hdr) (p : Bytes) (s : State) : (cmdAfeCalRun h p s).bly.phase = s.bly.phase := by
  simp [cmdAfeCalRun]

@[simp] theorem phase_cmdAfeBankEnable (h : Hdr) (p : Bytes) (s : State) : (cmdAfeBankEnable h p s).bly.phase = s.bly.phase := by
  simp only [cmdAfeBankEnable]; iterate 10 (all_goals (try (first | with_reducible rfl | (refine phase_serve _ _ _ _ _ (fun s' => ?_)) | (refine (phase_refuseIf _ _ _ (fun s' => ?_) _).trans ?_) | (refine phase_receive _ _ _ _ (fun s' => ?_)) | (refine phase_whenReadable _ _ _ _ _ _ (fun s' => ?_)) | (refine (phase_foldl _ (fun s' a => ?_) _ _).trans ?_) | split | (simp; done) | (simp_all; done) | simp)))

@[simp] theorem phase_leadBegins (ch : Nat) (s : State) : (leadBegins ch s).1.bly.phase = s.bly.phase := by
  unfold leadBegins; (repeat' split) <;> (first | with_reducible rfl | (simp; done))

@[simp] theorem phase_leadSegment (ch leadPicovolts : Nat) (s : State) : (leadSegment ch leadPicovolts s).bly.phase = s.bly.phase := by
  simp [leadSegment]

@[simp] theorem phase_takeCalibration (ch : Nat) (raws : List Int) (step lead vref : Nat) (led : Bool) (prev : Option (Int × Nat)) (s : State) : (takeCalibration ch raws step lead vref led prev s).bly.phase = s.bly.phase := by
  simp [takeCalibration]

theorem phase_execExcLimitEngaged (d : BitVec 3) (s : State) : ∀ t, (execExcLimitEngaged d s) = .next t → t.bly.phase = s.bly.phase := by
  intro t; unfold execExcLimitEngaged; (try simp only []); (repeat' split) <;> intro h <;> (first | (simp only [Host.Outcome.next.injEq] at h; subst h; first | (simp; done) | (simp_all; done) | (iterate 10 (all_goals (try (first | with_reducible rfl | (refine phase_serve _ _ _ _ _ (fun s' => ?_)) | (refine (phase_refuseIf _ _ _ (fun s' => ?_) _).trans ?_) | (refine phase_receive _ _ _ _ (fun s' => ?_)) | (refine phase_whenReadable _ _ _ _ _ _ (fun s' => ?_)) | (refine (phase_foldl _ (fun s' a => ?_) _ _).trans ?_) | split | (simp; done) | (simp_all; done) | simp))))) | (simp at h; done))

theorem phase_execExcLimitReleased (d : BitVec 3) (s : State) : ∀ t, (execExcLimitReleased d s) = .next t → t.bly.phase = s.bly.phase := by
  intro t; unfold execExcLimitReleased; (try simp only []); (repeat' split) <;> intro h <;> (first | (simp only [Host.Outcome.next.injEq] at h; subst h; first | (simp; done) | (simp_all; done) | (iterate 10 (all_goals (try (first | with_reducible rfl | (refine phase_serve _ _ _ _ _ (fun s' => ?_)) | (refine (phase_refuseIf _ _ _ (fun s' => ?_) _).trans ?_) | (refine phase_receive _ _ _ _ (fun s' => ?_)) | (refine phase_whenReadable _ _ _ _ _ _ (fun s' => ?_)) | (refine (phase_foldl _ (fun s' a => ?_) _ _).trans ?_) | split | (simp; done) | (simp_all; done) | simp))))) | (simp at h; done))

theorem phase_execAfePinRoleSet (h : Hdr) (p : Bytes) (s : State) : ∀ t, (execAfePinRoleSet h p s) = .next t → t.bly.phase = s.bly.phase := by
  exact fun _ e => Host.Outcome.next.inj e ▸ phase_cmdAfePinRoleSet h p s

theorem phase_execAfePinRoleGet (h : Hdr) (p : Bytes) (s : State) : ∀ t, (execAfePinRoleGet h p s) = .next t → t.bly.phase = s.bly.phase := by
  exact fun _ e => Host.Outcome.next.inj e ▸ phase_cmdAfePinRoleGet h p s

theorem phase_execAfeChannelConfig (h : Hdr) (p : Bytes) (s : State) : ∀ t, (execAfeChannelConfig h p s) = .next t → t.bly.phase = s.bly.phase := by
  exact fun _ e => Host.Outcome.next.inj e ▸ phase_cmdAfeChannelConfig h p s

theorem phase_execAfeChannelGet (h : Hdr) (p : Bytes) (s : State) : ∀ t, (execAfeChannelGet h p s) = .next t → t.bly.phase = s.bly.phase := by
  exact fun _ e => Host.Outcome.next.inj e ▸ phase_cmdAfeChannelGet h p s

theorem phase_execAfeExcitationSet (h : Hdr) (p : Bytes) (s : State) : ∀ t, (execAfeExcitationSet h p s) = .next t → t.bly.phase = s.bly.phase := by
  exact fun _ e => Host.Outcome.next.inj e ▸ phase_cmdAfeExcitationSet h p s

theorem phase_execAfeLeadMeasureLoop (h : Hdr) (p : Bytes) (s : State) : ∀ t, (execAfeLeadMeasureLoop h p s) = .next t → t.bly.phase = s.bly.phase := by
  exact fun _ e => Host.Outcome.next.inj e ▸ phase_cmdAfeLeadMeasureLoop h p s

theorem phase_execAfeLeadMeasureKelvin (h : Hdr) (p : Bytes) (s : State) : ∀ t, (execAfeLeadMeasureKelvin h p s) = .next t → t.bly.phase = s.bly.phase := by
  exact fun _ e => Host.Outcome.next.inj e ▸ phase_cmdAfeLeadMeasureKelvin h p s

theorem phase_execAfeLeadMeasureSet (h : Hdr) (p : Bytes) (s : State) : ∀ t, (execAfeLeadMeasureSet h p s) = .next t → t.bly.phase = s.bly.phase := by
  exact fun _ e => Host.Outcome.next.inj e ▸ phase_cmdAfeLeadMeasureSet h p s

theorem phase_execAfeLeadGet (h : Hdr) (p : Bytes) (s : State) : ∀ t, (execAfeLeadGet h p s) = .next t → t.bly.phase = s.bly.phase := by
  exact fun _ e => Host.Outcome.next.inj e ▸ phase_cmdAfeLeadGet h p s

theorem phase_execAfePairConfigSet (h : Hdr) (p : Bytes) (s : State) : ∀ t, (execAfePairConfigSet h p s) = .next t → t.bly.phase = s.bly.phase := by
  exact fun _ e => Host.Outcome.next.inj e ▸ phase_cmdAfePairConfigSet h p s

theorem phase_execAfePairConfigRemove (h : Hdr) (p : Bytes) (s : State) : ∀ t, (execAfePairConfigRemove h p s) = .next t → t.bly.phase = s.bly.phase := by
  exact fun _ e => Host.Outcome.next.inj e ▸ phase_cmdAfePairConfigRemove h p s

theorem phase_execAfePairStatus (h : Hdr) (p : Bytes) (s : State) : ∀ t, (execAfePairStatus h p s) = .next t → t.bly.phase = s.bly.phase := by
  exact fun _ e => Host.Outcome.next.inj e ▸ phase_cmdAfePairStatus h p s

theorem phase_execAfeDiag (h : Hdr) (p : Bytes) (s : State) : ∀ t, (execAfeDiag h p s) = .next t → t.bly.phase = s.bly.phase := by
  exact fun _ e => Host.Outcome.next.inj e ▸ phase_cmdAfeDiag h p s

theorem phase_execAfeCalRun (h : Hdr) (p : Bytes) (s : State) : ∀ t, (execAfeCalRun h p s) = .next t → t.bly.phase = s.bly.phase := by
  exact fun _ e => Host.Outcome.next.inj e ▸ phase_cmdAfeCalRun h p s

theorem phase_execAfeBankEnable (h : Hdr) (p : Bytes) (s : State) : ∀ t, (execAfeBankEnable h p s) = .next t → t.bly.phase = s.bly.phase := by
  exact fun _ e => Host.Outcome.next.inj e ▸ phase_cmdAfeBankEnable h p s

@[simp] theorem phase_cmdStreamConfigSet (h : Hdr) (p : Bytes) (s : State) : (cmdStreamConfigSet h p s).bly.phase = s.bly.phase := by
  simp [cmdStreamConfigSet]

@[simp] theorem phase_cmdStreamConfigRemove (h : Hdr) (p : Bytes) (s : State) : (cmdStreamConfigRemove h p s).bly.phase = s.bly.phase := by
  simp [cmdStreamConfigRemove]

@[simp] theorem phase_cmdStreamGet (h : Hdr) (p : Bytes) (s : State) : (cmdStreamGet h p s).bly.phase = s.bly.phase := by
  simp [cmdStreamGet]

@[simp] theorem phase_wantAll (ds : List Nat) (s : State) : (wantAll ds s).bly.phase = s.bly.phase := by
  simp [wantAll]

@[simp] theorem phase_cmdStreamStart (h : Hdr) (p : Bytes) (s : State) : (cmdStreamStart h p s).bly.phase = s.bly.phase := by
  simp only [cmdStreamStart]; iterate 10 (all_goals (try (first | with_reducible rfl | (refine phase_serve _ _ _ _ _ (fun s' => ?_)) | (refine (phase_refuseIf _ _ _ (fun s' => ?_) _).trans ?_) | (refine phase_receive _ _ _ _ (fun s' => ?_)) | (refine phase_whenReadable _ _ _ _ _ _ (fun s' => ?_)) | (refine (phase_foldl _ (fun s' a => ?_) _ _).trans ?_) | split | (simp; done) | (simp_all; done) | simp)))

@[simp] theorem phase_followPairs (n : Nat) (s : State) : (followPairs n s).bly.phase = s.bly.phase := by
  simp [followPairs]

@[simp] theorem phase_startStream (n : Nat) (s : State) : (startStream n s).bly.phase = s.bly.phase := by
  simp [startStream]

theorem phase_execStreamStartInstant (s : State) : ∀ t, (execStreamStartInstant s) = .next t → t.bly.phase = s.bly.phase := by
  intro t; unfold execStreamStartInstant; (try simp only []); (repeat' split) <;> intro h <;> (first | (simp only [Host.Outcome.next.injEq] at h; subst h; first | (simp; done) | (simp_all; done) | (iterate 10 (all_goals (try (first | with_reducible rfl | (refine phase_serve _ _ _ _ _ (fun s' => ?_)) | (refine (phase_refuseIf _ _ _ (fun s' => ?_) _).trans ?_) | (refine phase_receive _ _ _ _ (fun s' => ?_)) | (refine phase_whenReadable _ _ _ _ _ _ (fun s' => ?_)) | (refine (phase_foldl _ (fun s' a => ?_) _ _).trans ?_) | split | (simp; done) | (simp_all; done) | simp))))) | (simp at h; done))

@[simp] theorem phase_discardFrame (n : Nat) (s : State) : (discardFrame n s).bly.phase = s.bly.phase := by
  simp [discardFrame]

@[simp] theorem phase_dropSnapshot (n : Nat) (s : State) : (dropSnapshot n s).bly.phase = s.bly.phase := by
  unfold dropSnapshot; (repeat' split) <;> (first | with_reducible rfl | (simp; done))

@[simp] theorem phase_finishStops (s : State) : (finishStops s).bly.phase = s.bly.phase := by
  simp [finishStops]

@[simp] theorem phase_stopStream (n : Nat) (s : State) : (stopStream n s).bly.phase = s.bly.phase := by
  simp [stopStream]

@[simp] theorem phase_cmdStreamStopNow (h : Hdr) (p : Bytes) (s : State) : (cmdStreamStopNow h p s).bly.phase = s.bly.phase := by
  simp [cmdStreamStopNow]

@[simp] theorem phase_cmdStreamStopAfterFrame (h : Hdr) (p : Bytes) (s : State) : (cmdStreamStopAfterFrame h p s).bly.phase = s.bly.phase := by
  simp [cmdStreamStopAfterFrame]

@[simp] theorem phase_cmdSportConfig (h : Hdr) (p : Bytes) (s : State) : (cmdSportConfig h p s).bly.phase = s.bly.phase := by
  simp [cmdSportConfig]

@[simp] theorem phase_cmdSportGet (h : Hdr) (p : Bytes) (s : State) : (cmdSportGet h p s).bly.phase = s.bly.phase := by
  simp [cmdSportGet]

@[simp] theorem phase_cmdTachConfig (h : Hdr) (p : Bytes) (s : State) : (cmdTachConfig h p s).bly.phase = s.bly.phase := by
  simp [cmdTachConfig]

@[simp] theorem phase_beltEvent (old : PosState) (s : State) : (beltEvent old s).bly.phase = s.bly.phase := by
  simp [beltEvent]

@[simp] theorem phase_onBelt (f : Belt → Belt) (s : State) : (onBelt f s).bly.phase = s.bly.phase := by
  simp [onBelt]

@[simp] theorem phase_cmdEncConfig (h : Hdr) (p : Bytes) (s : State) : (cmdEncConfig h p s).bly.phase = s.bly.phase := by
  simp [cmdEncConfig]

@[simp] theorem phase_streamCounters (clear : Bool) (h : Hdr) (p : Bytes) (s : State) : (streamCounters clear h p s).bly.phase = s.bly.phase := by
  simp [streamCounters]

@[simp] theorem phase_cmdStreamCounters (h : Hdr) (p : Bytes) (s : State) : (cmdStreamCounters h p s).bly.phase = s.bly.phase := by
  simp [cmdStreamCounters]

@[simp] theorem phase_cmdStreamCountersClear (h : Hdr) (p : Bytes) (s : State) : (cmdStreamCountersClear h p s).bly.phase = s.bly.phase := by
  simp [cmdStreamCountersClear]

@[simp] theorem phase_cmdStreamSnapshot (h : Hdr) (p : Bytes) (s : State) : (cmdStreamSnapshot h p s).bly.phase = s.bly.phase := by
  simp [cmdStreamSnapshot]

theorem phase_execFrameStart (stream : BitVec 7) (s : State) : ∀ t, (execFrameStart stream s) = .next t → t.bly.phase = s.bly.phase := by
  intro t; unfold execFrameStart; (try simp only []); (repeat' split) <;> intro h <;> (first | (simp only [Host.Outcome.next.injEq] at h; subst h; first | (simp; done) | (simp_all; done) | (iterate 10 (all_goals (try (first | with_reducible rfl | (refine phase_serve _ _ _ _ _ (fun s' => ?_)) | (refine (phase_refuseIf _ _ _ (fun s' => ?_) _).trans ?_) | (refine phase_receive _ _ _ _ (fun s' => ?_)) | (refine phase_whenReadable _ _ _ _ _ _ (fun s' => ?_)) | (refine (phase_foldl _ (fun s' a => ?_) _ _).trans ?_) | split | (simp; done) | (simp_all; done) | simp))))) | (simp at h; done))

theorem phase_execDriverSettleDone (d : BitVec 3) (s : State) : ∀ t, execDriverSettleDone d s = .next t → t.bly.phase = s.bly.phase := by
  intro t; unfold execDriverSettleDone; (try simp only []); (repeat' split) <;> intro h <;> (first | (simp only [Host.Outcome.next.injEq] at h; subst h; first | (simp; done) | (simp_all; done) | (iterate 10 (all_goals (try (first | with_reducible rfl | (refine phase_receive _ _ _ _ (fun s' => ?_)) | (refine (phase_foldl _ (fun s' a => ?_) _ _).trans ?_) | split | (simp; done) | (simp_all; done) | simp))))) | (simp at h; done))

@[simp] theorem phase_onFrame (n : Nat) (f : OpenFrame → OpenFrame) (s : State) : (onFrame n f s).bly.phase = s.bly.phase := by
  simp [onFrame]

@[simp] theorem phase_pushSample (n : Nat) (cls : SampleClass) (v : Int) (saturated : Bool) (s : State) : (pushSample n cls v saturated s).bly.phase = s.bly.phase := by
  simp [pushSample]

@[simp] theorem phase_takeAnalog (n : Nat) (picovolts : Int) (drive sense : Nat) (overload : Bool) (s : State) :
    (takeAnalog n picovolts drive sense overload s).bly.phase = s.bly.phase := by
  simp only [takeAnalog]
  split
  · rfl
  · split
    · rfl
    · split
      · split <;> simp
      · rfl
    · split
      · rfl
      · split <;> simp
    · split
      · rfl
      · split <;> simp

@[simp] theorem phase_takeDigital (n : Nat) (word : Nat) (s : State) : (takeDigital n word s).bly.phase = s.bly.phase := by
  simp only [takeDigital]; iterate 10 (all_goals (try (first | with_reducible rfl | (refine phase_serve _ _ _ _ _ (fun s' => ?_)) | (refine (phase_refuseIf _ _ _ (fun s' => ?_) _).trans ?_) | (refine phase_receive _ _ _ _ (fun s' => ?_)) | (refine phase_whenReadable _ _ _ _ _ _ (fun s' => ?_)) | (refine (phase_foldl _ (fun s' a => ?_) _ _).trans ?_) | split | (simp; done) | (simp_all; done) | simp)))

theorem phase_execSampleArrival (stream : BitVec 7) (picovolts : Int) (drive sense : Nat) (overload : Bool) (s : State) : ∀ t, (execSampleArrival stream picovolts drive sense overload s) = .next t → t.bly.phase = s.bly.phase := by
  intro t; unfold execSampleArrival; (try simp only []); (repeat' split) <;> intro h <;> (first | (simp only [Host.Outcome.next.injEq] at h; subst h; first | (simp; done) | (simp_all; done) | (iterate 10 (all_goals (try (first | with_reducible rfl | (refine phase_serve _ _ _ _ _ (fun s' => ?_)) | (refine (phase_refuseIf _ _ _ (fun s' => ?_) _).trans ?_) | (refine phase_receive _ _ _ _ (fun s' => ?_)) | (refine phase_whenReadable _ _ _ _ _ _ (fun s' => ?_)) | (refine (phase_foldl _ (fun s' a => ?_) _ _).trans ?_) | split | (simp; done) | (simp_all; done) | simp))))) | (simp at h; done))

theorem phase_execFabricTransaction (stream : BitVec 7) (rest : Bool) (s : State) : ∀ t, (execFabricTransaction stream rest s) = .next t → t.bly.phase = s.bly.phase := by
  intro t; unfold execFabricTransaction; (try simp only []); (repeat' split) <;> intro h <;> (first | (simp only [Host.Outcome.next.injEq] at h; subst h; first | (simp; done) | (simp_all; done) | (iterate 10 (all_goals (try (first | with_reducible rfl | (refine phase_serve _ _ _ _ _ (fun s' => ?_)) | (refine (phase_refuseIf _ _ _ (fun s' => ?_) _).trans ?_) | (refine phase_receive _ _ _ _ (fun s' => ?_)) | (refine phase_whenReadable _ _ _ _ _ _ (fun s' => ?_)) | (refine (phase_foldl _ (fun s' a => ?_) _ _).trans ?_) | split | (simp; done) | (simp_all; done) | simp))))) | (simp at h; done))

@[simp] theorem phase_beginMeasurement (n : Nat) (s : State) : (beginMeasurement n s).bly.phase = s.bly.phase := by
  simp [beginMeasurement]

@[simp] theorem phase_swallowed (n : Nat) (s : State) : (swallowed n s).bly.phase = s.bly.phase := by
  simp [swallowed]

theorem phase_execCalBurstComplete (channel : BitVec 5) (raws : List Int) (step lead drive sense : Nat) (s : State) : ∀ t, (execCalBurstComplete channel raws step lead drive sense s) = .next t → t.bly.phase = s.bly.phase := by
  intro t; unfold execCalBurstComplete; (try simp only []); (repeat' split) <;> intro h <;> (first | (simp only [Host.Outcome.next.injEq] at h; subst h; first | (simp; done) | (simp_all; done) | (iterate 10 (all_goals (try (first | with_reducible rfl | (refine phase_serve _ _ _ _ _ (fun s' => ?_)) | (refine (phase_refuseIf _ _ _ (fun s' => ?_) _).trans ?_) | (refine phase_receive _ _ _ _ (fun s' => ?_)) | (refine phase_whenReadable _ _ _ _ _ _ (fun s' => ?_)) | (refine (phase_foldl _ (fun s' a => ?_) _ _).trans ?_) | split | (simp; done) | (simp_all; done) | simp))))) | (simp at h; done))

theorem phase_execStreamConfigSet (h : Hdr) (p : Bytes) (s : State) : ∀ t, (execStreamConfigSet h p s) = .next t → t.bly.phase = s.bly.phase := by
  exact fun _ e => Host.Outcome.next.inj e ▸ phase_cmdStreamConfigSet h p s

theorem phase_execStreamConfigRemove (h : Hdr) (p : Bytes) (s : State) : ∀ t, (execStreamConfigRemove h p s) = .next t → t.bly.phase = s.bly.phase := by
  exact fun _ e => Host.Outcome.next.inj e ▸ phase_cmdStreamConfigRemove h p s

theorem phase_execStreamGet (h : Hdr) (p : Bytes) (s : State) : ∀ t, (execStreamGet h p s) = .next t → t.bly.phase = s.bly.phase := by
  exact fun _ e => Host.Outcome.next.inj e ▸ phase_cmdStreamGet h p s

theorem phase_execStreamStart (h : Hdr) (p : Bytes) (s : State) : ∀ t, (execStreamStart h p s) = .next t → t.bly.phase = s.bly.phase := by
  exact fun _ e => Host.Outcome.next.inj e ▸ phase_cmdStreamStart h p s

theorem phase_execStreamStopNow (h : Hdr) (p : Bytes) (s : State) : ∀ t, (execStreamStopNow h p s) = .next t → t.bly.phase = s.bly.phase := by
  exact fun _ e => Host.Outcome.next.inj e ▸ phase_cmdStreamStopNow h p s

theorem phase_execStreamStopAfterFrame (h : Hdr) (p : Bytes) (s : State) : ∀ t, (execStreamStopAfterFrame h p s) = .next t → t.bly.phase = s.bly.phase := by
  exact fun _ e => Host.Outcome.next.inj e ▸ phase_cmdStreamStopAfterFrame h p s

theorem phase_execSportConfig (h : Hdr) (p : Bytes) (s : State) : ∀ t, (execSportConfig h p s) = .next t → t.bly.phase = s.bly.phase := by
  exact fun _ e => Host.Outcome.next.inj e ▸ phase_cmdSportConfig h p s

theorem phase_execSportGet (h : Hdr) (p : Bytes) (s : State) : ∀ t, (execSportGet h p s) = .next t → t.bly.phase = s.bly.phase := by
  exact fun _ e => Host.Outcome.next.inj e ▸ phase_cmdSportGet h p s

theorem phase_execTachConfig (h : Hdr) (p : Bytes) (s : State) : ∀ t, (execTachConfig h p s) = .next t → t.bly.phase = s.bly.phase := by
  exact fun _ e => Host.Outcome.next.inj e ▸ phase_cmdTachConfig h p s

theorem phase_execEncConfig (h : Hdr) (p : Bytes) (s : State) : ∀ t, (execEncConfig h p s) = .next t → t.bly.phase = s.bly.phase := by
  exact fun _ e => Host.Outcome.next.inj e ▸ phase_cmdEncConfig h p s

theorem phase_execStreamCounters (h : Hdr) (p : Bytes) (s : State) : ∀ t, (execStreamCounters h p s) = .next t → t.bly.phase = s.bly.phase := by
  exact fun _ e => Host.Outcome.next.inj e ▸ phase_cmdStreamCounters h p s

theorem phase_execStreamCountersClear (h : Hdr) (p : Bytes) (s : State) : ∀ t, (execStreamCountersClear h p s) = .next t → t.bly.phase = s.bly.phase := by
  exact fun _ e => Host.Outcome.next.inj e ▸ phase_cmdStreamCountersClear h p s

theorem phase_execStreamSnapshot (h : Hdr) (p : Bytes) (s : State) : ∀ t, (execStreamSnapshot h p s) = .next t → t.bly.phase = s.bly.phase := by
  exact fun _ e => Host.Outcome.next.inj e ▸ phase_cmdStreamSnapshot h p s

@[simp] theorem phase_onFeature (n : Nat) (f : FeatureStream → FeatureStream) (s : State) : (onFeature n f s).bly.phase = s.bly.phase := by
  simp [onFeature]

@[simp] theorem phase_beltCount (d : Int) (s : State) : (beltCount d s).bly.phase = s.bly.phase := by
  simp [beltCount]

@[simp] theorem phase_spliceAnomaly (kind : Byte) (gap : Nat) (s : State) : (spliceAnomaly kind gap s).bly.phase = s.bly.phase := by
  simp [spliceAnomaly]

@[simp] theorem phase_spliceMark (s : State) : (spliceMark s).bly.phase = s.bly.phase := by
  simp only [spliceMark]; iterate 10 (all_goals (try (first | with_reducible rfl | (refine phase_serve _ _ _ _ _ (fun s' => ?_)) | (refine (phase_refuseIf _ _ _ (fun s' => ?_) _).trans ?_) | (refine phase_receive _ _ _ _ (fun s' => ?_)) | (refine phase_whenReadable _ _ _ _ _ _ (fun s' => ?_)) | (refine (phase_foldl _ (fun s' a => ?_) _ _).trans ?_) | split | (simp; done) | (simp_all; done) | simp)))

theorem phase_execSpliceMark (high : Bool) (held : Nat) (s : State) : ∀ t, (execSpliceMark high held s) = .next t → t.bly.phase = s.bly.phase := by
  intro t; unfold execSpliceMark; (try simp only []); (repeat' split) <;> intro h <;> (first | (simp only [Host.Outcome.next.injEq] at h; subst h; first | (simp; done) | (simp_all; done) | (iterate 10 (all_goals (try (first | with_reducible rfl | (refine phase_serve _ _ _ _ _ (fun s' => ?_)) | (refine (phase_refuseIf _ _ _ (fun s' => ?_) _).trans ?_) | (refine phase_receive _ _ _ _ (fun s' => ?_)) | (refine phase_whenReadable _ _ _ _ _ _ (fun s' => ?_)) | (refine (phase_foldl _ (fun s' a => ?_) _ _).trans ?_) | split | (simp; done) | (simp_all; done) | simp))))) | (simp at h; done))

@[simp] theorem phase_encoderLost (s : State) : (encoderLost s).bly.phase = s.bly.phase := by
  simp [encoderLost]

@[simp] theorem phase_encPhase (p : InputPhase) (s : State) : (encPhase p s).bly.phase = s.bly.phase := by
  simp [encPhase]

theorem phase_execEncIdle (s : State) : ∀ t, (execEncIdle s) = .next t → t.bly.phase = s.bly.phase := by
  intro t; unfold execEncIdle; (try simp only []); (repeat' split) <;> intro h <;> (first | (simp only [Host.Outcome.next.injEq] at h; subst h; first | (simp; done) | (simp_all; done) | (iterate 10 (all_goals (try (first | with_reducible rfl | (refine phase_serve _ _ _ _ _ (fun s' => ?_)) | (refine (phase_refuseIf _ _ _ (fun s' => ?_) _).trans ?_) | (refine phase_receive _ _ _ _ (fun s' => ?_)) | (refine phase_whenReadable _ _ _ _ _ _ (fun s' => ?_)) | (refine (phase_foldl _ (fun s' a => ?_) _ _).trans ?_) | split | (simp; done) | (simp_all; done) | simp))))) | (simp at h; done))

theorem phase_execEncoderSlip (s : State) : ∀ t, (execEncoderSlip s) = .next t → t.bly.phase = s.bly.phase := by
  intro t; unfold execEncoderSlip; (try simp only []); (repeat' split) <;> intro h <;> (first | (simp only [Host.Outcome.next.injEq] at h; subst h; first | (simp; done) | (simp_all; done) | (iterate 10 (all_goals (try (first | with_reducible rfl | (refine phase_serve _ _ _ _ _ (fun s' => ?_)) | (refine (phase_refuseIf _ _ _ (fun s' => ?_) _).trans ?_) | (refine phase_receive _ _ _ _ (fun s' => ?_)) | (refine phase_whenReadable _ _ _ _ _ _ (fun s' => ?_)) | (refine (phase_foldl _ (fun s' a => ?_) _ _).trans ?_) | split | (simp; done) | (simp_all; done) | simp))))) | (simp at h; done))

theorem phase_execEncoderRestored (s : State) : ∀ t, (execEncoderRestored s) = .next t → t.bly.phase = s.bly.phase := by
  intro t; unfold execEncoderRestored; (try simp only []); (repeat' split) <;> intro h <;> (first | (simp only [Host.Outcome.next.injEq] at h; subst h; first | (simp; done) | (simp_all; done) | (iterate 10 (all_goals (try (first | with_reducible rfl | (refine phase_serve _ _ _ _ _ (fun s' => ?_)) | (refine (phase_refuseIf _ _ _ (fun s' => ?_) _).trans ?_) | (refine phase_receive _ _ _ _ (fun s' => ?_)) | (refine phase_whenReadable _ _ _ _ _ _ (fun s' => ?_)) | (refine (phase_foldl _ (fun s' a => ?_) _ _).trans ?_) | split | (simp; done) | (simp_all; done) | simp))))) | (simp at h; done))

theorem phase_execEncEdge (a b : Bool) (held ns : Nat) (s : State) : ∀ t, (execEncEdge a b held ns s) = .next t → t.bly.phase = s.bly.phase := by
  intro t; unfold execEncEdge; (try simp only []); (repeat' split) <;> intro h <;> (first | (simp only [Host.Outcome.next.injEq] at h; subst h; first | (simp; done) | (simp_all; done) | (iterate 10 (all_goals (try (first | with_reducible rfl | (refine phase_serve _ _ _ _ _ (fun s' => ?_)) | (refine (phase_refuseIf _ _ _ (fun s' => ?_) _).trans ?_) | (refine phase_receive _ _ _ _ (fun s' => ?_)) | (refine phase_whenReadable _ _ _ _ _ _ (fun s' => ?_)) | (refine (phase_foldl _ (fun s' a => ?_) _ _).trans ?_) | split | (simp; done) | (simp_all; done) | simp))))) | (simp at h; done))

@[simp] theorem phase_cmdBeltPositionGet (h : Hdr) (p : Bytes) (s : State) : (cmdBeltPositionGet h p s).bly.phase = s.bly.phase := by
  simp [cmdBeltPositionGet]

@[simp] theorem phase_cmdBeltConfigSet (h : Hdr) (p : Bytes) (s : State) : (cmdBeltConfigSet h p s).bly.phase = s.bly.phase := by
  simp [cmdBeltConfigSet]

@[simp] theorem phase_cmdBeltConfigDisable (h : Hdr) (p : Bytes) (s : State) : (cmdBeltConfigDisable h p s).bly.phase = s.bly.phase := by
  simp [cmdBeltConfigDisable]

@[simp] theorem phase_cmdSetIndex (h : Hdr) (p : Bytes) (s : State) : (cmdSetIndex h p s).bly.phase = s.bly.phase := by
  simp [cmdSetIndex]

@[simp] theorem phase_cmdBeltClearCount (h : Hdr) (p : Bytes) (s : State) : (cmdBeltClearCount h p s).bly.phase = s.bly.phase := by
  simp [cmdBeltClearCount]

@[simp] theorem phase_featureSet (h : Hdr) (n : Nat) (same bad : Bool) (f : FeatureStream → FeatureStream) (s : State) : (featureSet h n same bad f s).bly.phase = s.bly.phase := by
  simp [featureSet]

@[simp] theorem phase_cmdFeatConfigSet (h : Hdr) (p : Bytes) (s : State) : (cmdFeatConfigSet h p s).bly.phase = s.bly.phase := by
  simp [cmdFeatConfigSet]

@[simp] theorem phase_cmdFeatConfigRemove (h : Hdr) (p : Bytes) (s : State) : (cmdFeatConfigRemove h p s).bly.phase = s.bly.phase := by
  simp [cmdFeatConfigRemove]

@[simp] theorem phase_cmdFeatGet (h : Hdr) (p : Bytes) (s : State) : (cmdFeatGet h p s).bly.phase = s.bly.phase := by
  simp [cmdFeatGet]

@[simp] theorem phase_cmdFeatOrderConfig (h : Hdr) (p : Bytes) (s : State) : (cmdFeatOrderConfig h p s).bly.phase = s.bly.phase := by
  simp [cmdFeatOrderConfig]

@[simp] theorem phase_cmdFeatBandsSet (h : Hdr) (p : Bytes) (s : State) : (cmdFeatBandsSet h p s).bly.phase = s.bly.phase := by
  simp [cmdFeatBandsSet]

@[simp] theorem phase_cmdFeatStateConfig (h : Hdr) (p : Bytes) (s : State) : (cmdFeatStateConfig h p s).bly.phase = s.bly.phase := by
  simp [cmdFeatStateConfig]

@[simp] theorem phase_cmdFeatFrameRead (h : Hdr) (p : Bytes) (s : State) : (cmdFeatFrameRead h p s).bly.phase = s.bly.phase := by
  simp [cmdFeatFrameRead]

@[simp] theorem phase_frameContext (n : Nat) (t0 t1 : Word64) (q : BeltView) (s : State) : (frameContext n t0 t1 q s).2.bly.phase = s.bly.phase := by
  simp [frameContext]

@[simp] theorem phase_completePair (i : Nat) (which : ClosedFrame → Bool) (s : State) : (completePair i which s).bly.phase = s.bly.phase := by
  simp [completePair]

@[simp] theorem phase_skipPair (i : Nat) (which : ClosedFrame → Bool) (s : State) : (skipPair i which s).bly.phase = s.bly.phase := by
  simp [skipPair]

@[simp] theorem phase_comparePair (i : Nat) (a b : ClosedFrame) (s : State) : (comparePair i a b s).bly.phase = s.bly.phase := by
  simp [comparePair]

@[simp] theorem phase_pairClosed (i n : Nat) (s : State) : (pairClosed i n s).bly.phase = s.bly.phase := by
  simp only [pairClosed]; (repeat' split) <;> (first | with_reducible rfl | (simp; done) | (simp_all; done))

theorem phase_execPairPartnerTimeout (pair : BitVec 4) (s : State) : ∀ t, (execPairPartnerTimeout pair s) = .next t → t.bly.phase = s.bly.phase := by
  intro t; unfold execPairPartnerTimeout; (try simp only []); (repeat' split) <;> intro h <;> (first | (simp only [Host.Outcome.next.injEq] at h; subst h; first | (simp; done) | (simp_all; done) | (iterate 10 (all_goals (try (first | with_reducible rfl | (refine phase_serve _ _ _ _ _ (fun s' => ?_)) | (refine (phase_refuseIf _ _ _ (fun s' => ?_) _).trans ?_) | (refine phase_receive _ _ _ _ (fun s' => ?_)) | (refine phase_whenReadable _ _ _ _ _ _ (fun s' => ?_)) | (refine (phase_foldl _ (fun s' a => ?_) _ _).trans ?_) | split | (simp; done) | (simp_all; done) | simp))))) | (simp at h; done))

@[simp] theorem phase_lossEvent (n : Nat) (f : ClosedFrame) (s : State) : (lossEvent n f s).bly.phase = s.bly.phase := by
  simp [lossEvent]

@[simp] theorem phase_closeChannel (n : Nat) (s : State) : (closeChannel n s).bly.phase = s.bly.phase := by
  simp [closeChannel]

@[simp] theorem phase_takeSnapshot (n : Nat) (f : ClosedFrame) (s : State) : (takeSnapshot n f s).bly.phase = s.bly.phase := by
  unfold takeSnapshot; (repeat' split) <;> (first | with_reducible rfl | (simp; done))

@[simp] theorem phase_closeFrame (n : Nat) (cause : Byte) (lost : Bool) (s : State) : (closeFrame n cause lost s).bly.phase = s.bly.phase := by
  unfold closeFrame
  split
  · rfl
  · extract_lets x samples s1 c ppr s2 f1 s3 ctx s4 pair closed count s5 s6 s7 s8 limit
    have h1 : (s1).bly.phase = s.bly.phase := by simp only [s1]; split <;> simp
    have h2 : (s2).bly.phase = s.bly.phase := by rcases Bool.eq_false_or_eq_true samples.isEmpty with hb | hb <;> simp [s2, hb, h1]
    have h3 : (s3).bly.phase = s.bly.phase := by by_cases hb : (f1.stored == 0) = true <;> simp [s3, hb, h2]
    have h4 : (s4).bly.phase = s.bly.phase := by simp [s4, ctx, h3]
    have h7 : (s7).bly.phase = s.bly.phase := by
      have h6 : (s6).bly.phase = s.bly.phase := by simp [s6, s5, h4]
      clear_value s6 pair
      simp only [s7]
      cases pair <;> simp [h6]
    have h8 : (s8).bly.phase = s.bly.phase := by simp [s8, h7]
    (repeat' split) <;> simp [h8]

theorem phase_execFrameClose (stream : BitVec 7) (s : State) : ∀ t, (execFrameClose stream s) = .next t → t.bly.phase = s.bly.phase := by
  intro t; unfold execFrameClose; (try simp only []); (repeat' split) <;> intro h <;> (first | (simp only [Host.Outcome.next.injEq] at h; subst h; first | (simp; done) | (simp_all; done) | (iterate 10 (all_goals (try (first | with_reducible rfl | (refine phase_serve _ _ _ _ _ (fun s' => ?_)) | (refine (phase_refuseIf _ _ _ (fun s' => ?_) _).trans ?_) | (refine phase_receive _ _ _ _ (fun s' => ?_)) | (refine phase_whenReadable _ _ _ _ _ _ (fun s' => ?_)) | (refine (phase_foldl _ (fun s' a => ?_) _ _).trans ?_) | split | (simp; done) | (simp_all; done) | simp))))) | (simp at h; done))

@[simp] theorem phase_onPort (i : Nat) (f : Port → Port) (s : State) : (onPort i f s).bly.phase = s.bly.phase := by
  simp [onPort]

@[simp] theorem phase_sportEvent (i : Nat) (new prev : Byte) (s : State) : (sportEvent i new prev s).bly.phase = s.bly.phase := by
  simp [sportEvent]

theorem phase_execTdmFrameSync (port : BitVec 2) (rising : Bool) (onRise onFall : List Bool) (hz : Nat) (s : State) : ∀ t, (execTdmFrameSync port rising onRise onFall hz s) = .next t → t.bly.phase = s.bly.phase := by
  intro t; unfold execTdmFrameSync; (try simp only []); (repeat' split) <;> intro h <;> (first | (simp only [Host.Outcome.next.injEq] at h; subst h; first | (simp; done) | (simp_all; done) | (iterate 10 (all_goals (try (first | with_reducible rfl | (refine phase_serve _ _ _ _ _ (fun s' => ?_)) | (refine (phase_refuseIf _ _ _ (fun s' => ?_) _).trans ?_) | (refine phase_receive _ _ _ _ (fun s' => ?_)) | (refine phase_whenReadable _ _ _ _ _ _ (fun s' => ?_)) | (refine (phase_foldl _ (fun s' a => ?_) _ _).trans ?_) | split | (simp; done) | (simp_all; done) | simp))))) | (simp at h; done))

theorem phase_execSportLost (port : BitVec 2) (s : State) : ∀ t, (execSportLost port s) = .next t → t.bly.phase = s.bly.phase := by
  intro t; unfold execSportLost; (try simp only []); (repeat' split) <;> intro h <;> (first | (simp only [Host.Outcome.next.injEq] at h; subst h; first | (simp; done) | (simp_all; done) | (iterate 10 (all_goals (try (first | with_reducible rfl | (refine phase_serve _ _ _ _ _ (fun s' => ?_)) | (refine (phase_refuseIf _ _ _ (fun s' => ?_) _).trans ?_) | (refine phase_receive _ _ _ _ (fun s' => ?_)) | (refine phase_whenReadable _ _ _ _ _ _ (fun s' => ?_)) | (refine (phase_foldl _ (fun s' a => ?_) _ _).trans ?_) | split | (simp; done) | (simp_all; done) | simp))))) | (simp at h; done))

theorem phase_execSpiPoll (port : BitVec 2) (sensor : Nat) (reply : Bytes) (s : State) : ∀ t, (execSpiPoll port sensor reply s) = .next t → t.bly.phase = s.bly.phase := by
  intro t; unfold execSpiPoll; (try simp only []); (repeat' split) <;> intro h <;> (first | (simp only [Host.Outcome.next.injEq] at h; subst h; first | (simp; done) | (simp_all; done) | (iterate 10 (all_goals (try (first | with_reducible rfl | (refine phase_serve _ _ _ _ _ (fun s' => ?_)) | (refine (phase_refuseIf _ _ _ (fun s' => ?_) _).trans ?_) | (refine phase_receive _ _ _ _ (fun s' => ?_)) | (refine phase_whenReadable _ _ _ _ _ _ (fun s' => ?_)) | (refine (phase_foldl _ (fun s' a => ?_) _ _).trans ?_) | split | (simp; done) | (simp_all; done) | simp))))) | (simp at h; done))

@[simp] theorem phase_queuePressure (q now depth : Nat) (s : State) : (queuePressure q now depth s).bly.phase = s.bly.phase := by
  simp [queuePressure]

theorem phase_execFeatureFrameTake (s : State) : ∀ t, (execFeatureFrameTake s) = .next t → t.bly.phase = s.bly.phase := by
  intro t; unfold execFeatureFrameTake; (try simp only []); (repeat' split) <;> intro h <;> (first | (simp only [Host.Outcome.next.injEq] at h; subst h; first | (simp; done) | (simp_all; done) | (iterate 10 (all_goals (try (first | with_reducible rfl | (refine phase_serve _ _ _ _ _ (fun s' => ?_)) | (refine (phase_refuseIf _ _ _ (fun s' => ?_) _).trans ?_) | (refine phase_receive _ _ _ _ (fun s' => ?_)) | (refine phase_whenReadable _ _ _ _ _ _ (fun s' => ?_)) | (refine (phase_foldl _ (fun s' a => ?_) _ _).trans ?_) | split | (simp; done) | (simp_all; done) | simp))))) | (simp at h; done))

theorem phase_execFeatConfigSet (h : Hdr) (p : Bytes) (s : State) : ∀ t, (execFeatConfigSet h p s) = .next t → t.bly.phase = s.bly.phase := by
  exact fun _ e => Host.Outcome.next.inj e ▸ phase_cmdFeatConfigSet h p s

theorem phase_execFeatConfigRemove (h : Hdr) (p : Bytes) (s : State) : ∀ t, (execFeatConfigRemove h p s) = .next t → t.bly.phase = s.bly.phase := by
  exact fun _ e => Host.Outcome.next.inj e ▸ phase_cmdFeatConfigRemove h p s

theorem phase_execFeatGet (h : Hdr) (p : Bytes) (s : State) : ∀ t, (execFeatGet h p s) = .next t → t.bly.phase = s.bly.phase := by
  exact fun _ e => Host.Outcome.next.inj e ▸ phase_cmdFeatGet h p s

theorem phase_execFeatOrderConfig (h : Hdr) (p : Bytes) (s : State) : ∀ t, (execFeatOrderConfig h p s) = .next t → t.bly.phase = s.bly.phase := by
  exact fun _ e => Host.Outcome.next.inj e ▸ phase_cmdFeatOrderConfig h p s

theorem phase_execFeatBandsSet (h : Hdr) (p : Bytes) (s : State) : ∀ t, (execFeatBandsSet h p s) = .next t → t.bly.phase = s.bly.phase := by
  exact fun _ e => Host.Outcome.next.inj e ▸ phase_cmdFeatBandsSet h p s

theorem phase_execFeatStateConfig (h : Hdr) (p : Bytes) (s : State) : ∀ t, (execFeatStateConfig h p s) = .next t → t.bly.phase = s.bly.phase := by
  exact fun _ e => Host.Outcome.next.inj e ▸ phase_cmdFeatStateConfig h p s

theorem phase_execFeatFrameRead (h : Hdr) (p : Bytes) (s : State) : ∀ t, (execFeatFrameRead h p s) = .next t → t.bly.phase = s.bly.phase := by
  exact fun _ e => Host.Outcome.next.inj e ▸ phase_cmdFeatFrameRead h p s

theorem phase_execBeltPositionGet (h : Hdr) (p : Bytes) (s : State) : ∀ t, (execBeltPositionGet h p s) = .next t → t.bly.phase = s.bly.phase := by
  exact fun _ e => Host.Outcome.next.inj e ▸ phase_cmdBeltPositionGet h p s

theorem phase_execBeltConfigDisable (h : Hdr) (p : Bytes) (s : State) : ∀ t, (execBeltConfigDisable h p s) = .next t → t.bly.phase = s.bly.phase := by
  exact fun _ e => Host.Outcome.next.inj e ▸ phase_cmdBeltConfigDisable h p s

theorem phase_execBeltConfigSet (h : Hdr) (p : Bytes) (s : State) : ∀ t, (execBeltConfigSet h p s) = .next t → t.bly.phase = s.bly.phase := by
  exact fun _ e => Host.Outcome.next.inj e ▸ phase_cmdBeltConfigSet h p s

theorem phase_execSetIndex (h : Hdr) (p : Bytes) (s : State) : ∀ t, (execSetIndex h p s) = .next t → t.bly.phase = s.bly.phase := by
  exact fun _ e => Host.Outcome.next.inj e ▸ phase_cmdSetIndex h p s

theorem phase_execBeltClearCount (h : Hdr) (p : Bytes) (s : State) : ∀ t, (execBeltClearCount h p s) = .next t → t.bly.phase = s.bly.phase := by
  exact fun _ e => Host.Outcome.next.inj e ▸ phase_cmdBeltClearCount h p s

@[simp] theorem phase_onHead (n : Nat) (f : Head → Head) (s : State) : (onHead n f s).bly.phase = s.bly.phase := by
  simp [onHead]

@[simp] theorem phase_onModel (m : Nat) (f : Model → Model) (s : State) : (onModel m f s).bly.phase = s.bly.phase := by
  simp [onModel]

@[simp] theorem phase_raiseHead (n : Nat) (code : Byte) (high : Bool) (body : Bytes) (s : State) : (raiseHead n code high body s).bly.phase = s.bly.phase := by
  unfold raiseHead; (repeat' split) <;> (first | with_reducible rfl | (simp; done))

@[simp] theorem phase_noteFreeze (n cancelled : Nat) (s : State) : (noteFreeze n cancelled s).bly.phase = s.bly.phase := by
  simp [noteFreeze]

@[simp] theorem phase_noteFreezes (s : State) : (noteFreezes s).bly.phase = s.bly.phase := by
  simp [noteFreezes]

@[simp] theorem phase_cancelSteps (n : Nat) (s : State) : (cancelSteps n s).bly.phase = s.bly.phase := by
  simp [cancelSteps]

@[simp] theorem phase_holdHeads (s : State) : (holdHeads s).bly.phase = s.bly.phase := by
  simp [holdHeads]

@[simp] theorem phase_startSettle (n : Nat) (s : State) : (startSettle n s).bly.phase = s.bly.phase := by
  simp [startSettle]

@[simp] theorem phase_startHoldoff (s : State) : (startHoldoff s).bly.phase = s.bly.phase := by
  simp [startHoldoff]

@[simp] theorem phase_onArray (a : Nat) (f : CimArray → CimArray) (s : State) : (onArray a f s).bly.phase = s.bly.phase := by
  simp [onArray]

@[simp] theorem phase_onCore (n : Nat) (f : Core → Core) (s : State) : (onCore n f s).bly.phase = s.bly.phase := by
  simp [onCore]

@[simp] theorem phase_chargeCycles (a k : Nat) (s : State) : (chargeCycles a k s).bly.phase = s.bly.phase := by
  unfold chargeCycles; (repeat' split) <;> simp

@[simp] theorem phase_chargeArray (a : Nat) (s : State) : (chargeArray a s).bly.phase = s.bly.phase := by
  simp [chargeArray]

@[simp] theorem phase_postWear (why : WearWhy) (tag : Option Tag) (s : State) : (postWear why tag s).bly.phase = s.bly.phase := by
  simp [postWear]

@[simp] theorem phase_countRefusal (s : State) : (countRefusal s).bly.phase = s.bly.phase := by
  simp [countRefusal]

@[simp] theorem phase_onAsset (i : Nat) (f : Asset → Asset) (s : State) : (onAsset i f s).bly.phase = s.bly.phase := by
  simp [onAsset]

@[simp] theorem phase_showBelay (s : State) : (showBelay s).bly.phase = s.bly.phase := by
  simp [showBelay]

@[simp] theorem phase_endRearm (status cause : Byte) (s : State) : (endRearm status cause s).bly.phase = s.bly.phase := by
  unfold endRearm; (repeat' split) <;> (first | with_reducible rfl | (simp; done))

@[simp] theorem phase_assetEvent (i : Nat) (kind : Byte) (s : State) : (assetEvent i kind s).bly.phase = s.bly.phase := by
  simp [assetEvent]

theorem phase_execStartGuardEnd (s : State) : ∀ t, (execStartGuardEnd s) = .next t → t.bly.phase = s.bly.phase := by
  intro t; unfold execStartGuardEnd; (try simp only []); (repeat' split) <;> intro h <;> (first | (simp only [Host.Outcome.next.injEq] at h; subst h; first | (simp; done) | (simp_all; done) | (iterate 10 (all_goals (try (first | with_reducible rfl | (refine phase_serve _ _ _ _ _ (fun s' => ?_)) | (refine (phase_refuseIf _ _ _ (fun s' => ?_) _).trans ?_) | (refine phase_receive _ _ _ _ (fun s' => ?_)) | (refine phase_whenReadable _ _ _ _ _ _ (fun s' => ?_)) | (refine (phase_foldl _ (fun s' a => ?_) _ _).trans ?_) | split | (simp; done) | (simp_all; done) | simp))))) | (simp at h; done))

@[simp] theorem phase_tachPhase (i : Nat) (p : InputPhase) (s : State) : (tachPhase i p s).bly.phase = s.bly.phase := by
  simp [tachPhase]

@[simp] theorem phase_checkTachAdvance (i ppr : Nat) (s : State) : (checkTachAdvance i ppr s).bly.phase = s.bly.phase := by
  simp [checkTachAdvance]

@[simp] theorem phase_cmdHoutGet (h : Hdr) (p : Bytes) (s : State) : (cmdHoutGet h p s).bly.phase = s.bly.phase := by
  simp [cmdHoutGet]

@[simp] theorem phase_cmdBelayStatus (h : Hdr) (p : Bytes) (s : State) : (cmdBelayStatus h p s).bly.phase = s.bly.phase := by
  simp [cmdBelayStatus]

theorem phase_execHoutGet (h : Hdr) (p : Bytes) (s : State) : ∀ t, (execHoutGet h p s) = .next t → t.bly.phase = s.bly.phase := by
  exact fun _ e => Host.Outcome.next.inj e ▸ phase_cmdHoutGet h p s

theorem phase_execBelayStatus (h : Hdr) (p : Bytes) (s : State) : ∀ t, (execBelayStatus h p s) = .next t → t.bly.phase = s.bly.phase := by
  exact fun _ e => Host.Outcome.next.inj e ▸ phase_cmdBelayStatus h p s

@[simp] theorem phase_onRm (f : ModelBlock → ModelBlock) (s : State) : (onRm f s).bly.phase = s.bly.phase := by
  simp [onRm]

@[simp] theorem phase_onQueued (id : Nat) (f : Frame → Frame) (s : State) : (onQueued id f s).bly.phase = s.bly.phase := by
  simp [onQueued]

@[simp] theorem phase_dropFrame (id : Nat) (s : State) : (dropFrame id s).bly.phase = s.bly.phase := by
  simp [dropFrame]

@[simp] theorem phase_onJob (id : Nat) (f : Job → Job) (s : State) : (onJob id f s).bly.phase = s.bly.phase := by
  simp [onJob]

@[simp] theorem phase_onCounters (m : Nat) (f : ModelCounters → ModelCounters) (s : State) : (onCounters m f s).bly.phase = s.bly.phase := by
  simp [onCounters]

@[simp] theorem phase_countLost (o : BitVec 2) (s : State) : (countLost o s).bly.phase = s.bly.phase := by
  simp [countLost]

@[simp] theorem phase_ringRoom (s : State) : (ringRoom s).bly.phase = s.bly.phase := by
  unfold ringRoom; (repeat' split) <;> (first | with_reducible rfl | (simp; done))

@[simp] theorem phase_writeResult (m : Nat) (h : Bytes) (host : Option Tag) (v : Verdict') (s : State) : (writeResult m h host v s).bly.phase = s.bly.phase := by
  unfold writeResult; (repeat' split) <;> (first | with_reducible rfl | (simp; done))

@[simp] theorem phase_postStep (f : Frame) (n layer : Nat) (s : State) : (postStep f n layer s).1.bly.phase = s.bly.phase := by
  simp only [postStep]; iterate 10 (all_goals (try (first | with_reducible rfl | (refine phase_serve _ _ _ _ _ (fun s' => ?_)) | (refine (phase_refuseIf _ _ _ (fun s' => ?_) _).trans ?_) | (refine phase_receive _ _ _ _ (fun s' => ?_)) | (refine phase_whenReadable _ _ _ _ _ _ (fun s' => ?_)) | (refine (phase_foldl _ (fun s' a => ?_) _ _).trans ?_) | split | (simp; done) | (simp_all; done) | simp)))

@[simp] theorem phase_postSteps (f : Frame) (s : State) : ((postSteps f s).1).bly.phase = s.bly.phase := by
  have h : ∀ (l : List (Nat × Nat)) (a : State × Nat), ((l.foldl (fun a u => let r := postStep f u.1 u.2 a.1; (r.1, if r.2 then a.2 + 2 ^ u.1 else a.2)) a).1).bly.phase = a.1.bly.phase := by
    intro l a
    induction l generalizing a with
    | nil => rfl
    | cons c l ih => rw [List.foldl_cons, ih]; simp
  simp [postSteps, h]

@[simp] theorem phase_completeFrame (j : Job) (id : Nat) (s : State) : (completeFrame j id s).bly.phase = s.bly.phase := by
  unfold completeFrame; (repeat' split) <;> (first | with_reducible rfl | (simp; done))

@[simp] theorem phase_dropJob (id : Nat) (s : State) : (dropJob id s).bly.phase = s.bly.phase := by
  simp [dropJob]

@[simp] theorem phase_completeJob (j : Job) (s : State) : (completeJob j s).bly.phase = s.bly.phase := by
  simp [completeJob]

@[simp] theorem phase_abandonFrame (f : Frame) (j : Option Job) (s : State) : (abandonFrame f j s).bly.phase = s.bly.phase := by
  simp [abandonFrame]

@[simp] theorem phase_requeueFrame (f : Frame) (s : State) : (requeueFrame f s).bly.phase = s.bly.phase := by
  simp [requeueFrame]

@[simp] theorem phase_loseFrame (j : Job) (f : Frame) (s : State) : (loseFrame j f s).bly.phase = s.bly.phase := by
  simp [loseFrame]

@[simp] theorem phase_abandonJob (cause : Byte) (final : Bool) (j : Job) (s : State) : (abandonJob cause final j s).bly.phase = s.bly.phase := by
  simp [abandonJob]

@[simp] theorem phase_abandonJobs (which : Job → Bool) (cause : Byte) (final : Bool) (s : State) : (abandonJobs which cause final s).bly.phase = s.bly.phase := by
  simp [abandonJobs]

@[simp] theorem phase_forgetThese (fs : List Frame) (s : State) : (forgetThese fs s).bly.phase = s.bly.phase := by
  simp [forgetThese]

@[simp] theorem phase_discardFrames (m : Nat) (s : State) : (discardFrames m s).bly.phase = s.bly.phase := by
  simp [discardFrames]

@[simp] theorem phase_forgetFrames (m : Nat) (s : State) : (forgetFrames m s).bly.phase = s.bly.phase := by
  simp [forgetFrames]

@[simp] theorem phase_reportFrames (m : Nat) (s : State) : (reportFrames m s).bly.phase = s.bly.phase := by
  simp [reportFrames]

@[simp] theorem phase_eraseLater (firsts : List Nat) (s : State) : (eraseLater firsts s).bly.phase = s.bly.phase := by
  simp [eraseLater]

@[simp] theorem phase_postCopy (n : Nat) (image : Bytes) (tag : Option Tag) (s : State) : (postCopy n image tag s).bly.phase = s.bly.phase := by
  simp [postCopy]

@[simp] theorem phase_startSave (n : Nat) (cause : SaveCause) (tag : Option Tag) (s : State) : (startSave n cause tag s).bly.phase = s.bly.phase := by
  simp [startSave]

@[simp] theorem phase_serveHead (n : Nat) (s : State) : (serveHead n s).bly.phase = s.bly.phase := by
  simp only [serveHead]; iterate 10 (all_goals (try (first | with_reducible rfl | (refine phase_serve _ _ _ _ _ (fun s' => ?_)) | (refine (phase_refuseIf _ _ _ (fun s' => ?_) _).trans ?_) | (refine phase_receive _ _ _ _ (fun s' => ?_)) | (refine phase_whenReadable _ _ _ _ _ _ (fun s' => ?_)) | (refine (phase_foldl _ (fun s' a => ?_) _ _).trans ?_) | split | (simp; done) | (simp_all; done) | simp)))

@[simp] theorem phase_requestSave (n : Nat) (cause : SaveCause) (tag : Option Tag) (s : State) : (requestSave n cause tag s).bly.phase = s.bly.phase := by
  simp [requestSave]

@[simp] theorem phase_saveAtStop (m : Nat) (s : State) : (saveAtStop m s).bly.phase = s.bly.phase := by
  simp [saveAtStop]

@[simp] theorem phase_consolidated (n : Nat) (kind : Byte) (arrays : List Nat) (s : State) : (consolidated n kind arrays s).bly.phase = s.bly.phase := by
  simp [consolidated]

@[simp] theorem phase_forgetArrays (arrays : List Nat) (s : State) : (forgetArrays arrays s).bly.phase = s.bly.phase := by
  simp [forgetArrays]

@[simp] theorem phase_dropWrites (which : WriteRun → Bool) (s : State) : (dropWrites which s).bly.phase = s.bly.phase := by
  simp [dropWrites]

@[simp] theorem phase_dropCopyWrites (n : Nat) (status : Byte) (s : State) : (dropCopyWrites n status s).bly.phase = s.bly.phase := by
  simp [dropCopyWrites]

@[simp] theorem phase_withdrawCopy (n : Nat) (keep : Bool) (status : Byte) (s : State) : (withdrawCopy n keep status s).bly.phase = s.bly.phase := by
  unfold withdrawCopy; (repeat' split) <;> (first | with_reducible rfl | (simp; done))

@[simp] theorem phase_startLoad (n : Nat) (source : LoadSource) (tag : Option Tag) (s : State) : (startLoad n source tag s).bly.phase = s.bly.phase := by
  simp [startLoad]

theorem phase_allocateHead {m : Nat} {img : Bytes} {l : Layer} {s : State} {t : State} (h : (allocateHead m img l s) = some t) : t.bly.phase = s.bly.phase := by
  simp only [allocateHead] at h; (repeat' split at h) <;> (first | (simp at h; done) | (simp only [Option.some.injEq] at h; subst h; first | with_reducible rfl | (simp; done) | (simp_all; done)))

theorem phase_allocateHeads {m : Nat} {img : Bytes} {ls : List Layer} {s t : State} (h : allocateHeads m img ls s = some t) :
    (t).bly.phase = s.bly.phase := by
  induction ls generalizing s with
  | nil => simp only [allocateHeads, Option.some.injEq] at h; rw [h]
  | cons l ls ih =>
    simp only [allocateHeads, Option.bind_eq_some_iff] at h
    obtain ⟨u, h1, h2⟩ := h
    exact (ih h2).trans (phase_allocateHead h1)

@[simp] theorem phase_passCopy (n : Nat) (to' : Nat × Nat) (s : State) : (passCopy n to' s).bly.phase = s.bly.phase := by
  simp [passCopy]

@[simp] theorem phase_passHeads (old new : Nat) (s : State) : (passHeads old new s).bly.phase = s.bly.phase := by
  unfold passHeads; dsimp only; refine (phase_foldl _ (fun s' a => ?_) _ _).trans ?_ <;> (repeat' split) <;> first | rfl | simp

@[simp] theorem phase_releaseHead (n : Nat) (tag : Option Tag) (s : State) : (releaseHead n tag s).bly.phase = s.bly.phase := by
  simp [releaseHead]

@[simp] theorem phase_headReleased (n : Nat) (s : State) : (headReleased n s).bly.phase = s.bly.phase := by
  simp [headReleased]

@[simp] theorem phase_placementEvent (m : Nat) (cause oldMode : Byte) (s : State) : (placementEvent m cause oldMode s).bly.phase = s.bly.phase := by
  simp [placementEvent]

theorem phase_askGrant {writes : List ArrayWrite} {s : State} {t : State} (h : (askGrant writes s) = some t) : t.bly.phase = s.bly.phase := by
  simp only [askGrant] at h; (repeat' split at h) <;> (first | (simp at h; done) | (simp only [Option.some.injEq] at h; subst h; first | with_reducible rfl | (simp; done) | (simp_all; done)))

@[simp] theorem phase_markWrites (run : WriteRun) (s : State) : (markWrites run s).bly.phase = s.bly.phase := by
  simp [markWrites]

@[simp] theorem phase_orderWrites (run : WriteRun) (tag : Option Tag) (s : State) : (orderWrites run tag s).bly.phase = s.bly.phase := by
  simp [orderWrites]

@[simp] theorem phase_dropRuns (m : Nat) (s : State) : (dropRuns m s).bly.phase = s.bly.phase := by
  simp [dropRuns]

@[simp] theorem phase_unstage (m : Nat) (s : State) : (unstage m s).bly.phase = s.bly.phase := by
  simp [unstage]

@[simp] theorem phase_setPlacement (m : Nat) (p : Placement) (s : State) : (setPlacement m p s).bly.phase = s.bly.phase := by
  simp [setPlacement]

@[simp] theorem phase_freeBackups (m : Nat) (s : State) : (freeBackups m s).bly.phase = s.bly.phase := by
  simp [freeBackups]

@[simp] theorem phase_rollEpoch (o : Nat) (s : State) : (rollEpoch o s).bly.phase = s.bly.phase := by
  simp [rollEpoch]

@[simp] theorem phase_carryRemoval (s : State) : (carryRemoval s).bly.phase = s.bly.phase := by
  unfold carryRemoval; (repeat' split) <;> (first | with_reducible rfl | (simp; done))

@[simp] theorem phase_postFence (n : Nat) (s : State) : (postFence n s).bly.phase = s.bly.phase := by
  unfold postFence; (repeat' split) <;> (first | with_reducible rfl | (simp; done))

@[simp] theorem phase_fenceCommitted (n : Nat) (s : State) : (fenceCommitted n s).bly.phase = s.bly.phase := by
  unfold fenceCommitted; (repeat' split) <;> (first | with_reducible rfl | (simp; done))

@[simp] theorem phase_grantCommitted (s : State) : (grantCommitted s).bly.phase = s.bly.phase := by
  simp [grantCommitted]

@[simp] theorem phase_enterFrame (m : Nat) (g : FeatureFrame) (bank : Nat) (host : Option Tag) (s : State) : (enterFrame m g bank host s).bly.phase = s.bly.phase := by
  simp [enterFrame]

@[simp] theorem phase_readQueued (q : Queued) (s : State) : (readQueued q s).2.bly.phase = s.bly.phase := by
  unfold readQueued; (repeat' split) <;> (first | with_reducible rfl | (simp; done))

theorem phase_execFeatureQueueRoute (s : State) : ∀ t, (execFeatureQueueRoute s) = .next t → t.bly.phase = s.bly.phase := by
  intro t; unfold execFeatureQueueRoute; (try simp only []); (repeat' split) <;> intro h <;> (first | (simp only [Host.Outcome.next.injEq] at h; subst h; first | (simp; done) | (simp_all; done) | (iterate 10 (all_goals (try (first | with_reducible rfl | (refine phase_serve _ _ _ _ _ (fun s' => ?_)) | (refine (phase_refuseIf _ _ _ (fun s' => ?_) _).trans ?_) | (refine phase_receive _ _ _ _ (fun s' => ?_)) | (refine phase_whenReadable _ _ _ _ _ _ (fun s' => ?_)) | (refine (phase_foldl _ (fun s' a => ?_) _ _).trans ?_) | split | (simp; done) | (simp_all; done) | simp))))) | (simp at h; done))

@[simp] theorem phase_sendRope (f : RopeFrame) (s : State) : (sendRope f s).bly.phase = s.bly.phase := by
  simp [sendRope]

@[simp] theorem phase_grantFrames (m layer dst frames : Nat) (s : State) : (grantFrames m layer dst frames s).bly.phase = s.bly.phase := by
  simp [grantFrames]

@[simp] theorem phase_startJob (m : Nat) (frames : List Frame) (bank space : Nat) (pitch : Bool) (round : Option Word32) (s : State) : (startJob m frames bank space pitch round s).bly.phase = s.bly.phase := by
  simp [startJob]

theorem phase_startPitch {s t : State} (h : startPitch s = some t) : (t).bly.phase = s.bly.phase := by
  simp only [startPitch] at h
  split at h
  · simp at h
  · simp only [Option.map_eq_some_iff] at h; obtain ⟨b, _, h⟩ := h; subst h; simp

@[simp] theorem phase_selectJob (s : State) : (selectJob s).bly.phase = s.bly.phase := by
  simp only [selectJob]; iterate 10 (all_goals (try (first | with_reducible rfl | (refine phase_serve _ _ _ _ _ (fun s' => ?_)) | (refine (phase_refuseIf _ _ _ (fun s' => ?_) _).trans ?_) | (refine phase_receive _ _ _ _ (fun s' => ?_)) | (refine phase_whenReadable _ _ _ _ _ _ (fun s' => ?_)) | (refine (phase_foldl _ (fun s' a => ?_) _ _).trans ?_) | split | (simp; done) | (simp_all; done) | simp)))

theorem phase_execJobStart (s : State) : ∀ t, execJobStart s = .next t → (t).bly.phase = s.bly.phase := by
  intro t h; simp only [execJobStart] at h
  (repeat' split at h) <;> simp only [Host.Outcome.next.injEq] at h <;> subst h
  · rfl
  · rename_i hq; exact phase_startPitch hq
  · rfl
  · simp

theorem phase_askDomain {n : Nat} {s : State} {t : State} (h : (askDomain n s) = some t) : t.bly.phase = s.bly.phase := by
  simp only [askDomain] at h; (repeat' split at h) <;> (first | (simp at h; done) | (simp only [Option.some.injEq] at h; subst h; first | with_reducible rfl | (simp; done) | (simp_all; done)))

theorem phase_askCore {n : Nat} {s t : State} (h : askCore n s = some t) : (t).bly.phase = s.bly.phase := by
  simp only [askCore] at h
  (repeat' split at h) <;> first | (simp at h; done) | (have := phase_askDomain h; simpa using this)

@[simp] theorem phase_forceBand (j : Job) (n : Nat) (s : State) : (forceBand j n s).bly.phase = s.bly.phase := by
  simp [forceBand]

@[simp] theorem phase_startPass (j : Job) (n : Nat) (arrays : List Nat) (s : State) : (startPass j n arrays s).bly.phase = s.bly.phase := by
  simp [startPass]

theorem phase_tryCore {j : Job} {layer : Nat} {head : Option Nat} {arrays : List Nat} {n : Nat} {s t : State}
    (h : tryCore j layer head arrays n s = some t) : (t).bly.phase = s.bly.phase := by
  simp only [tryCore] at h
  (repeat' split at h) <;>
    first | (simp at h; done) | exact phase_askCore h | (simp only [Option.some.injEq] at h; subst h; simp)

theorem phase_findSome {α : Type} {f : α → State → Option State} (hf : ∀ {a s t}, f a s = some t → (t).bly.phase = s.bly.phase)
    {l : List α} {s t : State} (h : (l.findSome? fun a => f a s) = some t) : (t).bly.phase = s.bly.phase := by
  obtain ⟨a, _, h⟩ := List.exists_of_findSome?_eq_some h
  exact hf h

theorem phase_tryUnit {j : Job} {u : Unit'} {domain : Nat} {s t : State} (h : tryUnit j u domain s = some t) : (t).bly.phase = s.bly.phase := by
  simp only [tryUnit] at h
  (repeat' split at h) <;>
    first | (simp at h; done) | exact phase_askDomain h | (simp only [Option.some.injEq] at h; subst h; simp)

@[simp] theorem phase_stageLayer (m layer : Nat) (s : State) : (stageLayer m layer s).bly.phase = s.bly.phase := by
  simp [stageLayer]

theorem phase_tryStream {j : Job} {staged : Bool} {s t : State} (h : tryStream j staged s = some t) : (t).bly.phase = s.bly.phase := by
  simp only [tryStream] at h
  (repeat' split at h) <;>
    first
      | (simp at h; done)
      | exact phase_askDomain h
      | exact phase_tryUnit h
      | (simp only [Option.some.injEq] at h; subst h; simp; done)
      | (simp only [Option.map_eq_some_iff] at h; obtain ⟨u, hu, h⟩ := h; subst h; simpa using phase_tryUnit hu)

@[simp] theorem phase_reportRound (m : Nat) (round : Word32) (s : State) : (reportRound m round s).bly.phase = s.bly.phase := by
  simp [reportRound]

@[simp] theorem phase_countClips (array clips conv : Nat) (s : State) : (countClips array clips conv s).bly.phase = s.bly.phase := by
  simp [countClips]

@[simp] theorem phase_runBlock (j : Job) (l : Layer) (b : Nat) (arrays : List Nat) (fs : List Frame) (s : State) : (runBlock j l b arrays fs s).bly.phase = s.bly.phase := by
  simp [runBlock]

@[simp] theorem phase_runCopy (j : Job) (n : Nat) (s : State) : (runCopy j n s).bly.phase = s.bly.phase := by
  simp [runCopy]

@[simp] theorem phase_nextLoad (m : Nat) (l : List (Tag × Nat × Bytes)) (s : State) : (nextLoad m l s).bly.phase = s.bly.phase := by
  induction l generalizing s with
  | nil => simp [nextLoad]
  | cons a l ih => simp only [nextLoad]; (repeat' split) <;> (first | with_reducible rfl | (simp [ih]; done) | (simp_all; done))

@[simp] theorem phase_cmdModelLoadData (h : Hdr) (p : Bytes) (s : State) : (cmdModelLoadData h p s).bly.phase = s.bly.phase := by
  simp [cmdModelLoadData]

@[simp] theorem phase_cmdModelVerify (h : Hdr) (p : Bytes) (s : State) : (cmdModelVerify h p s).bly.phase = s.bly.phase := by
  simp [cmdModelVerify]

theorem phase_takeReserve {m : Nat} {s t : State} (h : takeReserve m s = some t) : (t).bly.phase = s.bly.phase := by
  simp only [takeReserve] at h
  split at h
  · simp only [Option.some.injEq] at h; subst h; rfl
  · simp only [Option.map_eq_some_iff] at h; obtain ⟨g, _, h⟩ := h; subst h; simp

theorem phase_commitPlacement {m : Nat} {p : Placement} {inherit : List Nat} {mine : Nat → Bool} {s : State} {t : State × List ArrayWrite}
    (h : commitPlacement m p inherit mine s = .inr t) : (t.1).bly.phase = s.bly.phase := by
  simp only [commitPlacement] at h
  (repeat' split at h)
  · simp at h
  · simp at h
  · simp at h
  · simp at h
  · rename_i h1 _ _ h2 _ _ _ h3
    simp only [Sum.inr.injEq] at h; subst h
    have h1 := phase_takeReserve h1; have h2 := phase_allocateHeads h2; have h3 := phase_askGrant h3
    simp_all

@[simp] theorem phase_placeRefused (m : Nat) (p : Placement) (st : Byte) (s : State) : (placeRefused m p st s).bly.phase = s.bly.phase := by
  simp [placeRefused]

@[simp] theorem phase_ridgePlaced (m base : Nat) (salt : Bytes) (s : State) : (ridgePlaced m base salt s).bly.phase = s.bly.phase := by
  simp [ridgePlaced]

@[simp] theorem phase_cmdModelPlacementGet (h : Hdr) (p : Bytes) (s : State) : (cmdModelPlacementGet h p s).bly.phase = s.bly.phase := by
  simp [cmdModelPlacementGet]

@[simp] theorem phase_cmdModelList (h : Hdr) (p : Bytes) (s : State) : (cmdModelList h p s).bly.phase = s.bly.phase := by
  simp [cmdModelList]

@[simp] theorem phase_yieldOld (old : Nat) (s : State) : (yieldOld old s).bly.phase = s.bly.phase := by
  simp [yieldOld]

@[simp] theorem phase_cmdModelBindStreams (h : Hdr) (p : Bytes) (s : State) : (cmdModelBindStreams h p s).bly.phase = s.bly.phase := by
  simp [cmdModelBindStreams]

theorem phase_execModelLoadData (h : Hdr) (p : Bytes) (s : State) : ∀ t, (execModelLoadData h p s) = .next t → t.bly.phase = s.bly.phase := by
  exact fun _ e => Host.Outcome.next.inj e ▸ phase_cmdModelLoadData h p s

theorem phase_execModelVerify (h : Hdr) (p : Bytes) (s : State) : ∀ t, (execModelVerify h p s) = .next t → t.bly.phase = s.bly.phase := by
  exact fun _ e => Host.Outcome.next.inj e ▸ phase_cmdModelVerify h p s

theorem phase_execModelPlacementGet (h : Hdr) (p : Bytes) (s : State) : ∀ t, (execModelPlacementGet h p s) = .next t → t.bly.phase = s.bly.phase := by
  exact fun _ e => Host.Outcome.next.inj e ▸ phase_cmdModelPlacementGet h p s

theorem phase_execModelList (h : Hdr) (p : Bytes) (s : State) : ∀ t, (execModelList h p s) = .next t → t.bly.phase = s.bly.phase := by
  exact fun _ e => Host.Outcome.next.inj e ▸ phase_cmdModelList h p s

theorem phase_execModelBindStreams (h : Hdr) (p : Bytes) (s : State) : ∀ t, (execModelBindStreams h p s) = .next t → t.bly.phase = s.bly.phase := by
  exact fun _ e => Host.Outcome.next.inj e ▸ phase_cmdModelBindStreams h p s

@[simp] theorem phase_cmdJobSubmit (h : Hdr) (p : Bytes) (s : State) : (cmdJobSubmit h p s).bly.phase = s.bly.phase := by
  simp [cmdJobSubmit]

@[simp] theorem phase_deliver (seqs : List Word32) (s : State) : (deliver seqs s).bly.phase = s.bly.phase := by
  simp [deliver]

@[simp] theorem phase_cmdResultRead (h : Hdr) (p : Bytes) (s : State) : (cmdResultRead h p s).bly.phase = s.bly.phase := by
  simp [cmdResultRead]

@[simp] theorem phase_setPinned (seq : Word32) (v : Bool) (s : State) : (setPinned seq v s).bly.phase = s.bly.phase := by
  simp [setPinned]

@[simp] theorem phase_cmdResultPin (h : Hdr) (p : Bytes) (s : State) : (cmdResultPin h p s).bly.phase = s.bly.phase := by
  simp only [cmdResultPin]; iterate 10 (all_goals (try (first | with_reducible rfl | (refine phase_serve _ _ _ _ _ (fun s' => ?_)) | (refine (phase_refuseIf _ _ _ (fun s' => ?_) _).trans ?_) | (refine phase_receive _ _ _ _ (fun s' => ?_)) | (refine phase_whenReadable _ _ _ _ _ _ (fun s' => ?_)) | (refine (phase_foldl _ (fun s' a => ?_) _ _).trans ?_) | split | (simp; done) | (simp_all; done) | simp)))

@[simp] theorem phase_cmdResultUnpin (h : Hdr) (p : Bytes) (s : State) : (cmdResultUnpin h p s).bly.phase = s.bly.phase := by
  simp only [cmdResultUnpin]; iterate 10 (all_goals (try (first | with_reducible rfl | (refine phase_serve _ _ _ _ _ (fun s' => ?_)) | (refine (phase_refuseIf _ _ _ (fun s' => ?_) _).trans ?_) | (refine phase_receive _ _ _ _ (fun s' => ?_)) | (refine phase_whenReadable _ _ _ _ _ _ (fun s' => ?_)) | (refine (phase_foldl _ (fun s' a => ?_) _ _).trans ?_) | split | (simp; done) | (simp_all; done) | simp)))

@[simp] theorem phase_cmdRmStatus (h : Hdr) (p : Bytes) (s : State) : (cmdRmStatus h p s).bly.phase = s.bly.phase := by
  simp [cmdRmStatus]

@[simp] theorem phase_cmdRmCounters (h : Hdr) (p : Bytes) (s : State) : (cmdRmCounters h p s).bly.phase = s.bly.phase := by
  simp [cmdRmCounters]

@[simp] theorem phase_cmdRmCountersClear (h : Hdr) (p : Bytes) (s : State) : (cmdRmCountersClear h p s).bly.phase = s.bly.phase := by
  simp [cmdRmCountersClear]

@[simp] theorem phase_cmdRmShareSet (h : Hdr) (p : Bytes) (s : State) : (cmdRmShareSet h p s).bly.phase = s.bly.phase := by
  simp [cmdRmShareSet]

@[simp] theorem phase_cmdQueueStatus (h : Hdr) (p : Bytes) (s : State) : (cmdQueueStatus h p s).bly.phase = s.bly.phase := by
  simp [cmdQueueStatus]

@[simp] theorem phase_cmdQueueStatusClearHigh (h : Hdr) (p : Bytes) (s : State) : (cmdQueueStatusClearHigh h p s).bly.phase = s.bly.phase := by
  simp [cmdQueueStatusClearHigh]

@[simp] theorem phase_cmdResultSubscribe (h : Hdr) (p : Bytes) (s : State) : (cmdResultSubscribe h p s).bly.phase = s.bly.phase := by
  simp [cmdResultSubscribe]

theorem phase_execJobSubmit (h : Hdr) (p : Bytes) (s : State) : ∀ t, (execJobSubmit h p s) = .next t → t.bly.phase = s.bly.phase := by
  exact fun _ e => Host.Outcome.next.inj e ▸ phase_cmdJobSubmit h p s

theorem phase_execResultRead (h : Hdr) (p : Bytes) (s : State) : ∀ t, (execResultRead h p s) = .next t → t.bly.phase = s.bly.phase := by
  exact fun _ e => Host.Outcome.next.inj e ▸ phase_cmdResultRead h p s

theorem phase_execResultPin (h : Hdr) (p : Bytes) (s : State) : ∀ t, (execResultPin h p s) = .next t → t.bly.phase = s.bly.phase := by
  exact fun _ e => Host.Outcome.next.inj e ▸ phase_cmdResultPin h p s

theorem phase_execResultUnpin (h : Hdr) (p : Bytes) (s : State) : ∀ t, (execResultUnpin h p s) = .next t → t.bly.phase = s.bly.phase := by
  exact fun _ e => Host.Outcome.next.inj e ▸ phase_cmdResultUnpin h p s

theorem phase_execRmStatus (h : Hdr) (p : Bytes) (s : State) : ∀ t, (execRmStatus h p s) = .next t → t.bly.phase = s.bly.phase := by
  exact fun _ e => Host.Outcome.next.inj e ▸ phase_cmdRmStatus h p s

theorem phase_execRmCounters (h : Hdr) (p : Bytes) (s : State) : ∀ t, (execRmCounters h p s) = .next t → t.bly.phase = s.bly.phase := by
  exact fun _ e => Host.Outcome.next.inj e ▸ phase_cmdRmCounters h p s

theorem phase_execRmCountersClear (h : Hdr) (p : Bytes) (s : State) : ∀ t, (execRmCountersClear h p s) = .next t → t.bly.phase = s.bly.phase := by
  exact fun _ e => Host.Outcome.next.inj e ▸ phase_cmdRmCountersClear h p s

theorem phase_execRmShareSet (h : Hdr) (p : Bytes) (s : State) : ∀ t, (execRmShareSet h p s) = .next t → t.bly.phase = s.bly.phase := by
  exact fun _ e => Host.Outcome.next.inj e ▸ phase_cmdRmShareSet h p s

theorem phase_execQueueStatus (h : Hdr) (p : Bytes) (s : State) : ∀ t, (execQueueStatus h p s) = .next t → t.bly.phase = s.bly.phase := by
  exact fun _ e => Host.Outcome.next.inj e ▸ phase_cmdQueueStatus h p s

theorem phase_execQueueStatusClearHigh (h : Hdr) (p : Bytes) (s : State) : ∀ t, (execQueueStatusClearHigh h p s) = .next t → t.bly.phase = s.bly.phase := by
  exact fun _ e => Host.Outcome.next.inj e ▸ phase_cmdQueueStatusClearHigh h p s

theorem phase_execResultSubscribe (h : Hdr) (p : Bytes) (s : State) : ∀ t, (execResultSubscribe h p s) = .next t → t.bly.phase = s.bly.phase := by
  exact fun _ e => Host.Outcome.next.inj e ▸ phase_cmdResultSubscribe h p s

@[simp] theorem phase_deferCopy (n : Nat) (kind : Byte) (arrays : List Nat) (s : State) : (deferCopy n kind arrays s).bly.phase = s.bly.phase := by
  simp [deferCopy]

@[simp] theorem phase_saveAtEpoch (n : Nat) (s : State) : (saveAtEpoch n s).bly.phase = s.bly.phase := by
  simp [saveAtEpoch]

theorem phase_execRewardUpdate (head : BitVec 2) (s : State) : ∀ t, (execRewardUpdate head s) = .next t → t.bly.phase = s.bly.phase := by
  intro t; unfold execRewardUpdate; (try simp only []); (repeat' split) <;> intro h <;> (first | (simp only [Host.Outcome.next.injEq] at h; subst h; first | (simp; done) | (simp_all; done) | (iterate 10 (all_goals (try (first | with_reducible rfl | (refine phase_serve _ _ _ _ _ (fun s' => ?_)) | (refine (phase_refuseIf _ _ _ (fun s' => ?_) _).trans ?_) | (refine phase_receive _ _ _ _ (fun s' => ?_)) | (refine phase_whenReadable _ _ _ _ _ _ (fun s' => ?_)) | (refine (phase_foldl _ (fun s' a => ?_) _ _).trans ?_) | split | (simp; done) | (simp_all; done) | simp))))) | (simp at h; done))

theorem phase_execSettlePeriodEnd (head : BitVec 2) (s : State) : ∀ t, (execSettlePeriodEnd head s) = .next t → t.bly.phase = s.bly.phase := by
  intro t; unfold execSettlePeriodEnd; (try simp only []); (repeat' split) <;> intro h <;> (first | (simp only [Host.Outcome.next.injEq] at h; subst h; first | (simp; done) | (simp_all; done) | (iterate 10 (all_goals (try (first | with_reducible rfl | (refine phase_serve _ _ _ _ _ (fun s' => ?_)) | (refine (phase_refuseIf _ _ _ (fun s' => ?_) _).trans ?_) | (refine phase_receive _ _ _ _ (fun s' => ?_)) | (refine phase_whenReadable _ _ _ _ _ _ (fun s' => ?_)) | (refine (phase_foldl _ (fun s' a => ?_) _ _).trans ?_) | split | (simp; done) | (simp_all; done) | simp))))) | (simp at h; done))

theorem phase_execHoldoffPeriodEnd (head : BitVec 2) (s : State) : ∀ t, (execHoldoffPeriodEnd head s) = .next t → t.bly.phase = s.bly.phase := by
  intro t; unfold execHoldoffPeriodEnd; (try simp only []); (repeat' split) <;> intro h <;> (first | (simp only [Host.Outcome.next.injEq] at h; subst h; first | (simp; done) | (simp_all; done) | (iterate 10 (all_goals (try (first | with_reducible rfl | (refine phase_serve _ _ _ _ _ (fun s' => ?_)) | (refine (phase_refuseIf _ _ _ (fun s' => ?_) _).trans ?_) | (refine phase_receive _ _ _ _ (fun s' => ?_)) | (refine phase_whenReadable _ _ _ _ _ _ (fun s' => ?_)) | (refine (phase_foldl _ (fun s' a => ?_) _ _).trans ?_) | split | (simp; done) | (simp_all; done) | simp))))) | (simp at h; done))

@[simp] theorem phase_exportBlob (n : Nat) (c : Bytes) (s : State) : (exportBlob n c s).2.bly.phase = s.bly.phase := by
  simp [exportBlob]

@[simp] theorem phase_replyExport (n : Nat) (tag : Tag) (s : State) : (replyExport n tag s).bly.phase = s.bly.phase := by
  unfold replyExport; (repeat' split) <;> (first | with_reducible rfl | (simp; done))

@[simp] theorem phase_carryRoll (s : State) : (carryRoll s).bly.phase = s.bly.phase := by
  have he : ∀ r q, (carryRoll.endRoll r q).bly.phase = q.bly.phase := fun r q => by simp [carryRoll.endRoll]
  unfold carryRoll
  split
  · rfl
  · dsimp only
    split
    · rfl
    · split
      · have hf : ∀ q : State, ∀ l, (List.foldl (fun s n => startLoad n LoadSource.wake none s) q l).bly.phase = q.bly.phase :=
          fun q l => phase_foldl _ (fun _ _ => by simp) _ _
        split <;> simp [he, hf]
      · exact he _ _

theorem phase_execHeadSaveCommit (head : BitVec 2) (s : State) : ∀ t, (execHeadSaveCommit head s) = .next t → t.bly.phase = s.bly.phase := by
  intro t; unfold execHeadSaveCommit; (try simp only []); (repeat' split) <;> intro h <;> (first | (simp only [Host.Outcome.next.injEq] at h; subst h; first | (simp; done) | (simp_all; done) | (iterate 10 (all_goals (try (first | with_reducible rfl | (refine phase_serve _ _ _ _ _ (fun s' => ?_)) | (refine (phase_refuseIf _ _ _ (fun s' => ?_) _).trans ?_) | (refine phase_receive _ _ _ _ (fun s' => ?_)) | (refine phase_whenReadable _ _ _ _ _ _ (fun s' => ?_)) | (refine (phase_foldl _ (fun s' a => ?_) _ _).trans ?_) | split | (simp; done) | (simp_all; done) | simp))))) | (simp at h; done))

@[simp] theorem phase_loadTakes (n : Nat) (u : Nat × Nat) (source : LoadSource) (tag : Option Tag) (copy : Option Bytes) (s : State) : (loadTakes n u source tag copy s).bly.phase = s.bly.phase := by
  unfold loadTakes; (repeat' split) <;> (first | with_reducible rfl | (simp; done))

theorem phase_execHeadLoadDone (head : BitVec 2) (s : State) : ∀ t, (execHeadLoadDone head s) = .next t → t.bly.phase = s.bly.phase := by
  intro t; unfold execHeadLoadDone; (try simp only []); (repeat' split) <;> intro h <;> (first | (simp only [Host.Outcome.next.injEq] at h; subst h; first | (simp; done) | (simp_all; done) | (iterate 10 (all_goals (try (first | with_reducible rfl | (refine phase_serve _ _ _ _ _ (fun s' => ?_)) | (refine (phase_refuseIf _ _ _ (fun s' => ?_) _).trans ?_) | (refine phase_receive _ _ _ _ (fun s' => ?_)) | (refine phase_whenReadable _ _ _ _ _ _ (fun s' => ?_)) | (refine (phase_foldl _ (fun s' a => ?_) _ _).trans ?_) | split | (simp; done) | (simp_all; done) | simp))))) | (simp at h; done))

theorem phase_execConsolidationInForce (head : BitVec 2) (s : State) : ∀ t, (execConsolidationInForce head s) = .next t → t.bly.phase = s.bly.phase := by
  intro t; unfold execConsolidationInForce; (try simp only []); (repeat' split) <;> intro h <;> (first | (simp only [Host.Outcome.next.injEq] at h; subst h; first | (simp; done) | (simp_all; done) | (iterate 10 (all_goals (try (first | with_reducible rfl | (refine phase_serve _ _ _ _ _ (fun s' => ?_)) | (refine (phase_refuseIf _ _ _ (fun s' => ?_) _).trans ?_) | (refine phase_receive _ _ _ _ (fun s' => ?_)) | (refine phase_whenReadable _ _ _ _ _ _ (fun s' => ?_)) | (refine (phase_foldl _ (fun s' a => ?_) _ _).trans ?_) | split | (simp; done) | (simp_all; done) | simp))))) | (simp at h; done))

@[simp] theorem phase_cmdHeadConfig (h : Hdr) (p : Bytes) (s : State) : (cmdHeadConfig h p s).bly.phase = s.bly.phase := by
  simp [cmdHeadConfig]

@[simp] theorem phase_cmdModulatorConfig (h : Hdr) (p : Bytes) (s : State) : (cmdModulatorConfig h p s).bly.phase = s.bly.phase := by
  simp [cmdModulatorConfig]

@[simp] theorem phase_cmdHeadGet (h : Hdr) (p : Bytes) (s : State) : (cmdHeadGet h p s).bly.phase = s.bly.phase := by
  simp [cmdHeadGet]

@[simp] theorem phase_cmdRewardCancel (h : Hdr) (p : Bytes) (s : State) : (cmdRewardCancel h p s).bly.phase = s.bly.phase := by
  simp [cmdRewardCancel]

@[simp] theorem phase_cmdRewardImmediate (h : Hdr) (p : Bytes) (s : State) : (cmdRewardImmediate h p s).bly.phase = s.bly.phase := by
  simp [cmdRewardImmediate]

@[simp] theorem phase_cmdRewardHeld (h : Hdr) (p : Bytes) (s : State) : (cmdRewardHeld h p s).bly.phase = s.bly.phase := by
  simp [cmdRewardHeld]

@[simp] theorem phase_cmdHeadFreeze (h : Hdr) (p : Bytes) (s : State) : (cmdHeadFreeze h p s).bly.phase = s.bly.phase := by
  simp [cmdHeadFreeze]

@[simp] theorem phase_cmdHeadResume (h : Hdr) (p : Bytes) (s : State) : (cmdHeadResume h p s).bly.phase = s.bly.phase := by
  simp [cmdHeadResume]

@[simp] theorem phase_cmdHeadSave (h : Hdr) (p : Bytes) (s : State) : (cmdHeadSave h p s).bly.phase = s.bly.phase := by
  simp only [cmdHeadSave]; iterate 10 (all_goals (try (first | with_reducible rfl | (refine phase_serve _ _ _ _ _ (fun s' => ?_)) | (refine (phase_refuseIf _ _ _ (fun s' => ?_) _).trans ?_) | (refine phase_receive _ _ _ _ (fun s' => ?_)) | (refine phase_whenReadable _ _ _ _ _ _ (fun s' => ?_)) | (refine (phase_foldl _ (fun s' a => ?_) _ _).trans ?_) | split | (simp; done) | (simp_all; done) | simp)))

@[simp] theorem phase_cmdHeadRestore (h : Hdr) (p : Bytes) (s : State) : (cmdHeadRestore h p s).bly.phase = s.bly.phase := by
  simp [cmdHeadRestore]

@[simp] theorem phase_cmdHeadExport (h : Hdr) (p : Bytes) (s : State) : (cmdHeadExport h p s).bly.phase = s.bly.phase := by
  simp only [cmdHeadExport]; iterate 10 (all_goals (try (first | with_reducible rfl | (refine phase_serve _ _ _ _ _ (fun s' => ?_)) | (refine (phase_refuseIf _ _ _ (fun s' => ?_) _).trans ?_) | (refine phase_receive _ _ _ _ (fun s' => ?_)) | (refine phase_whenReadable _ _ _ _ _ _ (fun s' => ?_)) | (refine (phase_foldl _ (fun s' a => ?_) _ _).trans ?_) | split | (simp; done) | (simp_all; done) | simp)))

@[simp] theorem phase_cmdHeadImport (h : Hdr) (p : Bytes) (s : State) : (cmdHeadImport h p s).bly.phase = s.bly.phase := by
  simp only [cmdHeadImport]; iterate 10 (all_goals (try (first | with_reducible rfl | (refine phase_serve _ _ _ _ _ (fun s' => ?_)) | (refine (phase_refuseIf _ _ _ (fun s' => ?_) _).trans ?_) | (refine phase_receive _ _ _ _ (fun s' => ?_)) | (refine phase_whenReadable _ _ _ _ _ _ (fun s' => ?_)) | (refine (phase_foldl _ (fun s' a => ?_) _ _).trans ?_) | split | (simp; done) | (simp_all; done) | simp)))

@[simp] theorem phase_cmdHeadStats (h : Hdr) (p : Bytes) (s : State) : (cmdHeadStats h p s).bly.phase = s.bly.phase := by
  simp [cmdHeadStats]

@[simp] theorem phase_cmdHeadStatsClear (h : Hdr) (p : Bytes) (s : State) : (cmdHeadStatsClear h p s).bly.phase = s.bly.phase := by
  simp [cmdHeadStatsClear]

@[simp] theorem phase_erasePair (n : Nat) (tag : Option Tag) (s : State) : (erasePair n tag s).bly.phase = s.bly.phase := by
  simp [erasePair]

@[simp] theorem phase_cmdHeadReset (h : Hdr) (p : Bytes) (s : State) : (cmdHeadReset h p s).bly.phase = s.bly.phase := by
  simp [cmdHeadReset]

@[simp] theorem phase_cmdHeadEraseOrphan (h : Hdr) (p : Bytes) (s : State) : (cmdHeadEraseOrphan h p s).bly.phase = s.bly.phase := by
  simp [cmdHeadEraseOrphan]

theorem phase_execHeadConfig (h : Hdr) (p : Bytes) (s : State) : ∀ t, (execHeadConfig h p s) = .next t → t.bly.phase = s.bly.phase := by
  exact fun _ e => Host.Outcome.next.inj e ▸ phase_cmdHeadConfig h p s

theorem phase_execHeadGet (h : Hdr) (p : Bytes) (s : State) : ∀ t, (execHeadGet h p s) = .next t → t.bly.phase = s.bly.phase := by
  exact fun _ e => Host.Outcome.next.inj e ▸ phase_cmdHeadGet h p s

theorem phase_execRewardCancel (h : Hdr) (p : Bytes) (s : State) : ∀ t, (execRewardCancel h p s) = .next t → t.bly.phase = s.bly.phase := by
  exact fun _ e => Host.Outcome.next.inj e ▸ phase_cmdRewardCancel h p s

theorem phase_execRewardImmediate (h : Hdr) (p : Bytes) (s : State) : ∀ t, (execRewardImmediate h p s) = .next t → t.bly.phase = s.bly.phase := by
  exact fun _ e => Host.Outcome.next.inj e ▸ phase_cmdRewardImmediate h p s

theorem phase_execRewardHeld (h : Hdr) (p : Bytes) (s : State) : ∀ t, (execRewardHeld h p s) = .next t → t.bly.phase = s.bly.phase := by
  exact fun _ e => Host.Outcome.next.inj e ▸ phase_cmdRewardHeld h p s

theorem phase_execModulatorConfig (h : Hdr) (p : Bytes) (s : State) : ∀ t, (execModulatorConfig h p s) = .next t → t.bly.phase = s.bly.phase := by
  exact fun _ e => Host.Outcome.next.inj e ▸ phase_cmdModulatorConfig h p s

theorem phase_execHeadFreeze (h : Hdr) (p : Bytes) (s : State) : ∀ t, (execHeadFreeze h p s) = .next t → t.bly.phase = s.bly.phase := by
  exact fun _ e => Host.Outcome.next.inj e ▸ phase_cmdHeadFreeze h p s

theorem phase_execHeadResume (h : Hdr) (p : Bytes) (s : State) : ∀ t, (execHeadResume h p s) = .next t → t.bly.phase = s.bly.phase := by
  exact fun _ e => Host.Outcome.next.inj e ▸ phase_cmdHeadResume h p s

theorem phase_execHeadSave (h : Hdr) (p : Bytes) (s : State) : ∀ t, (execHeadSave h p s) = .next t → t.bly.phase = s.bly.phase := by
  exact fun _ e => Host.Outcome.next.inj e ▸ phase_cmdHeadSave h p s

theorem phase_execHeadRestore (h : Hdr) (p : Bytes) (s : State) : ∀ t, (execHeadRestore h p s) = .next t → t.bly.phase = s.bly.phase := by
  exact fun _ e => Host.Outcome.next.inj e ▸ phase_cmdHeadRestore h p s

theorem phase_execHeadExport (h : Hdr) (p : Bytes) (s : State) : ∀ t, (execHeadExport h p s) = .next t → t.bly.phase = s.bly.phase := by
  exact fun _ e => Host.Outcome.next.inj e ▸ phase_cmdHeadExport h p s

theorem phase_execHeadImport (h : Hdr) (p : Bytes) (s : State) : ∀ t, (execHeadImport h p s) = .next t → t.bly.phase = s.bly.phase := by
  exact fun _ e => Host.Outcome.next.inj e ▸ phase_cmdHeadImport h p s

theorem phase_execHeadStats (h : Hdr) (p : Bytes) (s : State) : ∀ t, (execHeadStats h p s) = .next t → t.bly.phase = s.bly.phase := by
  exact fun _ e => Host.Outcome.next.inj e ▸ phase_cmdHeadStats h p s

theorem phase_execHeadStatsClear (h : Hdr) (p : Bytes) (s : State) : ∀ t, (execHeadStatsClear h p s) = .next t → t.bly.phase = s.bly.phase := by
  exact fun _ e => Host.Outcome.next.inj e ▸ phase_cmdHeadStatsClear h p s

theorem phase_execHeadReset (h : Hdr) (p : Bytes) (s : State) : ∀ t, (execHeadReset h p s) = .next t → t.bly.phase = s.bly.phase := by
  exact fun _ e => Host.Outcome.next.inj e ▸ phase_cmdHeadReset h p s

theorem phase_execHeadEraseOrphan (h : Hdr) (p : Bytes) (s : State) : ∀ t, (execHeadEraseOrphan h p s) = .next t → t.bly.phase = s.bly.phase := by
  exact fun _ e => Host.Outcome.next.inj e ▸ phase_cmdHeadEraseOrphan h p s

@[simp] theorem phase_wantCores (s : State) : (wantCores s).bly.phase = s.bly.phase := by
  unfold wantCores
  refine (phase_foldl _ (fun s n => ?_) _ _).trans rfl
  split
  · simp
  · split
    · rfl
    · split
      · cases hq : askCore n s with
        | none => rfl
        | some u => exact phase_askCore hq
      · rfl

@[simp] theorem phase_giveResult (kind n : Nat) (result : Byte) (s : State) : (giveResult kind n result s).bly.phase = s.bly.phase := by
  simp [giveResult]

@[simp] theorem phase_closeFenced (s : State) : (closeFenced s).bly.phase = s.bly.phase := by
  simp [closeFenced]

@[simp] theorem phase_endRuns (s : State) : (endRuns s).bly.phase = s.bly.phase := by
  simp [endRuns]

@[simp] theorem phase_unfenceFails (status : Byte) (s : State) : (unfenceFails status s).bly.phase = s.bly.phase := by
  unfold unfenceFails; (repeat' split) <;> (first | with_reducible rfl | (simp; done))

@[simp] theorem phase_unfenceCommitted (n : Nat) (s : State) : (unfenceCommitted n s).bly.phase = s.bly.phase := by
  unfold unfenceCommitted; (repeat' split) <;> (first | with_reducible rfl | (simp; done))

@[simp] theorem phase_columnEvents (a : Nat) (kind : Byte) (count : Nat) (s : State) : (columnEvents a kind count s).bly.phase = s.bly.phase := by
  simp [columnEvents]

@[simp] theorem phase_chargeLate (w : ArrayWrite) (s : State) : (chargeLate w s).bly.phase = s.bly.phase := by
  unfold chargeLate; (repeat' split) <;> simp

@[simp] theorem phase_beginWrite (n : Nat) (s : State) : (beginWrite n s).bly.phase = s.bly.phase := by
  unfold beginWrite; (repeat' split) <;> (first | with_reducible rfl | (simp; done))

@[simp] theorem phase_beginWrites (s : State) : (beginWrites s).bly.phase = s.bly.phase := by
  simp [beginWrites]

@[simp] theorem phase_programArray (w : ArrayWrite) (s : State) : (programArray w s).bly.phase = s.bly.phase := by
  simp [programArray]

@[simp] theorem phase_markFailing (a count : Nat) (s : State) : (markFailing a count s).bly.phase = s.bly.phase := by
  simp [markFailing]

theorem phase_execWearDayBoundary (s : State) : ∀ t, (execWearDayBoundary s) = .next t → t.bly.phase = s.bly.phase := by
  intro t; unfold execWearDayBoundary; (try simp only []); (repeat' split) <;> intro h <;> (first | (simp only [Host.Outcome.next.injEq] at h; subst h; first | (simp; done) | (simp_all; done) | (iterate 10 (all_goals (try (first | with_reducible rfl | (refine phase_serve _ _ _ _ _ (fun s' => ?_)) | (refine (phase_refuseIf _ _ _ (fun s' => ?_) _).trans ?_) | (refine phase_receive _ _ _ _ (fun s' => ?_)) | (refine phase_whenReadable _ _ _ _ _ _ (fun s' => ?_)) | (refine (phase_foldl _ (fun s' a => ?_) _ _).trans ?_) | split | (simp; done) | (simp_all; done) | simp))))) | (simp at h; done))

@[simp] theorem phase_startCores (kind : Nat) (h : Hdr) (p : Bytes) (s : State) : (startCores kind h p s).bly.phase = s.bly.phase := by
  simp [startCores]

@[simp] theorem phase_cmdCalRun (h : Hdr) (p : Bytes) (s : State) : (cmdCalRun h p s).bly.phase = s.bly.phase := by
  simp [cmdCalRun]

@[simp] theorem phase_cmdSelftestRunQuick (h : Hdr) (p : Bytes) (s : State) : (cmdSelftestRunQuick h p s).bly.phase = s.bly.phase := by
  simp [cmdSelftestRunQuick]

@[simp] theorem phase_cmdSelftestRunFull (h : Hdr) (p : Bytes) (s : State) : (cmdSelftestRunFull h p s).bly.phase = s.bly.phase := by
  simp [cmdSelftestRunFull]

@[simp] theorem phase_cmdCalStatus (h : Hdr) (p : Bytes) (s : State) : (cmdCalStatus h p s).bly.phase = s.bly.phase := by
  simp [cmdCalStatus]

@[simp] theorem phase_cmdSelftestResult (h : Hdr) (p : Bytes) (s : State) : (cmdSelftestResult h p s).bly.phase = s.bly.phase := by
  simp [cmdSelftestResult]

@[simp] theorem phase_cmdWearStatus (h : Hdr) (p : Bytes) (s : State) : (cmdWearStatus h p s).bly.phase = s.bly.phase := by
  simp [cmdWearStatus]

@[simp] theorem phase_cmdWearConfig (h : Hdr) (p : Bytes) (s : State) : (cmdWearConfig h p s).bly.phase = s.bly.phase := by
  simp [cmdWearConfig]

@[simp] theorem phase_cmdCoreStatus (h : Hdr) (p : Bytes) (s : State) : (cmdCoreStatus h p s).bly.phase = s.bly.phase := by
  simp [cmdCoreStatus]

@[simp] theorem phase_cmdCoreUnfence (h : Hdr) (p : Bytes) (s : State) : (cmdCoreUnfence h p s).bly.phase = s.bly.phase := by
  simp [cmdCoreUnfence]

@[simp] theorem phase_cmdClipCounters (h : Hdr) (p : Bytes) (s : State) : (cmdClipCounters h p s).bly.phase = s.bly.phase := by
  simp [cmdClipCounters]

@[simp] theorem phase_cmdClipCountersClear (h : Hdr) (p : Bytes) (s : State) : (cmdClipCountersClear h p s).bly.phase = s.bly.phase := by
  simp [cmdClipCountersClear]

theorem phase_execCalRun (h : Hdr) (p : Bytes) (s : State) : ∀ t, (execCalRun h p s) = .next t → t.bly.phase = s.bly.phase := by
  exact fun _ e => Host.Outcome.next.inj e ▸ phase_cmdCalRun h p s

theorem phase_execCalStatus (h : Hdr) (p : Bytes) (s : State) : ∀ t, (execCalStatus h p s) = .next t → t.bly.phase = s.bly.phase := by
  exact fun _ e => Host.Outcome.next.inj e ▸ phase_cmdCalStatus h p s

theorem phase_execSelftestRunQuick (h : Hdr) (p : Bytes) (s : State) : ∀ t, (execSelftestRunQuick h p s) = .next t → t.bly.phase = s.bly.phase := by
  exact fun _ e => Host.Outcome.next.inj e ▸ phase_cmdSelftestRunQuick h p s

theorem phase_execSelftestRunFull (h : Hdr) (p : Bytes) (s : State) : ∀ t, (execSelftestRunFull h p s) = .next t → t.bly.phase = s.bly.phase := by
  exact fun _ e => Host.Outcome.next.inj e ▸ phase_cmdSelftestRunFull h p s

theorem phase_execSelftestResult (h : Hdr) (p : Bytes) (s : State) : ∀ t, (execSelftestResult h p s) = .next t → t.bly.phase = s.bly.phase := by
  exact fun _ e => Host.Outcome.next.inj e ▸ phase_cmdSelftestResult h p s

theorem phase_execWearStatus (h : Hdr) (p : Bytes) (s : State) : ∀ t, (execWearStatus h p s) = .next t → t.bly.phase = s.bly.phase := by
  exact fun _ e => Host.Outcome.next.inj e ▸ phase_cmdWearStatus h p s

theorem phase_execWearConfig (h : Hdr) (p : Bytes) (s : State) : ∀ t, (execWearConfig h p s) = .next t → t.bly.phase = s.bly.phase := by
  exact fun _ e => Host.Outcome.next.inj e ▸ phase_cmdWearConfig h p s

theorem phase_execCoreStatus (h : Hdr) (p : Bytes) (s : State) : ∀ t, (execCoreStatus h p s) = .next t → t.bly.phase = s.bly.phase := by
  exact fun _ e => Host.Outcome.next.inj e ▸ phase_cmdCoreStatus h p s

theorem phase_execCoreUnfence (h : Hdr) (p : Bytes) (s : State) : ∀ t, (execCoreUnfence h p s) = .next t → t.bly.phase = s.bly.phase := by
  exact fun _ e => Host.Outcome.next.inj e ▸ phase_cmdCoreUnfence h p s

theorem phase_execClipCounters (h : Hdr) (p : Bytes) (s : State) : ∀ t, (execClipCounters h p s) = .next t → t.bly.phase = s.bly.phase := by
  exact fun _ e => Host.Outcome.next.inj e ▸ phase_cmdClipCounters h p s

theorem phase_execClipCountersClear (h : Hdr) (p : Bytes) (s : State) : ∀ t, (execClipCountersClear h p s) = .next t → t.bly.phase = s.bly.phase := by
  exact fun _ e => Host.Outcome.next.inj e ▸ phase_cmdClipCountersClear h p s

@[simp] theorem phase_onRopePort (p : Nat) (f : RopePort → RopePort) (s : State) : (onRopePort p f s).bly.phase = s.bly.phase := by
  simp [onRopePort]

@[simp] theorem phase_onRope (f : RopeState → RopeState) (s : State) : (onRope f s).bly.phase = s.bly.phase := by
  simp [onRope]

@[simp] theorem phase_onRidge (m : Nat) (f : RidgeModel → RidgeModel) (s : State) : (onRidge m f s).bly.phase = s.bly.phase := by
  simp [onRidge]

@[simp] theorem phase_drive (p : Nat) (f : RopeFrame) (s : State) : (drive p f s).bly.phase = s.bly.phase := by
  simp [drive]

@[simp] theorem phase_resend (p : Nat) (s : State) : (resend p s).bly.phase = s.bly.phase := by
  simp [resend]

@[simp] theorem phase_freeBuffer (f : RopeFrame) (s : State) : (freeBuffer f s).bly.phase = s.bly.phase := by
  unfold freeBuffer; split <;> simp

@[simp] theorem phase_transmit (p : Nat) (f : RopeFrame) (s : State) : (transmit p f s).bly.phase = s.bly.phase := by
  simp [transmit]

@[simp] theorem phase_endRelay (id : Nat) (s : State) : (endRelay id s).bly.phase = s.bly.phase := by
  unfold endRelay; (repeat' split) <;> (first | with_reducible rfl | (simp; done))

@[simp] theorem phase_endRead (id : Nat) (s : State) : (endRead id s).bly.phase = s.bly.phase := by
  unfold endRead; (repeat' split) <;> (first | with_reducible rfl | (simp; done))

@[simp] theorem phase_dropRope (f : RopeFrame) (s : State) : (dropRope f s).bly.phase = s.bly.phase := by
  simp [dropRope]

@[simp] theorem phase_noteTaken (f : RopeFrame) (s : State) : (noteTaken f s).bly.phase = s.bly.phase := by
  simp [noteTaken]

@[simp] theorem phase_sendOrWait (p : Nat) (f : RopeFrame) (s : State) : (sendOrWait p f s).bly.phase = s.bly.phase := by
  unfold sendOrWait; dsimp only; split <;> simp

@[simp] theorem phase_portSend (p : Nat) (f : RopeFrame) (s : State) : (portSend p f s).bly.phase = s.bly.phase := by
  simp only [portSend]; iterate 10 (all_goals (try (first | with_reducible rfl | (refine phase_serve _ _ _ _ _ (fun s' => ?_)) | (refine (phase_refuseIf _ _ _ (fun s' => ?_) _).trans ?_) | (refine phase_receive _ _ _ _ (fun s' => ?_)) | (refine phase_whenReadable _ _ _ _ _ _ (fun s' => ?_)) | (refine (phase_foldl _ (fun s' a => ?_) _ _).trans ?_) | split | (simp; done) | (simp_all; done) | simp)))

@[simp] theorem phase_pump (p : Nat) (s : State) : (pump p s).bly.phase = s.bly.phase := by
  exact (phase_foldl _ (fun s a => phase_sendOrWait p a s) _ _).trans (by simp)

@[simp] theorem phase_routeOut (f : RopeFrame) (s : State) : (routeOut f s).bly.phase = s.bly.phase := by
  simp [routeOut]

@[simp] theorem phase_sendOut (s : State) : (sendOut s).bly.phase = s.bly.phase := by
  simp [sendOut]

@[simp] theorem phase_forward (p : Nat) (f : RopeFrame) (s : State) : (forward p f s).bly.phase = s.bly.phase := by
  simp [forward]

@[simp] theorem phase_useGrant (m layer n : Nat) (s : State) : (useGrant m layer n s).bly.phase = s.bly.phase := by
  simp [useGrant]

@[simp] theorem phase_sendActs (s : State) : (sendActs s).bly.phase = s.bly.phase := by
  simp only [sendActs]; iterate 10 (all_goals (try (first | with_reducible rfl | (refine phase_serve _ _ _ _ _ (fun s' => ?_)) | (refine (phase_refuseIf _ _ _ (fun s' => ?_) _).trans ?_) | (refine phase_receive _ _ _ _ (fun s' => ?_)) | (refine phase_whenReadable _ _ _ _ _ _ (fun s' => ?_)) | (refine (phase_foldl _ (fun s' a => ?_) _ _).trans ?_) | split | (simp; done) | (simp_all; done) | simp)))

@[simp] theorem phase_roundReported (chip m : Nat) (round : Word32) (waiting : Nat) (s : State) : (roundReported chip m round waiting s).bly.phase = s.bly.phase := by
  simp [roundReported]

@[simp] theorem phase_headReports (s : State) : (headReports s).bly.phase = s.bly.phase := by
  simp [headReports]

@[simp] theorem phase_flushRope (s : State) : (flushRope s).bly.phase = s.bly.phase := by
  simp [flushRope]

@[simp] theorem phase_returnCredit (p : Nat) (nak : Bool) (s : State) : (returnCredit p nak s).bly.phase = s.bly.phase := by
  simp [returnCredit]

@[simp] theorem phase_beginTraining (p : Nat) (s : State) : (beginTraining p s).bly.phase = s.bly.phase := by
  simp only [beginTraining]; iterate 10 (all_goals (try (first | with_reducible rfl | (refine phase_serve _ _ _ _ _ (fun s' => ?_)) | (refine (phase_refuseIf _ _ _ (fun s' => ?_) _).trans ?_) | (refine phase_receive _ _ _ _ (fun s' => ?_)) | (refine phase_whenReadable _ _ _ _ _ _ (fun s' => ?_)) | (refine (phase_foldl _ (fun s' a => ?_) _ _).trans ?_) | split | (simp; done) | (simp_all; done) | simp)))

@[simp] theorem phase_startTraining (p : Nat) (s : State) : (startTraining p s).bly.phase = s.bly.phase := by
  simp [startTraining]

@[simp] theorem phase_beginTrainings (s : State) : (beginTrainings s).bly.phase = s.bly.phase := by
  simp [beginTrainings]

@[simp] theorem phase_refuseFrame (p : Nat) (badCrc : Bool) (s : State) : (refuseFrame p badCrc s).bly.phase = s.bly.phase := by
  simp [refuseFrame]

@[simp] theorem phase_receive (r : RopeRx) (f : RopeFrame) (act : State → State) (s : State) (h_act : ∀ a0, (act a0).bly.phase = a0.bly.phase) : (receive r f act s).bly.phase = s.bly.phase := by
  simp [receive, h_act]

@[simp] theorem phase_topologyEvent (s : State) : (topologyEvent s).bly.phase = s.bly.phase := by
  simp [topologyEvent]

@[simp] theorem phase_ropeFault (kind chip : Byte) (s : State) : (ropeFault kind chip s).bly.phase = s.bly.phase := by
  simp [ropeFault]

@[simp] theorem phase_endRound (m : Nat) (s : State) : (endRound m s).bly.phase = s.bly.phase := by
  simp [endRound]

@[simp] theorem phase_abortRounds (s : State) : (abortRounds s).bly.phase = s.bly.phase := by
  simp [abortRounds]

@[simp] theorem phase_broadcastTopology (s : State) : (broadcastTopology s).bly.phase = s.bly.phase := by
  simp [broadcastTopology]

@[simp] theorem phase_endLostRelays (s : State) : (endLostRelays s).bly.phase = s.bly.phase := by
  simp [endLostRelays]

@[simp] theorem phase_endEnum (status result : Byte) (s : State) : (endEnum status result s).bly.phase = s.bly.phase := by
  unfold endEnum; (repeat' split) <;> (first | with_reducible rfl | (simp; done))

@[simp] theorem phase_chipReturned (i : Nat) (old new : Word64) (s : State) : (chipReturned i old new s).bly.phase = s.bly.phase := by
  simp [chipReturned]

@[simp] theorem phase_linkEvent (p : Nat) (prev : LinkPhase) (s : State) : (linkEvent p prev s).bly.phase = s.bly.phase := by
  simp [linkEvent]

@[simp] theorem phase_discardWaiting (p : Nat) (s : State) : (discardWaiting p s).bly.phase = s.bly.phase := by
  simp [discardWaiting]

@[simp] theorem phase_endTrainBubble (p : Nat) (s : State) : (endTrainBubble p s).bly.phase = s.bly.phase := by
  simp [endTrainBubble]

@[simp] theorem phase_endTrainTags (p : Nat) (s : State) : (endTrainTags p s).bly.phase = s.bly.phase := by
  simp only [endTrainTags]; (repeat' split) <;> (first | with_reducible rfl | (simp; done) | (simp_all; done))

theorem phase_execCodeGroupSyncAcquired (port : BitVec 1) (lane : BitVec 1) (s : State) : ∀ t, (execCodeGroupSyncAcquired port lane s) = .next t → t.bly.phase = s.bly.phase := by
  intro t; unfold execCodeGroupSyncAcquired; (try simp only []); (repeat' split) <;> intro h <;> (first | (simp only [Host.Outcome.next.injEq] at h; subst h; first | (simp; done) | (simp_all; done) | (iterate 10 (all_goals (try (first | with_reducible rfl | (refine phase_serve _ _ _ _ _ (fun s' => ?_)) | (refine (phase_refuseIf _ _ _ (fun s' => ?_) _).trans ?_) | (refine phase_receive _ _ _ _ (fun s' => ?_)) | (refine phase_whenReadable _ _ _ _ _ _ (fun s' => ?_)) | (refine (phase_foldl _ (fun s' a => ?_) _ _).trans ?_) | split | (simp; done) | (simp_all; done) | simp))))) | (simp at h; done))

theorem phase_execLaneSyncLoss (port : BitVec 1) (lane : BitVec 1) (s : State) : ∀ t, (execLaneSyncLoss port lane s) = .next t → t.bly.phase = s.bly.phase := by
  intro t; unfold execLaneSyncLoss; (try simp only []); (repeat' split) <;> intro h <;> (first | (simp only [Host.Outcome.next.injEq] at h; subst h; first | (simp; done) | (simp_all; done) | (iterate 10 (all_goals (try (first | with_reducible rfl | (refine phase_serve _ _ _ _ _ (fun s' => ?_)) | (refine (phase_refuseIf _ _ _ (fun s' => ?_) _).trans ?_) | (refine phase_receive _ _ _ _ (fun s' => ?_)) | (refine phase_whenReadable _ _ _ _ _ _ (fun s' => ?_)) | (refine (phase_foldl _ (fun s' a => ?_) _ _).trans ?_) | split | (simp; done) | (simp_all; done) | simp))))) | (simp at h; done))

theorem phase_execNoEnumTimeout (s : State) : ∀ t, (execNoEnumTimeout s) = .next t → t.bly.phase = s.bly.phase := by
  intro t; unfold execNoEnumTimeout; (try simp only []); (repeat' split) <;> intro h <;> (first | (simp only [Host.Outcome.next.injEq] at h; subst h; first | (simp; done) | (simp_all; done) | (iterate 10 (all_goals (try (first | with_reducible rfl | (refine phase_serve _ _ _ _ _ (fun s' => ?_)) | (refine (phase_refuseIf _ _ _ (fun s' => ?_) _).trans ?_) | (refine phase_receive _ _ _ _ (fun s' => ?_)) | (refine phase_whenReadable _ _ _ _ _ _ (fun s' => ?_)) | (refine (phase_foldl _ (fun s' a => ?_) _ _).trans ?_) | split | (simp; done) | (simp_all; done) | simp))))) | (simp at h; done))

theorem phase_execHeartbeatSend (s : State) : ∀ t, (execHeartbeatSend s) = .next t → t.bly.phase = s.bly.phase := by
  intro t; unfold execHeartbeatSend; (try simp only []); (repeat' split) <;> intro h <;> (first | (simp only [Host.Outcome.next.injEq] at h; subst h; first | (simp; done) | (simp_all; done) | (iterate 10 (all_goals (try (first | with_reducible rfl | (refine phase_serve _ _ _ _ _ (fun s' => ?_)) | (refine (phase_refuseIf _ _ _ (fun s' => ?_) _).trans ?_) | (refine phase_receive _ _ _ _ (fun s' => ?_)) | (refine phase_whenReadable _ _ _ _ _ _ (fun s' => ?_)) | (refine (phase_foldl _ (fun s' a => ?_) _ _).trans ?_) | split | (simp; done) | (simp_all; done) | simp))))) | (simp at h; done))

theorem phase_execHeartbeat (r : RopeRx) (gen : Byte) (s : State) : ∀ t, (execHeartbeat r gen s) = .next t → t.bly.phase = s.bly.phase := by
  intro t; unfold execHeartbeat; (try simp only []); (repeat' split) <;> intro h <;> (first | (simp only [Host.Outcome.next.injEq] at h; subst h; first | (simp; done) | (simp_all; done) | (iterate 10 (all_goals (try (first | with_reducible rfl | (refine phase_serve _ _ _ _ _ (fun s' => ?_)) | (refine (phase_refuseIf _ _ _ (fun s' => ?_) _).trans ?_) | (refine phase_receive _ _ _ _ (fun s' => ?_)) | (refine phase_whenReadable _ _ _ _ _ _ (fun s' => ?_)) | (refine (phase_foldl _ (fun s' a => ?_) _ _).trans ?_) | split | (simp; done) | (simp_all; done) | simp))))) | (simp at h; done))

theorem phase_execSleep (r : RopeRx) (s : State) : ∀ t, (execSleep r s) = .next t → t.bly.phase = s.bly.phase := by
  intro t; unfold execSleep; (try simp only []); (repeat' split) <;> intro h <;> (first | (simp only [Host.Outcome.next.injEq] at h; subst h; first | (simp; done) | (simp_all; done) | (iterate 10 (all_goals (try (first | with_reducible rfl | (refine phase_serve _ _ _ _ _ (fun s' => ?_)) | (refine (phase_refuseIf _ _ _ (fun s' => ?_) _).trans ?_) | (refine phase_receive _ _ _ _ (fun s' => ?_)) | (refine phase_whenReadable _ _ _ _ _ _ (fun s' => ?_)) | (refine (phase_foldl _ (fun s' a => ?_) _ _).trans ?_) | split | (simp; done) | (simp_all; done) | simp))))) | (simp at h; done))

theorem phase_execWakeBurstTimeout (port : BitVec 1) (s : State) : ∀ t, (execWakeBurstTimeout port s) = .next t → t.bly.phase = s.bly.phase := by
  intro t; unfold execWakeBurstTimeout; (try simp only []); (repeat' split) <;> intro h <;> (first | (simp only [Host.Outcome.next.injEq] at h; subst h; first | (simp; done) | (simp_all; done) | (iterate 10 (all_goals (try (first | with_reducible rfl | (refine phase_serve _ _ _ _ _ (fun s' => ?_)) | (refine (phase_refuseIf _ _ _ (fun s' => ?_) _).trans ?_) | (refine phase_receive _ _ _ _ (fun s' => ?_)) | (refine phase_whenReadable _ _ _ _ _ _ (fun s' => ?_)) | (refine (phase_foldl _ (fun s' a => ?_) _ _).trans ?_) | split | (simp; done) | (simp_all; done) | simp))))) | (simp at h; done))

@[simp] theorem phase_sendShard (f : RopeFrame) (s : State) : (sendShard f s).1.bly.phase = s.bly.phase := by
  unfold sendShard; (repeat' split) <;> (first | with_reducible rfl | (simp; done))

@[simp] theorem phase_pumpShards (m : Nat) (l : List RopeFrame) (s : State) : (pumpShards m l s).bly.phase = s.bly.phase := by
  induction l generalizing s with
  | nil => simp [pumpShards]
  | cons a l ih => simp only [pumpShards]; (repeat' split) <;> (first | with_reducible rfl | (simp [ih]; done) | (simp_all; done))

@[simp] theorem phase_takeRound (m : Nat) (round : Word32) (s : State) : (takeRound m round s).bly.phase = s.bly.phase := by
  simp only [takeRound]; iterate 10 (all_goals (try (first | with_reducible rfl | (refine phase_serve _ _ _ _ _ (fun s' => ?_)) | (refine (phase_refuseIf _ _ _ (fun s' => ?_) _).trans ?_) | (refine phase_receive _ _ _ _ (fun s' => ?_)) | (refine phase_whenReadable _ _ _ _ _ _ (fun s' => ?_)) | (refine (phase_foldl _ (fun s' a => ?_) _ _).trans ?_) | split | (simp; done) | (simp_all; done) | simp)))

theorem phase_execCirculationRoundStart (slot : BitVec 3) (s : State) : ∀ t, (execCirculationRoundStart slot s) = .next t → t.bly.phase = s.bly.phase := by
  intro t; unfold execCirculationRoundStart; (try simp only []); (repeat' split) <;> intro h <;> (first | (simp only [Host.Outcome.next.injEq] at h; subst h; first | (simp; done) | (simp_all; done) | (iterate 10 (all_goals (try (first | with_reducible rfl | (refine phase_serve _ _ _ _ _ (fun s' => ?_)) | (refine (phase_refuseIf _ _ _ (fun s' => ?_) _).trans ?_) | (refine phase_receive _ _ _ _ (fun s' => ?_)) | (refine phase_whenReadable _ _ _ _ _ _ (fun s' => ?_)) | (refine (phase_foldl _ (fun s' a => ?_) _ _).trans ?_) | split | (simp; done) | (simp_all; done) | simp))))) | (simp at h; done))

theorem phase_execRound (r : RopeRx) (slot : BitVec 3) (round : Word32) (s : State) : ∀ t, (execRound r slot round s) = .next t → t.bly.phase = s.bly.phase := by
  intro t; unfold execRound; (try simp only []); (repeat' split) <;> intro h <;> (first | (simp only [Host.Outcome.next.injEq] at h; subst h; first | (simp; done) | (simp_all; done) | (iterate 10 (all_goals (try (first | with_reducible rfl | (refine phase_serve _ _ _ _ _ (fun s' => ?_)) | (refine (phase_refuseIf _ _ _ (fun s' => ?_) _).trans ?_) | (refine phase_receive _ _ _ _ (fun s' => ?_)) | (refine phase_whenReadable _ _ _ _ _ _ (fun s' => ?_)) | (refine (phase_foldl _ (fun s' a => ?_) _ _).trans ?_) | split | (simp; done) | (simp_all; done) | simp))))) | (simp at h; done))

theorem phase_execRoundDone (r : RopeRx) (slot : BitVec 3) (round : Word32) (waiting : BitVec 16) (s : State) : ∀ t, (execRoundDone r slot round waiting s) = .next t → t.bly.phase = s.bly.phase := by
  intro t; unfold execRoundDone; (try simp only []); (repeat' split) <;> intro h <;> (first | (simp only [Host.Outcome.next.injEq] at h; subst h; first | (simp; done) | (simp_all; done) | (iterate 10 (all_goals (try (first | with_reducible rfl | (refine phase_serve _ _ _ _ _ (fun s' => ?_)) | (refine (phase_refuseIf _ _ _ (fun s' => ?_) _).trans ?_) | (refine phase_receive _ _ _ _ (fun s' => ?_)) | (refine phase_whenReadable _ _ _ _ _ _ (fun s' => ?_)) | (refine (phase_foldl _ (fun s' a => ?_) _ _).trans ?_) | split | (simp; done) | (simp_all; done) | simp))))) | (simp at h; done))

theorem phase_execRoundAbort (r : RopeRx) (slot : BitVec 3) (s : State) : ∀ t, (execRoundAbort r slot s) = .next t → t.bly.phase = s.bly.phase := by
  intro t; unfold execRoundAbort; (try simp only []); (repeat' split) <;> intro h <;> (first | (simp only [Host.Outcome.next.injEq] at h; subst h; first | (simp; done) | (simp_all; done) | (iterate 10 (all_goals (try (first | with_reducible rfl | (refine phase_serve _ _ _ _ _ (fun s' => ?_)) | (refine (phase_refuseIf _ _ _ (fun s' => ?_) _).trans ?_) | (refine phase_receive _ _ _ _ (fun s' => ?_)) | (refine phase_whenReadable _ _ _ _ _ _ (fun s' => ?_)) | (refine (phase_foldl _ (fun s' a => ?_) _ _).trans ?_) | split | (simp; done) | (simp_all; done) | simp))))) | (simp at h; done))

theorem phase_execRetire (r : RopeRx) (slot : BitVec 3) (bytes : Word32) (s : State) : ∀ t, (execRetire r slot bytes s) = .next t → t.bly.phase = s.bly.phase := by
  intro t; unfold execRetire; (try simp only []); (repeat' split) <;> intro h <;> (first | (simp only [Host.Outcome.next.injEq] at h; subst h; first | (simp; done) | (simp_all; done) | (iterate 10 (all_goals (try (first | with_reducible rfl | (refine phase_serve _ _ _ _ _ (fun s' => ?_)) | (refine (phase_refuseIf _ _ _ (fun s' => ?_) _).trans ?_) | (refine phase_receive _ _ _ _ (fun s' => ?_)) | (refine phase_whenReadable _ _ _ _ _ _ (fun s' => ?_)) | (refine (phase_foldl _ (fun s' a => ?_) _ _).trans ?_) | split | (simp; done) | (simp_all; done) | simp))))) | (simp at h; done))

@[simp] theorem phase_takeShard (m : Nat) (layer shard roundLow : Byte) (offset : Nat) (data gcmTag : Bytes) (f : RopeFrame) (s : State) : (takeShard m layer shard roundLow offset data gcmTag f s).bly.phase = s.bly.phase := by
  unfold takeShard; dsimp only; (repeat' split) <;> first | rfl | simp

theorem phase_execWstream (r : RopeRx) (slot : BitVec 3) (layer shard roundLow : Byte) (offset : Nat) (data gcmTag : Bytes) (s : State) : ∀ t, (execWstream r slot layer shard roundLow offset data gcmTag s) = .next t → t.bly.phase = s.bly.phase := by
  intro t; unfold execWstream; (try simp only []); (repeat' split) <;> intro h <;> (first | (simp only [Host.Outcome.next.injEq] at h; subst h; first | (simp; done) | (simp_all; done) | (iterate 10 (all_goals (try (first | with_reducible rfl | (refine phase_serve _ _ _ _ _ (fun s' => ?_)) | (refine (phase_refuseIf _ _ _ (fun s' => ?_) _).trans ?_) | (refine phase_receive _ _ _ _ (fun s' => ?_)) | (refine phase_whenReadable _ _ _ _ _ _ (fun s' => ?_)) | (refine (phase_foldl _ (fun s' a => ?_) _ _).trans ?_) | split | (simp; done) | (simp_all; done) | simp))))) | (simp at h; done))

theorem phase_execLandGrant (r : RopeRx) (slot : BitVec 3) (layer : Byte) (frames : BitVec 16) (s : State) : ∀ t, (execLandGrant r slot layer frames s) = .next t → t.bly.phase = s.bly.phase := by
  intro t; unfold execLandGrant; (try simp only []); (repeat' split) <;> intro h <;> (first | (simp only [Host.Outcome.next.injEq] at h; subst h; first | (simp; done) | (simp_all; done) | (iterate 10 (all_goals (try (first | with_reducible rfl | (refine phase_serve _ _ _ _ _ (fun s' => ?_)) | (refine (phase_refuseIf _ _ _ (fun s' => ?_) _).trans ?_) | (refine phase_receive _ _ _ _ (fun s' => ?_)) | (refine phase_whenReadable _ _ _ _ _ _ (fun s' => ?_)) | (refine (phase_foldl _ (fun s' a => ?_) _ _).trans ?_) | split | (simp; done) | (simp_all; done) | simp))))) | (simp at h; done))

@[simp] theorem phase_openLanding (m layer src : Nat) (ref : BitVec 16) (s : State) : (openLanding m layer src ref s).bly.phase = s.bly.phase := by
  simp [openLanding]

@[simp] theorem phase_eraOf (m : Nat) (ref : BitVec 16) (s : State) : (eraOf m ref s).2.bly.phase = s.bly.phase := by
  simp only [eraOf]; iterate 10 (all_goals (try (first | with_reducible rfl | (refine phase_serve _ _ _ _ _ (fun s' => ?_)) | (refine (phase_refuseIf _ _ _ (fun s' => ?_) _).trans ?_) | (refine phase_receive _ _ _ _ (fun s' => ?_)) | (refine phase_whenReadable _ _ _ _ _ _ (fun s' => ?_)) | (refine (phase_foldl _ (fun s' a => ?_) _ _).trans ?_) | split | (simp; done) | (simp_all; done) | simp)))

theorem phase_execCredit (port : BitVec 1) (good : Bool) (ack : BitVec 12) (nak : Bool) (credits : Vector (BitVec 16) 4) (s : State) : ∀ t, (execCredit port good ack nak credits s) = .next t → t.bly.phase = s.bly.phase := by
  intro t; unfold execCredit; (try simp only []); (repeat' split) <;> intro h <;> (first | (simp only [Host.Outcome.next.injEq] at h; subst h; first | (simp; done) | (simp_all; done) | (iterate 10 (all_goals (try (first | with_reducible rfl | (refine phase_serve _ _ _ _ _ (fun s' => ?_)) | (refine (phase_refuseIf _ _ _ (fun s' => ?_) _).trans ?_) | (refine phase_receive _ _ _ _ (fun s' => ?_)) | (refine phase_whenReadable _ _ _ _ _ _ (fun s' => ?_)) | (refine (phase_foldl _ (fun s' a => ?_) _ _).trans ?_) | split | (simp; done) | (simp_all; done) | simp))))) | (simp at h; done))

theorem phase_execAckTimer (port : BitVec 1) (s : State) : ∀ t, (execAckTimer port s) = .next t → t.bly.phase = s.bly.phase := by
  intro t; unfold execAckTimer; (try simp only []); (repeat' split) <;> intro h <;> (first | (simp only [Host.Outcome.next.injEq] at h; subst h; first | (simp; done) | (simp_all; done) | (iterate 10 (all_goals (try (first | with_reducible rfl | (refine phase_serve _ _ _ _ _ (fun s' => ?_)) | (refine (phase_refuseIf _ _ _ (fun s' => ?_) _).trans ?_) | (refine phase_receive _ _ _ _ (fun s' => ?_)) | (refine phase_whenReadable _ _ _ _ _ _ (fun s' => ?_)) | (refine (phase_foldl _ (fun s' a => ?_) _ _).trans ?_) | split | (simp; done) | (simp_all; done) | simp))))) | (simp at h; done))

@[simp] theorem phase_ropePowered (s : State) : (ropePowered s).bly.phase = s.bly.phase := by
  simp [ropePowered]

@[simp] theorem phase_endRopeTags (s : State) : (endRopeTags s).bly.phase = s.bly.phase := by
  unfold endRopeTags; dsimp only; (repeat' split) <;> simp

@[simp] theorem phase_ropeUnpowered (s : State) : (ropeUnpowered s).bly.phase = s.bly.phase := by
  simp [ropeUnpowered]

@[simp] theorem phase_sendSleep (s : State) : (sendSleep s).bly.phase = s.bly.phase := by
  simp [sendSleep]

@[simp] theorem phase_ropeServe (f : Form) (h : Hdr) (p : Bytes) (body : State → State) (s : State) (h_body : ∀ a0, (body a0).bly.phase = a0.bly.phase) : (ropeServe f h p body s).bly.phase = s.bly.phase := by
  simp [ropeServe, h_body]

@[simp] theorem phase_cmdRopeStatus (h : Hdr) (p : Bytes) (s : State) : (cmdRopeStatus h p s).bly.phase = s.bly.phase := by
  simp [cmdRopeStatus]

@[simp] theorem phase_cmdRopeAttach (h : Hdr) (p : Bytes) (s : State) : (cmdRopeAttach h p s).bly.phase = s.bly.phase := by
  simp [cmdRopeAttach]

@[simp] theorem phase_cmdRopeTopologyGet (h : Hdr) (p : Bytes) (s : State) : (cmdRopeTopologyGet h p s).bly.phase = s.bly.phase := by
  simp [cmdRopeTopologyGet]

@[simp] theorem phase_cmdRopeRetrain (h : Hdr) (p : Bytes) (s : State) : (cmdRopeRetrain h p s).bly.phase = s.bly.phase := by
  simp [cmdRopeRetrain]

@[simp] theorem phase_cmdRopeCounters (h : Hdr) (p : Bytes) (s : State) : (cmdRopeCounters h p s).bly.phase = s.bly.phase := by
  simp [cmdRopeCounters]

@[simp] theorem phase_cmdRopeCountersClear (h : Hdr) (p : Bytes) (s : State) : (cmdRopeCountersClear h p s).bly.phase = s.bly.phase := by
  simp [cmdRopeCountersClear]

theorem phase_execRopeStatus (h : Hdr) (p : Bytes) (s : State) : ∀ t, (execRopeStatus h p s) = .next t → t.bly.phase = s.bly.phase := by
  exact fun _ e => Host.Outcome.next.inj e ▸ phase_cmdRopeStatus h p s

theorem phase_execRopeAttach (h : Hdr) (p : Bytes) (s : State) : ∀ t, (execRopeAttach h p s) = .next t → t.bly.phase = s.bly.phase := by
  exact fun _ e => Host.Outcome.next.inj e ▸ phase_cmdRopeAttach h p s

theorem phase_execRopeTopologyGet (h : Hdr) (p : Bytes) (s : State) : ∀ t, (execRopeTopologyGet h p s) = .next t → t.bly.phase = s.bly.phase := by
  exact fun _ e => Host.Outcome.next.inj e ▸ phase_cmdRopeTopologyGet h p s

theorem phase_execRopeRetrain (h : Hdr) (p : Bytes) (s : State) : ∀ t, (execRopeRetrain h p s) = .next t → t.bly.phase = s.bly.phase := by
  exact fun _ e => Host.Outcome.next.inj e ▸ phase_cmdRopeRetrain h p s

theorem phase_execRopeCounters (h : Hdr) (p : Bytes) (s : State) : ∀ t, (execRopeCounters h p s) = .next t → t.bly.phase = s.bly.phase := by
  exact fun _ e => Host.Outcome.next.inj e ▸ phase_cmdRopeCounters h p s

theorem phase_execRopeCountersClear (h : Hdr) (p : Bytes) (s : State) : ∀ t, (execRopeCountersClear h p s) = .next t → t.bly.phase = s.bly.phase := by
  exact fun _ e => Host.Outcome.next.inj e ▸ phase_cmdRopeCountersClear h p s

@[simp] theorem phase_withdrawHead (tag : Tag) (s : State) (n : Nat) : (withdrawHead tag s n).bly.phase = s.bly.phase := by
  simp [withdrawHead]

@[simp] theorem phase_withdrawModel (tag : Tag) (s : State) (m : Nat) : (withdrawModel tag s m).bly.phase = s.bly.phase := by
  simp [withdrawModel]

@[simp] theorem phase_withdrawFence (tag : Tag) (s : State) (n : Nat) : (withdrawFence tag s n).bly.phase = s.bly.phase := by
  simp [withdrawFence]

@[simp] theorem phase_withdrawStream (tag : Tag) (s : State) : (withdrawStream tag s).bly.phase = s.bly.phase := by
  simp [withdrawStream]

@[simp] theorem phase_withdrawCore (tag : Tag) (s : State) : (withdrawCore tag s).bly.phase = s.bly.phase := by
  simp only [withdrawCore]; (repeat' split) <;> (first | with_reducible rfl | (simp; done) | (simp_all; done))

@[simp] theorem phase_withdrawRope (tag : Tag) (s : State) : (withdrawRope tag s).bly.phase = s.bly.phase := by
  simp [withdrawRope]

@[simp] theorem phase_cmdNvmStatus (h : Hdr) (p : Bytes) (s : State) : (cmdNvmStatus h p s).bly.phase = s.bly.phase := by
  simp [cmdNvmStatus]

@[simp] theorem phase_cmdNvmRegionInfo (h : Hdr) (p : Bytes) (s : State) : (cmdNvmRegionInfo h p s).bly.phase = s.bly.phase := by
  simp [cmdNvmRegionInfo]

theorem phase_execNvmStatus (h : Hdr) (p : Bytes) (s : State) : ∀ t, (execNvmStatus h p s) = .next t → t.bly.phase = s.bly.phase := by
  exact fun _ e => Host.Outcome.next.inj e ▸ phase_cmdNvmStatus h p s

theorem phase_execNvmRegionInfo (h : Hdr) (p : Bytes) (s : State) : ∀ t, (execNvmRegionInfo h p s) = .next t → t.bly.phase = s.bly.phase := by
  exact fun _ e => Host.Outcome.next.inj e ▸ phase_cmdNvmRegionInfo h p s

@[simp] theorem phase_onOwn (f : OwnerState → OwnerState) (s : State) : (onOwn f s).bly.phase = s.bly.phase := by
  simp [onOwn]

@[simp] theorem phase_drawRandom (n : Nat) (s : State) : (drawRandom n s).2.bly.phase = s.bly.phase := by
  simp [drawRandom]

@[simp] theorem phase_cmdSessionOpen (h : Hdr) (p : Bytes) (s : State) : (cmdSessionOpen h p s).bly.phase = s.bly.phase := by
  simp [cmdSessionOpen]

@[simp] theorem phase_postKeys (c : KeyChange) (s : State) : (postKeys c s).bly.phase = s.bly.phase := by
  simp [postKeys]

@[simp] theorem phase_cmdOwnerProvision (h : Hdr) (p : Bytes) (s : State) : (cmdOwnerProvision h p s).bly.phase = s.bly.phase := by
  simp [cmdOwnerProvision]

@[simp] theorem phase_cmdOwnerRemove (h : Hdr) (p : Bytes) (s : State) : (cmdOwnerRemove h p s).bly.phase = s.bly.phase := by
  simp [cmdOwnerRemove]

@[simp] theorem phase_releaseOrphans (o : Nat) (s : State) : (releaseOrphans o s).bly.phase = s.bly.phase := by
  simp [releaseOrphans]

@[simp] theorem phase_cmdOwnerList (h : Hdr) (p : Bytes) (s : State) : (cmdOwnerList h p s).bly.phase = s.bly.phase := by
  simp [cmdOwnerList]

@[simp] theorem phase_cmdKeyRotate (h : Hdr) (p : Bytes) (s : State) : (cmdKeyRotate h p s).bly.phase = s.bly.phase := by
  simp [cmdKeyRotate]

@[simp] theorem phase_cmdEpochRoll (h : Hdr) (p : Bytes) (s : State) : (cmdEpochRoll h p s).bly.phase = s.bly.phase := by
  simp only [cmdEpochRoll]; iterate 10 (all_goals (try (first | with_reducible rfl | (refine phase_serve _ _ _ _ _ (fun s' => ?_)) | (refine (phase_refuseIf _ _ _ (fun s' => ?_) _).trans ?_) | (refine phase_receive _ _ _ _ (fun s' => ?_)) | (refine phase_whenReadable _ _ _ _ _ _ (fun s' => ?_)) | (refine (phase_foldl _ (fun s' a => ?_) _ _).trans ?_) | split | (simp; done) | (simp_all; done) | simp)))

@[simp] theorem phase_cmdAttest (h : Hdr) (p : Bytes) (s : State) : (cmdAttest h p s).bly.phase = s.bly.phase := by
  simp [cmdAttest]

@[simp] theorem phase_cmdTrngRead (h : Hdr) (p : Bytes) (s : State) : (cmdTrngRead h p s).bly.phase = s.bly.phase := by
  simp [cmdTrngRead]

theorem phase_execTrngHealthFail (repetition : Bool) (s : State) : ∀ t, (execTrngHealthFail repetition s) = .next t → t.bly.phase = s.bly.phase := by
  intro t; unfold execTrngHealthFail; (try simp only []); (repeat' split) <;> intro h <;> (first | (simp only [Host.Outcome.next.injEq] at h; subst h; first | (simp; done) | (simp_all; done) | (iterate 10 (all_goals (try (first | with_reducible rfl | (refine phase_serve _ _ _ _ _ (fun s' => ?_)) | (refine (phase_refuseIf _ _ _ (fun s' => ?_) _).trans ?_) | (refine phase_receive _ _ _ _ (fun s' => ?_)) | (refine phase_whenReadable _ _ _ _ _ _ (fun s' => ?_)) | (refine (phase_foldl _ (fun s' a => ?_) _ _).trans ?_) | split | (simp; done) | (simp_all; done) | simp))))) | (simp at h; done))

theorem phase_execTrngRetry (passed : Bool) (s : State) : ∀ t, (execTrngRetry passed s) = .next t → t.bly.phase = s.bly.phase := by
  intro t; unfold execTrngRetry; (try simp only []); (repeat' split) <;> intro h <;> (first | (simp only [Host.Outcome.next.injEq] at h; subst h; first | (simp; done) | (simp_all; done) | (iterate 10 (all_goals (try (first | with_reducible rfl | (refine phase_serve _ _ _ _ _ (fun s' => ?_)) | (refine (phase_refuseIf _ _ _ (fun s' => ?_) _).trans ?_) | (refine phase_receive _ _ _ _ (fun s' => ?_)) | (refine phase_whenReadable _ _ _ _ _ _ (fun s' => ?_)) | (refine (phase_foldl _ (fun s' a => ?_) _ _).trans ?_) | split | (simp; done) | (simp_all; done) | simp))))) | (simp at h; done))

@[simp] theorem phase_newChallenge (s : State) : (newChallenge s).2.bly.phase = s.bly.phase := by
  simp [newChallenge]

@[simp] theorem phase_cmdDebugChallenge (h : Hdr) (p : Bytes) (s : State) : (cmdDebugChallenge h p s).bly.phase = s.bly.phase := by
  simp [cmdDebugChallenge]

theorem phase_execDebugChallengeExpiry (s : State) : ∀ t, (execDebugChallengeExpiry s) = .next t → t.bly.phase = s.bly.phase := by
  intro t; unfold execDebugChallengeExpiry; (try simp only []); (repeat' split) <;> intro h <;> (first | (simp only [Host.Outcome.next.injEq] at h; subst h; first | (simp; done) | (simp_all; done) | (iterate 10 (all_goals (try (first | with_reducible rfl | (refine phase_serve _ _ _ _ _ (fun s' => ?_)) | (refine (phase_refuseIf _ _ _ (fun s' => ?_) _).trans ?_) | (refine phase_receive _ _ _ _ (fun s' => ?_)) | (refine phase_whenReadable _ _ _ _ _ _ (fun s' => ?_)) | (refine (phase_foldl _ (fun s' a => ?_) _ _).trans ?_) | split | (simp; done) | (simp_all; done) | simp))))) | (simp at h; done))

@[simp] theorem phase_beginErase (kind : Byte) (tag : Option Tag) (s : State) : (beginErase kind tag s).bly.phase = s.bly.phase := by
  simp [beginErase]

@[simp] theorem phase_cmdDebugOpen (h : Hdr) (p : Bytes) (s : State) : (cmdDebugOpen h p s).bly.phase = s.bly.phase := by
  simp [cmdDebugOpen]

@[simp] theorem phase_zeroSamples (s : State) : (zeroSamples s).bly.phase = s.bly.phase := by
  simp [zeroSamples]

@[simp] theorem phase_rollDevice (s : State) : (rollDevice s).bly.phase = s.bly.phase := by
  simp [rollDevice]

@[simp] theorem phase_eraseKeys (target : Word32) (s : State) : (eraseKeys target s).bly.phase = s.bly.phase := by
  simp [eraseKeys]

@[simp] theorem phase_eraseStore (e : DebugErase) (s : State) : (eraseStore e s).bly.phase = s.bly.phase := by
  simp [eraseStore]

@[simp] theorem phase_eraseClear (e : DebugErase) (s : State) : (eraseClear e s).bly.phase = s.bly.phase := by
  simp [eraseClear]

@[simp] theorem phase_eraseCairn (e : DebugErase) (s : State) : (eraseCairn e s).bly.phase = s.bly.phase := by
  simp [eraseCairn]

@[simp] theorem phase_eraseCairned (s : State) : (eraseCairned s).bly.phase = s.bly.phase := by
  unfold eraseCairned; (repeat' split) <;> (first | with_reducible rfl | (simp; done))

theorem phase_execSessionOpen (h : Hdr) (p : Bytes) (s : State) : ∀ t, (execSessionOpen h p s) = .next t → t.bly.phase = s.bly.phase := by
  exact fun _ e => Host.Outcome.next.inj e ▸ phase_cmdSessionOpen h p s

theorem phase_execOwnerProvision (h : Hdr) (p : Bytes) (s : State) : ∀ t, (execOwnerProvision h p s) = .next t → t.bly.phase = s.bly.phase := by
  exact fun _ e => Host.Outcome.next.inj e ▸ phase_cmdOwnerProvision h p s

theorem phase_execOwnerRemove (h : Hdr) (p : Bytes) (s : State) : ∀ t, (execOwnerRemove h p s) = .next t → t.bly.phase = s.bly.phase := by
  exact fun _ e => Host.Outcome.next.inj e ▸ phase_cmdOwnerRemove h p s

theorem phase_execOwnerList (h : Hdr) (p : Bytes) (s : State) : ∀ t, (execOwnerList h p s) = .next t → t.bly.phase = s.bly.phase := by
  exact fun _ e => Host.Outcome.next.inj e ▸ phase_cmdOwnerList h p s

theorem phase_execAttest (h : Hdr) (p : Bytes) (s : State) : ∀ t, (execAttest h p s) = .next t → t.bly.phase = s.bly.phase := by
  exact fun _ e => Host.Outcome.next.inj e ▸ phase_cmdAttest h p s

theorem phase_execEpochRoll (h : Hdr) (p : Bytes) (s : State) : ∀ t, (execEpochRoll h p s) = .next t → t.bly.phase = s.bly.phase := by
  exact fun _ e => Host.Outcome.next.inj e ▸ phase_cmdEpochRoll h p s

theorem phase_execDebugChallenge (h : Hdr) (p : Bytes) (s : State) : ∀ t, (execDebugChallenge h p s) = .next t → t.bly.phase = s.bly.phase := by
  exact fun _ e => Host.Outcome.next.inj e ▸ phase_cmdDebugChallenge h p s

theorem phase_execDebugOpen (h : Hdr) (p : Bytes) (s : State) : ∀ t, (execDebugOpen h p s) = .next t → t.bly.phase = s.bly.phase := by
  exact fun _ e => Host.Outcome.next.inj e ▸ phase_cmdDebugOpen h p s

theorem phase_execKeyRotate (h : Hdr) (p : Bytes) (s : State) : ∀ t, (execKeyRotate h p s) = .next t → t.bly.phase = s.bly.phase := by
  exact fun _ e => Host.Outcome.next.inj e ▸ phase_cmdKeyRotate h p s

theorem phase_execTrngRead (h : Hdr) (p : Bytes) (s : State) : ∀ t, (execTrngRead h p s) = .next t → t.bly.phase = s.bly.phase := by
  exact fun _ e => Host.Outcome.next.inj e ▸ phase_cmdTrngRead h p s

@[simp] theorem phase_onCairn (f : CairnState → CairnState) (s : State) : (onCairn f s).bly.phase = s.bly.phase := by
  simp [onCairn]

@[simp] theorem phase_timeCommit (us : Nat) (s : State) : (timeCommit us s).bly.phase = s.bly.phase := by
  simp [timeCommit]

@[simp] theorem phase_cairnFault (kind : Byte) (seq : Nat) (s : State) : (cairnFault kind seq s).bly.phase = s.bly.phase := by
  simp [cairnFault]

@[simp] theorem phase_issue (next : Nat) (s : State) : (issue next s).bly.phase = s.bly.phase := by
  simp [issue]

@[simp] theorem phase_commitCell (pos next : Nat) (b : Bytes) (ps : List (Nat × Nat)) (s : State) : (commitCell pos next b ps s).1.bly.phase = s.bly.phase := by
  simp only [commitCell]; iterate 10 (all_goals (try (first | with_reducible rfl | (refine phase_serve _ _ _ _ _ (fun s' => ?_)) | (refine (phase_refuseIf _ _ _ (fun s' => ?_) _).trans ?_) | (refine phase_receive _ _ _ _ (fun s' => ?_)) | (refine phase_whenReadable _ _ _ _ _ _ (fun s' => ?_)) | (refine (phase_foldl _ (fun s' a => ?_) _ _).trans ?_) | split | (simp; done) | (simp_all; done) | simp)))

@[simp] theorem phase_pinCopy (b : Bytes) (ps : List (Nat × Nat)) (s : State) : (pinCopy b ps s).1.bly.phase = s.bly.phase := by
  unfold pinCopy; (repeat' split) <;> (first | with_reducible rfl | (simp; done))

@[simp] theorem phase_commitEntry (e : CairnEntry) (ps : List (Nat × Nat)) (s : State) : (commitEntry e ps s).1.bly.phase = s.bly.phase := by
  simp only [commitEntry]; (repeat' split) <;> (first | with_reducible rfl | (simp; done) | (simp_all; done))

@[simp] theorem phase_commitOverflow (ps : List (Nat × Nat)) (s : State) : (commitOverflow ps s).1.bly.phase = s.bly.phase := by
  unfold commitOverflow; (repeat' split) <;> (first | with_reducible rfl | (simp; done))

@[simp] theorem phase_entryCommitted (e : CairnEntry) (seq : Nat) (visible : Bool) (s : State) : (entryCommitted e seq visible s).bly.phase = s.bly.phase := by
  unfold entryCommitted; (repeat' split) <;> (first | with_reducible rfl | (simp; done))

@[simp] theorem phase_commitNext (ps : List (Nat × Nat)) (s : State) : (commitNext ps s).1.bly.phase = s.bly.phase := by
  simp only [commitNext]; iterate 10 (all_goals (try (first | with_reducible rfl | (refine phase_serve _ _ _ _ _ (fun s' => ?_)) | (refine (phase_refuseIf _ _ _ (fun s' => ?_) _).trans ?_) | (refine phase_receive _ _ _ _ (fun s' => ?_)) | (refine phase_whenReadable _ _ _ _ _ _ (fun s' => ?_)) | (refine (phase_foldl _ (fun s' a => ?_) _ _).trans ?_) | split | (simp; done) | (simp_all; done) | simp)))

theorem phase_execCairnCommit (programs : Vector (Nat × Nat) 6) (s : State) : ∀ t, (execCairnCommit programs s) = .next t → t.bly.phase = s.bly.phase := by
  intro t; unfold execCairnCommit; (try simp only []); (repeat' split) <;> intro h <;> (first | (simp only [Host.Outcome.next.injEq] at h; subst h; first | (simp; done) | (simp_all; done) | (iterate 10 (all_goals (try (first | with_reducible rfl | (refine phase_serve _ _ _ _ _ (fun s' => ?_)) | (refine (phase_refuseIf _ _ _ (fun s' => ?_) _).trans ?_) | (refine phase_receive _ _ _ _ (fun s' => ?_)) | (refine phase_whenReadable _ _ _ _ _ _ (fun s' => ?_)) | (refine (phase_foldl _ (fun s' a => ?_) _ _).trans ?_) | split | (simp; done) | (simp_all; done) | simp))))) | (simp at h; done))

@[simp] theorem phase_replayRecord (x : JournalRecord) (ps : List (Nat × Nat)) (s : State) : (replayRecord x ps s).1.bly.phase = s.bly.phase := by
  unfold replayRecord
  dsimp only
  split
  · simp
  · split
    · simp
    · dsimp only; split <;> simp

@[simp] theorem phase_cairnReplay (ps : List (Nat × Nat)) (s : State) : (cairnReplay ps s).bly.phase = s.bly.phase := by
  have h1 : (readPages ((List.range 64).map (256 + ·)) s).bly.phase = s.bly.phase := phase_readPages _ _
  unfold cairnReplay
  generalize readPages ((List.range 64).map (256 + ·)) s = a at h1
  extract_lets s1 r b last
  have h2 : b.bly.phase = s.bly.phase := by
    simp only [b, r]
    split
    · exact h1
    · simp [s1, h1]
  split <;> simp [h2]

@[simp] theorem phase_noteFault (pinned : Bool) (key seq : Nat) (status : Byte) (s : State) : (noteFault pinned key seq status s).bly.phase = s.bly.phase := by
  simp [noteFault]

@[simp] theorem phase_readReply (pinned : Bool) (first : Word32) (keys : List Nat) (sign : Bool) (nonce : Bytes) (s : State) : (readReply pinned first keys sign nonce s).2.bly.phase = s.bly.phase := by
  simp [readReply]

@[simp] theorem phase_readCircular (start count : Nat) (sign : Bool) (nonce : Bytes) (s : State) : (readCircular start count sign nonce s).2.bly.phase = s.bly.phase := by
  simp only [readCircular]; iterate 10 (all_goals (try (first | with_reducible rfl | (refine phase_serve _ _ _ _ _ (fun s' => ?_)) | (refine (phase_refuseIf _ _ _ (fun s' => ?_) _).trans ?_) | (refine phase_receive _ _ _ _ (fun s' => ?_)) | (refine phase_whenReadable _ _ _ _ _ _ (fun s' => ?_)) | (refine (phase_foldl _ (fun s' a => ?_) _ _).trans ?_) | split | (simp; done) | (simp_all; done) | simp)))

@[simp] theorem phase_readPinned (start count : Nat) (sign : Bool) (nonce : Bytes) (s : State) : (readPinned start count sign nonce s).2.bly.phase = s.bly.phase := by
  simp [readPinned]

@[simp] theorem phase_cmdCairnInfo (h : Hdr) (p : Bytes) (s : State) : (cmdCairnInfo h p s).bly.phase = s.bly.phase := by
  simp [cmdCairnInfo]

@[simp] theorem phase_cmdCairnRead (h : Hdr) (p : Bytes) (s : State) : (cmdCairnRead h p s).bly.phase = s.bly.phase := by
  unfold cmdCairnRead
  refine phase_serve _ _ _ _ _ (fun a => ?_)
  refine (phase_refuseIf _ _ _ (fun b => ?_) _).trans rfl
  refine phase_whenReadable _ _ _ _ _ _ (fun c => ?_)
  simp

@[simp] theorem phase_cmdCairnReadPinned (h : Hdr) (p : Bytes) (s : State) : (cmdCairnReadPinned h p s).bly.phase = s.bly.phase := by
  simp only [cmdCairnReadPinned]; iterate 10 (all_goals (try (first | with_reducible rfl | (refine phase_serve _ _ _ _ _ (fun s' => ?_)) | (refine (phase_refuseIf _ _ _ (fun s' => ?_) _).trans ?_) | (refine phase_receive _ _ _ _ (fun s' => ?_)) | (refine phase_whenReadable _ _ _ _ _ _ (fun s' => ?_)) | (refine (phase_foldl _ (fun s' a => ?_) _ _).trans ?_) | split | (simp; done) | (simp_all; done) | simp)))

@[simp] theorem phase_cmdCairnMark (h : Hdr) (p : Bytes) (s : State) : (cmdCairnMark h p s).bly.phase = s.bly.phase := by
  simp [cmdCairnMark]

@[simp] theorem phase_cmdCairnRemoteRead (h : Hdr) (p : Bytes) (s : State) : (cmdCairnRemoteRead h p s).bly.phase = s.bly.phase := by
  simp [cmdCairnRemoteRead]

@[simp] theorem phase_serveRead (src : Byte) (id : BitVec 16) (p : Bytes) (s : State) : (serveRead src id p s).bly.phase = s.bly.phase := by
  unfold serveRead; dsimp only; refine (phase_foldl _ (fun s' a => ?_) _ _).trans ?_ <;> (repeat' split) <;> first | rfl | simp

@[simp] theorem phase_readArrived (src : Byte) (id : BitVec 16) (more : Bool) (b : Bytes) (s : State) : (readArrived src id more b s).bly.phase = s.bly.phase := by
  simp only [readArrived]; iterate 10 (all_goals (try (first | with_reducible rfl | (refine phase_serve _ _ _ _ _ (fun s' => ?_)) | (refine (phase_refuseIf _ _ _ (fun s' => ?_) _).trans ?_) | (refine phase_receive _ _ _ _ (fun s' => ?_)) | (refine phase_whenReadable _ _ _ _ _ _ (fun s' => ?_)) | (refine (phase_foldl _ (fun s' a => ?_) _ _).trans ?_) | split | (simp; done) | (simp_all; done) | simp)))

theorem phase_execCairn (r : RopeRx) (relay : BitVec 16) (reply more : Bool) (payload : Bytes) (s : State) : ∀ t, (execCairn r relay reply more payload s) = .next t → t.bly.phase = s.bly.phase := by
  intro t; unfold execCairn; (try simp only []); (repeat' split) <;> intro h <;> (first | (simp only [Host.Outcome.next.injEq] at h; subst h; first | (simp; done) | (simp_all; done) | (iterate 10 (all_goals (try (first | with_reducible rfl | (refine phase_serve _ _ _ _ _ (fun s' => ?_)) | (refine (phase_refuseIf _ _ _ (fun s' => ?_) _).trans ?_) | (refine phase_receive _ _ _ _ (fun s' => ?_)) | (refine phase_whenReadable _ _ _ _ _ _ (fun s' => ?_)) | (refine (phase_foldl _ (fun s' a => ?_) _ _).trans ?_) | split | (simp; done) | (simp_all; done) | simp))))) | (simp at h; done))

theorem phase_execRemoteReadTimeout (relay : BitVec 16) (s : State) : ∀ t, (execRemoteReadTimeout relay s) = .next t → t.bly.phase = s.bly.phase := by
  intro t; unfold execRemoteReadTimeout; (try simp only []); (repeat' split) <;> intro h <;> (first | (simp only [Host.Outcome.next.injEq] at h; subst h; first | (simp; done) | (simp_all; done) | (iterate 10 (all_goals (try (first | with_reducible rfl | (refine phase_serve _ _ _ _ _ (fun s' => ?_)) | (refine (phase_refuseIf _ _ _ (fun s' => ?_) _).trans ?_) | (refine phase_receive _ _ _ _ (fun s' => ?_)) | (refine phase_whenReadable _ _ _ _ _ _ (fun s' => ?_)) | (refine (phase_foldl _ (fun s' a => ?_) _ _).trans ?_) | split | (simp; done) | (simp_all; done) | simp))))) | (simp at h; done))

theorem phase_execCairnInfo (h : Hdr) (p : Bytes) (s : State) : ∀ t, (execCairnInfo h p s) = .next t → t.bly.phase = s.bly.phase := by
  exact fun _ e => Host.Outcome.next.inj e ▸ phase_cmdCairnInfo h p s

theorem phase_execCairnRead (h : Hdr) (p : Bytes) (s : State) : ∀ t, (execCairnRead h p s) = .next t → t.bly.phase = s.bly.phase := by
  exact fun _ e => Host.Outcome.next.inj e ▸ phase_cmdCairnRead h p s

theorem phase_execCairnReadPinned (h : Hdr) (p : Bytes) (s : State) : ∀ t, (execCairnReadPinned h p s) = .next t → t.bly.phase = s.bly.phase := by
  exact fun _ e => Host.Outcome.next.inj e ▸ phase_cmdCairnReadPinned h p s

theorem phase_execCairnMark (h : Hdr) (p : Bytes) (s : State) : ∀ t, (execCairnMark h p s) = .next t → t.bly.phase = s.bly.phase := by
  exact fun _ e => Host.Outcome.next.inj e ▸ phase_cmdCairnMark h p s

theorem phase_execCairnRemoteRead (h : Hdr) (p : Bytes) (s : State) : ∀ t, (execCairnRemoteRead h p s) = .next t → t.bly.phase = s.bly.phase := by
  exact fun _ e => Host.Outcome.next.inj e ▸ phase_cmdCairnRemoteRead h p s

@[simp] theorem phase_setOutputs (level : Level) (code : BitVec 16) (s : State) : (setOutputs level code s).bly.phase = s.bly.phase := by
  simp [setOutputs]

@[simp] theorem phase_resetLink (s : State) : (resetLink s).bly.phase = s.bly.phase := by
  simp [resetLink]

@[simp] theorem phase_stopWork (s : State) : (stopWork s).bly.phase = s.bly.phase := by
  simp [stopWork]

@[simp] theorem phase_onBoot (f : BootState → BootState) (s : State) : (onBoot f s).bly.phase = s.bly.phase := by
  simp [onBoot]

@[simp] theorem phase_onFw (k : Nat) (f : FwSlot → FwSlot) (s : State) : (onFw k f s).bly.phase = s.bly.phase := by
  simp [onFw]

@[simp] theorem phase_cmdFwUpdateBegin (h : Hdr) (p : Bytes) (s : State) : (cmdFwUpdateBegin h p s).bly.phase = s.bly.phase := by
  simp [cmdFwUpdateBegin]

@[simp] theorem phase_fwErased (s : State) : (fwErased s).bly.phase = s.bly.phase := by
  unfold fwErased; (repeat' split) <;> (first | with_reducible rfl | (simp; done))

@[simp] theorem phase_fwBeginFails (s : State) : (fwBeginFails s).bly.phase = s.bly.phase := by
  unfold fwBeginFails; (repeat' split) <;> (first | with_reducible rfl | (simp; done))

@[simp] theorem phase_cmdFwUpdateData (h : Hdr) (p : Bytes) (s : State) : (cmdFwUpdateData h p s).bly.phase = s.bly.phase := by
  simp only [cmdFwUpdateData]; iterate 10 (all_goals (try (first | with_reducible rfl | (refine phase_serve _ _ _ _ _ (fun s' => ?_)) | (refine (phase_refuseIf _ _ _ (fun s' => ?_) _).trans ?_) | (refine phase_receive _ _ _ _ (fun s' => ?_)) | (refine phase_whenReadable _ _ _ _ _ _ (fun s' => ?_)) | (refine (phase_foldl _ (fun s' a => ?_) _ _).trans ?_) | split | (simp; done) | (simp_all; done) | simp)))

@[simp] theorem phase_doneTag (tag : Option Tag) (s : State) : (doneTag tag s).bly.phase = s.bly.phase := by
  unfold doneTag; (repeat' split) <;> (first | with_reducible rfl | (simp; done))

@[simp] theorem phase_fwReceived (k : Nat) (data : Bytes) (tag : Option Tag) (s : State) : (fwReceived k data tag s).bly.phase = s.bly.phase := by
  simp [fwReceived]

@[simp] theorem phase_fwDataFails (k : Nat) (tag : Option Tag) (s : State) : (fwDataFails k tag s).bly.phase = s.bly.phase := by
  unfold fwDataFails; (repeat' split) <;> (first | with_reducible rfl | (simp; done))

@[simp] theorem phase_cmdFwUpdateCommit (h : Hdr) (p : Bytes) (s : State) : (cmdFwUpdateCommit h p s).bly.phase = s.bly.phase := by
  simp only [cmdFwUpdateCommit]; iterate 10 (all_goals (try (first | with_reducible rfl | (refine phase_serve _ _ _ _ _ (fun s' => ?_)) | (refine (phase_refuseIf _ _ _ (fun s' => ?_) _).trans ?_) | (refine phase_receive _ _ _ _ (fun s' => ?_)) | (refine phase_whenReadable _ _ _ _ _ _ (fun s' => ?_)) | (refine (phase_foldl _ (fun s' a => ?_) _ _).trans ?_) | split | (simp; done) | (simp_all; done) | simp)))

theorem phase_execFwImageVerified (s : State) : ∀ t, (execFwImageVerified s) = .next t → t.bly.phase = s.bly.phase := by
  intro t; unfold execFwImageVerified; (try simp only []); (repeat' split) <;> intro h <;> (first | (simp only [Host.Outcome.next.injEq] at h; subst h; first | (simp; done) | (simp_all; done) | (iterate 10 (all_goals (try (first | with_reducible rfl | (refine phase_serve _ _ _ _ _ (fun s' => ?_)) | (refine (phase_refuseIf _ _ _ (fun s' => ?_) _).trans ?_) | (refine phase_receive _ _ _ _ (fun s' => ?_)) | (refine phase_whenReadable _ _ _ _ _ _ (fun s' => ?_)) | (refine (phase_foldl _ (fun s' a => ?_) _ _).trans ?_) | split | (simp; done) | (simp_all; done) | simp))))) | (simp at h; done))

@[simp] theorem phase_fwStated (k : Nat) (tag : Option Tag) (b : Bytes) (s : State) : (fwStated k tag b s).bly.phase = s.bly.phase := by
  simp only [fwStated]; iterate 10 (all_goals (try (first | with_reducible rfl | (refine phase_serve _ _ _ _ _ (fun s' => ?_)) | (refine (phase_refuseIf _ _ _ (fun s' => ?_) _).trans ?_) | (refine phase_receive _ _ _ _ (fun s' => ?_)) | (refine phase_whenReadable _ _ _ _ _ _ (fun s' => ?_)) | (refine (phase_foldl _ (fun s' a => ?_) _ _).trans ?_) | split | (simp; done) | (simp_all; done) | simp)))

@[simp] theorem phase_fwSelected (tag : Option Tag) (k : Nat) (s : State) : (fwSelected tag k s).bly.phase = s.bly.phase := by
  simp only [fwSelected]; iterate 10 (all_goals (try (first | with_reducible rfl | (refine phase_serve _ _ _ _ _ (fun s' => ?_)) | (refine (phase_refuseIf _ _ _ (fun s' => ?_) _).trans ?_) | (refine phase_receive _ _ _ _ (fun s' => ?_)) | (refine phase_whenReadable _ _ _ _ _ _ (fun s' => ?_)) | (refine (phase_foldl _ (fun s' a => ?_) _ _).trans ?_) | split | (simp; done) | (simp_all; done) | simp)))

@[simp] theorem phase_fwCommitFails (s : State) : (fwCommitFails s).bly.phase = s.bly.phase := by
  unfold fwCommitFails; (repeat' split) <;> (first | with_reducible rfl | (simp; done))

@[simp] theorem phase_cmdFwSlotStatus (h : Hdr) (p : Bytes) (s : State) : (cmdFwSlotStatus h p s).bly.phase = s.bly.phase := by
  simp [cmdFwSlotStatus]

theorem phase_execFwUpdateBegin (h : Hdr) (p : Bytes) (s : State) : ∀ t, (execFwUpdateBegin h p s) = .next t → t.bly.phase = s.bly.phase := by
  exact fun _ e => Host.Outcome.next.inj e ▸ phase_cmdFwUpdateBegin h p s

theorem phase_execFwUpdateData (h : Hdr) (p : Bytes) (s : State) : ∀ t, (execFwUpdateData h p s) = .next t → t.bly.phase = s.bly.phase := by
  exact fun _ e => Host.Outcome.next.inj e ▸ phase_cmdFwUpdateData h p s

theorem phase_execFwUpdateCommit (h : Hdr) (p : Bytes) (s : State) : ∀ t, (execFwUpdateCommit h p s) = .next t → t.bly.phase = s.bly.phase := by
  exact fun _ e => Host.Outcome.next.inj e ▸ phase_cmdFwUpdateCommit h p s

theorem phase_execFwSlotStatus (h : Hdr) (p : Bytes) (s : State) : ∀ t, (execFwSlotStatus h p s) = .next t → t.bly.phase = s.bly.phase := by
  exact fun _ e => Host.Outcome.next.inj e ▸ phase_cmdFwSlotStatus h p s

@[simp] theorem phase_failTag (tag : Option Tag) (s : State) : (failTag tag s).bly.phase = s.bly.phase := by
  unfold failTag; (repeat' split) <;> (first | with_reducible rfl | (simp; done))

@[simp] theorem phase_dropOps (f : NvmOp → Bool) (s : State) : (dropOps f s).bly.phase = s.bly.phase := by
  simp [dropOps]

@[simp] theorem phase_copyProgrammed (k : RecordKind) (copy : Nat) (first : Bool) (data : Bytes) (s : State) : (copyProgrammed k copy first data s).bly.phase = s.bly.phase := by
  simp [copyProgrammed]

@[simp] theorem phase_copyTorn (k : RecordKind) (copy : Nat) (s : State) : (copyTorn k copy s).bly.phase = s.bly.phase := by
  simp [copyTorn]

@[simp] theorem phase_commitProgrammed (k : RecordKind) (c : CommitRecord) (s : State) : (commitProgrammed k c s).bly.phase = s.bly.phase := by
  simp [commitProgrammed]

@[simp] theorem phase_headCommitted (n : Nat) (s : State) : (headCommitted n s).bly.phase = s.bly.phase := by
  unfold headCommitted; (repeat' split) <;> (first | with_reducible rfl | (simp; done))

@[simp] theorem phase_headFails (n : Nat) (s : State) : (headFails n s).bly.phase = s.bly.phase := by
  simp only [headFails]; iterate 10 (all_goals (try (first | with_reducible rfl | (refine phase_serve _ _ _ _ _ (fun s' => ?_)) | (refine (phase_refuseIf _ _ _ (fun s' => ?_) _).trans ?_) | (refine phase_receive _ _ _ _ (fun s' => ?_)) | (refine phase_whenReadable _ _ _ _ _ _ (fun s' => ?_)) | (refine (phase_foldl _ (fun s' a => ?_) _ _).trans ?_) | split | (simp; done) | (simp_all; done) | simp)))

@[simp] theorem phase_modelFails (m : Nat) (tag : Option Tag) (s : State) : (modelFails m tag s).bly.phase = s.bly.phase := by
  unfold modelFails; (repeat' split) <;> (first | with_reducible rfl | (simp; done))

@[simp] theorem phase_eraseFails (s : State) : (eraseFails s).bly.phase = s.bly.phase := by
  unfold eraseFails; (repeat' split) <;> (first | with_reducible rfl | (simp; done))

@[simp] theorem phase_keysFail (s : State) : (keysFail s).bly.phase = s.bly.phase := by
  unfold keysFail; (repeat' split) <;> (first | with_reducible rfl | (simp; done))

@[simp] theorem phase_recordFails (k : RecordKind) (tag : Option Tag) (s : State) : (recordFails k tag s).bly.phase = s.bly.phase := by
  unfold recordFails; (repeat' split) <;> (first | with_reducible rfl | (simp; done))

@[simp] theorem phase_startOp (i : Nat) (s : State) : (startOp i s).bly.phase = s.bly.phase := by
  unfold startOp; (repeat' split) <;> (first | with_reducible rfl | (simp; done))

theorem phase_execNvmOperationStart (s : State) : ∀ t, (execNvmOperationStart s) = .next t → t.bly.phase = s.bly.phase := by
  intro t; unfold execNvmOperationStart; (try simp only []); (repeat' split) <;> intro h <;> (first | (simp only [Host.Outcome.next.injEq] at h; subst h; first | (simp; done) | (simp_all; done) | (iterate 10 (all_goals (try (first | with_reducible rfl | (refine phase_serve _ _ _ _ _ (fun s' => ?_)) | (refine (phase_refuseIf _ _ _ (fun s' => ?_) _).trans ?_) | (refine phase_receive _ _ _ _ (fun s' => ?_)) | (refine phase_whenReadable _ _ _ _ _ _ (fun s' => ?_)) | (refine (phase_foldl _ (fun s' a => ?_) _ _).trans ?_) | split | (simp; done) | (simp_all; done) | simp))))) | (simp at h; done))

@[simp] theorem phase_endOp (s : State) : (endOp s).bly.phase = s.bly.phase := by
  simp [endOp]

@[simp] theorem phase_countErase (first us : Nat) (s : State) : (countErase first us s).bly.phase = s.bly.phase := by
  simp [countErase]

@[simp] theorem phase_cmdReset (cause : Byte) (h : Hdr) (p : Bytes) (s : State) : (cmdReset cause h p s).bly.phase = s.bly.phase := by
  simp [cmdReset]

@[simp] theorem phase_cmdResetWarm (h : Hdr) (p : Bytes) (s : State) : (cmdResetWarm h p s).bly.phase = s.bly.phase := by
  simp [cmdResetWarm]

@[simp] theorem phase_cmdResetFull (h : Hdr) (p : Bytes) (s : State) : (cmdResetFull h p s).bly.phase = s.bly.phase := by
  simp [cmdResetFull]

theorem phase_execResetPinRelease (s : State) : ∀ t, (execResetPinRelease s) = .next t → t.bly.phase = s.bly.phase := by
  intro t; unfold execResetPinRelease; (try simp only []); (repeat' split) <;> intro h <;> (first | (simp only [Host.Outcome.next.injEq] at h; subst h; first | (simp; done) | (simp_all; done) | (iterate 10 (all_goals (try (first | with_reducible rfl | (refine phase_serve _ _ _ _ _ (fun s' => ?_)) | (refine (phase_refuseIf _ _ _ (fun s' => ?_) _).trans ?_) | (refine phase_receive _ _ _ _ (fun s' => ?_)) | (refine phase_whenReadable _ _ _ _ _ _ (fun s' => ?_)) | (refine (phase_foldl _ (fun s' a => ?_) _ _).trans ?_) | split | (simp; done) | (simp_all; done) | simp))))) | (simp at h; done))

theorem phase_execBrownoutRelease (s : State) : ∀ t, (execBrownoutRelease s) = .next t → t.bly.phase = s.bly.phase := by
  intro t; unfold execBrownoutRelease; (try simp only []); (repeat' split) <;> intro h <;> (first | (simp only [Host.Outcome.next.injEq] at h; subst h; first | (simp; done) | (simp_all; done) | (iterate 10 (all_goals (try (first | with_reducible rfl | (refine phase_serve _ _ _ _ _ (fun s' => ?_)) | (refine (phase_refuseIf _ _ _ (fun s' => ?_) _).trans ?_) | (refine phase_receive _ _ _ _ (fun s' => ?_)) | (refine phase_whenReadable _ _ _ _ _ _ (fun s' => ?_)) | (refine (phase_foldl _ (fun s' a => ?_) _ _).trans ?_) | split | (simp; done) | (simp_all; done) | simp))))) | (simp at h; done))

theorem phase_execThermalResetRelease (s : State) : ∀ t, (execThermalResetRelease s) = .next t → t.bly.phase = s.bly.phase := by
  intro t; unfold execThermalResetRelease; (try simp only []); (repeat' split) <;> intro h <;> (first | (simp only [Host.Outcome.next.injEq] at h; subst h; first | (simp; done) | (simp_all; done) | (iterate 10 (all_goals (try (first | with_reducible rfl | (refine phase_serve _ _ _ _ _ (fun s' => ?_)) | (refine (phase_refuseIf _ _ _ (fun s' => ?_) _).trans ?_) | (refine phase_receive _ _ _ _ (fun s' => ?_)) | (refine phase_whenReadable _ _ _ _ _ _ (fun s' => ?_)) | (refine (phase_foldl _ (fun s' a => ?_) _ _).trans ?_) | split | (simp; done) | (simp_all; done) | simp))))) | (simp at h; done))

@[simp] theorem phase_enterPhase (p : BootPhase) (s : State) : (enterPhase p s).bly.phase = s.bly.phase := by
  simp [enterPhase]

@[simp] theorem phase_enterAuth (s : State) : (enterAuth s).bly.phase = s.bly.phase := by
  simp [enterAuth]

@[simp] theorem phase_loadRecords (s : State) : (loadRecords s).bly.phase = s.bly.phase := by
  simp [loadRecords]

theorem phase_execErasePendingComplete (s : State) : ∀ t, (execErasePendingComplete s) = .next t → t.bly.phase = s.bly.phase := by
  intro t; unfold execErasePendingComplete; (try simp only []); (repeat' split) <;> intro h <;> (first | (simp only [Host.Outcome.next.injEq] at h; subst h; first | (simp; done) | (simp_all; done) | (iterate 10 (all_goals (try (first | with_reducible rfl | (refine phase_serve _ _ _ _ _ (fun s' => ?_)) | (refine (phase_refuseIf _ _ _ (fun s' => ?_) _).trans ?_) | (refine phase_receive _ _ _ _ (fun s' => ?_)) | (refine phase_whenReadable _ _ _ _ _ _ (fun s' => ?_)) | (refine (phase_foldl _ (fun s' a => ?_) _ _).trans ?_) | split | (simp; done) | (simp_all; done) | simp))))) | (simp at h; done))

@[simp] theorem phase_markSlot (k : Nat) (st : FwSlotState) (s : State) : (markSlot k st s).bly.phase = s.bly.phase := by
  simp [markSlot]

@[simp] theorem phase_trySlot (barred : Option Nat) (k : Nat) (s : State) : (trySlot barred k s).1.bly.phase = s.bly.phase := by
  simp only [trySlot]; iterate 10 (all_goals (try (first | with_reducible rfl | (refine phase_serve _ _ _ _ _ (fun s' => ?_)) | (refine (phase_refuseIf _ _ _ (fun s' => ?_) _).trans ?_) | (refine phase_receive _ _ _ _ (fun s' => ?_)) | (refine phase_whenReadable _ _ _ _ _ _ (fun s' => ?_)) | (refine (phase_foldl _ (fun s' a => ?_) _ _).trans ?_) | split | (simp; done) | (simp_all; done) | simp)))

@[simp] theorem phase_rollBack (s : State) : (rollBack s).1.bly.phase = s.bly.phase := by
  simp only [rollBack]; iterate 10 (all_goals (try (first | with_reducible rfl | (refine phase_serve _ _ _ _ _ (fun s' => ?_)) | (refine (phase_refuseIf _ _ _ (fun s' => ?_) _).trans ?_) | (refine phase_receive _ _ _ _ (fun s' => ?_)) | (refine phase_whenReadable _ _ _ _ _ _ (fun s' => ?_)) | (refine (phase_foldl _ (fun s' a => ?_) _ _).trans ?_) | split | (simp; done) | (simp_all; done) | simp)))

@[simp] theorem phase_runSlot (k : Nat) (s : State) : (runSlot k s).bly.phase = s.bly.phase := by
  simp [runSlot]

theorem phase_execAuthComplete (s : State) : ∀ t, (execAuthComplete s) = .next t → t.bly.phase = s.bly.phase := by
  intro t; unfold execAuthComplete; (try simp only []); (repeat' split) <;> intro h <;> (first | (simp only [Host.Outcome.next.injEq] at h; subst h; first | (simp; done) | (simp_all; done) | (iterate 10 (all_goals (try (first | with_reducible rfl | (refine phase_serve _ _ _ _ _ (fun s' => ?_)) | (refine (phase_refuseIf _ _ _ (fun s' => ?_) _).trans ?_) | (refine phase_receive _ _ _ _ (fun s' => ?_)) | (refine phase_whenReadable _ _ _ _ _ _ (fun s' => ?_)) | (refine (phase_foldl _ (fun s' a => ?_) _ _).trans ?_) | split | (simp; done) | (simp_all; done) | simp))))) | (simp at h; done))

@[simp] theorem phase_countBoot (s : State) : (countBoot s).bly.phase = s.bly.phase := by
  simp [countBoot]

@[simp] theorem phase_confirmTrial (s : State) : (confirmTrial s).bly.phase = s.bly.phase := by
  simp [confirmTrial]

@[simp] theorem phase_readyEvent (cause : Byte) (s : State) : (readyEvent cause s).bly.phase = s.bly.phase := by
  simp [readyEvent]

@[simp] theorem phase_cleanNvm (s : State) : (cleanNvm s).bly.phase = s.bly.phase := by
  simp [cleanNvm]

@[simp] theorem phase_raiseHeld (s : State) : (raiseHeld s).bly.phase = s.bly.phase := by
  simp [raiseHeld]

@[simp] theorem phase_tellRollback (s : State) : (tellRollback s).bly.phase = s.bly.phase := by
  unfold tellRollback; (repeat' split) <;> (first | with_reducible rfl | (simp; done))

@[simp] theorem phase_tellReplay (s : State) : (tellReplay s).bly.phase = s.bly.phase := by
  unfold tellReplay; (repeat' split) <;> (first | with_reducible rfl | (simp; done))

@[simp] theorem phase_recordBoot (s : State) : (recordBoot s).bly.phase = s.bly.phase := by
  simp [recordBoot]

@[simp] theorem phase_wantRope (s : State) : (wantRope s).bly.phase = s.bly.phase := by
  simp [wantRope]

@[simp] theorem phase_resumeRemoval (s : State) : (resumeRemoval s).bly.phase = s.bly.phase := by
  unfold resumeRemoval; (repeat' split) <;> (first | with_reducible rfl | (simp; done))

@[simp] theorem phase_raiseAwake (code : Byte) (body : Bytes) (s : State) : (raiseAwake code body s).bly.phase = s.bly.phase := by
  simp [raiseAwake]

theorem phase_execVholdThreshold (mv : BitVec 16) (s : State) : ∀ t, (execVholdThreshold mv s) = .next t → t.bly.phase = s.bly.phase := by
  intro t; unfold execVholdThreshold; (try simp only []); (repeat' split) <;> intro h <;> (first | (simp only [Host.Outcome.next.injEq] at h; subst h; first | (simp; done) | (simp_all; done) | (iterate 10 (all_goals (try (first | with_reducible rfl | (refine phase_serve _ _ _ _ _ (fun s' => ?_)) | (refine (phase_refuseIf _ _ _ (fun s' => ?_) _).trans ?_) | (refine phase_receive _ _ _ _ (fun s' => ?_)) | (refine phase_whenReadable _ _ _ _ _ _ (fun s' => ?_)) | (refine (phase_foldl _ (fun s' a => ?_) _ _).trans ?_) | split | (simp; done) | (simp_all; done) | simp))))) | (simp at h; done))

theorem phase_execHoldupHoldEnd (s : State) : ∀ t, (execHoldupHoldEnd s) = .next t → t.bly.phase = s.bly.phase := by
  intro t; unfold execHoldupHoldEnd; (try simp only []); (repeat' split) <;> intro h <;> (first | (simp only [Host.Outcome.next.injEq] at h; subst h; first | (simp; done) | (simp_all; done) | (iterate 10 (all_goals (try (first | with_reducible rfl | (refine phase_serve _ _ _ _ _ (fun s' => ?_)) | (refine (phase_refuseIf _ _ _ (fun s' => ?_) _).trans ?_) | (refine phase_receive _ _ _ _ (fun s' => ?_)) | (refine phase_whenReadable _ _ _ _ _ _ (fun s' => ?_)) | (refine (phase_foldl _ (fun s' a => ?_) _ _).trans ?_) | split | (simp; done) | (simp_all; done) | simp))))) | (simp at h; done))

theorem phase_execResetWarm (h : Hdr) (p : Bytes) (s : State) : ∀ t, (execResetWarm h p s) = .next t → t.bly.phase = s.bly.phase := by
  exact fun _ e => Host.Outcome.next.inj e ▸ phase_cmdResetWarm h p s

theorem phase_execResetFull (h : Hdr) (p : Bytes) (s : State) : ∀ t, (execResetFull h p s) = .next t → t.bly.phase = s.bly.phase := by
  exact fun _ e => Host.Outcome.next.inj e ▸ phase_cmdResetFull h p s

@[simp] theorem phase_onClk (f : ClockState → ClockState) (s : State) : (onClk f s).bly.phase = s.bly.phase := by
  simp [onClk]

@[simp] theorem phase_onPwr (f : PowerBlock → PowerBlock) (s : State) : (onPwr f s).bly.phase = s.bly.phase := by
  simp [onPwr]

@[simp] theorem phase_clockFault (kind pll : Byte) (s : State) : (clockFault kind pll s).bly.phase = s.bly.phase := by
  simp [clockFault]

@[simp] theorem phase_clockEntry (kind pll : Byte) (s : State) : (clockEntry kind pll s).bly.phase = s.bly.phase := by
  simp [clockEntry]

theorem phase_execXo32QualifyInterval (edges : Nat) (s : State) : ∀ t, (execXo32QualifyInterval edges s) = .next t → t.bly.phase = s.bly.phase := by
  intro t; unfold execXo32QualifyInterval; (try simp only []); (repeat' split) <;> intro h <;> (first | (simp only [Host.Outcome.next.injEq] at h; subst h; first | (simp; done) | (simp_all; done) | (iterate 10 (all_goals (try (first | with_reducible rfl | (refine phase_serve _ _ _ _ _ (fun s' => ?_)) | (refine (phase_refuseIf _ _ _ (fun s' => ?_) _).trans ?_) | (refine phase_receive _ _ _ _ (fun s' => ?_)) | (refine phase_whenReadable _ _ _ _ _ _ (fun s' => ?_)) | (refine (phase_foldl _ (fun s' a => ?_) _ _).trans ?_) | split | (simp; done) | (simp_all; done) | simp))))) | (simp at h; done))

@[simp] theorem phase_loseXo32 (s : State) : (loseXo32 s).bly.phase = s.bly.phase := by
  simp [loseXo32]

theorem phase_execXo32EdgeLoss (s : State) : ∀ t, (execXo32EdgeLoss s) = .next t → t.bly.phase = s.bly.phase := by
  intro t; unfold execXo32EdgeLoss; (try simp only []); (repeat' split) <;> intro h <;> (first | (simp only [Host.Outcome.next.injEq] at h; subst h; first | (simp; done) | (simp_all; done) | (iterate 10 (all_goals (try (first | with_reducible rfl | (refine phase_serve _ _ _ _ _ (fun s' => ?_)) | (refine (phase_refuseIf _ _ _ (fun s' => ?_) _).trans ?_) | (refine phase_receive _ _ _ _ (fun s' => ?_)) | (refine phase_whenReadable _ _ _ _ _ _ (fun s' => ?_)) | (refine (phase_foldl _ (fun s' a => ?_) _ _).trans ?_) | split | (simp; done) | (simp_all; done) | simp))))) | (simp at h; done))

theorem phase_execXo32Retry (s : State) : ∀ t, (execXo32Retry s) = .next t → t.bly.phase = s.bly.phase := by
  intro t; unfold execXo32Retry; (try simp only []); (repeat' split) <;> intro h <;> (first | (simp only [Host.Outcome.next.injEq] at h; subst h; first | (simp; done) | (simp_all; done) | (iterate 10 (all_goals (try (first | with_reducible rfl | (refine phase_serve _ _ _ _ _ (fun s' => ?_)) | (refine (phase_refuseIf _ _ _ (fun s' => ?_) _).trans ?_) | (refine phase_receive _ _ _ _ (fun s' => ?_)) | (refine phase_whenReadable _ _ _ _ _ _ (fun s' => ?_)) | (refine (phase_foldl _ (fun s' a => ?_) _ _).trans ?_) | split | (simp; done) | (simp_all; done) | simp))))) | (simp at h; done))

theorem phase_execXo32Absent (s : State) : ∀ t, (execXo32Absent s) = .next t → t.bly.phase = s.bly.phase := by
  intro t; unfold execXo32Absent; (try simp only []); (repeat' split) <;> intro h <;> (first | (simp only [Host.Outcome.next.injEq] at h; subst h; first | (simp; done) | (simp_all; done) | (iterate 10 (all_goals (try (first | with_reducible rfl | (refine phase_serve _ _ _ _ _ (fun s' => ?_)) | (refine (phase_refuseIf _ _ _ (fun s' => ?_) _).trans ?_) | (refine phase_receive _ _ _ _ (fun s' => ?_)) | (refine phase_whenReadable _ _ _ _ _ _ (fun s' => ?_)) | (refine (phase_foldl _ (fun s' a => ?_) _ _).trans ?_) | split | (simp; done) | (simp_all; done) | simp))))) | (simp at h; done))

@[simp] theorem phase_tickEdge (s : State) : (tickEdge s).bly.phase = s.bly.phase := by
  simp [tickEdge]

@[simp] theorem phase_wantActive (s : State) : (wantActive s).bly.phase = s.bly.phase := by
  simp [wantActive]

@[simp] theorem phase_resumeWork (s : State) : (resumeWork s).bly.phase = s.bly.phase := by
  simp [resumeWork]

@[simp] theorem phase_clockLost (s : State) : (clockLost s).bly.phase = s.bly.phase := by
  simp [clockLost]

theorem phase_execXo24Retry (s : State) : ∀ t, (execXo24Retry s) = .next t → t.bly.phase = s.bly.phase := by
  intro t; unfold execXo24Retry; (try simp only []); (repeat' split) <;> intro h <;> (first | (simp only [Host.Outcome.next.injEq] at h; subst h; first | (simp; done) | (simp_all; done) | (iterate 10 (all_goals (try (first | with_reducible rfl | (refine phase_serve _ _ _ _ _ (fun s' => ?_)) | (refine (phase_refuseIf _ _ _ (fun s' => ?_) _).trans ?_) | (refine phase_receive _ _ _ _ (fun s' => ?_)) | (refine phase_whenReadable _ _ _ _ _ _ (fun s' => ?_)) | (refine (phase_foldl _ (fun s' a => ?_) _ _).trans ?_) | split | (simp; done) | (simp_all; done) | simp))))) | (simp at h; done))

@[simp] theorem phase_powerCore (n : Nat) (q : Int) (s : State) : (powerCore n q s).bly.phase = s.bly.phase := by
  simp [powerCore]

@[simp] theorem phase_followCim (s : State) : (followCim s).bly.phase = s.bly.phase := by
  simp [followCim]

@[simp] theorem phase_bankOff (b : Nat) (s : State) : (bankOff b s).bly.phase = s.bly.phase := by
  simp [bankOff]

@[simp] theorem phase_fabricOff (s : State) : (fabricOff s).bly.phase = s.bly.phase := by
  simp [fabricOff]

@[simp] theorem phase_inputsOff (s : State) : (inputsOff s).bly.phase = s.bly.phase := by
  simp [inputsOff]

@[simp] theorem phase_domainGained (n va30 : Nat) (q : Int) (s : State) : (domainGained n va30 q s).bly.phase = s.bly.phase := by
  simp [domainGained]

theorem phase_execDomainIdleRelease (domain : BitVec 5) (s : State) : ∀ t, (execDomainIdleRelease domain s) = .next t → t.bly.phase = s.bly.phase := by
  intro t; unfold execDomainIdleRelease; (try simp only []); (repeat' split) <;> intro h <;> (first | (simp only [Host.Outcome.next.injEq] at h; subst h; first | (simp; done) | (simp_all; done) | (iterate 10 (all_goals (try (first | with_reducible rfl | (refine phase_serve _ _ _ _ _ (fun s' => ?_)) | (refine (phase_refuseIf _ _ _ (fun s' => ?_) _).trans ?_) | (refine phase_receive _ _ _ _ (fun s' => ?_)) | (refine phase_whenReadable _ _ _ _ _ _ (fun s' => ?_)) | (refine (phase_foldl _ (fun s' a => ?_) _ _).trans ?_) | split | (simp; done) | (simp_all; done) | simp))))) | (simp at h; done))

theorem phase_execVa30OutOfRegulation (out : Bool) (s : State) : ∀ t, (execVa30OutOfRegulation out s) = .next t → t.bly.phase = s.bly.phase := by
  intro t; unfold execVa30OutOfRegulation; (try simp only []); (repeat' split) <;> intro h <;> (first | (simp only [Host.Outcome.next.injEq] at h; subst h; first | (simp; done) | (simp_all; done) | (iterate 10 (all_goals (try (first | with_reducible rfl | (refine phase_serve _ _ _ _ _ (fun s' => ?_)) | (refine (phase_refuseIf _ _ _ (fun s' => ?_) _).trans ?_) | (refine phase_receive _ _ _ _ (fun s' => ?_)) | (refine phase_whenReadable _ _ _ _ _ _ (fun s' => ?_)) | (refine (phase_foldl _ (fun s' a => ?_) _ _).trans ?_) | split | (simp; done) | (simp_all; done) | simp))))) | (simp at h; done))

theorem phase_execIoRailRangeChange (sensor inRange : Bool) (s : State) : ∀ t, (execIoRailRangeChange sensor inRange s) = .next t → t.bly.phase = s.bly.phase := by
  intro t; unfold execIoRailRangeChange; (try simp only []); (repeat' split) <;> intro h <;> (first | (simp only [Host.Outcome.next.injEq] at h; subst h; first | (simp; done) | (simp_all; done) | (iterate 10 (all_goals (try (first | with_reducible rfl | (refine phase_serve _ _ _ _ _ (fun s' => ?_)) | (refine (phase_refuseIf _ _ _ (fun s' => ?_) _).trans ?_) | (refine phase_receive _ _ _ _ (fun s' => ?_)) | (refine phase_whenReadable _ _ _ _ _ _ (fun s' => ?_)) | (refine (phase_foldl _ (fun s' a => ?_) _ _).trans ?_) | split | (simp; done) | (simp_all; done) | simp))))) | (simp at h; done))

theorem phase_execVcoreBuckInRegulation (s : State) : ∀ t, (execVcoreBuckInRegulation s) = .next t → t.bly.phase = s.bly.phase := by
  intro t; unfold execVcoreBuckInRegulation; (try simp only []); (repeat' split) <;> intro h <;> (first | (simp only [Host.Outcome.next.injEq] at h; subst h; first | (simp; done) | (simp_all; done) | (iterate 10 (all_goals (try (first | with_reducible rfl | (refine phase_serve _ _ _ _ _ (fun s' => ?_)) | (refine (phase_refuseIf _ _ _ (fun s' => ?_) _).trans ?_) | (refine phase_receive _ _ _ _ (fun s' => ?_)) | (refine phase_whenReadable _ _ _ _ _ _ (fun s' => ?_)) | (refine (phase_foldl _ (fun s' a => ?_) _ _).trans ?_) | split | (simp; done) | (simp_all; done) | simp))))) | (simp at h; done))

@[simp] theorem phase_cmdSleep (target : PowerState) (h : Hdr) (p : Bytes) (s : State) : (cmdSleep target h p s).bly.phase = s.bly.phase := by
  simp [cmdSleep]

@[simp] theorem phase_cmdPowerStateSetBivouac (h : Hdr) (p : Bytes) (s : State) : (cmdPowerStateSetBivouac h p s).bly.phase = s.bly.phase := by
  simp [cmdPowerStateSetBivouac]

@[simp] theorem phase_cmdPowerStateSetWatch (h : Hdr) (p : Bytes) (s : State) : (cmdPowerStateSetWatch h p s).bly.phase = s.bly.phase := by
  simp [cmdPowerStateSetWatch]

@[simp] theorem phase_beginSleep (e : SleepEntry) (s : State) : (beginSleep e s).bly.phase = s.bly.phase := by
  simp [beginSleep]

theorem phase_execSleepEntryStart (s : State) : ∀ t, (execSleepEntryStart s) = .next t → t.bly.phase = s.bly.phase := by
  intro t; unfold execSleepEntryStart; (try simp only []); (repeat' split) <;> intro h <;> (first | (simp only [Host.Outcome.next.injEq] at h; subst h; first | (simp; done) | (simp_all; done) | (iterate 10 (all_goals (try (first | with_reducible rfl | (refine phase_serve _ _ _ _ _ (fun s' => ?_)) | (refine (phase_refuseIf _ _ _ (fun s' => ?_) _).trans ?_) | (refine phase_receive _ _ _ _ (fun s' => ?_)) | (refine phase_whenReadable _ _ _ _ _ _ (fun s' => ?_)) | (refine (phase_foldl _ (fun s' a => ?_) _ _).trans ?_) | split | (simp; done) | (simp_all; done) | simp))))) | (simp at h; done))

theorem phase_execAutoSleepDwellExpiry (s : State) : ∀ t, (execAutoSleepDwellExpiry s) = .next t → t.bly.phase = s.bly.phase := by
  intro t; unfold execAutoSleepDwellExpiry; (try simp only []); (repeat' split) <;> intro h <;> (first | (simp only [Host.Outcome.next.injEq] at h; subst h; first | (simp; done) | (simp_all; done) | (iterate 10 (all_goals (try (first | with_reducible rfl | (refine phase_serve _ _ _ _ _ (fun s' => ?_)) | (refine (phase_refuseIf _ _ _ (fun s' => ?_) _).trans ?_) | (refine phase_receive _ _ _ _ (fun s' => ?_)) | (refine phase_whenReadable _ _ _ _ _ _ (fun s' => ?_)) | (refine (phase_foldl _ (fun s' a => ?_) _ _).trans ?_) | split | (simp; done) | (simp_all; done) | simp))))) | (simp at h; done))

@[simp] theorem phase_saveAtSleep (s : State) : (saveAtSleep s).1.bly.phase = s.bly.phase := by
  unfold saveAtSleep; (repeat' split) <;> (first | with_reducible rfl | (simp; done))

@[simp] theorem phase_enterBivouac (s : State) : (enterBivouac s).bly.phase = s.bly.phase := by
  simp [enterBivouac]

@[simp] theorem phase_startWake (source : WakeSource) (channel : Byte) (s : State) : (startWake source channel s).bly.phase = s.bly.phase := by
  simp [startWake]

@[simp] theorem phase_wakeSource (source : WakeSource) (channel : Byte) (s : State) : (wakeSource source channel s).bly.phase = s.bly.phase := by
  simp [wakeSource]

theorem phase_execWakeNLow (s : State) : ∀ t, (execWakeNLow s) = .next t → t.bly.phase = s.bly.phase := by
  intro t; unfold execWakeNLow; (try simp only []); (repeat' split) <;> intro h <;> (first | (simp only [Host.Outcome.next.injEq] at h; subst h; first | (simp; done) | (simp_all; done) | (iterate 10 (all_goals (try (first | with_reducible rfl | (refine phase_serve _ _ _ _ _ (fun s' => ?_)) | (refine (phase_refuseIf _ _ _ (fun s' => ?_) _).trans ?_) | (refine phase_receive _ _ _ _ (fun s' => ?_)) | (refine phase_whenReadable _ _ _ _ _ _ (fun s' => ?_)) | (refine (phase_foldl _ (fun s' a => ?_) _ _).trans ?_) | split | (simp; done) | (simp_all; done) | simp))))) | (simp at h; done))

theorem phase_execTickAlarmFire (s : State) : ∀ t, (execTickAlarmFire s) = .next t → t.bly.phase = s.bly.phase := by
  intro t; unfold execTickAlarmFire; (try simp only []); (repeat' split) <;> intro h <;> (first | (simp only [Host.Outcome.next.injEq] at h; subst h; first | (simp; done) | (simp_all; done) | (iterate 10 (all_goals (try (first | with_reducible rfl | (refine phase_serve _ _ _ _ _ (fun s' => ?_)) | (refine (phase_refuseIf _ _ _ (fun s' => ?_) _).trans ?_) | (refine phase_receive _ _ _ _ (fun s' => ?_)) | (refine phase_whenReadable _ _ _ _ _ _ (fun s' => ?_)) | (refine (phase_foldl _ (fun s' a => ?_) _ _).trans ?_) | split | (simp; done) | (simp_all; done) | simp))))) | (simp at h; done))

@[simp] theorem phase_passEdge (s : State) : (passEdge s).bly.phase = s.bly.phase := by
  simp only [passEdge]; iterate 10 (all_goals (try (first | with_reducible rfl | (refine phase_serve _ _ _ _ _ (fun s' => ?_)) | (refine (phase_refuseIf _ _ _ (fun s' => ?_) _).trans ?_) | (refine phase_receive _ _ _ _ (fun s' => ?_)) | (refine phase_whenReadable _ _ _ _ _ _ (fun s' => ?_)) | (refine (phase_foldl _ (fun s' a => ?_) _ _).trans ?_) | split | (simp; done) | (simp_all; done) | simp)))

theorem phase_execWatchThresholdFire (channel : BitVec 5) (samples : List Int) (s : State) : ∀ t, (execWatchThresholdFire channel samples s) = .next t → t.bly.phase = s.bly.phase := by
  intro t; unfold execWatchThresholdFire; (try simp only []); (repeat' split) <;> intro h <;> (first | (simp only [Host.Outcome.next.injEq] at h; subst h; first | (simp; done) | (simp_all; done) | (iterate 10 (all_goals (try (first | with_reducible rfl | (refine phase_serve _ _ _ _ _ (fun s' => ?_)) | (refine (phase_refuseIf _ _ _ (fun s' => ?_) _).trans ?_) | (refine phase_receive _ _ _ _ (fun s' => ?_)) | (refine phase_whenReadable _ _ _ _ _ _ (fun s' => ?_)) | (refine (phase_foldl _ (fun s' a => ?_) _ _).trans ?_) | split | (simp; done) | (simp_all; done) | simp))))) | (simp at h; done))

theorem phase_execRopeSquelchWake (s : State) : ∀ t, (execRopeSquelchWake s) = .next t → t.bly.phase = s.bly.phase := by
  intro t; unfold execRopeSquelchWake; (try simp only []); (repeat' split) <;> intro h <;> (first | (simp only [Host.Outcome.next.injEq] at h; subst h; first | (simp; done) | (simp_all; done) | (iterate 10 (all_goals (try (first | with_reducible rfl | (refine phase_serve _ _ _ _ _ (fun s' => ?_)) | (refine (phase_refuseIf _ _ _ (fun s' => ?_) _).trans ?_) | (refine phase_receive _ _ _ _ (fun s' => ?_)) | (refine phase_whenReadable _ _ _ _ _ _ (fun s' => ?_)) | (refine (phase_foldl _ (fun s' a => ?_) _ _).trans ?_) | split | (simp; done) | (simp_all; done) | simp))))) | (simp at h; done))

@[simp] theorem phase_endIdleSessions (s : State) : (endIdleSessions s).bly.phase = s.bly.phase := by
  simp [endIdleSessions]

@[simp] theorem phase_readCore (s : State) (n : Nat) (q : Int) : (readCore s n q).bly.phase = s.bly.phase := by
  simp [readCore]

@[simp] theorem phase_shedCores (s : State) : (shedCores s).bly.phase = s.bly.phase := by
  simp only [shedCores]; iterate 10 (all_goals (try (first | with_reducible rfl | (refine phase_serve _ _ _ _ _ (fun s' => ?_)) | (refine (phase_refuseIf _ _ _ (fun s' => ?_) _).trans ?_) | (refine phase_receive _ _ _ _ (fun s' => ?_)) | (refine phase_whenReadable _ _ _ _ _ _ (fun s' => ?_)) | (refine (phase_foldl _ (fun s' a => ?_) _ _).trans ?_) | split | (simp; done) | (simp_all; done) | simp)))

theorem phase_execPowerStateSetBivouac (h : Hdr) (p : Bytes) (s : State) : ∀ t, (execPowerStateSetBivouac h p s) = .next t → t.bly.phase = s.bly.phase := by
  exact fun _ e => Host.Outcome.next.inj e ▸ phase_cmdPowerStateSetBivouac h p s

theorem phase_execPowerStateSetWatch (h : Hdr) (p : Bytes) (s : State) : ∀ t, (execPowerStateSetWatch h p s) = .next t → t.bly.phase = s.bly.phase := by
  exact fun _ e => Host.Outcome.next.inj e ▸ phase_cmdPowerStateSetWatch h p s

@[simp] theorem phase_transportCode (s : State) : (transportCode s).2.bly.phase = s.bly.phase := by
  unfold transportCode; (repeat' split) <;> (first | with_reducible rfl | (simp; done))

@[simp] theorem phase_cmdDevInfo (h : Hdr) (p : Bytes) (s : State) : (cmdDevInfo h p s).bly.phase = s.bly.phase := by
  simp [cmdDevInfo]

@[simp] theorem phase_cmdDevStatus (h : Hdr) (p : Bytes) (s : State) : (cmdDevStatus h p s).bly.phase = s.bly.phase := by
  simp [cmdDevStatus]

theorem phase_execDevInfo (h : Hdr) (p : Bytes) (s : State) : ∀ t, (execDevInfo h p s) = .next t → t.bly.phase = s.bly.phase := by
  exact fun _ e => Host.Outcome.next.inj e ▸ phase_cmdDevInfo h p s

theorem phase_execDevStatus (h : Hdr) (p : Bytes) (s : State) : ∀ t, (execDevStatus h p s) = .next t → t.bly.phase = s.bly.phase := by
  exact fun _ e => Host.Outcome.next.inj e ▸ phase_cmdDevStatus h p s

@[simp] theorem phase_onTap (f : TapState → TapState) (s : State) : (onTap f s).bly.phase = s.bly.phase := by
  simp [onTap]

@[simp] theorem phase_scan (instr : BitVec 5) (captured tdi : List Bool) (s : State) : (scan instr captured tdi s).bly.phase = s.bly.phase := by
  simp [scan]

@[simp] theorem phase_boundary (instr : BitVec 5) (pins tdi : List Bool) (s : State) : (boundary instr pins tdi s).bly.phase = s.bly.phase := by
  simp [boundary]

theorem phase_execTapReset (s : State) : ∀ t, (execTapReset s) = .next t → t.bly.phase = s.bly.phase := by
  intro t; unfold execTapReset; (try simp only []); (repeat' split) <;> intro h <;> (first | (simp only [Host.Outcome.next.injEq] at h; subst h; first | (simp; done) | (simp_all; done) | (iterate 10 (all_goals (try (first | with_reducible rfl | (refine phase_serve _ _ _ _ _ (fun s' => ?_)) | (refine (phase_refuseIf _ _ _ (fun s' => ?_) _).trans ?_) | (refine phase_receive _ _ _ _ (fun s' => ?_)) | (refine phase_whenReadable _ _ _ _ _ _ (fun s' => ?_)) | (refine (phase_foldl _ (fun s' a => ?_) _ _).trans ?_) | split | (simp; done) | (simp_all; done) | simp))))) | (simp at h; done))

theorem phase_execBypass (opcode : BitVec 5) (tdi : List Bool) (s : State) : ∀ t, (execBypass opcode tdi s) = .next t → t.bly.phase = s.bly.phase := by
  intro t; unfold execBypass; (try simp only []); (repeat' split) <;> intro h <;> (first | (simp only [Host.Outcome.next.injEq] at h; subst h; first | (simp; done) | (simp_all; done) | (iterate 10 (all_goals (try (first | with_reducible rfl | (refine phase_serve _ _ _ _ _ (fun s' => ?_)) | (refine (phase_refuseIf _ _ _ (fun s' => ?_) _).trans ?_) | (refine phase_receive _ _ _ _ (fun s' => ?_)) | (refine phase_whenReadable _ _ _ _ _ _ (fun s' => ?_)) | (refine (phase_foldl _ (fun s' a => ?_) _ _).trans ?_) | split | (simp; done) | (simp_all; done) | simp))))) | (simp at h; done))

theorem phase_execIdcode (tdi : List Bool) (s : State) : ∀ t, (execIdcode tdi s) = .next t → t.bly.phase = s.bly.phase := by
  intro t; unfold execIdcode; (try simp only []); (repeat' split) <;> intro h <;> (first | (simp only [Host.Outcome.next.injEq] at h; subst h; first | (simp; done) | (simp_all; done) | (iterate 10 (all_goals (try (first | with_reducible rfl | (refine phase_serve _ _ _ _ _ (fun s' => ?_)) | (refine (phase_refuseIf _ _ _ (fun s' => ?_) _).trans ?_) | (refine phase_receive _ _ _ _ (fun s' => ?_)) | (refine phase_whenReadable _ _ _ _ _ _ (fun s' => ?_)) | (refine (phase_foldl _ (fun s' a => ?_) _ _).trans ?_) | split | (simp; done) | (simp_all; done) | simp))))) | (simp at h; done))

theorem phase_execSamplePreload (pins tdi : List Bool) (s : State) : ∀ t, (execSamplePreload pins tdi s) = .next t → t.bly.phase = s.bly.phase := by
  intro t; unfold execSamplePreload; (try simp only []); (repeat' split) <;> intro h <;> (first | (simp only [Host.Outcome.next.injEq] at h; subst h; first | (simp; done) | (simp_all; done) | (iterate 10 (all_goals (try (first | with_reducible rfl | (refine phase_serve _ _ _ _ _ (fun s' => ?_)) | (refine (phase_refuseIf _ _ _ (fun s' => ?_) _).trans ?_) | (refine phase_receive _ _ _ _ (fun s' => ?_)) | (refine phase_whenReadable _ _ _ _ _ _ (fun s' => ?_)) | (refine (phase_foldl _ (fun s' a => ?_) _ _).trans ?_) | split | (simp; done) | (simp_all; done) | simp))))) | (simp at h; done))

theorem phase_execExtest (pins tdi : List Bool) (s : State) : ∀ t, (execExtest pins tdi s) = .next t → t.bly.phase = s.bly.phase := by
  intro t; unfold execExtest; (try simp only []); (repeat' split) <;> intro h <;> (first | (simp only [Host.Outcome.next.injEq] at h; subst h; first | (simp; done) | (simp_all; done) | (iterate 10 (all_goals (try (first | with_reducible rfl | (refine phase_serve _ _ _ _ _ (fun s' => ?_)) | (refine (phase_refuseIf _ _ _ (fun s' => ?_) _).trans ?_) | (refine phase_receive _ _ _ _ (fun s' => ?_)) | (refine phase_whenReadable _ _ _ _ _ _ (fun s' => ?_)) | (refine (phase_foldl _ (fun s' a => ?_) _ _).trans ?_) | split | (simp; done) | (simp_all; done) | simp))))) | (simp at h; done))

theorem phase_execHighz (pins tdi : List Bool) (s : State) : ∀ t, (execHighz pins tdi s) = .next t → t.bly.phase = s.bly.phase := by
  intro t; unfold execHighz; (try simp only []); (repeat' split) <;> intro h <;> (first | (simp only [Host.Outcome.next.injEq] at h; subst h; first | (simp; done) | (simp_all; done) | (iterate 10 (all_goals (try (first | with_reducible rfl | (refine phase_serve _ _ _ _ _ (fun s' => ?_)) | (refine (phase_refuseIf _ _ _ (fun s' => ?_) _).trans ?_) | (refine phase_receive _ _ _ _ (fun s' => ?_)) | (refine phase_whenReadable _ _ _ _ _ _ (fun s' => ?_)) | (refine (phase_foldl _ (fun s' a => ?_) _ _).trans ?_) | split | (simp; done) | (simp_all; done) | simp))))) | (simp at h; done))

theorem phase_execClamp (pins tdi : List Bool) (s : State) : ∀ t, (execClamp pins tdi s) = .next t → t.bly.phase = s.bly.phase := by
  intro t; unfold execClamp; (try simp only []); (repeat' split) <;> intro h <;> (first | (simp only [Host.Outcome.next.injEq] at h; subst h; first | (simp; done) | (simp_all; done) | (iterate 10 (all_goals (try (first | with_reducible rfl | (refine phase_serve _ _ _ _ _ (fun s' => ?_)) | (refine (phase_refuseIf _ _ _ (fun s' => ?_) _).trans ?_) | (refine phase_receive _ _ _ _ (fun s' => ?_)) | (refine phase_whenReadable _ _ _ _ _ _ (fun s' => ?_)) | (refine (phase_foldl _ (fun s' a => ?_) _ _).trans ?_) | split | (simp; done) | (simp_all; done) | simp))))) | (simp at h; done))

@[simp] theorem phase_freeBits (n : Nat) (s : State) : ((freeBits n s).2).bly.phase = s.bly.phase := by
  induction n generalizing s with
  | zero => rfl
  | succ n ih => simp [freeBits, ih]

theorem phase_execDbgChal (tdi : List Bool) (s : State) : ∀ t, (execDbgChal tdi s) = .next t → t.bly.phase = s.bly.phase := by
  intro t; unfold execDbgChal; (try simp only []); (repeat' split) <;> intro h <;> (first | (simp only [Host.Outcome.next.injEq] at h; subst h; first | (simp; done) | (simp_all; done) | (iterate 10 (all_goals (try (first | with_reducible rfl | (refine phase_serve _ _ _ _ _ (fun s' => ?_)) | (refine (phase_refuseIf _ _ _ (fun s' => ?_) _).trans ?_) | (refine phase_receive _ _ _ _ (fun s' => ?_)) | (refine phase_whenReadable _ _ _ _ _ _ (fun s' => ?_)) | (refine (phase_foldl _ (fun s' a => ?_) _ _).trans ?_) | split | (simp; done) | (simp_all; done) | simp))))) | (simp at h; done))

theorem phase_execDbgOpen (tdi : List Bool) (s : State) : ∀ t, (execDbgOpen tdi s) = .next t → t.bly.phase = s.bly.phase := by
  intro t; unfold execDbgOpen; (try simp only []); (repeat' split) <;> intro h <;> (first | (simp only [Host.Outcome.next.injEq] at h; subst h; first | (simp; done) | (simp_all; done) | (iterate 10 (all_goals (try (first | with_reducible rfl | (refine phase_serve _ _ _ _ _ (fun s' => ?_)) | (refine (phase_refuseIf _ _ _ (fun s' => ?_) _).trans ?_) | (refine phase_receive _ _ _ _ (fun s' => ?_)) | (refine phase_whenReadable _ _ _ _ _ _ (fun s' => ?_)) | (refine (phase_foldl _ (fun s' a => ?_) _ _).trans ?_) | split | (simp; done) | (simp_all; done) | simp))))) | (simp at h; done))

theorem phase_execDbgAccess (tdi : List Bool) (s : State) : ∀ t, (execDbgAccess tdi s) = .next t → t.bly.phase = s.bly.phase := by
  intro t; unfold execDbgAccess; (try simp only []); (repeat' split) <;> intro h <;> (first | (simp only [Host.Outcome.next.injEq] at h; subst h; first | (simp; done) | (simp_all; done) | (iterate 10 (all_goals (try (first | with_reducible rfl | (refine phase_serve _ _ _ _ _ (fun s' => ?_)) | (refine (phase_refuseIf _ _ _ (fun s' => ?_) _).trans ?_) | (refine phase_receive _ _ _ _ (fun s' => ?_)) | (refine phase_whenReadable _ _ _ _ _ _ (fun s' => ?_)) | (refine (phase_foldl _ (fun s' a => ?_) _ _).trans ?_) | split | (simp; done) | (simp_all; done) | simp))))) | (simp at h; done))

@[simp] theorem phase_advanceTx (owner : BitVec 2) (s : State) : (advanceTx owner s).bly.phase = s.bly.phase := by
  simp [advanceTx]

@[simp] theorem phase_sealedPacket (owner : BitVec 2) (more : Bool) (opcode tagByte status : Byte) (payload : Bytes) (s : State) : (sealedPacket owner more opcode tagByte status payload s).2.bly.phase = s.bly.phase := by
  simp [sealedPacket]

@[simp] theorem phase_replyPacket (r : Reply) (s : State) : (replyPacket r s).2.2.bly.phase = s.bly.phase := by
  unfold replyPacket; (repeat' split) <;> (first | with_reducible rfl | (simp; done))

@[simp] theorem phase_freeTag (tag : Tag) (s : State) : (freeTag tag s).bly.phase = s.bly.phase := by
  unfold freeTag; (repeat' split) <;> (first | with_reducible rfl | (simp; done))

@[simp] theorem phase_closeSession (r : Reply) (s : State) : (closeSession r s).bly.phase = s.bly.phase := by
  simp [closeSession]

@[simp] theorem phase_countEvent (s : State) : (countEvent s).bly.phase = s.bly.phase := by
  simp [countEvent]

@[simp] theorem phase_eventDelivered (e : Event) (s : State) : (eventDelivered e s).bly.phase = s.bly.phase := by
  simp [eventDelivered]

@[simp] theorem phase_lossReported (s : State) : (lossReported s).bly.phase = s.bly.phase := by
  simp [lossReported]

@[simp] theorem phase_eventPacket (e : Event) (s : State) : (eventPacket e s).2.bly.phase = s.bly.phase := by
  unfold eventPacket; (repeat' split) <;> (first | with_reducible rfl | (simp; done))

@[simp] theorem phase_cmdRopeRelay (h : Hdr) (p : Bytes) (s : State) : (cmdRopeRelay h p s).bly.phase = s.bly.phase := by
  simp [cmdRopeRelay]

@[simp] theorem phase_noSuch (f : Form) (h : Hdr) (p : Bytes) (s : State) : (noSuch f h p s).bly.phase = s.bly.phase := by
  simp [noSuch]

@[simp] theorem phase_byFlag (i : Nat) (p : Bytes) (a b : Hdr → Bytes → State → State)
    (ha : ∀ h p s, (a h p s).bly.phase = s.bly.phase) (hb : ∀ h p s, (b h p s).bly.phase = s.bly.phase)
    (h : Hdr) (q : Bytes) (s : State) : (byFlag i p a b h q s).bly.phase = s.bly.phase := by
  unfold byFlag; split <;> simp [ha, hb]

@[simp] theorem phase_sensing (opcode : Nat) (h : Hdr) (p : Bytes) (s : State) : (sensing opcode h p s).bly.phase = s.bly.phase := by
  unfold sensing; (repeat' split) <;> (first | with_reducible rfl | (simp; done))

@[simp] theorem phase_replyPackets (n : Nat) (r : Reply) (s : State) : ((replyPackets n r s).2).bly.phase = s.bly.phase := by
  induction n generalizing r s with
  | zero => rfl
  | succ n ih =>
    simp only [replyPackets]
    split <;> simp [ih]

@[simp] theorem phase_sendBack (src : Byte) (id : BitVec 16) (b : Bytes) (s : State) : (sendBack src id b s).bly.phase = s.bly.phase := by
  simp [sendBack]

@[simp] theorem phase_relayReplied (src : Byte) (id : BitVec 16) (more : Bool) (b : Bytes) (s : State) : (relayReplied src id more b s).bly.phase = s.bly.phase := by
  simp only [relayReplied]; iterate 10 (all_goals (try (first | with_reducible rfl | (refine phase_serve _ _ _ _ _ (fun s' => ?_)) | (refine (phase_refuseIf _ _ _ (fun s' => ?_) _).trans ?_) | (refine phase_receive _ _ _ _ (fun s' => ?_)) | (refine phase_whenReadable _ _ _ _ _ _ (fun s' => ?_)) | (refine (phase_foldl _ (fun s' a => ?_) _ _).trans ?_) | split | (simp; done) | (simp_all; done) | simp)))

theorem phase_execRopeRelay (h : Hdr) (p : Bytes) (s : State) : ∀ t, (execRopeRelay h p s) = .next t → t.bly.phase = s.bly.phase := by
  exact fun _ e => Host.Outcome.next.inj e ▸ phase_cmdRopeRelay h p s

@[simp] theorem phase_passTime (s : State) : (passTime s).bly.phase = s.bly.phase := by
  simp [passTime]

@[simp] theorem phase_checksComplete (s : State) : (checksComplete s).bly.phase = s.bly.phase := by
  simp [checksComplete]

@[simp] theorem phase_serveHeads (s : State) : (serveHeads s).bly.phase = s.bly.phase := by
  simp [serveHeads]


end Sys2Proof.Machine
end

