-- ==== Sys2Proof/Laws/Fallen.lean ====
section
/-! SUPPORT. The operations and meanings that leave BELAY_OK low once it has fallen. -/

set_option linter.all false

namespace Sys2Proof.Machine
theorem fallen_low {p : BelayPhase} (h : fallen p) : low p := by rcases h with rfl | rfl | rfl <;> simp [low]
@[simp] theorem low_disarmed : low .disarmed := by simp [low]
@[simp] theorem low_tripped : low .tripped := by simp [low]
@[simp] theorem low_coasting : low .coasting := by simp [low]
@[simp] theorem low_stopped : low .stopped := by simp [low]
@[simp] theorem low_rearm : low .rearm := by simp [low]
@[simp] theorem low_ite (c : Prop) [Decidable c] (a b : BelayPhase) : low (if c then a else b) ↔ if c then low a else low b := by split <;> rfl
theorem low_not_armed {p : BelayPhase} (h : low p) : p ≠ .armed := h.1
theorem low_not_hold {p : BelayPhase} (h : low p) : p ≠ .hold := h.2
@[simp] theorem low_beq_armed {p : BelayPhase} (h : low p) : (p == .armed) = false := by simpa using h.1
@[simp] theorem low_beq_hold {p : BelayPhase} (h : low p) : (p == .hold) = false := by simpa using h.2
theorem low_serve (f : Form) (h : Hdr) (p : Bytes) (body : State → State) (s : State) (hb : ∀ a, low a.bly.phase → low (body a).bly.phase)
    (hs : low s.bly.phase) : low (serve f h p body s).bly.phase := by
  have hj : ∀ a, low a.bly.phase → low (judge f h p body a).bly.phase := by
    intro a ha; unfold judge; (repeat' split) <;> simp [*]
  have hp : ∀ a, low a.bly.phase → low (pass f h p body a).bly.phase := by
    intro a ha; unfold pass; split
    · exact ha
    · exact hj a ha
  unfold serve
  dsimp only
  split
  · exact hp _ (by simpa using hs)
  · (repeat' split) <;> first | exact hs | (simp [*]; done) | (refine hp _ ?_; simp [*]; done)
theorem low_refuseIf (tag : Tag) (cs : List (Bool × Byte)) (k : State → State) (hk : ∀ a, low a.bly.phase → low (k a).bly.phase) (s : State)
    (hs : low s.bly.phase) : low (refuseIf tag cs k s).bly.phase := by
  induction cs with
  | nil => exact hk s hs
  | cons c cs ih =>
    obtain ⟨b, st⟩ := c
    cases b
    · exact ih
    · simpa [refuseIf] using hs
theorem low_receive (r : RopeRx) (f : RopeFrame) (act : State → State) (s : State) (ha : ∀ a, low a.bly.phase → low (act a).bly.phase)
    (hs : low s.bly.phase) : low (receive r f act s).bly.phase := by
  unfold receive
  (repeat' split) <;> first | exact hs | (simp [*]; done) | (try simp only [phase_onRopePort]; exact ha _ (by simpa using hs)) | skip
theorem low_foldl {α : Type} (f : State → α → State) (h : ∀ s a, low s.bly.phase → low (f s a).bly.phase) (l : List α) (s : State)
    (hs : low s.bly.phase) : low (l.foldl f s).bly.phase := by
  induction l generalizing s with
  | nil => exact hs
  | cons a l ih => exact ih _ (h _ _ hs)
@[simp] theorem phase_enterBelay (p : BelayPhase) (d : Bool) (s : State) : (enterBelay p d s).bly.phase = p := by
  unfold enterBelay; dsimp only; split <;> simp
@[simp] theorem phase_tripRecord (c a : Byte) (e : Bool) (s : State) : (tripRecord c a e s).bly.phase = .tripped := by
  unfold tripRecord; dsimp only; split <;> simp

/-- What `serve` does around a body leaves Belay's state alone. -/
theorem low_serve_same (f : Form) (h : Hdr) (p : Bytes) (body : State → State) (s : State)
    (hb : ∀ a, a.bly.phase = s.bly.phase → low (body a).bly.phase) (hs : low s.bly.phase) : low (serve f h p body s).bly.phase := by
  have hj : ∀ a, a.bly.phase = s.bly.phase → low (judge f h p body a).bly.phase := by
    intro a ha; unfold judge; (repeat' split) <;> simp [*]
  have hp : ∀ a, a.bly.phase = s.bly.phase → low (pass f h p body a).bly.phase := by
    intro a ha; unfold pass; split
    · simpa [ha] using hs
    · exact hj a ha
  unfold serve
  dsimp only
  split
  · exact hp _ (by simp)
  · (repeat' split) <;> first | exact hs | (simp [*]; done) | (refine hp _ ?_; simp [*]; done)

theorem fallen_receive (r : RopeRx) (f : RopeFrame) (act : State → State) (s : State)
    (ha : ∀ a, a.bly.phase = s.bly.phase → low (act a).bly.phase) (hs : low s.bly.phase) : low (receive r f act s).bly.phase := by
  unfold receive
  extract_lets p x s1 mine f' s2 s3
  split
  · exact hs
  · split
    · simpa using hs
    · split
      · simpa using hs
      · have h1 : s1.bly.phase = s.bly.phase := by simp [s1]
        have h2 : s2.bly.phase = s.bly.phase := by simp only [s2]; split <;> simp [h1]
        have h3 : s3.bly.phase = s.bly.phase := by simp only [s3]; split <;> simp [h2]
        rw [phase_flushRope]
        split
        · exact ha _ h3
        · rw [h3]; exact hs

theorem low_ropeServe (f : Form) (h : Hdr) (p : Bytes) (body : State → State) (s : State) (hb : ∀ a, low a.bly.phase → low (body a).bly.phase)
    (hs : low s.bly.phase) : low (ropeServe f h p body s).bly.phase :=
  low_serve _ _ _ _ _ (fun _ ha => low_refuseIf _ _ _ hb _ ha) hs

theorem low_enterStopped (declared : Bool) (s : State) (hlow : low s.bly.phase) : low (enterStopped declared s).bly.phase := by
  simp only [enterStopped]; (iterate 14 (all_goals (try (first | with_reducible assumption | with_reducible refine low_serve _ _ _ _ _ (fun s' h' => ?_) ?_ | with_reducible refine low_refuseIf _ _ _ (fun s' h' => ?_) _ ?_ | with_reducible refine low_receive _ _ _ _ (fun s' h' => ?_) ?_ | with_reducible refine low_foldl _ (fun s' a h' => ?_) _ _ ?_ | split | (simp [*]; done) | (simp [*])))))

theorem low_enterCoasting (s : State) (hlow : low s.bly.phase) : low (enterCoasting s).bly.phase := by
  simp only [enterCoasting]; (iterate 14 (all_goals (try (first | with_reducible assumption | with_reducible refine low_serve _ _ _ _ _ (fun s' h' => ?_) ?_ | with_reducible refine low_refuseIf _ _ _ (fun s' h' => ?_) _ ?_ | with_reducible refine low_receive _ _ _ _ (fun s' h' => ?_) ?_ | with_reducible refine low_foldl _ (fun s' a h' => ?_) _ _ ?_ | split | (simp [*]; done) | (simp [*])))))

theorem low_followCoast (s : State) (hlow : low s.bly.phase) : low (followCoast s).bly.phase := by
  simp only [followCoast]; (iterate 14 (all_goals (try (first | with_reducible assumption | with_reducible refine low_serve _ _ _ _ _ (fun s' h' => ?_) ?_ | with_reducible refine low_refuseIf _ _ _ (fun s' h' => ?_) _ ?_ | with_reducible refine low_receive _ _ _ _ (fun s' h' => ?_) ?_ | with_reducible refine low_foldl _ (fun s' a h' => ?_) _ _ ?_ | with_reducible apply low_enterCoasting | split | (simp [*]; done) | (simp [*])))))

theorem low_commitTrip (s : State) (hlow : low s.bly.phase) : low (commitTrip s).bly.phase := by
  simp only [commitTrip]; (iterate 14 (all_goals (try (first | with_reducible assumption | with_reducible refine low_serve _ _ _ _ _ (fun s' h' => ?_) ?_ | with_reducible refine low_refuseIf _ _ _ (fun s' h' => ?_) _ ?_ | with_reducible refine low_receive _ _ _ _ (fun s' h' => ?_) ?_ | with_reducible refine low_foldl _ (fun s' a h' => ?_) _ _ ?_ | with_reducible apply low_enterCoasting | with_reducible apply low_followCoast | split | (simp [*]; done) | (simp [*])))))

theorem low_tripRequest (cause asset : Byte) (halted : Option Nat) (atOnce : Bool) (s : State) (hlow : low s.bly.phase) :
    low (tripRequest cause asset halted atOnce s).1.bly.phase := by
  unfold tripRequest
  split
  · rename_i h; exact absurd h hlow.1
  all_goals exact hlow

theorem low_checkRearm (s : State) (hlow : low s.bly.phase) : low (checkRearm s).bly.phase := by
  simp only [checkRearm]; (iterate 14 (all_goals (try (first | with_reducible assumption | with_reducible refine low_serve _ _ _ _ _ (fun s' h' => ?_) ?_ | with_reducible refine low_refuseIf _ _ _ (fun s' h' => ?_) _ ?_ | with_reducible refine low_receive _ _ _ _ (fun s' h' => ?_) ?_ | with_reducible refine low_foldl _ (fun s' a h' => ?_) _ _ ?_ | with_reducible apply low_enterStopped | split | (simp [*]; done) | (simp [*])))))

theorem low_lookAsset (i : Nat) (s : State) (hlow : low s.bly.phase) : low (lookAsset i s).bly.phase := by
  simp only [lookAsset]; (iterate 14 (all_goals (try (first | with_reducible assumption | with_reducible refine low_serve _ _ _ _ _ (fun s' h' => ?_) ?_ | with_reducible refine low_refuseIf _ _ _ (fun s' h' => ?_) _ ?_ | with_reducible refine low_receive _ _ _ _ (fun s' h' => ?_) ?_ | with_reducible refine low_foldl _ (fun s' a h' => ?_) _ _ ?_ | with_reducible apply low_tripRequest | split | (simp [*]; done) | (simp [*])))))

theorem low_lookBelay (s : State) (hlow : low s.bly.phase) : low (lookBelay s).bly.phase := by
  simp only [lookBelay]; (iterate 14 (all_goals (try (first | with_reducible assumption | with_reducible refine low_serve _ _ _ _ _ (fun s' h' => ?_) ?_ | with_reducible refine low_refuseIf _ _ _ (fun s' h' => ?_) _ ?_ | with_reducible refine low_receive _ _ _ _ (fun s' h' => ?_) ?_ | with_reducible refine low_foldl _ (fun s' a h' => ?_) _ _ ?_ | with_reducible apply low_lookAsset | with_reducible apply low_checkRearm | with_reducible apply low_tripRequest | split | (simp [*]; done) | (simp [*])))))

theorem low_updateAsset (i : Nat) (r : AssetResult) (s : State) (hlow : low s.bly.phase) : low (updateAsset i r s).bly.phase := by
  simp only [updateAsset]; (iterate 14 (all_goals (try (first | with_reducible assumption | with_reducible refine low_serve _ _ _ _ _ (fun s' h' => ?_) ?_ | with_reducible refine low_refuseIf _ _ _ (fun s' h' => ?_) _ ?_ | with_reducible refine low_receive _ _ _ _ (fun s' h' => ?_) ?_ | with_reducible refine low_foldl _ (fun s' a h' => ?_) _ _ ?_ | with_reducible apply low_tripRequest | split | (simp [*]; done) | (simp [*])))))

theorem low_assetTakes (r : AssetResult) (s : State) (i : Nat) (hlow : low s.bly.phase) : low (assetTakes r s i).bly.phase := by
  simp only [assetTakes]; (iterate 14 (all_goals (try (first | with_reducible assumption | with_reducible refine low_serve _ _ _ _ _ (fun s' h' => ?_) ?_ | with_reducible refine low_refuseIf _ _ _ (fun s' h' => ?_) _ ?_ | with_reducible refine low_receive _ _ _ _ (fun s' h' => ?_) ?_ | with_reducible refine low_foldl _ (fun s' a h' => ?_) _ _ ?_ | with_reducible apply low_updateAsset | with_reducible apply low_tripRequest | split | (simp [*]; done) | (simp [*])))))

theorem low_execAssetUpdate (s : State) (hlow : low s.bly.phase) : ∀ t, (execAssetUpdate s) = .next t → low t.bly.phase := by
  intro t ht; simp only [execAssetUpdate] at ht; (repeat' split at ht) <;> (simp only [Host.Outcome.next.injEq, reduceCtorEq] at ht) <;> (try subst ht) <;> (iterate 14 (all_goals (try (first | with_reducible assumption | with_reducible refine low_serve _ _ _ _ _ (fun s' h' => ?_) ?_ | with_reducible refine low_refuseIf _ _ _ (fun s' h' => ?_) _ ?_ | with_reducible refine low_receive _ _ _ _ (fun s' h' => ?_) ?_ | with_reducible refine low_foldl _ (fun s' a h' => ?_) _ _ ?_ | with_reducible apply low_assetTakes | with_reducible apply low_lookBelay | split | (simp [*]; done) | (simp [*])))))

theorem low_execConfirmWindowEnd (s : State) (hlow : low s.bly.phase) : ∀ t, execConfirmWindowEnd s = .next t → low t.bly.phase := by
  intro t ht
  have : (s.bly.phase != .hold) = true := by simpa using hlow.2
  simp only [execConfirmWindowEnd, this, Bool.true_or, if_true, Host.Outcome.next.injEq] at ht
  exact ht ▸ hlow

theorem low_execCoastTimerEnd (s : State) (hlow : low s.bly.phase) : ∀ t, (execCoastTimerEnd s) = .next t → low t.bly.phase := by
  intro t ht; simp only [execCoastTimerEnd] at ht; (repeat' split at ht) <;> (simp only [Host.Outcome.next.injEq, reduceCtorEq] at ht) <;> (try subst ht) <;> (iterate 14 (all_goals (try (first | with_reducible assumption | with_reducible refine low_serve _ _ _ _ _ (fun s' h' => ?_) ?_ | with_reducible refine low_refuseIf _ _ _ (fun s' h' => ?_) _ ?_ | with_reducible refine low_receive _ _ _ _ (fun s' h' => ?_) ?_ | with_reducible refine low_foldl _ (fun s' a h' => ?_) _ _ ?_ | with_reducible apply low_enterStopped | with_reducible apply low_enterCoasting | with_reducible apply low_lookBelay | split | (simp [*]; done) | (simp [*])))))

theorem low_execStopDwellEnd (s : State) (hlow : low s.bly.phase) : ∀ t, (execStopDwellEnd s) = .next t → low t.bly.phase := by
  intro t ht; simp only [execStopDwellEnd] at ht; (repeat' split at ht) <;> (simp only [Host.Outcome.next.injEq, reduceCtorEq] at ht) <;> (try subst ht) <;> (iterate 14 (all_goals (try (first | with_reducible assumption | with_reducible refine low_serve _ _ _ _ _ (fun s' h' => ?_) ?_ | with_reducible refine low_refuseIf _ _ _ (fun s' h' => ?_) _ ?_ | with_reducible refine low_receive _ _ _ _ (fun s' h' => ?_) ?_ | with_reducible refine low_foldl _ (fun s' a h' => ?_) _ _ ?_ | with_reducible apply low_enterStopped | with_reducible apply low_lookBelay | split | (simp [*]; done) | (simp [*])))))

theorem low_execMotionDwellEnd (s : State) (hlow : low s.bly.phase) : ∀ t, (execMotionDwellEnd s) = .next t → low t.bly.phase := by
  intro t ht; simp only [execMotionDwellEnd] at ht; (repeat' split at ht) <;> (simp only [Host.Outcome.next.injEq, reduceCtorEq] at ht) <;> (try subst ht) <;> (iterate 14 (all_goals (try (first | with_reducible assumption | with_reducible refine low_serve _ _ _ _ _ (fun s' h' => ?_) ?_ | with_reducible refine low_refuseIf _ _ _ (fun s' h' => ?_) _ ?_ | with_reducible refine low_receive _ _ _ _ (fun s' h' => ?_) ?_ | with_reducible refine low_foldl _ (fun s' a h' => ?_) _ _ ?_ | with_reducible apply low_lookBelay | split | (simp [*]; done) | (simp [*])))))

theorem fallen_execRearmTimerEnd (s : State) (hlow : fallen s.bly.phase) : ∀ t, execRearmTimerEnd s = .next t → low t.bly.phase := by
  intro t ht
  have : (s.bly.phase != .rearm) = true := by rcases hlow with h | h | h <;> rw [h] <;> rfl
  simp only [execRearmTimerEnd, this, Bool.true_or, if_true, Host.Outcome.next.injEq] at ht
  exact ht ▸ fallen_low hlow

theorem low_countTach (i ns : Nat) (s : State) (hlow : low s.bly.phase) : low (countTach i ns s).bly.phase := by
  simp only [countTach]; (iterate 14 (all_goals (try (first | with_reducible assumption | with_reducible refine low_serve _ _ _ _ _ (fun s' h' => ?_) ?_ | with_reducible refine low_refuseIf _ _ _ (fun s' h' => ?_) _ ?_ | with_reducible refine low_receive _ _ _ _ (fun s' h' => ?_) ?_ | with_reducible refine low_foldl _ (fun s' a h' => ?_) _ _ ?_ | with_reducible apply low_followCoast | with_reducible apply low_lookBelay | split | (simp [*]; done) | (simp [*])))))

theorem low_execTachEdge (tach : BitVec 2) (up : Bool) (held ns : Nat) (s : State) (hlow : low s.bly.phase) : ∀ t, (execTachEdge tach up held ns s) = .next t → low t.bly.phase := by
  intro t ht; simp only [execTachEdge] at ht; (repeat' split at ht) <;> (simp only [Host.Outcome.next.injEq, reduceCtorEq] at ht) <;> (try subst ht) <;> (iterate 14 (all_goals (try (first | with_reducible assumption | with_reducible refine low_serve _ _ _ _ _ (fun s' h' => ?_) ?_ | with_reducible refine low_refuseIf _ _ _ (fun s' h' => ?_) _ ?_ | with_reducible refine low_receive _ _ _ _ (fun s' h' => ?_) ?_ | with_reducible refine low_foldl _ (fun s' a h' => ?_) _ _ ?_ | with_reducible apply low_countTach | split | (simp [*]; done) | (simp [*])))))

theorem low_execTachIdle (tach : BitVec 2) (s : State) (hlow : low s.bly.phase) : ∀ t, (execTachIdle tach s) = .next t → low t.bly.phase := by
  intro t ht; simp only [execTachIdle] at ht; (repeat' split at ht) <;> (simp only [Host.Outcome.next.injEq, reduceCtorEq] at ht) <;> (try subst ht) <;> (iterate 14 (all_goals (try (first | with_reducible assumption | with_reducible refine low_serve _ _ _ _ _ (fun s' h' => ?_) ?_ | with_reducible refine low_refuseIf _ _ _ (fun s' h' => ?_) _ ?_ | with_reducible refine low_receive _ _ _ _ (fun s' h' => ?_) ?_ | with_reducible refine low_foldl _ (fun s' a h' => ?_) _ _ ?_ | with_reducible apply low_followCoast | with_reducible apply low_lookBelay | split | (simp [*]; done) | (simp [*])))))

theorem low_cmdHoutMap (h : Hdr) (p : Bytes) (s : State) (hlow : low s.bly.phase) : low (cmdHoutMap h p s).bly.phase := by
  simp only [cmdHoutMap]; (iterate 14 (all_goals (try (first | with_reducible assumption | with_reducible refine low_serve _ _ _ _ _ (fun s' h' => ?_) ?_ | with_reducible refine low_refuseIf _ _ _ (fun s' h' => ?_) _ ?_ | with_reducible refine low_receive _ _ _ _ (fun s' h' => ?_) ?_ | with_reducible refine low_foldl _ (fun s' a h' => ?_) _ _ ?_ | with_reducible apply low_lookBelay | split | (simp [*]; done) | (simp [*])))))

theorem low_cmdBelayConfig (h : Hdr) (p : Bytes) (s : State) (hlow : low s.bly.phase) : low (cmdBelayConfig h p s).bly.phase := by
  simp only [cmdBelayConfig]; (iterate 14 (all_goals (try (first | with_reducible assumption | with_reducible refine low_serve _ _ _ _ _ (fun s' h' => ?_) ?_ | with_reducible refine low_refuseIf _ _ _ (fun s' h' => ?_) _ ?_ | with_reducible refine low_receive _ _ _ _ (fun s' h' => ?_) ?_ | with_reducible refine low_foldl _ (fun s' a h' => ?_) _ _ ?_ | with_reducible apply low_lookBelay | split | (simp [*]; done) | (simp [*])))))

theorem fallen_cmdBelayArm (h : Hdr) (p : Bytes) (s : State) (hlow : fallen s.bly.phase) : low (cmdBelayArm h p s).bly.phase := by
  unfold cmdBelayArm
  refine low_serve_same _ _ _ _ _ (fun a ha => ?_) (fallen_low hlow)
  have h1 : (a.bly.phase == .armed) = false := by rw [ha]; rcases hlow with h | h | h <;> rw [h] <;> rfl
  have h2 : (a.bly.phase != .disarmed) = true := by rw [ha]; rcases hlow with h | h | h <;> rw [h] <;> rfl
  simp only [h1, Bool.false_eq_true, if_false, h2, Bool.true_or, refuseIf, phase_finish]
  rw [ha]; exact fallen_low hlow

theorem low_cmdBelayDisarm (h : Hdr) (p : Bytes) (s : State) (hlow : low s.bly.phase) : low (cmdBelayDisarm h p s).bly.phase := by
  simp only [cmdBelayDisarm]; (iterate 14 (all_goals (try (first | with_reducible assumption | with_reducible refine low_serve _ _ _ _ _ (fun s' h' => ?_) ?_ | with_reducible refine low_refuseIf _ _ _ (fun s' h' => ?_) _ ?_ | with_reducible refine low_receive _ _ _ _ (fun s' h' => ?_) ?_ | with_reducible refine low_foldl _ (fun s' a h' => ?_) _ _ ?_ | with_reducible apply low_lookBelay | split | (simp [*]; done) | (simp [*])))))

theorem low_cmdBelayTrip (h : Hdr) (p : Bytes) (s : State) (hlow : low s.bly.phase) : low (cmdBelayTrip h p s).bly.phase := by
  simp only [cmdBelayTrip]; (iterate 14 (all_goals (try (first | with_reducible assumption | with_reducible refine low_serve _ _ _ _ _ (fun s' h' => ?_) ?_ | with_reducible refine low_refuseIf _ _ _ (fun s' h' => ?_) _ ?_ | with_reducible refine low_receive _ _ _ _ (fun s' h' => ?_) ?_ | with_reducible refine low_foldl _ (fun s' a h' => ?_) _ _ ?_ | with_reducible apply low_tripRequest | with_reducible apply low_lookBelay | split | (simp [*]; done) | (simp [*])))))

theorem low_cmdBelayAbortHold (h : Hdr) (p : Bytes) (s : State) (hlow : low s.bly.phase) : low (cmdBelayAbortHold h p s).bly.phase := by
  unfold cmdBelayAbortHold
  refine low_serve _ _ _ _ _ (fun a ha => ?_) hlow
  have : (a.bly.phase != .hold) = true := by simpa using ha.2
  simp [this, ha]

theorem low_cmdBelayRearm (h : Hdr) (p : Bytes) (s : State) (hlow : low s.bly.phase) : low (cmdBelayRearm h p s).bly.phase := by
  simp only [cmdBelayRearm]; (iterate 14 (all_goals (try (first | with_reducible assumption | with_reducible refine low_serve _ _ _ _ _ (fun s' h' => ?_) ?_ | with_reducible refine low_refuseIf _ _ _ (fun s' h' => ?_) _ ?_ | with_reducible refine low_receive _ _ _ _ (fun s' h' => ?_) ?_ | with_reducible refine low_foldl _ (fun s' a h' => ?_) _ _ ?_ | split | (simp [*]; done) | (simp [*])))))

theorem low_cmdBelayDeclareStop (h : Hdr) (p : Bytes) (s : State) (hlow : low s.bly.phase) : low (cmdBelayDeclareStop h p s).bly.phase := by
  simp only [cmdBelayDeclareStop]; (iterate 14 (all_goals (try (first | with_reducible assumption | with_reducible refine low_serve _ _ _ _ _ (fun s' h' => ?_) ?_ | with_reducible refine low_refuseIf _ _ _ (fun s' h' => ?_) _ ?_ | with_reducible refine low_receive _ _ _ _ (fun s' h' => ?_) ?_ | with_reducible refine low_foldl _ (fun s' a h' => ?_) _ _ ?_ | with_reducible apply low_enterStopped | with_reducible apply low_enterCoasting | with_reducible apply low_lookBelay | split | (simp [*]; done) | (simp [*])))))

theorem low_abortRearm (s : State) (hlow : low s.bly.phase) : low (abortRearm s).bly.phase := by
  simp only [abortRearm]; (iterate 14 (all_goals (try (first | with_reducible assumption | with_reducible refine low_serve _ _ _ _ _ (fun s' h' => ?_) ?_ | with_reducible refine low_refuseIf _ _ _ (fun s' h' => ?_) _ ?_ | with_reducible refine low_receive _ _ _ _ (fun s' h' => ?_) ?_ | with_reducible refine low_foldl _ (fun s' a h' => ?_) _ _ ?_ | with_reducible apply low_enterStopped | split | (simp [*]; done) | (simp [*])))))

theorem low_alarmSet (ok : Nat → Bool) (f : Nat → BelayBlock → BelayBlock) (h : Hdr) (p : Bytes) (s : State)
    (hf : ∀ v b, (f v b).phase = b.phase) (hlow : low s.bly.phase) : low (alarmSet ok f h p s).bly.phase := by
  unfold alarmSet
  refine low_serve _ _ _ _ _ (fun a ha => ?_) hlow
  refine low_refuseIf _ _ _ (fun a ha => ?_) _ ha
  simp only [phase_doneWith]
  exact low_lookBelay _ (by simpa [hf] using ha)

theorem low_cmdAlarmSetMask (h : Hdr) (p : Bytes) (s : State) (hlow : low s.bly.phase) : low (cmdAlarmSetMask h p s).bly.phase :=
  low_alarmSet _ _ h p s (fun _ _ => rfl) hlow

theorem low_cmdAlarmSetHost (h : Hdr) (p : Bytes) (s : State) (hlow : low s.bly.phase) : low (cmdAlarmSetHost h p s).bly.phase :=
  low_alarmSet _ _ h p s (fun _ _ => rfl) hlow

theorem low_cmdAlarmClearHost (h : Hdr) (p : Bytes) (s : State) (hlow : low s.bly.phase) : low (cmdAlarmClearHost h p s).bly.phase :=
  low_alarmSet _ _ h p s (fun _ _ => rfl) hlow

theorem low_cmdAlarmAcknowledge (h : Hdr) (p : Bytes) (s : State) (hlow : low s.bly.phase) : low (cmdAlarmAcknowledge h p s).bly.phase :=
  low_alarmSet _ _ h p s (fun _ _ => rfl) hlow

theorem low_execHoutMap (h : Hdr) (p : Bytes) (s : State) (hlow : low s.bly.phase) : ∀ t, (execHoutMap h p s) = .next t → low t.bly.phase := by
  exact fun _ e => Host.Outcome.next.inj e ▸ low_cmdHoutMap h p s hlow

theorem low_execBelayConfig (h : Hdr) (p : Bytes) (s : State) (hlow : low s.bly.phase) : ∀ t, (execBelayConfig h p s) = .next t → low t.bly.phase := by
  exact fun _ e => Host.Outcome.next.inj e ▸ low_cmdBelayConfig h p s hlow

theorem fallen_execBelayArm (h : Hdr) (p : Bytes) (s : State) (hlow : fallen s.bly.phase) : ∀ t, (execBelayArm h p s) = .next t → low t.bly.phase := by
  exact fun _ e => Host.Outcome.next.inj e ▸ fallen_cmdBelayArm h p s hlow

theorem low_execBelayDisarm (h : Hdr) (p : Bytes) (s : State) (hlow : low s.bly.phase) : ∀ t, (execBelayDisarm h p s) = .next t → low t.bly.phase := by
  exact fun _ e => Host.Outcome.next.inj e ▸ low_cmdBelayDisarm h p s hlow

theorem low_execBelayTrip (h : Hdr) (p : Bytes) (s : State) (hlow : low s.bly.phase) : ∀ t, (execBelayTrip h p s) = .next t → low t.bly.phase := by
  exact fun _ e => Host.Outcome.next.inj e ▸ low_cmdBelayTrip h p s hlow

theorem low_execBelayAbortHold (h : Hdr) (p : Bytes) (s : State) (hlow : low s.bly.phase) : ∀ t, (execBelayAbortHold h p s) = .next t → low t.bly.phase := by
  exact fun _ e => Host.Outcome.next.inj e ▸ low_cmdBelayAbortHold h p s hlow

theorem low_execBelayRearm (h : Hdr) (p : Bytes) (s : State) (hlow : low s.bly.phase) : ∀ t, (execBelayRearm h p s) = .next t → low t.bly.phase := by
  exact fun _ e => Host.Outcome.next.inj e ▸ low_cmdBelayRearm h p s hlow

theorem low_execBelayDeclareStop (h : Hdr) (p : Bytes) (s : State) (hlow : low s.bly.phase) : ∀ t, (execBelayDeclareStop h p s) = .next t → low t.bly.phase := by
  exact fun _ e => Host.Outcome.next.inj e ▸ low_cmdBelayDeclareStop h p s hlow

theorem low_execAlarmSetMask (h : Hdr) (p : Bytes) (s : State) (hlow : low s.bly.phase) : ∀ t, (execAlarmSetMask h p s) = .next t → low t.bly.phase := by
  exact fun _ e => Host.Outcome.next.inj e ▸ low_cmdAlarmSetMask h p s hlow

theorem low_execAlarmSetHost (h : Hdr) (p : Bytes) (s : State) (hlow : low s.bly.phase) : ∀ t, (execAlarmSetHost h p s) = .next t → low t.bly.phase := by
  exact fun _ e => Host.Outcome.next.inj e ▸ low_cmdAlarmSetHost h p s hlow

theorem low_execAlarmClearHost (h : Hdr) (p : Bytes) (s : State) (hlow : low s.bly.phase) : ∀ t, (execAlarmClearHost h p s) = .next t → low t.bly.phase := by
  exact fun _ e => Host.Outcome.next.inj e ▸ low_cmdAlarmClearHost h p s hlow

theorem low_execAlarmAcknowledge (h : Hdr) (p : Bytes) (s : State) (hlow : low s.bly.phase) : ∀ t, (execAlarmAcknowledge h p s) = .next t → low t.bly.phase := by
  exact fun _ e => Host.Outcome.next.inj e ▸ low_cmdAlarmAcknowledge h p s hlow

theorem low_setPhase (m : Nat) (p : ModelPhase) (s : State) (hlow : low s.bly.phase) : low (setPhase m p s).bly.phase := by
  simp only [setPhase]; (iterate 14 (all_goals (try (first | with_reducible assumption | with_reducible refine low_serve _ _ _ _ _ (fun s' h' => ?_) ?_ | with_reducible refine low_refuseIf _ _ _ (fun s' h' => ?_) _ ?_ | with_reducible refine low_receive _ _ _ _ (fun s' h' => ?_) ?_ | with_reducible refine low_foldl _ (fun s' a h' => ?_) _ _ ?_ | with_reducible apply low_lookBelay | split | (simp [*]; done) | (simp [*])))))

theorem low_emptySlot (m : Nat) (s : State) (hlow : low s.bly.phase) : low (emptySlot m s).bly.phase := by
  simp only [emptySlot]; (iterate 14 (all_goals (try (first | with_reducible assumption | with_reducible refine low_serve _ _ _ _ _ (fun s' h' => ?_) ?_ | with_reducible refine low_refuseIf _ _ _ (fun s' h' => ?_) _ ?_ | with_reducible refine low_receive _ _ _ _ (fun s' h' => ?_) ?_ | with_reducible refine low_foldl _ (fun s' a h' => ?_) _ _ ?_ | with_reducible apply low_setPhase | split | (simp [*]; done) | (simp [*])))))

theorem low_releasePitch (m : Nat) (s : State) (hlow : low s.bly.phase) : low (releasePitch m s).bly.phase := by
  simp only [releasePitch]; (iterate 14 (all_goals (try (first | with_reducible assumption | with_reducible refine low_serve _ _ _ _ _ (fun s' h' => ?_) ?_ | with_reducible refine low_refuseIf _ _ _ (fun s' h' => ?_) _ ?_ | with_reducible refine low_receive _ _ _ _ (fun s' h' => ?_) ?_ | with_reducible refine low_foldl _ (fun s' a h' => ?_) _ _ ?_ | with_reducible apply low_emptySlot | split | (simp [*]; done) | (simp [*])))))

theorem low_carryUnload (m : Nat) (s : State) (hlow : low s.bly.phase) : low (carryUnload m s).bly.phase := by
  simp only [carryUnload]; (iterate 14 (all_goals (try (first | with_reducible assumption | with_reducible refine low_serve _ _ _ _ _ (fun s' h' => ?_) ?_ | with_reducible refine low_refuseIf _ _ _ (fun s' h' => ?_) _ ?_ | with_reducible refine low_receive _ _ _ _ (fun s' h' => ?_) ?_ | with_reducible refine low_foldl _ (fun s' a h' => ?_) _ _ ?_ | with_reducible apply low_emptySlot | split | (simp [*]; done) | (simp [*])))))

theorem low_startUnload (m : Nat) (tag : Option Tag) (s : State) (hlow : low s.bly.phase) : low (startUnload m tag s).bly.phase := by
  simp only [startUnload]; (iterate 14 (all_goals (try (first | with_reducible assumption | with_reducible refine low_serve _ _ _ _ _ (fun s' h' => ?_) ?_ | with_reducible refine low_refuseIf _ _ _ (fun s' h' => ?_) _ ?_ | with_reducible refine low_receive _ _ _ _ (fun s' h' => ?_) ?_ | with_reducible refine low_foldl _ (fun s' a h' => ?_) _ _ ?_ | with_reducible apply low_carryUnload | with_reducible apply low_setPhase | split | (simp [*]; done) | (simp [*])))))

theorem low_carryStop (m : Nat) (s : State) (hlow : low s.bly.phase) : low (carryStop m s).bly.phase := by
  simp only [carryStop]; (iterate 14 (all_goals (try (first | with_reducible assumption | with_reducible refine low_serve _ _ _ _ _ (fun s' h' => ?_) ?_ | with_reducible refine low_refuseIf _ _ _ (fun s' h' => ?_) _ ?_ | with_reducible refine low_receive _ _ _ _ (fun s' h' => ?_) ?_ | with_reducible refine low_foldl _ (fun s' a h' => ?_) _ _ ?_ | with_reducible apply low_setPhase | split | (simp [*]; done) | (simp [*])))))

theorem low_carrySwitch (m : Nat) (s : State) (hlow : low s.bly.phase) : low (carrySwitch m s).bly.phase := by
  simp only [carrySwitch]; (iterate 14 (all_goals (try (first | with_reducible assumption | with_reducible refine low_serve _ _ _ _ _ (fun s' h' => ?_) ?_ | with_reducible refine low_refuseIf _ _ _ (fun s' h' => ?_) _ ?_ | with_reducible refine low_receive _ _ _ _ (fun s' h' => ?_) ?_ | with_reducible refine low_foldl _ (fun s' a h' => ?_) _ _ ?_ | with_reducible apply low_setPhase | with_reducible apply low_startUnload | split | (simp [*]; done) | (simp [*])))))

theorem low_carryOn (s : State) (hlow : low s.bly.phase) : low (carryOn s).bly.phase := by
  simp only [carryOn]; (iterate 14 (all_goals (try (first | with_reducible assumption | with_reducible refine low_serve _ _ _ _ _ (fun s' h' => ?_) ?_ | with_reducible refine low_refuseIf _ _ _ (fun s' h' => ?_) _ ?_ | with_reducible refine low_receive _ _ _ _ (fun s' h' => ?_) ?_ | with_reducible refine low_foldl _ (fun s' a h' => ?_) _ _ ?_ | with_reducible apply low_carryUnload | with_reducible apply low_carrySwitch | with_reducible apply low_carryStop | split | (simp [*]; done) | (simp [*])))))

theorem low_runDone (r : WriteRun) (s : State) (hlow : low s.bly.phase) : low (runDone r s).bly.phase := by
  simp only [runDone]; (iterate 14 (all_goals (try (first | with_reducible assumption | with_reducible refine low_serve _ _ _ _ _ (fun s' h' => ?_) ?_ | with_reducible refine low_refuseIf _ _ _ (fun s' h' => ?_) _ ?_ | with_reducible refine low_receive _ _ _ _ (fun s' h' => ?_) ?_ | with_reducible refine low_foldl _ (fun s' a h' => ?_) _ _ ?_ | with_reducible apply low_setPhase | with_reducible apply low_carryOn | split | (simp [*]; done) | (simp [*])))))

theorem low_startRun (run : WriteRun) (tag : Option Tag) (s : State) (hlow : low s.bly.phase) : low (startRun run tag s).bly.phase := by
  simp only [startRun]; (iterate 14 (all_goals (try (first | with_reducible assumption | with_reducible refine low_serve _ _ _ _ _ (fun s' h' => ?_) ?_ | with_reducible refine low_refuseIf _ _ _ (fun s' h' => ?_) _ ?_ | with_reducible refine low_receive _ _ _ _ (fun s' h' => ?_) ?_ | with_reducible refine low_foldl _ (fun s' a h' => ?_) _ _ ?_ | with_reducible apply low_runDone | split | (simp [*]; done) | (simp [*])))))

theorem low_haltModel (m : Nat) (code : Byte) (s : State) (hlow : low s.bly.phase) : low (haltModel m code s).bly.phase := by
  simp only [haltModel]; (iterate 14 (all_goals (try (first | with_reducible assumption | with_reducible refine low_serve _ _ _ _ _ (fun s' h' => ?_) ?_ | with_reducible refine low_refuseIf _ _ _ (fun s' h' => ?_) _ ?_ | with_reducible refine low_receive _ _ _ _ (fun s' h' => ?_) ?_ | with_reducible refine low_foldl _ (fun s' a h' => ?_) _ _ ?_ | with_reducible apply low_setPhase | split | (simp [*]; done) | (simp [*])))))

theorem low_replaceFails (m : Nat) (code : Byte) (s : State) (hlow : low s.bly.phase) : low (replaceFails m code s).bly.phase := by
  simp only [replaceFails]; (iterate 14 (all_goals (try (first | with_reducible assumption | with_reducible refine low_serve _ _ _ _ _ (fun s' h' => ?_) ?_ | with_reducible refine low_refuseIf _ _ _ (fun s' h' => ?_) _ ?_ | with_reducible refine low_receive _ _ _ _ (fun s' h' => ?_) ?_ | with_reducible refine low_foldl _ (fun s' a h' => ?_) _ _ ?_ | with_reducible apply low_setPhase | with_reducible apply low_haltModel | split | (simp [*]; done) | (simp [*])))))

theorem low_replaceModel (m : Nat) (cause code : Byte) (fence : Option Nat) (s : State) (hlow : low s.bly.phase) :
    low (replaceModel m cause code fence s).bly.phase := by
  unfold replaceModel
  dsimp only
  split
  · exact low_replaceFails _ _ _ hlow
  · split
    · exact low_replaceFails _ _ _ (by simpa using hlow)
    · rename_i hg; have hg := phase_askGrant hg
      exact low_startRun _ _ _ (by simpa [hg] using hlow)

theorem low_withdrawSet (m : Nat) (s : State) (hlow : low s.bly.phase) : low (withdrawSet m s).bly.phase := by
  simp only [withdrawSet]; (iterate 14 (all_goals (try (first | with_reducible assumption | with_reducible refine low_serve _ _ _ _ _ (fun s' h' => ?_) ?_ | with_reducible refine low_refuseIf _ _ _ (fun s' h' => ?_) _ ?_ | with_reducible refine low_receive _ _ _ _ (fun s' h' => ?_) ?_ | with_reducible refine low_foldl _ (fun s' a h' => ?_) _ _ ?_ | with_reducible apply low_haltModel | split | (simp [*]; done) | (simp [*])))))

theorem low_fenceCore (n : Nat) (cause : Byte) (tag : Option Tag) (s : State) (hlow : low s.bly.phase) : low (fenceCore n cause tag s).bly.phase := by
  simp only [fenceCore]; (iterate 14 (all_goals (try (first | with_reducible assumption | with_reducible refine low_serve _ _ _ _ _ (fun s' h' => ?_) ?_ | with_reducible refine low_refuseIf _ _ _ (fun s' h' => ?_) _ ?_ | with_reducible refine low_receive _ _ _ _ (fun s' h' => ?_) ?_ | with_reducible refine low_foldl _ (fun s' a h' => ?_) _ _ ?_ | with_reducible apply low_replaceModel | split | (simp [*]; done) | (simp [*])))))

theorem low_tryRotate {j : Job} {lp : LayerPlace} {s t : State} (h : tryRotate j lp s = some t) (hs : low s.bly.phase) : low t.bly.phase := by
  simp only [tryRotate] at h
  (repeat' split at h)
  · simp at h
  · rename_i hg; have hg := phase_askGrant hg; simp only [Option.some.injEq] at h; subst h; simpa [hg] using hs
  · simp only [Option.some.injEq] at h; subst h; exact low_withdrawSet _ _ (by simpa using hs)

theorem low_tryJob {j : Job} {s t : State} (h : tryJob j s = some t) (hs : low s.bly.phase) : low t.bly.phase := by
  simp only [tryJob] at h
  (repeat' split at h) <;>
    first
      | (simp at h; done)
      | (have h := phase_askDomain h; simpa [h] using hs)
      | (have h := phase_tryUnit h; simpa [h] using hs)
      | (have h := phase_tryCore h; simpa [h] using hs)
      | exact low_tryRotate h hs
      | (have h := phase_tryStream h; simpa [h] using hs)
      | (have h := phase_findSome phase_tryCore h; simpa [h] using hs)
      | (rename_i hq; have hq := phase_findSome phase_tryCore hq; simp only [Option.some.injEq] at h; subst h; simpa [hq] using hs)

theorem low_execLayerDispatch (s : State) (hs : low s.bly.phase) : ∀ t, execLayerDispatch s = .next t → low t.bly.phase := by
  intro t h
  simp only [execLayerDispatch, Host.Outcome.next.injEq] at h
  subst h
  cases hq : s.mdl.jobs.findSome? fun j => tryJob j s with
  | none => exact hs
  | some u =>
    obtain ⟨j, _, hj⟩ := List.exists_of_findSome?_eq_some hq
    exact low_tryJob hj hs

theorem low_endJob (id : Nat) (s : State) (hlow : low s.bly.phase) : low (endJob id s).bly.phase := by
  simp only [endJob]; (iterate 14 (all_goals (try (first | with_reducible assumption | with_reducible refine low_serve _ _ _ _ _ (fun s' h' => ?_) ?_ | with_reducible refine low_refuseIf _ _ _ (fun s' h' => ?_) _ ?_ | with_reducible refine low_receive _ _ _ _ (fun s' h' => ?_) ?_ | with_reducible refine low_foldl _ (fun s' a h' => ?_) _ _ ?_ | with_reducible apply low_carryOn | split | (simp [*]; done) | (simp [*])))))

theorem low_vanishJob (j : Job) (s : State) (hlow : low s.bly.phase) : low (vanishJob j s).bly.phase := by
  simp only [vanishJob]; (iterate 14 (all_goals (try (first | with_reducible assumption | with_reducible refine low_serve _ _ _ _ _ (fun s' h' => ?_) ?_ | with_reducible refine low_refuseIf _ _ _ (fun s' h' => ?_) _ ?_ | with_reducible refine low_receive _ _ _ _ (fun s' h' => ?_) ?_ | with_reducible refine low_foldl _ (fun s' a h' => ?_) _ _ ?_ | with_reducible apply low_carryOn | split | (simp [*]; done) | (simp [*])))))

theorem low_advance (id : Nat) (outs : Frame → List Int) (s : State) (hlow : low s.bly.phase) : low (advance id outs s).bly.phase := by
  simp only [advance]; (iterate 14 (all_goals (try (first | with_reducible assumption | with_reducible refine low_serve _ _ _ _ _ (fun s' h' => ?_) ?_ | with_reducible refine low_refuseIf _ _ _ (fun s' h' => ?_) _ ?_ | with_reducible refine low_receive _ _ _ _ (fun s' h' => ?_) ?_ | with_reducible refine low_foldl _ (fun s' a h' => ?_) _ _ ?_ | with_reducible apply low_vanishJob | with_reducible apply low_endJob | split | (simp [*]; done) | (simp [*])))))

theorem low_execCimPassDone (core : BitVec 3) (parityOk : Bool) (s : State) (hlow : low s.bly.phase) : ∀ t, (execCimPassDone core parityOk s) = .next t → low t.bly.phase := by
  intro t ht; simp only [execCimPassDone] at ht; (repeat' split at ht) <;> (simp only [Host.Outcome.next.injEq, reduceCtorEq] at ht) <;> (try subst ht) <;> (iterate 14 (all_goals (try (first | with_reducible assumption | with_reducible refine low_serve _ _ _ _ _ (fun s' h' => ?_) ?_ | with_reducible refine low_refuseIf _ _ _ (fun s' h' => ?_) _ ?_ | with_reducible refine low_receive _ _ _ _ (fun s' h' => ?_) ?_ | with_reducible refine low_foldl _ (fun s' a h' => ?_) _ _ ?_ | with_reducible apply low_carryOn | with_reducible apply low_advance | with_reducible apply low_fenceCore | split | (simp [*]; done) | (simp [*])))))

theorem low_execStreamLayerDone (s : State) (hlow : low s.bly.phase) : ∀ t, (execStreamLayerDone s) = .next t → low t.bly.phase := by
  intro t ht; simp only [execStreamLayerDone] at ht; (repeat' split at ht) <;> (simp only [Host.Outcome.next.injEq, reduceCtorEq] at ht) <;> (try subst ht) <;> (iterate 14 (all_goals (try (first | with_reducible assumption | with_reducible refine low_serve _ _ _ _ _ (fun s' h' => ?_) ?_ | with_reducible refine low_refuseIf _ _ _ (fun s' h' => ?_) _ ?_ | with_reducible refine low_receive _ _ _ _ (fun s' h' => ?_) ?_ | with_reducible refine low_foldl _ (fun s' a h' => ?_) _ _ ?_ | with_reducible apply low_advance | split | (simp [*]; done) | (simp [*])))))

theorem low_execVectorLayerDone (s : State) (hlow : low s.bly.phase) : ∀ t, (execVectorLayerDone s) = .next t → low t.bly.phase := by
  intro t ht; simp only [execVectorLayerDone] at ht; (repeat' split at ht) <;> (simp only [Host.Outcome.next.injEq, reduceCtorEq] at ht) <;> (try subst ht) <;> (iterate 14 (all_goals (try (first | with_reducible assumption | with_reducible refine low_serve _ _ _ _ _ (fun s' h' => ?_) ?_ | with_reducible refine low_refuseIf _ _ _ (fun s' h' => ?_) _ ?_ | with_reducible refine low_receive _ _ _ _ (fun s' h' => ?_) ?_ | with_reducible refine low_foldl _ (fun s' a h' => ?_) _ _ ?_ | with_reducible apply low_advance | split | (simp [*]; done) | (simp [*])))))

theorem low_execProtoForwardDone (s : State) (hlow : low s.bly.phase) : ∀ t, (execProtoForwardDone s) = .next t → low t.bly.phase := by
  intro t ht; simp only [execProtoForwardDone] at ht; (repeat' split at ht) <;> (simp only [Host.Outcome.next.injEq, reduceCtorEq] at ht) <;> (try subst ht) <;> (iterate 14 (all_goals (try (first | with_reducible assumption | with_reducible refine low_serve _ _ _ _ _ (fun s' h' => ?_) ?_ | with_reducible refine low_refuseIf _ _ _ (fun s' h' => ?_) _ ?_ | with_reducible refine low_receive _ _ _ _ (fun s' h' => ?_) ?_ | with_reducible refine low_foldl _ (fun s' a h' => ?_) _ _ ?_ | with_reducible apply low_advance | split | (simp [*]; done) | (simp [*])))))

theorem low_cmdModelLoadBegin (h : Hdr) (p : Bytes) (s : State) (hlow : low s.bly.phase) : low (cmdModelLoadBegin h p s).bly.phase := by
  simp only [cmdModelLoadBegin]; (iterate 14 (all_goals (try (first | with_reducible assumption | with_reducible refine low_serve _ _ _ _ _ (fun s' h' => ?_) ?_ | with_reducible refine low_refuseIf _ _ _ (fun s' h' => ?_) _ ?_ | with_reducible refine low_receive _ _ _ _ (fun s' h' => ?_) ?_ | with_reducible refine low_foldl _ (fun s' a h' => ?_) _ _ ?_ | with_reducible apply low_setPhase | split | (simp [*]; done) | (simp [*])))))

theorem low_cmdModelLoadAbandon (h : Hdr) (p : Bytes) (s : State) (hlow : low s.bly.phase) : low (cmdModelLoadAbandon h p s).bly.phase := by
  simp only [cmdModelLoadAbandon]; (iterate 14 (all_goals (try (first | with_reducible assumption | with_reducible refine low_serve _ _ _ _ _ (fun s' h' => ?_) ?_ | with_reducible refine low_refuseIf _ _ _ (fun s' h' => ?_) _ ?_ | with_reducible refine low_receive _ _ _ _ (fun s' h' => ?_) ?_ | with_reducible refine low_foldl _ (fun s' a h' => ?_) _ _ ?_ | with_reducible apply low_emptySlot | split | (simp [*]; done) | (simp [*])))))

theorem low_execModelVerifyDone (slot : BitVec 3) (s : State) (hlow : low s.bly.phase) : ∀ t, (execModelVerifyDone slot s) = .next t → low t.bly.phase := by
  intro t ht; simp only [execModelVerifyDone] at ht; (repeat' split at ht) <;> (simp only [Host.Outcome.next.injEq, reduceCtorEq] at ht) <;> (try subst ht) <;> (iterate 14 (all_goals (try (first | with_reducible assumption | with_reducible refine low_serve _ _ _ _ _ (fun s' h' => ?_) ?_ | with_reducible refine low_refuseIf _ _ _ (fun s' h' => ?_) _ ?_ | with_reducible refine low_receive _ _ _ _ (fun s' h' => ?_) ?_ | with_reducible refine low_foldl _ (fun s' a h' => ?_) _ _ ?_ | with_reducible apply low_setPhase | with_reducible apply low_emptySlot | split | (simp [*]; done) | (simp [*])))))

theorem low_unplace (m : Nat) (s : State) (hlow : low s.bly.phase) : low (unplace m s).bly.phase := by
  simp only [unplace]; (iterate 14 (all_goals (try (first | with_reducible assumption | with_reducible refine low_serve _ _ _ _ _ (fun s' h' => ?_) ?_ | with_reducible refine low_refuseIf _ _ _ (fun s' h' => ?_) _ ?_ | with_reducible refine low_receive _ _ _ _ (fun s' h' => ?_) ?_ | with_reducible refine low_foldl _ (fun s' a h' => ?_) _ _ ?_ | with_reducible apply low_setPhase | split | (simp [*]; done) | (simp [*])))))

theorem low_placeModel (h : Hdr) (m : Nat) (p : Placement) (mine : Nat → Bool) (prep : State → State) (s : State)
    (hp : ∀ a, (prep a).bly.phase = a.bly.phase) (hs : low s.bly.phase) : low (placeModel h m p mine prep s).bly.phase := by
  unfold placeModel
  split
  · simpa using hs
  · rename_i s1 w hq
    have hq : s1.bly.phase = s.bly.phase := phase_commitPlacement hq
    exact low_startRun _ _ _ (by simpa [hp, hq] using hs)

theorem low_cmdModelPlace (h : Hdr) (p : Bytes) (s : State) (hlow : low s.bly.phase) : low (cmdModelPlace h p s).bly.phase := by
  unfold cmdModelPlace
  refine low_serve _ _ _ _ _ (fun a ha => ?_) hlow
  refine low_refuseIf _ _ _ (fun a ha => ?_) _ ha
  dsimp only
  split
  · rw [phase_finish]; split
    · exact ha
    · exact low_unplace _ _ ha
  · exact low_placeModel _ _ _ _ _ _ (fun _ => rfl) ha

theorem low_cmdModelPlaceRidge (h : Hdr) (p : Bytes) (o : Option Refuser) (s : State) (hlow : low s.bly.phase) :
    low (cmdModelPlaceRidge h p o s).bly.phase := by
  unfold cmdModelPlaceRidge
  refine low_serve _ _ _ _ _ (fun a ha => ?_) hlow
  refine low_refuseIf _ _ _ (fun a ha => ?_) _ ha
  dsimp only
  split
  · split
    · rw [phase_finish]; split
      · exact ha
      · exact low_unplace _ _ ha
    · simpa using ha
  · rw [phase_finish]; split
    · exact ha
    · exact low_unplace _ _ ha
  · exact low_placeModel _ _ _ _ _ _ (fun _ => by simp) ha

theorem low_placePitch (o : Config.PitchOrder) (s : State) (hlow : low s.bly.phase) : low (placePitch o s).bly.phase := by
  simp only [placePitch]
  split
  · exact hlow
  · split
    · exact hlow
    · split
      · exact hlow
      · rename_i t' w hq
        have hq : t'.bly.phase = _ := phase_commitPlacement hq
        exact low_startRun _ _ _ (low_setPhase _ _ _ (by simpa [hq] using hlow))

theorem low_cmdModelUnload (h : Hdr) (p : Bytes) (s : State) (hlow : low s.bly.phase) : low (cmdModelUnload h p s).bly.phase := by
  simp only [cmdModelUnload]; (iterate 14 (all_goals (try (first | with_reducible assumption | with_reducible refine low_serve _ _ _ _ _ (fun s' h' => ?_) ?_ | with_reducible refine low_refuseIf _ _ _ (fun s' h' => ?_) _ ?_ | with_reducible refine low_receive _ _ _ _ (fun s' h' => ?_) ?_ | with_reducible refine low_foldl _ (fun s' a h' => ?_) _ _ ?_ | with_reducible apply low_startUnload | split | (simp [*]; done) | (simp [*])))))

theorem low_cmdModelStart (h : Hdr) (p : Bytes) (s : State) (hlow : low s.bly.phase) : low (cmdModelStart h p s).bly.phase := by
  simp only [cmdModelStart]; (iterate 14 (all_goals (try (first | with_reducible assumption | with_reducible refine low_serve _ _ _ _ _ (fun s' h' => ?_) ?_ | with_reducible refine low_refuseIf _ _ _ (fun s' h' => ?_) _ ?_ | with_reducible refine low_receive _ _ _ _ (fun s' h' => ?_) ?_ | with_reducible refine low_foldl _ (fun s' a h' => ?_) _ _ ?_ | with_reducible apply low_setPhase | split | (simp [*]; done) | (simp [*])))))

theorem low_cmdModelStop (h : Hdr) (p : Bytes) (s : State) (hlow : low s.bly.phase) : low (cmdModelStop h p s).bly.phase := by
  simp only [cmdModelStop]; (iterate 14 (all_goals (try (first | with_reducible assumption | with_reducible refine low_serve _ _ _ _ _ (fun s' h' => ?_) ?_ | with_reducible refine low_refuseIf _ _ _ (fun s' h' => ?_) _ ?_ | with_reducible refine low_receive _ _ _ _ (fun s' h' => ?_) ?_ | with_reducible refine low_foldl _ (fun s' a h' => ?_) _ _ ?_ | with_reducible apply low_carryOn | split | (simp [*]; done) | (simp [*])))))

theorem low_cmdModelReplace (h : Hdr) (p : Bytes) (s : State) (hlow : low s.bly.phase) : low (cmdModelReplace h p s).bly.phase := by
  unfold cmdModelReplace
  refine low_serve _ _ _ _ _ (fun a ha => ?_) hlow
  refine low_refuseIf _ _ _ (fun a ha => ?_) _ ha
  dsimp only
  split
  · simpa using ha
  · split
    · simpa using ha
    · rename_i s1 w hq
      have hq : s1.bly.phase = _ := phase_commitPlacement hq
      refine low_carryOn _ (low_startRun _ _ _ ?_)
      split <;> simpa [hq] using ha

theorem low_execModelLoadBegin (h : Hdr) (p : Bytes) (s : State) (hlow : low s.bly.phase) : ∀ t, (execModelLoadBegin h p s) = .next t → low t.bly.phase := by
  exact fun _ e => Host.Outcome.next.inj e ▸ low_cmdModelLoadBegin h p s hlow

theorem low_execModelLoadAbandon (h : Hdr) (p : Bytes) (s : State) (hlow : low s.bly.phase) : ∀ t, (execModelLoadAbandon h p s) = .next t → low t.bly.phase := by
  exact fun _ e => Host.Outcome.next.inj e ▸ low_cmdModelLoadAbandon h p s hlow

theorem low_execModelPlace (h : Hdr) (p : Bytes) (s : State) (hlow : low s.bly.phase) : ∀ t, (execModelPlace h p s) = .next t → low t.bly.phase := by
  exact fun _ e => Host.Outcome.next.inj e ▸ low_cmdModelPlace h p s hlow

theorem low_execModelPlaceRidge (h : Hdr) (p : Bytes) (others : Option Refuser) (s : State) (hlow : low s.bly.phase) : ∀ t, (execModelPlaceRidge h p others s) = .next t → low t.bly.phase := by
  exact fun _ e => Host.Outcome.next.inj e ▸ low_cmdModelPlaceRidge h p others s hlow

theorem low_execModelUnload (h : Hdr) (p : Bytes) (s : State) (hlow : low s.bly.phase) : ∀ t, (execModelUnload h p s) = .next t → low t.bly.phase := by
  exact fun _ e => Host.Outcome.next.inj e ▸ low_cmdModelUnload h p s hlow

theorem low_execModelStart (h : Hdr) (p : Bytes) (s : State) (hlow : low s.bly.phase) : ∀ t, (execModelStart h p s) = .next t → low t.bly.phase := by
  exact fun _ e => Host.Outcome.next.inj e ▸ low_cmdModelStart h p s hlow

theorem low_execModelStop (h : Hdr) (p : Bytes) (s : State) (hlow : low s.bly.phase) : ∀ t, (execModelStop h p s) = .next t → low t.bly.phase := by
  exact fun _ e => Host.Outcome.next.inj e ▸ low_cmdModelStop h p s hlow

theorem low_execModelReplace (h : Hdr) (p : Bytes) (s : State) (hlow : low s.bly.phase) : ∀ t, (execModelReplace h p s) = .next t → low t.bly.phase := by
  exact fun _ e => Host.Outcome.next.inj e ▸ low_cmdModelReplace h p s hlow

theorem low_requestCopy {n : Nat} {tag : Option Tag} {s : State} (hs : low s.bly.phase) {t : State}
    (h : requestCopy n tag s = .begun t ∨ requestCopy n tag s = .noArrays t ∨ requestCopy n tag s = .wear t) : low t.bly.phase := by
  simp only [requestCopy] at h
  (repeat' split at h) <;> simp only [reduceCtorEq, Request.begun.injEq, Request.noArrays.injEq, Request.wear.injEq, false_or, or_false] at h <;> subst h
  · simpa using hs
  · simpa using hs
  · rename_i hg; have hg := phase_askGrant hg
    exact low_startRun _ _ _ (by simpa [hg] using hs)

theorem low_testCopy (n : Nat) (s : State) (hs : low s.bly.phase) : low (testCopy n s).bly.phase := by
  unfold testCopy
  dsimp only
  split
  · exact hs
  · split <;> (rename_i hq; first | exact low_requestCopy hs (.inl hq) | exact low_requestCopy hs (.inr (.inl hq)) | exact low_requestCopy hs (.inr (.inr hq)))

theorem low_epochEnd (n : Nat) (s : State) (hlow : low s.bly.phase) : low (epochEnd n s).bly.phase := by
  simp only [epochEnd]; (iterate 14 (all_goals (try (first | with_reducible assumption | with_reducible refine low_serve _ _ _ _ _ (fun s' h' => ?_) ?_ | with_reducible refine low_refuseIf _ _ _ (fun s' h' => ?_) _ ?_ | with_reducible refine low_receive _ _ _ _ (fun s' h' => ?_) ?_ | with_reducible refine low_foldl _ (fun s' a h' => ?_) _ _ ?_ | with_reducible apply low_testCopy | split | (simp [*]; done) | (simp [*])))))

theorem low_execLearningStep (head : BitVec 2) (s : State) (hlow : low s.bly.phase) : ∀ t, (execLearningStep head s) = .next t → low t.bly.phase := by
  intro t ht; simp only [execLearningStep] at ht; (repeat' split at ht) <;> (simp only [Host.Outcome.next.injEq, reduceCtorEq] at ht) <;> (try subst ht) <;> (iterate 14 (all_goals (try (first | with_reducible assumption | with_reducible refine low_serve _ _ _ _ _ (fun s' h' => ?_) ?_ | with_reducible refine low_refuseIf _ _ _ (fun s' h' => ?_) _ ?_ | with_reducible refine low_receive _ _ _ _ (fun s' h' => ?_) ?_ | with_reducible refine low_foldl _ (fun s' a h' => ?_) _ _ ?_ | with_reducible apply low_epochEnd | split | (simp [*]; done) | (simp [*])))))

theorem low_cmdHeadConsolidate (h : Hdr) (p : Bytes) (s : State) (hlow : low s.bly.phase) : low (cmdHeadConsolidate h p s).bly.phase := by
  unfold cmdHeadConsolidate
  refine low_serve _ _ _ _ _ (fun a ha => ?_) hlow
  refine low_refuseIf _ _ _ (fun a hs => ?_) _ ha
  have hs' : low (started h.tag a).bly.phase := by simpa using hs
  split
  · simpa using hs
  · split <;> rename_i hq
    · exact low_requestCopy hs' (.inl hq)
    · simpa using low_requestCopy hs' (.inr (.inl hq))
    · simpa using low_requestCopy hs' (.inr (.inr hq))

theorem low_execHeadConsolidate (h : Hdr) (p : Bytes) (s : State) (hlow : low s.bly.phase) : ∀ t, (execHeadConsolidate h p s) = .next t → low t.bly.phase := by
  exact fun _ e => Host.Outcome.next.inj e ▸ low_cmdHeadConsolidate h p s hlow

theorem low_fenceNow (n : Nat) (cause : Byte) (s : State) (hlow : low s.bly.phase) : low (fenceNow n cause s).bly.phase := by
  simp only [fenceNow]; (iterate 14 (all_goals (try (first | with_reducible assumption | with_reducible refine low_serve _ _ _ _ _ (fun s' h' => ?_) ?_ | with_reducible refine low_refuseIf _ _ _ (fun s' h' => ?_) _ ?_ | with_reducible refine low_receive _ _ _ _ (fun s' h' => ?_) ?_ | with_reducible refine low_foldl _ (fun s' a h' => ?_) _ _ ?_ | with_reducible apply low_fenceCore | with_reducible apply low_carryOn | split | (simp [*]; done) | (simp [*])))))

theorem low_refreshArray (a : Nat) (s : State) (hs : low s.bly.phase) : low (refreshArray a s).bly.phase := by
  unfold refreshArray
  split
  · exact hs
  · split
    · split <;> (rename_i hq; first | exact low_requestCopy hs (.inl hq) | exact low_requestCopy hs (.inr (.inl hq)) | exact low_requestCopy hs (.inr (.inr hq)))
    · dsimp only
      split
      · exact hs
      · split
        · simpa using hs
        · rename_i hg; have hg := phase_askGrant hg; simpa [hg] using hs

theorem low_execArrayWriteDone (array : BitVec 6) (stuck : List (BitVec 8)) (residual : Nat) (outside : Bool) (bad : Nat) (s : State) (hlow : low s.bly.phase) : ∀ t, (execArrayWriteDone array stuck residual outside bad s) = .next t → low t.bly.phase := by
  intro t ht; simp only [execArrayWriteDone] at ht; (repeat' split at ht) <;> (simp only [Host.Outcome.next.injEq, reduceCtorEq] at ht) <;> (try subst ht) <;> (iterate 14 (all_goals (try (first | with_reducible assumption | with_reducible refine low_serve _ _ _ _ _ (fun s' h' => ?_) ?_ | with_reducible refine low_refuseIf _ _ _ (fun s' h' => ?_) _ ?_ | with_reducible refine low_receive _ _ _ _ (fun s' h' => ?_) ?_ | with_reducible refine low_foldl _ (fun s' a h' => ?_) _ _ ?_ | with_reducible apply low_runDone | with_reducible apply low_fenceNow | split | (simp [*]; done) | (simp [*])))))

theorem low_execRecalibration (core : BitVec 3) (residual : Nat) (outside : Bool) (bad : List (BitVec 3)) (s : State) (hlow : low s.bly.phase) : ∀ t, (execRecalibration core residual outside bad s) = .next t → low t.bly.phase := by
  intro t ht; simp only [execRecalibration] at ht; (repeat' split at ht) <;> (simp only [Host.Outcome.next.injEq, reduceCtorEq] at ht) <;> (try subst ht) <;> (iterate 14 (all_goals (try (first | with_reducible assumption | with_reducible refine low_serve _ _ _ _ _ (fun s' h' => ?_) ?_ | with_reducible refine low_refuseIf _ _ _ (fun s' h' => ?_) _ ?_ | with_reducible refine low_receive _ _ _ _ (fun s' h' => ?_) ?_ | with_reducible refine low_foldl _ (fun s' a h' => ?_) _ _ ?_ | with_reducible apply low_fenceNow | split | (simp [*]; done) | (simp [*])))))

theorem low_execQuickSelftest (core : BitVec 3) (ok : Bool) (s : State) (hlow : low s.bly.phase) : ∀ t, (execQuickSelftest core ok s) = .next t → low t.bly.phase := by
  intro t ht; simp only [execQuickSelftest] at ht; (repeat' split at ht) <;> (simp only [Host.Outcome.next.injEq, reduceCtorEq] at ht) <;> (try subst ht) <;> (iterate 14 (all_goals (try (first | with_reducible assumption | with_reducible refine low_serve _ _ _ _ _ (fun s' h' => ?_) ?_ | with_reducible refine low_refuseIf _ _ _ (fun s' h' => ?_) _ ?_ | with_reducible refine low_receive _ _ _ _ (fun s' h' => ?_) ?_ | with_reducible refine low_foldl _ (fun s' a h' => ?_) _ _ ?_ | with_reducible apply low_fenceNow | split | (simp [*]; done) | (simp [*])))))

theorem low_execFullSelftest (core : BitVec 3) (quickOk otherOk : Bool) (failing : List (BitVec 3 × Nat)) (s : State) (hlow : low s.bly.phase) : ∀ t, (execFullSelftest core quickOk otherOk failing s) = .next t → low t.bly.phase := by
  intro t ht; simp only [execFullSelftest] at ht; (repeat' split at ht) <;> (simp only [Host.Outcome.next.injEq, reduceCtorEq] at ht) <;> (try subst ht) <;> (iterate 14 (all_goals (try (first | with_reducible assumption | with_reducible refine low_serve _ _ _ _ _ (fun s' h' => ?_) ?_ | with_reducible refine low_refuseIf _ _ _ (fun s' h' => ?_) _ ?_ | with_reducible refine low_receive _ _ _ _ (fun s' h' => ?_) ?_ | with_reducible refine low_foldl _ (fun s' a h' => ?_) _ _ ?_ | with_reducible apply low_refreshArray | with_reducible apply low_fenceNow | split | (simp [*]; done) | (simp [*])))))

theorem low_execClipWindowEnd (array : BitVec 6) (s : State) (hlow : low s.bly.phase) : ∀ t, (execClipWindowEnd array s) = .next t → low t.bly.phase := by
  intro t ht; simp only [execClipWindowEnd] at ht; (repeat' split at ht) <;> (simp only [Host.Outcome.next.injEq, reduceCtorEq] at ht) <;> (try subst ht) <;> (iterate 14 (all_goals (try (first | with_reducible assumption | with_reducible refine low_serve _ _ _ _ _ (fun s' h' => ?_) ?_ | with_reducible refine low_refuseIf _ _ _ (fun s' h' => ?_) _ ?_ | with_reducible refine low_receive _ _ _ _ (fun s' h' => ?_) ?_ | with_reducible refine low_foldl _ (fun s' a h' => ?_) _ _ ?_ | with_reducible apply low_fenceNow | split | (simp [*]; done) | (simp [*])))))

theorem low_withdrawWorn (s : State) (hlow : low s.bly.phase) : low (withdrawWorn s).bly.phase := by
  simp only [withdrawWorn]; (iterate 14 (all_goals (try (first | with_reducible assumption | with_reducible refine low_serve _ _ _ _ _ (fun s' h' => ?_) ?_ | with_reducible refine low_refuseIf _ _ _ (fun s' h' => ?_) _ ?_ | with_reducible refine low_receive _ _ _ _ (fun s' h' => ?_) ?_ | with_reducible refine low_foldl _ (fun s' a h' => ?_) _ _ ?_ | with_reducible apply low_withdrawSet | split | (simp [*]; done) | (simp [*])))))

theorem low_execWearHourlyAccrual (s : State) (hlow : low s.bly.phase) : ∀ t, (execWearHourlyAccrual s) = .next t → low t.bly.phase := by
  intro t ht; simp only [execWearHourlyAccrual] at ht; (repeat' split at ht) <;> (simp only [Host.Outcome.next.injEq, reduceCtorEq] at ht) <;> (try subst ht) <;> (iterate 14 (all_goals (try (first | with_reducible assumption | with_reducible refine low_serve _ _ _ _ _ (fun s' h' => ?_) ?_ | with_reducible refine low_refuseIf _ _ _ (fun s' h' => ?_) _ ?_ | with_reducible refine low_receive _ _ _ _ (fun s' h' => ?_) ?_ | with_reducible refine low_foldl _ (fun s' a h' => ?_) _ _ ?_ | with_reducible apply low_withdrawWorn | with_reducible apply low_carryOn | split | (simp [*]; done) | (simp [*])))))

theorem low_wearConfigCommitted (s : State) (hlow : low s.bly.phase) : low (wearConfigCommitted s).bly.phase := by
  simp only [wearConfigCommitted]; (iterate 14 (all_goals (try (first | with_reducible assumption | with_reducible refine low_serve _ _ _ _ _ (fun s' h' => ?_) ?_ | with_reducible refine low_refuseIf _ _ _ (fun s' h' => ?_) _ ?_ | with_reducible refine low_receive _ _ _ _ (fun s' h' => ?_) ?_ | with_reducible refine low_foldl _ (fun s' a h' => ?_) _ _ ?_ | with_reducible apply low_withdrawWorn | with_reducible apply low_carryOn | split | (simp [*]; done) | (simp [*])))))

theorem low_cmdCoreFence (h : Hdr) (p : Bytes) (s : State) (hlow : low s.bly.phase) : low (cmdCoreFence h p s).bly.phase := by
  simp only [cmdCoreFence]; (iterate 14 (all_goals (try (first | with_reducible assumption | with_reducible refine low_serve _ _ _ _ _ (fun s' h' => ?_) ?_ | with_reducible refine low_refuseIf _ _ _ (fun s' h' => ?_) _ ?_ | with_reducible refine low_receive _ _ _ _ (fun s' h' => ?_) ?_ | with_reducible refine low_foldl _ (fun s' a h' => ?_) _ _ ?_ | with_reducible apply low_carryOn | with_reducible apply low_fenceCore | split | (simp [*]; done) | (simp [*])))))

theorem low_execCoreFence (h : Hdr) (p : Bytes) (s : State) (hlow : low s.bly.phase) : ∀ t, (execCoreFence h p s) = .next t → low t.bly.phase := by
  exact fun _ e => Host.Outcome.next.inj e ▸ low_cmdCoreFence h p s hlow

theorem low_ridgeAfter (old : Word64) (s : State) (hlow : low s.bly.phase) : low (ridgeAfter old s).bly.phase := by
  simp only [ridgeAfter]; (iterate 14 (all_goals (try (first | with_reducible assumption | with_reducible refine low_serve _ _ _ _ _ (fun s' h' => ?_) ?_ | with_reducible refine low_refuseIf _ _ _ (fun s' h' => ?_) _ ?_ | with_reducible refine low_receive _ _ _ _ (fun s' h' => ?_) ?_ | with_reducible refine low_foldl _ (fun s' a h' => ?_) _ _ ?_ | with_reducible apply low_haltModel | split | (simp [*]; done) | (simp [*])))))

theorem low_newTopology (kind : Topo) (count : Nat) (lost : Word64) (ids : List Word64) (s : State) (hlow : low s.bly.phase) : low (newTopology kind count lost ids s).bly.phase := by
  simp only [newTopology]; (iterate 14 (all_goals (try (first | with_reducible assumption | with_reducible refine low_serve _ _ _ _ _ (fun s' h' => ?_) ?_ | with_reducible refine low_refuseIf _ _ _ (fun s' h' => ?_) _ ?_ | with_reducible refine low_receive _ _ _ _ (fun s' h' => ?_) ?_ | with_reducible refine low_foldl _ (fun s' a h' => ?_) _ _ ?_ | with_reducible apply low_ridgeAfter | split | (simp [*]; done) | (simp [*])))))

theorem low_enumDone (kind : Topo) (count : Nat) (ids : List Word64) (overflow : Bool) (s : State) (hlow : low s.bly.phase) : low (enumDone kind count ids overflow s).bly.phase := by
  simp only [enumDone]; (iterate 14 (all_goals (try (first | with_reducible assumption | with_reducible refine low_serve _ _ _ _ _ (fun s' h' => ?_) ?_ | with_reducible refine low_refuseIf _ _ _ (fun s' h' => ?_) _ ?_ | with_reducible refine low_receive _ _ _ _ (fun s' h' => ?_) ?_ | with_reducible refine low_foldl _ (fun s' a h' => ?_) _ _ ?_ | with_reducible apply low_newTopology | split | (simp [*]; done) | (simp [*])))))

theorem low_startEnum (s : State) (hlow : low s.bly.phase) : low (startEnum s).bly.phase := by
  simp only [startEnum]; (iterate 14 (all_goals (try (first | with_reducible assumption | with_reducible refine low_serve _ _ _ _ _ (fun s' h' => ?_) ?_ | with_reducible refine low_refuseIf _ _ _ (fun s' h' => ?_) _ ?_ | with_reducible refine low_receive _ _ _ _ (fun s' h' => ?_) ?_ | with_reducible refine low_foldl _ (fun s' a h' => ?_) _ _ ?_ | with_reducible apply low_enumDone | split | (simp [*]; done) | (simp [*])))))

theorem low_loseIndex (s : State) (hlow : low s.bly.phase) : low (loseIndex s).bly.phase := by
  simp only [loseIndex]; (iterate 14 (all_goals (try (first | with_reducible assumption | with_reducible refine low_serve _ _ _ _ _ (fun s' h' => ?_) ?_ | with_reducible refine low_refuseIf _ _ _ (fun s' h' => ?_) _ ?_ | with_reducible refine low_receive _ _ _ _ (fun s' h' => ?_) ?_ | with_reducible refine low_foldl _ (fun s' a h' => ?_) _ _ ?_ | with_reducible apply low_releasePitch | split | (simp [*]; done) | (simp [*])))))

theorem low_linkLost (chip port : Nat) (s : State) (hlow : low s.bly.phase) : low (linkLost chip port s).bly.phase := by
  simp only [linkLost]; (iterate 14 (all_goals (try (first | with_reducible assumption | with_reducible refine low_serve _ _ _ _ _ (fun s' h' => ?_) ?_ | with_reducible refine low_refuseIf _ _ _ (fun s' h' => ?_) _ ?_ | with_reducible refine low_receive _ _ _ _ (fun s' h' => ?_) ?_ | with_reducible refine low_foldl _ (fun s' a h' => ?_) _ _ ?_ | with_reducible apply low_newTopology | split | (simp [*]; done) | (simp [*])))))

theorem low_reportLost (p : Nat) (s : State) (hlow : low s.bly.phase) : low (reportLost p s).bly.phase := by
  simp only [reportLost]; (iterate 14 (all_goals (try (first | with_reducible assumption | with_reducible refine low_serve _ _ _ _ _ (fun s' h' => ?_) ?_ | with_reducible refine low_refuseIf _ _ _ (fun s' h' => ?_) _ ?_ | with_reducible refine low_receive _ _ _ _ (fun s' h' => ?_) ?_ | with_reducible refine low_foldl _ (fun s' a h' => ?_) _ _ ?_ | with_reducible apply low_linkLost | split | (simp [*]; done) | (simp [*])))))

theorem low_portLost (p : Nat) (s : State) (hlow : low s.bly.phase) : low (portLost p s).bly.phase := by
  simp only [portLost]; (iterate 14 (all_goals (try (first | with_reducible assumption | with_reducible refine low_serve _ _ _ _ _ (fun s' h' => ?_) ?_ | with_reducible refine low_refuseIf _ _ _ (fun s' h' => ?_) _ ?_ | with_reducible refine low_receive _ _ _ _ (fun s' h' => ?_) ?_ | with_reducible refine low_foldl _ (fun s' a h' => ?_) _ _ ?_ | with_reducible apply low_startEnum | with_reducible apply low_reportLost | split | (simp [*]; done) | (simp [*])))))

@[simp] theorem phase_endTraining (p : Nat) (lanes : BitVec 2) (fresh : Bool) (s : State) :
    (endTraining p lanes fresh s).bly.phase = s.bly.phase := by simp [endTraining]

theorem low_becomeUp (p : Nat) (lanes : BitVec 2) (s : State) (hlow : low s.bly.phase) : low (becomeUp p lanes s).bly.phase := by
  simp only [becomeUp]; (iterate 14 (all_goals (try (first | with_reducible assumption | with_reducible refine low_serve _ _ _ _ _ (fun s' h' => ?_) ?_ | with_reducible refine low_refuseIf _ _ _ (fun s' h' => ?_) _ ?_ | with_reducible refine low_receive _ _ _ _ (fun s' h' => ?_) ?_ | with_reducible refine low_foldl _ (fun s' a h' => ?_) _ _ ?_ | with_reducible apply low_startEnum | with_reducible apply low_reportLost | split | (simp [*]; done) | (simp [*])))))

theorem low_checkTrained (p : Nat) (s : State) (hlow : low s.bly.phase) : low (checkTrained p s).bly.phase := by
  simp only [checkTrained]; (iterate 14 (all_goals (try (first | with_reducible assumption | with_reducible refine low_serve _ _ _ _ _ (fun s' h' => ?_) ?_ | with_reducible refine low_refuseIf _ _ _ (fun s' h' => ?_) _ ?_ | with_reducible refine low_receive _ _ _ _ (fun s' h' => ?_) ?_ | with_reducible refine low_foldl _ (fun s' a h' => ?_) _ _ ?_ | with_reducible apply low_becomeUp | split | (simp [*]; done) | (simp [*])))))

theorem low_execTrain (r : RopeRx) (deviceId : Word64) (bootCount : Word32) (index : Byte) (lanes : BitVec 2) (credits : Vector (BitVec 16) 4) (s : State) (hlow : low s.bly.phase) : ∀ t, (execTrain r deviceId bootCount index lanes credits s) = .next t → low t.bly.phase := by
  intro t ht; simp only [execTrain] at ht; (repeat' split at ht) <;> (simp only [Host.Outcome.next.injEq, reduceCtorEq] at ht) <;> (try subst ht) <;> (iterate 14 (all_goals (try (first | with_reducible assumption | with_reducible refine low_serve _ _ _ _ _ (fun s' h' => ?_) ?_ | with_reducible refine low_refuseIf _ _ _ (fun s' h' => ?_) _ ?_ | with_reducible refine low_receive _ _ _ _ (fun s' h' => ?_) ?_ | with_reducible refine low_foldl _ (fun s' a h' => ?_) _ _ ?_ | with_reducible apply low_checkTrained | split | (simp [*]; done) | (simp [*])))))

theorem low_execTrainAck (r : RopeRx) (lanes : BitVec 2) (s : State) (hlow : low s.bly.phase) : ∀ t, (execTrainAck r lanes s) = .next t → low t.bly.phase := by
  intro t ht; simp only [execTrainAck] at ht; (repeat' split at ht) <;> (simp only [Host.Outcome.next.injEq, reduceCtorEq] at ht) <;> (try subst ht) <;> (iterate 14 (all_goals (try (first | with_reducible assumption | with_reducible refine low_serve _ _ _ _ _ (fun s' h' => ?_) ?_ | with_reducible refine low_refuseIf _ _ _ (fun s' h' => ?_) _ ?_ | with_reducible refine low_receive _ _ _ _ (fun s' h' => ?_) ?_ | with_reducible refine low_foldl _ (fun s' a h' => ?_) _ _ ?_ | with_reducible apply low_checkTrained | split | (simp [*]; done) | (simp [*])))))

theorem low_execTrainingAttemptTimeout (port : BitVec 1) (s : State) (hlow : low s.bly.phase) : ∀ t, (execTrainingAttemptTimeout port s) = .next t → low t.bly.phase := by
  intro t ht; simp only [execTrainingAttemptTimeout] at ht; (repeat' split at ht) <;> (simp only [Host.Outcome.next.injEq, reduceCtorEq] at ht) <;> (try subst ht) <;> (iterate 14 (all_goals (try (first | with_reducible assumption | with_reducible refine low_serve _ _ _ _ _ (fun s' h' => ?_) ?_ | with_reducible refine low_refuseIf _ _ _ (fun s' h' => ?_) _ ?_ | with_reducible refine low_receive _ _ _ _ (fun s' h' => ?_) ?_ | with_reducible refine low_foldl _ (fun s' a h' => ?_) _ _ ?_ | with_reducible apply low_portLost | split | (simp [*]; done) | (simp [*])))))

theorem low_execSquelchSilence (port : BitVec 1) (s : State) (hlow : low s.bly.phase) : ∀ t, (execSquelchSilence port s) = .next t → low t.bly.phase := by
  intro t ht; simp only [execSquelchSilence] at ht; (repeat' split at ht) <;> (simp only [Host.Outcome.next.injEq, reduceCtorEq] at ht) <;> (try subst ht) <;> (iterate 14 (all_goals (try (first | with_reducible assumption | with_reducible refine low_serve _ _ _ _ _ (fun s' h' => ?_) ?_ | with_reducible refine low_refuseIf _ _ _ (fun s' h' => ?_) _ ?_ | with_reducible refine low_receive _ _ _ _ (fun s' h' => ?_) ?_ | with_reducible refine low_foldl _ (fun s' a h' => ?_) _ _ ?_ | with_reducible apply low_portLost | split | (simp [*]; done) | (simp [*])))))

theorem low_execEnumStart (s : State) (hlow : low s.bly.phase) : ∀ t, (execEnumStart s) = .next t → low t.bly.phase := by
  intro t ht; simp only [execEnumStart] at ht; (repeat' split at ht) <;> (simp only [Host.Outcome.next.injEq, reduceCtorEq] at ht) <;> (try subst ht) <;> (iterate 14 (all_goals (try (first | with_reducible assumption | with_reducible refine low_serve _ _ _ _ _ (fun s' h' => ?_) ?_ | with_reducible refine low_refuseIf _ _ _ (fun s' h' => ?_) _ ?_ | with_reducible refine low_receive _ _ _ _ (fun s' h' => ?_) ?_ | with_reducible refine low_foldl _ (fun s' a h' => ?_) _ _ ?_ | with_reducible apply low_startEnum | split | (simp [*]; done) | (simp [*])))))

theorem low_execEnum (r : RopeRx) (index : Nat) (headId : Word64) (ids : List Word64) (s : State) (hlow : low s.bly.phase) : ∀ t, (execEnum r index headId ids s) = .next t → low t.bly.phase := by
  intro t ht; simp only [execEnum] at ht; (repeat' split at ht) <;> (simp only [Host.Outcome.next.injEq, reduceCtorEq] at ht) <;> (try subst ht) <;> (iterate 14 (all_goals (try (first | with_reducible assumption | with_reducible refine low_serve _ _ _ _ _ (fun s' h' => ?_) ?_ | with_reducible refine low_refuseIf _ _ _ (fun s' h' => ?_) _ ?_ | with_reducible refine low_receive _ _ _ _ (fun s' h' => ?_) ?_ | with_reducible refine low_foldl _ (fun s' a h' => ?_) _ _ ?_ | with_reducible apply low_enumDone | split | (simp [*]; done) | (simp [*])))))

theorem low_execEnumEnd (r : RopeRx) (count : Nat) (ids : List Word64) (s : State) (hlow : low s.bly.phase) : ∀ t, (execEnumEnd r count ids s) = .next t → low t.bly.phase := by
  intro t ht; simp only [execEnumEnd] at ht; (repeat' split at ht) <;> (simp only [Host.Outcome.next.injEq, reduceCtorEq] at ht) <;> (try subst ht) <;> (iterate 14 (all_goals (try (first | with_reducible assumption | with_reducible refine low_serve _ _ _ _ _ (fun s' h' => ?_) ?_ | with_reducible refine low_refuseIf _ _ _ (fun s' h' => ?_) _ ?_ | with_reducible refine low_receive _ _ _ _ (fun s' h' => ?_) ?_ | with_reducible refine low_foldl _ (fun s' a h' => ?_) _ _ ?_ | with_reducible apply low_enumDone | split | (simp [*]; done) | (simp [*])))))

theorem low_execTopology (r : RopeRx) (gen : Byte) (kind : Topo) (count : Nat) (lost : Word64) (ids : List Word64) (s : State) (hlow : low s.bly.phase) : ∀ t, (execTopology r gen kind count lost ids s) = .next t → low t.bly.phase := by
  intro t ht; simp only [execTopology] at ht; (repeat' split at ht) <;> (simp only [Host.Outcome.next.injEq, reduceCtorEq] at ht) <;> (try subst ht) <;> (iterate 14 (all_goals (try (first | with_reducible assumption | with_reducible refine low_serve _ _ _ _ _ (fun s' h' => ?_) ?_ | with_reducible refine low_refuseIf _ _ _ (fun s' h' => ?_) _ ?_ | with_reducible refine low_receive _ _ _ _ (fun s' h' => ?_) ?_ | with_reducible refine low_foldl _ (fun s' a h' => ?_) _ _ ?_ | with_reducible apply low_loseIndex | split | (simp [*]; done) | (simp [*])))))

theorem low_execHeadConflict (r : RopeRx) (s : State) (hlow : low s.bly.phase) : ∀ t, (execHeadConflict r s) = .next t → low t.bly.phase := by
  intro t ht; simp only [execHeadConflict] at ht; (repeat' split at ht) <;> (simp only [Host.Outcome.next.injEq, reduceCtorEq] at ht) <;> (try subst ht) <;> (iterate 14 (all_goals (try (first | with_reducible assumption | with_reducible refine low_serve _ _ _ _ _ (fun s' h' => ?_) ?_ | with_reducible refine low_refuseIf _ _ _ (fun s' h' => ?_) _ ?_ | with_reducible refine low_receive _ _ _ _ (fun s' h' => ?_) ?_ | with_reducible refine low_foldl _ (fun s' a h' => ?_) _ _ ?_ | with_reducible apply low_newTopology | split | (simp [*]; done) | (simp [*])))))

theorem low_execHeartbeatLoss (s : State) (hlow : low s.bly.phase) : ∀ t, (execHeartbeatLoss s) = .next t → low t.bly.phase := by
  intro t ht; simp only [execHeartbeatLoss] at ht; (repeat' split at ht) <;> (simp only [Host.Outcome.next.injEq, reduceCtorEq] at ht) <;> (try subst ht) <;> (iterate 14 (all_goals (try (first | with_reducible assumption | with_reducible refine low_serve _ _ _ _ _ (fun s' h' => ?_) ?_ | with_reducible refine low_refuseIf _ _ _ (fun s' h' => ?_) _ ?_ | with_reducible refine low_receive _ _ _ _ (fun s' h' => ?_) ?_ | with_reducible refine low_foldl _ (fun s' a h' => ?_) _ _ ?_ | with_reducible apply low_loseIndex | split | (simp [*]; done) | (simp [*])))))

theorem low_execLinkLost (r : RopeRx) (port : BitVec 1) (chip : Byte) (s : State) (hlow : low s.bly.phase) : ∀ t, (execLinkLost r port chip s) = .next t → low t.bly.phase := by
  intro t ht; simp only [execLinkLost] at ht; (repeat' split at ht) <;> (simp only [Host.Outcome.next.injEq, reduceCtorEq] at ht) <;> (try subst ht) <;> (iterate 14 (all_goals (try (first | with_reducible assumption | with_reducible refine low_serve _ _ _ _ _ (fun s' h' => ?_) ?_ | with_reducible refine low_refuseIf _ _ _ (fun s' h' => ?_) _ ?_ | with_reducible refine low_receive _ _ _ _ (fun s' h' => ?_) ?_ | with_reducible refine low_foldl _ (fun s' a h' => ?_) _ _ ?_ | with_reducible apply low_linkLost | split | (simp [*]; done) | (simp [*])))))

theorem low_execJoin (r : RopeRx) (port : BitVec 1) (s : State) (hlow : low s.bly.phase) : ∀ t, (execJoin r port s) = .next t → low t.bly.phase := by
  intro t ht; simp only [execJoin] at ht; (repeat' split at ht) <;> (simp only [Host.Outcome.next.injEq, reduceCtorEq] at ht) <;> (try subst ht) <;> (iterate 14 (all_goals (try (first | with_reducible assumption | with_reducible refine low_serve _ _ _ _ _ (fun s' h' => ?_) ?_ | with_reducible refine low_refuseIf _ _ _ (fun s' h' => ?_) _ ?_ | with_reducible refine low_receive _ _ _ _ (fun s' h' => ?_) ?_ | with_reducible refine low_foldl _ (fun s' a h' => ?_) _ _ ?_ | with_reducible apply low_startEnum | split | (simp [*]; done) | (simp [*])))))

theorem low_execDetach (r : RopeRx) (s : State) (hlow : low s.bly.phase) : ∀ t, (execDetach r s) = .next t → low t.bly.phase := by
  intro t ht; simp only [execDetach] at ht; (repeat' split at ht) <;> (simp only [Host.Outcome.next.injEq, reduceCtorEq] at ht) <;> (try subst ht) <;> (iterate 14 (all_goals (try (first | with_reducible assumption | with_reducible refine low_serve _ _ _ _ _ (fun s' h' => ?_) ?_ | with_reducible refine low_refuseIf _ _ _ (fun s' h' => ?_) _ ?_ | with_reducible refine low_receive _ _ _ _ (fun s' h' => ?_) ?_ | with_reducible refine low_foldl _ (fun s' a h' => ?_) _ _ ?_ | with_reducible apply low_portLost | split | (simp [*]; done) | (simp [*])))))

theorem low_landed (m source : Nat) (ref : BitVec 16) (vals : List Int) (s : State) (hlow : low s.bly.phase) : low (landed m source ref vals s).bly.phase := by
  simp only [landed]; (iterate 14 (all_goals (try (first | with_reducible assumption | with_reducible refine low_serve _ _ _ _ _ (fun s' h' => ?_) ?_ | with_reducible refine low_refuseIf _ _ _ (fun s' h' => ?_) _ ?_ | with_reducible refine low_receive _ _ _ _ (fun s' h' => ?_) ?_ | with_reducible refine low_foldl _ (fun s' a h' => ?_) _ _ ?_ | with_reducible apply low_endJob | split | (simp [*]; done) | (simp [*])))))

theorem low_execAct (r : RopeRx) (slot : BitVec 3) (layer : Byte) (ref : BitVec 16) (offset : Nat) (data gcmTag : Bytes) (s : State) (hlow : low s.bly.phase) : ∀ t, (execAct r slot layer ref offset data gcmTag s) = .next t → low t.bly.phase := by
  intro t ht; simp only [execAct] at ht; (repeat' split at ht) <;> (simp only [Host.Outcome.next.injEq, reduceCtorEq] at ht) <;> (try subst ht) <;> (iterate 14 (all_goals (try (first | with_reducible assumption | with_reducible refine low_serve _ _ _ _ _ (fun s' h' => ?_) ?_ | with_reducible refine low_refuseIf _ _ _ (fun s' h' => ?_) _ ?_ | with_reducible refine low_receive _ _ _ _ (fun s' h' => ?_) ?_ | with_reducible refine low_foldl _ (fun s' a h' => ?_) _ _ ?_ | with_reducible apply low_landed | split | (simp [*]; done) | (simp [*])))))

theorem low_cmdRopeEnumerate (h : Hdr) (p : Bytes) (s : State) (hlow : low s.bly.phase) : low (cmdRopeEnumerate h p s).bly.phase := by
  unfold cmdRopeEnumerate
  refine low_ropeServe _ _ _ _ _ (fun a ha => ?_) hlow
  refine low_refuseIf _ _ _ (fun a ha => ?_) _ ha
  first
    | (simp only [phase_flushRope]; exact low_startEnum _ (by simpa using ha))
    | exact low_startEnum _ (by simpa using ha)

theorem low_cmdRopeDetach (h : Hdr) (p : Bytes) (s : State) (hlow : low s.bly.phase) : low (cmdRopeDetach h p s).bly.phase := by
  unfold cmdRopeDetach
  refine low_ropeServe _ _ _ _ _ (fun a ha => ?_) hlow
  refine low_refuseIf _ _ _ (fun a ha => ?_) _ ha
  dsimp only
  split
  · simpa using ha
  · simp only [phase_doneWith, phase_wantDomain, phase_ropeUnpowered]
    refine low_loseIndex _ ?_
    rw [phase_endRopeTags]
    refine low_ridgeAfter _ _ ?_
    simp only [phase_abortRounds, phase_onRope]
    exact low_foldl _ (fun q n hq => by split <;> simpa using hq) _ _ ha

theorem low_execRopeEnumerate (h : Hdr) (p : Bytes) (s : State) (hlow : low s.bly.phase) : ∀ t, (execRopeEnumerate h p s) = .next t → low t.bly.phase := by
  exact fun _ e => Host.Outcome.next.inj e ▸ low_cmdRopeEnumerate h p s hlow

theorem low_execRopeDetach (h : Hdr) (p : Bytes) (s : State) (hlow : low s.bly.phase) : ∀ t, (execRopeDetach h p s) = .next t → low t.bly.phase := by
  exact fun _ e => Host.Outcome.next.inj e ▸ low_cmdRopeDetach h p s hlow

theorem low_withdrawOther (tag : Tag) (s : State) (hlow : low s.bly.phase) : low (withdrawOther tag s).bly.phase := by
  simp only [withdrawOther]; (iterate 14 (all_goals (try (first | with_reducible assumption | with_reducible refine low_serve _ _ _ _ _ (fun s' h' => ?_) ?_ | with_reducible refine low_refuseIf _ _ _ (fun s' h' => ?_) _ ?_ | with_reducible refine low_receive _ _ _ _ (fun s' h' => ?_) ?_ | with_reducible refine low_foldl _ (fun s' a h' => ?_) _ _ ?_ | with_reducible apply low_abortRearm | split | (simp [*]; done) | (simp [*])))))

theorem low_withdraw (tag : Tag) (s : State) (hlow : low s.bly.phase) : low (withdraw tag s).bly.phase := by
  simp only [withdraw]; (iterate 14 (all_goals (try (first | with_reducible assumption | with_reducible refine low_serve _ _ _ _ _ (fun s' h' => ?_) ?_ | with_reducible refine low_refuseIf _ _ _ (fun s' h' => ?_) _ ?_ | with_reducible refine low_receive _ _ _ _ (fun s' h' => ?_) ?_ | with_reducible refine low_foldl _ (fun s' a h' => ?_) _ _ ?_ | with_reducible apply low_withdrawOther | split | (simp [*]; done) | (simp [*])))))

theorem low_stopCommand (tag : Tag) (status : Byte) (payload : Bytes) (s : State) (hlow : low s.bly.phase) : low (stopCommand tag status payload s).bly.phase := by
  simp only [stopCommand]; (iterate 14 (all_goals (try (first | with_reducible assumption | with_reducible refine low_serve _ _ _ _ _ (fun s' h' => ?_) ?_ | with_reducible refine low_refuseIf _ _ _ (fun s' h' => ?_) _ ?_ | with_reducible refine low_receive _ _ _ _ (fun s' h' => ?_) ?_ | with_reducible refine low_foldl _ (fun s' a h' => ?_) _ _ ?_ | with_reducible apply low_withdraw | split | (simp [*]; done) | (simp [*])))))

theorem low_expireSession (slot : Nat) (reason : Byte) (s : State) (hlow : low s.bly.phase) : low (expireSession slot reason s).bly.phase := by
  simp only [expireSession]; (iterate 14 (all_goals (try (first | with_reducible assumption | with_reducible refine low_serve _ _ _ _ _ (fun s' h' => ?_) ?_ | with_reducible refine low_refuseIf _ _ _ (fun s' h' => ?_) _ ?_ | with_reducible refine low_receive _ _ _ _ (fun s' h' => ?_) ?_ | with_reducible refine low_foldl _ (fun s' a h' => ?_) _ _ ?_ | with_reducible apply low_stopCommand | split | (simp [*]; done) | (simp [*])))))

theorem low_beginRemoval (o : Nat) (tag : Tag) (fpr : Bytes) (s : State) (hlow : low s.bly.phase) : low (beginRemoval o tag fpr s).bly.phase := by
  simp only [beginRemoval]; (iterate 14 (all_goals (try (first | with_reducible assumption | with_reducible refine low_serve _ _ _ _ _ (fun s' h' => ?_) ?_ | with_reducible refine low_refuseIf _ _ _ (fun s' h' => ?_) _ ?_ | with_reducible refine low_receive _ _ _ _ (fun s' h' => ?_) ?_ | with_reducible refine low_foldl _ (fun s' a h' => ?_) _ _ ?_ | with_reducible apply low_carryOn | split | (simp [*]; done) | (simp [*])))))

theorem low_keysCommitted (s : State) (hlow : low s.bly.phase) : low (keysCommitted s).bly.phase := by
  simp only [keysCommitted]; (iterate 14 (all_goals (try (first | with_reducible assumption | with_reducible refine low_serve _ _ _ _ _ (fun s' h' => ?_) ?_ | with_reducible refine low_refuseIf _ _ _ (fun s' h' => ?_) _ ?_ | with_reducible refine low_receive _ _ _ _ (fun s' h' => ?_) ?_ | with_reducible refine low_foldl _ (fun s' a h' => ?_) _ _ ?_ | with_reducible apply low_expireSession | with_reducible apply low_beginRemoval | split | (simp [*]; done) | (simp [*])))))

theorem low_forgetModels (s : State) (hlow : low s.bly.phase) : low (forgetModels s).bly.phase := by
  simp only [forgetModels]; (iterate 14 (all_goals (try (first | with_reducible assumption | with_reducible refine low_serve _ _ _ _ _ (fun s' h' => ?_) ?_ | with_reducible refine low_refuseIf _ _ _ (fun s' h' => ?_) _ ?_ | with_reducible refine low_receive _ _ _ _ (fun s' h' => ?_) ?_ | with_reducible refine low_foldl _ (fun s' a h' => ?_) _ _ ?_ | with_reducible apply low_emptySlot | split | (simp [*]; done) | (simp [*])))))

theorem low_eraseProgrammed (s : State) (hlow : low s.bly.phase) : low (eraseProgrammed s).bly.phase := by
  simp only [eraseProgrammed]; (iterate 14 (all_goals (try (first | with_reducible assumption | with_reducible refine low_serve _ _ _ _ _ (fun s' h' => ?_) ?_ | with_reducible refine low_refuseIf _ _ _ (fun s' h' => ?_) _ ?_ | with_reducible refine low_receive _ _ _ _ (fun s' h' => ?_) ?_ | with_reducible refine low_foldl _ (fun s' a h' => ?_) _ _ ?_ | with_reducible apply low_forgetModels | with_reducible apply low_expireSession | split | (simp [*]; done) | (simp [*])))))

theorem low_belayReset (cause : Byte) (s : State) (hlow : low s.bly.phase) : low (belayReset cause s).bly.phase := by
  simp only [belayReset]; (iterate 14 (all_goals (try (first | with_reducible assumption | with_reducible refine low_serve _ _ _ _ _ (fun s' h' => ?_) ?_ | with_reducible refine low_refuseIf _ _ _ (fun s' h' => ?_) _ ?_ | with_reducible refine low_receive _ _ _ _ (fun s' h' => ?_) ?_ | with_reducible refine low_foldl _ (fun s' a h' => ?_) _ _ ?_ | split | (simp [*]; done) | (simp [*])))))

theorem low_beginReset (cause : Byte) (s : State) (hlow : low s.bly.phase) : low (beginReset cause s).bly.phase := by
  simp only [beginReset]; (iterate 14 (all_goals (try (first | with_reducible assumption | with_reducible refine low_serve _ _ _ _ _ (fun s' h' => ?_) ?_ | with_reducible refine low_refuseIf _ _ _ (fun s' h' => ?_) _ ?_ | with_reducible refine low_receive _ _ _ _ (fun s' h' => ?_) ?_ | with_reducible refine low_foldl _ (fun s' a h' => ?_) _ _ ?_ | with_reducible apply low_belayReset | split | (simp [*]; done) | (simp [*])))))

theorem low_takeEffect (warm : Bool) (s : State) (hlow : low s.bly.phase) : low (takeEffect warm s).bly.phase := by
  simp only [takeEffect]; (iterate 14 (all_goals (try (first | with_reducible assumption | with_reducible refine low_serve _ _ _ _ _ (fun s' h' => ?_) ?_ | with_reducible refine low_refuseIf _ _ _ (fun s' h' => ?_) _ ?_ | with_reducible refine low_receive _ _ _ _ (fun s' h' => ?_) ?_ | with_reducible refine low_foldl _ (fun s' a h' => ?_) _ _ ?_ | with_reducible apply low_releasePitch | split | (simp [*]; done) | (simp [*])))))

theorem low_recordInForce (k : RecordKind) (tag : Option Tag) (s : State) (hlow : low s.bly.phase) : low (recordInForce k tag s).bly.phase := by
  simp only [recordInForce]; (iterate 14 (all_goals (try (first | with_reducible assumption | with_reducible refine low_serve _ _ _ _ _ (fun s' h' => ?_) ?_ | with_reducible refine low_refuseIf _ _ _ (fun s' h' => ?_) _ ?_ | with_reducible refine low_receive _ _ _ _ (fun s' h' => ?_) ?_ | with_reducible refine low_foldl _ (fun s' a h' => ?_) _ _ ?_ | with_reducible apply low_eraseProgrammed | with_reducible apply low_keysCommitted | split | (simp [*]; done) | (simp [*])))))

theorem low_headErased (n : Nat) (s : State) (hlow : low s.bly.phase) : low (headErased n s).bly.phase := by
  simp only [headErased]; (iterate 14 (all_goals (try (first | with_reducible assumption | with_reducible refine low_serve _ _ _ _ _ (fun s' h' => ?_) ?_ | with_reducible refine low_refuseIf _ _ _ (fun s' h' => ?_) _ ?_ | with_reducible refine low_receive _ _ _ _ (fun s' h' => ?_) ?_ | with_reducible refine low_foldl _ (fun s' a h' => ?_) _ _ ?_ | with_reducible apply low_carryOn | split | (simp [*]; done) | (simp [*])))))

theorem low_modelReceived (m : Nat) (data : Bytes) (tag : Option Tag) (s : State) (hlow : low s.bly.phase) : low (modelReceived m data tag s).bly.phase := by
  simp only [modelReceived]; (iterate 14 (all_goals (try (first | with_reducible assumption | with_reducible refine low_serve _ _ _ _ _ (fun s' h' => ?_) ?_ | with_reducible refine low_refuseIf _ _ _ (fun s' h' => ?_) _ ?_ | with_reducible refine low_receive _ _ _ _ (fun s' h' => ?_) ?_ | with_reducible refine low_foldl _ (fun s' a h' => ?_) _ _ ?_ | with_reducible apply low_setPhase | split | (simp [*]; done) | (simp [*])))))

theorem low_wearProgrammed (why : WearWhy) (s : State) (hlow : low s.bly.phase) : low (wearProgrammed why s).bly.phase := by
  simp only [wearProgrammed]; (iterate 14 (all_goals (try (first | with_reducible assumption | with_reducible refine low_serve _ _ _ _ _ (fun s' h' => ?_) ?_ | with_reducible refine low_refuseIf _ _ _ (fun s' h' => ?_) _ ?_ | with_reducible refine low_receive _ _ _ _ (fun s' h' => ?_) ?_ | with_reducible refine low_foldl _ (fun s' a h' => ?_) _ _ ?_ | with_reducible apply low_wearConfigCommitted | split | (simp [*]; done) | (simp [*])))))

theorem low_grantFails (s : State) (hlow : low s.bly.phase) : low (grantFails s).bly.phase := by
  simp only [grantFails]; (iterate 14 (all_goals (try (first | with_reducible assumption | with_reducible refine low_serve _ _ _ _ _ (fun s' h' => ?_) ?_ | with_reducible refine low_refuseIf _ _ _ (fun s' h' => ?_) _ ?_ | with_reducible refine low_receive _ _ _ _ (fun s' h' => ?_) ?_ | with_reducible refine low_foldl _ (fun s' a h' => ?_) _ _ ?_ | with_reducible apply low_releasePitch | with_reducible apply low_haltModel | with_reducible apply low_replaceFails | split | (simp [*]; done) | (simp [*])))))

theorem low_wearFails (why : WearWhy) (tag : Option Tag) (s : State) (hlow : low s.bly.phase) : low (wearFails why tag s).bly.phase := by
  simp only [wearFails]; (iterate 14 (all_goals (try (first | with_reducible assumption | with_reducible refine low_serve _ _ _ _ _ (fun s' h' => ?_) ?_ | with_reducible refine low_refuseIf _ _ _ (fun s' h' => ?_) _ ?_ | with_reducible refine low_receive _ _ _ _ (fun s' h' => ?_) ?_ | with_reducible refine low_foldl _ (fun s' a h' => ?_) _ _ ?_ | with_reducible apply low_grantFails | split | (simp [*]; done) | (simp [*])))))

theorem low_wearCopyFails (s : State) (hlow : low s.bly.phase) : low (wearCopyFails s).bly.phase := by
  simp only [wearCopyFails]; (iterate 14 (all_goals (try (first | with_reducible assumption | with_reducible refine low_serve _ _ _ _ _ (fun s' h' => ?_) ?_ | with_reducible refine low_refuseIf _ _ _ (fun s' h' => ?_) _ ?_ | with_reducible refine low_receive _ _ _ _ (fun s' h' => ?_) ?_ | with_reducible refine low_foldl _ (fun s' a h' => ?_) _ _ ?_ | with_reducible apply low_wearFails | split | (simp [*]; done) | (simp [*])))))

theorem low_programmed (o : NvmOp) (s : State) (hlow : low s.bly.phase) : low (programmed o s).bly.phase := by
  simp only [programmed]; (iterate 14 (all_goals (try (first | with_reducible assumption | with_reducible refine low_serve _ _ _ _ _ (fun s' h' => ?_) ?_ | with_reducible refine low_refuseIf _ _ _ (fun s' h' => ?_) _ ?_ | with_reducible refine low_receive _ _ _ _ (fun s' h' => ?_) ?_ | with_reducible refine low_foldl _ (fun s' a h' => ?_) _ _ ?_ | with_reducible apply low_modelReceived | with_reducible apply low_wearProgrammed | with_reducible apply low_recordInForce | split | (simp [*]; done) | (simp [*])))))

theorem low_programFailed (o : NvmOp) (s : State) (hlow : low s.bly.phase) : low (programFailed o s).bly.phase := by
  simp only [programFailed]; (iterate 14 (all_goals (try (first | with_reducible assumption | with_reducible refine low_serve _ _ _ _ _ (fun s' h' => ?_) ?_ | with_reducible refine low_refuseIf _ _ _ (fun s' h' => ?_) _ ?_ | with_reducible refine low_receive _ _ _ _ (fun s' h' => ?_) ?_ | with_reducible refine low_foldl _ (fun s' a h' => ?_) _ _ ?_ | with_reducible apply low_wearFails | with_reducible apply low_wearCopyFails | split | (simp [*]; done) | (simp [*])))))

theorem low_erased (o : NvmOp) (ok : Bool) (s : State) (hlow : low s.bly.phase) : low (erased o ok s).bly.phase := by
  simp only [erased]; (iterate 14 (all_goals (try (first | with_reducible assumption | with_reducible refine low_serve _ _ _ _ _ (fun s' h' => ?_) ?_ | with_reducible refine low_refuseIf _ _ _ (fun s' h' => ?_) _ ?_ | with_reducible refine low_receive _ _ _ _ (fun s' h' => ?_) ?_ | with_reducible refine low_foldl _ (fun s' a h' => ?_) _ _ ?_ | with_reducible apply low_headErased | split | (simp [*]; done) | (simp [*])))))

theorem low_programEnds (bad us : Nat) (s : State) (hlow : low s.bly.phase) : low (programEnds bad us s).bly.phase := by
  simp only [programEnds]; (iterate 14 (all_goals (try (first | with_reducible assumption | with_reducible refine low_serve _ _ _ _ _ (fun s' h' => ?_) ?_ | with_reducible refine low_refuseIf _ _ _ (fun s' h' => ?_) _ ?_ | with_reducible refine low_receive _ _ _ _ (fun s' h' => ?_) ?_ | with_reducible refine low_foldl _ (fun s' a h' => ?_) _ _ ?_ | with_reducible apply low_programmed | with_reducible apply low_programFailed | split | (simp [*]; done) | (simp [*])))))

theorem low_execNvmEraseDone (ok : Bool) (us : Nat) (s : State) (hlow : low s.bly.phase) : ∀ t, (execNvmEraseDone ok us s) = .next t → low t.bly.phase := by
  intro t ht; simp only [execNvmEraseDone] at ht; (repeat' split at ht) <;> (simp only [Host.Outcome.next.injEq, reduceCtorEq] at ht) <;> (try subst ht) <;> (iterate 14 (all_goals (try (first | with_reducible assumption | with_reducible refine low_serve _ _ _ _ _ (fun s' h' => ?_) ?_ | with_reducible refine low_refuseIf _ _ _ (fun s' h' => ?_) _ ?_ | with_reducible refine low_receive _ _ _ _ (fun s' h' => ?_) ?_ | with_reducible refine low_foldl _ (fun s' a h' => ?_) _ _ ?_ | with_reducible apply low_erased | split | (simp [*]; done) | (simp [*])))))

theorem low_scheduledReset (s : State) (hlow : low s.bly.phase) : low (scheduledReset s).bly.phase := by
  simp only [scheduledReset]; (iterate 14 (all_goals (try (first | with_reducible assumption | with_reducible refine low_serve _ _ _ _ _ (fun s' h' => ?_) ?_ | with_reducible refine low_refuseIf _ _ _ (fun s' h' => ?_) _ ?_ | with_reducible refine low_receive _ _ _ _ (fun s' h' => ?_) ?_ | with_reducible refine low_foldl _ (fun s' a h' => ?_) _ _ ?_ | with_reducible apply low_beginReset | split | (simp [*]; done) | (simp [*])))))

theorem low_execResetReplyTimeout (s : State) (hlow : low s.bly.phase) : ∀ t, (execResetReplyTimeout s) = .next t → low t.bly.phase := by
  exact fun _ e => Host.Outcome.next.inj e ▸ low_scheduledReset s hlow

theorem low_execResetPinAssert (s : State) (hlow : low s.bly.phase) : ∀ t, (execResetPinAssert s) = .next t → low t.bly.phase := by
  intro t ht; simp only [execResetPinAssert] at ht; (repeat' split at ht) <;> (simp only [Host.Outcome.next.injEq, reduceCtorEq] at ht) <;> (try subst ht) <;> (iterate 14 (all_goals (try (first | with_reducible assumption | with_reducible refine low_serve _ _ _ _ _ (fun s' h' => ?_) ?_ | with_reducible refine low_refuseIf _ _ _ (fun s' h' => ?_) _ ?_ | with_reducible refine low_receive _ _ _ _ (fun s' h' => ?_) ?_ | with_reducible refine low_foldl _ (fun s' a h' => ?_) _ _ ?_ | with_reducible apply low_beginReset | split | (simp [*]; done) | (simp [*])))))

theorem low_execResetTakeEffect (s : State) (hlow : low s.bly.phase) : ∀ t, (execResetTakeEffect s) = .next t → low t.bly.phase := by
  intro t ht; simp only [execResetTakeEffect] at ht; (repeat' split at ht) <;> (simp only [Host.Outcome.next.injEq, reduceCtorEq] at ht) <;> (try subst ht) <;> (iterate 14 (all_goals (try (first | with_reducible assumption | with_reducible refine low_serve _ _ _ _ _ (fun s' h' => ?_) ?_ | with_reducible refine low_refuseIf _ _ _ (fun s' h' => ?_) _ ?_ | with_reducible refine low_receive _ _ _ _ (fun s' h' => ?_) ?_ | with_reducible refine low_foldl _ (fun s' a h' => ?_) _ _ ?_ | with_reducible apply low_takeEffect | split | (simp [*]; done) | (simp [*])))))

theorem low_execPowerOnReset (slow : Bool) (s : State) (hlow : low s.bly.phase) : ∀ t, execPowerOnReset slow s = .next t → low t.bly.phase := by
  intro t ht
  simp only [execPowerOnReset] at ht
  split at ht
  · cases ht; exact hlow
  · cases ht
    show low ((lostRecord (takeEffect false s)).getD (.disarmed, 0, 0xFF)).1
    cases hr : lostRecord (takeEffect false s) with
    | none => simp
    | some r =>
      simp only [lostRecord] at hr
      split at hr
      · simp only [Option.map_eq_some_iff] at hr
        obtain ⟨x, hx, rfl⟩ := hr
        have := List.find?_some hx
        simp only [Bool.and_eq_true, bne_iff_ne] at this
        exact ⟨this.1.1, this.1.2⟩
      · simp at hr

theorem low_startPendingErase (s : State) (hlow : low s.bly.phase) : low (startPendingErase s).bly.phase := by
  simp only [startPendingErase]; (iterate 14 (all_goals (try (first | with_reducible assumption | with_reducible refine low_serve _ _ _ _ _ (fun s' h' => ?_) ?_ | with_reducible refine low_refuseIf _ _ _ (fun s' h' => ?_) _ ?_ | with_reducible refine low_receive _ _ _ _ (fun s' h' => ?_) ?_ | with_reducible refine low_foldl _ (fun s' a h' => ?_) _ _ ?_ | with_reducible apply low_forgetModels | split | (simp [*]; done) | (simp [*])))))

theorem low_execBootRomStart (straps : BitVec 4) (programs : Vector (Nat × Nat) 4) (s : State) (hlow : low s.bly.phase) : ∀ t, (execBootRomStart straps programs s) = .next t → low t.bly.phase := by
  intro t ht; simp only [execBootRomStart] at ht; (repeat' split at ht) <;> (simp only [Host.Outcome.next.injEq, reduceCtorEq] at ht) <;> (try subst ht) <;> (iterate 14 (all_goals (try (first | with_reducible assumption | with_reducible refine low_serve _ _ _ _ _ (fun s' h' => ?_) ?_ | with_reducible refine low_refuseIf _ _ _ (fun s' h' => ?_) _ ?_ | with_reducible refine low_receive _ _ _ _ (fun s' h' => ?_) ?_ | with_reducible refine low_foldl _ (fun s' a h' => ?_) _ _ ?_ | with_reducible apply low_startPendingErase | split | (simp [*]; done) | (simp [*])))))

theorem low_resumeBelay (s : State) (hlow : low s.bly.phase) : low (resumeBelay s).bly.phase := by
  simp only [resumeBelay]; (iterate 14 (all_goals (try (first | with_reducible assumption | with_reducible refine low_serve _ _ _ _ _ (fun s' h' => ?_) ?_ | with_reducible refine low_refuseIf _ _ _ (fun s' h' => ?_) _ ?_ | with_reducible refine low_receive _ _ _ _ (fun s' h' => ?_) ?_ | with_reducible refine low_foldl _ (fun s' a h' => ?_) _ _ ?_ | with_reducible apply low_enterStopped | with_reducible apply low_enterCoasting | split | (simp [*]; done) | (simp [*])))))

theorem low_firstReady (s : State) (hlow : low s.bly.phase) : low (firstReady s).bly.phase := by
  simp only [firstReady]; (iterate 14 (all_goals (try (first | with_reducible assumption | with_reducible refine low_serve _ _ _ _ _ (fun s' h' => ?_) ?_ | with_reducible refine low_refuseIf _ _ _ (fun s' h' => ?_) _ ?_ | with_reducible refine low_receive _ _ _ _ (fun s' h' => ?_) ?_ | with_reducible refine low_foldl _ (fun s' a h' => ?_) _ _ ?_ | with_reducible apply low_resumeBelay | with_reducible apply low_lookBelay | with_reducible apply low_carryOn | split | (simp [*]; done) | (simp [*])))))

theorem low_execDeviceReady (s : State) (hlow : low s.bly.phase) : ∀ t, (execDeviceReady s) = .next t → low t.bly.phase := by
  intro t ht; simp only [execDeviceReady] at ht; (repeat' split at ht) <;> (simp only [Host.Outcome.next.injEq, reduceCtorEq] at ht) <;> (try subst ht) <;> (iterate 14 (all_goals (try (first | with_reducible assumption | with_reducible refine low_serve _ _ _ _ _ (fun s' h' => ?_) ?_ | with_reducible refine low_refuseIf _ _ _ (fun s' h' => ?_) _ ?_ | with_reducible refine low_receive _ _ _ _ (fun s' h' => ?_) ?_ | with_reducible refine low_foldl _ (fun s' a h' => ?_) _ _ ?_ | with_reducible apply low_firstReady | split | (simp [*]; done) | (simp [*])))))

theorem low_execBootGuardExpiry (s : State) (hlow : low s.bly.phase) : ∀ t, (execBootGuardExpiry s) = .next t → low t.bly.phase := by
  intro t ht; simp only [execBootGuardExpiry] at ht; (repeat' split at ht) <;> (simp only [Host.Outcome.next.injEq, reduceCtorEq] at ht) <;> (try subst ht) <;> (iterate 14 (all_goals (try (first | with_reducible assumption | with_reducible refine low_serve _ _ _ _ _ (fun s' h' => ?_) ?_ | with_reducible refine low_refuseIf _ _ _ (fun s' h' => ?_) _ ?_ | with_reducible refine low_receive _ _ _ _ (fun s' h' => ?_) ?_ | with_reducible refine low_foldl _ (fun s' a h' => ?_) _ _ ?_ | split | (simp [*]; done) | (simp [*])))))

theorem low_execWatchdogExpiry (s : State) (hlow : low s.bly.phase) : ∀ t, (execWatchdogExpiry s) = .next t → low t.bly.phase := by
  intro t ht; simp only [execWatchdogExpiry] at ht; (repeat' split at ht) <;> (simp only [Host.Outcome.next.injEq, reduceCtorEq] at ht) <;> (try subst ht) <;> (iterate 14 (all_goals (try (first | with_reducible assumption | with_reducible refine low_serve _ _ _ _ _ (fun s' h' => ?_) ?_ | with_reducible refine low_refuseIf _ _ _ (fun s' h' => ?_) _ ?_ | with_reducible refine low_receive _ _ _ _ (fun s' h' => ?_) ?_ | with_reducible refine low_foldl _ (fun s' a h' => ?_) _ _ ?_ | with_reducible apply low_beginReset | split | (simp [*]; done) | (simp [*])))))

theorem low_execControlCoreException (code : Word32) (s : State) (hlow : low s.bly.phase) : ∀ t, (execControlCoreException code s) = .next t → low t.bly.phase := by
  intro t ht; simp only [execControlCoreException] at ht; (repeat' split at ht) <;> (simp only [Host.Outcome.next.injEq, reduceCtorEq] at ht) <;> (try subst ht) <;> (iterate 14 (all_goals (try (first | with_reducible assumption | with_reducible refine low_serve _ _ _ _ _ (fun s' h' => ?_) ?_ | with_reducible refine low_refuseIf _ _ _ (fun s' h' => ?_) _ ?_ | with_reducible refine low_receive _ _ _ _ (fun s' h' => ?_) ?_ | with_reducible refine low_foldl _ (fun s' a h' => ?_) _ _ ?_ | with_reducible apply low_beginReset | split | (simp [*]; done) | (simp [*])))))

theorem low_endInternal (s : State) (c : Slot) (hlow : low s.bly.phase) : low (endInternal s c).bly.phase := by
  simp only [endInternal]; (iterate 14 (all_goals (try (first | with_reducible assumption | with_reducible refine low_serve _ _ _ _ _ (fun s' h' => ?_) ?_ | with_reducible refine low_refuseIf _ _ _ (fun s' h' => ?_) _ ?_ | with_reducible refine low_receive _ _ _ _ (fun s' h' => ?_) ?_ | with_reducible refine low_foldl _ (fun s' a h' => ?_) _ _ ?_ | with_reducible apply low_stopCommand | split | (simp [*]; done) | (simp [*])))))

theorem low_execFirmwareRestartDone (s : State) (hlow : low s.bly.phase) : ∀ t, (execFirmwareRestartDone s) = .next t → low t.bly.phase := by
  intro t ht; simp only [execFirmwareRestartDone] at ht; (repeat' split at ht) <;> (simp only [Host.Outcome.next.injEq, reduceCtorEq] at ht) <;> (try subst ht) <;> (iterate 14 (all_goals (try (first | with_reducible assumption | with_reducible refine low_serve _ _ _ _ _ (fun s' h' => ?_) ?_ | with_reducible refine low_refuseIf _ _ _ (fun s' h' => ?_) _ ?_ | with_reducible refine low_receive _ _ _ _ (fun s' h' => ?_) ?_ | with_reducible refine low_foldl _ (fun s' a h' => ?_) _ _ ?_ | with_reducible apply low_firstReady | with_reducible apply low_lookBelay | with_reducible apply low_carryOn | with_reducible apply low_endInternal | split | (simp [*]; done) | (simp [*])))))

theorem low_holdupProgram (ps : List (Nat × Nat)) (s : State) (hlow : low s.bly.phase) : low (holdupProgram ps s).1.bly.phase := by
  simp only [holdupProgram]; (iterate 14 (all_goals (try (first | with_reducible assumption | with_reducible refine low_serve _ _ _ _ _ (fun s' h' => ?_) ?_ | with_reducible refine low_refuseIf _ _ _ (fun s' h' => ?_) _ ?_ | with_reducible refine low_receive _ _ _ _ (fun s' h' => ?_) ?_ | with_reducible refine low_foldl _ (fun s' a h' => ?_) _ _ ?_ | with_reducible apply low_programEnds | split | (simp [*]; done) | (simp [*])))))

theorem low_brownOut (ps : List (Nat × Nat)) (s : State) (hlow : low s.bly.phase) : low (brownOut ps s).bly.phase := by
  simp only [brownOut]; (iterate 14 (all_goals (try (first | with_reducible assumption | with_reducible refine low_serve _ _ _ _ _ (fun s' h' => ?_) ?_ | with_reducible refine low_refuseIf _ _ _ (fun s' h' => ?_) _ ?_ | with_reducible refine low_receive _ _ _ _ (fun s' h' => ?_) ?_ | with_reducible refine low_foldl _ (fun s' a h' => ?_) _ _ ?_ | with_reducible apply low_holdupProgram | with_reducible apply low_takeEffect | with_reducible apply low_belayReset | split | (simp [*]; done) | (simp [*])))))

theorem low_execBrownoutDetect (programs : List (Nat × Nat)) (s : State) (hlow : low s.bly.phase) : ∀ t, (execBrownoutDetect programs s) = .next t → low t.bly.phase := by
  intro t ht; simp only [execBrownoutDetect] at ht; (repeat' split at ht) <;> (simp only [Host.Outcome.next.injEq, reduceCtorEq] at ht) <;> (try subst ht) <;> (iterate 14 (all_goals (try (first | with_reducible assumption | with_reducible refine low_serve _ _ _ _ _ (fun s' h' => ?_) ?_ | with_reducible refine low_refuseIf _ _ _ (fun s' h' => ?_) _ ?_ | with_reducible refine low_receive _ _ _ _ (fun s' h' => ?_) ?_ | with_reducible refine low_foldl _ (fun s' a h' => ?_) _ _ ?_ | with_reducible apply low_brownOut | split | (simp [*]; done) | (simp [*])))))

theorem low_execPowerOff (s : State) (hlow : low s.bly.phase) : ∀ t, (execPowerOff s) = .next t → low t.bly.phase := by
  intro t ht; simp only [execPowerOff] at ht; (repeat' split at ht) <;> (simp only [Host.Outcome.next.injEq, reduceCtorEq] at ht) <;> (try subst ht) <;> (iterate 14 (all_goals (try (first | with_reducible assumption | with_reducible refine low_serve _ _ _ _ _ (fun s' h' => ?_) ?_ | with_reducible refine low_refuseIf _ _ _ (fun s' h' => ?_) _ ?_ | with_reducible refine low_receive _ _ _ _ (fun s' h' => ?_) ?_ | with_reducible refine low_foldl _ (fun s' a h' => ?_) _ _ ?_ | with_reducible apply low_brownOut | split | (simp [*]; done) | (simp [*])))))

theorem low_clockBack (s : State) (hlow : low s.bly.phase) : low (clockBack s).bly.phase := by
  simp only [clockBack]; (iterate 14 (all_goals (try (first | with_reducible assumption | with_reducible refine low_serve _ _ _ _ _ (fun s' h' => ?_) ?_ | with_reducible refine low_refuseIf _ _ _ (fun s' h' => ?_) _ ?_ | with_reducible refine low_receive _ _ _ _ (fun s' h' => ?_) ?_ | with_reducible refine low_foldl _ (fun s' a h' => ?_) _ _ ?_ | with_reducible apply low_lookBelay | split | (simp [*]; done) | (simp [*])))))

theorem low_execXo24Qualified (us : Nat) (s : State) (hlow : low s.bly.phase) : ∀ t, (execXo24Qualified us s) = .next t → low t.bly.phase := by
  intro t ht; simp only [execXo24Qualified] at ht; (repeat' split at ht) <;> (simp only [Host.Outcome.next.injEq, reduceCtorEq] at ht) <;> (try subst ht) <;> (iterate 14 (all_goals (try (first | with_reducible assumption | with_reducible refine low_serve _ _ _ _ _ (fun s' h' => ?_) ?_ | with_reducible refine low_refuseIf _ _ _ (fun s' h' => ?_) _ ?_ | with_reducible refine low_receive _ _ _ _ (fun s' h' => ?_) ?_ | with_reducible refine low_foldl _ (fun s' a h' => ?_) _ _ ?_ | with_reducible apply low_clockBack | split | (simp [*]; done) | (simp [*])))))

theorem low_execXo24QualifyTimeout (s : State) (hlow : low s.bly.phase) : ∀ t, (execXo24QualifyTimeout s) = .next t → low t.bly.phase := by
  intro t ht; simp only [execXo24QualifyTimeout] at ht; (repeat' split at ht) <;> (simp only [Host.Outcome.next.injEq, reduceCtorEq] at ht) <;> (try subst ht) <;> (iterate 14 (all_goals (try (first | with_reducible assumption | with_reducible refine low_serve _ _ _ _ _ (fun s' h' => ?_) ?_ | with_reducible refine low_refuseIf _ _ _ (fun s' h' => ?_) _ ?_ | with_reducible refine low_receive _ _ _ _ (fun s' h' => ?_) ?_ | with_reducible refine low_foldl _ (fun s' a h' => ?_) _ _ ?_ | with_reducible apply low_lookBelay | split | (simp [*]; done) | (simp [*])))))

theorem low_haltCompute (s : State) (hlow : low s.bly.phase) : low (haltCompute s).bly.phase := by
  simp only [haltCompute]; (iterate 14 (all_goals (try (first | with_reducible assumption | with_reducible refine low_serve _ _ _ _ _ (fun s' h' => ?_) ?_ | with_reducible refine low_refuseIf _ _ _ (fun s' h' => ?_) _ ?_ | with_reducible refine low_receive _ _ _ _ (fun s' h' => ?_) ?_ | with_reducible refine low_foldl _ (fun s' a h' => ?_) _ _ ?_ | with_reducible apply low_carryOn | split | (simp [*]; done) | (simp [*])))))

theorem low_execXo24Stopped (s : State) (hlow : low s.bly.phase) : ∀ t, (execXo24Stopped s) = .next t → low t.bly.phase := by
  intro t ht; simp only [execXo24Stopped] at ht; (repeat' split at ht) <;> (simp only [Host.Outcome.next.injEq, reduceCtorEq] at ht) <;> (try subst ht) <;> (iterate 14 (all_goals (try (first | with_reducible assumption | with_reducible refine low_serve _ _ _ _ _ (fun s' h' => ?_) ?_ | with_reducible refine low_refuseIf _ _ _ (fun s' h' => ?_) _ ?_ | with_reducible refine low_receive _ _ _ _ (fun s' h' => ?_) ?_ | with_reducible refine low_foldl _ (fun s' a h' => ?_) _ _ ?_ | with_reducible apply low_haltCompute | with_reducible apply low_portLost | split | (simp [*]; done) | (simp [*])))))

theorem low_execPllLocked (pll : BitVec 2) (s : State) (hlow : low s.bly.phase) : ∀ t, (execPllLocked pll s) = .next t → low t.bly.phase := by
  intro t ht; simp only [execPllLocked] at ht; (repeat' split at ht) <;> (simp only [Host.Outcome.next.injEq, reduceCtorEq] at ht) <;> (try subst ht) <;> (iterate 14 (all_goals (try (first | with_reducible assumption | with_reducible refine low_serve _ _ _ _ _ (fun s' h' => ?_) ?_ | with_reducible refine low_refuseIf _ _ _ (fun s' h' => ?_) _ ?_ | with_reducible refine low_receive _ _ _ _ (fun s' h' => ?_) ?_ | with_reducible refine low_foldl _ (fun s' a h' => ?_) _ _ ?_ | with_reducible apply low_clockBack | split | (simp [*]; done) | (simp [*])))))

theorem low_execPllLockLoss (pll : BitVec 2) (s : State) (hlow : low s.bly.phase) : ∀ t, (execPllLockLoss pll s) = .next t → low t.bly.phase := by
  intro t ht; simp only [execPllLockLoss] at ht; (repeat' split at ht) <;> (simp only [Host.Outcome.next.injEq, reduceCtorEq] at ht) <;> (try subst ht) <;> (iterate 14 (all_goals (try (first | with_reducible assumption | with_reducible refine low_serve _ _ _ _ _ (fun s' h' => ?_) ?_ | with_reducible refine low_refuseIf _ _ _ (fun s' h' => ?_) _ ?_ | with_reducible refine low_receive _ _ _ _ (fun s' h' => ?_) ?_ | with_reducible refine low_foldl _ (fun s' a h' => ?_) _ _ ?_ | with_reducible apply low_haltCompute | with_reducible apply low_lookBelay | with_reducible apply low_portLost | split | (simp [*]; done) | (simp [*])))))

theorem low_domainLost (n : Nat) (s : State) (hlow : low s.bly.phase) : low (domainLost n s).bly.phase := by
  simp only [domainLost]; (iterate 14 (all_goals (try (first | with_reducible assumption | with_reducible refine low_serve _ _ _ _ _ (fun s' h' => ?_) ?_ | with_reducible refine low_refuseIf _ _ _ (fun s' h' => ?_) _ ?_ | with_reducible refine low_receive _ _ _ _ (fun s' h' => ?_) ?_ | with_reducible refine low_foldl _ (fun s' a h' => ?_) _ _ ?_ | with_reducible apply low_followCoast | split | (simp [*]; done) | (simp [*])))))

theorem low_execDomainSwitchDone (us va30 : Nat) (milli : Int) (s : State) (hlow : low s.bly.phase) : ∀ t, (execDomainSwitchDone us va30 milli s) = .next t → low t.bly.phase := by
  intro t ht; simp only [execDomainSwitchDone] at ht; (repeat' split at ht) <;> (simp only [Host.Outcome.next.injEq, reduceCtorEq] at ht) <;> (try subst ht) <;> (iterate 14 (all_goals (try (first | with_reducible assumption | with_reducible refine low_serve _ _ _ _ _ (fun s' h' => ?_) ?_ | with_reducible refine low_refuseIf _ _ _ (fun s' h' => ?_) _ ?_ | with_reducible refine low_receive _ _ _ _ (fun s' h' => ?_) ?_ | with_reducible refine low_foldl _ (fun s' a h' => ?_) _ _ ?_ | with_reducible apply low_domainLost | split | (simp [*]; done) | (simp [*])))))

theorem low_goToSleep (e : SleepEntry) (us : Nat) (s : State) (hlow : low s.bly.phase) : low (goToSleep e us s).bly.phase := by
  simp only [goToSleep]; (iterate 14 (all_goals (try (first | with_reducible assumption | with_reducible refine low_serve _ _ _ _ _ (fun s' h' => ?_) ?_ | with_reducible refine low_refuseIf _ _ _ (fun s' h' => ?_) _ ?_ | with_reducible refine low_receive _ _ _ _ (fun s' h' => ?_) ?_ | with_reducible refine low_foldl _ (fun s' a h' => ?_) _ _ ?_ | with_reducible apply low_domainLost | split | (simp [*]; done) | (simp [*])))))

theorem low_execSleepEntryComplete (us : Nat) (s : State) (hlow : low s.bly.phase) : ∀ t, (execSleepEntryComplete us s) = .next t → low t.bly.phase := by
  intro t ht; simp only [execSleepEntryComplete] at ht; (repeat' split at ht) <;> (simp only [Host.Outcome.next.injEq, reduceCtorEq] at ht) <;> (try subst ht) <;> (iterate 14 (all_goals (try (first | with_reducible assumption | with_reducible refine low_serve _ _ _ _ _ (fun s' h' => ?_) ?_ | with_reducible refine low_refuseIf _ _ _ (fun s' h' => ?_) _ ?_ | with_reducible refine low_receive _ _ _ _ (fun s' h' => ?_) ?_ | with_reducible refine low_foldl _ (fun s' a h' => ?_) _ _ ?_ | with_reducible apply low_goToSleep | split | (simp [*]; done) | (simp [*])))))

theorem low_execWakeComplete (s : State) (hlow : low s.bly.phase) : ∀ t, (execWakeComplete s) = .next t → low t.bly.phase := by
  intro t ht; simp only [execWakeComplete] at ht; (repeat' split at ht) <;> (simp only [Host.Outcome.next.injEq, reduceCtorEq] at ht) <;> (try subst ht) <;> (iterate 14 (all_goals (try (first | with_reducible assumption | with_reducible refine low_serve _ _ _ _ _ (fun s' h' => ?_) ?_ | with_reducible refine low_refuseIf _ _ _ (fun s' h' => ?_) _ ?_ | with_reducible refine low_receive _ _ _ _ (fun s' h' => ?_) ?_ | with_reducible refine low_foldl _ (fun s' a h' => ?_) _ _ ?_ | with_reducible apply low_lookBelay | split | (simp [*]; done) | (simp [*])))))

theorem low_enterTrip (s : State) (hlow : low s.bly.phase) : low (enterTrip s).bly.phase := by
  simp only [enterTrip]; (iterate 14 (all_goals (try (first | with_reducible assumption | with_reducible refine low_serve _ _ _ _ _ (fun s' h' => ?_) ?_ | with_reducible refine low_refuseIf _ _ _ (fun s' h' => ?_) _ ?_ | with_reducible refine low_receive _ _ _ _ (fun s' h' => ?_) ?_ | with_reducible refine low_foldl _ (fun s' a h' => ?_) _ _ ?_ | with_reducible apply low_carryOn | split | (simp [*]; done) | (simp [*])))))

theorem low_changeThermal (prev : ThermalState) (s : State) (hlow : low s.bly.phase) : low (changeThermal prev s).bly.phase := by
  simp only [changeThermal]; (iterate 14 (all_goals (try (first | with_reducible assumption | with_reducible refine low_serve _ _ _ _ _ (fun s' h' => ?_) ?_ | with_reducible refine low_refuseIf _ _ _ (fun s' h' => ?_) _ ?_ | with_reducible refine low_receive _ _ _ _ (fun s' h' => ?_) ?_ | with_reducible refine low_foldl _ (fun s' a h' => ?_) _ _ ?_ | with_reducible apply low_enterTrip | split | (simp [*]; done) | (simp [*])))))

theorem low_thermalShutdown (q : Int) (s : State) (hlow : low s.bly.phase) : low (thermalShutdown q s).bly.phase := by
  simp only [thermalShutdown]; (iterate 14 (all_goals (try (first | with_reducible assumption | with_reducible refine low_serve _ _ _ _ _ (fun s' h' => ?_) ?_ | with_reducible refine low_refuseIf _ _ _ (fun s' h' => ?_) _ ?_ | with_reducible refine low_receive _ _ _ _ (fun s' h' => ?_) ?_ | with_reducible refine low_foldl _ (fun s' a h' => ?_) _ _ ?_ | with_reducible apply low_beginReset | split | (simp [*]; done) | (simp [*])))))

theorem low_execGovernorSample (cores : Vector Int 8) (engine anchor : Int) (s : State) (hlow : low s.bly.phase) : ∀ t, (execGovernorSample cores engine anchor s) = .next t → low t.bly.phase := by
  intro t ht; simp only [execGovernorSample] at ht; (repeat' split at ht) <;> (simp only [Host.Outcome.next.injEq, reduceCtorEq] at ht) <;> (try subst ht) <;> (iterate 14 (all_goals (try (first | with_reducible assumption | with_reducible refine low_serve _ _ _ _ _ (fun s' h' => ?_) ?_ | with_reducible refine low_refuseIf _ _ _ (fun s' h' => ?_) _ ?_ | with_reducible refine low_receive _ _ _ _ (fun s' h' => ?_) ?_ | with_reducible refine low_foldl _ (fun s' a h' => ?_) _ _ ?_ | with_reducible apply low_thermalShutdown | with_reducible apply low_changeThermal | split | (simp [*]; done) | (simp [*])))))

theorem low_execAnchorTempSample (anchor : Int) (s : State) (hlow : low s.bly.phase) : ∀ t, (execAnchorTempSample anchor s) = .next t → low t.bly.phase := by
  intro t ht; simp only [execAnchorTempSample] at ht; (repeat' split at ht) <;> (simp only [Host.Outcome.next.injEq, reduceCtorEq] at ht) <;> (try subst ht) <;> (iterate 14 (all_goals (try (first | with_reducible assumption | with_reducible refine low_serve _ _ _ _ _ (fun s' h' => ?_) ?_ | with_reducible refine low_refuseIf _ _ _ (fun s' h' => ?_) _ ?_ | with_reducible refine low_receive _ _ _ _ (fun s' h' => ?_) ?_ | with_reducible refine low_foldl _ (fun s' a h' => ?_) _ _ ?_ | with_reducible apply low_thermalShutdown | split | (simp [*]; done) | (simp [*])))))

theorem low_replyGone (r : Reply) (s : State) (hlow : low s.bly.phase) : low (replyGone r s).bly.phase := by
  simp only [replyGone]; (iterate 14 (all_goals (try (first | with_reducible assumption | with_reducible refine low_serve _ _ _ _ _ (fun s' h' => ?_) ?_ | with_reducible refine low_refuseIf _ _ _ (fun s' h' => ?_) _ ?_ | with_reducible refine low_receive _ _ _ _ (fun s' h' => ?_) ?_ | with_reducible refine low_foldl _ (fun s' a h' => ?_) _ _ ?_ | with_reducible apply low_scheduledReset | split | (simp [*]; done) | (simp [*])))))

theorem low_replyLeft (r : Reply) (rest : Option Reply) (s : State) (hlow : low s.bly.phase) : low (replyLeft r rest s).bly.phase := by
  simp only [replyLeft]; (iterate 14 (all_goals (try (first | with_reducible assumption | with_reducible refine low_serve _ _ _ _ _ (fun s' h' => ?_) ?_ | with_reducible refine low_refuseIf _ _ _ (fun s' h' => ?_) _ ?_ | with_reducible refine low_receive _ _ _ _ (fun s' h' => ?_) ?_ | with_reducible refine low_foldl _ (fun s' a h' => ?_) _ _ ?_ | with_reducible apply low_replyGone | split | (simp [*]; done) | (simp [*])))))

theorem low_leave (o : Outbound) (s : State) (hlow : low s.bly.phase) : low (leave o s).2.bly.phase := by
  simp only [leave]; (iterate 14 (all_goals (try (first | with_reducible assumption | with_reducible refine low_serve _ _ _ _ _ (fun s' h' => ?_) ?_ | with_reducible refine low_refuseIf _ _ _ (fun s' h' => ?_) _ ?_ | with_reducible refine low_receive _ _ _ _ (fun s' h' => ?_) ?_ | with_reducible refine low_foldl _ (fun s' a h' => ?_) _ _ ?_ | with_reducible apply low_replyLeft | split | (simp [*]; done) | (simp [*])))))

theorem low_pullPacket (via : Transport) (clocked : Nat) (s : State) (hlow : low s.bly.phase) : low (pullPacket via clocked s).bly.phase := by
  simp only [pullPacket]; (iterate 14 (all_goals (try (first | with_reducible assumption | with_reducible refine low_serve _ _ _ _ _ (fun s' h' => ?_) ?_ | with_reducible refine low_refuseIf _ _ _ (fun s' h' => ?_) _ ?_ | with_reducible refine low_receive _ _ _ _ (fun s' h' => ?_) ?_ | with_reducible refine low_foldl _ (fun s' a h' => ?_) _ _ ?_ | with_reducible apply low_leave | split | (simp [*]; done) | (simp [*])))))

theorem low_cmdAbort (h : Hdr) (p : Bytes) (s : State) (hlow : low s.bly.phase) : low (cmdAbort h p s).bly.phase := by
  simp only [cmdAbort]; (iterate 14 (all_goals (try (first | with_reducible assumption | with_reducible refine low_serve _ _ _ _ _ (fun s' h' => ?_) ?_ | with_reducible refine low_refuseIf _ _ _ (fun s' h' => ?_) _ ?_ | with_reducible refine low_receive _ _ _ _ (fun s' h' => ?_) ?_ | with_reducible refine low_foldl _ (fun s' a h' => ?_) _ _ ?_ | with_reducible apply low_stopCommand | split | (simp [*]; done) | (simp [*])))))

theorem low_device (opcode : Nat) (h : Hdr) (p : Bytes) (s : State) (hlow : low s.bly.phase) : low (device opcode h p s).bly.phase := by
  simp only [device]; (iterate 14 (all_goals (try (first | with_reducible assumption | with_reducible refine low_serve _ _ _ _ _ (fun s' h' => ?_) ?_ | with_reducible refine low_refuseIf _ _ _ (fun s' h' => ?_) _ ?_ | with_reducible refine low_receive _ _ _ _ (fun s' h' => ?_) ?_ | with_reducible refine low_foldl _ (fun s' a h' => ?_) _ _ ?_ | with_reducible apply low_cmdAbort | split | (simp [*]; done) | (simp [*])))))

theorem low_models (opcode : Nat) (h : Hdr) (p : Bytes) (s : State) (hlow : low s.bly.phase) : low (models opcode h p s).bly.phase := by
  simp only [models]; (iterate 14 (all_goals (try (first | with_reducible assumption | with_reducible refine low_serve _ _ _ _ _ (fun s' h' => ?_) ?_ | with_reducible refine low_refuseIf _ _ _ (fun s' h' => ?_) _ ?_ | with_reducible refine low_receive _ _ _ _ (fun s' h' => ?_) ?_ | with_reducible refine low_foldl _ (fun s' a h' => ?_) _ _ ?_ | with_reducible apply low_cmdModelLoadAbandon | with_reducible apply low_cmdModelLoadBegin | with_reducible apply low_cmdModelStart | with_reducible apply low_cmdModelStop | with_reducible apply low_cmdModelPlaceRidge | with_reducible apply low_cmdModelPlace | with_reducible apply low_cmdModelReplace | with_reducible apply low_cmdModelUnload | with_reducible apply low_cmdHeadConsolidate | split | (simp [*]; done) | (simp [*])))))

theorem fallen_outputs (opcode : Nat) (h : Hdr) (p : Bytes) (s : State) (hlow : fallen s.bly.phase) : low (outputs opcode h p s).bly.phase := by
  have hl := fallen_low hlow
  simp only [outputs]; (iterate 14 (all_goals (try (first | with_reducible assumption | with_reducible refine low_serve _ _ _ _ _ (fun s' h' => ?_) ?_ | with_reducible refine low_refuseIf _ _ _ (fun s' h' => ?_) _ ?_ | with_reducible refine low_receive _ _ _ _ (fun s' h' => ?_) ?_ | with_reducible refine low_foldl _ (fun s' a h' => ?_) _ _ ?_ | with_reducible apply low_cmdAlarmSetHost | with_reducible apply fallen_cmdBelayArm | with_reducible apply low_cmdRopeDetach | with_reducible apply low_cmdAlarmAcknowledge | with_reducible apply low_cmdAlarmClearHost | with_reducible apply low_cmdRopeEnumerate | with_reducible apply low_cmdAlarmSetMask | with_reducible apply low_cmdBelayAbortHold | with_reducible apply low_cmdBelayDeclareStop | with_reducible apply low_cmdBelayConfig | with_reducible apply low_cmdBelayDisarm | with_reducible apply low_cmdHoutMap | with_reducible apply low_cmdBelayTrip | with_reducible apply low_cmdBelayRearm | split | (simp [*]; done) | (simp [*])))))

theorem low_security (opcode : Nat) (h : Hdr) (p : Bytes) (s : State) (hlow : low s.bly.phase) : low (security opcode h p s).bly.phase := by
  simp only [security]; (iterate 14 (all_goals (try (first | with_reducible assumption | with_reducible refine low_serve _ _ _ _ _ (fun s' h' => ?_) ?_ | with_reducible refine low_refuseIf _ _ _ (fun s' h' => ?_) _ ?_ | with_reducible refine low_receive _ _ _ _ (fun s' h' => ?_) ?_ | with_reducible refine low_foldl _ (fun s' a h' => ?_) _ _ ?_ | with_reducible apply low_cmdCoreFence | split | (simp [*]; done) | (simp [*])))))

theorem fallen_command (opcode : Byte) (h : Hdr) (p : Bytes) (s : State) (hlow : fallen s.bly.phase) : low (command opcode h p s).bly.phase := by
  have hl := fallen_low hlow
  simp only [command]; (iterate 14 (all_goals (try (first | with_reducible assumption | with_reducible refine low_serve _ _ _ _ _ (fun s' h' => ?_) ?_ | with_reducible refine low_refuseIf _ _ _ (fun s' h' => ?_) _ ?_ | with_reducible refine low_receive _ _ _ _ (fun s' h' => ?_) ?_ | with_reducible refine low_foldl _ (fun s' a h' => ?_) _ _ ?_ | with_reducible apply low_security | with_reducible apply low_models | with_reducible apply fallen_outputs | with_reducible apply low_device | split | (simp [*]; done) | (simp [*])))))

theorem fallen_runWhole (opcode : Byte) (h : Hdr) (p : Bytes) (s : State) (hlow : fallen s.bly.phase) : low (runWhole opcode h p s).bly.phase := by
  have hl := fallen_low hlow
  simp only [runWhole]; (iterate 14 (all_goals (try (first | with_reducible assumption | with_reducible refine low_serve _ _ _ _ _ (fun s' h' => ?_) ?_ | with_reducible refine low_refuseIf _ _ _ (fun s' h' => ?_) _ ?_ | with_reducible refine low_receive _ _ _ _ (fun s' h' => ?_) ?_ | with_reducible refine low_foldl _ (fun s' a h' => ?_) _ _ ?_ | with_reducible apply fallen_command | split | (simp [*]; done) | (simp [*])))))

theorem fallen_continueMessage (c : Slot) (opcode : Byte) (more : Bool) (h : Hdr) (p : Bytes) (s : State) (hlow : fallen s.bly.phase) : low (continueMessage c opcode more h p s).bly.phase := by
  have hl := fallen_low hlow
  simp only [continueMessage]; (iterate 14 (all_goals (try (first | with_reducible assumption | with_reducible refine low_serve _ _ _ _ _ (fun s' h' => ?_) ?_ | with_reducible refine low_refuseIf _ _ _ (fun s' h' => ?_) _ ?_ | with_reducible refine low_receive _ _ _ _ (fun s' h' => ?_) ?_ | with_reducible refine low_foldl _ (fun s' a h' => ?_) _ _ ?_ | with_reducible apply fallen_runWhole | split | (simp [*]; done) | (simp [*])))))

theorem fallen_beginMessage (opcode : Byte) (more : Bool) (h : Hdr) (p : Bytes) (s : State) (hlow : fallen s.bly.phase) : low (beginMessage opcode more h p s).bly.phase := by
  have hl := fallen_low hlow
  simp only [beginMessage]; (iterate 14 (all_goals (try (first | with_reducible assumption | with_reducible refine low_serve _ _ _ _ _ (fun s' h' => ?_) ?_ | with_reducible refine low_refuseIf _ _ _ (fun s' h' => ?_) _ ?_ | with_reducible refine low_receive _ _ _ _ (fun s' h' => ?_) ?_ | with_reducible refine low_foldl _ (fun s' a h' => ?_) _ _ ?_ | with_reducible apply fallen_runWhole | split | (simp [*]; done) | (simp [*])))))

theorem fallen_admitPacket (reject : Notice → State → State) (via : Transport) (space : Nat) (b : Bytes) (s : State) (h_reject : ∀ a0 a1, low a1.bly.phase → low (reject a0 a1).bly.phase) (hlow : fallen s.bly.phase) : low (admitPacket reject via space b s).bly.phase := by
  have hl := fallen_low hlow
  simp only [admitPacket]; (iterate 14 (all_goals (try (first | with_reducible assumption | with_reducible refine low_serve _ _ _ _ _ (fun s' h' => ?_) ?_ | with_reducible refine low_refuseIf _ _ _ (fun s' h' => ?_) _ ?_ | with_reducible refine low_receive _ _ _ _ (fun s' h' => ?_) ?_ | with_reducible refine low_foldl _ (fun s' a h' => ?_) _ _ ?_ | with_reducible apply fallen_beginMessage | with_reducible apply fallen_continueMessage | split | (simp [*]; done) | (simp [*])))))

theorem fallen_pushPacket (via : Transport) (held : Nat) (b : Bytes) (s : State) (hlow : fallen s.bly.phase) : low (pushPacket via held b s).bly.phase := by
  have hl := fallen_low hlow
  simp only [pushPacket]; (iterate 14 (all_goals (try (first | with_reducible assumption | with_reducible refine low_serve _ _ _ _ _ (fun s' h' => ?_) ?_ | with_reducible refine low_refuseIf _ _ _ (fun s' h' => ?_) _ ?_ | with_reducible refine low_receive _ _ _ _ (fun s' h' => ?_) ?_ | with_reducible refine low_foldl _ (fun s' a h' => ?_) _ _ ?_ | with_reducible apply fallen_admitPacket | split | (simp [*]; done) | (simp [*])))))

theorem low_sendRelayed (r : Reply) (s : State) (hlow : low s.bly.phase) : low (sendRelayed r s).bly.phase := by
  simp only [sendRelayed]; (iterate 14 (all_goals (try (first | with_reducible assumption | with_reducible refine low_serve _ _ _ _ _ (fun s' h' => ?_) ?_ | with_reducible refine low_refuseIf _ _ _ (fun s' h' => ?_) _ ?_ | with_reducible refine low_receive _ _ _ _ (fun s' h' => ?_) ?_ | with_reducible refine low_foldl _ (fun s' a h' => ?_) _ _ ?_ | with_reducible apply low_replyGone | split | (simp [*]; done) | (simp [*])))))

theorem low_flushRelayed (s : State) (hlow : low s.bly.phase) : low (flushRelayed s).bly.phase := by
  simp only [flushRelayed]; (iterate 14 (all_goals (try (first | with_reducible assumption | with_reducible refine low_serve _ _ _ _ _ (fun s' h' => ?_) ?_ | with_reducible refine low_refuseIf _ _ _ (fun s' h' => ?_) _ ?_ | with_reducible refine low_receive _ _ _ _ (fun s' h' => ?_) ?_ | with_reducible refine low_foldl _ (fun s' a h' => ?_) _ _ ?_ | with_reducible apply low_sendRelayed | split | (simp [*]; done) | (simp [*])))))

theorem fallen_takeRelayed (src : Byte) (id : BitVec 16) (b : Bytes) (s : State) (hlow : fallen s.bly.phase) : low (takeRelayed src id b s).bly.phase := by
  have hl := fallen_low hlow
  simp only [takeRelayed]; (iterate 14 (all_goals (try (first | with_reducible assumption | with_reducible refine low_serve _ _ _ _ _ (fun s' h' => ?_) ?_ | with_reducible refine low_refuseIf _ _ _ (fun s' h' => ?_) _ ?_ | with_reducible refine low_receive _ _ _ _ (fun s' h' => ?_) ?_ | with_reducible refine low_foldl _ (fun s' a h' => ?_) _ _ ?_ | with_reducible apply fallen_admitPacket | with_reducible apply low_flushRelayed | split | (simp [*]; done) | (simp [*])))))

theorem fallen_relayArrived (src : Byte) (id : BitVec 16) (more : Bool) (b : Bytes) (s : State) (hlow : fallen s.bly.phase) : low (relayArrived src id more b s).bly.phase := by
  have hl := fallen_low hlow
  simp only [relayArrived]; (iterate 14 (all_goals (try (first | with_reducible assumption | with_reducible refine low_serve _ _ _ _ _ (fun s' h' => ?_) ?_ | with_reducible refine low_refuseIf _ _ _ (fun s' h' => ?_) _ ?_ | with_reducible refine low_receive _ _ _ _ (fun s' h' => ?_) ?_ | with_reducible refine low_foldl _ (fun s' a h' => ?_) _ _ ?_ | with_reducible apply fallen_takeRelayed | split | (simp [*]; done) | (simp [*])))))

theorem fallen_execPush (via : Transport) (held : Nat) (b : Bytes) (s : State) (hlow : fallen s.bly.phase) : ∀ t, (execPush via held b s) = .next t → low t.bly.phase := by
  exact fun _ e => Host.Outcome.next.inj e ▸ fallen_pushPacket via held b s hlow

theorem fallen_execQpush (held : Nat) (b : Bytes) (s : State) (hlow : fallen s.bly.phase) : ∀ t, (execQpush held b s) = .next t → low t.bly.phase := by
  have hl := fallen_low hlow
  intro t ht; simp only [execQpush] at ht; (repeat' split at ht) <;> (simp only [Host.Outcome.next.injEq, reduceCtorEq] at ht) <;> (try subst ht) <;> (iterate 14 (all_goals (try (first | with_reducible assumption | with_reducible refine low_serve _ _ _ _ _ (fun s' h' => ?_) ?_ | with_reducible refine low_refuseIf _ _ _ (fun s' h' => ?_) _ ?_ | with_reducible refine low_receive _ _ _ _ (fun s' h' => ?_) ?_ | with_reducible refine low_foldl _ (fun s' a h' => ?_) _ _ ?_ | with_reducible apply fallen_pushPacket | split | (simp [*]; done) | (simp [*])))))

theorem low_execPull (via : Transport) (clocked : Nat) (s : State) (hlow : low s.bly.phase) : ∀ t, (execPull via clocked s) = .next t → low t.bly.phase := by
  exact fun _ e => Host.Outcome.next.inj e ▸ low_pullPacket via clocked s hlow

theorem low_execQpull (clocked : Nat) (s : State) (hlow : low s.bly.phase) : ∀ t, (execQpull clocked s) = .next t → low t.bly.phase := by
  intro t ht; simp only [execQpull] at ht; (repeat' split at ht) <;> (simp only [Host.Outcome.next.injEq, reduceCtorEq] at ht) <;> (try subst ht) <;> (iterate 14 (all_goals (try (first | with_reducible assumption | with_reducible refine low_serve _ _ _ _ _ (fun s' h' => ?_) ?_ | with_reducible refine low_refuseIf _ _ _ (fun s' h' => ?_) _ ?_ | with_reducible refine low_receive _ _ _ _ (fun s' h' => ?_) ?_ | with_reducible refine low_foldl _ (fun s' a h' => ?_) _ _ ?_ | with_reducible apply low_pullPacket | split | (simp [*]; done) | (simp [*])))))

theorem low_execAbort (h : Hdr) (p : Bytes) (s : State) (hlow : low s.bly.phase) : ∀ t, (execAbort h p s) = .next t → low t.bly.phase := by
  exact fun _ e => Host.Outcome.next.inj e ▸ low_cmdAbort h p s hlow

theorem fallen_execCmd (r : RopeRx) (relay : BitVec 16) (reply more : Bool) (payload : Bytes) (s : State) (hlow : fallen s.bly.phase) :
    ∀ t, execCmd r relay reply more payload s = .next t → low t.bly.phase := by
  intro t ht
  simp only [execCmd, Host.Outcome.next.injEq] at ht
  subst ht
  refine fallen_receive _ _ _ _ (fun a ha => ?_) (fallen_low hlow)
  split
  · simpa [ha] using fallen_low hlow
  · exact fallen_relayArrived _ _ _ _ _ (by rw [ha]; exact hlow)


end Sys2Proof.Machine
end

