-- ==== Sys2Proof/Laws/Lasting.lean ====
section
/-! SUPPORT. What every operation and every meaning leaves of what lasts: the queue of commands, what the NVM's pages hold, the
record's next sequence number and the tick counter. -/

set_option linter.all false

namespace Sys2Proof.Machine
/-- The queue of commands, the record's next sequence number, what the NVM holds, and the tick counter. -/
def State.lasting (s : State) : List Instr × Word32 × List PageInfo × BitVec 48 :=
  (s.pending, s.cairn.nextSeq, s.nvm.pages, s.clk.tick)
@[simp] theorem lasting_mk (link clk pwr thm pins boot nvm cairn afe stm feat own bly mdl lrn rope free pending) :
    (State.mk link clk pwr thm pins boot nvm cairn afe stm feat own bly mdl lrn rope free pending).lasting
      = (pending, cairn.nextSeq, nvm.pages, clk.tick) := rfl
@[simp] theorem lasting_fold (s : State) : (s.pending, s.cairn.nextSeq, s.nvm.pages, s.clk.tick) = s.lasting := rfl
@[simp] theorem lasting_onClk_def (f : ClockState → ClockState) (s : State) : onClk f s = { s with clk := f s.clk } := rfl
@[simp] theorem lasting_onCairn_def (f : CairnState → CairnState) (s : State) : onCairn f s = { s with cairn := f s.cairn } := rfl
@[simp] theorem lasting_ite_lasting (c : Prop) [Decidable c] (a b : State) : (if c then a else b).lasting = if c then a.lasting else b.lasting := by split <;> rfl
@[simp] theorem lasting_foldl {α : Type} (f : State → α → State) (h : ∀ s a, (f s a).lasting = s.lasting) (l : List α) (s : State) : (l.foldl f s).lasting = s.lasting := by
  induction l generalizing s with
  | nil => rfl
  | cons a l ih => simp [List.foldl, ih, h]

@[simp] theorem lasting_drawFree (s : State) : (drawFree s).2.lasting = s.lasting := by
  simp [drawFree]

@[simp] theorem lasting_State_mapLink (s : State) (f : LinkState → LinkState) : (State.mapLink s f).lasting = s.lasting := by
  simp [State.mapLink]

@[simp] theorem lasting_noteHigh (q n : Nat) (s : State) : (noteHigh q n s).lasting = s.lasting := by
  simp [noteHigh]

@[simp] theorem lasting_raiseAt (time : Word64) (code : Byte) (high : Bool) (owner : Option (BitVec 2)) (body : Bytes) (s : State) : (raiseAt time code high owner body s).lasting = s.lasting := by
  simp [raiseAt]

@[simp] theorem lasting_raise (code : Byte) (high : Bool) (body : Bytes) (s : State) : (raise code high body s).lasting = s.lasting := by
  simp [raise]

@[simp] theorem lasting_raiseOwned (owner : BitVec 2) (code : Byte) (high : Bool) (body : Bytes) (s : State) : (raiseOwned owner code high body s).lasting = s.lasting := by
  simp [raiseOwned]

@[simp] theorem lasting_eventsLost (s : State) : (eventsLost s).lasting = s.lasting := by
  simp [eventsLost]

@[simp] theorem lasting_onSlot (tag : Tag) (f : Slot → Slot) (s : State) : (onSlot tag f s).lasting = s.lasting := by
  simp [onSlot]

@[simp] theorem lasting_commitMark (tag : Tag) (s : State) : (commitMark tag s).lasting = s.lasting := by
  simp [commitMark]

@[simp] theorem lasting_finish (tag : Tag) (status : Byte) (payload : Bytes) (s : State) : (finish tag status payload s).lasting = s.lasting := by
  unfold finish; (repeat' split) <;> (first | with_reducible rfl | (simp; done))

@[simp] theorem lasting_finishAll (tags : List Tag) (status : Byte) (s : State) : (finishAll tags status s).lasting = s.lasting := by
  simp [finishAll]

@[simp] theorem lasting_started (tag : Tag) (s : State) : (started tag s).lasting = s.lasting := by
  unfold started; (repeat' split) <;> (first | with_reducible rfl | (simp; done))

@[simp] theorem lasting_doneWith (h : Hdr) (payload : Bytes) (s : State) : (doneWith h payload s).lasting = s.lasting := by
  simp [doneWith]

@[simp] theorem lasting_notice (n : Notice) (s : State) : (notice n s).lasting = s.lasting := by
  simp [notice]

@[simp] theorem lasting_endSession (slot : Nat) (reason : Byte) (s : State) : (endSession slot reason s).lasting = s.lasting := by
  simp [endSession]

@[simp] theorem lasting_setDomain (n : Nat) (v : Bool) (s : State) : (setDomain n v s).lasting = s.lasting := by
  simp [setDomain]

@[simp] theorem lasting_wantDomain (n : Nat) (v : Bool) (s : State) : (wantDomain n v s).lasting = s.lasting := by
  simp [wantDomain]

@[simp] theorem lasting_countBubble (us : Nat) (s : State) : (countBubble us s).lasting = s.lasting := by
  simp [countBubble]

@[simp] theorem lasting_cairnPut (e : CairnEntry) (s : State) : (cairnPut e s).lasting = s.lasting := by
  simp [cairnPut]

@[simp] theorem lasting_cairn (type source : BitVec 16) (payload : Bytes) (s : State) : (cairn type source payload s).lasting = s.lasting := by
  simp [cairn]

@[simp] theorem lasting_nvmRefill (s : State) : (nvmRefill s).lasting = s.lasting := by
  simp [nvmRefill]

@[simp] theorem lasting_postNvm (ops : List NvmOp) (s : State) : (postNvm ops s).lasting = s.lasting := by
  simp [postNvm]

@[simp] theorem lasting_cancelNvm (tag : Tag) (s : State) : (cancelNvm tag s).lasting = s.lasting := by
  simp [cancelNvm]

@[simp] theorem lasting_postRecord (k : RecordKind) (content : Bytes) (tag : Option Tag) (bootPath : Bool) (s : State) : (postRecord k content tag bootPath s).lasting = s.lasting := by
  simp [postRecord]

@[simp] theorem lasting_countUnwritten (m : Memory) (lines : Nat) (s : State) : (countUnwritten m lines s).lasting = s.lasting := by
  simp [countUnwritten]

@[simp] theorem lasting_nvmFault (kind : Byte) (page : Nat) (s : State) : (nvmFault kind page s).lasting = s.lasting := by
  simp [nvmFault]

@[simp] theorem lasting_countSeal (s : State) : (countSeal s).lasting = s.lasting := by
  simp [countSeal]

@[simp] theorem lasting_readPage (page : Nat) (s : State) : (readPage page s).lasting = s.lasting := by
  unfold readPage; (repeat' split) <;> (first | with_reducible rfl | (simp; done))

@[simp] theorem lasting_readPages (pages : List Nat) (s : State) : (readPages pages s).lasting = s.lasting := by
  simp [readPages]

@[simp] theorem lasting_whenReadable (pages : List Nat) (opcode : Byte) (h : Hdr) (p : Bytes) (body : State → State) (s : State) (h_body : ∀ a0, (body a0).lasting = a0.lasting) : (whenReadable pages opcode h p body s).lasting = s.lasting := by
  simp [whenReadable, h_body]

@[simp] theorem lasting_readRecord (k : RecordKind) (s : State) : ((readRecord k s).2).lasting = s.lasting := by
  have h : ∀ (l : List CommitRecord) (a : Option Bytes × State) (r : CopyRecord), ((l.foldl (fun (a : Option Bytes × State) c => match a.1 with | some _ => a | none => (if r.checks c && readable a.2 (copyPages k c.copy) then some (rd r.copies c.copy) else none, readPages (copyPages k c.copy) a.2)) a).2).lasting = a.2.lasting := by
    intro l a r
    induction l generalizing a with
    | nil => rfl
    | cons c l ih => rw [List.foldl_cons, ih]; split <;> simp
  simp only [readRecord]
  exact (h _ _ _).trans (lasting_readPage _ _)

@[simp] theorem lasting_resumeStreams (s : State) : (resumeStreams s).lasting = s.lasting := by
  simp [resumeStreams]

@[simp] theorem lasting_reloadSlept (s : State) : (reloadSlept s).lasting = s.lasting := by
  simp [reloadSlept]

@[simp] theorem lasting_abandonSleep (cause : Byte) (s : State) : (abandonSleep cause s).lasting = s.lasting := by
  unfold abandonSleep; (repeat' split) <;> (first | with_reducible rfl | (simp; done))

@[simp] theorem lasting_refusePlain (tag : Tag) (status : Byte) (s : State) : (refusePlain tag status s).lasting = s.lasting := by
  simp [refusePlain]

@[simp] theorem lasting_reserve (opcode : Byte) (h : Hdr) (s : State) : (reserve opcode h s).lasting = s.lasting := by
  simp [reserve]

@[simp] theorem lasting_advanceRx (h : Hdr) (s : State) : (advanceRx h s).lasting = s.lasting := by
  simp [advanceRx]

@[simp] theorem lasting_authenticate (opcode : Byte) (h : Hdr) (s : State) : (authenticate opcode h s).1.lasting = s.lasting := by
  unfold authenticate; (repeat' split) <;> (first | with_reducible rfl | (simp; done))

@[simp] theorem lasting_judge (f : Form) (h : Hdr) (p : Bytes) (body : State → State) (s : State) (h_body : ∀ a0, (body a0).lasting = a0.lasting) : (judge f h p body s).lasting = s.lasting := by
  simp [judge, h_body]

@[simp] theorem lasting_bindPort (via : Transport) (s : State) : (bindPort via s).lasting = s.lasting := by
  simp [bindPort]

@[simp] theorem lasting_overrun (s : State) : (overrun s).lasting = s.lasting := by
  simp [overrun]

@[simp] theorem lasting_pass (f : Form) (h : Hdr) (p : Bytes) (body : State → State) (s : State) (h_body : ∀ a0, (body a0).lasting = a0.lasting) : (pass f h p body s).lasting = s.lasting := by
  simp [pass, h_body]

@[simp] theorem lasting_serve (f : Form) (h : Hdr) (p : Bytes) (body : State → State) (s : State) (h_body : ∀ a0, (body a0).lasting = a0.lasting) : (serve f h p body s).lasting = s.lasting := by
  simp [serve, h_body]

@[simp] theorem lasting_refuseIf (tag : Tag) (cs : List (Bool × Byte)) (k : State → State) (hk : ∀ s, (k s).lasting = s.lasting) (s : State) :
    (refuseIf tag cs k s).lasting = s.lasting := by
  induction cs with
  | nil => exact hk s
  | cons c cs ih =>
    obtain ⟨b, st⟩ := c
    cases b
    · exact ih
    · simp [refuseIf]

@[simp] theorem lasting_cmdNop (h : Hdr) (p : Bytes) (s : State) : (cmdNop h p s).lasting = s.lasting := by
  simp [cmdNop]

@[simp] theorem lasting_cmdLinkConfigRead (h : Hdr) (p : Bytes) (s : State) : (cmdLinkConfigRead h p s).lasting = s.lasting := by
  simp [cmdLinkConfigRead]

@[simp] theorem lasting_cmdLinkConfigWrite (h : Hdr) (p : Bytes) (s : State) : (cmdLinkConfigWrite h p s).lasting = s.lasting := by
  simp [cmdLinkConfigWrite]

@[simp] theorem lasting_cmdLinkCounters (h : Hdr) (p : Bytes) (s : State) : (cmdLinkCounters h p s).lasting = s.lasting := by
  simp [cmdLinkCounters]

@[simp] theorem lasting_cmdLinkCountersClear (h : Hdr) (p : Bytes) (s : State) : (cmdLinkCountersClear h p s).lasting = s.lasting := by
  simp [cmdLinkCountersClear]

@[simp] theorem lasting_cmdSessionClose (h : Hdr) (p : Bytes) (s : State) : (cmdSessionClose h p s).lasting = s.lasting := by
  simp [cmdSessionClose]

@[simp] theorem lasting_cmdSessionStatus (h : Hdr) (p : Bytes) (s : State) : (cmdSessionStatus h p s).lasting = s.lasting := by
  simp [cmdSessionStatus]

@[simp] theorem lasting_cmdDevLabelSet (h : Hdr) (p : Bytes) (s : State) : (cmdDevLabelSet h p s).lasting = s.lasting := by
  simp [cmdDevLabelSet]

@[simp] theorem lasting_cmdDevLabelGet (h : Hdr) (p : Bytes) (s : State) : (cmdDevLabelGet h p s).lasting = s.lasting := by
  simp [cmdDevLabelGet]

theorem lasting_execNop (h : Hdr) (p : Bytes) (s : State) : ∀ t, (execNop h p s) = .next t → t.lasting = s.lasting := by
  exact fun _ e => Host.Outcome.next.inj e ▸ lasting_cmdNop h p s

theorem lasting_execLinkConfigRead (h : Hdr) (p : Bytes) (s : State) : ∀ t, (execLinkConfigRead h p s) = .next t → t.lasting = s.lasting := by
  exact fun _ e => Host.Outcome.next.inj e ▸ lasting_cmdLinkConfigRead h p s

theorem lasting_execLinkConfigWrite (h : Hdr) (p : Bytes) (s : State) : ∀ t, (execLinkConfigWrite h p s) = .next t → t.lasting = s.lasting := by
  exact fun _ e => Host.Outcome.next.inj e ▸ lasting_cmdLinkConfigWrite h p s

theorem lasting_execLinkCounters (h : Hdr) (p : Bytes) (s : State) : ∀ t, (execLinkCounters h p s) = .next t → t.lasting = s.lasting := by
  exact fun _ e => Host.Outcome.next.inj e ▸ lasting_cmdLinkCounters h p s

theorem lasting_execLinkCountersClear (h : Hdr) (p : Bytes) (s : State) : ∀ t, (execLinkCountersClear h p s) = .next t → t.lasting = s.lasting := by
  exact fun _ e => Host.Outcome.next.inj e ▸ lasting_cmdLinkCountersClear h p s

theorem lasting_execSessionClose (h : Hdr) (p : Bytes) (s : State) : ∀ t, (execSessionClose h p s) = .next t → t.lasting = s.lasting := by
  exact fun _ e => Host.Outcome.next.inj e ▸ lasting_cmdSessionClose h p s

theorem lasting_execSessionStatus (h : Hdr) (p : Bytes) (s : State) : ∀ t, (execSessionStatus h p s) = .next t → t.lasting = s.lasting := by
  exact fun _ e => Host.Outcome.next.inj e ▸ lasting_cmdSessionStatus h p s

theorem lasting_execDevLabelSet (h : Hdr) (p : Bytes) (s : State) : ∀ t, (execDevLabelSet h p s) = .next t → t.lasting = s.lasting := by
  exact fun _ e => Host.Outcome.next.inj e ▸ lasting_cmdDevLabelSet h p s

theorem lasting_execDevLabelGet (h : Hdr) (p : Bytes) (s : State) : ∀ t, (execDevLabelGet h p s) = .next t → t.lasting = s.lasting := by
  intro t; unfold execDevLabelGet; (try simp only []); (repeat' split) <;> intro h <;> (first | (simp only [Host.Outcome.next.injEq] at h; subst h; first | (simp; done) | (simp_all; done) | (iterate 10 (all_goals (try (first | with_reducible rfl | (refine lasting_serve _ _ _ _ _ (fun s' => ?_)) | (refine (lasting_refuseIf _ _ _ (fun s' => ?_) _).trans ?_) | (refine lasting_receive _ _ _ _ (fun s' => ?_)) | (refine lasting_whenReadable _ _ _ _ _ _ (fun s' => ?_)) | (refine (lasting_foldl _ (fun s' a => ?_) _ _).trans ?_) | split | (simp; done) | (simp_all; done) | simp))))) | (simp at h; done))

theorem lasting_execClearStatus (via : Transport) (mask : Byte) (s : State) : ∀ t, (execClearStatus via mask s) = .next t → t.lasting = s.lasting := by
  intro t; unfold execClearStatus; (try simp only []); (repeat' split) <;> intro h <;> (first | (simp only [Host.Outcome.next.injEq] at h; subst h; first | (simp; done) | (simp_all; done) | (iterate 10 (all_goals (try (first | with_reducible rfl | (refine lasting_serve _ _ _ _ _ (fun s' => ?_)) | (refine (lasting_refuseIf _ _ _ (fun s' => ?_) _).trans ?_) | (refine lasting_receive _ _ _ _ (fun s' => ?_)) | (refine lasting_whenReadable _ _ _ _ _ _ (fun s' => ?_)) | (refine (lasting_foldl _ (fun s' a => ?_) _ _).trans ?_) | split | (simp; done) | (simp_all; done) | simp))))) | (simp at h; done))

theorem lasting_execInvalidTransportOpcode (via : Transport) (op : Byte) (s : State) : ∀ t, (execInvalidTransportOpcode via op s) = .next t → t.lasting = s.lasting := by
  intro t; unfold execInvalidTransportOpcode; (try simp only []); (repeat' split) <;> intro h <;> (first | (simp only [Host.Outcome.next.injEq] at h; subst h; first | (simp; done) | (simp_all; done) | (iterate 10 (all_goals (try (first | with_reducible rfl | (refine lasting_serve _ _ _ _ _ (fun s' => ?_)) | (refine (lasting_refuseIf _ _ _ (fun s' => ?_) _).trans ?_) | (refine lasting_receive _ _ _ _ (fun s' => ?_)) | (refine lasting_whenReadable _ _ _ _ _ _ (fun s' => ?_)) | (refine (lasting_foldl _ (fun s' a => ?_) _ _).trans ?_) | split | (simp; done) | (simp_all; done) | simp))))) | (simp at h; done))

theorem lasting_execFragmentTimeout (tag : Tag) (s : State) : ∀ t, (execFragmentTimeout tag s) = .next t → t.lasting = s.lasting := by
  intro t; unfold execFragmentTimeout; (try simp only []); (repeat' split) <;> intro h <;> (first | (simp only [Host.Outcome.next.injEq] at h; subst h; first | (simp; done) | (simp_all; done) | (iterate 10 (all_goals (try (first | with_reducible rfl | (refine lasting_serve _ _ _ _ _ (fun s' => ?_)) | (refine (lasting_refuseIf _ _ _ (fun s' => ?_) _).trans ?_) | (refine lasting_receive _ _ _ _ (fun s' => ?_)) | (refine lasting_whenReadable _ _ _ _ _ _ (fun s' => ?_)) | (refine (lasting_foldl _ (fun s' a => ?_) _ _).trans ?_) | split | (simp; done) | (simp_all; done) | simp))))) | (simp at h; done))

theorem lasting_execSessionIdleTimeout (slot : BitVec 2) (s : State) : ∀ t, (execSessionIdleTimeout slot s) = .next t → t.lasting = s.lasting := by
  intro t; unfold execSessionIdleTimeout; (try simp only []); (repeat' split) <;> intro h <;> (first | (simp only [Host.Outcome.next.injEq] at h; subst h; first | (simp; done) | (simp_all; done) | (iterate 10 (all_goals (try (first | with_reducible rfl | (refine lasting_serve _ _ _ _ _ (fun s' => ?_)) | (refine (lasting_refuseIf _ _ _ (fun s' => ?_) _).trans ?_) | (refine lasting_receive _ _ _ _ (fun s' => ?_)) | (refine lasting_whenReadable _ _ _ _ _ _ (fun s' => ?_)) | (refine (lasting_foldl _ (fun s' a => ?_) _ _).trans ?_) | split | (simp; done) | (simp_all; done) | simp))))) | (simp at h; done))

@[simp] theorem lasting_cmdPowerStateGet (h : Hdr) (p : Bytes) (s : State) : (cmdPowerStateGet h p s).lasting = s.lasting := by
  simp [cmdPowerStateGet]

@[simp] theorem lasting_cmdWakeConfig (h : Hdr) (p : Bytes) (s : State) : (cmdWakeConfig h p s).lasting = s.lasting := by
  simp [cmdWakeConfig]

@[simp] theorem lasting_armAlarm (value : Ticks) (p : Bytes) (s : State) : (armAlarm value p s).lasting = s.lasting := by
  simp [armAlarm]

@[simp] theorem lasting_cmdTickAlarmDisable (h : Hdr) (p : Bytes) (s : State) : (cmdTickAlarmDisable h p s).lasting = s.lasting := by
  simp [cmdTickAlarmDisable]

@[simp] theorem lasting_cmdTickAlarmAbsolute (h : Hdr) (p : Bytes) (s : State) : (cmdTickAlarmAbsolute h p s).lasting = s.lasting := by
  simp [cmdTickAlarmAbsolute]

@[simp] theorem lasting_cmdTickAlarmRelative (h : Hdr) (p : Bytes) (s : State) : (cmdTickAlarmRelative h p s).lasting = s.lasting := by
  simp [cmdTickAlarmRelative]

@[simp] theorem lasting_cmdTimeGet (h : Hdr) (p : Bytes) (s : State) : (cmdTimeGet h p s).lasting = s.lasting := by
  simp [cmdTimeGet]

@[simp] theorem lasting_cmdClockStatus (h : Hdr) (p : Bytes) (s : State) : (cmdClockStatus h p s).lasting = s.lasting := by
  simp [cmdClockStatus]

@[simp] theorem lasting_cmdThermalConfig (h : Hdr) (p : Bytes) (s : State) : (cmdThermalConfig h p s).lasting = s.lasting := by
  simp [cmdThermalConfig]

@[simp] theorem lasting_cmdThermalStatus (h : Hdr) (p : Bytes) (s : State) : (cmdThermalStatus h p s).lasting = s.lasting := by
  simp [cmdThermalStatus]

@[simp] theorem lasting_cmdPowerPolicyRead (h : Hdr) (p : Bytes) (s : State) : (cmdPowerPolicyRead h p s).lasting = s.lasting := by
  simp [cmdPowerPolicyRead]

@[simp] theorem lasting_cmdPowerPolicyWrite (h : Hdr) (p : Bytes) (s : State) : (cmdPowerPolicyWrite h p s).lasting = s.lasting := by
  simp [cmdPowerPolicyWrite]

theorem lasting_execPowerStateGet (h : Hdr) (p : Bytes) (s : State) : ∀ t, (execPowerStateGet h p s) = .next t → t.lasting = s.lasting := by
  exact fun _ e => Host.Outcome.next.inj e ▸ lasting_cmdPowerStateGet h p s

theorem lasting_execWakeConfig (h : Hdr) (p : Bytes) (s : State) : ∀ t, (execWakeConfig h p s) = .next t → t.lasting = s.lasting := by
  exact fun _ e => Host.Outcome.next.inj e ▸ lasting_cmdWakeConfig h p s

theorem lasting_execTickAlarmDisable (h : Hdr) (p : Bytes) (s : State) : ∀ t, (execTickAlarmDisable h p s) = .next t → t.lasting = s.lasting := by
  exact fun _ e => Host.Outcome.next.inj e ▸ lasting_cmdTickAlarmDisable h p s

theorem lasting_execTickAlarmAbsolute (h : Hdr) (p : Bytes) (s : State) : ∀ t, (execTickAlarmAbsolute h p s) = .next t → t.lasting = s.lasting := by
  exact fun _ e => Host.Outcome.next.inj e ▸ lasting_cmdTickAlarmAbsolute h p s

theorem lasting_execTickAlarmRelative (h : Hdr) (p : Bytes) (s : State) : ∀ t, (execTickAlarmRelative h p s) = .next t → t.lasting = s.lasting := by
  exact fun _ e => Host.Outcome.next.inj e ▸ lasting_cmdTickAlarmRelative h p s

theorem lasting_execTimeGet (h : Hdr) (p : Bytes) (s : State) : ∀ t, (execTimeGet h p s) = .next t → t.lasting = s.lasting := by
  exact fun _ e => Host.Outcome.next.inj e ▸ lasting_cmdTimeGet h p s

theorem lasting_execClockStatus (h : Hdr) (p : Bytes) (s : State) : ∀ t, (execClockStatus h p s) = .next t → t.lasting = s.lasting := by
  exact fun _ e => Host.Outcome.next.inj e ▸ lasting_cmdClockStatus h p s

theorem lasting_execThermalConfig (h : Hdr) (p : Bytes) (s : State) : ∀ t, (execThermalConfig h p s) = .next t → t.lasting = s.lasting := by
  exact fun _ e => Host.Outcome.next.inj e ▸ lasting_cmdThermalConfig h p s

theorem lasting_execThermalStatus (h : Hdr) (p : Bytes) (s : State) : ∀ t, (execThermalStatus h p s) = .next t → t.lasting = s.lasting := by
  exact fun _ e => Host.Outcome.next.inj e ▸ lasting_cmdThermalStatus h p s

theorem lasting_execPowerPolicyRead (h : Hdr) (p : Bytes) (s : State) : ∀ t, (execPowerPolicyRead h p s) = .next t → t.lasting = s.lasting := by
  exact fun _ e => Host.Outcome.next.inj e ▸ lasting_cmdPowerPolicyRead h p s

theorem lasting_execPowerPolicyWrite (h : Hdr) (p : Bytes) (s : State) : ∀ t, (execPowerPolicyWrite h p s) = .next t → t.lasting = s.lasting := by
  exact fun _ e => Host.Outcome.next.inj e ▸ lasting_cmdPowerPolicyWrite h p s

@[simp] theorem lasting_onStream (n : Nat) (f : Strm → Strm) (s : State) : (onStream n f s).lasting = s.lasting := by
  simp [onStream]

@[simp] theorem lasting_onChannel (ch : Nat) (f : Channel → Channel) (s : State) : (onChannel ch f s).lasting = s.lasting := by
  simp [onChannel]

@[simp] theorem lasting_setStatus (ch : Nat) (st : BitVec 16) (s : State) : (setStatus ch st s).lasting = s.lasting := by
  simp [setStatus]

@[simp] theorem lasting_statusBit (ch bitNo : Nat) (v : Bool) (s : State) : (statusBit ch bitNo v s).lasting = s.lasting := by
  simp [statusBit]

@[simp] theorem lasting_followStatus (ch : Nat) (s : State) : (followStatus ch s).lasting = s.lasting := by
  simp [followStatus]

@[simp] theorem lasting_cmdAfePinRoleSet (h : Hdr) (p : Bytes) (s : State) : (cmdAfePinRoleSet h p s).lasting = s.lasting := by
  simp [cmdAfePinRoleSet]

@[simp] theorem lasting_cmdAfePinRoleGet (h : Hdr) (p : Bytes) (s : State) : (cmdAfePinRoleGet h p s).lasting = s.lasting := by
  simp [cmdAfePinRoleGet]

@[simp] theorem lasting_cmdAfeChannelConfig (h : Hdr) (p : Bytes) (s : State) : (cmdAfeChannelConfig h p s).lasting = s.lasting := by
  simp [cmdAfeChannelConfig]

@[simp] theorem lasting_cmdAfeChannelGet (h : Hdr) (p : Bytes) (s : State) : (cmdAfeChannelGet h p s).lasting = s.lasting := by
  simp [cmdAfeChannelGet]

@[simp] theorem lasting_cmdAfeExcitationSet (h : Hdr) (p : Bytes) (s : State) : (cmdAfeExcitationSet h p s).lasting = s.lasting := by
  simp [cmdAfeExcitationSet]

@[simp] theorem lasting_leadHigh (pin : Nat) (v : Bool) (s : State) : (leadHigh pin v s).lasting = s.lasting := by
  simp [leadHigh]

@[simp] theorem lasting_storeLead (pin : Nat) (state : BitVec 2) (milli : Nat) (s : State) : (storeLead pin state milli s).lasting = s.lasting := by
  simp [storeLead]

@[simp] theorem lasting_keepLead (kelvin : Bool) (p q milli : Nat) (s : State) : (keepLead kelvin p q milli s).1.lasting = s.lasting := by
  unfold keepLead; (repeat' split) <;> (first | with_reducible rfl | (simp; done))

@[simp] theorem lasting_wantBanks (chs : List Nat) (s : State) : (wantBanks chs s).lasting = s.lasting := by
  simp [wantBanks]

@[simp] theorem lasting_startLead (kelvin : Bool) (h : Hdr) (p : Bytes) (s : State) : (startLead kelvin h p s).lasting = s.lasting := by
  simp [startLead]

@[simp] theorem lasting_cmdAfeLeadMeasureLoop (h : Hdr) (p : Bytes) (s : State) : (cmdAfeLeadMeasureLoop h p s).lasting = s.lasting := by
  simp [cmdAfeLeadMeasureLoop]

@[simp] theorem lasting_cmdAfeLeadMeasureKelvin (h : Hdr) (p : Bytes) (s : State) : (cmdAfeLeadMeasureKelvin h p s).lasting = s.lasting := by
  simp [cmdAfeLeadMeasureKelvin]

@[simp] theorem lasting_cmdAfeLeadMeasureSet (h : Hdr) (p : Bytes) (s : State) : (cmdAfeLeadMeasureSet h p s).lasting = s.lasting := by
  simp [cmdAfeLeadMeasureSet]

@[simp] theorem lasting_cmdAfeLeadGet (h : Hdr) (p : Bytes) (s : State) : (cmdAfeLeadGet h p s).lasting = s.lasting := by
  simp [cmdAfeLeadGet]

theorem lasting_execLeadMeasureDone (picovolts : Nat) (s : State) : ∀ t, (execLeadMeasureDone picovolts s) = .next t → t.lasting = s.lasting := by
  intro t; unfold execLeadMeasureDone; (try simp only []); (repeat' split) <;> intro h <;> (first | (simp only [Host.Outcome.next.injEq] at h; subst h; first | (simp; done) | (simp_all; done) | (iterate 10 (all_goals (try (first | with_reducible rfl | (refine lasting_serve _ _ _ _ _ (fun s' => ?_)) | (refine (lasting_refuseIf _ _ _ (fun s' => ?_) _).trans ?_) | (refine lasting_receive _ _ _ _ (fun s' => ?_)) | (refine lasting_whenReadable _ _ _ _ _ _ (fun s' => ?_)) | (refine (lasting_foldl _ (fun s' a => ?_) _ _).trans ?_) | split | (simp; done) | (simp_all; done) | simp))))) | (simp at h; done))

@[simp] theorem lasting_onPair (i : Nat) (f : Pair → Pair) (s : State) : (onPair i f s).lasting = s.lasting := by
  simp [onPair]

@[simp] theorem lasting_markPair (i : Nat) (a b : Bool) (s : State) : (markPair i a b s).lasting = s.lasting := by
  simp [markPair]

@[simp] theorem lasting_setPair (i : Nat) (phase : PairPhase) (s : State) : (setPair i phase s).lasting = s.lasting := by
  simp [setPair]

@[simp] theorem lasting_releasePair (i : Nat) (s : State) : (releasePair i s).lasting = s.lasting := by
  simp [releasePair]

@[simp] theorem lasting_cmdAfePairConfigSet (h : Hdr) (p : Bytes) (s : State) : (cmdAfePairConfigSet h p s).lasting = s.lasting := by
  simp [cmdAfePairConfigSet]

@[simp] theorem lasting_cmdAfePairConfigRemove (h : Hdr) (p : Bytes) (s : State) : (cmdAfePairConfigRemove h p s).lasting = s.lasting := by
  simp [cmdAfePairConfigRemove]

@[simp] theorem lasting_cmdAfePairStatus (h : Hdr) (p : Bytes) (s : State) : (cmdAfePairStatus h p s).lasting = s.lasting := by
  simp [cmdAfePairStatus]

@[simp] theorem lasting_cmdAfeDiag (h : Hdr) (p : Bytes) (s : State) : (cmdAfeDiag h p s).lasting = s.lasting := by
  simp [cmdAfeDiag]

@[simp] theorem lasting_cmdAfeCalRun (h : Hdr) (p : Bytes) (s : State) : (cmdAfeCalRun h p s).lasting = s.lasting := by
  simp [cmdAfeCalRun]

@[simp] theorem lasting_cmdAfeBankEnable (h : Hdr) (p : Bytes) (s : State) : (cmdAfeBankEnable h p s).lasting = s.lasting := by
  simp only [cmdAfeBankEnable]; iterate 10 (all_goals (try (first | with_reducible rfl | (refine lasting_serve _ _ _ _ _ (fun s' => ?_)) | (refine (lasting_refuseIf _ _ _ (fun s' => ?_) _).trans ?_) | (refine lasting_receive _ _ _ _ (fun s' => ?_)) | (refine lasting_whenReadable _ _ _ _ _ _ (fun s' => ?_)) | (refine (lasting_foldl _ (fun s' a => ?_) _ _).trans ?_) | split | (simp; done) | (simp_all; done) | simp)))

@[simp] theorem lasting_leadBegins (ch : Nat) (s : State) : (leadBegins ch s).1.lasting = s.lasting := by
  unfold leadBegins; (repeat' split) <;> (first | with_reducible rfl | (simp; done))

@[simp] theorem lasting_leadSegment (ch leadPicovolts : Nat) (s : State) : (leadSegment ch leadPicovolts s).lasting = s.lasting := by
  simp [leadSegment]

@[simp] theorem lasting_takeCalibration (ch : Nat) (raws : List Int) (step lead vref : Nat) (led : Bool) (prev : Option (Int × Nat)) (s : State) : (takeCalibration ch raws step lead vref led prev s).lasting = s.lasting := by
  simp [takeCalibration]

theorem lasting_execExcLimitEngaged (d : BitVec 3) (s : State) : ∀ t, (execExcLimitEngaged d s) = .next t → t.lasting = s.lasting := by
  intro t; unfold execExcLimitEngaged; (try simp only []); (repeat' split) <;> intro h <;> (first | (simp only [Host.Outcome.next.injEq] at h; subst h; first | (simp; done) | (simp_all; done) | (iterate 10 (all_goals (try (first | with_reducible rfl | (refine lasting_serve _ _ _ _ _ (fun s' => ?_)) | (refine (lasting_refuseIf _ _ _ (fun s' => ?_) _).trans ?_) | (refine lasting_receive _ _ _ _ (fun s' => ?_)) | (refine lasting_whenReadable _ _ _ _ _ _ (fun s' => ?_)) | (refine (lasting_foldl _ (fun s' a => ?_) _ _).trans ?_) | split | (simp; done) | (simp_all; done) | simp))))) | (simp at h; done))

theorem lasting_execExcLimitReleased (d : BitVec 3) (s : State) : ∀ t, (execExcLimitReleased d s) = .next t → t.lasting = s.lasting := by
  intro t; unfold execExcLimitReleased; (try simp only []); (repeat' split) <;> intro h <;> (first | (simp only [Host.Outcome.next.injEq] at h; subst h; first | (simp; done) | (simp_all; done) | (iterate 10 (all_goals (try (first | with_reducible rfl | (refine lasting_serve _ _ _ _ _ (fun s' => ?_)) | (refine (lasting_refuseIf _ _ _ (fun s' => ?_) _).trans ?_) | (refine lasting_receive _ _ _ _ (fun s' => ?_)) | (refine lasting_whenReadable _ _ _ _ _ _ (fun s' => ?_)) | (refine (lasting_foldl _ (fun s' a => ?_) _ _).trans ?_) | split | (simp; done) | (simp_all; done) | simp))))) | (simp at h; done))

theorem lasting_execAfePinRoleSet (h : Hdr) (p : Bytes) (s : State) : ∀ t, (execAfePinRoleSet h p s) = .next t → t.lasting = s.lasting := by
  exact fun _ e => Host.Outcome.next.inj e ▸ lasting_cmdAfePinRoleSet h p s

theorem lasting_execAfePinRoleGet (h : Hdr) (p : Bytes) (s : State) : ∀ t, (execAfePinRoleGet h p s) = .next t → t.lasting = s.lasting := by
  exact fun _ e => Host.Outcome.next.inj e ▸ lasting_cmdAfePinRoleGet h p s

theorem lasting_execAfeChannelConfig (h : Hdr) (p : Bytes) (s : State) : ∀ t, (execAfeChannelConfig h p s) = .next t → t.lasting = s.lasting := by
  exact fun _ e => Host.Outcome.next.inj e ▸ lasting_cmdAfeChannelConfig h p s

theorem lasting_execAfeChannelGet (h : Hdr) (p : Bytes) (s : State) : ∀ t, (execAfeChannelGet h p s) = .next t → t.lasting = s.lasting := by
  exact fun _ e => Host.Outcome.next.inj e ▸ lasting_cmdAfeChannelGet h p s

theorem lasting_execAfeExcitationSet (h : Hdr) (p : Bytes) (s : State) : ∀ t, (execAfeExcitationSet h p s) = .next t → t.lasting = s.lasting := by
  exact fun _ e => Host.Outcome.next.inj e ▸ lasting_cmdAfeExcitationSet h p s

theorem lasting_execAfeLeadMeasureLoop (h : Hdr) (p : Bytes) (s : State) : ∀ t, (execAfeLeadMeasureLoop h p s) = .next t → t.lasting = s.lasting := by
  exact fun _ e => Host.Outcome.next.inj e ▸ lasting_cmdAfeLeadMeasureLoop h p s

theorem lasting_execAfeLeadMeasureKelvin (h : Hdr) (p : Bytes) (s : State) : ∀ t, (execAfeLeadMeasureKelvin h p s) = .next t → t.lasting = s.lasting := by
  exact fun _ e => Host.Outcome.next.inj e ▸ lasting_cmdAfeLeadMeasureKelvin h p s

theorem lasting_execAfeLeadMeasureSet (h : Hdr) (p : Bytes) (s : State) : ∀ t, (execAfeLeadMeasureSet h p s) = .next t → t.lasting = s.lasting := by
  exact fun _ e => Host.Outcome.next.inj e ▸ lasting_cmdAfeLeadMeasureSet h p s

theorem lasting_execAfeLeadGet (h : Hdr) (p : Bytes) (s : State) : ∀ t, (execAfeLeadGet h p s) = .next t → t.lasting = s.lasting := by
  exact fun _ e => Host.Outcome.next.inj e ▸ lasting_cmdAfeLeadGet h p s

theorem lasting_execAfePairConfigSet (h : Hdr) (p : Bytes) (s : State) : ∀ t, (execAfePairConfigSet h p s) = .next t → t.lasting = s.lasting := by
  exact fun _ e => Host.Outcome.next.inj e ▸ lasting_cmdAfePairConfigSet h p s

theorem lasting_execAfePairConfigRemove (h : Hdr) (p : Bytes) (s : State) : ∀ t, (execAfePairConfigRemove h p s) = .next t → t.lasting = s.lasting := by
  exact fun _ e => Host.Outcome.next.inj e ▸ lasting_cmdAfePairConfigRemove h p s

theorem lasting_execAfePairStatus (h : Hdr) (p : Bytes) (s : State) : ∀ t, (execAfePairStatus h p s) = .next t → t.lasting = s.lasting := by
  exact fun _ e => Host.Outcome.next.inj e ▸ lasting_cmdAfePairStatus h p s

theorem lasting_execAfeDiag (h : Hdr) (p : Bytes) (s : State) : ∀ t, (execAfeDiag h p s) = .next t → t.lasting = s.lasting := by
  exact fun _ e => Host.Outcome.next.inj e ▸ lasting_cmdAfeDiag h p s

theorem lasting_execAfeCalRun (h : Hdr) (p : Bytes) (s : State) : ∀ t, (execAfeCalRun h p s) = .next t → t.lasting = s.lasting := by
  exact fun _ e => Host.Outcome.next.inj e ▸ lasting_cmdAfeCalRun h p s

theorem lasting_execAfeBankEnable (h : Hdr) (p : Bytes) (s : State) : ∀ t, (execAfeBankEnable h p s) = .next t → t.lasting = s.lasting := by
  exact fun _ e => Host.Outcome.next.inj e ▸ lasting_cmdAfeBankEnable h p s

@[simp] theorem lasting_cmdStreamConfigSet (h : Hdr) (p : Bytes) (s : State) : (cmdStreamConfigSet h p s).lasting = s.lasting := by
  simp [cmdStreamConfigSet]

@[simp] theorem lasting_cmdStreamConfigRemove (h : Hdr) (p : Bytes) (s : State) : (cmdStreamConfigRemove h p s).lasting = s.lasting := by
  simp [cmdStreamConfigRemove]

@[simp] theorem lasting_cmdStreamGet (h : Hdr) (p : Bytes) (s : State) : (cmdStreamGet h p s).lasting = s.lasting := by
  simp [cmdStreamGet]

@[simp] theorem lasting_wantAll (ds : List Nat) (s : State) : (wantAll ds s).lasting = s.lasting := by
  simp [wantAll]

@[simp] theorem lasting_cmdStreamStart (h : Hdr) (p : Bytes) (s : State) : (cmdStreamStart h p s).lasting = s.lasting := by
  simp only [cmdStreamStart]; iterate 10 (all_goals (try (first | with_reducible rfl | (refine lasting_serve _ _ _ _ _ (fun s' => ?_)) | (refine (lasting_refuseIf _ _ _ (fun s' => ?_) _).trans ?_) | (refine lasting_receive _ _ _ _ (fun s' => ?_)) | (refine lasting_whenReadable _ _ _ _ _ _ (fun s' => ?_)) | (refine (lasting_foldl _ (fun s' a => ?_) _ _).trans ?_) | split | (simp; done) | (simp_all; done) | simp)))

@[simp] theorem lasting_followPairs (n : Nat) (s : State) : (followPairs n s).lasting = s.lasting := by
  simp [followPairs]

@[simp] theorem lasting_startStream (n : Nat) (s : State) : (startStream n s).lasting = s.lasting := by
  simp [startStream]

theorem lasting_execStreamStartInstant (s : State) : ∀ t, (execStreamStartInstant s) = .next t → t.lasting = s.lasting := by
  intro t; unfold execStreamStartInstant; (try simp only []); (repeat' split) <;> intro h <;> (first | (simp only [Host.Outcome.next.injEq] at h; subst h; first | (simp; done) | (simp_all; done) | (iterate 10 (all_goals (try (first | with_reducible rfl | (refine lasting_serve _ _ _ _ _ (fun s' => ?_)) | (refine (lasting_refuseIf _ _ _ (fun s' => ?_) _).trans ?_) | (refine lasting_receive _ _ _ _ (fun s' => ?_)) | (refine lasting_whenReadable _ _ _ _ _ _ (fun s' => ?_)) | (refine (lasting_foldl _ (fun s' a => ?_) _ _).trans ?_) | split | (simp; done) | (simp_all; done) | simp))))) | (simp at h; done))

@[simp] theorem lasting_discardFrame (n : Nat) (s : State) : (discardFrame n s).lasting = s.lasting := by
  simp [discardFrame]

@[simp] theorem lasting_dropSnapshot (n : Nat) (s : State) : (dropSnapshot n s).lasting = s.lasting := by
  unfold dropSnapshot; (repeat' split) <;> (first | with_reducible rfl | (simp; done))

@[simp] theorem lasting_finishStops (s : State) : (finishStops s).lasting = s.lasting := by
  simp [finishStops]

@[simp] theorem lasting_stopStream (n : Nat) (s : State) : (stopStream n s).lasting = s.lasting := by
  simp [stopStream]

@[simp] theorem lasting_cmdStreamStopNow (h : Hdr) (p : Bytes) (s : State) : (cmdStreamStopNow h p s).lasting = s.lasting := by
  simp [cmdStreamStopNow]

@[simp] theorem lasting_cmdStreamStopAfterFrame (h : Hdr) (p : Bytes) (s : State) : (cmdStreamStopAfterFrame h p s).lasting = s.lasting := by
  simp [cmdStreamStopAfterFrame]

@[simp] theorem lasting_cmdSportConfig (h : Hdr) (p : Bytes) (s : State) : (cmdSportConfig h p s).lasting = s.lasting := by
  simp [cmdSportConfig]

@[simp] theorem lasting_cmdSportGet (h : Hdr) (p : Bytes) (s : State) : (cmdSportGet h p s).lasting = s.lasting := by
  simp [cmdSportGet]

@[simp] theorem lasting_cmdTachConfig (h : Hdr) (p : Bytes) (s : State) : (cmdTachConfig h p s).lasting = s.lasting := by
  simp [cmdTachConfig]

@[simp] theorem lasting_beltEvent (old : PosState) (s : State) : (beltEvent old s).lasting = s.lasting := by
  simp [beltEvent]

@[simp] theorem lasting_onBelt (f : Belt → Belt) (s : State) : (onBelt f s).lasting = s.lasting := by
  simp [onBelt]

@[simp] theorem lasting_cmdEncConfig (h : Hdr) (p : Bytes) (s : State) : (cmdEncConfig h p s).lasting = s.lasting := by
  simp [cmdEncConfig]

@[simp] theorem lasting_streamCounters (clear : Bool) (h : Hdr) (p : Bytes) (s : State) : (streamCounters clear h p s).lasting = s.lasting := by
  simp [streamCounters]

@[simp] theorem lasting_cmdStreamCounters (h : Hdr) (p : Bytes) (s : State) : (cmdStreamCounters h p s).lasting = s.lasting := by
  simp [cmdStreamCounters]

@[simp] theorem lasting_cmdStreamCountersClear (h : Hdr) (p : Bytes) (s : State) : (cmdStreamCountersClear h p s).lasting = s.lasting := by
  simp [cmdStreamCountersClear]

@[simp] theorem lasting_cmdStreamSnapshot (h : Hdr) (p : Bytes) (s : State) : (cmdStreamSnapshot h p s).lasting = s.lasting := by
  simp [cmdStreamSnapshot]

theorem lasting_execFrameStart (stream : BitVec 7) (s : State) : ∀ t, (execFrameStart stream s) = .next t → t.lasting = s.lasting := by
  intro t; unfold execFrameStart; (try simp only []); (repeat' split) <;> intro h <;> (first | (simp only [Host.Outcome.next.injEq] at h; subst h; first | (simp; done) | (simp_all; done) | (iterate 10 (all_goals (try (first | with_reducible rfl | (refine lasting_serve _ _ _ _ _ (fun s' => ?_)) | (refine (lasting_refuseIf _ _ _ (fun s' => ?_) _).trans ?_) | (refine lasting_receive _ _ _ _ (fun s' => ?_)) | (refine lasting_whenReadable _ _ _ _ _ _ (fun s' => ?_)) | (refine (lasting_foldl _ (fun s' a => ?_) _ _).trans ?_) | split | (simp; done) | (simp_all; done) | simp))))) | (simp at h; done))

theorem lasting_execDriverSettleDone (d : BitVec 3) (s : State) : ∀ t, execDriverSettleDone d s = .next t → t.lasting = s.lasting := by
  intro t; unfold execDriverSettleDone; (try simp only []); (repeat' split) <;> intro h <;> (first | (simp only [Host.Outcome.next.injEq] at h; subst h; first | (simp; done) | (simp_all; done) | (iterate 10 (all_goals (try (first | with_reducible rfl | (refine lasting_receive _ _ _ _ (fun s' => ?_)) | (refine (lasting_foldl _ (fun s' a => ?_) _ _).trans ?_) | split | (simp; done) | (simp_all; done) | simp))))) | (simp at h; done))

@[simp] theorem lasting_onFrame (n : Nat) (f : OpenFrame → OpenFrame) (s : State) : (onFrame n f s).lasting = s.lasting := by
  simp [onFrame]

@[simp] theorem lasting_pushSample (n : Nat) (cls : SampleClass) (v : Int) (saturated : Bool) (s : State) : (pushSample n cls v saturated s).lasting = s.lasting := by
  simp [pushSample]

@[simp] theorem lasting_takeAnalog (n : Nat) (picovolts : Int) (drive sense : Nat) (overload : Bool) (s : State) : (takeAnalog n picovolts drive sense overload s).lasting = s.lasting := by
  unfold takeAnalog; dsimp only; (repeat' split) <;> first | rfl | simp

@[simp] theorem lasting_takeDigital (n : Nat) (word : Nat) (s : State) : (takeDigital n word s).lasting = s.lasting := by
  simp only [takeDigital]; iterate 10 (all_goals (try (first | with_reducible rfl | (refine lasting_serve _ _ _ _ _ (fun s' => ?_)) | (refine (lasting_refuseIf _ _ _ (fun s' => ?_) _).trans ?_) | (refine lasting_receive _ _ _ _ (fun s' => ?_)) | (refine lasting_whenReadable _ _ _ _ _ _ (fun s' => ?_)) | (refine (lasting_foldl _ (fun s' a => ?_) _ _).trans ?_) | split | (simp; done) | (simp_all; done) | simp)))

theorem lasting_execSampleArrival (stream : BitVec 7) (picovolts : Int) (drive sense : Nat) (overload : Bool) (s : State) : ∀ t, (execSampleArrival stream picovolts drive sense overload s) = .next t → t.lasting = s.lasting := by
  intro t; unfold execSampleArrival; (try simp only []); (repeat' split) <;> intro h <;> (first | (simp only [Host.Outcome.next.injEq] at h; subst h; first | (simp; done) | (simp_all; done) | (iterate 10 (all_goals (try (first | with_reducible rfl | (refine lasting_serve _ _ _ _ _ (fun s' => ?_)) | (refine (lasting_refuseIf _ _ _ (fun s' => ?_) _).trans ?_) | (refine lasting_receive _ _ _ _ (fun s' => ?_)) | (refine lasting_whenReadable _ _ _ _ _ _ (fun s' => ?_)) | (refine (lasting_foldl _ (fun s' a => ?_) _ _).trans ?_) | split | (simp; done) | (simp_all; done) | simp))))) | (simp at h; done))

theorem lasting_execFabricTransaction (stream : BitVec 7) (rest : Bool) (s : State) : ∀ t, (execFabricTransaction stream rest s) = .next t → t.lasting = s.lasting := by
  intro t; unfold execFabricTransaction; (try simp only []); (repeat' split) <;> intro h <;> (first | (simp only [Host.Outcome.next.injEq] at h; subst h; first | (simp; done) | (simp_all; done) | (iterate 10 (all_goals (try (first | with_reducible rfl | (refine lasting_serve _ _ _ _ _ (fun s' => ?_)) | (refine (lasting_refuseIf _ _ _ (fun s' => ?_) _).trans ?_) | (refine lasting_receive _ _ _ _ (fun s' => ?_)) | (refine lasting_whenReadable _ _ _ _ _ _ (fun s' => ?_)) | (refine (lasting_foldl _ (fun s' a => ?_) _ _).trans ?_) | split | (simp; done) | (simp_all; done) | simp))))) | (simp at h; done))

@[simp] theorem lasting_beginMeasurement (n : Nat) (s : State) : (beginMeasurement n s).lasting = s.lasting := by
  simp [beginMeasurement]

@[simp] theorem lasting_swallowed (n : Nat) (s : State) : (swallowed n s).lasting = s.lasting := by
  simp [swallowed]

theorem lasting_execCalBurstComplete (channel : BitVec 5) (raws : List Int) (step lead drive sense : Nat) (s : State) : ∀ t, (execCalBurstComplete channel raws step lead drive sense s) = .next t → t.lasting = s.lasting := by
  intro t; unfold execCalBurstComplete; (try simp only []); (repeat' split) <;> intro h <;> (first | (simp only [Host.Outcome.next.injEq] at h; subst h; first | (simp; done) | (simp_all; done) | (iterate 10 (all_goals (try (first | with_reducible rfl | (refine lasting_serve _ _ _ _ _ (fun s' => ?_)) | (refine (lasting_refuseIf _ _ _ (fun s' => ?_) _).trans ?_) | (refine lasting_receive _ _ _ _ (fun s' => ?_)) | (refine lasting_whenReadable _ _ _ _ _ _ (fun s' => ?_)) | (refine (lasting_foldl _ (fun s' a => ?_) _ _).trans ?_) | split | (simp; done) | (simp_all; done) | simp))))) | (simp at h; done))

theorem lasting_execStreamConfigSet (h : Hdr) (p : Bytes) (s : State) : ∀ t, (execStreamConfigSet h p s) = .next t → t.lasting = s.lasting := by
  exact fun _ e => Host.Outcome.next.inj e ▸ lasting_cmdStreamConfigSet h p s

theorem lasting_execStreamConfigRemove (h : Hdr) (p : Bytes) (s : State) : ∀ t, (execStreamConfigRemove h p s) = .next t → t.lasting = s.lasting := by
  exact fun _ e => Host.Outcome.next.inj e ▸ lasting_cmdStreamConfigRemove h p s

theorem lasting_execStreamGet (h : Hdr) (p : Bytes) (s : State) : ∀ t, (execStreamGet h p s) = .next t → t.lasting = s.lasting := by
  exact fun _ e => Host.Outcome.next.inj e ▸ lasting_cmdStreamGet h p s

theorem lasting_execStreamStart (h : Hdr) (p : Bytes) (s : State) : ∀ t, (execStreamStart h p s) = .next t → t.lasting = s.lasting := by
  exact fun _ e => Host.Outcome.next.inj e ▸ lasting_cmdStreamStart h p s

theorem lasting_execStreamStopNow (h : Hdr) (p : Bytes) (s : State) : ∀ t, (execStreamStopNow h p s) = .next t → t.lasting = s.lasting := by
  exact fun _ e => Host.Outcome.next.inj e ▸ lasting_cmdStreamStopNow h p s

theorem lasting_execStreamStopAfterFrame (h : Hdr) (p : Bytes) (s : State) : ∀ t, (execStreamStopAfterFrame h p s) = .next t → t.lasting = s.lasting := by
  exact fun _ e => Host.Outcome.next.inj e ▸ lasting_cmdStreamStopAfterFrame h p s

theorem lasting_execSportConfig (h : Hdr) (p : Bytes) (s : State) : ∀ t, (execSportConfig h p s) = .next t → t.lasting = s.lasting := by
  exact fun _ e => Host.Outcome.next.inj e ▸ lasting_cmdSportConfig h p s

theorem lasting_execSportGet (h : Hdr) (p : Bytes) (s : State) : ∀ t, (execSportGet h p s) = .next t → t.lasting = s.lasting := by
  exact fun _ e => Host.Outcome.next.inj e ▸ lasting_cmdSportGet h p s

theorem lasting_execTachConfig (h : Hdr) (p : Bytes) (s : State) : ∀ t, (execTachConfig h p s) = .next t → t.lasting = s.lasting := by
  exact fun _ e => Host.Outcome.next.inj e ▸ lasting_cmdTachConfig h p s

theorem lasting_execEncConfig (h : Hdr) (p : Bytes) (s : State) : ∀ t, (execEncConfig h p s) = .next t → t.lasting = s.lasting := by
  exact fun _ e => Host.Outcome.next.inj e ▸ lasting_cmdEncConfig h p s

theorem lasting_execStreamCounters (h : Hdr) (p : Bytes) (s : State) : ∀ t, (execStreamCounters h p s) = .next t → t.lasting = s.lasting := by
  exact fun _ e => Host.Outcome.next.inj e ▸ lasting_cmdStreamCounters h p s

theorem lasting_execStreamCountersClear (h : Hdr) (p : Bytes) (s : State) : ∀ t, (execStreamCountersClear h p s) = .next t → t.lasting = s.lasting := by
  exact fun _ e => Host.Outcome.next.inj e ▸ lasting_cmdStreamCountersClear h p s

theorem lasting_execStreamSnapshot (h : Hdr) (p : Bytes) (s : State) : ∀ t, (execStreamSnapshot h p s) = .next t → t.lasting = s.lasting := by
  exact fun _ e => Host.Outcome.next.inj e ▸ lasting_cmdStreamSnapshot h p s

@[simp] theorem lasting_onFeature (n : Nat) (f : FeatureStream → FeatureStream) (s : State) : (onFeature n f s).lasting = s.lasting := by
  simp [onFeature]

@[simp] theorem lasting_beltCount (d : Int) (s : State) : (beltCount d s).lasting = s.lasting := by
  simp [beltCount]

@[simp] theorem lasting_spliceAnomaly (kind : Byte) (gap : Nat) (s : State) : (spliceAnomaly kind gap s).lasting = s.lasting := by
  simp [spliceAnomaly]

@[simp] theorem lasting_spliceMark (s : State) : (spliceMark s).lasting = s.lasting := by
  simp only [spliceMark]; iterate 10 (all_goals (try (first | with_reducible rfl | (refine lasting_serve _ _ _ _ _ (fun s' => ?_)) | (refine (lasting_refuseIf _ _ _ (fun s' => ?_) _).trans ?_) | (refine lasting_receive _ _ _ _ (fun s' => ?_)) | (refine lasting_whenReadable _ _ _ _ _ _ (fun s' => ?_)) | (refine (lasting_foldl _ (fun s' a => ?_) _ _).trans ?_) | split | (simp; done) | (simp_all; done) | simp)))

theorem lasting_execSpliceMark (high : Bool) (held : Nat) (s : State) : ∀ t, (execSpliceMark high held s) = .next t → t.lasting = s.lasting := by
  intro t; unfold execSpliceMark; (try simp only []); (repeat' split) <;> intro h <;> (first | (simp only [Host.Outcome.next.injEq] at h; subst h; first | (simp; done) | (simp_all; done) | (iterate 10 (all_goals (try (first | with_reducible rfl | (refine lasting_serve _ _ _ _ _ (fun s' => ?_)) | (refine (lasting_refuseIf _ _ _ (fun s' => ?_) _).trans ?_) | (refine lasting_receive _ _ _ _ (fun s' => ?_)) | (refine lasting_whenReadable _ _ _ _ _ _ (fun s' => ?_)) | (refine (lasting_foldl _ (fun s' a => ?_) _ _).trans ?_) | split | (simp; done) | (simp_all; done) | simp))))) | (simp at h; done))

@[simp] theorem lasting_encoderLost (s : State) : (encoderLost s).lasting = s.lasting := by
  simp [encoderLost]

@[simp] theorem lasting_encPhase (p : InputPhase) (s : State) : (encPhase p s).lasting = s.lasting := by
  simp [encPhase]

theorem lasting_execEncIdle (s : State) : ∀ t, (execEncIdle s) = .next t → t.lasting = s.lasting := by
  intro t; unfold execEncIdle; (try simp only []); (repeat' split) <;> intro h <;> (first | (simp only [Host.Outcome.next.injEq] at h; subst h; first | (simp; done) | (simp_all; done) | (iterate 10 (all_goals (try (first | with_reducible rfl | (refine lasting_serve _ _ _ _ _ (fun s' => ?_)) | (refine (lasting_refuseIf _ _ _ (fun s' => ?_) _).trans ?_) | (refine lasting_receive _ _ _ _ (fun s' => ?_)) | (refine lasting_whenReadable _ _ _ _ _ _ (fun s' => ?_)) | (refine (lasting_foldl _ (fun s' a => ?_) _ _).trans ?_) | split | (simp; done) | (simp_all; done) | simp))))) | (simp at h; done))

theorem lasting_execEncoderSlip (s : State) : ∀ t, (execEncoderSlip s) = .next t → t.lasting = s.lasting := by
  intro t; unfold execEncoderSlip; (try simp only []); (repeat' split) <;> intro h <;> (first | (simp only [Host.Outcome.next.injEq] at h; subst h; first | (simp; done) | (simp_all; done) | (iterate 10 (all_goals (try (first | with_reducible rfl | (refine lasting_serve _ _ _ _ _ (fun s' => ?_)) | (refine (lasting_refuseIf _ _ _ (fun s' => ?_) _).trans ?_) | (refine lasting_receive _ _ _ _ (fun s' => ?_)) | (refine lasting_whenReadable _ _ _ _ _ _ (fun s' => ?_)) | (refine (lasting_foldl _ (fun s' a => ?_) _ _).trans ?_) | split | (simp; done) | (simp_all; done) | simp))))) | (simp at h; done))

theorem lasting_execEncoderRestored (s : State) : ∀ t, (execEncoderRestored s) = .next t → t.lasting = s.lasting := by
  intro t; unfold execEncoderRestored; (try simp only []); (repeat' split) <;> intro h <;> (first | (simp only [Host.Outcome.next.injEq] at h; subst h; first | (simp; done) | (simp_all; done) | (iterate 10 (all_goals (try (first | with_reducible rfl | (refine lasting_serve _ _ _ _ _ (fun s' => ?_)) | (refine (lasting_refuseIf _ _ _ (fun s' => ?_) _).trans ?_) | (refine lasting_receive _ _ _ _ (fun s' => ?_)) | (refine lasting_whenReadable _ _ _ _ _ _ (fun s' => ?_)) | (refine (lasting_foldl _ (fun s' a => ?_) _ _).trans ?_) | split | (simp; done) | (simp_all; done) | simp))))) | (simp at h; done))

theorem lasting_execEncEdge (a b : Bool) (held ns : Nat) (s : State) : ∀ t, (execEncEdge a b held ns s) = .next t → t.lasting = s.lasting := by
  intro t; unfold execEncEdge; (try simp only []); (repeat' split) <;> intro h <;> (first | (simp only [Host.Outcome.next.injEq] at h; subst h; first | (simp; done) | (simp_all; done) | (iterate 10 (all_goals (try (first | with_reducible rfl | (refine lasting_serve _ _ _ _ _ (fun s' => ?_)) | (refine (lasting_refuseIf _ _ _ (fun s' => ?_) _).trans ?_) | (refine lasting_receive _ _ _ _ (fun s' => ?_)) | (refine lasting_whenReadable _ _ _ _ _ _ (fun s' => ?_)) | (refine (lasting_foldl _ (fun s' a => ?_) _ _).trans ?_) | split | (simp; done) | (simp_all; done) | simp))))) | (simp at h; done))

@[simp] theorem lasting_cmdBeltPositionGet (h : Hdr) (p : Bytes) (s : State) : (cmdBeltPositionGet h p s).lasting = s.lasting := by
  simp [cmdBeltPositionGet]

@[simp] theorem lasting_cmdBeltConfigSet (h : Hdr) (p : Bytes) (s : State) : (cmdBeltConfigSet h p s).lasting = s.lasting := by
  simp [cmdBeltConfigSet]

@[simp] theorem lasting_cmdBeltConfigDisable (h : Hdr) (p : Bytes) (s : State) : (cmdBeltConfigDisable h p s).lasting = s.lasting := by
  simp [cmdBeltConfigDisable]

@[simp] theorem lasting_cmdSetIndex (h : Hdr) (p : Bytes) (s : State) : (cmdSetIndex h p s).lasting = s.lasting := by
  simp [cmdSetIndex]

@[simp] theorem lasting_cmdBeltClearCount (h : Hdr) (p : Bytes) (s : State) : (cmdBeltClearCount h p s).lasting = s.lasting := by
  simp [cmdBeltClearCount]

@[simp] theorem lasting_featureSet (h : Hdr) (n : Nat) (same bad : Bool) (f : FeatureStream → FeatureStream) (s : State) : (featureSet h n same bad f s).lasting = s.lasting := by
  simp [featureSet]

@[simp] theorem lasting_cmdFeatConfigSet (h : Hdr) (p : Bytes) (s : State) : (cmdFeatConfigSet h p s).lasting = s.lasting := by
  simp [cmdFeatConfigSet]

@[simp] theorem lasting_cmdFeatConfigRemove (h : Hdr) (p : Bytes) (s : State) : (cmdFeatConfigRemove h p s).lasting = s.lasting := by
  simp [cmdFeatConfigRemove]

@[simp] theorem lasting_cmdFeatGet (h : Hdr) (p : Bytes) (s : State) : (cmdFeatGet h p s).lasting = s.lasting := by
  simp [cmdFeatGet]

@[simp] theorem lasting_cmdFeatOrderConfig (h : Hdr) (p : Bytes) (s : State) : (cmdFeatOrderConfig h p s).lasting = s.lasting := by
  simp [cmdFeatOrderConfig]

@[simp] theorem lasting_cmdFeatBandsSet (h : Hdr) (p : Bytes) (s : State) : (cmdFeatBandsSet h p s).lasting = s.lasting := by
  simp [cmdFeatBandsSet]

@[simp] theorem lasting_cmdFeatStateConfig (h : Hdr) (p : Bytes) (s : State) : (cmdFeatStateConfig h p s).lasting = s.lasting := by
  simp [cmdFeatStateConfig]

@[simp] theorem lasting_cmdFeatFrameRead (h : Hdr) (p : Bytes) (s : State) : (cmdFeatFrameRead h p s).lasting = s.lasting := by
  simp [cmdFeatFrameRead]

@[simp] theorem lasting_frameContext (n : Nat) (t0 t1 : Word64) (q : BeltView) (s : State) : (frameContext n t0 t1 q s).2.lasting = s.lasting := by
  simp [frameContext]

@[simp] theorem lasting_completePair (i : Nat) (which : ClosedFrame → Bool) (s : State) : (completePair i which s).lasting = s.lasting := by
  simp [completePair]

@[simp] theorem lasting_skipPair (i : Nat) (which : ClosedFrame → Bool) (s : State) : (skipPair i which s).lasting = s.lasting := by
  simp [skipPair]

@[simp] theorem lasting_comparePair (i : Nat) (a b : ClosedFrame) (s : State) : (comparePair i a b s).lasting = s.lasting := by
  simp [comparePair]

@[simp] theorem lasting_pairClosed (i n : Nat) (s : State) : (pairClosed i n s).lasting = s.lasting := by
  simp only [pairClosed]; (repeat' split) <;> (first | with_reducible rfl | (simp; done) | (simp_all; done))

theorem lasting_execPairPartnerTimeout (pair : BitVec 4) (s : State) : ∀ t, (execPairPartnerTimeout pair s) = .next t → t.lasting = s.lasting := by
  intro t; unfold execPairPartnerTimeout; (try simp only []); (repeat' split) <;> intro h <;> (first | (simp only [Host.Outcome.next.injEq] at h; subst h; first | (simp; done) | (simp_all; done) | (iterate 10 (all_goals (try (first | with_reducible rfl | (refine lasting_serve _ _ _ _ _ (fun s' => ?_)) | (refine (lasting_refuseIf _ _ _ (fun s' => ?_) _).trans ?_) | (refine lasting_receive _ _ _ _ (fun s' => ?_)) | (refine lasting_whenReadable _ _ _ _ _ _ (fun s' => ?_)) | (refine (lasting_foldl _ (fun s' a => ?_) _ _).trans ?_) | split | (simp; done) | (simp_all; done) | simp))))) | (simp at h; done))

@[simp] theorem lasting_lossEvent (n : Nat) (f : ClosedFrame) (s : State) : (lossEvent n f s).lasting = s.lasting := by
  simp [lossEvent]

@[simp] theorem lasting_closeChannel (n : Nat) (s : State) : (closeChannel n s).lasting = s.lasting := by
  simp [closeChannel]

@[simp] theorem lasting_takeSnapshot (n : Nat) (f : ClosedFrame) (s : State) : (takeSnapshot n f s).lasting = s.lasting := by
  unfold takeSnapshot; (repeat' split) <;> (first | with_reducible rfl | (simp; done))

@[simp] theorem lasting_closeFrame (n : Nat) (cause : Byte) (lost : Bool) (s : State) : (closeFrame n cause lost s).lasting = s.lasting := by
  unfold closeFrame
  split
  · rfl
  · extract_lets x samples s1 c ppr s2 f1 s3 ctx s4 pair closed count s5 s6 s7 s8 limit
    have h1 : (s1).lasting = s.lasting := by simp only [s1]; split <;> simp
    have h2 : (s2).lasting = s.lasting := by rcases Bool.eq_false_or_eq_true samples.isEmpty with hb | hb <;> simp [s2, hb, h1]
    have h3 : (s3).lasting = s.lasting := by by_cases hb : (f1.stored == 0) = true <;> simp [s3, hb, h2]
    have h4 : (s4).lasting = s.lasting := by simp [s4, ctx, h3]
    have h7 : (s7).lasting = s.lasting := by
      have h6 : (s6).lasting = s.lasting := by simp [s6, s5, h4]
      clear_value s6 pair
      simp only [s7]
      cases pair <;> simp [h6]
    have h8 : (s8).lasting = s.lasting := by simp [s8, h7]
    (repeat' split) <;> simp [h8]

theorem lasting_execFrameClose (stream : BitVec 7) (s : State) : ∀ t, (execFrameClose stream s) = .next t → t.lasting = s.lasting := by
  intro t; unfold execFrameClose; (try simp only []); (repeat' split) <;> intro h <;> (first | (simp only [Host.Outcome.next.injEq] at h; subst h; first | (simp; done) | (simp_all; done) | (iterate 10 (all_goals (try (first | with_reducible rfl | (refine lasting_serve _ _ _ _ _ (fun s' => ?_)) | (refine (lasting_refuseIf _ _ _ (fun s' => ?_) _).trans ?_) | (refine lasting_receive _ _ _ _ (fun s' => ?_)) | (refine lasting_whenReadable _ _ _ _ _ _ (fun s' => ?_)) | (refine (lasting_foldl _ (fun s' a => ?_) _ _).trans ?_) | split | (simp; done) | (simp_all; done) | simp))))) | (simp at h; done))

@[simp] theorem lasting_onPort (i : Nat) (f : Port → Port) (s : State) : (onPort i f s).lasting = s.lasting := by
  simp [onPort]

@[simp] theorem lasting_sportEvent (i : Nat) (new prev : Byte) (s : State) : (sportEvent i new prev s).lasting = s.lasting := by
  simp [sportEvent]

theorem lasting_execTdmFrameSync (port : BitVec 2) (rising : Bool) (onRise onFall : List Bool) (hz : Nat) (s : State) : ∀ t, (execTdmFrameSync port rising onRise onFall hz s) = .next t → t.lasting = s.lasting := by
  intro t; unfold execTdmFrameSync; (try simp only []); (repeat' split) <;> intro h <;> (first | (simp only [Host.Outcome.next.injEq] at h; subst h; first | (simp; done) | (simp_all; done) | (iterate 10 (all_goals (try (first | with_reducible rfl | (refine lasting_serve _ _ _ _ _ (fun s' => ?_)) | (refine (lasting_refuseIf _ _ _ (fun s' => ?_) _).trans ?_) | (refine lasting_receive _ _ _ _ (fun s' => ?_)) | (refine lasting_whenReadable _ _ _ _ _ _ (fun s' => ?_)) | (refine (lasting_foldl _ (fun s' a => ?_) _ _).trans ?_) | split | (simp; done) | (simp_all; done) | simp))))) | (simp at h; done))

theorem lasting_execSportLost (port : BitVec 2) (s : State) : ∀ t, (execSportLost port s) = .next t → t.lasting = s.lasting := by
  intro t; unfold execSportLost; (try simp only []); (repeat' split) <;> intro h <;> (first | (simp only [Host.Outcome.next.injEq] at h; subst h; first | (simp; done) | (simp_all; done) | (iterate 10 (all_goals (try (first | with_reducible rfl | (refine lasting_serve _ _ _ _ _ (fun s' => ?_)) | (refine (lasting_refuseIf _ _ _ (fun s' => ?_) _).trans ?_) | (refine lasting_receive _ _ _ _ (fun s' => ?_)) | (refine lasting_whenReadable _ _ _ _ _ _ (fun s' => ?_)) | (refine (lasting_foldl _ (fun s' a => ?_) _ _).trans ?_) | split | (simp; done) | (simp_all; done) | simp))))) | (simp at h; done))

theorem lasting_execSpiPoll (port : BitVec 2) (sensor : Nat) (reply : Bytes) (s : State) : ∀ t, (execSpiPoll port sensor reply s) = .next t → t.lasting = s.lasting := by
  intro t; unfold execSpiPoll; (try simp only []); (repeat' split) <;> intro h <;> (first | (simp only [Host.Outcome.next.injEq] at h; subst h; first | (simp; done) | (simp_all; done) | (iterate 10 (all_goals (try (first | with_reducible rfl | (refine lasting_serve _ _ _ _ _ (fun s' => ?_)) | (refine (lasting_refuseIf _ _ _ (fun s' => ?_) _).trans ?_) | (refine lasting_receive _ _ _ _ (fun s' => ?_)) | (refine lasting_whenReadable _ _ _ _ _ _ (fun s' => ?_)) | (refine (lasting_foldl _ (fun s' a => ?_) _ _).trans ?_) | split | (simp; done) | (simp_all; done) | simp))))) | (simp at h; done))

@[simp] theorem lasting_queuePressure (q now depth : Nat) (s : State) : (queuePressure q now depth s).lasting = s.lasting := by
  simp [queuePressure]

theorem lasting_execFeatureFrameTake (s : State) : ∀ t, (execFeatureFrameTake s) = .next t → t.lasting = s.lasting := by
  intro t; unfold execFeatureFrameTake; (try simp only []); (repeat' split) <;> intro h <;> (first | (simp only [Host.Outcome.next.injEq] at h; subst h; first | (simp; done) | (simp_all; done) | (iterate 10 (all_goals (try (first | with_reducible rfl | (refine lasting_serve _ _ _ _ _ (fun s' => ?_)) | (refine (lasting_refuseIf _ _ _ (fun s' => ?_) _).trans ?_) | (refine lasting_receive _ _ _ _ (fun s' => ?_)) | (refine lasting_whenReadable _ _ _ _ _ _ (fun s' => ?_)) | (refine (lasting_foldl _ (fun s' a => ?_) _ _).trans ?_) | split | (simp; done) | (simp_all; done) | simp))))) | (simp at h; done))

theorem lasting_execFeatConfigSet (h : Hdr) (p : Bytes) (s : State) : ∀ t, (execFeatConfigSet h p s) = .next t → t.lasting = s.lasting := by
  exact fun _ e => Host.Outcome.next.inj e ▸ lasting_cmdFeatConfigSet h p s

theorem lasting_execFeatConfigRemove (h : Hdr) (p : Bytes) (s : State) : ∀ t, (execFeatConfigRemove h p s) = .next t → t.lasting = s.lasting := by
  exact fun _ e => Host.Outcome.next.inj e ▸ lasting_cmdFeatConfigRemove h p s

theorem lasting_execFeatGet (h : Hdr) (p : Bytes) (s : State) : ∀ t, (execFeatGet h p s) = .next t → t.lasting = s.lasting := by
  exact fun _ e => Host.Outcome.next.inj e ▸ lasting_cmdFeatGet h p s

theorem lasting_execFeatOrderConfig (h : Hdr) (p : Bytes) (s : State) : ∀ t, (execFeatOrderConfig h p s) = .next t → t.lasting = s.lasting := by
  exact fun _ e => Host.Outcome.next.inj e ▸ lasting_cmdFeatOrderConfig h p s

theorem lasting_execFeatBandsSet (h : Hdr) (p : Bytes) (s : State) : ∀ t, (execFeatBandsSet h p s) = .next t → t.lasting = s.lasting := by
  exact fun _ e => Host.Outcome.next.inj e ▸ lasting_cmdFeatBandsSet h p s

theorem lasting_execFeatStateConfig (h : Hdr) (p : Bytes) (s : State) : ∀ t, (execFeatStateConfig h p s) = .next t → t.lasting = s.lasting := by
  exact fun _ e => Host.Outcome.next.inj e ▸ lasting_cmdFeatStateConfig h p s

theorem lasting_execFeatFrameRead (h : Hdr) (p : Bytes) (s : State) : ∀ t, (execFeatFrameRead h p s) = .next t → t.lasting = s.lasting := by
  exact fun _ e => Host.Outcome.next.inj e ▸ lasting_cmdFeatFrameRead h p s

theorem lasting_execBeltPositionGet (h : Hdr) (p : Bytes) (s : State) : ∀ t, (execBeltPositionGet h p s) = .next t → t.lasting = s.lasting := by
  exact fun _ e => Host.Outcome.next.inj e ▸ lasting_cmdBeltPositionGet h p s

theorem lasting_execBeltConfigDisable (h : Hdr) (p : Bytes) (s : State) : ∀ t, (execBeltConfigDisable h p s) = .next t → t.lasting = s.lasting := by
  exact fun _ e => Host.Outcome.next.inj e ▸ lasting_cmdBeltConfigDisable h p s

theorem lasting_execBeltConfigSet (h : Hdr) (p : Bytes) (s : State) : ∀ t, (execBeltConfigSet h p s) = .next t → t.lasting = s.lasting := by
  exact fun _ e => Host.Outcome.next.inj e ▸ lasting_cmdBeltConfigSet h p s

theorem lasting_execSetIndex (h : Hdr) (p : Bytes) (s : State) : ∀ t, (execSetIndex h p s) = .next t → t.lasting = s.lasting := by
  exact fun _ e => Host.Outcome.next.inj e ▸ lasting_cmdSetIndex h p s

theorem lasting_execBeltClearCount (h : Hdr) (p : Bytes) (s : State) : ∀ t, (execBeltClearCount h p s) = .next t → t.lasting = s.lasting := by
  exact fun _ e => Host.Outcome.next.inj e ▸ lasting_cmdBeltClearCount h p s

@[simp] theorem lasting_onHead (n : Nat) (f : Head → Head) (s : State) : (onHead n f s).lasting = s.lasting := by
  simp [onHead]

@[simp] theorem lasting_onModel (m : Nat) (f : Model → Model) (s : State) : (onModel m f s).lasting = s.lasting := by
  simp [onModel]

@[simp] theorem lasting_raiseHead (n : Nat) (code : Byte) (high : Bool) (body : Bytes) (s : State) : (raiseHead n code high body s).lasting = s.lasting := by
  unfold raiseHead; (repeat' split) <;> (first | with_reducible rfl | (simp; done))

@[simp] theorem lasting_noteFreeze (n cancelled : Nat) (s : State) : (noteFreeze n cancelled s).lasting = s.lasting := by
  simp [noteFreeze]

@[simp] theorem lasting_noteFreezes (s : State) : (noteFreezes s).lasting = s.lasting := by
  simp [noteFreezes]

@[simp] theorem lasting_cancelSteps (n : Nat) (s : State) : (cancelSteps n s).lasting = s.lasting := by
  simp [cancelSteps]

@[simp] theorem lasting_holdHeads (s : State) : (holdHeads s).lasting = s.lasting := by
  simp [holdHeads]

@[simp] theorem lasting_startSettle (n : Nat) (s : State) : (startSettle n s).lasting = s.lasting := by
  simp [startSettle]

@[simp] theorem lasting_startHoldoff (s : State) : (startHoldoff s).lasting = s.lasting := by
  simp [startHoldoff]

@[simp] theorem lasting_onArray (a : Nat) (f : CimArray → CimArray) (s : State) : (onArray a f s).lasting = s.lasting := by
  simp [onArray]

@[simp] theorem lasting_onCore (n : Nat) (f : Core → Core) (s : State) : (onCore n f s).lasting = s.lasting := by
  simp [onCore]

@[simp] theorem lasting_chargeCycles (a k : Nat) (s : State) : (chargeCycles a k s).lasting = s.lasting := by
  unfold chargeCycles; (repeat' split) <;> simp

@[simp] theorem lasting_chargeArray (a : Nat) (s : State) : (chargeArray a s).lasting = s.lasting := by
  simp [chargeArray]

@[simp] theorem lasting_postWear (why : WearWhy) (tag : Option Tag) (s : State) : (postWear why tag s).lasting = s.lasting := by
  simp [postWear]

@[simp] theorem lasting_countRefusal (s : State) : (countRefusal s).lasting = s.lasting := by
  simp [countRefusal]

@[simp] theorem lasting_onAsset (i : Nat) (f : Asset → Asset) (s : State) : (onAsset i f s).lasting = s.lasting := by
  simp [onAsset]

@[simp] theorem lasting_showBelay (s : State) : (showBelay s).lasting = s.lasting := by
  simp [showBelay]

@[simp] theorem lasting_enterBelay (p : BelayPhase) (declared : Bool) (s : State) : (enterBelay p declared s).lasting = s.lasting := by
  unfold enterBelay; (repeat' split) <;> (first | with_reducible rfl | (simp; done))

@[simp] theorem lasting_enterArmed (s : State) : (enterArmed s).lasting = s.lasting := by
  simp [enterArmed]

@[simp] theorem lasting_enterStopped (declared : Bool) (s : State) : (enterStopped declared s).lasting = s.lasting := by
  simp [enterStopped]

@[simp] theorem lasting_enterCoasting (s : State) : (enterCoasting s).lasting = s.lasting := by
  simp [enterCoasting]

@[simp] theorem lasting_followCoast (s : State) : (followCoast s).lasting = s.lasting := by
  unfold followCoast; (repeat' split) <;> (first | with_reducible rfl | (simp; done))

@[simp] theorem lasting_commitTrip (s : State) : (commitTrip s).lasting = s.lasting := by
  simp [commitTrip]

@[simp] theorem lasting_releaseHold (s : State) : (releaseHold s).lasting = s.lasting := by
  simp [releaseHold]

@[simp] theorem lasting_tripRequest (cause asset : Byte) (halted : Option Nat) (atOnce : Bool) (s : State) : (tripRequest cause asset halted atOnce s).1.lasting = s.lasting := by
  unfold tripRequest; (repeat' split) <;> (first | with_reducible rfl | (simp; done))

@[simp] theorem lasting_endRearm (status cause : Byte) (s : State) : (endRearm status cause s).lasting = s.lasting := by
  unfold endRearm; (repeat' split) <;> (first | with_reducible rfl | (simp; done))

@[simp] theorem lasting_checkRearm (s : State) : (checkRearm s).lasting = s.lasting := by
  simp [checkRearm]

@[simp] theorem lasting_assetEvent (i : Nat) (kind : Byte) (s : State) : (assetEvent i kind s).lasting = s.lasting := by
  simp [assetEvent]

@[simp] theorem lasting_lookAsset (i : Nat) (s : State) : (lookAsset i s).lasting = s.lasting := by
  simp [lookAsset]

@[simp] theorem lasting_lookBelay (s : State) : (lookBelay s).lasting = s.lasting := by
  simp [lookBelay]

@[simp] theorem lasting_updateAsset (i : Nat) (r : AssetResult) (s : State) : (updateAsset i r s).lasting = s.lasting := by
  simp [updateAsset]

@[simp] theorem lasting_assetTakes (r : AssetResult) (s : State) (i : Nat) : (assetTakes r s i).lasting = s.lasting := by
  simp [assetTakes]

theorem lasting_execAssetUpdate (s : State) : ∀ t, (execAssetUpdate s) = .next t → t.lasting = s.lasting := by
  intro t; unfold execAssetUpdate; (try simp only []); (repeat' split) <;> intro h <;> (first | (simp only [Host.Outcome.next.injEq] at h; subst h; first | (simp; done) | (simp_all; done) | (iterate 10 (all_goals (try (first | with_reducible rfl | (refine lasting_serve _ _ _ _ _ (fun s' => ?_)) | (refine (lasting_refuseIf _ _ _ (fun s' => ?_) _).trans ?_) | (refine lasting_receive _ _ _ _ (fun s' => ?_)) | (refine lasting_whenReadable _ _ _ _ _ _ (fun s' => ?_)) | (refine (lasting_foldl _ (fun s' a => ?_) _ _).trans ?_) | split | (simp; done) | (simp_all; done) | simp))))) | (simp at h; done))

theorem lasting_execConfirmWindowEnd (s : State) : ∀ t, (execConfirmWindowEnd s) = .next t → t.lasting = s.lasting := by
  intro t; unfold execConfirmWindowEnd; (try simp only []); (repeat' split) <;> intro h <;> (first | (simp only [Host.Outcome.next.injEq] at h; subst h; first | (simp; done) | (simp_all; done) | (iterate 10 (all_goals (try (first | with_reducible rfl | (refine lasting_serve _ _ _ _ _ (fun s' => ?_)) | (refine (lasting_refuseIf _ _ _ (fun s' => ?_) _).trans ?_) | (refine lasting_receive _ _ _ _ (fun s' => ?_)) | (refine lasting_whenReadable _ _ _ _ _ _ (fun s' => ?_)) | (refine (lasting_foldl _ (fun s' a => ?_) _ _).trans ?_) | split | (simp; done) | (simp_all; done) | simp))))) | (simp at h; done))

theorem lasting_execCoastTimerEnd (s : State) : ∀ t, (execCoastTimerEnd s) = .next t → t.lasting = s.lasting := by
  intro t; unfold execCoastTimerEnd; (try simp only []); (repeat' split) <;> intro h <;> (first | (simp only [Host.Outcome.next.injEq] at h; subst h; first | (simp; done) | (simp_all; done) | (iterate 10 (all_goals (try (first | with_reducible rfl | (refine lasting_serve _ _ _ _ _ (fun s' => ?_)) | (refine (lasting_refuseIf _ _ _ (fun s' => ?_) _).trans ?_) | (refine lasting_receive _ _ _ _ (fun s' => ?_)) | (refine lasting_whenReadable _ _ _ _ _ _ (fun s' => ?_)) | (refine (lasting_foldl _ (fun s' a => ?_) _ _).trans ?_) | split | (simp; done) | (simp_all; done) | simp))))) | (simp at h; done))

theorem lasting_execStopDwellEnd (s : State) : ∀ t, (execStopDwellEnd s) = .next t → t.lasting = s.lasting := by
  intro t; unfold execStopDwellEnd; (try simp only []); (repeat' split) <;> intro h <;> (first | (simp only [Host.Outcome.next.injEq] at h; subst h; first | (simp; done) | (simp_all; done) | (iterate 10 (all_goals (try (first | with_reducible rfl | (refine lasting_serve _ _ _ _ _ (fun s' => ?_)) | (refine (lasting_refuseIf _ _ _ (fun s' => ?_) _).trans ?_) | (refine lasting_receive _ _ _ _ (fun s' => ?_)) | (refine lasting_whenReadable _ _ _ _ _ _ (fun s' => ?_)) | (refine (lasting_foldl _ (fun s' a => ?_) _ _).trans ?_) | split | (simp; done) | (simp_all; done) | simp))))) | (simp at h; done))

theorem lasting_execMotionDwellEnd (s : State) : ∀ t, (execMotionDwellEnd s) = .next t → t.lasting = s.lasting := by
  intro t; unfold execMotionDwellEnd; (try simp only []); (repeat' split) <;> intro h <;> (first | (simp only [Host.Outcome.next.injEq] at h; subst h; first | (simp; done) | (simp_all; done) | (iterate 10 (all_goals (try (first | with_reducible rfl | (refine lasting_serve _ _ _ _ _ (fun s' => ?_)) | (refine (lasting_refuseIf _ _ _ (fun s' => ?_) _).trans ?_) | (refine lasting_receive _ _ _ _ (fun s' => ?_)) | (refine lasting_whenReadable _ _ _ _ _ _ (fun s' => ?_)) | (refine (lasting_foldl _ (fun s' a => ?_) _ _).trans ?_) | split | (simp; done) | (simp_all; done) | simp))))) | (simp at h; done))

theorem lasting_execRearmTimerEnd (s : State) : ∀ t, (execRearmTimerEnd s) = .next t → t.lasting = s.lasting := by
  intro t; unfold execRearmTimerEnd; (try simp only []); (repeat' split) <;> intro h <;> (first | (simp only [Host.Outcome.next.injEq] at h; subst h; first | (simp; done) | (simp_all; done) | (iterate 10 (all_goals (try (first | with_reducible rfl | (refine lasting_serve _ _ _ _ _ (fun s' => ?_)) | (refine (lasting_refuseIf _ _ _ (fun s' => ?_) _).trans ?_) | (refine lasting_receive _ _ _ _ (fun s' => ?_)) | (refine lasting_whenReadable _ _ _ _ _ _ (fun s' => ?_)) | (refine (lasting_foldl _ (fun s' a => ?_) _ _).trans ?_) | split | (simp; done) | (simp_all; done) | simp))))) | (simp at h; done))

theorem lasting_execStartGuardEnd (s : State) : ∀ t, (execStartGuardEnd s) = .next t → t.lasting = s.lasting := by
  intro t; unfold execStartGuardEnd; (try simp only []); (repeat' split) <;> intro h <;> (first | (simp only [Host.Outcome.next.injEq] at h; subst h; first | (simp; done) | (simp_all; done) | (iterate 10 (all_goals (try (first | with_reducible rfl | (refine lasting_serve _ _ _ _ _ (fun s' => ?_)) | (refine (lasting_refuseIf _ _ _ (fun s' => ?_) _).trans ?_) | (refine lasting_receive _ _ _ _ (fun s' => ?_)) | (refine lasting_whenReadable _ _ _ _ _ _ (fun s' => ?_)) | (refine (lasting_foldl _ (fun s' a => ?_) _ _).trans ?_) | split | (simp; done) | (simp_all; done) | simp))))) | (simp at h; done))

@[simp] theorem lasting_tachPhase (i : Nat) (p : InputPhase) (s : State) : (tachPhase i p s).lasting = s.lasting := by
  simp [tachPhase]

@[simp] theorem lasting_checkTachAdvance (i ppr : Nat) (s : State) : (checkTachAdvance i ppr s).lasting = s.lasting := by
  simp [checkTachAdvance]

@[simp] theorem lasting_countTach (i ns : Nat) (s : State) : (countTach i ns s).lasting = s.lasting := by
  simp [countTach]

theorem lasting_execTachEdge (tach : BitVec 2) (up : Bool) (held ns : Nat) (s : State) : ∀ t, (execTachEdge tach up held ns s) = .next t → t.lasting = s.lasting := by
  intro t; unfold execTachEdge; (try simp only []); (repeat' split) <;> intro h <;> (first | (simp only [Host.Outcome.next.injEq] at h; subst h; first | (simp; done) | (simp_all; done) | (iterate 10 (all_goals (try (first | with_reducible rfl | (refine lasting_serve _ _ _ _ _ (fun s' => ?_)) | (refine (lasting_refuseIf _ _ _ (fun s' => ?_) _).trans ?_) | (refine lasting_receive _ _ _ _ (fun s' => ?_)) | (refine lasting_whenReadable _ _ _ _ _ _ (fun s' => ?_)) | (refine (lasting_foldl _ (fun s' a => ?_) _ _).trans ?_) | split | (simp; done) | (simp_all; done) | simp))))) | (simp at h; done))

theorem lasting_execTachIdle (tach : BitVec 2) (s : State) : ∀ t, (execTachIdle tach s) = .next t → t.lasting = s.lasting := by
  intro t; unfold execTachIdle; (try simp only []); (repeat' split) <;> intro h <;> (first | (simp only [Host.Outcome.next.injEq] at h; subst h; first | (simp; done) | (simp_all; done) | (iterate 10 (all_goals (try (first | with_reducible rfl | (refine lasting_serve _ _ _ _ _ (fun s' => ?_)) | (refine (lasting_refuseIf _ _ _ (fun s' => ?_) _).trans ?_) | (refine lasting_receive _ _ _ _ (fun s' => ?_)) | (refine lasting_whenReadable _ _ _ _ _ _ (fun s' => ?_)) | (refine (lasting_foldl _ (fun s' a => ?_) _ _).trans ?_) | split | (simp; done) | (simp_all; done) | simp))))) | (simp at h; done))

@[simp] theorem lasting_cmdHoutMap (h : Hdr) (p : Bytes) (s : State) : (cmdHoutMap h p s).lasting = s.lasting := by
  simp [cmdHoutMap]

@[simp] theorem lasting_cmdHoutGet (h : Hdr) (p : Bytes) (s : State) : (cmdHoutGet h p s).lasting = s.lasting := by
  simp [cmdHoutGet]

@[simp] theorem lasting_cmdBelayConfig (h : Hdr) (p : Bytes) (s : State) : (cmdBelayConfig h p s).lasting = s.lasting := by
  simp [cmdBelayConfig]

@[simp] theorem lasting_cmdBelayArm (h : Hdr) (p : Bytes) (s : State) : (cmdBelayArm h p s).lasting = s.lasting := by
  simp [cmdBelayArm]

@[simp] theorem lasting_cmdBelayDisarm (h : Hdr) (p : Bytes) (s : State) : (cmdBelayDisarm h p s).lasting = s.lasting := by
  simp [cmdBelayDisarm]

@[simp] theorem lasting_cmdBelayTrip (h : Hdr) (p : Bytes) (s : State) : (cmdBelayTrip h p s).lasting = s.lasting := by
  simp [cmdBelayTrip]

@[simp] theorem lasting_cmdBelayAbortHold (h : Hdr) (p : Bytes) (s : State) : (cmdBelayAbortHold h p s).lasting = s.lasting := by
  simp [cmdBelayAbortHold]

@[simp] theorem lasting_cmdBelayRearm (h : Hdr) (p : Bytes) (s : State) : (cmdBelayRearm h p s).lasting = s.lasting := by
  simp [cmdBelayRearm]

@[simp] theorem lasting_cmdBelayDeclareStop (h : Hdr) (p : Bytes) (s : State) : (cmdBelayDeclareStop h p s).lasting = s.lasting := by
  simp [cmdBelayDeclareStop]

@[simp] theorem lasting_abortRearm (s : State) : (abortRearm s).lasting = s.lasting := by
  simp [abortRearm]

@[simp] theorem lasting_cmdBelayStatus (h : Hdr) (p : Bytes) (s : State) : (cmdBelayStatus h p s).lasting = s.lasting := by
  simp [cmdBelayStatus]

@[simp] theorem lasting_alarmSet (ok : Nat → Bool) (f : Nat → BelayBlock → BelayBlock) (h : Hdr) (p : Bytes) (s : State) : (alarmSet ok f h p s).lasting = s.lasting := by
  simp [alarmSet]

@[simp] theorem lasting_cmdAlarmSetMask (h : Hdr) (p : Bytes) (s : State) : (cmdAlarmSetMask h p s).lasting = s.lasting := by
  simp [cmdAlarmSetMask]

@[simp] theorem lasting_cmdAlarmSetHost (h : Hdr) (p : Bytes) (s : State) : (cmdAlarmSetHost h p s).lasting = s.lasting := by
  simp [cmdAlarmSetHost]

@[simp] theorem lasting_cmdAlarmClearHost (h : Hdr) (p : Bytes) (s : State) : (cmdAlarmClearHost h p s).lasting = s.lasting := by
  simp [cmdAlarmClearHost]

@[simp] theorem lasting_cmdAlarmAcknowledge (h : Hdr) (p : Bytes) (s : State) : (cmdAlarmAcknowledge h p s).lasting = s.lasting := by
  simp [cmdAlarmAcknowledge]

theorem lasting_execHoutMap (h : Hdr) (p : Bytes) (s : State) : ∀ t, (execHoutMap h p s) = .next t → t.lasting = s.lasting := by
  exact fun _ e => Host.Outcome.next.inj e ▸ lasting_cmdHoutMap h p s

theorem lasting_execHoutGet (h : Hdr) (p : Bytes) (s : State) : ∀ t, (execHoutGet h p s) = .next t → t.lasting = s.lasting := by
  exact fun _ e => Host.Outcome.next.inj e ▸ lasting_cmdHoutGet h p s

theorem lasting_execBelayConfig (h : Hdr) (p : Bytes) (s : State) : ∀ t, (execBelayConfig h p s) = .next t → t.lasting = s.lasting := by
  exact fun _ e => Host.Outcome.next.inj e ▸ lasting_cmdBelayConfig h p s

theorem lasting_execBelayArm (h : Hdr) (p : Bytes) (s : State) : ∀ t, (execBelayArm h p s) = .next t → t.lasting = s.lasting := by
  exact fun _ e => Host.Outcome.next.inj e ▸ lasting_cmdBelayArm h p s

theorem lasting_execBelayDisarm (h : Hdr) (p : Bytes) (s : State) : ∀ t, (execBelayDisarm h p s) = .next t → t.lasting = s.lasting := by
  exact fun _ e => Host.Outcome.next.inj e ▸ lasting_cmdBelayDisarm h p s

theorem lasting_execBelayTrip (h : Hdr) (p : Bytes) (s : State) : ∀ t, (execBelayTrip h p s) = .next t → t.lasting = s.lasting := by
  exact fun _ e => Host.Outcome.next.inj e ▸ lasting_cmdBelayTrip h p s

theorem lasting_execBelayAbortHold (h : Hdr) (p : Bytes) (s : State) : ∀ t, (execBelayAbortHold h p s) = .next t → t.lasting = s.lasting := by
  exact fun _ e => Host.Outcome.next.inj e ▸ lasting_cmdBelayAbortHold h p s

theorem lasting_execBelayRearm (h : Hdr) (p : Bytes) (s : State) : ∀ t, (execBelayRearm h p s) = .next t → t.lasting = s.lasting := by
  exact fun _ e => Host.Outcome.next.inj e ▸ lasting_cmdBelayRearm h p s

theorem lasting_execBelayDeclareStop (h : Hdr) (p : Bytes) (s : State) : ∀ t, (execBelayDeclareStop h p s) = .next t → t.lasting = s.lasting := by
  exact fun _ e => Host.Outcome.next.inj e ▸ lasting_cmdBelayDeclareStop h p s

theorem lasting_execBelayStatus (h : Hdr) (p : Bytes) (s : State) : ∀ t, (execBelayStatus h p s) = .next t → t.lasting = s.lasting := by
  exact fun _ e => Host.Outcome.next.inj e ▸ lasting_cmdBelayStatus h p s

theorem lasting_execAlarmSetMask (h : Hdr) (p : Bytes) (s : State) : ∀ t, (execAlarmSetMask h p s) = .next t → t.lasting = s.lasting := by
  exact fun _ e => Host.Outcome.next.inj e ▸ lasting_cmdAlarmSetMask h p s

theorem lasting_execAlarmSetHost (h : Hdr) (p : Bytes) (s : State) : ∀ t, (execAlarmSetHost h p s) = .next t → t.lasting = s.lasting := by
  exact fun _ e => Host.Outcome.next.inj e ▸ lasting_cmdAlarmSetHost h p s

theorem lasting_execAlarmClearHost (h : Hdr) (p : Bytes) (s : State) : ∀ t, (execAlarmClearHost h p s) = .next t → t.lasting = s.lasting := by
  exact fun _ e => Host.Outcome.next.inj e ▸ lasting_cmdAlarmClearHost h p s

theorem lasting_execAlarmAcknowledge (h : Hdr) (p : Bytes) (s : State) : ∀ t, (execAlarmAcknowledge h p s) = .next t → t.lasting = s.lasting := by
  exact fun _ e => Host.Outcome.next.inj e ▸ lasting_cmdAlarmAcknowledge h p s

@[simp] theorem lasting_onRm (f : ModelBlock → ModelBlock) (s : State) : (onRm f s).lasting = s.lasting := by
  simp [onRm]

@[simp] theorem lasting_onQueued (id : Nat) (f : Frame → Frame) (s : State) : (onQueued id f s).lasting = s.lasting := by
  simp [onQueued]

@[simp] theorem lasting_dropFrame (id : Nat) (s : State) : (dropFrame id s).lasting = s.lasting := by
  simp [dropFrame]

@[simp] theorem lasting_onJob (id : Nat) (f : Job → Job) (s : State) : (onJob id f s).lasting = s.lasting := by
  simp [onJob]

@[simp] theorem lasting_onCounters (m : Nat) (f : ModelCounters → ModelCounters) (s : State) : (onCounters m f s).lasting = s.lasting := by
  simp [onCounters]

@[simp] theorem lasting_countLost (o : BitVec 2) (s : State) : (countLost o s).lasting = s.lasting := by
  simp [countLost]

@[simp] theorem lasting_ringRoom (s : State) : (ringRoom s).lasting = s.lasting := by
  unfold ringRoom; (repeat' split) <;> (first | with_reducible rfl | (simp; done))

@[simp] theorem lasting_writeResult (m : Nat) (h : Bytes) (host : Option Tag) (v : Verdict') (s : State) : (writeResult m h host v s).lasting = s.lasting := by
  unfold writeResult; (repeat' split) <;> (first | with_reducible rfl | (simp; done))

@[simp] theorem lasting_postStep (f : Frame) (n layer : Nat) (s : State) : (postStep f n layer s).1.lasting = s.lasting := by
  simp only [postStep]; iterate 10 (all_goals (try (first | with_reducible rfl | (refine lasting_serve _ _ _ _ _ (fun s' => ?_)) | (refine (lasting_refuseIf _ _ _ (fun s' => ?_) _).trans ?_) | (refine lasting_receive _ _ _ _ (fun s' => ?_)) | (refine lasting_whenReadable _ _ _ _ _ _ (fun s' => ?_)) | (refine (lasting_foldl _ (fun s' a => ?_) _ _).trans ?_) | split | (simp; done) | (simp_all; done) | simp)))

@[simp] theorem lasting_postSteps (f : Frame) (s : State) : ((postSteps f s).1).lasting = s.lasting := by
  have h : ∀ (l : List (Nat × Nat)) (a : State × Nat), ((l.foldl (fun a u => let r := postStep f u.1 u.2 a.1; (r.1, if r.2 then a.2 + 2 ^ u.1 else a.2)) a).1).lasting = a.1.lasting := by
    intro l a
    induction l generalizing a with
    | nil => rfl
    | cons c l ih => rw [List.foldl_cons, ih]; simp
  simp [postSteps, h]

@[simp] theorem lasting_completeFrame (j : Job) (id : Nat) (s : State) : (completeFrame j id s).lasting = s.lasting := by
  unfold completeFrame; (repeat' split) <;> (first | with_reducible rfl | (simp; done))

@[simp] theorem lasting_dropJob (id : Nat) (s : State) : (dropJob id s).lasting = s.lasting := by
  simp [dropJob]

@[simp] theorem lasting_completeJob (j : Job) (s : State) : (completeJob j s).lasting = s.lasting := by
  simp [completeJob]

@[simp] theorem lasting_abandonFrame (f : Frame) (j : Option Job) (s : State) : (abandonFrame f j s).lasting = s.lasting := by
  simp [abandonFrame]

@[simp] theorem lasting_requeueFrame (f : Frame) (s : State) : (requeueFrame f s).lasting = s.lasting := by
  simp [requeueFrame]

@[simp] theorem lasting_loseFrame (j : Job) (f : Frame) (s : State) : (loseFrame j f s).lasting = s.lasting := by
  simp [loseFrame]

@[simp] theorem lasting_abandonJob (cause : Byte) (final : Bool) (j : Job) (s : State) : (abandonJob cause final j s).lasting = s.lasting := by
  simp [abandonJob]

@[simp] theorem lasting_abandonJobs (which : Job → Bool) (cause : Byte) (final : Bool) (s : State) : (abandonJobs which cause final s).lasting = s.lasting := by
  simp [abandonJobs]

@[simp] theorem lasting_forgetThese (fs : List Frame) (s : State) : (forgetThese fs s).lasting = s.lasting := by
  simp [forgetThese]

@[simp] theorem lasting_discardFrames (m : Nat) (s : State) : (discardFrames m s).lasting = s.lasting := by
  simp [discardFrames]

@[simp] theorem lasting_forgetFrames (m : Nat) (s : State) : (forgetFrames m s).lasting = s.lasting := by
  simp [forgetFrames]

@[simp] theorem lasting_reportFrames (m : Nat) (s : State) : (reportFrames m s).lasting = s.lasting := by
  simp [reportFrames]

@[simp] theorem lasting_eraseLater (firsts : List Nat) (s : State) : (eraseLater firsts s).lasting = s.lasting := by
  simp [eraseLater]

@[simp] theorem lasting_postCopy (n : Nat) (image : Bytes) (tag : Option Tag) (s : State) : (postCopy n image tag s).lasting = s.lasting := by
  simp [postCopy]

@[simp] theorem lasting_startSave (n : Nat) (cause : SaveCause) (tag : Option Tag) (s : State) : (startSave n cause tag s).lasting = s.lasting := by
  simp [startSave]

@[simp] theorem lasting_serveHead (n : Nat) (s : State) : (serveHead n s).lasting = s.lasting := by
  simp only [serveHead]; iterate 10 (all_goals (try (first | with_reducible rfl | (refine lasting_serve _ _ _ _ _ (fun s' => ?_)) | (refine (lasting_refuseIf _ _ _ (fun s' => ?_) _).trans ?_) | (refine lasting_receive _ _ _ _ (fun s' => ?_)) | (refine lasting_whenReadable _ _ _ _ _ _ (fun s' => ?_)) | (refine (lasting_foldl _ (fun s' a => ?_) _ _).trans ?_) | split | (simp; done) | (simp_all; done) | simp)))

@[simp] theorem lasting_requestSave (n : Nat) (cause : SaveCause) (tag : Option Tag) (s : State) : (requestSave n cause tag s).lasting = s.lasting := by
  simp [requestSave]

@[simp] theorem lasting_saveAtStop (m : Nat) (s : State) : (saveAtStop m s).lasting = s.lasting := by
  simp [saveAtStop]

@[simp] theorem lasting_consolidated (n : Nat) (kind : Byte) (arrays : List Nat) (s : State) : (consolidated n kind arrays s).lasting = s.lasting := by
  simp [consolidated]

@[simp] theorem lasting_forgetArrays (arrays : List Nat) (s : State) : (forgetArrays arrays s).lasting = s.lasting := by
  simp [forgetArrays]

@[simp] theorem lasting_dropWrites (which : WriteRun → Bool) (s : State) : (dropWrites which s).lasting = s.lasting := by
  simp [dropWrites]

@[simp] theorem lasting_dropCopyWrites (n : Nat) (status : Byte) (s : State) : (dropCopyWrites n status s).lasting = s.lasting := by
  simp [dropCopyWrites]

@[simp] theorem lasting_withdrawCopy (n : Nat) (keep : Bool) (status : Byte) (s : State) : (withdrawCopy n keep status s).lasting = s.lasting := by
  unfold withdrawCopy; (repeat' split) <;> (first | with_reducible rfl | (simp; done))

@[simp] theorem lasting_startLoad (n : Nat) (source : LoadSource) (tag : Option Tag) (s : State) : (startLoad n source tag s).lasting = s.lasting := by
  simp [startLoad]

theorem lasting_allocateHead {m : Nat} {img : Bytes} {l : Layer} {s : State} {t : State} (h : (allocateHead m img l s) = some t) : t.lasting = s.lasting := by
  simp only [allocateHead] at h; (repeat' split at h) <;> (first | (simp at h; done) | (simp only [Option.some.injEq] at h; subst h; first | with_reducible rfl | (simp; done) | (simp_all; done)))

theorem lasting_allocateHeads {m : Nat} {img : Bytes} {ls : List Layer} {s t : State} (h : allocateHeads m img ls s = some t) :
    (t).lasting = s.lasting := by
  induction ls generalizing s with
  | nil => simp only [allocateHeads, Option.some.injEq] at h; rw [h]
  | cons l ls ih =>
    simp only [allocateHeads, Option.bind_eq_some_iff] at h
    obtain ⟨u, h1, h2⟩ := h
    exact (ih h2).trans (lasting_allocateHead h1)

@[simp] theorem lasting_passCopy (n : Nat) (to' : Nat × Nat) (s : State) : (passCopy n to' s).lasting = s.lasting := by
  simp [passCopy]

@[simp] theorem lasting_passHeads (old new : Nat) (s : State) : (passHeads old new s).lasting = s.lasting := by
  unfold passHeads; dsimp only; refine (lasting_foldl _ (fun s' a => ?_) _ _).trans ?_ <;> (repeat' split) <;> first | rfl | simp

@[simp] theorem lasting_releaseHead (n : Nat) (tag : Option Tag) (s : State) : (releaseHead n tag s).lasting = s.lasting := by
  simp [releaseHead]

@[simp] theorem lasting_headReleased (n : Nat) (s : State) : (headReleased n s).lasting = s.lasting := by
  simp [headReleased]

@[simp] theorem lasting_placementEvent (m : Nat) (cause oldMode : Byte) (s : State) : (placementEvent m cause oldMode s).lasting = s.lasting := by
  simp [placementEvent]

@[simp] theorem lasting_setPhase (m : Nat) (p : ModelPhase) (s : State) : (setPhase m p s).lasting = s.lasting := by
  simp [setPhase]

theorem lasting_askGrant {writes : List ArrayWrite} {s : State} {t : State} (h : (askGrant writes s) = some t) : t.lasting = s.lasting := by
  simp only [askGrant] at h; (repeat' split at h) <;> (first | (simp at h; done) | (simp only [Option.some.injEq] at h; subst h; first | with_reducible rfl | (simp; done) | (simp_all; done)))

@[simp] theorem lasting_markWrites (run : WriteRun) (s : State) : (markWrites run s).lasting = s.lasting := by
  simp [markWrites]

@[simp] theorem lasting_orderWrites (run : WriteRun) (tag : Option Tag) (s : State) : (orderWrites run tag s).lasting = s.lasting := by
  simp [orderWrites]

@[simp] theorem lasting_dropRuns (m : Nat) (s : State) : (dropRuns m s).lasting = s.lasting := by
  simp [dropRuns]

@[simp] theorem lasting_unstage (m : Nat) (s : State) : (unstage m s).lasting = s.lasting := by
  simp [unstage]

@[simp] theorem lasting_setPlacement (m : Nat) (p : Placement) (s : State) : (setPlacement m p s).lasting = s.lasting := by
  simp [setPlacement]

@[simp] theorem lasting_freeBackups (m : Nat) (s : State) : (freeBackups m s).lasting = s.lasting := by
  simp [freeBackups]

@[simp] theorem lasting_emptySlot (m : Nat) (s : State) : (emptySlot m s).lasting = s.lasting := by
  simp [emptySlot]

@[simp] theorem lasting_releasePitch (m : Nat) (s : State) : (releasePitch m s).lasting = s.lasting := by
  simp [releasePitch]

@[simp] theorem lasting_carryUnload (m : Nat) (s : State) : (carryUnload m s).lasting = s.lasting := by
  unfold carryUnload; (repeat' split) <;> (first | with_reducible rfl | (simp; done))

@[simp] theorem lasting_startUnload (m : Nat) (tag : Option Tag) (s : State) : (startUnload m tag s).lasting = s.lasting := by
  simp only [startUnload]; iterate 10 (all_goals (try (first | with_reducible rfl | (refine lasting_serve _ _ _ _ _ (fun s' => ?_)) | (refine (lasting_refuseIf _ _ _ (fun s' => ?_) _).trans ?_) | (refine lasting_receive _ _ _ _ (fun s' => ?_)) | (refine lasting_whenReadable _ _ _ _ _ _ (fun s' => ?_)) | (refine (lasting_foldl _ (fun s' a => ?_) _ _).trans ?_) | split | (simp; done) | (simp_all; done) | simp)))

@[simp] theorem lasting_carryStop (m : Nat) (s : State) : (carryStop m s).lasting = s.lasting := by
  unfold carryStop; (repeat' split) <;> (first | with_reducible rfl | (simp; done))

@[simp] theorem lasting_carrySwitch (m : Nat) (s : State) : (carrySwitch m s).lasting = s.lasting := by
  unfold carrySwitch; (repeat' split) <;> (first | with_reducible rfl | (simp; done))

@[simp] theorem lasting_rollEpoch (o : Nat) (s : State) : (rollEpoch o s).lasting = s.lasting := by
  simp [rollEpoch]

@[simp] theorem lasting_carryRemoval (s : State) : (carryRemoval s).lasting = s.lasting := by
  unfold carryRemoval; (repeat' split) <;> (first | with_reducible rfl | (simp; done))

@[simp] theorem lasting_carryOn (s : State) : (carryOn s).lasting = s.lasting := by
  simp only [carryOn, lasting_carryRemoval]
  refine (lasting_foldl _ (fun q m => by simp) _ _).trans (lasting_foldl _ (fun q r => ?_) _ _)
  split
  · split <;> simp
  · rfl

@[simp] theorem lasting_runDone (r : WriteRun) (s : State) : (runDone r s).lasting = s.lasting := by
  unfold runDone; (repeat' split) <;> (first | with_reducible rfl | (simp; done))

@[simp] theorem lasting_startRun (run : WriteRun) (tag : Option Tag) (s : State) : (startRun run tag s).lasting = s.lasting := by
  simp [startRun]

@[simp] theorem lasting_haltModel (m : Nat) (code : Byte) (s : State) : (haltModel m code s).lasting = s.lasting := by
  simp only [haltModel]; (repeat' split) <;> (first | with_reducible rfl | (simp; done) | (simp_all; done))

@[simp] theorem lasting_replaceFails (m : Nat) (code : Byte) (s : State) : (replaceFails m code s).lasting = s.lasting := by
  unfold replaceFails; (repeat' split) <;> (first | with_reducible rfl | (simp; done))

@[simp] theorem lasting_replaceModel (m : Nat) (cause code : Byte) (fence : Option Nat) (s : State) : (replaceModel m cause code fence s).lasting = s.lasting := by
  simp only [replaceModel]
  split
  · simp
  · split
    · simp
    · rename_i hq; have := lasting_askGrant hq; simp [this]

@[simp] theorem lasting_withdrawSet (m : Nat) (s : State) : (withdrawSet m s).lasting = s.lasting := by
  simp [withdrawSet]

@[simp] theorem lasting_postFence (n : Nat) (s : State) : (postFence n s).lasting = s.lasting := by
  unfold postFence; (repeat' split) <;> (first | with_reducible rfl | (simp; done))

@[simp] theorem lasting_fenceCore (n : Nat) (cause : Byte) (tag : Option Tag) (s : State) : (fenceCore n cause tag s).lasting = s.lasting := by
  simp [fenceCore]

@[simp] theorem lasting_fenceCommitted (n : Nat) (s : State) : (fenceCommitted n s).lasting = s.lasting := by
  unfold fenceCommitted; (repeat' split) <;> (first | with_reducible rfl | (simp; done))

@[simp] theorem lasting_grantCommitted (s : State) : (grantCommitted s).lasting = s.lasting := by
  simp [grantCommitted]

@[simp] theorem lasting_enterFrame (m : Nat) (g : FeatureFrame) (bank : Nat) (host : Option Tag) (s : State) : (enterFrame m g bank host s).lasting = s.lasting := by
  simp [enterFrame]

@[simp] theorem lasting_readQueued (q : Queued) (s : State) : (readQueued q s).2.lasting = s.lasting := by
  unfold readQueued; (repeat' split) <;> (first | with_reducible rfl | (simp; done))

theorem lasting_execFeatureQueueRoute (s : State) : ∀ t, (execFeatureQueueRoute s) = .next t → t.lasting = s.lasting := by
  intro t; unfold execFeatureQueueRoute; (try simp only []); (repeat' split) <;> intro h <;> (first | (simp only [Host.Outcome.next.injEq] at h; subst h; first | (simp; done) | (simp_all; done) | (iterate 10 (all_goals (try (first | with_reducible rfl | (refine lasting_serve _ _ _ _ _ (fun s' => ?_)) | (refine (lasting_refuseIf _ _ _ (fun s' => ?_) _).trans ?_) | (refine lasting_receive _ _ _ _ (fun s' => ?_)) | (refine lasting_whenReadable _ _ _ _ _ _ (fun s' => ?_)) | (refine (lasting_foldl _ (fun s' a => ?_) _ _).trans ?_) | split | (simp; done) | (simp_all; done) | simp))))) | (simp at h; done))

@[simp] theorem lasting_sendRope (f : RopeFrame) (s : State) : (sendRope f s).lasting = s.lasting := by
  simp [sendRope]

@[simp] theorem lasting_grantFrames (m layer dst frames : Nat) (s : State) : (grantFrames m layer dst frames s).lasting = s.lasting := by
  simp [grantFrames]

@[simp] theorem lasting_startJob (m : Nat) (frames : List Frame) (bank space : Nat) (pitch : Bool) (round : Option Word32) (s : State) : (startJob m frames bank space pitch round s).lasting = s.lasting := by
  simp [startJob]

theorem lasting_startPitch {s t : State} (h : startPitch s = some t) : (t).lasting = s.lasting := by
  simp only [startPitch] at h
  split at h
  · simp at h
  · simp only [Option.map_eq_some_iff] at h; obtain ⟨b, _, h⟩ := h; subst h; simp

@[simp] theorem lasting_selectJob (s : State) : (selectJob s).lasting = s.lasting := by
  simp only [selectJob]; iterate 10 (all_goals (try (first | with_reducible rfl | (refine lasting_serve _ _ _ _ _ (fun s' => ?_)) | (refine (lasting_refuseIf _ _ _ (fun s' => ?_) _).trans ?_) | (refine lasting_receive _ _ _ _ (fun s' => ?_)) | (refine lasting_whenReadable _ _ _ _ _ _ (fun s' => ?_)) | (refine (lasting_foldl _ (fun s' a => ?_) _ _).trans ?_) | split | (simp; done) | (simp_all; done) | simp)))

theorem lasting_execJobStart (s : State) : ∀ t, execJobStart s = .next t → (t).lasting = s.lasting := by
  intro t h; simp only [execJobStart] at h
  (repeat' split at h) <;> simp only [Host.Outcome.next.injEq] at h <;> subst h
  · rfl
  · rename_i hq; exact lasting_startPitch hq
  · rfl
  · simp

theorem lasting_askDomain {n : Nat} {s : State} {t : State} (h : (askDomain n s) = some t) : t.lasting = s.lasting := by
  simp only [askDomain] at h; (repeat' split at h) <;> (first | (simp at h; done) | (simp only [Option.some.injEq] at h; subst h; first | with_reducible rfl | (simp; done) | (simp_all; done)))

theorem lasting_askCore {n : Nat} {s t : State} (h : askCore n s = some t) : (t).lasting = s.lasting := by
  simp only [askCore] at h
  (repeat' split at h) <;> first | (simp at h; done) | (have := lasting_askDomain h; simpa using this)

@[simp] theorem lasting_forceBand (j : Job) (n : Nat) (s : State) : (forceBand j n s).lasting = s.lasting := by
  simp [forceBand]

@[simp] theorem lasting_startPass (j : Job) (n : Nat) (arrays : List Nat) (s : State) : (startPass j n arrays s).lasting = s.lasting := by
  simp [startPass]

theorem lasting_tryCore {j : Job} {layer : Nat} {head : Option Nat} {arrays : List Nat} {n : Nat} {s t : State}
    (h : tryCore j layer head arrays n s = some t) : (t).lasting = s.lasting := by
  simp only [tryCore] at h
  (repeat' split at h) <;>
    first | (simp at h; done) | exact lasting_askCore h | (simp only [Option.some.injEq] at h; subst h; simp)

theorem lasting_findSome {α : Type} {f : α → State → Option State} (hf : ∀ {a s t}, f a s = some t → (t).lasting = s.lasting)
    {l : List α} {s t : State} (h : (l.findSome? fun a => f a s) = some t) : (t).lasting = s.lasting := by
  obtain ⟨a, _, h⟩ := List.exists_of_findSome?_eq_some h
  exact hf h

theorem lasting_tryUnit {j : Job} {u : Unit'} {domain : Nat} {s t : State} (h : tryUnit j u domain s = some t) : (t).lasting = s.lasting := by
  simp only [tryUnit] at h
  (repeat' split at h) <;>
    first | (simp at h; done) | exact lasting_askDomain h | (simp only [Option.some.injEq] at h; subst h; simp)

theorem lasting_tryRotate {j : Job} {lp : LayerPlace} {s t : State} (h : tryRotate j lp s = some t) : (t).lasting = s.lasting := by
  simp only [tryRotate] at h
  (repeat' split at h)
  · simp at h
  · rename_i hg; have hg := lasting_askGrant hg; simp only [Option.some.injEq] at h; subst h; simpa using hg
  · simp only [Option.some.injEq] at h; subst h; simp

@[simp] theorem lasting_stageLayer (m layer : Nat) (s : State) : (stageLayer m layer s).lasting = s.lasting := by
  simp [stageLayer]

theorem lasting_tryStream {j : Job} {staged : Bool} {s t : State} (h : tryStream j staged s = some t) : (t).lasting = s.lasting := by
  simp only [tryStream] at h
  (repeat' split at h) <;>
    first
      | (simp at h; done)
      | exact lasting_askDomain h
      | exact lasting_tryUnit h
      | (simp only [Option.some.injEq] at h; subst h; simp; done)
      | (simp only [Option.map_eq_some_iff] at h; obtain ⟨u, hu, h⟩ := h; subst h; simpa using lasting_tryUnit hu)

theorem lasting_tryJob {j : Job} {s t : State} (h : tryJob j s = some t) : (t).lasting = s.lasting := by
  simp only [tryJob] at h
  (repeat' split at h) <;>
    first
      | (simp at h; done)
      | exact lasting_askDomain h
      | exact lasting_tryUnit h
      | exact lasting_tryCore h
      | exact lasting_tryRotate h
      | exact lasting_tryStream h
      | exact lasting_findSome lasting_tryCore h
      | (rename_i hq; simp only [Option.some.injEq] at h; subst h; exact lasting_findSome lasting_tryCore hq)

theorem lasting_execLayerDispatch (s : State) : ∀ t, execLayerDispatch s = .next t → (t).lasting = s.lasting := by
  intro t h
  simp only [execLayerDispatch, Host.Outcome.next.injEq] at h
  subst h
  cases hq : s.mdl.jobs.findSome? fun j => tryJob j s with
  | none => rfl
  | some u => exact lasting_findSome lasting_tryJob hq

@[simp] theorem lasting_reportRound (m : Nat) (round : Word32) (s : State) : (reportRound m round s).lasting = s.lasting := by
  simp [reportRound]

@[simp] theorem lasting_endJob (id : Nat) (s : State) : (endJob id s).lasting = s.lasting := by
  unfold endJob; (repeat' split) <;> (first | with_reducible rfl | (simp; done))

@[simp] theorem lasting_vanishJob (j : Job) (s : State) : (vanishJob j s).lasting = s.lasting := by
  simp [vanishJob]

@[simp] theorem lasting_advance (id : Nat) (outs : Frame → List Int) (s : State) : (advance id outs s).lasting = s.lasting := by
  unfold advance; (repeat' split) <;> (first | with_reducible rfl | (simp; done))

@[simp] theorem lasting_countClips (array clips conv : Nat) (s : State) : (countClips array clips conv s).lasting = s.lasting := by
  simp [countClips]

@[simp] theorem lasting_runBlock (j : Job) (l : Layer) (b : Nat) (arrays : List Nat) (fs : List Frame) (s : State) : (runBlock j l b arrays fs s).lasting = s.lasting := by
  simp [runBlock]

@[simp] theorem lasting_runCopy (j : Job) (n : Nat) (s : State) : (runCopy j n s).lasting = s.lasting := by
  simp [runCopy]

theorem lasting_execCimPassDone (core : BitVec 3) (parityOk : Bool) (s : State) : ∀ t, (execCimPassDone core parityOk s) = .next t → t.lasting = s.lasting := by
  intro t; unfold execCimPassDone; (try simp only []); (repeat' split) <;> intro h <;> (first | (simp only [Host.Outcome.next.injEq] at h; subst h; first | (simp; done) | (simp_all; done) | (iterate 10 (all_goals (try (first | with_reducible rfl | (refine lasting_serve _ _ _ _ _ (fun s' => ?_)) | (refine (lasting_refuseIf _ _ _ (fun s' => ?_) _).trans ?_) | (refine lasting_receive _ _ _ _ (fun s' => ?_)) | (refine lasting_whenReadable _ _ _ _ _ _ (fun s' => ?_)) | (refine (lasting_foldl _ (fun s' a => ?_) _ _).trans ?_) | split | (simp; done) | (simp_all; done) | simp))))) | (simp at h; done))

theorem lasting_execStreamLayerDone (s : State) : ∀ t, (execStreamLayerDone s) = .next t → t.lasting = s.lasting := by
  intro t; unfold execStreamLayerDone; (try simp only []); (repeat' split) <;> intro h <;> (first | (simp only [Host.Outcome.next.injEq] at h; subst h; first | (simp; done) | (simp_all; done) | (iterate 10 (all_goals (try (first | with_reducible rfl | (refine lasting_serve _ _ _ _ _ (fun s' => ?_)) | (refine (lasting_refuseIf _ _ _ (fun s' => ?_) _).trans ?_) | (refine lasting_receive _ _ _ _ (fun s' => ?_)) | (refine lasting_whenReadable _ _ _ _ _ _ (fun s' => ?_)) | (refine (lasting_foldl _ (fun s' a => ?_) _ _).trans ?_) | split | (simp; done) | (simp_all; done) | simp))))) | (simp at h; done))

theorem lasting_execVectorLayerDone (s : State) : ∀ t, (execVectorLayerDone s) = .next t → t.lasting = s.lasting := by
  intro t; unfold execVectorLayerDone; (try simp only []); (repeat' split) <;> intro h <;> (first | (simp only [Host.Outcome.next.injEq] at h; subst h; first | (simp; done) | (simp_all; done) | (iterate 10 (all_goals (try (first | with_reducible rfl | (refine lasting_serve _ _ _ _ _ (fun s' => ?_)) | (refine (lasting_refuseIf _ _ _ (fun s' => ?_) _).trans ?_) | (refine lasting_receive _ _ _ _ (fun s' => ?_)) | (refine lasting_whenReadable _ _ _ _ _ _ (fun s' => ?_)) | (refine (lasting_foldl _ (fun s' a => ?_) _ _).trans ?_) | split | (simp; done) | (simp_all; done) | simp))))) | (simp at h; done))

theorem lasting_execProtoForwardDone (s : State) : ∀ t, (execProtoForwardDone s) = .next t → t.lasting = s.lasting := by
  intro t; unfold execProtoForwardDone; (try simp only []); (repeat' split) <;> intro h <;> (first | (simp only [Host.Outcome.next.injEq] at h; subst h; first | (simp; done) | (simp_all; done) | (iterate 10 (all_goals (try (first | with_reducible rfl | (refine lasting_serve _ _ _ _ _ (fun s' => ?_)) | (refine (lasting_refuseIf _ _ _ (fun s' => ?_) _).trans ?_) | (refine lasting_receive _ _ _ _ (fun s' => ?_)) | (refine lasting_whenReadable _ _ _ _ _ _ (fun s' => ?_)) | (refine (lasting_foldl _ (fun s' a => ?_) _ _).trans ?_) | split | (simp; done) | (simp_all; done) | simp))))) | (simp at h; done))

@[simp] theorem lasting_cmdModelLoadBegin (h : Hdr) (p : Bytes) (s : State) : (cmdModelLoadBegin h p s).lasting = s.lasting := by
  simp [cmdModelLoadBegin]

@[simp] theorem lasting_nextLoad (m : Nat) (l : List (Tag × Nat × Bytes)) (s : State) : (nextLoad m l s).lasting = s.lasting := by
  induction l generalizing s with
  | nil => simp [nextLoad]
  | cons a l ih => simp only [nextLoad]; (repeat' split) <;> (first | with_reducible rfl | (simp [ih]; done) | (simp_all; done))

@[simp] theorem lasting_cmdModelLoadData (h : Hdr) (p : Bytes) (s : State) : (cmdModelLoadData h p s).lasting = s.lasting := by
  simp [cmdModelLoadData]

@[simp] theorem lasting_cmdModelLoadAbandon (h : Hdr) (p : Bytes) (s : State) : (cmdModelLoadAbandon h p s).lasting = s.lasting := by
  simp [cmdModelLoadAbandon]

@[simp] theorem lasting_cmdModelVerify (h : Hdr) (p : Bytes) (s : State) : (cmdModelVerify h p s).lasting = s.lasting := by
  simp [cmdModelVerify]

theorem lasting_execModelVerifyDone (slot : BitVec 3) (s : State) : ∀ t, (execModelVerifyDone slot s) = .next t → t.lasting = s.lasting := by
  intro t; unfold execModelVerifyDone; (try simp only []); (repeat' split) <;> intro h <;> (first | (simp only [Host.Outcome.next.injEq] at h; subst h; first | (simp; done) | (simp_all; done) | (iterate 10 (all_goals (try (first | with_reducible rfl | (refine lasting_serve _ _ _ _ _ (fun s' => ?_)) | (refine (lasting_refuseIf _ _ _ (fun s' => ?_) _).trans ?_) | (refine lasting_receive _ _ _ _ (fun s' => ?_)) | (refine lasting_whenReadable _ _ _ _ _ _ (fun s' => ?_)) | (refine (lasting_foldl _ (fun s' a => ?_) _ _).trans ?_) | split | (simp; done) | (simp_all; done) | simp))))) | (simp at h; done))

@[simp] theorem lasting_unplace (m : Nat) (s : State) : (unplace m s).lasting = s.lasting := by
  simp [unplace]

theorem lasting_takeReserve {m : Nat} {s t : State} (h : takeReserve m s = some t) : (t).lasting = s.lasting := by
  simp only [takeReserve] at h
  split at h
  · simp only [Option.some.injEq] at h; subst h; rfl
  · simp only [Option.map_eq_some_iff] at h; obtain ⟨g, _, h⟩ := h; subst h; simp

theorem lasting_commitPlacement {m : Nat} {p : Placement} {inherit : List Nat} {mine : Nat → Bool} {s : State} {t : State × List ArrayWrite}
    (h : commitPlacement m p inherit mine s = .inr t) : (t.1).lasting = s.lasting := by
  simp only [commitPlacement] at h
  (repeat' split at h)
  · simp at h
  · simp at h
  · simp at h
  · simp at h
  · rename_i h1 _ _ h2 _ _ _ h3
    simp only [Sum.inr.injEq] at h; subst h
    have h1 := lasting_takeReserve h1; have h2 := lasting_allocateHeads h2; have h3 := lasting_askGrant h3
    simp_all

@[simp] theorem lasting_placeRefused (m : Nat) (p : Placement) (st : Byte) (s : State) : (placeRefused m p st s).lasting = s.lasting := by
  simp [placeRefused]

theorem lasting_placeModel (h : Hdr) (m : Nat) (p : Placement) (mine : Nat → Bool) (prep : State → State) (s : State)
    (h_prep : ∀ a, (prep a).lasting = a.lasting) : (placeModel h m p mine prep s).lasting = s.lasting := by
  simp only [placeModel]
  split
  · simp
  · rename_i hq; have := lasting_commitPlacement hq; simp_all

@[simp] theorem lasting_cmdModelPlace (h : Hdr) (p : Bytes) (s : State) : (cmdModelPlace h p s).lasting = s.lasting := by
  unfold cmdModelPlace
  refine lasting_serve _ _ _ _ _ (fun q => ?_)
  refine (lasting_refuseIf _ _ _ (fun q => ?_) _).trans rfl
  dsimp only
  split
  · rw [lasting_finish]; split <;> simp
  · exact lasting_placeModel _ _ _ _ _ _ (fun _ => rfl)

@[simp] theorem lasting_ridgePlaced (m base : Nat) (salt : Bytes) (s : State) : (ridgePlaced m base salt s).lasting = s.lasting := by
  simp [ridgePlaced]

@[simp] theorem lasting_cmdModelPlaceRidge (h : Hdr) (p : Bytes) (o : Option Refuser) (s : State) :
    (cmdModelPlaceRidge h p o s).lasting = s.lasting := by
  unfold cmdModelPlaceRidge
  refine lasting_serve _ _ _ _ _ (fun q => ?_)
  refine (lasting_refuseIf _ _ _ (fun q => ?_) _).trans rfl
  dsimp only
  split
  · split
    · rw [lasting_finish]; split <;> simp
    · simp
  · rw [lasting_finish]; split <;> simp
  · exact lasting_placeModel _ _ _ _ _ _ (fun _ => by simp)

@[simp] theorem lasting_placePitch (o : Config.PitchOrder) (s : State) : (placePitch o s).lasting = s.lasting := by
  simp only [placePitch]
  split
  · rfl
  · split
    · rfl
    · split
      · rfl
      · rename_i hq; have := lasting_commitPlacement hq; simp_all

@[simp] theorem lasting_takeOrder (s : State) : (takeOrder s).lasting = s.lasting := by
  unfold takeOrder; (repeat' split) <;> (first | with_reducible rfl | (simp; done))

@[simp] theorem lasting_cmdModelUnload (h : Hdr) (p : Bytes) (s : State) : (cmdModelUnload h p s).lasting = s.lasting := by
  simp [cmdModelUnload]

@[simp] theorem lasting_cmdModelPlacementGet (h : Hdr) (p : Bytes) (s : State) : (cmdModelPlacementGet h p s).lasting = s.lasting := by
  simp [cmdModelPlacementGet]

@[simp] theorem lasting_cmdModelList (h : Hdr) (p : Bytes) (s : State) : (cmdModelList h p s).lasting = s.lasting := by
  simp [cmdModelList]

@[simp] theorem lasting_cmdModelStart (h : Hdr) (p : Bytes) (s : State) : (cmdModelStart h p s).lasting = s.lasting := by
  unfold cmdModelStart; refine lasting_serve _ _ _ _ _ (fun s' => ?_); dsimp only; refine (lasting_refuseIf _ _ _ (fun s' => ?_) _).trans ?_ <;> (repeat' split) <;> first | rfl | simp

@[simp] theorem lasting_cmdModelStop (h : Hdr) (p : Bytes) (s : State) : (cmdModelStop h p s).lasting = s.lasting := by
  simp [cmdModelStop]

@[simp] theorem lasting_yieldOld (old : Nat) (s : State) : (yieldOld old s).lasting = s.lasting := by
  simp [yieldOld]

@[simp] theorem lasting_cmdModelReplace (h : Hdr) (p : Bytes) (s : State) : (cmdModelReplace h p s).lasting = s.lasting := by
  unfold cmdModelReplace
  refine lasting_serve _ _ _ _ _ (fun q => ?_)
  refine (lasting_refuseIf _ _ _ (fun q => ?_) _).trans rfl
  dsimp only
  split
  · simp
  · split
    · simp
    · rename_i hq; have := lasting_commitPlacement hq; simp only [lasting_carryOn, lasting_startRun]; split <;> simp_all

@[simp] theorem lasting_cmdModelBindStreams (h : Hdr) (p : Bytes) (s : State) : (cmdModelBindStreams h p s).lasting = s.lasting := by
  simp [cmdModelBindStreams]

theorem lasting_execModelLoadBegin (h : Hdr) (p : Bytes) (s : State) : ∀ t, (execModelLoadBegin h p s) = .next t → t.lasting = s.lasting := by
  exact fun _ e => Host.Outcome.next.inj e ▸ lasting_cmdModelLoadBegin h p s

theorem lasting_execModelLoadData (h : Hdr) (p : Bytes) (s : State) : ∀ t, (execModelLoadData h p s) = .next t → t.lasting = s.lasting := by
  exact fun _ e => Host.Outcome.next.inj e ▸ lasting_cmdModelLoadData h p s

theorem lasting_execModelLoadAbandon (h : Hdr) (p : Bytes) (s : State) : ∀ t, (execModelLoadAbandon h p s) = .next t → t.lasting = s.lasting := by
  exact fun _ e => Host.Outcome.next.inj e ▸ lasting_cmdModelLoadAbandon h p s

theorem lasting_execModelVerify (h : Hdr) (p : Bytes) (s : State) : ∀ t, (execModelVerify h p s) = .next t → t.lasting = s.lasting := by
  exact fun _ e => Host.Outcome.next.inj e ▸ lasting_cmdModelVerify h p s

theorem lasting_execModelPlace (h : Hdr) (p : Bytes) (s : State) : ∀ t, (execModelPlace h p s) = .next t → t.lasting = s.lasting := by
  exact fun _ e => Host.Outcome.next.inj e ▸ lasting_cmdModelPlace h p s

theorem lasting_execModelPlaceRidge (h : Hdr) (p : Bytes) (others : Option Refuser) (s : State) : ∀ t, (execModelPlaceRidge h p others s) = .next t → t.lasting = s.lasting := by
  exact fun _ e => Host.Outcome.next.inj e ▸ lasting_cmdModelPlaceRidge h p others s

theorem lasting_execModelUnload (h : Hdr) (p : Bytes) (s : State) : ∀ t, (execModelUnload h p s) = .next t → t.lasting = s.lasting := by
  exact fun _ e => Host.Outcome.next.inj e ▸ lasting_cmdModelUnload h p s

theorem lasting_execModelPlacementGet (h : Hdr) (p : Bytes) (s : State) : ∀ t, (execModelPlacementGet h p s) = .next t → t.lasting = s.lasting := by
  exact fun _ e => Host.Outcome.next.inj e ▸ lasting_cmdModelPlacementGet h p s

theorem lasting_execModelList (h : Hdr) (p : Bytes) (s : State) : ∀ t, (execModelList h p s) = .next t → t.lasting = s.lasting := by
  exact fun _ e => Host.Outcome.next.inj e ▸ lasting_cmdModelList h p s

theorem lasting_execModelStart (h : Hdr) (p : Bytes) (s : State) : ∀ t, (execModelStart h p s) = .next t → t.lasting = s.lasting := by
  exact fun _ e => Host.Outcome.next.inj e ▸ lasting_cmdModelStart h p s

theorem lasting_execModelStop (h : Hdr) (p : Bytes) (s : State) : ∀ t, (execModelStop h p s) = .next t → t.lasting = s.lasting := by
  exact fun _ e => Host.Outcome.next.inj e ▸ lasting_cmdModelStop h p s

theorem lasting_execModelReplace (h : Hdr) (p : Bytes) (s : State) : ∀ t, (execModelReplace h p s) = .next t → t.lasting = s.lasting := by
  exact fun _ e => Host.Outcome.next.inj e ▸ lasting_cmdModelReplace h p s

theorem lasting_execModelBindStreams (h : Hdr) (p : Bytes) (s : State) : ∀ t, (execModelBindStreams h p s) = .next t → t.lasting = s.lasting := by
  exact fun _ e => Host.Outcome.next.inj e ▸ lasting_cmdModelBindStreams h p s

@[simp] theorem lasting_cmdJobSubmit (h : Hdr) (p : Bytes) (s : State) : (cmdJobSubmit h p s).lasting = s.lasting := by
  simp [cmdJobSubmit]

@[simp] theorem lasting_deliver (seqs : List Word32) (s : State) : (deliver seqs s).lasting = s.lasting := by
  simp [deliver]

@[simp] theorem lasting_cmdResultRead (h : Hdr) (p : Bytes) (s : State) : (cmdResultRead h p s).lasting = s.lasting := by
  simp [cmdResultRead]

@[simp] theorem lasting_setPinned (seq : Word32) (v : Bool) (s : State) : (setPinned seq v s).lasting = s.lasting := by
  simp [setPinned]

@[simp] theorem lasting_cmdResultPin (h : Hdr) (p : Bytes) (s : State) : (cmdResultPin h p s).lasting = s.lasting := by
  simp only [cmdResultPin]; iterate 10 (all_goals (try (first | with_reducible rfl | (refine lasting_serve _ _ _ _ _ (fun s' => ?_)) | (refine (lasting_refuseIf _ _ _ (fun s' => ?_) _).trans ?_) | (refine lasting_receive _ _ _ _ (fun s' => ?_)) | (refine lasting_whenReadable _ _ _ _ _ _ (fun s' => ?_)) | (refine (lasting_foldl _ (fun s' a => ?_) _ _).trans ?_) | split | (simp; done) | (simp_all; done) | simp)))

@[simp] theorem lasting_cmdResultUnpin (h : Hdr) (p : Bytes) (s : State) : (cmdResultUnpin h p s).lasting = s.lasting := by
  simp only [cmdResultUnpin]; iterate 10 (all_goals (try (first | with_reducible rfl | (refine lasting_serve _ _ _ _ _ (fun s' => ?_)) | (refine (lasting_refuseIf _ _ _ (fun s' => ?_) _).trans ?_) | (refine lasting_receive _ _ _ _ (fun s' => ?_)) | (refine lasting_whenReadable _ _ _ _ _ _ (fun s' => ?_)) | (refine (lasting_foldl _ (fun s' a => ?_) _ _).trans ?_) | split | (simp; done) | (simp_all; done) | simp)))

@[simp] theorem lasting_cmdRmStatus (h : Hdr) (p : Bytes) (s : State) : (cmdRmStatus h p s).lasting = s.lasting := by
  simp [cmdRmStatus]

@[simp] theorem lasting_cmdRmCounters (h : Hdr) (p : Bytes) (s : State) : (cmdRmCounters h p s).lasting = s.lasting := by
  simp [cmdRmCounters]

@[simp] theorem lasting_cmdRmCountersClear (h : Hdr) (p : Bytes) (s : State) : (cmdRmCountersClear h p s).lasting = s.lasting := by
  simp [cmdRmCountersClear]

@[simp] theorem lasting_cmdRmShareSet (h : Hdr) (p : Bytes) (s : State) : (cmdRmShareSet h p s).lasting = s.lasting := by
  simp [cmdRmShareSet]

@[simp] theorem lasting_cmdQueueStatus (h : Hdr) (p : Bytes) (s : State) : (cmdQueueStatus h p s).lasting = s.lasting := by
  simp [cmdQueueStatus]

@[simp] theorem lasting_cmdQueueStatusClearHigh (h : Hdr) (p : Bytes) (s : State) : (cmdQueueStatusClearHigh h p s).lasting = s.lasting := by
  simp [cmdQueueStatusClearHigh]

@[simp] theorem lasting_cmdResultSubscribe (h : Hdr) (p : Bytes) (s : State) : (cmdResultSubscribe h p s).lasting = s.lasting := by
  simp [cmdResultSubscribe]

theorem lasting_execJobSubmit (h : Hdr) (p : Bytes) (s : State) : ∀ t, (execJobSubmit h p s) = .next t → t.lasting = s.lasting := by
  exact fun _ e => Host.Outcome.next.inj e ▸ lasting_cmdJobSubmit h p s

theorem lasting_execResultRead (h : Hdr) (p : Bytes) (s : State) : ∀ t, (execResultRead h p s) = .next t → t.lasting = s.lasting := by
  exact fun _ e => Host.Outcome.next.inj e ▸ lasting_cmdResultRead h p s

theorem lasting_execResultPin (h : Hdr) (p : Bytes) (s : State) : ∀ t, (execResultPin h p s) = .next t → t.lasting = s.lasting := by
  exact fun _ e => Host.Outcome.next.inj e ▸ lasting_cmdResultPin h p s

theorem lasting_execResultUnpin (h : Hdr) (p : Bytes) (s : State) : ∀ t, (execResultUnpin h p s) = .next t → t.lasting = s.lasting := by
  exact fun _ e => Host.Outcome.next.inj e ▸ lasting_cmdResultUnpin h p s

theorem lasting_execRmStatus (h : Hdr) (p : Bytes) (s : State) : ∀ t, (execRmStatus h p s) = .next t → t.lasting = s.lasting := by
  exact fun _ e => Host.Outcome.next.inj e ▸ lasting_cmdRmStatus h p s

theorem lasting_execRmCounters (h : Hdr) (p : Bytes) (s : State) : ∀ t, (execRmCounters h p s) = .next t → t.lasting = s.lasting := by
  exact fun _ e => Host.Outcome.next.inj e ▸ lasting_cmdRmCounters h p s

theorem lasting_execRmCountersClear (h : Hdr) (p : Bytes) (s : State) : ∀ t, (execRmCountersClear h p s) = .next t → t.lasting = s.lasting := by
  exact fun _ e => Host.Outcome.next.inj e ▸ lasting_cmdRmCountersClear h p s

theorem lasting_execRmShareSet (h : Hdr) (p : Bytes) (s : State) : ∀ t, (execRmShareSet h p s) = .next t → t.lasting = s.lasting := by
  exact fun _ e => Host.Outcome.next.inj e ▸ lasting_cmdRmShareSet h p s

theorem lasting_execQueueStatus (h : Hdr) (p : Bytes) (s : State) : ∀ t, (execQueueStatus h p s) = .next t → t.lasting = s.lasting := by
  exact fun _ e => Host.Outcome.next.inj e ▸ lasting_cmdQueueStatus h p s

theorem lasting_execQueueStatusClearHigh (h : Hdr) (p : Bytes) (s : State) : ∀ t, (execQueueStatusClearHigh h p s) = .next t → t.lasting = s.lasting := by
  exact fun _ e => Host.Outcome.next.inj e ▸ lasting_cmdQueueStatusClearHigh h p s

theorem lasting_execResultSubscribe (h : Hdr) (p : Bytes) (s : State) : ∀ t, (execResultSubscribe h p s) = .next t → t.lasting = s.lasting := by
  exact fun _ e => Host.Outcome.next.inj e ▸ lasting_cmdResultSubscribe h p s

@[simp] theorem lasting_deferCopy (n : Nat) (kind : Byte) (arrays : List Nat) (s : State) : (deferCopy n kind arrays s).lasting = s.lasting := by
  simp [deferCopy]

/-- The state that a request for a consolidated copy leaves. -/
def lasting_Request : Request → State
  | .begun s | .noArrays s | .wear s => s

@[simp] theorem lasting_requestCopy (n : Nat) (tag : Option Tag) (s : State) : (lasting_Request (requestCopy n tag s)).lasting = s.lasting := by
  simp only [requestCopy]
  split
  · simp [lasting_Request]
  · split
    · simp [lasting_Request]
    · rename_i hg; have hg := lasting_askGrant hg; simp [hg, lasting_Request]

theorem lasting_requestCopy_match {n : Nat} {tag : Option Tag} {s t : State}
    (h : requestCopy n tag s = .begun t ∨ requestCopy n tag s = .noArrays t ∨ requestCopy n tag s = .wear t) : (t).lasting = s.lasting := by
  have := lasting_requestCopy n tag s
  rcases h with h | h | h <;> rw [h] at this <;> exact this


@[simp] theorem lasting_testCopy (n : Nat) (s : State) : (testCopy n s).lasting = s.lasting := by
  unfold testCopy
  dsimp only
  split
  · rfl
  · split <;> (rename_i hq; first | exact lasting_requestCopy_match (.inl hq) | exact lasting_requestCopy_match (.inr (.inl hq)) | exact lasting_requestCopy_match (.inr (.inr hq)))

@[simp] theorem lasting_saveAtEpoch (n : Nat) (s : State) : (saveAtEpoch n s).lasting = s.lasting := by
  simp [saveAtEpoch]

@[simp] theorem lasting_epochEnd (n : Nat) (s : State) : (epochEnd n s).lasting = s.lasting := by
  simp [epochEnd]

theorem lasting_execLearningStep (head : BitVec 2) (s : State) : ∀ t, (execLearningStep head s) = .next t → t.lasting = s.lasting := by
  intro t; unfold execLearningStep; (try simp only []); (repeat' split) <;> intro h <;> (first | (simp only [Host.Outcome.next.injEq] at h; subst h; first | (simp; done) | (simp_all; done) | (iterate 10 (all_goals (try (first | with_reducible rfl | (refine lasting_serve _ _ _ _ _ (fun s' => ?_)) | (refine (lasting_refuseIf _ _ _ (fun s' => ?_) _).trans ?_) | (refine lasting_receive _ _ _ _ (fun s' => ?_)) | (refine lasting_whenReadable _ _ _ _ _ _ (fun s' => ?_)) | (refine (lasting_foldl _ (fun s' a => ?_) _ _).trans ?_) | split | (simp; done) | (simp_all; done) | simp))))) | (simp at h; done))

theorem lasting_execRewardUpdate (head : BitVec 2) (s : State) : ∀ t, (execRewardUpdate head s) = .next t → t.lasting = s.lasting := by
  intro t; unfold execRewardUpdate; (try simp only []); (repeat' split) <;> intro h <;> (first | (simp only [Host.Outcome.next.injEq] at h; subst h; first | (simp; done) | (simp_all; done) | (iterate 10 (all_goals (try (first | with_reducible rfl | (refine lasting_serve _ _ _ _ _ (fun s' => ?_)) | (refine (lasting_refuseIf _ _ _ (fun s' => ?_) _).trans ?_) | (refine lasting_receive _ _ _ _ (fun s' => ?_)) | (refine lasting_whenReadable _ _ _ _ _ _ (fun s' => ?_)) | (refine (lasting_foldl _ (fun s' a => ?_) _ _).trans ?_) | split | (simp; done) | (simp_all; done) | simp))))) | (simp at h; done))

theorem lasting_execSettlePeriodEnd (head : BitVec 2) (s : State) : ∀ t, (execSettlePeriodEnd head s) = .next t → t.lasting = s.lasting := by
  intro t; unfold execSettlePeriodEnd; (try simp only []); (repeat' split) <;> intro h <;> (first | (simp only [Host.Outcome.next.injEq] at h; subst h; first | (simp; done) | (simp_all; done) | (iterate 10 (all_goals (try (first | with_reducible rfl | (refine lasting_serve _ _ _ _ _ (fun s' => ?_)) | (refine (lasting_refuseIf _ _ _ (fun s' => ?_) _).trans ?_) | (refine lasting_receive _ _ _ _ (fun s' => ?_)) | (refine lasting_whenReadable _ _ _ _ _ _ (fun s' => ?_)) | (refine (lasting_foldl _ (fun s' a => ?_) _ _).trans ?_) | split | (simp; done) | (simp_all; done) | simp))))) | (simp at h; done))

theorem lasting_execHoldoffPeriodEnd (head : BitVec 2) (s : State) : ∀ t, (execHoldoffPeriodEnd head s) = .next t → t.lasting = s.lasting := by
  intro t; unfold execHoldoffPeriodEnd; (try simp only []); (repeat' split) <;> intro h <;> (first | (simp only [Host.Outcome.next.injEq] at h; subst h; first | (simp; done) | (simp_all; done) | (iterate 10 (all_goals (try (first | with_reducible rfl | (refine lasting_serve _ _ _ _ _ (fun s' => ?_)) | (refine (lasting_refuseIf _ _ _ (fun s' => ?_) _).trans ?_) | (refine lasting_receive _ _ _ _ (fun s' => ?_)) | (refine lasting_whenReadable _ _ _ _ _ _ (fun s' => ?_)) | (refine (lasting_foldl _ (fun s' a => ?_) _ _).trans ?_) | split | (simp; done) | (simp_all; done) | simp))))) | (simp at h; done))

@[simp] theorem lasting_exportBlob (n : Nat) (c : Bytes) (s : State) : (exportBlob n c s).2.lasting = s.lasting := by
  simp [exportBlob]

@[simp] theorem lasting_replyExport (n : Nat) (tag : Tag) (s : State) : (replyExport n tag s).lasting = s.lasting := by
  unfold replyExport; (repeat' split) <;> (first | with_reducible rfl | (simp; done))

@[simp] theorem lasting_carryRoll (s : State) : (carryRoll s).lasting = s.lasting := by
  have he : ∀ r q, (carryRoll.endRoll r q).lasting = q.lasting := fun r q => by simp [carryRoll.endRoll]
  unfold carryRoll
  split
  · rfl
  · dsimp only
    split
    · rfl
    · split
      · have hf : ∀ q : State, ∀ l, (List.foldl (fun s n => startLoad n LoadSource.wake none s) q l).lasting = q.lasting :=
          fun q l => lasting_foldl _ (fun _ _ => by simp) _ _
        split <;> simp [he, hf]
      · exact he _ _

theorem lasting_execHeadSaveCommit (head : BitVec 2) (s : State) : ∀ t, (execHeadSaveCommit head s) = .next t → t.lasting = s.lasting := by
  intro t; unfold execHeadSaveCommit; (try simp only []); (repeat' split) <;> intro h <;> (first | (simp only [Host.Outcome.next.injEq] at h; subst h; first | (simp; done) | (simp_all; done) | (iterate 10 (all_goals (try (first | with_reducible rfl | (refine lasting_serve _ _ _ _ _ (fun s' => ?_)) | (refine (lasting_refuseIf _ _ _ (fun s' => ?_) _).trans ?_) | (refine lasting_receive _ _ _ _ (fun s' => ?_)) | (refine lasting_whenReadable _ _ _ _ _ _ (fun s' => ?_)) | (refine (lasting_foldl _ (fun s' a => ?_) _ _).trans ?_) | split | (simp; done) | (simp_all; done) | simp))))) | (simp at h; done))

@[simp] theorem lasting_loadTakes (n : Nat) (u : Nat × Nat) (source : LoadSource) (tag : Option Tag) (copy : Option Bytes) (s : State) : (loadTakes n u source tag copy s).lasting = s.lasting := by
  unfold loadTakes; (repeat' split) <;> (first | with_reducible rfl | (simp; done))

theorem lasting_execHeadLoadDone (head : BitVec 2) (s : State) : ∀ t, (execHeadLoadDone head s) = .next t → t.lasting = s.lasting := by
  intro t; unfold execHeadLoadDone; (try simp only []); (repeat' split) <;> intro h <;> (first | (simp only [Host.Outcome.next.injEq] at h; subst h; first | (simp; done) | (simp_all; done) | (iterate 10 (all_goals (try (first | with_reducible rfl | (refine lasting_serve _ _ _ _ _ (fun s' => ?_)) | (refine (lasting_refuseIf _ _ _ (fun s' => ?_) _).trans ?_) | (refine lasting_receive _ _ _ _ (fun s' => ?_)) | (refine lasting_whenReadable _ _ _ _ _ _ (fun s' => ?_)) | (refine (lasting_foldl _ (fun s' a => ?_) _ _).trans ?_) | split | (simp; done) | (simp_all; done) | simp))))) | (simp at h; done))

theorem lasting_execConsolidationInForce (head : BitVec 2) (s : State) : ∀ t, (execConsolidationInForce head s) = .next t → t.lasting = s.lasting := by
  intro t; unfold execConsolidationInForce; (try simp only []); (repeat' split) <;> intro h <;> (first | (simp only [Host.Outcome.next.injEq] at h; subst h; first | (simp; done) | (simp_all; done) | (iterate 10 (all_goals (try (first | with_reducible rfl | (refine lasting_serve _ _ _ _ _ (fun s' => ?_)) | (refine (lasting_refuseIf _ _ _ (fun s' => ?_) _).trans ?_) | (refine lasting_receive _ _ _ _ (fun s' => ?_)) | (refine lasting_whenReadable _ _ _ _ _ _ (fun s' => ?_)) | (refine (lasting_foldl _ (fun s' a => ?_) _ _).trans ?_) | split | (simp; done) | (simp_all; done) | simp))))) | (simp at h; done))

@[simp] theorem lasting_cmdHeadConfig (h : Hdr) (p : Bytes) (s : State) : (cmdHeadConfig h p s).lasting = s.lasting := by
  simp [cmdHeadConfig]

@[simp] theorem lasting_cmdModulatorConfig (h : Hdr) (p : Bytes) (s : State) : (cmdModulatorConfig h p s).lasting = s.lasting := by
  simp [cmdModulatorConfig]

@[simp] theorem lasting_cmdHeadGet (h : Hdr) (p : Bytes) (s : State) : (cmdHeadGet h p s).lasting = s.lasting := by
  simp [cmdHeadGet]

@[simp] theorem lasting_cmdRewardCancel (h : Hdr) (p : Bytes) (s : State) : (cmdRewardCancel h p s).lasting = s.lasting := by
  simp [cmdRewardCancel]

@[simp] theorem lasting_cmdRewardImmediate (h : Hdr) (p : Bytes) (s : State) : (cmdRewardImmediate h p s).lasting = s.lasting := by
  simp [cmdRewardImmediate]

@[simp] theorem lasting_cmdRewardHeld (h : Hdr) (p : Bytes) (s : State) : (cmdRewardHeld h p s).lasting = s.lasting := by
  simp [cmdRewardHeld]

@[simp] theorem lasting_cmdHeadFreeze (h : Hdr) (p : Bytes) (s : State) : (cmdHeadFreeze h p s).lasting = s.lasting := by
  simp [cmdHeadFreeze]

@[simp] theorem lasting_cmdHeadResume (h : Hdr) (p : Bytes) (s : State) : (cmdHeadResume h p s).lasting = s.lasting := by
  simp [cmdHeadResume]

@[simp] theorem lasting_cmdHeadSave (h : Hdr) (p : Bytes) (s : State) : (cmdHeadSave h p s).lasting = s.lasting := by
  simp only [cmdHeadSave]; iterate 10 (all_goals (try (first | with_reducible rfl | (refine lasting_serve _ _ _ _ _ (fun s' => ?_)) | (refine (lasting_refuseIf _ _ _ (fun s' => ?_) _).trans ?_) | (refine lasting_receive _ _ _ _ (fun s' => ?_)) | (refine lasting_whenReadable _ _ _ _ _ _ (fun s' => ?_)) | (refine (lasting_foldl _ (fun s' a => ?_) _ _).trans ?_) | split | (simp; done) | (simp_all; done) | simp)))

@[simp] theorem lasting_cmdHeadRestore (h : Hdr) (p : Bytes) (s : State) : (cmdHeadRestore h p s).lasting = s.lasting := by
  simp [cmdHeadRestore]

@[simp] theorem lasting_cmdHeadExport (h : Hdr) (p : Bytes) (s : State) : (cmdHeadExport h p s).lasting = s.lasting := by
  simp only [cmdHeadExport]; iterate 10 (all_goals (try (first | with_reducible rfl | (refine lasting_serve _ _ _ _ _ (fun s' => ?_)) | (refine (lasting_refuseIf _ _ _ (fun s' => ?_) _).trans ?_) | (refine lasting_receive _ _ _ _ (fun s' => ?_)) | (refine lasting_whenReadable _ _ _ _ _ _ (fun s' => ?_)) | (refine (lasting_foldl _ (fun s' a => ?_) _ _).trans ?_) | split | (simp; done) | (simp_all; done) | simp)))

@[simp] theorem lasting_cmdHeadImport (h : Hdr) (p : Bytes) (s : State) : (cmdHeadImport h p s).lasting = s.lasting := by
  simp only [cmdHeadImport]; iterate 10 (all_goals (try (first | with_reducible rfl | (refine lasting_serve _ _ _ _ _ (fun s' => ?_)) | (refine (lasting_refuseIf _ _ _ (fun s' => ?_) _).trans ?_) | (refine lasting_receive _ _ _ _ (fun s' => ?_)) | (refine lasting_whenReadable _ _ _ _ _ _ (fun s' => ?_)) | (refine (lasting_foldl _ (fun s' a => ?_) _ _).trans ?_) | split | (simp; done) | (simp_all; done) | simp)))

@[simp] theorem lasting_cmdHeadConsolidate (h : Hdr) (p : Bytes) (s : State) : (cmdHeadConsolidate h p s).lasting = s.lasting := by
  unfold cmdHeadConsolidate
  refine lasting_serve _ _ _ _ _ (fun q => ?_)
  refine (lasting_refuseIf _ _ _ (fun q => ?_) _).trans rfl
  split
  · simp
  · split <;> (rename_i hq; have := lasting_requestCopy_match (t := _) (by first | exact .inl hq | exact .inr (.inl hq) | exact .inr (.inr hq)); simpa using this)

@[simp] theorem lasting_cmdHeadStats (h : Hdr) (p : Bytes) (s : State) : (cmdHeadStats h p s).lasting = s.lasting := by
  simp [cmdHeadStats]

@[simp] theorem lasting_cmdHeadStatsClear (h : Hdr) (p : Bytes) (s : State) : (cmdHeadStatsClear h p s).lasting = s.lasting := by
  simp [cmdHeadStatsClear]

@[simp] theorem lasting_erasePair (n : Nat) (tag : Option Tag) (s : State) : (erasePair n tag s).lasting = s.lasting := by
  simp [erasePair]

@[simp] theorem lasting_cmdHeadReset (h : Hdr) (p : Bytes) (s : State) : (cmdHeadReset h p s).lasting = s.lasting := by
  simp [cmdHeadReset]

@[simp] theorem lasting_cmdHeadEraseOrphan (h : Hdr) (p : Bytes) (s : State) : (cmdHeadEraseOrphan h p s).lasting = s.lasting := by
  simp [cmdHeadEraseOrphan]

theorem lasting_execHeadConfig (h : Hdr) (p : Bytes) (s : State) : ∀ t, (execHeadConfig h p s) = .next t → t.lasting = s.lasting := by
  exact fun _ e => Host.Outcome.next.inj e ▸ lasting_cmdHeadConfig h p s

theorem lasting_execHeadGet (h : Hdr) (p : Bytes) (s : State) : ∀ t, (execHeadGet h p s) = .next t → t.lasting = s.lasting := by
  exact fun _ e => Host.Outcome.next.inj e ▸ lasting_cmdHeadGet h p s

theorem lasting_execRewardCancel (h : Hdr) (p : Bytes) (s : State) : ∀ t, (execRewardCancel h p s) = .next t → t.lasting = s.lasting := by
  exact fun _ e => Host.Outcome.next.inj e ▸ lasting_cmdRewardCancel h p s

theorem lasting_execRewardImmediate (h : Hdr) (p : Bytes) (s : State) : ∀ t, (execRewardImmediate h p s) = .next t → t.lasting = s.lasting := by
  exact fun _ e => Host.Outcome.next.inj e ▸ lasting_cmdRewardImmediate h p s

theorem lasting_execRewardHeld (h : Hdr) (p : Bytes) (s : State) : ∀ t, (execRewardHeld h p s) = .next t → t.lasting = s.lasting := by
  exact fun _ e => Host.Outcome.next.inj e ▸ lasting_cmdRewardHeld h p s

theorem lasting_execModulatorConfig (h : Hdr) (p : Bytes) (s : State) : ∀ t, (execModulatorConfig h p s) = .next t → t.lasting = s.lasting := by
  exact fun _ e => Host.Outcome.next.inj e ▸ lasting_cmdModulatorConfig h p s

theorem lasting_execHeadFreeze (h : Hdr) (p : Bytes) (s : State) : ∀ t, (execHeadFreeze h p s) = .next t → t.lasting = s.lasting := by
  exact fun _ e => Host.Outcome.next.inj e ▸ lasting_cmdHeadFreeze h p s

theorem lasting_execHeadResume (h : Hdr) (p : Bytes) (s : State) : ∀ t, (execHeadResume h p s) = .next t → t.lasting = s.lasting := by
  exact fun _ e => Host.Outcome.next.inj e ▸ lasting_cmdHeadResume h p s

theorem lasting_execHeadSave (h : Hdr) (p : Bytes) (s : State) : ∀ t, (execHeadSave h p s) = .next t → t.lasting = s.lasting := by
  exact fun _ e => Host.Outcome.next.inj e ▸ lasting_cmdHeadSave h p s

theorem lasting_execHeadRestore (h : Hdr) (p : Bytes) (s : State) : ∀ t, (execHeadRestore h p s) = .next t → t.lasting = s.lasting := by
  exact fun _ e => Host.Outcome.next.inj e ▸ lasting_cmdHeadRestore h p s

theorem lasting_execHeadExport (h : Hdr) (p : Bytes) (s : State) : ∀ t, (execHeadExport h p s) = .next t → t.lasting = s.lasting := by
  exact fun _ e => Host.Outcome.next.inj e ▸ lasting_cmdHeadExport h p s

theorem lasting_execHeadImport (h : Hdr) (p : Bytes) (s : State) : ∀ t, (execHeadImport h p s) = .next t → t.lasting = s.lasting := by
  exact fun _ e => Host.Outcome.next.inj e ▸ lasting_cmdHeadImport h p s

theorem lasting_execHeadConsolidate (h : Hdr) (p : Bytes) (s : State) : ∀ t, (execHeadConsolidate h p s) = .next t → t.lasting = s.lasting := by
  exact fun _ e => Host.Outcome.next.inj e ▸ lasting_cmdHeadConsolidate h p s

theorem lasting_execHeadStats (h : Hdr) (p : Bytes) (s : State) : ∀ t, (execHeadStats h p s) = .next t → t.lasting = s.lasting := by
  exact fun _ e => Host.Outcome.next.inj e ▸ lasting_cmdHeadStats h p s

theorem lasting_execHeadStatsClear (h : Hdr) (p : Bytes) (s : State) : ∀ t, (execHeadStatsClear h p s) = .next t → t.lasting = s.lasting := by
  exact fun _ e => Host.Outcome.next.inj e ▸ lasting_cmdHeadStatsClear h p s

theorem lasting_execHeadReset (h : Hdr) (p : Bytes) (s : State) : ∀ t, (execHeadReset h p s) = .next t → t.lasting = s.lasting := by
  exact fun _ e => Host.Outcome.next.inj e ▸ lasting_cmdHeadReset h p s

theorem lasting_execHeadEraseOrphan (h : Hdr) (p : Bytes) (s : State) : ∀ t, (execHeadEraseOrphan h p s) = .next t → t.lasting = s.lasting := by
  exact fun _ e => Host.Outcome.next.inj e ▸ lasting_cmdHeadEraseOrphan h p s

@[simp] theorem lasting_wantCores (s : State) : (wantCores s).lasting = s.lasting := by
  unfold wantCores
  refine (lasting_foldl _ (fun s n => ?_) _ _).trans rfl
  split
  · simp
  · split
    · rfl
    · split
      · cases hq : askCore n s with
        | none => rfl
        | some u => exact lasting_askCore hq
      · rfl

@[simp] theorem lasting_giveResult (kind n : Nat) (result : Byte) (s : State) : (giveResult kind n result s).lasting = s.lasting := by
  simp [giveResult]

@[simp] theorem lasting_closeFenced (s : State) : (closeFenced s).lasting = s.lasting := by
  simp [closeFenced]

@[simp] theorem lasting_endRuns (s : State) : (endRuns s).lasting = s.lasting := by
  simp [endRuns]

@[simp] theorem lasting_fenceNow (n : Nat) (cause : Byte) (s : State) : (fenceNow n cause s).lasting = s.lasting := by
  unfold fenceNow; (repeat' split) <;> (first | with_reducible rfl | (simp; done))

@[simp] theorem lasting_unfenceFails (status : Byte) (s : State) : (unfenceFails status s).lasting = s.lasting := by
  unfold unfenceFails; (repeat' split) <;> (first | with_reducible rfl | (simp; done))

@[simp] theorem lasting_unfenceCommitted (n : Nat) (s : State) : (unfenceCommitted n s).lasting = s.lasting := by
  unfold unfenceCommitted; (repeat' split) <;> (first | with_reducible rfl | (simp; done))

@[simp] theorem lasting_columnEvents (a : Nat) (kind : Byte) (count : Nat) (s : State) : (columnEvents a kind count s).lasting = s.lasting := by
  simp [columnEvents]

@[simp] theorem lasting_refreshArray (a : Nat) (s : State) : (refreshArray a s).lasting = s.lasting := by
  unfold refreshArray
  dsimp only
  split
  · rfl
  · split
    · split <;> (rename_i hq; first | exact lasting_requestCopy_match (.inl hq) | exact lasting_requestCopy_match (.inr (.inl hq)) | exact lasting_requestCopy_match (.inr (.inr hq)))
    · split
      · rfl
      · split
        · simp
        · rename_i hq; have := lasting_askGrant hq; simp [this]

@[simp] theorem lasting_chargeLate (w : ArrayWrite) (s : State) : (chargeLate w s).lasting = s.lasting := by
  unfold chargeLate; (repeat' split) <;> simp

@[simp] theorem lasting_beginWrite (n : Nat) (s : State) : (beginWrite n s).lasting = s.lasting := by
  unfold beginWrite; (repeat' split) <;> (first | with_reducible rfl | (simp; done))

@[simp] theorem lasting_beginWrites (s : State) : (beginWrites s).lasting = s.lasting := by
  simp [beginWrites]

@[simp] theorem lasting_programArray (w : ArrayWrite) (s : State) : (programArray w s).lasting = s.lasting := by
  simp [programArray]

theorem lasting_execArrayWriteDone (array : BitVec 6) (stuck : List (BitVec 8)) (residual : Nat) (outside : Bool) (bad : Nat) (s : State) : ∀ t, (execArrayWriteDone array stuck residual outside bad s) = .next t → t.lasting = s.lasting := by
  intro t; unfold execArrayWriteDone; (try simp only []); (repeat' split) <;> intro h <;> (first | (simp only [Host.Outcome.next.injEq] at h; subst h; first | (simp; done) | (simp_all; done) | (iterate 10 (all_goals (try (first | with_reducible rfl | (refine lasting_serve _ _ _ _ _ (fun s' => ?_)) | (refine (lasting_refuseIf _ _ _ (fun s' => ?_) _).trans ?_) | (refine lasting_receive _ _ _ _ (fun s' => ?_)) | (refine lasting_whenReadable _ _ _ _ _ _ (fun s' => ?_)) | (refine (lasting_foldl _ (fun s' a => ?_) _ _).trans ?_) | split | (simp; done) | (simp_all; done) | simp))))) | (simp at h; done))

theorem lasting_execRecalibration (core : BitVec 3) (residual : Nat) (outside : Bool) (bad : List (BitVec 3)) (s : State) : ∀ t, (execRecalibration core residual outside bad s) = .next t → t.lasting = s.lasting := by
  intro t; unfold execRecalibration; (try simp only []); (repeat' split) <;> intro h <;> (first | (simp only [Host.Outcome.next.injEq] at h; subst h; first | (simp; done) | (simp_all; done) | (iterate 10 (all_goals (try (first | with_reducible rfl | (refine lasting_serve _ _ _ _ _ (fun s' => ?_)) | (refine (lasting_refuseIf _ _ _ (fun s' => ?_) _).trans ?_) | (refine lasting_receive _ _ _ _ (fun s' => ?_)) | (refine lasting_whenReadable _ _ _ _ _ _ (fun s' => ?_)) | (refine (lasting_foldl _ (fun s' a => ?_) _ _).trans ?_) | split | (simp; done) | (simp_all; done) | simp))))) | (simp at h; done))

theorem lasting_execQuickSelftest (core : BitVec 3) (ok : Bool) (s : State) : ∀ t, (execQuickSelftest core ok s) = .next t → t.lasting = s.lasting := by
  intro t; unfold execQuickSelftest; (try simp only []); (repeat' split) <;> intro h <;> (first | (simp only [Host.Outcome.next.injEq] at h; subst h; first | (simp; done) | (simp_all; done) | (iterate 10 (all_goals (try (first | with_reducible rfl | (refine lasting_serve _ _ _ _ _ (fun s' => ?_)) | (refine (lasting_refuseIf _ _ _ (fun s' => ?_) _).trans ?_) | (refine lasting_receive _ _ _ _ (fun s' => ?_)) | (refine lasting_whenReadable _ _ _ _ _ _ (fun s' => ?_)) | (refine (lasting_foldl _ (fun s' a => ?_) _ _).trans ?_) | split | (simp; done) | (simp_all; done) | simp))))) | (simp at h; done))

@[simp] theorem lasting_markFailing (a count : Nat) (s : State) : (markFailing a count s).lasting = s.lasting := by
  simp [markFailing]

theorem lasting_execFullSelftest (core : BitVec 3) (quickOk otherOk : Bool) (failing : List (BitVec 3 × Nat)) (s : State) : ∀ t, (execFullSelftest core quickOk otherOk failing s) = .next t → t.lasting = s.lasting := by
  intro t; unfold execFullSelftest; (try simp only []); (repeat' split) <;> intro h <;> (first | (simp only [Host.Outcome.next.injEq] at h; subst h; first | (simp; done) | (simp_all; done) | (iterate 10 (all_goals (try (first | with_reducible rfl | (refine lasting_serve _ _ _ _ _ (fun s' => ?_)) | (refine (lasting_refuseIf _ _ _ (fun s' => ?_) _).trans ?_) | (refine lasting_receive _ _ _ _ (fun s' => ?_)) | (refine lasting_whenReadable _ _ _ _ _ _ (fun s' => ?_)) | (refine (lasting_foldl _ (fun s' a => ?_) _ _).trans ?_) | split | (simp; done) | (simp_all; done) | simp))))) | (simp at h; done))

theorem lasting_execClipWindowEnd (array : BitVec 6) (s : State) : ∀ t, (execClipWindowEnd array s) = .next t → t.lasting = s.lasting := by
  intro t; unfold execClipWindowEnd; (try simp only []); (repeat' split) <;> intro h <;> (first | (simp only [Host.Outcome.next.injEq] at h; subst h; first | (simp; done) | (simp_all; done) | (iterate 10 (all_goals (try (first | with_reducible rfl | (refine lasting_serve _ _ _ _ _ (fun s' => ?_)) | (refine (lasting_refuseIf _ _ _ (fun s' => ?_) _).trans ?_) | (refine lasting_receive _ _ _ _ (fun s' => ?_)) | (refine lasting_whenReadable _ _ _ _ _ _ (fun s' => ?_)) | (refine (lasting_foldl _ (fun s' a => ?_) _ _).trans ?_) | split | (simp; done) | (simp_all; done) | simp))))) | (simp at h; done))

@[simp] theorem lasting_withdrawWorn (s : State) : (withdrawWorn s).lasting = s.lasting := by
  simp [withdrawWorn]

theorem lasting_execWearHourlyAccrual (s : State) : ∀ t, (execWearHourlyAccrual s) = .next t → t.lasting = s.lasting := by
  intro t; unfold execWearHourlyAccrual; (try simp only []); (repeat' split) <;> intro h <;> (first | (simp only [Host.Outcome.next.injEq] at h; subst h; first | (simp; done) | (simp_all; done) | (iterate 10 (all_goals (try (first | with_reducible rfl | (refine lasting_serve _ _ _ _ _ (fun s' => ?_)) | (refine (lasting_refuseIf _ _ _ (fun s' => ?_) _).trans ?_) | (refine lasting_receive _ _ _ _ (fun s' => ?_)) | (refine lasting_whenReadable _ _ _ _ _ _ (fun s' => ?_)) | (refine (lasting_foldl _ (fun s' a => ?_) _ _).trans ?_) | split | (simp; done) | (simp_all; done) | simp))))) | (simp at h; done))

theorem lasting_execWearDayBoundary (s : State) : ∀ t, (execWearDayBoundary s) = .next t → t.lasting = s.lasting := by
  intro t; unfold execWearDayBoundary; (try simp only []); (repeat' split) <;> intro h <;> (first | (simp only [Host.Outcome.next.injEq] at h; subst h; first | (simp; done) | (simp_all; done) | (iterate 10 (all_goals (try (first | with_reducible rfl | (refine lasting_serve _ _ _ _ _ (fun s' => ?_)) | (refine (lasting_refuseIf _ _ _ (fun s' => ?_) _).trans ?_) | (refine lasting_receive _ _ _ _ (fun s' => ?_)) | (refine lasting_whenReadable _ _ _ _ _ _ (fun s' => ?_)) | (refine (lasting_foldl _ (fun s' a => ?_) _ _).trans ?_) | split | (simp; done) | (simp_all; done) | simp))))) | (simp at h; done))

@[simp] theorem lasting_startCores (kind : Nat) (h : Hdr) (p : Bytes) (s : State) : (startCores kind h p s).lasting = s.lasting := by
  simp [startCores]

@[simp] theorem lasting_cmdCalRun (h : Hdr) (p : Bytes) (s : State) : (cmdCalRun h p s).lasting = s.lasting := by
  simp [cmdCalRun]

@[simp] theorem lasting_cmdSelftestRunQuick (h : Hdr) (p : Bytes) (s : State) : (cmdSelftestRunQuick h p s).lasting = s.lasting := by
  simp [cmdSelftestRunQuick]

@[simp] theorem lasting_cmdSelftestRunFull (h : Hdr) (p : Bytes) (s : State) : (cmdSelftestRunFull h p s).lasting = s.lasting := by
  simp [cmdSelftestRunFull]

@[simp] theorem lasting_cmdCalStatus (h : Hdr) (p : Bytes) (s : State) : (cmdCalStatus h p s).lasting = s.lasting := by
  simp [cmdCalStatus]

@[simp] theorem lasting_cmdSelftestResult (h : Hdr) (p : Bytes) (s : State) : (cmdSelftestResult h p s).lasting = s.lasting := by
  simp [cmdSelftestResult]

@[simp] theorem lasting_cmdWearStatus (h : Hdr) (p : Bytes) (s : State) : (cmdWearStatus h p s).lasting = s.lasting := by
  simp [cmdWearStatus]

@[simp] theorem lasting_cmdWearConfig (h : Hdr) (p : Bytes) (s : State) : (cmdWearConfig h p s).lasting = s.lasting := by
  simp [cmdWearConfig]

@[simp] theorem lasting_wearConfigCommitted (s : State) : (wearConfigCommitted s).lasting = s.lasting := by
  unfold wearConfigCommitted; (repeat' split) <;> (first | with_reducible rfl | (simp; done))

@[simp] theorem lasting_cmdCoreStatus (h : Hdr) (p : Bytes) (s : State) : (cmdCoreStatus h p s).lasting = s.lasting := by
  simp [cmdCoreStatus]

@[simp] theorem lasting_cmdCoreFence (h : Hdr) (p : Bytes) (s : State) : (cmdCoreFence h p s).lasting = s.lasting := by
  unfold cmdCoreFence; (repeat' split) <;> (first | with_reducible rfl | (simp; done))

@[simp] theorem lasting_cmdCoreUnfence (h : Hdr) (p : Bytes) (s : State) : (cmdCoreUnfence h p s).lasting = s.lasting := by
  simp [cmdCoreUnfence]

@[simp] theorem lasting_cmdClipCounters (h : Hdr) (p : Bytes) (s : State) : (cmdClipCounters h p s).lasting = s.lasting := by
  simp [cmdClipCounters]

@[simp] theorem lasting_cmdClipCountersClear (h : Hdr) (p : Bytes) (s : State) : (cmdClipCountersClear h p s).lasting = s.lasting := by
  simp [cmdClipCountersClear]

theorem lasting_execCalRun (h : Hdr) (p : Bytes) (s : State) : ∀ t, (execCalRun h p s) = .next t → t.lasting = s.lasting := by
  exact fun _ e => Host.Outcome.next.inj e ▸ lasting_cmdCalRun h p s

theorem lasting_execCalStatus (h : Hdr) (p : Bytes) (s : State) : ∀ t, (execCalStatus h p s) = .next t → t.lasting = s.lasting := by
  exact fun _ e => Host.Outcome.next.inj e ▸ lasting_cmdCalStatus h p s

theorem lasting_execSelftestRunQuick (h : Hdr) (p : Bytes) (s : State) : ∀ t, (execSelftestRunQuick h p s) = .next t → t.lasting = s.lasting := by
  exact fun _ e => Host.Outcome.next.inj e ▸ lasting_cmdSelftestRunQuick h p s

theorem lasting_execSelftestRunFull (h : Hdr) (p : Bytes) (s : State) : ∀ t, (execSelftestRunFull h p s) = .next t → t.lasting = s.lasting := by
  exact fun _ e => Host.Outcome.next.inj e ▸ lasting_cmdSelftestRunFull h p s

theorem lasting_execSelftestResult (h : Hdr) (p : Bytes) (s : State) : ∀ t, (execSelftestResult h p s) = .next t → t.lasting = s.lasting := by
  exact fun _ e => Host.Outcome.next.inj e ▸ lasting_cmdSelftestResult h p s

theorem lasting_execWearStatus (h : Hdr) (p : Bytes) (s : State) : ∀ t, (execWearStatus h p s) = .next t → t.lasting = s.lasting := by
  exact fun _ e => Host.Outcome.next.inj e ▸ lasting_cmdWearStatus h p s

theorem lasting_execWearConfig (h : Hdr) (p : Bytes) (s : State) : ∀ t, (execWearConfig h p s) = .next t → t.lasting = s.lasting := by
  exact fun _ e => Host.Outcome.next.inj e ▸ lasting_cmdWearConfig h p s

theorem lasting_execCoreStatus (h : Hdr) (p : Bytes) (s : State) : ∀ t, (execCoreStatus h p s) = .next t → t.lasting = s.lasting := by
  exact fun _ e => Host.Outcome.next.inj e ▸ lasting_cmdCoreStatus h p s

theorem lasting_execCoreFence (h : Hdr) (p : Bytes) (s : State) : ∀ t, (execCoreFence h p s) = .next t → t.lasting = s.lasting := by
  exact fun _ e => Host.Outcome.next.inj e ▸ lasting_cmdCoreFence h p s

theorem lasting_execCoreUnfence (h : Hdr) (p : Bytes) (s : State) : ∀ t, (execCoreUnfence h p s) = .next t → t.lasting = s.lasting := by
  exact fun _ e => Host.Outcome.next.inj e ▸ lasting_cmdCoreUnfence h p s

theorem lasting_execClipCounters (h : Hdr) (p : Bytes) (s : State) : ∀ t, (execClipCounters h p s) = .next t → t.lasting = s.lasting := by
  exact fun _ e => Host.Outcome.next.inj e ▸ lasting_cmdClipCounters h p s

theorem lasting_execClipCountersClear (h : Hdr) (p : Bytes) (s : State) : ∀ t, (execClipCountersClear h p s) = .next t → t.lasting = s.lasting := by
  exact fun _ e => Host.Outcome.next.inj e ▸ lasting_cmdClipCountersClear h p s

@[simp] theorem lasting_onRopePort (p : Nat) (f : RopePort → RopePort) (s : State) : (onRopePort p f s).lasting = s.lasting := by
  simp [onRopePort]

@[simp] theorem lasting_onRope (f : RopeState → RopeState) (s : State) : (onRope f s).lasting = s.lasting := by
  simp [onRope]

@[simp] theorem lasting_onRidge (m : Nat) (f : RidgeModel → RidgeModel) (s : State) : (onRidge m f s).lasting = s.lasting := by
  simp [onRidge]

@[simp] theorem lasting_drive (p : Nat) (f : RopeFrame) (s : State) : (drive p f s).lasting = s.lasting := by
  simp [drive]

@[simp] theorem lasting_resend (p : Nat) (s : State) : (resend p s).lasting = s.lasting := by
  simp [resend]

@[simp] theorem lasting_freeBuffer (f : RopeFrame) (s : State) : (freeBuffer f s).lasting = s.lasting := by
  unfold freeBuffer; split <;> simp

@[simp] theorem lasting_transmit (p : Nat) (f : RopeFrame) (s : State) : (transmit p f s).lasting = s.lasting := by
  simp [transmit]

@[simp] theorem lasting_endRelay (id : Nat) (s : State) : (endRelay id s).lasting = s.lasting := by
  unfold endRelay; (repeat' split) <;> (first | with_reducible rfl | (simp; done))

@[simp] theorem lasting_endRead (id : Nat) (s : State) : (endRead id s).lasting = s.lasting := by
  unfold endRead; (repeat' split) <;> (first | with_reducible rfl | (simp; done))

@[simp] theorem lasting_dropRope (f : RopeFrame) (s : State) : (dropRope f s).lasting = s.lasting := by
  simp [dropRope]

@[simp] theorem lasting_noteTaken (f : RopeFrame) (s : State) : (noteTaken f s).lasting = s.lasting := by
  simp [noteTaken]

@[simp] theorem lasting_sendOrWait (p : Nat) (f : RopeFrame) (s : State) : (sendOrWait p f s).lasting = s.lasting := by
  unfold sendOrWait; dsimp only; split <;> simp

@[simp] theorem lasting_portSend (p : Nat) (f : RopeFrame) (s : State) : (portSend p f s).lasting = s.lasting := by
  simp only [portSend]; iterate 10 (all_goals (try (first | with_reducible rfl | (refine lasting_serve _ _ _ _ _ (fun s' => ?_)) | (refine (lasting_refuseIf _ _ _ (fun s' => ?_) _).trans ?_) | (refine lasting_receive _ _ _ _ (fun s' => ?_)) | (refine lasting_whenReadable _ _ _ _ _ _ (fun s' => ?_)) | (refine (lasting_foldl _ (fun s' a => ?_) _ _).trans ?_) | split | (simp; done) | (simp_all; done) | simp)))

@[simp] theorem lasting_pump (p : Nat) (s : State) : (pump p s).lasting = s.lasting := by
  exact (lasting_foldl _ (fun s a => lasting_sendOrWait p a s) _ _).trans (by simp)

@[simp] theorem lasting_routeOut (f : RopeFrame) (s : State) : (routeOut f s).lasting = s.lasting := by
  simp [routeOut]

@[simp] theorem lasting_sendOut (s : State) : (sendOut s).lasting = s.lasting := by
  simp [sendOut]

@[simp] theorem lasting_forward (p : Nat) (f : RopeFrame) (s : State) : (forward p f s).lasting = s.lasting := by
  simp [forward]

@[simp] theorem lasting_useGrant (m layer n : Nat) (s : State) : (useGrant m layer n s).lasting = s.lasting := by
  simp [useGrant]

@[simp] theorem lasting_sendActs (s : State) : (sendActs s).lasting = s.lasting := by
  simp only [sendActs]; iterate 10 (all_goals (try (first | with_reducible rfl | (refine lasting_serve _ _ _ _ _ (fun s' => ?_)) | (refine (lasting_refuseIf _ _ _ (fun s' => ?_) _).trans ?_) | (refine lasting_receive _ _ _ _ (fun s' => ?_)) | (refine lasting_whenReadable _ _ _ _ _ _ (fun s' => ?_)) | (refine (lasting_foldl _ (fun s' a => ?_) _ _).trans ?_) | split | (simp; done) | (simp_all; done) | simp)))

@[simp] theorem lasting_roundReported (chip m : Nat) (round : Word32) (waiting : Nat) (s : State) : (roundReported chip m round waiting s).lasting = s.lasting := by
  simp [roundReported]

@[simp] theorem lasting_headReports (s : State) : (headReports s).lasting = s.lasting := by
  simp [headReports]

@[simp] theorem lasting_flushRope (s : State) : (flushRope s).lasting = s.lasting := by
  simp [flushRope]

@[simp] theorem lasting_returnCredit (p : Nat) (nak : Bool) (s : State) : (returnCredit p nak s).lasting = s.lasting := by
  simp [returnCredit]

@[simp] theorem lasting_beginTraining (p : Nat) (s : State) : (beginTraining p s).lasting = s.lasting := by
  simp only [beginTraining]; iterate 10 (all_goals (try (first | with_reducible rfl | (refine lasting_serve _ _ _ _ _ (fun s' => ?_)) | (refine (lasting_refuseIf _ _ _ (fun s' => ?_) _).trans ?_) | (refine lasting_receive _ _ _ _ (fun s' => ?_)) | (refine lasting_whenReadable _ _ _ _ _ _ (fun s' => ?_)) | (refine (lasting_foldl _ (fun s' a => ?_) _ _).trans ?_) | split | (simp; done) | (simp_all; done) | simp)))

@[simp] theorem lasting_startTraining (p : Nat) (s : State) : (startTraining p s).lasting = s.lasting := by
  simp [startTraining]

@[simp] theorem lasting_beginTrainings (s : State) : (beginTrainings s).lasting = s.lasting := by
  simp [beginTrainings]

@[simp] theorem lasting_refuseFrame (p : Nat) (badCrc : Bool) (s : State) : (refuseFrame p badCrc s).lasting = s.lasting := by
  simp [refuseFrame]

@[simp] theorem lasting_receive (r : RopeRx) (f : RopeFrame) (act : State → State) (s : State) (h_act : ∀ a0, (act a0).lasting = a0.lasting) : (receive r f act s).lasting = s.lasting := by
  simp [receive, h_act]

@[simp] theorem lasting_topologyEvent (s : State) : (topologyEvent s).lasting = s.lasting := by
  simp [topologyEvent]

@[simp] theorem lasting_ropeFault (kind chip : Byte) (s : State) : (ropeFault kind chip s).lasting = s.lasting := by
  simp [ropeFault]

@[simp] theorem lasting_endRound (m : Nat) (s : State) : (endRound m s).lasting = s.lasting := by
  simp [endRound]

@[simp] theorem lasting_abortRounds (s : State) : (abortRounds s).lasting = s.lasting := by
  simp [abortRounds]

@[simp] theorem lasting_ridgeAfter (old : Word64) (s : State) : (ridgeAfter old s).lasting = s.lasting := by
  simp [ridgeAfter]

@[simp] theorem lasting_broadcastTopology (s : State) : (broadcastTopology s).lasting = s.lasting := by
  simp [broadcastTopology]

@[simp] theorem lasting_endLostRelays (s : State) : (endLostRelays s).lasting = s.lasting := by
  simp [endLostRelays]

@[simp] theorem lasting_newTopology (kind : Topo) (count : Nat) (lost : Word64) (ids : List Word64) (s : State) : (newTopology kind count lost ids s).lasting = s.lasting := by
  simp [newTopology]

@[simp] theorem lasting_endEnum (status result : Byte) (s : State) : (endEnum status result s).lasting = s.lasting := by
  unfold endEnum; (repeat' split) <;> (first | with_reducible rfl | (simp; done))

@[simp] theorem lasting_chipReturned (i : Nat) (old new : Word64) (s : State) : (chipReturned i old new s).lasting = s.lasting := by
  simp [chipReturned]

@[simp] theorem lasting_enumDone (kind : Topo) (count : Nat) (ids : List Word64) (overflow : Bool) (s : State) : (enumDone kind count ids overflow s).lasting = s.lasting := by
  simp only [enumDone]; (repeat' split) <;> (first | with_reducible rfl | (simp; done) | (simp_all; done))

@[simp] theorem lasting_startEnum (s : State) : (startEnum s).lasting = s.lasting := by
  simp [startEnum]

@[simp] theorem lasting_loseIndex (s : State) : (loseIndex s).lasting = s.lasting := by
  simp [loseIndex]

@[simp] theorem lasting_linkEvent (p : Nat) (prev : LinkPhase) (s : State) : (linkEvent p prev s).lasting = s.lasting := by
  simp [linkEvent]

@[simp] theorem lasting_linkLost (chip port : Nat) (s : State) : (linkLost chip port s).lasting = s.lasting := by
  simp [linkLost]

@[simp] theorem lasting_reportLost (p : Nat) (s : State) : (reportLost p s).lasting = s.lasting := by
  simp [reportLost]

@[simp] theorem lasting_discardWaiting (p : Nat) (s : State) : (discardWaiting p s).lasting = s.lasting := by
  simp [discardWaiting]

@[simp] theorem lasting_endTrainBubble (p : Nat) (s : State) : (endTrainBubble p s).lasting = s.lasting := by
  simp [endTrainBubble]

@[simp] theorem lasting_endTrainTags (p : Nat) (s : State) : (endTrainTags p s).lasting = s.lasting := by
  have attach (t : State) : (match t.rope.attachTag with
      | some n => if ([0, 1].any fun q => (t.port q).phase == LinkPhase.training || (t.port q).due) = true then t
        else finish n 0x00 [(t.port 0).phase.code, (t.port 1).phase.code, 0, 0] (onRope (fun r => { r with attachTag := none }) t)
      | none => t).lasting = t.lasting := by
    split
    · split
      · rfl
      · simp
    · rfl
  unfold endTrainTags
  refine (attach _).trans ?_
  split
  · simp
  · rfl

@[simp] theorem lasting_portLost (p : Nat) (s : State) : (portLost p s).lasting = s.lasting := by
  simp [portLost]

@[simp] theorem lasting_endTraining (p : Nat) (lanes : BitVec 2) (fresh : Bool) (s : State) : (endTraining p lanes fresh s).lasting = s.lasting := by
  simp [endTraining]

@[simp] theorem lasting_becomeUp (p : Nat) (lanes : BitVec 2) (s : State) : (becomeUp p lanes s).lasting = s.lasting := by
  simp [becomeUp]

@[simp] theorem lasting_checkTrained (p : Nat) (s : State) : (checkTrained p s).lasting = s.lasting := by
  unfold checkTrained; (repeat' split) <;> (first | with_reducible rfl | (simp; done))

theorem lasting_execTrain (r : RopeRx) (deviceId : Word64) (bootCount : Word32) (index : Byte) (lanes : BitVec 2) (credits : Vector (BitVec 16) 4) (s : State) : ∀ t, (execTrain r deviceId bootCount index lanes credits s) = .next t → t.lasting = s.lasting := by
  intro t; unfold execTrain; (try simp only []); (repeat' split) <;> intro h <;> (first | (simp only [Host.Outcome.next.injEq] at h; subst h; first | (simp; done) | (simp_all; done) | (iterate 10 (all_goals (try (first | with_reducible rfl | (refine lasting_serve _ _ _ _ _ (fun s' => ?_)) | (refine (lasting_refuseIf _ _ _ (fun s' => ?_) _).trans ?_) | (refine lasting_receive _ _ _ _ (fun s' => ?_)) | (refine lasting_whenReadable _ _ _ _ _ _ (fun s' => ?_)) | (refine (lasting_foldl _ (fun s' a => ?_) _ _).trans ?_) | split | (simp; done) | (simp_all; done) | simp))))) | (simp at h; done))

theorem lasting_execTrainAck (r : RopeRx) (lanes : BitVec 2) (s : State) : ∀ t, (execTrainAck r lanes s) = .next t → t.lasting = s.lasting := by
  intro t; unfold execTrainAck; (try simp only []); (repeat' split) <;> intro h <;> (first | (simp only [Host.Outcome.next.injEq] at h; subst h; first | (simp; done) | (simp_all; done) | (iterate 10 (all_goals (try (first | with_reducible rfl | (refine lasting_serve _ _ _ _ _ (fun s' => ?_)) | (refine (lasting_refuseIf _ _ _ (fun s' => ?_) _).trans ?_) | (refine lasting_receive _ _ _ _ (fun s' => ?_)) | (refine lasting_whenReadable _ _ _ _ _ _ (fun s' => ?_)) | (refine (lasting_foldl _ (fun s' a => ?_) _ _).trans ?_) | split | (simp; done) | (simp_all; done) | simp))))) | (simp at h; done))

theorem lasting_execTrainingAttemptTimeout (port : BitVec 1) (s : State) : ∀ t, (execTrainingAttemptTimeout port s) = .next t → t.lasting = s.lasting := by
  intro t; unfold execTrainingAttemptTimeout; (try simp only []); (repeat' split) <;> intro h <;> (first | (simp only [Host.Outcome.next.injEq] at h; subst h; first | (simp; done) | (simp_all; done) | (iterate 10 (all_goals (try (first | with_reducible rfl | (refine lasting_serve _ _ _ _ _ (fun s' => ?_)) | (refine (lasting_refuseIf _ _ _ (fun s' => ?_) _).trans ?_) | (refine lasting_receive _ _ _ _ (fun s' => ?_)) | (refine lasting_whenReadable _ _ _ _ _ _ (fun s' => ?_)) | (refine (lasting_foldl _ (fun s' a => ?_) _ _).trans ?_) | split | (simp; done) | (simp_all; done) | simp))))) | (simp at h; done))

theorem lasting_execCodeGroupSyncAcquired (port : BitVec 1) (lane : BitVec 1) (s : State) : ∀ t, (execCodeGroupSyncAcquired port lane s) = .next t → t.lasting = s.lasting := by
  intro t; unfold execCodeGroupSyncAcquired; (try simp only []); (repeat' split) <;> intro h <;> (first | (simp only [Host.Outcome.next.injEq] at h; subst h; first | (simp; done) | (simp_all; done) | (iterate 10 (all_goals (try (first | with_reducible rfl | (refine lasting_serve _ _ _ _ _ (fun s' => ?_)) | (refine (lasting_refuseIf _ _ _ (fun s' => ?_) _).trans ?_) | (refine lasting_receive _ _ _ _ (fun s' => ?_)) | (refine lasting_whenReadable _ _ _ _ _ _ (fun s' => ?_)) | (refine (lasting_foldl _ (fun s' a => ?_) _ _).trans ?_) | split | (simp; done) | (simp_all; done) | simp))))) | (simp at h; done))

theorem lasting_execLaneSyncLoss (port : BitVec 1) (lane : BitVec 1) (s : State) : ∀ t, (execLaneSyncLoss port lane s) = .next t → t.lasting = s.lasting := by
  intro t; unfold execLaneSyncLoss; (try simp only []); (repeat' split) <;> intro h <;> (first | (simp only [Host.Outcome.next.injEq] at h; subst h; first | (simp; done) | (simp_all; done) | (iterate 10 (all_goals (try (first | with_reducible rfl | (refine lasting_serve _ _ _ _ _ (fun s' => ?_)) | (refine (lasting_refuseIf _ _ _ (fun s' => ?_) _).trans ?_) | (refine lasting_receive _ _ _ _ (fun s' => ?_)) | (refine lasting_whenReadable _ _ _ _ _ _ (fun s' => ?_)) | (refine (lasting_foldl _ (fun s' a => ?_) _ _).trans ?_) | split | (simp; done) | (simp_all; done) | simp))))) | (simp at h; done))

theorem lasting_execSquelchSilence (port : BitVec 1) (s : State) : ∀ t, (execSquelchSilence port s) = .next t → t.lasting = s.lasting := by
  intro t; unfold execSquelchSilence; (try simp only []); (repeat' split) <;> intro h <;> (first | (simp only [Host.Outcome.next.injEq] at h; subst h; first | (simp; done) | (simp_all; done) | (iterate 10 (all_goals (try (first | with_reducible rfl | (refine lasting_serve _ _ _ _ _ (fun s' => ?_)) | (refine (lasting_refuseIf _ _ _ (fun s' => ?_) _).trans ?_) | (refine lasting_receive _ _ _ _ (fun s' => ?_)) | (refine lasting_whenReadable _ _ _ _ _ _ (fun s' => ?_)) | (refine (lasting_foldl _ (fun s' a => ?_) _ _).trans ?_) | split | (simp; done) | (simp_all; done) | simp))))) | (simp at h; done))

theorem lasting_execEnumStart (s : State) : ∀ t, (execEnumStart s) = .next t → t.lasting = s.lasting := by
  intro t; unfold execEnumStart; (try simp only []); (repeat' split) <;> intro h <;> (first | (simp only [Host.Outcome.next.injEq] at h; subst h; first | (simp; done) | (simp_all; done) | (iterate 10 (all_goals (try (first | with_reducible rfl | (refine lasting_serve _ _ _ _ _ (fun s' => ?_)) | (refine (lasting_refuseIf _ _ _ (fun s' => ?_) _).trans ?_) | (refine lasting_receive _ _ _ _ (fun s' => ?_)) | (refine lasting_whenReadable _ _ _ _ _ _ (fun s' => ?_)) | (refine (lasting_foldl _ (fun s' a => ?_) _ _).trans ?_) | split | (simp; done) | (simp_all; done) | simp))))) | (simp at h; done))

theorem lasting_execEnum (r : RopeRx) (index : Nat) (headId : Word64) (ids : List Word64) (s : State) : ∀ t, (execEnum r index headId ids s) = .next t → t.lasting = s.lasting := by
  intro t; unfold execEnum; (try simp only []); (repeat' split) <;> intro h <;> (first | (simp only [Host.Outcome.next.injEq] at h; subst h; first | (simp; done) | (simp_all; done) | (iterate 10 (all_goals (try (first | with_reducible rfl | (refine lasting_serve _ _ _ _ _ (fun s' => ?_)) | (refine (lasting_refuseIf _ _ _ (fun s' => ?_) _).trans ?_) | (refine lasting_receive _ _ _ _ (fun s' => ?_)) | (refine lasting_whenReadable _ _ _ _ _ _ (fun s' => ?_)) | (refine (lasting_foldl _ (fun s' a => ?_) _ _).trans ?_) | split | (simp; done) | (simp_all; done) | simp))))) | (simp at h; done))

theorem lasting_execEnumEnd (r : RopeRx) (count : Nat) (ids : List Word64) (s : State) : ∀ t, (execEnumEnd r count ids s) = .next t → t.lasting = s.lasting := by
  intro t; unfold execEnumEnd; (try simp only []); (repeat' split) <;> intro h <;> (first | (simp only [Host.Outcome.next.injEq] at h; subst h; first | (simp; done) | (simp_all; done) | (iterate 10 (all_goals (try (first | with_reducible rfl | (refine lasting_serve _ _ _ _ _ (fun s' => ?_)) | (refine (lasting_refuseIf _ _ _ (fun s' => ?_) _).trans ?_) | (refine lasting_receive _ _ _ _ (fun s' => ?_)) | (refine lasting_whenReadable _ _ _ _ _ _ (fun s' => ?_)) | (refine (lasting_foldl _ (fun s' a => ?_) _ _).trans ?_) | split | (simp; done) | (simp_all; done) | simp))))) | (simp at h; done))

theorem lasting_execTopology (r : RopeRx) (gen : Byte) (kind : Topo) (count : Nat) (lost : Word64) (ids : List Word64) (s : State) : ∀ t, (execTopology r gen kind count lost ids s) = .next t → t.lasting = s.lasting := by
  intro t; unfold execTopology; (try simp only []); (repeat' split) <;> intro h <;> (first | (simp only [Host.Outcome.next.injEq] at h; subst h; first | (simp; done) | (simp_all; done) | (iterate 10 (all_goals (try (first | with_reducible rfl | (refine lasting_serve _ _ _ _ _ (fun s' => ?_)) | (refine (lasting_refuseIf _ _ _ (fun s' => ?_) _).trans ?_) | (refine lasting_receive _ _ _ _ (fun s' => ?_)) | (refine lasting_whenReadable _ _ _ _ _ _ (fun s' => ?_)) | (refine (lasting_foldl _ (fun s' a => ?_) _ _).trans ?_) | split | (simp; done) | (simp_all; done) | simp))))) | (simp at h; done))

theorem lasting_execHeadConflict (r : RopeRx) (s : State) : ∀ t, (execHeadConflict r s) = .next t → t.lasting = s.lasting := by
  intro t; unfold execHeadConflict; (try simp only []); (repeat' split) <;> intro h <;> (first | (simp only [Host.Outcome.next.injEq] at h; subst h; first | (simp; done) | (simp_all; done) | (iterate 10 (all_goals (try (first | with_reducible rfl | (refine lasting_serve _ _ _ _ _ (fun s' => ?_)) | (refine (lasting_refuseIf _ _ _ (fun s' => ?_) _).trans ?_) | (refine lasting_receive _ _ _ _ (fun s' => ?_)) | (refine lasting_whenReadable _ _ _ _ _ _ (fun s' => ?_)) | (refine (lasting_foldl _ (fun s' a => ?_) _ _).trans ?_) | split | (simp; done) | (simp_all; done) | simp))))) | (simp at h; done))

theorem lasting_execNoEnumTimeout (s : State) : ∀ t, (execNoEnumTimeout s) = .next t → t.lasting = s.lasting := by
  intro t; unfold execNoEnumTimeout; (try simp only []); (repeat' split) <;> intro h <;> (first | (simp only [Host.Outcome.next.injEq] at h; subst h; first | (simp; done) | (simp_all; done) | (iterate 10 (all_goals (try (first | with_reducible rfl | (refine lasting_serve _ _ _ _ _ (fun s' => ?_)) | (refine (lasting_refuseIf _ _ _ (fun s' => ?_) _).trans ?_) | (refine lasting_receive _ _ _ _ (fun s' => ?_)) | (refine lasting_whenReadable _ _ _ _ _ _ (fun s' => ?_)) | (refine (lasting_foldl _ (fun s' a => ?_) _ _).trans ?_) | split | (simp; done) | (simp_all; done) | simp))))) | (simp at h; done))

theorem lasting_execHeartbeatSend (s : State) : ∀ t, (execHeartbeatSend s) = .next t → t.lasting = s.lasting := by
  intro t; unfold execHeartbeatSend; (try simp only []); (repeat' split) <;> intro h <;> (first | (simp only [Host.Outcome.next.injEq] at h; subst h; first | (simp; done) | (simp_all; done) | (iterate 10 (all_goals (try (first | with_reducible rfl | (refine lasting_serve _ _ _ _ _ (fun s' => ?_)) | (refine (lasting_refuseIf _ _ _ (fun s' => ?_) _).trans ?_) | (refine lasting_receive _ _ _ _ (fun s' => ?_)) | (refine lasting_whenReadable _ _ _ _ _ _ (fun s' => ?_)) | (refine (lasting_foldl _ (fun s' a => ?_) _ _).trans ?_) | split | (simp; done) | (simp_all; done) | simp))))) | (simp at h; done))

theorem lasting_execHeartbeat (r : RopeRx) (gen : Byte) (s : State) : ∀ t, (execHeartbeat r gen s) = .next t → t.lasting = s.lasting := by
  intro t; unfold execHeartbeat; (try simp only []); (repeat' split) <;> intro h <;> (first | (simp only [Host.Outcome.next.injEq] at h; subst h; first | (simp; done) | (simp_all; done) | (iterate 10 (all_goals (try (first | with_reducible rfl | (refine lasting_serve _ _ _ _ _ (fun s' => ?_)) | (refine (lasting_refuseIf _ _ _ (fun s' => ?_) _).trans ?_) | (refine lasting_receive _ _ _ _ (fun s' => ?_)) | (refine lasting_whenReadable _ _ _ _ _ _ (fun s' => ?_)) | (refine (lasting_foldl _ (fun s' a => ?_) _ _).trans ?_) | split | (simp; done) | (simp_all; done) | simp))))) | (simp at h; done))

theorem lasting_execHeartbeatLoss (s : State) : ∀ t, (execHeartbeatLoss s) = .next t → t.lasting = s.lasting := by
  intro t; unfold execHeartbeatLoss; (try simp only []); (repeat' split) <;> intro h <;> (first | (simp only [Host.Outcome.next.injEq] at h; subst h; first | (simp; done) | (simp_all; done) | (iterate 10 (all_goals (try (first | with_reducible rfl | (refine lasting_serve _ _ _ _ _ (fun s' => ?_)) | (refine (lasting_refuseIf _ _ _ (fun s' => ?_) _).trans ?_) | (refine lasting_receive _ _ _ _ (fun s' => ?_)) | (refine lasting_whenReadable _ _ _ _ _ _ (fun s' => ?_)) | (refine (lasting_foldl _ (fun s' a => ?_) _ _).trans ?_) | split | (simp; done) | (simp_all; done) | simp))))) | (simp at h; done))

theorem lasting_execLinkLost (r : RopeRx) (port : BitVec 1) (chip : Byte) (s : State) : ∀ t, (execLinkLost r port chip s) = .next t → t.lasting = s.lasting := by
  intro t; unfold execLinkLost; (try simp only []); (repeat' split) <;> intro h <;> (first | (simp only [Host.Outcome.next.injEq] at h; subst h; first | (simp; done) | (simp_all; done) | (iterate 10 (all_goals (try (first | with_reducible rfl | (refine lasting_serve _ _ _ _ _ (fun s' => ?_)) | (refine (lasting_refuseIf _ _ _ (fun s' => ?_) _).trans ?_) | (refine lasting_receive _ _ _ _ (fun s' => ?_)) | (refine lasting_whenReadable _ _ _ _ _ _ (fun s' => ?_)) | (refine (lasting_foldl _ (fun s' a => ?_) _ _).trans ?_) | split | (simp; done) | (simp_all; done) | simp))))) | (simp at h; done))

theorem lasting_execJoin (r : RopeRx) (port : BitVec 1) (s : State) : ∀ t, (execJoin r port s) = .next t → t.lasting = s.lasting := by
  intro t; unfold execJoin; (try simp only []); (repeat' split) <;> intro h <;> (first | (simp only [Host.Outcome.next.injEq] at h; subst h; first | (simp; done) | (simp_all; done) | (iterate 10 (all_goals (try (first | with_reducible rfl | (refine lasting_serve _ _ _ _ _ (fun s' => ?_)) | (refine (lasting_refuseIf _ _ _ (fun s' => ?_) _).trans ?_) | (refine lasting_receive _ _ _ _ (fun s' => ?_)) | (refine lasting_whenReadable _ _ _ _ _ _ (fun s' => ?_)) | (refine (lasting_foldl _ (fun s' a => ?_) _ _).trans ?_) | split | (simp; done) | (simp_all; done) | simp))))) | (simp at h; done))

theorem lasting_execSleep (r : RopeRx) (s : State) : ∀ t, (execSleep r s) = .next t → t.lasting = s.lasting := by
  intro t; unfold execSleep; (try simp only []); (repeat' split) <;> intro h <;> (first | (simp only [Host.Outcome.next.injEq] at h; subst h; first | (simp; done) | (simp_all; done) | (iterate 10 (all_goals (try (first | with_reducible rfl | (refine lasting_serve _ _ _ _ _ (fun s' => ?_)) | (refine (lasting_refuseIf _ _ _ (fun s' => ?_) _).trans ?_) | (refine lasting_receive _ _ _ _ (fun s' => ?_)) | (refine lasting_whenReadable _ _ _ _ _ _ (fun s' => ?_)) | (refine (lasting_foldl _ (fun s' a => ?_) _ _).trans ?_) | split | (simp; done) | (simp_all; done) | simp))))) | (simp at h; done))

theorem lasting_execDetach (r : RopeRx) (s : State) : ∀ t, (execDetach r s) = .next t → t.lasting = s.lasting := by
  intro t; unfold execDetach; (try simp only []); (repeat' split) <;> intro h <;> (first | (simp only [Host.Outcome.next.injEq] at h; subst h; first | (simp; done) | (simp_all; done) | (iterate 10 (all_goals (try (first | with_reducible rfl | (refine lasting_serve _ _ _ _ _ (fun s' => ?_)) | (refine (lasting_refuseIf _ _ _ (fun s' => ?_) _).trans ?_) | (refine lasting_receive _ _ _ _ (fun s' => ?_)) | (refine lasting_whenReadable _ _ _ _ _ _ (fun s' => ?_)) | (refine (lasting_foldl _ (fun s' a => ?_) _ _).trans ?_) | split | (simp; done) | (simp_all; done) | simp))))) | (simp at h; done))

theorem lasting_execWakeBurstTimeout (port : BitVec 1) (s : State) : ∀ t, (execWakeBurstTimeout port s) = .next t → t.lasting = s.lasting := by
  intro t; unfold execWakeBurstTimeout; (try simp only []); (repeat' split) <;> intro h <;> (first | (simp only [Host.Outcome.next.injEq] at h; subst h; first | (simp; done) | (simp_all; done) | (iterate 10 (all_goals (try (first | with_reducible rfl | (refine lasting_serve _ _ _ _ _ (fun s' => ?_)) | (refine (lasting_refuseIf _ _ _ (fun s' => ?_) _).trans ?_) | (refine lasting_receive _ _ _ _ (fun s' => ?_)) | (refine lasting_whenReadable _ _ _ _ _ _ (fun s' => ?_)) | (refine (lasting_foldl _ (fun s' a => ?_) _ _).trans ?_) | split | (simp; done) | (simp_all; done) | simp))))) | (simp at h; done))

@[simp] theorem lasting_sendShard (f : RopeFrame) (s : State) : (sendShard f s).1.lasting = s.lasting := by
  unfold sendShard; (repeat' split) <;> (first | with_reducible rfl | (simp; done))

@[simp] theorem lasting_pumpShards (m : Nat) (l : List RopeFrame) (s : State) : (pumpShards m l s).lasting = s.lasting := by
  induction l generalizing s with
  | nil => simp [pumpShards]
  | cons a l ih => simp only [pumpShards]; (repeat' split) <;> (first | with_reducible rfl | (simp [ih]; done) | (simp_all; done))

@[simp] theorem lasting_takeRound (m : Nat) (round : Word32) (s : State) : (takeRound m round s).lasting = s.lasting := by
  simp only [takeRound]; iterate 10 (all_goals (try (first | with_reducible rfl | (refine lasting_serve _ _ _ _ _ (fun s' => ?_)) | (refine (lasting_refuseIf _ _ _ (fun s' => ?_) _).trans ?_) | (refine lasting_receive _ _ _ _ (fun s' => ?_)) | (refine lasting_whenReadable _ _ _ _ _ _ (fun s' => ?_)) | (refine (lasting_foldl _ (fun s' a => ?_) _ _).trans ?_) | split | (simp; done) | (simp_all; done) | simp)))

theorem lasting_execCirculationRoundStart (slot : BitVec 3) (s : State) : ∀ t, (execCirculationRoundStart slot s) = .next t → t.lasting = s.lasting := by
  intro t; unfold execCirculationRoundStart; (try simp only []); (repeat' split) <;> intro h <;> (first | (simp only [Host.Outcome.next.injEq] at h; subst h; first | (simp; done) | (simp_all; done) | (iterate 10 (all_goals (try (first | with_reducible rfl | (refine lasting_serve _ _ _ _ _ (fun s' => ?_)) | (refine (lasting_refuseIf _ _ _ (fun s' => ?_) _).trans ?_) | (refine lasting_receive _ _ _ _ (fun s' => ?_)) | (refine lasting_whenReadable _ _ _ _ _ _ (fun s' => ?_)) | (refine (lasting_foldl _ (fun s' a => ?_) _ _).trans ?_) | split | (simp; done) | (simp_all; done) | simp))))) | (simp at h; done))

theorem lasting_execRound (r : RopeRx) (slot : BitVec 3) (round : Word32) (s : State) : ∀ t, (execRound r slot round s) = .next t → t.lasting = s.lasting := by
  intro t; unfold execRound; (try simp only []); (repeat' split) <;> intro h <;> (first | (simp only [Host.Outcome.next.injEq] at h; subst h; first | (simp; done) | (simp_all; done) | (iterate 10 (all_goals (try (first | with_reducible rfl | (refine lasting_serve _ _ _ _ _ (fun s' => ?_)) | (refine (lasting_refuseIf _ _ _ (fun s' => ?_) _).trans ?_) | (refine lasting_receive _ _ _ _ (fun s' => ?_)) | (refine lasting_whenReadable _ _ _ _ _ _ (fun s' => ?_)) | (refine (lasting_foldl _ (fun s' a => ?_) _ _).trans ?_) | split | (simp; done) | (simp_all; done) | simp))))) | (simp at h; done))

theorem lasting_execRoundDone (r : RopeRx) (slot : BitVec 3) (round : Word32) (waiting : BitVec 16) (s : State) : ∀ t, (execRoundDone r slot round waiting s) = .next t → t.lasting = s.lasting := by
  intro t; unfold execRoundDone; (try simp only []); (repeat' split) <;> intro h <;> (first | (simp only [Host.Outcome.next.injEq] at h; subst h; first | (simp; done) | (simp_all; done) | (iterate 10 (all_goals (try (first | with_reducible rfl | (refine lasting_serve _ _ _ _ _ (fun s' => ?_)) | (refine (lasting_refuseIf _ _ _ (fun s' => ?_) _).trans ?_) | (refine lasting_receive _ _ _ _ (fun s' => ?_)) | (refine lasting_whenReadable _ _ _ _ _ _ (fun s' => ?_)) | (refine (lasting_foldl _ (fun s' a => ?_) _ _).trans ?_) | split | (simp; done) | (simp_all; done) | simp))))) | (simp at h; done))

theorem lasting_execRoundAbort (r : RopeRx) (slot : BitVec 3) (s : State) : ∀ t, (execRoundAbort r slot s) = .next t → t.lasting = s.lasting := by
  intro t; unfold execRoundAbort; (try simp only []); (repeat' split) <;> intro h <;> (first | (simp only [Host.Outcome.next.injEq] at h; subst h; first | (simp; done) | (simp_all; done) | (iterate 10 (all_goals (try (first | with_reducible rfl | (refine lasting_serve _ _ _ _ _ (fun s' => ?_)) | (refine (lasting_refuseIf _ _ _ (fun s' => ?_) _).trans ?_) | (refine lasting_receive _ _ _ _ (fun s' => ?_)) | (refine lasting_whenReadable _ _ _ _ _ _ (fun s' => ?_)) | (refine (lasting_foldl _ (fun s' a => ?_) _ _).trans ?_) | split | (simp; done) | (simp_all; done) | simp))))) | (simp at h; done))

theorem lasting_execRetire (r : RopeRx) (slot : BitVec 3) (bytes : Word32) (s : State) : ∀ t, (execRetire r slot bytes s) = .next t → t.lasting = s.lasting := by
  intro t; unfold execRetire; (try simp only []); (repeat' split) <;> intro h <;> (first | (simp only [Host.Outcome.next.injEq] at h; subst h; first | (simp; done) | (simp_all; done) | (iterate 10 (all_goals (try (first | with_reducible rfl | (refine lasting_serve _ _ _ _ _ (fun s' => ?_)) | (refine (lasting_refuseIf _ _ _ (fun s' => ?_) _).trans ?_) | (refine lasting_receive _ _ _ _ (fun s' => ?_)) | (refine lasting_whenReadable _ _ _ _ _ _ (fun s' => ?_)) | (refine (lasting_foldl _ (fun s' a => ?_) _ _).trans ?_) | split | (simp; done) | (simp_all; done) | simp))))) | (simp at h; done))

@[simp] theorem lasting_takeShard (m : Nat) (layer shard roundLow : Byte) (offset : Nat) (data gcmTag : Bytes) (f : RopeFrame) (s : State) : (takeShard m layer shard roundLow offset data gcmTag f s).lasting = s.lasting := by
  unfold takeShard; dsimp only; (repeat' split) <;> first | rfl | simp

theorem lasting_execWstream (r : RopeRx) (slot : BitVec 3) (layer shard roundLow : Byte) (offset : Nat) (data gcmTag : Bytes) (s : State) : ∀ t, (execWstream r slot layer shard roundLow offset data gcmTag s) = .next t → t.lasting = s.lasting := by
  intro t; unfold execWstream; (try simp only []); (repeat' split) <;> intro h <;> (first | (simp only [Host.Outcome.next.injEq] at h; subst h; first | (simp; done) | (simp_all; done) | (iterate 10 (all_goals (try (first | with_reducible rfl | (refine lasting_serve _ _ _ _ _ (fun s' => ?_)) | (refine (lasting_refuseIf _ _ _ (fun s' => ?_) _).trans ?_) | (refine lasting_receive _ _ _ _ (fun s' => ?_)) | (refine lasting_whenReadable _ _ _ _ _ _ (fun s' => ?_)) | (refine (lasting_foldl _ (fun s' a => ?_) _ _).trans ?_) | split | (simp; done) | (simp_all; done) | simp))))) | (simp at h; done))

theorem lasting_execLandGrant (r : RopeRx) (slot : BitVec 3) (layer : Byte) (frames : BitVec 16) (s : State) : ∀ t, (execLandGrant r slot layer frames s) = .next t → t.lasting = s.lasting := by
  intro t; unfold execLandGrant; (try simp only []); (repeat' split) <;> intro h <;> (first | (simp only [Host.Outcome.next.injEq] at h; subst h; first | (simp; done) | (simp_all; done) | (iterate 10 (all_goals (try (first | with_reducible rfl | (refine lasting_serve _ _ _ _ _ (fun s' => ?_)) | (refine (lasting_refuseIf _ _ _ (fun s' => ?_) _).trans ?_) | (refine lasting_receive _ _ _ _ (fun s' => ?_)) | (refine lasting_whenReadable _ _ _ _ _ _ (fun s' => ?_)) | (refine (lasting_foldl _ (fun s' a => ?_) _ _).trans ?_) | split | (simp; done) | (simp_all; done) | simp))))) | (simp at h; done))

@[simp] theorem lasting_openLanding (m layer src : Nat) (ref : BitVec 16) (s : State) : (openLanding m layer src ref s).lasting = s.lasting := by
  simp [openLanding]

@[simp] theorem lasting_landed (m source : Nat) (ref : BitVec 16) (vals : List Int) (s : State) : (landed m source ref vals s).lasting = s.lasting := by
  simp only [landed]; iterate 10 (all_goals (try (first | with_reducible rfl | (refine lasting_serve _ _ _ _ _ (fun s' => ?_)) | (refine (lasting_refuseIf _ _ _ (fun s' => ?_) _).trans ?_) | (refine lasting_receive _ _ _ _ (fun s' => ?_)) | (refine lasting_whenReadable _ _ _ _ _ _ (fun s' => ?_)) | (refine (lasting_foldl _ (fun s' a => ?_) _ _).trans ?_) | split | (simp; done) | (simp_all; done) | simp)))

@[simp] theorem lasting_eraOf (m : Nat) (ref : BitVec 16) (s : State) : (eraOf m ref s).2.lasting = s.lasting := by
  simp only [eraOf]; iterate 10 (all_goals (try (first | with_reducible rfl | (refine lasting_serve _ _ _ _ _ (fun s' => ?_)) | (refine (lasting_refuseIf _ _ _ (fun s' => ?_) _).trans ?_) | (refine lasting_receive _ _ _ _ (fun s' => ?_)) | (refine lasting_whenReadable _ _ _ _ _ _ (fun s' => ?_)) | (refine (lasting_foldl _ (fun s' a => ?_) _ _).trans ?_) | split | (simp; done) | (simp_all; done) | simp)))

theorem lasting_execAct (r : RopeRx) (slot : BitVec 3) (layer : Byte) (ref : BitVec 16) (offset : Nat) (data gcmTag : Bytes) (s : State) : ∀ t, (execAct r slot layer ref offset data gcmTag s) = .next t → t.lasting = s.lasting := by
  intro t; unfold execAct; (try simp only []); (repeat' split) <;> intro h <;> (first | (simp only [Host.Outcome.next.injEq] at h; subst h; first | (simp; done) | (simp_all; done) | (iterate 10 (all_goals (try (first | with_reducible rfl | (refine lasting_serve _ _ _ _ _ (fun s' => ?_)) | (refine (lasting_refuseIf _ _ _ (fun s' => ?_) _).trans ?_) | (refine lasting_receive _ _ _ _ (fun s' => ?_)) | (refine lasting_whenReadable _ _ _ _ _ _ (fun s' => ?_)) | (refine (lasting_foldl _ (fun s' a => ?_) _ _).trans ?_) | split | (simp; done) | (simp_all; done) | simp))))) | (simp at h; done))

theorem lasting_execCredit (port : BitVec 1) (good : Bool) (ack : BitVec 12) (nak : Bool) (credits : Vector (BitVec 16) 4) (s : State) : ∀ t, (execCredit port good ack nak credits s) = .next t → t.lasting = s.lasting := by
  intro t; unfold execCredit; (try simp only []); (repeat' split) <;> intro h <;> (first | (simp only [Host.Outcome.next.injEq] at h; subst h; first | (simp; done) | (simp_all; done) | (iterate 10 (all_goals (try (first | with_reducible rfl | (refine lasting_serve _ _ _ _ _ (fun s' => ?_)) | (refine (lasting_refuseIf _ _ _ (fun s' => ?_) _).trans ?_) | (refine lasting_receive _ _ _ _ (fun s' => ?_)) | (refine lasting_whenReadable _ _ _ _ _ _ (fun s' => ?_)) | (refine (lasting_foldl _ (fun s' a => ?_) _ _).trans ?_) | split | (simp; done) | (simp_all; done) | simp))))) | (simp at h; done))

theorem lasting_execAckTimer (port : BitVec 1) (s : State) : ∀ t, (execAckTimer port s) = .next t → t.lasting = s.lasting := by
  intro t; unfold execAckTimer; (try simp only []); (repeat' split) <;> intro h <;> (first | (simp only [Host.Outcome.next.injEq] at h; subst h; first | (simp; done) | (simp_all; done) | (iterate 10 (all_goals (try (first | with_reducible rfl | (refine lasting_serve _ _ _ _ _ (fun s' => ?_)) | (refine (lasting_refuseIf _ _ _ (fun s' => ?_) _).trans ?_) | (refine lasting_receive _ _ _ _ (fun s' => ?_)) | (refine lasting_whenReadable _ _ _ _ _ _ (fun s' => ?_)) | (refine (lasting_foldl _ (fun s' a => ?_) _ _).trans ?_) | split | (simp; done) | (simp_all; done) | simp))))) | (simp at h; done))

@[simp] theorem lasting_ropePowered (s : State) : (ropePowered s).lasting = s.lasting := by
  simp [ropePowered]

@[simp] theorem lasting_ropeUnpowered (s : State) : (ropeUnpowered s).lasting = s.lasting := by
  simp [ropeUnpowered]

@[simp] theorem lasting_sendSleep (s : State) : (sendSleep s).lasting = s.lasting := by
  simp [sendSleep]

@[simp] theorem lasting_ropeServe (f : Form) (h : Hdr) (p : Bytes) (body : State → State) (s : State) (h_body : ∀ a0, (body a0).lasting = a0.lasting) : (ropeServe f h p body s).lasting = s.lasting := by
  simp [ropeServe, h_body]

@[simp] theorem lasting_cmdRopeStatus (h : Hdr) (p : Bytes) (s : State) : (cmdRopeStatus h p s).lasting = s.lasting := by
  simp [cmdRopeStatus]

@[simp] theorem lasting_cmdRopeEnumerate (h : Hdr) (p : Bytes) (s : State) : (cmdRopeEnumerate h p s).lasting = s.lasting := by
  simp [cmdRopeEnumerate]

@[simp] theorem lasting_endRopeTags (s : State) : (endRopeTags s).lasting = s.lasting := by
  unfold endRopeTags; dsimp only; (repeat' split) <;> simp

@[simp] theorem lasting_cmdRopeDetach (h : Hdr) (p : Bytes) (s : State) : (cmdRopeDetach h p s).lasting = s.lasting := by
  simp [cmdRopeDetach]

@[simp] theorem lasting_cmdRopeAttach (h : Hdr) (p : Bytes) (s : State) : (cmdRopeAttach h p s).lasting = s.lasting := by
  simp [cmdRopeAttach]

@[simp] theorem lasting_cmdRopeTopologyGet (h : Hdr) (p : Bytes) (s : State) : (cmdRopeTopologyGet h p s).lasting = s.lasting := by
  simp [cmdRopeTopologyGet]

@[simp] theorem lasting_cmdRopeRetrain (h : Hdr) (p : Bytes) (s : State) : (cmdRopeRetrain h p s).lasting = s.lasting := by
  simp [cmdRopeRetrain]

@[simp] theorem lasting_cmdRopeCounters (h : Hdr) (p : Bytes) (s : State) : (cmdRopeCounters h p s).lasting = s.lasting := by
  simp [cmdRopeCounters]

@[simp] theorem lasting_cmdRopeCountersClear (h : Hdr) (p : Bytes) (s : State) : (cmdRopeCountersClear h p s).lasting = s.lasting := by
  simp [cmdRopeCountersClear]

theorem lasting_execRopeStatus (h : Hdr) (p : Bytes) (s : State) : ∀ t, (execRopeStatus h p s) = .next t → t.lasting = s.lasting := by
  exact fun _ e => Host.Outcome.next.inj e ▸ lasting_cmdRopeStatus h p s

theorem lasting_execRopeEnumerate (h : Hdr) (p : Bytes) (s : State) : ∀ t, (execRopeEnumerate h p s) = .next t → t.lasting = s.lasting := by
  exact fun _ e => Host.Outcome.next.inj e ▸ lasting_cmdRopeEnumerate h p s

theorem lasting_execRopeDetach (h : Hdr) (p : Bytes) (s : State) : ∀ t, (execRopeDetach h p s) = .next t → t.lasting = s.lasting := by
  exact fun _ e => Host.Outcome.next.inj e ▸ lasting_cmdRopeDetach h p s

theorem lasting_execRopeAttach (h : Hdr) (p : Bytes) (s : State) : ∀ t, (execRopeAttach h p s) = .next t → t.lasting = s.lasting := by
  exact fun _ e => Host.Outcome.next.inj e ▸ lasting_cmdRopeAttach h p s

theorem lasting_execRopeTopologyGet (h : Hdr) (p : Bytes) (s : State) : ∀ t, (execRopeTopologyGet h p s) = .next t → t.lasting = s.lasting := by
  exact fun _ e => Host.Outcome.next.inj e ▸ lasting_cmdRopeTopologyGet h p s

theorem lasting_execRopeRetrain (h : Hdr) (p : Bytes) (s : State) : ∀ t, (execRopeRetrain h p s) = .next t → t.lasting = s.lasting := by
  exact fun _ e => Host.Outcome.next.inj e ▸ lasting_cmdRopeRetrain h p s

theorem lasting_execRopeCounters (h : Hdr) (p : Bytes) (s : State) : ∀ t, (execRopeCounters h p s) = .next t → t.lasting = s.lasting := by
  exact fun _ e => Host.Outcome.next.inj e ▸ lasting_cmdRopeCounters h p s

theorem lasting_execRopeCountersClear (h : Hdr) (p : Bytes) (s : State) : ∀ t, (execRopeCountersClear h p s) = .next t → t.lasting = s.lasting := by
  exact fun _ e => Host.Outcome.next.inj e ▸ lasting_cmdRopeCountersClear h p s

@[simp] theorem lasting_withdrawHead (tag : Tag) (s : State) (n : Nat) : (withdrawHead tag s n).lasting = s.lasting := by
  simp [withdrawHead]

@[simp] theorem lasting_withdrawModel (tag : Tag) (s : State) (m : Nat) : (withdrawModel tag s m).lasting = s.lasting := by
  simp [withdrawModel]

@[simp] theorem lasting_withdrawFence (tag : Tag) (s : State) (n : Nat) : (withdrawFence tag s n).lasting = s.lasting := by
  simp [withdrawFence]

@[simp] theorem lasting_withdrawStream (tag : Tag) (s : State) : (withdrawStream tag s).lasting = s.lasting := by
  simp [withdrawStream]

@[simp] theorem lasting_withdrawCore (tag : Tag) (s : State) : (withdrawCore tag s).lasting = s.lasting := by
  simp only [withdrawCore]; (repeat' split) <;> (first | with_reducible rfl | (simp; done) | (simp_all; done))

@[simp] theorem lasting_withdrawRope (tag : Tag) (s : State) : (withdrawRope tag s).lasting = s.lasting := by
  simp [withdrawRope]

@[simp] theorem lasting_withdrawOther (tag : Tag) (s : State) : (withdrawOther tag s).lasting = s.lasting := by
  simp only [withdrawOther]; (repeat' split) <;> (first | with_reducible rfl | (simp; done) | (simp_all; done))

@[simp] theorem lasting_withdraw (tag : Tag) (s : State) : (withdraw tag s).lasting = s.lasting := by
  unfold withdraw; (repeat' split) <;> (first | with_reducible rfl | (simp; done))

@[simp] theorem lasting_stopCommand (tag : Tag) (status : Byte) (payload : Bytes) (s : State) : (stopCommand tag status payload s).lasting = s.lasting := by
  simp [stopCommand]

@[simp] theorem lasting_expireSession (slot : Nat) (reason : Byte) (s : State) : (expireSession slot reason s).lasting = s.lasting := by
  simp [expireSession]

@[simp] theorem lasting_cmdNvmStatus (h : Hdr) (p : Bytes) (s : State) : (cmdNvmStatus h p s).lasting = s.lasting := by
  simp [cmdNvmStatus]

@[simp] theorem lasting_cmdNvmRegionInfo (h : Hdr) (p : Bytes) (s : State) : (cmdNvmRegionInfo h p s).lasting = s.lasting := by
  simp [cmdNvmRegionInfo]

theorem lasting_execNvmStatus (h : Hdr) (p : Bytes) (s : State) : ∀ t, (execNvmStatus h p s) = .next t → t.lasting = s.lasting := by
  exact fun _ e => Host.Outcome.next.inj e ▸ lasting_cmdNvmStatus h p s

theorem lasting_execNvmRegionInfo (h : Hdr) (p : Bytes) (s : State) : ∀ t, (execNvmRegionInfo h p s) = .next t → t.lasting = s.lasting := by
  exact fun _ e => Host.Outcome.next.inj e ▸ lasting_cmdNvmRegionInfo h p s

@[simp] theorem lasting_onOwn (f : OwnerState → OwnerState) (s : State) : (onOwn f s).lasting = s.lasting := by
  simp [onOwn]

@[simp] theorem lasting_drawRandom (n : Nat) (s : State) : (drawRandom n s).2.lasting = s.lasting := by
  simp [drawRandom]

@[simp] theorem lasting_cmdSessionOpen (h : Hdr) (p : Bytes) (s : State) : (cmdSessionOpen h p s).lasting = s.lasting := by
  simp [cmdSessionOpen]

@[simp] theorem lasting_postKeys (c : KeyChange) (s : State) : (postKeys c s).lasting = s.lasting := by
  simp [postKeys]

@[simp] theorem lasting_cmdOwnerProvision (h : Hdr) (p : Bytes) (s : State) : (cmdOwnerProvision h p s).lasting = s.lasting := by
  simp [cmdOwnerProvision]

@[simp] theorem lasting_cmdOwnerRemove (h : Hdr) (p : Bytes) (s : State) : (cmdOwnerRemove h p s).lasting = s.lasting := by
  simp [cmdOwnerRemove]

@[simp] theorem lasting_releaseOrphans (o : Nat) (s : State) : (releaseOrphans o s).lasting = s.lasting := by
  simp [releaseOrphans]

@[simp] theorem lasting_beginRemoval (o : Nat) (tag : Tag) (fpr : Bytes) (s : State) : (beginRemoval o tag fpr s).lasting = s.lasting := by
  simp [beginRemoval]

@[simp] theorem lasting_keysCommitted (s : State) : (keysCommitted s).lasting = s.lasting := by
  unfold keysCommitted; (repeat' split) <;> (first | with_reducible rfl | (simp; done))

@[simp] theorem lasting_cmdOwnerList (h : Hdr) (p : Bytes) (s : State) : (cmdOwnerList h p s).lasting = s.lasting := by
  simp [cmdOwnerList]

@[simp] theorem lasting_cmdKeyRotate (h : Hdr) (p : Bytes) (s : State) : (cmdKeyRotate h p s).lasting = s.lasting := by
  simp [cmdKeyRotate]

@[simp] theorem lasting_cmdEpochRoll (h : Hdr) (p : Bytes) (s : State) : (cmdEpochRoll h p s).lasting = s.lasting := by
  simp only [cmdEpochRoll]; iterate 10 (all_goals (try (first | with_reducible rfl | (refine lasting_serve _ _ _ _ _ (fun s' => ?_)) | (refine (lasting_refuseIf _ _ _ (fun s' => ?_) _).trans ?_) | (refine lasting_receive _ _ _ _ (fun s' => ?_)) | (refine lasting_whenReadable _ _ _ _ _ _ (fun s' => ?_)) | (refine (lasting_foldl _ (fun s' a => ?_) _ _).trans ?_) | split | (simp; done) | (simp_all; done) | simp)))

@[simp] theorem lasting_cmdAttest (h : Hdr) (p : Bytes) (s : State) : (cmdAttest h p s).lasting = s.lasting := by
  simp [cmdAttest]

@[simp] theorem lasting_cmdTrngRead (h : Hdr) (p : Bytes) (s : State) : (cmdTrngRead h p s).lasting = s.lasting := by
  simp [cmdTrngRead]

theorem lasting_execTrngHealthFail (repetition : Bool) (s : State) : ∀ t, (execTrngHealthFail repetition s) = .next t → t.lasting = s.lasting := by
  intro t; unfold execTrngHealthFail; (try simp only []); (repeat' split) <;> intro h <;> (first | (simp only [Host.Outcome.next.injEq] at h; subst h; first | (simp; done) | (simp_all; done) | (iterate 10 (all_goals (try (first | with_reducible rfl | (refine lasting_serve _ _ _ _ _ (fun s' => ?_)) | (refine (lasting_refuseIf _ _ _ (fun s' => ?_) _).trans ?_) | (refine lasting_receive _ _ _ _ (fun s' => ?_)) | (refine lasting_whenReadable _ _ _ _ _ _ (fun s' => ?_)) | (refine (lasting_foldl _ (fun s' a => ?_) _ _).trans ?_) | split | (simp; done) | (simp_all; done) | simp))))) | (simp at h; done))

theorem lasting_execTrngRetry (passed : Bool) (s : State) : ∀ t, (execTrngRetry passed s) = .next t → t.lasting = s.lasting := by
  intro t; unfold execTrngRetry; (try simp only []); (repeat' split) <;> intro h <;> (first | (simp only [Host.Outcome.next.injEq] at h; subst h; first | (simp; done) | (simp_all; done) | (iterate 10 (all_goals (try (first | with_reducible rfl | (refine lasting_serve _ _ _ _ _ (fun s' => ?_)) | (refine (lasting_refuseIf _ _ _ (fun s' => ?_) _).trans ?_) | (refine lasting_receive _ _ _ _ (fun s' => ?_)) | (refine lasting_whenReadable _ _ _ _ _ _ (fun s' => ?_)) | (refine (lasting_foldl _ (fun s' a => ?_) _ _).trans ?_) | split | (simp; done) | (simp_all; done) | simp))))) | (simp at h; done))

@[simp] theorem lasting_newChallenge (s : State) : (newChallenge s).2.lasting = s.lasting := by
  simp [newChallenge]

@[simp] theorem lasting_cmdDebugChallenge (h : Hdr) (p : Bytes) (s : State) : (cmdDebugChallenge h p s).lasting = s.lasting := by
  simp [cmdDebugChallenge]

theorem lasting_execDebugChallengeExpiry (s : State) : ∀ t, (execDebugChallengeExpiry s) = .next t → t.lasting = s.lasting := by
  intro t; unfold execDebugChallengeExpiry; (try simp only []); (repeat' split) <;> intro h <;> (first | (simp only [Host.Outcome.next.injEq] at h; subst h; first | (simp; done) | (simp_all; done) | (iterate 10 (all_goals (try (first | with_reducible rfl | (refine lasting_serve _ _ _ _ _ (fun s' => ?_)) | (refine (lasting_refuseIf _ _ _ (fun s' => ?_) _).trans ?_) | (refine lasting_receive _ _ _ _ (fun s' => ?_)) | (refine lasting_whenReadable _ _ _ _ _ _ (fun s' => ?_)) | (refine (lasting_foldl _ (fun s' a => ?_) _ _).trans ?_) | split | (simp; done) | (simp_all; done) | simp))))) | (simp at h; done))

@[simp] theorem lasting_beginErase (kind : Byte) (tag : Option Tag) (s : State) : (beginErase kind tag s).lasting = s.lasting := by
  simp [beginErase]

@[simp] theorem lasting_cmdDebugOpen (h : Hdr) (p : Bytes) (s : State) : (cmdDebugOpen h p s).lasting = s.lasting := by
  simp [cmdDebugOpen]

@[simp] theorem lasting_forgetModels (s : State) : (forgetModels s).lasting = s.lasting := by
  simp [forgetModels]

@[simp] theorem lasting_zeroSamples (s : State) : (zeroSamples s).lasting = s.lasting := by
  simp [zeroSamples]

@[simp] theorem lasting_rollDevice (s : State) : (rollDevice s).lasting = s.lasting := by
  simp [rollDevice]

@[simp] theorem lasting_eraseKeys (target : Word32) (s : State) : (eraseKeys target s).lasting = s.lasting := by
  simp [eraseKeys]

@[simp] theorem lasting_eraseStore (e : DebugErase) (s : State) : (eraseStore e s).lasting = s.lasting := by
  simp [eraseStore]

@[simp] theorem lasting_eraseClear (e : DebugErase) (s : State) : (eraseClear e s).lasting = s.lasting := by
  simp [eraseClear]

@[simp] theorem lasting_eraseCairn (e : DebugErase) (s : State) : (eraseCairn e s).lasting = s.lasting := by
  simp [eraseCairn]

@[simp] theorem lasting_eraseCairned (s : State) : (eraseCairned s).lasting = s.lasting := by
  unfold eraseCairned; (repeat' split) <;> (first | with_reducible rfl | (simp; done))

@[simp] theorem lasting_eraseProgrammed (s : State) : (eraseProgrammed s).lasting = s.lasting := by
  unfold eraseProgrammed; (repeat' split) <;> (first | with_reducible rfl | (simp; done))

theorem lasting_execSessionOpen (h : Hdr) (p : Bytes) (s : State) : ∀ t, (execSessionOpen h p s) = .next t → t.lasting = s.lasting := by
  exact fun _ e => Host.Outcome.next.inj e ▸ lasting_cmdSessionOpen h p s

theorem lasting_execOwnerProvision (h : Hdr) (p : Bytes) (s : State) : ∀ t, (execOwnerProvision h p s) = .next t → t.lasting = s.lasting := by
  exact fun _ e => Host.Outcome.next.inj e ▸ lasting_cmdOwnerProvision h p s

theorem lasting_execOwnerRemove (h : Hdr) (p : Bytes) (s : State) : ∀ t, (execOwnerRemove h p s) = .next t → t.lasting = s.lasting := by
  exact fun _ e => Host.Outcome.next.inj e ▸ lasting_cmdOwnerRemove h p s

theorem lasting_execOwnerList (h : Hdr) (p : Bytes) (s : State) : ∀ t, (execOwnerList h p s) = .next t → t.lasting = s.lasting := by
  exact fun _ e => Host.Outcome.next.inj e ▸ lasting_cmdOwnerList h p s

theorem lasting_execAttest (h : Hdr) (p : Bytes) (s : State) : ∀ t, (execAttest h p s) = .next t → t.lasting = s.lasting := by
  exact fun _ e => Host.Outcome.next.inj e ▸ lasting_cmdAttest h p s

theorem lasting_execEpochRoll (h : Hdr) (p : Bytes) (s : State) : ∀ t, (execEpochRoll h p s) = .next t → t.lasting = s.lasting := by
  exact fun _ e => Host.Outcome.next.inj e ▸ lasting_cmdEpochRoll h p s

theorem lasting_execDebugChallenge (h : Hdr) (p : Bytes) (s : State) : ∀ t, (execDebugChallenge h p s) = .next t → t.lasting = s.lasting := by
  exact fun _ e => Host.Outcome.next.inj e ▸ lasting_cmdDebugChallenge h p s

theorem lasting_execDebugOpen (h : Hdr) (p : Bytes) (s : State) : ∀ t, (execDebugOpen h p s) = .next t → t.lasting = s.lasting := by
  exact fun _ e => Host.Outcome.next.inj e ▸ lasting_cmdDebugOpen h p s

theorem lasting_execKeyRotate (h : Hdr) (p : Bytes) (s : State) : ∀ t, (execKeyRotate h p s) = .next t → t.lasting = s.lasting := by
  exact fun _ e => Host.Outcome.next.inj e ▸ lasting_cmdKeyRotate h p s

theorem lasting_execTrngRead (h : Hdr) (p : Bytes) (s : State) : ∀ t, (execTrngRead h p s) = .next t → t.lasting = s.lasting := by
  exact fun _ e => Host.Outcome.next.inj e ▸ lasting_cmdTrngRead h p s

@[simp] theorem lasting_timeCommit (us : Nat) (s : State) : (timeCommit us s).lasting = s.lasting := by
  simp [timeCommit]

@[simp] theorem lasting_cairnFault (kind : Byte) (seq : Nat) (s : State) : (cairnFault kind seq s).lasting = s.lasting := by
  simp [cairnFault]

@[simp] theorem lasting_entryCommitted (e : CairnEntry) (seq : Nat) (visible : Bool) (s : State) : (entryCommitted e seq visible s).lasting = s.lasting := by
  unfold entryCommitted; (repeat' split) <;> (first | with_reducible rfl | (simp; done))

@[simp] theorem lasting_noteFault (pinned : Bool) (key seq : Nat) (status : Byte) (s : State) : (noteFault pinned key seq status s).lasting = s.lasting := by
  simp [noteFault]

@[simp] theorem lasting_readReply (pinned : Bool) (first : Word32) (keys : List Nat) (sign : Bool) (nonce : Bytes) (s : State) : (readReply pinned first keys sign nonce s).2.lasting = s.lasting := by
  simp [readReply]

@[simp] theorem lasting_readCircular (start count : Nat) (sign : Bool) (nonce : Bytes) (s : State) : (readCircular start count sign nonce s).2.lasting = s.lasting := by
  simp only [readCircular]; iterate 10 (all_goals (try (first | with_reducible rfl | (refine lasting_serve _ _ _ _ _ (fun s' => ?_)) | (refine (lasting_refuseIf _ _ _ (fun s' => ?_) _).trans ?_) | (refine lasting_receive _ _ _ _ (fun s' => ?_)) | (refine lasting_whenReadable _ _ _ _ _ _ (fun s' => ?_)) | (refine (lasting_foldl _ (fun s' a => ?_) _ _).trans ?_) | split | (simp; done) | (simp_all; done) | simp)))

@[simp] theorem lasting_readPinned (start count : Nat) (sign : Bool) (nonce : Bytes) (s : State) : (readPinned start count sign nonce s).2.lasting = s.lasting := by
  simp [readPinned]

@[simp] theorem lasting_cmdCairnInfo (h : Hdr) (p : Bytes) (s : State) : (cmdCairnInfo h p s).lasting = s.lasting := by
  simp [cmdCairnInfo]

@[simp] theorem lasting_cmdCairnRead (h : Hdr) (p : Bytes) (s : State) : (cmdCairnRead h p s).lasting = s.lasting := by
  unfold cmdCairnRead; refine lasting_serve _ _ _ _ _ (fun s' => ?_); dsimp only; (repeat' split) <;> first | rfl | simp

@[simp] theorem lasting_cmdCairnReadPinned (h : Hdr) (p : Bytes) (s : State) : (cmdCairnReadPinned h p s).lasting = s.lasting := by
  simp only [cmdCairnReadPinned]; iterate 10 (all_goals (try (first | with_reducible rfl | (refine lasting_serve _ _ _ _ _ (fun s' => ?_)) | (refine (lasting_refuseIf _ _ _ (fun s' => ?_) _).trans ?_) | (refine lasting_receive _ _ _ _ (fun s' => ?_)) | (refine lasting_whenReadable _ _ _ _ _ _ (fun s' => ?_)) | (refine (lasting_foldl _ (fun s' a => ?_) _ _).trans ?_) | split | (simp; done) | (simp_all; done) | simp)))

@[simp] theorem lasting_cmdCairnMark (h : Hdr) (p : Bytes) (s : State) : (cmdCairnMark h p s).lasting = s.lasting := by
  simp [cmdCairnMark]

@[simp] theorem lasting_cmdCairnRemoteRead (h : Hdr) (p : Bytes) (s : State) : (cmdCairnRemoteRead h p s).lasting = s.lasting := by
  simp [cmdCairnRemoteRead]

@[simp] theorem lasting_serveRead (src : Byte) (id : BitVec 16) (p : Bytes) (s : State) : (serveRead src id p s).lasting = s.lasting := by
  simp only [serveRead]; iterate 10 (all_goals (try (first | with_reducible rfl | (refine lasting_serve _ _ _ _ _ (fun s' => ?_)) | (refine (lasting_refuseIf _ _ _ (fun s' => ?_) _).trans ?_) | (refine lasting_receive _ _ _ _ (fun s' => ?_)) | (refine lasting_whenReadable _ _ _ _ _ _ (fun s' => ?_)) | (refine (lasting_foldl _ (fun s' a => ?_) _ _).trans ?_) | split | (simp; done) | (simp_all; done) | simp)))

@[simp] theorem lasting_readArrived (src : Byte) (id : BitVec 16) (more : Bool) (b : Bytes) (s : State) : (readArrived src id more b s).lasting = s.lasting := by
  simp only [readArrived]; iterate 10 (all_goals (try (first | with_reducible rfl | (refine lasting_serve _ _ _ _ _ (fun s' => ?_)) | (refine (lasting_refuseIf _ _ _ (fun s' => ?_) _).trans ?_) | (refine lasting_receive _ _ _ _ (fun s' => ?_)) | (refine lasting_whenReadable _ _ _ _ _ _ (fun s' => ?_)) | (refine (lasting_foldl _ (fun s' a => ?_) _ _).trans ?_) | split | (simp; done) | (simp_all; done) | simp)))

theorem lasting_execCairn (r : RopeRx) (relay : BitVec 16) (reply more : Bool) (payload : Bytes) (s : State) : ∀ t, (execCairn r relay reply more payload s) = .next t → t.lasting = s.lasting := by
  intro t; unfold execCairn; (try simp only []); (repeat' split) <;> intro h <;> (first | (simp only [Host.Outcome.next.injEq] at h; subst h; first | (simp; done) | (simp_all; done) | (iterate 10 (all_goals (try (first | with_reducible rfl | (refine lasting_serve _ _ _ _ _ (fun s' => ?_)) | (refine (lasting_refuseIf _ _ _ (fun s' => ?_) _).trans ?_) | (refine lasting_receive _ _ _ _ (fun s' => ?_)) | (refine lasting_whenReadable _ _ _ _ _ _ (fun s' => ?_)) | (refine (lasting_foldl _ (fun s' a => ?_) _ _).trans ?_) | split | (simp; done) | (simp_all; done) | simp))))) | (simp at h; done))

theorem lasting_execRemoteReadTimeout (relay : BitVec 16) (s : State) : ∀ t, (execRemoteReadTimeout relay s) = .next t → t.lasting = s.lasting := by
  intro t; unfold execRemoteReadTimeout; (try simp only []); (repeat' split) <;> intro h <;> (first | (simp only [Host.Outcome.next.injEq] at h; subst h; first | (simp; done) | (simp_all; done) | (iterate 10 (all_goals (try (first | with_reducible rfl | (refine lasting_serve _ _ _ _ _ (fun s' => ?_)) | (refine (lasting_refuseIf _ _ _ (fun s' => ?_) _).trans ?_) | (refine lasting_receive _ _ _ _ (fun s' => ?_)) | (refine lasting_whenReadable _ _ _ _ _ _ (fun s' => ?_)) | (refine (lasting_foldl _ (fun s' a => ?_) _ _).trans ?_) | split | (simp; done) | (simp_all; done) | simp))))) | (simp at h; done))

theorem lasting_execCairnInfo (h : Hdr) (p : Bytes) (s : State) : ∀ t, (execCairnInfo h p s) = .next t → t.lasting = s.lasting := by
  exact fun _ e => Host.Outcome.next.inj e ▸ lasting_cmdCairnInfo h p s

theorem lasting_execCairnRead (h : Hdr) (p : Bytes) (s : State) : ∀ t, (execCairnRead h p s) = .next t → t.lasting = s.lasting := by
  exact fun _ e => Host.Outcome.next.inj e ▸ lasting_cmdCairnRead h p s

theorem lasting_execCairnReadPinned (h : Hdr) (p : Bytes) (s : State) : ∀ t, (execCairnReadPinned h p s) = .next t → t.lasting = s.lasting := by
  exact fun _ e => Host.Outcome.next.inj e ▸ lasting_cmdCairnReadPinned h p s

theorem lasting_execCairnMark (h : Hdr) (p : Bytes) (s : State) : ∀ t, (execCairnMark h p s) = .next t → t.lasting = s.lasting := by
  exact fun _ e => Host.Outcome.next.inj e ▸ lasting_cmdCairnMark h p s

theorem lasting_execCairnRemoteRead (h : Hdr) (p : Bytes) (s : State) : ∀ t, (execCairnRemoteRead h p s) = .next t → t.lasting = s.lasting := by
  exact fun _ e => Host.Outcome.next.inj e ▸ lasting_cmdCairnRemoteRead h p s

@[simp] theorem lasting_setOutputs (level : Level) (code : BitVec 16) (s : State) : (setOutputs level code s).lasting = s.lasting := by
  simp [setOutputs]

@[simp] theorem lasting_tripRecord (cause asset : Byte) (entry : Bool) (s : State) : (tripRecord cause asset entry s).lasting = s.lasting := by
  simp [tripRecord]

@[simp] theorem lasting_belayReset (cause : Byte) (s : State) : (belayReset cause s).lasting = s.lasting := by
  simp [belayReset]

@[simp] theorem lasting_resetLink (s : State) : (resetLink s).lasting = s.lasting := by
  simp [resetLink]

@[simp] theorem lasting_stopWork (s : State) : (stopWork s).lasting = s.lasting := by
  simp [stopWork]

@[simp] theorem lasting_beginReset (cause : Byte) (s : State) : (beginReset cause s).lasting = s.lasting := by
  simp [beginReset]

@[simp] theorem lasting_takeEffect (w : Bool) (s : State) : (takeEffect w s).lasting = s.lasting := by
  cases w <;> simp [takeEffect, resetCairn, resetNvm, resetClocks]

@[simp] theorem lasting_onBoot (f : BootState → BootState) (s : State) : (onBoot f s).lasting = s.lasting := by
  simp [onBoot]

@[simp] theorem lasting_onFw (k : Nat) (f : FwSlot → FwSlot) (s : State) : (onFw k f s).lasting = s.lasting := by
  simp [onFw]

@[simp] theorem lasting_cmdFwUpdateBegin (h : Hdr) (p : Bytes) (s : State) : (cmdFwUpdateBegin h p s).lasting = s.lasting := by
  simp [cmdFwUpdateBegin]

@[simp] theorem lasting_fwErased (s : State) : (fwErased s).lasting = s.lasting := by
  unfold fwErased; (repeat' split) <;> (first | with_reducible rfl | (simp; done))

@[simp] theorem lasting_fwBeginFails (s : State) : (fwBeginFails s).lasting = s.lasting := by
  unfold fwBeginFails; (repeat' split) <;> (first | with_reducible rfl | (simp; done))

@[simp] theorem lasting_cmdFwUpdateData (h : Hdr) (p : Bytes) (s : State) : (cmdFwUpdateData h p s).lasting = s.lasting := by
  simp only [cmdFwUpdateData]; iterate 10 (all_goals (try (first | with_reducible rfl | (refine lasting_serve _ _ _ _ _ (fun s' => ?_)) | (refine (lasting_refuseIf _ _ _ (fun s' => ?_) _).trans ?_) | (refine lasting_receive _ _ _ _ (fun s' => ?_)) | (refine lasting_whenReadable _ _ _ _ _ _ (fun s' => ?_)) | (refine (lasting_foldl _ (fun s' a => ?_) _ _).trans ?_) | split | (simp; done) | (simp_all; done) | simp)))

@[simp] theorem lasting_doneTag (tag : Option Tag) (s : State) : (doneTag tag s).lasting = s.lasting := by
  unfold doneTag; (repeat' split) <;> (first | with_reducible rfl | (simp; done))

@[simp] theorem lasting_fwReceived (k : Nat) (data : Bytes) (tag : Option Tag) (s : State) : (fwReceived k data tag s).lasting = s.lasting := by
  simp [fwReceived]

@[simp] theorem lasting_fwDataFails (k : Nat) (tag : Option Tag) (s : State) : (fwDataFails k tag s).lasting = s.lasting := by
  unfold fwDataFails; (repeat' split) <;> (first | with_reducible rfl | (simp; done))

@[simp] theorem lasting_cmdFwUpdateCommit (h : Hdr) (p : Bytes) (s : State) : (cmdFwUpdateCommit h p s).lasting = s.lasting := by
  simp only [cmdFwUpdateCommit]; iterate 10 (all_goals (try (first | with_reducible rfl | (refine lasting_serve _ _ _ _ _ (fun s' => ?_)) | (refine (lasting_refuseIf _ _ _ (fun s' => ?_) _).trans ?_) | (refine lasting_receive _ _ _ _ (fun s' => ?_)) | (refine lasting_whenReadable _ _ _ _ _ _ (fun s' => ?_)) | (refine (lasting_foldl _ (fun s' a => ?_) _ _).trans ?_) | split | (simp; done) | (simp_all; done) | simp)))

theorem lasting_execFwImageVerified (s : State) : ∀ t, (execFwImageVerified s) = .next t → t.lasting = s.lasting := by
  intro t; unfold execFwImageVerified; (try simp only []); (repeat' split) <;> intro h <;> (first | (simp only [Host.Outcome.next.injEq] at h; subst h; first | (simp; done) | (simp_all; done) | (iterate 10 (all_goals (try (first | with_reducible rfl | (refine lasting_serve _ _ _ _ _ (fun s' => ?_)) | (refine (lasting_refuseIf _ _ _ (fun s' => ?_) _).trans ?_) | (refine lasting_receive _ _ _ _ (fun s' => ?_)) | (refine lasting_whenReadable _ _ _ _ _ _ (fun s' => ?_)) | (refine (lasting_foldl _ (fun s' a => ?_) _ _).trans ?_) | split | (simp; done) | (simp_all; done) | simp))))) | (simp at h; done))

@[simp] theorem lasting_fwStated (k : Nat) (tag : Option Tag) (b : Bytes) (s : State) : (fwStated k tag b s).lasting = s.lasting := by
  simp only [fwStated]; iterate 10 (all_goals (try (first | with_reducible rfl | (refine lasting_serve _ _ _ _ _ (fun s' => ?_)) | (refine (lasting_refuseIf _ _ _ (fun s' => ?_) _).trans ?_) | (refine lasting_receive _ _ _ _ (fun s' => ?_)) | (refine lasting_whenReadable _ _ _ _ _ _ (fun s' => ?_)) | (refine (lasting_foldl _ (fun s' a => ?_) _ _).trans ?_) | split | (simp; done) | (simp_all; done) | simp)))

@[simp] theorem lasting_fwSelected (tag : Option Tag) (k : Nat) (s : State) : (fwSelected tag k s).lasting = s.lasting := by
  simp only [fwSelected]; iterate 10 (all_goals (try (first | with_reducible rfl | (refine lasting_serve _ _ _ _ _ (fun s' => ?_)) | (refine (lasting_refuseIf _ _ _ (fun s' => ?_) _).trans ?_) | (refine lasting_receive _ _ _ _ (fun s' => ?_)) | (refine lasting_whenReadable _ _ _ _ _ _ (fun s' => ?_)) | (refine (lasting_foldl _ (fun s' a => ?_) _ _).trans ?_) | split | (simp; done) | (simp_all; done) | simp)))

@[simp] theorem lasting_fwCommitFails (s : State) : (fwCommitFails s).lasting = s.lasting := by
  unfold fwCommitFails; (repeat' split) <;> (first | with_reducible rfl | (simp; done))

@[simp] theorem lasting_cmdFwSlotStatus (h : Hdr) (p : Bytes) (s : State) : (cmdFwSlotStatus h p s).lasting = s.lasting := by
  simp [cmdFwSlotStatus]

theorem lasting_execFwUpdateBegin (h : Hdr) (p : Bytes) (s : State) : ∀ t, (execFwUpdateBegin h p s) = .next t → t.lasting = s.lasting := by
  exact fun _ e => Host.Outcome.next.inj e ▸ lasting_cmdFwUpdateBegin h p s

theorem lasting_execFwUpdateData (h : Hdr) (p : Bytes) (s : State) : ∀ t, (execFwUpdateData h p s) = .next t → t.lasting = s.lasting := by
  exact fun _ e => Host.Outcome.next.inj e ▸ lasting_cmdFwUpdateData h p s

theorem lasting_execFwUpdateCommit (h : Hdr) (p : Bytes) (s : State) : ∀ t, (execFwUpdateCommit h p s) = .next t → t.lasting = s.lasting := by
  exact fun _ e => Host.Outcome.next.inj e ▸ lasting_cmdFwUpdateCommit h p s

theorem lasting_execFwSlotStatus (h : Hdr) (p : Bytes) (s : State) : ∀ t, (execFwSlotStatus h p s) = .next t → t.lasting = s.lasting := by
  exact fun _ e => Host.Outcome.next.inj e ▸ lasting_cmdFwSlotStatus h p s

@[simp] theorem lasting_failTag (tag : Option Tag) (s : State) : (failTag tag s).lasting = s.lasting := by
  unfold failTag; (repeat' split) <;> (first | with_reducible rfl | (simp; done))

@[simp] theorem lasting_dropOps (f : NvmOp → Bool) (s : State) : (dropOps f s).lasting = s.lasting := by
  simp [dropOps]

@[simp] theorem lasting_copyProgrammed (k : RecordKind) (copy : Nat) (first : Bool) (data : Bytes) (s : State) : (copyProgrammed k copy first data s).lasting = s.lasting := by
  simp [copyProgrammed]

@[simp] theorem lasting_copyTorn (k : RecordKind) (copy : Nat) (s : State) : (copyTorn k copy s).lasting = s.lasting := by
  simp [copyTorn]

@[simp] theorem lasting_commitProgrammed (k : RecordKind) (c : CommitRecord) (s : State) : (commitProgrammed k c s).lasting = s.lasting := by
  simp [commitProgrammed]

@[simp] theorem lasting_recordInForce (k : RecordKind) (tag : Option Tag) (s : State) : (recordInForce k tag s).lasting = s.lasting := by
  unfold recordInForce; (repeat' split) <;> (first | with_reducible rfl | (simp; done))

@[simp] theorem lasting_headCommitted (n : Nat) (s : State) : (headCommitted n s).lasting = s.lasting := by
  unfold headCommitted; (repeat' split) <;> (first | with_reducible rfl | (simp; done))

@[simp] theorem lasting_headFails (n : Nat) (s : State) : (headFails n s).lasting = s.lasting := by
  simp only [headFails]; iterate 10 (all_goals (try (first | with_reducible rfl | (refine lasting_serve _ _ _ _ _ (fun s' => ?_)) | (refine (lasting_refuseIf _ _ _ (fun s' => ?_) _).trans ?_) | (refine lasting_receive _ _ _ _ (fun s' => ?_)) | (refine lasting_whenReadable _ _ _ _ _ _ (fun s' => ?_)) | (refine (lasting_foldl _ (fun s' a => ?_) _ _).trans ?_) | split | (simp; done) | (simp_all; done) | simp)))

@[simp] theorem lasting_headErased (n : Nat) (s : State) : (headErased n s).lasting = s.lasting := by
  unfold headErased; (repeat' split) <;> (first | with_reducible rfl | (simp; done))

@[simp] theorem lasting_modelReceived (m : Nat) (data : Bytes) (tag : Option Tag) (s : State) : (modelReceived m data tag s).lasting = s.lasting := by
  unfold modelReceived; (repeat' split) <;> (first | with_reducible rfl | (simp; done))

@[simp] theorem lasting_modelFails (m : Nat) (tag : Option Tag) (s : State) : (modelFails m tag s).lasting = s.lasting := by
  unfold modelFails; (repeat' split) <;> (first | with_reducible rfl | (simp; done))

@[simp] theorem lasting_wearProgrammed (why : WearWhy) (s : State) : (wearProgrammed why s).lasting = s.lasting := by
  unfold wearProgrammed; (repeat' split) <;> (first | with_reducible rfl | (simp; done))

@[simp] theorem lasting_grantFails (s : State) : (grantFails s).lasting = s.lasting := by
  unfold grantFails; (repeat' split) <;> (first | with_reducible rfl | (simp; done))

@[simp] theorem lasting_wearFails (why : WearWhy) (tag : Option Tag) (s : State) : (wearFails why tag s).lasting = s.lasting := by
  unfold wearFails; (repeat' split) <;> (first | with_reducible rfl | (simp; done))

@[simp] theorem lasting_wearCopyFails (s : State) : (wearCopyFails s).lasting = s.lasting := by
  simp only [wearCopyFails]; iterate 10 (all_goals (try (first | with_reducible rfl | (refine lasting_serve _ _ _ _ _ (fun s' => ?_)) | (refine (lasting_refuseIf _ _ _ (fun s' => ?_) _).trans ?_) | (refine lasting_receive _ _ _ _ (fun s' => ?_)) | (refine lasting_whenReadable _ _ _ _ _ _ (fun s' => ?_)) | (refine (lasting_foldl _ (fun s' a => ?_) _ _).trans ?_) | split | (simp; done) | (simp_all; done) | simp)))

@[simp] theorem lasting_eraseFails (s : State) : (eraseFails s).lasting = s.lasting := by
  unfold eraseFails; (repeat' split) <;> (first | with_reducible rfl | (simp; done))

@[simp] theorem lasting_keysFail (s : State) : (keysFail s).lasting = s.lasting := by
  unfold keysFail; (repeat' split) <;> (first | with_reducible rfl | (simp; done))

@[simp] theorem lasting_recordFails (k : RecordKind) (tag : Option Tag) (s : State) : (recordFails k tag s).lasting = s.lasting := by
  unfold recordFails; (repeat' split) <;> (first | with_reducible rfl | (simp; done))

@[simp] theorem lasting_programmed (o : NvmOp) (s : State) : (programmed o s).lasting = s.lasting := by
  unfold programmed; (repeat' split) <;> (first | with_reducible rfl | (simp; done))

@[simp] theorem lasting_programFailed (o : NvmOp) (s : State) : (programFailed o s).lasting = s.lasting := by
  unfold programFailed; (repeat' split) <;> (first | with_reducible rfl | (simp; done))

@[simp] theorem lasting_erased (o : NvmOp) (ok : Bool) (s : State) : (erased o ok s).lasting = s.lasting := by
  unfold erased; (repeat' split) <;> (first | with_reducible rfl | (simp; done))

@[simp] theorem lasting_startOp (i : Nat) (s : State) : (startOp i s).lasting = s.lasting := by
  unfold startOp; (repeat' split) <;> (first | with_reducible rfl | (simp; done))

theorem lasting_execNvmOperationStart (s : State) : ∀ t, (execNvmOperationStart s) = .next t → t.lasting = s.lasting := by
  intro t; unfold execNvmOperationStart; (try simp only []); (repeat' split) <;> intro h <;> (first | (simp only [Host.Outcome.next.injEq] at h; subst h; first | (simp; done) | (simp_all; done) | (iterate 10 (all_goals (try (first | with_reducible rfl | (refine lasting_serve _ _ _ _ _ (fun s' => ?_)) | (refine (lasting_refuseIf _ _ _ (fun s' => ?_) _).trans ?_) | (refine lasting_receive _ _ _ _ (fun s' => ?_)) | (refine lasting_whenReadable _ _ _ _ _ _ (fun s' => ?_)) | (refine (lasting_foldl _ (fun s' a => ?_) _ _).trans ?_) | split | (simp; done) | (simp_all; done) | simp))))) | (simp at h; done))

@[simp] theorem lasting_endOp (s : State) : (endOp s).lasting = s.lasting := by
  simp [endOp]

@[simp] theorem lasting_cmdReset (cause : Byte) (h : Hdr) (p : Bytes) (s : State) : (cmdReset cause h p s).lasting = s.lasting := by
  simp [cmdReset]

@[simp] theorem lasting_cmdResetWarm (h : Hdr) (p : Bytes) (s : State) : (cmdResetWarm h p s).lasting = s.lasting := by
  simp [cmdResetWarm]

@[simp] theorem lasting_cmdResetFull (h : Hdr) (p : Bytes) (s : State) : (cmdResetFull h p s).lasting = s.lasting := by
  simp [cmdResetFull]

@[simp] theorem lasting_scheduledReset (s : State) : (scheduledReset s).lasting = s.lasting := by
  unfold scheduledReset; (repeat' split) <;> (first | with_reducible rfl | (simp; done))

theorem lasting_execResetReplyTimeout (s : State) : ∀ t, (execResetReplyTimeout s) = .next t → t.lasting = s.lasting := by
  exact fun _ e => Host.Outcome.next.inj e ▸ lasting_scheduledReset s

theorem lasting_execResetPinAssert (s : State) : ∀ t, (execResetPinAssert s) = .next t → t.lasting = s.lasting := by
  intro t; unfold execResetPinAssert; (try simp only []); (repeat' split) <;> intro h <;> (first | (simp only [Host.Outcome.next.injEq] at h; subst h; first | (simp; done) | (simp_all; done) | (iterate 10 (all_goals (try (first | with_reducible rfl | (refine lasting_serve _ _ _ _ _ (fun s' => ?_)) | (refine (lasting_refuseIf _ _ _ (fun s' => ?_) _).trans ?_) | (refine lasting_receive _ _ _ _ (fun s' => ?_)) | (refine lasting_whenReadable _ _ _ _ _ _ (fun s' => ?_)) | (refine (lasting_foldl _ (fun s' a => ?_) _ _).trans ?_) | split | (simp; done) | (simp_all; done) | simp))))) | (simp at h; done))

theorem lasting_execResetPinRelease (s : State) : ∀ t, (execResetPinRelease s) = .next t → t.lasting = s.lasting := by
  intro t; unfold execResetPinRelease; (try simp only []); (repeat' split) <;> intro h <;> (first | (simp only [Host.Outcome.next.injEq] at h; subst h; first | (simp; done) | (simp_all; done) | (iterate 10 (all_goals (try (first | with_reducible rfl | (refine lasting_serve _ _ _ _ _ (fun s' => ?_)) | (refine (lasting_refuseIf _ _ _ (fun s' => ?_) _).trans ?_) | (refine lasting_receive _ _ _ _ (fun s' => ?_)) | (refine lasting_whenReadable _ _ _ _ _ _ (fun s' => ?_)) | (refine (lasting_foldl _ (fun s' a => ?_) _ _).trans ?_) | split | (simp; done) | (simp_all; done) | simp))))) | (simp at h; done))

theorem lasting_execBrownoutRelease (s : State) : ∀ t, (execBrownoutRelease s) = .next t → t.lasting = s.lasting := by
  intro t; unfold execBrownoutRelease; (try simp only []); (repeat' split) <;> intro h <;> (first | (simp only [Host.Outcome.next.injEq] at h; subst h; first | (simp; done) | (simp_all; done) | (iterate 10 (all_goals (try (first | with_reducible rfl | (refine lasting_serve _ _ _ _ _ (fun s' => ?_)) | (refine (lasting_refuseIf _ _ _ (fun s' => ?_) _).trans ?_) | (refine lasting_receive _ _ _ _ (fun s' => ?_)) | (refine lasting_whenReadable _ _ _ _ _ _ (fun s' => ?_)) | (refine (lasting_foldl _ (fun s' a => ?_) _ _).trans ?_) | split | (simp; done) | (simp_all; done) | simp))))) | (simp at h; done))

theorem lasting_execThermalResetRelease (s : State) : ∀ t, (execThermalResetRelease s) = .next t → t.lasting = s.lasting := by
  intro t; unfold execThermalResetRelease; (try simp only []); (repeat' split) <;> intro h <;> (first | (simp only [Host.Outcome.next.injEq] at h; subst h; first | (simp; done) | (simp_all; done) | (iterate 10 (all_goals (try (first | with_reducible rfl | (refine lasting_serve _ _ _ _ _ (fun s' => ?_)) | (refine (lasting_refuseIf _ _ _ (fun s' => ?_) _).trans ?_) | (refine lasting_receive _ _ _ _ (fun s' => ?_)) | (refine lasting_whenReadable _ _ _ _ _ _ (fun s' => ?_)) | (refine (lasting_foldl _ (fun s' a => ?_) _ _).trans ?_) | split | (simp; done) | (simp_all; done) | simp))))) | (simp at h; done))

theorem lasting_execResetTakeEffect (s : State) : ∀ t, execResetTakeEffect s = .next t → t.lasting = s.lasting := by
  intro t; unfold execResetTakeEffect; (try simp only []); (repeat' split) <;> intro h <;> (first | (simp only [Host.Outcome.next.injEq] at h; subst h; first | (simp; done) | (simp_all; done) | (iterate 10 (all_goals (try (first | with_reducible rfl | (refine lasting_receive _ _ _ _ (fun s' => ?_)) | (refine (lasting_foldl _ (fun s' a => ?_) _ _).trans ?_) | split | (simp; done) | (simp_all; done) | simp))))) | (simp at h; done))

@[simp] theorem lasting_enterPhase (p : BootPhase) (s : State) : (enterPhase p s).lasting = s.lasting := by
  simp [enterPhase]

@[simp] theorem lasting_enterAuth (s : State) : (enterAuth s).lasting = s.lasting := by
  simp [enterAuth]

@[simp] theorem lasting_loadRecords (s : State) : (loadRecords s).lasting = s.lasting := by
  simp [loadRecords]

@[simp] theorem lasting_startPendingErase (s : State) : (startPendingErase s).lasting = s.lasting := by
  unfold startPendingErase; (repeat' split) <;> (first | with_reducible rfl | (simp; done))

theorem lasting_execErasePendingComplete (s : State) : ∀ t, (execErasePendingComplete s) = .next t → t.lasting = s.lasting := by
  intro t; unfold execErasePendingComplete; (try simp only []); (repeat' split) <;> intro h <;> (first | (simp only [Host.Outcome.next.injEq] at h; subst h; first | (simp; done) | (simp_all; done) | (iterate 10 (all_goals (try (first | with_reducible rfl | (refine lasting_serve _ _ _ _ _ (fun s' => ?_)) | (refine (lasting_refuseIf _ _ _ (fun s' => ?_) _).trans ?_) | (refine lasting_receive _ _ _ _ (fun s' => ?_)) | (refine lasting_whenReadable _ _ _ _ _ _ (fun s' => ?_)) | (refine (lasting_foldl _ (fun s' a => ?_) _ _).trans ?_) | split | (simp; done) | (simp_all; done) | simp))))) | (simp at h; done))

@[simp] theorem lasting_markSlot (k : Nat) (st : FwSlotState) (s : State) : (markSlot k st s).lasting = s.lasting := by
  simp [markSlot]

@[simp] theorem lasting_trySlot (barred : Option Nat) (k : Nat) (s : State) : (trySlot barred k s).1.lasting = s.lasting := by
  simp only [trySlot]; iterate 10 (all_goals (try (first | with_reducible rfl | (refine lasting_serve _ _ _ _ _ (fun s' => ?_)) | (refine (lasting_refuseIf _ _ _ (fun s' => ?_) _).trans ?_) | (refine lasting_receive _ _ _ _ (fun s' => ?_)) | (refine lasting_whenReadable _ _ _ _ _ _ (fun s' => ?_)) | (refine (lasting_foldl _ (fun s' a => ?_) _ _).trans ?_) | split | (simp; done) | (simp_all; done) | simp)))

@[simp] theorem lasting_rollBack (s : State) : (rollBack s).1.lasting = s.lasting := by
  simp only [rollBack]; iterate 10 (all_goals (try (first | with_reducible rfl | (refine lasting_serve _ _ _ _ _ (fun s' => ?_)) | (refine (lasting_refuseIf _ _ _ (fun s' => ?_) _).trans ?_) | (refine lasting_receive _ _ _ _ (fun s' => ?_)) | (refine lasting_whenReadable _ _ _ _ _ _ (fun s' => ?_)) | (refine (lasting_foldl _ (fun s' a => ?_) _ _).trans ?_) | split | (simp; done) | (simp_all; done) | simp)))

@[simp] theorem lasting_runSlot (k : Nat) (s : State) : (runSlot k s).lasting = s.lasting := by
  simp [runSlot]

theorem lasting_execAuthComplete (s : State) : ∀ t, (execAuthComplete s) = .next t → t.lasting = s.lasting := by
  intro t; unfold execAuthComplete; (try simp only []); (repeat' split) <;> intro h <;> (first | (simp only [Host.Outcome.next.injEq] at h; subst h; first | (simp; done) | (simp_all; done) | (iterate 10 (all_goals (try (first | with_reducible rfl | (refine lasting_serve _ _ _ _ _ (fun s' => ?_)) | (refine (lasting_refuseIf _ _ _ (fun s' => ?_) _).trans ?_) | (refine lasting_receive _ _ _ _ (fun s' => ?_)) | (refine lasting_whenReadable _ _ _ _ _ _ (fun s' => ?_)) | (refine (lasting_foldl _ (fun s' a => ?_) _ _).trans ?_) | split | (simp; done) | (simp_all; done) | simp))))) | (simp at h; done))

@[simp] theorem lasting_countBoot (s : State) : (countBoot s).lasting = s.lasting := by
  simp [countBoot]

@[simp] theorem lasting_confirmTrial (s : State) : (confirmTrial s).lasting = s.lasting := by
  simp [confirmTrial]

@[simp] theorem lasting_readyEvent (cause : Byte) (s : State) : (readyEvent cause s).lasting = s.lasting := by
  simp [readyEvent]

@[simp] theorem lasting_resumeBelay (s : State) : (resumeBelay s).lasting = s.lasting := by
  unfold resumeBelay; (repeat' split) <;> (first | with_reducible rfl | (simp; done))

@[simp] theorem lasting_cleanNvm (s : State) : (cleanNvm s).lasting = s.lasting := by
  simp [cleanNvm]

@[simp] theorem lasting_raiseHeld (s : State) : (raiseHeld s).lasting = s.lasting := by
  simp [raiseHeld]

@[simp] theorem lasting_tellRollback (s : State) : (tellRollback s).lasting = s.lasting := by
  unfold tellRollback; (repeat' split) <;> (first | with_reducible rfl | (simp; done))

@[simp] theorem lasting_tellReplay (s : State) : (tellReplay s).lasting = s.lasting := by
  unfold tellReplay; (repeat' split) <;> (first | with_reducible rfl | (simp; done))

@[simp] theorem lasting_recordBoot (s : State) : (recordBoot s).lasting = s.lasting := by
  simp [recordBoot]

@[simp] theorem lasting_wantRope (s : State) : (wantRope s).lasting = s.lasting := by
  simp [wantRope]

@[simp] theorem lasting_resumeRemoval (s : State) : (resumeRemoval s).lasting = s.lasting := by
  unfold resumeRemoval; (repeat' split) <;> (first | with_reducible rfl | (simp; done))

@[simp] theorem lasting_firstReady (s : State) : (firstReady s).lasting = s.lasting := by
  simp [firstReady]

theorem lasting_execDeviceReady (s : State) : ∀ t, (execDeviceReady s) = .next t → t.lasting = s.lasting := by
  intro t; unfold execDeviceReady; (try simp only []); (repeat' split) <;> intro h <;> (first | (simp only [Host.Outcome.next.injEq] at h; subst h; first | (simp; done) | (simp_all; done) | (iterate 10 (all_goals (try (first | with_reducible rfl | (refine lasting_serve _ _ _ _ _ (fun s' => ?_)) | (refine (lasting_refuseIf _ _ _ (fun s' => ?_) _).trans ?_) | (refine lasting_receive _ _ _ _ (fun s' => ?_)) | (refine lasting_whenReadable _ _ _ _ _ _ (fun s' => ?_)) | (refine (lasting_foldl _ (fun s' a => ?_) _ _).trans ?_) | split | (simp; done) | (simp_all; done) | simp))))) | (simp at h; done))

theorem lasting_execBootGuardExpiry (s : State) : ∀ t, (execBootGuardExpiry s) = .next t → t.lasting = s.lasting := by
  intro t; unfold execBootGuardExpiry; (try simp only []); (repeat' split) <;> intro h <;> (first | (simp only [Host.Outcome.next.injEq] at h; subst h; first | (simp; done) | (simp_all; done) | (iterate 10 (all_goals (try (first | with_reducible rfl | (refine lasting_serve _ _ _ _ _ (fun s' => ?_)) | (refine (lasting_refuseIf _ _ _ (fun s' => ?_) _).trans ?_) | (refine lasting_receive _ _ _ _ (fun s' => ?_)) | (refine lasting_whenReadable _ _ _ _ _ _ (fun s' => ?_)) | (refine (lasting_foldl _ (fun s' a => ?_) _ _).trans ?_) | split | (simp; done) | (simp_all; done) | simp))))) | (simp at h; done))

theorem lasting_execWatchdogExpiry (s : State) : ∀ t, (execWatchdogExpiry s) = .next t → t.lasting = s.lasting := by
  intro t; unfold execWatchdogExpiry; (try simp only []); (repeat' split) <;> intro h <;> (first | (simp only [Host.Outcome.next.injEq] at h; subst h; first | (simp; done) | (simp_all; done) | (iterate 10 (all_goals (try (first | with_reducible rfl | (refine lasting_serve _ _ _ _ _ (fun s' => ?_)) | (refine (lasting_refuseIf _ _ _ (fun s' => ?_) _).trans ?_) | (refine lasting_receive _ _ _ _ (fun s' => ?_)) | (refine lasting_whenReadable _ _ _ _ _ _ (fun s' => ?_)) | (refine (lasting_foldl _ (fun s' a => ?_) _ _).trans ?_) | split | (simp; done) | (simp_all; done) | simp))))) | (simp at h; done))

theorem lasting_execControlCoreException (code : Word32) (s : State) : ∀ t, (execControlCoreException code s) = .next t → t.lasting = s.lasting := by
  intro t; unfold execControlCoreException; (try simp only []); (repeat' split) <;> intro h <;> (first | (simp only [Host.Outcome.next.injEq] at h; subst h; first | (simp; done) | (simp_all; done) | (iterate 10 (all_goals (try (first | with_reducible rfl | (refine lasting_serve _ _ _ _ _ (fun s' => ?_)) | (refine (lasting_refuseIf _ _ _ (fun s' => ?_) _).trans ?_) | (refine lasting_receive _ _ _ _ (fun s' => ?_)) | (refine lasting_whenReadable _ _ _ _ _ _ (fun s' => ?_)) | (refine (lasting_foldl _ (fun s' a => ?_) _ _).trans ?_) | split | (simp; done) | (simp_all; done) | simp))))) | (simp at h; done))

@[simp] theorem lasting_endInternal (s : State) (c : Slot) : (endInternal s c).lasting = s.lasting := by
  simp [endInternal]

theorem lasting_execFirmwareRestartDone (s : State) : ∀ t, (execFirmwareRestartDone s) = .next t → t.lasting = s.lasting := by
  intro t; unfold execFirmwareRestartDone; (try simp only []); (repeat' split) <;> intro h <;> (first | (simp only [Host.Outcome.next.injEq] at h; subst h; first | (simp; done) | (simp_all; done) | (iterate 10 (all_goals (try (first | with_reducible rfl | (refine lasting_serve _ _ _ _ _ (fun s' => ?_)) | (refine (lasting_refuseIf _ _ _ (fun s' => ?_) _).trans ?_) | (refine lasting_receive _ _ _ _ (fun s' => ?_)) | (refine lasting_whenReadable _ _ _ _ _ _ (fun s' => ?_)) | (refine (lasting_foldl _ (fun s' a => ?_) _ _).trans ?_) | split | (simp; done) | (simp_all; done) | simp))))) | (simp at h; done))

@[simp] theorem lasting_raiseAwake (code : Byte) (body : Bytes) (s : State) : (raiseAwake code body s).lasting = s.lasting := by
  simp [raiseAwake]

theorem lasting_execVholdThreshold (mv : BitVec 16) (s : State) : ∀ t, (execVholdThreshold mv s) = .next t → t.lasting = s.lasting := by
  intro t; unfold execVholdThreshold; (try simp only []); (repeat' split) <;> intro h <;> (first | (simp only [Host.Outcome.next.injEq] at h; subst h; first | (simp; done) | (simp_all; done) | (iterate 10 (all_goals (try (first | with_reducible rfl | (refine lasting_serve _ _ _ _ _ (fun s' => ?_)) | (refine (lasting_refuseIf _ _ _ (fun s' => ?_) _).trans ?_) | (refine lasting_receive _ _ _ _ (fun s' => ?_)) | (refine lasting_whenReadable _ _ _ _ _ _ (fun s' => ?_)) | (refine (lasting_foldl _ (fun s' a => ?_) _ _).trans ?_) | split | (simp; done) | (simp_all; done) | simp))))) | (simp at h; done))

theorem lasting_execHoldupHoldEnd (s : State) : ∀ t, (execHoldupHoldEnd s) = .next t → t.lasting = s.lasting := by
  intro t; unfold execHoldupHoldEnd; (try simp only []); (repeat' split) <;> intro h <;> (first | (simp only [Host.Outcome.next.injEq] at h; subst h; first | (simp; done) | (simp_all; done) | (iterate 10 (all_goals (try (first | with_reducible rfl | (refine lasting_serve _ _ _ _ _ (fun s' => ?_)) | (refine (lasting_refuseIf _ _ _ (fun s' => ?_) _).trans ?_) | (refine lasting_receive _ _ _ _ (fun s' => ?_)) | (refine lasting_whenReadable _ _ _ _ _ _ (fun s' => ?_)) | (refine (lasting_foldl _ (fun s' a => ?_) _ _).trans ?_) | split | (simp; done) | (simp_all; done) | simp))))) | (simp at h; done))

theorem lasting_execResetWarm (h : Hdr) (p : Bytes) (s : State) : ∀ t, (execResetWarm h p s) = .next t → t.lasting = s.lasting := by
  exact fun _ e => Host.Outcome.next.inj e ▸ lasting_cmdResetWarm h p s

theorem lasting_execResetFull (h : Hdr) (p : Bytes) (s : State) : ∀ t, (execResetFull h p s) = .next t → t.lasting = s.lasting := by
  exact fun _ e => Host.Outcome.next.inj e ▸ lasting_cmdResetFull h p s

@[simp] theorem lasting_onPwr (f : PowerBlock → PowerBlock) (s : State) : (onPwr f s).lasting = s.lasting := by
  simp [onPwr]

@[simp] theorem lasting_clockFault (kind pll : Byte) (s : State) : (clockFault kind pll s).lasting = s.lasting := by
  simp [clockFault]

@[simp] theorem lasting_clockEntry (kind pll : Byte) (s : State) : (clockEntry kind pll s).lasting = s.lasting := by
  simp [clockEntry]

theorem lasting_execXo32QualifyInterval (edges : Nat) (s : State) : ∀ t, (execXo32QualifyInterval edges s) = .next t → t.lasting = s.lasting := by
  intro t; unfold execXo32QualifyInterval; (try simp only []); (repeat' split) <;> intro h <;> (first | (simp only [Host.Outcome.next.injEq] at h; subst h; first | (simp; done) | (simp_all; done) | (iterate 10 (all_goals (try (first | with_reducible rfl | (refine lasting_serve _ _ _ _ _ (fun s' => ?_)) | (refine (lasting_refuseIf _ _ _ (fun s' => ?_) _).trans ?_) | (refine lasting_receive _ _ _ _ (fun s' => ?_)) | (refine lasting_whenReadable _ _ _ _ _ _ (fun s' => ?_)) | (refine (lasting_foldl _ (fun s' a => ?_) _ _).trans ?_) | split | (simp; done) | (simp_all; done) | simp))))) | (simp at h; done))

@[simp] theorem lasting_loseXo32 (s : State) : (loseXo32 s).lasting = s.lasting := by
  simp [loseXo32]

theorem lasting_execXo32EdgeLoss (s : State) : ∀ t, (execXo32EdgeLoss s) = .next t → t.lasting = s.lasting := by
  intro t; unfold execXo32EdgeLoss; (try simp only []); (repeat' split) <;> intro h <;> (first | (simp only [Host.Outcome.next.injEq] at h; subst h; first | (simp; done) | (simp_all; done) | (iterate 10 (all_goals (try (first | with_reducible rfl | (refine lasting_serve _ _ _ _ _ (fun s' => ?_)) | (refine (lasting_refuseIf _ _ _ (fun s' => ?_) _).trans ?_) | (refine lasting_receive _ _ _ _ (fun s' => ?_)) | (refine lasting_whenReadable _ _ _ _ _ _ (fun s' => ?_)) | (refine (lasting_foldl _ (fun s' a => ?_) _ _).trans ?_) | split | (simp; done) | (simp_all; done) | simp))))) | (simp at h; done))

theorem lasting_execXo32Retry (s : State) : ∀ t, (execXo32Retry s) = .next t → t.lasting = s.lasting := by
  intro t; unfold execXo32Retry; (try simp only []); (repeat' split) <;> intro h <;> (first | (simp only [Host.Outcome.next.injEq] at h; subst h; first | (simp; done) | (simp_all; done) | (iterate 10 (all_goals (try (first | with_reducible rfl | (refine lasting_serve _ _ _ _ _ (fun s' => ?_)) | (refine (lasting_refuseIf _ _ _ (fun s' => ?_) _).trans ?_) | (refine lasting_receive _ _ _ _ (fun s' => ?_)) | (refine lasting_whenReadable _ _ _ _ _ _ (fun s' => ?_)) | (refine (lasting_foldl _ (fun s' a => ?_) _ _).trans ?_) | split | (simp; done) | (simp_all; done) | simp))))) | (simp at h; done))

theorem lasting_execXo32Absent (s : State) : ∀ t, (execXo32Absent s) = .next t → t.lasting = s.lasting := by
  intro t; unfold execXo32Absent; (try simp only []); (repeat' split) <;> intro h <;> (first | (simp only [Host.Outcome.next.injEq] at h; subst h; first | (simp; done) | (simp_all; done) | (iterate 10 (all_goals (try (first | with_reducible rfl | (refine lasting_serve _ _ _ _ _ (fun s' => ?_)) | (refine (lasting_refuseIf _ _ _ (fun s' => ?_) _).trans ?_) | (refine lasting_receive _ _ _ _ (fun s' => ?_)) | (refine lasting_whenReadable _ _ _ _ _ _ (fun s' => ?_)) | (refine (lasting_foldl _ (fun s' a => ?_) _ _).trans ?_) | split | (simp; done) | (simp_all; done) | simp))))) | (simp at h; done))

@[simp] theorem lasting_wantActive (s : State) : (wantActive s).lasting = s.lasting := by
  simp [wantActive]

@[simp] theorem lasting_resumeWork (s : State) : (resumeWork s).lasting = s.lasting := by
  simp [resumeWork]

@[simp] theorem lasting_clockBack (s : State) : (clockBack s).lasting = s.lasting := by
  simp [clockBack]

theorem lasting_execXo24Qualified (us : Nat) (s : State) : ∀ t, (execXo24Qualified us s) = .next t → t.lasting = s.lasting := by
  intro t; unfold execXo24Qualified; (try simp only []); (repeat' split) <;> intro h <;> (first | (simp only [Host.Outcome.next.injEq] at h; subst h; first | (simp; done) | (simp_all; done) | (iterate 10 (all_goals (try (first | with_reducible rfl | (refine lasting_serve _ _ _ _ _ (fun s' => ?_)) | (refine (lasting_refuseIf _ _ _ (fun s' => ?_) _).trans ?_) | (refine lasting_receive _ _ _ _ (fun s' => ?_)) | (refine lasting_whenReadable _ _ _ _ _ _ (fun s' => ?_)) | (refine (lasting_foldl _ (fun s' a => ?_) _ _).trans ?_) | split | (simp; done) | (simp_all; done) | simp))))) | (simp at h; done))

@[simp] theorem lasting_clockLost (s : State) : (clockLost s).lasting = s.lasting := by
  simp [clockLost]

theorem lasting_execXo24QualifyTimeout (s : State) : ∀ t, (execXo24QualifyTimeout s) = .next t → t.lasting = s.lasting := by
  intro t; unfold execXo24QualifyTimeout; (try simp only []); (repeat' split) <;> intro h <;> (first | (simp only [Host.Outcome.next.injEq] at h; subst h; first | (simp; done) | (simp_all; done) | (iterate 10 (all_goals (try (first | with_reducible rfl | (refine lasting_serve _ _ _ _ _ (fun s' => ?_)) | (refine (lasting_refuseIf _ _ _ (fun s' => ?_) _).trans ?_) | (refine lasting_receive _ _ _ _ (fun s' => ?_)) | (refine lasting_whenReadable _ _ _ _ _ _ (fun s' => ?_)) | (refine (lasting_foldl _ (fun s' a => ?_) _ _).trans ?_) | split | (simp; done) | (simp_all; done) | simp))))) | (simp at h; done))

theorem lasting_execXo24Retry (s : State) : ∀ t, (execXo24Retry s) = .next t → t.lasting = s.lasting := by
  intro t; unfold execXo24Retry; (try simp only []); (repeat' split) <;> intro h <;> (first | (simp only [Host.Outcome.next.injEq] at h; subst h; first | (simp; done) | (simp_all; done) | (iterate 10 (all_goals (try (first | with_reducible rfl | (refine lasting_serve _ _ _ _ _ (fun s' => ?_)) | (refine (lasting_refuseIf _ _ _ (fun s' => ?_) _).trans ?_) | (refine lasting_receive _ _ _ _ (fun s' => ?_)) | (refine lasting_whenReadable _ _ _ _ _ _ (fun s' => ?_)) | (refine (lasting_foldl _ (fun s' a => ?_) _ _).trans ?_) | split | (simp; done) | (simp_all; done) | simp))))) | (simp at h; done))

@[simp] theorem lasting_haltCompute (s : State) : (haltCompute s).lasting = s.lasting := by
  simp [haltCompute]

theorem lasting_execXo24Stopped (s : State) : ∀ t, (execXo24Stopped s) = .next t → t.lasting = s.lasting := by
  intro t; unfold execXo24Stopped; (try simp only []); (repeat' split) <;> intro h <;> (first | (simp only [Host.Outcome.next.injEq] at h; subst h; first | (simp; done) | (simp_all; done) | (iterate 10 (all_goals (try (first | with_reducible rfl | (refine lasting_serve _ _ _ _ _ (fun s' => ?_)) | (refine (lasting_refuseIf _ _ _ (fun s' => ?_) _).trans ?_) | (refine lasting_receive _ _ _ _ (fun s' => ?_)) | (refine lasting_whenReadable _ _ _ _ _ _ (fun s' => ?_)) | (refine (lasting_foldl _ (fun s' a => ?_) _ _).trans ?_) | split | (simp; done) | (simp_all; done) | simp))))) | (simp at h; done))

theorem lasting_execPllLocked (pll : BitVec 2) (s : State) : ∀ t, (execPllLocked pll s) = .next t → t.lasting = s.lasting := by
  intro t; unfold execPllLocked; (try simp only []); (repeat' split) <;> intro h <;> (first | (simp only [Host.Outcome.next.injEq] at h; subst h; first | (simp; done) | (simp_all; done) | (iterate 10 (all_goals (try (first | with_reducible rfl | (refine lasting_serve _ _ _ _ _ (fun s' => ?_)) | (refine (lasting_refuseIf _ _ _ (fun s' => ?_) _).trans ?_) | (refine lasting_receive _ _ _ _ (fun s' => ?_)) | (refine lasting_whenReadable _ _ _ _ _ _ (fun s' => ?_)) | (refine (lasting_foldl _ (fun s' a => ?_) _ _).trans ?_) | split | (simp; done) | (simp_all; done) | simp))))) | (simp at h; done))

theorem lasting_execPllLockLoss (pll : BitVec 2) (s : State) : ∀ t, (execPllLockLoss pll s) = .next t → t.lasting = s.lasting := by
  intro t; unfold execPllLockLoss; (try simp only []); (repeat' split) <;> intro h <;> (first | (simp only [Host.Outcome.next.injEq] at h; subst h; first | (simp; done) | (simp_all; done) | (iterate 10 (all_goals (try (first | with_reducible rfl | (refine lasting_serve _ _ _ _ _ (fun s' => ?_)) | (refine (lasting_refuseIf _ _ _ (fun s' => ?_) _).trans ?_) | (refine lasting_receive _ _ _ _ (fun s' => ?_)) | (refine lasting_whenReadable _ _ _ _ _ _ (fun s' => ?_)) | (refine (lasting_foldl _ (fun s' a => ?_) _ _).trans ?_) | split | (simp; done) | (simp_all; done) | simp))))) | (simp at h; done))

@[simp] theorem lasting_powerCore (n : Nat) (q : Int) (s : State) : (powerCore n q s).lasting = s.lasting := by
  simp [powerCore]

@[simp] theorem lasting_followCim (s : State) : (followCim s).lasting = s.lasting := by
  simp [followCim]

@[simp] theorem lasting_bankOff (b : Nat) (s : State) : (bankOff b s).lasting = s.lasting := by
  simp [bankOff]

@[simp] theorem lasting_fabricOff (s : State) : (fabricOff s).lasting = s.lasting := by
  simp [fabricOff]

@[simp] theorem lasting_inputsOff (s : State) : (inputsOff s).lasting = s.lasting := by
  simp [inputsOff]

@[simp] theorem lasting_domainLost (n : Nat) (s : State) : (domainLost n s).lasting = s.lasting := by
  simp [domainLost]

@[simp] theorem lasting_domainGained (n va30 : Nat) (q : Int) (s : State) : (domainGained n va30 q s).lasting = s.lasting := by
  simp [domainGained]

theorem lasting_execDomainSwitchDone (us va30 : Nat) (milli : Int) (s : State) : ∀ t, (execDomainSwitchDone us va30 milli s) = .next t → t.lasting = s.lasting := by
  intro t; unfold execDomainSwitchDone; (try simp only []); (repeat' split) <;> intro h <;> (first | (simp only [Host.Outcome.next.injEq] at h; subst h; first | (simp; done) | (simp_all; done) | (iterate 10 (all_goals (try (first | with_reducible rfl | (refine lasting_serve _ _ _ _ _ (fun s' => ?_)) | (refine (lasting_refuseIf _ _ _ (fun s' => ?_) _).trans ?_) | (refine lasting_receive _ _ _ _ (fun s' => ?_)) | (refine lasting_whenReadable _ _ _ _ _ _ (fun s' => ?_)) | (refine (lasting_foldl _ (fun s' a => ?_) _ _).trans ?_) | split | (simp; done) | (simp_all; done) | simp))))) | (simp at h; done))

theorem lasting_execDomainIdleRelease (domain : BitVec 5) (s : State) : ∀ t, (execDomainIdleRelease domain s) = .next t → t.lasting = s.lasting := by
  intro t; unfold execDomainIdleRelease; (try simp only []); (repeat' split) <;> intro h <;> (first | (simp only [Host.Outcome.next.injEq] at h; subst h; first | (simp; done) | (simp_all; done) | (iterate 10 (all_goals (try (first | with_reducible rfl | (refine lasting_serve _ _ _ _ _ (fun s' => ?_)) | (refine (lasting_refuseIf _ _ _ (fun s' => ?_) _).trans ?_) | (refine lasting_receive _ _ _ _ (fun s' => ?_)) | (refine lasting_whenReadable _ _ _ _ _ _ (fun s' => ?_)) | (refine (lasting_foldl _ (fun s' a => ?_) _ _).trans ?_) | split | (simp; done) | (simp_all; done) | simp))))) | (simp at h; done))

theorem lasting_execVa30OutOfRegulation (out : Bool) (s : State) : ∀ t, (execVa30OutOfRegulation out s) = .next t → t.lasting = s.lasting := by
  intro t; unfold execVa30OutOfRegulation; (try simp only []); (repeat' split) <;> intro h <;> (first | (simp only [Host.Outcome.next.injEq] at h; subst h; first | (simp; done) | (simp_all; done) | (iterate 10 (all_goals (try (first | with_reducible rfl | (refine lasting_serve _ _ _ _ _ (fun s' => ?_)) | (refine (lasting_refuseIf _ _ _ (fun s' => ?_) _).trans ?_) | (refine lasting_receive _ _ _ _ (fun s' => ?_)) | (refine lasting_whenReadable _ _ _ _ _ _ (fun s' => ?_)) | (refine (lasting_foldl _ (fun s' a => ?_) _ _).trans ?_) | split | (simp; done) | (simp_all; done) | simp))))) | (simp at h; done))

theorem lasting_execIoRailRangeChange (sensor inRange : Bool) (s : State) : ∀ t, (execIoRailRangeChange sensor inRange s) = .next t → t.lasting = s.lasting := by
  intro t; unfold execIoRailRangeChange; (try simp only []); (repeat' split) <;> intro h <;> (first | (simp only [Host.Outcome.next.injEq] at h; subst h; first | (simp; done) | (simp_all; done) | (iterate 10 (all_goals (try (first | with_reducible rfl | (refine lasting_serve _ _ _ _ _ (fun s' => ?_)) | (refine (lasting_refuseIf _ _ _ (fun s' => ?_) _).trans ?_) | (refine lasting_receive _ _ _ _ (fun s' => ?_)) | (refine lasting_whenReadable _ _ _ _ _ _ (fun s' => ?_)) | (refine (lasting_foldl _ (fun s' a => ?_) _ _).trans ?_) | split | (simp; done) | (simp_all; done) | simp))))) | (simp at h; done))

theorem lasting_execVcoreBuckInRegulation (s : State) : ∀ t, (execVcoreBuckInRegulation s) = .next t → t.lasting = s.lasting := by
  intro t; unfold execVcoreBuckInRegulation; (try simp only []); (repeat' split) <;> intro h <;> (first | (simp only [Host.Outcome.next.injEq] at h; subst h; first | (simp; done) | (simp_all; done) | (iterate 10 (all_goals (try (first | with_reducible rfl | (refine lasting_serve _ _ _ _ _ (fun s' => ?_)) | (refine (lasting_refuseIf _ _ _ (fun s' => ?_) _).trans ?_) | (refine lasting_receive _ _ _ _ (fun s' => ?_)) | (refine lasting_whenReadable _ _ _ _ _ _ (fun s' => ?_)) | (refine (lasting_foldl _ (fun s' a => ?_) _ _).trans ?_) | split | (simp; done) | (simp_all; done) | simp))))) | (simp at h; done))

@[simp] theorem lasting_cmdSleep (target : PowerState) (h : Hdr) (p : Bytes) (s : State) : (cmdSleep target h p s).lasting = s.lasting := by
  simp [cmdSleep]

@[simp] theorem lasting_cmdPowerStateSetBivouac (h : Hdr) (p : Bytes) (s : State) : (cmdPowerStateSetBivouac h p s).lasting = s.lasting := by
  simp [cmdPowerStateSetBivouac]

@[simp] theorem lasting_cmdPowerStateSetWatch (h : Hdr) (p : Bytes) (s : State) : (cmdPowerStateSetWatch h p s).lasting = s.lasting := by
  simp [cmdPowerStateSetWatch]

@[simp] theorem lasting_beginSleep (e : SleepEntry) (s : State) : (beginSleep e s).lasting = s.lasting := by
  simp [beginSleep]

theorem lasting_execSleepEntryStart (s : State) : ∀ t, (execSleepEntryStart s) = .next t → t.lasting = s.lasting := by
  intro t; unfold execSleepEntryStart; (try simp only []); (repeat' split) <;> intro h <;> (first | (simp only [Host.Outcome.next.injEq] at h; subst h; first | (simp; done) | (simp_all; done) | (iterate 10 (all_goals (try (first | with_reducible rfl | (refine lasting_serve _ _ _ _ _ (fun s' => ?_)) | (refine (lasting_refuseIf _ _ _ (fun s' => ?_) _).trans ?_) | (refine lasting_receive _ _ _ _ (fun s' => ?_)) | (refine lasting_whenReadable _ _ _ _ _ _ (fun s' => ?_)) | (refine (lasting_foldl _ (fun s' a => ?_) _ _).trans ?_) | split | (simp; done) | (simp_all; done) | simp))))) | (simp at h; done))

theorem lasting_execAutoSleepDwellExpiry (s : State) : ∀ t, (execAutoSleepDwellExpiry s) = .next t → t.lasting = s.lasting := by
  intro t; unfold execAutoSleepDwellExpiry; (try simp only []); (repeat' split) <;> intro h <;> (first | (simp only [Host.Outcome.next.injEq] at h; subst h; first | (simp; done) | (simp_all; done) | (iterate 10 (all_goals (try (first | with_reducible rfl | (refine lasting_serve _ _ _ _ _ (fun s' => ?_)) | (refine (lasting_refuseIf _ _ _ (fun s' => ?_) _).trans ?_) | (refine lasting_receive _ _ _ _ (fun s' => ?_)) | (refine lasting_whenReadable _ _ _ _ _ _ (fun s' => ?_)) | (refine (lasting_foldl _ (fun s' a => ?_) _ _).trans ?_) | split | (simp; done) | (simp_all; done) | simp))))) | (simp at h; done))

@[simp] theorem lasting_saveAtSleep (s : State) : (saveAtSleep s).1.lasting = s.lasting := by
  unfold saveAtSleep; (repeat' split) <;> (first | with_reducible rfl | (simp; done))

@[simp] theorem lasting_enterBivouac (s : State) : (enterBivouac s).lasting = s.lasting := by
  simp [enterBivouac]

@[simp] theorem lasting_goToSleep (e : SleepEntry) (us : Nat) (s : State) : (goToSleep e us s).lasting = s.lasting := by
  simp [goToSleep]

theorem lasting_execSleepEntryComplete (us : Nat) (s : State) : ∀ t, (execSleepEntryComplete us s) = .next t → t.lasting = s.lasting := by
  intro t; unfold execSleepEntryComplete; (try simp only []); (repeat' split) <;> intro h <;> (first | (simp only [Host.Outcome.next.injEq] at h; subst h; first | (simp; done) | (simp_all; done) | (iterate 10 (all_goals (try (first | with_reducible rfl | (refine lasting_serve _ _ _ _ _ (fun s' => ?_)) | (refine (lasting_refuseIf _ _ _ (fun s' => ?_) _).trans ?_) | (refine lasting_receive _ _ _ _ (fun s' => ?_)) | (refine lasting_whenReadable _ _ _ _ _ _ (fun s' => ?_)) | (refine (lasting_foldl _ (fun s' a => ?_) _ _).trans ?_) | split | (simp; done) | (simp_all; done) | simp))))) | (simp at h; done))

@[simp] theorem lasting_startWake (source : WakeSource) (channel : Byte) (s : State) : (startWake source channel s).lasting = s.lasting := by
  simp [startWake]

@[simp] theorem lasting_wakeSource (source : WakeSource) (channel : Byte) (s : State) : (wakeSource source channel s).lasting = s.lasting := by
  simp [wakeSource]

theorem lasting_execWakeNLow (s : State) : ∀ t, (execWakeNLow s) = .next t → t.lasting = s.lasting := by
  intro t; unfold execWakeNLow; (try simp only []); (repeat' split) <;> intro h <;> (first | (simp only [Host.Outcome.next.injEq] at h; subst h; first | (simp; done) | (simp_all; done) | (iterate 10 (all_goals (try (first | with_reducible rfl | (refine lasting_serve _ _ _ _ _ (fun s' => ?_)) | (refine (lasting_refuseIf _ _ _ (fun s' => ?_) _).trans ?_) | (refine lasting_receive _ _ _ _ (fun s' => ?_)) | (refine lasting_whenReadable _ _ _ _ _ _ (fun s' => ?_)) | (refine (lasting_foldl _ (fun s' a => ?_) _ _).trans ?_) | split | (simp; done) | (simp_all; done) | simp))))) | (simp at h; done))

theorem lasting_execTickAlarmFire (s : State) : ∀ t, (execTickAlarmFire s) = .next t → t.lasting = s.lasting := by
  intro t; unfold execTickAlarmFire; (try simp only []); (repeat' split) <;> intro h <;> (first | (simp only [Host.Outcome.next.injEq] at h; subst h; first | (simp; done) | (simp_all; done) | (iterate 10 (all_goals (try (first | with_reducible rfl | (refine lasting_serve _ _ _ _ _ (fun s' => ?_)) | (refine (lasting_refuseIf _ _ _ (fun s' => ?_) _).trans ?_) | (refine lasting_receive _ _ _ _ (fun s' => ?_)) | (refine lasting_whenReadable _ _ _ _ _ _ (fun s' => ?_)) | (refine (lasting_foldl _ (fun s' a => ?_) _ _).trans ?_) | split | (simp; done) | (simp_all; done) | simp))))) | (simp at h; done))

theorem lasting_execWatchThresholdFire (channel : BitVec 5) (samples : List Int) (s : State) : ∀ t, (execWatchThresholdFire channel samples s) = .next t → t.lasting = s.lasting := by
  intro t; unfold execWatchThresholdFire; (try simp only []); (repeat' split) <;> intro h <;> (first | (simp only [Host.Outcome.next.injEq] at h; subst h; first | (simp; done) | (simp_all; done) | (iterate 10 (all_goals (try (first | with_reducible rfl | (refine lasting_serve _ _ _ _ _ (fun s' => ?_)) | (refine (lasting_refuseIf _ _ _ (fun s' => ?_) _).trans ?_) | (refine lasting_receive _ _ _ _ (fun s' => ?_)) | (refine lasting_whenReadable _ _ _ _ _ _ (fun s' => ?_)) | (refine (lasting_foldl _ (fun s' a => ?_) _ _).trans ?_) | split | (simp; done) | (simp_all; done) | simp))))) | (simp at h; done))

theorem lasting_execRopeSquelchWake (s : State) : ∀ t, (execRopeSquelchWake s) = .next t → t.lasting = s.lasting := by
  intro t; unfold execRopeSquelchWake; (try simp only []); (repeat' split) <;> intro h <;> (first | (simp only [Host.Outcome.next.injEq] at h; subst h; first | (simp; done) | (simp_all; done) | (iterate 10 (all_goals (try (first | with_reducible rfl | (refine lasting_serve _ _ _ _ _ (fun s' => ?_)) | (refine (lasting_refuseIf _ _ _ (fun s' => ?_) _).trans ?_) | (refine lasting_receive _ _ _ _ (fun s' => ?_)) | (refine lasting_whenReadable _ _ _ _ _ _ (fun s' => ?_)) | (refine (lasting_foldl _ (fun s' a => ?_) _ _).trans ?_) | split | (simp; done) | (simp_all; done) | simp))))) | (simp at h; done))

@[simp] theorem lasting_endIdleSessions (s : State) : (endIdleSessions s).lasting = s.lasting := by
  simp [endIdleSessions]

theorem lasting_execWakeComplete (s : State) : ∀ t, (execWakeComplete s) = .next t → t.lasting = s.lasting := by
  intro t; unfold execWakeComplete; (try simp only []); (repeat' split) <;> intro h <;> (first | (simp only [Host.Outcome.next.injEq] at h; subst h; first | (simp; done) | (simp_all; done) | (iterate 10 (all_goals (try (first | with_reducible rfl | (refine lasting_serve _ _ _ _ _ (fun s' => ?_)) | (refine (lasting_refuseIf _ _ _ (fun s' => ?_) _).trans ?_) | (refine lasting_receive _ _ _ _ (fun s' => ?_)) | (refine lasting_whenReadable _ _ _ _ _ _ (fun s' => ?_)) | (refine (lasting_foldl _ (fun s' a => ?_) _ _).trans ?_) | split | (simp; done) | (simp_all; done) | simp))))) | (simp at h; done))

@[simp] theorem lasting_readCore (s : State) (n : Nat) (q : Int) : (readCore s n q).lasting = s.lasting := by
  simp [readCore]

@[simp] theorem lasting_enterTrip (s : State) : (enterTrip s).lasting = s.lasting := by
  simp [enterTrip]

@[simp] theorem lasting_changeThermal (prev : ThermalState) (s : State) : (changeThermal prev s).lasting = s.lasting := by
  simp [changeThermal]

@[simp] theorem lasting_shedCores (s : State) : (shedCores s).lasting = s.lasting := by
  simp only [shedCores]; iterate 10 (all_goals (try (first | with_reducible rfl | (refine lasting_serve _ _ _ _ _ (fun s' => ?_)) | (refine (lasting_refuseIf _ _ _ (fun s' => ?_) _).trans ?_) | (refine lasting_receive _ _ _ _ (fun s' => ?_)) | (refine lasting_whenReadable _ _ _ _ _ _ (fun s' => ?_)) | (refine (lasting_foldl _ (fun s' a => ?_) _ _).trans ?_) | split | (simp; done) | (simp_all; done) | simp)))

@[simp] theorem lasting_thermalShutdown (q : Int) (s : State) : (thermalShutdown q s).lasting = s.lasting := by
  simp [thermalShutdown]

theorem lasting_execGovernorSample (cores : Vector Int 8) (engine anchor : Int) (s : State) : ∀ t, (execGovernorSample cores engine anchor s) = .next t → t.lasting = s.lasting := by
  intro t; unfold execGovernorSample; (try simp only []); (repeat' split) <;> intro h <;> (first | (simp only [Host.Outcome.next.injEq] at h; subst h; first | (simp; done) | (simp_all; done) | (iterate 10 (all_goals (try (first | with_reducible rfl | (refine lasting_serve _ _ _ _ _ (fun s' => ?_)) | (refine (lasting_refuseIf _ _ _ (fun s' => ?_) _).trans ?_) | (refine lasting_receive _ _ _ _ (fun s' => ?_)) | (refine lasting_whenReadable _ _ _ _ _ _ (fun s' => ?_)) | (refine (lasting_foldl _ (fun s' a => ?_) _ _).trans ?_) | split | (simp; done) | (simp_all; done) | simp))))) | (simp at h; done))

theorem lasting_execAnchorTempSample (anchor : Int) (s : State) : ∀ t, (execAnchorTempSample anchor s) = .next t → t.lasting = s.lasting := by
  intro t; unfold execAnchorTempSample; (try simp only []); (repeat' split) <;> intro h <;> (first | (simp only [Host.Outcome.next.injEq] at h; subst h; first | (simp; done) | (simp_all; done) | (iterate 10 (all_goals (try (first | with_reducible rfl | (refine lasting_serve _ _ _ _ _ (fun s' => ?_)) | (refine (lasting_refuseIf _ _ _ (fun s' => ?_) _).trans ?_) | (refine lasting_receive _ _ _ _ (fun s' => ?_)) | (refine lasting_whenReadable _ _ _ _ _ _ (fun s' => ?_)) | (refine (lasting_foldl _ (fun s' a => ?_) _ _).trans ?_) | split | (simp; done) | (simp_all; done) | simp))))) | (simp at h; done))

theorem lasting_execPowerStateSetBivouac (h : Hdr) (p : Bytes) (s : State) : ∀ t, (execPowerStateSetBivouac h p s) = .next t → t.lasting = s.lasting := by
  exact fun _ e => Host.Outcome.next.inj e ▸ lasting_cmdPowerStateSetBivouac h p s

theorem lasting_execPowerStateSetWatch (h : Hdr) (p : Bytes) (s : State) : ∀ t, (execPowerStateSetWatch h p s) = .next t → t.lasting = s.lasting := by
  exact fun _ e => Host.Outcome.next.inj e ▸ lasting_cmdPowerStateSetWatch h p s

@[simp] theorem lasting_transportCode (s : State) : (transportCode s).2.lasting = s.lasting := by
  unfold transportCode; (repeat' split) <;> (first | with_reducible rfl | (simp; done))

@[simp] theorem lasting_cmdDevInfo (h : Hdr) (p : Bytes) (s : State) : (cmdDevInfo h p s).lasting = s.lasting := by
  simp [cmdDevInfo]

@[simp] theorem lasting_cmdDevStatus (h : Hdr) (p : Bytes) (s : State) : (cmdDevStatus h p s).lasting = s.lasting := by
  simp [cmdDevStatus]

theorem lasting_execDevInfo (h : Hdr) (p : Bytes) (s : State) : ∀ t, (execDevInfo h p s) = .next t → t.lasting = s.lasting := by
  exact fun _ e => Host.Outcome.next.inj e ▸ lasting_cmdDevInfo h p s

theorem lasting_execDevStatus (h : Hdr) (p : Bytes) (s : State) : ∀ t, (execDevStatus h p s) = .next t → t.lasting = s.lasting := by
  exact fun _ e => Host.Outcome.next.inj e ▸ lasting_cmdDevStatus h p s

@[simp] theorem lasting_onTap (f : TapState → TapState) (s : State) : (onTap f s).lasting = s.lasting := by
  simp [onTap]

@[simp] theorem lasting_scan (instr : BitVec 5) (captured tdi : List Bool) (s : State) : (scan instr captured tdi s).lasting = s.lasting := by
  simp [scan]

@[simp] theorem lasting_boundary (instr : BitVec 5) (pins tdi : List Bool) (s : State) : (boundary instr pins tdi s).lasting = s.lasting := by
  simp [boundary]

theorem lasting_execTapReset (s : State) : ∀ t, (execTapReset s) = .next t → t.lasting = s.lasting := by
  intro t; unfold execTapReset; (try simp only []); (repeat' split) <;> intro h <;> (first | (simp only [Host.Outcome.next.injEq] at h; subst h; first | (simp; done) | (simp_all; done) | (iterate 10 (all_goals (try (first | with_reducible rfl | (refine lasting_serve _ _ _ _ _ (fun s' => ?_)) | (refine (lasting_refuseIf _ _ _ (fun s' => ?_) _).trans ?_) | (refine lasting_receive _ _ _ _ (fun s' => ?_)) | (refine lasting_whenReadable _ _ _ _ _ _ (fun s' => ?_)) | (refine (lasting_foldl _ (fun s' a => ?_) _ _).trans ?_) | split | (simp; done) | (simp_all; done) | simp))))) | (simp at h; done))

theorem lasting_execBypass (opcode : BitVec 5) (tdi : List Bool) (s : State) : ∀ t, (execBypass opcode tdi s) = .next t → t.lasting = s.lasting := by
  intro t; unfold execBypass; (try simp only []); (repeat' split) <;> intro h <;> (first | (simp only [Host.Outcome.next.injEq] at h; subst h; first | (simp; done) | (simp_all; done) | (iterate 10 (all_goals (try (first | with_reducible rfl | (refine lasting_serve _ _ _ _ _ (fun s' => ?_)) | (refine (lasting_refuseIf _ _ _ (fun s' => ?_) _).trans ?_) | (refine lasting_receive _ _ _ _ (fun s' => ?_)) | (refine lasting_whenReadable _ _ _ _ _ _ (fun s' => ?_)) | (refine (lasting_foldl _ (fun s' a => ?_) _ _).trans ?_) | split | (simp; done) | (simp_all; done) | simp))))) | (simp at h; done))

theorem lasting_execIdcode (tdi : List Bool) (s : State) : ∀ t, (execIdcode tdi s) = .next t → t.lasting = s.lasting := by
  intro t; unfold execIdcode; (try simp only []); (repeat' split) <;> intro h <;> (first | (simp only [Host.Outcome.next.injEq] at h; subst h; first | (simp; done) | (simp_all; done) | (iterate 10 (all_goals (try (first | with_reducible rfl | (refine lasting_serve _ _ _ _ _ (fun s' => ?_)) | (refine (lasting_refuseIf _ _ _ (fun s' => ?_) _).trans ?_) | (refine lasting_receive _ _ _ _ (fun s' => ?_)) | (refine lasting_whenReadable _ _ _ _ _ _ (fun s' => ?_)) | (refine (lasting_foldl _ (fun s' a => ?_) _ _).trans ?_) | split | (simp; done) | (simp_all; done) | simp))))) | (simp at h; done))

theorem lasting_execSamplePreload (pins tdi : List Bool) (s : State) : ∀ t, (execSamplePreload pins tdi s) = .next t → t.lasting = s.lasting := by
  intro t; unfold execSamplePreload; (try simp only []); (repeat' split) <;> intro h <;> (first | (simp only [Host.Outcome.next.injEq] at h; subst h; first | (simp; done) | (simp_all; done) | (iterate 10 (all_goals (try (first | with_reducible rfl | (refine lasting_serve _ _ _ _ _ (fun s' => ?_)) | (refine (lasting_refuseIf _ _ _ (fun s' => ?_) _).trans ?_) | (refine lasting_receive _ _ _ _ (fun s' => ?_)) | (refine lasting_whenReadable _ _ _ _ _ _ (fun s' => ?_)) | (refine (lasting_foldl _ (fun s' a => ?_) _ _).trans ?_) | split | (simp; done) | (simp_all; done) | simp))))) | (simp at h; done))

theorem lasting_execExtest (pins tdi : List Bool) (s : State) : ∀ t, (execExtest pins tdi s) = .next t → t.lasting = s.lasting := by
  intro t; unfold execExtest; (try simp only []); (repeat' split) <;> intro h <;> (first | (simp only [Host.Outcome.next.injEq] at h; subst h; first | (simp; done) | (simp_all; done) | (iterate 10 (all_goals (try (first | with_reducible rfl | (refine lasting_serve _ _ _ _ _ (fun s' => ?_)) | (refine (lasting_refuseIf _ _ _ (fun s' => ?_) _).trans ?_) | (refine lasting_receive _ _ _ _ (fun s' => ?_)) | (refine lasting_whenReadable _ _ _ _ _ _ (fun s' => ?_)) | (refine (lasting_foldl _ (fun s' a => ?_) _ _).trans ?_) | split | (simp; done) | (simp_all; done) | simp))))) | (simp at h; done))

theorem lasting_execHighz (pins tdi : List Bool) (s : State) : ∀ t, (execHighz pins tdi s) = .next t → t.lasting = s.lasting := by
  intro t; unfold execHighz; (try simp only []); (repeat' split) <;> intro h <;> (first | (simp only [Host.Outcome.next.injEq] at h; subst h; first | (simp; done) | (simp_all; done) | (iterate 10 (all_goals (try (first | with_reducible rfl | (refine lasting_serve _ _ _ _ _ (fun s' => ?_)) | (refine (lasting_refuseIf _ _ _ (fun s' => ?_) _).trans ?_) | (refine lasting_receive _ _ _ _ (fun s' => ?_)) | (refine lasting_whenReadable _ _ _ _ _ _ (fun s' => ?_)) | (refine (lasting_foldl _ (fun s' a => ?_) _ _).trans ?_) | split | (simp; done) | (simp_all; done) | simp))))) | (simp at h; done))

theorem lasting_execClamp (pins tdi : List Bool) (s : State) : ∀ t, (execClamp pins tdi s) = .next t → t.lasting = s.lasting := by
  intro t; unfold execClamp; (try simp only []); (repeat' split) <;> intro h <;> (first | (simp only [Host.Outcome.next.injEq] at h; subst h; first | (simp; done) | (simp_all; done) | (iterate 10 (all_goals (try (first | with_reducible rfl | (refine lasting_serve _ _ _ _ _ (fun s' => ?_)) | (refine (lasting_refuseIf _ _ _ (fun s' => ?_) _).trans ?_) | (refine lasting_receive _ _ _ _ (fun s' => ?_)) | (refine lasting_whenReadable _ _ _ _ _ _ (fun s' => ?_)) | (refine (lasting_foldl _ (fun s' a => ?_) _ _).trans ?_) | split | (simp; done) | (simp_all; done) | simp))))) | (simp at h; done))

@[simp] theorem lasting_freeBits (n : Nat) (s : State) : ((freeBits n s).2).lasting = s.lasting := by
  induction n generalizing s with
  | zero => rfl
  | succ n ih => simp [freeBits, ih]

theorem lasting_execDbgChal (tdi : List Bool) (s : State) : ∀ t, (execDbgChal tdi s) = .next t → t.lasting = s.lasting := by
  intro t; unfold execDbgChal; (try simp only []); (repeat' split) <;> intro h <;> (first | (simp only [Host.Outcome.next.injEq] at h; subst h; first | (simp; done) | (simp_all; done) | (iterate 10 (all_goals (try (first | with_reducible rfl | (refine lasting_serve _ _ _ _ _ (fun s' => ?_)) | (refine (lasting_refuseIf _ _ _ (fun s' => ?_) _).trans ?_) | (refine lasting_receive _ _ _ _ (fun s' => ?_)) | (refine lasting_whenReadable _ _ _ _ _ _ (fun s' => ?_)) | (refine (lasting_foldl _ (fun s' a => ?_) _ _).trans ?_) | split | (simp; done) | (simp_all; done) | simp))))) | (simp at h; done))

theorem lasting_execDbgOpen (tdi : List Bool) (s : State) : ∀ t, (execDbgOpen tdi s) = .next t → t.lasting = s.lasting := by
  intro t; unfold execDbgOpen; (try simp only []); (repeat' split) <;> intro h <;> (first | (simp only [Host.Outcome.next.injEq] at h; subst h; first | (simp; done) | (simp_all; done) | (iterate 10 (all_goals (try (first | with_reducible rfl | (refine lasting_serve _ _ _ _ _ (fun s' => ?_)) | (refine (lasting_refuseIf _ _ _ (fun s' => ?_) _).trans ?_) | (refine lasting_receive _ _ _ _ (fun s' => ?_)) | (refine lasting_whenReadable _ _ _ _ _ _ (fun s' => ?_)) | (refine (lasting_foldl _ (fun s' a => ?_) _ _).trans ?_) | split | (simp; done) | (simp_all; done) | simp))))) | (simp at h; done))

theorem lasting_execDbgAccess (tdi : List Bool) (s : State) : ∀ t, (execDbgAccess tdi s) = .next t → t.lasting = s.lasting := by
  intro t; unfold execDbgAccess; (try simp only []); (repeat' split) <;> intro h <;> (first | (simp only [Host.Outcome.next.injEq] at h; subst h; first | (simp; done) | (simp_all; done) | (iterate 10 (all_goals (try (first | with_reducible rfl | (refine lasting_serve _ _ _ _ _ (fun s' => ?_)) | (refine (lasting_refuseIf _ _ _ (fun s' => ?_) _).trans ?_) | (refine lasting_receive _ _ _ _ (fun s' => ?_)) | (refine lasting_whenReadable _ _ _ _ _ _ (fun s' => ?_)) | (refine (lasting_foldl _ (fun s' a => ?_) _ _).trans ?_) | split | (simp; done) | (simp_all; done) | simp))))) | (simp at h; done))

@[simp] theorem lasting_advanceTx (owner : BitVec 2) (s : State) : (advanceTx owner s).lasting = s.lasting := by
  simp [advanceTx]

@[simp] theorem lasting_sealedPacket (owner : BitVec 2) (more : Bool) (opcode tagByte status : Byte) (payload : Bytes) (s : State) : (sealedPacket owner more opcode tagByte status payload s).2.lasting = s.lasting := by
  simp [sealedPacket]

@[simp] theorem lasting_replyPacket (r : Reply) (s : State) : (replyPacket r s).2.2.lasting = s.lasting := by
  unfold replyPacket; (repeat' split) <;> (first | with_reducible rfl | (simp; done))

@[simp] theorem lasting_freeTag (tag : Tag) (s : State) : (freeTag tag s).lasting = s.lasting := by
  unfold freeTag; (repeat' split) <;> (first | with_reducible rfl | (simp; done))

@[simp] theorem lasting_closeSession (r : Reply) (s : State) : (closeSession r s).lasting = s.lasting := by
  simp [closeSession]

@[simp] theorem lasting_replyGone (r : Reply) (s : State) : (replyGone r s).lasting = s.lasting := by
  simp only [replyGone]; iterate 10 (all_goals (try (first | with_reducible rfl | (refine lasting_serve _ _ _ _ _ (fun s' => ?_)) | (refine (lasting_refuseIf _ _ _ (fun s' => ?_) _).trans ?_) | (refine lasting_receive _ _ _ _ (fun s' => ?_)) | (refine lasting_whenReadable _ _ _ _ _ _ (fun s' => ?_)) | (refine (lasting_foldl _ (fun s' a => ?_) _ _).trans ?_) | split | (simp; done) | (simp_all; done) | simp)))

@[simp] theorem lasting_replyLeft (r : Reply) (rest : Option Reply) (s : State) : (replyLeft r rest s).lasting = s.lasting := by
  unfold replyLeft; (repeat' split) <;> (first | with_reducible rfl | (simp; done))

@[simp] theorem lasting_countEvent (s : State) : (countEvent s).lasting = s.lasting := by
  simp [countEvent]

@[simp] theorem lasting_eventDelivered (e : Event) (s : State) : (eventDelivered e s).lasting = s.lasting := by
  simp [eventDelivered]

@[simp] theorem lasting_lossReported (s : State) : (lossReported s).lasting = s.lasting := by
  simp [lossReported]

@[simp] theorem lasting_eventPacket (e : Event) (s : State) : (eventPacket e s).2.lasting = s.lasting := by
  unfold eventPacket; (repeat' split) <;> (first | with_reducible rfl | (simp; done))

@[simp] theorem lasting_leave (o : Outbound) (s : State) : (leave o s).2.lasting = s.lasting := by
  unfold leave; (repeat' split) <;> (first | with_reducible rfl | (simp; done))

@[simp] theorem lasting_pullPacket (via : Transport) (clocked : Nat) (s : State) : (pullPacket via clocked s).lasting = s.lasting := by
  simp only [pullPacket]; iterate 10 (all_goals (try (first | with_reducible rfl | (refine lasting_serve _ _ _ _ _ (fun s' => ?_)) | (refine (lasting_refuseIf _ _ _ (fun s' => ?_) _).trans ?_) | (refine lasting_receive _ _ _ _ (fun s' => ?_)) | (refine lasting_whenReadable _ _ _ _ _ _ (fun s' => ?_)) | (refine (lasting_foldl _ (fun s' a => ?_) _ _).trans ?_) | split | (simp; done) | (simp_all; done) | simp)))

@[simp] theorem lasting_cmdAbort (h : Hdr) (p : Bytes) (s : State) : (cmdAbort h p s).lasting = s.lasting := by
  simp only [cmdAbort]; iterate 10 (all_goals (try (first | with_reducible rfl | (refine lasting_serve _ _ _ _ _ (fun s' => ?_)) | (refine (lasting_refuseIf _ _ _ (fun s' => ?_) _).trans ?_) | (refine lasting_receive _ _ _ _ (fun s' => ?_)) | (refine lasting_whenReadable _ _ _ _ _ _ (fun s' => ?_)) | (refine (lasting_foldl _ (fun s' a => ?_) _ _).trans ?_) | split | (simp; done) | (simp_all; done) | simp)))

@[simp] theorem lasting_cmdRopeRelay (h : Hdr) (p : Bytes) (s : State) : (cmdRopeRelay h p s).lasting = s.lasting := by
  simp [cmdRopeRelay]

@[simp] theorem lasting_noSuch (f : Form) (h : Hdr) (p : Bytes) (s : State) : (noSuch f h p s).lasting = s.lasting := by
  simp [noSuch]

@[simp] theorem lasting_byFlag (i : Nat) (p : Bytes) (a b : Hdr → Bytes → State → State)
    (ha : ∀ h p s, (a h p s).lasting = s.lasting) (hb : ∀ h p s, (b h p s).lasting = s.lasting)
    (h : Hdr) (q : Bytes) (s : State) : (byFlag i p a b h q s).lasting = s.lasting := by
  unfold byFlag; split <;> simp [ha, hb]

@[simp] theorem lasting_device (opcode : Nat) (h : Hdr) (p : Bytes) (s : State) : (device opcode h p s).lasting = s.lasting := by
  unfold device; split <;> first | (simp; done) | (split <;> simp)

@[simp] theorem lasting_sensing (opcode : Nat) (h : Hdr) (p : Bytes) (s : State) : (sensing opcode h p s).lasting = s.lasting := by
  unfold sensing; (repeat' split) <;> (first | with_reducible rfl | (simp; done))

@[simp] theorem lasting_models (opcode : Nat) (h : Hdr) (p : Bytes) (s : State) : (models opcode h p s).lasting = s.lasting := by
  unfold models; (repeat' split) <;> (first | with_reducible rfl | (simp; done))

@[simp] theorem lasting_outputs (opcode : Nat) (h : Hdr) (p : Bytes) (s : State) : (outputs opcode h p s).lasting = s.lasting := by
  unfold outputs; (repeat' split) <;> (first | with_reducible rfl | (simp; done))

@[simp] theorem lasting_security (opcode : Nat) (h : Hdr) (p : Bytes) (s : State) : (security opcode h p s).lasting = s.lasting := by
  unfold security; (repeat' split) <;> (first | with_reducible rfl | (simp; done))

@[simp] theorem lasting_command (opcode : Byte) (h : Hdr) (p : Bytes) (s : State) : (command opcode h p s).lasting = s.lasting := by
  simp only [command]; iterate 10 (all_goals (try (first | with_reducible rfl | (refine lasting_serve _ _ _ _ _ (fun s' => ?_)) | (refine (lasting_refuseIf _ _ _ (fun s' => ?_) _).trans ?_) | (refine lasting_receive _ _ _ _ (fun s' => ?_)) | (refine lasting_whenReadable _ _ _ _ _ _ (fun s' => ?_)) | (refine (lasting_foldl _ (fun s' a => ?_) _ _).trans ?_) | split | (simp; done) | (simp_all; done) | simp)))

@[simp] theorem lasting_runWhole (opcode : Byte) (h : Hdr) (p : Bytes) (s : State) : (runWhole opcode h p s).lasting = s.lasting := by
  simp [runWhole]

@[simp] theorem lasting_continueMessage (c : Slot) (opcode : Byte) (more : Bool) (h : Hdr) (p : Bytes) (s : State) : (continueMessage c opcode more h p s).lasting = s.lasting := by
  unfold continueMessage; (repeat' split) <;> (first | with_reducible rfl | (simp; done))

@[simp] theorem lasting_beginMessage (opcode : Byte) (more : Bool) (h : Hdr) (p : Bytes) (s : State) : (beginMessage opcode more h p s).lasting = s.lasting := by
  unfold beginMessage; (repeat' split) <;> (first | with_reducible rfl | (simp; done))

@[simp] theorem lasting_admitPacket (reject : Notice → State → State) (via : Transport) (space : Nat) (b : Bytes) (s : State) (h_reject : ∀ a0 a1, (reject a0 a1).lasting = a1.lasting) : (admitPacket reject via space b s).lasting = s.lasting := by
  simp only [admitPacket]; iterate 10 (all_goals (try (first | with_reducible rfl | (refine lasting_serve _ _ _ _ _ (fun s' => ?_)) | (refine (lasting_refuseIf _ _ _ (fun s' => ?_) _).trans ?_) | (refine lasting_receive _ _ _ _ (fun s' => ?_)) | (refine lasting_whenReadable _ _ _ _ _ _ (fun s' => ?_)) | (refine (lasting_foldl _ (fun s' a => ?_) _ _).trans ?_) | split | (simp [h_reject]; done) | (simp_all; done) | simp)))

@[simp] theorem lasting_pushPacket (via : Transport) (held : Nat) (b : Bytes) (s : State) : (pushPacket via held b s).lasting = s.lasting := by
  simp [pushPacket]

@[simp] theorem lasting_replyPackets (n : Nat) (r : Reply) (s : State) : ((replyPackets n r s).2).lasting = s.lasting := by
  induction n generalizing r s with
  | zero => rfl
  | succ n ih =>
    simp only [replyPackets]
    split <;> simp [ih]

@[simp] theorem lasting_sendBack (src : Byte) (id : BitVec 16) (b : Bytes) (s : State) : (sendBack src id b s).lasting = s.lasting := by
  simp [sendBack]

@[simp] theorem lasting_sendRelayed (r : Reply) (s : State) : (sendRelayed r s).lasting = s.lasting := by
  simp [sendRelayed]

@[simp] theorem lasting_flushRelayed (s : State) : (flushRelayed s).lasting = s.lasting := by
  simp only [flushRelayed]; iterate 10 (all_goals (try (first | with_reducible rfl | (refine lasting_serve _ _ _ _ _ (fun s' => ?_)) | (refine (lasting_refuseIf _ _ _ (fun s' => ?_) _).trans ?_) | (refine lasting_receive _ _ _ _ (fun s' => ?_)) | (refine lasting_whenReadable _ _ _ _ _ _ (fun s' => ?_)) | (refine (lasting_foldl _ (fun s' a => ?_) _ _).trans ?_) | split | (simp; done) | (simp_all; done) | simp)))

@[simp] theorem lasting_takeRelayed (src : Byte) (id : BitVec 16) (b : Bytes) (s : State) : (takeRelayed src id b s).lasting = s.lasting := by
  simp [takeRelayed]

@[simp] theorem lasting_relayArrived (src : Byte) (id : BitVec 16) (more : Bool) (b : Bytes) (s : State) : (relayArrived src id more b s).lasting = s.lasting := by
  simp [relayArrived]

@[simp] theorem lasting_relayReplied (src : Byte) (id : BitVec 16) (more : Bool) (b : Bytes) (s : State) : (relayReplied src id more b s).lasting = s.lasting := by
  simp only [relayReplied]; iterate 10 (all_goals (try (first | with_reducible rfl | (refine lasting_serve _ _ _ _ _ (fun s' => ?_)) | (refine (lasting_refuseIf _ _ _ (fun s' => ?_) _).trans ?_) | (refine lasting_receive _ _ _ _ (fun s' => ?_)) | (refine lasting_whenReadable _ _ _ _ _ _ (fun s' => ?_)) | (refine (lasting_foldl _ (fun s' a => ?_) _ _).trans ?_) | split | (simp; done) | (simp_all; done) | simp)))

@[simp] theorem lasting_serveHeld (s : State) : (serveHeld s).lasting = s.lasting := by
  simp [serveHeld]

@[simp] theorem lasting_serveReads (s : State) : (serveReads s).lasting = s.lasting := by
  simp [serveReads]

theorem lasting_execPush (via : Transport) (held : Nat) (b : Bytes) (s : State) : ∀ t, (execPush via held b s) = .next t → t.lasting = s.lasting := by
  exact fun _ e => Host.Outcome.next.inj e ▸ lasting_pushPacket via held b s

theorem lasting_execQpush (held : Nat) (b : Bytes) (s : State) : ∀ t, (execQpush held b s) = .next t → t.lasting = s.lasting := by
  intro t; unfold execQpush; (try simp only []); (repeat' split) <;> intro h <;> (first | (simp only [Host.Outcome.next.injEq] at h; subst h; first | (simp; done) | (simp_all; done) | (iterate 10 (all_goals (try (first | with_reducible rfl | (refine lasting_serve _ _ _ _ _ (fun s' => ?_)) | (refine (lasting_refuseIf _ _ _ (fun s' => ?_) _).trans ?_) | (refine lasting_receive _ _ _ _ (fun s' => ?_)) | (refine lasting_whenReadable _ _ _ _ _ _ (fun s' => ?_)) | (refine (lasting_foldl _ (fun s' a => ?_) _ _).trans ?_) | split | (simp; done) | (simp_all; done) | simp))))) | (simp at h; done))

theorem lasting_execPull (via : Transport) (clocked : Nat) (s : State) : ∀ t, (execPull via clocked s) = .next t → t.lasting = s.lasting := by
  exact fun _ e => Host.Outcome.next.inj e ▸ lasting_pullPacket via clocked s

theorem lasting_execQpull (clocked : Nat) (s : State) : ∀ t, (execQpull clocked s) = .next t → t.lasting = s.lasting := by
  intro t; unfold execQpull; (try simp only []); (repeat' split) <;> intro h <;> (first | (simp only [Host.Outcome.next.injEq] at h; subst h; first | (simp; done) | (simp_all; done) | (iterate 10 (all_goals (try (first | with_reducible rfl | (refine lasting_serve _ _ _ _ _ (fun s' => ?_)) | (refine (lasting_refuseIf _ _ _ (fun s' => ?_) _).trans ?_) | (refine lasting_receive _ _ _ _ (fun s' => ?_)) | (refine lasting_whenReadable _ _ _ _ _ _ (fun s' => ?_)) | (refine (lasting_foldl _ (fun s' a => ?_) _ _).trans ?_) | split | (simp; done) | (simp_all; done) | simp))))) | (simp at h; done))

theorem lasting_execAbort (h : Hdr) (p : Bytes) (s : State) : ∀ t, (execAbort h p s) = .next t → t.lasting = s.lasting := by
  exact fun _ e => Host.Outcome.next.inj e ▸ lasting_cmdAbort h p s

theorem lasting_execRopeRelay (h : Hdr) (p : Bytes) (s : State) : ∀ t, (execRopeRelay h p s) = .next t → t.lasting = s.lasting := by
  exact fun _ e => Host.Outcome.next.inj e ▸ lasting_cmdRopeRelay h p s

theorem lasting_execCmd (r : RopeRx) (relay : BitVec 16) (reply more : Bool) (payload : Bytes) (s : State) : ∀ t, (execCmd r relay reply more payload s) = .next t → t.lasting = s.lasting := by
  intro t; unfold execCmd; (try simp only []); (repeat' split) <;> intro h <;> (first | (simp only [Host.Outcome.next.injEq] at h; subst h; first | (simp; done) | (simp_all; done) | (iterate 10 (all_goals (try (first | with_reducible rfl | (refine lasting_serve _ _ _ _ _ (fun s' => ?_)) | (refine (lasting_refuseIf _ _ _ (fun s' => ?_) _).trans ?_) | (refine lasting_receive _ _ _ _ (fun s' => ?_)) | (refine lasting_whenReadable _ _ _ _ _ _ (fun s' => ?_)) | (refine (lasting_foldl _ (fun s' a => ?_) _ _).trans ?_) | split | (simp; done) | (simp_all; done) | simp))))) | (simp at h; done))

@[simp] theorem lasting_checksComplete (s : State) : (checksComplete s).lasting = s.lasting := by
  simp [checksComplete]

@[simp] theorem lasting_serveHeads (s : State) : (serveHeads s).lasting = s.lasting := by
  simp [serveHeads]


end Sys2Proof.Machine
end

