-- ==== Sys2Proof/Laws/Ops.lean ====
section
/-! SUPPORT. Everything that the shared operations can do: which parts of the state they may change, and what serving a command
comes to. -/

namespace Sys2Proof.Machine

/-- Only the host port's part is another. -/
def LinkOnly (s t : State) : Prop := ∃ l, t = { s with link := l }

/-- Only the host port's part and the high levels of the queues are others. -/
def PortOnly (s t : State) : Prop := ∃ l v, t = { s with link := l, mdl := { s.mdl with high := v } }

theorem LinkOnly.port {s t : State} (h : LinkOnly s t) : PortOnly s t := by
  obtain ⟨l, rfl⟩ := h
  exact ⟨l, s.mdl.high, rfl⟩

theorem LinkOnly.trans {s t u : State} (h : LinkOnly s t) (k : LinkOnly t u) : LinkOnly s u := by
  obtain ⟨l, rfl⟩ := h
  obtain ⟨m, rfl⟩ := k
  exact ⟨m, rfl⟩

theorem PortOnly.trans {s t u : State} (h : PortOnly s t) (k : PortOnly t u) : PortOnly s u := by
  obtain ⟨l, v, rfl⟩ := h
  obtain ⟨m, w, rfl⟩ := k
  exact ⟨m, w, rfl⟩

/-- Such a change keeps every part. -/
theorem PortOnly.keeps {s t : State} (h : PortOnly s t) (parts : List Part) : Keeps parts s t := by
  obtain ⟨l, v, rfl⟩ := h
  exact ⟨rfl, fun x _ => by cases x <;> rfl⟩

/-- What keeps every part but some keeps every part but more. -/
theorem Keeps.mono {p q : List Part} {s t : State} (h : Keeps p s t) (hpq : ∀ x ∈ p, x ∈ q) : Keeps q s t :=
  ⟨h.1, fun x hx => h.2 x fun k => hx (hpq x k)⟩

theorem Keeps.trans {p : List Part} {s t u : State} (h : Keeps p s t) (k : Keeps p t u) : Keeps p s u := by
  refine ⟨k.1.trans h.1, fun x hx => ?_⟩
  have a := h.2 x hx
  have b := k.2 x hx
  cases x <;> simp only [Part.same] at a b ⊢ <;> first | exact b.trans a | rw [b, a]

theorem Keeps.refl (p : List Part) (s : State) : Keeps p s s := ⟨rfl, fun x _ => by cases x <;> rfl⟩

/-! ### The host port's operations -/

theorem linkOnly_mapLink (s : State) (f : LinkState → LinkState) : LinkOnly s (s.mapLink f) := ⟨_, rfl⟩

theorem linkOnly_onSlot (tag : Tag) (f : Slot → Slot) (s : State) : LinkOnly s (onSlot tag f s) := ⟨_, rfl⟩

theorem linkOnly_commitMark (tag : Tag) (s : State) : LinkOnly s (commitMark tag s) := ⟨_, rfl⟩

theorem linkOnly_finish (tag : Tag) (status : Byte) (payload : Bytes) (s : State) : LinkOnly s (finish tag status payload s) := by
  unfold finish
  (repeat' split) <;> first
    | exact ⟨s.link, rfl⟩
    | exact ⟨_, rfl⟩

theorem linkOnly_started (tag : Tag) (s : State) : LinkOnly s (started tag s) := by
  unfold started
  split
  · exact ⟨s.link, rfl⟩
  · split
    · exact ⟨_, rfl⟩
    · exact ⟨s.link, rfl⟩

theorem linkOnly_doneWith (h : Hdr) (payload : Bytes) (s : State) : LinkOnly s (doneWith h payload s) :=
  (linkOnly_commitMark h.tag s).trans (linkOnly_finish h.tag 0x00 payload _)

theorem linkOnly_notice (n : Notice) (s : State) : LinkOnly s (notice n s) := ⟨_, rfl⟩

theorem linkOnly_refusePlain (tag : Tag) (status : Byte) (s : State) : LinkOnly s (refusePlain tag status s) :=
  (linkOnly_onSlot tag _ s).trans (linkOnly_finish tag status [] _)

theorem portOnly_noteHigh (q n : Nat) (s : State) : PortOnly s (noteHigh q n s) := ⟨s.link, _, rfl⟩

theorem portOnly_raiseAt (time : Word64) (code : Byte) (high : Bool) (owner : Option (BitVec 2)) (body : Bytes) (s : State) :
    PortOnly s (raiseAt time code high owner body s) := ⟨_, _, rfl⟩

theorem portOnly_raise (code : Byte) (high : Bool) (body : Bytes) (s : State) : PortOnly s (raise code high body s) :=
  portOnly_raiseAt _ code high none body s

theorem portOnly_raiseOwned (owner : BitVec 2) (code : Byte) (high : Bool) (body : Bytes) (s : State) :
    PortOnly s (raiseOwned owner code high body s) := portOnly_raiseAt _ code high (some owner) body s

theorem portOnly_endSession (slot : Nat) (reason : Byte) (s : State) : PortOnly s (endSession slot reason s) := by
  unfold endSession
  dsimp only
  split
  · exact ⟨s.link, s.mdl.high, rfl⟩
  · exact (linkOnly_mapLink s _).port.trans (portOnly_raise 0x03 true _ _)

theorem portOnly_entered (op : Byte) (h : Hdr) (s : State) : PortOnly s (entered op h s) := ⟨_, _, rfl⟩

/-! ### The Anchor's, the Cairn's and the NVM's operations -/

/-- A request for a domain changes only the sequencer's requests. -/
theorem wantDomain_pwr (n : Nat) (v : Bool) (s : State) : ∃ r, wantDomain n v s = { s with pwr := { s.pwr with requests := r } } :=
  ⟨_, rfl⟩

/-- Entering a Cairn entry changes only the Cairn's part. -/
theorem cairnPut_part (e : CairnEntry) (s : State) : ∃ c, cairnPut e s = { s with cairn := c } := by
  unfold cairnPut
  dsimp only
  (repeat' split) <;> exact ⟨_, rfl⟩

/-- Writing a Cairn entry changes only the Cairn's part, and may ask for the NVM's domain. -/
theorem cairn_parts (type source : BitVec 16) (payload : Bytes) (s : State) : Keeps [.cairn, .pwr] s (cairn type source payload s) := by
  unfold cairn
  obtain ⟨c, hc⟩ := cairnPut_part { type, source, time := now s, bootCount := bootOf s, payload } s
  rw [hc]
  obtain ⟨r, hr⟩ := wantDomain_pwr 3 (!s.pwr.retention || s.isOn 3) { s with cairn := c }
  rw [hr]
  exact ⟨rfl, fun x hx => by cases x <;> simp [Part.same] at hx ⊢⟩

/-- Posting operations changes only the NVM's buffer and the sequencer's requests. -/
theorem postNvm_parts (ops : List NvmOp) (s : State) : Keeps [.nvm, .pwr] s (postNvm ops s) := by
  unfold postNvm
  split
  · exact Keeps.refl _ s
  · exact ⟨rfl, fun x hx => by cases x <;> first | rfl | exact absurd hx (by simp)⟩

/-! ### Serving a command -/

/-- A list of refusals comes to its effect, or to the first refusal that holds. -/
theorem refuseIf_cases (tag : Tag) (l : List (Bool × Byte)) (k : State → State) (s : State) :
    (refuseIf tag l k s = k s ∧ ∀ c ∈ l, c.1 = false) ∨ ∃ st, (true, st) ∈ l ∧ refuseIf tag l k s = finish tag st [] s := by
  induction l with
  | nil => exact .inl ⟨rfl, fun _ hc => absurd hc List.not_mem_nil⟩
  | cons c l ih =>
    obtain ⟨b, st⟩ := c
    cases b
    · rcases ih with ⟨h, hf⟩ | ⟨st', hm, h⟩
      · exact .inl ⟨h, fun c hc => by rcases List.mem_cons.1 hc with rfl | hc; exacts [rfl, hf c hc]⟩
      · exact .inr ⟨st', List.mem_cons_of_mem _ hm, h⟩
    · exact .inr ⟨st, List.mem_cons_self .., rfl⟩

/-- A command that has been taken up comes to check 10. -/
theorem serve_judged (f : Form) (h : Hdr) (p : Bytes) (body : State → State) (s : State) (ht : Taken h s) :
    serve f h p body s = judge f h p body (entered f.opcode h s) := by
  have ha := authenticate_taken f.opcode h s ht
  obtain ⟨hh, hc, hf, he, hp, hs⟩ := ht
  have hb : (if decide (64 ≤ h.tag.toNat) = true then s else bindPort h.via s) =
      s.mapLink fun l => { l with bound := if hostTag h.tag then some h.via else l.bound } := by
    have hn := hostTag_eq h.tag
    by_cases hd : hostTag h.tag = true
    · have := (hh hd).2
      simp_all [bindPort, State.mapLink]
    · have h64 : decide (64 ≤ h.tag.toNat) = true := by cases h : decide (64 ≤ h.tag.toNat) <;> simp_all
      have hd' : hostTag h.tag = false := by simpa using hd
      simp only [h64, hd', if_true]
      rfl
  have hx : (!decide (64 ≤ h.tag.toNat) && !hears h.via s) = false := by
    rw [← hostTag_eq]
    cases hd : hostTag h.tag
    · rfl
    · simp [(hh hd).1]
  have hf' : State.slot? (s.mapLink fun l => { l with bound := if hostTag h.tag then some h.via else l.bound }) h.tag = none := hf
  have he' : (entered f.opcode h s).own.erase.any (fun e => e.step != 1) = false := he
  unfold serve
  simp only [hf, Option.any_none, Bool.false_eq_true, if_false, hx, hc, hb, hf', Option.isSome_none, ha, if_true]
  simp only [pass, he']
  simp

/-- Check 10 ends in the opcode's own effect, or in one of three terminal replies and nothing else. -/
theorem judge_cases (f : Form) (h : Hdr) (p : Bytes) (body : State → State) (s : State) :
    judge f h p body s = body s ∨ ∃ st ∈ [stNotOwner, stLength, stParam], judge f h p body s = finish h.tag st [] s := by
  unfold judge
  split
  · exact .inr ⟨_, by simp, rfl⟩
  · split
    · exact .inr ⟨_, by simp, rfl⟩
    · split
      · exact .inr ⟨_, by simp, rfl⟩
      · exact .inl rfl

/-- A command taken up without the rights of its class is answered NOT_OWNER (R46). -/
theorem serve_denied (f : Form) (h : Hdr) (p : Bytes) (body : State → State) (s : State) (ht : Taken h s)
    (hr : (f.rights (entered f.opcode h s) p).allow h s = false) :
    serve f h p body s = replies f.opcode h stNotOwner [] s := by
  rw [serve_judged _ _ _ _ _ ht]
  have hr : (f.rights (entered f.opcode h s) p).allow h (entered f.opcode h s) = false := hr
  have hp : (entered f.opcode h s).boot.phase = .ready := ht.2.2.2.2.1
  unfold judge
  rw [hr, hp]
  rfl

/-- What a command may change once it has been taken up: what its body may. -/
theorem keeps_serve {parts : List Part} {f : Form} {h : Hdr} {p : Bytes} {body : State → State} {s : State} (ht : Taken h s)
    (hb : Keeps parts (entered f.opcode h s) (body (entered f.opcode h s))) : Keeps parts s (serve f h p body s) := by
  rw [serve_judged _ _ _ _ _ ht]
  have he : Keeps parts s (entered f.opcode h s) := (portOnly_entered f.opcode h s).keeps parts
  rcases judge_cases f h p body (entered f.opcode h s) with hj | ⟨st, _, hj⟩ <;> rw [hj]
  · exact he.trans hb
  · exact he.trans ((linkOnly_finish h.tag st [] _).port.keeps parts)

/-- What a list of refusals may change: what its effect may. -/
theorem keeps_refuseIf {parts : List Part} {tag : Tag} {l : List (Bool × Byte)} {k : State → State} {s : State}
    (hk : Keeps parts s (k s)) : Keeps parts s (refuseIf tag l k s) := by
  rcases refuseIf_cases tag l k s with ⟨h, _⟩ | ⟨st, _, h⟩ <;> rw [h]
  · exact hk
  · exact (linkOnly_finish tag st [] s).port.keeps parts

end Sys2Proof.Machine
end

