-- ==== Sys2Proof/Laws/Record.lean ====
section
/-! SUPPORT. What programs, erases and commits do to the NVM's pages and the record, and that their canonical form is kept. -/

namespace Sys2Proof.Machine

/-! ### The table of pages -/

/-- A list in rising order of keys stays so when one key's entry is replaced. -/
theorem rising_put {α : Type} (key : α → Nat) (l m : List α) (k : Nat) (h : l.Pairwise fun a b => key a < key b)
    (hm : m.Pairwise fun a b => key a < key b) (hk : ∀ x ∈ m, key x = k) :
    ((l.filter fun x => decide (key x < k)) ++ m ++ l.filter fun x => decide (k < key x)).Pairwise fun a b => key a < key b := by
  refine List.pairwise_append.2 ⟨List.pairwise_append.2 ⟨h.filter _, hm, ?_⟩, h.filter _, ?_⟩
  · intro a ha b hb
    rw [hk b hb]; simpa using (List.mem_filter.1 ha).2
  · intro a ha b hb
    have hb := (List.mem_filter.1 hb).2
    rcases List.mem_append.1 ha with ha | ha
    · have ha := (List.mem_filter.1 ha).2
      simp only [decide_eq_true_eq] at ha hb; omega
    · rw [hk a ha]; simpa using hb

/-- Looking a key up where its entries pass a filter is looking it up in the whole list. -/
theorem find_filter {α : Type} (key : α → Nat) (p : α → Bool) (k : Nat) (l : List α) (h : ∀ x, key x = k → p x = true) :
    (l.filter p).find? (key · == k) = l.find? (key · == k) := by
  induction l with
  | nil => rfl
  | cons x l ih =>
    by_cases hx : key x = k
    · simp [h x hx, hx]
    · by_cases hp : p x = true <;> simp [hp, hx, ih]

/-- Looking up a key whose entries a filter removes finds nothing. -/
theorem find_filter_none {α : Type} (key : α → Nat) (p : α → Bool) (k : Nat) (l : List α) (h : ∀ x, key x = k → p x = false) :
    (l.filter p).find? (key · == k) = none := by
  simp only [List.find?_eq_none, List.mem_filter, beq_iff_eq]
  rintro x ⟨_, hx⟩ hk
  simp [h x hk] at hx

@[simp] theorem pageInfo_page (s : State) (p : Nat) : (pageInfo s p).page = p := by
  unfold pageInfo
  cases h : s.nvm.pages.find? (·.page == p) with
  | none => rfl
  | some i => simpa using List.find?_some h

/-- Writing a page down changes what is known of that page alone. -/
theorem pageInfo_setPage (i : PageInfo) (s : State) (p : Nat) :
    pageInfo (setPage i s) p = if p = i.page then i else pageInfo s p := by
  unfold pageInfo setPage
  dsimp only
  rw [List.find?_append, List.find?_append]
  by_cases h : p = i.page
  · subst h
    rw [find_filter_none PageInfo.page _ _ _ (fun x hx => by simp [hx]), find_filter_none PageInfo.page _ _ _ (fun x hx => by simp [hx])]
    by_cases hl : i.listed = true
    · simp [hl]
    · have : i = { page := i.page, state := .erased } := by simpa [PageInfo.listed] using hl
      simpa [hl] using this.symm
  · have hm : (if i.listed = true then [i] else []).find? (fun x : PageInfo => x.page == p) = none := by
      by_cases hl : i.listed = true <;> simp [hl, Ne.symm h]
    rw [hm, Option.or_none, if_neg h]
    rcases Nat.lt_or_gt_of_ne h with hlt | hgt
    · rw [find_filter PageInfo.page _ _ _ (fun x hx => by simp [hx, hlt]),
        find_filter_none PageInfo.page _ _ _ (fun x hx => by simp [hx]; omega), Option.or_none]
    · rw [find_filter_none PageInfo.page _ _ _ (fun x hx => by simp [hx]; omega),
        find_filter PageInfo.page _ _ _ (fun x hx => by simp [hx, hgt]), Option.none_or]

/-- An erase changes nothing on a page outside the sector that says something. -/
theorem pageInfo_eraseSector (f : Nat) (s : State) (p : Nat) (h : ¬ (f ≤ p ∧ p < f + 16)) (hl : (pageInfo s p).listed = true) :
    pageInfo (eraseSector f s) p = pageInfo s p := by
  unfold pageInfo eraseSector at *
  dsimp only at *
  generalize s.nvm.pages = l at *
  induction l with
  | nil => rfl
  | cons i l ih =>
    by_cases hi : i.page = p
    · have hn : ¬ (f ≤ i.page ∧ i.page < f + 16) := hi ▸ h
      have hl : i.listed = true := by simpa [hi] using hl
      rw [List.map_cons, if_neg hn, List.filter_cons, if_pos hl, List.find?_cons_of_pos (by simpa using hi),
        List.find?_cons_of_pos (by simpa using hi)]
    · have hl : ((l.find? (·.page == p)).getD { page := p, state := .erased }).listed = true := by simpa [hi] using hl
      have ih := ih hl
      rw [List.map_cons, List.filter_cons, List.find?_cons_of_neg (by simpa using hi)]
      have hk : (if f ≤ i.page ∧ i.page < f + 16 then ({ page := i.page, state := .erased, programs := i.programs } : PageInfo) else i).page ≠ p := by
        split <;> exact hi
      generalize (if f ≤ i.page ∧ i.page < f + 16 then ({ page := i.page, state := .erased, programs := i.programs } : PageInfo) else i) = k at *
      split
      · rw [List.find?_cons_of_neg (by simpa using hk)]
        exact ih
      · exact ih

theorem setPage_wf {i : PageInfo} {s : State} (h : MemoryWf s) : MemoryWf (setPage i s) := by
  refine ⟨rising_put PageInfo.page _ _ _ h.1 ?_ ?_, ?_⟩
  · split <;> simp
  · intro x hx; split at hx <;> simp_all
  · intro x hx
    simp only [setPage, List.mem_append, List.mem_filter] at hx
    rcases hx with (hx | hx) | hx
    · exact h.2 _ hx.1
    · split at hx <;> simp_all
    · exact h.2 _ hx.1

theorem eraseSector_wf {first : Nat} {s : State} (h : MemoryWf s) : MemoryWf (eraseSector first s) := by
  refine ⟨?_, ?_⟩
  · refine List.Pairwise.filter _ (List.pairwise_map.2 (h.1.imp ?_))
    intro a b hab
    (repeat' split) <;> exact hab
  · intro x hx
    exact (List.mem_filter.1 hx).2

/-- Canonical form looks only at what lasts. -/
theorem wf_of_lasting {s t : State} (h : t.lasting = s.lasting) (hs : MemoryWf s) : MemoryWf t := by
  simp only [State.lasting, Prod.mk.injEq] at h
  unfold MemoryWf
  rw [h.2.2.1]
  exact hs

theorem pageInfo_of_pages {s t : State} (h : t.nvm.pages = s.nvm.pages) (p : Nat) : pageInfo t p = pageInfo s p := by
  simp [pageInfo, h]

/-! ### Changes to pages alone -/

/-- The queue of commands and the tick counter. -/
def State.still (s : State) : List Instr × BitVec 48 := (s.pending, s.clk.tick)

/-- Queue, tick counter and next sequence number are as they were, the canonical form is kept, and nothing is known anew of a page
outside `P`. -/
structure Touches (P : Nat → Prop) (s t : State) : Prop where
  still : t.still = s.still
  wf : MemoryWf s → MemoryWf t
  seq : t.cairn.nextSeq = s.cairn.nextSeq
  page : ∀ p, ¬ P p → pageInfo t p = pageInfo s p

theorem Touches.of_lasting {P : Nat → Prop} {s t : State} (h : t.lasting = s.lasting) : Touches P s t := by
  have hw : MemoryWf s → MemoryWf t := wf_of_lasting h
  simp only [State.lasting, Prod.mk.injEq] at h
  exact ⟨Prod.ext h.1 h.2.2.2, hw, h.2.1, fun p _ => pageInfo_of_pages h.2.2.1 p⟩

theorem Touches.trans {P : Nat → Prop} {s t u : State} (h : Touches P s t) (k : Touches P t u) : Touches P s u :=
  ⟨k.still.trans h.still, k.wf ∘ h.wf, k.seq.trans h.seq, fun p hp => (k.page p hp).trans (h.page p hp)⟩

theorem Touches.mono {P Q : Nat → Prop} {s t : State} (h : Touches P s t) (k : ∀ p, P p → Q p) : Touches Q s t :=
  ⟨h.still, h.wf, h.seq, fun p hp => h.page p fun hq => hp (k p hq)⟩

theorem touches_setPage (i : PageInfo) (s : State) : Touches (· = i.page) s (setPage i s) :=
  ⟨rfl, setPage_wf, rfl, fun p hp => by rw [pageInfo_setPage, if_neg hp]⟩

theorem touches_tearPage (page : Nat) (x : PageImage) (s : State) : Touches (· = page) s (tearPage page x s) := by
  simpa [tearPage] using touches_setPage { pageInfo s page with state := .valid, data := x.data, side := x.side, torn := true, was := (pageInfo s page).data } s

/-- A torn page is known to be so. -/
theorem tearPage_torn (page : Nat) (x : PageImage) (s : State) : (pageInfo (tearPage page x s) page).torn = true := by
  simp [tearPage, pageInfo_setPage]

/-- A program touches its page; where it succeeds the page holds what was programmed, and where it fails nothing is touched. -/
theorem touches_programPage (page : Nat) (x : PageImage) (bad us : Nat) (s : State) :
    Touches (· = page) s (programPage page x bad us s).1
    ∧ ((programPage page x bad us s).2 = true → ∃ n,
        pageInfo (programPage page x bad us s).1 page = { page := page, programs := n, data := x.data, side := x.side })
    ∧ ((programPage page x bad us s).2 = false → (programPage page x bad us s).1.lasting = s.lasting) := by
  unfold programPage
  dsimp only
  split
  · exact ⟨.of_lasting (by simp), by simp, fun _ => by simp⟩
  · refine ⟨?_, fun _ => ⟨_, by rw [pageInfo_setPage, if_pos rfl]⟩, by simp⟩
    refine Touches.trans (.of_lasting rfl) (t := { s with nvm := { s.nvm with
      spares := wr s.nvm.spares (regionOf page) (rd s.nvm.spares (regionOf page) - bad)
      programTimes := (us :: s.nvm.programTimes).take 256, programs := satInc s.nvm.programs } }) ?_
    exact touches_setPage { page := page, programs := (pageInfo s page).programs + 1, data := x.data, side := x.side } _

/-! ### Commits -/

/-- A page of the journal. -/
def Journal (p : Nat) : Prop := 256 ≤ p ∧ p < 320

theorem journalPage_journal (k : Nat) : Journal (journalPage k) ∧ Journal (journalPage k + 1) := by
  unfold Journal journalPage
  omega

theorem cellPage_not_journal (pos : Nat) : ¬ Journal (cellPage pos) := by
  unfold Journal cellPage
  omega

/-- A commit programs the journal and its target page, which then is as it was, is torn, or holds the image; the sequence number
goes on where the commit point has passed (R405). -/
structure CommitDoes (pos next : Nat) (b : Bytes) (s : State) (r : State × Commit) : Prop where
  still : r.1.still = s.still
  wf : MemoryWf s → MemoryWf r.1
  seq : r.1.cairn.nextSeq = if r.2.visible then BitVec.ofNat 32 next else s.cairn.nextSeq
  page : ∀ p, ¬ Journal p → p ≠ cellPage pos → pageInfo r.1 p = pageInfo s p
  target : pageInfo r.1 (cellPage pos) = pageInfo s (cellPage pos)
    ∨ r.2.visible = true ∧ (((pageInfo r.1 (cellPage pos)).torn = true ∧ r.2.left = [])
      ∨ ∃ n, pageInfo r.1 (cellPage pos) = { page := cellPage pos, programs := n, data := cellImage s pos b })

theorem CommitDoes.of_journal {pos next : Nat} {b : Bytes} {s t : State} {left : List (Nat × Nat)} (h : Touches Journal s t) :
    CommitDoes pos next b s (t, ⟨left, false⟩) :=
  ⟨h.still, h.wf, h.seq, fun p hp _ => h.page p hp, .inl (h.page _ (cellPage_not_journal pos))⟩

/-- What follows the commit point of a commit. -/
theorem CommitDoes.of_issued {pos next : Nat} {b : Bytes} {s t u : State} {left : List (Nat × Nat)} (h : Touches Journal s t)
    (k : Touches (· = cellPage pos) (issue next t) u)
    (hp : pageInfo u (cellPage pos) = pageInfo (issue next t) (cellPage pos) ∨ ((pageInfo u (cellPage pos)).torn = true ∧ left = [])
      ∨ ∃ n, pageInfo u (cellPage pos) = { page := cellPage pos, programs := n, data := cellImage s pos b }) :
    CommitDoes pos next b s (u, ⟨left, true⟩) := by
  have hi : ∀ p, pageInfo (issue next t) p = pageInfo t p := fun p => pageInfo_of_pages rfl p
  refine ⟨k.still.trans h.still, fun w => k.wf (h.wf w), k.seq, fun p hj hc => ?_, ?_⟩
  · exact (k.page p hc).trans ((hi p).trans (h.page p hj))
  · rcases hp with hp | hp | hp
    · exact .inl (hp.trans ((hi _).trans (h.page _ (cellPage_not_journal pos))))
    · exact .inr ⟨rfl, .inl hp⟩
    · exact .inr ⟨rfl, .inr hp⟩

theorem commitCell_does (pos next : Nat) (b : Bytes) (ps : List (Nat × Nat)) (s : State) :
    CommitDoes pos next b s (commitCell pos next b ps s) := by
  obtain ⟨j0, j1⟩ := journalPage_journal s.cairn.journal
  unfold commitCell
  dsimp only
  split
  · exact .of_journal ((touches_tearPage _ _ s).mono fun p hp => hp ▸ j0)
  · rename_i a ps
    have hx := (touches_programPage (journalPage s.cairn.journal) { data := cellImage s pos b } a.1 a.2 s).1.mono (Q := Journal)
      fun p hp => hp ▸ j0
    split
    · exact .of_journal (hx.trans (.of_lasting (by simp)))
    · split
      · exact .of_journal (hx.trans ((touches_tearPage _ _ _).mono fun p hp => hp ▸ j1))
      · rename_i g ps
        have hy := hx.trans ((touches_programPage (journalPage s.cairn.journal + 1)
          { data := journalHeader (s.cairn.journal + 1) (cellPage pos) next (cellImage s pos b) } g.1 g.2 _).1.mono (Q := Journal)
          fun p hp => hp ▸ j1)
        split
        · exact .of_journal (hy.trans (.of_lasting (by simp)))
        · have hz := hy.trans (.of_lasting (lasting_countBubble g.2 _))
          split
          · exact .of_issued hz (touches_tearPage _ _ _) (.inr (.inl ⟨tearPage_torn _ _ _, rfl⟩))
          · rename_i t ps
            have hp := touches_programPage (cellPage pos) { data := cellImage s pos b } t.1 t.2 (issue next (countBubble g.2
              (programPage (journalPage s.cairn.journal + 1)
                { data := journalHeader (s.cairn.journal + 1) (cellPage pos) next (cellImage s pos b) } g.1 g.2
                (programPage (journalPage s.cairn.journal) { data := cellImage s pos b } a.1 a.2 s).1).1))
            split
            · rename_i hf
              refine .of_issued hz (hp.1.trans (.of_lasting (by simp))) (.inl ?_)
              have hl := (lasting_cairnFault 0x04 (fld b 0 4) _).trans
                ((lasting_timeCommit (a.2 + g.2 + t.2) _).trans (hp.2.2 (by simpa using hf)))
              exact (Touches.of_lasting (P := fun _ => False) hl).page _ id
            · rename_i hf
              obtain ⟨n, hn⟩ := hp.2.1 (by simpa using hf)
              exact .of_issued hz (hp.1.trans (.of_lasting (lasting_timeCommit _ _))) (.inr (.inr ⟨n, hn⟩))

/-! ### How the record grows -/

/-- The record after at most `k` commits: nothing held has changed outside the pages of `ex` but at the positions of the sequence
numbers issued between, on a torn page where no programs are left, and on a page with more bit errors than its code corrects. -/
structure Grown (ex : Nat → Prop) (k : Nat) (left : List (Nat × Nat)) (s t : State) : Prop where
  still : t.still = s.still
  wf : MemoryWf s → MemoryWf t
  held : ∃ n, n ≤ k ∧ t.cairn.nextSeq = s.cairn.nextSeq + BitVec.ofNat 32 n ∧ ∀ pos, Held s pos → ¬ ex (cellPage pos) →
    (Held t pos ∧ stored t pos = stored s pos) ∨ ((pageInfo t (cellPage pos)).torn = true ∧ left = [])
      ∨ (∃ n, 4 < Config.bitErrors (cellPage pos) n) ∨ ∃ j < n, pos = cairnPosition (s.cairn.nextSeq + BitVec.ofNat 32 j).toNat

theorem Touches.grown {P ex : Nat → Prop} {s t : State} (h : Touches P s t) (hp : ∀ pos, P (cellPage pos) → ex (cellPage pos))
    (k : Nat) (left : List (Nat × Nat)) : Grown ex k left s t := by
  refine ⟨h.still, h.wf, 0, Nat.zero_le _, by simpa using h.seq, fun pos hs he => .inl ?_⟩
  have hi := h.page _ fun x => he (hp _ x)
  unfold Held stored at *
  rw [hi]
  exact ⟨hs, rfl⟩

theorem Grown.mono {ex : Nat → Prop} {k k' : Nat} {left : List (Nat × Nat)} {s t : State} (h : Grown ex k left s t) (hk : k ≤ k') :
    Grown ex k' left s t := by
  obtain ⟨a, b, n, hn, c⟩ := h
  exact ⟨a, b, n, by omega, c⟩

/-- Another growth after one that left programs, or after one that left none and touches no page of the record. -/
theorem Grown.trans {ex ex' : Nat → Prop} {k k' : Nat} {left left' : List (Nat × Nat)} {s t u : State} (h : Grown ex k left s t)
    (g : Grown ex' k' left' t u) (hx : ∀ p, ex' p → ex p)
    (hl : left = [] → left' = [] ∧ ∀ pos, (pageInfo t (cellPage pos)).torn = true → (pageInfo u (cellPage pos)).torn = true) :
    Grown ex (k + k') left' s u := by
  obtain ⟨q, w, n, hn, hs, hc⟩ := h
  obtain ⟨q', w', n', hn', hs', hc'⟩ := g
  refine ⟨q'.trans q, w' ∘ w, n + n', by omega, by rw [hs', hs, BitVec.add_assoc, BitVec.ofNat_add], fun pos hh he => ?_⟩
  rcases hc pos hh he with ⟨h1, h2⟩ | ⟨h1, h2⟩ | h1 | ⟨j, hj, h1⟩
  · rcases hc' pos h1 (fun x => he (hx _ x)) with ⟨h3, h4⟩ | h3 | h3 | ⟨j, hj, h3⟩
    · exact .inl ⟨h3, h4.trans h2⟩
    · exact .inr (.inl h3)
    · exact .inr (.inr (.inl h3))
    · exact .inr (.inr (.inr ⟨n + j, by omega, by rw [h3, hs, BitVec.add_assoc, BitVec.ofNat_add]⟩))
  · exact .inr (.inl ⟨(hl h2).2 pos h1, (hl h2).1⟩)
  · exact .inr (.inr (.inl h1))
  · exact .inr (.inr (.inr ⟨j, by omega, h1⟩))

/-- What the record says in the end. -/
theorem Grown.grows {ex : Nat → Prop} {k : Nat} {left : List (Nat × Nat)} {s t : State} (h : Grown ex k left s t)
    (hx : ∀ pos, ex (cellPage pos) → AtWork s (cellPage pos)) : RecordGrows k s t := by
  obtain ⟨_, _, n, hn, hs, hc⟩ := h
  refine ⟨n, hn, hs, fun pos hh he => ?_⟩
  rcases hc pos hh (fun x => he (hx _ x)) with h | ⟨h, _⟩ | h | h
  · exact .inl (.inl h)
  · exact .inl (.inr (.inl h))
  · exact .inl (.inr (.inr h))
  · exact .inr h

/-- What keeps what lasts, after a growth. -/
theorem Grown.keep {ex : Nat → Prop} {k : Nat} {left : List (Nat × Nat)} {s : State} (t : State) {u : State}
    (h : Grown ex k left s t) (hu : u.lasting = t.lasting) : Grown ex k left s u := by
  have hp : ∀ p, pageInfo u p = pageInfo t p := fun p => (Touches.of_lasting (P := fun _ => False) hu).page p id
  have h2 : Touches (fun _ => False) t u := .of_lasting hu
  obtain ⟨q, w, n, hn, hs, hc⟩ := h
  refine ⟨h2.still.trans q, h2.wf ∘ w, n, hn, h2.seq.trans hs, fun pos hh he => ?_⟩
  simpa only [Held, stored, hp] using hc pos hh he

/-- What keeps what lasts, before a growth. -/
theorem Grown.after {ex : Nat → Prop} {k : Nat} {left : List (Nat × Nat)} {s : State} (t : State) {u : State}
    (ht : t.lasting = s.lasting) (h : Grown ex k left t u) : Grown ex k left s u := by
  have h2 : Touches (fun _ => False) s t := .of_lasting ht
  have hp : ∀ p, pageInfo t p = pageInfo s p := fun p => h2.page p id
  obtain ⟨q, w, n, hn, hs, hc⟩ := h
  refine ⟨q.trans h2.still, w ∘ h2.wf, n, hn, by rw [hs, h2.seq], fun pos hh he => ?_⟩
  have := hc pos (by simpa only [Held, stored, hp] using hh) he
  simpa only [Held, stored, hp, h2.seq] using this

/-- The bytes of a page of the record that stands: those in its cells, or zeros where it has more bit errors than its code
corrects. -/
theorem cellsBytes_held {s : State} {page : Nat} (hv : (pageInfo s page).state = .valid) (ht : (pageInfo s page).torn = false)
    (hs : (pageInfo s page).side = none) :
    cellsBytes s page = fixed 256 (pageInfo s page).data ∨ ∃ n, 4 < Config.bitErrors page n := by
  have hu : unsealed s (pageInfo s page) = some (fixed 256 (pageInfo s page).data) := by simp [unsealed, hs, PageInfo.bytes, ht]
  have hst : cellsState s page = if Config.bitErrors page (pageInfo s page).programs == 0 then .valid
      else if Config.bitErrors page (pageInfo s page).programs ≤ 4 then .corrected else .uncorrectable := by
    simp [cellsState, hv, hu, ht]
  by_cases h4 : 4 < Config.bitErrors page (pageInfo s page).programs
  · exact .inr ⟨_, h4⟩
  · refine .inl ?_
    have : cellsState s page = .valid ∨ cellsState s page = .corrected := by
      rw [hst]; split
      · exact .inl rfl
      · exact .inr (if_pos (by omega))
    unfold cellsBytes
    rcases this with h | h <;> rw [h, hu] <;> rfl

theorem fixed_length (n : Nat) (p : Bytes) : (fixed n p).length = n := by
  simp [fixed]; omega

theorem fixed_of_length {n : Nat} {p : Bytes} (h : p.length = n) : fixed n p = p := by
  simp [fixed, ← h]

/-- The image of a commit holds at every other position of its page what the page held. -/
theorem slice_cellImage (s : State) (pos q : Nat) (b : Bytes) (hl : (cellsBytes s (cellPage pos)).length = 256)
    (h4 : q % 4 ≠ pos % 4) :
    slice (fixed 256 (cellImage s pos b)) (64 * (q % 4)) 64 = slice (cellsBytes s (cellPage pos)) (64 * (q % 4)) 64 := by
  have hb := fixed_length 64 b
  have hi : (cellImage s pos b).length = 256 := by
    simp only [cellImage, List.length_append, List.length_take, List.length_drop, hb, hl]
    omega
  rw [fixed_of_length hi]
  apply List.ext_getElem?
  intro i
  simp only [slice, List.getElem?_take, List.getElem?_drop]
  by_cases h : i < 64
  · simp only [h, if_true, cellImage, List.getElem?_append, List.length_append, List.length_take, hb, hl, List.getElem?_drop,
      List.getElem?_take]
    (repeat' split) <;> first | omega | rfl | (congr 1; omega)
  · simp [h]

/-- A commit leaves every other position as it is, but for the physics of the part. -/
theorem CommitDoes.other {pos next : Nat} {b : Bytes} {s : State} {r : State × Commit} (h : CommitDoes pos next b s r) {q : Nat}
    (hq : Held s q) (hne : q ≠ pos) :
    (Held r.1 q ∧ stored r.1 q = stored s q) ∨ ((pageInfo r.1 (cellPage q)).torn = true ∧ r.2.left = [])
      ∨ ∃ n, 4 < Config.bitErrors (cellPage q) n := by
  by_cases hp : cellPage q = cellPage pos
  · rcases h.target with ht | ⟨_, ht | ⟨n, ht⟩⟩
    · unfold Held stored at *
      rw [hp] at hq ⊢
      rw [ht]
      exact .inl ⟨hq, rfl⟩
    · exact .inr (.inl (hp ▸ ht))
    · obtain ⟨h1, h2, h3, h4⟩ := hq
      rcases cellsBytes_held h1 h2 h3 with hc | hc
      · refine .inl ?_
        have hm : q % 4 ≠ pos % 4 := by unfold cellPage at hp; omega
        have hs : stored r.1 q = stored s q := by
          unfold stored
          rw [hp, ht, slice_cellImage s pos q b (by rw [← hp, hc]; exact fixed_length _ _) hm, ← hp, hc]
        refine ⟨⟨?_, ?_, ?_, ?_⟩, hs⟩
        · rw [hp, ht]
        · rw [hp, ht]
        · rw [hp, ht]
        · rw [hs]; exact h4
      · exact .inr (.inr hc)
  · unfold Held stored at *
    rw [h.page _ (cellPage_not_journal q) hp]
    exact .inl ⟨hq, rfl⟩

/-- A commit to the circular area (R405). -/
theorem grown_commitCell (ex : Nat → Prop) (b : Bytes) (ps : List (Nat × Nat)) (s : State) :
    let r := commitCell (cairnPosition s.cairn.nextSeq.toNat) (s.cairn.nextSeq.toNat + 1) b ps s
    Grown ex 1 r.2.left s r.1 := by
  intro r
  have h : CommitDoes _ _ b s r := commitCell_does _ _ b ps s
  have hn : BitVec.ofNat 32 (s.cairn.nextSeq.toNat + 1) = s.cairn.nextSeq + BitVec.ofNat 32 1 := by
    apply BitVec.eq_of_toNat_eq; simp [BitVec.toNat_add]
  by_cases hv : r.2.visible = true
  · refine ⟨h.still, h.wf, 1, Nat.le_refl _, by rw [h.seq, if_pos hv, hn], fun pos hp _ => ?_⟩
    by_cases hq : pos = cairnPosition s.cairn.nextSeq.toNat
    · exact .inr (.inr (.inr ⟨0, by omega, by simpa using hq⟩))
    · rcases h.other hp hq with x | x | x
      · exact .inl x
      · exact .inr (.inl x)
      · exact .inr (.inr (.inl x))
  · refine ⟨h.still, h.wf, 0, by omega, by rw [h.seq, if_neg hv]; simp, fun pos hp _ => .inl ?_⟩
    have : pageInfo r.1 (cellPage pos) = pageInfo s (cellPage pos) := by
      by_cases hq : cellPage pos = cellPage (cairnPosition s.cairn.nextSeq.toNat)
      · rcases h.target with x | ⟨x, _⟩
        · rw [hq]; exact x
        · exact absurd x hv
      · exact h.page _ (cellPage_not_journal pos) hq
    unfold Held stored at *
    rw [this]
    exact ⟨hp, rfl⟩

/-- A commit to a position that reads zero (R403). -/
theorem grown_fillCell (ex : Nat → Prop) (pos : Nat) (b : Bytes) (ps : List (Nat × Nat)) (s : State)
    (hz : cell s pos = List.replicate 64 0) :
    let r := commitCell pos s.cairn.nextSeq.toNat b ps s
    Grown ex 0 r.2.left s r.1 := by
  intro r
  have h : CommitDoes _ _ b s r := commitCell_does _ _ b ps s
  refine ⟨h.still, h.wf, 0, Nat.le_refl _, by rw [h.seq]; split <;> simp, fun q hp _ => ?_⟩
  by_cases hq : q = pos
  · subst hq
    rcases cellsBytes_held hp.1 hp.2.1 hp.2.2.1 with hc | hc
    · exact absurd (by unfold cell at hz; rw [hc] at hz; exact hz) hp.2.2.2
    · exact .inr (.inr (.inl hc))
  · rcases h.other hp hq with x | x | x
    · exact .inl x
    · exact .inr (.inl x)
    · exact .inr (.inr (.inl x))

/-- With no program left a commit touches the journal alone. -/
theorem commitCell_nil (pos next : Nat) (b : Bytes) (s : State) :
    Touches Journal s (commitCell pos next b [] s).1 ∧ (commitCell pos next b [] s).2.left = [] := by
  refine ⟨?_, rfl⟩
  exact (touches_tearPage _ _ s).mono fun p hp => hp ▸ (journalPage_journal _).1

/-- A pinned position that does not read zero is used. -/
theorem pinnedUsed_of_cell {s : State} {pos : Nat} (hp : pos < 256) (h : cell s pos ≠ List.replicate 64 0) : pos ∈ pinnedUsed s := by
  unfold pinnedUsed
  refine List.mem_filter.2 ⟨List.mem_flatMap.2 ⟨cellPage pos, List.mem_filter.2 ⟨?_, ?_⟩, List.mem_map.2 ⟨pos % 4, by simp; omega, ?_⟩⟩, by simpa using h⟩
  · by_contra hn
    have hf : s.nvm.pages.find? (·.page == cellPage pos) = none := by
      simp only [List.find?_eq_none, beq_iff_eq]
      exact fun i hi he => hn (List.mem_map.2 ⟨i, hi, he⟩)
    have hc : cellsState s (cellPage pos) = .erased := by simp [cellsState, pageInfo, hf]
    refine h ?_
    have hm : pos % 4 < 4 := Nat.mod_lt _ (by omega)
    simp only [cell, cellsBytes, hc, slice, List.drop_replicate, List.take_replicate]
    congr 1
    omega
  · unfold cellPage; simp; omega
  · unfold cellPage; omega

/-- Commits: how the record grows, and that without programs only the journal is touched. -/
structure Commits (k : Nat) (ps : List (Nat × Nat)) (s : State) (t : State) (left : List (Nat × Nat)) : Prop where
  grown : Grown (fun _ => False) k left s t
  cut : ps = [] → Touches Journal s t ∧ left = []

theorem Commits.refl (k : Nat) (ps : List (Nat × Nat)) (s : State) : Commits k ps s s ps :=
  ⟨(Touches.of_lasting (P := fun _ => False) rfl).grown (fun _ h => h) k ps, fun h => ⟨.of_lasting rfl, h⟩⟩

theorem Commits.keep {k : Nat} {ps left : List (Nat × Nat)} {s : State} (t : State) {u : State} (h : Commits k ps s t left)
    (hu : u.lasting = t.lasting) : Commits k ps s u left :=
  ⟨h.grown.keep t hu, fun hp => ⟨(h.cut hp).1.trans (.of_lasting hu), (h.cut hp).2⟩⟩

theorem Commits.after {k : Nat} {ps left : List (Nat × Nat)} {s : State} (t : State) {u : State} (ht : t.lasting = s.lasting)
    (h : Commits k ps t u left) : Commits k ps s u left :=
  ⟨h.grown.after t ht, fun hp => ⟨(Touches.of_lasting ht).trans (h.cut hp).1, (h.cut hp).2⟩⟩

theorem Touches.torn {s t : State} (h : Touches Journal s t) (pos : Nat) (ht : (pageInfo s (cellPage pos)).torn = true) :
    (pageInfo t (cellPage pos)).torn = true := by
  rw [h.page _ (cellPage_not_journal pos)]; exact ht

/-- Commits go on with the programs that are left. -/
theorem Grown.commits {ex : Nat → Prop} {k k' : Nat} {left left' : List (Nat × Nat)} {s t u : State} (h : Grown ex k left s t)
    (g : Commits k' left t u left') : Grown ex (k + k') left' s u :=
  h.trans g.grown (fun _ x => x.elim) fun hl => ⟨(g.cut hl).2, fun pos => (g.cut hl).1.torn pos⟩

theorem Commits.trans {k k' : Nat} {ps left left' : List (Nat × Nat)} {s t u : State} (h : Commits k ps s t left)
    (g : Commits k' left t u left') : Commits (k + k') ps s u left' :=
  ⟨h.grown.commits g, fun hp => ⟨(h.cut hp).1.trans (g.cut (h.cut hp).2).1, (g.cut (h.cut hp).2).2⟩⟩

theorem commits_pinCopy (b : Bytes) (ps : List (Nat × Nat)) (s : State) : Commits 0 ps s (pinCopy b ps s).1 (pinCopy b ps s).2 := by
  unfold pinCopy
  split
  · split
    · rename_i pos hpos
      have hz : cell s pos = List.replicate 64 0 := by
        by_contra hn
        have h1 := List.find?_some hpos
        have h2 := pinnedUsed_of_cell (List.mem_range.1 (List.mem_of_find?_eq_some hpos)) hn
        simp [h2] at h1
      exact ⟨grown_fillCell _ pos b ps s hz, fun h => by subst h; exact commitCell_nil pos s.cairn.nextSeq.toNat b s⟩
    · exact .refl _ _ _
  · exact .refl _ _ _

theorem commits_commitEntry (x : CairnEntry) (ps : List (Nat × Nat)) (s : State) :
    Commits 1 ps s (commitEntry x ps s).1 (commitEntry x ps s).2.left := by
  unfold commitEntry
  extract_lets seq b r t q
  have h : Commits 1 ps s r.1 r.2.left := ⟨grown_commitCell _ b ps s, fun h => by subst h; exact commitCell_nil _ _ _ _⟩
  clear_value r
  split
  · exact h
  · have ht : t.lasting = r.1.lasting := by
      simp only [t]; split <;> simp
    exact (h.keep r.1 ht).trans (commits_pinCopy b r.2.left t)

theorem commits_commitOverflow (ps : List (Nat × Nat)) (s : State) : Commits 1 ps s (commitOverflow ps s).1 (commitOverflow ps s).2 := by
  unfold commitOverflow
  extract_lets e t r
  exact (commits_commitEntry e ps t).after t (by simp [t])

theorem commits_commitNext (ps : List (Nat × Nat)) (s : State) : Commits 1 ps s (commitNext ps s).1 (commitNext ps s).2 := by
  unfold commitNext
  split
  · exact commits_commitOverflow ps s
  · split
    · exact .refl _ _ _
    · rename_i e _
      extract_lets seq a r
      exact ((commits_commitEntry e ps a).after a (by simp [a])).keep r.1 (by simp)

/-! ### The start-up replay -/

theorem newestRecord_of_pages {s t : State} (h : t.nvm.pages = s.nvm.pages) (ho : t.own.slots = s.own.slots) :
    newestRecord t = newestRecord s := by
  have hp : ∀ p, pageInfo t p = pageInfo s p := pageInfo_of_pages h
  have hu : ∀ i, unsealed t i = unsealed s i := by intro i; simp only [unsealed, ho]
  have hs : ∀ p, cellsState t p = cellsState s p := by intro p; simp only [cellsState, hp, hu]
  have hc : ∀ p, cellsBytes t p = cellsBytes s p := by intro p; simp only [cellsBytes, hs, hp, hu]
  have hj : journalRecord t = journalRecord s := by funext k; simp only [journalRecord, hp, hc]
  simp only [newestRecord, hj]

theorem readPage_own (page : Nat) (s : State) : (readPage page s).own = s.own := by
  unfold readPage; split <;> rfl

theorem readPages_own (l : List Nat) (s : State) : (readPages l s).own = s.own := by
  unfold readPages
  induction l generalizing s with
  | nil => rfl
  | cons k l ih => exact (ih _).trans (readPage_own k s)

theorem replayRecord_does (x : JournalRecord) (ps : List (Nat × Nat)) (s : State) :
    (replayRecord x ps s).1.still = s.still ∧ (MemoryWf s → MemoryWf (replayRecord x ps s).1)
    ∧ (replayRecord x ps s).1.cairn.nextSeq = BitVec.ofNat 32 x.next
    ∧ ∀ p, x.target ≠ p → pageInfo (replayRecord x ps s).1 p = pageInfo s p := by
  have hg : ∀ v : State, Touches (· = x.target) (onCairn (fun c => { c with journal := x.seq, nextSeq := BitVec.ofNat 32 x.next }) s) v →
      v.still = s.still ∧ (MemoryWf s → MemoryWf v) ∧ v.cairn.nextSeq = BitVec.ofNat 32 x.next
      ∧ ∀ p, x.target ≠ p → pageInfo v p = pageInfo s p :=
    fun v h => ⟨h.still, h.wf, h.seq, fun p hp => h.page p (Ne.symm hp)⟩
  unfold replayRecord
  extract_lets b due
  have hb : Touches (· = x.target) (onCairn (fun c => { c with journal := x.seq, nextSeq := BitVec.ofNat 32 x.next }) s) b :=
    .of_lasting (lasting_readPage _ _)
  have hd : Touches (· = x.target) (onCairn (fun c => { c with journal := x.seq, nextSeq := BitVec.ofNat 32 x.next }) s) due :=
    hb.trans (.of_lasting rfl)
  clear_value due
  split
  · exact hg _ hb
  · split
    · exact hg _ (hd.trans (touches_tearPage _ _ _))
    · rename_i g ps
      extract_lets y
      have hy := hd.trans (touches_programPage x.target { data := x.image } g.1 g.2 due).1
      refine hg _ ?_
      show Touches _ _ (if y.2 = true then y.1 else cairnFault 0x04 (x.next - 1) y.1)
      split
      · exact hy
      · exact hy.trans (.of_lasting (lasting_cairnFault _ _ _))

theorem cairnReplay_does (ps : List (Nat × Nat)) (s : State) :
    (cairnReplay ps s).still = s.still ∧ (MemoryWf s → MemoryWf (cairnReplay ps s))
    ∧ ((cairnReplay ps s).cairn.nextSeq = s.cairn.nextSeq ∨ ∃ x ∈ newestRecord s, (cairnReplay ps s).cairn.nextSeq = BitVec.ofNat 32 x.next)
    ∧ ∀ pos, Held s pos → (∀ x ∈ newestRecord s, x.target ≠ cellPage pos) → KeptAt s (cairnReplay ps s) pos := by
  unfold cairnReplay
  extract_lets a r u last
  have ha : a.lasting = s.lasting := lasting_readPages _ s
  have ho : a.own = s.own := readPages_own _ s
  clear_value a
  have hat : Touches (fun _ => False) s a := .of_lasting ha
  have hn : newestRecord a = newestRecord s := newestRecord_of_pages (congrArg (·.2.2.1) ha) (by rw [ho])
  have hr : u.still = s.still ∧ (MemoryWf s → MemoryWf u)
      ∧ (u.cairn.nextSeq = s.cairn.nextSeq ∨ ∃ x ∈ newestRecord s, u.cairn.nextSeq = BitVec.ofNat 32 x.next)
      ∧ ∀ p, (∀ x ∈ newestRecord s, x.target ≠ p) → pageInfo u p = pageInfo s p := by
    simp only [u, r]
    rw [hn]
    split
    · exact ⟨hat.still, hat.wf, .inl hat.seq, fun p _ => hat.page p id⟩
    · rename_i x hx
      obtain ⟨h1, h2, h3, h4⟩ := replayRecord_does x ps a
      exact ⟨h1.trans hat.still, h2 ∘ hat.wf, .inr ⟨x, hx, h3⟩, fun p hp => (h4 p (hp x hx)).trans (hat.page p id)⟩
  clear_value r
  obtain ⟨h1, h2, h3, h4⟩ := hr
  split
  · have hc := (commits_pinCopy last r.2 u).grown
    obtain ⟨q, w, n, hk, hs, hh⟩ := hc
    obtain rfl : n = 0 := by omega
    refine ⟨q.trans h1, w ∘ h2, ?_, fun pos hp ht => ?_⟩
    · rw [hs]; simpa using h3
    · have hu := h4 (cellPage pos) ht
      have hp' : Held u pos := by unfold Held stored at *; rw [hu]; exact hp
      rcases hh pos hp' (fun x => x) with ⟨h5, h6⟩ | ⟨h5, _⟩ | h5 | ⟨j, hj, _⟩
      · exact .inl ⟨h5, h6.trans (by unfold stored; rw [hu])⟩
      · exact .inr (.inl h5)
      · exact .inr (.inr h5)
      · omega
  · refine ⟨h1, h2, h3, fun pos hp ht => .inl ?_⟩
    unfold Held stored at *
    rw [h4 _ ht]
    exact ⟨hp, rfl⟩

/-! ### Programs and erases that end -/

/-- The page of the operation at the front of the buffer. -/
def AtFront (s : State) (p : Nat) : Prop := ∃ o, s.nvm.posted.head? = some o ∧ o.erase = false ∧ o.page = p

theorem touches_programEnds (bad us : Nat) (s : State) : Touches (AtFront s) s (programEnds bad us s) := by
  unfold programEnds
  split
  · rename_i o rest hb hp
    split
    · exact .of_lasting rfl
    · rename_i he
      extract_lets r a
      have h : Touches (AtFront s) s r.1 := (touches_programPage o.page (imageOf s o) bad us s).1.mono fun p h =>
        ⟨o, by simp [hp], by simpa using he, h.symm⟩
      clear_value r
      refine h.trans (.of_lasting ?_)
      split <;> simp only [lasting_programmed, lasting_programFailed, a, lasting_endOp] <;> split <;> simp
  · exact .of_lasting rfl

/-- The program in progress ends or is cut; where it is cut no programs are left. -/
theorem touches_holdupProgram (ps : List (Nat × Nat)) (s : State) : Touches (AtFront s) s (holdupProgram ps s).1 := by
  unfold holdupProgram
  split
  · rename_i o rest hb hp
    split
    · exact .of_lasting (by simp)
    · rename_i he
      split
      · refine Touches.trans (.of_lasting (by simp) : Touches (AtFront s) s (endOp s)) ?_
        refine Touches.trans ((touches_tearPage o.page (imageOf s o) (endOp s)).mono fun p h => ⟨o, by simp [hp], by simpa using he, h.symm⟩)
          (.of_lasting ?_)
        dsimp only; split <;> simp
      · exact touches_programEnds _ _ _
  · exact .of_lasting rfl

theorem belayReset_nvm (cause : Byte) (s : State) : (belayReset cause s).nvm = s.nvm := by
  have hc : ∀ (a b : BitVec 16) (p : Bytes) (s : State), (cairn a b p s).nvm = s.nvm := by
    intro a b p s
    unfold cairn cairnPut wantDomain
    dsimp only
    (repeat' split) <;> rfl
  have ht : ∀ (a b : Byte) (e : Bool) (s : State), (tripRecord a b e s).nvm = s.nvm := by
    intro a b e s
    unfold tripRecord
    dsimp only
    split
    · exact hc _ _ _ _
    · rfl
  unfold belayReset
  dsimp only
  (repeat' split) <;> first | rfl | exact ht _ _ _ _

/-- A brownout (R120). -/
theorem grown_brownOut (ps : List (Nat × Nat)) (s : State) : ∃ left, Grown (AtFront s) 2 left s (brownOut ps s) := by
  unfold brownOut
  extract_lets cause s1 a a1 a2 b e s2 s3
  have h1 : s1.lasting = s.lasting := by simp [s1]
  have hf : ∀ p, AtFront s1 p → AtFront s p := by
    intro p ⟨o, ho, h⟩
    refine ⟨o, ?_, h⟩
    simpa [s1, belayReset_nvm, onBoot] using ho
  have ha : Touches (AtFront s) s a.1 := Touches.trans (.of_lasting h1) ((touches_holdupProgram ps s1).mono hf)
  have hb : ∃ left, Grown (AtFront s) 1 left s b.1 ∧ left = b.2 := by
    simp only [b, a1, a2]
    split
    · refine ⟨_, (ha.grown (fun _ h => h) 0 a.2.1).commits ((commits_commitNext a.2.1 _).after { a.1 with nvm := { a.1.nvm with busy := .idle } } rfl), rfl⟩
    · exact ⟨_, ha.grown (fun _ h => h) 1 a.2.1, rfl⟩
  obtain ⟨left, hb, hl⟩ := hb
  subst hl
  have h2 : ∃ left, Grown (AtFront s) 2 left s s2 := by
    simp only [s2]
    split
    · exact ⟨_, hb.mono (by omega)⟩
    · exact ⟨_, hb.commits (commits_commitEntry e b.2 b.1)⟩
  obtain ⟨left, h2⟩ := h2
  refine ⟨left, h2.keep s2 ?_⟩
  simp [s3]

theorem atWork_of_front {s : State} {p : Nat} (h : AtFront s p) : AtWork s p := by
  obtain ⟨o, ho, he, hp⟩ := h
  exact .inl ⟨o, ho, by simpa [he] using hp⟩

/-- What a row leaves of what it may not touch, and what it does to the record. -/
structure Keeping (s t : State) : Prop where
  still : t.still = s.still
  wf : MemoryWf s → MemoryWf t
  grows : RecordGrows 2 s t

theorem Grown.keeping {left : List (Nat × Nat)} {s t : State} {ex : Nat → Prop} (h : Grown ex 2 left s t)
    (hx : ∀ pos, ex (cellPage pos) → AtWork s (cellPage pos)) : Keeping s t :=
  ⟨h.still, h.wf, h.grows hx⟩

theorem Touches.keeping {P : Nat → Prop} {s t : State} (h : Touches P s t) (hx : ∀ p, P p → AtWork s p) : Keeping s t :=
  (h.grown (ex := P) (fun _ x => x) 2 []).keeping fun _ => hx _

theorem Keeping.of_lasting {s t : State} (h : t.lasting = s.lasting) : Keeping s t :=
  (Touches.of_lasting (P := fun _ => False) h).keeping fun _ x => x.elim

/-! ### The rows that program, erase or commit -/

theorem keeping_execCairnCommit (programs : Vector (Nat × Nat) 6) (s t : State) (h : execCairnCommit programs s = .next t) :
    Keeping s t := by
  unfold execCairnCommit at h
  split at h <;> cases h
  · exact .of_lasting rfl
  · have hg := ((commits_commitNext programs.toList _).after (s := s) { s with nvm := { s.nvm with busy := .idle } } rfl).grown
    exact (hg.mono (by omega : 1 ≤ 2)).keeping fun _ x => x.elim

theorem keeping_execBrownoutDetect (programs : List (Nat × Nat)) (s t : State) (h : execBrownoutDetect programs s = .next t) :
    Keeping s t := by
  unfold execBrownoutDetect at h
  split at h <;> cases h
  · exact .of_lasting rfl
  · obtain ⟨left, hg⟩ := grown_brownOut programs s
    exact hg.keeping fun _ => atWork_of_front

theorem keeping_execPowerOff (s t : State) (h : execPowerOff s = .next t) : Keeping s t := by
  unfold execPowerOff at h
  split at h
  · cases h; exact .of_lasting rfl
  · obtain ⟨left, hg⟩ := grown_brownOut [] s
    have ht : t.lasting = (if s.boot.brownoutHold then s else brownOut [] s).lasting := by
      rw [← Host.Outcome.next.inj h]
      rfl
    split at ht
    · exact .of_lasting ht
    · exact (hg.keep _ ht).keeping fun _ => atWork_of_front

theorem keeping_execNvmProgramDone (bad us : Nat) (s t : State) (h : execNvmProgramDone bad us s = .next t) : Keeping s t := by
  cases h
  exact ((touches_programEnds bad us s).trans (.of_lasting (by simp))).keeping fun _ => atWork_of_front

/-- An erase that has ended. -/
theorem grown_countErase (first us : Nat) (s : State) (left : List (Nat × Nat)) :
    Grown (fun p => first ≤ p ∧ p < first + 16) 2 left s (countErase first us s) := by
  have hp : ∀ p, pageInfo (countErase first us s) p = pageInfo (eraseSector first s) p := fun p => pageInfo_of_pages rfl p
  refine ⟨rfl, eraseSector_wf, 0, by omega, by simp [countErase, eraseSector], fun pos hh he => .inl ?_⟩
  have hl : (pageInfo s (cellPage pos)).listed = true := by
    simp only [PageInfo.listed, bne_iff_ne, ne_eq]
    intro hc
    have := hh.1
    rw [hc] at this
    cases this
  unfold Held stored at *
  rw [hp, pageInfo_eraseSector _ _ _ he hl]
  exact ⟨hh, rfl⟩

theorem keeping_execNvmEraseDone (ok : Bool) (us : Nat) (s t : State) (h : execNvmEraseDone ok us s = .next t) : Keeping s t := by
  unfold execNvmEraseDone at h
  split at h
  · rename_i o _ hb hp
    split at h
    · cases h; exact .of_lasting rfl
    · rename_i he
      split at h
      · cases h
        exact ((grown_countErase o.page us s []).keep _ (by simp)).keeping fun pos x =>
          .inl ⟨o, by simp [hp], by simpa [show o.erase = true by simpa using he] using x⟩
      · split at h <;> cases h
        · exact .of_lasting (by simp)
        · exact .of_lasting rfl
  · rename_i f hb
    dsimp only at h
    split at h
    · rw [← Host.Outcome.next.inj h]
      exact ((grown_countErase f us _ []).after (s := s) { s with nvm := { s.nvm with busy := .idle, background := s.nvm.background.filter (· != f) } }
        rfl).keeping fun pos x => .inr ⟨f, hb, x⟩
    · rw [← Host.Outcome.next.inj h]
      exact .of_lasting rfl
  · cases h; exact .of_lasting rfl

/-- A power-on leaves the pages and the record as they are, and the tick counter at zero. -/
theorem keeping_execPowerOnReset (slow : Bool) (s t : State) (h : execPowerOnReset slow s = .next t) :
    t.pending = s.pending ∧ (MemoryWf s → MemoryWf t) ∧ RecordGrows 2 s t
      ∧ t.clk.tick = if s.pwr.state = .off then 0 else s.clk.tick := by
  unfold execPowerOnReset at h
  split at h
  · rename_i hs
    cases h
    have : s.pwr.state ≠ .off := by simpa using hs
    exact ⟨rfl, id, (Keeping.of_lasting rfl).grows, by simp [this]⟩
  · rename_i hs
    extract_lets a r off at h
    have ha : a.lasting = s.lasting := lasting_takeEffect false s
    have hs' : s.pwr.state = .off := by simpa using hs
    clear_value a r
    obtain rfl := Host.Outcome.next.inj h
    simp only [State.lasting, Prod.mk.injEq] at ha
    obtain ⟨h1, h2, h3, _⟩ := ha
    refine ⟨h1, fun w => ?_, ⟨0, Nat.zero_le _, ?_, fun pos hp _ => .inl (.inl ?_)⟩, by simp [hs']⟩
    · unfold MemoryWf at *; rw [h3]; exact w
    · show a.cairn.nextSeq = _
      simp [h2]
    · unfold Held stored pageInfo at *
      simp only [h3, and_true]
      exact hp

/-- The reset's release: the sequence number goes on from the journal, and the record loses nothing outside the page that the newest
record of the journal names (R408). -/
theorem keeping_execBootRomStart (straps : BitVec 4) (programs : Vector (Nat × Nat) 4) (s t : State)
    (h : execBootRomStart straps programs s = .next t) :
    t.still = s.still ∧ (MemoryWf s → MemoryWf t)
    ∧ (t.cairn.nextSeq = s.cairn.nextSeq ∨ ∃ x ∈ newestRecord s, t.cairn.nextSeq = BitVec.ofNat 32 x.next)
    ∧ ∀ pos, Held s pos → (∀ x ∈ newestRecord s, x.target ≠ cellPage pos) → KeptAt s t pos := by
  have key : ∀ u : State, u.lasting = s.lasting → u.own = s.own → t.lasting = (cairnReplay programs.toList u).lasting →
      t.still = s.still ∧ (MemoryWf s → MemoryWf t)
      ∧ (t.cairn.nextSeq = s.cairn.nextSeq ∨ ∃ x ∈ newestRecord s, t.cairn.nextSeq = BitVec.ofNat 32 x.next)
      ∧ ∀ pos, Held s pos → (∀ x ∈ newestRecord s, x.target ≠ cellPage pos) → KeptAt s t pos := by
    intro u h3 ho ht
    have hu : Touches (fun _ => False) s u := .of_lasting h3
    have hn : newestRecord u = newestRecord s := newestRecord_of_pages (congrArg (·.2.2.1) h3) (by rw [ho])
    obtain ⟨q, w, n, c⟩ := cairnReplay_does programs.toList u
    have hv : Touches (fun _ => False) (cairnReplay programs.toList u) t := .of_lasting ht
    rw [hn] at n c
    refine ⟨hv.still.trans (q.trans hu.still), hv.wf ∘ w ∘ hu.wf, ?_, fun pos hp hx => ?_⟩
    · rw [hv.seq, ← hu.seq]; exact n
    · have := c pos (by simpa only [Held, stored, hu.page _ id] using hp) hx
      simpa only [KeptAt, Held, stored, hu.page _ id, hv.page _ id] using this
  unfold execBootRomStart at h
  split at h
  · cases h
    exact ⟨rfl, id, .inl rfl, fun pos hp _ => .inl ⟨hp, rfl⟩⟩
  · extract_lets pins s1 pwr wake s2 s3 r at h
    have h1 : s1.lasting = s.lasting ∧ s1.own = s.own := by
      simp only [s1]; split <;> exact ⟨rfl, rfl⟩
    have hr : r.lasting = (cairnReplay programs.toList (wantDomain 3 true (wantDomain 2 true s3))).lasting := lasting_loadRecords _
    clear_value r
    refine key (wantDomain 3 true (wantDomain 2 true s3)) h1.1 h1.2 ?_
    split at h <;> rw [← Host.Outcome.next.inj h, ← hr] <;> simp

/-- An idle step keeps the pages. -/
theorem wf_idle {s : State} (h : MemoryWf s) : MemoryWf (idle s) := by
  unfold idle
  split
  · exact h
  · have h1 : MemoryWf (takeOrder (serveHeads (beginWrites (beginTrainings (flushRope (flushRelayed (serveReads (checksComplete s)))))))) :=
      wf_of_lasting (by simp) h
    unfold passTime
    split
    · exact h1
    · unfold passEdge
      dsimp only
      split
      · exact wf_of_lasting (lasting_wakeSource _ _ _) h1
      · exact h1

end Sys2Proof.Machine
end

