-- ==== Sys2Proof/Machine/Sram.lean ====
section
/-! DEFINITION. What the cells of the SRAMs hold (R381). State holds the data of a line as a read that finds it gives it; its cells
hold them enciphered (in part DESIGN CHOICE, log entry 186). -/

namespace Sys2Proof.Machine

/-! ### AES backwards -/

/-- The inverse of the S-box: the affine map undone, and the inverse, as the 254th power. -/
def unsub (b : Byte) : Byte := inverse (b.rotateLeft 1 ^^^ b.rotateLeft 3 ^^^ b.rotateLeft 6 ^^^ 0x05)

/-- The rows of the state shifted back. -/
def unshiftRows (b : Bytes) : Bytes := (List.range 16).map fun i => b.getD ((i + 12 * (i % 4)) % 16) 0

/-- The columns of the state mixed back: four mixes in turn leave a state as it was. -/
def unmixColumns (b : Bytes) : Bytes := mixColumns (mixColumns (mixColumns b))

/-- One block deciphered by AES under the round keys. -/
def aesBack (keys : List Bytes) (block : Bytes) : Bytes :=
  let start := (unshiftRows (xorBytes (fixed 16 block) (keys.getLastD []))).map unsub
  let middle := (keys.drop 1).dropLast.reverse.foldl (fun b k => (unshiftRows (unmixColumns (xorBytes b k))).map unsub) start
  xorBytes middle (keys.getD 0 [])

/-! ### A line's cells (R381) -/

/-- The key of the lines that an owner writes in an epoch: the first 16 bytes of HKDF of SRAM_ROOT. -/
def sramKey (root : Bytes) (owner : BitVec 3) (epoch : BitVec 16) : Bytes :=
  (hkdf root [] (ascii "AETHUO-SRAM" ++ [owner.setWidth 8] ++ le 2 epoch.toNat)).take 16

/-- An element of the field of 2^128 elements times x, modulo x^128 + x^7 + x^2 + x + 1. -/
def doubled (t : BitVec 128) : BitVec 128 := if t.getLsbD 127 then (t <<< 1) ^^^ 0x87 else t <<< 1

/-- The tweak of a block of a line: the line's address enciphered, times x to the block's index. -/
def xexTweak (keys : List Bytes) (addr block : Nat) : Bytes :=
  le 16 (Nat.repeat doubled block (BitVec.ofNat 128 (leNat (aesRounds keys (le 16 addr))))).toNat

/-- The four blocks of a line, each under its tweak. -/
def xexLine (cipher : Bytes → Bytes) (keys : List Bytes) (addr : Nat) (line : Bytes) : Bytes :=
  (List.range 4).flatMap fun j =>
    let t := xexTweak keys addr j
    xorBytes (cipher (xorBytes (slice line (16 * j) 16) t)) t

/-- The 64 cells of the line at an address whose tag is `t`, by its data. -/
def lineCells (root : Bytes) (t : LineTag) (addr : Nat) (line : Bytes) : Bytes :=
  let keys := roundKeys128 (sramKey root t.owner t.epoch)
  xexLine (aesRounds keys) keys addr line

/-- What a read by an owner gives of a line: its tag is checked first, and then its cells are deciphered (R212, R381). -/
def readLine (s : State) (t : LineTag) (reader : BitVec 3) (addr : Nat) (cells : Bytes) : Bytes :=
  if t.readable s reader then
    let keys := roundKeys128 (sramKey s.own.sramRoot reader (epochOf s reader))
    xexLine (aesBack keys) keys addr cells
  else List.replicate 64 0

end Sys2Proof.Machine
end

