-- ==== Sys2Proof/Laws/Sram.lean ====
section
/-! SUPPORT. A read that finds a line gives the data that was written to it (R211, R212, R381). -/

namespace Sys2Proof.Machine

/-! ### Bytes combined -/

@[simp] theorem xorBytes_length (a b : Bytes) : (xorBytes a b).length = min a.length b.length := by simp [xorBytes]

theorem xorBytes_twice (a k : Bytes) (h : a.length ≤ k.length) : xorBytes (xorBytes a k) k = a := by
  apply List.ext_getElem
  · simp; omega
  · intro i h1 h2
    simp [xorBytes]

theorem fixed_self (n : Nat) (b : Bytes) (h : b.length = n) : fixed n b = b := by
  simp [fixed, ← h]

/-! ### The steps of a round and back -/

set_option maxRecDepth 20000 in
theorem unsub_sub (b : Byte) : unsub (sub b) = b := by
  have h : ∀ b : Byte, unsub (sub b) = b := by decide +kernel
  exact h b

theorem map_unsub_sub (b : Bytes) : (b.map sub).map unsub = b := by
  rw [List.map_map, show unsub ∘ sub = id from funext unsub_sub, List.map_id]

theorem unshiftRows_shiftRows (b : Bytes) (h : b.length = 16) : unshiftRows (shiftRows b) = b := by
  match b, h with
  | [_, _, _, _, _, _, _, _, _, _, _, _, _, _, _, _], _ => rfl

theorem xor_left (x y z : Byte) : x ^^^ (y ^^^ z) = y ^^^ (x ^^^ z) := by ac_rfl

theorem xor_twice (x y : Byte) : x ^^^ (x ^^^ y) = y := by rw [← BitVec.xor_assoc]; simp

theorem xtime_xor (a b : Byte) : xtime (a ^^^ b) = xtime a ^^^ xtime b := by
  have h (x : Byte) : xtime x = (x <<< 1) ^^^ (if x.getLsbD 7 then 0x1B else 0) := by
    unfold xtime; split <;> simp
  rw [h, h, h, BitVec.shiftLeft_xor_distrib, BitVec.getLsbD_xor]
  cases a.getLsbD 7 <;> cases b.getLsbD 7 <;> simp [BitVec.xor_assoc, BitVec.xor_comm, xor_left]

/-- A row of a mixed column. -/
def mixRow (a b c d : Byte) : Byte := xtime a ^^^ (xtime b ^^^ b) ^^^ c ^^^ d

theorem mixRow_twice (a b c d : Byte) :
    mixRow (mixRow a b c d) (mixRow b c d a) (mixRow c d a b) (mixRow d a b c) = a ^^^ xtime (xtime (a ^^^ c)) := by
  simp only [mixRow, xtime_xor]
  generalize xtime (xtime a) = aa
  generalize xtime (xtime b) = bb
  generalize xtime (xtime c) = cc
  generalize xtime (xtime d) = dd
  generalize xtime a = a1
  generalize xtime b = b1
  generalize xtime c = c1
  generalize xtime d = d1
  simp [BitVec.xor_assoc, BitVec.xor_comm, xor_left]

theorem mixRow_four (a c : Byte) :
    let m (x y : Byte) : Byte := x ^^^ xtime (xtime (x ^^^ y))
    m (m a c) (m c a) = a := by
  simp only [xtime_xor]
  simp [BitVec.xor_assoc, BitVec.xor_comm]

theorem mixColumns_four (b : Bytes) (h : b.length = 16) : mixColumns (mixColumns (mixColumns (mixColumns b))) = b := by
  have m (a0 a1 a2 a3 b0 b1 b2 b3 c0 c1 c2 c3 d0 d1 d2 d3 : Byte) :
      mixColumns [a0, a1, a2, a3, b0, b1, b2, b3, c0, c1, c2, c3, d0, d1, d2, d3]
        = [mixRow a0 a1 a2 a3, mixRow a1 a2 a3 a0, mixRow a2 a3 a0 a1, mixRow a3 a0 a1 a2,
           mixRow b0 b1 b2 b3, mixRow b1 b2 b3 b0, mixRow b2 b3 b0 b1, mixRow b3 b0 b1 b2,
           mixRow c0 c1 c2 c3, mixRow c1 c2 c3 c0, mixRow c2 c3 c0 c1, mixRow c3 c0 c1 c2,
           mixRow d0 d1 d2 d3, mixRow d1 d2 d3 d0, mixRow d2 d3 d0 d1, mixRow d3 d0 d1 d2] := by
    simp [mixColumns, cutBytes, slice, List.range_succ, mixRow]
  match b, h with
  | [a0, a1, a2, a3, b0, b1, b2, b3, c0, c1, c2, c3, d0, d1, d2, d3], _ =>
    have four := mixRow_four
    simp only at four
    simp only [m, mixRow_twice, four]

/-! ### A block, and a line -/

@[simp] theorem mixColumns_length (b : Bytes) (h : b.length = 16) : (mixColumns b).length = 16 := by
  match b, h with
  | [_, _, _, _, _, _, _, _, _, _, _, _, _, _, _, _], _ => simp [mixColumns, cutBytes, slice, List.range_succ]

@[simp] theorem shiftRows_length (b : Bytes) : (shiftRows b).length = 16 := by simp [shiftRows]

@[simp] theorem unshiftRows_length (b : Bytes) : (unshiftRows b).length = 16 := by simp [unshiftRows]

/-- Rounds undone, last first, where every round key has 16 bytes. -/
theorem rounds_back (ks : List Bytes) (hk : ∀ k ∈ ks, k.length = 16) (b : Bytes) (h : b.length = 16) :
    ks.reverse.foldl (fun b k => (unshiftRows (unmixColumns (xorBytes b k))).map unsub)
      (ks.foldl (fun b k => xorBytes (mixColumns (shiftRows (b.map sub))) k) b) = b
    ∧ (ks.foldl (fun b k => xorBytes (mixColumns (shiftRows (b.map sub))) k) b).length = 16 := by
  induction ks generalizing b with
  | nil => exact ⟨rfl, h⟩
  | cons k ks ih =>
    have hk0 := hk k (by simp)
    have hm : (mixColumns (shiftRows (b.map sub))).length = 16 := mixColumns_length _ (by simp)
    have hn : (xorBytes (mixColumns (shiftRows (b.map sub))) k).length = 16 := by simp [hm, hk0]
    obtain ⟨e, l⟩ := ih (fun k h => hk k (by simp [h])) _ hn
    refine ⟨?_, l⟩
    simp only [List.foldl_cons, List.reverse_cons, List.foldl_append, e, List.foldl_nil]
    rw [xorBytes_twice _ _ (by omega), unmixColumns, mixColumns_four _ (by simp), unshiftRows_shiftRows _ (by simp [h]),
      map_unsub_sub]

/-- A block enciphered under round keys of 16 bytes is deciphered again. -/
theorem aesBack_aesRounds (keys : List Bytes) (b : Bytes) (hk : ∀ k ∈ keys, k.length = 16) (hn : keys ≠ [])
    (h : b.length = 16) : aesBack keys (aesRounds keys b) = b ∧ (aesRounds keys b).length = 16 := by
  have first : (keys.getD 0 []).length = 16 := by
    cases keys with
    | nil => exact absurd rfl hn
    | cons k _ => exact hk k (by simp)
  have last : (keys.getLastD []).length = 16 := by
    rw [List.getLastD_eq_getLast?, List.getLast?_eq_some_getLast hn]
    exact hk _ (List.getLast_mem hn)
  obtain ⟨e, l⟩ := rounds_back (keys.drop 1).dropLast
    (fun k m => hk k (List.mem_of_mem_drop (List.dropLast_subset _ m))) (xorBytes b (keys.getD 0 [])) (by simp only [xorBytes_length]; omega)
  have lo : (aesRounds keys b).length = 16 := by
    simp only [aesRounds, xorBytes_length, shiftRows_length]; omega
  refine ⟨?_, lo⟩
  unfold aesBack
  rw [fixed_self _ _ lo]
  simp only [aesRounds, fixed_self _ _ h]
  rw [xorBytes_twice _ _ (by simp only [shiftRows_length]; omega), unshiftRows_shiftRows _ (by simp only [List.length_map]; exact l),
    map_unsub_sub, e, xorBytes_twice _ _ (by omega)]

/-- The words of a key schedule: so many, each of four bytes. -/
def Words (n : Nat) (w : List Bytes) : Prop := w.length = n ∧ ∀ k ∈ w, k.length = 4

theorem nextWord_words (w : List Bytes) (f : Bytes → Bytes) (hf : ∀ b : Bytes, b.length = 4 → (f b).length = 4) (n m : Nat)
    (hn : 1 ≤ n) (hm : n ≤ m) (h : Words m w) : Words (m + 1) (nextWord n f w) := by
  have word (i : Nat) (hi : i < m) : (w.getD i []).length = 4 := by
    rw [List.getD_eq_getElem?_getD, List.getElem?_eq_getElem (h.1 ▸ hi)]
    exact h.2 _ (List.getElem_mem _)
  refine ⟨by simp [nextWord, h.1], fun k hk => ?_⟩
  rcases List.mem_cons.mp hk with rfl | hk
  · rw [xorBytes_length, word _ (by omega), hf _ (word 0 (by omega))]; rfl
  · exact h.2 k hk

theorem fourWords_words (rcon : Byte) (w : List Bytes) (m : Nat) (hm : 4 ≤ m) (h : Words m w) :
    Words (m + 4) (fourWords 4 rcon w) := by
  have same (b : Bytes) (e : b.length = 4) : (id b).length = 4 := e
  refine nextWord_words _ _ same 4 _ (by decide) (by omega) (nextWord_words _ _ same 4 _ (by decide) (by omega)
    (nextWord_words _ _ same 4 _ (by decide) (by omega) (nextWord_words w _ (fun b e => ?_) 4 m (by decide) hm h)))
  simp; omega

/-- The eleven round keys of AES-128 have 16 bytes each. -/
theorem roundKeys128_length (key : Bytes) : ∀ k ∈ roundKeys128 key, k.length = 16 := by
  have start : Words 4 (cutBytes 4 (fixed 16 key)).reverse := by
    have l : (fixed 16 key).length = 16 := by simp [fixed]; omega
    refine ⟨by simp [cutBytes, l], fun k hk => ?_⟩
    obtain ⟨i, hi, rfl⟩ := List.mem_map.mp (List.mem_reverse.mp hk)
    have hi : i < 4 := by simpa [l] using hi
    simp [slice, l]; omega
  have all := fourWords_words 0x36 _ _ (by omega) <| fourWords_words 0x1B _ _ (by omega) <| fourWords_words 0x80 _ _ (by omega) <|
    fourWords_words 0x40 _ _ (by omega) <| fourWords_words 0x20 _ _ (by omega) <| fourWords_words 0x10 _ _ (by omega) <|
    fourWords_words 0x08 _ _ (by omega) <| fourWords_words 0x04 _ _ (by omega) <| fourWords_words 0x02 _ _ (by omega) <|
    fourWords_words 0x01 _ _ (by omega) start
  intro k hk
  obtain ⟨i, hi, rfl⟩ := List.mem_map.mp hk
  have hi : i < 11 := List.mem_range.mp hi
  have each : ∀ b ∈ (((_ : List Bytes).reverse.drop (4 * i)).take 4), b.length = 4 := fun b hb =>
    all.2 b (List.mem_reverse.mp (List.mem_of_mem_drop (List.mem_of_mem_take hb)))
  simp only [List.foldl_cons, List.foldl_nil]
  rw [List.length_flatten, List.map_congr_left each, List.map_const', List.sum_replicate]
  simp only [List.length_take, List.length_drop, List.length_reverse, all.1, smul_eq_mul]
  omega

theorem roundKeys128_ne (key : Bytes) : roundKeys128 key ≠ [] := by simp [roundKeys128, keysOf]

@[simp] theorem le_length (n x : Nat) : (le n x).length = n := by
  induction n generalizing x with
  | zero => rfl
  | succ n ih => simp [le, ih]

@[simp] theorem xexTweak_length (keys : List Bytes) (addr j : Nat) : (xexTweak keys addr j).length = 16 := le_length _ _

/-- A block enciphered between two tweaks of a key is deciphered between them again. -/
theorem block_back (key t b : Bytes) (ht : t.length = 16) (hb : b.length = 16) :
    let keys := roundKeys128 key
    let c := xorBytes (aesRounds keys (xorBytes b t)) t
    xorBytes (aesBack keys (xorBytes c t)) t = b ∧ c.length = 16 := by
  obtain ⟨e, l⟩ := aesBack_aesRounds (roundKeys128 key) (xorBytes b t) (roundKeys128_length key) (roundKeys128_ne key)
    (by simp [ht, hb])
  exact ⟨by rw [xorBytes_twice _ _ (by omega), e, xorBytes_twice _ _ (by omega)], by simp only [xorBytes_length]; omega⟩

/-- The places of a text of four pieces of 16 bytes. -/
theorem slice_four (a b c d : Bytes) (ha : a.length = 16) (hb : b.length = 16) (hc : c.length = 16) (hd : d.length = 16) :
    slice (a ++ b ++ c ++ d) 0 16 = a ∧ slice (a ++ b ++ c ++ d) 16 16 = b ∧ slice (a ++ b ++ c ++ d) 32 16 = c
      ∧ slice (a ++ b ++ c ++ d) 48 16 = d := by
  have drop (x : Bytes) (n : Nat) (h : x.length ≤ n) : x.drop n = [] := List.drop_eq_nil_of_le h
  refine ⟨?_, ?_, ?_, ?_⟩ <;>
    simp [slice, List.drop_append, ha, hb, hc, drop a 32 (by omega), drop a 48 (by omega), drop b 32 (by omega), hd]

/-- A line is its four pieces. -/
theorem line_four (line : Bytes) (h : line.length = 64) :
    slice line 0 16 ++ slice line 16 16 ++ slice line 32 16 ++ slice line 48 16 = line := by
  apply List.ext_getElem
  · simp [slice, h]
  · intro i h1 h2
    simp only [slice, List.getElem_append, List.getElem_take, List.getElem_drop, List.length_take, List.length_drop,
      List.length_append, h]
    split <;> [split <;> [split; skip]; skip] <;> congr 1 <;> omega

/-- What one line under a key becomes in its cells, a read of it under that key undoes. -/
theorem xexLine_back (key line : Bytes) (addr : Nat) (h : line.length = 64) :
    xexLine (aesBack (roundKeys128 key)) (roundKeys128 key) addr
      (xexLine (aesRounds (roundKeys128 key)) (roundKeys128 key) addr line) = line := by
  have piece (j : Nat) (hj : j < 4) : (slice line (16 * j) 16).length = 16 := by simp [slice, h]; omega
  have back (j : Nat) (hj : j < 4) := block_back key (xexTweak (roundKeys128 key) addr j) _ (xexTweak_length _ _ _) (piece j hj)
  have b0 := back 0 (by decide)
  have b1 := back 1 (by decide)
  have b2 := back 2 (by decide)
  have b3 := back 3 (by decide)
  have s4 := slice_four _ _ _ _ b0.2 b1.2 b2.2 b3.2
  have pieces (f : Nat → Bytes) : (List.range 4).flatMap f = f 0 ++ f 1 ++ f 2 ++ f 3 := by simp [List.range_succ]
  simp only [xexLine, pieces, Nat.reduceMul] at *
  rw [s4.1, s4.2.1, s4.2.2.1, s4.2.2.2, b0.1, b1.1, b2.1, b3.1, line_four line h]

/-- A read that finds a line gives the data written to it (R212, R381). -/
theorem readLine_lineCells (s : State) (t : LineTag) (addr : Nat) (line : Bytes) (h : line.length = 64)
    (found : t.readable s t.owner = true) : readLine s t t.owner addr (lineCells s.own.sramRoot t addr line) = line := by
  have e : t.epoch = epochOf s t.owner := by simp [LineTag.readable] at found; exact found.2
  simp only [readLine, found, if_true, lineCells, ← e]
  exact xexLine_back _ _ _ h

/-- A read that does not find a line gives zeros (R212). -/
theorem readLine_zeros (s : State) (t : LineTag) (reader : BitVec 3) (addr : Nat) (cells : Bytes)
    (lost : t.readable s reader = false) : readLine s t reader addr cells = List.replicate 64 0 := by
  simp [readLine, lost]

end Sys2Proof.Machine
end

