-- ==== Sys2Proof/Laws/State.lean ====
section
/-! SUPPORT. What each change of one part of the state leaves of the others, and what an indexed part reads after it. -/

namespace Sys2Proof.Machine

/-! ### Indexed parts -/

theorem rd_wr_self {α : Type} [Inhabited α] {n : Nat} (v : Vector α n) (i : Nat) (a : α) (h : i < n) : rd (wr v i a) i = a := by
  simp [rd, wr, h]

theorem rd_wr_ne {α : Type} [Inhabited α] {n : Nat} (v : Vector α n) {i j : Nat} (a : α) (h : i ≠ j) : rd (wr v i a) j = rd v j := by
  by_cases hj : j < n <;> simp [rd, wr, hj, h]

theorem rd_upd_self {α : Type} [Inhabited α] {n : Nat} (v : Vector α n) (i : Nat) (f : α → α) (h : i < n) :
    rd (upd v i f) i = f (rd v i) := rd_wr_self v i _ h

theorem rd_upd_ne {α : Type} [Inhabited α] {n : Nat} (v : Vector α n) {i j : Nat} (f : α → α) (h : i ≠ j) :
    rd (upd v i f) j = rd v j := rd_wr_ne v _ h

/-! ### The parts of the state -/

variable (s : State)

@[simp] theorem onClk_link (f : ClockState → ClockState) : (onClk f s).link = s.link := rfl
@[simp] theorem onClk_clk (f : ClockState → ClockState) : (onClk f s).clk = f s.clk := rfl
@[simp] theorem onClk_pwr (f : ClockState → ClockState) : (onClk f s).pwr = s.pwr := rfl
@[simp] theorem onClk_thm (f : ClockState → ClockState) : (onClk f s).thm = s.thm := rfl
@[simp] theorem onClk_pins (f : ClockState → ClockState) : (onClk f s).pins = s.pins := rfl
@[simp] theorem onClk_boot (f : ClockState → ClockState) : (onClk f s).boot = s.boot := rfl
@[simp] theorem onClk_nvm (f : ClockState → ClockState) : (onClk f s).nvm = s.nvm := rfl
@[simp] theorem onClk_cairn (f : ClockState → ClockState) : (onClk f s).cairn = s.cairn := rfl
@[simp] theorem onClk_afe (f : ClockState → ClockState) : (onClk f s).afe = s.afe := rfl
@[simp] theorem onClk_stm (f : ClockState → ClockState) : (onClk f s).stm = s.stm := rfl
@[simp] theorem onClk_feat (f : ClockState → ClockState) : (onClk f s).feat = s.feat := rfl
@[simp] theorem onClk_own (f : ClockState → ClockState) : (onClk f s).own = s.own := rfl
@[simp] theorem onClk_bly (f : ClockState → ClockState) : (onClk f s).bly = s.bly := rfl
@[simp] theorem onClk_mdl (f : ClockState → ClockState) : (onClk f s).mdl = s.mdl := rfl
@[simp] theorem onClk_lrn (f : ClockState → ClockState) : (onClk f s).lrn = s.lrn := rfl
@[simp] theorem onClk_rope (f : ClockState → ClockState) : (onClk f s).rope = s.rope := rfl
@[simp] theorem onClk_free (f : ClockState → ClockState) : (onClk f s).free = s.free := rfl
@[simp] theorem onClk_pending (f : ClockState → ClockState) : (onClk f s).pending = s.pending := rfl

@[simp] theorem onPwr_link (f : PowerBlock → PowerBlock) : (onPwr f s).link = s.link := rfl
@[simp] theorem onPwr_clk (f : PowerBlock → PowerBlock) : (onPwr f s).clk = s.clk := rfl
@[simp] theorem onPwr_pwr (f : PowerBlock → PowerBlock) : (onPwr f s).pwr = f s.pwr := rfl
@[simp] theorem onPwr_thm (f : PowerBlock → PowerBlock) : (onPwr f s).thm = s.thm := rfl
@[simp] theorem onPwr_pins (f : PowerBlock → PowerBlock) : (onPwr f s).pins = s.pins := rfl
@[simp] theorem onPwr_boot (f : PowerBlock → PowerBlock) : (onPwr f s).boot = s.boot := rfl
@[simp] theorem onPwr_nvm (f : PowerBlock → PowerBlock) : (onPwr f s).nvm = s.nvm := rfl
@[simp] theorem onPwr_cairn (f : PowerBlock → PowerBlock) : (onPwr f s).cairn = s.cairn := rfl
@[simp] theorem onPwr_afe (f : PowerBlock → PowerBlock) : (onPwr f s).afe = s.afe := rfl
@[simp] theorem onPwr_stm (f : PowerBlock → PowerBlock) : (onPwr f s).stm = s.stm := rfl
@[simp] theorem onPwr_feat (f : PowerBlock → PowerBlock) : (onPwr f s).feat = s.feat := rfl
@[simp] theorem onPwr_own (f : PowerBlock → PowerBlock) : (onPwr f s).own = s.own := rfl
@[simp] theorem onPwr_bly (f : PowerBlock → PowerBlock) : (onPwr f s).bly = s.bly := rfl
@[simp] theorem onPwr_mdl (f : PowerBlock → PowerBlock) : (onPwr f s).mdl = s.mdl := rfl
@[simp] theorem onPwr_lrn (f : PowerBlock → PowerBlock) : (onPwr f s).lrn = s.lrn := rfl
@[simp] theorem onPwr_rope (f : PowerBlock → PowerBlock) : (onPwr f s).rope = s.rope := rfl
@[simp] theorem onPwr_free (f : PowerBlock → PowerBlock) : (onPwr f s).free = s.free := rfl
@[simp] theorem onPwr_pending (f : PowerBlock → PowerBlock) : (onPwr f s).pending = s.pending := rfl

@[simp] theorem onBoot_link (f : BootState → BootState) : (onBoot f s).link = s.link := rfl
@[simp] theorem onBoot_clk (f : BootState → BootState) : (onBoot f s).clk = s.clk := rfl
@[simp] theorem onBoot_pwr (f : BootState → BootState) : (onBoot f s).pwr = s.pwr := rfl
@[simp] theorem onBoot_thm (f : BootState → BootState) : (onBoot f s).thm = s.thm := rfl
@[simp] theorem onBoot_pins (f : BootState → BootState) : (onBoot f s).pins = s.pins := rfl
@[simp] theorem onBoot_boot (f : BootState → BootState) : (onBoot f s).boot = f s.boot := rfl
@[simp] theorem onBoot_nvm (f : BootState → BootState) : (onBoot f s).nvm = s.nvm := rfl
@[simp] theorem onBoot_cairn (f : BootState → BootState) : (onBoot f s).cairn = s.cairn := rfl
@[simp] theorem onBoot_afe (f : BootState → BootState) : (onBoot f s).afe = s.afe := rfl
@[simp] theorem onBoot_stm (f : BootState → BootState) : (onBoot f s).stm = s.stm := rfl
@[simp] theorem onBoot_feat (f : BootState → BootState) : (onBoot f s).feat = s.feat := rfl
@[simp] theorem onBoot_own (f : BootState → BootState) : (onBoot f s).own = s.own := rfl
@[simp] theorem onBoot_bly (f : BootState → BootState) : (onBoot f s).bly = s.bly := rfl
@[simp] theorem onBoot_mdl (f : BootState → BootState) : (onBoot f s).mdl = s.mdl := rfl
@[simp] theorem onBoot_lrn (f : BootState → BootState) : (onBoot f s).lrn = s.lrn := rfl
@[simp] theorem onBoot_rope (f : BootState → BootState) : (onBoot f s).rope = s.rope := rfl
@[simp] theorem onBoot_free (f : BootState → BootState) : (onBoot f s).free = s.free := rfl
@[simp] theorem onBoot_pending (f : BootState → BootState) : (onBoot f s).pending = s.pending := rfl

@[simp] theorem onOwn_link (f : OwnerState → OwnerState) : (onOwn f s).link = s.link := rfl
@[simp] theorem onOwn_clk (f : OwnerState → OwnerState) : (onOwn f s).clk = s.clk := rfl
@[simp] theorem onOwn_pwr (f : OwnerState → OwnerState) : (onOwn f s).pwr = s.pwr := rfl
@[simp] theorem onOwn_thm (f : OwnerState → OwnerState) : (onOwn f s).thm = s.thm := rfl
@[simp] theorem onOwn_pins (f : OwnerState → OwnerState) : (onOwn f s).pins = s.pins := rfl
@[simp] theorem onOwn_boot (f : OwnerState → OwnerState) : (onOwn f s).boot = s.boot := rfl
@[simp] theorem onOwn_nvm (f : OwnerState → OwnerState) : (onOwn f s).nvm = s.nvm := rfl
@[simp] theorem onOwn_cairn (f : OwnerState → OwnerState) : (onOwn f s).cairn = s.cairn := rfl
@[simp] theorem onOwn_afe (f : OwnerState → OwnerState) : (onOwn f s).afe = s.afe := rfl
@[simp] theorem onOwn_stm (f : OwnerState → OwnerState) : (onOwn f s).stm = s.stm := rfl
@[simp] theorem onOwn_feat (f : OwnerState → OwnerState) : (onOwn f s).feat = s.feat := rfl
@[simp] theorem onOwn_own (f : OwnerState → OwnerState) : (onOwn f s).own = f s.own := rfl
@[simp] theorem onOwn_bly (f : OwnerState → OwnerState) : (onOwn f s).bly = s.bly := rfl
@[simp] theorem onOwn_mdl (f : OwnerState → OwnerState) : (onOwn f s).mdl = s.mdl := rfl
@[simp] theorem onOwn_lrn (f : OwnerState → OwnerState) : (onOwn f s).lrn = s.lrn := rfl
@[simp] theorem onOwn_rope (f : OwnerState → OwnerState) : (onOwn f s).rope = s.rope := rfl
@[simp] theorem onOwn_free (f : OwnerState → OwnerState) : (onOwn f s).free = s.free := rfl
@[simp] theorem onOwn_pending (f : OwnerState → OwnerState) : (onOwn f s).pending = s.pending := rfl

@[simp] theorem onCairn_link (f : CairnState → CairnState) : (onCairn f s).link = s.link := rfl
@[simp] theorem onCairn_clk (f : CairnState → CairnState) : (onCairn f s).clk = s.clk := rfl
@[simp] theorem onCairn_pwr (f : CairnState → CairnState) : (onCairn f s).pwr = s.pwr := rfl
@[simp] theorem onCairn_thm (f : CairnState → CairnState) : (onCairn f s).thm = s.thm := rfl
@[simp] theorem onCairn_pins (f : CairnState → CairnState) : (onCairn f s).pins = s.pins := rfl
@[simp] theorem onCairn_boot (f : CairnState → CairnState) : (onCairn f s).boot = s.boot := rfl
@[simp] theorem onCairn_nvm (f : CairnState → CairnState) : (onCairn f s).nvm = s.nvm := rfl
@[simp] theorem onCairn_cairn (f : CairnState → CairnState) : (onCairn f s).cairn = f s.cairn := rfl
@[simp] theorem onCairn_afe (f : CairnState → CairnState) : (onCairn f s).afe = s.afe := rfl
@[simp] theorem onCairn_stm (f : CairnState → CairnState) : (onCairn f s).stm = s.stm := rfl
@[simp] theorem onCairn_feat (f : CairnState → CairnState) : (onCairn f s).feat = s.feat := rfl
@[simp] theorem onCairn_own (f : CairnState → CairnState) : (onCairn f s).own = s.own := rfl
@[simp] theorem onCairn_bly (f : CairnState → CairnState) : (onCairn f s).bly = s.bly := rfl
@[simp] theorem onCairn_mdl (f : CairnState → CairnState) : (onCairn f s).mdl = s.mdl := rfl
@[simp] theorem onCairn_lrn (f : CairnState → CairnState) : (onCairn f s).lrn = s.lrn := rfl
@[simp] theorem onCairn_rope (f : CairnState → CairnState) : (onCairn f s).rope = s.rope := rfl
@[simp] theorem onCairn_free (f : CairnState → CairnState) : (onCairn f s).free = s.free := rfl
@[simp] theorem onCairn_pending (f : CairnState → CairnState) : (onCairn f s).pending = s.pending := rfl

@[simp] theorem onRm_link (f : ModelBlock → ModelBlock) : (onRm f s).link = s.link := rfl
@[simp] theorem onRm_clk (f : ModelBlock → ModelBlock) : (onRm f s).clk = s.clk := rfl
@[simp] theorem onRm_pwr (f : ModelBlock → ModelBlock) : (onRm f s).pwr = s.pwr := rfl
@[simp] theorem onRm_thm (f : ModelBlock → ModelBlock) : (onRm f s).thm = s.thm := rfl
@[simp] theorem onRm_pins (f : ModelBlock → ModelBlock) : (onRm f s).pins = s.pins := rfl
@[simp] theorem onRm_boot (f : ModelBlock → ModelBlock) : (onRm f s).boot = s.boot := rfl
@[simp] theorem onRm_nvm (f : ModelBlock → ModelBlock) : (onRm f s).nvm = s.nvm := rfl
@[simp] theorem onRm_cairn (f : ModelBlock → ModelBlock) : (onRm f s).cairn = s.cairn := rfl
@[simp] theorem onRm_afe (f : ModelBlock → ModelBlock) : (onRm f s).afe = s.afe := rfl
@[simp] theorem onRm_stm (f : ModelBlock → ModelBlock) : (onRm f s).stm = s.stm := rfl
@[simp] theorem onRm_feat (f : ModelBlock → ModelBlock) : (onRm f s).feat = s.feat := rfl
@[simp] theorem onRm_own (f : ModelBlock → ModelBlock) : (onRm f s).own = s.own := rfl
@[simp] theorem onRm_bly (f : ModelBlock → ModelBlock) : (onRm f s).bly = s.bly := rfl
@[simp] theorem onRm_mdl (f : ModelBlock → ModelBlock) : (onRm f s).mdl = f s.mdl := rfl
@[simp] theorem onRm_lrn (f : ModelBlock → ModelBlock) : (onRm f s).lrn = s.lrn := rfl
@[simp] theorem onRm_rope (f : ModelBlock → ModelBlock) : (onRm f s).rope = s.rope := rfl
@[simp] theorem onRm_free (f : ModelBlock → ModelBlock) : (onRm f s).free = s.free := rfl
@[simp] theorem onRm_pending (f : ModelBlock → ModelBlock) : (onRm f s).pending = s.pending := rfl

@[simp] theorem onRope_link (f : RopeState → RopeState) : (onRope f s).link = s.link := rfl
@[simp] theorem onRope_clk (f : RopeState → RopeState) : (onRope f s).clk = s.clk := rfl
@[simp] theorem onRope_pwr (f : RopeState → RopeState) : (onRope f s).pwr = s.pwr := rfl
@[simp] theorem onRope_thm (f : RopeState → RopeState) : (onRope f s).thm = s.thm := rfl
@[simp] theorem onRope_pins (f : RopeState → RopeState) : (onRope f s).pins = s.pins := rfl
@[simp] theorem onRope_boot (f : RopeState → RopeState) : (onRope f s).boot = s.boot := rfl
@[simp] theorem onRope_nvm (f : RopeState → RopeState) : (onRope f s).nvm = s.nvm := rfl
@[simp] theorem onRope_cairn (f : RopeState → RopeState) : (onRope f s).cairn = s.cairn := rfl
@[simp] theorem onRope_afe (f : RopeState → RopeState) : (onRope f s).afe = s.afe := rfl
@[simp] theorem onRope_stm (f : RopeState → RopeState) : (onRope f s).stm = s.stm := rfl
@[simp] theorem onRope_feat (f : RopeState → RopeState) : (onRope f s).feat = s.feat := rfl
@[simp] theorem onRope_own (f : RopeState → RopeState) : (onRope f s).own = s.own := rfl
@[simp] theorem onRope_bly (f : RopeState → RopeState) : (onRope f s).bly = s.bly := rfl
@[simp] theorem onRope_mdl (f : RopeState → RopeState) : (onRope f s).mdl = s.mdl := rfl
@[simp] theorem onRope_lrn (f : RopeState → RopeState) : (onRope f s).lrn = s.lrn := rfl
@[simp] theorem onRope_rope (f : RopeState → RopeState) : (onRope f s).rope = f s.rope := rfl
@[simp] theorem onRope_free (f : RopeState → RopeState) : (onRope f s).free = s.free := rfl
@[simp] theorem onRope_pending (f : RopeState → RopeState) : (onRope f s).pending = s.pending := rfl

@[simp] theorem onChannel_link (n : Nat) (f : Channel → Channel) : (onChannel n f s).link = s.link := rfl
@[simp] theorem onChannel_clk (n : Nat) (f : Channel → Channel) : (onChannel n f s).clk = s.clk := rfl
@[simp] theorem onChannel_pwr (n : Nat) (f : Channel → Channel) : (onChannel n f s).pwr = s.pwr := rfl
@[simp] theorem onChannel_thm (n : Nat) (f : Channel → Channel) : (onChannel n f s).thm = s.thm := rfl
@[simp] theorem onChannel_pins (n : Nat) (f : Channel → Channel) : (onChannel n f s).pins = s.pins := rfl
@[simp] theorem onChannel_boot (n : Nat) (f : Channel → Channel) : (onChannel n f s).boot = s.boot := rfl
@[simp] theorem onChannel_nvm (n : Nat) (f : Channel → Channel) : (onChannel n f s).nvm = s.nvm := rfl
@[simp] theorem onChannel_cairn (n : Nat) (f : Channel → Channel) : (onChannel n f s).cairn = s.cairn := rfl
@[simp] theorem onChannel_afe (n : Nat) (f : Channel → Channel) : (onChannel n f s).afe = { s.afe with channels := upd s.afe.channels n f } := rfl
@[simp] theorem onChannel_stm (n : Nat) (f : Channel → Channel) : (onChannel n f s).stm = s.stm := rfl
@[simp] theorem onChannel_feat (n : Nat) (f : Channel → Channel) : (onChannel n f s).feat = s.feat := rfl
@[simp] theorem onChannel_own (n : Nat) (f : Channel → Channel) : (onChannel n f s).own = s.own := rfl
@[simp] theorem onChannel_bly (n : Nat) (f : Channel → Channel) : (onChannel n f s).bly = s.bly := rfl
@[simp] theorem onChannel_mdl (n : Nat) (f : Channel → Channel) : (onChannel n f s).mdl = s.mdl := rfl
@[simp] theorem onChannel_lrn (n : Nat) (f : Channel → Channel) : (onChannel n f s).lrn = s.lrn := rfl
@[simp] theorem onChannel_rope (n : Nat) (f : Channel → Channel) : (onChannel n f s).rope = s.rope := rfl
@[simp] theorem onChannel_free (n : Nat) (f : Channel → Channel) : (onChannel n f s).free = s.free := rfl
@[simp] theorem onChannel_pending (n : Nat) (f : Channel → Channel) : (onChannel n f s).pending = s.pending := rfl

@[simp] theorem onPair_link (n : Nat) (f : Pair → Pair) : (onPair n f s).link = s.link := rfl
@[simp] theorem onPair_clk (n : Nat) (f : Pair → Pair) : (onPair n f s).clk = s.clk := rfl
@[simp] theorem onPair_pwr (n : Nat) (f : Pair → Pair) : (onPair n f s).pwr = s.pwr := rfl
@[simp] theorem onPair_thm (n : Nat) (f : Pair → Pair) : (onPair n f s).thm = s.thm := rfl
@[simp] theorem onPair_pins (n : Nat) (f : Pair → Pair) : (onPair n f s).pins = s.pins := rfl
@[simp] theorem onPair_boot (n : Nat) (f : Pair → Pair) : (onPair n f s).boot = s.boot := rfl
@[simp] theorem onPair_nvm (n : Nat) (f : Pair → Pair) : (onPair n f s).nvm = s.nvm := rfl
@[simp] theorem onPair_cairn (n : Nat) (f : Pair → Pair) : (onPair n f s).cairn = s.cairn := rfl
@[simp] theorem onPair_afe (n : Nat) (f : Pair → Pair) : (onPair n f s).afe = { s.afe with pairs := upd s.afe.pairs n f } := rfl
@[simp] theorem onPair_stm (n : Nat) (f : Pair → Pair) : (onPair n f s).stm = s.stm := rfl
@[simp] theorem onPair_feat (n : Nat) (f : Pair → Pair) : (onPair n f s).feat = s.feat := rfl
@[simp] theorem onPair_own (n : Nat) (f : Pair → Pair) : (onPair n f s).own = s.own := rfl
@[simp] theorem onPair_bly (n : Nat) (f : Pair → Pair) : (onPair n f s).bly = s.bly := rfl
@[simp] theorem onPair_mdl (n : Nat) (f : Pair → Pair) : (onPair n f s).mdl = s.mdl := rfl
@[simp] theorem onPair_lrn (n : Nat) (f : Pair → Pair) : (onPair n f s).lrn = s.lrn := rfl
@[simp] theorem onPair_rope (n : Nat) (f : Pair → Pair) : (onPair n f s).rope = s.rope := rfl
@[simp] theorem onPair_free (n : Nat) (f : Pair → Pair) : (onPair n f s).free = s.free := rfl
@[simp] theorem onPair_pending (n : Nat) (f : Pair → Pair) : (onPair n f s).pending = s.pending := rfl

@[simp] theorem onAsset_link (n : Nat) (f : Asset → Asset) : (onAsset n f s).link = s.link := rfl
@[simp] theorem onAsset_clk (n : Nat) (f : Asset → Asset) : (onAsset n f s).clk = s.clk := rfl
@[simp] theorem onAsset_pwr (n : Nat) (f : Asset → Asset) : (onAsset n f s).pwr = s.pwr := rfl
@[simp] theorem onAsset_thm (n : Nat) (f : Asset → Asset) : (onAsset n f s).thm = s.thm := rfl
@[simp] theorem onAsset_pins (n : Nat) (f : Asset → Asset) : (onAsset n f s).pins = s.pins := rfl
@[simp] theorem onAsset_boot (n : Nat) (f : Asset → Asset) : (onAsset n f s).boot = s.boot := rfl
@[simp] theorem onAsset_nvm (n : Nat) (f : Asset → Asset) : (onAsset n f s).nvm = s.nvm := rfl
@[simp] theorem onAsset_cairn (n : Nat) (f : Asset → Asset) : (onAsset n f s).cairn = s.cairn := rfl
@[simp] theorem onAsset_afe (n : Nat) (f : Asset → Asset) : (onAsset n f s).afe = s.afe := rfl
@[simp] theorem onAsset_stm (n : Nat) (f : Asset → Asset) : (onAsset n f s).stm = s.stm := rfl
@[simp] theorem onAsset_feat (n : Nat) (f : Asset → Asset) : (onAsset n f s).feat = s.feat := rfl
@[simp] theorem onAsset_own (n : Nat) (f : Asset → Asset) : (onAsset n f s).own = s.own := rfl
@[simp] theorem onAsset_bly (n : Nat) (f : Asset → Asset) : (onAsset n f s).bly = { s.bly with assets := upd s.bly.assets n f } := rfl
@[simp] theorem onAsset_mdl (n : Nat) (f : Asset → Asset) : (onAsset n f s).mdl = s.mdl := rfl
@[simp] theorem onAsset_lrn (n : Nat) (f : Asset → Asset) : (onAsset n f s).lrn = s.lrn := rfl
@[simp] theorem onAsset_rope (n : Nat) (f : Asset → Asset) : (onAsset n f s).rope = s.rope := rfl
@[simp] theorem onAsset_free (n : Nat) (f : Asset → Asset) : (onAsset n f s).free = s.free := rfl
@[simp] theorem onAsset_pending (n : Nat) (f : Asset → Asset) : (onAsset n f s).pending = s.pending := rfl

@[simp] theorem onFeature_link (n : Nat) (f : FeatureStream → FeatureStream) : (onFeature n f s).link = s.link := rfl
@[simp] theorem onFeature_clk (n : Nat) (f : FeatureStream → FeatureStream) : (onFeature n f s).clk = s.clk := rfl
@[simp] theorem onFeature_pwr (n : Nat) (f : FeatureStream → FeatureStream) : (onFeature n f s).pwr = s.pwr := rfl
@[simp] theorem onFeature_thm (n : Nat) (f : FeatureStream → FeatureStream) : (onFeature n f s).thm = s.thm := rfl
@[simp] theorem onFeature_pins (n : Nat) (f : FeatureStream → FeatureStream) : (onFeature n f s).pins = s.pins := rfl
@[simp] theorem onFeature_boot (n : Nat) (f : FeatureStream → FeatureStream) : (onFeature n f s).boot = s.boot := rfl
@[simp] theorem onFeature_nvm (n : Nat) (f : FeatureStream → FeatureStream) : (onFeature n f s).nvm = s.nvm := rfl
@[simp] theorem onFeature_cairn (n : Nat) (f : FeatureStream → FeatureStream) : (onFeature n f s).cairn = s.cairn := rfl
@[simp] theorem onFeature_afe (n : Nat) (f : FeatureStream → FeatureStream) : (onFeature n f s).afe = s.afe := rfl
@[simp] theorem onFeature_stm (n : Nat) (f : FeatureStream → FeatureStream) : (onFeature n f s).stm = s.stm := rfl
@[simp] theorem onFeature_feat (n : Nat) (f : FeatureStream → FeatureStream) : (onFeature n f s).feat = { s.feat with streams := upd s.feat.streams n f } := rfl
@[simp] theorem onFeature_own (n : Nat) (f : FeatureStream → FeatureStream) : (onFeature n f s).own = s.own := rfl
@[simp] theorem onFeature_bly (n : Nat) (f : FeatureStream → FeatureStream) : (onFeature n f s).bly = s.bly := rfl
@[simp] theorem onFeature_mdl (n : Nat) (f : FeatureStream → FeatureStream) : (onFeature n f s).mdl = s.mdl := rfl
@[simp] theorem onFeature_lrn (n : Nat) (f : FeatureStream → FeatureStream) : (onFeature n f s).lrn = s.lrn := rfl
@[simp] theorem onFeature_rope (n : Nat) (f : FeatureStream → FeatureStream) : (onFeature n f s).rope = s.rope := rfl
@[simp] theorem onFeature_free (n : Nat) (f : FeatureStream → FeatureStream) : (onFeature n f s).free = s.free := rfl
@[simp] theorem onFeature_pending (n : Nat) (f : FeatureStream → FeatureStream) : (onFeature n f s).pending = s.pending := rfl

@[simp] theorem onPort_link (n : Nat) (f : Port → Port) : (onPort n f s).link = s.link := rfl
@[simp] theorem onPort_clk (n : Nat) (f : Port → Port) : (onPort n f s).clk = s.clk := rfl
@[simp] theorem onPort_pwr (n : Nat) (f : Port → Port) : (onPort n f s).pwr = s.pwr := rfl
@[simp] theorem onPort_thm (n : Nat) (f : Port → Port) : (onPort n f s).thm = s.thm := rfl
@[simp] theorem onPort_pins (n : Nat) (f : Port → Port) : (onPort n f s).pins = s.pins := rfl
@[simp] theorem onPort_boot (n : Nat) (f : Port → Port) : (onPort n f s).boot = s.boot := rfl
@[simp] theorem onPort_nvm (n : Nat) (f : Port → Port) : (onPort n f s).nvm = s.nvm := rfl
@[simp] theorem onPort_cairn (n : Nat) (f : Port → Port) : (onPort n f s).cairn = s.cairn := rfl
@[simp] theorem onPort_afe (n : Nat) (f : Port → Port) : (onPort n f s).afe = s.afe := rfl
@[simp] theorem onPort_stm (n : Nat) (f : Port → Port) : (onPort n f s).stm = { s.stm with ports := upd s.stm.ports n f } := rfl
@[simp] theorem onPort_feat (n : Nat) (f : Port → Port) : (onPort n f s).feat = s.feat := rfl
@[simp] theorem onPort_own (n : Nat) (f : Port → Port) : (onPort n f s).own = s.own := rfl
@[simp] theorem onPort_bly (n : Nat) (f : Port → Port) : (onPort n f s).bly = s.bly := rfl
@[simp] theorem onPort_mdl (n : Nat) (f : Port → Port) : (onPort n f s).mdl = s.mdl := rfl
@[simp] theorem onPort_lrn (n : Nat) (f : Port → Port) : (onPort n f s).lrn = s.lrn := rfl
@[simp] theorem onPort_rope (n : Nat) (f : Port → Port) : (onPort n f s).rope = s.rope := rfl
@[simp] theorem onPort_free (n : Nat) (f : Port → Port) : (onPort n f s).free = s.free := rfl
@[simp] theorem onPort_pending (n : Nat) (f : Port → Port) : (onPort n f s).pending = s.pending := rfl

@[simp] theorem onStream_link (n : Nat) (f : Strm → Strm) : (onStream n f s).link = s.link := rfl
@[simp] theorem onStream_clk (n : Nat) (f : Strm → Strm) : (onStream n f s).clk = s.clk := rfl
@[simp] theorem onStream_pwr (n : Nat) (f : Strm → Strm) : (onStream n f s).pwr = s.pwr := rfl
@[simp] theorem onStream_thm (n : Nat) (f : Strm → Strm) : (onStream n f s).thm = s.thm := rfl
@[simp] theorem onStream_pins (n : Nat) (f : Strm → Strm) : (onStream n f s).pins = s.pins := rfl
@[simp] theorem onStream_boot (n : Nat) (f : Strm → Strm) : (onStream n f s).boot = s.boot := rfl
@[simp] theorem onStream_nvm (n : Nat) (f : Strm → Strm) : (onStream n f s).nvm = s.nvm := rfl
@[simp] theorem onStream_cairn (n : Nat) (f : Strm → Strm) : (onStream n f s).cairn = s.cairn := rfl
@[simp] theorem onStream_afe (n : Nat) (f : Strm → Strm) : (onStream n f s).afe = s.afe := rfl
@[simp] theorem onStream_stm (n : Nat) (f : Strm → Strm) : (onStream n f s).stm = { s.stm with streams := upd s.stm.streams n f } := rfl
@[simp] theorem onStream_feat (n : Nat) (f : Strm → Strm) : (onStream n f s).feat = s.feat := rfl
@[simp] theorem onStream_own (n : Nat) (f : Strm → Strm) : (onStream n f s).own = s.own := rfl
@[simp] theorem onStream_bly (n : Nat) (f : Strm → Strm) : (onStream n f s).bly = s.bly := rfl
@[simp] theorem onStream_mdl (n : Nat) (f : Strm → Strm) : (onStream n f s).mdl = s.mdl := rfl
@[simp] theorem onStream_lrn (n : Nat) (f : Strm → Strm) : (onStream n f s).lrn = s.lrn := rfl
@[simp] theorem onStream_rope (n : Nat) (f : Strm → Strm) : (onStream n f s).rope = s.rope := rfl
@[simp] theorem onStream_free (n : Nat) (f : Strm → Strm) : (onStream n f s).free = s.free := rfl
@[simp] theorem onStream_pending (n : Nat) (f : Strm → Strm) : (onStream n f s).pending = s.pending := rfl

@[simp] theorem onFw_link (n : Nat) (f : FwSlot → FwSlot) : (onFw n f s).link = s.link := rfl
@[simp] theorem onFw_clk (n : Nat) (f : FwSlot → FwSlot) : (onFw n f s).clk = s.clk := rfl
@[simp] theorem onFw_pwr (n : Nat) (f : FwSlot → FwSlot) : (onFw n f s).pwr = s.pwr := rfl
@[simp] theorem onFw_thm (n : Nat) (f : FwSlot → FwSlot) : (onFw n f s).thm = s.thm := rfl
@[simp] theorem onFw_pins (n : Nat) (f : FwSlot → FwSlot) : (onFw n f s).pins = s.pins := rfl
@[simp] theorem onFw_boot (n : Nat) (f : FwSlot → FwSlot) : (onFw n f s).boot = { s.boot with slots := upd s.boot.slots n f } := rfl
@[simp] theorem onFw_nvm (n : Nat) (f : FwSlot → FwSlot) : (onFw n f s).nvm = s.nvm := rfl
@[simp] theorem onFw_cairn (n : Nat) (f : FwSlot → FwSlot) : (onFw n f s).cairn = s.cairn := rfl
@[simp] theorem onFw_afe (n : Nat) (f : FwSlot → FwSlot) : (onFw n f s).afe = s.afe := rfl
@[simp] theorem onFw_stm (n : Nat) (f : FwSlot → FwSlot) : (onFw n f s).stm = s.stm := rfl
@[simp] theorem onFw_feat (n : Nat) (f : FwSlot → FwSlot) : (onFw n f s).feat = s.feat := rfl
@[simp] theorem onFw_own (n : Nat) (f : FwSlot → FwSlot) : (onFw n f s).own = s.own := rfl
@[simp] theorem onFw_bly (n : Nat) (f : FwSlot → FwSlot) : (onFw n f s).bly = s.bly := rfl
@[simp] theorem onFw_mdl (n : Nat) (f : FwSlot → FwSlot) : (onFw n f s).mdl = s.mdl := rfl
@[simp] theorem onFw_lrn (n : Nat) (f : FwSlot → FwSlot) : (onFw n f s).lrn = s.lrn := rfl
@[simp] theorem onFw_rope (n : Nat) (f : FwSlot → FwSlot) : (onFw n f s).rope = s.rope := rfl
@[simp] theorem onFw_free (n : Nat) (f : FwSlot → FwSlot) : (onFw n f s).free = s.free := rfl
@[simp] theorem onFw_pending (n : Nat) (f : FwSlot → FwSlot) : (onFw n f s).pending = s.pending := rfl

@[simp] theorem onHead_link (n : Nat) (f : Head → Head) : (onHead n f s).link = s.link := rfl
@[simp] theorem onHead_clk (n : Nat) (f : Head → Head) : (onHead n f s).clk = s.clk := rfl
@[simp] theorem onHead_pwr (n : Nat) (f : Head → Head) : (onHead n f s).pwr = s.pwr := rfl
@[simp] theorem onHead_thm (n : Nat) (f : Head → Head) : (onHead n f s).thm = s.thm := rfl
@[simp] theorem onHead_pins (n : Nat) (f : Head → Head) : (onHead n f s).pins = s.pins := rfl
@[simp] theorem onHead_boot (n : Nat) (f : Head → Head) : (onHead n f s).boot = s.boot := rfl
@[simp] theorem onHead_nvm (n : Nat) (f : Head → Head) : (onHead n f s).nvm = s.nvm := rfl
@[simp] theorem onHead_cairn (n : Nat) (f : Head → Head) : (onHead n f s).cairn = s.cairn := rfl
@[simp] theorem onHead_afe (n : Nat) (f : Head → Head) : (onHead n f s).afe = s.afe := rfl
@[simp] theorem onHead_stm (n : Nat) (f : Head → Head) : (onHead n f s).stm = s.stm := rfl
@[simp] theorem onHead_feat (n : Nat) (f : Head → Head) : (onHead n f s).feat = s.feat := rfl
@[simp] theorem onHead_own (n : Nat) (f : Head → Head) : (onHead n f s).own = s.own := rfl
@[simp] theorem onHead_bly (n : Nat) (f : Head → Head) : (onHead n f s).bly = s.bly := rfl
@[simp] theorem onHead_mdl (n : Nat) (f : Head → Head) : (onHead n f s).mdl = s.mdl := rfl
@[simp] theorem onHead_lrn (n : Nat) (f : Head → Head) : (onHead n f s).lrn = { s.lrn with heads := upd s.lrn.heads n f } := rfl
@[simp] theorem onHead_rope (n : Nat) (f : Head → Head) : (onHead n f s).rope = s.rope := rfl
@[simp] theorem onHead_free (n : Nat) (f : Head → Head) : (onHead n f s).free = s.free := rfl
@[simp] theorem onHead_pending (n : Nat) (f : Head → Head) : (onHead n f s).pending = s.pending := rfl

@[simp] theorem onCore_link (n : Nat) (f : Core → Core) : (onCore n f s).link = s.link := rfl
@[simp] theorem onCore_clk (n : Nat) (f : Core → Core) : (onCore n f s).clk = s.clk := rfl
@[simp] theorem onCore_pwr (n : Nat) (f : Core → Core) : (onCore n f s).pwr = s.pwr := rfl
@[simp] theorem onCore_thm (n : Nat) (f : Core → Core) : (onCore n f s).thm = s.thm := rfl
@[simp] theorem onCore_pins (n : Nat) (f : Core → Core) : (onCore n f s).pins = s.pins := rfl
@[simp] theorem onCore_boot (n : Nat) (f : Core → Core) : (onCore n f s).boot = s.boot := rfl
@[simp] theorem onCore_nvm (n : Nat) (f : Core → Core) : (onCore n f s).nvm = s.nvm := rfl
@[simp] theorem onCore_cairn (n : Nat) (f : Core → Core) : (onCore n f s).cairn = s.cairn := rfl
@[simp] theorem onCore_afe (n : Nat) (f : Core → Core) : (onCore n f s).afe = s.afe := rfl
@[simp] theorem onCore_stm (n : Nat) (f : Core → Core) : (onCore n f s).stm = s.stm := rfl
@[simp] theorem onCore_feat (n : Nat) (f : Core → Core) : (onCore n f s).feat = s.feat := rfl
@[simp] theorem onCore_own (n : Nat) (f : Core → Core) : (onCore n f s).own = s.own := rfl
@[simp] theorem onCore_bly (n : Nat) (f : Core → Core) : (onCore n f s).bly = s.bly := rfl
@[simp] theorem onCore_mdl (n : Nat) (f : Core → Core) : (onCore n f s).mdl = s.mdl := rfl
@[simp] theorem onCore_lrn (n : Nat) (f : Core → Core) : (onCore n f s).lrn = { s.lrn with cores := upd s.lrn.cores n f } := rfl
@[simp] theorem onCore_rope (n : Nat) (f : Core → Core) : (onCore n f s).rope = s.rope := rfl
@[simp] theorem onCore_free (n : Nat) (f : Core → Core) : (onCore n f s).free = s.free := rfl
@[simp] theorem onCore_pending (n : Nat) (f : Core → Core) : (onCore n f s).pending = s.pending := rfl

@[simp] theorem onModel_link (n : Nat) (f : Model → Model) : (onModel n f s).link = s.link := rfl
@[simp] theorem onModel_clk (n : Nat) (f : Model → Model) : (onModel n f s).clk = s.clk := rfl
@[simp] theorem onModel_pwr (n : Nat) (f : Model → Model) : (onModel n f s).pwr = s.pwr := rfl
@[simp] theorem onModel_thm (n : Nat) (f : Model → Model) : (onModel n f s).thm = s.thm := rfl
@[simp] theorem onModel_pins (n : Nat) (f : Model → Model) : (onModel n f s).pins = s.pins := rfl
@[simp] theorem onModel_boot (n : Nat) (f : Model → Model) : (onModel n f s).boot = s.boot := rfl
@[simp] theorem onModel_nvm (n : Nat) (f : Model → Model) : (onModel n f s).nvm = s.nvm := rfl
@[simp] theorem onModel_cairn (n : Nat) (f : Model → Model) : (onModel n f s).cairn = s.cairn := rfl
@[simp] theorem onModel_afe (n : Nat) (f : Model → Model) : (onModel n f s).afe = s.afe := rfl
@[simp] theorem onModel_stm (n : Nat) (f : Model → Model) : (onModel n f s).stm = s.stm := rfl
@[simp] theorem onModel_feat (n : Nat) (f : Model → Model) : (onModel n f s).feat = s.feat := rfl
@[simp] theorem onModel_own (n : Nat) (f : Model → Model) : (onModel n f s).own = s.own := rfl
@[simp] theorem onModel_bly (n : Nat) (f : Model → Model) : (onModel n f s).bly = s.bly := rfl
@[simp] theorem onModel_mdl (n : Nat) (f : Model → Model) : (onModel n f s).mdl = { s.mdl with slots := upd s.mdl.slots n f } := rfl
@[simp] theorem onModel_lrn (n : Nat) (f : Model → Model) : (onModel n f s).lrn = s.lrn := rfl
@[simp] theorem onModel_rope (n : Nat) (f : Model → Model) : (onModel n f s).rope = s.rope := rfl
@[simp] theorem onModel_free (n : Nat) (f : Model → Model) : (onModel n f s).free = s.free := rfl
@[simp] theorem onModel_pending (n : Nat) (f : Model → Model) : (onModel n f s).pending = s.pending := rfl

@[simp] theorem onArray_link (n : Nat) (f : CimArray → CimArray) : (onArray n f s).link = s.link := rfl
@[simp] theorem onArray_clk (n : Nat) (f : CimArray → CimArray) : (onArray n f s).clk = s.clk := rfl
@[simp] theorem onArray_pwr (n : Nat) (f : CimArray → CimArray) : (onArray n f s).pwr = s.pwr := rfl
@[simp] theorem onArray_thm (n : Nat) (f : CimArray → CimArray) : (onArray n f s).thm = s.thm := rfl
@[simp] theorem onArray_pins (n : Nat) (f : CimArray → CimArray) : (onArray n f s).pins = s.pins := rfl
@[simp] theorem onArray_boot (n : Nat) (f : CimArray → CimArray) : (onArray n f s).boot = s.boot := rfl
@[simp] theorem onArray_nvm (n : Nat) (f : CimArray → CimArray) : (onArray n f s).nvm = s.nvm := rfl
@[simp] theorem onArray_cairn (n : Nat) (f : CimArray → CimArray) : (onArray n f s).cairn = s.cairn := rfl
@[simp] theorem onArray_afe (n : Nat) (f : CimArray → CimArray) : (onArray n f s).afe = s.afe := rfl
@[simp] theorem onArray_stm (n : Nat) (f : CimArray → CimArray) : (onArray n f s).stm = s.stm := rfl
@[simp] theorem onArray_feat (n : Nat) (f : CimArray → CimArray) : (onArray n f s).feat = s.feat := rfl
@[simp] theorem onArray_own (n : Nat) (f : CimArray → CimArray) : (onArray n f s).own = s.own := rfl
@[simp] theorem onArray_bly (n : Nat) (f : CimArray → CimArray) : (onArray n f s).bly = s.bly := rfl
@[simp] theorem onArray_mdl (n : Nat) (f : CimArray → CimArray) : (onArray n f s).mdl = { s.mdl with arrays := upd s.mdl.arrays n f } := rfl
@[simp] theorem onArray_lrn (n : Nat) (f : CimArray → CimArray) : (onArray n f s).lrn = s.lrn := rfl
@[simp] theorem onArray_rope (n : Nat) (f : CimArray → CimArray) : (onArray n f s).rope = s.rope := rfl
@[simp] theorem onArray_free (n : Nat) (f : CimArray → CimArray) : (onArray n f s).free = s.free := rfl
@[simp] theorem onArray_pending (n : Nat) (f : CimArray → CimArray) : (onArray n f s).pending = s.pending := rfl

@[simp] theorem onJob_link (n : Nat) (f : Job → Job) : (onJob n f s).link = s.link := rfl
@[simp] theorem onJob_clk (n : Nat) (f : Job → Job) : (onJob n f s).clk = s.clk := rfl
@[simp] theorem onJob_pwr (n : Nat) (f : Job → Job) : (onJob n f s).pwr = s.pwr := rfl
@[simp] theorem onJob_thm (n : Nat) (f : Job → Job) : (onJob n f s).thm = s.thm := rfl
@[simp] theorem onJob_pins (n : Nat) (f : Job → Job) : (onJob n f s).pins = s.pins := rfl
@[simp] theorem onJob_boot (n : Nat) (f : Job → Job) : (onJob n f s).boot = s.boot := rfl
@[simp] theorem onJob_nvm (n : Nat) (f : Job → Job) : (onJob n f s).nvm = s.nvm := rfl
@[simp] theorem onJob_cairn (n : Nat) (f : Job → Job) : (onJob n f s).cairn = s.cairn := rfl
@[simp] theorem onJob_afe (n : Nat) (f : Job → Job) : (onJob n f s).afe = s.afe := rfl
@[simp] theorem onJob_stm (n : Nat) (f : Job → Job) : (onJob n f s).stm = s.stm := rfl
@[simp] theorem onJob_feat (n : Nat) (f : Job → Job) : (onJob n f s).feat = s.feat := rfl
@[simp] theorem onJob_own (n : Nat) (f : Job → Job) : (onJob n f s).own = s.own := rfl
@[simp] theorem onJob_bly (n : Nat) (f : Job → Job) : (onJob n f s).bly = s.bly := rfl
@[simp] theorem onJob_mdl (n : Nat) (f : Job → Job) : (onJob n f s).mdl = { s.mdl with jobs := s.mdl.jobs.map fun x => if x.id == n then f x else x } := rfl
@[simp] theorem onJob_lrn (n : Nat) (f : Job → Job) : (onJob n f s).lrn = s.lrn := rfl
@[simp] theorem onJob_rope (n : Nat) (f : Job → Job) : (onJob n f s).rope = s.rope := rfl
@[simp] theorem onJob_free (n : Nat) (f : Job → Job) : (onJob n f s).free = s.free := rfl
@[simp] theorem onJob_pending (n : Nat) (f : Job → Job) : (onJob n f s).pending = s.pending := rfl

@[simp] theorem onQueued_link (n : Nat) (f : Frame → Frame) : (onQueued n f s).link = s.link := rfl
@[simp] theorem onQueued_clk (n : Nat) (f : Frame → Frame) : (onQueued n f s).clk = s.clk := rfl
@[simp] theorem onQueued_pwr (n : Nat) (f : Frame → Frame) : (onQueued n f s).pwr = s.pwr := rfl
@[simp] theorem onQueued_thm (n : Nat) (f : Frame → Frame) : (onQueued n f s).thm = s.thm := rfl
@[simp] theorem onQueued_pins (n : Nat) (f : Frame → Frame) : (onQueued n f s).pins = s.pins := rfl
@[simp] theorem onQueued_boot (n : Nat) (f : Frame → Frame) : (onQueued n f s).boot = s.boot := rfl
@[simp] theorem onQueued_nvm (n : Nat) (f : Frame → Frame) : (onQueued n f s).nvm = s.nvm := rfl
@[simp] theorem onQueued_cairn (n : Nat) (f : Frame → Frame) : (onQueued n f s).cairn = s.cairn := rfl
@[simp] theorem onQueued_afe (n : Nat) (f : Frame → Frame) : (onQueued n f s).afe = s.afe := rfl
@[simp] theorem onQueued_stm (n : Nat) (f : Frame → Frame) : (onQueued n f s).stm = s.stm := rfl
@[simp] theorem onQueued_feat (n : Nat) (f : Frame → Frame) : (onQueued n f s).feat = s.feat := rfl
@[simp] theorem onQueued_own (n : Nat) (f : Frame → Frame) : (onQueued n f s).own = s.own := rfl
@[simp] theorem onQueued_bly (n : Nat) (f : Frame → Frame) : (onQueued n f s).bly = s.bly := rfl
@[simp] theorem onQueued_mdl (n : Nat) (f : Frame → Frame) : (onQueued n f s).mdl = { s.mdl with frames := s.mdl.frames.map fun x => if x.id == n then f x else x } := rfl
@[simp] theorem onQueued_lrn (n : Nat) (f : Frame → Frame) : (onQueued n f s).lrn = s.lrn := rfl
@[simp] theorem onQueued_rope (n : Nat) (f : Frame → Frame) : (onQueued n f s).rope = s.rope := rfl
@[simp] theorem onQueued_free (n : Nat) (f : Frame → Frame) : (onQueued n f s).free = s.free := rfl
@[simp] theorem onQueued_pending (n : Nat) (f : Frame → Frame) : (onQueued n f s).pending = s.pending := rfl

@[simp] theorem onRopePort_link (n : Nat) (f : RopePort → RopePort) : (onRopePort n f s).link = s.link := rfl
@[simp] theorem onRopePort_clk (n : Nat) (f : RopePort → RopePort) : (onRopePort n f s).clk = s.clk := rfl
@[simp] theorem onRopePort_pwr (n : Nat) (f : RopePort → RopePort) : (onRopePort n f s).pwr = s.pwr := rfl
@[simp] theorem onRopePort_thm (n : Nat) (f : RopePort → RopePort) : (onRopePort n f s).thm = s.thm := rfl
@[simp] theorem onRopePort_pins (n : Nat) (f : RopePort → RopePort) : (onRopePort n f s).pins = s.pins := rfl
@[simp] theorem onRopePort_boot (n : Nat) (f : RopePort → RopePort) : (onRopePort n f s).boot = s.boot := rfl
@[simp] theorem onRopePort_nvm (n : Nat) (f : RopePort → RopePort) : (onRopePort n f s).nvm = s.nvm := rfl
@[simp] theorem onRopePort_cairn (n : Nat) (f : RopePort → RopePort) : (onRopePort n f s).cairn = s.cairn := rfl
@[simp] theorem onRopePort_afe (n : Nat) (f : RopePort → RopePort) : (onRopePort n f s).afe = s.afe := rfl
@[simp] theorem onRopePort_stm (n : Nat) (f : RopePort → RopePort) : (onRopePort n f s).stm = s.stm := rfl
@[simp] theorem onRopePort_feat (n : Nat) (f : RopePort → RopePort) : (onRopePort n f s).feat = s.feat := rfl
@[simp] theorem onRopePort_own (n : Nat) (f : RopePort → RopePort) : (onRopePort n f s).own = s.own := rfl
@[simp] theorem onRopePort_bly (n : Nat) (f : RopePort → RopePort) : (onRopePort n f s).bly = s.bly := rfl
@[simp] theorem onRopePort_mdl (n : Nat) (f : RopePort → RopePort) : (onRopePort n f s).mdl = s.mdl := rfl
@[simp] theorem onRopePort_lrn (n : Nat) (f : RopePort → RopePort) : (onRopePort n f s).lrn = s.lrn := rfl
@[simp] theorem onRopePort_rope (n : Nat) (f : RopePort → RopePort) : (onRopePort n f s).rope = { s.rope with ports := upd s.rope.ports n f } := rfl
@[simp] theorem onRopePort_free (n : Nat) (f : RopePort → RopePort) : (onRopePort n f s).free = s.free := rfl
@[simp] theorem onRopePort_pending (n : Nat) (f : RopePort → RopePort) : (onRopePort n f s).pending = s.pending := rfl

@[simp] theorem onRidge_link (n : Nat) (f : RidgeModel → RidgeModel) : (onRidge n f s).link = s.link := rfl
@[simp] theorem onRidge_clk (n : Nat) (f : RidgeModel → RidgeModel) : (onRidge n f s).clk = s.clk := rfl
@[simp] theorem onRidge_pwr (n : Nat) (f : RidgeModel → RidgeModel) : (onRidge n f s).pwr = s.pwr := rfl
@[simp] theorem onRidge_thm (n : Nat) (f : RidgeModel → RidgeModel) : (onRidge n f s).thm = s.thm := rfl
@[simp] theorem onRidge_pins (n : Nat) (f : RidgeModel → RidgeModel) : (onRidge n f s).pins = s.pins := rfl
@[simp] theorem onRidge_boot (n : Nat) (f : RidgeModel → RidgeModel) : (onRidge n f s).boot = s.boot := rfl
@[simp] theorem onRidge_nvm (n : Nat) (f : RidgeModel → RidgeModel) : (onRidge n f s).nvm = s.nvm := rfl
@[simp] theorem onRidge_cairn (n : Nat) (f : RidgeModel → RidgeModel) : (onRidge n f s).cairn = s.cairn := rfl
@[simp] theorem onRidge_afe (n : Nat) (f : RidgeModel → RidgeModel) : (onRidge n f s).afe = s.afe := rfl
@[simp] theorem onRidge_stm (n : Nat) (f : RidgeModel → RidgeModel) : (onRidge n f s).stm = s.stm := rfl
@[simp] theorem onRidge_feat (n : Nat) (f : RidgeModel → RidgeModel) : (onRidge n f s).feat = s.feat := rfl
@[simp] theorem onRidge_own (n : Nat) (f : RidgeModel → RidgeModel) : (onRidge n f s).own = s.own := rfl
@[simp] theorem onRidge_bly (n : Nat) (f : RidgeModel → RidgeModel) : (onRidge n f s).bly = s.bly := rfl
@[simp] theorem onRidge_mdl (n : Nat) (f : RidgeModel → RidgeModel) : (onRidge n f s).mdl = s.mdl := rfl
@[simp] theorem onRidge_lrn (n : Nat) (f : RidgeModel → RidgeModel) : (onRidge n f s).lrn = s.lrn := rfl
@[simp] theorem onRidge_rope (n : Nat) (f : RidgeModel → RidgeModel) : (onRidge n f s).rope = { s.rope with models := upd s.rope.models n f } := rfl
@[simp] theorem onRidge_free (n : Nat) (f : RidgeModel → RidgeModel) : (onRidge n f s).free = s.free := rfl
@[simp] theorem onRidge_pending (n : Nat) (f : RidgeModel → RidgeModel) : (onRidge n f s).pending = s.pending := rfl

@[simp] theorem onTap_link (f : TapState → TapState) : (onTap f s).link = s.link := rfl
@[simp] theorem onTap_clk (f : TapState → TapState) : (onTap f s).clk = s.clk := rfl
@[simp] theorem onTap_pwr (f : TapState → TapState) : (onTap f s).pwr = s.pwr := rfl
@[simp] theorem onTap_thm (f : TapState → TapState) : (onTap f s).thm = s.thm := rfl
@[simp] theorem onTap_pins (f : TapState → TapState) : (onTap f s).pins = s.pins := rfl
@[simp] theorem onTap_boot (f : TapState → TapState) : (onTap f s).boot = s.boot := rfl
@[simp] theorem onTap_nvm (f : TapState → TapState) : (onTap f s).nvm = s.nvm := rfl
@[simp] theorem onTap_cairn (f : TapState → TapState) : (onTap f s).cairn = s.cairn := rfl
@[simp] theorem onTap_afe (f : TapState → TapState) : (onTap f s).afe = s.afe := rfl
@[simp] theorem onTap_stm (f : TapState → TapState) : (onTap f s).stm = s.stm := rfl
@[simp] theorem onTap_feat (f : TapState → TapState) : (onTap f s).feat = s.feat := rfl
@[simp] theorem onTap_own (f : TapState → TapState) : (onTap f s).own = { s.own with tap := f s.own.tap } := rfl
@[simp] theorem onTap_bly (f : TapState → TapState) : (onTap f s).bly = s.bly := rfl
@[simp] theorem onTap_mdl (f : TapState → TapState) : (onTap f s).mdl = s.mdl := rfl
@[simp] theorem onTap_lrn (f : TapState → TapState) : (onTap f s).lrn = s.lrn := rfl
@[simp] theorem onTap_rope (f : TapState → TapState) : (onTap f s).rope = s.rope := rfl
@[simp] theorem onTap_free (f : TapState → TapState) : (onTap f s).free = s.free := rfl
@[simp] theorem onTap_pending (f : TapState → TapState) : (onTap f s).pending = s.pending := rfl

@[simp] theorem mapLink_link (f : LinkState → LinkState) : (s.mapLink f).link = f s.link := rfl
@[simp] theorem mapLink_clk (f : LinkState → LinkState) : (s.mapLink f).clk = s.clk := rfl
@[simp] theorem mapLink_pwr (f : LinkState → LinkState) : (s.mapLink f).pwr = s.pwr := rfl
@[simp] theorem mapLink_thm (f : LinkState → LinkState) : (s.mapLink f).thm = s.thm := rfl
@[simp] theorem mapLink_pins (f : LinkState → LinkState) : (s.mapLink f).pins = s.pins := rfl
@[simp] theorem mapLink_boot (f : LinkState → LinkState) : (s.mapLink f).boot = s.boot := rfl
@[simp] theorem mapLink_nvm (f : LinkState → LinkState) : (s.mapLink f).nvm = s.nvm := rfl
@[simp] theorem mapLink_cairn (f : LinkState → LinkState) : (s.mapLink f).cairn = s.cairn := rfl
@[simp] theorem mapLink_afe (f : LinkState → LinkState) : (s.mapLink f).afe = s.afe := rfl
@[simp] theorem mapLink_stm (f : LinkState → LinkState) : (s.mapLink f).stm = s.stm := rfl
@[simp] theorem mapLink_feat (f : LinkState → LinkState) : (s.mapLink f).feat = s.feat := rfl
@[simp] theorem mapLink_own (f : LinkState → LinkState) : (s.mapLink f).own = s.own := rfl
@[simp] theorem mapLink_bly (f : LinkState → LinkState) : (s.mapLink f).bly = s.bly := rfl
@[simp] theorem mapLink_mdl (f : LinkState → LinkState) : (s.mapLink f).mdl = s.mdl := rfl
@[simp] theorem mapLink_lrn (f : LinkState → LinkState) : (s.mapLink f).lrn = s.lrn := rfl
@[simp] theorem mapLink_rope (f : LinkState → LinkState) : (s.mapLink f).rope = s.rope := rfl
@[simp] theorem mapLink_free (f : LinkState → LinkState) : (s.mapLink f).free = s.free := rfl
@[simp] theorem mapLink_pending (f : LinkState → LinkState) : (s.mapLink f).pending = s.pending := rfl

@[simp] theorem onSlot_link (t : Tag) (f : Slot → Slot) : (onSlot t f s).link = { s.link with slots := s.link.slots.map fun c => if c.tag == t then f c else c } := rfl
@[simp] theorem onSlot_clk (t : Tag) (f : Slot → Slot) : (onSlot t f s).clk = s.clk := rfl
@[simp] theorem onSlot_pwr (t : Tag) (f : Slot → Slot) : (onSlot t f s).pwr = s.pwr := rfl
@[simp] theorem onSlot_thm (t : Tag) (f : Slot → Slot) : (onSlot t f s).thm = s.thm := rfl
@[simp] theorem onSlot_pins (t : Tag) (f : Slot → Slot) : (onSlot t f s).pins = s.pins := rfl
@[simp] theorem onSlot_boot (t : Tag) (f : Slot → Slot) : (onSlot t f s).boot = s.boot := rfl
@[simp] theorem onSlot_nvm (t : Tag) (f : Slot → Slot) : (onSlot t f s).nvm = s.nvm := rfl
@[simp] theorem onSlot_cairn (t : Tag) (f : Slot → Slot) : (onSlot t f s).cairn = s.cairn := rfl
@[simp] theorem onSlot_afe (t : Tag) (f : Slot → Slot) : (onSlot t f s).afe = s.afe := rfl
@[simp] theorem onSlot_stm (t : Tag) (f : Slot → Slot) : (onSlot t f s).stm = s.stm := rfl
@[simp] theorem onSlot_feat (t : Tag) (f : Slot → Slot) : (onSlot t f s).feat = s.feat := rfl
@[simp] theorem onSlot_own (t : Tag) (f : Slot → Slot) : (onSlot t f s).own = s.own := rfl
@[simp] theorem onSlot_bly (t : Tag) (f : Slot → Slot) : (onSlot t f s).bly = s.bly := rfl
@[simp] theorem onSlot_mdl (t : Tag) (f : Slot → Slot) : (onSlot t f s).mdl = s.mdl := rfl
@[simp] theorem onSlot_lrn (t : Tag) (f : Slot → Slot) : (onSlot t f s).lrn = s.lrn := rfl
@[simp] theorem onSlot_rope (t : Tag) (f : Slot → Slot) : (onSlot t f s).rope = s.rope := rfl
@[simp] theorem onSlot_free (t : Tag) (f : Slot → Slot) : (onSlot t f s).free = s.free := rfl
@[simp] theorem onSlot_pending (t : Tag) (f : Slot → Slot) : (onSlot t f s).pending = s.pending := rfl

@[simp] theorem commitMark_clk (t : Tag) : (commitMark t s).clk = s.clk := rfl
@[simp] theorem commitMark_pwr (t : Tag) : (commitMark t s).pwr = s.pwr := rfl
@[simp] theorem commitMark_thm (t : Tag) : (commitMark t s).thm = s.thm := rfl
@[simp] theorem commitMark_pins (t : Tag) : (commitMark t s).pins = s.pins := rfl
@[simp] theorem commitMark_boot (t : Tag) : (commitMark t s).boot = s.boot := rfl
@[simp] theorem commitMark_nvm (t : Tag) : (commitMark t s).nvm = s.nvm := rfl
@[simp] theorem commitMark_cairn (t : Tag) : (commitMark t s).cairn = s.cairn := rfl
@[simp] theorem commitMark_afe (t : Tag) : (commitMark t s).afe = s.afe := rfl
@[simp] theorem commitMark_stm (t : Tag) : (commitMark t s).stm = s.stm := rfl
@[simp] theorem commitMark_feat (t : Tag) : (commitMark t s).feat = s.feat := rfl
@[simp] theorem commitMark_own (t : Tag) : (commitMark t s).own = s.own := rfl
@[simp] theorem commitMark_bly (t : Tag) : (commitMark t s).bly = s.bly := rfl
@[simp] theorem commitMark_mdl (t : Tag) : (commitMark t s).mdl = s.mdl := rfl
@[simp] theorem commitMark_lrn (t : Tag) : (commitMark t s).lrn = s.lrn := rfl
@[simp] theorem commitMark_rope (t : Tag) : (commitMark t s).rope = s.rope := rfl
@[simp] theorem commitMark_free (t : Tag) : (commitMark t s).free = s.free := rfl
@[simp] theorem commitMark_pending (t : Tag) : (commitMark t s).pending = s.pending := rfl

@[simp] theorem started_clk (t : Tag) : (started t s).clk = s.clk := by
  unfold started; split
  · rfl
  · split <;> rfl
@[simp] theorem started_pwr (t : Tag) : (started t s).pwr = s.pwr := by
  unfold started; split
  · rfl
  · split <;> rfl
@[simp] theorem started_thm (t : Tag) : (started t s).thm = s.thm := by
  unfold started; split
  · rfl
  · split <;> rfl
@[simp] theorem started_pins (t : Tag) : (started t s).pins = s.pins := by
  unfold started; split
  · rfl
  · split <;> rfl
@[simp] theorem started_boot (t : Tag) : (started t s).boot = s.boot := by
  unfold started; split
  · rfl
  · split <;> rfl
@[simp] theorem started_nvm (t : Tag) : (started t s).nvm = s.nvm := by
  unfold started; split
  · rfl
  · split <;> rfl
@[simp] theorem started_cairn (t : Tag) : (started t s).cairn = s.cairn := by
  unfold started; split
  · rfl
  · split <;> rfl
@[simp] theorem started_afe (t : Tag) : (started t s).afe = s.afe := by
  unfold started; split
  · rfl
  · split <;> rfl
@[simp] theorem started_stm (t : Tag) : (started t s).stm = s.stm := by
  unfold started; split
  · rfl
  · split <;> rfl
@[simp] theorem started_feat (t : Tag) : (started t s).feat = s.feat := by
  unfold started; split
  · rfl
  · split <;> rfl
@[simp] theorem started_own (t : Tag) : (started t s).own = s.own := by
  unfold started; split
  · rfl
  · split <;> rfl
@[simp] theorem started_bly (t : Tag) : (started t s).bly = s.bly := by
  unfold started; split
  · rfl
  · split <;> rfl
@[simp] theorem started_mdl (t : Tag) : (started t s).mdl = s.mdl := by
  unfold started; split
  · rfl
  · split <;> rfl
@[simp] theorem started_lrn (t : Tag) : (started t s).lrn = s.lrn := by
  unfold started; split
  · rfl
  · split <;> rfl
@[simp] theorem started_rope (t : Tag) : (started t s).rope = s.rope := by
  unfold started; split
  · rfl
  · split <;> rfl
@[simp] theorem started_free (t : Tag) : (started t s).free = s.free := by
  unfold started; split
  · rfl
  · split <;> rfl
@[simp] theorem started_pending (t : Tag) : (started t s).pending = s.pending := by
  unfold started; split
  · rfl
  · split <;> rfl

@[simp] theorem finish_clk (t : Tag) (st : Byte) (p : Bytes) : (finish t st p s).clk = s.clk := by
  unfold finish; (repeat' split) <;> rfl
@[simp] theorem finish_pwr (t : Tag) (st : Byte) (p : Bytes) : (finish t st p s).pwr = s.pwr := by
  unfold finish; (repeat' split) <;> rfl
@[simp] theorem finish_thm (t : Tag) (st : Byte) (p : Bytes) : (finish t st p s).thm = s.thm := by
  unfold finish; (repeat' split) <;> rfl
@[simp] theorem finish_pins (t : Tag) (st : Byte) (p : Bytes) : (finish t st p s).pins = s.pins := by
  unfold finish; (repeat' split) <;> rfl
@[simp] theorem finish_boot (t : Tag) (st : Byte) (p : Bytes) : (finish t st p s).boot = s.boot := by
  unfold finish; (repeat' split) <;> rfl
@[simp] theorem finish_nvm (t : Tag) (st : Byte) (p : Bytes) : (finish t st p s).nvm = s.nvm := by
  unfold finish; (repeat' split) <;> rfl
@[simp] theorem finish_cairn (t : Tag) (st : Byte) (p : Bytes) : (finish t st p s).cairn = s.cairn := by
  unfold finish; (repeat' split) <;> rfl
@[simp] theorem finish_afe (t : Tag) (st : Byte) (p : Bytes) : (finish t st p s).afe = s.afe := by
  unfold finish; (repeat' split) <;> rfl
@[simp] theorem finish_stm (t : Tag) (st : Byte) (p : Bytes) : (finish t st p s).stm = s.stm := by
  unfold finish; (repeat' split) <;> rfl
@[simp] theorem finish_feat (t : Tag) (st : Byte) (p : Bytes) : (finish t st p s).feat = s.feat := by
  unfold finish; (repeat' split) <;> rfl
@[simp] theorem finish_own (t : Tag) (st : Byte) (p : Bytes) : (finish t st p s).own = s.own := by
  unfold finish; (repeat' split) <;> rfl
@[simp] theorem finish_bly (t : Tag) (st : Byte) (p : Bytes) : (finish t st p s).bly = s.bly := by
  unfold finish; (repeat' split) <;> rfl
@[simp] theorem finish_mdl (t : Tag) (st : Byte) (p : Bytes) : (finish t st p s).mdl = s.mdl := by
  unfold finish; (repeat' split) <;> rfl
@[simp] theorem finish_lrn (t : Tag) (st : Byte) (p : Bytes) : (finish t st p s).lrn = s.lrn := by
  unfold finish; (repeat' split) <;> rfl
@[simp] theorem finish_rope (t : Tag) (st : Byte) (p : Bytes) : (finish t st p s).rope = s.rope := by
  unfold finish; (repeat' split) <;> rfl
@[simp] theorem finish_free (t : Tag) (st : Byte) (p : Bytes) : (finish t st p s).free = s.free := by
  unfold finish; (repeat' split) <;> rfl
@[simp] theorem finish_pending (t : Tag) (st : Byte) (p : Bytes) : (finish t st p s).pending = s.pending := by
  unfold finish; (repeat' split) <;> rfl

@[simp] theorem setDomain_link (n : Nat) (v : Bool) : (setDomain n v s).link = s.link := rfl
@[simp] theorem setDomain_clk (n : Nat) (v : Bool) : (setDomain n v s).clk = s.clk := rfl
@[simp] theorem setDomain_thm (n : Nat) (v : Bool) : (setDomain n v s).thm = s.thm := rfl
@[simp] theorem setDomain_pins (n : Nat) (v : Bool) : (setDomain n v s).pins = s.pins := rfl
@[simp] theorem setDomain_boot (n : Nat) (v : Bool) : (setDomain n v s).boot = s.boot := rfl
@[simp] theorem setDomain_nvm (n : Nat) (v : Bool) : (setDomain n v s).nvm = s.nvm := rfl
@[simp] theorem setDomain_cairn (n : Nat) (v : Bool) : (setDomain n v s).cairn = s.cairn := rfl
@[simp] theorem setDomain_afe (n : Nat) (v : Bool) : (setDomain n v s).afe = s.afe := rfl
@[simp] theorem setDomain_stm (n : Nat) (v : Bool) : (setDomain n v s).stm = s.stm := rfl
@[simp] theorem setDomain_feat (n : Nat) (v : Bool) : (setDomain n v s).feat = s.feat := rfl
@[simp] theorem setDomain_own (n : Nat) (v : Bool) : (setDomain n v s).own = s.own := rfl
@[simp] theorem setDomain_bly (n : Nat) (v : Bool) : (setDomain n v s).bly = s.bly := rfl
@[simp] theorem setDomain_mdl (n : Nat) (v : Bool) : (setDomain n v s).mdl = s.mdl := rfl
@[simp] theorem setDomain_lrn (n : Nat) (v : Bool) : (setDomain n v s).lrn = s.lrn := rfl
@[simp] theorem setDomain_rope (n : Nat) (v : Bool) : (setDomain n v s).rope = s.rope := rfl
@[simp] theorem setDomain_free (n : Nat) (v : Bool) : (setDomain n v s).free = s.free := rfl
@[simp] theorem setDomain_pending (n : Nat) (v : Bool) : (setDomain n v s).pending = s.pending := rfl

@[simp] theorem wantDomain_link (n : Nat) (v : Bool) : (wantDomain n v s).link = s.link := rfl
@[simp] theorem wantDomain_clk (n : Nat) (v : Bool) : (wantDomain n v s).clk = s.clk := rfl
@[simp] theorem wantDomain_thm (n : Nat) (v : Bool) : (wantDomain n v s).thm = s.thm := rfl
@[simp] theorem wantDomain_pins (n : Nat) (v : Bool) : (wantDomain n v s).pins = s.pins := rfl
@[simp] theorem wantDomain_boot (n : Nat) (v : Bool) : (wantDomain n v s).boot = s.boot := rfl
@[simp] theorem wantDomain_nvm (n : Nat) (v : Bool) : (wantDomain n v s).nvm = s.nvm := rfl
@[simp] theorem wantDomain_cairn (n : Nat) (v : Bool) : (wantDomain n v s).cairn = s.cairn := rfl
@[simp] theorem wantDomain_afe (n : Nat) (v : Bool) : (wantDomain n v s).afe = s.afe := rfl
@[simp] theorem wantDomain_stm (n : Nat) (v : Bool) : (wantDomain n v s).stm = s.stm := rfl
@[simp] theorem wantDomain_feat (n : Nat) (v : Bool) : (wantDomain n v s).feat = s.feat := rfl
@[simp] theorem wantDomain_own (n : Nat) (v : Bool) : (wantDomain n v s).own = s.own := rfl
@[simp] theorem wantDomain_bly (n : Nat) (v : Bool) : (wantDomain n v s).bly = s.bly := rfl
@[simp] theorem wantDomain_mdl (n : Nat) (v : Bool) : (wantDomain n v s).mdl = s.mdl := rfl
@[simp] theorem wantDomain_lrn (n : Nat) (v : Bool) : (wantDomain n v s).lrn = s.lrn := rfl
@[simp] theorem wantDomain_rope (n : Nat) (v : Bool) : (wantDomain n v s).rope = s.rope := rfl
@[simp] theorem wantDomain_free (n : Nat) (v : Bool) : (wantDomain n v s).free = s.free := rfl
@[simp] theorem wantDomain_pending (n : Nat) (v : Bool) : (wantDomain n v s).pending = s.pending := rfl

@[simp] theorem noteHigh_link (q n : Nat) : (noteHigh q n s).link = s.link := rfl
@[simp] theorem noteHigh_clk (q n : Nat) : (noteHigh q n s).clk = s.clk := rfl
@[simp] theorem noteHigh_pwr (q n : Nat) : (noteHigh q n s).pwr = s.pwr := rfl
@[simp] theorem noteHigh_thm (q n : Nat) : (noteHigh q n s).thm = s.thm := rfl
@[simp] theorem noteHigh_pins (q n : Nat) : (noteHigh q n s).pins = s.pins := rfl
@[simp] theorem noteHigh_boot (q n : Nat) : (noteHigh q n s).boot = s.boot := rfl
@[simp] theorem noteHigh_nvm (q n : Nat) : (noteHigh q n s).nvm = s.nvm := rfl
@[simp] theorem noteHigh_cairn (q n : Nat) : (noteHigh q n s).cairn = s.cairn := rfl
@[simp] theorem noteHigh_afe (q n : Nat) : (noteHigh q n s).afe = s.afe := rfl
@[simp] theorem noteHigh_stm (q n : Nat) : (noteHigh q n s).stm = s.stm := rfl
@[simp] theorem noteHigh_feat (q n : Nat) : (noteHigh q n s).feat = s.feat := rfl
@[simp] theorem noteHigh_own (q n : Nat) : (noteHigh q n s).own = s.own := rfl
@[simp] theorem noteHigh_bly (q n : Nat) : (noteHigh q n s).bly = s.bly := rfl
@[simp] theorem noteHigh_lrn (q n : Nat) : (noteHigh q n s).lrn = s.lrn := rfl
@[simp] theorem noteHigh_rope (q n : Nat) : (noteHigh q n s).rope = s.rope := rfl
@[simp] theorem noteHigh_free (q n : Nat) : (noteHigh q n s).free = s.free := rfl
@[simp] theorem noteHigh_pending (q n : Nat) : (noteHigh q n s).pending = s.pending := rfl

end Sys2Proof.Machine
end

