-- ==== Sys2Proof/WellFormed.lean ====
section
/-! DEFINITION. Which commands are well formed: operands within the ranges the spec gives them. `exec` gives a meaning to every
command, well formed or not. -/

namespace Sys2Proof

/-- OWNER is 0 in a packet that is not secure (check 4 of Table 2-8). -/
def Hdr.wf (h : Hdr) : Bool := h.secure || (h.owner == 0 && h.authentic)

/-- A message is at most 256 fragments of 4068 bytes (R47). -/
def payloadOk (p : Bytes) : Bool := decide (p.length ≤ 256 * 4068)

/-- Transport opcodes of Table 2-1. -/
def transportOpcodes : List Byte := [0x02, 0x03, 0x05, 0x06, 0x22, 0x23]

/-- TAP instructions of Table 16-6 but BYPASS. -/
def tapInstructions : List (BitVec 5) := [0x00, 0x01, 0x02, 0x03, 0x04, 0x10, 0x11, 0x12]

/-- A command's operands are within their ranges. -/
def Instr.wf : Instr → Bool
  | .push _ held _ => decide (held ≤ 16384)
  | .qpush held _ => decide (held ≤ 16384)
  | .pull _ _ => true
  | .qpull _ => true
  | .clearStatus _ _ => true
  | .invalidTransportOpcode _ op => op == 0x05 || !(transportOpcodes.contains op)
  | .fragmentTimeout _ => true
  | .sessionIdleTimeout _ => true
  | .resetReplyTimeout => true
  | .nop h p => h.wf && payloadOk p
  | .devInfo h p => h.wf && payloadOk p
  | .devStatus h p => h.wf && payloadOk p
  | .linkConfigRead h p => h.wf && payloadOk p
  | .linkConfigWrite h p => h.wf && payloadOk p
  | .linkCounters h p => h.wf && payloadOk p
  | .linkCountersClear h p => h.wf && payloadOk p
  | .sessionOpen h p => h.wf && payloadOk p
  | .sessionClose h p => h.wf && payloadOk p
  | .sessionStatus h p => h.wf && payloadOk p
  | .devLabelSet h p => h.wf && payloadOk p
  | .devLabelGet h p => h.wf && payloadOk p
  | .resetWarm h p => h.wf && payloadOk p
  | .resetFull h p => h.wf && payloadOk p
  | .abort h p => h.wf && payloadOk p
  | .powerStateGet h p => h.wf && payloadOk p
  | .powerStateSetBivouac h p => h.wf && payloadOk p
  | .powerStateSetWatch h p => h.wf && payloadOk p
  | .wakeConfig h p => h.wf && payloadOk p
  | .tickAlarmDisable h p => h.wf && payloadOk p
  | .tickAlarmAbsolute h p => h.wf && payloadOk p
  | .tickAlarmRelative h p => h.wf && payloadOk p
  | .timeGet h p => h.wf && payloadOk p
  | .clockStatus h p => h.wf && payloadOk p
  | .thermalConfig h p => h.wf && payloadOk p
  | .thermalStatus h p => h.wf && payloadOk p
  | .powerPolicyRead h p => h.wf && payloadOk p
  | .powerPolicyWrite h p => h.wf && payloadOk p
  | .afePinRoleSet h p => h.wf && payloadOk p
  | .afePinRoleGet h p => h.wf && payloadOk p
  | .afeChannelConfig h p => h.wf && payloadOk p
  | .afeChannelGet h p => h.wf && payloadOk p
  | .afeExcitationSet h p => h.wf && payloadOk p
  | .afeLeadMeasureLoop h p => h.wf && payloadOk p
  | .afeLeadMeasureKelvin h p => h.wf && payloadOk p
  | .afeLeadMeasureSet h p => h.wf && payloadOk p
  | .afeLeadGet h p => h.wf && payloadOk p
  | .afePairConfigSet h p => h.wf && payloadOk p
  | .afePairConfigRemove h p => h.wf && payloadOk p
  | .afePairStatus h p => h.wf && payloadOk p
  | .afeDiag h p => h.wf && payloadOk p
  | .afeCalRun h p => h.wf && payloadOk p
  | .streamConfigSet h p => h.wf && payloadOk p
  | .streamConfigRemove h p => h.wf && payloadOk p
  | .streamGet h p => h.wf && payloadOk p
  | .streamStart h p => h.wf && payloadOk p
  | .streamStartInstant => true
  | .streamStopNow h p => h.wf && payloadOk p
  | .streamStopAfterFrame h p => h.wf && payloadOk p
  | .sportConfig h p => h.wf && payloadOk p
  | .sportGet h p => h.wf && payloadOk p
  | .tachConfig h p => h.wf && payloadOk p
  | .encConfig h p => h.wf && payloadOk p
  | .streamCounters h p => h.wf && payloadOk p
  | .streamCountersClear h p => h.wf && payloadOk p
  | .streamSnapshot h p => h.wf && payloadOk p
  | .featConfigSet h p => h.wf && payloadOk p
  | .featConfigRemove h p => h.wf && payloadOk p
  | .featGet h p => h.wf && payloadOk p
  | .featOrderConfig h p => h.wf && payloadOk p
  | .featBandsSet h p => h.wf && payloadOk p
  | .featStateConfig h p => h.wf && payloadOk p
  | .featFrameRead h p => h.wf && payloadOk p
  | .beltPositionGet h p => h.wf && payloadOk p
  | .beltConfigDisable h p => h.wf && payloadOk p
  | .beltConfigSet h p => h.wf && payloadOk p
  | .setIndex h p => h.wf && payloadOk p
  | .beltClearCount h p => h.wf && payloadOk p
  | .modelLoadBegin h p => h.wf && payloadOk p
  | .modelLoadData h p => h.wf && payloadOk p
  | .modelLoadAbandon h p => h.wf && payloadOk p
  | .modelVerify h p => h.wf && payloadOk p
  | .modelPlace h p => h.wf && payloadOk p
  | .modelPlaceRidge h p _ => h.wf && payloadOk p
  | .modelUnload h p => h.wf && payloadOk p
  | .modelPlacementGet h p => h.wf && payloadOk p
  | .modelList h p => h.wf && payloadOk p
  | .modelStart h p => h.wf && payloadOk p
  | .modelStop h p => h.wf && payloadOk p
  | .modelReplace h p => h.wf && payloadOk p
  | .modelBindStreams h p => h.wf && payloadOk p
  | .jobSubmit h p => h.wf && payloadOk p
  | .resultRead h p => h.wf && payloadOk p
  | .resultPin h p => h.wf && payloadOk p
  | .resultUnpin h p => h.wf && payloadOk p
  | .rmStatus h p => h.wf && payloadOk p
  | .rmCounters h p => h.wf && payloadOk p
  | .rmCountersClear h p => h.wf && payloadOk p
  | .rmShareSet h p => h.wf && payloadOk p
  | .queueStatus h p => h.wf && payloadOk p
  | .queueStatusClearHigh h p => h.wf && payloadOk p
  | .resultSubscribe h p => h.wf && payloadOk p
  | .headConfig h p => h.wf && payloadOk p
  | .headGet h p => h.wf && payloadOk p
  | .rewardCancel h p => h.wf && payloadOk p
  | .rewardImmediate h p => h.wf && payloadOk p
  | .rewardHeld h p => h.wf && payloadOk p
  | .modulatorConfig h p => h.wf && payloadOk p
  | .headFreeze h p => h.wf && payloadOk p
  | .headResume h p => h.wf && payloadOk p
  | .headSave h p => h.wf && payloadOk p
  | .headRestore h p => h.wf && payloadOk p
  | .headExport h p => h.wf && payloadOk p
  | .headImport h p => h.wf && payloadOk p
  | .headConsolidate h p => h.wf && payloadOk p
  | .headStats h p => h.wf && payloadOk p
  | .headStatsClear h p => h.wf && payloadOk p
  | .headReset h p => h.wf && payloadOk p
  | .headEraseOrphan h p => h.wf && payloadOk p
  | .houtMap h p => h.wf && payloadOk p
  | .houtGet h p => h.wf && payloadOk p
  | .belayConfig h p => h.wf && payloadOk p
  | .belayArm h p => h.wf && payloadOk p
  | .belayDisarm h p => h.wf && payloadOk p
  | .belayTrip h p => h.wf && payloadOk p
  | .belayAbortHold h p => h.wf && payloadOk p
  | .belayRearm h p => h.wf && payloadOk p
  | .belayDeclareStop h p => h.wf && payloadOk p
  | .belayStatus h p => h.wf && payloadOk p
  | .alarmSetMask h p => h.wf && payloadOk p
  | .alarmSetHost h p => h.wf && payloadOk p
  | .alarmClearHost h p => h.wf && payloadOk p
  | .alarmAcknowledge h p => h.wf && payloadOk p
  | .ropeStatus h p => h.wf && payloadOk p
  | .ropeEnumerate h p => h.wf && payloadOk p
  | .ropeDetach h p => h.wf && payloadOk p
  | .ropeAttach h p => h.wf && payloadOk p
  | .ropeRelay h p => h.wf && payloadOk p
  | .ropeTopologyGet h p => h.wf && payloadOk p
  | .ropeRetrain h p => h.wf && payloadOk p
  | .ropeCounters h p => h.wf && payloadOk p
  | .ropeCountersClear h p => h.wf && payloadOk p
  | .ownerProvision h p => h.wf && payloadOk p
  | .ownerRemove h p => h.wf && payloadOk p
  | .ownerList h p => h.wf && payloadOk p
  | .attest h p => h.wf && payloadOk p
  | .epochRoll h p => h.wf && payloadOk p
  | .debugChallenge h p => h.wf && payloadOk p
  | .debugOpen h p => h.wf && payloadOk p
  | .keyRotate h p => h.wf && payloadOk p
  | .trngRead h p => h.wf && payloadOk p
  | .cairnInfo h p => h.wf && payloadOk p
  | .cairnRead h p => h.wf && payloadOk p
  | .cairnReadPinned h p => h.wf && payloadOk p
  | .cairnMark h p => h.wf && payloadOk p
  | .cairnRemoteRead h p => h.wf && payloadOk p
  | .calRun h p => h.wf && payloadOk p
  | .calStatus h p => h.wf && payloadOk p
  | .selftestRunQuick h p => h.wf && payloadOk p
  | .selftestRunFull h p => h.wf && payloadOk p
  | .selftestResult h p => h.wf && payloadOk p
  | .wearStatus h p => h.wf && payloadOk p
  | .wearConfig h p => h.wf && payloadOk p
  | .coreStatus h p => h.wf && payloadOk p
  | .coreFence h p => h.wf && payloadOk p
  | .coreUnfence h p => h.wf && payloadOk p
  | .clipCounters h p => h.wf && payloadOk p
  | .clipCountersClear h p => h.wf && payloadOk p
  | .fwUpdateBegin h p => h.wf && payloadOk p
  | .fwUpdateData h p => h.wf && payloadOk p
  | .fwUpdateCommit h p => h.wf && payloadOk p
  | .fwSlotStatus h p => h.wf && payloadOk p
  | .nvmStatus h p => h.wf && payloadOk p
  | .nvmRegionInfo h p => h.wf && payloadOk p
  | .powerOnReset _ => true
  | .brownoutDetect _ => true
  | .brownoutRelease => true
  | .powerOff => true
  | .resetPinAssert => true
  | .resetPinRelease => true
  | .resetTakeEffect => true
  | .thermalResetRelease => true
  | .watchdogExpiry => true
  | .controlCoreException _ => true
  | .firmwareRestartDone => true
  | .bootRomStart _ _ => true
  | .erasePendingComplete => true
  | .authComplete => true
  | .deviceReady => true
  | .bootGuardExpiry => true
  | .vholdThreshold _ => true
  | .holdupHoldEnd => true
  | .xo32QualifyInterval _ => true
  | .xo32EdgeLoss => true
  | .xo32Retry => true
  | .xo32Absent => true
  | .xo24Qualified _ => true
  | .xo24QualifyTimeout => true
  | .xo24Retry => true
  | .xo24Stopped => true
  | .pllLocked pll => decide (pll.toNat < 3)
  | .pllLockLoss pll => decide (pll.toNat < 3)
  | .tickAlarmFire => true
  | .wakeNLow => true
  | .watchThresholdFire _ _ => true
  | .ropeSquelchWake => true
  | .wakeComplete => true
  | .autoSleepDwellExpiry => true
  | .sleepEntryStart => true
  | .sleepEntryComplete _ => true
  | .governorSample _ _ _ => true
  | .anchorTempSample _ => true
  | .domainSwitchDone _ _ _ => true
  | .domainIdleRelease domain => decide (domain.toNat < 24)
  | .sampleArrival stream _ _ _ _ => decide (stream.toNat < 96)
  | .fabricTransaction stream _ => decide (stream.toNat < 96)
  | .excLimitEngaged _ => true
  | .excLimitReleased _ => true
  | .driverSettleDone _ => true
  | .frameStart stream => decide (stream.toNat < 96)
  | .calBurstComplete _ _ _ _ _ _ => true
  | .frameClose stream => decide (stream.toNat < 96)
  | .tdmFrameSync _ _ _ _ _ => true
  | .sportLost _ => true
  | .spiPoll _ _ _ => true
  | .tachEdge _ _ _ _ => true
  | .tachIdle _ => true
  | .encEdge _ _ _ _ => true
  | .spliceMark _ _ => true
  | .encIdle => true
  | .encoderSlip => true
  | .encoderRestored => true
  | .pairPartnerTimeout _ => true
  | .leadMeasureDone _ => true
  | .featureFrameTake => true
  | .featureQueueRoute => true
  | .jobStart => true
  | .layerDispatch => true
  | .cimPassDone _ _ => true
  | .streamLayerDone => true
  | .vectorLayerDone => true
  | .protoForwardDone => true
  | .assetUpdate => true
  | .confirmWindowEnd => true
  | .coastTimerEnd => true
  | .stopDwellEnd => true
  | .motionDwellEnd => true
  | .rearmTimerEnd => true
  | .startGuardEnd => true
  | .learningStep _ => true
  | .rewardUpdate _ => true
  | .settlePeriodEnd _ => true
  | .holdoffPeriodEnd _ => true
  | .headSaveCommit _ => true
  | .consolidationInForce _ => true
  | .arrayWriteDone _ _ _ _ _ => true
  | .recalibration _ _ _ _ => true
  | .quickSelftest _ _ => true
  | .fullSelftest _ _ _ _ => true
  | .clipWindowEnd _ => true
  | .wearHourlyAccrual => true
  | .wearDayBoundary => true
  | .nvmOperationStart => true
  | .nvmProgramDone _ _ => true
  | .nvmEraseDone _ _ => true
  | .cairnCommit _ => true
  | .trngHealthFail _ => true
  | .trngRetry _ => true
  | .debugChallengeExpiry => true
  | .tapReset => true
  | .bypass opcode _ => !(tapInstructions.contains opcode)
  | .idcode _ => true
  | .samplePreload _ _ => true
  | .extest _ _ => true
  | .highz _ _ => true
  | .clamp _ _ => true
  | .dbgChal _ => true
  | .dbgOpen _ => true
  | .dbgAccess _ => true
  | .train _ _ _ _ _ _ => true
  | .trainAck _ _ => true
  | .trainingAttemptTimeout _ => true
  | .laneSyncLoss _ _ => true
  | .squelchSilence _ => true
  | .enumStart => true
  | .enum _ _ _ ids => decide (ids.length ≤ 64)
  | .enumEnd _ _ ids => decide (ids.length ≤ 64)
  | .topology _ _ _ count _ ids => decide (count ≤ 64) && ids.length == count
  | .headConflict _ => true
  | .noEnumTimeout => true
  | .heartbeatSend => true
  | .heartbeat _ _ => true
  | .heartbeatLoss => true
  | .linkLost _ _ _ => true
  | .join _ _ => true
  | .sleep _ => true
  | .detach _ => true
  | .wakeBurstTimeout _ => true
  | .circulationRoundStart _ => true
  | .round _ _ _ => true
  | .roundDone _ _ _ _ => true
  | .roundAbort _ _ => true
  | .retire _ _ _ => true
  | .landGrant _ _ _ _ => true
  | .act _ _ _ _ _ data gcmTag => decide (data.length ≤ 2028) && decide (gcmTag.length = 16)
  | .wstream _ _ _ _ _ _ data gcmTag => decide (data.length ≤ 2028) && decide (gcmTag.length = 16)
  | .cmd _ _ _ _ payload => decide (payload.length ≤ 2048)
  | .cairn _ _ _ _ payload => decide (payload.length ≤ 2048)
  | .credit _ _ _ _ _ => true
  | .ackTimer _ => true
  | .remoteReadTimeout _ => true
  | .afeBankEnable h p => h.wf && payloadOk p
  | .va30OutOfRegulation _ => true
  | .ioRailRangeChange _ _ => true
  | .vcoreBuckInRegulation => true
  | .codeGroupSyncAcquired _ _ => true
  | .headLoadDone _ => true
  | .modelVerifyDone _ => true
  | .fwImageVerified => true

end Sys2Proof
end

