-- ==== Sys2Proof/Tests/Slice0.lean ====
section
/-! SUPPORT. Small tests of the model, and for every statement a state and operands that meet its premises. -/

namespace Sys2Proof.Tests

set_option Elab.async false

open Machine

/-! ### States and operands -/

/-- A device in READY with every domain on and every PLL locked, strapped Ridge head, whose owner 0 has a live session. -/
def up : State := { State.reset with
  boot := { State.reset.boot with stage := .none, phase := .ready, counted := true }
  pwr := { State.reset.pwr with state := .active, on := 0xFFFFFF, vioHOk := true, vioSOk := true }
  clk := { State.reset.clk with xo24On := true, lock := Vector.replicate 3 true }
  pins := { State.reset.pins with straps := 4 }
  own := { State.reset.own with slots := wr State.reset.own.slots 0 { provisioned := true } }
  link := { State.reset.link with sessions := wr State.reset.link.sessions 0 { phase := .live, id := 1 } } }

/-- The device with bank 0 of the front end enabled. -/
def banked : State := { up with afe := { up.afe with banks := 1 } }

/-- The header of a command of owner 0, sent secure. -/
def hdr : Hdr := { secure := true }

/-- A payload of zeros with some bytes set. -/
def pay (n : Nat) (l : List (Nat × Byte)) : Bytes := l.foldl (fun b x => b.set x.1 x.2) (List.replicate n 0)

/-- The device with owner 0's model in slot `m`. -/
def withModel (m : Nat) (x : Model) (s : State := up) : State := { s with mdl := { s.mdl with slots := wr s.mdl.slots m x } }

/-- The device with head 0, of a layer of the model in slot 0. -/
def withHead (x : Head) : State :=
  withModel 0 { phase := .running } { up with lrn := { up.lrn with heads := wr up.lrn.heads 0 { x with user := some (0, 0) } } }

/-- The device with Belay in a state. -/
def withBelay (p : BelayPhase) : State := { up with bly := { up.bly with phase := p, noDecel := true } }

/-- The device at index 0 of a Rope of three chips, port 0 up. -/
def chained : State := { up with rope := { up.rope with index := 0, topo := .chain, count := 3 } }

/-- The device with one result of owner 0. -/
def withResult : State :=
  { up with mdl := { up.mdl with results := [{ seq := 0, owner := 0, epoch := epochOf up 0, model := 0, entry := [] }] } }

/-- A frame received by port 0 in step. -/
def rx : RopeRx := default

/-- The device with stream `n`. -/
def withStream (n : Nat) (x : Strm) : State := { up with stm := { up.stm with streams := wr up.stm.streams n x } }

/-- The device with inputs 0 of the tach and the encoder in use, and Belay in a state. -/
def withInputs (b : BelayPhase) : State :=
  { up with
    stm := { up.stm with tachs := wr up.stm.tachs 0 { phase := .active }, encoder := { phase := .active } }
    bly := { phase := b, dwell := true, cfg := { coastTach := 0 } } }

/-- The device with sensor port 0. -/
def withPort (x : Port) : State := { up with stm := { up.stm with ports := wr up.stm.ports 0 x } }

/-- The device with a job of the model in slot 0 in progress on some units. -/
def withJob (l : List Unit') : State :=
  withModel 0 { phase := .running } { up with mdl := { up.mdl with jobs := [{ id := 0, model := 0, frames := [], bank := 0, running := l }] } }

/-- Port 0 of the Rope. -/
def withRope (x : RopePort) : State := { chained with rope := { chained.rope with ports := wr chained.rope.ports 0 x } }

/-- A frame of the model in slot 0, waiting in the inference queue. -/
def frame : Frame := { id := 0, model := 0, frame := default, bank := 0 }

/-- A NOP packet that is not secure, on tag 0: header and CRC. -/
def noop : Bytes := [0xA5, 1, 0, 0, 0, 0, 0, 0] ++ le 4 (crc32c [0xA5, 1, 0, 0, 0, 0, 0, 0]).toNat

/-! ### The premises of the completion statements -/

/-- The premises of the rows of the port commands can be met. -/
theorem test_port_rows_met :
    Rows.nop.Met hdr [] up
    ∧ Rows.devInfo.Met hdr [] up
    ∧ Rows.devStatus.Met hdr [] up
    ∧ Rows.linkConfigRead.Met hdr [] up
    ∧ Rows.linkConfigWrite.Met hdr (pay 4 []) up
    ∧ Rows.linkCounters.Met hdr (pay 1 []) up
    ∧ Rows.linkCountersClear.Met hdr (pay 1 []) up
    ∧ Rows.sessionOpen.Met {} (pay 84 []) up
    ∧ Rows.sessionClose.Met hdr [] up
    ∧ Rows.sessionStatus.Met hdr [] up
    ∧ Rows.devLabelSet.Met hdr (pay 32 []) up
    ∧ Rows.devLabelGet.Met hdr [] up
    ∧ Rows.devLabelGetWaits.Met hdr [] { up with nvm := { up.nvm with busy := .cairn } }
    ∧ Rows.resetWarm.Met hdr (pay 1 [(0, 1)]) up
    ∧ Rows.resetFull.Met hdr (pay 1 [(0, 2)]) up
    ∧ Rows.abort.Met hdr (pay 1 [(0, 7)]) { up with link := { up.link with slots := [{ tag := 7, opcode := 0x08, secure := true, session := 1, named := 1 }] } } := by
  refine ⟨?_, ?_, ?_, ?_, ?_, ?_, ?_, ?_, ?_, ?_, ?_, ?_, ?_, ?_, ?_, ?_⟩ <;> decide +kernel

/-- The premises of the rows of the anchor commands can be met. -/
theorem test_anchor_rows_met :
    Rows.powerStateGet.Met hdr [] up
    ∧ Rows.powerStateSetBivouac.Met hdr (pay 4 [(0, 1)]) up
    ∧ Rows.powerStateSetWatch.Met hdr (pay 4 [(0, 2)]) up
    ∧ Rows.wakeConfig.Met hdr (pay 4 [(2, 16)]) up
    ∧ Rows.tickAlarmDisable.Met hdr (pay 16 []) up
    ∧ Rows.tickAlarmAbsolute.Met hdr (pay 16 [(0, 1), (8, 9)]) up
    ∧ Rows.tickAlarmRelative.Met hdr (pay 16 [(0, 2), (8, 9)]) up
    ∧ Rows.timeGet.Met hdr [] up
    ∧ Rows.clockStatus.Met hdr [] up
    ∧ Rows.thermalConfig.Met hdr (pay 4 [(0, 80), (1, 95), (2, 4), (3, 1)]) up
    ∧ Rows.thermalStatus.Met hdr [] up
    ∧ Rows.powerPolicyRead.Met hdr [] up
    ∧ Rows.powerPolicyWrite.Met hdr (pay 8 [(2, 1), (4, 1)]) up := by
  refine ⟨?_, ?_, ?_, ?_, ?_, ?_, ?_, ?_, ?_, ?_, ?_, ?_, ?_⟩ <;> decide +kernel

/-- The premises of the rows of the firmware commands can be met. -/
theorem test_firmware_rows_met :
    Rows.fwUpdateBegin.Met hdr (pay 16 [(1, 1)]) up
    ∧ Rows.fwUpdateData.Met hdr (pay 5 []) { up with boot := { up.boot with updating := some 1, slots := wr up.boot.slots 1 { size := 256 } } }
    ∧ Rows.fwUpdateCommit.Met hdr (pay 1 []) { up with boot := { up.boot with updating := some 1 } }
    ∧ Rows.fwSlotStatus.Met hdr [] up
    ∧ Rows.nvmStatus.Met hdr [] up
    ∧ Rows.nvmRegionInfo.Met hdr (pay 1 []) up := by
  refine ⟨?_, ?_, ?_, ?_, ?_, ?_⟩ <;> decide +kernel

/-- The premises of the rows of the owner commands can be met. -/
theorem test_owner_rows_met :
    Rows.ownerProvision.Met hdr (pay 212 [(0, 1)]) up
    ∧ Rows.ownerRemove.Met hdr (pay 4 []) up
    ∧ Rows.ownerList.Met hdr [] up
    ∧ Rows.attest.Met hdr (pay 20 []) up
    ∧ Rows.epochRoll.Met hdr [] up
    ∧ Rows.debugChallenge.Met hdr [] up
    ∧ Rows.debugOpen.Met hdr (pay 160 []) up
    ∧ Rows.keyRotate.Met hdr (pay 164 [(0, 1)]) up
    ∧ Rows.trngRead.Met hdr (pay 4 [(0, 16)]) up := by
  refine ⟨?_, ?_, ?_, ?_, ?_, ?_, ?_, ?_, ?_⟩ <;> decide +kernel

/-- The premises of the rows of the front end commands can be met. -/
theorem test_front_end_rows_met :
    Rows.afePinRoleSet.Met hdr (pay 4 []) up
    ∧ Rows.afePinRoleGet.Met hdr (pay 1 []) up
    ∧ Rows.afeChannelConfig.Met hdr (pay 24 []) up
    ∧ Rows.afeChannelGet.Met hdr (pay 1 []) up
    ∧ Rows.afeExcitationSet.Met hdr (pay 8 []) up
    ∧ Rows.afeLeadMeasureLoop.Met hdr (pay 12 [(1, 0), (2, 1)]) banked
    ∧ Rows.afeLeadMeasureKelvin.Met hdr (pay 12 [(1, 0), (2, 1), (3, 2)]) banked
    ∧ Rows.afeLeadMeasureSet.Met hdr (pay 12 []) up
    ∧ Rows.afeLeadGet.Met hdr (pay 1 []) up
    ∧ Rows.afePairConfigSet.Met hdr (pay 12 [(2, 1), (3, 2), (9, 1), (10, 1)]) up
    ∧ Rows.afePairConfigRemove.Met hdr (pay 12 []) up
    ∧ Rows.afePairStatus.Met hdr (pay 1 []) up
    ∧ Rows.afeDiag.Met hdr (pay 1 []) up
    ∧ Rows.afeCalRun.Met hdr (pay 8 [(0, 1), (4, 64)]) { up with afe := { up.afe with banks := 1, channels := wr up.afe.channels 0 { configured := true }, pins := wr up.afe.pins 0 { role := 1, unit := 1 } } }
    ∧ Rows.afeBankEnable.Met hdr (pay 1 []) up := by
  refine ⟨?_, ?_, ?_, ?_, ?_, ?_, ?_, ?_, ?_, ?_, ?_, ?_, ?_, ?_, ?_⟩ <;> decide +kernel

/-- The premises of the rows of the stream commands can be met. -/
theorem test_stream_rows_met :
    Rows.streamConfigSet.Met hdr (pay 32 [(4, 64), (9, 1), (12, 2)]) up
    ∧ Rows.streamConfigRemove.Met hdr (pay 32 []) up
    ∧ Rows.streamGet.Met hdr (pay 1 []) up
    ∧ Rows.streamStart.Met hdr (pay 12 []) up
    ∧ Rows.streamStopNow.Met hdr (pay 16 []) up
    ∧ Rows.streamStopAfterFrame.Met hdr (pay 16 []) up
    ∧ Rows.sportConfig.Met hdr (pay 12 []) up
    ∧ Rows.sportGet.Met hdr (pay 1 []) up
    ∧ Rows.tachConfig.Met hdr (pay 8 []) up
    ∧ Rows.encConfig.Met hdr (pay 4 []) up
    ∧ Rows.streamCounters.Met hdr (pay 4 [(1, 1)]) up
    ∧ Rows.streamCountersClear.Met hdr (pay 4 [(1, 1), (2, 1)]) up
    ∧ Rows.streamSnapshot.Met hdr (pay 12 []) { up with stm := { up.stm with streams := wr up.stm.streams 0 { phase := .running } } } := by
  refine ⟨?_, ?_, ?_, ?_, ?_, ?_, ?_, ?_, ?_, ?_, ?_, ?_, ?_⟩ <;> decide +kernel

/-- The premises of the rows of the feature commands can be met. -/
theorem test_feature_rows_met :
    Rows.featConfigSet.Met hdr (pay 28 [(1, 1), (2, 1), (10, 1), (14, 1), (16, 1), (17, 1), (20, 1), (24, 8)]) up
    ∧ Rows.featConfigRemove.Met hdr (pay 20 []) up
    ∧ Rows.featGet.Met hdr (pay 1 []) up
    ∧ Rows.featOrderConfig.Met hdr (pay 16 []) up
    ∧ Rows.featBandsSet.Met hdr (pay 4 []) up
    ∧ Rows.featStateConfig.Met hdr (pay 20 [(2, 128)]) up
    ∧ Rows.featFrameRead.Met hdr (pay 4 []) { up with feat := { up.feat with streams := wr up.feat.streams 0 { latest := some default } } }
    ∧ Rows.beltPositionGet.Met hdr [] up
    ∧ Rows.beltConfigSet.Met hdr (pay 16 [(0, 1), (1, 1), (2, 1), (3, 255), (8, 1)]) up
    ∧ Rows.beltConfigDisable.Met hdr (pay 4 []) up
    ∧ Rows.setIndex.Met hdr (pay 4 []) { up with feat := { up.feat with belt := { up.feat.belt with configured := true, splices := 2, state := .unsynced } } }
    ∧ Rows.beltClearCount.Met hdr (pay 4 []) up := by
  refine ⟨?_, ?_, ?_, ?_, ?_, ?_, ?_, ?_, ?_, ?_, ?_, ?_⟩ <;> decide +kernel

/-- The premises of the rows of the model commands can be met. -/
theorem test_model_rows_met :
    Rows.modelLoadBegin.Met hdr (pay 12 [(0, 1), (5, 1)]) up
    ∧ Rows.modelLoadData.Met hdr (pay 9 [(0, 2)]) (withModel 0 { phase := .loading })
    ∧ Rows.modelLoadAbandon.Met hdr (pay 4 [(0, 3)]) (withModel 0 { phase := .loading })
    ∧ Rows.modelVerify.Met hdr (pay 4 []) (withModel 0 { phase := .received })
    ∧ Rows.modelPlace.Met hdr (pay 4 []) (withModel 0 { phase := .verified })
    ∧ Rows.modelPlaceRidge.Met hdr (pay 4 [(1, 1)]) (withModel 0 { phase := .verified, image := pay 64 [(35, 2)] } { chained with own := { chained.own with slots := wr chained.own.slots 0 { provisioned := true, rk := 1 } } })
    ∧ Rows.modelUnload.Met hdr (pay 4 []) (withModel 0 { phase := .placed })
    ∧ Rows.modelPlacementGet.Met hdr (pay 4 []) (withModel 0 { phase := .placed })
    ∧ Rows.modelList.Met hdr [] up
    ∧ Rows.modelStart.Met hdr (pay 4 []) (withModel 0 { phase := .placed, bound := 1 } { up with feat := { up.feat with streams := wr up.feat.streams 0 { config := pay 8 [] } } })
    ∧ Rows.modelStop.Met hdr (pay 4 []) (withModel 0 { phase := .running })
    ∧ Rows.modelReplace.Met hdr (pay 4 [(1, 1)]) (withModel 1 { phase := .verified } (withModel 0 { phase := .placed }))
    ∧ Rows.modelBindStreams.Met hdr (pay 16 [(4, 1)]) (withModel 0 { phase := .placed }) := by
  refine ⟨?_, ?_, ?_, ?_, ?_, ?_, ?_, ?_, ?_, ?_, ?_, ?_, ?_⟩ <;> decide +kernel

/-- The premises of the rows of the manager commands can be met. -/
theorem test_manager_rows_met :
    Rows.jobSubmit.Met hdr (pay 68 []) (withModel 0 { phase := .placed })
    ∧ Rows.resultRead.Met hdr (pay 12 [(0, 255), (8, 1)]) up
    ∧ Rows.resultPin.Met hdr (pay 4 []) withResult
    ∧ Rows.resultUnpin.Met hdr (pay 4 []) withResult
    ∧ Rows.rmStatus.Met hdr [] up
    ∧ Rows.rmCounters.Met hdr (pay 4 []) (withModel 0 { phase := .placed })
    ∧ Rows.rmCountersClear.Met hdr (pay 4 []) (withModel 0 { phase := .placed })
    ∧ Rows.rmShareSet.Met hdr [] up
    ∧ Rows.queueStatus.Met hdr (pay 1 []) up
    ∧ Rows.queueStatusClearHigh.Met hdr (pay 1 []) up
    ∧ Rows.resultSubscribe.Met hdr (pay 8 []) (withModel 0 { phase := .placed }) := by
  refine ⟨?_, ?_, ?_, ?_, ?_, ?_, ?_, ?_, ?_, ?_, ?_⟩ <;> decide +kernel

/-- The premises of the rows of the head commands can be met. -/
theorem test_head_rows_met :
    Rows.headConfig.Met hdr ((pay 44 []).take 4 ++ pay 40 [(6, 9), (8, 1), (10, 1), (16, 1), (24, 1), (33, 1), (34, 1)]) (withHead {})
    ∧ Rows.headGet.Met hdr (pay 4 []) (withHead {})
    ∧ Rows.rewardCancel.Met hdr (pay 8 []) (withHead { loaded := true })
    ∧ Rows.rewardImmediate.Met hdr (pay 8 [(1, 1), (2, 5)]) (withHead { loaded := true })
    ∧ Rows.rewardHeld.Met hdr (pay 8 [(1, 2), (2, 5), (4, 1)]) (withHead { loaded := true })
    ∧ Rows.modulatorConfig.Met hdr (pay 20 []) (withHead {})
    ∧ Rows.headFreeze.Met hdr (pay 4 []) (withHead {})
    ∧ Rows.headResume.Met hdr (pay 4 []) (withHead {})
    ∧ Rows.headSave.Met hdr (pay 4 []) (withHead {})
    ∧ Rows.headRestore.Met hdr (pay 4 [(1, 2)]) (withHead {})
    ∧ Rows.headExport.Met hdr (pay 4 [(1, 1)]) (withHead {})
    ∧ Rows.headImport.Met hdr (pay 4 [] ++ [0x48, 0x58, 0x50, 0x31, 1, 0] ++ pay 42 []) (withHead {})
    ∧ Rows.headConsolidate.Met hdr (pay 4 []) (withHead { hrec := pay 40 [(18, 2)], loaded := true })
    ∧ Rows.headStats.Met hdr (pay 4 []) (withHead {})
    ∧ Rows.headStatsClear.Met hdr (pay 4 []) (withHead {})
    ∧ Rows.headReset.Met hdr (pay 4 []) (withHead {})
    ∧ Rows.headEraseOrphan.Met hdr (pay 4 [(1, 1)]) { up with lrn := { up.lrn with heads := wr up.lrn.heads 0 { areas := wr (Vector.replicate 2 none) 0 (some (pay 64 [])), current := some 0 } } } := by
  refine ⟨?_, ?_, ?_, ?_, ?_, ?_, ?_, ?_, ?_, ?_, ?_, ?_, ?_, ?_, ?_, ?_, ?_⟩ <;> decide +kernel

/-- The premises of the rows of the belay commands can be met. -/
theorem test_belay_rows_met :
    Rows.houtMap.Met hdr [] up
    ∧ Rows.houtGet.Met hdr [] up
    ∧ Rows.belayConfig.Met hdr [] up
    ∧ Rows.belayArm.Met hdr [] up
    ∧ Rows.belayDisarm.Met hdr [] (withBelay .armed)
    ∧ Rows.belayTrip.Met hdr (pay 4 []) up
    ∧ Rows.belayAbortHold.Met hdr [] (withBelay .hold)
    ∧ Rows.belayRearm.Met hdr (pay 4 [(0, 1)]) (withBelay .stopped)
    ∧ Rows.belayDeclareStop.Met hdr (pay 4 [(0, 2)]) (withBelay .coasting)
    ∧ Rows.belayStatus.Met hdr [] up
    ∧ Rows.alarmSetMask.Met hdr (pay 4 []) up
    ∧ Rows.alarmSetHost.Met hdr (pay 4 [(0, 1)]) up
    ∧ Rows.alarmClearHost.Met hdr (pay 4 [(0, 2)]) up
    ∧ Rows.alarmAcknowledge.Met hdr (pay 4 [(0, 3), (2, 16)]) up := by
  refine ⟨?_, ?_, ?_, ?_, ?_, ?_, ?_, ?_, ?_, ?_, ?_, ?_, ?_, ?_⟩ <;> decide +kernel

/-- The premises of the rows of the rope commands can be met. -/
theorem test_rope_rows_met :
    Rows.ropeStatus.Met hdr [] up
    ∧ Rows.ropeEnumerate.Met hdr [] up
    ∧ Rows.ropeDetach.Met hdr (pay 4 []) up
    ∧ Rows.ropeAttach.Met hdr [] up
    ∧ Rows.ropeRelay.Met hdr (pay 16 [(0, 1)]) chained
    ∧ Rows.ropeTopologyGet.Met hdr [] up
    ∧ Rows.ropeRetrain.Met hdr (pay 4 []) { chained with rope := { chained.rope with ports := wr chained.rope.ports 0 { phase := .up } } }
    ∧ Rows.ropeCounters.Met hdr (pay 4 []) up
    ∧ Rows.ropeCountersClear.Met hdr (pay 4 []) up := by
  refine ⟨?_, ?_, ?_, ?_, ?_, ?_, ?_, ?_, ?_⟩ <;> decide +kernel

/-- The premises of the rows of the record commands can be met. -/
theorem test_record_rows_met :
    Rows.cairnInfo.Met hdr (pay 16 []) up
    ∧ Rows.cairnRead.Met hdr (pay 24 [(0, 1), (4, 1)]) up
    ∧ Rows.cairnReadPinned.Met hdr (pay 24 [(4, 1)]) up
    ∧ Rows.cairnMark.Met hdr (pay 32 []) up
    ∧ Rows.cairnMarkDropped.Met hdr (pay 32 []) { up with cairn := { up.cairn with queue := List.replicate 32 default } }
    ∧ Rows.cairnRemoteRead.Met hdr (pay 28 [(0, 1), (8, 1)]) chained := by
  refine ⟨?_, ?_, ?_, ?_, ?_, ?_⟩ <;> decide +kernel

/-- The premises of the rows of the core commands can be met. -/
theorem test_core_rows_met :
    Rows.calRun.Met hdr (pay 4 [(0, 1)]) up
    ∧ Rows.calStatus.Met hdr [] up
    ∧ Rows.selftestRunQuick.Met hdr (pay 4 [(0, 1), (1, 1)]) up
    ∧ Rows.selftestRunFull.Met hdr (pay 4 [(0, 1), (1, 2)]) up
    ∧ Rows.selftestResult.Met hdr [] up
    ∧ Rows.wearStatus.Met hdr [] up
    ∧ Rows.wearConfig.Met hdr [] up
    ∧ Rows.coreStatus.Met hdr [] up
    ∧ Rows.coreFence.Met hdr (pay 4 []) up
    ∧ Rows.coreUnfence.Met hdr (pay 4 [(1, 2)]) { up with lrn := { up.lrn with cores := wr up.lrn.cores 0 { fenced := true } } }
    ∧ Rows.clipCounters.Met hdr (pay 4 []) up
    ∧ Rows.clipCountersClear.Met hdr (pay 4 []) up := by
  refine ⟨?_, ?_, ?_, ?_, ?_, ?_, ?_, ?_, ?_, ?_, ?_, ?_⟩ <;> decide +kernel

/-- The conditions of the rows of the port events can be met. -/
theorem test_port_events_ready :
    (Rows.push .spi 0 noop).ready up
    ∧ (Rows.qpush 0 noop).ready up
    ∧ (Rows.pushOverrun .spi 16384 [0]).ready up
    ∧ (Rows.pushNoSync .spi 0 [0]).ready up
    ∧ (Rows.pull .spi 12).ready ({ up with link := { up.link with out := [.notice { opcode := 0, tag := 0, status := 0x20, seq := 0 }] } })
    ∧ (Rows.qpull 12).ready ({ up with link := { up.link with out := [.notice { opcode := 0, tag := 0, status := 0x20, seq := 0 }] } })
    ∧ (Rows.pullShort .spi 3).ready ({ up with link := { up.link with out := [.notice { opcode := 0, tag := 0, status := 0x20, seq := 0 }] } })
    ∧ (Rows.pullNothing .spi 3).ready up
    ∧ (Rows.clearStatus .spi 0).ready up
    ∧ (Rows.invalidTransportOpcode 0x07).ready up
    ∧ (Rows.linkStatusRead .i2c).ready up
    ∧ (Rows.fragmentTimeout 0).ready ({ up with link := { up.link with slots := [{ tag := 0, opcode := 0, fragments := 1 }] } })
    ∧ (Rows.sessionIdleTimeout 0).ready up := by
  refine ⟨?_, ?_, ?_, ?_, ?_, ?_, ?_, ?_, ?_, ?_, ?_, ?_, ?_⟩
  · show Rows.Whole .spi 0 noop up; unfold Rows.Whole; decide +kernel
  · show Rows.Whole .spi 0 noop up; unfold Rows.Whole; decide +kernel
  all_goals decide +kernel

/-- The conditions of the rows of the clock events can be met. -/
theorem test_clock_events_ready :
    (Rows.xo32QualifyInterval 32768).ready { up with clk := { up.clk with xo32Ok := false, xo32Running := true } }
    ∧ Rows.xo32EdgeLoss.ready { up with clk := { up.clk with onLprc := false } }
    ∧ Rows.xo32Absent.ready { up with clk := { up.clk with xo32First := true, xo32Ok := false } }
    ∧ Rows.xo32Retry.ready { up with clk := { up.clk with xo32Retrying := true } }
    ∧ (Rows.xo24Qualified 5).ready { up with clk := { up.clk with xo24Try := 1, xo24On := false } }
    ∧ Rows.xo24SecondTry.ready { up with clk := { up.clk with xo24Try := 1, xo24On := false } }
    ∧ Rows.xo24Fails.ready { up with clk := { up.clk with xo24Try := 2, xo24On := false } }
    ∧ Rows.xo24Retry.ready { up with clk := { up.clk with xo24Fail := true } }
    ∧ Rows.xo24Stopped.ready { up with clk := { up.clk with xo24On := true } }
    ∧ (Rows.pllLocked 0).ready { up with clk := { up.clk with xo24On := true } }
    ∧ (Rows.pllLockLoss 0).ready { up with clk := { up.clk with lock := wr up.clk.lock 0 true } } := by
  refine ⟨?_, ?_, ?_, ?_, ?_, ?_, ?_, ?_, ?_, ?_, ?_⟩ <;> decide +kernel

/-- The conditions of the rows of the domain events can be met. -/
theorem test_domain_events_ready :
    (Rows.domainSwitchDone 10 3000 25000).ready { up with pwr := { up.pwr with requests := [(3, false)] } }
    ∧ (Rows.domainIdleRelease 3).ready { up with nvm := { up.nvm with busy := .idle } }
    ∧ Rows.va30OutOfRegulation.ready up
    ∧ Rows.va30InRegulation.ready up
    ∧ (Rows.ioRailRangeChange false false).ready up
    ∧ Rows.vcoreBuckInRegulation.ready { up with pwr := { up.pwr with waking := some default, vcoreBuck := false } }
    ∧ (Rows.vholdThreshold 0).ready up
    ∧ Rows.holdupHoldEnd.ready up := by
  refine ⟨?_, ?_, ?_, ?_, ?_, ?_, ?_, ?_⟩ <;> decide +kernel

/-- The conditions of the rows of the sleep events can be met. -/
theorem test_sleep_events_ready :
    Rows.sleepEntryStart.ready ({ up with pwr := { up.pwr with entry := some { target := .watch, discard := false, automatic := false, tag := none, begun := false } } })
    ∧ Rows.autoSleepDwellExpiry.ready ({ up with pwr := { up.pwr with policy := { up.pwr.policy with autoState := 1 } } })
    ∧ (Rows.sleepEntryComplete 100).ready ({ up with pwr := { up.pwr with entry := some { target := .watch, discard := false, automatic := false, tag := none, begun := true } } })
    ∧ Rows.wakeNLow.ready up
    ∧ Rows.tickAlarmFire.ready ({ up with pwr := { up.pwr with alarm := { up.pwr.alarm with enabled := true } } })
    ∧ (Rows.watchThresholdFire 0 (List.replicate 16 0)).ready ({ up with pwr := { up.pwr with state := .watch, watching := { up.pwr.watching with block := 16, entries := [default] } }, afe := { up.afe with banks := 1 } })
    ∧ Rows.ropeSquelchWake.ready ({ up with pwr := { up.pwr with wake := { up.pwr.wake with ropeWake := true } } })
    ∧ Rows.wakeComplete.ready { up with pwr := { up.pwr with waking := some default } } := by
  refine ⟨?_, ?_, ?_, ?_, ?_, ?_, ?_, ?_⟩ <;> decide +kernel

/-- The conditions of the rows of the reset events can be met. -/
theorem test_reset_events_ready :
    (Rows.governorSample (Vector.replicate 8 0) 0 0).ready up
    ∧ (Rows.governorInReset (Vector.replicate 8 0) 0 0).ready { up with boot := { up.boot with stage := .held } }
    ∧ (Rows.anchorTempSample 25000).ready { up with pwr := { up.pwr with state := .watch } }
    ∧ Rows.resetReplyTimeout.ready { up with boot := { up.boot with scheduled := some (0x03, 0) } }
    ∧ Rows.resetPinAssert.ready up
    ∧ Rows.resetPinRelease.ready up
    ∧ Rows.brownoutRelease.ready up
    ∧ Rows.thermalResetRelease.ready up
    ∧ Rows.resetTakeEffect.ready { up with boot := { up.boot with stage := .quiesced } }
    ∧ (Rows.powerOnReset false).ready { up with pwr := { up.pwr with state := .off } }
    ∧ (Rows.brownoutDetect []).ready { up with boot := { up.boot with brownoutHold := false } }
    ∧ Rows.powerOff.ready up
    ∧ Rows.watchdogExpiry.ready up
    ∧ (Rows.controlCoreException 0).ready up
    ∧ Rows.firmwareRestartDone.ready { up with boot := { up.boot with phase := .restarting } } := by
  refine ⟨?_, ?_, ?_, ?_, ?_, ?_, ?_, ?_, ?_, ?_, ?_, ?_, ?_, ?_, ?_⟩ <;> decide +kernel

/-- The conditions of the rows of the boot events can be met. -/
theorem test_boot_events_ready :
    (Rows.bootRomStart 0 (Vector.replicate 4 (0, 100))).ready { up with boot := { up.boot with stage := .held } }
    ∧ Rows.erasePendingComplete.ready { up with boot := { up.boot with phase := .erasePending } }
    ∧ Rows.authComplete.ready { up with boot := { up.boot with phase := .auth } }
    ∧ Rows.deviceReady.ready { up with boot := { up.boot with phase := .init } }
    ∧ Rows.bootGuardExpiry.ready { up with boot := { up.boot with guard := true } } := by
  refine ⟨?_, ?_, ?_, ?_, ?_⟩ <;> decide +kernel

/-- The conditions of the rows of the sense events can be met. -/
theorem test_sense_events_ready :
    (Rows.excLimitEngaged 0).ready ({ up with afe := { up.afe with banks := 1, drivers := wr up.afe.drivers 0 { word := 0x100 } } })
    ∧ (Rows.excLimitReleased 0).ready ({ up with afe := { up.afe with drivers := wr up.afe.drivers 0 { limit := true } } })
    ∧ (Rows.leadMeasureDone 0).ready { up with afe := { banked.afe with leadRuns := [default] } }
    ∧ Rows.streamStartInstant.ready ({ up with stm := { up.stm with starts := [{ tag := 0, streams := [0] }] } })
    ∧ (Rows.frameStart 0).ready ((withStream 0 { phase := .running }))
    ∧ (Rows.driverSettleDone 0).ready up
    ∧ (Rows.sampleArrival 0 0 3000 0 false).ready { withStream 0 { phase := .running } with afe := banked.afe }
    ∧ (Rows.fabricTransaction 0 true).ready up
    ∧ (Rows.calBurstComplete 0 [] 0 0 3000 0).ready ((withStream 0 { phase := .running, frame := some { step := .calibrating } }))
    ∧ (Rows.calRunComplete 0 [] 0 0 3000 0).ready ({ up with afe := { banked.afe with calRuns := [{ tag := 0, mask := 1, left := 1, length := 64 }] } }) := by
  refine ⟨?_, ?_, ?_, ?_, ?_, ?_, ?_, ?_, ?_, ?_⟩ <;> decide +kernel

/-- The encoder has counted five while its check tach, of one pulse per revolution, stood still. -/
def slips : State := { withInputs .armed with
  stm := { (withInputs .armed).stm with
    tachs := wr up.stm.tachs 0 { word := 0x200000, phase := .active }, encoder := { phase := .active, log := [(1, 0, 5)] } }
  feat := { up.feat with belt := { up.feat.belt with state := .synced, checkTach := 0 } } }

/-- The conditions of the rows of the frame events can be met. -/
theorem test_frame_events_ready :
    (Rows.frameClose 0).ready ((withStream 0 { phase := .running, frame := some {} }))
    ∧ (Rows.tdmFrameSync 0 true [] [] 48000).ready ((withPort { mode := .tdm }))
    ∧ (Rows.tdmFrameRegained 0 true [] [] 48000).ready ((withPort { mode := .tdm, lost := true }))
    ∧ (Rows.sportLost 0).ready ((withPort { mode := .tdm }))
    ∧ (Rows.spiPoll 0 0 []).ready ((withPort { mode := .spi, sensors := [pay 16 []] }))
    ∧ (Rows.encEdge true false 0 5).ready ((withInputs .armed))
    ∧ (Rows.spliceMarked true 0).ready ((withInputs .armed))
    ∧ Rows.encIdle.ready ((withInputs .armed))
    ∧ Rows.encoderSlip.ready slips
    ∧ Rows.encoderRestored.ready ({ withInputs .armed with clk := { up.clk with tick := 40000 }, feat := { up.feat with belt := { up.feat.belt with encLost := true } } })
    ∧ (Rows.pairPartnerTimeout 0).ready ({ withStream 0 { held := [{ stream := 0, awaiting := true }] } with afe := { up.afe with pairs := wr up.afe.pairs 0 { configured := true, streamB := 1 } } })
    ∧ Rows.featureFrameTake.ready ((withStream 0 { held := [{ stream := 0 }] }))
    ∧ Rows.featureFrameWaits.ready ({ withStream 0 { held := [{ stream := 0 }] } with pwr := { up.pwr with on := 0xFFF } }) := by
  refine ⟨?_, ?_, ?_, ?_, ?_, ?_, ?_, ?_, ?_, ?_, ?_, ?_, ?_⟩ <;> decide +kernel

/-- The conditions of the rows of the belay events can be met. -/
theorem test_belay_events_ready :
    (Rows.tachEdge 0 true 0 5).ready ((withInputs .armed))
    ∧ (Rows.tachIdle 0).ready ((withInputs .armed))
    ∧ Rows.assetUpdate.ready { up with bly := { up.bly with queue := [default] } }
    ∧ Rows.confirmWindowEnd.ready ((withInputs .hold))
    ∧ Rows.coastTimerEnd.ready { up with bly := { phase := .tripped, coasting := some 0 } }
    ∧ Rows.stopDwellEnd.ready ((withInputs .coasting))
    ∧ Rows.motionDwellEnd.ready ((withInputs .stopped))
    ∧ Rows.rearmTimerEnd.ready ((withInputs .rearm))
    ∧ Rows.startGuardEnd.ready up := by
  refine ⟨?_, ?_, ?_, ?_, ?_, ?_, ?_, ?_, ?_⟩ <;> decide +kernel

/-- The conditions of the rows of the tap events can be met. -/
theorem test_tap_events_ready :
    Rows.tapReset.ready up
    ∧ (Rows.bypass 0x1F [true]).ready up
    ∧ (Rows.idcode []).ready up
    ∧ (Rows.samplePreload [] []).ready up
    ∧ (Rows.extest [] []).ready up
    ∧ (Rows.highz [] []).ready up
    ∧ (Rows.clamp [] []).ready up
    ∧ (Rows.dbgChal []).ready up
    ∧ (Rows.dbgOpen []).ready up
    ∧ (Rows.dbgAccess []).ready up := by
  refine ⟨?_, ?_, ?_, ?_, ?_, ?_, ?_, ?_, ?_, ?_⟩ <;> decide +kernel

/-- The conditions of the rows of the work events can be met. -/
theorem test_work_events_ready :
    Rows.featureQueueRoute.ready { up with mdl := { up.mdl with features := [default] } }
    ∧ Rows.jobStartPitch.ready (withModel 0 { phase := .pitch } { chained with mdl := { up.mdl with frames := [{ frame with pitch := true, outs := [(0, [])] }] } })
    ∧ Rows.jobNotStarted.ready up
    ∧ Rows.jobStart.ready ((withModel 0 { phase := .running, image := pay 64 [(53, 1), (54, 1)], placement := { layers := [{}] } } { up with mdl := { up.mdl with frames := [frame] } }))
    ∧ Rows.layerDispatch.ready ((withModel 0 { phase := .running, placement := { layers := [{ place := .vector }] } } (withJob [])))
    ∧ (Rows.cimPassParity 0).ready ((withJob [.core 0]))
    ∧ (Rows.cimPassDone 0).ready ((withJob [.core 0]))
    ∧ Rows.streamLayerDone.ready ((withJob [.stream]))
    ∧ Rows.vectorLayerDone.ready ((withJob [.vector]))
    ∧ Rows.protoForwardDone.ready { withHead {} with mdl := (withJob [.plasticity]).mdl }
    ∧ (Rows.modelVerifyDone 0).ready ((withModel 0 { verifying := some 0 })) := by
  refine ⟨?_, ?_, ?_, ?_, ?_, ?_, ?_, ?_, ?_, ?_, ?_⟩ <;> decide +kernel

/-- The device with head 0 to be restored from a copy whose first page does not verify. -/
def torn : State :=
  let s := withHead { ops := [.load .current (some 1)], areas := wr (Vector.replicate 2 none) 0 (some (pay 64 [])), current := some 0 }
  setPage { page := areaPage 0 0, side := some { owner := 0, ctr := 0, tag := List.replicate 16 0 } } s

/-- The conditions of the rows of the head events can be met. -/
theorem test_head_events_ready :
    (Rows.learningStep 0).ready ((withHead { loaded := true, ops := [.step { pre := [], winner := 0, novelty := 0, running := true, loaded := true, speed := 0 }] }))
    ∧ (Rows.learningWaits 0).ready ({ withHead { ops := [.step { pre := [], winner := 0, novelty := 0, running := true, loaded := true, speed := 0 }] } with pwr := { up.pwr with on := 0x3FF } })
    ∧ (Rows.rewardUpdate 0).ready ((withHead { loaded := true, ops := [.reward 0 5] }))
    ∧ (Rows.settlePeriodEnd 0).ready ((withHead { settle := some 0 }))
    ∧ (Rows.holdoffPeriodEnd 0).ready ((withHead { holdoff := some 0 }))
    ∧ (Rows.headSaveCommit 0).ready ((withHead { busy := some (.saved .command none) }))
    ∧ (Rows.consolidationInForce 0).ready ((withHead { copy := some { arrays := [], ready := true } }))
    ∧ (Rows.headLoadDone 0).ready ((withHead { ops := [.load .current none] }))
    ∧ (Rows.headLoadFails 0).ready torn := by
  refine ⟨?_, ?_, ?_, ?_, ?_, ?_, ?_, ⟨⟨_, rfl, ?_⟩, ?_⟩, ⟨⟨_, rfl, ?_⟩, ?_⟩⟩ <;> decide +kernel

/-- The conditions of the rows of the core events can be met. -/
theorem test_core_events_ready :
    (Rows.arrayWriteDone 0 [] 0 false 0).ready ({ up with mdl := { up.mdl with writes := [{ model := 0, cause := default, granted := true, writes := [{ array := 0, use := default, cells := [] }] }] } })
    ∧ (Rows.recalibration 0 0 false []).ready { up with lrn := { up.lrn with cores := wr up.lrn.cores 0 { recalFirst := true } } }
    ∧ (Rows.quickSelftest 0 true).ready { up with lrn := { up.lrn with cores := wr up.lrn.cores 0 { quickDue := true } } }
    ∧ (Rows.fullSelftest 0 true true []).ready ({ up with lrn := { up.lrn with cores := wr up.lrn.cores 0 { fullDue := true } } })
    ∧ (Rows.clipWindowEnd 0).ready ({ up with mdl := { up.mdl with arrays := wr up.mdl.arrays 0 { windows := [{ use := default, conv := 16777216 }] } } })
    ∧ Rows.wearHourlyAccrual.ready up
    ∧ Rows.wearDayBoundary.ready up := by
  refine ⟨?_, ?_, ?_, ?_, ?_, ?_, ?_⟩ <;> decide +kernel

/-- The conditions of the rows of the store events can be met. -/
theorem test_store_events_ready :
    Rows.nvmTakesCommit.ready { up with cairn := { up.cairn with queue := [default] }, boot := { up.boot with hold := false } }
    ∧ Rows.nvmTakesPosted.ready ({ up with boot := { up.boot with hold := false }, nvm := { up.nvm with posted := [{ page := 0x180, job := .recordCopy .label 0 true }] } })
    ∧ Rows.nvmTakesErase.ready { up with nvm := { up.nvm with background := [0x1600] } }
    ∧ (Rows.nvmProgramDone 0 600).ready ({ up with nvm := { up.nvm with busy := .posted, posted := [{ page := 0x180, job := .recordCopy .label 0 true }] } })
    ∧ (Rows.nvmEraseDone 4000).ready ({ up with nvm := { up.nvm with busy := .posted, posted := [{ page := 0x180, job := .recordCopy .label 0 true, erase := true }] } })
    ∧ (Rows.nvmBackgroundEraseDone 0x1600 4000).ready { up with nvm := { up.nvm with busy := .background 0x1600 } }
    ∧ (Rows.cairnCommit (Vector.replicate 6 (0, 100))).ready { up with cairn := { up.cairn with queue := [default] }, boot := { up.boot with hold := false } }
    ∧ (Rows.remoteReadTimeout 0).ready up
    ∧ Rows.fwImageVerified.ready { up with boot := { up.boot with commit := some default } }
    ∧ (Rows.trngHealthFail false).ready up
    ∧ Rows.trngRetry.ready { up with own := { up.own with trngFault := true } }
    ∧ Rows.debugChallengeExpiry.ready up := by
  refine ⟨?_, ⟨?_, ?_, 0, _, ?_, rfl, ?_⟩, ?_, ?_, ?_, ?_, ?_, ?_, ⟨_, rfl, ?_⟩, ?_, ?_, ?_⟩ <;> decide +kernel

/-- The conditions of the rows of the link events can be met. -/
theorem test_link_events_ready :
    (Rows.train rx 1 1 1 3 (Vector.replicate 4 16)).ready ((withRope { phase := .up, lanes := 3, synced := 3, unacked := 1 }))
    ∧ (Rows.trainAck rx 3).ready ((withRope { phase := .training }))
    ∧ (Rows.trainingNextAttempt 0).ready ((withRope { phase := .training, attempt := 1 }))
    ∧ (Rows.trainingFails 0).ready ((withRope { phase := .training, attempt := 5 }))
    ∧ (Rows.codeGroupSyncAcquired 0 0).ready ((withRope { phase := .up, lanes := 3, synced := 3, unacked := 1 }))
    ∧ (Rows.laneSyncLoss 0 0).ready ((withRope { phase := .up, lanes := 3, synced := 3, unacked := 1 }))
    ∧ (Rows.squelchSilence 0).ready ((withRope { phase := .up }))
    ∧ (Rows.wakeBurstTimeout 0).ready ((withRope { burst := true }))
    ∧ Rows.enumStart.ready up
    ∧ Rows.noEnumTimeout.ready ({ chained with pins := { up.pins with straps := 8 }, rope := { chained.rope with index := 0xFF, ports := wr chained.rope.ports 0 { phase := .up } } })
    ∧ Rows.heartbeatSend.ready chained
    ∧ Rows.heartbeatLoss.ready ({ chained with pins := { up.pins with straps := 8 }, rope := { chained.rope with index := 1, ports := wr chained.rope.ports 0 { phase := .up } } })
    ∧ (Rows.circulationRoundStart 0).ready ((withModel 0 { phase := .running, placement := { mode := 5 } } { chained with mdl := { chained.mdl with frames := [frame] } })) := by
  refine ⟨?_, ?_, ?_, ?_, ?_, ?_, ?_, ?_, ?_, ?_, ?_, ?_, ?_⟩ <;> decide +kernel

/-- The conditions of the rows of the rope frames can be met. -/
theorem test_rope_frames_ready :
    (Rows.enum rx 0 0 []).ready ((withRope { phase := .up, lanes := 3, synced := 3, unacked := 1 }))
    ∧ (Rows.enumEnd rx 0 []).ready ((withRope { phase := .up, lanes := 3, synced := 3, unacked := 1 }))
    ∧ (Rows.topology rx 0 .chain 0 0 []).ready ((withRope { phase := .up, lanes := 3, synced := 3, unacked := 1 }))
    ∧ (Rows.headConflict rx).ready ((withRope { phase := .up, lanes := 3, synced := 3, unacked := 1 }))
    ∧ (Rows.heartbeat rx 0).ready ((withRope { phase := .up, lanes := 3, synced := 3, unacked := 1 }))
    ∧ (Rows.linkLostHeard rx 0 0).ready ((withRope { phase := .up, lanes := 3, synced := 3, unacked := 1 }))
    ∧ (Rows.join rx 0).ready ((withRope { phase := .up, lanes := 3, synced := 3, unacked := 1 }))
    ∧ (Rows.sleep rx).ready ((withRope { phase := .up, lanes := 3, synced := 3, unacked := 1 }))
    ∧ (Rows.detach rx).ready ((withRope { phase := .up, lanes := 3, synced := 3, unacked := 1 }))
    ∧ (Rows.round rx 0 0).ready ((withRope { phase := .up, lanes := 3, synced := 3, unacked := 1 }))
    ∧ (Rows.roundDone rx 0 0 0).ready ((withRope { phase := .up, lanes := 3, synced := 3, unacked := 1 }))
    ∧ (Rows.roundAbort rx 0).ready ((withRope { phase := .up, lanes := 3, synced := 3, unacked := 1 }))
    ∧ (Rows.retire rx 0 0).ready ((withRope { phase := .up, lanes := 3, synced := 3, unacked := 1 }))
    ∧ (Rows.landGrant rx 0 0 0).ready ((withRope { phase := .up, lanes := 3, synced := 3, unacked := 1 }))
    ∧ (Rows.act rx 0 0 0 0 [] []).ready ((withRope { phase := .up, lanes := 3, synced := 3, unacked := 1 }))
    ∧ (Rows.wstream rx 0 0 0 0 0 [] []).ready ((withRope { phase := .up, lanes := 3, synced := 3, unacked := 1 }))
    ∧ (Rows.cmd rx 0 false false []).ready ((withRope { phase := .up, lanes := 3, synced := 3, unacked := 1 }))
    ∧ (Rows.cairnFrame rx 0 false false []).ready ((withRope { phase := .up, lanes := 3, synced := 3, unacked := 1 }))
    ∧ (Rows.credit 0 0 false (Vector.replicate 4 0)).ready ((withRope { phase := .up, lanes := 3, synced := 3, unacked := 1 }))
    ∧ (Rows.creditBad 0 0 false (Vector.replicate 4 0)).ready ((withRope { phase := .up, lanes := 3, synced := 3, unacked := 1 }))
    ∧ (Rows.ackTimer 0).ready ((withRope { phase := .up, lanes := 3, synced := 3, unacked := 1 })) := by
  refine ⟨?_, ?_, ?_, ?_, ?_, ?_, ?_, ?_, ?_, ?_, ?_, ?_, ?_, ?_, ?_, ?_, ?_, ?_, ?_, ?_, ?_⟩ <;> decide +kernel


/-! ### The premises of the other statements, clause by clause -/

/-- A device whose four owner slots are unprovisioned. -/
def bare : State := { up with own := { up.own with slots := Vector.replicate 4 {} } }

/-- A command of owner 0 in flight on tag 1, past its commit mark or not. -/
def target (committed : Bool) : State :=
  { up with link := { up.link with slots := [{ tag := 1, opcode := 0x52, secure := true, session := 1, named := 1, committed }] } }

/-- A pending reply of `n` bytes. -/
def replying (n : Nat) : State :=
  { up with link := { up.link with out := [.reply { opcode := 1, tag := 1, status := 0, payload := List.replicate n 0 }] } }

/-- A pending event without a body, of an owner or none. -/
def telling (o : Option (BitVec 2)) : State :=
  { up with link := { up.link with out := [.event { code := 0x83, high := true, owner := o }] } }

/-- `n` marks of owner 0 in the last hour. -/
def marked (n : Nat) : State := { up with cairn := { up.cairn with marks := List.replicate n (0x0400, 0) } }

/-- Boot has reached a phase. -/
def booted (p : BootPhase) : State := { up with boot := { up.boot with phase := p } }

/-- The shaft moves in STOPPED. -/
def moves : State := { withInputs .stopped with bly := { (withInputs .stopped).bly with dwell := true } }

/-- Premise of StepIdle. -/
theorem test_step_idle : up.pending = [] ∧ up.isOn 0 = true ∧ State.reset.pending = [] := by decide +kernel

/-- Premises of ReceiveOverrun: no space is left, and one byte comes. -/
theorem test_receive_overrun : hears .spi up = true ∧ 16384 - min 16384 16384 < pushSize .spi [0] := by decide +kernel

/-- Premises of InterruptLine. -/
theorem test_interrupt_line : up.isOn 2 = true ∧ up.pwr.vioHOk = true ∧ hears .spi up = true := by decide +kernel

/-- Premises of RightsRefused: a non-secure Site command; a device with no owner. -/
theorem test_rights_refused :
    Taken {} up ∧ (Rows.ownerProvision.rights {} [] up).allow {} up = false ∧ unprovisioned bare = true := by decide +kernel

/-- Premises of LongReply, at the boundary of each clause. -/
theorem test_long_reply :
    hears .spi (replying 4069) = true ∧ (replying 4069).link.out.length = 1 ∧ 4068 < 4069 ∧ 4092 ≤ 4092
      ∧ 4079 < 4080 ∧ hears .spi (replying 4068) = true ∧ 4068 ≤ 4068 := by decide +kernel

/-- Premises of AbortRights: a target without the rights, and one with them past its commit mark. -/
theorem test_abort_rights :
    Taken {} (target false) ∧ (target false).slot? 1 ≠ none ∧ (1 : Tag) ≠ 0
      ∧ ((target false).slot? 1).any (fun c => c.secure != false) = true
      ∧ Taken hdr (target true)
      ∧ ((target true).slot? 1).any (fun c => c.secure && c.owner == 0 && c.named == ((target true).session 0).id && c.committed) = true := by
  decide +kernel

/-- Premises of OwnerEvents: no owner, a live session, none. -/
theorem test_owner_events :
    hears .spi (telling none) = true ∧ hears .spi (telling (some 0)) = true ∧ ((telling (some 0)).session 0).phase = .live
      ∧ ((telling (some 1)).session 1).phase ≠ .live ∧ 0 + 36 ≤ 36 := by decide +kernel

/-- Premises of BeltMoves. -/
theorem test_belt_moves :
    moves.bly.phase = .stopped ∧ moves.bly.dwell = true ∧ (coastTach moves).isSome = true ∧ belayRuns moves = true := by decide +kernel

/-- Premises of DeclaredStop: in TRIPPED with BELAY_NO_DECEL raised; in ARMED. -/
theorem test_declared_stop :
    Taken hdr (withBelay .tripped) ∧ Rights.site.allow hdr (withBelay .tripped) = true ∧ (pay 4 []).length = 4 ∧ fld (pay 4 []) 1 3 = 0
      ∧ (withBelay .tripped).bly.noDecel = true ∧ (withBelay .tripped).cairn.queue.length < 30
      ∧ Taken hdr (withBelay .armed) ∧ (withBelay .armed).bly.phase ≠ .tripped := by decide +kernel

/-- Premises of OwnerOrder: slot 1 on a bare device; removing slot 0 while slot 1 is provisioned. -/
theorem test_owner_order :
    Taken {} bare ∧ fld (pay 36 [(0, 1)]) 0 1 ≠ 0 ∧ unprovisioned bare = true ∧ fld [0] 0 1 = 0
      ∧ (let s := { up with own := { up.own with slots := wr up.own.slots 1 { provisioned := true } } }
         Taken hdr s ∧ (s.ownerSlot 1).provisioned = true) := by decide +kernel

/-- Premises of RecordPositions, at the boundary of its clauses. -/
theorem test_record_positions :
    (3842#32).toNat > 3841 ∧ (3841#32).toNat ≤ 3841 ∧ cairnPosition 1 = 256 ∧ cairnPosition 3840 = 4095 ∧ cairnPosition 3841 = 256 := by
  decide +kernel

/-- Premises of MarkLimit: 15 marks, and 16. -/
theorem test_mark_limit :
    Taken hdr (marked 15) ∧ Rights.anyOwner.allow hdr (marked 15) = true ∧ (pay 32 []).length = 32 ∧ (marked 15).cairn.queue.length < 32
      ∧ (Rows.recentMarks (marked 15)).countP (fun m => m.1 == Rows.markSource hdr) = 15
      ∧ Taken hdr (marked 16) ∧ (Rows.recentMarks (marked 16)).countP (fun m => m.1 == Rows.markSource hdr) = 16 := by decide +kernel

/-- Premises of TurnedAway, clause by clause: a tag in flight; booting; failed; no live session; a packet that does not verify. -/
theorem test_turned_away :
    hears .spi (target false) = true ∧ (target false).pwr.entry.any (·.automatic) = false ∧ (target false).link.closed = false
      ∧ ((target false).slot? 1).any (fun c => !c.ready) = true
      ∧ hears .spi (booted .auth) = true ∧ (booted .auth).slot? 0 = none ∧ (booted .auth).boot.phase = .auth
      ∧ hears .spi (booted .failed) = true ∧ (booted .failed).boot.phase = .failed ∧ hdr.secure = true
      ∧ (up.session 1).phase ≠ .live ∧ up.boot.phase = .ready ∧ (up.session 0).phase = .live
      ∧ ({ hdr with seq := 1 } : Hdr).seq ≠ BitVec.ofNat 8 (up.session 0).rx := by decide +kernel

/-- Premises of SleepRefused. -/
theorem test_sleep_refused :
    Taken hdr (withBelay .tripped) ∧ Rights.site.allow hdr (withBelay .tripped) = true ∧ fld (pay 4 [(0, 1)]) 0 4 < 512
      ∧ (withBelay .hold).bly.phase = .hold ∧ (withBelay .coasting).bly.phase = .coasting := by decide +kernel

/-- Premises of SoloHasNoRope: a Solo chip, and a Ridge chip that would execute the command. -/
theorem test_solo_has_no_rope :
    (let s := { up with pins := { up.pins with straps := 0 } }; Taken hdr s ∧ isRidge s = false) ∧ isRidge up = true
      ∧ Rows.ropeStatus.ready hdr [] up := by decide +kernel

/-- Premises of the frames, of MemoryLasts and of RecordOnlyGrows: a command taken up that goes on to a next state. -/
theorem test_frames : Taken hdr up ∧ (exec (.nop hdr []) up matches .next _) = true := by decide +kernel

/-- Premises of MemoryStaysCanonical: in a canonical state a step goes on, with a command waiting and without. -/
theorem test_memory_canonical :
    MemoryWf up ∧ (step up matches .next _) = true ∧ (step { up with pending := [.nop hdr []] } matches .next _) = true := by
  decide +kernel

/-- Premises of TripKeepsOutputLow. -/
theorem test_trip_keeps_low :
    fallen (withBelay .tripped).bly.phase ∧ (exec (.belayDeclareStop hdr (pay 4 [])) (withBelay .tripped) matches .next _) = true
      ∧ (withBelay .tripped).own.heldCommands = [] := by unfold fallen; decide +kernel

/-- Premises of PushRunsItsRow: a NOP packet. -/
theorem test_push_runs_its_row : Rows.Whole .spi 0 noop up ∧ (Rows.spelled (noop.getD 4 0) (Rows.payloadOf .spi noop up)).isSome = true := by
  refine ⟨?_, ?_⟩
  · unfold Rows.Whole; decide +kernel
  · decide +kernel

/-- Premises of RecordOnlyGrows: a position is held and no operation works on its page; and the same at a reset's release. -/
theorem test_record_grows :
    (let s := setPage { page := cellPage 256, data := [1] } up
     Held s 256 ∧ s.nvm.posted = [] ∧ s.nvm.busy = .idle ∧ (exec (.brownoutDetect []) s matches .next _) = true)
    ∧ (let s := setPage { page := cellPage 300, data := [1] } { up with boot := { up.boot with stage := .held } }
       Held s 300 ∧ ∃ t, exec (.bootRomStart 0 (Vector.replicate 4 (0, 100))) s = .next t) := by
  refine ⟨⟨?_, ?_, ?_, ?_⟩, ?_, ?_⟩
  iterate 5 decide +kernel
  simp only [exec, execBootRomStart]
  (repeat' split) <;> exact ⟨_, rfl⟩

/-- Premises of RailsOutOfRange, clause by clause. -/
theorem test_rails_out_of_range :
    let s := { up with pwr := { up.pwr with vioHOk := false, vioSOk := false } }
    railOk s (Ball.rail .irqN) = false ∧ Rows.atHostRail .wakeNLow = true ∧ s.pwr.vioHOk = false
      ∧ Rows.atSensorRail (.tachEdge 0 true 0 0) = true ∧ s.pwr.vioSOk = false := by decide +kernel

/-- Premises of LanesCarryFrames: a port on two lanes, and on either one. -/
theorem test_lanes :
    (({ phase := .up, lanes := 3 } : RopePort).sends = 3) ∧ (({ phase := .up, lanes := 1 } : RopePort).sends = 1)
      ∧ (({ phase := .up, lanes := 2 } : RopePort).sends = 2) := by decide

/-- Premises of OrdersPermute: the row groups of 8, 16 and 32. -/
theorem test_groups_divide : 8 ∣ 256 ∧ 16 ∣ 256 ∧ 32 ∣ 256 := by decide

/-- The one stop of OnlyDebugRefuses is met: debug is open. -/
theorem test_debug_refuses :
    (exec (.dbgAccess []) { up with own := { up.own with debugOpen := true } } matches .refused .debugAccess) = true := by decide +kernel

/-! ### What well-formedness refuses -/

/-- OWNER is not 0 in a packet that is not secure; a packet that is not secure has no GCM tag to fail; a message is too long. -/
theorem test_wf_refuses_headers :
    (Instr.nop { owner := 1 } []).wf = false ∧ (Instr.nop { authentic := false } []).wf = false ∧ (Instr.nop {} []).wf = true := by decide +kernel

/-- One byte more than 256 fragments hold. -/
theorem test_wf_refuses_payload : payloadOk (List.replicate (256 * 4068 + 1) 0) = false := by
  simp only [payloadOk, List.length_replicate]; decide

/-- The receive buffer holds at most 16 384 bytes; PUSH is a listed transport opcode. -/
theorem test_wf_refuses_port :
    (Instr.push .spi 16385 []).wf = false ∧ (Instr.qpush 16385 []).wf = false ∧ (Instr.invalidTransportOpcode .spi 0x02).wf = false := by decide

/-- There are three PLLs, 24 domains and 96 streams; BYPASS is none of the TAP's other instructions. -/
theorem test_wf_refuses_numbers :
    (Instr.pllLocked 3).wf = false ∧ (Instr.pllLockLoss 3).wf = false ∧ (Instr.domainIdleRelease 24).wf = false
      ∧ (Instr.sampleArrival 96 0 0 0 false).wf = false ∧ (Instr.fabricTransaction 96 false).wf = false ∧ (Instr.frameStart 96).wf = false
      ∧ (Instr.frameClose 96).wf = false ∧ (Instr.bypass 0x01 []).wf = false := by decide

/-- A Rope has at most 64 chips, TOPOLOGY lists as many as it counts, and a Rope frame holds at most 2048 bytes. -/
theorem test_wf_refuses_frames :
    (Instr.enum rx 0 0 (List.replicate 65 0)).wf = false ∧ (Instr.enumEnd rx 0 (List.replicate 65 0)).wf = false
      ∧ (Instr.topology rx 0 .chain 65 0 (List.replicate 65 0)).wf = false ∧ (Instr.topology rx 0 .chain 2 0 [0]).wf = false
      ∧ (Instr.act rx 0 0 0 0 (List.replicate 2029 0) (List.replicate 16 0)).wf = false ∧ (Instr.act rx 0 0 0 0 [] []).wf = false
      ∧ (Instr.wstream rx 0 0 0 0 0 (List.replicate 2029 0) (List.replicate 16 0)).wf = false ∧ (Instr.wstream rx 0 0 0 0 0 [] []).wf = false
      ∧ (Instr.cmd rx 0 false false (List.replicate 2049 0)).wf = false ∧ (Instr.cairn rx 0 false false (List.replicate 2049 0)).wf = false := by
  decide +kernel

/-! ### Values the spec works out -/

/-- R30: the CRC of the ASCII digits 1 to 9. -/
theorem test_crc_check : crc32c [0x31, 0x32, 0x33, 0x34, 0x35, 0x36, 0x37, 0x38, 0x39] = 0xE3069283 := by decide +kernel

/-- SHA-256 of the ASCII text abc (the example of FIPS 180-4). -/
theorem test_sha256 :
    sha256 [0x61, 0x62, 0x63] = be 32 0xba7816bf8f01cfea414140de5dae2223b00361a396177a9cb410ff61f20015ad := by decide +kernel

/-- AES-256-GCM of one block of zeros under a key and a nonce of zeros (test case 14 of the GCM specification). -/
theorem test_gcm : gcmSeal 0 (List.replicate 12 0) [] (List.replicate 16 0)
    = (be 16 0xcea7403d4d606b6e074ec5d3baf39d18, be 16 0xd0d1c8a799996bf0265b98b5d48ab919) := by decide +kernel

/-- AES-128 of the example of FIPS 197, and back. -/
theorem test_aes128 :
    let keys := roundKeys128 (be 16 0x000102030405060708090a0b0c0d0e0f)
    aesRounds keys (be 16 0x00112233445566778899aabbccddeeff) = be 16 0x69c4e0d86a7b0430d8cdb78070b4c55a
      ∧ aesBack keys (be 16 0x69c4e0d86a7b0430d8cdb78070b4c55a) = be 16 0x00112233445566778899aabbccddeeff := by decide +kernel

/-- Example 14-1, and the score 0.25 of Example 11-1. -/
theorem test_index_code : indexCode 2867 = 2703 ∧ indexCode 1024 = 1229 := by decide

/-- Example 5-2: the raw code of 102.5 Ω over 400 Ω at G = 2, its lead correction and the sample. -/
theorem test_rtd_sample :
    (rawCode { cfg0 := 0x100000 } 102500 400000 false).1 = 4299162
      ∧ correct { cfg0 := 0x100000, leads := 0x4000, rNom := 400000, burst := { leads := 2500 } } 4299162 = 4194304 := by decide

/-- Example 8-1: the conversions of its column and of REF0, and no clip at 30.5 S (R197). -/
theorem test_conversions :
    convert 4 99 0 = (25, 0) ∧ convert 4 110 0 = (28, 0) ∧ convert 4 104 0 = (26, 0) ∧ convert 4 122 0 = (31, 0) ∧ convert 4 123 0 = (31, 1)
      ∧ shiftRound 12800 10 = 13 := by decide

/-- A NOP on a Solo chip is done at once: an empty reply with status DONE waits on its tag. -/
theorem test_nop_replies :
    (match step { up with pending := [.nop hdr []] } with
      | .next t => t.link.out.map (fun o => match o with | .reply r => (r.opcode, r.tag, r.status, r.payload) | _ => default)
      | _ => []) = [(0, 0, 0, [])] := by decide +kernel

/-- From reset, with nothing waiting, a step goes on. -/
theorem test_reset_idle : (step State.reset matches .next _) = true := by decide +kernel

end Sys2Proof.Tests
end

/-! PROOFS. What each operation and each meaning leaves as it is: the frames of the events and of the commands that reach far. -/

namespace Sys2Proof.Machine

/-! ### The state beyond some parts -/

/-- The state with the host port, the high levels of the queues and the given parts blanked: two states agree in it when one keeps
what the other holds in every other part (`Keeps.beyond`, `Keeps.of_beyond`). -/
def State.beyond (P : List Part) (s : State) : State where
  clk := if .clk ∈ P then {} else s.clk
  pwr := if .pwr ∈ P then {} else s.pwr
  thm := if .thm ∈ P then {} else s.thm
  pins := if .pins ∈ P then {} else s.pins
  boot := if .boot ∈ P then {} else s.boot
  nvm := if .nvm ∈ P then {} else s.nvm
  cairn := if .cairn ∈ P then {} else s.cairn
  afe := if .afe ∈ P then {} else s.afe
  stm := if .stm ∈ P then {} else s.stm
  feat := if .feat ∈ P then {} else s.feat
  own := if .own ∈ P then {} else s.own
  bly := if .bly ∈ P then {} else s.bly
  mdl := if .mdl ∈ P then {} else { s.mdl with high := default }
  lrn := if .lrn ∈ P then {} else s.lrn
  rope := if .rope ∈ P then {} else s.rope
  free := if .free ∈ P then 0 else s.free
  pending := s.pending

/-- Every next state that an answer gives leaves what is beyond the parts. -/
def Leaves (P : List Part) (s : State) (a : Answer) : Prop := ∀ t, a = .next t → t.beyond P = s.beyond P

/-- The command is taken up, or `P` has what else turning it away or holding it back may change: an automatic sleep entry given
up (R82) and the commands held through an erase (R393). -/
def TakenOr (P : List Part) (h : Hdr) (s : State) : Prop := Taken h s ∨ [.pwr, .stm, .own, .lrn] ⊆ P

/-- The state that an answer to a request for a head's copy carries. -/
def Request.state : Request → State
  | .begun s | .noArrays s | .wear s => s

variable {P : List Part} (h : Hdr) (p : Bytes) (s : State)

theorem Keeps.beyond {s t : State} (h : Keeps P s t) : t.beyond P = s.beyond P := by
  obtain ⟨hp, h⟩ := h
  have part (x : Part) {α : Type} (a : α) {f : State → α} (hf : x.same s t → f t = f s) :
      (if x ∈ P then a else f t) = if x ∈ P then a else f s := by
    split
    · rfl
    · next hx => exact hf (h x hx)
  simp only [State.beyond, hp, State.mk.injEq, and_true, true_and]
  exact ⟨part .clk _ id, part .pwr _ id, part .thm _ id, part .pins _ id, part .boot _ id, part .nvm _ id, part .cairn _ id,
    part .afe _ id, part .stm _ id, part .feat _ id, part .own _ id, part .bly _ id,
    part .mdl _ (f := fun s => { s.mdl with high := default }) fun e => by rw [show t.mdl = _ from e],
    part .lrn _ id, part .rope _ id, part .free _ id⟩

theorem Keeps.of_beyond {s t : State} (h : t.beyond P = s.beyond P) : Keeps P s t := by
  have part {α : Type} {a x y : α} {q : Part} (hq : q ∉ P) (e : (if q ∈ P then a else x) = if q ∈ P then a else y) : x = y := by
    rwa [if_neg hq, if_neg hq] at e
  simp only [State.beyond, State.mk.injEq] at h
  obtain ⟨-, clk, pwr, thm, pins, boot, nvm, cairn, afe, stm, feat, own, bly, mdl, lrn, rope, free, hp⟩ := h
  refine ⟨hp, fun x hx => ?_⟩
  cases x
  case clk => exact part hx clk
  case pwr => exact part hx pwr
  case thm => exact part hx thm
  case pins => exact part hx pins
  case boot => exact part hx boot
  case nvm => exact part hx nvm
  case cairn => exact part hx cairn
  case afe => exact part hx afe
  case stm => exact part hx stm
  case feat => exact part hx feat
  case own => exact part hx own
  case bly => exact part hx bly
  case mdl => exact congrArg (fun x : ModelBlock => { x with high := t.mdl.high }) (part hx mdl)
  case lrn => exact part hx lrn
  case rope => exact part hx rope
  case free => exact part hx free

theorem LinkOnly.beyond {s t : State} (h : LinkOnly s t) : t.beyond P = s.beyond P := (h.port.keeps P).beyond
theorem PortOnly.beyond {s t : State} (h : PortOnly s t) : t.beyond P = s.beyond P := (h.keeps P).beyond

/-- A change of parts among the given ones leaves the rest. -/
@[simp] theorem beyond_mk {s : State} {link clk pwr thm pins boot nvm cairn afe stm feat own bly mdl lrn rope free}
    (hclk : .clk ∉ P → clk = s.clk) (hpwr : .pwr ∉ P → pwr = s.pwr) (hthm : .thm ∉ P → thm = s.thm)
    (hpins : .pins ∉ P → pins = s.pins) (hboot : .boot ∉ P → boot = s.boot) (hnvm : .nvm ∉ P → nvm = s.nvm)
    (hcairn : .cairn ∉ P → cairn = s.cairn) (hafe : .afe ∉ P → afe = s.afe) (hstm : .stm ∉ P → stm = s.stm)
    (hfeat : .feat ∉ P → feat = s.feat) (hown : .own ∉ P → own = s.own) (hbly : .bly ∉ P → bly = s.bly)
    (hmdl : .mdl ∉ P → mdl = s.mdl) (hlrn : .lrn ∉ P → lrn = s.lrn) (hrope : .rope ∉ P → rope = s.rope)
    (hfree : .free ∉ P → free = s.free) :
    (State.mk link clk pwr thm pins boot nvm cairn afe stm feat own bly mdl lrn rope free s.pending).beyond P = s.beyond P := by
  refine Keeps.beyond ⟨rfl, fun x hx => ?_⟩
  cases x
  case mdl => exact (hmdl hx).trans (by rw [hmdl hx])
  all_goals simp_all [Part.same]

/-! ### Branches, folds and answers -/

@[simp] theorem beyond_ite (c : Prop) [Decidable c] (a b : State) :
    (if c then a else b).beyond P = if c then a.beyond P else b.beyond P := apply_ite _ _ _ _

@[simp] theorem beyond_ite_fst {α : Type} (c : Prop) [Decidable c] (a b : State × α) :
    (if c then a else b).1.beyond P = if c then a.1.beyond P else b.1.beyond P := by split <;> rfl

@[simp] theorem beyond_ite_snd {α : Type} (c : Prop) [Decidable c] (a b : α × State) :
    (if c then a else b).2.beyond P = if c then a.2.beyond P else b.2.beyond P := by split <;> rfl

@[simp] theorem beyond_foldl {α : Type} (f : State → α → State) (hf : ∀ s a, (f s a).beyond P = s.beyond P) (l : List α) :
    (l.foldl f s).beyond P = s.beyond P := by
  induction l generalizing s with
  | nil => rfl
  | cons a l ih => rw [List.foldl_cons, ih, hf]

theorem beyond_foldl_fst {α β : Type} (f : State × β → α → State × β) (hf : ∀ x a, (f x a).1.beyond P = x.1.beyond P) (l : List α)
    (x : State × β) : (l.foldl f x).1.beyond P = x.1.beyond P := by
  induction l generalizing x with
  | nil => rfl
  | cons a l ih => rw [List.foldl_cons, ih, hf]

theorem beyond_foldl_snd {α β : Type} (f : β × State → α → β × State) (hf : ∀ x a, (f x a).2.beyond P = x.2.beyond P) (l : List α)
    (x : β × State) : (l.foldl f x).2.beyond P = x.2.beyond P := by
  induction l generalizing x with
  | nil => rfl
  | cons a l ih => rw [List.foldl_cons, ih, hf]

theorem beyond_findSome {α : Type} {f : α → Option State} {s t : State} (hf : ∀ {a t}, f a = some t → t.beyond P = s.beyond P)
    {l : List α} (h : l.findSome? f = some t) : t.beyond P = s.beyond P := by
  obtain ⟨a, _, h⟩ := List.exists_of_findSome?_eq_some h
  exact hf h

@[simp] theorem leaves_next (t : State) : Leaves P s (.next t) ↔ t.beyond P = s.beyond P := by simp [Leaves]

@[simp] theorem leaves_refused (r : Refusal) : Leaves P s (.refused r) := by simp [Leaves]

@[simp] theorem leaves_ite (c : Prop) [Decidable c] (a b : Answer) :
    Leaves P s (if c then a else b) ↔ if c then Leaves P s a else Leaves P s b := by split <;> rfl

/-! ### The shared operations -/

@[simp] theorem beyond_drawFree (hP : [.free] ⊆ P) : (drawFree s).2.beyond P = s.beyond P := by simp_all [drawFree]

@[simp] theorem beyond_mapLink (f : LinkState → LinkState) : (s.mapLink f).beyond P = s.beyond P := (linkOnly_mapLink s f).beyond

@[simp] theorem beyond_noteHigh (q n : Nat) : (noteHigh q n s).beyond P = s.beyond P := (portOnly_noteHigh q n s).beyond

@[simp] theorem beyond_raiseAt (time : Word64) (code : Byte) (high : Bool) (owner : Option (BitVec 2)) (body : Bytes) :
    (raiseAt time code high owner body s).beyond P = s.beyond P := (portOnly_raiseAt time code high owner body s).beyond

@[simp] theorem beyond_raise (code : Byte) (high : Bool) (body : Bytes) : (raise code high body s).beyond P = s.beyond P :=
  (portOnly_raise code high body s).beyond

@[simp] theorem beyond_raiseOwned (owner : BitVec 2) (code : Byte) (high : Bool) (body : Bytes) :
    (raiseOwned owner code high body s).beyond P = s.beyond P := (portOnly_raiseOwned owner code high body s).beyond

@[simp] theorem beyond_eventsLost : (eventsLost s).beyond P = s.beyond P := by simp [eventsLost]

@[simp] theorem beyond_onSlot (tag : Tag) (f : Slot → Slot) : (onSlot tag f s).beyond P = s.beyond P := (linkOnly_onSlot tag f s).beyond

@[simp] theorem beyond_commitMark (tag : Tag) : (commitMark tag s).beyond P = s.beyond P := (linkOnly_commitMark tag s).beyond

@[simp] theorem beyond_finish (tag : Tag) (status : Byte) (payload : Bytes) : (finish tag status payload s).beyond P = s.beyond P :=
  (linkOnly_finish tag status payload s).beyond

@[simp] theorem beyond_finishAll (tags : List Tag) (status : Byte) : (finishAll tags status s).beyond P = s.beyond P := by
  simp [finishAll]

@[simp] theorem beyond_started (tag : Tag) : (started tag s).beyond P = s.beyond P := (linkOnly_started tag s).beyond

@[simp] theorem beyond_doneWith (payload : Bytes) : (doneWith h payload s).beyond P = s.beyond P := (linkOnly_doneWith h payload s).beyond

@[simp] theorem beyond_notice (n : Notice) : (notice n s).beyond P = s.beyond P := (linkOnly_notice n s).beyond

@[simp] theorem beyond_endSession (slot : Nat) (reason : Byte) : (endSession slot reason s).beyond P = s.beyond P :=
  (portOnly_endSession slot reason s).beyond

@[simp] theorem beyond_setDomain (n : Nat) (v : Bool) (hP : [.pwr] ⊆ P) : (setDomain n v s).beyond P = s.beyond P := by
  simp_all [setDomain]

@[simp] theorem beyond_wantDomain (n : Nat) (v : Bool) (hP : [.pwr] ⊆ P) : (wantDomain n v s).beyond P = s.beyond P := by
  simp_all [wantDomain]

@[simp] theorem beyond_countBubble (us : Nat) (hP : [.stm] ⊆ P) : (countBubble us s).beyond P = s.beyond P := by simp_all [countBubble]

@[simp] theorem beyond_cairnPut (e : CairnEntry) (hP : [.cairn] ⊆ P) : (cairnPut e s).beyond P = s.beyond P := by simp_all [cairnPut]

@[simp] theorem beyond_cairn (type source : BitVec 16) (payload : Bytes) (hP : [.pwr, .cairn] ⊆ P) :
    (cairn type source payload s).beyond P = s.beyond P := by simp_all [cairn]

@[simp] theorem beyond_nvmRefill (hP : [.nvm] ⊆ P) : (nvmRefill s).beyond P = s.beyond P := by simp_all [nvmRefill]

@[simp] theorem beyond_postNvm (ops : List NvmOp) (hP : [.pwr, .nvm] ⊆ P) : (postNvm ops s).beyond P = s.beyond P := by simp_all [postNvm]

@[simp] theorem beyond_cancelNvm (tag : Tag) (hP : [.nvm] ⊆ P) : (cancelNvm tag s).beyond P = s.beyond P := by simp_all [cancelNvm]

@[simp] theorem beyond_postRecord (k : RecordKind) (content : Bytes) (tag : Option Tag) (bootPath : Bool) (hP : [.pwr, .nvm] ⊆ P) :
    (postRecord k content tag bootPath s).beyond P = s.beyond P := by simp_all [postRecord]

@[simp] theorem beyond_countUnwritten (m : Memory) (lines : Nat) (hP : [.nvm] ⊆ P) : (countUnwritten m lines s).beyond P = s.beyond P := by
  simp_all [countUnwritten]

/-! ### The NVM's pages -/

@[simp] theorem beyond_setPage (i : PageInfo) (hP : [.nvm] ⊆ P) : (setPage i s).beyond P = s.beyond P := by simp_all [setPage]

@[simp] theorem beyond_nvmFault (kind : Byte) (page : Nat) : (nvmFault kind page s).beyond P = s.beyond P := by simp [nvmFault]

@[simp] theorem beyond_programPage (page : Nat) (x : PageImage) (bad us : Nat) (hP : [.nvm] ⊆ P) :
    (programPage page x bad us s).1.beyond P = s.beyond P := by simp_all [programPage]

@[simp] theorem beyond_tearPage (page : Nat) (x : PageImage) (hP : [.nvm] ⊆ P) : (tearPage page x s).beyond P = s.beyond P := by
  simp_all [tearPage]

@[simp] theorem beyond_eraseSector (first : Nat) (hP : [.nvm] ⊆ P) : (eraseSector first s).beyond P = s.beyond P := by
  simp_all [eraseSector]

@[simp] theorem beyond_countSeal (hP : [.pwr, .nvm, .own] ⊆ P) : (countSeal s).beyond P = s.beyond P := by simp_all [countSeal]

@[simp] theorem beyond_readPage (page : Nat) (hP : [.nvm] ⊆ P) : (readPage page s).beyond P = s.beyond P := by
  unfold readPage
  split <;> simp_all

@[simp] theorem beyond_readPages (pages : List Nat) (hP : [.nvm] ⊆ P) : (readPages pages s).beyond P = s.beyond P := by
  simp_all [readPages]

@[simp] theorem beyond_whenReadable (pages : List Nat) (opcode : Byte) (body : State → State) (hP : [.nvm] ⊆ P)
    (hb : (body s).beyond P = s.beyond P) : (whenReadable pages opcode h p body s).beyond P = s.beyond P := by
  simp_all [whenReadable]

@[simp] theorem beyond_readRecord (k : RecordKind) (hP : [.nvm] ⊆ P) : (readRecord k s).2.beyond P = s.beyond P := by
  simp only [readRecord]
  rw [beyond_foldl_snd, beyond_readPage _ _ hP]
  intro a c
  split <;> simp_all

/-! ### How a command is accepted (checks 5 to 10 of Table 2-8) -/

@[simp] theorem beyond_resumeStreams (hP : [.stm] ⊆ P) : (resumeStreams s).beyond P = s.beyond P := by simp_all [resumeStreams]

@[simp] theorem beyond_reloadSlept (hP : [.lrn] ⊆ P) : (reloadSlept s).beyond P = s.beyond P := by simp_all [reloadSlept]

@[simp] theorem beyond_abandonSleep (cause : Byte) (hP : [.pwr, .stm, .lrn] ⊆ P) : (abandonSleep cause s).beyond P = s.beyond P := by
  unfold abandonSleep
  split <;> simp_all

@[simp] theorem beyond_refusePlain (tag : Tag) (status : Byte) : (refusePlain tag status s).beyond P = s.beyond P :=
  (linkOnly_refusePlain tag status s).beyond

@[simp] theorem beyond_reserve (opcode : Byte) : (reserve opcode h s).beyond P = s.beyond P := by simp [reserve]

@[simp] theorem beyond_advanceRx : (advanceRx h s).beyond P = s.beyond P := by simp [advanceRx]

@[simp] theorem beyond_authenticate (opcode : Byte) : (authenticate opcode h s).1.beyond P = s.beyond P := by simp [authenticate]

@[simp] theorem beyond_judge (f : Form) (body : State → State) (hb : (body s).beyond P = s.beyond P) :
    (judge f h p body s).beyond P = s.beyond P := by
  obtain hj | ⟨st, _, hj⟩ := judge_cases f h p body s <;> simp [hj, hb]

@[simp] theorem beyond_bindPort (via : Transport) (hP : [.pwr, .stm, .lrn] ⊆ P) : (bindPort via s).beyond P = s.beyond P := by
  unfold bindPort
  dsimp only
  split <;> simp_all

@[simp] theorem beyond_overrun : (overrun s).beyond P = s.beyond P := by simp [overrun]

@[simp] theorem beyond_pass (f : Form) (body : State → State) (hP : [.own] ⊆ P) (hb : (body s).beyond P = s.beyond P) :
    (pass f h p body s).beyond P = s.beyond P := by
  simp_all [pass]

@[simp] theorem takenOr_of_parts (hP : [.pwr, .stm, .own, .lrn] ⊆ P) : TakenOr P h s := .inr hP

@[simp] theorem beyond_serve (f : Form) (body : State → State) (ht : TakenOr P h s) (hb : ∀ s, (body s).beyond P = s.beyond P) :
    (serve f h p body s).beyond P = s.beyond P := by
  obtain ht | hP := ht
  · rw [serve_judged _ _ _ _ _ ht, beyond_judge _ _ _ _ _ (hb _)]
    exact (portOnly_entered f.opcode h s).beyond
  · simp_all [serve]

@[simp] theorem beyond_refuseIf (tag : Tag) (l : List (Bool × Byte)) (k : State → State) (hk : (k s).beyond P = s.beyond P) :
    (refuseIf tag l k s).beyond P = s.beyond P := by
  obtain ⟨h, _⟩ | ⟨st, _, h⟩ := refuseIf_cases tag l k s <;> simp [h, hk]

/-! ### The host port's commands and events (chapter 02) -/

@[simp] theorem beyond_cmdNop (ht : TakenOr P h s) : (cmdNop h p s).beyond P = s.beyond P := beyond_serve _ _ _ _ _ ht fun s => by simp

@[simp] theorem beyond_cmdLinkConfigRead (ht : TakenOr P h s) : (cmdLinkConfigRead h p s).beyond P = s.beyond P :=
  beyond_serve _ _ _ _ _ ht fun s => by simp

@[simp] theorem beyond_cmdLinkConfigWrite (ht : TakenOr P h s) : (cmdLinkConfigWrite h p s).beyond P = s.beyond P :=
  beyond_serve _ _ _ _ _ ht fun s => by simp

@[simp] theorem beyond_cmdLinkCounters (ht : TakenOr P h s) : (cmdLinkCounters h p s).beyond P = s.beyond P :=
  beyond_serve _ _ _ _ _ ht fun s => by simp

@[simp] theorem beyond_cmdLinkCountersClear (ht : TakenOr P h s) : (cmdLinkCountersClear h p s).beyond P = s.beyond P :=
  beyond_serve _ _ _ _ _ ht fun s => by simp

@[simp] theorem beyond_cmdSessionClose (ht : TakenOr P h s) : (cmdSessionClose h p s).beyond P = s.beyond P :=
  beyond_serve _ _ _ _ _ ht fun s => by simp

@[simp] theorem beyond_cmdSessionStatus (ht : TakenOr P h s) : (cmdSessionStatus h p s).beyond P = s.beyond P :=
  beyond_serve _ _ _ _ _ ht fun s => by simp

@[simp] theorem beyond_cmdDevLabelSet (ht : TakenOr P h s) (hP : [.pwr, .nvm] ⊆ P) : (cmdDevLabelSet h p s).beyond P = s.beyond P :=
  beyond_serve _ _ _ _ _ ht fun s => by simp_all

@[simp] theorem beyond_cmdDevLabelGet (ht : TakenOr P h s) (hP : [.nvm] ⊆ P) : (cmdDevLabelGet h p s).beyond P = s.beyond P :=
  beyond_serve _ _ _ _ _ ht fun s => by simp_all

@[simp] theorem leaves_execClearStatus (via : Transport) (mask : Byte) : Leaves P s (execClearStatus via mask s) := by
  simp [execClearStatus]

@[simp] theorem leaves_execInvalidTransportOpcode (via : Transport) (op : Byte) : Leaves P s (execInvalidTransportOpcode via op s) := by
  simp [execInvalidTransportOpcode]

@[simp] theorem leaves_execFragmentTimeout (tag : Tag) : Leaves P s (execFragmentTimeout tag s) := by
  unfold execFragmentTimeout
  split <;> simp

@[simp] theorem leaves_execSessionIdleTimeout (slot : BitVec 2) : Leaves P s (execSessionIdleTimeout slot s) := by
  simp [execSessionIdleTimeout]

/-! ### The Anchor's registers (chapter 03) -/

@[simp] theorem beyond_cmdPowerStateGet (ht : TakenOr P h s) : (cmdPowerStateGet h p s).beyond P = s.beyond P :=
  beyond_serve _ _ _ _ _ ht fun s => by simp

@[simp] theorem beyond_cmdWakeConfig (ht : TakenOr P h s) (hP : [.pwr] ⊆ P) : (cmdWakeConfig h p s).beyond P = s.beyond P :=
  beyond_serve _ _ _ _ _ ht fun s => by simp_all

@[simp] theorem beyond_armAlarm (value : Ticks) (hP : [.pwr] ⊆ P) : (armAlarm value p s).beyond P = s.beyond P := by simp_all [armAlarm]

@[simp] theorem beyond_cmdTickAlarmDisable (ht : TakenOr P h s) (hP : [.pwr] ⊆ P) : (cmdTickAlarmDisable h p s).beyond P = s.beyond P :=
  beyond_serve _ _ _ _ _ ht fun s => by simp_all

@[simp] theorem beyond_cmdTickAlarmAbsolute (ht : TakenOr P h s) (hP : [.pwr] ⊆ P) :
    (cmdTickAlarmAbsolute h p s).beyond P = s.beyond P := beyond_serve _ _ _ _ _ ht fun s => by simp_all

@[simp] theorem beyond_cmdTickAlarmRelative (ht : TakenOr P h s) (hP : [.pwr] ⊆ P) :
    (cmdTickAlarmRelative h p s).beyond P = s.beyond P := beyond_serve _ _ _ _ _ ht fun s => by simp_all

@[simp] theorem beyond_cmdTimeGet (ht : TakenOr P h s) : (cmdTimeGet h p s).beyond P = s.beyond P :=
  beyond_serve _ _ _ _ _ ht fun s => by simp

@[simp] theorem beyond_cmdClockStatus (ht : TakenOr P h s) : (cmdClockStatus h p s).beyond P = s.beyond P :=
  beyond_serve _ _ _ _ _ ht fun s => by simp

@[simp] theorem beyond_cmdThermalConfig (ht : TakenOr P h s) (hP : [.thm] ⊆ P) : (cmdThermalConfig h p s).beyond P = s.beyond P :=
  beyond_serve _ _ _ _ _ ht fun s => by simp_all

@[simp] theorem beyond_cmdThermalStatus (ht : TakenOr P h s) : (cmdThermalStatus h p s).beyond P = s.beyond P :=
  beyond_serve _ _ _ _ _ ht fun s => by simp

@[simp] theorem beyond_cmdPowerPolicyRead (ht : TakenOr P h s) : (cmdPowerPolicyRead h p s).beyond P = s.beyond P :=
  beyond_serve _ _ _ _ _ ht fun s => by simp

@[simp] theorem beyond_cmdPowerPolicyWrite (ht : TakenOr P h s) (hP : [.pwr] ⊆ P) : (cmdPowerPolicyWrite h p s).beyond P = s.beyond P :=
  beyond_serve _ _ _ _ _ ht fun s => by simp_all

/-! ### The front end (chapter 05) -/

@[simp] theorem beyond_onStream (n : Nat) (f : Strm → Strm) (hP : [.stm] ⊆ P) : (onStream n f s).beyond P = s.beyond P := by
  simp_all [onStream]

@[simp] theorem beyond_onChannel (ch : Nat) (f : Channel → Channel) (hP : [.afe] ⊆ P) : (onChannel ch f s).beyond P = s.beyond P := by
  simp_all [onChannel]

@[simp] theorem beyond_setStatus (ch : Nat) (st : BitVec 16) (hP : [.afe] ⊆ P) : (setStatus ch st s).beyond P = s.beyond P := by
  simp_all [setStatus]

@[simp] theorem beyond_statusBit (ch bitNo : Nat) (v : Bool) (hP : [.afe] ⊆ P) : (statusBit ch bitNo v s).beyond P = s.beyond P := by
  simp_all [statusBit]

@[simp] theorem beyond_followStatus (ch : Nat) (hP : [.afe] ⊆ P) : (followStatus ch s).beyond P = s.beyond P := by simp_all [followStatus]

@[simp] theorem beyond_cmdAfePinRoleSet (ht : TakenOr P h s) (hP : [.afe] ⊆ P) : (cmdAfePinRoleSet h p s).beyond P = s.beyond P :=
  beyond_serve _ _ _ _ _ ht fun s => by simp_all

@[simp] theorem beyond_cmdAfePinRoleGet (ht : TakenOr P h s) : (cmdAfePinRoleGet h p s).beyond P = s.beyond P :=
  beyond_serve _ _ _ _ _ ht fun s => by simp

@[simp] theorem beyond_cmdAfeChannelConfig (ht : TakenOr P h s) (hP : [.afe] ⊆ P) : (cmdAfeChannelConfig h p s).beyond P = s.beyond P :=
  beyond_serve _ _ _ _ _ ht fun s => by simp_all

@[simp] theorem beyond_cmdAfeChannelGet (ht : TakenOr P h s) : (cmdAfeChannelGet h p s).beyond P = s.beyond P :=
  beyond_serve _ _ _ _ _ ht fun s => by simp

@[simp] theorem beyond_cmdAfeExcitationSet (ht : TakenOr P h s) (hP : [.afe] ⊆ P) : (cmdAfeExcitationSet h p s).beyond P = s.beyond P :=
  beyond_serve _ _ _ _ _ ht fun s => by simp_all

@[simp] theorem beyond_leadHigh (pin : Nat) (v : Bool) (hP : [.afe] ⊆ P) : (leadHigh pin v s).beyond P = s.beyond P := by
  simp_all [leadHigh]

@[simp] theorem beyond_storeLead (pin : Nat) (state : BitVec 2) (milli : Nat) (hP : [.afe] ⊆ P) :
    (storeLead pin state milli s).beyond P = s.beyond P := by simp_all [storeLead]

@[simp] theorem beyond_keepLead (kelvin : Bool) (p q milli : Nat) (hP : [.afe] ⊆ P) :
    (keepLead kelvin p q milli s).1.beyond P = s.beyond P := by simp_all [keepLead]

@[simp] theorem beyond_wantBanks (chs : List Nat) (hP : [.pwr] ⊆ P) : (wantBanks chs s).beyond P = s.beyond P := by simp_all [wantBanks]

@[simp] theorem beyond_startLead (kelvin : Bool) (hP : [.pwr, .afe] ⊆ P) : (startLead kelvin h p s).beyond P = s.beyond P := by
  simp_all [startLead]

@[simp] theorem beyond_cmdAfeLeadMeasureLoop (ht : TakenOr P h s) (hP : [.pwr, .afe] ⊆ P) :
    (cmdAfeLeadMeasureLoop h p s).beyond P = s.beyond P := beyond_serve _ _ _ _ _ ht fun s => by simp_all

@[simp] theorem beyond_cmdAfeLeadMeasureKelvin (ht : TakenOr P h s) (hP : [.pwr, .afe] ⊆ P) :
    (cmdAfeLeadMeasureKelvin h p s).beyond P = s.beyond P := beyond_serve _ _ _ _ _ ht fun s => by simp_all

@[simp] theorem beyond_cmdAfeLeadMeasureSet (ht : TakenOr P h s) (hP : [.afe] ⊆ P) :
    (cmdAfeLeadMeasureSet h p s).beyond P = s.beyond P := beyond_serve _ _ _ _ _ ht fun s => by simp_all

@[simp] theorem beyond_cmdAfeLeadGet (ht : TakenOr P h s) : (cmdAfeLeadGet h p s).beyond P = s.beyond P :=
  beyond_serve _ _ _ _ _ ht fun s => by simp

@[simp] theorem leaves_execLeadMeasureDone (picovolts : Nat) (hP : [.afe] ⊆ P) : Leaves P s (execLeadMeasureDone picovolts s) := by
  unfold execLeadMeasureDone
  split <;> simp_all

@[simp] theorem beyond_onPair (i : Nat) (f : Pair → Pair) (hP : [.afe] ⊆ P) : (onPair i f s).beyond P = s.beyond P := by simp_all [onPair]

@[simp] theorem beyond_markPair (i : Nat) (a b : Bool) (hP : [.afe] ⊆ P) : (markPair i a b s).beyond P = s.beyond P := by
  simp_all [markPair]

@[simp] theorem beyond_setPair (i : Nat) (phase : PairPhase) (hP : [.afe] ⊆ P) : (setPair i phase s).beyond P = s.beyond P := by
  simp_all [setPair]

@[simp] theorem beyond_releasePair (i : Nat) (hP : [.stm] ⊆ P) : (releasePair i s).beyond P = s.beyond P := by simp_all [releasePair]

@[simp] theorem beyond_cmdAfePairConfigSet (ht : TakenOr P h s) (hP : [.afe, .stm] ⊆ P) :
    (cmdAfePairConfigSet h p s).beyond P = s.beyond P := beyond_serve _ _ _ _ _ ht fun s => by simp_all

@[simp] theorem beyond_cmdAfePairConfigRemove (ht : TakenOr P h s) (hP : [.afe, .stm] ⊆ P) :
    (cmdAfePairConfigRemove h p s).beyond P = s.beyond P := beyond_serve _ _ _ _ _ ht fun s => by simp_all

@[simp] theorem beyond_cmdAfePairStatus (ht : TakenOr P h s) : (cmdAfePairStatus h p s).beyond P = s.beyond P :=
  beyond_serve _ _ _ _ _ ht fun s => by simp

@[simp] theorem beyond_cmdAfeDiag (ht : TakenOr P h s) : (cmdAfeDiag h p s).beyond P = s.beyond P :=
  beyond_serve _ _ _ _ _ ht fun s => by simp

@[simp] theorem beyond_cmdAfeCalRun (ht : TakenOr P h s) (hP : [.pwr, .afe] ⊆ P) : (cmdAfeCalRun h p s).beyond P = s.beyond P :=
  beyond_serve _ _ _ _ _ ht fun s => by simp_all

@[simp] theorem beyond_cmdAfeBankEnable (ht : TakenOr P h s) (hP : [.pwr, .afe] ⊆ P) : (cmdAfeBankEnable h p s).beyond P = s.beyond P := by
  refine beyond_serve _ _ _ _ _ ht fun s => beyond_refuseIf _ _ _ _ ?_
  dsimp only
  rw [beyond_doneWith, beyond_foldl] <;> simp_all

@[simp] theorem beyond_leadBegins (ch : Nat) (hP : [.afe] ⊆ P) : (leadBegins ch s).1.beyond P = s.beyond P := by simp_all [leadBegins]

@[simp] theorem beyond_leadSegment (ch leadPicovolts : Nat) (hP : [.afe] ⊆ P) : (leadSegment ch leadPicovolts s).beyond P = s.beyond P := by
  simp_all [leadSegment]

@[simp] theorem beyond_takeCalibration (ch : Nat) (raws : List Int) (step lead vref : Nat) (led : Bool) (prev : Option (Int × Nat))
    (hP : [.afe] ⊆ P) : (takeCalibration ch raws step lead vref led prev s).beyond P = s.beyond P := by simp_all [takeCalibration]

@[simp] theorem leaves_execExcLimitEngaged (d : BitVec 3) (hP : [.afe] ⊆ P) : Leaves P s (execExcLimitEngaged d s) := by
  simp_all [execExcLimitEngaged]

@[simp] theorem leaves_execExcLimitReleased (d : BitVec 3) (hP : [.afe] ⊆ P) : Leaves P s (execExcLimitReleased d s) := by
  simp_all [execExcLimitReleased]

/-! ### Streams and sensor ports (chapter 06) -/

@[simp] theorem beyond_cmdStreamConfigSet (ht : TakenOr P h s) (hP : [.stm] ⊆ P) : (cmdStreamConfigSet h p s).beyond P = s.beyond P :=
  beyond_serve _ _ _ _ _ ht fun s => by simp_all

@[simp] theorem beyond_cmdStreamConfigRemove (ht : TakenOr P h s) (hP : [.stm] ⊆ P) :
    (cmdStreamConfigRemove h p s).beyond P = s.beyond P := beyond_serve _ _ _ _ _ ht fun s => by simp_all

@[simp] theorem beyond_cmdStreamGet (ht : TakenOr P h s) : (cmdStreamGet h p s).beyond P = s.beyond P :=
  beyond_serve _ _ _ _ _ ht fun s => by simp

@[simp] theorem beyond_wantAll (ds : List Nat) (hP : [.pwr] ⊆ P) : (wantAll ds s).beyond P = s.beyond P := by simp_all [wantAll]

@[simp] theorem beyond_cmdStreamStart (ht : TakenOr P h s) (hP : [.pwr, .stm] ⊆ P) : (cmdStreamStart h p s).beyond P = s.beyond P := by
  refine beyond_serve _ _ _ _ _ ht fun s => beyond_refuseIf _ _ _ _ ?_
  simp_all

@[simp] theorem beyond_followPairs (n : Nat) (hP : [.afe] ⊆ P) : (followPairs n s).beyond P = s.beyond P := by simp_all [followPairs]

@[simp] theorem beyond_startStream (n : Nat) (hP : [.afe, .stm, .feat] ⊆ P) : (startStream n s).beyond P = s.beyond P := by
  simp_all [startStream]

@[simp] theorem leaves_execStreamStartInstant (hP : [.afe, .stm, .feat] ⊆ P) : Leaves P s (execStreamStartInstant s) := by
  unfold execStreamStartInstant
  split <;> simp_all

@[simp] theorem beyond_discardFrame (n : Nat) (hP : [.stm] ⊆ P) : (discardFrame n s).beyond P = s.beyond P := by simp_all [discardFrame]

@[simp] theorem beyond_dropSnapshot (n : Nat) (hP : [.stm] ⊆ P) : (dropSnapshot n s).beyond P = s.beyond P := by
  unfold dropSnapshot
  split <;> simp_all

@[simp] theorem beyond_finishStops (hP : [.stm] ⊆ P) : (finishStops s).beyond P = s.beyond P := by simp_all [finishStops]

@[simp] theorem beyond_stopStream (n : Nat) (hP : [.afe, .stm] ⊆ P) : (stopStream n s).beyond P = s.beyond P := by simp_all [stopStream]

@[simp] theorem beyond_cmdStreamStopNow (ht : TakenOr P h s) (hP : [.afe, .stm] ⊆ P) : (cmdStreamStopNow h p s).beyond P = s.beyond P :=
  beyond_serve _ _ _ _ _ ht fun s => by simp_all

@[simp] theorem beyond_cmdStreamStopAfterFrame (ht : TakenOr P h s) (hP : [.afe, .stm] ⊆ P) :
    (cmdStreamStopAfterFrame h p s).beyond P = s.beyond P := beyond_serve _ _ _ _ _ ht fun s => by simp_all

@[simp] theorem beyond_cmdSportConfig (ht : TakenOr P h s) (hP : [.stm] ⊆ P) : (cmdSportConfig h p s).beyond P = s.beyond P :=
  beyond_serve _ _ _ _ _ ht fun s => by simp_all

@[simp] theorem beyond_cmdSportGet (ht : TakenOr P h s) : (cmdSportGet h p s).beyond P = s.beyond P :=
  beyond_serve _ _ _ _ _ ht fun s => by simp

@[simp] theorem beyond_cmdTachConfig (ht : TakenOr P h s) (hP : [.pwr, .stm] ⊆ P) : (cmdTachConfig h p s).beyond P = s.beyond P :=
  beyond_serve _ _ _ _ _ ht fun s => by simp_all

@[simp] theorem beyond_beltEvent (old : PosState) : (beltEvent old s).beyond P = s.beyond P := by simp [beltEvent]

@[simp] theorem beyond_onBelt (f : Belt → Belt) (hP : [.feat] ⊆ P) : (onBelt f s).beyond P = s.beyond P := by simp_all [onBelt]

@[simp] theorem beyond_cmdEncConfig (ht : TakenOr P h s) (hP : [.pwr, .stm, .feat] ⊆ P) : (cmdEncConfig h p s).beyond P = s.beyond P :=
  beyond_serve _ _ _ _ _ ht fun s => by simp_all

@[simp] theorem beyond_streamCounters (clear : Bool) (hP : [.stm] ⊆ P) : (streamCounters clear h p s).beyond P = s.beyond P := by
  refine beyond_refuseIf _ _ _ _ ?_
  simp_all

@[simp] theorem beyond_cmdStreamCounters (ht : TakenOr P h s) (hP : [.stm] ⊆ P) : (cmdStreamCounters h p s).beyond P = s.beyond P :=
  beyond_serve _ _ _ _ _ ht fun s => by simp_all

@[simp] theorem beyond_cmdStreamCountersClear (ht : TakenOr P h s) (hP : [.stm] ⊆ P) :
    (cmdStreamCountersClear h p s).beyond P = s.beyond P := beyond_serve _ _ _ _ _ ht fun s => by simp_all

@[simp] theorem beyond_cmdStreamSnapshot (ht : TakenOr P h s) (hP : [.stm] ⊆ P) : (cmdStreamSnapshot h p s).beyond P = s.beyond P :=
  beyond_serve _ _ _ _ _ ht fun s => by simp_all

@[simp] theorem leaves_execFrameStart (stream : BitVec 7) (hP : [.afe, .stm] ⊆ P) : Leaves P s (execFrameStart stream s) := by
  simp_all [execFrameStart]

@[simp] theorem leaves_execDriverSettleDone (d : BitVec 3) (hP : [.stm] ⊆ P) : Leaves P s (execDriverSettleDone d s) := by
  refine (leaves_next _ _).2 (beyond_foldl _ _ (fun s n => ?_) _)
  split <;> simp_all

@[simp] theorem beyond_onFrame (n : Nat) (f : OpenFrame → OpenFrame) (hP : [.stm] ⊆ P) : (onFrame n f s).beyond P = s.beyond P := by
  simp_all [onFrame]

@[simp] theorem beyond_pushSample (n : Nat) (cls : SampleClass) (v : Int) (saturated : Bool) (hP : [.stm] ⊆ P) :
    (pushSample n cls v saturated s).beyond P = s.beyond P := by simp_all [pushSample]

@[simp] theorem beyond_takeAnalog (n : Nat) (picovolts : Int) (drive sense : Nat) (overload : Bool) (hP : [.afe, .stm] ⊆ P) :
    (takeAnalog n picovolts drive sense overload s).beyond P = s.beyond P := by
  unfold takeAnalog
  dsimp only
  (repeat' split) <;> simp_all

@[simp] theorem beyond_takeDigital (n : Nat) (word : Nat) (hP : [.stm] ⊆ P) : (takeDigital n word s).beyond P = s.beyond P := by
  unfold takeDigital
  dsimp only
  split <;> simp_all

@[simp] theorem leaves_execSampleArrival (stream : BitVec 7) (picovolts : Int) (drive sense : Nat) (overload : Bool)
    (hP : [.afe, .stm] ⊆ P) : Leaves P s (execSampleArrival stream picovolts drive sense overload s) := by simp_all [execSampleArrival]

@[simp] theorem leaves_execFabricTransaction (stream : BitVec 7) (rest : Bool) (hP : [.stm] ⊆ P) :
    Leaves P s (execFabricTransaction stream rest s) := by simp_all [execFabricTransaction]

@[simp] theorem beyond_beginMeasurement (n : Nat) (hP : [.afe, .stm] ⊆ P) : (beginMeasurement n s).beyond P = s.beyond P := by
  simp_all [beginMeasurement]

@[simp] theorem beyond_swallowed (n : Nat) (hP : [.stm] ⊆ P) : (swallowed n s).beyond P = s.beyond P := by simp_all [swallowed]

@[simp] theorem leaves_execCalBurstComplete (channel : BitVec 5) (raws : List Int) (step lead drive sense : Nat) (hP : [.afe, .stm] ⊆ P) :
    Leaves P s (execCalBurstComplete channel raws step lead drive sense s) := by
  unfold execCalBurstComplete
  dsimp only
  (repeat' split) <;> simp_all

/-! ### Frame closes, the belt and the feature engine (chapters 05 to 07) -/

@[simp] theorem beyond_onFeature (n : Nat) (f : FeatureStream → FeatureStream) (hP : [.feat] ⊆ P) :
    (onFeature n f s).beyond P = s.beyond P := by simp_all [onFeature]

@[simp] theorem beyond_beltCount (d : Int) (hP : [.feat] ⊆ P) : (beltCount d s).beyond P = s.beyond P := by simp_all [beltCount]

@[simp] theorem beyond_spliceAnomaly (kind : Byte) (gap : Nat) : (spliceAnomaly kind gap s).beyond P = s.beyond P := by
  simp [spliceAnomaly]

@[simp] theorem beyond_spliceMark (hP : [.stm, .feat] ⊆ P) : (spliceMark s).beyond P = s.beyond P := by
  unfold spliceMark
  dsimp only
  split <;> simp_all

@[simp] theorem leaves_execSpliceMark (high : Bool) (held : Nat) (hP : [.stm, .feat] ⊆ P) : Leaves P s (execSpliceMark high held s) := by
  simp_all [execSpliceMark]

@[simp] theorem beyond_encoderLost (hP : [.feat] ⊆ P) : (encoderLost s).beyond P = s.beyond P := by simp_all [encoderLost]

@[simp] theorem beyond_encPhase (p : InputPhase) (hP : [.stm] ⊆ P) : (encPhase p s).beyond P = s.beyond P := by simp_all [encPhase]

@[simp] theorem leaves_execEncIdle (hP : [.stm, .feat] ⊆ P) : Leaves P s (execEncIdle s) := by simp_all [execEncIdle]

@[simp] theorem leaves_execEncoderSlip (hP : [.feat] ⊆ P) : Leaves P s (execEncoderSlip s) := by simp_all [execEncoderSlip]

@[simp] theorem leaves_execEncoderRestored (hP : [.feat] ⊆ P) : Leaves P s (execEncoderRestored s) := by simp_all [execEncoderRestored]

@[simp] theorem leaves_execEncEdge (a b : Bool) (held ns : Nat) (hP : [.stm, .feat] ⊆ P) : Leaves P s (execEncEdge a b held ns s) := by
  simp_all [execEncEdge]

@[simp] theorem beyond_cmdBeltPositionGet (ht : TakenOr P h s) : (cmdBeltPositionGet h p s).beyond P = s.beyond P :=
  beyond_serve _ _ _ _ _ ht fun s => by simp

@[simp] theorem beyond_cmdBeltConfigSet (ht : TakenOr P h s) (hP : [.feat] ⊆ P) : (cmdBeltConfigSet h p s).beyond P = s.beyond P :=
  beyond_serve _ _ _ _ _ ht fun s => by simp_all

@[simp] theorem beyond_cmdBeltConfigDisable (ht : TakenOr P h s) (hP : [.feat] ⊆ P) :
    (cmdBeltConfigDisable h p s).beyond P = s.beyond P := beyond_serve _ _ _ _ _ ht fun s => by simp_all

@[simp] theorem beyond_cmdSetIndex (ht : TakenOr P h s) (hP : [.feat] ⊆ P) : (cmdSetIndex h p s).beyond P = s.beyond P :=
  beyond_serve _ _ _ _ _ ht fun s => by simp_all

@[simp] theorem beyond_cmdBeltClearCount (ht : TakenOr P h s) (hP : [.feat] ⊆ P) : (cmdBeltClearCount h p s).beyond P = s.beyond P :=
  beyond_serve _ _ _ _ _ ht fun s => by simp_all

@[simp] theorem beyond_featureSet (n : Nat) (same bad : Bool) (f : FeatureStream → FeatureStream) (hP : [.feat] ⊆ P) :
    (featureSet h n same bad f s).beyond P = s.beyond P := by simp_all [featureSet]

@[simp] theorem beyond_cmdFeatConfigSet (ht : TakenOr P h s) (hP : [.feat] ⊆ P) : (cmdFeatConfigSet h p s).beyond P = s.beyond P :=
  beyond_serve _ _ _ _ _ ht fun s => by simp_all

@[simp] theorem beyond_cmdFeatConfigRemove (ht : TakenOr P h s) (hP : [.feat] ⊆ P) : (cmdFeatConfigRemove h p s).beyond P = s.beyond P :=
  beyond_serve _ _ _ _ _ ht fun s => by simp_all

@[simp] theorem beyond_cmdFeatGet (ht : TakenOr P h s) : (cmdFeatGet h p s).beyond P = s.beyond P :=
  beyond_serve _ _ _ _ _ ht fun s => by simp

@[simp] theorem beyond_cmdFeatOrderConfig (ht : TakenOr P h s) (hP : [.feat] ⊆ P) : (cmdFeatOrderConfig h p s).beyond P = s.beyond P :=
  beyond_serve _ _ _ _ _ ht fun s => by simp_all

@[simp] theorem beyond_cmdFeatBandsSet (ht : TakenOr P h s) (hP : [.feat] ⊆ P) : (cmdFeatBandsSet h p s).beyond P = s.beyond P :=
  beyond_serve _ _ _ _ _ ht fun s => by simp_all

@[simp] theorem beyond_cmdFeatStateConfig (ht : TakenOr P h s) (hP : [.feat] ⊆ P) : (cmdFeatStateConfig h p s).beyond P = s.beyond P :=
  beyond_serve _ _ _ _ _ ht fun s => by simp_all

@[simp] theorem beyond_cmdFeatFrameRead (ht : TakenOr P h s) : (cmdFeatFrameRead h p s).beyond P = s.beyond P :=
  beyond_serve _ _ _ _ _ ht fun s => by simp

@[simp] theorem beyond_frameContext (n : Nat) (t0 t1 : Word64) (q : BeltView) (hP : [.feat] ⊆ P) :
    (frameContext n t0 t1 q s).2.beyond P = s.beyond P := by simp_all [frameContext]

@[simp] theorem beyond_completePair (i : Nat) (which : ClosedFrame → Bool) (hP : [.stm] ⊆ P) :
    (completePair i which s).beyond P = s.beyond P := by simp_all [completePair]

@[simp] theorem beyond_skipPair (i : Nat) (which : ClosedFrame → Bool) (hP : [.afe, .stm] ⊆ P) :
    (skipPair i which s).beyond P = s.beyond P := by simp_all [skipPair]

@[simp] theorem beyond_comparePair (i : Nat) (a b : ClosedFrame) (hP : [.afe, .stm] ⊆ P) : (comparePair i a b s).beyond P = s.beyond P := by
  simp_all [comparePair]

@[simp] theorem beyond_pairClosed (i n : Nat) (hP : [.afe, .stm] ⊆ P) : (pairClosed i n s).beyond P = s.beyond P := by
  unfold pairClosed
  dsimp only
  (repeat' split) <;> simp_all

@[simp] theorem leaves_execPairPartnerTimeout (pair : BitVec 4) (hP : [.afe, .stm] ⊆ P) : Leaves P s (execPairPartnerTimeout pair s) := by
  unfold execPairPartnerTimeout
  dsimp only
  split <;> simp_all

@[simp] theorem beyond_lossEvent (n : Nat) (f : ClosedFrame) (hP : [.stm] ⊆ P) : (lossEvent n f s).beyond P = s.beyond P := by
  simp_all [lossEvent]

@[simp] theorem beyond_closeChannel (n : Nat) (hP : [.afe] ⊆ P) : (closeChannel n s).beyond P = s.beyond P := by simp_all [closeChannel]

@[simp] theorem beyond_takeSnapshot (n : Nat) (f : ClosedFrame) (hP : [.stm] ⊆ P) : (takeSnapshot n f s).beyond P = s.beyond P := by
  unfold takeSnapshot
  split <;> simp_all

@[simp] theorem beyond_closeFrame (n : Nat) (cause : Byte) (lost : Bool) (hP : [.afe, .stm, .feat, .free] ⊆ P) :
    (closeFrame n cause lost s).beyond P = s.beyond P := by
  unfold closeFrame
  split
  · rfl
  · next f _ =>
    extract_lets x samples s1 c ppr s2 f' s3 ctx s4 pair closed count s5 s6 s7 s8 limit
    have h1 : s1.beyond P = s.beyond P := by simp_all [s1]
    have h2 : s2.beyond P = s.beyond P := by simp_all [s2]
    have h3 : s3.beyond P = s.beyond P := by simp_all [s3]
    have h4 : s4.beyond P = s.beyond P := by simp_all [s4, ctx]
    have h6 : s6.beyond P = s.beyond P := by simp_all [s6, s5]
    have h7 : s7.beyond P = s.beyond P := by
      unfold s7
      clear_value pair
      split <;> simp_all
    have h8 : s8.beyond P = s.beyond P := by simp_all [s8]
    simp_all

@[simp] theorem leaves_execFrameClose (stream : BitVec 7) (hP : [.afe, .stm, .feat, .free] ⊆ P) : Leaves P s (execFrameClose stream s) := by
  unfold execFrameClose
  dsimp only
  split <;> simp_all

@[simp] theorem beyond_onPort (i : Nat) (f : Port → Port) (hP : [.stm] ⊆ P) : (onPort i f s).beyond P = s.beyond P := by simp_all [onPort]

@[simp] theorem beyond_sportEvent (i : Nat) (new prev : Byte) : (sportEvent i new prev s).beyond P = s.beyond P := by simp [sportEvent]

@[simp] theorem leaves_execTdmFrameSync (port : BitVec 2) (rising : Bool) (onRise onFall : List Bool) (hz : Nat) (hP : [.stm] ⊆ P) :
    Leaves P s (execTdmFrameSync port rising onRise onFall hz s) := by simp_all [execTdmFrameSync]

@[simp] theorem leaves_execSportLost (port : BitVec 2) (hP : [.afe, .stm, .feat, .free] ⊆ P) : Leaves P s (execSportLost port s) := by
  simp_all [execSportLost]

@[simp] theorem leaves_execSpiPoll (port : BitVec 2) (sensor : Nat) (reply : Bytes) (hP : [.stm] ⊆ P) :
    Leaves P s (execSpiPoll port sensor reply s) := by
  unfold execSpiPoll
  dsimp only
  split <;> simp_all

@[simp] theorem beyond_queuePressure (q now depth : Nat) (hP : [.mdl] ⊆ P) : (queuePressure q now depth s).beyond P = s.beyond P := by
  simp_all [queuePressure]

@[simp] theorem leaves_execFeatureFrameTake (hP : [.pwr, .nvm, .stm, .feat, .mdl] ⊆ P) : Leaves P s (execFeatureFrameTake s) := by
  unfold execFeatureFrameTake
  split <;> simp_all

/-! ### What every family needs of the heads (chapter 12) -/

@[simp] theorem beyond_onHead (n : Nat) (f : Head → Head) (hP : [.lrn] ⊆ P) : (onHead n f s).beyond P = s.beyond P := by simp_all [onHead]

@[simp] theorem beyond_onModel (m : Nat) (f : Model → Model) (hP : [.mdl] ⊆ P) : (onModel m f s).beyond P = s.beyond P := by
  simp_all [onModel]

@[simp] theorem beyond_raiseHead (n : Nat) (code : Byte) (high : Bool) (body : Bytes) :
    (raiseHead n code high body s).beyond P = s.beyond P := by
  unfold raiseHead
  split <;> simp

@[simp] theorem beyond_noteFreeze (n cancelled : Nat) (hP : [.lrn] ⊆ P) : (noteFreeze n cancelled s).beyond P = s.beyond P := by
  simp_all [noteFreeze]

@[simp] theorem beyond_noteFreezes (hP : [.lrn] ⊆ P) : (noteFreezes s).beyond P = s.beyond P := by simp_all [noteFreezes]

@[simp] theorem beyond_cancelSteps (n : Nat) (hP : [.lrn] ⊆ P) : (cancelSteps n s).beyond P = s.beyond P := by simp_all [cancelSteps]

@[simp] theorem beyond_holdHeads (hP : [.lrn] ⊆ P) : (holdHeads s).beyond P = s.beyond P := by simp_all [holdHeads]

@[simp] theorem beyond_startSettle (n : Nat) (hP : [.lrn] ⊆ P) : (startSettle n s).beyond P = s.beyond P := by simp_all [startSettle]

@[simp] theorem beyond_startHoldoff (hP : [.lrn] ⊆ P) : (startHoldoff s).beyond P = s.beyond P := by simp_all [startHoldoff]

/-! ### Belay, the assets and the health outputs (chapter 14) -/

@[simp] theorem beyond_onAsset (i : Nat) (f : Asset → Asset) (hP : [.bly] ⊆ P) : (onAsset i f s).beyond P = s.beyond P := by
  simp_all [onAsset]

@[simp] theorem beyond_showBelay (hP : [.bly] ⊆ P) : (showBelay s).beyond P = s.beyond P := by simp_all [showBelay]

@[simp] theorem beyond_enterBelay (p : BelayPhase) (declared : Bool) (hP : [.pwr, .cairn, .bly] ⊆ P) :
    (enterBelay p declared s).beyond P = s.beyond P := by
  unfold enterBelay
  split <;> simp_all

@[simp] theorem beyond_enterArmed (hP : [.pwr, .cairn, .bly] ⊆ P) : (enterArmed s).beyond P = s.beyond P := by simp_all [enterArmed]

@[simp] theorem beyond_enterStopped (declared : Bool) (hP : [.pwr, .cairn, .bly] ⊆ P) :
    (enterStopped declared s).beyond P = s.beyond P := by simp_all [enterStopped]

@[simp] theorem beyond_enterCoasting (hP : [.pwr, .cairn, .bly] ⊆ P) : (enterCoasting s).beyond P = s.beyond P := by
  simp_all [enterCoasting]

@[simp] theorem beyond_followCoast (hP : [.pwr, .cairn, .bly] ⊆ P) : (followCoast s).beyond P = s.beyond P := by
  unfold followCoast
  split <;> simp_all

@[simp] theorem beyond_commitTrip (hP : [.pwr, .cairn, .bly] ⊆ P) : (commitTrip s).beyond P = s.beyond P := by simp_all [commitTrip]

@[simp] theorem beyond_releaseHold (hP : [.pwr, .cairn, .bly] ⊆ P) : (releaseHold s).beyond P = s.beyond P := by simp_all [releaseHold]

@[simp] theorem beyond_tripRequest (cause asset : Byte) (halted : Option Nat) (atOnce : Bool)
    (hP : [.pwr, .cairn, .stm, .bly, .lrn] ⊆ P) : (tripRequest cause asset halted atOnce s).1.beyond P = s.beyond P := by
  unfold tripRequest
  split <;> simp_all

@[simp] theorem beyond_endRearm (status cause : Byte) (hP : [.bly] ⊆ P) : (endRearm status cause s).beyond P = s.beyond P := by
  unfold endRearm
  split <;> simp_all

@[simp] theorem beyond_checkRearm (hP : [.pwr, .cairn, .bly] ⊆ P) : (checkRearm s).beyond P = s.beyond P := by simp_all [checkRearm]

@[simp] theorem beyond_assetEvent (i : Nat) (kind : Byte) : (assetEvent i kind s).beyond P = s.beyond P := by simp [assetEvent]

@[simp] theorem beyond_lookAsset (i : Nat) (hP : [.pwr, .cairn, .stm, .bly, .lrn] ⊆ P) : (lookAsset i s).beyond P = s.beyond P := by
  simp_all [lookAsset]

@[simp] theorem beyond_lookBelay (hP : [.pwr, .cairn, .stm, .bly, .lrn] ⊆ P) : (lookBelay s).beyond P = s.beyond P := by
  simp_all [lookBelay]

@[simp] theorem beyond_updateAsset (i : Nat) (r : AssetResult) (hP : [.pwr, .cairn, .stm, .bly, .lrn] ⊆ P) :
    (updateAsset i r s).beyond P = s.beyond P := by simp_all [updateAsset]

@[simp] theorem beyond_assetTakes (r : AssetResult) (i : Nat) (hP : [.pwr, .cairn, .stm, .bly, .lrn] ⊆ P) :
    (assetTakes r s i).beyond P = s.beyond P := by simp_all [assetTakes]

@[simp] theorem leaves_execAssetUpdate (hP : [.pwr, .cairn, .stm, .bly, .lrn] ⊆ P) : Leaves P s (execAssetUpdate s) := by
  unfold execAssetUpdate
  split <;> simp_all

@[simp] theorem leaves_execConfirmWindowEnd (hP : [.pwr, .cairn, .stm, .bly, .lrn] ⊆ P) : Leaves P s (execConfirmWindowEnd s) := by
  simp_all [execConfirmWindowEnd]

@[simp] theorem leaves_execCoastTimerEnd (hP : [.pwr, .cairn, .stm, .bly, .lrn] ⊆ P) : Leaves P s (execCoastTimerEnd s) := by
  simp_all [execCoastTimerEnd]

@[simp] theorem leaves_execStopDwellEnd (hP : [.pwr, .cairn, .stm, .bly, .lrn] ⊆ P) : Leaves P s (execStopDwellEnd s) := by
  simp_all [execStopDwellEnd]

@[simp] theorem leaves_execMotionDwellEnd (hP : [.pwr, .cairn, .stm, .bly, .lrn] ⊆ P) : Leaves P s (execMotionDwellEnd s) := by
  simp_all [execMotionDwellEnd]

@[simp] theorem leaves_execRearmTimerEnd (hP : [.pwr, .cairn, .stm, .bly, .lrn] ⊆ P) : Leaves P s (execRearmTimerEnd s) := by
  unfold execRearmTimerEnd
  dsimp only
  (repeat' split) <;> simp_all

@[simp] theorem leaves_execStartGuardEnd (hP : [.bly] ⊆ P) : Leaves P s (execStartGuardEnd s) := by simp_all [execStartGuardEnd]

@[simp] theorem beyond_tachPhase (i : Nat) (p : InputPhase) (hP : [.stm] ⊆ P) : (tachPhase i p s).beyond P = s.beyond P := by
  simp_all [tachPhase]

@[simp] theorem beyond_checkTachAdvance (i ppr : Nat) (hP : [.feat] ⊆ P) : (checkTachAdvance i ppr s).beyond P = s.beyond P := by
  simp_all [checkTachAdvance]

@[simp] theorem beyond_countTach (i ns : Nat) (hP : [.pwr, .cairn, .stm, .feat, .bly, .lrn] ⊆ P) :
    (countTach i ns s).beyond P = s.beyond P := by simp_all [countTach]

@[simp] theorem leaves_execTachEdge (tach : BitVec 2) (up : Bool) (held ns : Nat) (hP : [.pwr, .cairn, .stm, .feat, .bly, .lrn] ⊆ P) :
    Leaves P s (execTachEdge tach up held ns s) := by simp_all [execTachEdge]

@[simp] theorem leaves_execTachIdle (tach : BitVec 2) (hP : [.pwr, .cairn, .stm, .bly, .lrn] ⊆ P) : Leaves P s (execTachIdle tach s) := by
  simp_all [execTachIdle]

@[simp] theorem beyond_cmdHoutMap (ht : TakenOr P h s) (hP : [.pwr, .cairn, .stm, .bly, .lrn] ⊆ P) :
    (cmdHoutMap h p s).beyond P = s.beyond P := beyond_serve _ _ _ _ _ ht fun s => by simp_all

@[simp] theorem beyond_cmdHoutGet (ht : TakenOr P h s) : (cmdHoutGet h p s).beyond P = s.beyond P :=
  beyond_serve _ _ _ _ _ ht fun s => by simp

@[simp] theorem beyond_cmdBelayConfig (ht : TakenOr P h s) (hP : [.pwr, .cairn, .stm, .bly, .lrn] ⊆ P) :
    (cmdBelayConfig h p s).beyond P = s.beyond P := beyond_serve _ _ _ _ _ ht fun s => by simp_all

@[simp] theorem beyond_cmdBelayArm (ht : TakenOr P h s) (hP : [.pwr, .cairn, .stm, .bly, .lrn] ⊆ P) :
    (cmdBelayArm h p s).beyond P = s.beyond P := beyond_serve _ _ _ _ _ ht fun s => by simp_all

@[simp] theorem beyond_cmdBelayDisarm (ht : TakenOr P h s) (hP : [.pwr, .cairn, .stm, .bly, .lrn] ⊆ P) :
    (cmdBelayDisarm h p s).beyond P = s.beyond P := beyond_serve _ _ _ _ _ ht fun s => by simp_all

@[simp] theorem beyond_cmdBelayTrip (ht : TakenOr P h s) (hP : [.pwr, .cairn, .stm, .bly, .lrn] ⊆ P) :
    (cmdBelayTrip h p s).beyond P = s.beyond P := beyond_serve _ _ _ _ _ ht fun s => by simp_all

@[simp] theorem beyond_cmdBelayAbortHold (ht : TakenOr P h s) (hP : [.pwr, .cairn, .stm, .bly, .lrn] ⊆ P) :
    (cmdBelayAbortHold h p s).beyond P = s.beyond P := beyond_serve _ _ _ _ _ ht fun s => by simp_all

@[simp] theorem beyond_cmdBelayRearm (ht : TakenOr P h s) (hP : [.pwr, .cairn, .bly] ⊆ P) :
    (cmdBelayRearm h p s).beyond P = s.beyond P := beyond_serve _ _ _ _ _ ht fun s => by simp_all

@[simp] theorem beyond_cmdBelayDeclareStop (ht : TakenOr P h s) (hP : [.pwr, .cairn, .stm, .bly, .lrn] ⊆ P) :
    (cmdBelayDeclareStop h p s).beyond P = s.beyond P := beyond_serve _ _ _ _ _ ht fun s => by simp_all

@[simp] theorem beyond_abortRearm (hP : [.pwr, .cairn, .bly] ⊆ P) : (abortRearm s).beyond P = s.beyond P := by simp_all [abortRearm]

@[simp] theorem beyond_cmdBelayStatus (ht : TakenOr P h s) : (cmdBelayStatus h p s).beyond P = s.beyond P :=
  beyond_serve _ _ _ _ _ ht fun s => by simp

@[simp] theorem beyond_cmdAlarmSetMask (ht : TakenOr P h s) (hP : [.pwr, .cairn, .stm, .bly, .lrn] ⊆ P) :
    (cmdAlarmSetMask h p s).beyond P = s.beyond P := beyond_serve _ _ _ _ _ ht fun s => by simp_all

@[simp] theorem beyond_cmdAlarmSetHost (ht : TakenOr P h s) (hP : [.pwr, .cairn, .stm, .bly, .lrn] ⊆ P) :
    (cmdAlarmSetHost h p s).beyond P = s.beyond P := beyond_serve _ _ _ _ _ ht fun s => by simp_all

@[simp] theorem beyond_cmdAlarmClearHost (ht : TakenOr P h s) (hP : [.pwr, .cairn, .stm, .bly, .lrn] ⊆ P) :
    (cmdAlarmClearHost h p s).beyond P = s.beyond P := beyond_serve _ _ _ _ _ ht fun s => by simp_all

@[simp] theorem beyond_cmdAlarmAcknowledge (ht : TakenOr P h s) (hP : [.pwr, .cairn, .stm, .bly, .lrn] ⊆ P) :
    (cmdAlarmAcknowledge h p s).beyond P = s.beyond P := beyond_serve _ _ _ _ _ ht fun s => by simp_all

/-! ### The wear accounts and the refusals of placements (chapters 10 and 13) -/

@[simp] theorem beyond_onArray (a : Nat) (f : CimArray → CimArray) (hP : [.mdl] ⊆ P) : (onArray a f s).beyond P = s.beyond P := by
  simp_all [onArray]

@[simp] theorem beyond_onCore (n : Nat) (f : Core → Core) (hP : [.lrn] ⊆ P) : (onCore n f s).beyond P = s.beyond P := by simp_all [onCore]

@[simp] theorem beyond_chargeCycles (a k : Nat) (hP : [.pwr, .cairn, .mdl] ⊆ P) : (chargeCycles a k s).beyond P = s.beyond P := by
  simp_all [chargeCycles]

@[simp] theorem beyond_chargeArray (a : Nat) (hP : [.pwr, .cairn, .mdl] ⊆ P) : (chargeArray a s).beyond P = s.beyond P := by
  simp_all [chargeArray]

@[simp] theorem beyond_postWear (why : WearWhy) (tag : Option Tag) (hP : [.pwr, .nvm] ⊆ P) :
    (postWear why tag s).beyond P = s.beyond P := by simp_all [postWear]

@[simp] theorem beyond_countRefusal (hP : [.lrn] ⊆ P) : (countRefusal s).beyond P = s.beyond P := by simp_all [countRefusal]

/-! ### Results and the ends of jobs (chapter 11) -/

@[simp] theorem beyond_onRm (f : ModelBlock → ModelBlock) (hP : [.mdl] ⊆ P) : (onRm f s).beyond P = s.beyond P := by simp_all [onRm]

@[simp] theorem beyond_onQueued (id : Nat) (f : Frame → Frame) (hP : [.mdl] ⊆ P) : (onQueued id f s).beyond P = s.beyond P := by
  simp_all [onQueued]

@[simp] theorem beyond_dropFrame (id : Nat) (hP : [.mdl] ⊆ P) : (dropFrame id s).beyond P = s.beyond P := by simp_all [dropFrame]

@[simp] theorem beyond_onJob (id : Nat) (f : Job → Job) (hP : [.mdl] ⊆ P) : (onJob id f s).beyond P = s.beyond P := by simp_all [onJob]

@[simp] theorem beyond_onCounters (m : Nat) (f : ModelCounters → ModelCounters) (hP : [.mdl] ⊆ P) :
    (onCounters m f s).beyond P = s.beyond P := by simp_all [onCounters]

@[simp] theorem beyond_countLost (o : BitVec 2) (hP : [.mdl] ⊆ P) : (countLost o s).beyond P = s.beyond P := by simp_all [countLost]

@[simp] theorem beyond_ringRoom (hP : [.mdl] ⊆ P) : (ringRoom s).beyond P = s.beyond P := by
  unfold ringRoom
  (repeat' split) <;> simp_all

@[simp] theorem beyond_writeResult (m : Nat) (h : Bytes) (host : Option Tag) (v : Verdict') (hP : [.bly, .mdl] ⊆ P) :
    (writeResult m h host v s).beyond P = s.beyond P := by
  unfold writeResult
  dsimp only
  split <;> simp_all

@[simp] theorem beyond_postStep (f : Frame) (n layer : Nat) (hP : [.mdl, .lrn] ⊆ P) : (postStep f n layer s).1.beyond P = s.beyond P := by
  simp_all [postStep]

@[simp] theorem beyond_postSteps (f : Frame) (hP : [.mdl, .lrn] ⊆ P) : (postSteps f s).1.beyond P = s.beyond P := by
  refine (beyond_foldl_fst _ (fun a u => ?_) _ _).trans rfl
  simp_all

@[simp] theorem beyond_completeFrame (j : Job) (id : Nat) (hP : [.bly, .mdl, .lrn] ⊆ P) : (completeFrame j id s).beyond P = s.beyond P := by
  unfold completeFrame
  split <;> simp_all

@[simp] theorem beyond_dropJob (id : Nat) (hP : [.mdl] ⊆ P) : (dropJob id s).beyond P = s.beyond P := by simp_all [dropJob]

@[simp] theorem beyond_completeJob (j : Job) (hP : [.bly, .mdl, .lrn] ⊆ P) : (completeJob j s).beyond P = s.beyond P := by
  simp_all [completeJob]

@[simp] theorem beyond_abandonFrame (f : Frame) (j : Option Job) (hP : [.bly, .mdl] ⊆ P) : (abandonFrame f j s).beyond P = s.beyond P := by
  simp_all [abandonFrame]

@[simp] theorem beyond_requeueFrame (f : Frame) (hP : [.mdl] ⊆ P) : (requeueFrame f s).beyond P = s.beyond P := by simp_all [requeueFrame]

@[simp] theorem beyond_loseFrame (j : Job) (f : Frame) (hP : [.bly, .mdl] ⊆ P) : (loseFrame j f s).beyond P = s.beyond P := by
  simp_all [loseFrame]

@[simp] theorem beyond_abandonJob (cause : Byte) (final : Bool) (j : Job) (hP : [.bly, .mdl] ⊆ P) :
    (abandonJob cause final j s).beyond P = s.beyond P := by simp_all [abandonJob]

@[simp] theorem beyond_abandonJobs (which : Job → Bool) (cause : Byte) (final : Bool) (hP : [.bly, .mdl] ⊆ P) :
    (abandonJobs which cause final s).beyond P = s.beyond P := by simp_all [abandonJobs]

@[simp] theorem beyond_forgetThese (fs : List Frame) (hP : [.mdl] ⊆ P) : (forgetThese fs s).beyond P = s.beyond P := by
  simp_all [forgetThese]

@[simp] theorem beyond_discardFrames (m : Nat) (hP : [.mdl] ⊆ P) : (discardFrames m s).beyond P = s.beyond P := by
  simp_all [discardFrames]

@[simp] theorem beyond_forgetFrames (m : Nat) (hP : [.mdl] ⊆ P) : (forgetFrames m s).beyond P = s.beyond P := by simp_all [forgetFrames]

@[simp] theorem beyond_reportFrames (m : Nat) (hP : [.bly, .mdl] ⊆ P) : (reportFrames m s).beyond P = s.beyond P := by
  simp_all [reportFrames]

/-! ### The heads' saved state, loading and release (chapter 12) -/

@[simp] theorem beyond_eraseLater (firsts : List Nat) (hP : [.pwr, .nvm] ⊆ P) : (eraseLater firsts s).beyond P = s.beyond P := by
  simp_all [eraseLater]

@[simp] theorem beyond_postCopy (n : Nat) (image : Bytes) (tag : Option Tag) (hP : [.pwr, .nvm, .lrn] ⊆ P) :
    (postCopy n image tag s).beyond P = s.beyond P := by simp_all [postCopy]

@[simp] theorem beyond_startSave (n : Nat) (cause : SaveCause) (tag : Option Tag) (hP : [.pwr, .nvm, .lrn] ⊆ P) :
    (startSave n cause tag s).beyond P = s.beyond P := by simp_all [startSave]

@[simp] theorem beyond_serveHead (n : Nat) (hP : [.pwr, .nvm, .lrn] ⊆ P) : (serveHead n s).beyond P = s.beyond P := by
  unfold serveHead
  dsimp only
  split <;> simp_all

@[simp] theorem beyond_requestSave (n : Nat) (cause : SaveCause) (tag : Option Tag) (hP : [.pwr, .nvm, .lrn] ⊆ P) :
    (requestSave n cause tag s).beyond P = s.beyond P := by simp_all [requestSave]

@[simp] theorem beyond_saveAtStop (m : Nat) (hP : [.pwr, .nvm, .lrn] ⊆ P) : (saveAtStop m s).beyond P = s.beyond P := by
  simp_all [saveAtStop]

@[simp] theorem beyond_consolidated (n : Nat) (kind : Byte) (arrays : List Nat) : (consolidated n kind arrays s).beyond P = s.beyond P := by
  simp [consolidated]

@[simp] theorem beyond_forgetArrays (arrays : List Nat) (hP : [.mdl] ⊆ P) : (forgetArrays arrays s).beyond P = s.beyond P := by
  simp_all [forgetArrays]

@[simp] theorem beyond_dropWrites (which : WriteRun → Bool) (hP : [.mdl] ⊆ P) : (dropWrites which s).beyond P = s.beyond P := by
  simp_all [dropWrites]

@[simp] theorem beyond_dropCopyWrites (n : Nat) (status : Byte) (hP : [.mdl] ⊆ P) : (dropCopyWrites n status s).beyond P = s.beyond P := by
  simp_all [dropCopyWrites]

@[simp] theorem beyond_withdrawCopy (n : Nat) (keep : Bool) (status : Byte) (hP : [.mdl, .lrn] ⊆ P) :
    (withdrawCopy n keep status s).beyond P = s.beyond P := by
  unfold withdrawCopy
  split <;> simp_all

@[simp] theorem beyond_startLoad (n : Nat) (source : LoadSource) (tag : Option Tag) (hP : [.lrn] ⊆ P) :
    (startLoad n source tag s).beyond P = s.beyond P := by simp_all [startLoad]

theorem beyond_allocateHead {m : Nat} {img : Bytes} {l : Layer} {s t : State} (hP : [.lrn] ⊆ P)
    (h : allocateHead m img l s = some t) : t.beyond P = s.beyond P := by
  simp only [allocateHead] at h
  split at h
  · cases h; simp_all
  · split at h
    · cases h; simp_all
    · contradiction

theorem beyond_allocateHeads {m : Nat} {img : Bytes} {ls : List Layer} {s t : State} (hP : [.lrn] ⊆ P)
    (h : allocateHeads m img ls s = some t) : t.beyond P = s.beyond P := by
  induction ls generalizing s with
  | nil => cases h; rfl
  | cons l ls ih =>
    obtain ⟨u, hu, ht⟩ := Option.bind_eq_some_iff.1 h
    exact (ih ht).trans (beyond_allocateHead hP hu)

@[simp] theorem beyond_passCopy (n : Nat) (to' : Nat × Nat) (hP : [.mdl, .lrn] ⊆ P) : (passCopy n to' s).beyond P = s.beyond P := by
  simp_all [passCopy]

@[simp] theorem beyond_passHeads (old new : Nat) (hP : [.mdl, .lrn] ⊆ P) : (passHeads old new s).beyond P = s.beyond P := by
  refine beyond_foldl _ _ (fun s u => ?_) _
  split <;> simp_all

@[simp] theorem beyond_releaseHead (n : Nat) (tag : Option Tag) (hP : [.pwr, .nvm, .mdl, .lrn] ⊆ P) :
    (releaseHead n tag s).beyond P = s.beyond P := by simp_all [releaseHead]

@[simp] theorem beyond_headReleased (n : Nat) (hP : [.pwr, .nvm, .lrn] ⊆ P) : (headReleased n s).beyond P = s.beyond P := by
  simp_all [headReleased]

/-! ### The life of placed models (chapters 10 and 13) -/

@[simp] theorem beyond_placementEvent (m : Nat) (cause oldMode : Byte) : (placementEvent m cause oldMode s).beyond P = s.beyond P := by
  simp [placementEvent]

@[simp] theorem beyond_setPhase (m : Nat) (p : ModelPhase) (hP : [.pwr, .cairn, .stm, .bly, .mdl, .lrn] ⊆ P) :
    (setPhase m p s).beyond P = s.beyond P := by simp_all [setPhase]

theorem beyond_askGrant {writes : List ArrayWrite} {s t : State} (hP : [.pwr, .cairn, .mdl] ⊆ P) (h : askGrant writes s = some t) :
    t.beyond P = s.beyond P := by
  simp only [askGrant] at h
  split at h
  · cases h
    exact beyond_foldl _ _ (fun s a => beyond_chargeArray _ _ hP) _
  · contradiction

@[simp] theorem beyond_markWrites (run : WriteRun) (hP : [.mdl] ⊆ P) : (markWrites run s).beyond P = s.beyond P := by
  simp_all [markWrites]

@[simp] theorem beyond_orderWrites (run : WriteRun) (tag : Option Tag) (hP : [.pwr, .nvm, .mdl] ⊆ P) :
    (orderWrites run tag s).beyond P = s.beyond P := by simp_all [orderWrites]

@[simp] theorem beyond_dropRuns (m : Nat) (hP : [.mdl] ⊆ P) : (dropRuns m s).beyond P = s.beyond P := by simp_all [dropRuns]

@[simp] theorem beyond_unstage (m : Nat) (hP : [.mdl] ⊆ P) : (unstage m s).beyond P = s.beyond P := by simp_all [unstage]

@[simp] theorem beyond_setPlacement (m : Nat) (p : Placement) (hP : [.mdl] ⊆ P) : (setPlacement m p s).beyond P = s.beyond P := by
  simp_all [setPlacement]

@[simp] theorem beyond_freeBackups (m : Nat) (hP : [.pwr, .nvm, .mdl] ⊆ P) : (freeBackups m s).beyond P = s.beyond P := by
  simp_all [freeBackups]

@[simp] theorem beyond_emptySlot (m : Nat) (hP : [.pwr, .nvm, .cairn, .stm, .bly, .mdl, .lrn, .rope] ⊆ P) :
    (emptySlot m s).beyond P = s.beyond P := by simp_all [emptySlot]

@[simp] theorem beyond_releasePitch (m : Nat) (hP : [.pwr, .nvm, .cairn, .stm, .bly, .mdl, .lrn, .rope] ⊆ P) :
    (releasePitch m s).beyond P = s.beyond P := by simp_all [releasePitch]

@[simp] theorem beyond_carryUnload (m : Nat) (hP : [.pwr, .nvm, .cairn, .stm, .bly, .mdl, .lrn, .rope] ⊆ P) :
    (carryUnload m s).beyond P = s.beyond P := by
  unfold carryUnload
  (repeat' split) <;> simp_all

@[simp] theorem beyond_startUnload (m : Nat) (tag : Option Tag) (hP : [.pwr, .nvm, .cairn, .stm, .bly, .mdl, .lrn, .rope] ⊆ P) :
    (startUnload m tag s).beyond P = s.beyond P := by
  unfold startUnload
  dsimp only
  split <;> simp_all

@[simp] theorem beyond_carryStop (m : Nat) (hP : [.pwr, .nvm, .cairn, .stm, .bly, .mdl, .lrn] ⊆ P) :
    (carryStop m s).beyond P = s.beyond P := by
  unfold carryStop
  split <;> simp_all

@[simp] theorem beyond_carrySwitch (m : Nat) (hP : [.pwr, .nvm, .cairn, .stm, .bly, .mdl, .lrn, .rope] ⊆ P) :
    (carrySwitch m s).beyond P = s.beyond P := by
  unfold carrySwitch
  split <;> simp_all

@[simp] theorem beyond_rollEpoch (o : Nat) (hP : [.nvm, .mdl] ⊆ P) : (rollEpoch o s).beyond P = s.beyond P := by simp_all [rollEpoch]

@[simp] theorem beyond_carryRemoval (hP : [.pwr, .nvm, .cairn, .own, .mdl] ⊆ P) : (carryRemoval s).beyond P = s.beyond P := by
  unfold carryRemoval
  (repeat' split) <;> simp_all

@[simp] theorem beyond_carryOn (hP : [.pwr, .nvm, .cairn, .stm, .own, .bly, .mdl, .lrn, .rope] ⊆ P) :
    (carryOn s).beyond P = s.beyond P := by
  simp only [List.cons_subset] at hP
  unfold carryOn
  rw [beyond_carryRemoval, beyond_foldl, beyond_foldl]
  · intro s r
    split <;> simp_all
  all_goals simp_all

@[simp] theorem beyond_runDone (r : WriteRun) (hP : [.pwr, .nvm, .cairn, .stm, .own, .bly, .mdl, .lrn, .rope] ⊆ P) :
    (runDone r s).beyond P = s.beyond P := by
  unfold runDone
  split <;> simp_all

@[simp] theorem beyond_startRun (run : WriteRun) (tag : Option Tag) (hP : [.pwr, .nvm, .cairn, .stm, .own, .bly, .mdl, .lrn, .rope] ⊆ P) :
    (startRun run tag s).beyond P = s.beyond P := by simp_all [startRun]

@[simp] theorem beyond_haltModel (m : Nat) (code : Byte) (hP : [.pwr, .cairn, .stm, .bly, .mdl, .lrn] ⊆ P) :
    (haltModel m code s).beyond P = s.beyond P := by
  unfold haltModel
  dsimp only
  split <;> simp_all

@[simp] theorem beyond_replaceFails (m : Nat) (code : Byte) (hP : [.pwr, .cairn, .stm, .bly, .mdl, .lrn] ⊆ P) :
    (replaceFails m code s).beyond P = s.beyond P := by
  unfold replaceFails
  (repeat' split) <;> simp_all

@[simp] theorem beyond_replaceModel (m : Nat) (cause code : Byte) (fence : Option Nat)
    (hP : [.pwr, .nvm, .cairn, .stm, .own, .bly, .mdl, .lrn, .rope] ⊆ P) : (replaceModel m cause code fence s).beyond P = s.beyond P := by
  unfold replaceModel
  dsimp only
  split
  · simp_all
  · split
    · simp_all
    · next hg =>
      rw [beyond_startRun _ _ _ hP, beyond_setPlacement, beyond_dropRuns, beyond_askGrant _ hg] <;> simp_all

@[simp] theorem beyond_withdrawSet (m : Nat) (hP : [.pwr, .cairn, .stm, .bly, .mdl, .lrn] ⊆ P) :
    (withdrawSet m s).beyond P = s.beyond P := by simp_all [withdrawSet]

@[simp] theorem beyond_postFence (n : Nat) (hP : [.pwr, .nvm] ⊆ P) : (postFence n s).beyond P = s.beyond P := by
  unfold postFence
  split <;> simp_all

@[simp] theorem beyond_fenceCore (n : Nat) (cause : Byte) (tag : Option Tag)
    (hP : [.pwr, .nvm, .cairn, .stm, .own, .bly, .mdl, .lrn, .rope] ⊆ P) : (fenceCore n cause tag s).beyond P = s.beyond P := by
  simp_all [fenceCore]

@[simp] theorem beyond_fenceCommitted (n : Nat) (hP : [.pwr, .cairn, .mdl, .lrn] ⊆ P) : (fenceCommitted n s).beyond P = s.beyond P := by
  unfold fenceCommitted
  (repeat' split) <;> simp_all

@[simp] theorem beyond_grantCommitted (hP : [.mdl] ⊆ P) : (grantCommitted s).beyond P = s.beyond P := by simp_all [grantCommitted]

/-! ### The Resource Manager's frame path (chapter 11) -/

@[simp] theorem beyond_enterFrame (m : Nat) (g : FeatureFrame) (bank : Nat) (host : Option Tag) (hP : [.mdl] ⊆ P) :
    (enterFrame m g bank host s).beyond P = s.beyond P := by simp_all [enterFrame]

@[simp] theorem beyond_readQueued (q : Queued) (hP : [.nvm] ⊆ P) : (readQueued q s).2.beyond P = s.beyond P := by simp_all [readQueued]

@[simp] theorem leaves_execFeatureQueueRoute (hP : [.nvm, .bly, .mdl] ⊆ P) : Leaves P s (execFeatureQueueRoute s) := by
  unfold execFeatureQueueRoute
  (repeat' split) <;> simp_all

@[simp] theorem beyond_sendRope (f : RopeFrame) (hP : [.rope] ⊆ P) : (sendRope f s).beyond P = s.beyond P := by simp_all [sendRope]

@[simp] theorem beyond_grantFrames (m layer dst frames : Nat) (hP : [.rope] ⊆ P) :
    (grantFrames m layer dst frames s).beyond P = s.beyond P := by simp_all [grantFrames]

@[simp] theorem beyond_startJob (m : Nat) (frames : List Frame) (bank space : Nat) (pitch : Bool) (round : Option Word32)
    (hP : [.pwr, .nvm, .mdl, .rope] ⊆ P) : (startJob m frames bank space pitch round s).beyond P = s.beyond P := by simp_all [startJob]

theorem beyond_startPitch {s t : State} (hP : [.pwr, .nvm, .mdl, .rope] ⊆ P) (h : startPitch s = some t) : t.beyond P = s.beyond P := by
  simp only [startPitch] at h
  split at h
  · contradiction
  · obtain ⟨b, _, rfl⟩ := Option.map_eq_some_iff.1 h
    simp_all

@[simp] theorem beyond_selectJob (hP : [.pwr, .nvm, .mdl, .rope] ⊆ P) : (selectJob s).beyond P = s.beyond P := by
  unfold selectJob
  dsimp only
  split <;> simp_all

@[simp] theorem leaves_execJobStart (hP : [.pwr, .nvm, .mdl, .rope] ⊆ P) : Leaves P s (execJobStart s) := by
  unfold execJobStart
  split
  · simp
  · split
    · next hq => exact (leaves_next _ _).2 (beyond_startPitch hP hq)
    · split <;> simp_all

theorem beyond_askDomain {n : Nat} {s t : State} (hP : [.pwr] ⊆ P) (h : askDomain n s = some t) : t.beyond P = s.beyond P := by
  unfold askDomain at h
  split at h
  · contradiction
  · cases h
    exact beyond_wantDomain _ _ _ hP

theorem beyond_askCore {n : Nat} {s t : State} (hP : [.pwr] ⊆ P) (h : askCore n s = some t) : t.beyond P = s.beyond P := by
  simp only [askCore] at h
  split at h
  · contradiction
  · split at h
    · contradiction
    · split at h
      · exact beyond_askDomain hP h
      · split at h
        · exact (beyond_askDomain hP h).trans (beyond_wantDomain _ _ _ hP)
        · contradiction
    · exact beyond_askDomain hP h

@[simp] theorem beyond_forceBand (j : Job) (n : Nat) (hP : [.thm, .lrn] ⊆ P) : (forceBand j n s).beyond P = s.beyond P := by
  simp_all [forceBand]

@[simp] theorem beyond_startPass (j : Job) (n : Nat) (arrays : List Nat) (hP : [.mdl] ⊆ P) :
    (startPass j n arrays s).beyond P = s.beyond P := by simp_all [startPass]

theorem beyond_tryCore {j : Job} {layer : Nat} {head : Option Nat} {arrays : List Nat} {n : Nat} {s t : State}
    (hP : [.pwr, .thm, .mdl, .lrn] ⊆ P) (h : tryCore j layer head arrays n s = some t) : t.beyond P = s.beyond P := by
  simp only [tryCore] at h
  split at h
  · contradiction
  · split at h
    · exact beyond_askCore (by simp_all) h
    · split at h
      · contradiction
      · split at h
        · cases h
          simp_all
        · split at h
          · cases h
            simp_all
          · contradiction

theorem beyond_tryUnit {j : Job} {u : Unit'} {domain : Nat} {s t : State} (hP : [.pwr, .mdl] ⊆ P)
    (h : tryUnit j u domain s = some t) : t.beyond P = s.beyond P := by
  unfold tryUnit at h
  split at h
  · contradiction
  · split at h
    · split at h
      · contradiction
      · exact beyond_askDomain (by simp_all) h
    · split at h
      · contradiction
      · cases h
        simp_all

theorem beyond_tryRotate {j : Job} {lp : LayerPlace} {s t : State} (hP : [.pwr, .nvm, .cairn, .stm, .bly, .mdl, .lrn] ⊆ P)
    (h : tryRotate j lp s = some t) : t.beyond P = s.beyond P := by
  simp only [tryRotate] at h
  split at h
  · contradiction
  · split at h
    · next hg =>
      cases h
      rw [beyond_orderWrites _ _ _ (by simp_all), beyond_askGrant (by simp_all) hg]
    · cases h; simp_all

@[simp] theorem beyond_stageLayer (m layer : Nat) (hP : [.nvm, .mdl] ⊆ P) : (stageLayer m layer s).beyond P = s.beyond P := by
  simp_all [stageLayer]

theorem beyond_tryStream {j : Job} {staged : Bool} {s t : State} (hP : [.pwr, .nvm, .mdl] ⊆ P) (h : tryStream j staged s = some t) :
    t.beyond P = s.beyond P := by
  simp only [tryStream] at h
  split at h
  · exact beyond_tryUnit (by simp_all) h
  · split at h
    · exact beyond_askDomain (by simp_all) h
    · split at h
      · contradiction
      · split at h
        · cases h; simp_all
        · obtain ⟨u, hu, rfl⟩ := Option.map_eq_some_iff.1 h
          rw [beyond_readPages _ _ (by simp_all), beyond_tryUnit (by simp_all) hu]

theorem beyond_tryJob {j : Job} {s t : State} (hP : [.pwr, .thm, .nvm, .cairn, .stm, .bly, .mdl, .lrn] ⊆ P)
    (h : tryJob j s = some t) : t.beyond P = s.beyond P := by
  have domain {n : Nat} (h : askDomain n s = some t) := beyond_askDomain (P := P) (by simp_all) h
  have unit {u : Unit'} {n : Nat} (h : tryUnit j u n s = some t) := beyond_tryUnit (P := P) (by simp_all) h
  have stream {staged : Bool} (h : tryStream j staged s = some t) := beyond_tryStream (P := P) (by simp_all) h
  have core {layer : Nat} {head : Option Nat} {arrays : List Nat} {n : Nat} {t : State} (h : tryCore j layer head arrays n s = some t) :=
    beyond_tryCore (P := P) (by simp_all) h
  simp only [tryJob] at h
  split at h
  · contradiction
  split at h
  · exact domain h
  split at h
  · contradiction
  split at h
  · exact beyond_findSome core h
  · split at h
    · next hq =>
      cases h
      exact beyond_findSome core hq
    · exact beyond_tryRotate (by simp_all) h
  · exact stream h
  · exact stream h
  · split at h
    · exact unit h
    · contradiction
  · exact unit h
  · split at h
    · contradiction
    · split at h
      · exact domain h
      · split at h
        · exact core h
        · split at h
          · exact unit h
          · contradiction
  · contradiction
  · contradiction

@[simp] theorem leaves_execLayerDispatch (hP : [.pwr, .thm, .nvm, .cairn, .stm, .bly, .mdl, .lrn] ⊆ P) :
    Leaves P s (execLayerDispatch s) := by
  refine (leaves_next _ _).2 ?_
  cases hq : s.mdl.jobs.findSome? fun j => tryJob j s with
  | none => rfl
  | some u => exact beyond_findSome (beyond_tryJob hP) hq

@[simp] theorem beyond_reportRound (m : Nat) (round : Word32) (hP : [.rope] ⊆ P) : (reportRound m round s).beyond P = s.beyond P := by
  simp_all [reportRound]

@[simp] theorem beyond_endJob (id : Nat) (hP : [.pwr, .nvm, .cairn, .stm, .own, .bly, .mdl, .lrn, .rope] ⊆ P) :
    (endJob id s).beyond P = s.beyond P := by
  unfold endJob
  (repeat' split) <;> simp_all

@[simp] theorem beyond_vanishJob (j : Job) (hP : [.pwr, .nvm, .cairn, .stm, .own, .bly, .mdl, .lrn, .rope] ⊆ P) :
    (vanishJob j s).beyond P = s.beyond P := by simp_all [vanishJob]

@[simp] theorem beyond_advance (id : Nat) (outs : Frame → List Int) (hP : [.pwr, .nvm, .cairn, .stm, .own, .bly, .mdl, .lrn, .rope] ⊆ P) :
    (advance id outs s).beyond P = s.beyond P := by
  unfold advance
  split <;> simp_all

@[simp] theorem beyond_countClips (array clips conv : Nat) (hP : [.mdl] ⊆ P) : (countClips array clips conv s).beyond P = s.beyond P := by
  simp_all [countClips]

@[simp] theorem beyond_runBlock (j : Job) (l : Layer) (b : Nat) (arrays : List Nat) (fs : List Frame) (hP : [.mdl, .free] ⊆ P) :
    (runBlock j l b arrays fs s).beyond P = s.beyond P := by simp_all [runBlock]

@[simp] theorem beyond_runCopy (j : Job) (n : Nat) (hP : [.mdl, .free] ⊆ P) : (runCopy j n s).beyond P = s.beyond P := by
  simp_all [runCopy]

@[simp] theorem leaves_execCimPassDone (core : BitVec 3) (parityOk : Bool)
    (hP : [.pwr, .nvm, .cairn, .stm, .own, .bly, .mdl, .lrn, .rope, .free] ⊆ P) : Leaves P s (execCimPassDone core parityOk s) := by
  unfold execCimPassDone
  dsimp only
  (repeat' split) <;> simp_all

@[simp] theorem leaves_execStreamLayerDone (hP : [.pwr, .nvm, .cairn, .stm, .own, .bly, .mdl, .lrn, .rope] ⊆ P) :
    Leaves P s (execStreamLayerDone s) := by
  unfold execStreamLayerDone
  split <;> simp_all

@[simp] theorem leaves_execVectorLayerDone (hP : [.pwr, .nvm, .cairn, .stm, .own, .bly, .mdl, .lrn, .rope] ⊆ P) :
    Leaves P s (execVectorLayerDone s) := by
  unfold execVectorLayerDone
  split <;> simp_all

@[simp] theorem leaves_execProtoForwardDone (hP : [.pwr, .nvm, .cairn, .stm, .own, .bly, .mdl, .lrn, .rope] ⊆ P) :
    Leaves P s (execProtoForwardDone s) := by
  unfold execProtoForwardDone
  (repeat' split) <;> simp_all

/-! ### The model commands (chapter 10) -/

@[simp] theorem beyond_cmdModelLoadBegin (ht : TakenOr P h s) (hP : [.pwr, .cairn, .stm, .bly, .mdl, .lrn] ⊆ P) :
    (cmdModelLoadBegin h p s).beyond P = s.beyond P := beyond_serve _ _ _ _ _ ht fun s => by simp_all

@[simp] theorem beyond_nextLoad (m : Nat) (l : List (Tag × Nat × Bytes)) (hP : [.pwr, .nvm, .mdl] ⊆ P) :
    (nextLoad m l s).beyond P = s.beyond P := by
  induction l generalizing s with
  | nil => simp_all [nextLoad]
  | cons a l ih => simp_all [nextLoad]

@[simp] theorem beyond_cmdModelLoadData (ht : TakenOr P h s) (hP : [.pwr, .nvm, .mdl] ⊆ P) :
    (cmdModelLoadData h p s).beyond P = s.beyond P := beyond_serve _ _ _ _ _ ht fun s => by simp_all

@[simp] theorem beyond_cmdModelLoadAbandon (ht : TakenOr P h s) (hP : [.pwr, .nvm, .cairn, .stm, .bly, .mdl, .lrn, .rope] ⊆ P) :
    (cmdModelLoadAbandon h p s).beyond P = s.beyond P := beyond_serve _ _ _ _ _ ht fun s => by simp_all

@[simp] theorem beyond_cmdModelVerify (ht : TakenOr P h s) (hP : [.pwr, .mdl] ⊆ P) : (cmdModelVerify h p s).beyond P = s.beyond P :=
  beyond_serve _ _ _ _ _ ht fun s => by simp_all

@[simp] theorem leaves_execModelVerifyDone (slot : BitVec 3) (hP : [.pwr, .nvm, .cairn, .stm, .bly, .mdl, .lrn, .rope] ⊆ P) :
    Leaves P s (execModelVerifyDone slot s) := by
  unfold execModelVerifyDone
  dsimp only
  (repeat' split) <;> simp_all

@[simp] theorem beyond_unplace (m : Nat) (hP : [.pwr, .cairn, .stm, .bly, .mdl, .lrn] ⊆ P) : (unplace m s).beyond P = s.beyond P := by
  simp_all [unplace]

theorem beyond_takeReserve {m : Nat} {s t : State} (hP : [.pwr, .mdl] ⊆ P) (h : takeReserve m s = some t) : t.beyond P = s.beyond P := by
  unfold takeReserve at h
  split at h
  · cases h; rfl
  · obtain ⟨g, _, rfl⟩ := Option.map_eq_some_iff.1 h
    simp_all

theorem beyond_commitPlacement {m : Nat} {p : Placement} {inherit : List Nat} {mine : Nat → Bool} {s t : State} {ws : List ArrayWrite}
    (hP : [.pwr, .cairn, .mdl, .lrn] ⊆ P) (h : commitPlacement m p inherit mine s = .inr (t, ws)) : t.beyond P = s.beyond P := by
  simp only [commitPlacement] at h
  split at h
  · contradiction
  · next hr =>
    split at h
    · contradiction
    · next ha =>
      split at h
      · contradiction
      · split at h
        · contradiction
        · next hg =>
          cases h
          rw [beyond_askGrant (by simp_all) hg, beyond_allocateHeads (by simp_all) ha, beyond_takeReserve (by simp_all) hr]
          simp_all

@[simp] theorem beyond_placeRefused (m : Nat) (p : Placement) (st : Byte) (hP : [.nvm, .lrn] ⊆ P) :
    (placeRefused m p st s).beyond P = s.beyond P := by simp_all [placeRefused]

theorem beyond_placeModel (h : Hdr) (m : Nat) (p : Placement) (mine : Nat → Bool) (prep : State → State) (s : State)
    (hP : [.pwr, .nvm, .cairn, .stm, .own, .bly, .mdl, .lrn, .rope] ⊆ P) (hp : ∀ s, (prep s).beyond P = s.beyond P) :
    (placeModel h m p mine prep s).beyond P = s.beyond P := by
  unfold placeModel
  split
  · simp_all
  · next hq =>
    rw [beyond_startRun _ _ _ hP, beyond_started, beyond_commitMark, hp, beyond_commitPlacement (by simp_all) hq]

@[simp] theorem beyond_cmdModelPlace (ht : TakenOr P h s) (hP : [.pwr, .nvm, .cairn, .stm, .own, .bly, .mdl, .lrn, .rope] ⊆ P) :
    (cmdModelPlace h p s).beyond P = s.beyond P := by
  refine beyond_serve _ _ _ _ _ ht fun s => beyond_refuseIf _ _ _ _ ?_
  dsimp only
  split
  · simp_all
  · exact beyond_placeModel _ _ _ _ _ _ hP fun _ => rfl

@[simp] theorem beyond_ridgePlaced (m base : Nat) (salt : Bytes) (hP : [.mdl, .rope] ⊆ P) :
    (ridgePlaced m base salt s).beyond P = s.beyond P := by
  unfold ridgePlaced
  dsimp only
  split
  · simp_all
  · rw [beyond_foldl]
    · simp_all
    · exact fun s l => beyond_foldl _ _ (fun s c => by simp_all) _

@[simp] theorem beyond_cmdModelPlaceRidge (others : Option Refuser) (ht : TakenOr P h s)
    (hP : [.pwr, .nvm, .cairn, .stm, .own, .bly, .mdl, .lrn, .rope, .free] ⊆ P) :
    (cmdModelPlaceRidge h p others s).beyond P = s.beyond P := by
  refine beyond_serve _ _ _ _ _ ht fun s => beyond_refuseIf _ _ _ _ ?_
  dsimp only
  split
  · simp_all
  · simp_all
  · exact beyond_placeModel _ _ _ _ _ _ (by simp_all) fun _ => by simp_all

@[simp] theorem beyond_cmdModelUnload (ht : TakenOr P h s) (hP : [.pwr, .nvm, .cairn, .stm, .bly, .mdl, .lrn, .rope] ⊆ P) :
    (cmdModelUnload h p s).beyond P = s.beyond P := beyond_serve _ _ _ _ _ ht fun s => by simp_all

@[simp] theorem beyond_cmdModelPlacementGet (ht : TakenOr P h s) : (cmdModelPlacementGet h p s).beyond P = s.beyond P :=
  beyond_serve _ _ _ _ _ ht fun s => by simp

@[simp] theorem beyond_cmdModelList (ht : TakenOr P h s) : (cmdModelList h p s).beyond P = s.beyond P :=
  beyond_serve _ _ _ _ _ ht fun s => by simp

@[simp] theorem beyond_cmdModelStart (ht : TakenOr P h s) (hP : [.pwr, .cairn, .stm, .bly, .mdl, .lrn] ⊆ P) :
    (cmdModelStart h p s).beyond P = s.beyond P := by
  refine beyond_serve _ _ _ _ _ ht fun s => beyond_refuseIf _ _ _ _ ?_
  simp_all

@[simp] theorem beyond_cmdModelStop (ht : TakenOr P h s) (hP : [.pwr, .nvm, .cairn, .stm, .own, .bly, .mdl, .lrn, .rope] ⊆ P) :
    (cmdModelStop h p s).beyond P = s.beyond P := beyond_serve _ _ _ _ _ ht fun s => by simp_all

@[simp] theorem beyond_yieldOld (old : Nat) (hP : [.mdl] ⊆ P) : (yieldOld old s).beyond P = s.beyond P := by simp_all [yieldOld]

@[simp] theorem beyond_cmdModelReplace (ht : TakenOr P h s) (hP : [.pwr, .nvm, .cairn, .stm, .own, .bly, .mdl, .lrn, .rope] ⊆ P) :
    (cmdModelReplace h p s).beyond P = s.beyond P := by
  refine beyond_serve _ _ _ _ _ ht fun s => beyond_refuseIf _ _ _ _ ?_
  dsimp only
  split
  · simp
  · split
    · simp_all
    · next hq =>
      rw [beyond_carryOn _ hP, beyond_startRun _ _ _ hP, beyond_ite, beyond_yieldOld _ _ (by simp_all), ite_self, beyond_started, beyond_commitMark,
        beyond_commitPlacement (by simp_all) hq]

@[simp] theorem beyond_cmdModelBindStreams (ht : TakenOr P h s) (hP : [.mdl] ⊆ P) : (cmdModelBindStreams h p s).beyond P = s.beyond P :=
  beyond_serve _ _ _ _ _ ht fun s => by simp_all

/-! ### The Resource Manager's commands (chapter 11) -/

@[simp] theorem beyond_cmdJobSubmit (ht : TakenOr P h s) (hP : [.mdl] ⊆ P) : (cmdJobSubmit h p s).beyond P = s.beyond P :=
  beyond_serve _ _ _ _ _ ht fun s => by simp_all

@[simp] theorem beyond_deliver (seqs : List Word32) (hP : [.mdl] ⊆ P) : (deliver seqs s).beyond P = s.beyond P := by simp_all [deliver]

@[simp] theorem beyond_cmdResultRead (ht : TakenOr P h s) (hP : [.nvm, .mdl] ⊆ P) : (cmdResultRead h p s).beyond P = s.beyond P :=
  beyond_serve _ _ _ _ _ ht fun s => by simp_all

@[simp] theorem beyond_setPinned (seq : Word32) (v : Bool) (hP : [.mdl] ⊆ P) : (setPinned seq v s).beyond P = s.beyond P := by
  simp_all [setPinned]

@[simp] theorem beyond_cmdResultPin (ht : TakenOr P h s) (hP : [.mdl] ⊆ P) : (cmdResultPin h p s).beyond P = s.beyond P := by
  refine beyond_serve _ _ _ _ _ ht fun s => ?_
  dsimp only
  split
  · simp
  · exact beyond_refuseIf _ _ _ _ (by simp_all)

@[simp] theorem beyond_cmdResultUnpin (ht : TakenOr P h s) (hP : [.mdl] ⊆ P) : (cmdResultUnpin h p s).beyond P = s.beyond P := by
  refine beyond_serve _ _ _ _ _ ht fun s => ?_
  split <;> simp_all

@[simp] theorem beyond_cmdRmStatus (ht : TakenOr P h s) : (cmdRmStatus h p s).beyond P = s.beyond P :=
  beyond_serve _ _ _ _ _ ht fun s => by simp

@[simp] theorem beyond_cmdRmCounters (ht : TakenOr P h s) : (cmdRmCounters h p s).beyond P = s.beyond P :=
  beyond_serve _ _ _ _ _ ht fun s => by simp

@[simp] theorem beyond_cmdRmCountersClear (ht : TakenOr P h s) (hP : [.mdl] ⊆ P) : (cmdRmCountersClear h p s).beyond P = s.beyond P :=
  beyond_serve _ _ _ _ _ ht fun s => by simp_all

@[simp] theorem beyond_cmdRmShareSet (ht : TakenOr P h s) (hP : [.mdl] ⊆ P) : (cmdRmShareSet h p s).beyond P = s.beyond P :=
  beyond_serve _ _ _ _ _ ht fun s => by simp_all

@[simp] theorem beyond_cmdQueueStatus (ht : TakenOr P h s) : (cmdQueueStatus h p s).beyond P = s.beyond P :=
  beyond_serve _ _ _ _ _ ht fun s => by simp

@[simp] theorem beyond_cmdQueueStatusClearHigh (ht : TakenOr P h s) (hP : [.mdl] ⊆ P) :
    (cmdQueueStatusClearHigh h p s).beyond P = s.beyond P := beyond_serve _ _ _ _ _ ht fun s => by simp_all

@[simp] theorem beyond_cmdResultSubscribe (ht : TakenOr P h s) (hP : [.mdl] ⊆ P) : (cmdResultSubscribe h p s).beyond P = s.beyond P :=
  beyond_serve _ _ _ _ _ ht fun s => by simp_all

/-! ### On-device learning (chapter 12) -/

@[simp] theorem beyond_deferCopy (n : Nat) (kind : Byte) (arrays : List Nat) (hP : [.lrn] ⊆ P) :
    (deferCopy n kind arrays s).beyond P = s.beyond P := by simp_all [deferCopy]

theorem beyond_requestCopy (n : Nat) (tag : Option Tag) (hP : [.pwr, .nvm, .cairn, .stm, .own, .bly, .mdl, .lrn, .rope] ⊆ P) :
    (requestCopy n tag s).state.beyond P = s.beyond P := by
  unfold requestCopy
  dsimp only
  split
  · simp_all [Request.state]
  · split
    · simp_all [Request.state]
    · next hg =>
      dsimp only [Request.state]
      rw [beyond_startRun _ _ _ hP, beyond_onHead _ _ _ (by simp_all), beyond_askGrant (by simp_all) hg]

@[simp] theorem beyond_testCopy (n : Nat) (hP : [.pwr, .nvm, .cairn, .stm, .own, .bly, .mdl, .lrn, .rope] ⊆ P) :
    (testCopy n s).beyond P = s.beyond P := by
  unfold testCopy
  dsimp only
  split
  · rfl
  · exact beyond_requestCopy s n none hP

@[simp] theorem beyond_saveAtEpoch (n : Nat) (hP : [.pwr, .nvm, .lrn] ⊆ P) : (saveAtEpoch n s).beyond P = s.beyond P := by
  simp_all [saveAtEpoch]

@[simp] theorem beyond_epochEnd (n : Nat) (hP : [.pwr, .nvm, .cairn, .stm, .own, .bly, .mdl, .lrn, .rope] ⊆ P) :
    (epochEnd n s).beyond P = s.beyond P := by simp_all [epochEnd]

@[simp] theorem leaves_execLearningStep (head : BitVec 2) (hP : [.pwr, .nvm, .cairn, .stm, .own, .bly, .mdl, .lrn, .rope] ⊆ P) :
    Leaves P s (execLearningStep head s) := by
  unfold execLearningStep
  dsimp only
  split <;> simp_all

@[simp] theorem leaves_execRewardUpdate (head : BitVec 2) (hP : [.pwr, .nvm, .lrn] ⊆ P) : Leaves P s (execRewardUpdate head s) := by
  unfold execRewardUpdate
  dsimp only
  split <;> simp_all

@[simp] theorem leaves_execSettlePeriodEnd (head : BitVec 2) (hP : [.lrn] ⊆ P) : Leaves P s (execSettlePeriodEnd head s) := by
  simp_all [execSettlePeriodEnd]

@[simp] theorem leaves_execHoldoffPeriodEnd (head : BitVec 2) (hP : [.lrn] ⊆ P) : Leaves P s (execHoldoffPeriodEnd head s) := by
  simp_all [execHoldoffPeriodEnd]

@[simp] theorem beyond_exportBlob (n : Nat) (c : Bytes) (hP : [.free] ⊆ P) : (exportBlob n c s).2.beyond P = s.beyond P := by
  simp_all [exportBlob]

@[simp] theorem beyond_replyExport (n : Nat) (tag : Tag) (hP : [.nvm, .free] ⊆ P) : (replyExport n tag s).beyond P = s.beyond P := by
  unfold replyExport
  split <;> simp_all

@[simp] theorem beyond_carryRoll (hP : [.pwr, .nvm, .own, .mdl, .lrn] ⊆ P) : (carryRoll s).beyond P = s.beyond P := by
  have hend (r : EpochRoll) (s : State) : (carryRoll.endRoll r s).beyond P = s.beyond P := by simp_all [carryRoll.endRoll]
  unfold carryRoll
  split
  · rfl
  · dsimp only
    split
    · rfl
    · split
      · rw [beyond_ite, hend, beyond_wantDomain _ _ _ (by simp_all), ite_self]
        simp_all
      · exact hend _ _

@[simp] theorem leaves_execHeadSaveCommit (head : BitVec 2) (hP : [.pwr, .nvm, .own, .mdl, .lrn, .free] ⊆ P) :
    Leaves P s (execHeadSaveCommit head s) := by
  unfold execHeadSaveCommit
  dsimp only
  (repeat' split) <;> simp_all

@[simp] theorem beyond_loadTakes (n : Nat) (u : Nat × Nat) (source : LoadSource) (tag : Option Tag) (copy : Option Bytes)
    (hP : [.pwr, .nvm, .own, .mdl, .lrn] ⊆ P) : (loadTakes n u source tag copy s).beyond P = s.beyond P := by
  unfold loadTakes
  dsimp only
  split <;> simp_all

@[simp] theorem leaves_execHeadLoadDone (head : BitVec 2) (hP : [.pwr, .nvm, .own, .mdl, .lrn] ⊆ P) :
    Leaves P s (execHeadLoadDone head s) := by
  unfold execHeadLoadDone
  dsimp only
  (repeat' split) <;> simp_all

@[simp] theorem leaves_execConsolidationInForce (head : BitVec 2) (hP : [.lrn] ⊆ P) : Leaves P s (execConsolidationInForce head s) := by
  unfold execConsolidationInForce
  dsimp only
  (repeat' split) <;> simp_all

@[simp] theorem beyond_cmdHeadConfig (ht : TakenOr P h s) (hP : [.mdl, .lrn] ⊆ P) : (cmdHeadConfig h p s).beyond P = s.beyond P :=
  beyond_serve _ _ _ _ _ ht fun s => by simp_all

@[simp] theorem beyond_cmdModulatorConfig (ht : TakenOr P h s) (hP : [.lrn] ⊆ P) : (cmdModulatorConfig h p s).beyond P = s.beyond P :=
  beyond_serve _ _ _ _ _ ht fun s => by simp_all

@[simp] theorem beyond_cmdHeadGet (ht : TakenOr P h s) : (cmdHeadGet h p s).beyond P = s.beyond P :=
  beyond_serve _ _ _ _ _ ht fun s => by simp

@[simp] theorem beyond_cmdRewardCancel (ht : TakenOr P h s) (hP : [.lrn] ⊆ P) : (cmdRewardCancel h p s).beyond P = s.beyond P :=
  beyond_serve _ _ _ _ _ ht fun s => by simp_all

@[simp] theorem beyond_cmdRewardImmediate (ht : TakenOr P h s) (hP : [.lrn] ⊆ P) : (cmdRewardImmediate h p s).beyond P = s.beyond P :=
  beyond_serve _ _ _ _ _ ht fun s => by simp_all

@[simp] theorem beyond_cmdRewardHeld (ht : TakenOr P h s) (hP : [.lrn] ⊆ P) : (cmdRewardHeld h p s).beyond P = s.beyond P :=
  beyond_serve _ _ _ _ _ ht fun s => by simp_all

@[simp] theorem beyond_cmdHeadFreeze (ht : TakenOr P h s) (hP : [.pwr, .nvm, .lrn] ⊆ P) : (cmdHeadFreeze h p s).beyond P = s.beyond P :=
  beyond_serve _ _ _ _ _ ht fun s => by simp_all

@[simp] theorem beyond_cmdHeadResume (ht : TakenOr P h s) (hP : [.lrn] ⊆ P) : (cmdHeadResume h p s).beyond P = s.beyond P :=
  beyond_serve _ _ _ _ _ ht fun s => by simp_all

@[simp] theorem beyond_cmdHeadSave (ht : TakenOr P h s) (hP : [.pwr, .nvm, .lrn] ⊆ P) : (cmdHeadSave h p s).beyond P = s.beyond P := by
  refine beyond_serve _ _ _ _ _ ht fun s => beyond_refuseIf _ _ _ _ ?_
  simp_all

@[simp] theorem beyond_cmdHeadRestore (ht : TakenOr P h s) (hP : [.pwr, .nvm, .lrn] ⊆ P) :
    (cmdHeadRestore h p s).beyond P = s.beyond P := beyond_serve _ _ _ _ _ ht fun s => by simp_all

@[simp] theorem beyond_cmdHeadExport (ht : TakenOr P h s) (hP : [.pwr, .nvm, .lrn, .free] ⊆ P) :
    (cmdHeadExport h p s).beyond P = s.beyond P := by
  refine beyond_serve _ _ _ _ _ ht fun s => beyond_refuseIf _ _ _ _ (beyond_refuseIf _ _ _ _ ?_)
  simp_all

@[simp] theorem beyond_cmdHeadImport (ht : TakenOr P h s) (hP : [.pwr, .nvm, .lrn] ⊆ P) : (cmdHeadImport h p s).beyond P = s.beyond P := by
  refine beyond_serve _ _ _ _ _ ht fun s => beyond_refuseIf _ _ _ _ ?_
  dsimp only
  split
  · simp
  · exact beyond_refuseIf _ _ _ _ (by simp_all)

@[simp] theorem beyond_cmdHeadConsolidate (ht : TakenOr P h s) (hP : [.pwr, .nvm, .cairn, .stm, .own, .bly, .mdl, .lrn, .rope] ⊆ P) :
    (cmdHeadConsolidate h p s).beyond P = s.beyond P := by
  refine beyond_serve _ _ _ _ _ ht fun s => beyond_refuseIf _ _ _ _ ?_
  have hr := beyond_requestCopy (started h.tag s) (fld p 0 1) (some h.tag) hP
  split
  · simp
  · split <;> simp_all [Request.state]

@[simp] theorem beyond_cmdHeadStats (ht : TakenOr P h s) : (cmdHeadStats h p s).beyond P = s.beyond P :=
  beyond_serve _ _ _ _ _ ht fun s => by simp

@[simp] theorem beyond_cmdHeadStatsClear (ht : TakenOr P h s) (hP : [.lrn] ⊆ P) : (cmdHeadStatsClear h p s).beyond P = s.beyond P :=
  beyond_serve _ _ _ _ _ ht fun s => by simp_all

@[simp] theorem beyond_erasePair (n : Nat) (tag : Option Tag) (hP : [.pwr, .nvm] ⊆ P) : (erasePair n tag s).beyond P = s.beyond P := by
  simp_all [erasePair]

@[simp] theorem beyond_cmdHeadReset (ht : TakenOr P h s) (hP : [.pwr, .nvm, .lrn] ⊆ P) : (cmdHeadReset h p s).beyond P = s.beyond P :=
  beyond_serve _ _ _ _ _ ht fun s => by simp_all

@[simp] theorem beyond_cmdHeadEraseOrphan (ht : TakenOr P h s) (hP : [.pwr, .nvm, .lrn] ⊆ P) :
    (cmdHeadEraseOrphan h p s).beyond P = s.beyond P := beyond_serve _ _ _ _ _ ht fun s => by simp_all

/-! ### Array writes, self-tests, fences and the wear governor (chapter 13) -/

@[simp] theorem beyond_wantCores (hP : [.pwr] ⊆ P) : (wantCores s).beyond P = s.beyond P := by
  refine beyond_foldl _ _ (fun s n => ?_) _
  split
  · simp_all
  · split
    · rfl
    · split
      · cases hq : askCore n s with
        | none => rfl
        | some u => exact beyond_askCore hP hq
      · rfl

@[simp] theorem beyond_giveResult (kind n : Nat) (result : Byte) (hP : [.lrn] ⊆ P) :
    (giveResult kind n result s).beyond P = s.beyond P := by simp_all [giveResult]

@[simp] theorem beyond_closeFenced (hP : [.lrn] ⊆ P) : (closeFenced s).beyond P = s.beyond P := by simp_all [closeFenced]

@[simp] theorem beyond_endRuns (hP : [.lrn] ⊆ P) : (endRuns s).beyond P = s.beyond P := by simp_all [endRuns]

@[simp] theorem beyond_fenceNow (n : Nat) (cause : Byte) (hP : [.pwr, .nvm, .cairn, .stm, .own, .bly, .mdl, .lrn, .rope] ⊆ P) :
    (fenceNow n cause s).beyond P = s.beyond P := by simp_all [fenceNow]

@[simp] theorem beyond_unfenceFails (status : Byte) (hP : [.pwr, .lrn] ⊆ P) : (unfenceFails status s).beyond P = s.beyond P := by
  unfold unfenceFails
  split <;> simp_all

@[simp] theorem beyond_unfenceCommitted (n : Nat) (hP : [.pwr, .cairn, .mdl, .lrn] ⊆ P) : (unfenceCommitted n s).beyond P = s.beyond P := by
  unfold unfenceCommitted
  split <;> simp_all

@[simp] theorem beyond_columnEvents (a : Nat) (kind : Byte) (count : Nat) : (columnEvents a kind count s).beyond P = s.beyond P := by
  simp [columnEvents]

@[simp] theorem beyond_refreshArray (a : Nat) (hP : [.pwr, .nvm, .cairn, .stm, .own, .bly, .mdl, .lrn, .rope] ⊆ P) :
    (refreshArray a s).beyond P = s.beyond P := by
  unfold refreshArray
  split
  · rfl
  · split
    · exact beyond_requestCopy s _ none hP
    · dsimp only
      split
      · rfl
      · split
        · simp_all
        · next hg => rw [beyond_orderWrites _ _ _ (by simp_all), beyond_askGrant (by simp_all) hg]

@[simp] theorem beyond_programArray (w : ArrayWrite) (hP : [.mdl] ⊆ P) : (programArray w s).beyond P = s.beyond P := by
  simp_all [programArray]

@[simp] theorem leaves_execArrayWriteDone (array : BitVec 6) (stuck : List (BitVec 8)) (residual : Nat) (outside : Bool) (bad : Nat)
    (hP : [.pwr, .nvm, .cairn, .stm, .own, .bly, .mdl, .lrn, .rope] ⊆ P) :
    Leaves P s (execArrayWriteDone array stuck residual outside bad s) := by
  unfold execArrayWriteDone
  dsimp only
  split
  · simp
  · split
    · simp
    · rw [leaves_ite]
      simp_all

@[simp] theorem leaves_execRecalibration (core : BitVec 3) (residual : Nat) (outside : Bool) (bad : List (BitVec 3))
    (hP : [.pwr, .nvm, .cairn, .stm, .own, .bly, .mdl, .lrn, .rope] ⊆ P) : Leaves P s (execRecalibration core residual outside bad s) := by
  simp_all [execRecalibration]

@[simp] theorem leaves_execQuickSelftest (core : BitVec 3) (ok : Bool)
    (hP : [.pwr, .nvm, .cairn, .stm, .own, .bly, .mdl, .lrn, .rope] ⊆ P) : Leaves P s (execQuickSelftest core ok s) := by
  simp_all [execQuickSelftest]

@[simp] theorem beyond_markFailing (a count : Nat) (hP : [.mdl] ⊆ P) : (markFailing a count s).beyond P = s.beyond P := by
  simp_all [markFailing]

@[simp] theorem leaves_execFullSelftest (core : BitVec 3) (quickOk otherOk : Bool) (failing : List (BitVec 3 × Nat))
    (hP : [.pwr, .nvm, .cairn, .stm, .own, .bly, .mdl, .lrn, .rope] ⊆ P) :
    Leaves P s (execFullSelftest core quickOk otherOk failing s) := by simp_all [execFullSelftest]

@[simp] theorem leaves_execClipWindowEnd (array : BitVec 6) (hP : [.pwr, .nvm, .cairn, .stm, .own, .bly, .mdl, .lrn, .rope] ⊆ P) :
    Leaves P s (execClipWindowEnd array s) := by
  unfold execClipWindowEnd
  dsimp only
  split <;> simp_all

@[simp] theorem beyond_withdrawWorn (hP : [.pwr, .cairn, .stm, .bly, .mdl, .lrn] ⊆ P) : (withdrawWorn s).beyond P = s.beyond P := by
  simp_all [withdrawWorn]

@[simp] theorem leaves_execWearHourlyAccrual (hP : [.pwr, .nvm, .cairn, .stm, .own, .bly, .mdl, .lrn, .rope] ⊆ P) :
    Leaves P s (execWearHourlyAccrual s) := by simp_all [execWearHourlyAccrual]

@[simp] theorem leaves_execWearDayBoundary (hP : [.pwr, .nvm, .lrn] ⊆ P) : Leaves P s (execWearDayBoundary s) := by
  simp_all [execWearDayBoundary]

@[simp] theorem beyond_startCores (kind : Nat) (hP : [.pwr, .lrn] ⊆ P) : (startCores kind h p s).beyond P = s.beyond P := by
  simp_all [startCores]

@[simp] theorem beyond_cmdCalRun (ht : TakenOr P h s) (hP : [.pwr, .lrn] ⊆ P) : (cmdCalRun h p s).beyond P = s.beyond P :=
  beyond_serve _ _ _ _ _ ht fun s => by simp_all

@[simp] theorem beyond_cmdSelftestRunQuick (ht : TakenOr P h s) (hP : [.pwr, .lrn] ⊆ P) :
    (cmdSelftestRunQuick h p s).beyond P = s.beyond P := beyond_serve _ _ _ _ _ ht fun s => by simp_all

@[simp] theorem beyond_cmdSelftestRunFull (ht : TakenOr P h s) (hP : [.pwr, .lrn] ⊆ P) :
    (cmdSelftestRunFull h p s).beyond P = s.beyond P := beyond_serve _ _ _ _ _ ht fun s => by simp_all

@[simp] theorem beyond_cmdCalStatus (ht : TakenOr P h s) : (cmdCalStatus h p s).beyond P = s.beyond P :=
  beyond_serve _ _ _ _ _ ht fun s => by simp

@[simp] theorem beyond_cmdSelftestResult (ht : TakenOr P h s) : (cmdSelftestResult h p s).beyond P = s.beyond P :=
  beyond_serve _ _ _ _ _ ht fun s => by simp

@[simp] theorem beyond_cmdWearStatus (ht : TakenOr P h s) : (cmdWearStatus h p s).beyond P = s.beyond P :=
  beyond_serve _ _ _ _ _ ht fun s => by simp

@[simp] theorem beyond_cmdWearConfig (ht : TakenOr P h s) (hP : [.pwr, .nvm, .lrn] ⊆ P) : (cmdWearConfig h p s).beyond P = s.beyond P :=
  beyond_serve _ _ _ _ _ ht fun s => by simp_all

@[simp] theorem beyond_wearConfigCommitted (hP : [.pwr, .nvm, .cairn, .stm, .own, .bly, .mdl, .lrn, .rope] ⊆ P) :
    (wearConfigCommitted s).beyond P = s.beyond P := by
  unfold wearConfigCommitted
  split <;> simp_all

@[simp] theorem beyond_cmdCoreStatus (ht : TakenOr P h s) : (cmdCoreStatus h p s).beyond P = s.beyond P :=
  beyond_serve _ _ _ _ _ ht fun s => by simp

@[simp] theorem beyond_cmdCoreFence (ht : TakenOr P h s) (hP : [.pwr, .nvm, .cairn, .stm, .own, .bly, .mdl, .lrn, .rope] ⊆ P) :
    (cmdCoreFence h p s).beyond P = s.beyond P := beyond_serve _ _ _ _ _ ht fun s => by simp_all

@[simp] theorem beyond_cmdCoreUnfence (ht : TakenOr P h s) (hP : [.pwr, .lrn] ⊆ P) : (cmdCoreUnfence h p s).beyond P = s.beyond P :=
  beyond_serve _ _ _ _ _ ht fun s => by simp_all

@[simp] theorem beyond_cmdClipCounters (ht : TakenOr P h s) : (cmdClipCounters h p s).beyond P = s.beyond P :=
  beyond_serve _ _ _ _ _ ht fun s => by simp

@[simp] theorem beyond_cmdClipCountersClear (ht : TakenOr P h s) (hP : [.mdl] ⊆ P) :
    (cmdClipCountersClear h p s).beyond P = s.beyond P := beyond_serve _ _ _ _ _ ht fun s => by simp_all

/-! ### The Rope (chapter 15) -/

@[simp] theorem beyond_onRopePort (p : Nat) (f : RopePort → RopePort) (hP : [.rope] ⊆ P) : (onRopePort p f s).beyond P = s.beyond P := by
  simp_all [onRopePort]

@[simp] theorem beyond_onRope (f : RopeState → RopeState) (hP : [.rope] ⊆ P) : (onRope f s).beyond P = s.beyond P := by simp_all [onRope]

@[simp] theorem beyond_onRidge (m : Nat) (f : RidgeModel → RidgeModel) (hP : [.rope] ⊆ P) : (onRidge m f s).beyond P = s.beyond P := by
  simp_all [onRidge]

@[simp] theorem beyond_drive (p : Nat) (f : RopeFrame) (hP : [.rope] ⊆ P) : (drive p f s).beyond P = s.beyond P := by simp_all [drive]

@[simp] theorem beyond_resend (p : Nat) (hP : [.rope] ⊆ P) : (resend p s).beyond P = s.beyond P := by simp_all [resend]

@[simp] theorem beyond_freeBuffer (f : RopeFrame) (hP : [.rope] ⊆ P) : (freeBuffer f s).beyond P = s.beyond P := by
  unfold freeBuffer
  split <;> simp_all

@[simp] theorem beyond_transmit (p : Nat) (f : RopeFrame) (hP : [.rope] ⊆ P) : (transmit p f s).beyond P = s.beyond P := by
  simp_all [transmit]

@[simp] theorem beyond_endRelay (id : Nat) (hP : [.rope] ⊆ P) : (endRelay id s).beyond P = s.beyond P := by
  unfold endRelay
  split <;> simp_all

@[simp] theorem beyond_endRead (id : Nat) (hP : [.cairn] ⊆ P) : (endRead id s).beyond P = s.beyond P := by
  unfold endRead
  split <;> simp_all

@[simp] theorem beyond_dropRope (f : RopeFrame) (hP : [.cairn, .rope] ⊆ P) : (dropRope f s).beyond P = s.beyond P := by
  simp_all [dropRope]

@[simp] theorem beyond_noteTaken (f : RopeFrame) (hP : [.rope] ⊆ P) : (noteTaken f s).beyond P = s.beyond P := by simp_all [noteTaken]

@[simp] theorem beyond_sendOrWait (p : Nat) (f : RopeFrame) (hP : [.rope] ⊆ P) : (sendOrWait p f s).beyond P = s.beyond P := by
  simp_all [sendOrWait]

@[simp] theorem beyond_portSend (p : Nat) (f : RopeFrame) (hP : [.cairn, .rope] ⊆ P) : (portSend p f s).beyond P = s.beyond P := by
  unfold portSend
  dsimp only
  split <;> simp_all

@[simp] theorem beyond_pump (p : Nat) (hP : [.rope] ⊆ P) : (pump p s).beyond P = s.beyond P := by simp_all [pump]

@[simp] theorem beyond_routeOut (f : RopeFrame) (hP : [.cairn, .rope] ⊆ P) : (routeOut f s).beyond P = s.beyond P := by
  simp_all [routeOut]

@[simp] theorem beyond_sendOut (hP : [.cairn, .rope] ⊆ P) : (sendOut s).beyond P = s.beyond P := by simp_all [sendOut]

@[simp] theorem beyond_forward (p : Nat) (f : RopeFrame) (hP : [.cairn, .rope] ⊆ P) : (forward p f s).beyond P = s.beyond P := by
  simp_all [forward]

@[simp] theorem beyond_useGrant (m layer n : Nat) (hP : [.rope] ⊆ P) : (useGrant m layer n s).beyond P = s.beyond P := by
  simp_all [useGrant]

@[simp] theorem beyond_sendActs (hP : [.cairn, .rope] ⊆ P) : (sendActs s).beyond P = s.beyond P := by
  refine beyond_foldl _ _ (fun s x => ?_) _
  dsimp only
  split
  · rw [beyond_foldl]
    · simp_all
    · exact fun s f => beyond_foldl _ _ (fun s g => by simp_all) _
  · rfl

@[simp] theorem beyond_roundReported (chip m : Nat) (round : Word32) (waiting : Nat) (hP : [.rope] ⊆ P) :
    (roundReported chip m round waiting s).beyond P = s.beyond P := by simp_all [roundReported]

@[simp] theorem beyond_headReports (hP : [.rope] ⊆ P) : (headReports s).beyond P = s.beyond P := by simp_all [headReports]

@[simp] theorem beyond_flushRope (hP : [.cairn, .rope] ⊆ P) : (flushRope s).beyond P = s.beyond P := by simp_all [flushRope]

@[simp] theorem beyond_returnCredit (p : Nat) (nak : Bool) (hP : [.rope] ⊆ P) : (returnCredit p nak s).beyond P = s.beyond P := by
  simp_all [returnCredit]

@[simp] theorem beyond_beginTraining (p : Nat) (hP : [.rope] ⊆ P) : (beginTraining p s).beyond P = s.beyond P := by
  unfold beginTraining
  dsimp only
  (repeat' split) <;> simp_all

@[simp] theorem beyond_startTraining (p : Nat) (hP : [.rope] ⊆ P) : (startTraining p s).beyond P = s.beyond P := by
  simp_all [startTraining]

@[simp] theorem beyond_refuseFrame (p : Nat) (badCrc : Bool) (hP : [.rope] ⊆ P) : (refuseFrame p badCrc s).beyond P = s.beyond P := by
  simp_all [refuseFrame]

@[simp] theorem beyond_receive (r : RopeRx) (f : RopeFrame) (act : State → State) (hP : [.cairn, .rope] ⊆ P)
    (ha : ∀ s, (act s).beyond P = s.beyond P) : (receive r f act s).beyond P = s.beyond P := by
  unfold receive
  extract_lets q x s1 mine g s2 s3
  have h1 : s1.beyond P = s.beyond P := by simp_all [s1]
  have h2 : s2.beyond P = s.beyond P := by simp_all [s2]
  have h3 : s3.beyond P = s.beyond P := by simp_all [s3]
  simp_all

@[simp] theorem beyond_topologyEvent : (topologyEvent s).beyond P = s.beyond P := by simp [topologyEvent]

@[simp] theorem beyond_ropeFault (kind chip : Byte) : (ropeFault kind chip s).beyond P = s.beyond P := by simp [ropeFault]

@[simp] theorem beyond_endRound (m : Nat) (hP : [.bly, .mdl, .rope] ⊆ P) : (endRound m s).beyond P = s.beyond P := by simp_all [endRound]

@[simp] theorem beyond_abortRounds (hP : [.cairn, .bly, .mdl, .rope] ⊆ P) : (abortRounds s).beyond P = s.beyond P := by
  simp_all [abortRounds]

@[simp] theorem beyond_ridgeAfter (old : Word64) (hP : [.pwr, .cairn, .stm, .bly, .mdl, .lrn] ⊆ P) :
    (ridgeAfter old s).beyond P = s.beyond P := by simp_all [ridgeAfter]

@[simp] theorem beyond_broadcastTopology (hP : [.cairn, .rope] ⊆ P) : (broadcastTopology s).beyond P = s.beyond P := by
  simp_all [broadcastTopology]

@[simp] theorem beyond_endLostRelays (hP : [.cairn, .rope] ⊆ P) : (endLostRelays s).beyond P = s.beyond P := by simp_all [endLostRelays]

@[simp] theorem beyond_newTopology (kind : Topo) (count : Nat) (lost : Word64) (ids : List Word64)
    (hP : [.pwr, .cairn, .stm, .bly, .mdl, .lrn, .rope] ⊆ P) : (newTopology kind count lost ids s).beyond P = s.beyond P := by
  simp_all [newTopology]

@[simp] theorem beyond_endEnum (status result : Byte) (hP : [.rope] ⊆ P) : (endEnum status result s).beyond P = s.beyond P := by
  unfold endEnum
  split <;> simp_all

@[simp] theorem beyond_chipReturned (i : Nat) (old new : Word64) (hP : [.rope] ⊆ P) : (chipReturned i old new s).beyond P = s.beyond P := by
  simp_all [chipReturned]

@[simp] theorem beyond_enumDone (kind : Topo) (count : Nat) (ids : List Word64) (overflow : Bool)
    (hP : [.pwr, .cairn, .stm, .bly, .mdl, .lrn, .rope] ⊆ P) : (enumDone kind count ids overflow s).beyond P = s.beyond P := by
  unfold enumDone
  extract_lets r upUp result again back lost whole kind' ids' count' s1 s2 s3 s4 s5 s6
  have h1 : s1.beyond P = s.beyond P := by simp_all [s1]
  have h2 : s2.beyond P = s.beyond P := by
    unfold s2
    split <;> simp_all
  have h3 : s3.beyond P = s.beyond P := by simp_all [s3]
  have h4 : s4.beyond P = s.beyond P := by simp_all [s4]
  have h5 : s5.beyond P = s.beyond P := by simp_all [s5]
  have h6 : s6.beyond P = s.beyond P := by simp_all [s6]
  rw [beyond_ite, beyond_endEnum _ _ _ (by simp_all), beyond_endEnum _ _ _ (by simp_all), h6, beyond_ropeFault, ite_self]

@[simp] theorem beyond_startEnum (hP : [.pwr, .cairn, .stm, .bly, .mdl, .lrn, .rope] ⊆ P) : (startEnum s).beyond P = s.beyond P := by
  simp_all [startEnum]

@[simp] theorem beyond_loseIndex (hP : [.pwr, .nvm, .cairn, .stm, .bly, .mdl, .lrn, .rope] ⊆ P) : (loseIndex s).beyond P = s.beyond P := by
  simp_all [loseIndex]

@[simp] theorem beyond_linkEvent (p : Nat) (prev : LinkPhase) : (linkEvent p prev s).beyond P = s.beyond P := by simp [linkEvent]

@[simp] theorem beyond_linkLost (chip port : Nat) (hP : [.pwr, .cairn, .stm, .bly, .mdl, .lrn, .rope] ⊆ P) :
    (linkLost chip port s).beyond P = s.beyond P := by simp_all [linkLost]

@[simp] theorem beyond_reportLost (p : Nat) (hP : [.pwr, .cairn, .stm, .bly, .mdl, .lrn, .rope] ⊆ P) :
    (reportLost p s).beyond P = s.beyond P := by simp_all [reportLost]

@[simp] theorem beyond_discardWaiting (p : Nat) (hP : [.cairn, .rope] ⊆ P) : (discardWaiting p s).beyond P = s.beyond P := by
  simp_all [discardWaiting]

@[simp] theorem beyond_endTrainBubble (p : Nat) (hP : [.stm] ⊆ P) : (endTrainBubble p s).beyond P = s.beyond P := by
  simp_all [endTrainBubble]

@[simp] theorem beyond_endTrainTags (p : Nat) (hP : [.rope] ⊆ P) : (endTrainTags p s).beyond P = s.beyond P := by
  unfold endTrainTags
  dsimp only
  (repeat' split) <;> simp_all

@[simp] theorem beyond_portLost (p : Nat) (hP : [.pwr, .cairn, .stm, .bly, .mdl, .lrn, .rope] ⊆ P) :
    (portLost p s).beyond P = s.beyond P := by simp_all [portLost]

@[simp] theorem beyond_endTraining (p : Nat) (lanes : BitVec 2) (fresh : Bool) (hP : [.stm, .rope] ⊆ P) :
    (endTraining p lanes fresh s).beyond P = s.beyond P := by simp_all [endTraining]

@[simp] theorem beyond_becomeUp (p : Nat) (lanes : BitVec 2) (hP : [.pwr, .cairn, .stm, .bly, .mdl, .lrn, .rope] ⊆ P) :
    (becomeUp p lanes s).beyond P = s.beyond P := by simp_all [becomeUp]

@[simp] theorem beyond_checkTrained (p : Nat) (hP : [.pwr, .cairn, .stm, .bly, .mdl, .lrn, .rope] ⊆ P) :
    (checkTrained p s).beyond P = s.beyond P := by
  unfold checkTrained
  split <;> simp_all

@[simp] theorem leaves_execTrain (r : RopeRx) (deviceId : Word64) (bootCount : Word32) (index : Byte) (lanes : BitVec 2)
    (credits : Vector (BitVec 16) 4) (hP : [.pwr, .cairn, .stm, .bly, .mdl, .lrn, .rope] ⊆ P) :
    Leaves P s (execTrain r deviceId bootCount index lanes credits s) := by simp_all [execTrain]

@[simp] theorem leaves_execTrainAck (r : RopeRx) (lanes : BitVec 2) (hP : [.pwr, .cairn, .stm, .bly, .mdl, .lrn, .rope] ⊆ P) :
    Leaves P s (execTrainAck r lanes s) := by simp_all [execTrainAck]

@[simp] theorem leaves_execTrainingAttemptTimeout (port : BitVec 1) (hP : [.pwr, .cairn, .stm, .bly, .mdl, .lrn, .rope] ⊆ P) :
    Leaves P s (execTrainingAttemptTimeout port s) := by simp_all [execTrainingAttemptTimeout]

@[simp] theorem leaves_execCodeGroupSyncAcquired (port : BitVec 1) (lane : BitVec 1) (hP : [.rope] ⊆ P) :
    Leaves P s (execCodeGroupSyncAcquired port lane s) := by
  unfold execCodeGroupSyncAcquired
  dsimp only
  (repeat' split) <;> simp_all

@[simp] theorem leaves_execLaneSyncLoss (port : BitVec 1) (lane : BitVec 1) (hP : [.rope] ⊆ P) :
    Leaves P s (execLaneSyncLoss port lane s) := by simp_all [execLaneSyncLoss]

@[simp] theorem leaves_execSquelchSilence (port : BitVec 1) (hP : [.pwr, .cairn, .stm, .bly, .mdl, .lrn, .rope] ⊆ P) :
    Leaves P s (execSquelchSilence port s) := by simp_all [execSquelchSilence]

@[simp] theorem leaves_execEnumStart (hP : [.pwr, .cairn, .stm, .bly, .mdl, .lrn, .rope] ⊆ P) : Leaves P s (execEnumStart s) := by
  simp_all [execEnumStart]

@[simp] theorem leaves_execEnum (r : RopeRx) (index : Nat) (headId : Word64) (ids : List Word64)
    (hP : [.pwr, .cairn, .stm, .bly, .mdl, .lrn, .rope] ⊆ P) : Leaves P s (execEnum r index headId ids s) := by
  exact (leaves_next _ _).2 (beyond_receive _ _ _ _ (by simp_all) fun s => by simp_all)

@[simp] theorem leaves_execEnumEnd (r : RopeRx) (count : Nat) (ids : List Word64)
    (hP : [.pwr, .cairn, .stm, .bly, .mdl, .lrn, .rope] ⊆ P) : Leaves P s (execEnumEnd r count ids s) := by
  exact (leaves_next _ _).2 (beyond_receive _ _ _ _ (by simp_all) fun s => by simp_all)

@[simp] theorem leaves_execTopology (r : RopeRx) (gen : Byte) (kind : Topo) (count : Nat) (lost : Word64) (ids : List Word64)
    (hP : [.pwr, .nvm, .cairn, .stm, .bly, .mdl, .lrn, .rope] ⊆ P) : Leaves P s (execTopology r gen kind count lost ids s) := by
  simp_all [execTopology]

@[simp] theorem leaves_execHeadConflict (r : RopeRx) (hP : [.pwr, .cairn, .stm, .bly, .mdl, .lrn, .rope] ⊆ P) :
    Leaves P s (execHeadConflict r s) := by simp_all [execHeadConflict]

@[simp] theorem leaves_execNoEnumTimeout (hP : [.rope] ⊆ P) : Leaves P s (execNoEnumTimeout s) := by simp_all [execNoEnumTimeout]

@[simp] theorem leaves_execHeartbeatSend (hP : [.cairn, .rope] ⊆ P) : Leaves P s (execHeartbeatSend s) := by simp_all [execHeartbeatSend]

@[simp] theorem leaves_execHeartbeat (r : RopeRx) (gen : Byte) (hP : [.cairn, .rope] ⊆ P) : Leaves P s (execHeartbeat r gen s) := by
  simp_all [execHeartbeat]

@[simp] theorem leaves_execHeartbeatLoss (hP : [.pwr, .nvm, .cairn, .stm, .bly, .mdl, .lrn, .rope] ⊆ P) :
    Leaves P s (execHeartbeatLoss s) := by simp_all [execHeartbeatLoss]

@[simp] theorem leaves_execLinkLost (r : RopeRx) (port : BitVec 1) (chip : Byte)
    (hP : [.pwr, .cairn, .stm, .bly, .mdl, .lrn, .rope] ⊆ P) : Leaves P s (execLinkLost r port chip s) := by simp_all [execLinkLost]

@[simp] theorem leaves_execJoin (r : RopeRx) (port : BitVec 1) (hP : [.pwr, .cairn, .stm, .bly, .mdl, .lrn, .rope] ⊆ P) :
    Leaves P s (execJoin r port s) := by simp_all [execJoin]

@[simp] theorem leaves_execSleep (r : RopeRx) (hP : [.cairn, .rope] ⊆ P) : Leaves P s (execSleep r s) := by simp_all [execSleep]

@[simp] theorem leaves_execDetach (r : RopeRx) (hP : [.pwr, .cairn, .stm, .bly, .mdl, .lrn, .rope] ⊆ P) : Leaves P s (execDetach r s) := by
  simp_all [execDetach]

@[simp] theorem leaves_execWakeBurstTimeout (port : BitVec 1) (hP : [.cairn, .rope] ⊆ P) : Leaves P s (execWakeBurstTimeout port s) := by
  simp_all [execWakeBurstTimeout]

@[simp] theorem beyond_sendShard (f : RopeFrame) (hP : [.cairn, .rope] ⊆ P) : (sendShard f s).1.beyond P = s.beyond P := by
  simp_all [sendShard]

@[simp] theorem beyond_pumpShards (m : Nat) (l : List RopeFrame) (hP : [.cairn, .rope] ⊆ P) :
    (pumpShards m l s).beyond P = s.beyond P := by
  induction l generalizing s with
  | nil => rfl
  | cons a l ih => simp_all [pumpShards]

@[simp] theorem beyond_takeRound (m : Nat) (round : Word32) (hP : [.pwr, .nvm, .cairn, .mdl, .rope] ⊆ P) :
    (takeRound m round s).beyond P = s.beyond P := by
  unfold takeRound
  dsimp only
  split <;> simp_all

@[simp] theorem leaves_execCirculationRoundStart (slot : BitVec 3) (hP : [.pwr, .nvm, .cairn, .mdl, .rope] ⊆ P) :
    Leaves P s (execCirculationRoundStart slot s) := by simp_all [execCirculationRoundStart]

@[simp] theorem leaves_execRound (r : RopeRx) (slot : BitVec 3) (round : Word32) (hP : [.pwr, .nvm, .cairn, .mdl, .rope] ⊆ P) :
    Leaves P s (execRound r slot round s) := by simp_all [execRound]

@[simp] theorem leaves_execRoundDone (r : RopeRx) (slot : BitVec 3) (round : Word32) (waiting : BitVec 16) (hP : [.cairn, .rope] ⊆ P) :
    Leaves P s (execRoundDone r slot round waiting s) := by simp_all [execRoundDone]

@[simp] theorem leaves_execRoundAbort (r : RopeRx) (slot : BitVec 3) (hP : [.cairn, .bly, .mdl, .rope] ⊆ P) :
    Leaves P s (execRoundAbort r slot s) := by simp_all [execRoundAbort]

@[simp] theorem leaves_execRetire (r : RopeRx) (slot : BitVec 3) (bytes : Word32) (hP : [.cairn, .rope] ⊆ P) :
    Leaves P s (execRetire r slot bytes s) := by
  refine (leaves_next _ _).2 (beyond_receive _ _ _ _ (by simp_all) fun s => ?_)
  rw [beyond_pumpShards _ _ _ (by simp_all)]
  simp_all

@[simp] theorem beyond_takeShard (m : Nat) (layer shard roundLow : Byte) (offset : Nat) (data gcmTag : Bytes) (f : RopeFrame)
    (hP : [.mdl, .rope] ⊆ P) : (takeShard m layer shard roundLow offset data gcmTag f s).beyond P = s.beyond P := by
  unfold takeShard
  dsimp only
  (repeat' split) <;> simp_all

@[simp] theorem leaves_execWstream (r : RopeRx) (slot : BitVec 3) (layer shard roundLow : Byte) (offset : Nat) (data gcmTag : Bytes)
    (hP : [.cairn, .mdl, .rope] ⊆ P) : Leaves P s (execWstream r slot layer shard roundLow offset data gcmTag s) := by
  simp_all [execWstream]

@[simp] theorem leaves_execLandGrant (r : RopeRx) (slot : BitVec 3) (layer : Byte) (frames : BitVec 16) (hP : [.cairn, .rope] ⊆ P) :
    Leaves P s (execLandGrant r slot layer frames s) := by simp_all [execLandGrant]

@[simp] theorem beyond_openLanding (m layer src : Nat) (ref : BitVec 16) (hP : [.mdl] ⊆ P) :
    (openLanding m layer src ref s).beyond P = s.beyond P := by simp_all [openLanding]

@[simp] theorem beyond_landed (m source : Nat) (ref : BitVec 16) (vals : List Int)
    (hP : [.pwr, .nvm, .cairn, .stm, .own, .bly, .mdl, .lrn, .rope] ⊆ P) : (landed m source ref vals s).beyond P = s.beyond P := by
  unfold landed
  dsimp only
  (repeat' split) <;> simp_all

@[simp] theorem beyond_eraOf (m : Nat) (ref : BitVec 16) (hP : [.rope] ⊆ P) : (eraOf m ref s).2.beyond P = s.beyond P := by
  simp_all [eraOf]

@[simp] theorem leaves_execAct (r : RopeRx) (slot : BitVec 3) (layer : Byte) (ref : BitVec 16) (offset : Nat) (data gcmTag : Bytes)
    (hP : [.pwr, .nvm, .cairn, .stm, .own, .bly, .mdl, .lrn, .rope] ⊆ P) : Leaves P s (execAct r slot layer ref offset data gcmTag s) := by
  refine (leaves_next _ _).2 (beyond_receive _ _ _ _ (by simp_all) fun s => ?_)
  dsimp only
  split
  · rfl
  · split
    · rfl
    · split 
      · simp_all
      · split <;> simp_all

@[simp] theorem leaves_execCredit (port : BitVec 1) (good : Bool) (ack : BitVec 12) (nak : Bool) (credits : Vector (BitVec 16) 4)
    (hP : [.cairn, .rope] ⊆ P) : Leaves P s (execCredit port good ack nak credits s) := by simp_all [execCredit]

@[simp] theorem leaves_execAckTimer (port : BitVec 1) (hP : [.rope] ⊆ P) : Leaves P s (execAckTimer port s) := by simp_all [execAckTimer]

@[simp] theorem beyond_ropePowered (hP : [.rope] ⊆ P) : (ropePowered s).beyond P = s.beyond P := by simp_all [ropePowered]

@[simp] theorem beyond_ropeUnpowered (hP : [.cairn, .rope] ⊆ P) : (ropeUnpowered s).beyond P = s.beyond P := by simp_all [ropeUnpowered]

@[simp] theorem beyond_sendSleep (hP : [.cairn, .rope] ⊆ P) : (sendSleep s).beyond P = s.beyond P := by simp_all [sendSleep]

@[simp] theorem beyond_ropeServe (f : Form) (body : State → State) (ht : TakenOr P h s) (hb : ∀ s, (body s).beyond P = s.beyond P) :
    (ropeServe f h p body s).beyond P = s.beyond P :=
  beyond_serve _ _ _ _ _ ht fun s => beyond_refuseIf _ _ _ _ (hb s)

@[simp] theorem beyond_cmdRopeStatus (ht : TakenOr P h s) : (cmdRopeStatus h p s).beyond P = s.beyond P :=
  beyond_ropeServe _ _ _ _ _ ht fun s => by simp

@[simp] theorem beyond_cmdRopeEnumerate (ht : TakenOr P h s) (hP : [.pwr, .cairn, .stm, .bly, .mdl, .lrn, .rope] ⊆ P) :
    (cmdRopeEnumerate h p s).beyond P = s.beyond P := beyond_ropeServe _ _ _ _ _ ht fun s => by simp_all

@[simp] theorem beyond_endRopeTags (hP : [.rope] ⊆ P) : (endRopeTags s).beyond P = s.beyond P := by
  unfold endRopeTags
  dsimp only
  (repeat' split) <;> simp_all

@[simp] theorem beyond_cmdRopeDetach (ht : TakenOr P h s) (hP : [.pwr, .nvm, .cairn, .stm, .bly, .mdl, .lrn, .rope] ⊆ P) :
    (cmdRopeDetach h p s).beyond P = s.beyond P := beyond_ropeServe _ _ _ _ _ ht fun s => by simp_all

@[simp] theorem beyond_cmdRopeAttach (ht : TakenOr P h s) (hP : [.pwr, .rope] ⊆ P) : (cmdRopeAttach h p s).beyond P = s.beyond P :=
  beyond_ropeServe _ _ _ _ _ ht fun s => by simp_all

@[simp] theorem beyond_cmdRopeTopologyGet (ht : TakenOr P h s) : (cmdRopeTopologyGet h p s).beyond P = s.beyond P :=
  beyond_ropeServe _ _ _ _ _ ht fun s => by simp

@[simp] theorem beyond_cmdRopeRetrain (ht : TakenOr P h s) (hP : [.rope] ⊆ P) : (cmdRopeRetrain h p s).beyond P = s.beyond P :=
  beyond_ropeServe _ _ _ _ _ ht fun s => by simp_all

@[simp] theorem beyond_cmdRopeCounters (ht : TakenOr P h s) : (cmdRopeCounters h p s).beyond P = s.beyond P :=
  beyond_ropeServe _ _ _ _ _ ht fun s => by simp

@[simp] theorem beyond_cmdRopeCountersClear (ht : TakenOr P h s) (hP : [.rope] ⊆ P) :
    (cmdRopeCountersClear h p s).beyond P = s.beyond P := beyond_ropeServe _ _ _ _ _ ht fun s => by simp_all

/-! ### Stopping a command before its commit point (R39, R45, R52) -/

@[simp] theorem beyond_withdrawHead (tag : Tag) (n : Nat) (hP : [.pwr, .nvm, .mdl, .lrn] ⊆ P) :
    (withdrawHead tag s n).beyond P = s.beyond P := by simp_all [withdrawHead]

@[simp] theorem beyond_withdrawModel (tag : Tag) (m : Nat) (hP : [.mdl] ⊆ P) : (withdrawModel tag s m).beyond P = s.beyond P := by
  simp_all [withdrawModel]

@[simp] theorem beyond_withdrawFence (tag : Tag) (n : Nat) (hP : [.pwr, .nvm, .mdl, .lrn] ⊆ P) :
    (withdrawFence tag s n).beyond P = s.beyond P := by simp_all [withdrawFence]

@[simp] theorem beyond_withdrawStream (tag : Tag) (hP : [.afe, .stm] ⊆ P) : (withdrawStream tag s).beyond P = s.beyond P := by
  simp_all [withdrawStream]

@[simp] theorem beyond_withdrawCore (tag : Tag) (hP : [.pwr, .nvm, .mdl, .lrn] ⊆ P) : (withdrawCore tag s).beyond P = s.beyond P := by
  unfold withdrawCore
  dsimp only
  split <;> simp_all

@[simp] theorem beyond_withdrawRope (tag : Tag) (hP : [.pwr, .rope] ⊆ P) : (withdrawRope tag s).beyond P = s.beyond P := by
  simp_all [withdrawRope]

@[simp] theorem beyond_withdrawOther (tag : Tag) (hP : [.pwr, .boot, .cairn, .stm, .own, .bly] ⊆ P) :
    (withdrawOther tag s).beyond P = s.beyond P := by
  unfold withdrawOther
  dsimp only
  split <;> simp_all

@[simp] theorem beyond_withdraw (tag : Tag) (hP : [.pwr, .boot, .nvm, .cairn, .afe, .stm, .own, .bly, .mdl, .lrn, .rope] ⊆ P) :
    (withdraw tag s).beyond P = s.beyond P := by simp_all [withdraw]

@[simp] theorem beyond_stopCommand (tag : Tag) (status : Byte) (payload : Bytes)
    (hP : [.pwr, .boot, .nvm, .cairn, .afe, .stm, .own, .bly, .mdl, .lrn, .rope] ⊆ P) :
    (stopCommand tag status payload s).beyond P = s.beyond P := by simp_all [stopCommand]

@[simp] theorem beyond_expireSession (slot : Nat) (reason : Byte)
    (hP : [.pwr, .boot, .nvm, .cairn, .afe, .stm, .own, .bly, .mdl, .lrn, .rope] ⊆ P) :
    (expireSession slot reason s).beyond P = s.beyond P := by simp_all [expireSession]

/-! ### Sessions, owners, keys and the debug-open erase (chapter 16) -/

@[simp] theorem beyond_onOwn (f : OwnerState → OwnerState) (hP : [.own] ⊆ P) : (onOwn f s).beyond P = s.beyond P := by simp_all [onOwn]

@[simp] theorem beyond_drawRandom (n : Nat) (hP : [.free] ⊆ P) : (drawRandom n s).2.beyond P = s.beyond P := by simp_all [drawRandom]

@[simp] theorem beyond_cmdSessionOpen (ht : TakenOr P h s) (hP : [.free] ⊆ P) : (cmdSessionOpen h p s).beyond P = s.beyond P :=
  beyond_serve _ _ _ _ _ ht fun s => by simp_all

@[simp] theorem beyond_postKeys (c : KeyChange) (hP : [.pwr, .nvm, .own, .free] ⊆ P) : (postKeys c s).beyond P = s.beyond P := by
  simp_all [postKeys]

@[simp] theorem beyond_cmdOwnerProvision (ht : TakenOr P h s) (hP : [.pwr, .nvm, .own, .mdl, .free] ⊆ P) :
    (cmdOwnerProvision h p s).beyond P = s.beyond P := beyond_serve _ _ _ _ _ ht fun s => by simp_all

@[simp] theorem beyond_cmdOwnerRemove (ht : TakenOr P h s) (hP : [.pwr, .nvm, .own, .free] ⊆ P) :
    (cmdOwnerRemove h p s).beyond P = s.beyond P := beyond_serve _ _ _ _ _ ht fun s => by simp_all

@[simp] theorem beyond_releaseOrphans (o : Nat) (hP : [.pwr, .nvm, .lrn] ⊆ P) : (releaseOrphans o s).beyond P = s.beyond P := by
  simp_all [releaseOrphans]

@[simp] theorem beyond_beginRemoval (o : Nat) (tag : Tag) (fpr : Bytes)
    (hP : [.pwr, .nvm, .cairn, .stm, .own, .bly, .mdl, .lrn, .rope] ⊆ P) : (beginRemoval o tag fpr s).beyond P = s.beyond P := by
  unfold beginRemoval
  rw [beyond_carryOn _ hP, beyond_releaseOrphans, beyond_foldl]
  · simp_all
  · intro s m
    rw [beyond_onModel, beyond_forgetFrames, beyond_foldl] <;> simp_all
  · simp_all

@[simp] theorem beyond_keysCommitted (hP : [.pwr, .boot, .nvm, .cairn, .afe, .stm, .own, .bly, .mdl, .lrn, .rope] ⊆ P) :
    (keysCommitted s).beyond P = s.beyond P := by
  unfold keysCommitted
  split <;> simp_all

@[simp] theorem beyond_cmdOwnerList (ht : TakenOr P h s) : (cmdOwnerList h p s).beyond P = s.beyond P :=
  beyond_serve _ _ _ _ _ ht fun s => by simp

@[simp] theorem beyond_cmdKeyRotate (ht : TakenOr P h s) (hP : [.pwr, .nvm, .own, .free] ⊆ P) :
    (cmdKeyRotate h p s).beyond P = s.beyond P := beyond_serve _ _ _ _ _ ht fun s => by simp_all

@[simp] theorem beyond_cmdEpochRoll (ht : TakenOr P h s) (hP : [.pwr, .nvm, .own, .mdl, .lrn] ⊆ P) :
    (cmdEpochRoll h p s).beyond P = s.beyond P := by
  refine beyond_serve _ _ _ _ _ ht fun s => beyond_refuseIf _ _ _ _ ?_
  simp_all

@[simp] theorem beyond_cmdAttest (ht : TakenOr P h s) : (cmdAttest h p s).beyond P = s.beyond P :=
  beyond_serve _ _ _ _ _ ht fun s => by simp

@[simp] theorem beyond_cmdTrngRead (ht : TakenOr P h s) (hP : [.free] ⊆ P) : (cmdTrngRead h p s).beyond P = s.beyond P :=
  beyond_serve _ _ _ _ _ ht fun s => by simp_all

@[simp] theorem leaves_execTrngHealthFail (repetition : Bool) (hP : [.pwr, .cairn, .own] ⊆ P) :
    Leaves P s (execTrngHealthFail repetition s) := by simp_all [execTrngHealthFail]

@[simp] theorem leaves_execTrngRetry (passed : Bool) (hP : [.own] ⊆ P) : Leaves P s (execTrngRetry passed s) := by
  simp_all [execTrngRetry]

@[simp] theorem beyond_newChallenge (hP : [.own, .free] ⊆ P) : (newChallenge s).2.beyond P = s.beyond P := by simp_all [newChallenge]

@[simp] theorem beyond_cmdDebugChallenge (ht : TakenOr P h s) (hP : [.own, .free] ⊆ P) :
    (cmdDebugChallenge h p s).beyond P = s.beyond P := beyond_serve _ _ _ _ _ ht fun s => by simp_all

@[simp] theorem leaves_execDebugChallengeExpiry (hP : [.own] ⊆ P) : Leaves P s (execDebugChallengeExpiry s) := by
  simp_all [execDebugChallengeExpiry]

@[simp] theorem beyond_beginErase (kind : Byte) (tag : Option Tag) (hP : [.pwr, .nvm, .own] ⊆ P) :
    (beginErase kind tag s).beyond P = s.beyond P := by simp_all [beginErase]

@[simp] theorem beyond_cmdDebugOpen (ht : TakenOr P h s) (hP : [.pwr, .nvm, .own] ⊆ P) : (cmdDebugOpen h p s).beyond P = s.beyond P :=
  beyond_serve _ _ _ _ _ ht fun s => by simp_all

@[simp] theorem beyond_forgetModels (hP : [.pwr, .nvm, .cairn, .stm, .bly, .mdl, .lrn, .rope] ⊆ P) :
    (forgetModels s).beyond P = s.beyond P := by simp_all [forgetModels]

@[simp] theorem beyond_zeroSamples (hP : [.stm] ⊆ P) : (zeroSamples s).beyond P = s.beyond P := by simp_all [zeroSamples]

@[simp] theorem beyond_rollDevice (hP : [.nvm, .stm, .mdl] ⊆ P) : (rollDevice s).beyond P = s.beyond P := by simp_all [rollDevice]

@[simp] theorem beyond_eraseKeys (target : Word32) (hP : [.nvm, .stm, .feat, .own, .mdl, .free] ⊆ P) :
    (eraseKeys target s).beyond P = s.beyond P := by simp_all [eraseKeys]

@[simp] theorem beyond_eraseStore (e : DebugErase) (hP : [.pwr, .nvm, .own] ⊆ P) : (eraseStore e s).beyond P = s.beyond P := by
  simp_all [eraseStore]

@[simp] theorem beyond_eraseClear (e : DebugErase) (hP : [.pwr, .nvm, .own] ⊆ P) : (eraseClear e s).beyond P = s.beyond P := by
  simp_all [eraseClear]

@[simp] theorem beyond_eraseCairn (e : DebugErase) (hP : [.pwr, .nvm, .cairn, .own] ⊆ P) : (eraseCairn e s).beyond P = s.beyond P := by
  simp_all [eraseCairn]

@[simp] theorem beyond_eraseCairned (hP : [.pwr, .nvm, .own] ⊆ P) : (eraseCairned s).beyond P = s.beyond P := by
  unfold eraseCairned
  split <;> simp_all

@[simp] theorem beyond_eraseProgrammed (hP : [.pwr, .boot, .nvm, .cairn, .afe, .stm, .feat, .own, .bly, .mdl, .lrn, .rope, .free] ⊆ P) :
    (eraseProgrammed s).beyond P = s.beyond P := by
  unfold eraseProgrammed
  (repeat' split) <;> simp_all

/-! ### The NVM's reports (chapter 09) -/

@[simp] theorem beyond_cmdNvmStatus (ht : TakenOr P h s) : (cmdNvmStatus h p s).beyond P = s.beyond P :=
  beyond_serve _ _ _ _ _ ht fun s => by simp

@[simp] theorem beyond_cmdNvmRegionInfo (ht : TakenOr P h s) : (cmdNvmRegionInfo h p s).beyond P = s.beyond P :=
  beyond_serve _ _ _ _ _ ht fun s => by simp

/-! ### The Cairn record (chapter 17) -/

@[simp] theorem beyond_cairnFault (kind : Byte) (seq : Nat) : (cairnFault kind seq s).beyond P = s.beyond P := by simp [cairnFault]

@[simp] theorem beyond_issue (next : Nat) (hP : [.cairn] ⊆ P) : (issue next s).beyond P = s.beyond P := by simp_all [issue]

@[simp] theorem beyond_timeCommit (us : Nat) (hP : [.cairn] ⊆ P) : (timeCommit us s).beyond P = s.beyond P := by simp_all [timeCommit]

@[simp] theorem beyond_commitCell (pos next : Nat) (b : Bytes) (ps : List (Nat × Nat)) (hP : [.nvm, .cairn, .stm] ⊆ P) :
    (commitCell pos next b ps s).1.beyond P = s.beyond P := by
  unfold commitCell
  (repeat' split) <;> simp_all

@[simp] theorem beyond_pinCopy (b : Bytes) (ps : List (Nat × Nat)) (hP : [.nvm, .cairn, .stm] ⊆ P) :
    (pinCopy b ps s).1.beyond P = s.beyond P := by
  unfold pinCopy
  (repeat' split) <;> simp_all

@[simp] theorem beyond_commitEntry (e : CairnEntry) (ps : List (Nat × Nat)) (hP : [.nvm, .cairn, .stm] ⊆ P) :
    (commitEntry e ps s).1.beyond P = s.beyond P := by simp_all [commitEntry]

@[simp] theorem beyond_commitOverflow (ps : List (Nat × Nat)) (hP : [.nvm, .cairn, .stm] ⊆ P) :
    (commitOverflow ps s).1.beyond P = s.beyond P := by simp_all [commitOverflow]

@[simp] theorem beyond_entryCommitted (e : CairnEntry) (seq : Nat) (visible : Bool) (hP : [.pwr, .nvm, .own] ⊆ P) :
    (entryCommitted e seq visible s).beyond P = s.beyond P := by
  unfold entryCommitted
  split <;> simp_all

@[simp] theorem beyond_commitNext (ps : List (Nat × Nat)) (hP : [.pwr, .nvm, .cairn, .stm, .own] ⊆ P) :
    (commitNext ps s).1.beyond P = s.beyond P := by
  unfold commitNext
  (repeat' split) <;> simp_all

@[simp] theorem leaves_execCairnCommit (programs : Vector (Nat × Nat) 6) (hP : [.pwr, .nvm, .cairn, .stm, .own] ⊆ P) :
    Leaves P s (execCairnCommit programs s) := by simp_all [execCairnCommit]

@[simp] theorem beyond_replayRecord (x : JournalRecord) (ps : List (Nat × Nat)) (hP : [.nvm, .cairn] ⊆ P) :
    (replayRecord x ps s).1.beyond P = s.beyond P := by
  unfold replayRecord
  dsimp only
  (repeat' split) <;> simp_all

@[simp] theorem beyond_cairnReplay (ps : List (Nat × Nat)) (hP : [.nvm, .cairn, .stm] ⊆ P) : (cairnReplay ps s).beyond P = s.beyond P := by
  unfold cairnReplay
  dsimp only
  split <;> simp_all

@[simp] theorem beyond_noteFault (pinned : Bool) (key seq : Nat) (status : Byte) (hP : [.cairn] ⊆ P) :
    (noteFault pinned key seq status s).beyond P = s.beyond P := by simp_all [noteFault]

@[simp] theorem beyond_readReply (pinned : Bool) (first : Word32) (keys : List Nat) (sign : Bool) (nonce : Bytes)
    (hP : [.nvm, .cairn] ⊆ P) : (readReply pinned first keys sign nonce s).2.beyond P = s.beyond P := by simp_all [readReply]

@[simp] theorem beyond_readCircular (start count : Nat) (sign : Bool) (nonce : Bytes) (hP : [.nvm, .cairn, .free] ⊆ P) :
    (readCircular start count sign nonce s).2.beyond P = s.beyond P := by simp_all [readCircular]

@[simp] theorem beyond_readPinned (start count : Nat) (sign : Bool) (nonce : Bytes) (hP : [.nvm, .cairn] ⊆ P) :
    (readPinned start count sign nonce s).2.beyond P = s.beyond P := by simp_all [readPinned]

@[simp] theorem beyond_cmdCairnInfo (ht : TakenOr P h s) : (cmdCairnInfo h p s).beyond P = s.beyond P :=
  beyond_serve _ _ _ _ _ ht fun s => by simp

@[simp] theorem beyond_cmdCairnRead (ht : TakenOr P h s) (hP : [.nvm, .cairn, .free] ⊆ P) : (cmdCairnRead h p s).beyond P = s.beyond P := by
  refine beyond_serve _ _ _ _ _ ht fun s => beyond_refuseIf _ _ _ _ ?_
  simp_all

@[simp] theorem beyond_cmdCairnReadPinned (ht : TakenOr P h s) (hP : [.nvm, .cairn] ⊆ P) :
    (cmdCairnReadPinned h p s).beyond P = s.beyond P := by
  refine beyond_serve _ _ _ _ _ ht fun s => beyond_refuseIf _ _ _ _ ?_
  simp_all

@[simp] theorem beyond_cmdCairnMark (ht : TakenOr P h s) (hP : [.pwr, .cairn] ⊆ P) : (cmdCairnMark h p s).beyond P = s.beyond P :=
  beyond_serve _ _ _ _ _ ht fun s => by simp_all

@[simp] theorem beyond_cmdCairnRemoteRead (ht : TakenOr P h s) (hP : [.cairn, .rope] ⊆ P) :
    (cmdCairnRemoteRead h p s).beyond P = s.beyond P := beyond_serve _ _ _ _ _ ht fun s => by simp_all

@[simp] theorem beyond_serveRead (src : Byte) (id : BitVec 16) (hP : [.nvm, .cairn, .rope, .free] ⊆ P) :
    (serveRead src id p s).beyond P = s.beyond P := by simp_all [serveRead]

@[simp] theorem beyond_readArrived (src : Byte) (id : BitVec 16) (more : Bool) (b : Bytes) (hP : [.cairn] ⊆ P) :
    (readArrived src id more b s).beyond P = s.beyond P := by
  unfold readArrived
  dsimp only
  split <;> simp_all

@[simp] theorem leaves_execCairn (r : RopeRx) (relay : BitVec 16) (reply more : Bool) (payload : Bytes)
    (hP : [.nvm, .cairn, .rope, .free] ⊆ P) : Leaves P s (execCairn r relay reply more payload s) := by simp_all [execCairn]

@[simp] theorem leaves_execRemoteReadTimeout (relay : BitVec 16) (hP : [.cairn] ⊆ P) : Leaves P s (execRemoteReadTimeout relay s) := by
  simp_all [execRemoteReadTimeout]

/-! ### What a reset does (chapter 04) -/

@[simp] theorem beyond_setOutputs (level : Level) (code : BitVec 16) (hP : [.bly] ⊆ P) :
    (setOutputs level code s).beyond P = s.beyond P := by simp_all [setOutputs]

@[simp] theorem beyond_tripRecord (cause asset : Byte) (entry : Bool) (hP : [.pwr, .cairn, .bly] ⊆ P) :
    (tripRecord cause asset entry s).beyond P = s.beyond P := by simp_all [tripRecord]

@[simp] theorem beyond_belayReset (cause : Byte) (hP : [.pwr, .cairn, .bly] ⊆ P) : (belayReset cause s).beyond P = s.beyond P := by
  simp_all [belayReset]

@[simp] theorem beyond_resetLink : (resetLink s).beyond P = s.beyond P := by simp [resetLink]

@[simp] theorem beyond_stopWork (hP : [.stm, .mdl] ⊆ P) : (stopWork s).beyond P = s.beyond P := by simp_all [stopWork]

@[simp] theorem beyond_beginReset (cause : Byte) (hP : [.pwr, .boot, .nvm, .cairn, .stm, .bly, .mdl] ⊆ P) :
    (beginReset cause s).beyond P = s.beyond P := by simp_all [beginReset]

@[simp] theorem beyond_takeEffect (warm : Bool)
    (hP : [.clk, .pwr, .thm, .boot, .nvm, .cairn, .afe, .stm, .feat, .own, .bly, .mdl, .lrn, .rope, .free] ⊆ P) :
    (takeEffect warm s).beyond P = s.beyond P := by simp_all [takeEffect]

/-! ### The firmware update (chapter 04) -/

@[simp] theorem beyond_onBoot (f : BootState → BootState) (hP : [.boot] ⊆ P) : (onBoot f s).beyond P = s.beyond P := by simp_all [onBoot]

@[simp] theorem beyond_onFw (k : Nat) (f : FwSlot → FwSlot) (hP : [.boot] ⊆ P) : (onFw k f s).beyond P = s.beyond P := by simp_all [onFw]

@[simp] theorem beyond_cmdFwUpdateBegin (ht : TakenOr P h s) (hP : [.pwr, .boot, .nvm] ⊆ P) :
    (cmdFwUpdateBegin h p s).beyond P = s.beyond P := beyond_serve _ _ _ _ _ ht fun s => by simp_all

@[simp] theorem beyond_fwErased (hP : [.boot] ⊆ P) : (fwErased s).beyond P = s.beyond P := by
  unfold fwErased
  split <;> simp_all

@[simp] theorem beyond_fwBeginFails (hP : [.boot, .nvm] ⊆ P) : (fwBeginFails s).beyond P = s.beyond P := by
  unfold fwBeginFails
  split <;> simp_all

@[simp] theorem beyond_cmdFwUpdateData (ht : TakenOr P h s) (hP : [.pwr, .nvm] ⊆ P) : (cmdFwUpdateData h p s).beyond P = s.beyond P := by
  refine beyond_serve _ _ _ _ _ ht fun s => ?_
  dsimp only
  split
  · simp
  · exact beyond_refuseIf _ _ _ _ (by simp_all)

@[simp] theorem beyond_doneTag (tag : Option Tag) : (doneTag tag s).beyond P = s.beyond P := by
  unfold doneTag
  split <;> simp

@[simp] theorem beyond_fwReceived (k : Nat) (data : Bytes) (tag : Option Tag) (hP : [.boot] ⊆ P) :
    (fwReceived k data tag s).beyond P = s.beyond P := by simp_all [fwReceived]

@[simp] theorem beyond_fwDataFails (k : Nat) (tag : Option Tag) (hP : [.nvm] ⊆ P) : (fwDataFails k tag s).beyond P = s.beyond P := by
  unfold fwDataFails
  split <;> simp_all

@[simp] theorem beyond_cmdFwUpdateCommit (ht : TakenOr P h s) (hP : [.boot] ⊆ P) : (cmdFwUpdateCommit h p s).beyond P = s.beyond P := by
  refine beyond_serve _ _ _ _ _ ht fun s => ?_
  split
  · simp
  · exact beyond_refuseIf _ _ _ _ (by simp_all)

@[simp] theorem leaves_execFwImageVerified (hP : [.pwr, .nvm] ⊆ P) : Leaves P s (execFwImageVerified s) := by
  unfold execFwImageVerified
  split <;> simp_all

@[simp] theorem beyond_fwStated (k : Nat) (tag : Option Tag) (b : Bytes) (hP : [.boot] ⊆ P) :
    (fwStated k tag b s).beyond P = s.beyond P := by
  unfold fwStated
  dsimp only
  split <;> simp_all

@[simp] theorem beyond_fwSelected (tag : Option Tag) (k : Nat) (hP : [.pwr, .boot, .cairn] ⊆ P) :
    (fwSelected tag k s).beyond P = s.beyond P := by
  unfold fwSelected
  dsimp only
  split <;> simp_all

@[simp] theorem beyond_fwCommitFails (hP : [.boot, .nvm] ⊆ P) : (fwCommitFails s).beyond P = s.beyond P := by
  unfold fwCommitFails
  split <;> simp_all

@[simp] theorem beyond_cmdFwSlotStatus (ht : TakenOr P h s) : (cmdFwSlotStatus h p s).beyond P = s.beyond P :=
  beyond_serve _ _ _ _ _ ht fun s => by simp

/-! ### What the programs and erases of the NVM are for -/

@[simp] theorem beyond_failTag (tag : Option Tag) (hP : [.nvm] ⊆ P) : (failTag tag s).beyond P = s.beyond P := by
  unfold failTag
  split <;> simp_all

@[simp] theorem beyond_dropOps (f : NvmOp → Bool) (hP : [.nvm] ⊆ P) : (dropOps f s).beyond P = s.beyond P := by simp_all [dropOps]

@[simp] theorem beyond_copyProgrammed (k : RecordKind) (copy : Nat) (first : Bool) (data : Bytes) (hP : [.nvm] ⊆ P) :
    (copyProgrammed k copy first data s).beyond P = s.beyond P := by simp_all [copyProgrammed]

@[simp] theorem beyond_copyTorn (k : RecordKind) (copy : Nat) (hP : [.nvm] ⊆ P) : (copyTorn k copy s).beyond P = s.beyond P := by
  simp_all [copyTorn]

@[simp] theorem beyond_commitProgrammed (k : RecordKind) (c : CommitRecord) (hP : [.nvm] ⊆ P) :
    (commitProgrammed k c s).beyond P = s.beyond P := by simp_all [commitProgrammed]

@[simp] theorem beyond_recordInForce (k : RecordKind) (tag : Option Tag)
    (hP : [.pwr, .boot, .nvm, .cairn, .afe, .stm, .feat, .own, .bly, .mdl, .lrn, .rope, .free] ⊆ P) :
    (recordInForce k tag s).beyond P = s.beyond P := by
  unfold recordInForce
  split <;> simp_all

@[simp] theorem beyond_headCommitted (n : Nat) (hP : [.pwr, .lrn] ⊆ P) : (headCommitted n s).beyond P = s.beyond P := by
  unfold headCommitted
  split <;> simp_all

@[simp] theorem beyond_headFails (n : Nat) (hP : [.pwr, .nvm, .own, .lrn] ⊆ P) : (headFails n s).beyond P = s.beyond P := by
  unfold headFails
  dsimp only
  split <;> simp_all

@[simp] theorem beyond_headErased (n : Nat) (hP : [.pwr, .nvm, .cairn, .stm, .own, .bly, .mdl, .lrn, .rope] ⊆ P) :
    (headErased n s).beyond P = s.beyond P := by
  unfold headErased
  split <;> simp_all

@[simp] theorem beyond_modelReceived (m : Nat) (data : Bytes) (tag : Option Tag) (hP : [.pwr, .nvm, .cairn, .stm, .bly, .mdl, .lrn] ⊆ P) :
    (modelReceived m data tag s).beyond P = s.beyond P := by
  unfold modelReceived
  split <;> simp_all

@[simp] theorem beyond_modelFails (m : Nat) (tag : Option Tag) (hP : [.pwr, .nvm, .mdl] ⊆ P) :
    (modelFails m tag s).beyond P = s.beyond P := by
  unfold modelFails
  split <;> simp_all

@[simp] theorem beyond_wearProgrammed (why : WearWhy) (hP : [.pwr, .nvm, .cairn, .stm, .own, .bly, .mdl, .lrn, .rope] ⊆ P) :
    (wearProgrammed why s).beyond P = s.beyond P := by
  unfold wearProgrammed
  split <;> simp_all

@[simp] theorem beyond_grantFails (hP : [.pwr, .nvm, .cairn, .stm, .bly, .mdl, .lrn, .rope] ⊆ P) :
    (grantFails s).beyond P = s.beyond P := by
  unfold grantFails
  (repeat' split) <;> simp_all

@[simp] theorem beyond_wearFails (why : WearWhy) (tag : Option Tag) (hP : [.pwr, .nvm, .cairn, .stm, .bly, .mdl, .lrn, .rope] ⊆ P) :
    (wearFails why tag s).beyond P = s.beyond P := by
  unfold wearFails
  split <;> simp_all

@[simp] theorem beyond_wearCopyFails (hP : [.pwr, .nvm, .cairn, .stm, .bly, .mdl, .lrn, .rope] ⊆ P) :
    (wearCopyFails s).beyond P = s.beyond P := by
  unfold wearCopyFails
  dsimp only
  split <;> simp_all

@[simp] theorem beyond_eraseFails (hP : [.nvm, .own] ⊆ P) : (eraseFails s).beyond P = s.beyond P := by
  unfold eraseFails
  split <;> simp_all

@[simp] theorem beyond_keysFail (hP : [.nvm, .own] ⊆ P) : (keysFail s).beyond P = s.beyond P := by
  unfold keysFail
  split <;> simp_all

@[simp] theorem beyond_recordFails (k : RecordKind) (tag : Option Tag) (hP : [.boot, .nvm, .own] ⊆ P) :
    (recordFails k tag s).beyond P = s.beyond P := by
  unfold recordFails
  split <;> simp_all

@[simp] theorem beyond_programmed (o : NvmOp)
    (hP : [.pwr, .boot, .nvm, .cairn, .afe, .stm, .feat, .own, .bly, .mdl, .lrn, .rope, .free] ⊆ P) :
    (programmed o s).beyond P = s.beyond P := by
  unfold programmed
  split <;> simp_all

@[simp] theorem beyond_programFailed (o : NvmOp) (hP : [.pwr, .boot, .nvm, .cairn, .stm, .own, .bly, .mdl, .lrn, .rope] ⊆ P) :
    (programFailed o s).beyond P = s.beyond P := by
  unfold programFailed
  split <;> simp_all

@[simp] theorem beyond_erased (o : NvmOp) (ok : Bool) (hP : [.pwr, .boot, .nvm, .cairn, .stm, .own, .bly, .mdl, .lrn, .rope] ⊆ P) :
    (erased o ok s).beyond P = s.beyond P := by
  unfold erased
  split <;> simp_all

@[simp] theorem beyond_startOp (i : Nat) (hP : [.nvm] ⊆ P) : (startOp i s).beyond P = s.beyond P := by
  unfold startOp
  (repeat' split) <;> simp_all

@[simp] theorem leaves_execNvmOperationStart (hP : [.nvm] ⊆ P) : Leaves P s (execNvmOperationStart s) := by
  unfold execNvmOperationStart
  (repeat' split) <;> simp_all

@[simp] theorem beyond_endOp (hP : [.nvm] ⊆ P) : (endOp s).beyond P = s.beyond P := by simp_all [endOp]

@[simp] theorem beyond_programEnds (bad us : Nat)
    (hP : [.pwr, .boot, .nvm, .cairn, .afe, .stm, .feat, .own, .bly, .mdl, .lrn, .rope, .free] ⊆ P) :
    (programEnds bad us s).beyond P = s.beyond P := by
  unfold programEnds
  split <;> simp_all

@[simp] theorem beyond_countErase (first us : Nat) (hP : [.nvm] ⊆ P) : (countErase first us s).beyond P = s.beyond P := by
  simp_all [countErase]

@[simp] theorem leaves_execNvmEraseDone (ok : Bool) (us : Nat)
    (hP : [.pwr, .boot, .nvm, .cairn, .stm, .own, .bly, .mdl, .lrn, .rope] ⊆ P) : Leaves P s (execNvmEraseDone ok us s) := by
  unfold execNvmEraseDone
  (repeat' split) <;> simp_all

/-! ### Resets and the boot (chapter 04) -/

@[simp] theorem beyond_cmdResetWarm (ht : TakenOr P h s) (hP : [.boot] ⊆ P) : (cmdResetWarm h p s).beyond P = s.beyond P :=
  beyond_serve _ _ _ _ _ ht fun s => by simp_all

@[simp] theorem beyond_cmdResetFull (ht : TakenOr P h s) (hP : [.boot] ⊆ P) : (cmdResetFull h p s).beyond P = s.beyond P :=
  beyond_serve _ _ _ _ _ ht fun s => by simp_all

@[simp] theorem beyond_scheduledReset (hP : [.pwr, .boot, .nvm, .cairn, .stm, .bly, .mdl] ⊆ P) :
    (scheduledReset s).beyond P = s.beyond P := by
  unfold scheduledReset
  split <;> simp_all

@[simp] theorem leaves_execResetReplyTimeout (hP : [.pwr, .boot, .nvm, .cairn, .stm, .bly, .mdl] ⊆ P) :
    Leaves P s (execResetReplyTimeout s) := by simp_all [execResetReplyTimeout]

@[simp] theorem leaves_execResetPinAssert (hP : [.pwr, .pins, .boot, .nvm, .cairn, .stm, .bly, .mdl] ⊆ P) :
    Leaves P s (execResetPinAssert s) := by simp_all [execResetPinAssert]

@[simp] theorem leaves_execResetPinRelease (hP : [.pins, .boot] ⊆ P) : Leaves P s (execResetPinRelease s) := by
  simp_all [execResetPinRelease]

@[simp] theorem leaves_execBrownoutRelease (hP : [.boot] ⊆ P) : Leaves P s (execBrownoutRelease s) := by simp_all [execBrownoutRelease]

@[simp] theorem leaves_execThermalResetRelease (hP : [.boot] ⊆ P) : Leaves P s (execThermalResetRelease s) := by
  simp_all [execThermalResetRelease]

@[simp] theorem leaves_execResetTakeEffect
    (hP : [.clk, .pwr, .thm, .boot, .nvm, .cairn, .afe, .stm, .feat, .own, .bly, .mdl, .lrn, .rope, .free] ⊆ P) :
    Leaves P s (execResetTakeEffect s) := by simp_all [execResetTakeEffect]

@[simp] theorem leaves_execPowerOnReset (slow : Bool)
    (hP : [.clk, .pwr, .thm, .boot, .nvm, .cairn, .afe, .stm, .feat, .own, .bly, .mdl, .lrn, .rope, .free] ⊆ P) :
    Leaves P s (execPowerOnReset slow s) := by simp_all [execPowerOnReset]

@[simp] theorem beyond_enterPhase (p : BootPhase) (hP : [.boot] ⊆ P) : (enterPhase p s).beyond P = s.beyond P := by simp_all [enterPhase]

@[simp] theorem beyond_enterAuth (hP : [.clk, .boot] ⊆ P) : (enterAuth s).beyond P = s.beyond P := by simp_all [enterAuth]

@[simp] theorem beyond_loadRecords (hP : [.boot, .nvm, .own] ⊆ P) : (loadRecords s).beyond P = s.beyond P := by simp_all [loadRecords]

@[simp] theorem beyond_startPendingErase (hP : [.pwr, .nvm, .cairn, .stm, .own, .bly, .mdl, .lrn, .rope] ⊆ P) :
    (startPendingErase s).beyond P = s.beyond P := by
  unfold startPendingErase
  split <;> simp_all

@[simp] theorem leaves_execBootRomStart (straps : BitVec 4) (programs : Vector (Nat × Nat) 4)
    (hP : [.clk, .pwr, .pins, .boot, .nvm, .cairn, .stm, .own, .bly, .mdl, .lrn, .rope] ⊆ P) :
    Leaves P s (execBootRomStart straps programs s) := by simp_all [execBootRomStart]

@[simp] theorem leaves_execErasePendingComplete (hP : [.clk, .boot] ⊆ P) : Leaves P s (execErasePendingComplete s) := by
  simp_all [execErasePendingComplete]

@[simp] theorem beyond_markSlot (k : Nat) (st : FwSlotState) (hP : [.pwr, .nvm] ⊆ P) : (markSlot k st s).beyond P = s.beyond P := by
  simp_all [markSlot]

@[simp] theorem beyond_trySlot (barred : Option Nat) (k : Nat) (hP : [.pwr, .nvm] ⊆ P) : (trySlot barred k s).1.beyond P = s.beyond P := by
  simp_all [trySlot]

@[simp] theorem beyond_rollBack (hP : [.pwr, .boot, .nvm, .cairn] ⊆ P) : (rollBack s).1.beyond P = s.beyond P := by
  unfold rollBack
  split <;> simp_all

@[simp] theorem beyond_runSlot (k : Nat) (hP : [.pwr, .boot] ⊆ P) : (runSlot k s).beyond P = s.beyond P := by simp_all [runSlot]

@[simp] theorem leaves_execAuthComplete (hP : [.pwr, .boot, .nvm, .cairn] ⊆ P) : Leaves P s (execAuthComplete s) := by
  simp_all [execAuthComplete]

@[simp] theorem beyond_countBoot (hP : [.pwr, .boot, .nvm] ⊆ P) : (countBoot s).beyond P = s.beyond P := by simp_all [countBoot]

@[simp] theorem beyond_confirmTrial (hP : [.pwr, .nvm] ⊆ P) : (confirmTrial s).beyond P = s.beyond P := by simp_all [confirmTrial]

@[simp] theorem beyond_readyEvent (cause : Byte) : (readyEvent cause s).beyond P = s.beyond P := by simp [readyEvent]

@[simp] theorem beyond_resumeBelay (hP : [.pwr, .cairn, .bly] ⊆ P) : (resumeBelay s).beyond P = s.beyond P := by
  unfold resumeBelay
  split <;> simp_all

@[simp] theorem beyond_cleanNvm (hP : [.pwr, .nvm, .lrn] ⊆ P) : (cleanNvm s).beyond P = s.beyond P := by simp_all [cleanNvm]

@[simp] theorem beyond_raiseHeld (hP : [.pwr] ⊆ P) : (raiseHeld s).beyond P = s.beyond P := by simp_all [raiseHeld]

@[simp] theorem beyond_tellRollback : (tellRollback s).beyond P = s.beyond P := by
  unfold tellRollback
  split <;> simp

@[simp] theorem beyond_tellReplay (hP : [.cairn] ⊆ P) : (tellReplay s).beyond P = s.beyond P := by
  unfold tellReplay
  split <;> simp_all

@[simp] theorem beyond_recordBoot (hP : [.pwr, .cairn] ⊆ P) : (recordBoot s).beyond P = s.beyond P := by simp_all [recordBoot]

@[simp] theorem beyond_wantRope (hP : [.pwr] ⊆ P) : (wantRope s).beyond P = s.beyond P := by simp_all [wantRope]

@[simp] theorem beyond_resumeRemoval (hP : [.pwr, .nvm, .lrn] ⊆ P) : (resumeRemoval s).beyond P = s.beyond P := by
  unfold resumeRemoval
  split <;> simp_all

@[simp] theorem beyond_firstReady (hP : [.pwr, .boot, .nvm, .cairn, .stm, .own, .bly, .mdl, .lrn, .rope] ⊆ P) :
    (firstReady s).beyond P = s.beyond P := by simp_all [firstReady]

@[simp] theorem leaves_execDeviceReady (hP : [.pwr, .boot, .nvm, .cairn, .stm, .own, .bly, .mdl, .lrn, .rope] ⊆ P) :
    Leaves P s (execDeviceReady s) := by simp_all [execDeviceReady]

@[simp] theorem leaves_execBootGuardExpiry (hP : [.pwr, .boot, .cairn, .bly] ⊆ P) : Leaves P s (execBootGuardExpiry s) := by
  simp_all [execBootGuardExpiry]

@[simp] theorem leaves_execWatchdogExpiry (hP : [.pwr, .boot, .nvm, .cairn, .stm, .bly, .mdl] ⊆ P) : Leaves P s (execWatchdogExpiry s) := by
  simp_all [execWatchdogExpiry]

@[simp] theorem leaves_execControlCoreException (code : Word32) (hP : [.pwr, .boot, .nvm, .cairn, .stm, .bly, .mdl] ⊆ P) :
    Leaves P s (execControlCoreException code s) := by simp_all [execControlCoreException]

@[simp] theorem beyond_endInternal (c : Slot) (hP : [.pwr, .boot, .nvm, .cairn, .afe, .stm, .own, .bly, .mdl, .lrn, .rope] ⊆ P) :
    (endInternal s c).beyond P = s.beyond P := by simp_all [endInternal]

@[simp] theorem leaves_execFirmwareRestartDone (hP : [.pwr, .boot, .nvm, .cairn, .afe, .stm, .own, .bly, .mdl, .lrn, .rope] ⊆ P) :
    Leaves P s (execFirmwareRestartDone s) := by simp_all [execFirmwareRestartDone]

@[simp] theorem beyond_raiseAwake (code : Byte) (body : Bytes) (hP : [.pwr] ⊆ P) : (raiseAwake code body s).beyond P = s.beyond P := by
  simp_all [raiseAwake]

@[simp] theorem leaves_execVholdThreshold (mv : BitVec 16) (hP : [.pwr, .boot] ⊆ P) : Leaves P s (execVholdThreshold mv s) := by
  simp_all [execVholdThreshold]

@[simp] theorem leaves_execHoldupHoldEnd (hP : [.boot] ⊆ P) : Leaves P s (execHoldupHoldEnd s) := by simp_all [execHoldupHoldEnd]

@[simp] theorem beyond_holdupProgram (ps : List (Nat × Nat))
    (hP : [.pwr, .boot, .nvm, .cairn, .afe, .stm, .feat, .own, .bly, .mdl, .lrn, .rope, .free] ⊆ P) :
    (holdupProgram ps s).1.beyond P = s.beyond P := by
  unfold holdupProgram
  (repeat' split) <;> simp_all

@[simp] theorem beyond_brownOut (ps : List (Nat × Nat))
    (hP : [.clk, .pwr, .thm, .boot, .nvm, .cairn, .afe, .stm, .feat, .own, .bly, .mdl, .lrn, .rope, .free] ⊆ P) :
    (brownOut ps s).beyond P = s.beyond P := by simp_all [brownOut]

@[simp] theorem leaves_execBrownoutDetect (programs : List (Nat × Nat))
    (hP : [.clk, .pwr, .thm, .boot, .nvm, .cairn, .afe, .stm, .feat, .own, .bly, .mdl, .lrn, .rope, .free] ⊆ P) :
    Leaves P s (execBrownoutDetect programs s) := by simp_all [execBrownoutDetect]

@[simp] theorem leaves_execPowerOff
    (hP : [.clk, .pwr, .thm, .boot, .nvm, .cairn, .afe, .stm, .feat, .own, .bly, .mdl, .lrn, .rope, .free] ⊆ P) :
    Leaves P s (execPowerOff s) := by simp_all [execPowerOff]

/-! ### Clocks, rails, the sequencer, sleep and the governor (chapter 03) -/

@[simp] theorem beyond_onPwr (f : PowerBlock → PowerBlock) (hP : [.pwr] ⊆ P) : (onPwr f s).beyond P = s.beyond P := by simp_all [onPwr]

@[simp] theorem beyond_clockFault (kind pll : Byte) (hP : [.pwr] ⊆ P) : (clockFault kind pll s).beyond P = s.beyond P := by
  simp_all [clockFault]

@[simp] theorem beyond_clockEntry (kind pll : Byte) (hP : [.pwr, .cairn] ⊆ P) : (clockEntry kind pll s).beyond P = s.beyond P := by
  simp_all [clockEntry]

@[simp] theorem leaves_execXo32QualifyInterval (edges : Nat) (hP : [.clk, .pwr] ⊆ P) : Leaves P s (execXo32QualifyInterval edges s) := by
  simp_all [execXo32QualifyInterval]

@[simp] theorem beyond_loseXo32 (hP : [.clk, .pwr, .cairn] ⊆ P) : (loseXo32 s).beyond P = s.beyond P := by simp_all [loseXo32]

@[simp] theorem leaves_execXo32EdgeLoss (hP : [.clk, .pwr, .cairn] ⊆ P) : Leaves P s (execXo32EdgeLoss s) := by
  simp_all [execXo32EdgeLoss]

@[simp] theorem leaves_execXo32Retry (hP : [.clk] ⊆ P) : Leaves P s (execXo32Retry s) := by simp_all [execXo32Retry]

@[simp] theorem leaves_execXo32Absent (hP : [.clk, .pwr, .cairn] ⊆ P) : Leaves P s (execXo32Absent s) := by simp_all [execXo32Absent]

@[simp] theorem beyond_wantActive (hP : [.pwr] ⊆ P) : (wantActive s).beyond P = s.beyond P := by simp_all [wantActive]

@[simp] theorem beyond_resumeWork (hP : [.stm, .lrn] ⊆ P) : (resumeWork s).beyond P = s.beyond P := by simp_all [resumeWork]

@[simp] theorem beyond_clockBack (hP : [.pwr, .cairn, .stm, .bly, .lrn] ⊆ P) : (clockBack s).beyond P = s.beyond P := by
  simp_all [clockBack]

@[simp] theorem leaves_execXo24Qualified (us : Nat) (hP : [.clk, .pwr, .cairn, .stm, .bly, .lrn] ⊆ P) :
    Leaves P s (execXo24Qualified us s) := by simp_all [execXo24Qualified]

@[simp] theorem beyond_clockLost (hP : [.pwr] ⊆ P) : (clockLost s).beyond P = s.beyond P := by simp_all [clockLost]

@[simp] theorem leaves_execXo24QualifyTimeout (hP : [.clk, .pwr, .cairn, .stm, .bly, .lrn] ⊆ P) :
    Leaves P s (execXo24QualifyTimeout s) := by simp_all [execXo24QualifyTimeout]

@[simp] theorem leaves_execXo24Retry (hP : [.clk] ⊆ P) : Leaves P s (execXo24Retry s) := by simp_all [execXo24Retry]

@[simp] theorem beyond_haltCompute (hP : [.pwr, .nvm, .cairn, .stm, .own, .bly, .mdl, .lrn, .rope] ⊆ P) :
    (haltCompute s).beyond P = s.beyond P := by simp_all [haltCompute]

@[simp] theorem leaves_execXo24Stopped (hP : [.clk, .pwr, .nvm, .cairn, .stm, .own, .bly, .mdl, .lrn, .rope] ⊆ P) :
    Leaves P s (execXo24Stopped s) := by
  unfold execXo24Stopped
  dsimp only
  (repeat' split) <;> simp_all

@[simp] theorem leaves_execPllLocked (pll : BitVec 2) (hP : [.clk, .pwr, .cairn, .stm, .bly, .lrn] ⊆ P) :
    Leaves P s (execPllLocked pll s) := by simp_all [execPllLocked]

@[simp] theorem leaves_execPllLockLoss (pll : BitVec 2) (hP : [.clk, .pwr, .nvm, .cairn, .stm, .own, .bly, .mdl, .lrn, .rope] ⊆ P) :
    Leaves P s (execPllLockLoss pll s) := by simp_all [execPllLockLoss]

@[simp] theorem beyond_powerCore (n : Nat) (q : Int) (hP : [.lrn] ⊆ P) : (powerCore n q s).beyond P = s.beyond P := by
  simp_all [powerCore]

@[simp] theorem beyond_followCim (hP : [.pwr] ⊆ P) : (followCim s).beyond P = s.beyond P := by simp_all [followCim]

@[simp] theorem beyond_bankOff (b : Nat) (hP : [.afe] ⊆ P) : (bankOff b s).beyond P = s.beyond P := by simp_all [bankOff]

@[simp] theorem beyond_fabricOff (hP : [.stm] ⊆ P) : (fabricOff s).beyond P = s.beyond P := by simp_all [fabricOff]

@[simp] theorem beyond_inputsOff (hP : [.stm, .feat] ⊆ P) : (inputsOff s).beyond P = s.beyond P := by simp_all [inputsOff]

@[simp] theorem beyond_domainLost (n : Nat) (hP : [.pwr, .nvm, .cairn, .afe, .stm, .feat, .bly, .mdl, .lrn, .rope] ⊆ P) :
    (domainLost n s).beyond P = s.beyond P := by
  unfold domainLost
  simp only [beyond_ite]
  (repeat' split) <;> simp_all

@[simp] theorem beyond_domainGained (n va30 : Nat) (q : Int) (hP : [.pwr, .lrn, .rope] ⊆ P) :
    (domainGained n va30 q s).beyond P = s.beyond P := by simp_all [domainGained]

@[simp] theorem leaves_execDomainSwitchDone (us va30 : Nat) (milli : Int)
    (hP : [.pwr, .nvm, .cairn, .afe, .stm, .feat, .bly, .mdl, .lrn, .rope] ⊆ P) : Leaves P s (execDomainSwitchDone us va30 milli s) := by
  unfold execDomainSwitchDone
  split <;> simp_all

@[simp] theorem leaves_execDomainIdleRelease (domain : BitVec 5) (hP : [.pwr] ⊆ P) : Leaves P s (execDomainIdleRelease domain s) := by
  simp_all [execDomainIdleRelease]

@[simp] theorem leaves_execVa30OutOfRegulation (out : Bool) (hP : [.pwr] ⊆ P) : Leaves P s (execVa30OutOfRegulation out s) := by
  simp_all [execVa30OutOfRegulation]

@[simp] theorem leaves_execIoRailRangeChange (sensor inRange : Bool) (hP : [.pwr] ⊆ P) :
    Leaves P s (execIoRailRangeChange sensor inRange s) := by simp_all [execIoRailRangeChange]

@[simp] theorem leaves_execVcoreBuckInRegulation (hP : [.clk, .pwr] ⊆ P) : Leaves P s (execVcoreBuckInRegulation s) := by
  simp_all [execVcoreBuckInRegulation]

@[simp] theorem beyond_cmdPowerStateSetBivouac (ht : TakenOr P h s) (hP : [.pwr] ⊆ P) :
    (cmdPowerStateSetBivouac h p s).beyond P = s.beyond P := beyond_serve _ _ _ _ _ ht fun s => by simp_all

@[simp] theorem beyond_cmdPowerStateSetWatch (ht : TakenOr P h s) (hP : [.pwr] ⊆ P) :
    (cmdPowerStateSetWatch h p s).beyond P = s.beyond P := beyond_serve _ _ _ _ _ ht fun s => by simp_all

@[simp] theorem beyond_beginSleep (e : SleepEntry) (hP : [.pwr, .stm, .mdl] ⊆ P) : (beginSleep e s).beyond P = s.beyond P := by
  simp_all [beginSleep]

@[simp] theorem leaves_execSleepEntryStart (hP : [.pwr, .stm, .mdl] ⊆ P) : Leaves P s (execSleepEntryStart s) := by
  unfold execSleepEntryStart
  split <;> simp_all

@[simp] theorem leaves_execAutoSleepDwellExpiry (hP : [.pwr, .stm, .mdl] ⊆ P) : Leaves P s (execAutoSleepDwellExpiry s) := by
  unfold execAutoSleepDwellExpiry
  split <;> simp_all

@[simp] theorem beyond_saveAtSleep (hP : [.pwr, .nvm, .lrn] ⊆ P) : (saveAtSleep s).1.beyond P = s.beyond P := by simp_all [saveAtSleep]

@[simp] theorem beyond_enterBivouac (hP : [.clk, .pwr] ⊆ P) : (enterBivouac s).beyond P = s.beyond P := by simp_all [enterBivouac]

@[simp] theorem beyond_goToSleep (e : SleepEntry) (us : Nat)
    (hP : [.clk, .pwr, .nvm, .cairn, .afe, .stm, .feat, .bly, .mdl, .lrn, .rope] ⊆ P) : (goToSleep e us s).beyond P = s.beyond P := by
  simp_all [goToSleep]

@[simp] theorem leaves_execSleepEntryComplete (us : Nat)
    (hP : [.clk, .pwr, .nvm, .cairn, .afe, .stm, .feat, .bly, .mdl, .lrn, .rope] ⊆ P) : Leaves P s (execSleepEntryComplete us s) := by
  unfold execSleepEntryComplete
  split <;> simp_all

@[simp] theorem beyond_startWake (source : WakeSource) (channel : Byte) (hP : [.clk, .pwr, .thm, .cairn, .lrn] ⊆ P) :
    (startWake source channel s).beyond P = s.beyond P := by simp_all [startWake]

@[simp] theorem beyond_wakeSource (source : WakeSource) (channel : Byte) (hP : [.clk, .pwr, .thm, .cairn, .stm, .lrn] ⊆ P) :
    (wakeSource source channel s).beyond P = s.beyond P := by simp_all [wakeSource]

@[simp] theorem leaves_execWakeNLow (hP : [.clk, .pwr, .thm, .cairn, .stm, .lrn] ⊆ P) : Leaves P s (execWakeNLow s) := by
  simp_all [execWakeNLow]

@[simp] theorem leaves_execTickAlarmFire (hP : [.clk, .pwr, .thm, .cairn, .stm, .lrn] ⊆ P) : Leaves P s (execTickAlarmFire s) := by
  simp_all [execTickAlarmFire]

@[simp] theorem leaves_execWatchThresholdFire (channel : BitVec 5) (samples : List Int) (hP : [.pwr] ⊆ P) :
    Leaves P s (execWatchThresholdFire channel samples s) := by
  unfold execWatchThresholdFire
  dsimp only
  split <;> simp_all

@[simp] theorem leaves_execRopeSquelchWake (hP : [.clk, .pwr, .thm, .cairn, .stm, .lrn] ⊆ P) : Leaves P s (execRopeSquelchWake s) := by
  simp_all [execRopeSquelchWake]

@[simp] theorem beyond_endIdleSessions : (endIdleSessions s).beyond P = s.beyond P := by simp [endIdleSessions]

@[simp] theorem leaves_execWakeComplete (hP : [.pwr, .cairn, .stm, .bly, .lrn] ⊆ P) : Leaves P s (execWakeComplete s) := by
  unfold execWakeComplete
  split <;> simp_all

@[simp] theorem beyond_readCore (n : Nat) (q : Int) (hP : [.lrn] ⊆ P) : (readCore s n q).beyond P = s.beyond P := by simp_all [readCore]

@[simp] theorem beyond_enterTrip (hP : [.pwr, .nvm, .cairn, .stm, .own, .bly, .mdl, .lrn, .rope] ⊆ P) :
    (enterTrip s).beyond P = s.beyond P := by simp_all [enterTrip]

@[simp] theorem beyond_changeThermal (prev : ThermalState) (hP : [.pwr, .thm, .nvm, .cairn, .stm, .own, .bly, .mdl, .lrn, .rope] ⊆ P) :
    (changeThermal prev s).beyond P = s.beyond P := by simp_all [changeThermal]

@[simp] theorem beyond_shedCores (hP : [.pwr] ⊆ P) : (shedCores s).beyond P = s.beyond P := by
  unfold shedCores
  dsimp only
  (repeat' split) <;> simp_all

@[simp] theorem beyond_thermalShutdown (q : Int) (hP : [.pwr, .boot, .nvm, .cairn, .stm, .bly, .mdl] ⊆ P) :
    (thermalShutdown q s).beyond P = s.beyond P := by simp_all [thermalShutdown]

@[simp] theorem leaves_execGovernorSample (cores : Vector Int 8) (engine anchor : Int)
    (hP : [.pwr, .thm, .boot, .nvm, .cairn, .stm, .own, .bly, .mdl, .lrn, .rope] ⊆ P) :
    Leaves P s (execGovernorSample cores engine anchor s) := by
  unfold execGovernorSample
  dsimp only
  split
  · simp
  · split
    · simp_all
    · rw [leaves_next, beyond_thermalShutdown _ _ (by simp_all)]
      simp_all

@[simp] theorem leaves_execAnchorTempSample (anchor : Int) (hP : [.pwr, .boot, .nvm, .cairn, .stm, .bly, .mdl] ⊆ P) :
    Leaves P s (execAnchorTempSample anchor s) := by simp_all [execAnchorTempSample]

/-! ### The device's identity and status (chapter 02) -/

@[simp] theorem beyond_transportCode (hP : [.free] ⊆ P) : (transportCode s).2.beyond P = s.beyond P := by
  unfold transportCode
  split <;> simp_all

@[simp] theorem beyond_cmdDevInfo (ht : TakenOr P h s) (hP : [.free] ⊆ P) : (cmdDevInfo h p s).beyond P = s.beyond P :=
  beyond_serve _ _ _ _ _ ht fun s => by simp_all

@[simp] theorem beyond_cmdDevStatus (ht : TakenOr P h s) : (cmdDevStatus h p s).beyond P = s.beyond P :=
  beyond_serve _ _ _ _ _ ht fun s => by simp

/-! ### The test access port (chapter 16) -/

@[simp] theorem beyond_onTap (f : TapState → TapState) (hP : [.own] ⊆ P) : (onTap f s).beyond P = s.beyond P := by simp_all [onTap]

@[simp] theorem beyond_scan (instr : BitVec 5) (captured tdi : List Bool) (hP : [.own] ⊆ P) :
    (scan instr captured tdi s).beyond P = s.beyond P := by simp_all [scan]

@[simp] theorem beyond_boundary (instr : BitVec 5) (pins tdi : List Bool) (hP : [.own] ⊆ P) :
    (boundary instr pins tdi s).beyond P = s.beyond P := by simp_all [boundary]

@[simp] theorem leaves_execTapReset (hP : [.own] ⊆ P) : Leaves P s (execTapReset s) := by simp_all [execTapReset]

@[simp] theorem leaves_execBypass (opcode : BitVec 5) (tdi : List Bool) (hP : [.own] ⊆ P) : Leaves P s (execBypass opcode tdi s) := by
  simp_all [execBypass]

@[simp] theorem leaves_execIdcode (tdi : List Bool) (hP : [.own] ⊆ P) : Leaves P s (execIdcode tdi s) := by simp_all [execIdcode]

@[simp] theorem leaves_execSamplePreload (pins tdi : List Bool) (hP : [.own] ⊆ P) : Leaves P s (execSamplePreload pins tdi s) := by
  simp_all [execSamplePreload]

@[simp] theorem leaves_execExtest (pins tdi : List Bool) (hP : [.own] ⊆ P) : Leaves P s (execExtest pins tdi s) := by
  simp_all [execExtest]

@[simp] theorem leaves_execHighz (pins tdi : List Bool) (hP : [.own] ⊆ P) : Leaves P s (execHighz pins tdi s) := by simp_all [execHighz]

@[simp] theorem leaves_execClamp (pins tdi : List Bool) (hP : [.own] ⊆ P) : Leaves P s (execClamp pins tdi s) := by simp_all [execClamp]

@[simp] theorem beyond_freeBits (n : Nat) (hP : [.free] ⊆ P) : (freeBits n s).2.beyond P = s.beyond P := by
  induction n generalizing s with
  | zero => rfl
  | succ n ih => simp_all [freeBits]

@[simp] theorem leaves_execDbgChal (tdi : List Bool) (hP : [.own, .free] ⊆ P) : Leaves P s (execDbgChal tdi s) := by
  simp_all [execDbgChal]

@[simp] theorem leaves_execDbgOpen (tdi : List Bool) (hP : [.pwr, .nvm, .own, .free] ⊆ P) : Leaves P s (execDbgOpen tdi s) := by
  simp_all [execDbgOpen]

@[simp] theorem leaves_execDbgAccess (tdi : List Bool) (hP : [.own] ⊆ P) : Leaves P s (execDbgAccess tdi s) := by simp_all [execDbgAccess]

/-! ### Whole packets on the host port and over the Rope (chapters 02 and 15) -/

@[simp] theorem beyond_advanceTx (owner : BitVec 2) : (advanceTx owner s).beyond P = s.beyond P := by simp [advanceTx]

@[simp] theorem beyond_sealedPacket (owner : BitVec 2) (more : Bool) (opcode tagByte status : Byte) (payload : Bytes) :
    (sealedPacket owner more opcode tagByte status payload s).2.beyond P = s.beyond P := by simp [sealedPacket]

@[simp] theorem beyond_replyPacket (r : Reply) : (replyPacket r s).2.2.beyond P = s.beyond P := by
  simp only [replyPacket]
  split
  · rfl
  · split <;> simp

@[simp] theorem beyond_freeTag (tag : Tag) : (freeTag tag s).beyond P = s.beyond P := by
  unfold freeTag
  split <;> simp

@[simp] theorem beyond_closeSession (r : Reply) : (closeSession r s).beyond P = s.beyond P := by simp [closeSession]

@[simp] theorem beyond_replyGone (r : Reply) (hP : [.pwr, .boot, .nvm, .cairn, .stm, .bly, .mdl] ⊆ P) :
    (replyGone r s).beyond P = s.beyond P := by
  unfold replyGone
  dsimp only
  split <;> simp_all

@[simp] theorem beyond_replyLeft (r : Reply) (rest : Option Reply) (hP : [.pwr, .boot, .nvm, .cairn, .stm, .bly, .mdl] ⊆ P) :
    (replyLeft r rest s).beyond P = s.beyond P := by
  unfold replyLeft
  split <;> simp_all

@[simp] theorem beyond_countEvent : (countEvent s).beyond P = s.beyond P := by simp [countEvent]

@[simp] theorem beyond_eventDelivered (e : Event) (hP : [.mdl] ⊆ P) : (eventDelivered e s).beyond P = s.beyond P := by
  simp_all [eventDelivered]

@[simp] theorem beyond_lossReported : (lossReported s).beyond P = s.beyond P := by simp [lossReported]

@[simp] theorem beyond_eventPacket (e : Event) (hP : [.mdl] ⊆ P) : (eventPacket e s).2.beyond P = s.beyond P := by
  unfold eventPacket
  dsimp only
  split <;> simp_all

@[simp] theorem beyond_leave (o : Outbound) (hP : [.pwr, .boot, .nvm, .cairn, .stm, .bly, .mdl] ⊆ P) :
    (leave o s).2.beyond P = s.beyond P := by
  unfold leave
  split <;> simp_all

@[simp] theorem beyond_pullPacket (via : Transport) (clocked : Nat) (hP : [.pwr, .boot, .nvm, .cairn, .stm, .bly, .mdl] ⊆ P) :
    (pullPacket via clocked s).beyond P = s.beyond P := by
  unfold pullPacket
  dsimp only
  (repeat' split) <;> simp_all

@[simp] theorem beyond_cmdAbort (ht : TakenOr P h s) (hP : [.pwr, .boot, .nvm, .cairn, .afe, .stm, .own, .bly, .mdl, .lrn, .rope] ⊆ P) :
    (cmdAbort h p s).beyond P = s.beyond P := by
  refine beyond_serve _ _ _ _ _ ht fun s => ?_
  dsimp only
  split <;> simp_all

@[simp] theorem beyond_cmdRopeRelay (ht : TakenOr P h s) (hP : [.cairn, .rope] ⊆ P) : (cmdRopeRelay h p s).beyond P = s.beyond P :=
  beyond_ropeServe _ _ _ _ _ ht fun s => by simp_all

@[simp] theorem beyond_noSuch (f : Form) (ht : TakenOr P h s) : (noSuch f h p s).beyond P = s.beyond P := by
  exact beyond_serve _ _ _ _ _ ht fun s => by simp

@[simp] theorem beyond_byFlag (off : Nat) (q : Bytes) (f g : Hdr → Bytes → State → State) (hf : (f h p s).beyond P = s.beyond P)
    (hg : (g h p s).beyond P = s.beyond P) : (byFlag off q f g h p s).beyond P = s.beyond P := by
  unfold byFlag
  split <;> assumption

@[simp] theorem beyond_device (opcode : Nat) (ht : TakenOr P h s)
    (hP : [.pwr, .thm, .boot, .nvm, .cairn, .afe, .stm, .own, .bly, .mdl, .lrn, .rope, .free] ⊆ P) :
    (device opcode h p s).beyond P = s.beyond P := by
  unfold device
  (repeat' split) <;> simp_all

@[simp] theorem beyond_sensing (opcode : Nat) (ht : TakenOr P h s) (hP : [.pwr, .afe, .stm, .feat] ⊆ P) :
    (sensing opcode h p s).beyond P = s.beyond P := by
  unfold sensing
  (repeat' split) <;> simp_all

@[simp] theorem beyond_models (opcode : Nat) (ht : TakenOr P h s)
    (hP : [.pwr, .nvm, .cairn, .stm, .own, .bly, .mdl, .lrn, .rope, .free] ⊆ P) : (models opcode h p s).beyond P = s.beyond P := by
  unfold models
  (repeat' split) <;> simp_all

@[simp] theorem beyond_outputs (opcode : Nat) (ht : TakenOr P h s) (hP : [.pwr, .nvm, .cairn, .stm, .bly, .mdl, .lrn, .rope] ⊆ P) :
    (outputs opcode h p s).beyond P = s.beyond P := by
  unfold outputs
  (repeat' split) <;> simp_all

@[simp] theorem beyond_security (opcode : Nat) (ht : TakenOr P h s)
    (hP : [.pwr, .boot, .nvm, .cairn, .stm, .own, .bly, .mdl, .lrn, .rope, .free] ⊆ P) : (security opcode h p s).beyond P = s.beyond P := by
  unfold security
  (repeat' split) <;> simp_all

@[simp] theorem beyond_command (opcode : Byte)
    (hP : [.pwr, .thm, .boot, .nvm, .cairn, .afe, .stm, .feat, .own, .bly, .mdl, .lrn, .rope, .free] ⊆ P) :
    (command opcode h p s).beyond P = s.beyond P := by
  unfold command
  split
  · simp_all
  · simp_all

@[simp] theorem beyond_runWhole (opcode : Byte)
    (hP : [.pwr, .thm, .boot, .nvm, .cairn, .afe, .stm, .feat, .own, .bly, .mdl, .lrn, .rope, .free] ⊆ P) :
    (runWhole opcode h p s).beyond P = s.beyond P := by simp_all [runWhole]

@[simp] theorem beyond_continueMessage (c : Slot) (opcode : Byte) (more : Bool)
    (hP : [.pwr, .thm, .boot, .nvm, .cairn, .afe, .stm, .feat, .own, .bly, .mdl, .lrn, .rope, .free] ⊆ P) :
    (continueMessage c opcode more h p s).beyond P = s.beyond P := by
  unfold continueMessage
  split <;> simp_all

@[simp] theorem beyond_beginMessage (opcode : Byte) (more : Bool)
    (hP : [.pwr, .thm, .boot, .nvm, .cairn, .afe, .stm, .feat, .own, .bly, .mdl, .lrn, .rope, .free] ⊆ P) :
    (beginMessage opcode more h p s).beyond P = s.beyond P := by
  unfold beginMessage
  (repeat' split) <;> simp_all

theorem beyond_admitPacket (reject : Notice → State → State) (via : Transport) (space : Nat) (b : Bytes)
    (hP : [.pwr, .thm, .boot, .nvm, .cairn, .afe, .stm, .feat, .own, .bly, .mdl, .lrn, .rope, .free] ⊆ P)
    (hr : ∀ n s, (reject n s).beyond P = s.beyond P) : (admitPacket reject via space b s).beyond P = s.beyond P := by
  unfold admitPacket
  extract_lets bind refuse s1 x opcode more
  have hb (s : State) : (bind s).beyond P = s.beyond P := by simp_all [bind]
  have hn (check : Nat) (status : Byte) (s : State) : (refuse check status s).beyond P = s.beyond P := by simp [refuse, hr]
  have h1 : s1.beyond P = s.beyond P := hb s
  split
  · simp
  · rw [hn]
  · rw [hn]
  · rw [hn, hb]
  · split
    · rw [beyond_beginMessage _ _ _ _ _ hP, h1]
    · rw [beyond_ite, hn, beyond_continueMessage _ _ _ _ _ _ hP, ite_self, h1]

@[simp] theorem beyond_pushPacket (via : Transport) (held : Nat) (b : Bytes)
    (hP : [.pwr, .thm, .boot, .nvm, .cairn, .afe, .stm, .feat, .own, .bly, .mdl, .lrn, .rope, .free] ⊆ P) :
    (pushPacket via held b s).beyond P = s.beyond P := by
  unfold pushPacket
  split
  · rfl
  · extract_lets s'
    have hs : s'.beyond P = s.beyond P := by simp_all [s']
    rw [beyond_ite, beyond_overrun, beyond_mapLink, beyond_admitPacket _ _ _ _ _ hP (by simp), beyond_mapLink, ite_self, hs]

@[simp] theorem beyond_replyPackets (n : Nat) (r : Reply) : (replyPackets n r s).2.beyond P = s.beyond P := by
  induction n generalizing r s with
  | zero => rfl
  | succ n ih =>
    simp only [replyPackets]
    split <;> simp [ih]

@[simp] theorem beyond_sendBack (src : Byte) (id : BitVec 16) (b : Bytes) (hP : [.cairn, .rope] ⊆ P) :
    (sendBack src id b s).beyond P = s.beyond P := by simp_all [sendBack]

@[simp] theorem beyond_sendRelayed (r : Reply) (hP : [.pwr, .boot, .nvm, .cairn, .stm, .bly, .mdl, .rope] ⊆ P) :
    (sendRelayed r s).beyond P = s.beyond P := by simp_all [sendRelayed]

@[simp] theorem beyond_flushRelayed (hP : [.pwr, .boot, .nvm, .cairn, .stm, .bly, .mdl, .rope] ⊆ P) :
    (flushRelayed s).beyond P = s.beyond P := by
  refine (beyond_foldl _ _ (fun s o => ?_) _).trans (by simp)
  split <;> simp_all

@[simp] theorem beyond_takeRelayed (src : Byte) (id : BitVec 16) (b : Bytes)
    (hP : [.pwr, .thm, .boot, .nvm, .cairn, .afe, .stm, .feat, .own, .bly, .mdl, .lrn, .rope, .free] ⊆ P) :
    (takeRelayed src id b s).beyond P = s.beyond P := by
  unfold takeRelayed
  dsimp only
  split
  · rfl
  · split
    · simp_all
    · rw [beyond_flushRelayed _ (by simp_all), beyond_ite, beyond_onRope _ _ (by simp_all), ite_self, beyond_admitPacket _ _ _ _ _ hP]
      all_goals simp_all

@[simp] theorem beyond_relayArrived (src : Byte) (id : BitVec 16) (more : Bool) (b : Bytes)
    (hP : [.pwr, .thm, .boot, .nvm, .cairn, .afe, .stm, .feat, .own, .bly, .mdl, .lrn, .rope, .free] ⊆ P) :
    (relayArrived src id more b s).beyond P = s.beyond P := by simp_all [relayArrived]

@[simp] theorem beyond_relayReplied (src : Byte) (id : BitVec 16) (more : Bool) (b : Bytes) (hP : [.rope] ⊆ P) :
    (relayReplied src id more b s).beyond P = s.beyond P := by
  unfold relayReplied
  dsimp only
  split <;> simp_all

@[simp] theorem beyond_serveHeld (hP : [.pwr, .thm, .boot, .nvm, .cairn, .afe, .stm, .feat, .own, .bly, .mdl, .lrn, .rope, .free] ⊆ P) :
    (serveHeld s).beyond P = s.beyond P := by simp_all [serveHeld]

@[simp] theorem leaves_execPush (via : Transport) (held : Nat) (b : Bytes)
    (hP : [.pwr, .thm, .boot, .nvm, .cairn, .afe, .stm, .feat, .own, .bly, .mdl, .lrn, .rope, .free] ⊆ P) :
    Leaves P s (execPush via held b s) := by simp_all [execPush]

@[simp] theorem leaves_execQpush (held : Nat) (b : Bytes)
    (hP : [.pwr, .thm, .boot, .nvm, .cairn, .afe, .stm, .feat, .own, .bly, .mdl, .lrn, .rope, .free] ⊆ P) :
    Leaves P s (execQpush held b s) := by simp_all [execQpush]

@[simp] theorem leaves_execPull (via : Transport) (clocked : Nat) (hP : [.pwr, .boot, .nvm, .cairn, .stm, .bly, .mdl] ⊆ P) :
    Leaves P s (execPull via clocked s) := by simp_all [execPull]

@[simp] theorem leaves_execQpull (clocked : Nat) (hP : [.pwr, .boot, .nvm, .cairn, .stm, .bly, .mdl] ⊆ P) :
    Leaves P s (execQpull clocked s) := by simp_all [execQpull]

@[simp] theorem leaves_execCmd (r : RopeRx) (relay : BitVec 16) (reply more : Bool) (payload : Bytes)
    (hP : [.pwr, .thm, .boot, .nvm, .cairn, .afe, .stm, .feat, .own, .bly, .mdl, .lrn, .rope, .free] ⊆ P) :
    Leaves P s (execCmd r relay reply more payload s) := by simp_all [execCmd]

@[simp] theorem leaves_execNvmProgramDone (bad us : Nat)
    (hP : [.pwr, .thm, .boot, .nvm, .cairn, .afe, .stm, .feat, .own, .bly, .mdl, .lrn, .rope, .free] ⊆ P) :
    Leaves P s (execNvmProgramDone bad us s) := by simp_all [execNvmProgramDone]

/-! ### The events -/

theorem Leaves.keeps {P : List Part} {s t : State} {a : Answer} (ha : Leaves P s a) (h : a = .next t) : Keeps P s t :=
  .of_beyond (ha t h)

/-- An event's meaning changes nothing beyond the parts listed with the event: the case of each event is the lemma about its meaning,
and no parts are listed with a command. -/
theorem leaves_event {c : Instr} {parts : List Part} (hc : Rows.eventParts c = some parts) (s : State) : Leaves parts s (exec c s) := by
  cases c <;> cases hc <;> simp [exec]

/-- Settles O51: the events with few parts among those of `leaves_event`. -/
theorem eventFrames : Obligations.EventFrames := by
  intro c parts hc _ s t h
  exact (leaves_event hc s).keeps h

/-! ### The commands that reach far -/

/-- The row's command, once taken up, changes nothing beyond the parts. -/
def CommandRow.Within (r : CommandRow) (P : List Part) : Prop :=
  ∀ (h : Hdr) (p : Bytes) (s : State), Taken h s → Leaves P s (exec (r.command h p) s)

theorem CommandRow.within {r : CommandRow} {P : List Part} (f : Hdr → Bytes → State → State)
    (hr : ∀ h p s, exec (r.command h p) s = .next (f h p s))
    (hf : ∀ {h p s}, TakenOr P h s → (f h p s).beyond P = s.beyond P) : r.Within P :=
  fun h p s ht => hr h p s ▸ (leaves_next s _).2 (hf (.inl ht))

open Rows in
/-- The rows of the commands that may change more than five parts. -/
noncomputable def wideRows : List (CommandRow × List Part) := [
  (abort, [.pwr, .boot, .nvm, .cairn, .afe, .stm, .own, .bly, .mdl, .lrn, .rope]),
  (modelLoadBegin, [.pwr, .cairn, .stm, .bly, .mdl, .lrn]),
  (modelLoadAbandon, [.pwr, .nvm, .cairn, .stm, .bly, .mdl, .lrn, .rope]),
  (modelPlace, [.pwr, .nvm, .cairn, .stm, .own, .bly, .mdl, .lrn, .rope]),
  (modelPlaceRidge, [.pwr, .nvm, .cairn, .stm, .own, .bly, .mdl, .lrn, .rope, .free]),
  (modelUnload, [.pwr, .nvm, .cairn, .stm, .bly, .mdl, .lrn, .rope]),
  (modelStart, [.pwr, .cairn, .stm, .bly, .mdl, .lrn]),
  (modelStop, [.pwr, .nvm, .cairn, .stm, .own, .bly, .mdl, .lrn, .rope]),
  (modelReplace, [.pwr, .nvm, .cairn, .stm, .own, .bly, .mdl, .lrn, .rope]),
  (headConsolidate, [.pwr, .nvm, .cairn, .stm, .own, .bly, .mdl, .lrn, .rope]),
  (ropeEnumerate, [.pwr, .cairn, .stm, .bly, .mdl, .lrn, .rope]),
  (ropeDetach, [.pwr, .nvm, .cairn, .stm, .bly, .mdl, .lrn, .rope]),
  (coreFence, [.pwr, .nvm, .cairn, .stm, .own, .bly, .mdl, .lrn, .rope, .free])]

theorem commandParts_wide : Rows.commandParts.filter (5 < ·.2.length) = wideRows := rfl

theorem within_wideRows : ∀ x ∈ wideRows, x.1.Within x.2 := by
  simp only [wideRows, List.forall_mem_cons]
  exact ⟨
    CommandRow.within cmdAbort (fun _ _ _ => rfl) fun ht => beyond_cmdAbort _ _ _ ht (by simp),
    CommandRow.within cmdModelLoadBegin (fun _ _ _ => rfl) fun ht => beyond_cmdModelLoadBegin _ _ _ ht (by simp),
    CommandRow.within cmdModelLoadAbandon (fun _ _ _ => rfl) fun ht => beyond_cmdModelLoadAbandon _ _ _ ht (by simp),
    CommandRow.within cmdModelPlace (fun _ _ _ => rfl) fun ht => beyond_cmdModelPlace _ _ _ ht (by simp),
    CommandRow.within (cmdModelPlaceRidge · · none) (fun _ _ _ => rfl) fun ht => beyond_cmdModelPlaceRidge _ _ _ _ ht (by simp),
    CommandRow.within cmdModelUnload (fun _ _ _ => rfl) fun ht => beyond_cmdModelUnload _ _ _ ht (by simp),
    CommandRow.within cmdModelStart (fun _ _ _ => rfl) fun ht => beyond_cmdModelStart _ _ _ ht (by simp),
    CommandRow.within cmdModelStop (fun _ _ _ => rfl) fun ht => beyond_cmdModelStop _ _ _ ht (by simp),
    CommandRow.within cmdModelReplace (fun _ _ _ => rfl) fun ht => beyond_cmdModelReplace _ _ _ ht (by simp),
    CommandRow.within cmdHeadConsolidate (fun _ _ _ => rfl) fun ht => beyond_cmdHeadConsolidate _ _ _ ht (by simp),
    CommandRow.within cmdRopeEnumerate (fun _ _ _ => rfl) fun ht => beyond_cmdRopeEnumerate _ _ _ ht (by simp),
    CommandRow.within cmdRopeDetach (fun _ _ _ => rfl) fun ht => beyond_cmdRopeDetach _ _ _ ht (by simp),
    CommandRow.within cmdCoreFence (fun _ _ _ => rfl) fun ht => beyond_cmdCoreFence _ _ _ ht (by simp),
    by simp⟩

/-- Settles O52: the commands of `wideRows`, and the events with many parts among those of `leaves_event`. -/
theorem wideFrames : Obligations.WideFrames := by
  refine ⟨fun x hx hw h p s t ht he => ?_, fun c parts hc _ s t h => (leaves_event hc s).keeps h⟩
  have hx : x ∈ wideRows := commandParts_wide ▸ List.mem_filter.2 ⟨hx, decide_eq_true hw⟩
  exact (within_wideRows x hx h p s ht).keeps he

/-- Settles O1: on a queue with a command at its front `step` is by definition the meaning of that command. -/
theorem stepTakesFront : Obligations.StepTakesFront := by
  intro c q s
  rfl

end Sys2Proof.Machine

/-! PROOFS. The safety of the device on its site: commands refused for the state of Belay or for the strap, and BELAY_OK after a trip. -/

namespace Sys2Proof.Machine

/-! ### Commands refused for the state (chapter 01) -/

/-- A command taken up that passes the checks of its form is answered with the status its body refuses it with. -/
theorem serve_refused {f : Form} {h : Hdr} {p : Bytes} {body : State → State} {s : State} {st : Byte} (ht : Taken h s)
    (hr : (f.rights (entered f.opcode h s) p).allow h s = true) (hl : (f.length p.length && f.shape p) = true)
    (hz : f.reserved p = true) (hb : body (entered f.opcode h s) = finish h.tag st [] (entered f.opcode h s)) :
    serve f h p body s = replies f.opcode h st [] s := by
  rw [serve_taken f h p body s ht hr hl hz, hb]
  rfl

theorem belayHolds_iff (s : State) :
    belayHolds s = true ↔ s.bly.phase = .hold ∨ s.bly.phase = .tripped ∨ s.bly.phase = .coasting := by
  simp [belayHolds, or_assoc]

/-- A well-formed sleep request is refused while Belay holds or a trip runs (R20, R80). -/
theorem cmdSleep_refused (target : PowerState) {h : Hdr} {p : Bytes} {s : State} (ht : Taken h s) (hr : Rights.site.allow h s = true)
    (hl : p.length = 4) (hz : fld p 0 4 < 512) (hb : belayHolds s = true) : cmdSleep target h p s = replies 0x11 h stState [] s := by
  refine serve_refused ht hr (by simp [hl]) (by simpa using Nat.div_eq_of_lt hz) ?_
  simp only [entered_belayHolds, hb, refuseIf]

/-- Settles O48: both forms of POWER_STATE_SET are `cmdSleep`. -/
theorem sleepRefused : Obligations.SleepRefused := by
  intro r hr h p s ht ha hl hz hb
  have refused (target : PowerState) := cmdSleep_refused target ht ha hl hz ((belayHolds_iff s).2 hb)
  simp only [List.mem_cons, List.not_mem_nil, or_false] at hr
  rcases hr with rfl | rfl
  · exact congrArg Host.Outcome.next (refused .bivouac)
  · exact congrArg Host.Outcome.next (refused .watch)

/-- A chip strapped Solo refuses every well-formed command of the Rope (R13). -/
theorem ropeServe_solo {f : Form} {h : Hdr} {p : Bytes} (body : State → State) {s : State} (ht : Taken h s)
    (hr : (f.rights (entered f.opcode h s) p).allow h s = true) (hs : isRidge s = false)
    (hf : (f.length p.length && f.shape p) = true ∧ f.reserved p = true) :
    ropeServe f h p body s = replies f.opcode h stState [] s := by
  refine serve_refused ht hr hf.1 hf.2 ?_
  simp only [entered_isRidge, hs, Bool.not_false, refuseIf]

/-- Settles O49: each command of the Rope is a `ropeServe`, and what its row asks of a Ridge chip includes the payload's form. -/
theorem soloHasNoRope : Obligations.SoloHasNoRope := by
  intro r hr h p s ht ha hs ⟨u, _, hu⟩
  simp only [Rows.ropeRows, List.mem_cons, List.not_mem_nil, or_false] at hr
  rcases hr with rfl | rfl | rfl | rfl | rfl | rfl | rfl | rfl | rfl
  all_goals
    refine congrArg Host.Outcome.next (ropeServe_solo _ ht ha hs ?_)
    simp_all [zeros, Nat.div_eq_of_lt]

/-! ### The commands held through a debug-open erase (R393) -/

/-- Every part but the owners' and keys'. -/
def notOwn : List Part := [.clk, .pwr, .thm, .pins, .boot, .nvm, .cairn, .afe, .stm, .feat, .bly, .mdl, .lrn, .rope, .free]

/-- No command waits for the end of a debug-open erase. -/
def NoneHeld (s : State) : Prop := s.own.heldCommands = []

section
variable {s t : State}

/-- What leaves the owners' part holds no command back. -/
theorem NoneHeld.of_beyond (hs : NoneHeld s) (h : t.beyond notOwn = s.beyond notOwn) : NoneHeld t :=
  (congrArg OwnerState.heldCommands ((Keeps.of_beyond h).2 .own (by decide))).trans hs

theorem NoneHeld.foldl {α : Type} {f : State → α → State} (hf : ∀ s a, NoneHeld s → NoneHeld (f s a)) (l : List α) (hs : NoneHeld s) :
    NoneHeld (l.foldl f s) := by
  induction l generalizing s with
  | nil => exact hs
  | cons a l ih => exact ih (hf s a hs)

theorem NoneHeld.onOwn {f : OwnerState → OwnerState} (hs : NoneHeld s) (hf : ∀ w, (f w).heldCommands = w.heldCommands) :
    NoneHeld (onOwn f s) := (hf s.own).trans hs

theorem noneHeld_countSeal (hs : NoneHeld s) : NoneHeld (countSeal s) := by
  unfold countSeal
  extract_lets n own s1
  have h1 : NoneHeld s1 := hs
  split
  · exact h1.of_beyond (by simp [notOwn])
  · exact h1

theorem noneHeld_carryRemoval (hs : NoneHeld s) : NoneHeld (carryRemoval s) := by
  unfold carryRemoval
  split
  · exact hs
  · split
    · exact hs
    · have h : NoneHeld { s with own := { s.own with removal := none } } := hs
      extract_lets own s1 s2 s3
      have h3 : NoneHeld s3 := h.of_beyond (by simp [notOwn, s3, s2, s1, own])
      split
      · exact h3.of_beyond (by simp [notOwn])
      · exact h3

theorem noneHeld_carryOn (hs : NoneHeld s) : NoneHeld (carryOn s) := by
  unfold carryOn
  refine noneHeld_carryRemoval (.foldl (fun s m hs => hs.of_beyond (by simp [notOwn])) _ (.foldl (fun s r hs => ?_) _ hs))
  split
  · split
    · exact hs
    · exact hs.of_beyond (by simp [notOwn])
  · exact hs

theorem noneHeld_wearConfigCommitted (hs : NoneHeld s) : NoneHeld (wearConfigCommitted s) := by
  unfold wearConfigCommitted
  split
  · exact hs
  · extract_lets lrn s1
    have h : NoneHeld (withdrawWorn s1) := hs.of_beyond (by simp [notOwn, s1])
    exact (noneHeld_carryOn h).of_beyond (by simp [notOwn])

/-- A command that is withdrawn is held no longer; no other is. -/
theorem noneHeld_withdrawOther (tag : Tag) (hs : NoneHeld s) : NoneHeld (withdrawOther tag s) := by
  unfold withdrawOther
  extract_lets boot cairn own s1 s2
  have h1 : NoneHeld s1 := List.filter_eq_nil_iff.2 (by simp [show s.own.heldCommands = [] from hs])
  have h2 : NoneHeld s2 := by
    simp only [s2]
    split
    · exact h1.of_beyond (by simp [notOwn])
    · exact h1
  split
  · split
    · exact h2.of_beyond (by simp [notOwn])
    · exact h2
  · exact h2

theorem noneHeld_withdraw (tag : Tag) (hs : NoneHeld s) : NoneHeld (withdraw tag s) := by
  unfold withdraw
  extract_lets first s1 s2 s3 s4
  have h4 : NoneHeld s4 := noneHeld_withdrawOther tag (hs.of_beyond (by simp [notOwn, s3, s2, s1]))
  exact h4.of_beyond (by simp [notOwn])

theorem noneHeld_stopCommand (tag : Tag) (status : Byte) (payload : Bytes) (hs : NoneHeld s) :
    NoneHeld (stopCommand tag status payload s) := (noneHeld_withdraw tag hs).of_beyond (by simp [notOwn, stopCommand])

theorem noneHeld_expireSession (slot : Nat) (reason : Byte) (hs : NoneHeld s) : NoneHeld (expireSession slot reason s) := by
  unfold expireSession
  extract_lets id wasOpen mine
  have h : NoneHeld (mine.foldl (fun s c => stopCommand c.tag stAborted [] s) s) :=
    .foldl (fun s c hs => noneHeld_stopCommand c.tag stAborted [] hs) mine hs
  exact h.of_beyond (by simp [notOwn])

theorem noneHeld_beginRemoval (o : Nat) (tag : Tag) (fpr : Bytes) (hs : NoneHeld s) : NoneHeld (beginRemoval o tag fpr s) := by
  unfold beginRemoval
  extract_lets ms orphans heads s1 s2 s3
  have h1 : NoneHeld s1 := hs.onOwn fun _ => rfl
  have h2 : NoneHeld s2 := .foldl (fun s m hs => hs.of_beyond (by simp [notOwn])) ms h1
  have h3 : NoneHeld s3 := h2.of_beyond (by simp [notOwn, s3])
  exact noneHeld_carryOn h3

theorem noneHeld_keysCommitted (hs : NoneHeld s) : NoneHeld (keysCommitted s) := by
  unfold keysCommitted
  split
  · exact hs
  · extract_lets old s1 s2 s3
    have h1 : NoneHeld s1 := hs.onOwn fun _ => rfl
    split
    · exact noneHeld_beginRemoval _ _ _ (noneHeld_expireSession _ _ h1)
    · exact h1.of_beyond (by simp [notOwn, s3, s2])

theorem noneHeld_eraseStore (e : DebugErase) (hs : NoneHeld s) : NoneHeld (eraseStore e s) :=
  (hs.onOwn (f := fun w => { w with erase := some { e with step := 3 } }) fun _ => rfl).of_beyond (by simp [notOwn, eraseStore])

theorem noneHeld_eraseClear (e : DebugErase) (hs : NoneHeld s) : NoneHeld (eraseClear e s) :=
  (hs.onOwn (f := fun w => { w with erase := some { e with step := 7 } }) fun _ => rfl).of_beyond (by simp [notOwn, eraseClear])

theorem noneHeld_eraseCairn (e : DebugErase) (hs : NoneHeld s) : NoneHeld (eraseCairn e s) := by
  unfold eraseCairn
  extract_lets s1
  have h1 : NoneHeld s1 := hs.of_beyond (by simp [notOwn, s1])
  split
  · exact h1.onOwn fun _ => rfl
  · exact noneHeld_eraseClear e h1

theorem noneHeld_eraseKeys (target : Word32) (hs : NoneHeld s) : NoneHeld (eraseKeys target s) := by
  unfold eraseKeys
  extract_lets root s1 s2
  have hr : NoneHeld root.2 := hs.of_beyond (by simp [notOwn, root])
  have h1 : NoneHeld s1 := hr.onOwn fun _ => rfl
  exact h1.of_beyond (by simp [notOwn, s2])

theorem noneHeld_eraseProgrammed (hs : NoneHeld s) : NoneHeld (eraseProgrammed s) := by
  unfold eraseProgrammed
  split
  · exact hs
  · next e _ =>
    split
    · extract_lets boot s1 s2
      have h2 : NoneHeld s2 := .foldl (fun s o hs => noneHeld_expireSession o 0x05 hs) (List.range 4) (s := s1) hs
      exact noneHeld_eraseStore e (h2.of_beyond (by simp [notOwn]))
    · exact noneHeld_eraseCairn e (noneHeld_eraseKeys _ hs)
    · extract_lets boot s1 us s2 s3
      have h2 : NoneHeld s2 := NoneHeld.onOwn (s := s1) hs fun _ => rfl
      have h3 : NoneHeld s3 := h2.of_beyond (by simp [notOwn, s3])
      split
      · exact h2
      · split
        · exact h3.of_beyond (by simp [notOwn])
        · exact h3
    · exact hs

/-! What the end of a program of the NVM brings about, whether it verified or failed. -/

theorem noneHeld_recordInForce (k : RecordKind) (tag : Option Tag) (hs : NoneHeld s) : NoneHeld (recordInForce k tag s) := by
  unfold recordInForce
  cases k
  case label | select | svn | bootCount | slotA | slotB | wear => exact hs.of_beyond (by simp [notOwn])
  case erase | storeGen => exact noneHeld_eraseProgrammed hs
  case sealCtr => exact hs.onOwn fun _ => rfl
  case keys => exact noneHeld_keysCommitted hs

theorem noneHeld_wearProgrammed (why : WearWhy) (hs : NoneHeld s) : NoneHeld (wearProgrammed why s) := by
  cases why
  case config => exact noneHeld_wearConfigCommitted hs
  case accounts | grant | fence | unfence => exact hs.of_beyond (by simp [notOwn, wearProgrammed])

theorem noneHeld_programmed (o : NvmOp) (hs : NoneHeld s) : NoneHeld (programmed o s) := by
  unfold programmed
  cases o.job
  case recordCopy => exact hs.of_beyond (by simp [notOwn])
  case recordCommit k c => exact noneHeld_recordInForce k o.tag (hs.of_beyond (by simp [notOwn]))
  case modelPage => exact noneHeld_countSeal hs
  case modelLast | headPage | headCommit => exact (noneHeld_countSeal hs).of_beyond (by simp [notOwn])
  case fwLast => exact hs.of_beyond (by simp [notOwn])
  case wearCommit c why => exact noneHeld_wearProgrammed why (hs.of_beyond (by simp [notOwn]))
  case headErase | fwErase | fwPage | freed => exact hs

theorem noneHeld_headFails (n : Nat) (hs : NoneHeld s) : NoneHeld (headFails n s) := by
  unfold headFails
  extract_lets s1 tag s2 s3
  have h3 : NoneHeld s3 := hs.of_beyond (by simp [notOwn, s3, s2, s1])
  split
  · split
    · exact (h3.onOwn (f := fun w => { w with roll := none }) fun _ => rfl).of_beyond (by simp [notOwn])
    · exact h3
  · exact h3

theorem noneHeld_eraseFails (hs : NoneHeld s) : NoneHeld (eraseFails s) := by
  unfold eraseFails
  split
  · exact (hs.onOwn (f := fun w => { w with erase := none }) fun _ => rfl).of_beyond (by simp [notOwn])
  · exact hs

theorem noneHeld_keysFail (hs : NoneHeld s) : NoneHeld (keysFail s) := by
  unfold keysFail
  split
  · exact (hs.onOwn (f := fun w => { w with change := none }) fun _ => rfl).of_beyond (by simp [notOwn])
  · exact hs

theorem noneHeld_recordFails (k : RecordKind) (tag : Option Tag) (hs : NoneHeld s) : NoneHeld (recordFails k tag s) := by
  unfold recordFails
  extract_lets mine s1
  have h1 : NoneHeld s1 := hs.of_beyond (by simp [notOwn, s1])
  cases k
  case keys => exact noneHeld_keysFail h1
  case erase | storeGen => exact noneHeld_eraseFails h1
  case svn | bootCount | sealCtr | wear => exact h1
  case label | slotA | slotB | select => exact h1.of_beyond (by simp [notOwn])

theorem noneHeld_programFailed (o : NvmOp) (hs : NoneHeld s) : NoneHeld (programFailed o s) := by
  unfold programFailed
  cases o.job
  case recordCopy k copy first =>
    cases k
    case wear => exact hs.of_beyond (by simp [notOwn])
    all_goals exact noneHeld_recordFails _ o.tag hs
  case recordCommit k c => exact noneHeld_recordFails k o.tag hs
  case wearCommit | modelPage | modelLast | fwPage | fwLast => exact hs.of_beyond (by simp [notOwn])
  case headPage n | headCommit n => exact noneHeld_headFails n hs
  case headErase | fwErase | freed => exact hs

theorem noneHeld_programEnds (bad us : Nat) (hs : NoneHeld s) : NoneHeld (programEnds bad us s) := by
  unfold programEnds
  split
  · next o _ _ _ =>
    split
    · exact hs
    · extract_lets r s1
      have h1 : NoneHeld s1 := hs.of_beyond (by simp [notOwn, s1, r])
      split
      · exact noneHeld_programmed o h1
      · exact noneHeld_programFailed o h1
  · exact hs

/-- With no command held back there is none to serve. -/
theorem serveHeld_bly (hs : NoneHeld s) : (serveHeld s).bly = s.bly := by
  have hs : s.own.heldCommands = [] := hs
  unfold serveHeld
  rw [hs]
  split <;> rfl

theorem low_execNvmProgramDone (bad us : Nat) (hs : NoneHeld s) (hl : low s.bly.phase) (e : execNvmProgramDone bad us s = .next t) :
    low t.bly.phase := by
  obtain rfl : serveHeld (programEnds bad us s) = t := Host.Outcome.next.inj e
  rw [serveHeld_bly (noneHeld_programEnds bad us hs)]
  exact low_programEnds bad us s hl

/-! ### BELAY_OK after a trip (R18, R333, R335)

A command or event whose frame leaves Belay's part out cannot raise BELAY_OK; each of the others has its own law in Laws/Fallen. -/

/-- Every part but Belay's. -/
def notBelay : List Part := [.clk, .pwr, .thm, .pins, .boot, .nvm, .cairn, .afe, .stm, .feat, .own, .mdl, .lrn, .rope, .free]

/-- The commands that may change Belay's part. -/
def reachesBelay : Instr → Bool
  | .abort .. | .modelLoadBegin .. | .modelLoadAbandon .. | .modelPlace .. | .modelPlaceRidge .. | .modelUnload .. | .modelStart ..
  | .modelStop .. | .modelReplace .. | .headConsolidate .. | .houtMap .. | .belayConfig .. | .belayArm .. | .belayDisarm ..
  | .belayTrip .. | .belayAbortHold .. | .belayRearm .. | .belayDeclareStop .. | .alarmSetMask .. | .alarmSetHost ..
  | .alarmClearHost .. | .alarmAcknowledge .. | .ropeEnumerate .. | .ropeDetach .. | .coreFence .. => true
  | _ => false

/-- The other commands leave Belay's part, taken up or turned away: a command's meaning is `.next` of its operation, whose frame is a
lemma about that operation. -/
theorem leaves_notBelay {c : Instr} (hc : Rows.eventParts c = none) (hr : reachesBelay c = false) (s : State) :
    Leaves notBelay s (exec c s) := by
  cases c <;> cases hc <;> cases hr <;> refine (leaves_next _ _).2 ?_ <;> simp [notBelay]

theorem low_of_phase (hl : low s.bly.phase) (h : t.bly.phase = s.bly.phase) : low t.bly.phase := h ▸ hl

/-- BELAY_ARM is refused from a fallen state; no other command enters ARMED or HOLD from a low one. -/
theorem low_command {c : Instr} (hc : Rows.eventParts c = none) (hf : fallen s.bly.phase) (e : exec c s = .next t) :
    low t.bly.phase := by
  have hl := fallen_low hf
  cases hr : reachesBelay c
  case false => exact low_of_phase hl (congrArg _ (((leaves_notBelay hc hr s).keeps e).2 .bly (by decide)))
  case true =>
    cases c <;> cases hr
    case abort => exact low_execAbort _ _ _ hl _ e
    case modelLoadBegin => exact low_execModelLoadBegin _ _ _ hl _ e
    case modelLoadAbandon => exact low_execModelLoadAbandon _ _ _ hl _ e
    case modelPlace => exact low_execModelPlace _ _ _ hl _ e
    case modelPlaceRidge => exact low_execModelPlaceRidge _ _ _ _ hl _ e
    case modelUnload => exact low_execModelUnload _ _ _ hl _ e
    case modelStart => exact low_execModelStart _ _ _ hl _ e
    case modelStop => exact low_execModelStop _ _ _ hl _ e
    case modelReplace => exact low_execModelReplace _ _ _ hl _ e
    case headConsolidate => exact low_execHeadConsolidate _ _ _ hl _ e
    case houtMap => exact low_execHoutMap _ _ _ hl _ e
    case belayConfig => exact low_execBelayConfig _ _ _ hl _ e
    case belayArm => exact fallen_execBelayArm _ _ _ hf _ e
    case belayDisarm => exact low_execBelayDisarm _ _ _ hl _ e
    case belayTrip => exact low_execBelayTrip _ _ _ hl _ e
    case belayAbortHold => exact low_execBelayAbortHold _ _ _ hl _ e
    case belayRearm => exact low_execBelayRearm _ _ _ hl _ e
    case belayDeclareStop => exact low_execBelayDeclareStop _ _ _ hl _ e
    case alarmSetMask => exact low_execAlarmSetMask _ _ _ hl _ e
    case alarmSetHost => exact low_execAlarmSetHost _ _ _ hl _ e
    case alarmClearHost => exact low_execAlarmClearHost _ _ _ hl _ e
    case alarmAcknowledge => exact low_execAlarmAcknowledge _ _ _ hl _ e
    case ropeEnumerate => exact low_execRopeEnumerate _ _ _ hl _ e
    case ropeDetach => exact low_execRopeDetach _ _ _ hl _ e
    case coreFence => exact low_execCoreFence _ _ _ hl _ e

/-- A push or a relayed command may bring BELAY_ARM, and the rearm timer runs in REARM only: these events need the fallen state. -/
theorem low_event {c : Instr} {parts : List Part} (hc : Rows.eventParts c = some parts) (hf : fallen s.bly.phase)
    (hheld : ∀ bad us, c = .nvmProgramDone bad us → NoneHeld s) (e : exec c s = .next t) : low t.bly.phase := by
  have hl := fallen_low hf
  cases hb : parts.contains .bly
  case false => exact low_of_phase hl (congrArg _ (((leaves_event hc s).keeps e).2 .bly (by simpa using hb)))
  case true =>
    cases c <;> cases hc <;> cases hb
    case push => exact fallen_execPush _ _ _ _ hf _ e
    case qpush => exact fallen_execQpush _ _ _ hf _ e
    case pull => exact low_execPull _ _ _ hl _ e
    case qpull => exact low_execQpull _ _ hl _ e
    case resetReplyTimeout => exact low_execResetReplyTimeout _ hl _ e
    case powerOnReset => exact low_execPowerOnReset _ _ hl _ e
    case brownoutDetect => exact low_execBrownoutDetect _ _ hl _ e
    case powerOff => exact low_execPowerOff _ hl _ e
    case resetPinAssert => exact low_execResetPinAssert _ hl _ e
    case resetTakeEffect => exact low_execResetTakeEffect _ hl _ e
    case watchdogExpiry => exact low_execWatchdogExpiry _ hl _ e
    case controlCoreException => exact low_execControlCoreException _ _ hl _ e
    case firmwareRestartDone => exact low_execFirmwareRestartDone _ hl _ e
    case bootRomStart => exact low_execBootRomStart _ _ _ hl _ e
    case deviceReady => exact low_execDeviceReady _ hl _ e
    case bootGuardExpiry => exact low_execBootGuardExpiry _ hl _ e
    case xo24Qualified => exact low_execXo24Qualified _ _ hl _ e
    case xo24QualifyTimeout => exact low_execXo24QualifyTimeout _ hl _ e
    case xo24Stopped => exact low_execXo24Stopped _ hl _ e
    case pllLocked => exact low_execPllLocked _ _ hl _ e
    case pllLockLoss => exact low_execPllLockLoss _ _ hl _ e
    case wakeComplete => exact low_execWakeComplete _ hl _ e
    case sleepEntryComplete => exact low_execSleepEntryComplete _ _ hl _ e
    case governorSample => exact low_execGovernorSample _ _ _ _ hl _ e
    case anchorTempSample => exact low_execAnchorTempSample _ _ hl _ e
    case domainSwitchDone => exact low_execDomainSwitchDone _ _ _ _ hl _ e
    case tachEdge => exact low_execTachEdge _ _ _ _ _ hl _ e
    case tachIdle => exact low_execTachIdle _ _ hl _ e
    case featureQueueRoute => exact low_of_phase hl (phase_execFeatureQueueRoute _ _ e)
    case layerDispatch => exact low_execLayerDispatch _ hl _ e
    case cimPassDone => exact low_execCimPassDone _ _ _ hl _ e
    case streamLayerDone => exact low_execStreamLayerDone _ hl _ e
    case vectorLayerDone => exact low_execVectorLayerDone _ hl _ e
    case protoForwardDone => exact low_execProtoForwardDone _ hl _ e
    case assetUpdate => exact low_execAssetUpdate _ hl _ e
    case confirmWindowEnd => exact low_execConfirmWindowEnd _ hl _ e
    case coastTimerEnd => exact low_execCoastTimerEnd _ hl _ e
    case stopDwellEnd => exact low_execStopDwellEnd _ hl _ e
    case motionDwellEnd => exact low_execMotionDwellEnd _ hl _ e
    case rearmTimerEnd => exact fallen_execRearmTimerEnd _ hf _ e
    case startGuardEnd => exact low_of_phase hl (phase_execStartGuardEnd _ _ e)
    case learningStep => exact low_execLearningStep _ _ hl _ e
    case arrayWriteDone => exact low_execArrayWriteDone _ _ _ _ _ _ hl _ e
    case recalibration => exact low_execRecalibration _ _ _ _ _ hl _ e
    case quickSelftest => exact low_execQuickSelftest _ _ _ hl _ e
    case fullSelftest => exact low_execFullSelftest _ _ _ _ _ hl _ e
    case clipWindowEnd => exact low_execClipWindowEnd _ _ hl _ e
    case wearHourlyAccrual => exact low_execWearHourlyAccrual _ hl _ e
    case nvmProgramDone => exact low_execNvmProgramDone _ _ (hheld _ _ rfl) hl e
    case nvmEraseDone => exact low_execNvmEraseDone _ _ _ hl _ e
    case train => exact low_execTrain _ _ _ _ _ _ _ hl _ e
    case trainAck => exact low_execTrainAck _ _ _ hl _ e
    case trainingAttemptTimeout => exact low_execTrainingAttemptTimeout _ _ hl _ e
    case squelchSilence => exact low_execSquelchSilence _ _ hl _ e
    case enumStart => exact low_execEnumStart _ hl _ e
    case enum => exact low_execEnum _ _ _ _ _ hl _ e
    case enumEnd => exact low_execEnumEnd _ _ _ _ hl _ e
    case topology => exact low_execTopology _ _ _ _ _ _ _ hl _ e
    case headConflict => exact low_execHeadConflict _ _ hl _ e
    case heartbeatLoss => exact low_execHeartbeatLoss _ hl _ e
    case linkLost => exact low_execLinkLost _ _ _ _ hl _ e
    case join => exact low_execJoin _ _ _ hl _ e
    case detach => exact low_execDetach _ _ hl _ e
    case roundAbort => exact low_of_phase hl (phase_execRoundAbort _ _ _ _ e)
    case act => exact low_execAct _ _ _ _ _ _ _ _ hl _ e
    case cmd => exact fallen_execCmd _ _ _ _ _ _ hf _ e
    case modelVerifyDone => exact low_execModelVerifyDone _ _ hl _ e

end

theorem belayOk_of_low {s : State} (h : low s.bly.phase) : belayOk s = false := by
  simp only [belayOk, low_beq_armed h, low_beq_hold h, Bool.or_self, Bool.and_false]

/-- Settles O56: a command keeps BELAY_OK low by `low_command`, an event by `low_event`. -/
theorem tripKeepsOutputLow : Obligations.TripKeepsOutputLow := by
  intro c s t hf hheld e
  have hl : low t.bly.phase := by
    cases hc : Rows.eventParts c with
    | none => exact low_command hc hf e
    | some parts => exact low_event hc hf hheld e
  exact ⟨hl, belayOk_of_low hl⟩

end Sys2Proof.Machine

/-! PROOFS. The host port: which command a pushed message is, when a command is turned away, what it leaves unchanged, and how packets
come and go (chapter 02). -/

namespace Sys2Proof.Machine

/-! ### The command that a message spells (Tables 2-13 to 2-16) -/

theorem eq_ofNat_of_toNat_eq {op : Byte} {n : Nat} (h : op.toNat = n) : op = BitVec.ofNat 8 n := by
  rw [← h, BitVec.ofNat_toNat, BitVec.setWidth_eq]

section
variable {op : Byte} (hn : notServed op = none) (h : Hdr) (p : Bytes) (s : State)
include hn

theorem command_device (hd : op < 0x20) : command op h p s = device op.toNat h p s := by
  simp only [command, hn, hd, if_true]

theorem command_sensing (hd : ¬ op < 0x20) (hs : op < 0x50) : command op h p s = sensing op.toNat h p s := by
  simp only [command, hn, hd, hs, if_true, if_false]

theorem command_models (hd : ¬ op < 0x20) (hs : ¬ op < 0x50) (hm : op < 0x80) : command op h p s = models op.toNat h p s := by
  simp only [command, hn, hd, hs, hm, if_true, if_false]

theorem command_outputs (hd : ¬ op < 0x20) (hs : ¬ op < 0x50) (hm : ¬ op < 0x80) (ho : op < 0xA0) :
    command op h p s = outputs op.toNat h p s := by
  simp only [command, hn, hd, hs, hm, ho, if_true, if_false]

theorem command_security (hd : ¬ op < 0x20) (hs : ¬ op < 0x50) (hm : ¬ op < 0x80) (ho : ¬ op < 0xA0) :
    command op h p s = security op.toNat h p s := by
  simp only [command, hn, hd, hs, hm, ho, if_false]
end

/-- The row that a message spells has the meaning of the command of its opcode and selector: the opcodes without a selector are
definitionally so, the others by the value of their selector. -/
theorem exec_spelled {op : Byte} {p : Bytes} {c : Hdr → Bytes → Instr} (hc : Rows.spelled op p = some c) (h : Hdr) (s : State) :
    exec (c h p) s = .next (command op h p s) := by
  unfold Rows.spelled at hc
  split at hc
  all_goals first
    | (rename_i hop; obtain rfl := eq_ofNat_of_toNat_eq hop; clear hop)
    | cases hc
  case h_4 | h_21 =>
    split at hc <;> cases hc
    · next hp => rw [hp]; rfl
    · next hp =>
      rw [command_device rfl _ _ _ (by decide)]
      simp only [BitVec.reduceToNat, device, List.isEmpty_eq_false_iff.2 hp]
      rfl
  case h_5 | h_11 | h_14 | h_16 =>
    split at hc <;> cases hc
    all_goals next hsel =>
      rw [command_device rfl _ _ _ (by decide)]
      simp only [BitVec.reduceToNat, device, byFlag, hsel]
      rfl
  case h_27 | h_29 | h_34 | h_37 | h_42 | h_44 | h_51 =>
    split at hc <;> cases hc
    all_goals next hsel =>
      rw [command_sensing rfl _ _ _ (by decide) (by decide)]
      simp only [BitVec.reduceToNat, sensing, byFlag, hsel]
      rfl
  case h_52 | h_54 | h_67 | h_69 | h_73 | h_82 | h_83 =>
    split at hc <;> cases hc
    all_goals next hsel =>
      rw [command_models rfl _ _ _ (by decide) (by decide) (by decide)]
      simp only [BitVec.reduceToNat, models, byFlag, hsel]
      rfl
  case h_91 | h_93 | h_101 =>
    split at hc <;> cases hc
    all_goals next hsel =>
      rw [command_outputs rfl _ _ _ (by decide) (by decide) (by decide) (by decide)]
      simp only [BitVec.reduceToNat, outputs, byFlag, hsel]
      rfl
  case h_118 | h_123 | h_124 =>
    split at hc <;> cases hc
    all_goals next hsel =>
      rw [command_security rfl _ _ _ (by decide) (by decide) (by decide) (by decide)]
      simp only [BitVec.reduceToNat, security, byFlag, hsel]
      rfl
  all_goals
    cases hc
    rfl

/-- Every row that a message spells is one that `serve` takes, with a form of the message's opcode. -/
theorem serves_spelled {op : Byte} {p : Bytes} {c : Hdr → Bytes → Instr} (hc : Rows.spelled op p = some c) (h : Hdr) :
    ∃ (f : Form) (body : State → State), f.opcode = op ∧ ∀ s, exec (c h p) s = .next (serve f h p body s) := by
  unfold Rows.spelled at hc
  split at hc
  all_goals first
    | (rename_i hop; obtain rfl := eq_ofNat_of_toNat_eq hop; clear hop)
    | cases hc
  all_goals first
    | (split at hc <;> cases hc)
    | cases hc
  all_goals exact ⟨_, _, rfl, fun _ => rfl⟩

/-! ### A message whole comes to check 10 -/

/-- The state in which a message has come whole: its command is in flight and goes to check 10. -/
def comeWhole (op : Byte) (h : Hdr) (s : State) : State :=
  onSlot h.tag (fun c => { c with ready := true, fragments := 0, parts := [] }) (entered op h s)

/-- A change of a free tag's reply slot finds the slot of the command that has just been taken up, and no other. -/
theorem onSlot_entered {op : Byte} {h : Hdr} {s : State} (hf : s.slot? h.tag = none) (f : Slot → Slot) :
    onSlot h.tag f (entered op h s) = (entered op h s).mapLink fun l => { l with slots := s.link.slots ++ [f (newSlot op h s)] } := by
  have hm := map_slots_none h.tag f s.link.slots hf
  simp only [onSlot, State.mapLink, entered_slots, List.map_append, beq_iff_eq, hm]
  simp [newSlot]

theorem slot?_comeWhole {op : Byte} {h : Hdr} {s : State} (hf : s.slot? h.tag = none) :
    (comeWhole op h s).slot? h.tag = some { newSlot op h s with ready := true } := by
  unfold comeWhole
  rw [onSlot_entered hf]
  exact (List.find?_append ..).trans (by rw [show List.find? _ _ = none from hf]; simp [newSlot])

theorem onSlot_comeWhole {op : Byte} {h : Hdr} {s : State} (hf : s.slot? h.tag = none) :
    onSlot h.tag (fun c => { c with ready := false }) (comeWhole op h s) = entered op h s := by
  have hm := map_slots_none h.tag (fun c => { c with ready := false }) s.link.slots hf
  unfold comeWhole
  rw [onSlot_entered hf]
  simp only [onSlot, State.mapLink, List.map_append, beq_iff_eq, hm]
  simp [newSlot, entered]

/-- A message that has come whole is judged as its row is when it is taken up. -/
theorem serve_comeWhole {f : Form} {h : Hdr} (p : Bytes) (body : State → State) {s : State} (ht : Taken h s) :
    serve f h p body (comeWhole f.opcode h s) = serve f h p body s := by
  obtain ⟨-, -, hf, he, -⟩ := id ht
  rw [serve_judged f h p body s ht]
  unfold serve
  have he' : (entered f.opcode h s).own.erase.any (fun e => e.step != 1) = false := he
  simp only [slot?_comeWhole hf, onSlot_comeWhole hf, Option.any_some, if_true, pass, he']
  rfl

theorem taken_pushed {h : Hdr} {s : State} : Taken h (Rows.pushed s) ↔ Taken h s := Iff.rfl

/-- What the host port has noticed of a packet before its command is taken up: the transport that it is bound to. -/
def heard (h : Hdr) (s : State) : State := s.mapLink fun l => { l with bound := if hostTag h.tag then some h.via else l.bound }

/-- The host's packet binds the port; with no automatic sleep entry to abandon it does nothing else. -/
theorem bindPort_eq_heard {h : Hdr} {s : State} (hh : hostTag h.tag = true) (he : s.pwr.entry.any (·.automatic) = false) :
    bindPort h.via s = heard h s := by
  simp only [heard, hh, if_true]
  exact if_neg (ne_true_of_eq_false he)

theorem beginMessage_taken (op : Byte) {h : Hdr} (p : Bytes) {s : State} (ht : Taken h s) :
    beginMessage op false h p (heard h s) = runWhole op h p (entered op h s) := by
  simp only [beginMessage, heard, authenticate_taken op h s ht, Bool.not_true, Bool.not_false, Bool.false_eq_true, if_false, if_true]

theorem hostTag_headerOf (via : Transport) (b : Bytes) (s : State) : hostTag (Rows.headerOf via b s).tag = true := by
  simp only [Rows.headerOf, openPacket, hostTag, decide_eq_true_eq, BitVec.toNat_ofNat]
  omega

/-- A packet that passes checks 1 to 4 on a free tag begins a message. -/
theorem admitPacket_free {reject : Notice → State → State} {via : Transport} {b : Bytes} {s t : State} (hc : failedCheck b = 0)
    (hb : bindPort via s = t) (hf : t.slot? (openPacket via 0 b t).1.tag = none) :
    admitPacket reject via 0 b s
      = beginMessage (b.getD 4 0) (bit (fld b 1 1) 4) (openPacket via 0 b t).1 (openPacket via 0 b t).2 t := by
  simp only [admitPacket, hc, beq_self_eq_true, if_true, hb, hf]

/-- A push of a message whole puts its tag in flight and judges it (R25, R31). -/
theorem pushPacket_whole {via : Transport} {held : Nat} {b : Bytes} {s : State} (hw : Rows.Whole via held b s) :
    pushPacket via held b s = runWhole (b.getD 4 0) (Rows.headerOf via b s) (Rows.payloadOf via b s)
      (entered (b.getD 4 0) (Rows.headerOf via b s) (Rows.pushed s)) := by
  obtain ⟨hh, hsize, hcheck, hmore, ht⟩ := hw
  have hhost := hostTag_headerOf via b s
  obtain ⟨hv, hclosed, hfree, -⟩ := id ht
  have hauto := (hv hhost).2
  have hroom : ¬ 16384 - min held 16384 < pushSize via b := by omega
  calc pushPacket via held b s
      = admitPacket notice via 0 b (Rows.pushed s) := by
        simp only [pushPacket, hh, hauto, hclosed, hroom, Bool.not_true, Bool.false_eq_true, if_false]
        rfl
    _ = beginMessage (b.getD 4 0) false (Rows.headerOf via b s) (Rows.payloadOf via b s)
          (heard (Rows.headerOf via b s) (Rows.pushed s)) := by
        rw [← hmore]
        exact admitPacket_free hcheck (bindPort_eq_heard hhost hauto) hfree
    _ = _ := beginMessage_taken _ _ (taken_pushed.2 ht)

/-- Settles O57: a message whole comes to check 10 as its row does, and the message's command is its row's (`exec_spelled`). -/
theorem pushRunsItsRow : Obligations.PushRunsItsRow := by
  intro via held b s hw h p
  obtain ⟨-, -, -, -, ht⟩ := id hw
  replace ht : Taken h (Rows.pushed s) := taken_pushed.2 ht
  have hpush : exec (.push via held b) s = .next (command (b.getD 4 0) h p (comeWhole (b.getD 4 0) h (Rows.pushed s))) :=
    congrArg Host.Outcome.next (pushPacket_whole hw)
  refine ⟨fun c hc => ?_, fun hop hsel => ?_⟩
  · obtain ⟨f, body, hf, hserve⟩ := serves_spelled hc h
    rw [hpush, ← exec_spelled hc, hserve, hserve, ← hf, serve_comeWhole p body ht]
  · have hmodels (t : State) : command 0x52 h p t = cmdModelPlaceRidge h p (Config.ridgeAnswer t.free) { t with free := t.free + 1 } := by
      rw [command_models rfl _ _ _ (by decide) (by decide) (by decide)]
      simp only [BitVec.reduceToNat, models, hsel]
    rw [hpush, hop, hmodels]
    exact congrArg Host.Outcome.next (serve_comeWhole (s := { Rows.pushed s with free := s.free + 1 }) p _ ht)

/-! ### Commands turned away (checks 5 to 8 of Table 2-8, R46) -/

/-- The row's command is one that `serve` takes: a form with the row's opcode and rights, and a body. -/
def CommandRow.Serves (r : CommandRow) : Prop :=
  ∃ (f : Hdr → Form) (body : Hdr → Bytes → State → State), ∀ h p,
    (f h).opcode = r.opcode ∧ (∀ s, (f h).rights (entered r.opcode h s) p = r.rights h p s)
      ∧ ∀ s, exec (r.command h p) s = .next (serve (f h) h p (body h p) s)

open Rows in
theorem serves_commandRows : ∀ r ∈ commandRows, r.Serves := by
  simp only [commandRows, portRows, anchorRows, firmwareRows, ownerRows, frontEndRows, streamRows, featureRows, modelRows, managerRows,
    headRows, belayRows, ropeRows, recordRows, coreRows, List.forall_mem_append, List.forall_mem_cons]
  and_intros
  all_goals first
    | exact List.forall_mem_nil _
    | exact ⟨_, _, fun h p => ⟨rfl, fun _ => rfl, fun _ => rfl⟩⟩

theorem unprovisioned_allows {h : Hdr} {s : State} (o : Option (BitVec 2)) (hu : unprovisioned s = true) (hs : h.secure = false) :
    Rights.anyone.allow h s = true ∧ Rights.site.allow h s = true ∧ Rights.anyOwner.allow h s = true
      ∧ (Rights.bound o).allow h s = false := by
  simp [Rights.allow, hu, hs]

/-- Settles O38: each command of the rows is one that `serve` takes with the rights of its row, and `serve_denied` says what becomes of it. -/
theorem rightsRefused : Obligations.RightsRefused := by
  refine ⟨fun r hr h p s ht hd => ?_, fun h s o hu hs => unprovisioned_allows o hu hs⟩
  obtain ⟨f, body, hf⟩ := serves_commandRows r hr
  obtain ⟨hop, hrights, hserve⟩ := hf h p
  rw [hserve, serve_denied (f h) h p _ s ht (by rw [hop, hrights, hd]), hop]

/-- A command that the port takes notice of and whose tag has no whole message waiting: check 5, then checks 6 to 8. -/
theorem serve_heard (f : Form) {h : Hdr} (p : Bytes) (body : State → State) {s : State}
    (hv : hostTag h.tag = true → hears h.via s = true ∧ s.pwr.entry.any (·.automatic) = false) (hc : s.link.closed = false)
    (hr : (s.slot? h.tag).any (·.ready) = false) :
    serve f h p body s =
      if (s.slot? h.tag).isSome then
        notice { opcode := f.opcode, tag := h.tag, status := stTagBusy, seq := h.seq } ((heard h s).mapLink fun l =>
          { l with counters := { l.counters with tagBusyRejects := satInc l.counters.tagBusyRejects } })
      else
        if (authenticate f.opcode h (reserve f.opcode h (heard h s))).2 then
          pass f h p body (authenticate f.opcode h (reserve f.opcode h (heard h s))).1
        else (authenticate f.opcode h (reserve f.opcode h (heard h s))).1 := by
  have hrelayed : decide (64 ≤ h.tag.toNat) = !hostTag h.tag := by simp [hostTag_eq]
  have hbind : (if (!hostTag h.tag) = true then s else bindPort h.via s) = heard h s := by
    cases hh : hostTag h.tag with
    | true => exact bindPort_eq_heard hh (hv hh).2
    | false => simp [heard, hh, State.mapLink]
  have hheard : (!!hostTag h.tag && !hears h.via s) = false := by
    cases hh : hostTag h.tag with
    | true => simp [hv hh]
    | false => rfl
  unfold serve
  simp only [hr, hc, hrelayed, hheard, hbind, Bool.false_eq_true, if_false]
  rfl

section
variable {op : Byte} {h : Hdr} {s : State}

theorem authenticate_booting (hr : s.boot.phase ≠ .ready) (hf : s.boot.phase ≠ .failed) :
    authenticate op h s = (refusePlain h.tag stBooting s, false) := by
  simp [authenticate, hr, hf]

theorem authenticate_failed (hf : s.boot.phase = .failed) (hn : h.secure = true ∨ op ∉ failedServes) :
    authenticate op h s = (refusePlain h.tag stImage s, false) := by
  have hserves : (!h.secure && failedServes.contains op) = false := by
    rcases hn with hs | ho
    · simp [hs]
    · simp [ho]
  simp only [authenticate, hf, hserves, beq_self_eq_true, if_true, Bool.false_eq_true, if_false]

theorem authenticate_expired (hr : s.boot.phase = .ready) (hs : h.secure = true) (hl : (s.session h.owner).phase ≠ .live) :
    authenticate op h s = (refusePlain h.tag stExpired s, false) := by
  simp [authenticate, hr, hs, hl]

theorem authenticate_unverified (hr : s.boot.phase = .ready) (hs : h.secure = true) (hl : (s.session h.owner).phase = .live)
    (ha : h.authentic = false ∨ h.seq ≠ BitVec.ofNat 8 (s.session h.owner).rx) :
    authenticate op h s = (refusePlain h.tag stAuth (s.mapLink fun l =>
      { l with counters := { l.counters with authRejects := satInc l.counters.authRejects } }), false) := by
  have hverified : (h.authentic && h.seq == BitVec.ofNat 8 (s.session h.owner).rx) = false := by
    rcases ha with ha | ha <;> simp [ha]
  simp [authenticate, hr, hs, hl, hverified]
end

/-- Settles O47: each command of the rows is one that `serve` takes, and check 5 (`serve_heard`) or one of checks 6 to 8 turns it away. -/
theorem turnedAway : Obligations.TurnedAway := by
  intro r hr h p s hv hc heard' begun
  obtain ⟨f, body, hf⟩ := serves_commandRows r hr
  obtain ⟨hop, -, hserve⟩ := hf h p
  refine ⟨fun c hs hready => ?_, fun hs => ?_⟩
  · rw [hserve, serve_heard _ _ _ hv hc (by simp [hs, hready]), hs, hop]
    rfl
  · have away {t : State} (ha : authenticate r.opcode h begun = (t, false)) : exec (r.command h p) s = .next t := by
      rw [hserve, serve_heard _ _ _ hv hc (by simp [hs]), hs, hop, show reserve r.opcode h (heard h s) = begun from rfl, ha]
      rfl
    exact ⟨fun hr hf => away (authenticate_booting hr hf), fun hf hn => away (authenticate_failed hf hn),
      fun hr hs hl => away (authenticate_expired hr hs hl), fun hr hs hl ha => away (authenticate_unverified hr hs hl ha)⟩

/-! ### The rights of ABORT (R52, R53) -/

/-- The tag of an ABORT's target, in the ABORT's own tag space. -/
abbrev abortTarget (h : Hdr) (p : Bytes) : Tag := BitVec.ofNat 13 (h.tag.toNat / 64 * 64 + fld p 0 1)

theorem slot?_commitMark_ne {tag target : Tag} (hne : target ≠ tag) (s : State) : (commitMark tag s).slot? target = s.slot? target := by
  simp only [commitMark, onSlot, State.slot?, State.mapLink]
  induction s.link.slots with
  | nil => rfl
  | cons c l ih =>
    rw [List.map_cons, List.find?_cons, List.find?_cons, ih]
    by_cases hc : c.tag = tag
    · simp [hc, beq_eq_false_iff_ne.2 hne.symm]
    · simp [hc]

theorem slot?_entered_of_some {op : Byte} {h : Hdr} {s : State} {target : Tag} {c : Slot} (hc : s.slot? target = some c) :
    (entered op h s).slot? target = some c := by
  exact (List.find?_append ..).trans (by rw [show List.find? _ _ = some c from hc]; rfl)

/-- Taking a command up advances the counter of its session and leaves the rest of it. -/
theorem session_entered (op : Byte) (h : Hdr) (s : State) : ((entered op h s).session h.owner) =
    if h.secure then { s.session h.owner with rx := (s.session h.owner).rx + 1 } else s.session h.owner := by
  cases hs : h.secure with
  | true => simp only [entered, hs, if_true]; exact rd_wr_self _ _ _ h.owner.isLt
  | false => simp only [entered, hs, Bool.false_eq_true, if_false]; rfl

/-- The ABORT has the rights under which its target was issued (R53). -/
abbrev SameRights (h : Hdr) (c : Slot) (s : State) : Prop :=
  c.secure = h.secure ∧ (h.secure = true → c.owner = h.owner ∧ c.named = (s.session h.owner).id)

/-- An ABORT taken up is judged on its target, another command in flight. -/
theorem cmdAbort_taken {h : Hdr} {p : Bytes} {s : State} {c : Slot} (ht : Taken h s) (hp : p.length = 1) (hk : fld p 0 1 < 64)
    (hc : s.slot? (abortTarget h p) = some c) (hne : abortTarget h p ≠ h.tag) :
    cmdAbort h p s =
      if ¬ SameRights h c s then finish h.tag stNotOwner [] (commitMark h.tag (entered 0x0E h s))
      else if c.committed = true ∨ c.replied = true ∨ c.opcode = 0x0E then
        finish h.tag stTooLate [] (commitMark h.tag (entered 0x0E h s))
      else finish h.tag 0x00 [] (stopCommand (abortTarget h p) stAborted [] (commitMark h.tag (entered 0x0E h s))) := by
  have hid : ((commitMark h.tag (entered 0x0E h s)).session h.owner).id = (s.session h.owner).id := by
    refine (congrArg Session.id (session_entered 0x0E h s)).trans ?_
    split <;> rfl
  have htarget : (commitMark h.tag (entered 0x0E h s)).slot? (abortTarget h p) = some c := by
    rw [slot?_commitMark_ne hne, slot?_entered_of_some hc]
  refine (serve_taken _ h p _ s ht rfl (by simp [hp]) (by simpa using Nat.div_eq_of_lt hk)).trans ?_
  simp only [htarget, hid, beq_eq_false_iff_ne.2 hne, Bool.false_eq_true, if_false]
  simp only [SameRights, not_and_or, Bool.or_eq_true, Bool.and_eq_true, bne_iff_ne, beq_iff_eq, Classical.not_imp, or_assoc]

/-- Settles O40: an ABORT is judged on its target (`cmdAbort_taken`). -/
theorem abortRights : Obligations.AbortRights := by
  intro h p s c ht hp hk hc hne
  have habort := cmdAbort_taken ht hp hk hc hne
  refine ⟨fun hr => congrArg Host.Outcome.next (habort.trans (if_pos hr)), fun hr hl => congrArg Host.Outcome.next ?_⟩
  rw [habort, if_neg (not_not_intro hr), if_pos (hl.imp_right .inl)]

/-! ### What a command leaves unchanged -/

/-- A command taken up stays within the parts that its meaning stays within. -/
theorem CommandRow.within_of_leaves {r : CommandRow} {P : List Part}
    (hr : ∀ {h p s}, TakenOr P h s → Leaves P s (exec (r.command h p) s)) : r.Within P :=
  fun _ _ _ ht => hr (.inl ht)

open Rows in
/-- Each row's case is the frame of its command's operation, `beyond_cmdNop` and its like. -/
theorem within_commandParts : ∀ x ∈ commandParts, x.1.Within x.2 := by
  simp only [commandParts, portParts, anchorParts, firmwareParts, ownerParts, frontEndParts, streamParts, featureParts, modelParts,
    managerParts, headParts, belayParts, ropeParts, recordParts, coreParts, List.forall_mem_append, List.forall_mem_cons]
  and_intros
  all_goals first
    | exact List.forall_mem_nil _
    | refine CommandRow.within_of_leaves fun ht => (leaves_next _ _).2 ?_
  all_goals simp [ht]

/-- Settles O50: the rows with few parts among those of `within_commandParts`. -/
theorem commandFrames : Obligations.CommandFrames := by
  intro x hx _ h p s t ht he
  exact (within_commandParts x hx h p s ht).keeps he

/-! ### The commands of the host port complete -/

theorem completes_nop : Rows.nop.Completes := by
  rintro h p s ⟨ht, hr, hl⟩
  exact serve_row ht hr (by simpa using hl) rfl rfl

theorem completes_devInfo : Rows.devInfo.Completes := by
  rintro h p s ⟨ht, hr, rfl⟩
  exact serve_row ht hr rfl rfl rfl

theorem completes_devStatus : Rows.devStatus.Completes := by
  rintro h p s ⟨ht, hr, rfl⟩
  exact serve_row ht hr rfl rfl rfl

theorem completes_linkConfigRead : Rows.linkConfigRead.Completes := by
  rintro h p s ⟨ht, hr, rfl⟩
  exact serve_row ht hr rfl rfl rfl

/-- A field of one byte is that byte. -/
theorem fld_one (p : Bytes) (i : Nat) : fld p i 1 = (p.getD i 0).toNat := by
  unfold fld
  rw [List.getD_eq_getElem?_getD, ← List.head?_drop]
  cases p.drop i <;> simp [leNat]

/-- In four bytes whose bits 9 to 31 are zero the second byte is 0 or 1. -/
theorem second_byte_of_bits {p : Bytes} (hl : p.length = 4) (hz : bits (fld p 0 4) 9 23 = 0) : p.getD 1 0 = 0 ∨ p.getD 1 0 = 1 := by
  obtain ⟨a, b, c, d, rfl⟩ := List.length_eq_four.1 hl
  have hb : b.toNat < 2 := by
    simp only [bits, fld, List.drop_zero, List.take_succ_cons, List.take_zero, leNat] at hz
    omega
  have : b = 0 ∨ b = 1 := by bv_omega
  simpa using this

theorem completes_linkConfigWrite : Rows.linkConfigWrite.Completes := by
  rintro h p s ⟨ht, hr, hl, hz⟩
  refine serve_row ht hr (by simp [hl]) (by simpa using hz) ?_
  have hmask : BitVec.ofNat 8 (fld p 0 1) = p.getD 0 0 := by rw [fld_one, BitVec.ofNat_toNat, BitVec.setWidth_eq]
  have hflag : bit (fld p 1 1) 0 = (fld p 1 1 == 1) ∧ (if fld p 1 1 == 1 then 1 else 0) = p.getD 1 0 := by
    rcases second_byte_of_bits hl hz with hb | hb <;> rw [fld_one, hb] <;> decide
  simp only [linkConfigBytes, State.mapLink, hmask, hflag]

theorem completes_linkCounters : Rows.linkCounters.Completes := by
  rintro h p s ⟨ht, hr, hl, hc⟩
  exact serve_row ht hr (by simp [hl]) (by simpa using Nat.div_eq_of_lt hc) rfl

theorem completes_linkCountersClear : Rows.linkCountersClear.Completes := by
  rintro h p s ⟨ht, hr, hl, hc⟩
  exact serve_row ht hr (by simp [hl]) (by simpa using Nat.div_eq_of_lt hc) rfl

theorem inFlight_entered_plain {h : Hdr} (hs : h.secure = false) (op : Byte) (s : State) (id : Word32) :
    inFlight (entered op h s) id = inFlight s id := by
  simp [inFlight, entered_slots, newSlot, hs]

theorem inFlight_entered_secure {h : Hdr} (hs : h.secure = true) (op : Byte) (s : State) :
    inFlight (entered op h s) (s.session h.owner).id = inFlight s (s.session h.owner).id + 1 := by
  simp [inFlight, entered_slots, newSlot, hs]

theorem sessions_entered_plain {h : Hdr} (hs : h.secure = false) (op : Byte) (s : State) :
    (entered op h s).link.sessions = s.link.sessions := by
  simp [entered, hs]

theorem completes_sessionOpen : Rows.sessionOpen.Completes := by
  rintro h p s ⟨ht, hr, hl, hz, hs, ho, hprov, htime, hbusy, htrng⟩
  refine serve_row ht hr (by simp [hl]) (by simp [zeros, hz]) ?_
  have htimeout : timeoutOf p = if fld p 2 2 = 0 then 300 else fld p 2 2 := by simp [timeoutOf]
  have hrange : (decide (timeoutOf p < 10) || decide (3600 < timeoutOf p)) = false := by
    rw [htimeout]
    split
    · rfl
    · simp; omega
  cases hcurve : onCurve (slice p 4 64) with
  | false =>
    have hslot : decide (3 < fld p 0 1) = false := decide_eq_false (by omega)
    simp only [refuseIf, hs, hslot, entered_ownerSlot, hprov, hcurve, Bool.or_self, Bool.not_true, Bool.not_false, Bool.or_true]
    rfl
  | true =>
    refine (refuseIf_clear _ _ _ _ ?_).trans ?_
    · have hrest : fld p 0 1 ≤ 3 ∧ ((rd s.link.sessions (fld p 0 1)).phase ≠ .none →
          inFlight s (rd s.link.sessions (fld p 0 1)).id = 0) := ⟨by omega, hbusy⟩
      simpa [hs, hprov, hrange, hcurve, htrng, sessions_entered_plain hs, inFlight_entered_plain hs] using hrest
    · simp only [Rows.opened, ← htimeout, hcurve, if_true]

theorem completes_sessionClose : Rows.sessionClose.Completes := by
  rintro h p s ⟨ht, hr, rfl, hs, hf⟩
  refine serve_row ht hr rfl rfl ?_
  have hid : ((entered 0x06 h s).session h.owner).id = (s.session h.owner).id := by simp [session_entered, hs]
  exact if_neg (by rw [hid, inFlight_entered_secure hs, hf]; simp)

theorem completes_sessionStatus : Rows.sessionStatus.Completes := by
  rintro h p s ⟨ht, hr, rfl⟩
  exact serve_row ht hr rfl rfl rfl

theorem completes_devLabelSet : Rows.devLabelSet.Completes := by
  rintro h p s ⟨ht, hr, hl⟩
  exact serve_row ht hr (by simpa using hl) rfl rfl

theorem completes_devLabelGet : Rows.devLabelGet.Completes := by
  rintro h p s ⟨ht, hr, rfl, hw⟩
  refine serve_row ht hr rfl rfl ((if_neg (ne_true_of_eq_false hw)).trans ?_)
  simp only [List.isEmpty_iff, Bool.and_eq_true, Bool.not_eq_eq_eq_not, Bool.not_true]

theorem completes_devLabelGetWaits : Rows.devLabelGetWaits.Completes := by
  rintro h p s ⟨ht, hr, rfl, hw⟩
  exact serve_row ht hr rfl rfl (if_pos hw)

theorem completes_reset {command : Hdr → Bytes → Instr} {cause : Byte}
    (hc : ∀ h p s, exec (command h p) s = .next (cmdReset cause h p s)) : (Rows.reset command cause).Completes := by
  rintro h p s ⟨ht, hr, hl⟩
  refine (hc h p s).trans (serve_row ht hr (by simpa using hl) rfl ?_)
  by_cases hn : s.boot.scheduled = none
  · simp [onBoot, hn]
  · simp [Option.isSome_iff_ne_none.2 hn, hn]
    rfl

theorem completes_abort : Rows.abort.Completes := by
  rintro h p s ⟨ht, hr, hl, hk, c, hc, hs, ho, hcm, hrep, hop⟩
  have hne : abortTarget h p ≠ h.tag := by
    obtain ⟨-, -, hfree, -⟩ := ht
    intro he
    rw [← he] at hfree
    exact absurd (hfree.symm.trans hc) nofun
  refine congrArg Host.Outcome.next ((cmdAbort_taken ht hl hk hc hne).trans ?_)
  rw [if_neg (not_not_intro ⟨hs, ho⟩), if_neg (by simpa [hcm, hrep] using hop)]

theorem completes_resetWarm : Rows.resetWarm.Completes := completes_reset fun _ _ _ => rfl

theorem completes_resetFull : Rows.resetFull.Completes := completes_reset fun _ _ _ => rfl

/-- Settles O5: row by row. -/
theorem portCommandsComplete : Obligations.PortCommandsComplete := by
  simp only [Obligations.PortCommandsComplete, Rows.portRows, List.forall_mem_cons]
  exact ⟨completes_nop, completes_devInfo, completes_devStatus, completes_linkConfigRead, completes_linkConfigWrite,
    completes_linkCounters, completes_linkCountersClear, completes_sessionOpen, completes_sessionClose, completes_sessionStatus,
    completes_devLabelSet, completes_devLabelGet, completes_devLabelGetWaits, completes_resetWarm, completes_resetFull, completes_abort,
    List.forall_mem_nil _⟩

/-! ### Packets pushed and pulled -/

/-- A push that the port hears: the packet is larger than the room that is left, or it comes to its checks (R26). -/
theorem pushPacket_heard {via : Transport} {s : State} (hh : hears via s = true) (held : Nat) (b : Bytes) :
    pushPacket via held b s =
      if Rows.room held (Rows.attended s) < pushSize via b then
        overrun ((Rows.attended s).mapLink fun l => { l with rxHeld := min held 16384 })
      else admitPacket notice via 0 b (Rows.pushed (Rows.attended s)) := by
  simp only [pushPacket, hh, Bool.not_true, Bool.false_eq_true, if_false]
  rfl

theorem failedCheck_noSync {b : Bytes} (hb : b.head? ≠ some 0xA5) : failedCheck b = 1 := by
  exact if_pos (bne_iff_ne.2 hb)

theorem pullPacket_nothing {via : Transport} {s : State} (hh : hears via s = true) (hw : Rows.waitingOut s = []) (clocked : Nat) :
    pullPacket via clocked s = s.mapLink fun l => { l with out := [], driven := List.replicate clocked 0 } := by
  simp only [Rows.waitingOut] at hw
  simp only [pullPacket, hh, Bool.not_true, Bool.false_eq_true, if_false, State.mapLink, hw]

/-- The oldest packet leaves where the host clocks all of it; otherwise it stays the oldest (R27). -/
theorem pullPacket_oldest {via : Transport} {s : State} (hh : hears via s = true) (hw : Rows.waitingOut s ≠ []) (clocked : Nat) :
    pullPacket via clocked s =
      if clocked < (Rows.oldest s).1.length then
        s.mapLink fun l => { l with out := Rows.waitingOut s, driven := (Rows.oldest s).1.take clocked }
      else (Rows.oldest s).2.mapLink fun l => { l with driven := fixed clocked (Rows.oldest s).1 } := by
  cases ho : Rows.waitingOut s with
  | nil => exact absurd ho hw
  | cons o rest =>
    have hd : s.link.out.dropWhile (stale s) = o :: rest := ho
    simp only [pullPacket, Rows.oldest, ho, hh, Bool.not_true, Bool.false_eq_true, if_false, State.mapLink, hd]

theorem completes_push (via : Transport) (held : Nat) (b : Bytes) : (Rows.push via held b).Completes :=
  fun _ hw => congrArg Host.Outcome.next (pushPacket_whole hw)

theorem completes_qpush (held : Nat) (b : Bytes) : (Rows.qpush held b).Completes :=
  fun _ hw => congrArg Host.Outcome.next (pushPacket_whole hw)

theorem completes_pushOverrun (via : Transport) (held : Nat) (b : Bytes) : (Rows.pushOverrun via held b).Completes :=
  fun _ ⟨hh, hroom⟩ => congrArg Host.Outcome.next ((pushPacket_heard hh held b).trans (if_pos hroom))

theorem completes_pushNoSync (via : Transport) (held : Nat) (b : Bytes) : (Rows.pushNoSync via held b).Completes := by
  rintro s ⟨hh, hroom, hb⟩
  refine congrArg Host.Outcome.next ((pushPacket_heard hh held b).trans ((if_neg (Nat.not_lt.2 hroom)).trans ?_))
  simp only [admitPacket, failedCheck_noSync hb]
  rfl

theorem completes_pull (via : Transport) (clocked : Nat) : (Rows.pull via clocked).Completes :=
  fun _ ⟨hh, hw, hall⟩ => congrArg Host.Outcome.next ((pullPacket_oldest hh hw clocked).trans (if_neg (Nat.not_lt.2 hall)))

theorem completes_qpull (clocked : Nat) : (Rows.qpull clocked).Completes :=
  fun _ ⟨hh, hw, hall⟩ => congrArg Host.Outcome.next ((pullPacket_oldest hh hw clocked).trans (if_neg (Nat.not_lt.2 hall)))

theorem completes_pullShort (via : Transport) (clocked : Nat) : (Rows.pullShort via clocked).Completes :=
  fun _ ⟨hh, hw, hshort⟩ => congrArg Host.Outcome.next ((pullPacket_oldest hh hw clocked).trans (if_pos hshort))

theorem completes_pullNothing (via : Transport) (clocked : Nat) : (Rows.pullNothing via clocked).Completes :=
  fun _ ⟨hh, hw⟩ => congrArg Host.Outcome.next (pullPacket_nothing hh hw clocked)

theorem execClearStatus_heard {via : Transport} {s : State} (hh : hears via s = true) (mask : Byte) :
    execClearStatus via mask s = .next ((Rows.clearStatus via mask).effect s) := by
  simp only [execClearStatus, hh]
  rfl

theorem completes_clearStatus (via : Transport) (mask : Byte) : (Rows.clearStatus via mask).Completes :=
  fun _ hh => execClearStatus_heard hh mask

theorem completes_invalidTransportOpcode (op : Byte) : (Rows.invalidTransportOpcode op).Completes := by
  rintro s ⟨hh, hop⟩
  have hstatus : (op == 0x05) = false := beq_eq_false_iff_ne.2 fun h => hop (by simp [h])
  have hmoves : transportOpcodes.contains op = false := by simpa [transportOpcodes] using hop
  show execInvalidTransportOpcode .spi op s = _
  simp only [execInvalidTransportOpcode, hh, hstatus, hmoves]
  rfl

theorem completes_linkStatusRead (via : Transport) : (Rows.linkStatusRead via).Completes := by
  intro s hh
  show execInvalidTransportOpcode via 0x05 s = _
  simp only [execInvalidTransportOpcode, show hears via s = true from hh]
  cases via <;> rfl

theorem completes_fragmentTimeout (tag : Tag) : (Rows.fragmentTimeout tag).Completes := by
  intro s hr
  cases hc : s.slot? tag with
  | none => simp [hc] at hr
  | some c =>
    have hopen : (c.fragments == 0 || c.replied) = false := by simpa [hc] using hr
    show execFragmentTimeout tag s = _
    simp only [execFragmentTimeout, hc, hopen]
    rfl

theorem completes_sessionIdleTimeout (slot : BitVec 2) : (Rows.sessionIdleTimeout slot).Completes := by
  rintro s ⟨hl, hf, hon⟩
  show execSessionIdleTimeout slot s = _
  simp only [execSessionIdleTimeout, hl, hf, hon]
  rfl

/-- Settles O19: row by row; a whole message by `pushPacket_whole`, the other pushes and the pulls by what `pushPacket_heard` and
`pullPacket_oldest` say of each. -/
theorem portEventsComplete : Obligations.PortEventsComplete :=
  ⟨completes_push, completes_qpush, completes_pushOverrun, completes_pushNoSync, completes_pull, completes_qpull, completes_pullShort,
    completes_pullNothing, completes_clearStatus, completes_invalidTransportOpcode, completes_linkStatusRead, completes_fragmentTimeout,
    completes_sessionIdleTimeout⟩

/-- Settles O35: it is the first case of `pushPacket_heard`, for a QPI push as for the others. -/
theorem receiveOverrun : Obligations.ReceiveOverrun := by
  intro via held b s hh u hroom t
  have hpush : pushPacket via held b s = t := (pushPacket_heard hh held b).trans (if_pos hroom)
  refine ⟨congrArg Host.Outcome.next hpush, fun hv => ?_, rfl⟩
  subst hv
  exact congrArg Host.Outcome.next hpush

/-! ### IRQ_N and IRQ_CAUSE (R29) -/

theorem testBit_flags (l : List Bool) (i : Nat) : (flags l).testBit i = l.getD i false := by
  induction l generalizing i with
  | nil => simp [flags]
  | cons b l ih =>
    cases i with
    | zero => cases b <;> simp [flags, b2n]
    | succ i =>
      have hhalf : (b2n b + 2 * flags l) / 2 = flags l := by
        have : b2n b < 2 := by cases b <;> decide
        omega
      rw [flags, Nat.testBit_succ, hhalf, ih, List.getD_cons_succ]

/-- The causes of Table 2-5, bit 0 first. -/
def irqCauses (s : State) : List Bool :=
  [repliesPending s != 0, s.link.events != 0, rxSpace s == 0xFF, s.link.sessionEnd, s.link.bootChange, s.link.discard,
    s.link.eventLost, s.link.resetSeen]

theorem irqCause_getLsbD (s : State) (i : Nat) : (irqCause s).getLsbD i = (irqCauses s).getD i false := by
  rw [irqCause, BitVec.getLsbD_ofNat, testBit_flags]
  by_cases hi : i < 8
  · simp [hi, irqCauses]
  · simp [hi, irqCauses]

theorem bitVec_ne_zero_iff {w : Nat} (x : BitVec w) : x ≠ 0 ↔ ∃ i, x.getLsbD i = true := by
  refine ⟨fun hx => ?_, fun ⟨i, hi⟩ h0 => by simp [h0] at hi⟩
  by_contra hn
  exact hx (BitVec.eq_of_getLsbD_eq fun i _ => by simpa using fun h => hn ⟨i, h⟩)

/-- Settles O36: the causes are the bits of IRQ_CAUSE (`irqCause_getLsbD`), and CLEAR_STATUS changes entries 3 to 7 of their list. -/
theorem interruptLine : Obligations.InterruptLine := by
  refine ⟨fun s hon hrail => ?_, fun via mask s hh => ⟨_, execClearStatus_heard hh mask, fun i hi => ?_, fun i hi => ?_⟩⟩
  · simp only [irqAsserted, hon, hrail, Bool.true_and, bne_iff_ne, bitVec_ne_zero_iff, BitVec.getLsbD_and, Bool.and_eq_true]
  · rw [irqCause_getLsbD, irqCause_getLsbD]
    match i, hi with
    | 3, _ | 4, _ | 5, _ | 6, _ | 7, _ => rfl
    | i + 8, _ => rfl
  · rw [irqCause_getLsbD, irqCause_getLsbD]
    match i, hi with
    | 0, _ | 1, _ | 2, _ => rfl

/-! ### The CRC of packets (R30) -/

theorem reverse_xor {w : Nat} (x y : BitVec w) : (x ^^^ y).reverse = x.reverse ^^^ y.reverse := by
  refine BitVec.eq_of_getLsbD_eq fun i _ => ?_
  simp only [BitVec.getLsbD_reverse, BitVec.getLsbD_xor, BitVec.getMsbD_xor]

theorem reverse_shiftLeft_one (c : Word32) : (c <<< 1).reverse = c.reverse >>> 1 := by
  refine BitVec.eq_of_getLsbD_eq fun i _ => ?_
  simp only [BitVec.getLsbD_reverse, BitVec.getMsbD_shiftLeft, BitVec.getLsbD_ushiftRight, Nat.add_comm]

/-- A byte reflected into the top of a word is the byte in the bottom of the reflected word. -/
theorem reverse_topByte (b : Byte) : (b.reverse.setWidth 32 <<< 24).reverse = b.setWidth 32 := by
  refine BitVec.eq_of_getLsbD_eq fun i hi => ?_
  rw [BitVec.getLsbD_reverse, BitVec.getMsbD_shiftLeft, BitVec.getMsbD_setWidth, BitVec.getLsbD_setWidth]
  simp [BitVec.getMsbD_reverse, hi]

theorem crcBit_reverse (c : Word32) : crcBit c.reverse = (Rows.crcMsbBit c).reverse := by
  have hlow : c.reverse.getLsbD 0 = c.getLsbD 31 := BitVec.getLsbD_reverse
  have hpoly : (0x1EDC6F41 : Word32).reverse = 0x82F63B78 := by decide +kernel
  rw [crcBit, Rows.crcMsbBit, hlow]
  split
  · rw [reverse_xor, reverse_shiftLeft_one, hpoly]
  · rw [reverse_shiftLeft_one]

theorem repeat_crcBit_reverse (n : Nat) (c : Word32) : Nat.repeat crcBit n c.reverse = (Nat.repeat Rows.crcMsbBit n c).reverse := by
  induction n with
  | zero => rfl
  | succ n ih => rw [Nat.repeat, Nat.repeat, ih, crcBit_reverse]

theorem crcByte_reverse (c : Word32) (b : Byte) : crcByte c.reverse b = (Rows.crcMsbByte c b).reverse := by
  rw [Rows.crcMsbByte, ← repeat_crcBit_reverse, reverse_xor, reverse_topByte, crcByte]

theorem foldl_crcByte_reverse (p : Bytes) (c : Word32) : p.foldl crcByte c.reverse = (p.foldl Rows.crcMsbByte c).reverse := by
  induction p generalizing c with
  | nil => rfl
  | cons b p ih => rw [List.foldl_cons, List.foldl_cons, crcByte_reverse, ih]

/-- The bytes end with the CRC of those before it. -/
def EndsWithCrc (b : Bytes) : Prop := ∃ c, b = c ++ le 4 (crc32c c).toNat

theorem endsWithCrc_plainPacket (flags : Nat) (opcode tagByte status seq : Byte) (payload : Bytes) :
    EndsWithCrc (plainPacket flags opcode tagByte status seq payload) := ⟨_, rfl⟩

theorem endsWithCrc_sealedPacket (owner : BitVec 2) (more : Bool) (opcode tagByte status : Byte) (payload : Bytes) (s : State) :
    EndsWithCrc (sealedPacket owner more opcode tagByte status payload s).1 := ⟨_, rfl⟩

theorem endsWithCrc_replyPacket (r : Reply) (s : State) : EndsWithCrc (replyPacket r s).1 := by
  unfold replyPacket
  dsimp only
  split
  · exact endsWithCrc_plainPacket ..
  · split
    · exact endsWithCrc_sealedPacket ..
    · exact endsWithCrc_plainPacket ..

theorem endsWithCrc_eventPacket (e : Event) (s : State) : EndsWithCrc (eventPacket e s).1 := by
  unfold eventPacket
  dsimp only
  split
  · exact endsWithCrc_plainPacket ..
  · split
    · exact endsWithCrc_sealedPacket ..
    · exact endsWithCrc_plainPacket ..

theorem endsWithCrc_leave (o : Outbound) (s : State) : EndsWithCrc (leave o s).1 := by
  cases o with
  | reply r => exact endsWithCrc_replyPacket r s
  | notice n => exact endsWithCrc_plainPacket ..
  | event e => exact endsWithCrc_eventPacket e s

/-- Settles O37: the reflected division runs on reversed words (`foldl_crcByte_reverse`), and each packet is built with its CRC at the end
(`endsWithCrc_leave`). -/
theorem packetCrc : Obligations.PacketCrc := by
  refine ⟨fun b => ?_, by decide +kernel, endsWithCrc_leave⟩
  have hones : (0xFFFFFFFF : Word32) = (0xFFFFFFFF : Word32).reverse := by decide +kernel
  rw [crc32c, ← foldl_crcByte_reverse, ← hones]

/-! ### The tags in flight -/

/-- The tags in flight, in order of acceptance. -/
def State.tags (s : State) : List Tag := s.link.slots.map (·.tag)

theorem slot?_eq_none_iff {s : State} {tag : Tag} : s.slot? tag = none ↔ tag ∉ s.tags := by
  simp [State.slot?, State.tags, List.find?_eq_none]

@[simp] theorem tags_foldl {α : Type} {f : State → α → State} (hf : ∀ s a, (f s a).tags = s.tags) (l : List α) (s : State) :
    (l.foldl f s).tags = s.tags := by
  induction l generalizing s with
  | nil => rfl
  | cons a l ih => rw [List.foldl_cons, ih, hf]

theorem tags_onSlot {f : Slot → Slot} (hf : ∀ c, (f c).tag = c.tag) (tag : Tag) (s : State) : (onSlot tag f s).tags = s.tags := by
  simp only [State.tags, onSlot, State.mapLink, List.map_map]
  exact List.map_congr_left fun c _ => by simp only [Function.comp_apply]; split <;> simp [hf]

@[simp] theorem tags_finish (tag : Tag) (status : Byte) (payload : Bytes) (s : State) : (finish tag status payload s).tags = s.tags := by
  unfold finish
  split
  · rfl
  · split
    · rfl
    · split
      · split
        · exact tags_onSlot (f := fun c => { c with committed := true }) (fun _ => rfl) tag s
        · rfl
      · refine Eq.trans ?_ (tags_onSlot (f := fun c => { c with replied := true }) (fun _ => rfl) tag s)
        simp only [State.tags, State.mapLink]
        split <;> rfl

@[simp] theorem tags_finishAll (tags : List Tag) (status : Byte) (s : State) : (finishAll tags status s).tags = s.tags :=
  tags_foldl (fun s t => tags_finish t status [] s) tags s

theorem slots_queueEvent (l : LinkState) (e : Event) : (l.queueEvent e).slots = l.slots := by
  simp only [LinkState.queueEvent, apply_ite LinkState.slots, LinkState.overwrite, LinkState.drop, ite_self]

@[simp] theorem slots_raiseAt (time : Word64) (code : Byte) (high : Bool) (owner : Option (BitVec 2)) (body : Bytes) (s : State) :
    (raiseAt time code high owner body s).link.slots = s.link.slots := slots_queueEvent ..

@[simp] theorem slots_raise (code : Byte) (high : Bool) (body : Bytes) (s : State) :
    (raise code high body s).link.slots = s.link.slots := slots_raiseAt ..

theorem tags_of_slots {s t : State} (h : t.link.slots = s.link.slots) : t.tags = s.tags := by rw [State.tags, h, State.tags]

@[simp] theorem slots_queuePressure (q n depth : Nat) (s : State) : (queuePressure q n depth s).link.slots = s.link.slots := by
  unfold queuePressure
  dsimp only
  split
  · exact slots_raise ..
  · split
    · exact slots_raise ..
    · rfl

@[simp] theorem slots_dropFrame (id : Nat) (s : State) : (dropFrame id s).link.slots = s.link.slots := slots_queuePressure ..

theorem tags_forgetThese (fs : List Frame) (s : State) : (forgetThese fs s).tags = s.tags := by
  refine tags_foldl (fun s f => ?_) fs s
  rw [tags_finishAll, tags_of_slots (slots_dropFrame f.id s)]

theorem tags_discardFrames (m : Nat) (s : State) : (discardFrames m s).tags = s.tags := tags_forgetThese ..

/-- A sleep entry may end commands with a reply, and frees no tag and takes none. -/
theorem tags_beginSleep (e : SleepEntry) (s : State) : (beginSleep e s).tags = s.tags := by
  unfold beginSleep
  extract_lets s1 s2
  have h2 : s2.tags = s.tags := tags_foldl (s := s1) (fun s n => by split <;> rfl) (List.range 96)
  split
  · exact h2
  · exact (tags_foldl (fun s m => tags_discardFrames m s) (List.range 8) s2).trans h2

/-- A reset that begins frees every tag (R38). -/
theorem tags_beginReset (cause : Byte) (s : State) : (beginReset cause s).tags = s.tags ∨ (beginReset cause s).tags = [] := by
  unfold beginReset
  split
  · exact .inl rfl
  · exact .inr rfl

theorem tags_closeSession (r : Reply) (s : State) : (closeSession r s).tags = s.tags := by
  unfold closeSession
  split <;> rfl

theorem tags_freeTag (tag : Tag) (s : State) : (freeTag tag s).tags = s.tags.filter (· != tag) := by
  have hfree : ((s.link.slots.filter (·.tag != tag)).map (·.tag)) = s.tags.filter (· != tag) := by
    rw [State.tags, List.filter_map]
    rfl
  unfold freeTag
  dsimp only
  split
  · split <;> exact hfree
  · exact hfree

/-- Once a terminal reply has left, its tag is free. -/
theorem slot?_replyGone (r : Reply) (s : State) : (replyGone r s).slot? r.tag = none := by
  have hfree : r.tag ∉ (closeSession r (freeTag r.tag s)).tags := by simp [tags_closeSession, tags_freeTag]
  unfold replyGone
  extract_lets s1 s2
  have h2 : r.tag ∉ s2.tags := by
    simp only [s2]
    split
    · split
      · rwa [tags_beginSleep]
      · exact hfree
    · exact hfree
  rw [slot?_eq_none_iff]
  split
  · unfold scheduledReset
    split
    · next c _ => rcases tags_beginReset c.1 s2 with h | h <;> simp [h, h2]
    · exact h2
  · exact h2

/-! ### Packets that leave -/

@[simp] theorem slots_endSession (slot : Nat) (reason : Byte) (s : State) : (endSession slot reason s).link.slots = s.link.slots := by
  unfold endSession
  dsimp only
  split
  · rfl
  · exact slots_raise ..

theorem slots_advanceTx (owner : BitVec 2) (s : State) : (advanceTx owner s).link.slots = s.link.slots := by
  unfold advanceTx
  dsimp only
  split
  · exact slots_endSession ..
  · rfl

/-- The packet begins with these fields of Table 2-6. -/
def Headed (flags : Byte) (length : Nat) (tagByte status : Byte) (b : Bytes) : Prop :=
  ∃ opcode seq tail, b = [0x5A, flags] ++ le 2 length ++ [opcode, tagByte, status, seq] ++ tail

theorem Headed.fields {flags : Byte} {length : Nat} {tagByte status : Byte} {b : Bytes} (h : Headed flags length tagByte status b)
    (hl : length < 65536) :
    fld b 1 1 = flags.toNat ∧ fld b 2 2 = length ∧ fld b 5 1 = tagByte.toNat ∧ fld b 6 1 = status.toNat := by
  obtain ⟨opcode, seq, tail, rfl⟩ := h
  simp [fld, le, leNat]
  omega

theorem Headed.append {flags : Byte} {length : Nat} {tagByte status : Byte} {b : Bytes} (h : Headed flags length tagByte status b)
    (c : Bytes) : Headed flags length tagByte status (b ++ c) := by
  obtain ⟨opcode, seq, tail, rfl⟩ := h
  exact ⟨opcode, seq, tail ++ c, by simp only [List.append_assoc]⟩

theorem fixed_of_length_le {n : Nat} {b : Bytes} (h : b.length ≤ n) : fixed n b = b ++ List.replicate (n - b.length) 0 := by
  rw [fixed, List.take_of_length_le h]

theorem Headed.fixed {flags : Byte} {length : Nat} {tagByte status : Byte} {b : Bytes} (h : Headed flags length tagByte status b)
    {n : Nat} (hn : b.length ≤ n) : Headed flags length tagByte status (fixed n b) := by
  rw [fixed_of_length_le hn]
  exact h.append _

theorem headed_plainPacket (flags : Nat) (opcode tagByte status seq : Byte) (payload : Bytes) :
    Headed (BitVec.ofNat 8 flags) payload.length tagByte status (plainPacket flags opcode tagByte status seq payload) :=
  ⟨opcode, seq, _, by simp only [plainPacket, List.append_assoc]; rfl⟩

theorem headed_sealedPacket (owner : BitVec 2) (more : Bool) (opcode tagByte status : Byte) (payload : Bytes) (s : State) :
    Headed (BitVec.ofNat 8 (0x81 + 32 * owner.toNat + 16 * b2n more)) payload.length tagByte status
      (sealedPacket owner more opcode tagByte status payload s).1 :=
  ⟨opcode, _, _, by simp only [sealedPacket, List.append_assoc]; rfl⟩

theorem length_plainPacket (flags : Nat) (opcode tagByte status seq : Byte) (payload : Bytes) :
    (plainPacket flags opcode tagByte status seq payload).length = payload.length + 12 := by
  simp [plainPacket]
  omega

theorem length_sealedPacket (owner : BitVec 2) (more : Bool) (opcode tagByte status : Byte) (payload : Bytes) (s : State) :
    (sealedPacket owner more opcode tagByte status payload s).1.length = payload.length + 24 := by
  simp [sealedPacket, fixed_length]
  omega

/-- MORE is bit 4 of FLAGS (Table 2-6). -/
theorem bit_more {k : Nat} (hk : k < 240) (h4 : k / 16 % 2 = 0) (more : Bool) :
    bit (BitVec.ofNat 8 (k + 16 * b2n more)).toNat 4 = more := by
  cases more <;> simp [bit, b2n] <;> omega

/-- The bytes of a reply that its next packet carries (R50). -/
abbrev Reply.piece (r : Reply) : Bytes := r.payload.take 4068

/-- Bytes of the reply remain beyond its next packet. -/
abbrev Reply.more (r : Reply) : Bool := decide (4068 < r.payload.length)

/-! A reply due to a session that still holds its keys, or to none, leaves as it is (R43, R45, R50). -/

section
variable {r : Reply} {s : State} (hk : r.secure = true → keyed s r = true)
include hk

theorem replyPacket_rest : (replyPacket r s).2.1 = if r.more then some { r with payload := r.payload.drop 4068 } else none := by
  unfold replyPacket
  cases hs : r.secure with
  | false => rfl
  | true => simp only [hk hs]; rfl

theorem slots_replyPacket : (replyPacket r s).2.2.link.slots = s.link.slots := by
  unfold replyPacket
  cases hs : r.secure with
  | false => rfl
  | true => simp only [hk hs]; exact slots_advanceTx ..

/-- Its packet carries LENGTH, MORE, the tag's byte and STATUS. -/
theorem headed_replyPacket : ∃ flags : Byte, bit flags.toNat 4 = r.more
    ∧ Headed flags r.piece.length (BitVec.ofNat 8 (0x40 + r.tag.toNat % 64)) r.status (replyPacket r s).1 := by
  unfold replyPacket
  cases hs : r.secure with
  | false => exact ⟨_, bit_more (by decide) (by decide) r.more, headed_plainPacket ..⟩
  | true =>
    simp only [hk hs]
    have ho := r.owner.isLt
    exact ⟨_, bit_more (by omega) (by omega) r.more, headed_sealedPacket ..⟩

theorem length_replyPacket : r.piece.length + 12 ≤ (replyPacket r s).1.length ∧ (replyPacket r s).1.length ≤ r.piece.length + 24 := by
  unfold replyPacket
  cases hs : r.secure with
  | false => simp [length_plainPacket]
  | true => simp [hk hs, length_sealedPacket]
end

/-! ### The oldest packet -/

theorem waitingOut_of_fresh {s : State} {o : Outbound} {rest : List Outbound} (ho : s.link.out = o :: rest) (hs : stale s o = false) :
    Rows.waitingOut s = o :: rest := by
  rw [Rows.waitingOut, ho, List.dropWhile_cons, hs]
  rfl

/-- The state as the oldest packet has been taken from the queue and the others wait. -/
def remaining (rest : List Outbound) (s : State) : State := s.mapLink fun l => { l with out := rest }

theorem oldest_of_fresh {s : State} {o : Outbound} {rest : List Outbound} (ho : s.link.out = o :: rest) (hs : stale s o = false) :
    Rows.oldest s = leave o (remaining rest s) := by
  rw [Rows.oldest, waitingOut_of_fresh ho hs]
  rfl

section
variable {via : Transport} {s : State} {o : Outbound} {rest : List Outbound} (hh : hears via s = true) (ho : s.link.out = o :: rest)
  (hs : stale s o = false) {clocked : Nat}
include hh ho hs

/-- A pull of all its bytes sends the oldest packet. -/
theorem pull_whole (hall : (leave o (remaining rest s)).1.length ≤ clocked) : exec (.pull via clocked) s =
    .next ((leave o (remaining rest s)).2.mapLink fun l => { l with driven := fixed clocked (leave o (remaining rest s)).1 }) := by
  have hz := oldest_of_fresh ho hs
  have hw : Rows.waitingOut s ≠ [] := waitingOut_of_fresh ho hs ▸ List.cons_ne_nil o rest
  exact (completes_pull via clocked s ⟨hh, hw, hz ▸ hall⟩).trans (by rw [← hz])

/-- A pull that stops short leaves the queue as it was. -/
theorem pull_short (hshort : clocked < (leave o (remaining rest s)).1.length) :
    ∃ t, exec (.pull via clocked) s = .next t ∧ t.link.out = s.link.out := by
  have hw := waitingOut_of_fresh ho hs
  exact ⟨_, completes_pullShort via clocked s ⟨hh, hw ▸ List.cons_ne_nil o rest, oldest_of_fresh ho hs ▸ hshort⟩, hw.trans ho.symm⟩
end

theorem stale_of_terminal {s : State} {r : Reply} (hst : r.status ≠ 0x01) : stale s (.reply r) = false := by
  rw [stale, beq_eq_false_iff_ne.2 hst, Bool.false_and, Bool.false_and]

/-- Settles O39: the packet that leaves (`headed_replyPacket`), and what becomes of the rest (`replyPacket_rest`) or of the tag
(`slot?_replyGone`). -/
theorem longReply : Obligations.LongReply := by
  intro via clocked s r rest hh ho hst hk
  have hs : stale s (.reply r) = false := stale_of_terminal hst
  let u := remaining rest s
  have hku : r.secure = true → keyed u r = true := hk
  obtain ⟨flags, hmore, hhead⟩ := headed_replyPacket hku
  obtain ⟨hmin, hmax⟩ := length_replyPacket hku
  have hpiece : r.piece.length = min 4068 r.payload.length := List.length_take
  have htag : (BitVec.ofNat 8 (0x40 + r.tag.toNat % 64)).toNat = 64 + r.tag.toNat % 64 := by
    rw [BitVec.toNat_ofNat]
    omega
  have sent (hc : 4092 ≤ clocked) : exec (.pull via clocked) s = .next ((replyLeft r (replyPacket r u).2.1 (replyPacket r u).2.2).mapLink
      fun l => { l with driven := fixed clocked (replyPacket r u).1 }) := pull_whole hh ho hs (show (replyPacket r u).1.length ≤ _ by omega)
  have fields (hc : 4092 ≤ clocked) := (hhead.fixed (n := clocked) (by omega)).fields (by omega)
  refine ⟨fun hl hc => ?_, fun hl hc => pull_short hh ho hs (show _ < (replyPacket r u).1.length by omega), fun hl hc => ?_⟩
  · have hm : r.more = true := decide_eq_true hl
    obtain ⟨hf, hlen, htb, hstat⟩ := fields hc
    rw [sent hc, replyPacket_rest hku, if_pos hm]
    refine ⟨_, rfl, hlen.trans (by omega), (congrArg (bit · 4) hf).trans (hmore.trans hm), htb.trans htag, hstat, ?_,
      slots_replyPacket hku⟩
    simp [replyLeft, State.mapLink]
  · have hm : r.more = false := decide_eq_false (by omega)
    obtain ⟨hf, hlen, htb, hstat⟩ := fields hc
    rw [sent hc, replyPacket_rest hku, if_neg (ne_true_of_eq_false hm)]
    refine ⟨_, rfl, hlen.trans (by omega), (congrArg (bit · 4) hf).trans (hmore.trans hm), htb.trans htag, hstat, ?_⟩
    simp only [replyLeft, beq_eq_false_iff_ne.2 hst]
    exact slot?_replyGone r _

/-- The packet of an event, by the owner it concerns (R55). -/
theorem eventPacket_bytes (e : Event) (s : State) : (eventPacket e s).1 =
    match e.owner with
    | none => plainPacket 1 e.code (if e.high then 0xC1 else 0xC0) 0 s.link.eventSeq (le 8 e.time.toNat ++ e.body)
    | some o =>
      if (s.session o).phase = .live then (sealedPacket o false e.code (if e.high then 0xC1 else 0xC0) 0 (le 8 e.time.toNat ++ e.body) s).1
      else plainPacket (1 + 32 * o.toNat) e.code (if e.high then 0xC1 else 0xC0) 0 s.link.eventSeq (le 8 e.time.toNat) := by
  unfold eventPacket
  cases e.owner with
  | none => rfl
  | some o => by_cases hl : (s.session o).phase = .live <;> simp [hl]

theorem length_eventPacket (e : Event) (s : State) : (eventPacket e s).1.length ≤ e.body.length + 36 := by
  unfold eventPacket
  dsimp only
  split
  · simp only [length_plainPacket, List.length_append, le_length]
    omega
  · split
    · simp only [length_sealedPacket, List.length_append, le_length]
      omega
    · simp only [length_plainPacket, le_length]
      omega

/-- Settles O41: a pull of the whole packet sends the bytes that `eventPacket_bytes` says. -/
theorem ownerEvents : Obligations.OwnerEvents := by
  intro via clocked s e rest hh ho hc
  exact ⟨_, pull_whole hh ho rfl ((length_eventPacket e _).trans hc), congrArg (fixed clocked) (eventPacket_bytes e (remaining rest s))⟩

end Sys2Proof.Machine

/-! PROOFS. What lasts through every step, an idle step among them (R64, R398, R409). -/

namespace Sys2Proof.Machine

/-! ### What lasts through a step (R64, R398, R409) -/

/-- Every row that neither powers the device up nor writes the record leaves what lasts: the case of each is the lemma about its
meaning. -/
theorem lasting_exec (s : State) : ∀ c : Instr, Rows.powersUp c = false → Rows.writesRecord c = false →
    ∀ t, exec c s = .next t → t.lasting = s.lasting
  | .push via held b, _, _ => lasting_execPush via held b s
  | .qpush held b, _, _ => lasting_execQpush held b s
  | .pull via clocked, _, _ => lasting_execPull via clocked s
  | .qpull clocked, _, _ => lasting_execQpull clocked s
  | .clearStatus via mask, _, _ => lasting_execClearStatus via mask s
  | .invalidTransportOpcode via op, _, _ => lasting_execInvalidTransportOpcode via op s
  | .fragmentTimeout tag, _, _ => lasting_execFragmentTimeout tag s
  | .sessionIdleTimeout slot, _, _ => lasting_execSessionIdleTimeout slot s
  | .resetReplyTimeout, _, _ => lasting_execResetReplyTimeout s
  | .nop h p, _, _ => lasting_execNop h p s
  | .devInfo h p, _, _ => lasting_execDevInfo h p s
  | .devStatus h p, _, _ => lasting_execDevStatus h p s
  | .linkConfigRead h p, _, _ => lasting_execLinkConfigRead h p s
  | .linkConfigWrite h p, _, _ => lasting_execLinkConfigWrite h p s
  | .linkCounters h p, _, _ => lasting_execLinkCounters h p s
  | .linkCountersClear h p, _, _ => lasting_execLinkCountersClear h p s
  | .sessionOpen h p, _, _ => lasting_execSessionOpen h p s
  | .sessionClose h p, _, _ => lasting_execSessionClose h p s
  | .sessionStatus h p, _, _ => lasting_execSessionStatus h p s
  | .devLabelSet h p, _, _ => lasting_execDevLabelSet h p s
  | .devLabelGet h p, _, _ => lasting_execDevLabelGet h p s
  | .resetWarm h p, _, _ => lasting_execResetWarm h p s
  | .resetFull h p, _, _ => lasting_execResetFull h p s
  | .abort h p, _, _ => lasting_execAbort h p s
  | .powerStateGet h p, _, _ => lasting_execPowerStateGet h p s
  | .powerStateSetBivouac h p, _, _ => lasting_execPowerStateSetBivouac h p s
  | .powerStateSetWatch h p, _, _ => lasting_execPowerStateSetWatch h p s
  | .wakeConfig h p, _, _ => lasting_execWakeConfig h p s
  | .tickAlarmDisable h p, _, _ => lasting_execTickAlarmDisable h p s
  | .tickAlarmAbsolute h p, _, _ => lasting_execTickAlarmAbsolute h p s
  | .tickAlarmRelative h p, _, _ => lasting_execTickAlarmRelative h p s
  | .timeGet h p, _, _ => lasting_execTimeGet h p s
  | .clockStatus h p, _, _ => lasting_execClockStatus h p s
  | .thermalConfig h p, _, _ => lasting_execThermalConfig h p s
  | .thermalStatus h p, _, _ => lasting_execThermalStatus h p s
  | .powerPolicyRead h p, _, _ => lasting_execPowerPolicyRead h p s
  | .powerPolicyWrite h p, _, _ => lasting_execPowerPolicyWrite h p s
  | .afePinRoleSet h p, _, _ => lasting_execAfePinRoleSet h p s
  | .afePinRoleGet h p, _, _ => lasting_execAfePinRoleGet h p s
  | .afeChannelConfig h p, _, _ => lasting_execAfeChannelConfig h p s
  | .afeChannelGet h p, _, _ => lasting_execAfeChannelGet h p s
  | .afeExcitationSet h p, _, _ => lasting_execAfeExcitationSet h p s
  | .afeLeadMeasureLoop h p, _, _ => lasting_execAfeLeadMeasureLoop h p s
  | .afeLeadMeasureKelvin h p, _, _ => lasting_execAfeLeadMeasureKelvin h p s
  | .afeLeadMeasureSet h p, _, _ => lasting_execAfeLeadMeasureSet h p s
  | .afeLeadGet h p, _, _ => lasting_execAfeLeadGet h p s
  | .afePairConfigSet h p, _, _ => lasting_execAfePairConfigSet h p s
  | .afePairConfigRemove h p, _, _ => lasting_execAfePairConfigRemove h p s
  | .afePairStatus h p, _, _ => lasting_execAfePairStatus h p s
  | .afeDiag h p, _, _ => lasting_execAfeDiag h p s
  | .afeCalRun h p, _, _ => lasting_execAfeCalRun h p s
  | .streamConfigSet h p, _, _ => lasting_execStreamConfigSet h p s
  | .streamConfigRemove h p, _, _ => lasting_execStreamConfigRemove h p s
  | .streamGet h p, _, _ => lasting_execStreamGet h p s
  | .streamStart h p, _, _ => lasting_execStreamStart h p s
  | .streamStartInstant, _, _ => lasting_execStreamStartInstant s
  | .streamStopNow h p, _, _ => lasting_execStreamStopNow h p s
  | .streamStopAfterFrame h p, _, _ => lasting_execStreamStopAfterFrame h p s
  | .sportConfig h p, _, _ => lasting_execSportConfig h p s
  | .sportGet h p, _, _ => lasting_execSportGet h p s
  | .tachConfig h p, _, _ => lasting_execTachConfig h p s
  | .encConfig h p, _, _ => lasting_execEncConfig h p s
  | .streamCounters h p, _, _ => lasting_execStreamCounters h p s
  | .streamCountersClear h p, _, _ => lasting_execStreamCountersClear h p s
  | .streamSnapshot h p, _, _ => lasting_execStreamSnapshot h p s
  | .featConfigSet h p, _, _ => lasting_execFeatConfigSet h p s
  | .featConfigRemove h p, _, _ => lasting_execFeatConfigRemove h p s
  | .featGet h p, _, _ => lasting_execFeatGet h p s
  | .featOrderConfig h p, _, _ => lasting_execFeatOrderConfig h p s
  | .featBandsSet h p, _, _ => lasting_execFeatBandsSet h p s
  | .featStateConfig h p, _, _ => lasting_execFeatStateConfig h p s
  | .featFrameRead h p, _, _ => lasting_execFeatFrameRead h p s
  | .beltPositionGet h p, _, _ => lasting_execBeltPositionGet h p s
  | .beltConfigDisable h p, _, _ => lasting_execBeltConfigDisable h p s
  | .beltConfigSet h p, _, _ => lasting_execBeltConfigSet h p s
  | .setIndex h p, _, _ => lasting_execSetIndex h p s
  | .beltClearCount h p, _, _ => lasting_execBeltClearCount h p s
  | .modelLoadBegin h p, _, _ => lasting_execModelLoadBegin h p s
  | .modelLoadData h p, _, _ => lasting_execModelLoadData h p s
  | .modelLoadAbandon h p, _, _ => lasting_execModelLoadAbandon h p s
  | .modelVerify h p, _, _ => lasting_execModelVerify h p s
  | .modelPlace h p, _, _ => lasting_execModelPlace h p s
  | .modelPlaceRidge h p others, _, _ => lasting_execModelPlaceRidge h p others s
  | .modelUnload h p, _, _ => lasting_execModelUnload h p s
  | .modelPlacementGet h p, _, _ => lasting_execModelPlacementGet h p s
  | .modelList h p, _, _ => lasting_execModelList h p s
  | .modelStart h p, _, _ => lasting_execModelStart h p s
  | .modelStop h p, _, _ => lasting_execModelStop h p s
  | .modelReplace h p, _, _ => lasting_execModelReplace h p s
  | .modelBindStreams h p, _, _ => lasting_execModelBindStreams h p s
  | .jobSubmit h p, _, _ => lasting_execJobSubmit h p s
  | .resultRead h p, _, _ => lasting_execResultRead h p s
  | .resultPin h p, _, _ => lasting_execResultPin h p s
  | .resultUnpin h p, _, _ => lasting_execResultUnpin h p s
  | .rmStatus h p, _, _ => lasting_execRmStatus h p s
  | .rmCounters h p, _, _ => lasting_execRmCounters h p s
  | .rmCountersClear h p, _, _ => lasting_execRmCountersClear h p s
  | .rmShareSet h p, _, _ => lasting_execRmShareSet h p s
  | .queueStatus h p, _, _ => lasting_execQueueStatus h p s
  | .queueStatusClearHigh h p, _, _ => lasting_execQueueStatusClearHigh h p s
  | .resultSubscribe h p, _, _ => lasting_execResultSubscribe h p s
  | .headConfig h p, _, _ => lasting_execHeadConfig h p s
  | .headGet h p, _, _ => lasting_execHeadGet h p s
  | .rewardCancel h p, _, _ => lasting_execRewardCancel h p s
  | .rewardImmediate h p, _, _ => lasting_execRewardImmediate h p s
  | .rewardHeld h p, _, _ => lasting_execRewardHeld h p s
  | .modulatorConfig h p, _, _ => lasting_execModulatorConfig h p s
  | .headFreeze h p, _, _ => lasting_execHeadFreeze h p s
  | .headResume h p, _, _ => lasting_execHeadResume h p s
  | .headSave h p, _, _ => lasting_execHeadSave h p s
  | .headRestore h p, _, _ => lasting_execHeadRestore h p s
  | .headExport h p, _, _ => lasting_execHeadExport h p s
  | .headImport h p, _, _ => lasting_execHeadImport h p s
  | .headConsolidate h p, _, _ => lasting_execHeadConsolidate h p s
  | .headStats h p, _, _ => lasting_execHeadStats h p s
  | .headStatsClear h p, _, _ => lasting_execHeadStatsClear h p s
  | .headReset h p, _, _ => lasting_execHeadReset h p s
  | .headEraseOrphan h p, _, _ => lasting_execHeadEraseOrphan h p s
  | .houtMap h p, _, _ => lasting_execHoutMap h p s
  | .houtGet h p, _, _ => lasting_execHoutGet h p s
  | .belayConfig h p, _, _ => lasting_execBelayConfig h p s
  | .belayArm h p, _, _ => lasting_execBelayArm h p s
  | .belayDisarm h p, _, _ => lasting_execBelayDisarm h p s
  | .belayTrip h p, _, _ => lasting_execBelayTrip h p s
  | .belayAbortHold h p, _, _ => lasting_execBelayAbortHold h p s
  | .belayRearm h p, _, _ => lasting_execBelayRearm h p s
  | .belayDeclareStop h p, _, _ => lasting_execBelayDeclareStop h p s
  | .belayStatus h p, _, _ => lasting_execBelayStatus h p s
  | .alarmSetMask h p, _, _ => lasting_execAlarmSetMask h p s
  | .alarmSetHost h p, _, _ => lasting_execAlarmSetHost h p s
  | .alarmClearHost h p, _, _ => lasting_execAlarmClearHost h p s
  | .alarmAcknowledge h p, _, _ => lasting_execAlarmAcknowledge h p s
  | .ropeStatus h p, _, _ => lasting_execRopeStatus h p s
  | .ropeEnumerate h p, _, _ => lasting_execRopeEnumerate h p s
  | .ropeDetach h p, _, _ => lasting_execRopeDetach h p s
  | .ropeAttach h p, _, _ => lasting_execRopeAttach h p s
  | .ropeRelay h p, _, _ => lasting_execRopeRelay h p s
  | .ropeTopologyGet h p, _, _ => lasting_execRopeTopologyGet h p s
  | .ropeRetrain h p, _, _ => lasting_execRopeRetrain h p s
  | .ropeCounters h p, _, _ => lasting_execRopeCounters h p s
  | .ropeCountersClear h p, _, _ => lasting_execRopeCountersClear h p s
  | .ownerProvision h p, _, _ => lasting_execOwnerProvision h p s
  | .ownerRemove h p, _, _ => lasting_execOwnerRemove h p s
  | .ownerList h p, _, _ => lasting_execOwnerList h p s
  | .attest h p, _, _ => lasting_execAttest h p s
  | .epochRoll h p, _, _ => lasting_execEpochRoll h p s
  | .debugChallenge h p, _, _ => lasting_execDebugChallenge h p s
  | .debugOpen h p, _, _ => lasting_execDebugOpen h p s
  | .keyRotate h p, _, _ => lasting_execKeyRotate h p s
  | .trngRead h p, _, _ => lasting_execTrngRead h p s
  | .cairnInfo h p, _, _ => lasting_execCairnInfo h p s
  | .cairnRead h p, _, _ => lasting_execCairnRead h p s
  | .cairnReadPinned h p, _, _ => lasting_execCairnReadPinned h p s
  | .cairnMark h p, _, _ => lasting_execCairnMark h p s
  | .cairnRemoteRead h p, _, _ => lasting_execCairnRemoteRead h p s
  | .calRun h p, _, _ => lasting_execCalRun h p s
  | .calStatus h p, _, _ => lasting_execCalStatus h p s
  | .selftestRunQuick h p, _, _ => lasting_execSelftestRunQuick h p s
  | .selftestRunFull h p, _, _ => lasting_execSelftestRunFull h p s
  | .selftestResult h p, _, _ => lasting_execSelftestResult h p s
  | .wearStatus h p, _, _ => lasting_execWearStatus h p s
  | .wearConfig h p, _, _ => lasting_execWearConfig h p s
  | .coreStatus h p, _, _ => lasting_execCoreStatus h p s
  | .coreFence h p, _, _ => lasting_execCoreFence h p s
  | .coreUnfence h p, _, _ => lasting_execCoreUnfence h p s
  | .clipCounters h p, _, _ => lasting_execClipCounters h p s
  | .clipCountersClear h p, _, _ => lasting_execClipCountersClear h p s
  | .fwUpdateBegin h p, _, _ => lasting_execFwUpdateBegin h p s
  | .fwUpdateData h p, _, _ => lasting_execFwUpdateData h p s
  | .fwUpdateCommit h p, _, _ => lasting_execFwUpdateCommit h p s
  | .fwSlotStatus h p, _, _ => lasting_execFwSlotStatus h p s
  | .nvmStatus h p, _, _ => lasting_execNvmStatus h p s
  | .nvmRegionInfo h p, _, _ => lasting_execNvmRegionInfo h p s
  | .brownoutRelease, _, _ => lasting_execBrownoutRelease s
  | .resetPinAssert, _, _ => lasting_execResetPinAssert s
  | .resetPinRelease, _, _ => lasting_execResetPinRelease s
  | .resetTakeEffect, _, _ => lasting_execResetTakeEffect s
  | .thermalResetRelease, _, _ => lasting_execThermalResetRelease s
  | .watchdogExpiry, _, _ => lasting_execWatchdogExpiry s
  | .controlCoreException code, _, _ => lasting_execControlCoreException code s
  | .firmwareRestartDone, _, _ => lasting_execFirmwareRestartDone s
  | .erasePendingComplete, _, _ => lasting_execErasePendingComplete s
  | .authComplete, _, _ => lasting_execAuthComplete s
  | .deviceReady, _, _ => lasting_execDeviceReady s
  | .bootGuardExpiry, _, _ => lasting_execBootGuardExpiry s
  | .vholdThreshold mv, _, _ => lasting_execVholdThreshold mv s
  | .holdupHoldEnd, _, _ => lasting_execHoldupHoldEnd s
  | .xo32QualifyInterval edges, _, _ => lasting_execXo32QualifyInterval edges s
  | .xo32EdgeLoss, _, _ => lasting_execXo32EdgeLoss s
  | .xo32Retry, _, _ => lasting_execXo32Retry s
  | .xo32Absent, _, _ => lasting_execXo32Absent s
  | .xo24Qualified us, _, _ => lasting_execXo24Qualified us s
  | .xo24QualifyTimeout, _, _ => lasting_execXo24QualifyTimeout s
  | .xo24Retry, _, _ => lasting_execXo24Retry s
  | .xo24Stopped, _, _ => lasting_execXo24Stopped s
  | .pllLocked pll, _, _ => lasting_execPllLocked pll s
  | .pllLockLoss pll, _, _ => lasting_execPllLockLoss pll s
  | .tickAlarmFire, _, _ => lasting_execTickAlarmFire s
  | .wakeNLow, _, _ => lasting_execWakeNLow s
  | .watchThresholdFire channel samples, _, _ => lasting_execWatchThresholdFire channel samples s
  | .ropeSquelchWake, _, _ => lasting_execRopeSquelchWake s
  | .wakeComplete, _, _ => lasting_execWakeComplete s
  | .autoSleepDwellExpiry, _, _ => lasting_execAutoSleepDwellExpiry s
  | .sleepEntryStart, _, _ => lasting_execSleepEntryStart s
  | .sleepEntryComplete us, _, _ => lasting_execSleepEntryComplete us s
  | .governorSample cores engine anchor, _, _ => lasting_execGovernorSample cores engine anchor s
  | .anchorTempSample anchor, _, _ => lasting_execAnchorTempSample anchor s
  | .domainSwitchDone us va30 milli, _, _ => lasting_execDomainSwitchDone us va30 milli s
  | .domainIdleRelease domain, _, _ => lasting_execDomainIdleRelease domain s
  | .sampleArrival stream picovolts drive sense overload, _, _ => lasting_execSampleArrival stream picovolts drive sense overload s
  | .fabricTransaction stream rest, _, _ => lasting_execFabricTransaction stream rest s
  | .excLimitEngaged d, _, _ => lasting_execExcLimitEngaged d s
  | .excLimitReleased d, _, _ => lasting_execExcLimitReleased d s
  | .driverSettleDone d, _, _ => lasting_execDriverSettleDone d s
  | .frameStart stream, _, _ => lasting_execFrameStart stream s
  | .calBurstComplete channel raws step lead drive sense, _, _ => lasting_execCalBurstComplete channel raws step lead drive sense s
  | .frameClose stream, _, _ => lasting_execFrameClose stream s
  | .tdmFrameSync port rising onRise onFall hz, _, _ => lasting_execTdmFrameSync port rising onRise onFall hz s
  | .sportLost port, _, _ => lasting_execSportLost port s
  | .spiPoll port sensor reply, _, _ => lasting_execSpiPoll port sensor reply s
  | .tachEdge tach rising held ns, _, _ => lasting_execTachEdge tach rising held ns s
  | .tachIdle tach, _, _ => lasting_execTachIdle tach s
  | .encEdge a b held ns, _, _ => lasting_execEncEdge a b held ns s
  | .spliceMark high held, _, _ => lasting_execSpliceMark high held s
  | .encIdle, _, _ => lasting_execEncIdle s
  | .encoderSlip, _, _ => lasting_execEncoderSlip s
  | .encoderRestored, _, _ => lasting_execEncoderRestored s
  | .pairPartnerTimeout pair, _, _ => lasting_execPairPartnerTimeout pair s
  | .leadMeasureDone picovolts, _, _ => lasting_execLeadMeasureDone picovolts s
  | .featureFrameTake, _, _ => lasting_execFeatureFrameTake s
  | .featureQueueRoute, _, _ => lasting_execFeatureQueueRoute s
  | .jobStart, _, _ => lasting_execJobStart s
  | .layerDispatch, _, _ => lasting_execLayerDispatch s
  | .cimPassDone core parityOk, _, _ => lasting_execCimPassDone core parityOk s
  | .streamLayerDone, _, _ => lasting_execStreamLayerDone s
  | .vectorLayerDone, _, _ => lasting_execVectorLayerDone s
  | .protoForwardDone, _, _ => lasting_execProtoForwardDone s
  | .assetUpdate, _, _ => lasting_execAssetUpdate s
  | .confirmWindowEnd, _, _ => lasting_execConfirmWindowEnd s
  | .coastTimerEnd, _, _ => lasting_execCoastTimerEnd s
  | .stopDwellEnd, _, _ => lasting_execStopDwellEnd s
  | .motionDwellEnd, _, _ => lasting_execMotionDwellEnd s
  | .rearmTimerEnd, _, _ => lasting_execRearmTimerEnd s
  | .startGuardEnd, _, _ => lasting_execStartGuardEnd s
  | .learningStep head, _, _ => lasting_execLearningStep head s
  | .rewardUpdate head, _, _ => lasting_execRewardUpdate head s
  | .settlePeriodEnd head, _, _ => lasting_execSettlePeriodEnd head s
  | .holdoffPeriodEnd head, _, _ => lasting_execHoldoffPeriodEnd head s
  | .headSaveCommit head, _, _ => lasting_execHeadSaveCommit head s
  | .consolidationInForce head, _, _ => lasting_execConsolidationInForce head s
  | .arrayWriteDone array stuck residual outside bad, _, _ => lasting_execArrayWriteDone array stuck residual outside bad s
  | .recalibration core residual outside bad, _, _ => lasting_execRecalibration core residual outside bad s
  | .quickSelftest core ok, _, _ => lasting_execQuickSelftest core ok s
  | .fullSelftest core quickOk otherOk failing, _, _ => lasting_execFullSelftest core quickOk otherOk failing s
  | .clipWindowEnd array, _, _ => lasting_execClipWindowEnd array s
  | .wearHourlyAccrual, _, _ => lasting_execWearHourlyAccrual s
  | .wearDayBoundary, _, _ => lasting_execWearDayBoundary s
  | .nvmOperationStart, _, _ => lasting_execNvmOperationStart s
  | .trngHealthFail repetition, _, _ => lasting_execTrngHealthFail repetition s
  | .trngRetry passed, _, _ => lasting_execTrngRetry passed s
  | .debugChallengeExpiry, _, _ => lasting_execDebugChallengeExpiry s
  | .tapReset, _, _ => lasting_execTapReset s
  | .bypass opcode tdi, _, _ => lasting_execBypass opcode tdi s
  | .idcode tdi, _, _ => lasting_execIdcode tdi s
  | .samplePreload pins tdi, _, _ => lasting_execSamplePreload pins tdi s
  | .extest pins tdi, _, _ => lasting_execExtest pins tdi s
  | .highz pins tdi, _, _ => lasting_execHighz pins tdi s
  | .clamp pins tdi, _, _ => lasting_execClamp pins tdi s
  | .dbgChal tdi, _, _ => lasting_execDbgChal tdi s
  | .dbgOpen tdi, _, _ => lasting_execDbgOpen tdi s
  | .dbgAccess tdi, _, _ => lasting_execDbgAccess tdi s
  | .train r deviceId bootCount index lanes credits, _, _ => lasting_execTrain r deviceId bootCount index lanes credits s
  | .trainAck r lanes, _, _ => lasting_execTrainAck r lanes s
  | .trainingAttemptTimeout port, _, _ => lasting_execTrainingAttemptTimeout port s
  | .laneSyncLoss port lane, _, _ => lasting_execLaneSyncLoss port lane s
  | .squelchSilence port, _, _ => lasting_execSquelchSilence port s
  | .enumStart, _, _ => lasting_execEnumStart s
  | .enum r index headId ids, _, _ => lasting_execEnum r index headId ids s
  | .enumEnd r count ids, _, _ => lasting_execEnumEnd r count ids s
  | .topology r gen kind count lost ids, _, _ => lasting_execTopology r gen kind count lost ids s
  | .headConflict r, _, _ => lasting_execHeadConflict r s
  | .noEnumTimeout, _, _ => lasting_execNoEnumTimeout s
  | .heartbeatSend, _, _ => lasting_execHeartbeatSend s
  | .heartbeat r gen, _, _ => lasting_execHeartbeat r gen s
  | .heartbeatLoss, _, _ => lasting_execHeartbeatLoss s
  | .linkLost r port chip, _, _ => lasting_execLinkLost r port chip s
  | .join r port, _, _ => lasting_execJoin r port s
  | .sleep r, _, _ => lasting_execSleep r s
  | .detach r, _, _ => lasting_execDetach r s
  | .wakeBurstTimeout port, _, _ => lasting_execWakeBurstTimeout port s
  | .circulationRoundStart slot, _, _ => lasting_execCirculationRoundStart slot s
  | .round r slot round, _, _ => lasting_execRound r slot round s
  | .roundDone r slot round waiting, _, _ => lasting_execRoundDone r slot round waiting s
  | .roundAbort r slot, _, _ => lasting_execRoundAbort r slot s
  | .retire r slot bytes, _, _ => lasting_execRetire r slot bytes s
  | .landGrant r slot layer frames, _, _ => lasting_execLandGrant r slot layer frames s
  | .act r slot layer ref offset data gcmTag, _, _ => lasting_execAct r slot layer ref offset data gcmTag s
  | .wstream r slot layer shard roundLow offset data gcmTag, _, _ => lasting_execWstream r slot layer shard roundLow offset data gcmTag s
  | .cmd r relay reply more payload, _, _ => lasting_execCmd r relay reply more payload s
  | .cairn r relay reply more payload, _, _ => lasting_execCairn r relay reply more payload s
  | .credit port good ack nak credits, _, _ => lasting_execCredit port good ack nak credits s
  | .ackTimer port, _, _ => lasting_execAckTimer port s
  | .remoteReadTimeout relay, _, _ => lasting_execRemoteReadTimeout relay s
  | .afeBankEnable h p, _, _ => lasting_execAfeBankEnable h p s
  | .va30OutOfRegulation out, _, _ => lasting_execVa30OutOfRegulation out s
  | .ioRailRangeChange sensor inRange, _, _ => lasting_execIoRailRangeChange sensor inRange s
  | .vcoreBuckInRegulation, _, _ => lasting_execVcoreBuckInRegulation s
  | .codeGroupSyncAcquired port lane, _, _ => lasting_execCodeGroupSyncAcquired port lane s
  | .headLoadDone head, _, _ => lasting_execHeadLoadDone head s
  | .modelVerifyDone slot, _, _ => lasting_execModelVerifyDone slot s
  | .fwImageVerified, _, _ => lasting_execFwImageVerified s

/-- The rows that write the record leave the queue and the tick counter, as the laws of the record say. -/
theorem still_exec_of_writesRecord {c : Instr} {s t : State} (hc : Rows.writesRecord c = true) (h : exec c s = .next t) :
    t.still = s.still := by
  cases c with
  | cairnCommit programs => exact (keeping_execCairnCommit programs s t h).still
  | nvmProgramDone bad us => exact (keeping_execNvmProgramDone bad us s t h).still
  | nvmEraseDone ok us => exact (keeping_execNvmEraseDone ok us s t h).still
  | brownoutDetect programs => exact (keeping_execBrownoutDetect programs s t h).still
  | powerOff => exact (keeping_execPowerOff s t h).still
  | bootRomStart straps programs => exact (keeping_execBootRomStart straps programs s t h).1
  | _ => cases hc

/-- A power-on leaves the queue, the record's next sequence number and the NVM's pages. -/
theorem execPowerOnReset_kept {slow : Bool} {s t : State} (h : execPowerOnReset slow s = .next t) :
    t.pending = s.pending ∧ t.cairn.nextSeq = s.cairn.nextSeq ∧ t.nvm.pages = s.nvm.pages := by
  unfold execPowerOnReset at h
  split at h
  · cases h
    exact ⟨rfl, rfl, rfl⟩
  · extract_lets up r off at h
    have hup : up.lasting = s.lasting := lasting_takeEffect false s
    clear_value up r
    obtain rfl := Host.Outcome.next.inj h
    simp only [State.lasting, Prod.mk.injEq] at hup
    obtain ⟨hpending, hseq, hpages, -⟩ := hup
    exact ⟨hpending, hseq, hpages⟩

/-- Settles O53: POWER_ON_RESET and the writers of the record apart, a row leaves all that lasts (`lasting_exec`). -/
theorem memoryLasts : Obligations.MemoryLasts := by
  intro c s t h
  cases hw : Rows.writesRecord c with
  | true =>
    obtain ⟨hpending, htick⟩ := Prod.mk.inj (still_exec_of_writesRecord hw h)
    exact ⟨hpending, fun _ => htick, nofun⟩
  | false =>
    cases hp : Rows.powersUp c with
    | false =>
      have hl := lasting_exec s c hp hw t h
      simp only [State.lasting, Prod.mk.injEq] at hl
      obtain ⟨hpending, hseq, hpages, htick⟩ := hl
      exact ⟨hpending, fun _ => htick, fun _ => ⟨hseq, hpages⟩⟩
    | true =>
      obtain ⟨slow, rfl⟩ : ∃ slow, c = .powerOnReset slow := by
        cases c with
        | powerOnReset slow => exact ⟨slow, rfl⟩
        | _ => cases hp
      obtain ⟨hpending, hkept⟩ := execPowerOnReset_kept h
      exact ⟨hpending, nofun, fun _ => hkept⟩

/-! ### An idle step -/

/-- What an idle step does before time passes. -/
def idleWork (s : State) : State :=
  takeOrder (serveHeads (beginWrites (beginTrainings (flushRope (flushRelayed (serveReads (checksComplete s)))))))

theorem idle_eq (s : State) : idle s = if s.isOn 0 = false then s else passTime (idleWork s) := by
  simp only [idle, Bool.not_eq_true', idleWork]

theorem lasting_idleWork (s : State) : (idleWork s).lasting = s.lasting := by simp [idleWork]

/-- A tick edge advances the counter by one and leaves the rest of what lasts. -/
theorem lasting_passEdge (s : State) : (passEdge s).lasting = (s.pending, s.cairn.nextSeq, s.nvm.pages, s.clk.tick + 1) := by
  have hedge : (tickEdge s).lasting = (s.pending, s.cairn.nextSeq, s.nvm.pages, s.clk.tick + 1) := rfl
  unfold passEdge
  dsimp only
  split
  · exact (lasting_wakeSource _ _ _).trans hedge
  · exact hedge

/-- Time passes by a cycle of XO24, which leaves the tick counter, or by a tick edge. -/
theorem lasting_passTime (s : State) :
    (passTime s).lasting = s.lasting ∨ (passTime s).lasting = (s.pending, s.cairn.nextSeq, s.nvm.pages, s.clk.tick + 1) := by
  unfold passTime
  split
  · exact .inl rfl
  · exact .inr (lasting_passEdge s)

/-- Settles O2: what an idle step does before time passes leaves what lasts, and time moves the tick counter by at most one. -/
theorem stepIdle : Obligations.StepIdle := by
  intro s hs
  refine ⟨idle s, by rw [step, hs], ?_⟩
  rw [idle_eq]
  split
  · exact ⟨hs, .inl rfl, fun _ => rfl, rfl, rfl⟩
  · next hon =>
    have hwork := lasting_idleWork s
    have htime := lasting_passTime (idleWork s)
    simp only [State.lasting, Prod.mk.injEq] at hwork htime
    obtain ⟨hpending, hseq, hpages, htick⟩ := hwork
    rw [hpending, hseq, hpages, htick, hs] at htime
    rcases htime with ⟨hq, hn, hp, ht⟩ | ⟨hq, hn, hp, ht⟩
    · exact ⟨hq, .inl ht, fun h => absurd h hon, hn, hp⟩
    · exact ⟨hq, .inr ht, fun h => absurd h hon, hn, hp⟩

end Sys2Proof.Machine

/-! PROOFS. What comes in at the pins of a rail out of range (R77). -/

namespace Sys2Proof.Machine

section
variable {s : State}

theorem hears_of_vioH (hv : s.pwr.vioHOk = false) (via : Transport) : hears via s = false := by simp [hears, hostUp, hv]

theorem tapUp_of_vioH (hv : s.pwr.vioHOk = false) : tapUp s = false := by simp [tapUp, hv]

theorem portHeard_of_vioS (hv : s.pwr.vioSOk = false) (i : Nat) : portHeard s i = false := by simp [portHeard, hv]

theorem tachHeard_of_vioS (hv : s.pwr.vioSOk = false) (i : Nat) : tachHeard s i = false := by simp [tachHeard, hv]

theorem encoderHeard_of_vioS (hv : s.pwr.vioSOk = false) : encoderHeard s = false := by simp [encoderHeard, hv]

theorem drives_of_rail {b : Ball} (hr : railOk s b.rail = false) : drives s b = .highZ := by simp [drives, hr]

theorem pushPacket_unheard {via : Transport} (hh : hears via s = false) (held : Nat) (b : Bytes) : pushPacket via held b s = s := by
  simp [pushPacket, hh]

theorem pullPacket_unheard {via : Transport} (hh : hears via s = false) (clocked : Nat) : pullPacket via clocked s = s := by
  simp [pullPacket, hh]

/-- What the pins of VIO_H bring while the rail is out of range changes nothing: the host's transactions are not heard and the TAP
is not up. -/
theorem exec_atHostRail_ignored {c : Instr} (hc : Rows.atHostRail c = true) (hv : s.pwr.vioHOk = false) : exec c s = .next s := by
  have hh := hears_of_vioH hv
  have ht := tapUp_of_vioH hv
  cases c with
  | push via held b => exact congrArg Host.Outcome.next (pushPacket_unheard (hh via) held b)
  | qpush held b => exact congrArg Host.Outcome.next (pushPacket_unheard (hh .spi) held b)
  | pull via clocked => exact congrArg Host.Outcome.next (pullPacket_unheard (hh via) clocked)
  | qpull clocked => exact congrArg Host.Outcome.next (pullPacket_unheard (hh .spi) clocked)
  | clearStatus via mask => simp [exec, execClearStatus, hh]
  | invalidTransportOpcode via op => simp [exec, execInvalidTransportOpcode, hh]
  | wakeNLow => simp [exec, execWakeNLow, hv]
  | tapReset => simp [exec, execTapReset, ht]
  | bypass opcode tdi => simp [exec, execBypass, ht]
  | idcode tdi => simp [exec, execIdcode, ht]
  | samplePreload pins tdi => simp [exec, execSamplePreload, ht]
  | extest pins tdi => simp [exec, execExtest, ht]
  | highz pins tdi => simp [exec, execHighz, ht]
  | clamp pins tdi => simp [exec, execClamp, ht]
  | dbgChal tdi => simp [exec, execDbgChal, ht]
  | dbgOpen tdi => simp [exec, execDbgOpen, ht]
  | dbgAccess tdi => simp [exec, execDbgAccess, ht]
  | _ => cases hc

/-- What the pins of VIO_S bring while the rail is out of range changes nothing: the sensor ports, the tachs and the encoder are
not heard. -/
theorem exec_atSensorRail_ignored {c : Instr} (hc : Rows.atSensorRail c = true) (hv : s.pwr.vioSOk = false) : exec c s = .next s := by
  cases c with
  | tdmFrameSync port rising onRise onFall hz => simp [exec, execTdmFrameSync, portHeard_of_vioS hv]
  | spiPoll port sensor reply =>
    simp only [exec, execSpiPoll, portHeard_of_vioS hv]
    split <;> simp
  | tachEdge tach rising held ns => simp [exec, execTachEdge, tachHeard_of_vioS hv]
  | encEdge a b held ns => simp [exec, execEncEdge, encoderHeard_of_vioS hv]
  | spliceMark high held => simp [exec, execSpliceMark, encoderHeard_of_vioS hv]
  | _ => cases hc

end

/-- Settles O58: what a ball drives, and each row of the two rails. -/
theorem railsOutOfRange : Obligations.RailsOutOfRange :=
  ⟨fun _ _ => drives_of_rail, fun _ _ => exec_atHostRail_ignored, fun _ _ => exec_atSensorRail_ignored⟩

end Sys2Proof.Machine

/-! PROOFS. The Anchor's commands complete (chapter 03). -/

namespace Sys2Proof.Machine

theorem completes_powerStateGet : Rows.powerStateGet.Completes := by
  rintro h p s ⟨ht, hr, rfl⟩
  exact serve_row ht hr rfl rfl rfl

/-- The command taken up is the only one in flight. -/
theorem others_entered {op : Byte} {h : Hdr} {s : State} (hs : s.link.slots = []) :
    (entered op h s).link.slots.any (fun c => c.tag != h.tag) = false := by
  simp [entered_slots, hs, newSlot]

theorem completes_powerStateSet {command : Hdr → Bytes → Instr} {target : PowerState}
    (hc : ∀ h p s, exec (command h p) s = .next (cmdSleep target h p s)) : (Rows.powerStateSet command target).Completes := by
  rintro h p s ⟨ht, hr, hl, hz, hb, hslots, hreplies, hrelayed, hridge⟩
  refine (hc h p s).trans (serve_row ht hr (by simp [hl]) (by simpa using Nat.div_eq_of_lt hz) ?_)
  exact refuseIf_clear _ _ _ _ (by simp [hb, others_entered hslots, hreplies, hrelayed, hridge])

theorem completes_powerStateSetBivouac : Rows.powerStateSetBivouac.Completes := completes_powerStateSet fun _ _ _ => rfl

theorem completes_powerStateSetWatch : Rows.powerStateSetWatch.Completes := completes_powerStateSet fun _ _ _ => rfl

theorem completes_wakeConfig : Rows.wakeConfig.Completes := by
  rintro h p s ⟨ht, hr, hl, hz, hrange, hrope, hconf⟩
  refine serve_row ht hr (by simp [hl]) hz ?_
  refine refuseIf_clear _ _ _ _ ?_
  simpa [hrange, watchEntry] using ⟨hrope, hconf⟩

theorem completes_tickAlarmDisable : Rows.tickAlarmDisable.Completes := by
  rintro h p s ⟨ht, hr, hl, hz, hz'⟩
  exact serve_row ht hr (by simp [tickAlarmForm, hl]) (by simp [tickAlarmForm, zeros, hz, hz']) rfl

theorem completes_tickAlarmAbsolute : Rows.tickAlarmAbsolute.Completes := by
  rintro h p s ⟨ht, hr, ⟨hl, hz, hz'⟩, hper, htick⟩
  refine serve_row ht hr (by simp [tickAlarmForm, hl]) (by simp [tickAlarmForm, zeros, hz, hz']) ?_
  have hlater : decide (fld p 8 6 ≤ s.clk.tick.toNat) = false := decide_eq_false (Nat.not_le.2 htick)
  exact refuseIf_clear _ _ _ _ (List.forall_mem_cons.2 ⟨by simp [hper], List.forall_mem_singleton.2 hlater⟩)

theorem completes_tickAlarmRelative : Rows.tickAlarmRelative.Completes := by
  rintro h p s ⟨ht, hr, ⟨hl, hz, hz'⟩, hper, hoff⟩
  refine serve_row ht hr (by simp [tickAlarmForm, hl]) (by simp [tickAlarmForm, zeros, hz, hz']) ?_
  exact refuseIf_clear _ _ _ _ (by simpa [hper] using hoff)

theorem completes_timeGet : Rows.timeGet.Completes := by
  rintro h p s ⟨ht, hr, rfl⟩
  exact serve_row ht hr rfl rfl rfl

theorem completes_clockStatus : Rows.clockStatus.Completes := by
  rintro h p s ⟨ht, hr, rfl⟩
  exact serve_row ht hr rfl rfl rfl

theorem completes_thermalConfig : Rows.thermalConfig.Completes := by
  rintro h p s ⟨ht, hr, hl, hw, hw', ht', ht'', hc, hc', hd, hd'⟩
  refine serve_row ht hr (by simp [hl]) rfl ?_
  refine (refuseIf_clear _ _ _ _ (by simp [*])).trans ?_
  obtain ⟨a, b, c, d, rfl⟩ := List.length_eq_four.1 hl
  simp [fld_one, ThermalConfig.bytes]

theorem completes_thermalStatus : Rows.thermalStatus.Completes := by
  rintro h p s ⟨ht, hr, rfl⟩
  exact serve_row ht hr rfl rfl rfl

theorem completes_powerPolicyRead : Rows.powerPolicyRead.Completes := by
  rintro h p s ⟨ht, hr, rfl⟩
  exact serve_row ht hr rfl rfl rfl

theorem leNat_lt (b : Bytes) : leNat b < 256 ^ b.length := by
  induction b with
  | nil => exact Nat.one_pos
  | cons a b ih => rw [leNat, List.length_cons, Nat.pow_succ]; omega

theorem fld_lt (p : Bytes) (off n : Nat) : fld p off n < 256 ^ n :=
  (leNat_lt _).trans_le (Nat.pow_le_pow_right (by decide) (List.length_take_le _ _))

/-- Bytes are those of the number they spell. -/
theorem le_leNat (b : Bytes) : le b.length (leNat b) = b := by
  induction b with
  | nil => rfl
  | cons a b ih =>
    have hlow : BitVec.ofNat 8 (a.toNat + 256 * leNat b) = a := by
      apply BitVec.eq_of_toNat_eq
      rw [BitVec.toNat_ofNat]
      omega
    have hrest : (a.toNat + 256 * leNat b) / 256 = leNat b := by omega
    rw [List.length_cons, le, leNat, hlow, hrest, ih]

/-- The bytes of a field of a payload are those that stand there. -/
theorem le_fld {p : Bytes} {off n : Nat} (h : off + n ≤ p.length) : le n (fld p off n) = slice p off n := by
  have hl : ((p.drop off).take n).length = n := by simp; omega
  have hb := le_leNat ((p.drop off).take n)
  rwa [hl] at hb

/-- Eight bytes, two at a time. -/
theorem slices_of_length_eight {p : Bytes} (hl : p.length = 8) : slice p 0 2 ++ slice p 2 2 ++ slice p 4 2 ++ slice p 6 2 = p := by
  simp only [slice, List.drop_zero, ← List.take_add]
  exact List.take_of_length_le (by omega)

/-- The policy that a payload of POWER_POLICY sets answers with that payload. -/
theorem policyBytes_of_payload {p : Bytes} (hl : p.length = 8) (hauto : fld p 0 2 < 4) (hz : fld p 6 2 = 0) :
    PowerPolicy.bytes { autoState := BitVec.ofNat 2 (fld p 0 2), cimIdleOff := BitVec.ofNat 16 (fld p 2 2)
                        idleDwell := BitVec.ofNat 16 (fld p 4 2) } = p := by
  have hbyte (off : Nat) : fld p off 2 < 2 ^ 16 := fld_lt p off 2
  have hzero : ([0, 0] : Bytes) = slice p 6 2 := by rw [← le_fld (by omega), hz]; rfl
  simp only [PowerPolicy.bytes, BitVec.toNat_ofNat, Nat.mod_eq_of_lt hauto, Nat.mod_eq_of_lt (hbyte _), hzero]
  rw [le_fld (by omega), le_fld (by omega), le_fld (by omega), slices_of_length_eight hl]

theorem completes_powerPolicyWrite : Rows.powerPolicyWrite.Completes := by
  rintro h p s ⟨ht, hr, hl, hauto, hz, hoff, hoff', hdwell⟩
  have hbits : bits (fld p 0 2) 2 14 = 0 := by simp [bits]; omega
  refine serve_row ht hr (by simp [hl]) (by simp [hbits, hz]) ?_
  refine (refuseIf_clear _ _ _ _ ?_).trans ?_
  · simp; omega
  · simp only [policyBytes_of_payload hl (by omega) hz]

/-- Settles O6: row by row. -/
theorem anchorCommandsComplete : Obligations.AnchorCommandsComplete := by
  simp only [Obligations.AnchorCommandsComplete, Rows.anchorRows, List.forall_mem_cons]
  exact ⟨completes_powerStateGet, completes_powerStateSetBivouac, completes_powerStateSetWatch, completes_wakeConfig,
    completes_tickAlarmDisable, completes_tickAlarmAbsolute, completes_tickAlarmRelative, completes_timeGet, completes_clockStatus,
    completes_thermalConfig, completes_thermalStatus, completes_powerPolicyRead, completes_powerPolicyWrite, List.forall_mem_nil _⟩

end Sys2Proof.Machine

/-! PROOFS. The events of the clocks complete (R68 to R72, R458). -/

namespace Sys2Proof.Machine

theorem completes_xo32QualifyInterval (edges : Nat) : (Rows.xo32QualifyInterval edges).Completes := by
  rintro s ⟨hon, hok, hrun, hlow, hhigh⟩
  show execXo32QualifyInterval edges s = _
  simp [execXo32QualifyInterval, hon, hok, hrun, Nat.not_lt.2 hlow, Nat.not_lt.2 hhigh]

theorem completes_xo32EdgeLoss : Rows.xo32EdgeLoss.Completes := by
  rintro s ⟨hon, hl⟩
  show execXo32EdgeLoss s = _
  simp only [execXo32EdgeLoss, hon, hl]
  rfl

theorem completes_xo32Absent : Rows.xo32Absent.Completes := by
  rintro s ⟨hon, hf, hok⟩
  show execXo32Absent s = _
  simp only [execXo32Absent, hon, hf, hok]
  rfl

theorem completes_xo32Retry : Rows.xo32Retry.Completes := by
  rintro s ⟨hon, hr⟩
  show execXo32Retry s = _
  simp only [execXo32Retry, hon, hr]
  rfl

/-- A clock that returns takes the device back to work as the rows say. -/
theorem clockBack_eq (s : State) : clockBack s = Rows.backToWork s := by
  simp only [clockBack, Rows.backToWork, bne_iff_ne, ne_eq, Bool.or_eq_true, Bool.and_eq_true, Option.isNone_iff_eq_none]
  by_cases hp : s.boot.phase = .ready <;> cases ha : asleep s <;> simp [hp]

theorem completes_xo24Qualified (us : Nat) : (Rows.xo24Qualified us).Completes := by
  rintro s ⟨htry, hon⟩
  show execXo24Qualified us s = _
  simp only [execXo24Qualified, hon, beq_eq_false_iff_ne.2 htry, clockBack_eq]
  rfl

theorem completes_xo24SecondTry : Rows.xo24SecondTry.Completes := by
  rintro s ⟨hon, htry⟩
  show execXo24QualifyTimeout s = _
  simp only [execXo24QualifyTimeout, hon, htry]
  rfl

theorem completes_xo24Fails : Rows.xo24Fails.Completes := by
  rintro s ⟨hon, hzero, hone⟩
  show execXo24QualifyTimeout s = _
  simp only [execXo24QualifyTimeout, hon, beq_eq_false_iff_ne.2 hzero, beq_eq_false_iff_ne.2 hone]
  cases s.clk.xo24Fail <;> rfl

theorem completes_xo24Retry : Rows.xo24Retry.Completes := by
  rintro s ⟨hf, htry, ha⟩
  show execXo24Retry s = _
  simp only [execXo24Retry, hf, htry, ha]
  rfl

theorem completes_xo24Stopped : Rows.xo24Stopped.Completes := by
  intro s hon
  show execXo24Stopped s = _
  simp only [execXo24Stopped, show s.clk.xo24On = true from hon]
  rfl

theorem completes_pllLocked (pll : BitVec 2) : (Rows.pllLocked pll).Completes := by
  rintro s ⟨hon, hne⟩
  show execPllLocked pll s = _
  simp only [execPllLocked, hon, beq_eq_false_iff_ne.2 hne, clockBack_eq]
  rfl

/-- What stops with a PLL: computing with PLL_C, on FRC from then on, and the links with PLL_L (R72). -/
def stopWithPll (pll : BitVec 2) (s : State) : State :=
  if pll = 0 then haltCompute (onClk (fun c => { c with frcOn := true }) s)
  else if pll = 2 ∧ s.isOn 11 = true then portLost 1 (portLost 0 s)
  else s

theorem stopWithPll_eq (pll : BitVec 2) (s : State) :
    (let a := if pll.toNat == 0 then haltCompute (onClk (fun c => { c with frcOn := true }) s) else s
     if pll.toNat == 2 && a.isOn 11 then portLost 1 (portLost 0 a) else a) = stopWithPll pll s := by
  have hzero : (pll.toNat == 0) = true ↔ pll = 0 := by simp [BitVec.toNat_eq]
  have htwo : (pll.toNat == 2) = true ↔ pll = 2 := by simp [BitVec.toNat_eq]
  simp only [Bool.and_eq_true, hzero, htwo, stopWithPll]
  by_cases hc : pll = 0
  · subst hc
    simp
  · simp only [hc, if_false]

theorem completes_pllLockLoss (pll : BitVec 2) : (Rows.pllLockLoss pll).Completes := by
  intro s hl
  show execPllLockLoss pll s = _
  simp only [execPllLockLoss, show rd s.clk.lock pll.toNat = true from hl, Bool.not_true, Bool.false_eq_true, if_false, stopWithPll_eq]
  split <;> rfl

/-- Settles O20: row by row. -/
theorem clockEventsComplete : Obligations.ClockEventsComplete :=
  ⟨completes_xo32QualifyInterval, completes_xo32EdgeLoss, completes_xo32Absent, completes_xo32Retry, completes_xo24Qualified,
    completes_xo24SecondTry, completes_xo24Fails, completes_xo24Retry, completes_xo24Stopped, completes_pllLocked,
    completes_pllLockLoss⟩

end Sys2Proof.Machine

/-! PROOFS. The events of the power domains, the rails and the hold-up supply complete (R74 to R77, R105). -/

namespace Sys2Proof.Machine

/-- Tables 3-3 and 6-2 name the domains whose switch is a bubble. -/
theorem switchBubbles_iff (n : Nat) : switchBubbles n = true ↔ n = 3 ∨ 8 ≤ n := by simp [switchBubbles]

theorem completes_domainSwitchDone (us va30 : Nat) (milli : Int) : (Rows.domainSwitchDone us va30 milli).Completes := by
  rintro s ⟨⟨n, v⟩, hreq, hbubble⟩
  show execDomainSwitchDone us va30 milli s = _
  have hmay : (switchBubbles n && s.isOn n != v && !mayBubble s) = false := by
    by_cases hb : n = 3 ∨ 8 ≤ n
    · by_cases hon : s.isOn n = v
      · simp [hon]
      · simp [hbubble hb hon]
    · simp [switchBubbles, not_or.1 hb]
  simp only [execDomainSwitchDone, hreq, hmay, switchBubbles_iff, Option.getD_some, Bool.false_eq_true, if_false, beq_iff_eq]
  exact (apply_ite Host.Outcome.next _ _ _).symm

theorem completes_domainIdleRelease (domain : BitVec 5) : (Rows.domainIdleRelease domain).Completes := by
  rintro s ⟨hon, hlt, hmay, hstage⟩
  show execDomainIdleRelease domain s = _
  simp [execDomainIdleRelease, hon, hlt, hmay, hstage]

theorem completes_va30OutOfRegulation : Rows.va30OutOfRegulation.Completes := by
  rintro s ⟨hon, hok⟩
  show execVa30OutOfRegulation true s = _
  have hbank : (s.isOn 4 || s.isOn 5) = true := by simpa using hon
  simp only [execVa30OutOfRegulation, hbank, hok]
  rfl

theorem completes_va30InRegulation : Rows.va30InRegulation.Completes := fun _ _ => rfl

theorem completes_ioRailRangeChange (sensor inRange : Bool) : (Rows.ioRailRangeChange sensor inRange).Completes := by
  intro s _
  cases sensor <;> rfl

theorem completes_vcoreBuckInRegulation : Rows.vcoreBuckInRegulation.Completes := by
  rintro s ⟨hw, hb⟩
  show execVcoreBuckInRegulation s = _
  simp [execVcoreBuckInRegulation, Option.isSome_iff_ne_none.1 hw, hb]

theorem completes_vholdThreshold (mv : BitVec 16) : (Rows.vholdThreshold mv).Completes := by
  intro s hon
  show execVholdThreshold mv s = _
  simp only [execVholdThreshold, show s.isOn 0 = true from hon, Bool.and_eq_true, bne_iff_ne]
  exact (apply_ite Host.Outcome.next _ _ _).symm

theorem completes_holdupHoldEnd : Rows.holdupHoldEnd.Completes := by
  intro s hc
  exact if_pos hc

/-- Settles O21: row by row. -/
theorem domainEventsComplete : Obligations.DomainEventsComplete :=
  ⟨completes_domainSwitchDone, completes_domainIdleRelease, completes_va30OutOfRegulation, completes_va30InRegulation,
    completes_ioRailRangeChange, completes_vcoreBuckInRegulation, completes_vholdThreshold, completes_holdupHoldEnd⟩

end Sys2Proof.Machine

/-! PROOFS. The events of sleep and wake complete (R81 to R89, R97). -/

namespace Sys2Proof.Machine

theorem completes_sleepEntryStart : Rows.sleepEntryStart.Completes := by
  intro s hr
  show execSleepEntryStart s = _
  cases he : s.pwr.entry with
  | none => simp [he] at hr
  | some e =>
    have hb : e.begun = false := by simpa [he] using hr
    simp [execSleepEntryStart, he, hb]

theorem completes_autoSleepDwellExpiry : Rows.autoSleepDwellExpiry.Completes := by
  rintro s ⟨hstate, hw, hp, he, hidle, hauto⟩
  show execAutoSleepDwellExpiry s = _
  have hawake : (s.pwr.state == .active || s.pwr.state == .summit) = true := by simpa using hstate
  simp only [execAutoSleepDwellExpiry, hawake, hw, hp, he, hidle]
  rcases hauto with ha | ha <;> simp only [ha] <;> rfl

theorem completes_sleepEntryComplete (us : Nat) : (Rows.sleepEntryComplete us).Completes := by
  rintro s ⟨⟨e, he, hb, hwaits⟩, hfeatures, hframes, hjobs⟩
  show execSleepEntryComplete us s = _
  have hlink : linkWaits s e = false := by
    cases ha : e.automatic with
    | false => simp [linkWaits, ha]
    | true =>
      obtain ⟨hslots, hreplies, hrelayed⟩ := hwaits ha
      simp [linkWaits, hslots, hreplies, hrelayed]
  simp only [execSleepEntryComplete, he, hb, hlink, hfeatures, hframes, hjobs, Option.getD_some]
  exact (apply_ite Host.Outcome.next _ _ _).symm

theorem completes_wakeNLow : Rows.wakeNLow.Completes := by
  rintro s ⟨hon, hv⟩
  show execWakeNLow s = _
  simp only [execWakeNLow, hon, hv]
  rfl

theorem completes_tickAlarmFire : Rows.tickAlarmFire.Completes := by
  rintro s ⟨hon, hen, hval⟩
  show execTickAlarmFire s = _
  simp only [execTickAlarmFire, hon, hen, hval, bne_self_eq_false, beq_iff_eq]
  rfl

theorem completes_watchThresholdFire (channel : BitVec 5) (samples : List Int) : (Rows.watchThresholdFire channel samples).Completes := by
  rintro s ⟨hany, hstate, hdue, hlen, hworks, hlive⟩
  show execWatchThresholdFire channel samples s = _
  have hi : s.pwr.watching.entries.findIdx (·.channel == channel) < s.pwr.watching.entries.length := by
    simpa [List.findIdx_lt_length] using hany
  simp only [execWatchThresholdFire, List.getElem?_eq_getElem hi, hstate, hdue, hlen, hworks, hlive, List.getD_eq_getElem?_getD,
    Option.getD_some, bne_self_eq_false]
  rfl

theorem completes_ropeSquelchWake : Rows.ropeSquelchWake.Completes := by
  rintro s ⟨hridge, hon⟩
  show execRopeSquelchWake s = _
  simp only [execRopeSquelchWake, hridge, hon]
  rfl

theorem completes_wakeComplete : Rows.wakeComplete.Completes := by
  rintro s ⟨hw, hreq⟩
  show execWakeComplete s = _
  obtain ⟨w, hw⟩ := Option.isSome_iff_exists.1 hw
  simp only [execWakeComplete, hw, hreq, Option.getD_some]
  rfl

/-- Settles O22: row by row. -/
theorem sleepEventsComplete : Obligations.SleepEventsComplete :=
  ⟨completes_sleepEntryStart, completes_autoSleepDwellExpiry, completes_sleepEntryComplete, completes_wakeNLow,
    completes_tickAlarmFire, completes_watchThresholdFire, completes_ropeSquelchWake, completes_wakeComplete⟩

end Sys2Proof.Machine

/-! PROOFS. The governor's samples and the resets complete (R91 to R95, R107 to R118). -/

namespace Sys2Proof.Machine

theorem completes_governorSample (cores : Vector Int 8) (engine anchor : Int) : (Rows.governorSample cores engine anchor).Completes := by
  rintro s ⟨hon, hr, hstage⟩
  show execGovernorSample cores engine anchor s = _
  simp only [execGovernorSample, hon, hr, hstage, Bool.or_eq_true, Bool.not_eq_true', decide_eq_true_eq, beq_iff_eq]
  rfl

theorem completes_governorInReset (cores : Vector Int 8) (engine anchor : Int) : (Rows.governorInReset cores engine anchor).Completes := by
  rintro s ⟨hon, hr, hstage⟩
  show execGovernorSample cores engine anchor s = _
  simp only [execGovernorSample, hon, hr, bne_iff_ne.2 hstage]
  rfl

theorem completes_anchorTempSample (anchor : Int) : (Rows.anchorTempSample anchor).Completes := by
  intro s ha
  show execAnchorTempSample anchor s = _
  simp only [execAnchorTempSample, show asleep s = true from ha]
  rfl

theorem completes_resetReplyTimeout : Rows.resetReplyTimeout.Completes := by
  intro s hs
  obtain ⟨c, hc⟩ := Option.isSome_iff_exists.1 hs
  show execResetReplyTimeout s = _
  simp only [execResetReplyTimeout, scheduledReset, hc, Option.getD_some]

theorem completes_resetPinAssert : Rows.resetPinAssert.Completes := by
  intro s hon
  have hoff : (!s.isOn 0) = false := by simpa using hon
  exact if_neg (ne_true_of_eq_false hoff)

theorem completes_resetPinRelease : Rows.resetPinRelease.Completes := fun _ _ => rfl

theorem completes_brownoutRelease : Rows.brownoutRelease.Completes := fun _ _ => rfl

theorem completes_thermalResetRelease : Rows.thermalResetRelease.Completes := fun _ _ => rfl

theorem completes_resetTakeEffect : Rows.resetTakeEffect.Completes := by
  rintro s ⟨hstage, hbusy, hposted, hwaiting, hqueue⟩
  exact if_neg (by simp [hstage, hbusy, hposted, hwaiting, hqueue])

theorem completes_powerOnReset (slow : Bool) : (Rows.powerOnReset slow).Completes := by
  intro s hoff
  exact if_neg (by simpa using hoff)

theorem completes_brownoutDetect (programs : List (Nat × Nat)) : (Rows.brownoutDetect programs).Completes := by
  rintro s ⟨hon, hhold⟩
  exact if_neg (by simp [hon, hhold])

theorem completes_powerOff : Rows.powerOff.Completes := by
  intro s hoff
  exact if_neg (by simpa using hoff)

theorem completes_watchdogExpiry : Rows.watchdogExpiry.Completes := by
  rintro s ⟨hon, hr, hstage, hp⟩
  exact if_neg (by simp [hon, hr, hstage, hp])

theorem cairn_clk (type source : BitVec 16) (payload : Bytes) (s : State) : (cairn type source payload s).clk = s.clk :=
  (cairn_parts type source payload s).2 .clk (by decide)

theorem completes_controlCoreException (code : Word32) : (Rows.controlCoreException code).Completes := by
  rintro s ⟨hp, hstage, hon, hr⟩
  show execControlCoreException code s = _
  have hruns : (s.boot.phase == .init || s.boot.phase == .ready || s.boot.phase == .restarting) = true := by
    simpa [or_assoc] using hp
  simp only [execControlCoreException, hruns, hstage, hon, hr, Bool.not_true, bne_self_eq_false, Bool.or_self, Bool.false_eq_true,
    if_false, cairn_clk]
  exact (apply_ite Host.Outcome.next _ _ _).symm

theorem completes_firmwareRestartDone : Rows.firmwareRestartDone.Completes := by
  rintro s ⟨hp, hstage, hposted, hwaiting⟩
  show execFirmwareRestartDone s = _
  have hslots : (onBoot (fun b => { b with restarts := satInc b.restarts }) (enterPhase .ready s)).link.slots = s.link.slots := rfl
  simp only [execFirmwareRestartDone, hp, hstage, hposted, hwaiting, List.isEmpty_nil, Bool.not_true, bne_self_eq_false, Bool.or_self,
    Bool.false_eq_true, if_false, hslots]
  by_cases hc : s.boot.counted = true
  · simp only [hc, Bool.not_true, Bool.false_eq_true, if_false, if_true]
  · simp only [hc, Bool.not_false, Bool.false_eq_true, if_false, if_true]

/-- Settles O23: row by row. -/
theorem resetEventsComplete : Obligations.ResetEventsComplete :=
  ⟨completes_governorSample, completes_governorInReset, completes_anchorTempSample, completes_resetReplyTimeout,
    completes_resetPinAssert, completes_resetPinRelease, completes_brownoutRelease, completes_thermalResetRelease,
    completes_resetTakeEffect, completes_powerOnReset, completes_brownoutDetect, completes_powerOff, completes_watchdogExpiry,
    completes_controlCoreException, completes_firmwareRestartDone⟩

end Sys2Proof.Machine

/-! PROOFS. What the state at reset holds (R33, R44, R64, R217, R333, R398, R403). -/

namespace Sys2Proof.Machine

theorem fixed_fixed (n : Nat) (b : Bytes) : fixed n (fixed n b) = fixed n b := by
  have hl : (fixed n b).length = n := by simp [fixed]; omega
  generalize fixed n b = x at hl
  simp [fixed, ← hl]

/-- A page as manufacture programs it with the manufacture entry. -/
def entryPage (page : Nat) : PageInfo := { page, programs := 1, data := manufacturePage }

theorem pageInfo_reset_circular : pageInfo State.reset 0x1240 = entryPage 0x1240 := by
  simp [pageInfo, State.reset, manufacturePages, entryPage]

theorem pageInfo_reset_pinned : pageInfo State.reset 0x1200 = entryPage 0x1200 := by
  simp [pageInfo, State.reset, manufacturePages, entryPage]

/-- What a page of the manufacture entry reads as: the entry where its code corrects the page's bit errors, and zeros where there
are more (R217). -/
theorem cellsBytes_entryPage {page : Nat} (hp : pageInfo State.reset page = entryPage page) :
    cellsBytes State.reset page = if Config.bitErrors page 1 ≤ 4 then manufacturePage else List.replicate 256 0 := by
  have hbytes : unsealed State.reset (pageInfo State.reset page) = some manufacturePage := by
    rw [hp]
    simp [unsealed, entryPage, PageInfo.bytes, manufacturePage, fixed_fixed]
  have hstate : cellsState State.reset page =
      if Config.bitErrors page 1 == 0 then .valid else if Config.bitErrors page 1 ≤ 4 then .corrected else .uncorrectable := by
    simp only [cellsState, hbytes]
    rw [hp]
    rfl
  rw [cellsBytes, hstate, hbytes]
  by_cases hzero : Config.bitErrors page 1 = 0
  · simp [hzero]
  · by_cases hfour : Config.bitErrors page 1 ≤ 4 <;> simp [hzero, hfour]

/-- A position of the record whose page holds the manufacture entry reads SEQ 1 exactly where the page's code corrects its bit
errors. -/
theorem seq_one_iff {pos : Nat} (hp : pageInfo State.reset (cellPage pos) = entryPage (cellPage pos)) (hpos : pos % 4 = 0) :
    (cell State.reset pos).take 4 = [1, 0, 0, 0] ↔ Config.bitErrors (cellPage pos) 1 ≤ 4 := by
  rw [cell, cellsBytes_entryPage hp, hpos]
  split
  · next h => simp only [h, iff_true]; decide +kernel
  · next h => simp only [h, iff_false]; decide +kernel

theorem reset_memoryWf : MemoryWf State.reset := by
  constructor <;> simp [State.reset, manufacturePages, PageInfo.listed]

/-- The claim about reset comes to two of the part's own values, the bit errors at reads of the manufacture entry's two pages.
These are constants without a body (log entry 154), so neither the claim nor its negation follows from the model. -/
theorem resetState_iff : Obligations.ResetState ↔ Config.bitErrors 0x1200 1 ≤ 4 ∧ Config.bitErrors 0x1240 1 ≤ 4 := by
  have hpinned := seq_one_iff (pos := 0) pageInfo_reset_pinned rfl
  have hcircular := seq_one_iff (pos := 256) pageInfo_reset_circular rfl
  constructor
  · rintro ⟨-, -, -, -, -, -, -, -, -, -, hcopy, hseq, -⟩
    exact ⟨hpinned.1 (hcopy ▸ hseq), hcircular.1 hseq⟩
  · rintro ⟨hp, hc⟩
    have hcopy : cell State.reset 0 = cell State.reset 256 := by
      rw [cell, cell, show cellPage 0 = 0x1200 from rfl, show cellPage 256 = 0x1240 from rfl,
        cellsBytes_entryPage pageInfo_reset_pinned, cellsBytes_entryPage pageInfo_reset_circular, if_pos hp, if_pos hc]
    exact ⟨rfl, rfl, rfl, rfl, rfl, rfl, rfl, by decide +kernel, rfl, rfl, hcopy, hcircular.2 hc, reset_memoryWf⟩

end Sys2Proof.Machine

/-! PROOFS. The commands of firmware update and the NVM complete (chapters 04 and 09). -/

namespace Sys2Proof.Machine

theorem completes_fwUpdateBegin : Rows.fwUpdateBegin.Completes := by
  rintro h p s ⟨ht, hr, hl, hz, hsize, hcap, hsvn, hbegin, hcommit⟩
  refine serve_row ht hr (by simp [hl]) (by simp [zeros, hz]) ?_
  have hparam : (fld p 0 4 == 0 || decide (slotCapacity < fld p 0 4) || decide (fld p 8 4 < s.boot.svnFloor.toNat)) = false := by
    have hover : ¬ slotCapacity < fld p 0 4 := Nat.not_lt.2 hcap
    rw [beq_false_of_ne (Nat.ne_of_gt hsize), decide_eq_false hover, decide_eq_false (Nat.not_lt.2 hsvn)]
    rfl
  exact refuseIf_clear _ _ _ _ (List.forall_mem_cons.2 ⟨hparam, by simp [hbegin, hcommit]⟩)

@[simp] theorem entered_fwBytes (op : Byte) (h : Hdr) (s : State) (k : Nat) : fwBytes (entered op h s) k = fwBytes s k := rfl

theorem completes_fwUpdateData : Rows.fwUpdateData.Completes := by
  rintro h p s ⟨ht, hr, hmin, hmax, k, hk, hoff, hsize⟩
  refine serve_row ht hr (by simp [hmin, hmax]) rfl ?_
  have hup : (entered 0xD1 h s).boot.updating = some k := hk
  simp only [hup, Option.getD_some]
  refine (refuseIf_clear _ _ _ _ ?_).trans ?_
  · simpa [← hoff] using hsize
  · simp only [List.length_drop]

theorem completes_fwUpdateCommit : Rows.fwUpdateCommit.Completes := by
  rintro h p s ⟨ht, hr, hl, hz, hup, hcommit, hbegin⟩
  refine serve_row ht hr (by simp [hl]) (by simpa using Nat.div_eq_of_lt hz) ?_
  obtain ⟨k, hk⟩ := Option.isSome_iff_exists.1 hup
  have hslot : (started h.tag (entered 0xD2 h s)).boot.updating.getD 0 = k := by simp [hk]
  simp only [entered_boot, hk, hslot]
  exact (refuseIf_clear _ _ _ _ (by simp [hbegin, hcommit])).trans rfl

theorem completes_fwSlotStatus : Rows.fwSlotStatus.Completes := by
  rintro h p s ⟨ht, hr, rfl⟩
  exact serve_row ht hr rfl rfl rfl

theorem completes_nvmStatus : Rows.nvmStatus.Completes := by
  rintro h p s ⟨ht, hr, rfl⟩
  refine serve_row ht hr rfl rfl ?_
  simp only [programsHeld, List.flatMap_cons, List.flatMap_nil, List.append_nil, List.append_assoc]

theorem completes_nvmRegionInfo : Rows.nvmRegionInfo.Completes := by
  rintro h p s ⟨ht, hr, hl, hregion⟩
  refine serve_row ht hr (by simp [hl]) rfl ?_
  exact refuseIf_clear _ _ _ _ (by simp; omega)

/-- Settles O7: row by row. -/
theorem firmwareCommandsComplete : Obligations.FirmwareCommandsComplete := by
  simp only [Obligations.FirmwareCommandsComplete, Rows.firmwareRows, List.forall_mem_cons]
  exact ⟨completes_fwUpdateBegin, completes_fwUpdateData, completes_fwUpdateCommit, completes_fwSlotStatus, completes_nvmStatus,
    completes_nvmRegionInfo, List.forall_mem_nil _⟩

end Sys2Proof.Machine

/-! PROOFS. The steps of booting complete (R98, R101, R104, R112, R113). -/

namespace Sys2Proof.Machine

theorem completes_bootRomStart (straps : BitVec 4) (programs : Vector (Nat × Nat) 4) : (Rows.bootRomStart straps programs).Completes := by
  rintro s ⟨hon, hstage, hheld⟩
  show execBootRomStart straps programs s = _
  have hruns : (!s.isOn 0 || s.boot.stage != .held || heldInReset s) = false := by simp [hon, hstage, hheld]
  simp only [execBootRomStart, hruns, Bool.false_eq_true, if_false, beq_iff_eq, enterAuth, apply_ite Host.Outcome.next]

theorem completes_erasePendingComplete : Rows.erasePendingComplete.Completes := by
  rintro s ⟨hp, hstage, herase, hflag⟩
  exact if_neg (by simp [hp, hstage, herase, hflag])

theorem completes_authComplete : Rows.authComplete.Completes := by
  rintro s ⟨hp, hstage⟩
  refine (if_neg (by simp [hp, hstage])).trans ?_
  simp only [apply_ite Host.Outcome.next]

theorem completes_deviceReady : Rows.deviceReady.Completes := by
  rintro s ⟨hp, hstage⟩
  show execDeviceReady s = _
  simp only [execDeviceReady, hp, hstage, firstReady, recordBoot]
  rfl

theorem completes_bootGuardExpiry : Rows.bootGuardExpiry.Completes := by
  intro s hguard
  exact if_neg (by simpa using hguard)

/-- Settles O24: row by row. -/
theorem bootEventsComplete : Obligations.BootEventsComplete :=
  ⟨completes_bootRomStart, completes_erasePendingComplete, completes_authComplete, completes_deviceReady, completes_bootGuardExpiry⟩

end Sys2Proof.Machine

/-! PROOFS. The commands of the front end complete (chapter 05). -/

namespace Sys2Proof.Machine

@[simp] theorem entered_clockDown (op : Byte) (h : Hdr) (s : State) (n : Nat) : clockDown (entered op h s) n = clockDown s n := rfl

/-- What R146 asks of a configuration command: it changes nothing, or nothing that runs uses what it changes. -/
theorem change_allowed {α : Type} [BEq α] [LawfulBEq α] {new old : α} {busy : Bool} (h : new = old ∨ busy = false) :
    (new != old && busy) = false := by
  rcases h with h | h <;> simp [h]

theorem completes_afePinRoleSet : Rows.afePinRoleSet.Completes := by
  rintro h p s ⟨ht, hr, hmod, hmin, hmax, hz, hrange, hnodup, hbank0, hbank1, howners, hidle⟩
  refine serve_row ht hr (by simp [hmod, hmin, hmax]) (by simpa using hz) (refuseIf_clear _ _ _ _ ?_)
  have hparam : (roleEntries p).any (fun e => decide (48 ≤ e.1) || decide (8 < e.2.role.toNat)) = false := by
    simpa using fun i c hc => hrange (i, c) hc
  have hbusy : ((roleEntries p).filter fun e => rd s.afe.pins e.1 != e.2).any
      (fun e => pinBusy s e.1 (rd s.afe.pins e.1) || pinBusy s e.1 e.2) = false := by
    refine List.any_eq_false.2 fun e he => ?_
    obtain ⟨hmem, hne⟩ := List.mem_filter.1 he
    simp [(hidle e hmem).resolve_left (bne_iff_ne.1 hne)]
  simp only [List.forall_mem_cons]
  exact ⟨by simp [hparam, hnodup, hbank0, hbank1, howners], hbusy, List.forall_mem_nil _⟩

theorem completes_afePinRoleGet : Rows.afePinRoleGet.Completes := by
  rintro h p s ⟨ht, hr, hl, hbank⟩
  exact serve_row ht hr (by simp [hl]) rfl (refuseIf_clear _ _ _ _ (by simpa using hbank))

theorem completes_afeChannelConfig : Rows.afeChannelConfig.Completes := by
  rintro h p s ⟨ht, hr, hl, hz, hcfg, hcfg', hleads, hsetup, hch, hrange, hfits, howners, hidle⟩
  refine serve_row ht hr (by simp [hl]) (by simp [hz, hcfg, hcfg', hleads, hsetup]) (refuseIf_clear _ _ _ _ ?_)
  simp only [List.forall_mem_cons]
  exact ⟨by simp [hch, hrange, hfits, howners], change_allowed hidle, List.forall_mem_nil _⟩

theorem completes_afeChannelGet : Rows.afeChannelGet.Completes := by
  rintro h p s ⟨ht, hr, hl, hch⟩
  exact serve_row ht hr (by simp [hl]) rfl (refuseIf_clear _ _ _ _ (by simpa using hch))

theorem completes_afeExcitationSet : Rows.afeExcitationSet.Completes := by
  rintro h p s ⟨ht, hr, hl, hz, hz', hmode, hd, hlevel, hsettle, hidle⟩
  refine serve_row ht hr (by simp [hl]) (by simp [hz, hz', hmode]) (refuseIf_clear _ _ _ _ ?_)
  have hburst : ((BitVec.ofNat 32 (fld p 4 4)).getLsbD 9 && bits (BitVec.ofNat 32 (fld p 4 4)).toNat 16 8 == 0) = false := by
    simpa only [Bool.and_eq_false_imp, beq_eq_false_iff_ne] using hsettle
  have hrange : (decide (8 ≤ fld p 0 1) || decide (200 < bits (BitVec.ofNat 32 (fld p 4 4)).toNat 0 8)) = false := by
    rw [decide_eq_false (Nat.not_le.2 hd), decide_eq_false (Nat.not_lt.2 hlevel), Bool.or_self]
  simp only [List.forall_mem_cons]
  exact ⟨Bool.or_eq_false_iff.2 ⟨hrange, hburst⟩, change_allowed hidle, List.forall_mem_nil _⟩

theorem leadForm_opcode : leadForm.opcode = 0x25 := rfl

theorem pairForm_opcode : pairForm.opcode = 0x27 := rfl

/-- A lead measurement of free pins by a free channel is started, whichever its mode (R137, R139). -/
theorem startLead_free {kelvin : Bool} {h : Hdr} {p : Bytes} {s : State} {pins : List Nat} (op : Byte)
    (hp : (if kelvin then [fld p 1 1, fld p 2 1, fld p 3 1] else [fld p 1 1, fld p 2 1]) = pins)
    (hfree : Rows.leadFree pins (fld p 4 1) s) (hz : fld p 8 4 = 0) (hk : kelvin = false → fld p 3 1 = 0) :
    startLead kelvin h p (entered op h s) =
      started h.tag (wantBanks [fld p 4 1] { entered op h s with afe := { (entered op h s).afe with leadRuns := s.afe.leadRuns
        ++ [{ tag := h.tag, kelvin, p := fld p 1 1, q := fld p 2 1, s := fld p 3 1, channel := fld p 4 1 }] } }) := by
  have hhead : pins.headD 0 = fld p 1 1 := by subst hp; cases kelvin <;> rfl
  obtain ⟨hpins, hnodup, hch, hbank, hbusy, hheld, hon, hclock⟩ := hfree
  rw [hhead] at hpins hbank hheld hon hclock
  have hlow : pins.any (fun x => decide (48 ≤ x)) = false := by simpa using fun x hx => (hpins x hx).1
  have hsame : pins.any (fun x => x / 24 != fld p 1 1 / 24) = false := by simpa using fun x hx => (hpins x hx).2.1
  have hidle : pins.any (fun x => pinBusy s x (rd s.afe.pins x)) = false := by simpa using fun x hx => (hpins x hx).2.2
  have hmode : (!kelvin && fld p 3 1 != 0) = false := by
    cases kelvin
    · exact bne_eq_false_iff_eq.2 (hk rfl)
    · rfl
  simp only [startLead, hp]
  refine refuseIf_clear _ _ _ _ ?_
  simp [hlow, hnodup, hsame, hmode, hch, hbank, hz, hbusy, hidle, hheld, hon, hclock]

theorem completes_afeLeadMeasureLoop : Rows.afeLeadMeasureLoop.Completes := by
  rintro h p s ⟨ht, hr, hl, hz, hsense, hvalue, hfree⟩
  exact serve_row ht hr (by simp [leadForm, hl]) (by simp [leadForm, zeros, hz])
    (startLead_free (kelvin := false) _ rfl hfree hvalue fun _ => hsense)

theorem completes_afeLeadMeasureKelvin : Rows.afeLeadMeasureKelvin.Completes := by
  rintro h p s ⟨ht, hr, hl, hz, hvalue, hfree⟩
  exact serve_row ht hr (by simp [leadForm, hl]) (by simp [leadForm, zeros, hz])
    (startLead_free (kelvin := true) _ rfl hfree hvalue nofun)

theorem completes_afeLeadMeasureSet : Rows.afeLeadMeasureSet.Completes := by
  rintro h p s ⟨ht, hr, hl, hz, hpin, hz', hvalue, hidle⟩
  refine serve_row ht hr (by simp [leadForm, hl]) (by simp [leadForm, zeros, hz]) ((refuseIf_clear _ _ _ _ ?_).trans ?_)
  · simpa [hz', hidle] using ⟨hpin, hvalue⟩
  · rw [leadForm_opcode]

theorem completes_afeLeadGet : Rows.afeLeadGet.Completes := by
  rintro h p s ⟨ht, hr, hl, hbank⟩
  exact serve_row ht hr (by simp [hl]) rfl (refuseIf_clear _ _ _ _ (by simpa using hbank))

theorem completes_afePairConfigSet : Rows.afePairConfigSet.Completes := by
  rintro h p s ⟨ht, hr, hl, hz, hpair, ha, hb, hab, hratio, hlag, hpersist, hdig, hapart⟩
  refine serve_row ht hr (by simp [pairForm, hl]) (by simp [pairForm, zeros, hz]) ((refuseIf_clear _ _ _ _ ?_).trans ?_)
  · have htaken : ((List.range 16).any fun o =>
        o != fld p 0 1 && (rd s.afe.pairs o).configured && [fld p 2 1, fld p 3 1].any fun x =>
          x == (rd s.afe.pairs o).streamA || x == (rd s.afe.pairs o).streamB) = false := by
      refine List.any_eq_false.2 fun o ho => ?_
      rcases hapart o (List.mem_range.1 ho) with hsame | hfree | hother
      · simp [hsame]
      · simp [hfree]
      · simp [hother _ List.mem_cons_self, hother _ (List.mem_cons_of_mem _ List.mem_cons_self)]
    have hrange : (fld p 4 2 != 0 && (decide (fld p 4 2 < 0x101) || decide (0x1000 < fld p 4 2))) = false := by
      rcases hratio with hzero | ⟨hmin, hmax⟩
      · simp [hzero]
      · simp [hmin, hmax]
    refine List.forall_mem_singleton.2 ?_
    simp only [entered_afe, htaken, hrange, decide_eq_false (Nat.not_le.2 hpair), decide_eq_false (Nat.not_le.2 ha),
      decide_eq_false (Nat.not_le.2 hb), decide_eq_false (Nat.not_lt.2 hlag), beq_eq_false_iff_ne.2 hab,
      beq_eq_false_iff_ne.2 hpersist, beq_eq_false_iff_ne.2 hdig, Bool.or_self]
  · rw [pairForm_opcode]

theorem completes_afePairConfigRemove : Rows.afePairConfigRemove.Completes := by
  rintro h p s ⟨ht, hr, hl, hz, hpair⟩
  exact serve_row ht hr (by simp [pairForm, hl]) (by simp [pairForm, zeros, hz]) (refuseIf_clear _ _ _ _ (by simpa using hpair))

theorem completes_afePairStatus : Rows.afePairStatus.Completes := by
  rintro h p s ⟨ht, hr, hl, hpair⟩
  refine serve_row ht hr (by simp [hl]) rfl ((refuseIf_clear _ _ _ _ ?_).trans ?_)
  · rcases hpair with h | h <;> simp [h]
  · simp only [beq_iff_eq]

theorem completes_afeDiag : Rows.afeDiag.Completes := by
  rintro h p s ⟨ht, hr, hl, hbank⟩
  exact serve_row ht hr (by simp [hl]) rfl (refuseIf_clear _ _ _ _ (by simpa using hbank))

theorem completes_afeCalRun : Rows.afeCalRun.Completes := by
  rintro h p s ⟨ht, hr, hl, hz, hmask, hmin, hmax, hfree⟩
  refine serve_row ht hr (by simp [hl]) (by simp [zeros, hz]) (refuseIf_clear _ _ _ _ ?_)
  have hfits : (members 32 (fld p 0 4)).any
      (fun c => (rd s.afe.channels c).configured && !(rd s.afe.channels c).fits (fld p 4 2)) = false :=
    List.any_eq_false.2 fun c hc => by simp [(hfree c hc).1]
  have hready : (members 32 (fld p 0 4)).any (fun c => notReady s.afe c != 0) = false := by
    simpa using fun c hc => (hfree c hc).2.1
  have hbusy : (members 32 (fld p 0 4)).any
      (fun c => channelBusy s c || commandHolds s c || (driverOf s.afe c).any (driverBusy s)) = false := by
    refine List.any_eq_false.2 fun c hc => ?_
    obtain ⟨-, -, hch, hcom, hdrv, -⟩ := hfree c hc
    simp [hch, hcom, hdrv]
  have hclock : (members 32 (fld p 0 4)).any (fun c => clockDown s (4 + c / 16)) = false := by
    refine List.any_eq_false.2 fun c hc => ?_
    obtain ⟨-, -, -, -, -, hclock⟩ := hfree c hc
    simp [hclock]
  have hparam : (fld p 0 4 == 0 || decide (fld p 4 2 < 64) || decide (512 < fld p 4 2)) = false := by
    simp [hmask, hmin, hmax]
  simp only [List.forall_mem_cons]
  exact ⟨Bool.or_eq_false_iff.2 ⟨hparam, hfits⟩, hready, hbusy, hclock, List.forall_mem_nil _⟩

theorem completes_afeBankEnable : Rows.afeBankEnable.Completes := by
  rintro h p s ⟨ht, hr, hl, hv, hfree⟩
  refine serve_row ht hr (by simp [hl]) (by simpa using hv) ((refuseIf_clear _ _ _ _ ?_).trans ?_)
  · simpa [Nat.lt_succ_iff] using hfree
  · have hbanks : (BitVec.ofNat 2 (fld p 0 1)).toNat = fld p 0 1 := Nat.mod_eq_of_lt hv
    simp only [hbanks]
    rfl

/-- Settles O9: row by row. -/
theorem frontEndCommandsComplete : Obligations.FrontEndCommandsComplete := by
  simp only [Obligations.FrontEndCommandsComplete, Rows.frontEndRows, List.forall_mem_cons]
  exact ⟨completes_afePinRoleSet, completes_afePinRoleGet, completes_afeChannelConfig, completes_afeChannelGet,
    completes_afeExcitationSet, completes_afeLeadMeasureLoop, completes_afeLeadMeasureKelvin, completes_afeLeadMeasureSet,
    completes_afeLeadGet, completes_afePairConfigSet, completes_afePairConfigRemove, completes_afePairStatus, completes_afeDiag,
    completes_afeCalRun, completes_afeBankEnable, List.forall_mem_nil _⟩

end Sys2Proof.Machine

/-! PROOFS. The events of the front end and of samples complete (R127, R132, R136, R137, R148 to R152, R160, R164). -/

namespace Sys2Proof.Machine

/-- Where some element passes, the first that does is the one that `find?` with a default yields. -/
theorem find?_eq_some_getD {α : Type} [Inhabited α] {l : List α} {p : α → Bool} (h : l.any p = true) :
    l.find? p = some ((l.find? p).getD default) := by
  obtain ⟨a, ha⟩ := Option.isSome_iff_exists.1 (List.isSome_find?.trans h)
  rw [ha, Option.getD_some]

theorem completes_excLimitEngaged (d : BitVec 3) : (Rows.excLimitEngaged d).Completes := by
  rintro s ⟨hlimit, hdrives⟩
  exact if_neg (by simp [hlimit, hdrives])

theorem completes_excLimitReleased (d : BitVec 3) : (Rows.excLimitReleased d).Completes := by
  intro s hlimit
  exact if_neg (by simpa using hlimit)

theorem completes_leadMeasureDone (picovolts : Nat) : (Rows.leadMeasureDone picovolts).Completes := by
  intro s hany
  show execLeadMeasureDone picovolts s = _
  rw [execLeadMeasureDone, find?_eq_some_getD hany]

theorem completes_streamStartInstant : Rows.streamStartInstant.Completes := by
  intro s hany
  show execStreamStartInstant s = _
  rw [execStreamStartInstant, find?_eq_some_getD hany]

/-- The operation and its row each match on the frame; `rfl` is for a build in which these are two matchers. -/
theorem completes_driverSettleDone (d : BitVec 3) : (Rows.driverSettleDone d).Completes := by
  intro s _
  show execDriverSettleDone d s = _
  simp only [execDriverSettleDone] <;> rfl

theorem completes_sampleArrival (stream : BitVec 7) (picovolts : Int) (drive sense : Nat) (overload : Bool) :
    (Rows.sampleArrival stream picovolts drive sense overload).Completes := by
  rintro s ⟨hphase, hworks, hlive⟩
  show execSampleArrival stream picovolts drive sense overload s = _
  cases ha : isAnalog stream.toNat with
  | true =>
    have hbank : bankLive s (stream.toNat / 16) = true := by simpa [ha] using hlive
    simp [execSampleArrival, hphase, hworks, ha, hbank]
  | false =>
    have hports : works s 6 = true := by simpa [ha] using hlive
    simp [execSampleArrival, hphase, hworks, ha, hports]

theorem completes_fabricTransaction (stream : BitVec 7) (rest : Bool) : (Rows.fabricTransaction stream rest).Completes := by
  rintro s ⟨hbubble, hworks, hready⟩
  refine if_neg ?_
  cases rest with
  | true => simp [hbubble, hworks]
  | false =>
    have hfull : 16 ≤ (s.strm stream.toNat).fifo.length := by simpa using hready
    simp [hbubble, hworks, hfull]

/-- A frame of a running stream that is not to begin is skipped and counted (R151). -/
theorem execFrameStart_skips {stream : BitVec 7} {s : State} (hphase : (s.strm stream.toNat).phase = .running)
    (hworks : works s 7 = true) (hfull : (s.strm stream.toNat).frame.isSome = true
      ∨ (s.strm stream.toNat).bufFrames.toNat ≤ (s.strm stream.toNat).held.length)
    (hfirst : (s.strm stream.toNat).periodic = true
      ∨ (s.strm stream.toNat).frame = none ∧ (s.strm stream.toNat).skipped = false) :
    execFrameStart stream s = .next (onStream stream.toNat (fun x => { x with
      seq := x.seq + 1, skipped := true, counters := { x.counters with skipped := satInc x.counters.skipped } }) s) := by
  unfold execFrameStart
  cases hframe : (s.strm stream.toNat).frame with
  | none =>
    have hlong : (s.strm stream.toNat).bufFrames.toNat ≤ (s.strm stream.toNat).held.length := by simpa [hframe] using hfull
    have hcount : (!(s.strm stream.toNat).periodic && (s.strm stream.toNat).skipped) = false := by
      rcases hfirst with h | ⟨-, h⟩ <;> simp [h]
    simp [hphase, hworks, hframe, hlong, hcount, b2n]
  | some f =>
    have hperiodic : (s.strm stream.toNat).periodic = true := by simpa [hframe] using hfirst
    simp [hphase, hworks, hframe, hperiodic]

/-- A frame of a running stream with room in its buffer and none open begins (R148, R149). -/
theorem execFrameStart_begins {stream : BitVec 7} {s : State} (hphase : (s.strm stream.toNat).phase = .running)
    (hworks : works s 7 = true) (hframe : (s.strm stream.toNat).frame = none)
    (hroom : (s.strm stream.toNat).held.length < (s.strm stream.toNat).bufFrames.toNat) :
    execFrameStart stream s = .next ((Rows.frameStart stream).effect s) := by
  have hshort : ¬ (s.strm stream.toNat).bufFrames.toNat ≤ (s.strm stream.toNat).held.length := Nat.not_le.2 hroom
  have hopen : ¬ ((s.strm stream.toNat).frame.isSome = true
      ∨ (s.strm stream.toNat).bufFrames.toNat ≤ (s.strm stream.toNat).held.length) := by simp [hframe, hroom]
  unfold execFrameStart
  simp only [if_neg hopen]
  cases hd : driverOf s.afe stream.toNat <;> simp [hphase, hworks, hframe, hshort, b2n]

theorem completes_frameStart (stream : BitVec 7) : (Rows.frameStart stream).Completes := by
  rintro s ⟨hphase, hworks, hnext⟩
  show execFrameStart stream s = _
  by_cases hfull : (s.strm stream.toNat).frame.isSome = true
      ∨ (s.strm stream.toNat).bufFrames.toNat ≤ (s.strm stream.toNat).held.length
  · have hfirst : (s.strm stream.toNat).periodic = true
        ∨ (s.strm stream.toNat).frame = none ∧ (s.strm stream.toNat).skipped = false := by
      rcases hnext with h | h | ⟨hnone, hroom⟩
      · exact .inl h
      · exact .inr h
      · simp [hnone] at hfull
        omega
    exact (execFrameStart_skips hphase hworks hfull hfirst).trans (congrArg Host.Outcome.next (if_pos hfull).symm)
  · obtain ⟨hopen, hroom⟩ := not_or.1 hfull
    exact execFrameStart_begins hphase hworks (by simpa using hopen) (Nat.not_le.1 hroom)

theorem completes_calBurstComplete (channel : BitVec 5) (raws : List Int) (step lead drive sense : Nat) :
    (Rows.calBurstComplete channel raws step lead drive sense).Completes := by
  rintro s ⟨hburst, hworks⟩
  show execCalBurstComplete channel raws step lead drive sense s = _
  cases hf : (s.strm channel.toNat).frame with
  | none => simp [hf] at hburst
  | some f =>
    obtain ⟨hstep, htaken⟩ : f.step = .calibrating ∧ (s.strm channel.toNat).calLen ≤ f.taken := by simpa [hf] using hburst
    have hwaits : (f.step != .calibrating || decide (f.taken < (s.strm channel.toNat).calLen) || !works s 7) = false := by
      simp [hstep, htaken, hworks]
    simp only [execCalBurstComplete, hf, hwaits, Option.getD_some]
    cases bubbling _ <;> rfl

theorem completes_calRunComplete (channel : BitVec 5) (raws : List Int) (step lead drive sense : Nat) :
    (Rows.calRunComplete channel raws step lead drive sense).Completes := by
  rintro s ⟨hframe, hrun, hlive⟩
  show execCalBurstComplete channel raws step lead drive sense s = _
  obtain ⟨r, hr⟩ := Option.isSome_iff_exists.1 hrun
  simp only [execCalBurstComplete, hframe, hr, hlive, Option.getD_some, Bool.not_true, Bool.false_eq_true, if_false, bne_iff_ne]
  by_cases hleft : setBit r.left channel.toNat false = 0
  · exact (if_neg (not_not_intro hleft)).trans (congrArg Host.Outcome.next (if_pos hleft).symm)
  · exact (if_pos hleft).trans (congrArg Host.Outcome.next (if_neg hleft).symm)

/-- Settles O25: row by row. -/
theorem senseEventsComplete : Obligations.SenseEventsComplete :=
  ⟨completes_excLimitEngaged, completes_excLimitReleased, completes_leadMeasureDone, completes_streamStartInstant,
    completes_frameStart, completes_driverSettleDone, completes_sampleArrival, completes_fabricTransaction,
    completes_calBurstComplete, completes_calRunComplete⟩

end Sys2Proof.Machine

/-! PROOFS. The commands of streams, sensor ports and inputs complete (chapter 06). -/

namespace Sys2Proof.Machine

theorem completes_streamConfigSet : Rows.streamConfigSet.Completes := by
  rintro h p s ⟨ht, hr, hl, hz2, hz13, hz24, hb24, hb10, hn, hrange, hidle, hroom⟩
  refine serve_row ht hr (by simp [streamForm, hl]) (by simp [streamForm, zeros, hz2, hz13, hz24, hb24, hb10]) ?_
  refine refuseIf_clear _ _ _ _ ?_
  have hbusy : (!(s.strm (fld p 0 1)).sameEntry (streamFrom p (s.strm (fld p 0 1))) && (s.strm (fld p 0 1)).locked) = false := by
    rcases hidle with h | h <;> simp [h]
  simp only [List.forall_mem_cons]
  exact ⟨by simp [hn, hrange], hbusy, decide_eq_false (Nat.not_lt.2 hroom), List.forall_mem_nil _⟩

theorem completes_streamConfigRemove : Rows.streamConfigRemove.Completes := by
  rintro h p s ⟨ht, hr, hl, hz2, hz13, hz24, hb24, hb10, hn, hidle⟩
  refine serve_row ht hr (by simp [streamForm, hl]) (by simp [streamForm, zeros, hz2, hz13, hz24, hb24, hb10]) ?_
  exact refuseIf_clear _ _ _ _ (by simp [hn, hidle])

theorem completes_streamGet : Rows.streamGet.Completes := by
  rintro h p s ⟨ht, hr, hl, hn⟩
  exact serve_row ht hr (by simp [hl]) rfl (refuseIf_clear _ _ _ _ (by simpa using hn))

theorem completes_streamStart : Rows.streamStart.Completes := by
  rintro h p s ⟨ht, hr, hl, hfree⟩
  refine serve_row ht hr (by simp [hl]) rfl (refuseIf_clear _ _ _ _ ?_)
  have hstate : (streamMask p 0).any (fun n => !(s.strm n).engaged && !streamReady s n) = false :=
    List.any_eq_false.2 fun n hn => by simp [(hfree n hn).2.1]
  have hbusy : (streamMask p 0).any (fun n => (s.strm n).engaged || (isAnalog n && commandHolds s n)) = false := by
    refine List.any_eq_false.2 fun n hn => ?_
    obtain ⟨hrest, -, hheld, -⟩ := hfree n hn
    cases ha : isAnalog n <;> simp [hrest, ha, hheld]
  have hclock : (streamMask p 0).any (fun n => (streamDomains n).any (clockDown s)) = false := by
    refine List.any_eq_false.2 fun n hn => ?_
    obtain ⟨-, -, -, hclock⟩ := hfree n hn
    simpa using hclock
  simp only [List.forall_mem_cons]
  exact ⟨hstate, hbusy, hclock, List.forall_mem_nil _⟩

theorem completes_streamStopNow : Rows.streamStopNow.Completes := by
  rintro h p s ⟨ht, hr, hl, hz⟩
  exact serve_row ht hr (by simp [stopForm, hl]) (by simp [stopForm, zeros, hz]) rfl

theorem completes_streamStopAfterFrame : Rows.streamStopAfterFrame.Completes := by
  rintro h p s ⟨ht, hr, hl, hz⟩
  exact serve_row ht hr (by simp [stopForm, hl]) (by simp [stopForm, zeros, hz]) rfl

theorem completes_sportConfig : Rows.sportConfig.Completes := by
  rintro h p s ⟨ht, hr, hmin, hl, hz, hi, hmode, hidle⟩
  refine serve_row ht hr (by simp [← hl, hmin]) hz (refuseIf_clear _ _ _ _ ?_)
  simp only [List.forall_mem_cons]
  refine ⟨?_, ?_, List.forall_mem_nil _⟩
  · rcases hmode with ⟨hm, hok⟩ | ⟨hm, hok⟩ | ⟨hm, hok⟩ <;> simp [hm, hok, hi]
  · rcases hidle with ⟨hm, hc, hf, hs⟩ | hrest
    · simp [← hm, ← hc, ← hf, ← hs]
    · simp [hrest]

theorem completes_sportGet : Rows.sportGet.Completes := by
  rintro h p s ⟨ht, hr, hl, hi⟩
  exact serve_row ht hr (by simp [hl]) rfl (refuseIf_clear _ _ _ _ (by simpa using hi))

theorem completes_tachConfig : Rows.tachConfig.Completes := by
  rintro h p s ⟨ht, hr, hl, hz, hz16, hz3, hi, hppr, hon, hidle⟩
  refine serve_row ht hr (by simp [hl]) (by simp [hz, hz16, hz3]) ((refuseIf_clear _ _ _ _ ?_).trans ?_)
  · have hparam : (bit (fld p 4 4) 7 && (bits (fld p 4 4) 21 11 == 0 || bits (fld p 4 4) 8 8 == 0)) = false := by
      cases hb : bit (fld p 4 4) 7
      · rfl
      · simp [hon hb]
    have hbusy : (!((rd s.stm.tachs (fld p 0 1)).word.toNat == fld p 4 4) && tachUsed s (fld p 0 1)) = false := by
      rcases hidle with h | h <;> simp [h]
    simp only [List.forall_mem_cons]
    exact ⟨by simp [hparam, hi, hppr], hbusy, List.forall_mem_nil _⟩
  · simp only [beq_iff_eq]

theorem completes_encConfig : Rows.encConfig.Completes := by
  rintro h p s ⟨ht, hr, hl, hz, hdec, hon, hidle⟩
  refine serve_row ht hr (by simp [hl]) (by simp [hz]) ((refuseIf_clear _ _ _ _ ?_).trans ?_)
  · have hparam : (bit (fld p 0 4) 7 && bits (fld p 0 4) 8 8 == 0) = false := by
      cases hb : bit (fld p 0 4) 7
      · rfl
      · simp [hon hb]
    have hbusy : (!(s.stm.encoder.word.toNat == fld p 0 4) && encoderUsed s) = false := by
      rcases hidle with h | h <;> simp [h]
    simp only [List.forall_mem_cons]
    exact ⟨by simp [hparam, hdec], hbusy, List.forall_mem_nil _⟩
  · simp only [beq_iff_eq]

theorem countersForm_takes {p : Bytes} (hp : Rows.countersPayload p) :
    (countersForm.length p.length && countersForm.shape p) = true ∧ countersForm.reserved p = true := by
  obtain ⟨hl, hclear, hz, -, -⟩ := hp
  simp [countersForm, hl, hz, hclear]

theorem countersPayload_inRange {p : Bytes} (hp : Rows.countersPayload p) :
    (fld p 1 1 == 0 || decide (96 < fld p 0 1 + fld p 1 1)) = false := by
  obtain ⟨-, -, -, hmin, hmax⟩ := hp
  simp [Nat.ne_of_gt hmin, hmax]

theorem completes_streamCounters : Rows.streamCounters.Completes := by
  rintro h p s ⟨ht, hr, hp⟩
  obtain ⟨hl, hz⟩ := countersForm_takes hp
  exact serve_row ht hr hl hz (refuseIf_clear _ _ _ _ (List.forall_mem_singleton.2 (countersPayload_inRange hp)))

theorem completes_streamCountersClear : Rows.streamCountersClear.Completes := by
  rintro h p s ⟨ht, hr, hp⟩
  obtain ⟨hl, hz⟩ := countersForm_takes hp
  exact serve_row ht hr hl hz (refuseIf_clear _ _ _ _ (List.forall_mem_singleton.2 (countersPayload_inRange hp)))

theorem completes_streamSnapshot : Rows.streamSnapshot.Completes := by
  rintro h p s ⟨ht, hr, hl, hz, hn, hfirst, hcount, hruns, hnone⟩
  refine serve_row ht hr (by simp [hl]) (by simp [zeros, hz]) (refuseIf_clear _ _ _ _ ?_)
  simp [hn, hfirst, hcount, hruns, hnone]

/-- Settles O10: row by row. -/
theorem streamCommandsComplete : Obligations.StreamCommandsComplete := by
  simp only [Obligations.StreamCommandsComplete, Rows.streamRows, List.forall_mem_cons]
  exact ⟨completes_streamConfigSet, completes_streamConfigRemove, completes_streamGet, completes_streamStart, completes_streamStopNow,
    completes_streamStopAfterFrame, completes_sportConfig, completes_sportGet, completes_tachConfig, completes_encConfig,
    completes_streamCounters, completes_streamCountersClear, completes_streamSnapshot, List.forall_mem_nil _⟩

end Sys2Proof.Machine

/-! PROOFS. The events of frames, sensor ports and the encoder complete (R142, R150, R154 to R159, R171, R180 to R183). -/

namespace Sys2Proof.Machine

theorem completes_frameClose (stream : BitVec 7) : (Rows.frameClose stream).Completes := by
  rintro s ⟨hphase, hfull⟩
  show execFrameClose stream s = _
  cases hf : (s.strm stream.toNat).frame with
  | none => simp [hf] at hfull
  | some f =>
    have hf' : frameFull (s.strm stream.toNat) f = true := by simpa [hf] using hfull
    simp [execFrameClose, hf, hphase, hf']

theorem completes_tdmFrameSync (port : BitVec 2) (rising : Bool) (onRise onFall : List Bool) (hz : Nat) :
    (Rows.tdmFrameSync port rising onRise onFall hz).Completes := by
  rintro s ⟨hmode, hpol, hheard, hstep⟩
  show execTdmFrameSync port rising onRise onFall hz s = _
  simp only [execTdmFrameSync, hmode, beq_eq_false_iff_ne.2 hpol, hheard, hstep]
  rfl

theorem completes_tdmFrameRegained (port : BitVec 2) (rising : Bool) (onRise onFall : List Bool) (hz : Nat) :
    (Rows.tdmFrameRegained port rising onRise onFall hz).Completes := by
  rintro s ⟨hmode, hpol, hheard, hlost⟩
  show execTdmFrameSync port rising onRise onFall hz s = _
  simp only [execTdmFrameSync, hmode, beq_eq_false_iff_ne.2 hpol, hheard, hlost, Bool.and_eq_true, decide_eq_true_eq]
  exact (apply_ite Host.Outcome.next _ _ _).symm

theorem completes_sportLost (port : BitVec 2) : (Rows.sportLost port).Completes := by
  rintro s ⟨hmode, hlost, hworks⟩
  exact if_neg (by simp [hmode, hlost, hworks])

theorem completes_spiPoll (port : BitVec 2) (sensor : Nat) (reply : Bytes) : (Rows.spiPoll port sensor reply).Completes := by
  rintro s ⟨hsensor, hmode, hheard, hlock⟩
  show execSpiPoll port sensor reply s = _
  simp only [execSpiPoll, List.getElem?_eq_getElem hsensor, hmode, hheard, hlock, List.getD_eq_getElem?_getD, Option.getD_some]
  rfl

theorem completes_encEdge (a b : Bool) (held ns : Nat) : (Rows.encEdge a b held ns).Completes := by
  rintro s ⟨hheard, hpass, hedge⟩
  show execEncEdge a b held ns s = _
  have hmoves : (!encoderHeard s || !passesFilter (bits s.stm.encoder.word.toNat 0 3) held
      || (a == s.stm.encoder.a && b == s.stm.encoder.b)) = false := by
    rcases hedge with h | h <;> simp [hheard, hpass, h]
  simp only [execEncEdge, hmoves, Bool.false_eq_true, if_false, Bool.and_eq_true, bne_iff_ne, beq_iff_eq]
  exact (apply_ite Host.Outcome.next _ _ _).symm

theorem completes_spliceMarked (high : Bool) (held : Nat) : (Rows.spliceMarked high held).Completes := by
  rintro s ⟨hheard, hpol, hpass⟩
  exact if_pos (by simp [hheard, hpol, hpass])

theorem completes_encIdle : Rows.encIdle.Completes := by
  intro s hheard
  show execEncIdle s = _
  simp only [execEncIdle, show encoderHeard s = true from hheard, Bool.not_true, Bool.false_eq_true, if_false]
  exact (apply_ite Host.Outcome.next _ _ _).symm

theorem completes_encoderSlip : Rows.encoderSlip.Completes := by
  rintro s ⟨hheard, hcheck, hlost, hslip⟩
  exact if_pos (by simp [hheard, hcheck, hlost, hslip])

theorem completes_encoderRestored : Rows.encoderRestored.Completes := by
  rintro s ⟨hlost, hphase, hsince, hslip⟩
  exact if_pos (by simp [hlost, hphase, hsince, hslip])

/-- A timeout of a configured pair picks the frame that has waited longest (R142). -/
theorem execPairPartnerTimeout_waiting {pair : BitVec 4} {s : State} {f : ClosedFrame}
    (hpair : (rd s.afe.pairs pair.toNat).configured = true) (hwait : Rows.longestWait s pair.toNat = some f) :
    execPairPartnerTimeout pair s = .next (skipPair pair.toNat (· == f) s) := by
  show (match Rows.longestWait s pair.toNat with | some f => _ | none => _) = _
  rw [hwait]
  exact if_pos hpair

theorem completes_pairPartnerTimeout (pair : BitVec 4) : (Rows.pairPartnerTimeout pair).Completes := by
  rintro s ⟨hpair, hsome⟩
  obtain ⟨f, hwait⟩ := Option.isSome_iff_exists.1 hsome
  refine (execPairPartnerTimeout_waiting hpair hwait).trans ?_
  simp only [hwait, Option.some_beq_some]

theorem completes_featureFrameTake : Rows.featureFrameTake.Completes := by
  rintro s ⟨hclosed, hbank, hworks, hroom⟩
  show execFeatureFrameTake s = _
  obtain ⟨bank, hbank⟩ := Option.isSome_iff_exists.1 hbank
  cases hf : oldestClosed s with
  | none => simp [hf] at hclosed
  | some f =>
    have hready : f.awaiting = false := by simpa [hf] using hclosed
    simp only [execFeatureFrameTake, hf, hbank, hready, hworks, Nat.not_le.2 hroom, Option.getD_some]
    cases f.tag.readable s 7 <;> rfl

theorem completes_featureFrameWaits : Rows.featureFrameWaits.Completes := by
  rintro s ⟨hclosed, hbank⟩
  show execFeatureFrameTake s = _
  obtain ⟨f, hf⟩ := Option.isSome_iff_exists.1 hclosed
  simp only [execFeatureFrameTake, hf, hbank]

/-- Settles O26: row by row. -/
theorem frameEventsComplete : Obligations.FrameEventsComplete :=
  ⟨completes_frameClose, completes_tdmFrameSync, completes_tdmFrameRegained, completes_sportLost, completes_spiPoll,
    completes_encEdge, completes_spliceMarked, completes_encIdle, completes_encoderSlip, completes_encoderRestored,
    completes_pairPartnerTimeout, completes_featureFrameTake, completes_featureFrameWaits⟩

end Sys2Proof.Machine

/-! PROOFS. The events of the tachometers and of Belay complete (R158, R326 to R328, R335 to R342). -/

namespace Sys2Proof.Machine

/-- An edge that counts is counted as the row says. -/
theorem countTach_eq (i ns : Nat) (s : State) : countTach i ns s = Rows.counted i ns s := rfl

theorem completes_tachEdge (tach : BitVec 2) (rising : Bool) (held ns : Nat) : (Rows.tachEdge tach rising held ns).Completes := by
  rintro s ⟨hheard, hlevel, hpass⟩
  show execTachEdge tach rising held ns s = _
  simp only [execTachEdge, hheard, beq_eq_false_iff_ne.2 hlevel, hpass, beq_iff_eq, countTach_eq]
  exact (apply_ite Host.Outcome.next _ _ _).symm

theorem completes_tachIdle (tach : BitVec 2) : (Rows.tachIdle tach).Completes := by
  intro s hheard
  show execTachIdle tach s = _
  simp only [execTachIdle, show tachHeard s tach.toNat = true from hheard, Bool.not_true, Bool.false_eq_true, if_false]
  exact (apply_ite Host.Outcome.next _ _ _).symm

theorem completes_assetUpdate : Rows.assetUpdate.Completes := by
  rintro s ⟨hqueue, hruns⟩
  show execAssetUpdate s = _
  obtain ⟨r, rest, hq⟩ := List.exists_cons_of_ne_nil hqueue
  simp only [execAssetUpdate, hq, hruns]
  rfl

theorem completes_confirmWindowEnd : Rows.confirmWindowEnd.Completes := by
  rintro s ⟨hphase, hruns⟩
  show execConfirmWindowEnd s = _
  simp only [execConfirmWindowEnd, hphase, hruns]
  exact (apply_ite Host.Outcome.next _ _ _).symm

theorem completes_coastTimerEnd : Rows.coastTimerEnd.Completes := by
  rintro s ⟨hcoasting, hphase, hruns⟩
  show execCoastTimerEnd s = _
  have hends : (s.bly.coasting.isNone || !(s.bly.phase == .tripped || s.bly.phase == .coasting) || !belayRuns s) = false := by
    rcases hphase with h | h <;> simp [hcoasting, h, hruns]
  simp only [execCoastTimerEnd, hends, Bool.false_eq_true, if_false, beq_iff_eq, apply_ite Host.Outcome.next]

theorem completes_stopDwellEnd : Rows.stopDwellEnd.Completes := by
  rintro s ⟨hphase, hdwell, htach, hruns⟩
  exact if_pos (by simp [hphase, hdwell, htach, hruns])

theorem completes_motionDwellEnd : Rows.motionDwellEnd.Completes := by
  rintro s ⟨hphase, hdwell, htach, hruns⟩
  exact if_pos (by simp [hphase, hdwell, htach, hruns])

theorem completes_rearmTimerEnd : Rows.rearmTimerEnd.Completes := by
  rintro s ⟨hphase, hruns⟩
  show execRearmTimerEnd s = _
  simp only [execRearmTimerEnd, hphase, hruns]
  cases s.bly.rearming <;> rfl

theorem completes_startGuardEnd : Rows.startGuardEnd.Completes := fun _ _ => rfl

/-- Settles O27: row by row. -/
theorem belayEventsComplete : Obligations.BelayEventsComplete :=
  ⟨completes_tachEdge, completes_tachIdle, completes_assetUpdate, completes_confirmWindowEnd, completes_coastTimerEnd,
    completes_stopDwellEnd, completes_motionDwellEnd, completes_rearmTimerEnd, completes_startGuardEnd⟩

end Sys2Proof.Machine

/-! PROOFS. The commands of features and the belt complete (chapter 07: R176 to R178, R180, R182, R186 to R188, R191, R192). -/

namespace Sys2Proof.Machine

/-- A configuration in range is put in force where the stream may take it (R192). -/
theorem featureSet_of_mayConfigure {op : Byte} {h : Hdr} {n : Nat} {InForce : Prop} {same bad : Bool}
    {f : FeatureStream → FeatureStream} {s : State} (hbad : bad = false) (hsame : InForce → same = true)
    (hmay : Rows.mayConfigure n InForce s) :
    featureSet h n same bad f (entered op h s) = doneWith h [] (onFeature n f (entered op h s)) := by
  obtain ⟨hn, hidle⟩ := hmay
  refine refuseIf_clear _ _ _ _ ?_
  have hparam : (decide (96 ≤ n) || bad) = false := by simp [hn, hbad]
  have hbusy : (!same && featureBusy (entered op h s) n) = false := by
    rcases hidle with h | h
    · simp [hsame h]
    · simp [h]
  simp only [List.forall_mem_cons]
  exact ⟨hparam, hbusy, List.forall_mem_nil _⟩

theorem featReserved_of_zeros {p : Bytes} (hz3 : fld p 3 1 = 0) (hz18 : fld p 18 2 = 0) (hb28 : bits (fld p 4 4) 28 4 = 0)
    (hb0 : bits (fld p 4 4) 0 17 = 0) : featReserved p = true := by
  simp [featReserved, zeros, hz3, hz18, hb28, hb0]

theorem completes_featConfigSet : Rows.featConfigSet.Completes := by
  rintro h p s ⟨ht, hr, hmin, hl, hz3, hz18, hb28, hb0, hok, hmay⟩
  exact serve_row ht hr (by simp [← hl, hmin]) (featReserved_of_zeros hz3 hz18 hb28 hb0)
    (featureSet_of_mayConfigure (by simp [hok]) beq_iff_eq.2 hmay)

/-- Two bytes are enough to remove a configuration (DEDUCED, log entry 110). -/
theorem completes_featConfigRemove : Rows.featConfigRemove.Completes := by
  rintro h p s ⟨ht, hr, hmin, hz3, hz18, hb28, hb0, hmay⟩
  exact serve_row ht hr (by simp [hmin]) (featReserved_of_zeros hz3 hz18 hb28 hb0)
    (featureSet_of_mayConfigure rfl List.isEmpty_iff.2 hmay)

theorem completes_featGet : Rows.featGet.Completes := by
  rintro h p s ⟨ht, hr, hl, hn⟩
  exact serve_row ht hr (by simp [hl]) rfl (refuseIf_clear _ _ _ _ (by simpa using hn))

theorem completes_featOrderConfig : Rows.featOrderConfig.Completes := by
  rintro h p s ⟨ht, hr, hl, hz, href, hfactor, hpoints, htach, henc, hmay⟩
  refine serve_row ht hr (by simp [hl]) (by simp [zeros, hz]) (featureSet_of_mayConfigure ?_ beq_iff_eq.2 hmay)
  have hbyTach : (fld p 1 1 != 2 || decide (fld p 2 1 ≤ 3)) = true := by
    simpa [imp_iff_not_or] using htach
  have hbyEnc : (fld p 1 1 != 1 || ((decide (fld p 2 1 ≤ 3) || fld p 2 1 == 0xFF) && fld p 8 4 != 0)) = true := by
    simpa [imp_iff_not_or] using henc
  simp only [href, hfactor, hpoints, hbyTach, hbyEnc, decide_true, Bool.and_self, Bool.not_true]

theorem completes_featBandsSet : Rows.featBandsSet.Completes := by
  rintro h p s ⟨ht, hr, hmin, hl, hz, hcount, hunit, hedges, hmay⟩
  refine serve_row ht hr (by simp [← hl, hmin]) (by simp [zeros, hz]) ?_
  refine (featureSet_of_mayConfigure ?_ (fun hsame => beq_iff_eq.2 (hsame.trans ?_)) hmay).trans ?_
  · have hbands : ((List.range (fld p 1 1)).all fun i => decide (fld p (4 + 8 * i) 4 < fld p (8 + 8 * i) 4)) = true := by
      simpa using hedges
    simp only [hcount, hunit, hbands, decide_true, Bool.and_self, Bool.not_true]
  · simp only [beq_iff_eq]
  · simp only [beq_iff_eq]

theorem completes_featStateConfig : Rows.featStateConfig.Completes := by
  rintro h p s ⟨ht, hr, hl, hz, hb, hrange, hmay⟩
  refine serve_row ht hr (by simp [hl]) (by simp [hz, hb]) (featureSet_of_mayConfigure ?_ beq_iff_eq.2 hmay)
  rcases hrange with hremove | ⟨htach, hload, hstop, hdecel, hdwell, hdwell', hoff⟩
  · simp only [hremove, Bool.true_or, Bool.not_true]
  · have hsource : (decide (fld p 1 1 ≤ 3) || fld p 1 1 == 0xFF) = true := by simpa using htach
    simp only [hsource, hload, hstop, hdecel, hdwell, hdwell', hoff, decide_true, Bool.and_self, Bool.or_true, Bool.not_true]

/-- The operation and its row each match on the latest frame; `rfl` is for a build in which these are two matchers. -/
theorem completes_featFrameRead : Rows.featFrameRead.Completes := by
  rintro h p s ⟨ht, hr, hl, hz, hn, hlatest⟩
  refine serve_row ht hr (by simp [hl]) (by simp [zeros, hz]) ((refuseIf_clear _ _ _ _ ?_).trans rfl)
  have hnone : (s.ftr (fld p 0 1)).latest.isNone = false := by rw [← Option.not_isSome, hlatest]; rfl
  simp [hn, hnone]

theorem completes_beltPositionGet : Rows.beltPositionGet.Completes := by
  rintro h p s ⟨ht, hr, rfl⟩
  exact serve_row ht hr rfl rfl rfl

theorem completes_beltConfigSet : Rows.beltConfigSet.Completes := by
  rintro h p s ⟨ht, hr, hmin, hl, hz, hsplices, hsplices', htol, htol', hcheck, hslip, hslip'⟩
  refine serve_row ht hr (by simp [← hl, hmin]) (by simp [zeros, hz]) (refuseIf_clear _ _ _ _ (List.forall_mem_singleton.2 ?_))
  have hcounts : (fld p 1 1 == 0 || decide (64 < fld p 1 1) || fld p 2 1 == 0 || decide (64 < fld p 2 1)) = false := by
    simp [Nat.ne_of_gt hsplices, hsplices', Nat.ne_of_gt htol, htol']
  obtain ⟨htach, hper⟩ : (decide (3 < fld p 3 1) && fld p 3 1 != 0xFF) = false
      ∧ (fld p 3 1 != 0xFF && fld p 4 4 == 0) = false := by
    rcases hcheck with hnone | ⟨htach, hper⟩
    · simp [hnone]
    · simp [Nat.not_lt.2 htach, hper]
  have hlimit : (fld p 8 1 == 0 || decide (100 < fld p 8 1)) = false := by
    simp [Nat.ne_of_gt hslip, hslip']
  simp only [hcounts, htach, hper, Bool.false_or, hlimit]

theorem beltForm_takes {p : Bytes} (hl : p.length = 4) : (beltForm.length p.length && beltForm.shape p) = true := by
  simp [beltForm, hl]

theorem completes_beltConfigDisable : Rows.beltConfigDisable.Completes := by
  rintro h p s ⟨ht, hr, hl, hz⟩
  exact serve_row ht hr (beltForm_takes hl) (by simp [zeros, hz]) rfl

theorem completes_setIndex : Rows.setIndex.Completes := by
  rintro h p s ⟨ht, hr, hl, hz, hindex, hstate⟩
  refine serve_row ht hr (beltForm_takes hl) (by simp [zeros, hz]) (refuseIf_clear _ _ _ _ ?_)
  have hin : (s.feat.belt.configured && decide (s.feat.belt.splices ≤ fld p 1 1)) = false := by
    simpa using hindex
  simp only [List.forall_mem_cons]
  exact ⟨hin, beq_eq_false_iff_ne.2 hstate, List.forall_mem_nil _⟩

theorem completes_beltClearCount : Rows.beltClearCount.Completes := by
  rintro h p s ⟨ht, hr, hl, hz⟩
  exact serve_row ht hr (beltForm_takes hl) (by simp [zeros, hz]) rfl

/-- Settles O11: row by row. -/
theorem featureCommandsComplete : Obligations.FeatureCommandsComplete := by
  simp only [Obligations.FeatureCommandsComplete, Rows.featureRows, List.forall_mem_cons]
  exact ⟨completes_featConfigSet, completes_featConfigRemove, completes_featGet, completes_featOrderConfig, completes_featBandsSet,
    completes_featStateConfig, completes_featFrameRead, completes_beltPositionGet, completes_beltConfigSet,
    completes_beltConfigDisable, completes_setIndex, completes_beltClearCount, List.forall_mem_nil _⟩

end Sys2Proof.Machine

/-! PROOFS. The events of jobs, layers and models complete (R197, R204, R215, R224, R255, R256, R258, R259, R261, R279). -/

namespace Sys2Proof.Machine

/-! ### The feature queue and the start of jobs (R256, R258, R261, R262) -/

theorem completes_featureQueueRoute : Rows.featureQueueRoute.Completes := by
  rintro s ⟨hqueue, hworks, hroom⟩
  show execFeatureQueueRoute s = _
  obtain ⟨q, rest, hq⟩ := List.exists_cons_of_ne_nil hqueue
  simp only [execFeatureQueueRoute, hq, hworks, Nat.not_le.2 hroom, List.headD_cons, List.tail_cons, Bool.not_true,
    Bool.false_eq_true, if_false, beq_iff_eq]
  cases modelOf s (fld q.frame.header 0 1) with
  | none => rfl
  | some m => exact (apply_ite (fun t => Host.Outcome.next (queuePressure 0 rest.length 64 (onRm _ t))) _ _ _).symm

theorem completes_jobStartPitch : Rows.jobStartPitch.Completes := by
  rintro s ⟨hphase, hworks, hslot, hspace⟩
  show execJobStart s = _
  obtain ⟨b, hb⟩ := Option.isSome_iff_exists.1 hspace
  have hpitch : startPitch s = some (Rows.jobStartPitch.effect s) := by
    simp only [startPitch, if_neg (Nat.not_le.2 hslot), hb, Option.map_some, Option.getD_some]
  simp only [execJobStart, hphase, hworks, hpitch]
  rfl

/-- Where no pitch job starts and a slot is free, the event is a selection (R261). -/
theorem execJobStart_of_selects {s : State} (h : Rows.selects s) : execJobStart s = .next (selectJob s) := by
  obtain ⟨hphase, hworks, hpitch, hslot⟩ := h
  simp [execJobStart, hphase, hworks, hpitch, hslot]

/-- A selection that picks an owner with a batch to start charges it and starts its job. -/
theorem selectJob_of_pick {s : State} {o : Nat} {f : Frame × Nat} {b : Nat × Nat × Nat}
    (hpick : pickOwner s (Rows.creditOf s) = some o) (hf : oldestOf s o = some f) (hb : batchFor s f.1.model = some b) :
    selectJob s = startJob f.1.model ((waitingFrames s f.1.model).take b.2.2) b.1 b.2.1 false none
      (onRm (fun x => { x with shares := Rows.creditsAfter s (· == o) }) s) := by
  unfold Rows.creditOf at hpick
  simp only [selectJob, hpick, hf, hb, Option.bind_some, Option.map_some, Option.any_some, BEq.comm (a := o)]
  rfl

theorem selectJob_of_no_pick {s : State} (hpick : pickOwner s (Rows.creditOf s) = none) :
    selectJob s = onRm (fun x => { x with shares := Rows.creditsAfter s fun _ => false }) s := by
  unfold Rows.creditOf at hpick
  simp only [selectJob, hpick, Option.bind_none, Option.any_none]
  rfl

theorem completes_jobStart : Rows.jobStart.Completes := by
  rintro s ⟨hselects, hbatch⟩
  obtain ⟨b, hb⟩ := Option.isSome_iff_exists.1 hbatch
  obtain ⟨f, hf, hb⟩ := Option.bind_eq_some_iff.1 hb
  obtain ⟨o, ho, hf⟩ := Option.bind_eq_some_iff.1 hf
  refine (execJobStart_of_selects hselects).trans (congrArg Host.Outcome.next ((selectJob_of_pick ho hf hb).trans ?_))
  simp only [ho, hf, hb, Option.getD_some]

theorem completes_jobNotStarted : Rows.jobNotStarted.Completes := by
  rintro s ⟨hselects, hpick⟩
  exact (execJobStart_of_selects hselects).trans (congrArg Host.Outcome.next (selectJob_of_no_pick hpick))

/-! ### Layers (R197, R204, R224, R259, R279) -/

/-- Where some job runs on a unit, there is a first one that does. -/
theorem exists_first_running {s : State} {u : Unit'} (h : (s.mdl.jobs.any fun j => j.running.contains u) = true) :
    ∃ j, (s.mdl.jobs.find? fun j => j.running.contains u) = some j :=
  Option.isSome_iff_exists.1 (List.isSome_find?.trans h)

/-- The row is the event's own definition: whether some job has something to do does not change what is answered. -/
theorem completes_layerDispatch : Rows.layerDispatch.Completes := fun _ _ => rfl

theorem completes_cimPassParity (core : BitVec 3) : (Rows.cimPassParity core).Completes := by
  rintro s ⟨hruns, hworks⟩
  show execCimPassDone core false s = _
  obtain ⟨j, hj⟩ := exists_first_running hruns
  simp only [execCimPassDone, hj, hworks]
  rfl

theorem completes_cimPassDone (core : BitVec 3) : (Rows.cimPassDone core).Completes := by
  rintro s ⟨hruns, hworks⟩
  show execCimPassDone core true s = _
  obtain ⟨j, hj⟩ := exists_first_running hruns
  simp only [execCimPassDone, hj, hworks, Option.getD_some]
  cases (j.layerIn s).isProto with
  | true => cases headAt s j.model j.layer <;> rfl
  | false =>
    simp only [Rows.leaveCore]
    cases State.job? _ j.id with
    | none => rfl
    | some _ => exact (apply_ite Host.Outcome.next _ _ _).symm

theorem completes_streamLayerDone : Rows.streamLayerDone.Completes := by
  rintro s ⟨hruns, hworks⟩
  show execStreamLayerDone s = _
  obtain ⟨j, hj⟩ := exists_first_running hruns
  simp only [execStreamLayerDone, hj, hworks, Option.getD_some]
  rfl

theorem completes_vectorLayerDone : Rows.vectorLayerDone.Completes := by
  rintro s ⟨hruns, hworks⟩
  show execVectorLayerDone s = _
  obtain ⟨j, hj⟩ := exists_first_running hruns
  simp only [execVectorLayerDone, hj, hworks, Option.getD_some]
  rfl

/-- The event and its row each match on a frame's lanes; `rfl` is for a build in which these are two matchers. -/
theorem completes_protoForwardDone : Rows.protoForwardDone.Completes := by
  rintro s ⟨hruns, hworks⟩
  show execProtoForwardDone s = _
  obtain ⟨j, hj, hhead⟩ := (Option.any_eq_true _ _).1 hruns
  obtain ⟨n, hn⟩ := Option.isSome_iff_exists.1 hhead
  simp only [execProtoForwardDone, hj, hworks, hn, Option.getD_some, if_true] <;> rfl

/-! ### Models (R215, R238, R255) -/

theorem completes_modelVerifyDone (slot : BitVec 3) : (Rows.modelVerifyDone slot).Completes := by
  rintro s ⟨hverifying, hstage, hon, hreads⟩
  show execModelVerifyDone slot s = _
  obtain ⟨tag, htag⟩ := Option.isSome_iff_exists.1 hverifying
  simp only [execModelVerifyDone, htag, hstage, hon, hreads, Option.getD_some]
  cases readable _ _ with
  | false => rfl
  | true => cases imageFault _ _ _ <;> rfl

/-- Settles O29: row by row. -/
theorem workEventsComplete : Obligations.WorkEventsComplete :=
  ⟨completes_featureQueueRoute, completes_jobStartPitch, completes_jobStart, completes_jobNotStarted, completes_layerDispatch,
    completes_cimPassParity, completes_cimPassDone, completes_streamLayerDone, completes_vectorLayerDone,
    completes_protoForwardDone, completes_modelVerifyDone⟩

end Sys2Proof.Machine

/-! PROOFS. The memories stay canonical, and the events of the NVM, the Cairn and the TRNG complete (chapters 09, 16 and 17: R102, R161,
R215, R218, R219, R389, R392, R405, R413, R456, R461). -/

namespace Sys2Proof.Machine

/-! ### The canonical form through a step -/

/-- The rows that write the record keep the canonical form, as the laws of the record say. -/
theorem wf_exec_of_writesRecord {c : Instr} {s t : State} (hc : Rows.writesRecord c = true) (hs : MemoryWf s)
    (h : exec c s = .next t) : MemoryWf t := by
  cases c with
  | cairnCommit programs => exact (keeping_execCairnCommit programs s t h).wf hs
  | nvmProgramDone bad us => exact (keeping_execNvmProgramDone bad us s t h).wf hs
  | nvmEraseDone ok us => exact (keeping_execNvmEraseDone ok us s t h).wf hs
  | brownoutDetect programs => exact (keeping_execBrownoutDetect programs s t h).wf hs
  | powerOff => exact (keeping_execPowerOff s t h).wf hs
  | bootRomStart straps programs =>
    obtain ⟨-, hwf, -⟩ := keeping_execBootRomStart straps programs s t h
    exact hwf hs
  | _ => cases hc

/-- Every row keeps the canonical form: one that does not write the record leaves the pages (`memoryLasts`). -/
theorem wf_exec {c : Instr} {s t : State} (hs : MemoryWf s) (h : exec c s = .next t) : MemoryWf t := by
  cases hw : Rows.writesRecord c with
  | true => exact wf_exec_of_writesRecord hw hs h
  | false =>
    obtain ⟨-, -, hkept⟩ := memoryLasts c s t h
    obtain ⟨-, hpages⟩ := hkept hw
    rwa [MemoryWf, hpages]

/-- Settles O55: taking a command off the queue leaves the pages, and the command (`wf_exec`) or the idle step (`wf_idle`) keeps
their canonical form, which is the model's own (log entry 140). -/
theorem memoryStaysCanonical : Obligations.MemoryStaysCanonical := by
  intro s t hs h
  unfold step at h
  split at h
  · cases h
    exact wf_idle hs
  · next c rest _ => exact wf_exec (s := { s with pending := rest }) hs h

/-! ### The NVM takes up its next operation (R161, R219, R456, R461) -/

theorem completes_nvmTakesCommit : Rows.nvmTakesCommit.Completes := by
  rintro s ⟨hon, hcommit, hfree, hbubble⟩
  show execNvmOperationStart s = _
  simp [execNvmOperationStart, hon, hcommit, hfree, hbubble]

theorem completes_nvmTakesPosted : Rows.nvmTakesPosted.Completes := by
  rintro s ⟨hon, hcommit, i, o, hnext, ho, hfree, hbubble⟩
  show execNvmOperationStart s = _
  have hmay : (!o.commit || mayBubble s) = true := by cases hc : o.commit <;> simp [hc, hbubble]
  simp only [execNvmOperationStart, hon, hcommit, hnext, ho, Option.any_some, hfree, hmay, Option.getD_some]
  rfl

theorem completes_nvmTakesErase : Rows.nvmTakesErase.Completes := by
  rintro s ⟨hon, hbusy, hcommit, hnext, hposted, hwaiting, hstage, hcounted, hbackground⟩
  show execNvmOperationStart s = _
  obtain ⟨f, rest, hf⟩ := List.exists_cons_of_ne_nil hbackground
  simp [execNvmOperationStart, afterReady, hon, hbusy, hcommit, hnext, hposted, hwaiting, hstage, hcounted, hf]

/-! ### Programs, erases and commits end (R218, R219, R405) -/

/-- The row is the event's own definition: that a program is in progress only says when `programEnds` does something. -/
theorem completes_nvmProgramDone (bad us : Nat) : (Rows.nvmProgramDone bad us).Completes := fun _ _ => rfl

theorem completes_nvmEraseDone (us : Nat) : (Rows.nvmEraseDone us).Completes := by
  rintro s ⟨hbusy, hfront⟩
  show execNvmEraseDone true us s = _
  obtain ⟨o, ho, herase⟩ := (Option.any_eq_true _ _).1 hfront
  obtain ⟨rest, hposted⟩ := List.head?_eq_some_iff.1 ho
  simp [execNvmEraseDone, hbusy, hposted, herase]

theorem completes_nvmBackgroundEraseDone (sector us : Nat) : (Rows.nvmBackgroundEraseDone sector us).Completes := by
  intro s hbusy
  show execNvmEraseDone true us s = _
  simp [execNvmEraseDone, show s.nvm.busy = .background sector from hbusy]

theorem completes_cairnCommit (programs : Vector (Nat × Nat) 6) : (Rows.cairnCommit programs).Completes := by
  rintro s ⟨hon, hbusy, hcommit⟩
  show execCairnCommit programs s = _
  simp [execCairnCommit, hon, hbusy, hcommit]

theorem completes_remoteReadTimeout (relay : BitVec 16) : (Rows.remoteReadTimeout relay).Completes := fun _ _ => rfl

/-! ### A firmware image is verified (R102, R215) -/

/-- The event's test of the posted programs and the row's may be two matchers of one match, which `exact` sees through. -/
theorem completes_fwImageVerified : Rows.fwImageVerified.Completes := by
  rintro s ⟨c, hc, hreads, hphase, hops⟩
  show execFwImageVerified s = _
  simp only [execFwImageVerified, hc, Option.getD_some]
  refine (if_neg ?_).trans ?_
  · simp only [Bool.or_eq_true, beq_iff_eq, not_or]
    exact ⟨⟨ne_true_of_eq_false hops, ne_true_of_eq_false hreads⟩, hphase⟩
  · simp only [Bool.and_eq_true]
    exact (apply_ite Host.Outcome.next _ _ _).symm

/-! ### The TRNG and the debug challenge (R389, R392) -/

theorem completes_trngHealthFail (repetition : Bool) : (Rows.trngHealthFail repetition).Completes := by
  rintro s ⟨hfault, hon, hawake⟩
  show execTrngHealthFail repetition s = _
  simp [execTrngHealthFail, hfault, hon, hawake]

theorem completes_trngRetry : Rows.trngRetry.Completes := by
  rintro s ⟨hfault, hon, hawake⟩
  show execTrngRetry true s = _
  simp [execTrngRetry, hfault, hon, hawake]

theorem completes_debugChallengeExpiry : Rows.debugChallengeExpiry.Completes := fun _ _ => rfl

/-- Settles O32: row by row. -/
theorem storeEventsComplete : Obligations.StoreEventsComplete :=
  ⟨completes_nvmTakesCommit, completes_nvmTakesPosted, completes_nvmTakesErase, completes_nvmProgramDone, completes_nvmEraseDone,
    completes_nvmBackgroundEraseDone, completes_cairnCommit, completes_remoteReadTimeout, completes_fwImageVerified,
    completes_trngHealthFail, completes_trngRetry, completes_debugChallengeExpiry⟩

end Sys2Proof.Machine

/-! PROOFS. The commands of models complete (chapter 10: R227, R228, R238, R243, R244, R250 to R252, R254). -/

namespace Sys2Proof.Machine

/-! ### Loading (R227, R228) -/

/-- BEGIN names no slot, or one of the eight that is EMPTY. -/
theorem named_empty_of_loadSlot {p : Bytes} {s : State} (hslot : Rows.loadSlot p s < 8)
    (hempty : (s.model (Rows.loadSlot p s)).phase = .empty) :
    fld p 1 1 = 0xFF ∨ fld p 1 1 < 8 ∧ (s.model (fld p 1 1)).phase = .empty := by
  by_cases hid : fld p 1 1 = 0xFF
  · exact .inl hid
  · have hnamed : Rows.loadSlot p s = fld p 1 1 := if_neg hid
    exact .inr (hnamed ▸ ⟨hslot, hempty⟩)

theorem completes_modelLoadBegin : Rows.modelLoadBegin.Completes := by
  rintro h p s ⟨ht, hr, hl, hz, hflags, hmin, hmax, hslot, hempty, hroom⟩
  refine serve_row ht hr (by simp [hl]) (by simp [hz, Nat.div_eq_of_lt hflags]) ?_
  have htakes : (if fld p 1 1 == 0xFF then ((List.range 8).filter fun m => (s.model m).phase == .empty).headD 8 else fld p 1 1)
      = Rows.loadSlot p s := by simp only [Rows.loadSlot, beq_iff_eq]
  simp only [entered_model, entered_freeSectors, htakes]
  refine (refuseIf_clear _ _ _ _ ?_).trans rfl
  simp only [List.forall_mem_cons, Bool.or_eq_false_iff]
  refine ⟨⟨⟨?_, decide_eq_false (Nat.not_lt.2 hmin)⟩, decide_eq_false (Nat.not_lt.2 hmax)⟩, ?_,
    ⟨decide_eq_false (Nat.not_le.2 hslot), decide_eq_false (Nat.not_lt.2 hroom)⟩, List.forall_mem_nil _⟩
  · rcases named_empty_of_loadSlot hslot hempty with hnone | ⟨hlow, -⟩
    · simp [hnone]
    · simp [Nat.le_of_lt_succ hlow]
  · rcases named_empty_of_loadSlot hslot hempty with hnone | ⟨-, hfree⟩
    · simp [hnone]
    · simp [hfree]

/-- Behind another DATA of its slot one waits (DEDUCED, log entry 28). -/
theorem completes_modelLoadData : Rows.modelLoadData.Completes := by
  rintro h p s ⟨ht, hr, hmin, hmax, hz⟩
  refine serve_row ht hr (by simp [hmin, hmax]) (by simp [zeros, hz]) ?_
  by_cases hfirst : (s.model (fld p 1 1)).loads = []
  · exact (if_neg (by simp [hfirst])).trans (if_pos hfirst).symm
  · exact (if_pos (by simp [hfirst])).trans (if_neg hfirst).symm

theorem completes_modelLoadAbandon : Rows.modelLoadAbandon.Completes := by
  rintro h p s ⟨ht, hr, hl, hz, hphase, hidle⟩
  refine serve_row ht hr (by simp [hl]) (by simp [zeros, hz]) (refuseIf_clear _ _ _ _ ?_)
  rcases hphase with hphase | hphase <;> simp [hphase, hidle]

/-! ### Commands that name a model in four bytes -/

@[simp] theorem entered_clockRefuses (op : Byte) (h : Hdr) (s : State) (img : Bytes) :
    clockRefuses (entered op h s) img = clockRefuses s img := rfl

/-- A command that names a model in four bytes comes to its body. -/
theorem serve_modelForm {op : Byte} {h : Hdr} {p : Bytes} {body : State → State} {s t : State} (ht : Taken h s)
    (hr : (boundModel 0 s p).allow h s = true) (hp : Rows.modelPayload p) (hb : body (entered op h s) = t) :
    (Host.Outcome.next (serve (modelForm op) h p body s) : Host.Outcome State Fault Refusal) = .next t := by
  obtain ⟨hl, hz⟩ := hp
  exact serve_row ht hr (by simp [modelForm, hl]) (by simp [modelForm, zeros, hz]) hb

theorem completes_modelVerify : Rows.modelVerify.Completes := by
  rintro h p s ⟨ht, hr, hp, hphase, hidle⟩
  exact serve_modelForm ht hr hp (refuseIf_clear _ _ _ _ (by simp [hphase, hidle]))

theorem completes_modelUnload : Rows.modelUnload.Completes := by
  rintro h p s ⟨ht, hr, hp, hphase, hfree, hidle⟩
  exact serve_modelForm ht hr hp (refuseIf_clear _ _ _ _ (by simp [hphase, hfree, hidle]))

theorem completes_modelPlacementGet : Rows.modelPlacementGet.Completes := by
  rintro h p s ⟨ht, hr, hp⟩
  exact serve_modelForm ht hr hp (apply_ite (fun b => doneWith h b (entered 0x54 h s)) _ _ _).symm

theorem completes_modelList : Rows.modelList.Completes := by
  rintro h p s ⟨ht, hr, rfl⟩
  exact serve_row ht hr rfl rfl rfl

theorem completes_modelStart : Rows.modelStart.Completes := by
  rintro h p s ⟨ht, hr, hp, hphase, hbound, hfits, hfree, hcool, hclock⟩
  refine serve_modelForm ht hr hp (refuseIf_clear _ _ _ _ ?_)
  have htakes : (!entryHere (s.model (fld p 0 1))
      || (members 96 (s.model (fld p 0 1)).bound.toNat).all (streamFits s (s.model (fld p 0 1)).image)) = true := by
    simpa [imp_iff_not_or] using hfits
  have hform : streamFits (entered 0x56 h s) (s.model (fld p 0 1)).image = streamFits s (s.model (fld p 0 1)).image := rfl
  simp only [List.forall_mem_cons, entered_model, hform, htakes]
  simpa [hphase, hfree, hcool, hclock] using hbound

/-- The two effects are one text: a `rfl` that unfolds `carryOn` would not come to an end. -/
theorem completes_modelStop : Rows.modelStop.Completes := by
  rintro h p s ⟨ht, hr, hp, hphase, hstop, hunload, hremove⟩
  refine serve_modelForm ht hr hp ((refuseIf_clear _ _ _ _ ?_).trans ?_)
  · simp [hphase, hstop, hunload, hremove]
  · with_reducible rfl

/-! ### Placement (R243, R244, R254) -/

/-- A placement command comes to its body. -/
theorem serve_placeForm {h : Hdr} {p : Bytes} {body : State → State} {s t : State} (ht : Taken h s)
    (hr : (boundModel 0 s p).allow h s = true) (hl : p.length = 4) (hz : fld p 3 1 = 0) (hb : body (entered 0x52 h s) = t) :
    (Host.Outcome.next (serve placeForm h p body s) : Host.Outcome State Fault Refusal) = .next t :=
  serve_row ht hr (by simp [placeForm, hl]) (by simp [placeForm, zeros, hz]) hb

/-- The operation and its row each match on what the four steps find; `rfl` is for a build in which these are two matchers. -/
theorem completes_modelPlace : Rows.modelPlace.Completes := by
  rintro h p s ⟨ht, hr, hl, hreq, hz, hphase, hfree, hidle, hcool, hclock⟩
  refine serve_placeForm ht hr hl hz ((refuseIf_clear _ _ _ _ ?_).trans rfl)
  simp [hreq, hphase, hfree, hidle, hcool, hclock]

/-- A Ridge request that the head chip does not refuse, no other chip refusing, is its own four steps' (R243). -/
theorem completes_modelPlaceRidge : Rows.modelPlaceRidge.Completes := by
  rintro h p s ⟨ht, hr, hl, hz, hbase, hphase, hrole, hmin, hmax, hfree, hidle, hcool, hclock, htrng, hindex, hattached, hreach⟩
  refine serve_placeForm ht hr hl hz ((refuseIf_clear _ _ _ _ ?_).trans ?_)
  · simp only [List.forall_mem_cons, Bool.or_eq_false_iff]
    have hlink : (isRidge s && (s.rope.index == 0xFF || s.rope.detached)) = false := by simp [hindex, hattached]
    exact ⟨decide_eq_false (Nat.not_lt.2 hbase), hlink,
      ⟨⟨⟨by simp [hphase], by simp [hrole]⟩, decide_eq_false (Nat.not_lt.2 hmin)⟩, decide_eq_false (Nat.not_lt.2 hmax)⟩,
      ⟨hfree, hidle⟩, hcool, ⟨htrng, hclock⟩, by simp [hreach], List.forall_mem_nil _⟩
  · simp only [Option.filter_none]
    cases (fourSteps _ _ _ _ _ _).found <;> rfl

theorem completes_modelReplace : Rows.modelReplace.Completes := by
  rintro h p s ⟨ht, hr, hl, hflags, hz, hphase, hold, hfree, hfree', hstop, hcool, hclock⟩
  refine serve_row ht hr (by simp [hl]) (by simp [hz, Nat.div_eq_of_lt hflags]) ((refuseIf_clear _ _ _ _ ?_).trans ?_)
  · rcases hold with hold | hold <;> simp [hphase, hold, hfree, hfree', hstop, hcool, hclock]
  · rfl

/-! ### Binding (R251, R252) -/

theorem completes_modelBindStreams : Rows.modelBindStreams.Completes := by
  rintro h p s ⟨ht, hr, hl, hz, hphase, hfree, hothers⟩
  refine serve_row ht hr (by simp [hl]) (by simp [zeros, hz]) (refuseIf_clear _ _ _ _ ?_)
  have hunbound : ((List.range 8).any fun k => k != fld p 0 1 && (s.model k).phase != .empty
      && (s.model k).bound &&& BitVec.ofNat 96 (fld p 4 12) != 0) = false := by
    simpa [or_iff_not_imp_left] using hothers
  simp only [List.forall_mem_cons, entered_model, hunbound, Bool.or_false]
  simp [hphase, hfree]

/-- Settles O12: row by row. -/
theorem modelCommandsComplete : Obligations.ModelCommandsComplete := by
  simp only [Obligations.ModelCommandsComplete, Rows.modelRows, List.forall_mem_cons]
  exact ⟨completes_modelLoadBegin, completes_modelLoadData, completes_modelLoadAbandon, completes_modelVerify, completes_modelPlace,
    completes_modelPlaceRidge, completes_modelUnload, completes_modelPlacementGet, completes_modelList, completes_modelStart,
    completes_modelStop, completes_modelReplace, completes_modelBindStreams, List.forall_mem_nil _⟩

end Sys2Proof.Machine

/-! PROOFS. The record only grows, marks are limited, and the commands of the Cairn complete (chapter 17: R396, R398, R408, R409, R411 to R413). -/

namespace Sys2Proof.Machine

/-! ### The record through a step (R396, R398, R408, R409) -/

/-- What leaves the pages and the next sequence number leaves the record as it is. -/
theorem recordGrows_of_kept {s t : State} (k : Nat) (hseq : t.cairn.nextSeq = s.cairn.nextSeq) (hpages : t.nvm.pages = s.nvm.pages) :
    RecordGrows k s t := by
  refine ⟨0, Nat.zero_le k, by simpa using hseq, fun pos hheld _ => .inl (.inl ?_)⟩
  simpa only [Held, stored, pageInfo, hpages, and_true] using hheld

/-- Of the rows that write the record only the boot may do more than two commits, as the laws of the record say. -/
theorem recordGrows_of_writesRecord {c : Instr} {s t : State} (hc : Rows.writesRecord c = true)
    (hboot : ∀ straps ps, c ≠ .bootRomStart straps ps) (h : exec c s = .next t) : RecordGrows 2 s t := by
  cases c with
  | cairnCommit programs => exact (keeping_execCairnCommit programs s t h).grows
  | nvmProgramDone bad us => exact (keeping_execNvmProgramDone bad us s t h).grows
  | nvmEraseDone ok us => exact (keeping_execNvmEraseDone ok us s t h).grows
  | brownoutDetect programs => exact (keeping_execBrownoutDetect programs s t h).grows
  | powerOff => exact (keeping_execPowerOff s t h).grows
  | bootRomStart straps programs => exact absurd rfl (hboot straps programs)
  | _ => cases hc

/-- Settles O54: a row that does not write the record leaves it (`memoryLasts`), the boot replays the journal. -/
theorem recordOnlyGrows : Obligations.RecordOnlyGrows := by
  intro c s t h
  refine ⟨fun hboot => ?_, ?_⟩
  · cases hw : Rows.writesRecord c with
    | true => exact recordGrows_of_writesRecord hw hboot h
    | false =>
      obtain ⟨-, -, hkept⟩ := memoryLasts c s t h
      obtain ⟨hseq, hpages⟩ := hkept hw
      exact recordGrows_of_kept 2 hseq hpages
  · rintro straps ps rfl
    obtain ⟨-, -, hnext, hrest⟩ := keeping_execBootRomStart straps ps s t h
    exact ⟨hnext, fun pos hheld _ htarget => hrest pos hheld htarget⟩

/-! ### Positions of the record (R396) -/

/-- Settles O45: both are the definitions of the entry's position and of OLDEST_SEQ. -/
theorem recordPositions : Obligations.RecordPositions :=
  ⟨fun _ => rfl, fun _ => ⟨fun hlap => if_pos hlap, fun hfirst => if_neg (Nat.not_lt.2 hfirst)⟩⟩

/-! ### Marks (R404, R412) -/

/-- The first refusal that holds is the answer. -/
theorem refuseIf_of_head {tag : Tag} {b : Bool} {st : Byte} {l : List (Bool × Byte)} {k : State → State} {s : State} (hb : b = true) :
    refuseIf tag ((b, st) :: l) k s = finish tag st [] s := by
  rw [hb, refuseIf]

/-- The HOST_MARK entry of a mark (Table 17-3). -/
def markEntry (h : Hdr) (p : Bytes) (s : State) : CairnEntry :=
  { type := 0xB001, source := Rows.markSource h, time := now s, bootCount := bootOf s, payload := p, tag := some h.tag }

/-- What a mark does: it counts, and its entry goes to the queue. -/
def marked (h : Hdr) (p : Bytes) (s : State) : State :=
  wantDomain 3 true (cairnPut (markEntry h p s)
    (onCairn (fun c => { c with marks := Rows.recentMarks s ++ [(Rows.markSource h, s.clk.tick)] }) s))

theorem cairnPut_of_room {e : CairnEntry} {s : State} (hawake : s.pwr.retention = false) (hroom : s.cairn.queue.length < 32) :
    cairnPut e s = onCairn (fun c => { c with queue := c.queue ++ [e] }) s := by
  simp [cairnPut, hawake, hroom, onCairn]

/-- An entry of no critical type that finds the queue full is dropped and counted (R404). -/
theorem cairnPut_of_full {e : CairnEntry} {s : State} (hawake : s.pwr.retention = false) (hfull : 32 ≤ s.cairn.queue.length)
    (hcommon : pinnedTypes.contains e.type = false) :
    cairnPut e s = onCairn (fun c => { c with dropped := satInc c.dropped, droppedReset := satInc c.droppedReset }) s := by
  have hroom : ¬ s.cairn.queue.length < 32 := Nat.not_lt.2 hfull
  simp only [cairnPut, hawake, hroom, hcommon, decide_false, Bool.false_and, Bool.or_false, Bool.false_eq_true, if_false, Bool.not_false,
    if_true, onCairn]

theorem marked_of_room {h : Hdr} {p : Bytes} {s : State} (hawake : s.pwr.retention = false) (hroom : s.cairn.queue.length < 32) :
    marked h p s = wantDomain 3 true (onCairn (fun c => { c with
      queue := c.queue ++ [markEntry h p s], marks := Rows.recentMarks s ++ [(Rows.markSource h, s.clk.tick)] }) s) :=
  congrArg (wantDomain 3 true) (cairnPut_of_room hawake hroom)

theorem marked_of_full {h : Hdr} {p : Bytes} {s : State} (hawake : s.pwr.retention = false) (hfull : 32 ≤ s.cairn.queue.length) :
    marked h p s = wantDomain 3 true (onCairn (fun c => { c with
      dropped := satInc c.dropped, droppedReset := satInc c.droppedReset
      marks := Rows.recentMarks s ++ [(Rows.markSource h, s.clk.tick)] }) s) :=
  congrArg (wantDomain 3 true) (cairnPut_of_full hawake hfull rfl)

theorem cairnPut_marks (e : CairnEntry) (s : State) : (cairnPut e s).cairn.marks = s.cairn.marks := by
  unfold cairnPut
  dsimp only
  (repeat' split) <;> rfl

/-- With marks left CAIRN_MARK counts and enters its entry; one that the full queue drops ends with NO_RESOURCE (log entry 76). -/
theorem exec_cairnMark_of_few {h : Hdr} {p : Bytes} {s : State} (ht : Taken h s) (hr : Rights.anyOwner.allow h s = true)
    (hl : p.length = 32) (hfew : (Rows.recentMarks s).countP (fun m => m.1 == Rows.markSource h) < 16) :
    exec (.cairnMark h p) s = .next (if 32 ≤ s.cairn.queue.length
      then finish h.tag stNoResource [] (marked h p (entered 0xB3 h s)) else marked h p (entered 0xB3 h s)) := by
  refine serve_row ht hr (by simp [hl]) rfl ((refuseIf_clear _ _ _ _ ?_).trans ?_)
  · exact List.forall_mem_singleton.2 (decide_eq_false (Nat.not_le.2 hfew))
  · simp only [decide_eq_true_eq]
    rfl

theorem completes_cairnMark : Rows.cairnMark.Completes := by
  rintro h p s ⟨ht, hr, hl, hawake, hroom, hfew⟩
  refine (exec_cairnMark_of_few ht hr hl hfew).trans ?_
  rw [if_neg (Nat.not_le.2 hroom), marked_of_room (s := entered 0xB3 h s) hawake hroom]
  rfl

theorem completes_cairnMarkDropped : Rows.cairnMarkDropped.Completes := by
  rintro h p s ⟨ht, hr, hl, hawake, hfull, hfew⟩
  refine (exec_cairnMark_of_few ht hr hl hfew).trans ?_
  rw [if_pos hfull, marked_of_full (s := entered 0xB3 h s) hawake hfull]

/-- Settles O46: with marks left `exec_cairnMark_of_few` says what is entered, else the body refuses. A mark that the queue drops
counts all the same, which is the model's choice (log entry 76). -/
theorem markLimit : Obligations.MarkLimit := by
  refine fun h p s ht hr hl => ⟨fun hfew => ⟨_, exec_cairnMark_of_few ht hr hl hfew, ?_, fun hawake hroom => ?_⟩, fun hmany => ?_⟩
  · rw [apply_ite State.cairn, finish_cairn, ite_self, marked, wantDomain_cairn, cairnPut_marks]
    rfl
  · rw [if_neg (Nat.not_le.2 hroom), marked_of_room (s := entered 0xB3 h s) hawake hroom]
    exact List.map_append
  · exact congrArg Host.Outcome.next (serve_refused ht hr (by simp [hl]) rfl (refuseIf_of_head (decide_eq_true hmany)))

/-! ### The other commands of the Cairn (R396, R411, R413) -/

theorem completes_cairnInfo : Rows.cairnInfo.Completes := by
  rintro h p s ⟨ht, hr, hl⟩
  refine serve_row ht hr ?_ rfl ?_
  · rcases hl with rfl | hl <;> simp_all
  · simp only [List.isEmpty_iff]

theorem completes_cairnRead : Rows.cairnRead.Completes := by
  rintro h p s ⟨ht, hr, hl, hz, hmin, hmax, hfree⟩
  refine serve_row ht hr (by simp [hl]) hz ((refuseIf_clear _ _ _ _ ?_).trans ((if_neg (ne_true_of_eq_false hfree)).trans rfl))
  simp; omega

theorem completes_cairnReadPinned : Rows.cairnReadPinned.Completes := by
  rintro h p s ⟨ht, hr, hl, hz, hmin, hmax, hlast, hfree⟩
  refine serve_row ht hr (by simp [hl]) hz ((refuseIf_clear _ _ _ _ ?_).trans ((if_neg (ne_true_of_eq_false hfree)).trans rfl))
  simp; omega

theorem completes_cairnRemoteRead : Rows.cairnRemoteRead.Completes := by
  rintro h p s ⟨ht, hr, hl, hsign, hz3, hz9, hnonce, hchip, hother, hkind, hmin, hmax, hlast, hridge, hreach⟩
  refine serve_row ht hr (by simp [hl]) ?_ ((refuseIf_clear _ _ _ _ ?_).trans rfl)
  · have hb : bit (fld p 2 1) 0 = true ∨ fld p 12 16 = 0 := hnonce.imp_left fun h => by simp [h, bit]
    simpa [hz3, hz9, Nat.div_eq_of_lt hsign] using hb
  · simp only [List.forall_mem_cons, entered_isRidge, entered_rope, entered_reachable, hridge, hreach]
    simp; omega

/-- Settles O17: row by row. -/
theorem recordCommandsComplete : Obligations.RecordCommandsComplete := by
  simp only [Obligations.RecordCommandsComplete, Rows.recordRows, List.forall_mem_cons]
  exact ⟨completes_cairnInfo, completes_cairnRead, completes_cairnReadPinned, completes_cairnMark, completes_cairnMarkDropped,
    completes_cairnRemoteRead, List.forall_mem_nil _⟩

end Sys2Proof.Machine

/-! PROOFS. The order in which owners come and go, and the commands of owners, keys and debug complete (chapter 16: R373, R374, R376, R377,
R382, R388, R389, R392, R393). -/

namespace Sys2Proof.Machine

/-! ### The order of owners (R374) -/

/-- Where the command's own effect leaves the owners' part, so does the command. -/
theorem own_serve {f : Form} {h : Hdr} {p : Bytes} {body : State → State} {s : State} (ht : Taken h s)
    (hb : (body (entered f.opcode h s)).own = s.own) : (serve f h p body s).own = s.own := by
  rw [serve_judged _ _ _ _ _ ht]
  rcases judge_cases f h p body (entered f.opcode h s) with hj | ⟨st, -, hj⟩ <;> rw [hj]
  · exact hb
  · rw [finish_own, entered_own]

/-- A list of refusals of which one holds leaves the owners' part. -/
theorem own_refuseIf {tag : Tag} {l : List (Bool × Byte)} {k : State → State} {s : State} (hl : ∃ c ∈ l, c.1 = true) :
    (refuseIf tag l k s).own = s.own := by
  rcases refuseIf_cases tag l k s with ⟨-, hclear⟩ | ⟨st, -, h⟩
  · obtain ⟨c, hc, hholds⟩ := hl
    exact absurd hholds (by simp [hclear c hc])
  · rw [h, finish_own]

/-- Settles O44: the commands are refused, for their rights or form or at the latest for the order of owners. -/
theorem ownerOrder : Obligations.OwnerOrder := by
  refine fun h p s ht => ⟨fun hslot horder => ⟨_, rfl, own_serve ht (own_refuseIf ?_)⟩,
    fun hslot hother => ⟨_, rfl, own_serve ht (own_refuseIf ?_)⟩⟩
  · refine ⟨(_, stState), List.mem_cons_of_mem _ (List.mem_cons_of_mem _ (List.mem_cons_self ..)), ?_⟩
    have hbarred : (if unprovisioned (entered 0xA0 h s) then fld p 0 1 == 0 else fld p 0 1 == 0 || (h.secure && h.owner == 0)) = false := by
      rcases horder with hnone | hplain | howner
      · simp [hnone, hslot]
      · simp [hplain, hslot]
      · simp only [beq_eq_false_iff_ne.2 howner, beq_eq_false_iff_ne.2 hslot, Bool.and_false, Bool.or_self, ite_self]
    simp only [hbarred, Bool.not_false, Bool.or_true]
  · refine ⟨(_, stState), List.mem_cons_of_mem _ (List.mem_cons_self ..), ?_⟩
    have hothers : ([1, 2, 3].any fun k => (s.ownerSlot k).provisioned) = true := List.any_eq_true.2 hother
    simp only [entered_ownerSlot, hothers, hslot, BEq.rfl, Bool.and_true, Bool.or_true]

/-! ### Owners and their keys (R373, R374, R376, R377, R382, R388) -/

theorem completes_ownerProvision : Rows.ownerProvision.Completes := by
  rintro h p s ⟨ht, hr, hl, hz, ho, hclosed, hempty, hfirst, htrng, hkeys⟩
  refine serve_row ht hr (by simp [hl]) (by simp [zeros, hz]) ?_
  have hslot : decide (3 < fld p 0 1) = false := decide_eq_false (by omega)
  have hallowed : (if unprovisioned (entered 0xA0 h s) then fld p 0 1 == 0 else fld p 0 1 == 0 || (h.secure && h.owner == 0)) = true := by
    rcases hfirst with hzero | ⟨hprov, hsec, howner⟩
    · simp [hzero]
    · simp [hprov, hsec, howner]
  simp only [entered_own, entered_ownerSlot, entered_keysBusy, hslot, hclosed, hempty, hallowed, htrng, hkeys,
    Bool.false_or, Bool.not_true, ← Bool.not_and]
  cases onCurve (slice p 4 64) && onCurve (slice p 68 64) with
  | false => rfl
  | true => cases gcmOpen _ _ _ _ _ <;> rfl

theorem completes_ownerRemove : Rows.ownerRemove.Completes := by
  rintro h p s ⟨ht, hr, hl, hz, ho, hprov, hlast, hkeys⟩
  refine serve_row ht hr (by simp [hl]) (by simp [zeros, hz]) (refuseIf_clear _ _ _ _ ?_)
  have hothers : (fld p 0 1 == 0 && [1, 2, 3].any fun k => (s.ownerSlot k).provisioned) = false := by
    simpa using hlast
  simp only [List.forall_mem_cons, entered_ownerSlot, entered_keysBusy, hothers]
  simp [hprov, hkeys]
  omega

theorem completes_ownerList : Rows.ownerList.Completes := by
  rintro h p s ⟨ht, hr, rfl⟩
  refine serve_row ht hr rfl rfl ?_
  simp [List.range_succ]

theorem completes_epochRoll : Rows.epochRoll.Completes := by
  rintro h p s ⟨ht, hr, rfl, hsec, hroll, hrest, hheads⟩
  refine serve_row ht hr rfl rfl (refuseIf_clear _ _ _ _ ?_)
  have hquiet : ∀ m < 8, (s.model m).phase ≠ .empty → (s.model m).owner = h.owner →
      ((s.model m).phase.runs = false ∧ placing s m = none) ∧ (s.model m).succeeds = none := fun m hm hused hmine =>
    have ⟨hruns, hplacing, hsucceeds, _⟩ := hrest m hm hused hmine
    ⟨⟨hruns, hplacing⟩, hsucceeds⟩
  have hfree : ∀ m < 8, (s.model m).phase ≠ .empty → (s.model m).owner = h.owner → busyModel s m = false := fun m hm hused hmine =>
    have ⟨_, _, _, hbusy⟩ := hrest m hm hused hmine
    hbusy
  simpa [hsec, hroll] using ⟨hquiet, hfree, hheads⟩

theorem completes_keyRotate : Rows.keyRotate.Completes := by
  rintro h p s ⟨ht, hr, hl, hmin, hmax, hz, hsec, hb0, hb1, hb2, hb3, hridge, hkeys⟩
  refine serve_row ht hr (by simp [hl]) (by simp [hz, Nat.div_eq_of_lt hmax]) ?_
  have hblank : ((fld p 0 1 != 0) && (bit (fld p 0 1) 0 || fld p 4 32 == 0) && (bit (fld p 0 1) 1 || fld p 36 64 == 0)
      && (bit (fld p 0 1) 2 || fld p 100 32 == 0) && (bit (fld p 0 1) 3 || fld p 132 32 == 0)) = true := by
    simp only [Bool.and_eq_true, Bool.or_eq_true, beq_iff_eq, bne_iff_ne]
    exact ⟨⟨⟨⟨Nat.ne_of_gt hmin, hb0⟩, hb1⟩, hb2⟩, hb3⟩
  have hrest : (bit (fld p 0 1) 3 && ridgePlacedOf s h.owner) = false := by simpa using hridge
  simp only [entered_ridgePlacedOf, entered_keysBusy, hblank, hrest, hsec, hkeys, Bool.true_and, Bool.not_true]
  have hpoint : (bit (fld p 0 1) 1 && !onCurve (slice p 36 64)) = !(!bit (fld p 0 1) 1 || onCurve (slice p 36 64)) := by simp
  simp only [hpoint]
  cases !bit (fld p 0 1) 1 || onCurve (slice p 36 64) <;> rfl

/-! ### Attestation and the TRNG (R389) -/

theorem completes_attest : Rows.attest.Completes := by
  rintro h p s ⟨ht, hr, hl, hflag, hz⟩
  refine serve_row ht hr (by simp [hl]) (by simp [hz, Nat.div_eq_of_lt hflag]) ?_
  have hb : bit (fld p 16 1) 0 = true ↔ fld p 16 1 = 1 := by simp [bit]; omega
  simp only [hb]

theorem completes_trngRead : Rows.trngRead.Completes := by
  rintro h p s ⟨ht, hr, hl, hz, hmin, hmax, htrng⟩
  refine serve_row ht hr (by simp [hl]) (by simp [zeros, hz]) (refuseIf_clear _ _ _ _ ?_)
  simp [htrng]; omega

/-! ### Debug (R392, R393) -/

theorem completes_debugChallenge : Rows.debugChallenge.Completes := by
  rintro h p s ⟨ht, hr, rfl, htrng⟩
  exact serve_row ht hr rfl rfl (refuseIf_clear _ _ _ _ (by simp [htrng]))

theorem completes_debugOpen : Rows.debugOpen.Completes := by
  rintro h p s ⟨ht, hr, hl, hrests, herase⟩
  refine serve_row ht hr (by simp [hl]) rfl (refuseIf_clear _ _ _ _ ?_)
  rcases hrests with hrests | hrests <;> simp [belayRests, hrests, herase]

/-- Settles O8: row by row. -/
theorem ownerCommandsComplete : Obligations.OwnerCommandsComplete := by
  simp only [Obligations.OwnerCommandsComplete, Rows.ownerRows, List.forall_mem_cons]
  exact ⟨completes_ownerProvision, completes_ownerRemove, completes_ownerList, completes_attest, completes_epochRoll,
    completes_debugChallenge, completes_debugOpen, completes_keyRotate, completes_trngRead, List.forall_mem_nil _⟩

end Sys2Proof.Machine

/-! PROOFS. The commands of the Resource Manager complete (chapter 11: R212, R255, R261, R262, R265, R268 to R270, R274). -/

namespace Sys2Proof.Machine

/-! ### JOB_SUBMIT (R255, R274) -/

theorem completes_jobSubmit : Rows.jobSubmit.Completes := by
  rintro h p s ⟨ht, hr, hmin, hz, hphase, hl, hcount, hwide, hstays, hyields, hroom, hcool, hclock⟩
  refine serve_row ht hr rfl hz (refuseIf_clear _ _ _ _ ?_)
  have hplaced : ((s.model (fld p 0 1)).phase != .placed && (s.model (fld p 0 1)).phase != .running) = false := by
    rcases hphase with hphase | hphase <;> simp [hphase]
  have hfits : (p.length == 68 + imgInC (s.model (fld p 0 1)).image * imgInL (s.model (fld p 0 1)).image
        * (if imgWide (s.model (fld p 0 1)).image then 2 else 1)
      && fld p 50 2 == imgInC (s.model (fld p 0 1)).image * imgInL (s.model (fld p 0 1)).image
      && fld p 52 1 == b2n (imgWide (s.model (fld p 0 1)).image)) = true := by
    rw [hcount, hwide, beq_iff_eq.2 hl, BEq.rfl, BEq.rfl]
    rfl
  have hfree : ((s.model (fld p 0 1)).unloading.isSome || (s.model (fld p 0 1)).yielding) = false := by simp [hstays, hyields]
  simp only [List.forall_mem_cons]
  exact ⟨decide_eq_false (Nat.not_lt.2 hmin), hplaced, congrArg not hfits, hfree, decide_eq_false (Nat.not_le.2 hroom), hcool, hclock,
    List.forall_mem_nil _⟩

/-! ### Results (R212, R268 to R270) -/

theorem completes_resultRead : Rows.resultRead.Completes := by
  rintro h p s ⟨ht, hr, hl, hflags, hz2, hz10, hmin, hmax, hown⟩
  refine serve_row ht hr (by simp [hl]) (by simp [hz2, hz10, Nat.div_eq_of_lt hflags]) (refuseIf_clear _ _ _ _ ?_)
  have hcount : (fld p 8 2 == 0 || decide (63 < fld p 8 2)) = false := by simp; omega
  simp only [List.forall_mem_cons]
  exact ⟨hcount, hown, List.forall_mem_nil _⟩

theorem completes_resultPin : Rows.resultPin.Completes := by
  rintro h p s ⟨ht, hr, hl, r, hat, hroom⟩
  refine serve_row ht hr (by simp [hl]) rfl ?_
  have hat : resultAt s p = some r := hat
  simp only [entered_resultAt, hat]
  refine refuseIf_clear _ _ _ _ (List.forall_mem_singleton.2 ?_)
  rcases hroom with hpinned | ⟨hdevice, howner⟩
  · simp [hpinned]
  · have hfull : (decide (256 ≤ ((entered 0x62 h s).mdl.results.filter fun q => q.pinned && q.valid (entered 0x62 h s)).length)
        || decide (64 ≤ ((entered 0x62 h s).mdl.results.filter fun q => q.pinned && q.valid (entered 0x62 h s)).countP
          (·.owner == r.owner))) = false :=
      Bool.or_eq_false_iff.2 ⟨decide_eq_false (Nat.not_le.2 hdevice), decide_eq_false (Nat.not_le.2 howner)⟩
    simp only [hfull, Bool.and_false]

theorem completes_resultUnpin : Rows.resultUnpin.Completes := by
  rintro h p s ⟨ht, hr, hl, hat⟩
  refine serve_row ht hr (by simp [hl]) rfl ?_
  obtain ⟨r, hat⟩ := Option.isSome_iff_exists.1 hat
  simp only [entered_resultAt, hat]

/-! ### Status, counters and shares (R261, R262) -/

theorem completes_rmStatus : Rows.rmStatus.Completes := by
  rintro h p s ⟨ht, hr, rfl⟩
  exact serve_row ht hr rfl rfl rfl

@[simp] theorem entered_pitchSlot (op : Byte) (h : Hdr) (s : State) (m : Nat) : pitchSlot (entered op h s) m = pitchSlot s m := rfl

/-- A command in the form of RM_COUNTERS for a slot that is no PITCH comes to its effect. -/
theorem serve_rmCountersForm {h : Hdr} {p : Bytes} {body : State → State} {s : State} (ht : Taken h s)
    (hr : (boundModel 0 s p).allow h s = true) (hl : p.length = 4) (hflags : fld p 1 1 < 2) (hz : fld p 2 2 = 0)
    (hown : pitchSlot s (fld p 0 1) = false) :
    (Host.Outcome.next (serve rmCountersForm h p (fun s => refuseIf h.tag [(pitchSlot s (fld p 0 1), stState)] body s) s)
      : Host.Outcome State Fault Refusal) = .next (body (entered 0x65 h s)) :=
  serve_row ht hr (by simp [rmCountersForm, hl]) (by simp [rmCountersForm, hz, Nat.div_eq_of_lt hflags])
    (refuseIf_clear _ _ _ _ (List.forall_mem_singleton.2 hown))

theorem completes_rmCounters : Rows.rmCounters.Completes := by
  rintro h p s ⟨ht, hr, hl, hflags, hz, hown⟩
  exact serve_rmCountersForm ht hr hl hflags hz hown

/-- CLEAR also clears the lost share of the model's owner (DEDUCED, log entry 38). -/
theorem completes_rmCountersClear : Rows.rmCountersClear.Completes := by
  rintro h p s ⟨ht, hr, hl, hflags, hz, hown⟩
  exact serve_rmCountersForm ht hr hl hflags hz hown

theorem completes_rmShareSet : Rows.rmShareSet.Completes := by
  rintro h p s ⟨ht, hr, hform⟩
  rcases hform with rfl | ⟨hl, hz3, hz7, hz11, hz15, hok, hfit⟩
  · exact serve_row ht hr rfl rfl rfl
  · have hne : p ≠ [] := by rintro rfl; cases hl
    refine serve_row ht hr (by simp [hl]) (by simp [zeros, hz3, hz7, hz11, hz15])
      ((if_neg (by simpa using hne)).trans ((refuseIf_clear _ _ _ _ (List.forall_mem_singleton.2 ?_)).trans ?_))
    · have hlegal : (List.range 4).all (shareOk p) = true := by simpa using hok
      have hsum : ((List.range 4).map fun o => fld p (4 * o + 1) 1).sum ≤ localSlots s := by
        simpa [List.range_succ, ← Nat.add_assoc] using hfit
      simp only [entered_localSlots, hlegal, hsum, decide_true, Bool.and_self, Bool.not_true]
    · simp only [hne, if_false]

/-! ### The queues (R265) -/

theorem completes_queueStatus : Rows.queueStatus.Completes := by
  rintro h p s ⟨ht, hr, hl, hflags⟩
  exact serve_row ht hr (by simp [hl]) (by simp [Nat.div_eq_of_lt hflags]) rfl

theorem completes_queueStatusClearHigh : Rows.queueStatusClearHigh.Completes := by
  rintro h p s ⟨ht, hr, hl, hflags⟩
  exact serve_row ht hr (by simp [hl]) (by simp [Nat.div_eq_of_lt hflags]) rfl

theorem completes_resultSubscribe : Rows.resultSubscribe.Completes := by
  rintro h p s ⟨ht, hr, hl, hz, hmode, hown⟩
  exact serve_row ht hr (by simp [hl]) (by simp [zeros, hz]) (refuseIf_clear _ _ _ _ (by simp [hmode, hown]))

/-- Settles O13: row by row. -/
theorem managerCommandsComplete : Obligations.ManagerCommandsComplete := by
  simp only [Obligations.ManagerCommandsComplete, Rows.managerRows, List.forall_mem_cons]
  exact ⟨completes_jobSubmit, completes_resultRead, completes_resultPin, completes_resultUnpin, completes_rmStatus, completes_rmCounters,
    completes_rmCountersClear, completes_rmShareSet, completes_queueStatus, completes_queueStatusClearHigh, completes_resultSubscribe,
    List.forall_mem_nil _⟩

end Sys2Proof.Machine

/-! PROOFS. The commands of heads complete (chapter 12: R276, R281, R286, R291 to R295, R299 to R302, R304 to R306). -/

namespace Sys2Proof.Machine

/-! ### Refusals as branches -/

theorem refuseIf_cons (tag : Tag) (b : Bool) (st : Byte) (l : List (Bool × Byte)) (k : State → State) (s : State) :
    refuseIf tag ((b, st) :: l) k s = if b then finish tag st [] s else refuseIf tag l k s := by
  cases b <;> rfl

theorem refuseIf_nil (tag : Tag) (k : State → State) (s : State) : refuseIf tag [] k s = k s := rfl

/-! ### Commands that name a head in four bytes -/

/-- A command that names a head in four bytes, with flags, comes to its body. -/
theorem serve_headForm {op : Byte} {flagBits : Nat} {h : Hdr} {p : Bytes} {body : State → State} {s t : State} (ht : Taken h s)
    (hr : (boundHead s p).allow h s = true) (hp : Rows.headPayload flagBits p) (hb : body (entered op h s) = t) :
    (Host.Outcome.next (serve (headForm op flagBits) h p body s) : Host.Outcome State Fault Refusal) = .next t := by
  obtain ⟨hl, hflags, hz⟩ := hp
  exact serve_row ht hr (by simp [headForm, hl]) (by simp [headForm, hz, Nat.div_eq_of_lt hflags]) hb

theorem completes_headGet : Rows.headGet.Completes := by
  rintro h p s ⟨ht, hr, hp⟩
  exact serve_headForm ht hr hp rfl

theorem completes_headStats : Rows.headStats.Completes := by
  rintro h p s ⟨ht, hr, hp⟩
  exact serve_headForm ht hr hp rfl

theorem completes_headStatsClear : Rows.headStatsClear.Completes := by
  rintro h p s ⟨ht, hr, hp⟩
  exact serve_headForm ht hr hp rfl

/-! ### The records (R276, R305) -/

theorem completes_headConfig : Rows.headConfig.Completes := by
  rintro h p s ⟨ht, hr, hl, hz, hres, hrange, hsyn, hused⟩
  refine serve_row ht hr (by simp [hl]) (by simp [zeros, hz, hres]) (refuseIf_clear _ _ _ _ ?_)
  have hfits : (!headInRange (slice p 4 40) || (!namesOrphan s p && decide (fld (slice p 4 40) 24 2 < (s.head (fld p 0 1)).syn.length)))
      = false := by
    rw [hrange, decide_eq_false (Nat.not_lt.2 hsyn), Bool.and_false]
    rfl
  simp only [List.forall_mem_cons]
  exact ⟨hfits, hused, List.forall_mem_nil _⟩

theorem completes_modulatorConfig : Rows.modulatorConfig.Completes := by
  rintro h p s ⟨ht, hr, hl, hz, hres, hrange, hused⟩
  exact serve_row ht hr (by simp [hl]) (by simp [zeros, hz, hres]) (refuseIf_clear _ _ _ _ (by simp [hrange, hused]))

/-! ### Rewards (R286, R291) -/

/-- A command in the form of REWARD comes to its body. -/
theorem serve_rewardForm {h : Hdr} {p : Bytes} {body : State → State} {s t : State} (ht : Taken h s)
    (hr : (boundHead s p).allow h s = true) (hp : Rows.rewardable p s) (hb : body (entered 0x72 h s) = t) :
    (Host.Outcome.next (serve rewardForm h p body s) : Host.Outcome State Fault Refusal) = .next t := by
  obtain ⟨hl, hz3, hz6, -⟩ := hp
  exact serve_row ht hr (by simp [rewardForm, hl]) (by simp [rewardForm, zeros, hz3, hz6]) hb

theorem completes_rewardCancel : Rows.rewardCancel.Completes := by
  rintro h p s ⟨ht, hr, hp, hvalue, hsteps⟩
  obtain ⟨-, -, -, htakes⟩ := id hp
  exact serve_rewardForm ht hr hp (refuseIf_clear _ _ _ _ (by simp [hvalue, hsteps, htakes]))

theorem completes_rewardImmediate : Rows.rewardImmediate.Completes := by
  rintro h p s ⟨ht, hr, hp, hsteps, hclock⟩
  obtain ⟨-, -, -, htakes⟩ := id hp
  exact serve_rewardForm ht hr hp (refuseIf_clear _ _ _ _ (by simp [hsteps, htakes, hclock]))

theorem completes_rewardHeld : Rows.rewardHeld.Completes := by
  rintro h p s ⟨ht, hr, hp, hsteps⟩
  obtain ⟨-, -, -, htakes⟩ := id hp
  exact serve_rewardForm ht hr hp (refuseIf_clear _ _ _ _ (by simp [hsteps, htakes]))

/-! ### Freeze (R293, R294) -/

theorem completes_headFreeze : Rows.headFreeze.Completes := by
  rintro h p s ⟨ht, hr, hp, hused⟩
  exact serve_headForm ht hr hp (refuseIf_clear _ _ _ _ (List.forall_mem_singleton.2 hused))

theorem completes_headResume : Rows.headResume.Completes := by
  rintro h p s ⟨ht, hr, hp, hused⟩
  exact serve_headForm ht hr hp (refuseIf_clear _ _ _ _ (List.forall_mem_singleton.2 hused))

/-! ### Saved state (R299 to R302) -/

theorem completes_headSave : Rows.headSave.Completes := by
  rintro h p s ⟨ht, hr, hp, hused, hfree, hclock⟩
  refine serve_headForm ht hr hp ((refuseIf_clear _ _ _ _ (by simp [hused, hfree])).trans ?_)
  cases hchanged : (s.head (fld p 0 1)).changed with
  | false => simp only [entered_head, hchanged]; rfl
  | true =>
    simp only [entered_head, hchanged, Bool.not_true, Bool.false_eq_true, if_false, if_true]
    exact refuseIf_clear _ _ _ _ (List.forall_mem_singleton.2 (hclock hchanged))

theorem completes_headRestore : Rows.headRestore.Completes := by
  rintro h p s ⟨ht, hr, hl, hz, hused, hfree, hclock, hsource⟩
  refine serve_row ht hr (by simp [hl]) (by simp [zeros, hz]) ((refuseIf_clear _ _ _ _ ?_).trans ?_)
  · have hthere : ((fld p 1 1 == 0 && (s.head (fld p 0 1)).copyImage.isNone)
        || (fld p 1 1 == 1 && (previousImage (s.head (fld p 0 1))).isNone)
        || (fld p 1 1 == 2 && ((s.model ((s.head (fld p 0 1)).user.getD (0, 0)).1).pagesFor
          (layerAt (s.model ((s.head (fld p 0 1)).user.getD (0, 0)).1).image ((s.head (fld p 0 1)).user.getD (0, 0)).2).wAt
          (layerAt (s.model ((s.head (fld p 0 1)).user.getD (0, 0)).1).image ((s.head (fld p 0 1)).user.getD (0, 0)).2).wLen).contains 0))
        = false := by
      rcases hsource with ⟨hsrc, hcopy⟩ | ⟨hsrc, hprev⟩ | ⟨hsrc, hpages⟩
      · simp [hsrc, hcopy]
      · simp [hsrc, hprev]
      · simp [hsrc, hpages]
    have hrange : decide (2 < fld p 1 1) = false := by
      rcases hsource with ⟨hsrc, -⟩ | ⟨hsrc, -⟩ | ⟨hsrc, -⟩ <;> simp [hsrc]
    simp only [List.forall_mem_cons]
    exact ⟨hrange, Bool.or_eq_false_iff.2 ⟨hused, hthere⟩, hfree, hclock, List.forall_mem_nil _⟩
  · simp only [beq_iff_eq]

theorem completes_headExport : Rows.headExport.Completes := by
  rintro h p s ⟨ht, hr, hp, hfree, htrng, hfrom⟩
  refine serve_headForm ht hr hp ?_
  rcases hfrom with ⟨hfirst, hused, hclock⟩ | ⟨hfirst, hcopy, hreads⟩
  · have hb : bit (fld p 1 1) 0 = true := by simp [bit, hfirst]
    refine (refuseIf_clear _ _ _ _ ?_).trans ((refuseIf_clear _ _ _ _ ?_).trans ((if_pos hb).trans (if_pos hfirst).symm))
    · simp [hb, hused, hfree]
    · simp [htrng, hclock]
  · have hb : bit (fld p 1 1) 0 = false := by simp [bit, hfirst]
    refine (refuseIf_clear _ _ _ _ ?_).trans ((refuseIf_clear _ _ _ _ ?_).trans
      ((if_neg (ne_true_of_eq_false hb)).trans ((if_neg (ne_true_of_eq_false hreads)).trans (if_neg (by omega)).symm)))
    · simp [hb, hcopy, hfree]
    · simp [htrng, hb]

/-- The blob's own checks follow in the effect: it opens, its shape and its layer's tag are the head's. -/
theorem completes_headImport : Rows.headImport.Completes := by
  rintro h p s ⟨ht, hr, hl, hflags, hz, hmagic, hlen, hzb, howner, hused, hfree, hclock⟩
  refine serve_row ht hr (by simp [hl]) (by simp [hz, Nat.div_eq_of_lt hflags]) ((refuseIf_clear _ _ _ _ ?_).trans ?_)
  · simp [hmagic, hlen, hzb, howner, hused, hfree, hclock]
  · dsimp only
    cases openBlob (entered 0x79 h s) h.owner.toNat (p.drop 4) with
    | none => rfl
    | some c =>
      have hplain : (!bit (fld p 1 1) 0) = true ↔ fld p 1 1 = 0 := by simp [bit]; omega
      simp only [refuseIf_cons, refuseIf_nil, Bool.or_eq_true, Bool.and_eq_true, bne_iff_ne, decide_eq_true_eq, hplain, or_assoc]

/-! ### Consolidation (R295) -/

theorem completes_headConsolidate : Rows.headConsolidate.Completes := by
  rintro h p s ⟨ht, hr, hp, hused, hmode, hcopy, hloaded, hcool, hpll⟩
  refine serve_headForm ht hr hp ((refuseIf_clear _ _ _ _ ?_).trans ?_)
  · have hcopies : ((s.head (fld p 0 1)).copy.any fun c => c.writing || c.ready) = false :=
      (Option.any_eq_false _ _).2 fun c hc => by simp [hcopy c hc]
    simp [hused, hmode, hcopies, hloaded, hcool, hpll]
  · simp only [Bool.and_eq_true, Bool.not_eq_eq_eq_not, Bool.not_true, decide_eq_true_eq]

/-! ### Reset (R304, R306) -/

/-- A command in the form of HEAD_RESET comes to its body. -/
theorem serve_headResetForm {h : Hdr} {p : Bytes} {body : State → State} {s t : State} (ht : Taken h s)
    (hr : (boundHead s p).allow h s = true) (hl : p.length = 4) (hz : fld p 2 2 = 0) (hb : body (entered 0x7C h s) = t) :
    (Host.Outcome.next (serve headResetForm h p body s) : Host.Outcome State Fault Refusal) = .next t :=
  serve_row ht hr (by simp [headResetForm, hl]) (by simp [headResetForm, zeros, hz]) hb

theorem completes_headReset : Rows.headReset.Completes := by
  rintro h p s ⟨ht, hr, hl, hz, hused, hfree, hclock⟩
  exact serve_headResetForm ht hr hl hz (refuseIf_clear _ _ _ _ (by simp [hused, hfree, hclock]))

theorem completes_headEraseOrphan : Rows.headEraseOrphan.Completes := by
  rintro h p s ⟨ht, hr, hl, hz, horphan, hfree⟩
  exact serve_headResetForm ht hr hl hz (refuseIf_clear _ _ _ _ (by simp [horphan, hfree]))

/-- Settles O14: row by row. -/
theorem headCommandsComplete : Obligations.HeadCommandsComplete := by
  simp only [Obligations.HeadCommandsComplete, Rows.headRows, List.forall_mem_cons]
  exact ⟨completes_headConfig, completes_headGet, completes_rewardCancel, completes_rewardImmediate, completes_rewardHeld,
    completes_modulatorConfig, completes_headFreeze, completes_headResume, completes_headSave, completes_headRestore,
    completes_headExport, completes_headImport, completes_headConsolidate, completes_headStats, completes_headStatsClear,
    completes_headReset, completes_headEraseOrphan, List.forall_mem_nil _⟩

end Sys2Proof.Machine

/-! PROOFS. The events of heads complete (chapter 12: R280, R281, R283 to R288, R291, R294, R296, R299, R301, R302). -/

namespace Sys2Proof.Machine

/-! ### Learning steps and rewards (R281, R284, R285, R291) -/

/-- A learning step is the head's next operation. -/
theorem exists_step_of_next {l : List HeadOp} (h : (match l with | .step _ :: _ => true | _ => false) = true) :
    ∃ e rest, l = .step e :: rest := by
  split at h
  · exact ⟨_, _, rfl⟩
  · cases h

/-- A reward is the head's next operation. -/
theorem exists_reward_of_next {l : List HeadOp} (h : (match l with | .reward _ _ :: _ => true | _ => false) = true) :
    ∃ tag value rest, l = .reward tag value :: rest := by
  split at h
  · exact ⟨_, _, _, rfl⟩
  · cases h

theorem completes_learningStep (head : BitVec 2) : (Rows.learningStep head).Completes := by
  rintro s ⟨hnext, hon, hserves⟩
  show execLearningStep head s = _
  obtain ⟨e, rest, hops⟩ := exists_step_of_next hnext
  simp only [execLearningStep, hops, hon, hserves, Bool.not_true, Bool.false_eq_true, if_false]

theorem completes_learningWaits (head : BitVec 2) : (Rows.learningWaits head).Completes := by
  rintro s ⟨hnext, hoff⟩
  show execLearningStep head s = _
  obtain ⟨e, rest, hops⟩ := exists_step_of_next hnext
  simp only [execLearningStep, hops, hoff, Bool.not_false, if_true]

theorem completes_rewardUpdate (head : BitVec 2) : (Rows.rewardUpdate head).Completes := by
  rintro s ⟨hnext, hon, hserves⟩
  show execRewardUpdate head s = _
  obtain ⟨tag, value, rest, hops⟩ := exists_reward_of_next hnext
  simp only [execRewardUpdate, hops, hon, hserves, Bool.not_true, Bool.false_eq_true, if_false, beq_iff_eq]

/-! ### Settling and the hold-off (R294) -/

theorem completes_settlePeriodEnd (head : BitVec 2) : (Rows.settlePeriodEnd head).Completes := by
  intro s hsettles
  exact if_neg (by simpa [Option.isSome_iff_ne_none] using hsettles)

theorem completes_holdoffPeriodEnd (head : BitVec 2) : (Rows.holdoffPeriodEnd head).Completes := by
  intro s hholds
  exact if_neg (by simpa [Option.isSome_iff_ne_none] using hholds)

/-! ### Saves and copies (R296, R299, R302) -/

/-- A head's save has ended, and what it is for need not wait. -/
theorem exists_saved_of_ready {b : Option HeadBusy} {waits : Bool}
    (h : (match b with | some (.saved cause _) => cause != .exported || !waits | _ => false) = true) :
    ∃ cause tag, b = some (.saved cause tag) ∧ (cause == .exported && waits) = false := by
  split at h
  · exact ⟨_, _, rfl, by simpa [Bool.or_eq_true, imp_iff_not_or] using h⟩
  · cases h

theorem completes_headSaveCommit (head : BitVec 2) : (Rows.headSaveCommit head).Completes := by
  intro s hready
  show execHeadSaveCommit head s = _
  obtain ⟨cause, tag, hbusy, hreads⟩ := exists_saved_of_ready hready
  simp only [execHeadSaveCommit, hbusy, hreads, Bool.false_eq_true, if_false]

theorem completes_consolidationInForce (head : BitVec 2) : (Rows.consolidationInForce head).Completes := by
  rintro s ⟨hready, hbetween⟩
  show execConsolidationInForce head s = _
  obtain ⟨c, hc, hready⟩ := (Option.any_eq_true _ _).1 hready
  obtain ⟨u, hu, hbetween⟩ := (Option.any_eq_true _ _).1 hbetween
  have hidle : (s.mdl.jobs.any fun j => j.model == u.1) = false := by simpa using hbetween
  simp only [execConsolidationInForce, hc, hu, hready, hidle, Option.getD_some, Bool.not_true, Bool.or_self, Bool.false_eq_true, if_false]
  cases c.tag <;> rfl

/-! ### Loads (R218, R281, R301) -/

theorem loadPages_eq {n : Nat} {u : Nat × Nat} {s : State} (source : LoadSource) (hu : (s.head n).user = some u) :
    Rows.loadPages source n s = if source == .initial
      then (s.model u.1).pagesFor (layerAt (s.model u.1).image u.2).wAt (layerAt (s.model u.1).image u.2).wLen
      else currentPages s n := by
  simp only [Rows.loadPages, hu]
  cases source <;> rfl

theorem isOn_of_works {s : State} {n : Nat} (h : works s n = true) : s.isOn n = true := by
  simp only [works, Bool.and_eq_true] at h
  obtain ⟨⟨hon, -⟩, -⟩ := h
  exact hon

/-- Reading pages leaves the models. -/
theorem readPages_model (pages : List Nat) (s : State) (m : Nat) : (readPages pages s).model m = s.model m := by
  have h : ((readPages pages s).beyond [.nvm]).mdl.slots = (s.beyond [.nvm]).mdl.slots := by rw [beyond_readPages s pages (List.Subset.refl _)]
  exact congrArg (rd · m) h

/-- What a head takes when its load ends, with the image's bytes given. -/
def loadTakesFrom (img : Bytes) (n : Nat) (u : Nat × Nat) (source : LoadSource) (tag : Option Tag) (copy : Option Bytes) (s : State) : State :=
  let ended (h : Head) : Head := { h with rewardLeft := if source == .wake then h.rewardLeft else 0, slept := false }
  let taken := onHead n (fun h => ended (match copy with
    | some c => h.load c
    | none => h.initial img (layerAt img u.2))) s
  let settled := if tag.isSome then startSettle n (withdrawCopy n ((taken.head n).consMode != 0) stState taken) else taken
  let seq := (copy.map fun c => fld c 12 4).getD 0
  let code := if copy.isNone then 2 else source.code
  let told := if source == .wake || source == .resumed then settled
    else raiseHead n 0x75 true ([BitVec.ofNat 8 n, code, 0, 0] ++ le 4 seq) settled
  serveHead n (match tag with
    | none => carryRoll told
    | some t => finish t 0x00 (if (told.slot? t).any (·.opcode == 0x7C) then [] else le 4 seq) (commitMark t told))

theorem loadTakes_eq (n : Nat) (u : Nat × Nat) (source : LoadSource) (tag : Option Tag) (copy : Option Bytes) (s : State) :
    loadTakes n u source tag copy s = loadTakesFrom (s.model u.1).image n u source tag copy s := rfl

/-- The state in which the engine has read what a head's load reads. -/
def loadRead (source : LoadSource) (n : Nat) (s : State) : State :=
  onHead n (fun h => { h with ops := h.ops.drop 1 }) (readPages (Rows.loadPages source n s) s)

/-- A load that the engine can end ends with what its pages say. -/
theorem execHeadLoadDone_of_ready {head : BitVec 2} {s : State} {source : LoadSource} {tag : Option Tag} {u : Nat × Nat}
    (hdue : (s.head head.toNat).loadDue = some (source, tag)) (hu : (s.head head.toNat).user = some u) (hworks : works s 10 = true)
    (hfree : forwardWaits s = false) (hreads : readWaits s (Rows.loadPages source head.toNat s) = false) :
    execHeadLoadDone head s = match if readable s (Rows.loadPages source head.toNat s) then none else tag with
      | some t => .next (serveHead head.toNat (finish t stNvm [] (loadRead source head.toNat s)))
      | none => .next (loadTakes head.toNat u source tag
          (if source == .initial || !readable s (Rows.loadPages source head.toNat s) then none
            else ((loadRead source head.toNat s).head head.toNat).copyImage) (loadRead source head.toNat s)) := by
  simp only [loadRead, loadPages_eq source hu] at hreads ⊢
  simp only [execHeadLoadDone, hdue, hu, isOn_of_works hworks, hworks, hfree, hreads, Bool.not_true, Bool.or_self, Bool.false_eq_true, if_false] <;> rfl

theorem completes_headLoadDone (head : BitVec 2) : (Rows.headLoadDone head).Completes := by
  rintro s ⟨⟨⟨source, tag⟩, hdue, huser, hworks, hfree, hreads⟩, hgood⟩
  show execHeadLoadDone head s = _
  obtain ⟨u, hu⟩ := Option.isSome_iff_exists.1 huser
  rw [execHeadLoadDone_of_ready hdue hu hworks hfree hreads]
  have hnone : (if readable s (Rows.loadPages source head.toNat s) then none else tag) = none := by
    rcases hgood _ hdue with hgood | hgood
    · exact if_pos hgood
    · simp only [show tag = none from hgood, ite_self]
  have himage : ((loadRead source head.toNat s).model u.1).image = (s.model u.1).image := by
    rw [← readPages_model (Rows.loadPages source head.toNat s) s u.1]
    rfl
  rw [hnone, loadTakes_eq, himage]
  dsimp only [Rows.headLoadDone]
  rw [hdue, hu]
  rfl

theorem completes_headLoadFails (head : BitVec 2) : (Rows.headLoadFails head).Completes := by
  rintro s ⟨⟨⟨source, tag⟩, hdue, huser, hworks, hfree, hreads⟩, hbad⟩
  show execHeadLoadDone head s = _
  obtain ⟨u, hu⟩ := Option.isSome_iff_exists.1 huser
  obtain ⟨hbad, htag⟩ := hbad _ hdue
  obtain ⟨t, rfl⟩ := Option.isSome_iff_exists.1 htag
  rw [execHeadLoadDone_of_ready hdue hu hworks hfree hreads]
  simp only [hbad, Bool.false_eq_true, if_false, hdue, Option.getD_some, loadRead]

/-- Settles O30: row by row. -/
theorem headEventsComplete : Obligations.HeadEventsComplete :=
  ⟨completes_learningStep, completes_learningWaits, completes_rewardUpdate, completes_settlePeriodEnd, completes_holdoffPeriodEnd,
    completes_headSaveCommit, completes_consolidationInForce, completes_headLoadDone, completes_headLoadFails⟩

end Sys2Proof.Machine

/-! PROOFS. The commands of calibration, self-test, wear and fencing complete (chapter 13: R308, R310, R314, R317, R318, R321 to R323, R325). -/

namespace Sys2Proof.Machine

/-! ### Calibration and self-test (R314, R317, R318) -/

/-- A run over cores that are free for it starts. -/
theorem startCores_of_free {op : Byte} {kind : Nat} {h : Hdr} {p : Bytes} {s : State} (hfree : Rows.coresFree p s) :
    startCores kind h p (entered op h s) = Rows.coreRun kind h p (entered op h s) := by
  obtain ⟨hmask, hfenced, hcool, hpll⟩ := hfree
  have hwhole : ((members 8 (fld p 0 1)).any fun n => (s.core n).fenced) = false := List.any_eq_false.2 fun n hn => by simp [hfenced n hn]
  refine refuseIf_clear _ _ _ _ ?_
  simp only [List.forall_mem_cons]
  exact ⟨beq_eq_false_iff_ne.2 hmask, hwhole, beq_eq_false_iff_ne.2 hcool, hpll, List.forall_mem_nil _⟩

theorem completes_calRun : Rows.calRun.Completes := by
  rintro h p s ⟨ht, hr, hl, hz, hfree⟩
  exact serve_row ht hr (by simp [hl]) (by simp [zeros, hz]) (startCores_of_free hfree)

theorem completes_calStatus : Rows.calStatus.Completes := by
  rintro h p s ⟨ht, hr, rfl⟩
  exact serve_row ht hr rfl rfl rfl

theorem completes_selftestRunQuick : Rows.selftestRunQuick.Completes := by
  rintro h p s ⟨ht, hr, hl, hz, hfree⟩
  exact serve_row ht hr (by simp [selftestForm, hl]) (by simp [selftestForm, zeros, hz]) (startCores_of_free hfree)

theorem completes_selftestRunFull : Rows.selftestRunFull.Completes := by
  rintro h p s ⟨ht, hr, hl, hz, hfree⟩
  exact serve_row ht hr (by simp [selftestForm, hl]) (by simp [selftestForm, zeros, hz]) (startCores_of_free hfree)

theorem completes_selftestResult : Rows.selftestResult.Completes := by
  rintro h p s ⟨ht, hr, rfl⟩
  exact serve_row ht hr rfl rfl rfl

/-! ### Wear (R308, R310) -/

theorem completes_wearStatus : Rows.wearStatus.Completes := by
  rintro h p s ⟨ht, hr, rfl⟩
  exact serve_row ht hr rfl rfl rfl

theorem completes_wearConfig : Rows.wearConfig.Completes := by
  rintro h p s ⟨ht, hr, hform⟩
  rcases hform with rfl | ⟨hl, hz3, hz6, hlife, hlife', hbank, hbank', hadd, hidle⟩
  · exact serve_row ht hr rfl rfl rfl
  · have hne : p ≠ [] := by rintro rfl; cases hl
    refine serve_row ht hr (by simp [hl]) (by simp [zeros, hz3, hz6])
      ((if_neg (by simpa using hne)).trans ((refuseIf_clear _ _ _ _ ?_).trans (if_neg hne).symm))
    simp [hlife, hlife', hbank, hbank', hadd, hidle]

/-! ### Fencing (R322, R323, R325) -/

theorem completes_coreStatus : Rows.coreStatus.Completes := by
  rintro h p s ⟨ht, hr, rfl⟩
  exact serve_row ht hr rfl rfl rfl

/-- A command in the form of CORE_FENCE comes to its body. -/
theorem serve_coreFenceForm {h : Hdr} {p : Bytes} {body : State → State} {s t : State} (ht : Taken h s)
    (hr : Rights.site.allow h s = true) (hl : p.length = 4) (hz : fld p 2 2 = 0) (hb : body (entered 0xC7 h s) = t) :
    (Host.Outcome.next (serve coreFenceForm h p body s) : Host.Outcome State Fault Refusal) = .next t :=
  serve_row ht hr (by simp [coreFenceForm, hl]) (by simp [coreFenceForm, zeros, hz]) hb

theorem completes_coreFence : Rows.coreFence.Completes := by
  rintro h p s ⟨ht, hr, hl, hz, hn⟩
  exact serve_coreFenceForm ht hr hl hz (refuseIf_clear _ _ _ _ (by simpa using hn))

theorem completes_coreUnfence : Rows.coreUnfence.Completes := by
  rintro h p s ⟨ht, hr, hl, hz, hn, hfenced, hcolumns, hfencing, hunfence, hcool, hpll⟩
  refine serve_coreFenceForm ht hr hl hz (refuseIf_clear _ _ _ _ ?_)
  simp [hn, hfenced, hcolumns, hfencing, hunfence, hcool, hpll]

/-! ### Clipping (R321) -/

theorem completes_clipCounters : Rows.clipCounters.Completes := by
  rintro h p s ⟨ht, hr, hl, hz⟩
  exact serve_row ht hr (by simp [hl]) hz rfl

theorem completes_clipCountersClear : Rows.clipCountersClear.Completes := by
  rintro h p s ⟨ht, hr, hl, hz⟩
  exact serve_row ht hr (by simp [hl]) hz rfl

/-- Settles O18: row by row. -/
theorem coreCommandsComplete : Obligations.CoreCommandsComplete := by
  simp only [Obligations.CoreCommandsComplete, Rows.coreRows, List.forall_mem_cons]
  exact ⟨completes_calRun, completes_calStatus, completes_selftestRunQuick, completes_selftestRunFull, completes_selftestResult,
    completes_wearStatus, completes_wearConfig, completes_coreStatus, completes_coreFence, completes_coreUnfence, completes_clipCounters,
    completes_clipCountersClear, List.forall_mem_nil _⟩

end Sys2Proof.Machine

/-! PROOFS. The events of arrays, tests and wear complete (chapter 13: R205, R308, R310, R312, R314 to R319, R321). -/

namespace Sys2Proof.Machine

/-! ### Array writes (R205, R316, R319) -/

/-- Two changes of one array are one. -/
theorem onArray_onArray {a : Nat} (f g : CimArray → CimArray) (s : State) (ha : a < 64) :
    onArray a g (onArray a f s) = onArray a (fun x => g (f x)) s := by
  have h : upd (upd s.mdl.arrays a f) a g = upd s.mdl.arrays a fun x => g (f x) := by
    rw [upd, rd_upd_self _ _ _ ha]
    exact Vector.setIfInBounds_setIfInBounds ..
  simp only [onArray, h]

/-- The array that is programmed and has its columns replaced is what the write's row says. -/
theorem replaceColumns_program (stuck : List Nat) (bad : Nat) (w : ArrayWrite) (s : State) (x : CimArray) :
    CimArray.replaceColumns stuck bad (CimArray.program w (s.model w.use.model).owner.toNat
      (drawOrder (rd s.own.slots (s.model w.use.model).owner.toNat).pk w.array w.count (cimGroup (writtenCtrl s w.use))) x)
      = Rows.writtenArray s w stuck bad x := by
  have hrows : (List.replicate 8 [0, 15]).flatten = [0, 15, 0, 15, 0, 15, 0, 15, 0, 15, 0, 15, 0, 15, 0, 15] := rfl
  simp only [CimArray.replaceColumns, CimArray.program, Rows.writtenArray, CimArray.spares, CimArray.erase, hrows]

/-- Programming an array and then replacing its columns leaves what the write's row says. -/
theorem replaceColumns_programArray {w : ArrayWrite} (stuck : List Nat) (bad : Nat) (s : State) (ha : w.array < 64) :
    onArray w.array (CimArray.replaceColumns stuck bad) (programArray w s) = onArray w.array (Rows.writtenArray s w stuck bad) s :=
  (onArray_onArray _ _ s ha).trans (congrArg (onArray w.array · s) (funext fun x => replaceColumns_program stuck bad w s x))

theorem completes_arrayWriteDone (array : BitVec 6) (stuck : List (BitVec 8)) (residual : Nat) (outside : Bool) (bad : Nat) :
    (Rows.arrayWriteDone array stuck residual outside bad).Completes := by
  rintro s ⟨hnext, hworks, hpass, hcool⟩
  show execArrayWriteDone array stuck residual outside bad s = _
  obtain ⟨⟨run, w⟩, hr, hw⟩ := (Option.any_eq_true _ _).1 hnext
  have hw : w.array = array.toNat := beq_iff_eq.1 hw
  have hwritten := replaceColumns_programArray (w := w) (stuck.map (·.toNat)).eraseDups bad s (by rw [hw]; exact array.isLt)
  rw [hw] at hwritten
  simp only [execArrayWriteDone, hr, hw, hworks, hpass, hwritten, bne_self_eq_false, Bool.not_true, beq_eq_false_iff_ne.2 hcool,
    Bool.or_self, Bool.false_eq_true, if_false, Option.getD_some, Bool.and_eq_true, List.isEmpty_iff, beq_iff_eq,
    ← apply_ite Host.Outcome.next]

/-! ### Recalibration and tests (R314, R315, R317, R318) -/

theorem completes_recalibration (core : BitVec 3) (residual : Nat) (outside : Bool) (bad : List (BitVec 3)) :
    (Rows.recalibration core residual outside bad).Completes := by
  intro s hready
  show execRecalibration core residual outside bad s = _
  simp only [Rows.recalReady, Bool.and_eq_true, Option.isNone_iff_eq_none] at hready
  obtain ⟨⟨⟨⟨hdue, hworks⟩, hfree⟩, hnone⟩, hcool⟩ := hready
  simp only [execRecalibration, hdue, hworks, hfree, hnone, Option.isSome_none, bne_iff_ne.1 hcool |> beq_eq_false_iff_ne.2, Bool.not_true,
    Bool.or_self, Bool.false_eq_true, if_false, ← apply_ite Host.Outcome.next]

theorem completes_quickSelftest (core : BitVec 3) (ok : Bool) : (Rows.quickSelftest core ok).Completes := by
  intro s hready
  show execQuickSelftest core ok s = _
  simp only [Rows.quickReady, Bool.and_eq_true] at hready
  obtain ⟨⟨⟨hdue, hworks⟩, hfree⟩, hcool⟩ := hready
  simp only [execQuickSelftest, hdue, hworks, hfree, bne_iff_ne.1 hcool |> beq_eq_false_iff_ne.2, Bool.not_true, Bool.or_self,
    Bool.false_eq_true, if_false, ← apply_ite Host.Outcome.next]

theorem completes_fullSelftest (core : BitVec 3) (quickOk otherOk : Bool) (failing : List (BitVec 3 × Nat)) :
    (Rows.fullSelftest core quickOk otherOk failing).Completes := by
  intro s hready
  show execFullSelftest core quickOk otherOk failing s = _
  simp only [Rows.fullReady, Bool.and_eq_true, Bool.not_eq_true'] at hready
  obtain ⟨⟨⟨⟨hwhole, hdue⟩, hworks⟩, hfree⟩, hcool⟩ := hready
  simp only [execFullSelftest, hwhole, hdue, hworks, hfree, bne_iff_ne.1 hcool |> beq_eq_false_iff_ne.2, Bool.not_true, Bool.or_self,
    Bool.false_eq_true, if_false, decide_eq_true_eq, ← apply_ite Host.Outcome.next]

/-! ### Clipping (R321) -/

/-- The event and its row each match on the window found; `rfl` is for a build in which these are two matchers. -/
theorem completes_clipWindowEnd (array : BitVec 6) : (Rows.clipWindowEnd array).Completes := by
  intro s hends
  show execClipWindowEnd array s = _
  obtain ⟨w, hw⟩ := Option.isSome_iff_exists.1 (List.isSome_find?.trans hends)
  simp only [execClipWindowEnd, hw, Bool.or_eq_true, decide_eq_true_eq, ← apply_ite Host.Outcome.next] <;> rfl

/-! ### Wear (R308, R312) -/

theorem completes_wearHourlyAccrual : Rows.wearHourlyAccrual.Completes := by
  intro s hon
  show execWearHourlyAccrual s = _
  simp only [execWearHourlyAccrual, show s.isOn 0 = true from hon, Bool.not_true, Bool.false_eq_true, if_false]

theorem completes_wearDayBoundary : Rows.wearDayBoundary.Completes := by
  intro s hon
  exact if_neg (by simpa using hon)

/-- Settles O31: row by row. -/
theorem coreEventsComplete : Obligations.CoreEventsComplete :=
  ⟨completes_arrayWriteDone, completes_recalibration, completes_quickSelftest, completes_fullSelftest, completes_clipWindowEnd,
    completes_wearHourlyAccrual, completes_wearDayBoundary⟩

end Sys2Proof.Machine

/-! PROOFS. The commands of Belay, the outputs and alarms complete (chapter 14: R328, R331, R333, R335 to R337, R342 to R344). -/

namespace Sys2Proof.Machine

/-! ### The map and the configuration (R331, R344) -/

theorem completes_houtMap : Rows.houtMap.Completes := by
  rintro h p s ⟨ht, hr, hform⟩
  rcases hform with rfl | ⟨hl, hz, hout, hassets, hfixed⟩
  · exact serve_row ht hr rfl rfl rfl
  · have hne : p ≠ [] := by rintro rfl; cases hl
    have hok : (!((List.range 4).all (outOk p) && (List.range 8).all fun k => (assetFrom p k).ok)) = false := by
      simp only [Bool.not_eq_false', Bool.and_eq_true, List.all_eq_true, List.mem_range]
      exact ⟨hout, hassets⟩
    refine serve_row ht hr (by simp [hl])
      (List.all_eq_true.2 fun k hk => by simpa using hz k (List.mem_range.1 hk))
      ((if_neg (by simpa using hne)).trans ((refuseIf_clear _ _ _ _ ?_).trans ?_))
    · simp only [List.forall_mem_cons]
      exact ⟨hok, hfixed, List.forall_mem_nil _⟩
    · simp only [if_neg hne, Bool.and_eq_true, beq_iff_eq, and_assoc]

theorem completes_houtGet : Rows.houtGet.Completes := by
  rintro h p s ⟨ht, hr, rfl⟩
  exact serve_row ht hr rfl rfl rfl

theorem completes_belayConfig : Rows.belayConfig.Completes := by
  rintro h p s ⟨ht, hr, hform⟩
  rcases hform with rfl | ⟨hl, hz, hok, hfixed, htach⟩
  · exact serve_row ht hr rfl rfl rfl
  · have hne : p ≠ [] := by rintro rfl; cases hl
    have hseen : ((belayFrom p).coastTach != 0xFF
        && (rd s.stm.tachs (belayFrom p).coastTach.toNat).phase == .disabled) = false := by
      rcases htach with h | h <;> simp [h]
    refine serve_row ht hr (by simp [hl]) (by simp [hz])
      ((if_neg (by simpa using hne)).trans ((refuseIf_clear _ _ _ _ ?_).trans (if_neg hne).symm))
    simp only [List.forall_mem_cons]
    exact ⟨by simp [hok], hfixed, hseen, List.forall_mem_nil _⟩

/-! ### The state machine (R328, R335 to R337, R342, R343) -/

theorem completes_belayArm : Rows.belayArm.Completes := by
  rintro h p s ⟨ht, hr, rfl, hstate⟩
  refine serve_row ht hr rfl rfl ?_
  rcases hstate with harmed | ⟨hphase, hfails⟩
  · have harmed' : (entered 0x83 h s).bly.phase = .armed := harmed
    exact (if_pos (beq_iff_eq.2 harmed')).trans (by simp only [if_pos harmed'])
  · have hunarmed : (entered 0x83 h s).bly.phase ≠ .armed := by simp [hphase]
    refine (if_neg (by simpa using hunarmed)).trans ((refuseIf_clear _ _ _ _ ?_).trans (by simp only [if_neg hunarmed]))
    have hready : (s.bly.phase != .disarmed || armFails s != 0) = false := by simp [hphase, hfails]
    exact List.forall_mem_cons.2 ⟨hready, List.forall_mem_nil _⟩

theorem completes_belayDisarm : Rows.belayDisarm.Completes := by
  rintro h p s ⟨ht, hr, rfl, hphase⟩
  refine serve_row ht hr rfl rfl (refuseIf_clear _ _ _ _ ?_)
  rcases hphase with h | h | h <;> simp [h]

theorem completes_belayTrip : Rows.belayTrip.Completes := by
  rintro h p s ⟨ht, hr, hl, hz, hop⟩
  exact serve_row ht hr (by simp [hl]) (by simp [hz, Nat.div_eq_of_lt hop]) rfl

theorem completes_belayAbortHold : Rows.belayAbortHold.Completes := by
  rintro h p s ⟨ht, hr, rfl, hphase⟩
  exact serve_row ht hr rfl rfl (if_neg (by simp [hphase]))

/-- A command in the form of BELAY_REARM comes to its body. -/
theorem serve_rearmForm {h : Hdr} {p : Bytes} {body : State → State} {s t : State} (ht : Taken h s)
    (hr : Rights.site.allow h s = true) (hl : p.length = 4) (hz : fld p 1 3 = 0) (hb : body (entered 0x87 h s) = t) :
    (Host.Outcome.next (serve rearmForm h p body s) : Host.Outcome State Fault Refusal) = .next t :=
  serve_row ht hr (by simp [rearmForm, hl]) (by simp [rearmForm, zeros, hz]) hb

theorem completes_belayRearm : Rows.belayRearm.Completes := by
  rintro h p s ⟨ht, hr, hl, hz, hphase, hfails⟩
  exact serve_rearmForm ht hr hl hz
    ((if_neg (by simp [hphase])).trans (if_neg (ne_true_of_eq_false (bne_eq_false_iff_eq.2 hfails))))

theorem completes_belayDeclareStop : Rows.belayDeclareStop.Completes := by
  rintro h p s ⟨ht, hr, hl, hz, hphase, hnoDecel⟩
  refine serve_rearmForm ht hr hl hz (refuseIf_clear _ _ _ _ ?_)
  rcases hphase with h | h <;> simp [h, hnoDecel]

theorem completes_belayStatus : Rows.belayStatus.Completes := by
  rintro h p s ⟨ht, hr, rfl⟩
  exact serve_row ht hr rfl rfl rfl

/-! ### ALARM_SET (R333) -/

/-- An ALARM_SET of an accepted value completes as its row says. -/
theorem completes_alarmRow {command : Hdr → Bytes → Instr} {limit : Nat} {ok : Nat → Bool} {f : Nat → BelayBlock → BelayBlock}
    (hexec : ∀ h p s, exec (command h p) s = .next (alarmSet ok f h p s)) (hok : ∀ v < limit, ok v = true) :
    (Rows.alarmRow command limit f).Completes := by
  rintro h p s ⟨ht, hr, hl, hz, hv⟩
  exact (hexec h p s).trans (serve_row ht hr (by simp [hl]) (by simp [zeros, hz]) (refuseIf_clear _ _ _ _ (by simp [hok _ hv])))

theorem completes_alarmSetMask : Rows.alarmSetMask.Completes := completes_alarmRow (fun _ _ _ => rfl) (by simp)
theorem completes_alarmSetHost : Rows.alarmSetHost.Completes := completes_alarmRow (fun _ _ _ => rfl) (by simp)
theorem completes_alarmClearHost : Rows.alarmClearHost.Completes := completes_alarmRow (fun _ _ _ => rfl) (by simp)
theorem completes_alarmAcknowledge : Rows.alarmAcknowledge.Completes := completes_alarmRow (fun _ _ _ => rfl) (by simp)

/-- Settles O15: row by row. -/
theorem belayCommandsComplete : Obligations.BelayCommandsComplete := by
  simp only [Obligations.BelayCommandsComplete, Rows.belayRows, List.forall_mem_cons]
  exact ⟨completes_houtMap, completes_houtGet, completes_belayConfig, completes_belayArm, completes_belayDisarm, completes_belayTrip,
    completes_belayAbortHold, completes_belayRearm, completes_belayDeclareStop, completes_belayStatus, completes_alarmSetMask,
    completes_alarmSetHost, completes_alarmClearHost, completes_alarmAcknowledge, List.forall_mem_nil _⟩

end Sys2Proof.Machine

/-! PROOFS. Motion in STOPPED, and a declared stop (R341, R343). -/

namespace Sys2Proof.Machine

/-! ### What the controller's look leaves of a stopped Belay -/

/-- What a stopped Belay keeps while the controller only looks: its phase, the latched causes and the record. -/
def stopView (s : State) : BelayPhase × BitVec 16 × CairnState := (s.bly.phase, s.bly.latched, s.cairn)

/-- A state that keeps Belay and the record has the same view. -/
theorem stopView_of_beyond {P : List Part} {s t : State} (hbly : .bly ∉ P) (hcairn : .cairn ∉ P) (h : t.beyond P = s.beyond P) :
    stopView t = stopView s := by
  have hb : (t.beyond P).bly = (s.beyond P).bly := congrArg State.bly h
  have hc : (t.beyond P).cairn = (s.beyond P).cairn := congrArg State.cairn h
  simp only [State.beyond, if_neg hbly, if_neg hcairn] at hb hc
  simp only [stopView, hb, hc]

theorem stopped_of_view {s t : State} (h : stopView t = stopView s) (hs : s.bly.phase = .stopped) : t.bly.phase = .stopped :=
  (congrArg Prod.fst h).trans hs

theorem stopView_raise (code : Byte) (high : Bool) (body : Bytes) (s : State) : stopView (raise code high body s) = stopView s :=
  stopView_of_beyond (P := []) (List.not_mem_nil) (List.not_mem_nil) (beyond_raise s code high body)

theorem stopView_doneWith (h : Hdr) (payload : Bytes) (s : State) : stopView (doneWith h payload s) = stopView s :=
  stopView_of_beyond (P := []) (List.not_mem_nil) (List.not_mem_nil) (beyond_doneWith h s payload)

theorem stopView_noteFreezes (s : State) : stopView (noteFreezes s) = stopView s :=
  stopView_of_beyond (P := [.lrn]) (by decide) (by decide) (beyond_noteFreezes s (List.Subset.refl _))

theorem stopView_showBelay (s : State) : stopView (showBelay s) = stopView s := by
  unfold showBelay
  split
  · rfl
  · dsimp only
    split
    all_goals
      split
      · rfl
      · exact (stopView_raise ..).trans rfl

theorem checkRearm_stopped {s : State} (hs : s.bly.phase = .stopped) : checkRearm s = s := if_neg (by rw [hs]; exact Bool.false_ne_true)

theorem stopView_lookAsset (i : Nat) {s : State} (hs : s.bly.phase = .stopped) : stopView (lookAsset i s) = stopView s := by
  simp only [lookAsset]
  split
  · split <;> rfl
  · rw [if_neg (by split <;> simp [onAsset, hs]), assetEvent, stopView_raise]
    split <;> rfl

theorem stopView_lookAssets (l : List Nat) {s : State} (hs : s.bly.phase = .stopped) :
    stopView (l.foldl (fun s i => lookAsset i s) s) = stopView s := by
  induction l generalizing s with
  | nil => rfl
  | cons i l ih =>
    have hi : stopView (lookAsset i s) = stopView s := stopView_lookAsset i hs
    exact (ih (stopped_of_view hi hs)).trans hi

theorem stopView_lookBelay {s : State} (hs : s.bly.phase = .stopped) : stopView (lookBelay s) = stopView s := by
  let noted : State := { s with bly := { s.bly with deviceFault := deviceFault s } }
  have hassets := stopView_lookAssets (List.range 8) (s := noted) hs
  have hphase : ((List.range 8).foldl (fun s i => lookAsset i s) noted).bly.phase = .stopped := stopped_of_view hassets hs
  unfold lookBelay
  split
  · rfl
  · dsimp only
    rw [if_neg (by simp [hs]), checkRearm_stopped hphase, stopView_showBelay]
    exact hassets

/-- Settles O42: the dwell's end is its row, and the look after it leaves Belay stopped and MOTION latched. -/
theorem beltMoves : Obligations.BeltMoves := by
  intro s hphase hdwell htach hruns
  let moving : State := { s with bly := { s.bly with dwell := false, slow := false, latched := s.bly.latched ||| 0x0100#16 } }
  let raised : State := raise 0x83 true (le 4 (coastSpeed s)) moving
  have hraised : stopView raised = stopView moving := stopView_raise ..
  have hstopped : raised.bly.phase = .stopped := stopped_of_view hraised hphase
  have hview : stopView (lookBelay raised) = stopView moving := (stopView_lookBelay hstopped).trans hraised
  have hend : (lookBelay raised).bly.phase = .stopped := stopped_of_view hview hphase
  have hlatched : (lookBelay raised).bly.latched = s.bly.latched ||| 0x0100#16 := congrArg (·.2.1) hview
  refine ⟨completes_motionDwellEnd s ⟨hphase, hdwell, htach, hruns⟩, hend, ?_, ?_⟩
  · exact Bool.and_eq_false_iff.2 (.inr (by rw [hend]; rfl))
  · show (lookBelay raised).bly.latched.getLsbD 8 = true
    rw [hlatched]
    simp

/-! ### The Cairn entries of a stop (R335, R343) -/

/-- Awake and with room, entering COASTING or STOPPED enters an entry that tells the state and whether it was declared (Table 17-3). -/
theorem enterBelay_queue {p : BelayPhase} {declared : Bool} {s : State} (hp : p = .coasting ∨ p = .stopped)
    (hawake : s.pwr.retention = false) (hroom : s.cairn.queue.length < 32) :
    ∃ e : CairnEntry, (enterBelay p declared s).cairn.queue = s.cairn.queue ++ [e] ∧ e.type = 0x8001
      ∧ e.payload.getD 0 0 = p.code ∧ e.payload.getD 3 0 = BitVec.ofNat 8 (b2n declared)
      ∧ (enterBelay p declared s).pwr.retention = false := by
  have hentered : ∃ src body e, enterBelay p declared s = cairn 0x8001 src e body ∧ body.pwr.retention = s.pwr.retention
      ∧ body.cairn = s.cairn ∧ e.getD 0 0 = p.code ∧ e.getD 3 0 = BitVec.ofNat 8 (b2n declared) := by
    rcases hp with rfl | rfl <;> exact ⟨_, _, _, rfl, rfl, rfl, rfl, rfl⟩
  obtain ⟨src, t, body, hent, hret, hcairn, hcode, hdecl⟩ := hentered
  let e : CairnEntry := { type := 0x8001, source := src, time := now t, bootCount := bootOf t, payload := body }
  have hput : cairnPut e t = onCairn (fun c => { c with queue := c.queue ++ [e] }) t :=
    cairnPut_of_room (hret.trans hawake) (by rw [hcairn]; exact hroom)
  rw [hent]
  refine ⟨e, ?_, rfl, hcode, hdecl, ?_⟩
  · show (cairnPut e t).cairn.queue = _
    rw [hput, ← hcairn]
    rfl
  · show (cairnPut e t).pwr.retention = _
    rw [hput]
    exact hret.trans hawake

/-- COASTING is entered awake, with room: the record's queue is longer by one. -/
theorem enterCoasting_queue {s : State} (hawake : s.pwr.retention = false) (hroom : s.cairn.queue.length < 32) :
    (enterCoasting s).pwr.retention = false ∧ (enterCoasting s).cairn.queue.length = s.cairn.queue.length + 1 := by
  obtain ⟨e, hqueue, -, -, -, hret⟩ := enterBelay_queue (declared := false) (.inl rfl) hawake hroom
  refine ⟨hret, ?_⟩
  show (enterBelay .coasting false s).cairn.queue.length = _
  rw [hqueue, List.length_append, List.length_singleton]

/-- The state in which a declared stop leaves Belay before the controller looks. -/
def stopDeclared (s : State) : State := enterStopped true (if s.bly.phase == .tripped then enterCoasting s else s)

theorem stopDeclared_phase (s : State) : (stopDeclared s).bly.phase = .stopped := phase_enterBelay ..

/-- The entry of a declared stop says so. -/
theorem stopDeclared_entry {s : State} (hawake : s.pwr.retention = false) (hroom : s.cairn.queue.length < 30) :
    ∃ e ∈ (stopDeclared s).cairn.queue, e.type = 0x8001 ∧ e.payload.getD 0 0 = 0x05 ∧ e.payload.getD 3 0 = 1 := by
  let before : State := if s.bly.phase == .tripped then enterCoasting s else s
  have hbefore : before.pwr.retention = false ∧ before.cairn.queue.length < 32 := by
    dsimp only [before]
    split
    · obtain ⟨hret, hlength⟩ := enterCoasting_queue hawake (show s.cairn.queue.length < 32 by omega)
      exact ⟨hret, by omega⟩
    · exact ⟨hawake, by omega⟩
  obtain ⟨e, hqueue, htype, hcode, hdecl, -⟩ := enterBelay_queue (p := .stopped) (declared := true)
    (s := { before with bly := { before.bly with coasting := none } }) (.inr rfl) hbefore.1 hbefore.2
  have hmem : e ∈ (stopDeclared s).cairn.queue := by
    show e ∈ (enterBelay .stopped true { before with bly := { before.bly with coasting := none } }).cairn.queue
    rw [hqueue]
    exact List.mem_append_right _ (List.mem_singleton_self e)
  exact ⟨e, hmem, htype, hcode, hdecl⟩

/-- Settles O43: where the row's premises hold its effect shows the stop and its entry; elsewhere the body refuses. -/
theorem declaredStop : Obligations.DeclaredStop := by
  intro h p s ht hr hl hz
  constructor
  · rintro ⟨hphase, hnoDecel⟩
    let u := stopDeclared (entered 0x87 h s)
    have hu : u.bly.phase = .stopped := stopDeclared_phase _
    have hnoted : stopView (noteFreezes u) = stopView u := stopView_noteFreezes u
    have hview : stopView (doneWith h [] (lookBelay (noteFreezes u))) = stopView u :=
      (stopView_doneWith ..).trans ((stopView_lookBelay (stopped_of_view hnoted hu)).trans hnoted)
    refine ⟨_, completes_belayDeclareStop h p s ⟨ht, hr, hl, hz, hphase, hnoDecel⟩, stopped_of_view hview hu, fun hawake hroom => ?_⟩
    obtain ⟨e, he, hentry⟩ := stopDeclared_entry (s := entered 0x87 h s) hawake hroom
    have hcairn : (doneWith h [] (lookBelay (noteFreezes u))).cairn = u.cairn := congrArg (·.2.2) hview
    exact ⟨e, (congrArg (e ∈ ·.queue) hcairn).mpr he, hentry⟩
  · intro hnot
    exact serve_rearmForm ht hr hl hz (refuseIf_of_head (by simpa [or_iff_not_imp_left] using hnot))

end Sys2Proof.Machine

/-! PROOFS. The commands of the Rope complete (chapter 15: R346, R348 to R350, R352, R363, R367). -/

namespace Sys2Proof.Machine

/-- A command of the Rope, taken up by a chip strapped for a Ridge, comes to its body. -/
theorem ropeServe_row {f : Form} {h : Hdr} {p : Bytes} {body : State → State} {s t : State} (ht : Taken h s)
    (hr : (f.rights (entered f.opcode h s) p).allow h s = true) (hl : (f.length p.length && f.shape p) = true)
    (hz : f.reserved p = true) (hridge : isRidge s = true) (hb : body (entered f.opcode h s) = t) :
    (Host.Outcome.next (ropeServe f h p body s) : Host.Outcome State Fault Refusal) = .next t :=
  serve_row ht hr hl hz ((refuseIf_clear _ _ _ _ (by simp [hridge])).trans hb)

theorem completes_ropeStatus : Rows.ropeStatus.Completes := by
  rintro h p s ⟨ht, hr, rfl, hridge⟩
  exact ropeServe_row ht hr rfl rfl hridge rfl

theorem completes_ropeEnumerate : Rows.ropeEnumerate.Completes := by
  rintro h p s ⟨ht, hr, rfl, hridge, hhead, hattached, hclock, htag⟩
  refine ropeServe_row ht hr rfl rfl hridge (refuseIf_clear _ _ _ _ ?_)
  simp only [List.forall_mem_cons]
  exact ⟨show (!isHead s) = false by simp [hhead], hattached, hclock, Option.isSome_eq_false_iff.2 (Option.isNone_iff_eq_none.2 htag), List.forall_mem_nil _⟩

/-- The reserved bytes of ROPE_DETACH and ROPE_COUNTERS. -/
theorem flagByte_reserved {p : Bytes} (hflag : fld p 0 1 < 2) (hz : fld p 1 3 = 0) : (fld p 0 1 / 2 == 0 && fld p 1 3 == 0) = true := by
  simp [Nat.div_eq_of_lt hflag, hz]

theorem completes_ropeDetach : Rows.ropeDetach.Completes := by
  rintro h p s ⟨ht, hr, hl, hflag, hz, hridge, hrests⟩
  have hfree : (!bit (fld p 0 1) 0 && ridgeRuns s) = false := by
    rcases hrests with hforce | hidle
    · simp [hforce, bit]
    · simp [hidle]
  exact ropeServe_row ht hr (by simp [hl]) (flagByte_reserved hflag hz) hridge
    (refuseIf_clear _ _ _ _ (List.forall_mem_cons.2 ⟨hfree, List.forall_mem_nil _⟩))

theorem completes_ropeAttach : Rows.ropeAttach.Completes := by
  rintro h p s ⟨ht, hr, rfl, hridge, hfree⟩
  refine ropeServe_row ht hr rfl rfl hridge ?_
  cases hdetached : (entered 0x93 h s).rope.detached
  · simp only [hdetached, Bool.not_false, if_true, Bool.false_eq_true, if_false]
  · obtain ⟨htag, hclock⟩ := hfree hdetached
    simp only [hdetached, Bool.not_true, if_true, Bool.false_eq_true, if_false]
    refine refuseIf_clear _ _ _ _ ?_
    simp only [List.forall_mem_cons]
    exact ⟨Option.isSome_eq_false_iff.2 (Option.isNone_iff_eq_none.2 htag), hclock, List.forall_mem_nil _⟩

theorem completes_ropeRelay : Rows.ropeRelay.Completes := by
  rintro h p s ⟨ht, hr, hlo, hhi, hz, hridge, hdst, hother, hreach⟩
  refine ropeServe_row ht hr (by simp [hlo, hhi]) (by simp [zeros, hz]) hridge ?_
  have hparam : ¬ (decide (63 < fld p 0 1) || fld p 0 1 == s.rope.index) = true := by simp [hdst, hother]
  have hreached : ¬ (!reachable s (fld p 0 1)) = true := by simp [hreach]
  exact (if_neg hparam).trans (if_neg hreached)

theorem completes_ropeTopologyGet : Rows.ropeTopologyGet.Completes := by
  rintro h p s ⟨ht, hr, rfl, hridge⟩
  refine ropeServe_row ht hr rfl rfl hridge ?_
  simp only [beq_iff_eq, apply_ite (doneWith h · (entered 0x95 h s))]

theorem completes_ropeRetrain : Rows.ropeRetrain.Completes := by
  rintro h p s ⟨ht, hr, hl, hz, hridge, hport, hlanes, htraining, htag, hoff, hasleep⟩
  refine ropeServe_row ht hr (by simp [hl]) (by simp [zeros, hz]) hridge ((refuseIf_clear _ _ _ _ ?_).trans ?_)
  · simp [hport, hlanes, htraining, htag, hoff, hasleep]
  · simp only [beq_iff_eq]

theorem completes_ropeCounters : Rows.ropeCounters.Completes := by
  rintro h p s ⟨ht, hr, hl, hflag, hz, hridge⟩
  exact ropeServe_row ht hr (by simp [hl]) (flagByte_reserved hflag hz) hridge rfl

theorem completes_ropeCountersClear : Rows.ropeCountersClear.Completes := by
  rintro h p s ⟨ht, hr, hl, hflag, hz, hridge⟩
  exact ropeServe_row ht hr (by simp [hl]) (flagByte_reserved hflag hz) hridge rfl

/-- Settles O16: row by row. -/
theorem ropeCommandsComplete : Obligations.RopeCommandsComplete := by
  simp only [Obligations.RopeCommandsComplete, Rows.ropeRows, List.forall_mem_cons]
  exact ⟨completes_ropeStatus, completes_ropeEnumerate, completes_ropeDetach, completes_ropeAttach, completes_ropeRelay,
    completes_ropeTopologyGet, completes_ropeRetrain, completes_ropeCounters, completes_ropeCountersClear, List.forall_mem_nil _⟩

end Sys2Proof.Machine

/-! PROOFS. The bytes of a frame on the lanes of a Rope port (R347). -/

namespace Sys2Proof.Machine

/-- A lane's share of numbered bytes that two lanes carry: those whose number is even, or those whose number is odd. -/
def laneShare (c n : Nat) (b : Bytes) : Bytes := ((b.zipIdx n).filter fun x => x.2 % 2 == c).map Prod.fst

theorem laneShare_cons (c n : Nat) (x : Byte) (b : Bytes) :
    laneShare c n (x :: b) = if n % 2 = c then x :: laneShare c (n + 1) b else laneShare c (n + 1) b := by
  unfold laneShare
  rw [List.zipIdx_cons, List.filter_cons]
  by_cases h : n % 2 = c <;> simp [h]

/-- The share's bytes stand in their order, two apart among the bytes. -/
theorem laneShare_getElem? {c : Nat} (hc : c < 2) (n j : Nat) (b : Bytes) : (laneShare c n b)[j]? = b[2 * j + (c + n) % 2]? := by
  induction b generalizing n j with
  | nil => rfl
  | cons x b ih =>
    rw [laneShare_cons]
    by_cases hn : n % 2 = c
    · rw [if_pos hn, show (c + n) % 2 = 0 by omega]
      cases j with
      | zero => rfl
      | succ j =>
        have hnext : (c + (n + 1)) % 2 = 1 := by omega
        rw [List.getElem?_cons_succ, ih, hnext]
        exact List.getElem?_cons_succ.symm
    · have hnext : (c + (n + 1)) % 2 = 0 := by omega
      rw [if_neg hn, ih, hnext, show (c + n) % 2 = 1 by omega]
      exact List.getElem?_cons_succ.symm

/-- Two lanes in use have a share each. -/
theorem onLanes_both (b : Bytes) : onLanes 3 b = #v[laneShare 0 0 b, laneShare 1 0 b] := rfl

/-- Settles O59: of two lanes each has its share, and one lane has all. -/
theorem lanesCarryFrames : Obligations.LanesCarryFrames := by
  intro x f lseq
  have hlane : (x.put f lseq).lane = onLanes x.sends (f.bytes lseq) := rfl
  refine ⟨fun h k => ?_, fun h => by rw [hlane, h]; rfl, fun h => by rw [hlane, h]; rfl⟩
  rw [hlane, h, onLanes_both]
  rcases Nat.mod_two_eq_zero_or_one k with hk | hk <;> rw [hk]
  · refine (laneShare_getElem? (by decide) 0 (k / 2) (f.bytes lseq)).trans (congrArg _ ?_)
    omega
  · refine (laneShare_getElem? (by decide) 0 (k / 2) (f.bytes lseq)).trans (congrArg _ ?_)
    omega

end Sys2Proof.Machine

/-! PROOFS. The Rope's frames, arriving in step, complete (chapter 15: R346, R350, R352 to R360, R362 to R372). -/

namespace Sys2Proof.Machine

/-! ### Frames in step (R358 to R360) -/

/-- A frame in step is received as `Rows.heard` says. -/
theorem receive_of_inStep {r : RopeRx} {s : State} (hin : Rows.InStep r s) (f : RopeFrame) (act : State → State) :
    receive r f act s = Rows.heard r f act s := by
  obtain ⟨hup, hgood, hseq⟩ := hin
  have hin' : ¬ (!(s.port r.port.toNat).isUp) = true ∧ ¬ (!r.good) = true ∧ ¬ (r.lseq != (s.port r.port.toNat).rxSeq) = true := by
    simp [hup, hgood, hseq]
  obtain ⟨hup', hgood', hseq'⟩ := hin'
  exact (if_neg hup').trans ((if_neg hgood').trans (if_neg hseq'))

/-- An event that is a frame's arrival completes as its frame is heard. -/
theorem next_receive {r : RopeRx} {s : State} (hin : Rows.InStep r s) (f : RopeFrame) (act : State → State) :
    (Host.Outcome.next (receive r f act s) : Answer) = .next (Rows.heard r f act s) := congrArg _ (receive_of_inStep hin f act)

/-! ### Enumeration and topology (R352 to R356, R369, R372) -/

theorem completes_enum (r : RopeRx) (index : Nat) (headId : Word64) (ids : List Word64) : (Rows.enum r index headId ids).Completes := by
  intro s hin
  show execEnum r index headId ids s = _
  rw [execEnum, receive_of_inStep hin]
  simp only [beq_iff_eq, bne_iff_ne]

theorem completes_enumEnd (r : RopeRx) (count : Nat) (ids : List Word64) : (Rows.enumEnd r count ids).Completes :=
  fun _ hin => next_receive hin _ _

theorem completes_topology (r : RopeRx) (gen : Byte) (kind : Topo) (count : Nat) (lost : Word64) (ids : List Word64) :
    (Rows.topology r gen kind count lost ids).Completes := by
  intro s hin
  show execTopology r gen kind count lost ids s = _
  rw [execTopology, receive_of_inStep hin]
  simp only [beq_iff_eq]

theorem completes_headConflict (r : RopeRx) : (Rows.headConflict r).Completes := by
  intro s hin
  show execHeadConflict r s = _
  rw [execHeadConflict, receive_of_inStep (r := { r with dst := if isHead s then r.dst else 0 }) hin]
  simp only [Bool.not_eq_true', ← Bool.not_eq_true, ite_not]

theorem completes_heartbeat (r : RopeRx) (gen : Byte) : (Rows.heartbeat r gen).Completes := fun _ hin => next_receive hin _ _

theorem completes_linkLostHeard (r : RopeRx) (port : BitVec 1) (chip : Byte) : (Rows.linkLostHeard r port chip).Completes :=
  fun _ hin => next_receive hin _ _

theorem completes_join (r : RopeRx) (port : BitVec 1) : (Rows.join r port).Completes := fun _ hin => next_receive hin _ _

theorem completes_sleep (r : RopeRx) : (Rows.sleep r).Completes := fun _ hin => next_receive hin _ _

theorem completes_detach (r : RopeRx) : (Rows.detach r).Completes := fun _ hin => next_receive hin _ _

/-! ### Circulation (R364, R365, R370, R371) -/

theorem completes_round (r : RopeRx) (slot : BitVec 3) (number : Word32) : (Rows.round r slot number).Completes := by
  intro s hin
  show execRound r slot number s = _
  rw [execRound, receive_of_inStep hin]
  simp only [Bool.and_eq_true, beq_iff_eq]

theorem completes_roundDone (r : RopeRx) (slot : BitVec 3) (number : Word32) (waiting : BitVec 16) :
    (Rows.roundDone r slot number waiting).Completes := fun _ hin => next_receive hin _ _

theorem completes_roundAbort (r : RopeRx) (slot : BitVec 3) : (Rows.roundAbort r slot).Completes :=
  fun _ hin => next_receive hin _ _

theorem completes_retire (r : RopeRx) (slot : BitVec 3) (bytes : Word32) : (Rows.retire r slot bytes).Completes :=
  fun _ hin => next_receive hin _ _

/-- A piece of a shard is applied where it is authentic and of this round. -/
theorem takeShard_eq (m : Nat) (layer shard roundLow : Byte) (offset : Nat) (data gcmTag : Bytes) (f : RopeFrame) (s : State) :
    takeShard m layer shard roundLow offset data gcmTag f s =
      let c := (rd s.rope.models m).circ
      let plain := gcmOpen (streamKey s m c.round) ([shard, layer, 6, 0] ++ le 4 offset ++ [0, 0, 0, 0])
        (frameAad f (20 + data.length)) data gcmTag
      if plain.isSome && c.round.toNat % 256 == roundLow.toNat then Rows.applyShard m layer shard data.length s else s := rfl

theorem completes_wstream (r : RopeRx) (slot : BitVec 3) (layer shard roundLow : Byte) (offset : Nat) (data gcmTag : Bytes) :
    (Rows.wstream r slot layer shard roundLow offset data gcmTag).Completes := by
  intro s hin
  show execWstream r slot layer shard roundLow offset data gcmTag s = _
  rw [execWstream, receive_of_inStep (r := { r with dst := 0xFE }) hin]
  simp only [takeShard_eq]
  rfl

/-! ### Activations between Pitches (R362, R386, R387) -/

theorem completes_landGrant (r : RopeRx) (slot : BitVec 3) (layer : Byte) (frames : BitVec 16) :
    (Rows.landGrant r slot layer frames).Completes := fun _ hin => next_receive hin _ _

/-- A model turns an ACT away that does not run in Pitches, or neither runs nor is PLACED. -/
theorem takesActs_iff {x : Model} : (!(x.phase.runs || x.phase == .placed) || x.placement.mode != 4) = true
    ↔ ¬ ((x.phase = .running ∨ x.phase = .pitch ∨ x.phase = .placed) ∧ x.placement.mode = 4) := by
  simp only [ModelPhase.runs, Bool.or_eq_true, Bool.not_eq_true', bne_iff_ne, Bool.or_eq_false_iff, beq_eq_false_iff_ne]
  tauto

theorem completes_act (r : RopeRx) (slot : BitVec 3) (layer : Byte) (ref : BitVec 16) (offset : Nat) (data gcmTag : Bytes) :
    (Rows.act r slot layer ref offset data gcmTag).Completes := by
  intro s hin
  show execAct r slot layer ref offset data gcmTag s = _
  rw [execAct, receive_of_inStep hin]
  simp only [takesActs_iff, ite_not]
  rfl

/-! ### Relays and remote reads (R367, R413) -/

theorem completes_cmd (r : RopeRx) (relay : BitVec 16) (reply more : Bool) (payload : Bytes) : (Rows.cmd r relay reply more payload).Completes := by
  intro s hin
  show execCmd r relay reply more payload s = _
  rw [execCmd, receive_of_inStep hin]
  cases reply <;> rfl

theorem completes_cairnFrame (r : RopeRx) (relay : BitVec 16) (reply more : Bool) (payload : Bytes) :
    (Rows.cairnFrame r relay reply more payload).Completes := by
  intro s hin
  show execCairn r relay reply more payload s = _
  rw [execCairn, receive_of_inStep hin]
  simp only [beq_iff_eq]

/-! ### Acknowledgement and credit (R358, R359) -/

theorem completes_credit (port : BitVec 1) (ack : BitVec 12) (nak : Bool) (credits : Vector (BitVec 16) 4) :
    (Rows.credit port ack nak credits).Completes := by
  intro s (hup : (s.port port.toNat).isUp = true)
  exact if_neg (by simp [hup])

theorem completes_creditBad (port : BitVec 1) (ack : BitVec 12) (nak : Bool) (credits : Vector (BitVec 16) 4) :
    (Rows.creditBad port ack nak credits).Completes := by
  intro s (hup : (s.port port.toNat).isUp = true)
  exact if_neg (by simp [hup])

theorem completes_ackTimer (port : BitVec 1) : (Rows.ackTimer port).Completes := by
  rintro s ⟨hup, howes⟩
  refine if_neg ?_
  rcases howes with h | h <;> simp [hup, h]

/-- Settles O34: row by row. -/
theorem ropeFramesComplete : Obligations.RopeFramesComplete :=
  ⟨completes_enum, completes_enumEnd, completes_topology, completes_headConflict, completes_heartbeat, completes_linkLostHeard,
    completes_join, completes_sleep, completes_detach, completes_round, completes_roundDone, completes_roundAbort, completes_retire,
    completes_landGrant, completes_act, completes_wstream, completes_cmd, completes_cairnFrame, completes_credit, completes_creditBad,
    completes_ackTimer⟩

end Sys2Proof.Machine

/-! PROOFS. The events of a Rope port and of a chip's own accord complete (chapter 15: R348 to R350, R352, R354, R356, R359, R364, R368). -/

namespace Sys2Proof.Machine

/-! ### Training and loss (R348 to R350) -/

theorem completes_train (r : RopeRx) (deviceId : Word64) (bootCount : Word32) (index : Byte) (lanes : BitVec 2)
    (credits : Vector (BitVec 16) 4) : (Rows.train r deviceId bootCount index lanes credits).Completes := by
  rintro s ⟨hphase, hgood⟩
  show execTrain r deviceId bootCount index lanes credits s = _
  have hheard : ((s.port r.port.toNat).phase == .off || !r.good) = false := by simp [hphase, hgood]
  simp only [execTrain, hheard, Bool.false_eq_true, if_false, beq_iff_eq]

theorem completes_trainAck (r : RopeRx) (lanes : BitVec 2) : (Rows.trainAck r lanes).Completes := by
  rintro s ⟨hphase, hgood⟩
  exact if_neg (by simp [hphase, hgood])

/-- The attempts of a training, in the words of its timeout. -/
theorem lastAttempt_eq (x : RopePort) :
    (if x.allowed == 3 || 4 ≤ x.attempt then 5 else 3) = Rows.lastAttempt x := by
  simp [Rows.lastAttempt]

theorem completes_trainingNextAttempt (port : BitVec 1) : (Rows.trainingNextAttempt port).Completes := by
  rintro s ⟨hphase, hleft⟩
  show execTrainingAttemptTimeout port s = _
  simp only [execTrainingAttemptTimeout, hphase, lastAttempt_eq, hleft, bne_self_eq_false, Bool.false_eq_true, if_false, if_true, beq_iff_eq]

theorem completes_trainingFails (port : BitVec 1) : (Rows.trainingFails port).Completes := by
  rintro s ⟨hphase, hlast⟩
  show execTrainingAttemptTimeout port s = _
  simp only [execTrainingAttemptTimeout, hphase, lastAttempt_eq, Nat.not_lt.2 hlast, bne_self_eq_false, Bool.false_eq_true, if_false,
    ← apply_ite Host.Outcome.next]

theorem completes_codeGroupSyncAcquired (port lane : BitVec 1) : (Rows.codeGroupSyncAcquired port lane).Completes := by
  intro s hphase
  show execCodeGroupSyncAcquired port lane s = _
  have hpowered : ((s.port port.toNat).phase == .off) = false := beq_eq_false_iff_ne.2 hphase
  simp only [execCodeGroupSyncAcquired, hpowered, Bool.false_eq_true, if_false, bne_iff_ne]
  cases (s.port port.toNat).phase <;> rfl

theorem completes_laneSyncLoss (port lane : BitVec 1) : (Rows.laneSyncLoss port lane).Completes := by
  rintro s ⟨hup, hlane⟩
  exact if_neg (by simp [hup, hlane])

theorem completes_squelchSilence (port : BitVec 1) : (Rows.squelchSilence port).Completes := by
  rintro s ⟨hsilent, hwas⟩
  have hlost : ((s.port port.toNat).synced != 0
      || !((if (s.port port.toNat).phase == .training then (s.port port.toNat).from' else (s.port port.toNat).phase) == .up
        || (if (s.port port.toNat).phase == .training then (s.port port.toNat).from' else (s.port port.toNat).phase) == .upOne)) = false := by
    rcases hwas with h | h | ⟨h, h' | h'⟩ <;> simp [*]
  exact (if_neg (ne_true_of_eq_false hlost)).trans (by simp only [beq_iff_eq])

theorem completes_wakeBurstTimeout (port : BitVec 1) : (Rows.wakeBurstTimeout port).Completes := by
  rintro s ⟨hburst, hdown⟩
  exact if_neg (by simp [hburst, hdown])

/-! ### Of a chip's own accord (R352, R354, R356, R364) -/

theorem completes_enumStart : Rows.enumStart.Completes := by
  rintro s ⟨htopo, hidle⟩
  exact if_neg (by simp [htopo, hidle])

theorem completes_noEnumTimeout : Rows.noEnumTimeout.Completes := by
  rintro s ⟨hrole, hup, hindex, hoffered, hraised⟩
  exact if_neg (by simp [hrole, hup, hindex, hoffered, hraised])

theorem completes_heartbeatSend : Rows.heartbeatSend.Completes := by
  rintro s ⟨hhead, hready, hon, htopo⟩
  exact if_neg (by simp [hhead, hready, hon, htopo])

theorem completes_heartbeatLoss : Rows.heartbeatLoss.Completes := by
  rintro s ⟨hrole, hindex⟩
  exact if_neg (by simp [hrole, hindex])

theorem completes_circulationRoundStart (slot : BitVec 3) : (Rows.circulationRoundStart slot).Completes := by
  rintro s ⟨hhead, hphase, hmode, hidle, htopo, hwaits⟩
  show execCirculationRoundStart slot s = _
  have hframes : (!(waitingFrames s slot.toNat).isEmpty
      || (rd s.rope.models slot.toNat).circ.waiting.any fun k => !s.rope.lostMask.getLsbD k) = true := by
    rcases hwaits with h | ⟨k, hk, hreach⟩
    · simp [h]
    · exact Bool.or_eq_true_iff.2 (.inr (List.any_eq_true.2 ⟨k, hk, by simp [hreach]⟩))
  have hruns : ((s.model slot.toNat).phase != .running && (s.model slot.toNat).phase != .placed) = false := by
    rcases hphase with h | h <;> simp [h]
  have hplaced : (s.rope.topo == .none) = false := beq_eq_false_iff_ne.2 htopo
  simp only [execCirculationRoundStart, hhead, hruns, hmode, hidle, hframes, hplaced, bne_self_eq_false, Bool.not_true, Bool.or_self,
    Bool.false_eq_true, if_false]

/-- Settles O33: row by row. -/
theorem linkEventsComplete : Obligations.LinkEventsComplete :=
  ⟨completes_train, completes_trainAck, completes_trainingNextAttempt, completes_trainingFails, completes_codeGroupSyncAcquired,
    completes_laneSyncLoss, completes_squelchSilence, completes_wakeBurstTimeout, completes_enumStart, completes_noEnumTimeout,
    completes_heartbeatSend, completes_heartbeatLoss, completes_circulationRoundStart⟩

end Sys2Proof.Machine

/-! PROOFS. The instructions of the TAP complete (chapter 16: R390 to R394, Table 16-6). -/

namespace Sys2Proof.Machine

/-- An instruction comes to its body where the TAP answers. -/
theorem tap_answers {s : State} {a b : Answer} (hup : tapUp s = true) : (if !tapUp s then a else b) = b := if_neg (by simp [hup])

theorem completes_tapReset : Rows.tapReset.Completes := fun _ hup => tap_answers hup

theorem completes_bypass (opcode : BitVec 5) (tdi : List Bool) : (Rows.bypass opcode tdi).Completes := by
  rintro s ⟨hup, hother⟩
  exact if_neg (by rw [hup, hother]; decide)

theorem completes_idcode (tdi : List Bool) : (Rows.idcode tdi).Completes := fun _ hup => tap_answers hup

theorem completes_samplePreload (pins tdi : List Bool) : (Rows.samplePreload pins tdi).Completes := fun _ hup => tap_answers hup

theorem completes_extest (pins tdi : List Bool) : (Rows.extest pins tdi).Completes := fun _ hup => tap_answers hup

theorem completes_highz (pins tdi : List Bool) : (Rows.highz pins tdi).Completes := fun _ hup =>
  (tap_answers hup).trans (apply_ite Host.Outcome.next _ _ _).symm

theorem completes_clamp (pins tdi : List Bool) : (Rows.clamp pins tdi).Completes := fun _ hup =>
  (tap_answers hup).trans (apply_ite Host.Outcome.next _ _ _).symm

theorem completes_dbgChal (tdi : List Bool) : (Rows.dbgChal tdi).Completes := by
  refine fun s hup => (tap_answers hup).trans ?_
  by_cases hserved : tspServed s = true ∧ s.own.trngFault = false
  · simp only [hserved, Bool.not_true, Bool.or_self, Bool.false_eq_true, if_false, and_self, if_true]
  · have hunserved : (!tspServed s || s.own.trngFault) = true := by
      rcases not_and_or.1 hserved with h | h <;> simp [h]
    simp only [hunserved, hserved, if_true, if_false]

theorem completes_dbgOpen (tdi : List Bool) : (Rows.dbgOpen tdi).Completes := by
  refine fun s hup => (tap_answers hup).trans ?_
  simp only [Bool.or_eq_true, bne_iff_ne, Bool.not_eq_true', Option.isSome_iff_ne_none, ← Bool.not_eq_true, ← not_and_or, ite_not,
    and_assoc, apply_ite Host.Outcome.next]

theorem completes_dbgAccess (tdi : List Bool) : (Rows.dbgAccess tdi).Completes := by
  rintro s ⟨hup, hclosed⟩
  exact (tap_answers hup).trans (if_neg (ne_true_of_eq_false hclosed))

/-- Settles O28: row by row. -/
theorem tapEventsComplete : Obligations.TapEventsComplete :=
  ⟨completes_tapReset, completes_bypass, completes_idcode, completes_samplePreload, completes_extest, completes_highz, completes_clamp,
    completes_dbgChal, completes_dbgOpen, completes_dbgAccess⟩

end Sys2Proof.Machine

/-! PROOFS. Every row answers a next state, but for DBG_ACCESS while debug is open (R390, R394). -/

namespace Sys2Proof.Machine

/-- The answer is a next state. -/
def Answers (a : Answer) : Prop := ∃ t, a = .next t

theorem answers_next {t : State} : Answers (.next t) := ⟨t, rfl⟩

theorem answers_ite {c : Prop} {d : Decidable c} {a b : Answer} (ha : Answers a) (hb : Answers b) : Answers (if c then a else b) := by
  split <;> assumption

/-- A next state either way. -/
theorem answers_either {c : Prop} {d : Decidable c} {t u : State} : Answers (if c then .next t else .next u) :=
  answers_ite answers_next answers_next

/-! ### Events whose meaning looks into a list or an option: each branch answers a next state -/

theorem answers_execFragmentTimeout (tag : Tag) (s : State) : Answers (execFragmentTimeout tag s) := by
  unfold execFragmentTimeout
  (repeat' split) <;> exact answers_next

theorem answers_execStreamStartInstant (s : State) : Answers (execStreamStartInstant s) := by
  unfold execStreamStartInstant
  (repeat' split) <;> exact answers_next

theorem answers_execWatchThresholdFire (channel : BitVec 5) (samples : List Int) (s : State) :
    Answers (execWatchThresholdFire channel samples s) := by
  unfold execWatchThresholdFire
  dsimp only
  (repeat' split) <;> exact answers_next

theorem answers_execWakeComplete (s : State) : Answers (execWakeComplete s) := by
  unfold execWakeComplete
  dsimp only
  (repeat' split) <;> exact answers_next

theorem answers_execAutoSleepDwellExpiry (s : State) : Answers (execAutoSleepDwellExpiry s) := by
  unfold execAutoSleepDwellExpiry
  dsimp only
  (repeat' split) <;> exact answers_next

theorem answers_execSleepEntryStart (s : State) : Answers (execSleepEntryStart s) := by
  unfold execSleepEntryStart
  (repeat' split) <;> exact answers_next

theorem answers_execSleepEntryComplete (us : Nat) (s : State) : Answers (execSleepEntryComplete us s) := by
  unfold execSleepEntryComplete
  dsimp only
  (repeat' split) <;> exact answers_next

theorem answers_execDomainSwitchDone (us va30 : Nat) (milli : Int) (s : State) : Answers (execDomainSwitchDone us va30 milli s) := by
  unfold execDomainSwitchDone
  dsimp only
  (repeat' split) <;> exact answers_next

theorem answers_execCalBurstComplete (channel : BitVec 5) (raws : List Int) (step lead drive sense : Nat) (s : State) :
    Answers (execCalBurstComplete channel raws step lead drive sense s) := by
  unfold execCalBurstComplete
  dsimp only
  (repeat' split) <;> exact answers_next

theorem answers_execFrameClose (stream : BitVec 7) (s : State) : Answers (execFrameClose stream s) := by
  unfold execFrameClose
  dsimp only
  (repeat' split) <;> exact answers_next

theorem answers_execSpiPoll (port : BitVec 2) (sensor : Nat) (reply : Bytes) (s : State) :
    Answers (execSpiPoll port sensor reply s) := by
  unfold execSpiPoll
  dsimp only
  (repeat' split) <;> exact answers_next

theorem answers_execPairPartnerTimeout (pair : BitVec 4) (s : State) : Answers (execPairPartnerTimeout pair s) := by
  unfold execPairPartnerTimeout
  dsimp only
  (repeat' split) <;> exact answers_next

theorem answers_execLeadMeasureDone (picovolts : Nat) (s : State) : Answers (execLeadMeasureDone picovolts s) := by
  unfold execLeadMeasureDone
  (repeat' split) <;> exact answers_next

theorem answers_execFeatureFrameTake (s : State) : Answers (execFeatureFrameTake s) := by
  unfold execFeatureFrameTake
  (repeat' split) <;> exact answers_next

theorem answers_execFeatureQueueRoute (s : State) : Answers (execFeatureQueueRoute s) := by
  unfold execFeatureQueueRoute
  dsimp only
  (repeat' split) <;> exact answers_next

theorem answers_execJobStart (s : State) : Answers (execJobStart s) := by
  unfold execJobStart
  (repeat' split) <;> exact answers_next

theorem answers_execCimPassDone (core : BitVec 3) (parityOk : Bool) (s : State) : Answers (execCimPassDone core parityOk s) := by
  unfold execCimPassDone
  dsimp only
  (repeat' split) <;> exact answers_next

theorem answers_execStreamLayerDone (s : State) : Answers (execStreamLayerDone s) := by
  unfold execStreamLayerDone
  (repeat' split) <;> exact answers_next

theorem answers_execVectorLayerDone (s : State) : Answers (execVectorLayerDone s) := by
  unfold execVectorLayerDone
  (repeat' split) <;> exact answers_next

theorem answers_execProtoForwardDone (s : State) : Answers (execProtoForwardDone s) := by
  unfold execProtoForwardDone
  (repeat' split) <;> exact answers_next

theorem answers_execAssetUpdate (s : State) : Answers (execAssetUpdate s) := by
  unfold execAssetUpdate
  (repeat' split) <;> exact answers_next

theorem answers_execLearningStep (head : BitVec 2) (s : State) : Answers (execLearningStep head s) := by
  unfold execLearningStep
  dsimp only
  (repeat' split) <;> exact answers_next

theorem answers_execRewardUpdate (head : BitVec 2) (s : State) : Answers (execRewardUpdate head s) := by
  unfold execRewardUpdate
  dsimp only
  (repeat' split) <;> exact answers_next

theorem answers_execHeadSaveCommit (head : BitVec 2) (s : State) : Answers (execHeadSaveCommit head s) := by
  unfold execHeadSaveCommit
  dsimp only
  (repeat' split) <;> exact answers_next

theorem answers_execConsolidationInForce (head : BitVec 2) (s : State) : Answers (execConsolidationInForce head s) := by
  unfold execConsolidationInForce
  dsimp only
  (repeat' split) <;> exact answers_next

theorem answers_execArrayWriteDone (array : BitVec 6) (stuck : List (BitVec 8)) (residual : Nat) (outside : Bool) (bad : Nat) (s : State) :
    Answers (execArrayWriteDone array stuck residual outside bad s) := by
  unfold execArrayWriteDone
  dsimp only
  (repeat' split) <;> exact answers_next

theorem answers_execClipWindowEnd (array : BitVec 6) (s : State) : Answers (execClipWindowEnd array s) := by
  unfold execClipWindowEnd
  dsimp only
  (repeat' split) <;> exact answers_next

theorem answers_execNvmOperationStart (s : State) : Answers (execNvmOperationStart s) := by
  unfold execNvmOperationStart
  dsimp only
  (repeat' split) <;> exact answers_next

theorem answers_execNvmEraseDone (ok : Bool) (us : Nat) (s : State) : Answers (execNvmEraseDone ok us s) := by
  unfold execNvmEraseDone
  (repeat' split) <;> exact answers_next

theorem answers_execCodeGroupSyncAcquired (port : BitVec 1) (lane : BitVec 1) (s : State) :
    Answers (execCodeGroupSyncAcquired port lane s) := by
  unfold execCodeGroupSyncAcquired
  dsimp only
  (repeat' split) <;> exact answers_next

theorem answers_execHeadLoadDone (head : BitVec 2) (s : State) : Answers (execHeadLoadDone head s) := by
  unfold execHeadLoadDone
  dsimp only
  (repeat' split) <;> exact answers_next

theorem answers_execModelVerifyDone (slot : BitVec 3) (s : State) : Answers (execModelVerifyDone slot s) := by
  unfold execModelVerifyDone
  dsimp only
  (repeat' split) <;> exact answers_next

theorem answers_execFwImageVerified (s : State) : Answers (execFwImageVerified s) := by
  unfold execFwImageVerified
  dsimp only
  (repeat' split) <;> exact answers_next

/-! ### All rows -/

/-- Every row but DBG_ACCESS answers a next state: after a look into a list or an option, behind one guard or more, or at once. -/
theorem answers_exec (c : Instr) (s : State) (hc : ∀ tdi, c ≠ .dbgAccess tdi) : Answers (exec c s) := by
  cases c with
  | dbgAccess tdi => exact absurd rfl (hc tdi)
  | fragmentTimeout tag => exact answers_execFragmentTimeout tag s
  | streamStartInstant => exact answers_execStreamStartInstant s
  | watchThresholdFire channel samples => exact answers_execWatchThresholdFire channel samples s
  | wakeComplete => exact answers_execWakeComplete s
  | autoSleepDwellExpiry => exact answers_execAutoSleepDwellExpiry s
  | sleepEntryStart => exact answers_execSleepEntryStart s
  | sleepEntryComplete us => exact answers_execSleepEntryComplete us s
  | domainSwitchDone us va30 milli => exact answers_execDomainSwitchDone us va30 milli s
  | calBurstComplete channel raws step lead drive sense => exact answers_execCalBurstComplete channel raws step lead drive sense s
  | frameClose stream => exact answers_execFrameClose stream s
  | spiPoll port sensor reply => exact answers_execSpiPoll port sensor reply s
  | pairPartnerTimeout pair => exact answers_execPairPartnerTimeout pair s
  | leadMeasureDone picovolts => exact answers_execLeadMeasureDone picovolts s
  | featureFrameTake => exact answers_execFeatureFrameTake s
  | featureQueueRoute => exact answers_execFeatureQueueRoute s
  | jobStart => exact answers_execJobStart s
  | cimPassDone core parityOk => exact answers_execCimPassDone core parityOk s
  | streamLayerDone => exact answers_execStreamLayerDone s
  | vectorLayerDone => exact answers_execVectorLayerDone s
  | protoForwardDone => exact answers_execProtoForwardDone s
  | assetUpdate => exact answers_execAssetUpdate s
  | learningStep head => exact answers_execLearningStep head s
  | rewardUpdate head => exact answers_execRewardUpdate head s
  | headSaveCommit head => exact answers_execHeadSaveCommit head s
  | consolidationInForce head => exact answers_execConsolidationInForce head s
  | arrayWriteDone array stuck residual outside bad => exact answers_execArrayWriteDone array stuck residual outside bad s
  | clipWindowEnd array => exact answers_execClipWindowEnd array s
  | nvmOperationStart => exact answers_execNvmOperationStart s
  | nvmEraseDone ok us => exact answers_execNvmEraseDone ok us s
  | codeGroupSyncAcquired port lane => exact answers_execCodeGroupSyncAcquired port lane s
  | headLoadDone head => exact answers_execHeadLoadDone head s
  | modelVerifyDone slot => exact answers_execModelVerifyDone slot s
  | fwImageVerified => exact answers_execFwImageVerified s
  | clearStatus _ _ | sessionIdleTimeout _ | powerOnReset _ | brownoutDetect _ | powerOff | resetPinAssert | resetTakeEffect
  | watchdogExpiry | erasePendingComplete | deviceReady | bootGuardExpiry | holdupHoldEnd | xo32QualifyInterval _ | xo32EdgeLoss
  | xo32Retry | xo32Absent | xo24Qualified _ | xo24Retry | xo24Stopped | pllLocked _ | tickAlarmFire | wakeNLow | ropeSquelchWake
  | anchorTempSample _ | domainIdleRelease _ | fabricTransaction _ _ | excLimitEngaged _ | excLimitReleased _ | sportLost _
  | spliceMark _ _ | encoderSlip | encoderRestored | stopDwellEnd | motionDwellEnd | rearmTimerEnd | settlePeriodEnd _
  | holdoffPeriodEnd _ | wearHourlyAccrual | wearDayBoundary | cairnCommit _ | trngHealthFail _ | trngRetry _ | tapReset
  | bypass _ _ | idcode _ | samplePreload _ _ | extest _ _ | train _ _ _ _ _ _ | trainAck _ _ | laneSyncLoss _ _
  | squelchSilence _ | enumStart | noEnumTimeout | heartbeatSend | heartbeatLoss | wakeBurstTimeout _ | circulationRoundStart _
  | ackTimer _ | vcoreBuckInRegulation =>
    exact answers_either
  | controlCoreException _ | firmwareRestartDone | bootRomStart _ _ | vholdThreshold _ | pllLockLoss _ | governorSample _ _ _
  | tachEdge _ _ _ _ | tachIdle _ | encEdge _ _ _ _ | encIdle | confirmWindowEnd | fullSelftest _ _ _ _ | highz _ _ | clamp _ _
  | dbgChal _ | dbgOpen _ | credit _ _ _ _ _ | va30OutOfRegulation _ =>
    exact answers_ite answers_next answers_either
  | invalidTransportOpcode _ _ | authComplete | xo24QualifyTimeout | coastTimerEnd | trainingAttemptTimeout _ =>
    exact answers_ite answers_next (answers_ite answers_next answers_either)
  | frameStart _ | tdmFrameSync _ _ _ _ _ =>
    exact answers_ite answers_next (answers_ite answers_either answers_next)
  | sampleArrival _ _ _ _ _ | recalibration _ _ _ _ | quickSelftest _ _ =>
    exact answers_ite answers_next (answers_ite answers_either answers_either)
  | _ => exact answers_next

/-- DBG_ACCESS stops only where it meets open debug. -/
theorem exec_dbgAccess (tdi : List Bool) (s : State) :
    exec (.dbgAccess tdi) s = if tapUp s = true ∧ s.own.debugOpen = true then .refused .debugAccess
      else .next (if tapUp s then scan 0x12 (List.replicate 96 false) tdi s else s) := by
  show execDbgAccess tdi s = _
  unfold execDbgAccess
  cases tapUp s <;> cases s.own.debugOpen <;> rfl

/-- Settles O4: by the shapes of the rows, and by DBG_ACCESS's two outcomes. -/
theorem onlyDebugRefuses : Obligations.OnlyDebugRefuses := by
  intro c s
  by_cases hc : ∃ tdi, c = .dbgAccess tdi
  · obtain ⟨tdi, rfl⟩ := hc
    by_cases hopen : tapUp s = true ∧ s.own.debugOpen = true
    · exact .inr ⟨tdi, rfl, hopen.1, hopen.2, by rw [exec_dbgAccess, if_pos hopen]⟩
    · exact .inl ⟨_, by rw [exec_dbgAccess, if_neg hopen]⟩
  · exact .inl (answers_exec c s fun tdi h => hc ⟨tdi, h⟩)

end Sys2Proof.Machine

/-! PROOFS. The order of an array's write is a permutation (R383). -/

namespace Sys2Proof.Machine

open List (range)

/-! ### The shuffle -/

/-- A step of the shuffle exchanges two places. -/
theorem setIfInBounds_exchange {v : Array Nat} {i j : Nat} (hi : i < v.size) (hj : j < v.size) :
    (v.setIfInBounds i (v.getD j 0)).setIfInBounds j (v.getD i 0) = v.swap i j := by
  rw [Array.swap_def]
  simp only [Array.setIfInBounds, Array.getD, hi, hj, Array.size_set, dif_pos]
  rfl

theorem shuffle_perm (xs stream : List Nat) : (shuffle xs stream).Perm xs := by
  suffices h : ∀ l : List Nat, (∀ k ∈ l, k < xs.length - 1) → ((l.foldl (fun (v : Array Nat) k =>
      let i := xs.length - 1 - k
      let j := stream.getD k 0 % (i + 1)
      (v.setIfInBounds i (v.getD j 0)).setIfInBounds j (v.getD i 0)) xs.toArray).Perm xs.toArray) from
    Array.perm_iff_toList_perm.1 (h (range (xs.length - 1)) fun k hk => List.mem_range.1 hk)
  intro l hl
  refine List.foldlRecOn (motive := fun v : Array Nat => v.Perm xs.toArray) l _ (.refl _) fun v hv k hk => ?_
  have hsize : v.size = xs.length := hv.size_eq
  have hlt : k < xs.length - 1 := hl k hk
  have hi : xs.length - 1 - k < v.size := by omega
  have hj : stream.getD k 0 % (xs.length - 1 - k + 1) < v.size :=
    Nat.lt_of_le_of_lt (Nat.le_of_lt_succ (Nat.mod_lt _ (Nat.succ_pos _))) hi
  show ((v.setIfInBounds _ (v.getD _ 0)).setIfInBounds _ (v.getD _ 0)).Perm xs.toArray
  rw [setIfInBounds_exchange hi hj]
  exact (Array.swap_perm hi hj).trans hv

/-! ### Rows by groups -/

/-- The groups one after another are the range they divide. -/
theorem flatMap_groups (group n : Nat) : ((range n).flatMap fun k => (range group).map (group * k + ·)) = range (group * n) := by
  induction n with
  | zero => rfl
  | succ n ih => rw [List.range_succ, List.flatMap_append, ih, List.flatMap_singleton, Nat.mul_succ, List.range_add]

/-- A permutation of numbers below `n`, read place by place. -/
theorem map_getD_range {l : List Nat} {n : Nat} (hl : l.length = n) : (range n).map (l.getD · 0) = l := by
  refine List.ext_getElem (by simp [hl]) fun i hi hi' => ?_
  simp [hi']

/-- Groups in some order, and each group's rows in some order, are all the rows. -/
theorem flatMap_perm {group n : Nat} {groups : List Nat} {inner : Nat → List Nat} (hgroups : groups.Perm (range n))
    (hinner : ∀ k, (inner k).Perm (range group)) :
    ((range n).flatMap fun k => (inner k).map fun i => group * groups.getD k 0 + i).Perm (range (group * n)) := by
  have hlength : groups.length = n := by rw [hgroups.length_eq, List.length_range]
  calc ((range n).flatMap fun k => (inner k).map fun i => group * groups.getD k 0 + i)
      |>.Perm ((range n).flatMap fun k => (range group).map (group * groups.getD k 0 + ·)) :=
        List.Perm.flatMap_left _ fun k _ => (hinner k).map _
    _ = (groups.flatMap fun g => (range group).map (group * g + ·)) := by
        rw [← List.flatMap_map (groups.getD · 0) fun g => (range group).map (group * g + ·), map_getD_range hlength]
    _ |>.Perm ((range n).flatMap fun g => (range group).map (group * g + ·)) := hgroups.flatMap_right _
    _ = range (group * n) := flatMap_groups group n

/-- Place `r` among lists of one length, one after another. -/
theorem flatMap_getElem? {group n : Nat} {f : Nat → List Nat} (hf : ∀ k, (f k).length = group) {r : Nat} (hr : r < n * group) :
    ((range n).flatMap f)[r]? = (f (r / group))[r % group]? := by
  have hlength (m : Nat) : ((range m).flatMap f).length = m * group := by
    simp [List.length_flatMap, hf]
  induction n with
  | zero => omega
  | succ n ih =>
    rw [List.range_succ, List.flatMap_append, List.flatMap_singleton]
    by_cases hlt : r < n * group
    · rw [List.getElem?_append_left (by rw [hlength]; exact hlt), ih hlt]
    · have hdiv : r / group = n := Nat.div_eq_of_lt_le (Nat.le_of_not_lt hlt) hr
      rw [List.getElem?_append_right (by rw [hlength]; omega), hlength, hdiv, ← hdiv]
      congr 1
      rw [Nat.mod_def, hdiv, Nat.mul_comm]

/-- The row at a place lies in the group drawn for the place's group. -/
theorem flatMap_div {group n : Nat} {groups : List Nat} {inner : Nat → List Nat} (hinner : ∀ k, (inner k).Perm (range group))
    {r : Nat} (hr : r < n * group) :
    ((range n).flatMap fun k => (inner k).map fun i => group * groups.getD k 0 + i).getD r 0 / group = groups.getD (r / group) 0 := by
  have hpos : 0 < group := Nat.pos_of_ne_zero (by rintro rfl; omega)
  have hlength (k : Nat) : (inner k).length = group := by rw [(hinner k).length_eq, List.length_range]
  have hmod : r % group < (inner (r / group)).length := by rw [hlength]; exact Nat.mod_lt _ hpos
  have hlt : (inner (r / group))[r % group] < group := List.mem_range.1 ((hinner _).mem_iff.1 (List.getElem_mem hmod))
  rw [List.getD_eq_getElem?_getD, flatMap_getElem? (by simp [hlength]) hr, List.getElem?_map, List.getElem?_eq_getElem hmod]
  show (group * groups.getD (r / group) 0 + _) / group = _
  rw [Nat.mul_add_div hpos, Nat.div_eq_of_lt hlt, Nat.add_zero]

/-- A permutation of the numbers below `n` tells its places apart. -/
theorem getD_inj_of_perm {l : List Nat} {n a b : Nat} (hl : l.Perm (range n)) (ha : a < n) (hb : b < n) :
    l.getD a 0 = l.getD b 0 ↔ a = b := by
  have hlength : l.length = n := by rw [hl.length_eq, List.length_range]
  rw [List.getD_eq_getElem _ _ (hlength.symm ▸ ha), List.getD_eq_getElem _ _ (hlength.symm ▸ hb)]
  exact (hl.nodup_iff.2 List.nodup_range).getElem_inj_iff

theorem drawOrder_cols (pk : BitVec 256) (array count group : Nat) :
    ∃ words, (drawOrder pk array count group).cols = shuffle (range 256) words := by
  simp only [drawOrder]
  exact ⟨_, rfl⟩

/-- The rows of an order: groups in some order, and the rows of each in some order. -/
theorem drawOrder_rows (pk : BitVec 256) (array count group : Nat) :
    ∃ (groups : List Nat) (inner : Nat → List Nat), groups.Perm (range (256 / group)) ∧ (∀ k, (inner k).Perm (range group))
      ∧ (drawOrder pk array count group).rows
        = (range (256 / group)).flatMap fun k => (inner k).map fun i => group * groups.getD k 0 + i :=
  ⟨_, fun _ => _, shuffle_perm .., fun _ => shuffle_perm .., rfl⟩

/-- Settles O60: the columns are shuffled, the row groups are, and the rows in each group are. -/
theorem ordersPermute : Obligations.OrdersPermute := by
  intro pk array count group hdvd o
  have hwhole : group * (256 / group) = 256 := Nat.mul_div_cancel' hdvd
  obtain ⟨words, hcols⟩ := drawOrder_cols pk array count group
  obtain ⟨groups, inner, hgroups, hinner, hrows⟩ := drawOrder_rows pk array count group
  have hperm : o.rows.Perm (range (group * (256 / group))) := hrows ▸ flatMap_perm hgroups hinner
  have hdiv {r : Nat} (hr : r < 256) : o.rows.getD r 0 / group = groups.getD (r / group) 0 :=
    hrows ▸ flatMap_div hinner (by rwa [Nat.mul_comm, hwhole])
  refine ⟨hcols ▸ shuffle_perm _ words, by rwa [hwhole] at hperm, fun r q hr hq => ?_⟩
  rw [hdiv hr, hdiv hq]
  exact getD_inj_of_perm hgroups (Nat.div_lt_of_lt_mul (by rwa [hwhole])) (Nat.div_lt_of_lt_mul (by rwa [hwhole]))

end Sys2Proof.Machine
